-- ==== Sys2Proof/Word.lean ====
section
/-! DEFINITION. The word types of the block: 8-bit bytes, 32-bit registers, 64-bit addresses. -/

namespace Sys2Proof

/-- A byte. -/
abbrev Byte := BitVec 8

/-- A register (R30). -/
abbrev Word := BitVec 32

/-- A flash address word (R55) or a host address. -/
abbrev Addr := BitVec 64

/-- A 64-byte submission entry or push packet (R54), byte `i` in bits `8*i+7 : 8*i`. -/
abbrev Packet := BitVec 512

end Sys2Proof
end

