-- ==== Sys2Proof/Syntax.lean ====
section
/-! DEFINITION. The commands of the block: one constructor of `Instr` per row of the table of operations
and events, with the operands that its surroundings or its own engines give the step. -/

namespace Sys2Proof

/-- The target of an inbound memory request (R337): an address, which the function compares with its BAR registers; a byte
offset in a BAR, for a request that its address brings there; an address that hits no BAR; or a kind of request that the
function does not support. -/
inductive InTarget where
  | memory (addr : BitVec 64)
  | bar0 (off : Nat)
  | bar2 (off : Nat)
  | bar4 (off : Nat)
  | noBar
  | ioSpace
  | locked
  | atomic
  | vendorMsg
  deriving DecidableEq, Repr

/-- Completion status of a non-posted request (R347). -/
inductive CplStatus where
  | success
  | unsupportedRequest
  | completerAbort
  deriving DecidableEq, Repr

/-- The integrator's tie-offs (R333, R515). -/
structure TieOffs where
  vendorId : BitVec 16
  deviceId : BitVec 16
  revId : BitVec 8
  classCode : BitVec 24
  subVendorId : BitVec 16
  subsysId : BitVec 16
  dsn : BitVec 64
  linkCap : BitVec 32
  keyHash : BitVec 384
  icTargets : Nat
  deriving DecidableEq, Repr

/-- What discovery (R122) reads from one chip enable that answered: the bytes that READ ID gives at addresses 0x20 and 0x40,
the redundant copies of its parameter page, in order, and the highest standard rate code that the page declares. -/
structure TargetReport where
  ce : Nat
  id20 : List Byte
  id40 : List Byte
  copies : List (List Byte)
  maxRate : Nat
  deriving DecidableEq, Repr

/-- What a training at one rate (R135) ends with: the narrowest eyes and the target that has the narrowest, the equaliser
and the trained codes where every step ran to its end, or the step and target that failed. -/
inductive TrainReport where
  | ok (readEye writeEye target eq : Nat) (vref : BitVec 7) (rdly wdly : List (BitVec 7))
  | fail (step target : Nat)
  | busy (target : Nat)
  deriving DecidableEq, Repr

/-- The result of an eye scan (R286) for one DQ of one target: bit `i` says whether position `i - 32` passed, in the read
and in the write direction. -/
structure EyeReport where
  target : Nat
  dq : Nat
  readPass : BitVec 64
  writePass : BitVec 64
  deriving DecidableEq, Repr

/-- The data FIFOs and the message FIFO of a channel (R210, R216). -/
inductive FifoId where
  | ingress
  | egress
  | message
  deriving DecidableEq, Repr

/-- A shared host-island path (R22). -/
inductive WheelPath where
  | pair (p : Nat)
  | crossbar
  | tables
  | records
  deriving DecidableEq, Repr

/-- What can wake the block from Lull (R380). -/
inductive WakeEvent where
  | source (n : Nat)
  | pin
  | access
  | fnReset
  deriving DecidableEq, Repr

/-- What one calibration run measures (R433): the codes found, or those of a saturated search, or the resistor and `CAL_VREF` of a
reference fault. -/
inductive CalReport where
  | codes (pu pd odt vref : BitVec 7)
  | referenceFault (ohms millivolts : Nat)
  | saturated (pu pd odt vref : BitVec 7)
  deriving DecidableEq, Repr

/-- What a self-test finds on one channel (R485); `failing` are the word addresses of failing frame words, `storeFail` says
that the store differs from the master. -/
structure TestOutcome where
  ch : Nat
  failing : List Nat
  codecFail : Bool
  trimFail : Bool
  loopbackFail : Bool
  storeFail : Bool
  skipped : Bool
  deriving DecidableEq, Repr

inductive Instr where
  /-- REGISTER_WRITE (R11). A write to a register field that has no row of its own takes effect by the field's type, or is
    ignored. -/
  | registerWrite (off : Nat) (val : Word)
  /-- MEMORY_WRITE (R341). An inbound posted memory write on stream pair 0 takes effect in arrival order at its BAR. -/
  | memoryWrite (dst : InTarget) (data : List Byte) (requester : BitVec 16) (poison : Bool)
  /-- MEMORY_READ (R341). An inbound memory read is completed after every earlier write has taken effect. -/
  | memoryRead (dst : InTarget) (len : Nat) (requester : BitVec 16) (tag : Nat)
  /-- CONFIG_REQUEST (R334). A configuration read or write reaches the type 0 header and capabilities, or gets retry status
    during a reset. -/
  | configRequest (off : Nat) (write : Option Word) (enables : BitVec 4) (requester : BitVec 16) (tag : Nat)
  /-- MALFORMED_TLP (R343). An inbound TLP that breaks the format rules, or a request on a pair other than 0, is dropped
    and recorded as fatal. -/
  | malformedTlp (pair : Nat)
  /-- HOST_READ_COMPLETION (R347). A completion for a non-posted request of the block arrives and its data or failure is passed to
    its user. -/
  | hostReadCompletion (tag : Nat) (status : CplStatus) (data : List Byte) (poison : Bool)
  /-- COMPLETION_TIMEOUT (R347). A non-posted request's completion fails to arrive within EP_CTO.timeout, so its user fails and
    source 833 is raised. -/
  | completionTimeout (tag : Nat)
  /-- UNEXPECTED_COMPLETION (R348). A completion whose tag matches no outstanding request is dropped, recorded as advisory and
    raises source 834. -/
  | unexpectedCompletion (tag : Nat)
  /-- ABANDONED_TAG_RELEASE (R358). Twice the completion timeout after a reset or timeout, the abandoned request tags return to
    use. -/
  | abandonedTagRelease (tag : Nat)
  /-- LINK_ERROR (R521). A pulse on an EP_LINK_ERR bit records one link error in its AER bit. -/
  | linkError (bit : Nat)
  /-- MGMT_ACCESS (R522). An access on the management port reaches BAR0, BAR2 or BAR4 and is acknowledged with data or an
    error. -/
  | mgmtAccess (bar : Nat) (addr : Nat) (eight : Bool) (wdata : Option (BitVec 64))
  /-- FUNCTION_LEVEL_RESET (R355). A write of Initiate Function Level Reset starts clearing the function while confirmed
    operations run on. -/
  | functionLevelReset
  /-- HOT_RESET (R519). An EP_HOT_RESET pulse or a fall of EP_LINK_UP starts a hot reset of the function. -/
  | hotReset (linkDown : Bool)
  /-- FUNCTION_READY (R477). A function-level or hot reset ends and the function answers requests normally again. -/
  | functionReady
  /-- FUNDAMENTAL_RESET (R475). BLK_RESET_N low for 1 µs or more resets every island except the Zephyr island. -/
  | fundamentalReset
  /-- FUNDAMENTAL_RESET_RELEASE (R476). The rise of BLK_RESET_N enables the PLLs and captures the tie-offs. -/
  | fundamentalResetRelease (ties : TieOffs)
  /-- HOST_PLL_LOCK (R476). The host-island PLL locks, HCLK starts and control RAM initialisation begins. -/
  | hostPllLock
  /-- CHANNEL_PLL_LOCK (R476). A channel PLL locks and its island leaves reset in UNCONFIGURED. -/
  | channelPllLock (ch : Nat)
  /-- CONTROL_RAM_INIT_END (R476). Control RAM initialisation ends after 65,536 cycles and the function becomes ready. -/
  | controlRamInitEnd
  /-- AON_RESET (R514). AON_RESET_N low resets the Zephyr island, zeroing DEVICE_TIME, emptying the bays and asserting
    write protection. -/
  | aonReset
  /-- QUEUE_CREATE (R40). A write of 1 to QC_CTRL.enable in DISABLED checks the context and makes the queue ACTIVE or
    records a cause. -/
  | queueCreate (q : Nat)
  /-- QUEUE_DELETE (R42). A write of 0 to QC_CTRL.enable in ACTIVE or FAULTED starts draining the queue and aborts its
    unconfirmed work. -/
  | queueDelete (q : Nat)
  /-- QUEUE_DRAIN_END (R42). A draining queue becomes DISABLED once no tag, slot or unwritten completion of it remains. -/
  | queueDrainEnd (q : Nat)
  /-- SQ_TAIL_DOORBELL (R46). A write to an SQ-tail doorbell makes new entries available or sets db_error. -/
  | sqTailDoorbell (q : Nat) (val : Word)
  /-- CQ_HEAD_DOORBELL (R61). A write to a CQ-head doorbell frees CQ entries or sets db_error. -/
  | cqHeadDoorbell (q : Nat) (val : Word)
  /-- SQ_FETCH (R47). The block issues a memory read of up to 64 SQ entries at priority 2. -/
  | sqFetch (q : Nat)
  /-- PUSH_WINDOW_WRITE (R48). A write to a push window slot records its bytes, or is dropped with push_overrun set. -/
  | pushWindowWrite (w : Nat) (off : Nat) (data : List Byte)
  /-- PACKET_PARSE (R56). In an arbitration turn the interpreter parses a packet, checks it and accepts it or completes
    it at once. -/
  | packetParse
  /-- COMPLETION_WRITE (R61). A committed completion is written to its CQ when the CQ has room, in commit order. -/
  | completionWrite (q : Nat)
  /-- COALESCING_TIMEOUT (R63). coal_time µs after the first unsignalled completion, the queue's MSI-X vector falls due. -/
  | coalescingTimeout (q : Nat)
  /-- MSIX_MESSAGE (R339). A due message for a vector is sent, or made pending while a holding condition stands. -/
  | msixMessage (v : Nat)
  /-- READ_PAGE (R83). A READ_PAGE packet reads, decodes and delivers one page, escalating through ladder, soft
    decoding and rebuild. -/
  | readPage (q : Nat)
  /-- READ_QUARTER (R83). A READ_QUARTER packet reads and decodes one quarter codeword of a quarter-layout page. -/
  | readQuarter (q : Nat)
  /-- READ_RAW (R85). A READ_RAW packet returns the raw cells of a page from a column without decoding. -/
  | readRaw (q : Nat)
  /-- READ_REBUILD (R88). A READ_REBUILD packet rebuilds the addressed page from the other members of its stripe. -/
  | readRebuild (q : Nat)
  /-- PROGRAM_PAGE (R91). A PROGRAM_PAGE packet fetches, randomises, encodes and programs one page. -/
  | programPage (q : Nat)
  /-- PROGRAM_RAW (R95). A PROGRAM_RAW packet programs raw bytes to a page without randomising or encoding. -/
  | programRaw (q : Nat)
  /-- REPROGRAM_HELD (R99). A REPROGRAM_HELD packet writes the content of a held frame to a new page on its channel. -/
  | reprogramHeld (q : Nat)
  /-- RELEASE_FRAME (R101). A RELEASE_FRAME packet frees a held frame once its forwarded reads have ended. -/
  | releaseFrame (q : Nat)
  /-- COPY_PAGE (R96). A COPY_PAGE packet reads and corrects a source page and programs it to a destination. -/
  | copyPage (q : Nat)
  /-- ERASE_BLOCK (R102). An ERASE_BLOCK packet erases a block and frees its open-block entry and frame bindings. -/
  | eraseBlock (q : Nat)
  /-- GET_FEATURE (R104). A GET_FEATURE packet reads four parameter bytes of a target feature into info. -/
  | getFeature (q : Nat)
  /-- SET_FEATURE (R104). A SET_FEATURE packet writes four parameter bytes to a feature not owned by the block. -/
  | setFeature (q : Nat)
  /-- READ_PARAMETER_PAGE (R105). A READ_PARAMETER_PAGE packet returns a copy of a target's parameter data with its CRC result. -/
  | readParameterPage (q : Nat)
  /-- RESET_TARGET (R106). A RESET_TARGET packet resets a target or LUN at the next safe point and restores the interface. -/
  | resetTarget (q : Nat)
  /-- ABORT (R65). An ABORT packet finds its target command and stops it if it is not yet committed. -/
  | abort (q : Nat)
  /-- FENCE (R70). A FENCE packet parks its queue until every earlier packet of the queue has committed. -/
  | fence (q : Nat)
  /-- FENCE_COMMIT (R70). A waiting FENCE commits SUCCESS once every earlier packet has committed, and parsing resumes. -/
  | fenceCommit (slot : Nat)
  /-- GET_DEFERRED (R109). A GET_DEFERRED packet writes stored deferred records, oldest first, to a host buffer. -/
  | getDeferred (q : Nat)
  /-- SURVEY (R110). A SURVEY packet starts a margin survey of its channel at once. -/
  | survey (q : Nat)
  /-- CALIBRATE (R111). A CALIBRATE packet calibrates the trim converters of its channel. -/
  | calibrate (q : Nat)
  /-- SELF_TEST_START_SHORT (R112). SELF_TEST with byte 48 = 0 starts the short self-test. -/
  | selfTestStartShort (q : Nat)
  /-- SELF_TEST_START_EXTENDED (R112). SELF_TEST with byte 48 = 1 starts the extended self-test. -/
  | selfTestStartExtended (q : Nat)
  /-- SELF_TEST_STOP (R488). SELF_TEST with byte 48 = 2 stops the running test within 100 µs. -/
  | selfTestStop (q : Nat)
  /-- RUN_ROUTINE (R113). A RUN_ROUTINE packet runs a callable microcode routine on its channel. -/
  | runRoutine (q : Nat)
  /-- STRIPE_PARITY_OPEN (R116). STRIPE_PARITY in open mode checks the descriptor and zeroes the accumulator frames. -/
  | stripeParityOpen (q : Nat)
  /-- STRIPE_PARITY_CLOSE (R118). STRIPE_PARITY in close mode waits for contributions and programs the P and Q pages. -/
  | stripeParityClose (q : Nat)
  /-- STRIPE_PARITY_DISCARD (R119). STRIPE_PARITY in discard mode releases an accumulator and its frames. -/
  | stripeParityDiscard (q : Nat)
  /-- SD_FETCH (R251). The block fetches a stripe descriptor at priority 3. -/
  | sdFetch (tag : Nat)
  /-- DATA_PHASE_START (R298). A packet data phase takes an idle packet DMA channel of its engine and starts. -/
  | dataPhaseStart (e : Nat)
  /-- DATA_PHASE_END (R298). A packet data phase ends, so the program data is in the frame or the read is delivered. -/
  | dataPhaseEnd (e : Nat) (c : Nat)
  /-- PROGRAM_STAGED (R229). Encoding of a program ends and its tag enters STAGED, committing on a staging-acknowledge
    queue. -/
  | programStaged (tag : Nat)
  /-- ACC_ADDITION_END (R255). A contributing program's payload has been xored into its accumulator's P and Q frames. -/
  | accAdditionEnd (acc : Nat)
  /-- ADMISSION_REQUEST (R411). A bus job that starts an array operation requests admission of its class from the governor. -/
  | admissionRequest (ch : Nat) (lun : Nat)
  /-- ADMISSION_GRANT (R411). A waiting admission request fits the budget and is granted, adding its charge to G. -/
  | admissionGrant
  /-- ADMISSION_AGE (R413). The oldest waiting non-read passes PE_AGE.age and reads are held back until it is granted. -/
  | admissionAge
  /-- ADMISSION_STALL (R414). A request waits longer than PE_AGE.stall and source 803 is raised. -/
  | admissionStall
  /-- PROGRAM_AGE_CLIMB (R145). A program or erase that has waited past age_limit climbs to order 5. -/
  | programAgeClimb (id : Nat)
  /-- LEVEL_SET (R263). The LEVEL_SET bus job applies a read's offsets to its LUN. -/
  | levelSet (ch : Nat)
  /-- READ_ISSUE (R143). The read command issue bus job starts an array read, combining multi-plane reads where allowed. -/
  | readIssue (ch : Nat)
  /-- DATA_OUT (R163). The data-out bus job moves a codeword or raw data from the die into a frame. -/
  | dataOut (ch : Nat) (data : List Byte)
  /-- STATUS_POLL (R148). The status poll bus job reads a LUN's status and ends, suspends or fails its array operation. -/
  | statusPoll (ch : Nat) (status : Byte)
  /-- RB_N_RISE (R526). A rise of FC<n>_RB_N makes a status poll of the target's busy LUN due. -/
  | rbNRise (ch : Nat) (target : Nat)
  /-- POLL_INTERVAL_EXPIRY (R148). Every poll_interval µs while both LUNs of a target are busy, a poll falls due. -/
  | pollIntervalExpiry (ch : Nat) (target : Nat)
  /-- HELD_LUN_POLL (R161). Every 100 µs a held LUN is polled. -/
  | heldLunPoll (ch : Nat) (lun : Nat)
  /-- SUSPEND_PROGRAM (R150). The suspend bus job suspends a confirmed program for reads or for hard cap. -/
  | suspendProgram (ch : Nat)
  /-- SUSPEND_ERASE (R150). The suspend bus job suspends a confirmed erase for reads or for hard cap. -/
  | suspendErase (ch : Nat)
  /-- RESUME (R152). The resume bus job resumes a suspended program or erase with a new grant. -/
  | resume (ch : Nat)
  /-- PROGRAM (R163). The program bus job moves the encoded page to the die and sends the confirm. -/
  | program (ch : Nat) (quarters : Nat)
  /-- PROGRAM_RESUME (R147). The program-resume bus job continues a paused data-in from the saved column. -/
  | programResume (ch : Nat) (quarters : Nat)
  /-- ERASE (R546). The erase bus job sends the erase set-up, row address and confirm. -/
  | erase (ch : Nat)
  /-- TARGET_RESET (R106). The target reset bus job resets a target or LUN at its safe point. -/
  | targetReset (ch : Nat)
  /-- FEATURE_ACCESS_JOB (R143). A feature access, parameter page read or RUN_ROUTINE bus job runs at order 9. -/
  | featureAccessJob (ch : Nat) (input : List Byte)
  /-- CONFIRM (R172). The CONFIRM message puts the job's tag in CONFIRMED and starts its ready timer. -/
  | confirm (ch : Nat) (id : Nat)
  /-- RESULT (R172). The RESULT message sets the tag's info word. -/
  | result (ch : Nat) (id : Nat) (word : Word)
  /-- FAIL (R172). The FAIL message reports that the tag's operation failed at the die. -/
  | fail (ch : Nat) (id : Nat) (status : Byte)
  /-- PAUSED (R178). The PAUSED message pauses the job and saves its resume column or re-queues it. -/
  | paused (ch : Nat) (id : Nat) (col : Nat)
  /-- SUSPENDED (R172). The SUSPENDED message marks the LUN's operation suspended and releases its grant. -/
  | suspended (ch : Nat) (lun : Nat)
  /-- PUSH (R216). The PUSH message enters a word in the channel's message FIFO. -/
  | push (ch : Nat) (entry : BitVec 6) (word : Word)
  /-- PUSH_END (R216). The PUSH_END message enters a word and closes the message packet. -/
  | pushEnd (ch : Nat) (entry : BitVec 6) (word : Word)
  /-- ILLEGAL_MICROWORD (R179). An illegal microword takes no action and faults its channel. -/
  | illegalMicroword (ch : Nat) (addr : BitVec 11)
  /-- DOLDRUMS_STALL_TIMEOUT (R159). The stall timer reaches DOLD_STALL.limit and the channel faults. -/
  | doldrumsStallTimeout (ch : Nat) (addr : BitVec 11)
  /-- READY_TIMEOUT (R160). A ready timer passes its limit, the tag commits TIMEOUT and the LUN is held. -/
  | readyTimeout (ch : Nat) (lun : Nat)
  /-- LUN_HOLD_CLEAR (R161). A write of 1 to a LUN_HOLD bit clears the hold of that LUN. -/
  | lunHoldClear (ch : Nat) (val : Word)
  /-- HARD_DECODE_END (R232). A hard decode run ends in success or failure, leading to completion, training or the next
    ladder attempt. -/
  | hardDecodeEnd (id : Nat)
  /-- SOFT_DECODE_END (R238). A soft decode run after an assist read ends in success, the next assist read, rebuild or
    failure. -/
  | softDecodeEnd (id : Nat)
  /-- REBUILD_ADDITION_END (R259). A decoded member's payload has been added into the rebuild's assembly frames. -/
  | rebuildAdditionEnd (id : Nat)
  /-- REBUILD_SOLVE_END (R259). The solve pass ends and the rebuilt payload is delivered. -/
  | rebuildSolveEnd (tag : Nat)
  /-- DISCOVER (R122). CHAN_CTRL.discover starts discovery of the targets on a fenced idle channel. -/
  | discover (ch : Nat)
  /-- DISCOVERY_END (R122). Discovery records the geometry and passes to bringing the channel to its rate. -/
  | discoveryEnd (ch : Nat) (found : List TargetReport)
  /-- SET_RATE (R132). CHAN_CTRL.set_rate changes a fenced channel to the requested mode and rate. -/
  | setRate (ch : Nat)
  /-- RETRAIN (R137). CHAN_CTRL.retrain retrains the channel at its present rate. -/
  | retrain (ch : Nat)
  /-- PLL_RELOCK (R16). A channel PLL locks at a new rate and the island leaves channel reset. -/
  | pllRelock (ch : Nat)
  /-- TRAINING_END (R136). Training succeeds and the channel runs, or fails and steps down the ladder. -/
  | trainingEnd (ch : Nat) (report : TrainReport)
  /-- STROBE_TRACKING_WINDOW (R139). At the end of each 256-clock window one trim or tracking step is applied. -/
  | strobeTrackingWindow (ch : Nat) (late : Option Bool)
  /-- OBT_HI_WRITE (R158). A write to OBT_HI writes an open-block entry together with its preceding OBT_LO write. -/
  | obtHiWrite (k : Nat) (val : Word)
  /-- FRAME_POOL_WRITE (R198). A write to FRAME_POOL.reserve withdraws or returns frames at the top of a channel's pool. -/
  | framePoolWrite (ch : Nat) (val : Word)
  /-- BAR4_WRITE (R207). A BAR4 write into an open frame is written directly or by read-modify-write. -/
  | bar4Write (off : Nat) (data : List Byte) (poison : Bool)
  /-- BAR4_READ (R206). A BAR4 read returns frame content as stored. -/
  | bar4Read (off : Nat) (len : Nat)
  /-- FIFO_POINTER_MISMATCH (R214). Disagreeing FIFO pointer copies reset the FIFO to empty and raise source 815. -/
  | fifoPointerMismatch (ch : Nat) (fifo : FifoId)
  /-- MSG_POP (R217). A write of MSG_CTRL.pop removes the head word of the message FIFO. -/
  | msgPop (ch : Nat)
  /-- MSG_DROP (R217). A write of MSG_CTRL.drop removes the rest of the head message packet. -/
  | msgDrop (ch : Nat)
  /-- INJECTION_ARM (R243). Writing ASKOR_INJ_CTRL.arm from 0 to 1 starts error injection on the selected path. -/
  | injectionArm (val : Word)
  /-- MC_OPEN (R185). MC_LOAD_CTRL.open puts the master image in LOADING. -/
  | mcOpen
  /-- MC_VERIFY (R187). MC_LOAD_CTRL.verify starts verification of the written master image. -/
  | mcVerify
  /-- VERIFY_END (R187). Verification ends VALID with source 824 or INVALID with its cause and source 825. -/
  | verifyEnd
  /-- LOAD_ALL (R190). MC_LOAD_CTRL.load_all loads every ready channel store from the master. -/
  | loadAll
  /-- MC_LOAD (R190). MC_CTRL.load copies the master into one channel's store. -/
  | mcLoad (ch : Nat)
  /-- CHANNEL_LOAD_END (R190). A store copy ends, START runs, source 826 is raised and a running channel retrains. -/
  | channelLoadEnd (ch : Nat)
  /-- STORE_REFRESH (R191). After an illegal-microword or stall fault the store is refreshed from the master, or waits for
    it. -/
  | storeRefresh (ch : Nat)
  /-- RLT_READ (R275). RLT_CMD op READ copies an entry into the view. -/
  | rltRead (index : Nat)
  /-- RLT_WRITE (R275). RLT_CMD op WRITE writes the view into an entry or is rejected. -/
  | rltWrite (index : Nat)
  /-- RLT_LOOKUP (R275). RLT_CMD op LOOKUP finds the view's key and copies the entry. -/
  | rltLookup
  /-- RLT_INSERT (R275). RLT_CMD op INSERT places the view in the key's set. -/
  | rltInsert
  /-- RLT_CLEAR_UNPINNED (R275). RLT_CMD op CLEAR_UNPINNED invalidates every unpinned entry. -/
  | rltClearUnpinned
  /-- RLT_CLEAR_ALL (R275). RLT_CMD op CLEAR_ALL invalidates every entry. -/
  | rltClearAll
  /-- RLT_CFG_WRITE (R276). A write to RLT_CFG that changes group_shift invalidates every entry. -/
  | rltCfgWrite (val : Word)
  /-- RLT_INIT_END (R277). The read-level table clear after fundamental reset ends and lookups proceed. -/
  | rltInitEnd
  /-- LEDGER_HI_WRITE (R283). A LEDGER_HI write writes a ledger entry together with its preceding LEDGER_LO write. -/
  | ledgerHiWrite (k : Nat) (val : Word)
  /-- ADV_POP (R282). ADV_CTRL.pop removes the head advisory. -/
  | advPop
  /-- SURVEY_DUE (R284). A channel's survey interval expires and the channel becomes due. -/
  | surveyDue (ch : Nat)
  /-- SURVEY_START (R285). A due channel starts its survey once it is running and a survey slot is free. -/
  | surveyStart
  /-- EYE_SCAN (R286). The eye scan bus work measures read and write eyes with the scan sampler. -/
  | eyeScan (ch : Nat) (report : List EyeReport)
  /-- SAMPLE_READ (R287). A survey sample read decodes a sample page at one shift. -/
  | sampleRead (ch : Nat) (data : List Byte)
  /-- RING_COUNT_END (R288). A 20 µs ring oscillator count ends and its slowdown is computed. -/
  | ringCountEnd (ch : Nat) (ring : Nat) (count : Nat)
  /-- PLAN_REWRITE (R290). Planning rewrites the channel's margin plan and raises source 851. -/
  | planRewrite (ch : Nat)
  /-- DMA_START (R302). DMA_CTRL.start starts a descriptor channel from its working descriptor or DMA_DESC. -/
  | dmaStart (e : Nat) (c : Nat)
  /-- DMA_STOP (R320). DMA_CTRL.stop ends the channel at the next descriptor boundary. -/
  | dmaStop (e : Nat) (c : Nat)
  /-- DMA_ABORT (R321). DMA_CTRL.abort ends the descriptor at the next burst boundary or at once from HALTED. -/
  | dmaAbort (e : Nat) (c : Nat)
  /-- DMA_RESUME (R323). DMA_CTRL.resume continues a halted channel by its halt status. -/
  | dmaResume (e : Nat) (c : Nat)
  /-- DESCRIPTOR_FETCH (R302). A channel loads the next descriptor, subject to the Eddy guard. -/
  | descriptorFetch (e : Nat) (c : Nat)
  /-- DMA_BURST (R310). A granted burst moves bytes between source and destination through the funnel. -/
  | dmaBurst (e : Nat) (c : Nat)
  /-- WHEEL_GRANT (R22). A shared host-island path grants its next slot to a waiting requester. -/
  | wheelGrant (path : WheelPath)
  /-- DESCRIPTOR_END (R317). A descriptor ends and its completion record is written or waits for ring room. -/
  | descriptorEnd (e : Nat) (c : Nat)
  /-- RECORD_WRITE (R318). A waiting completion record is written once RING_HEAD makes room. -/
  | recordWrite (e : Nat) (c : Nat)
  /-- DMA_TIMER_TICK (R315). An enabled interval timer ticks and adds a credit to its paced channels. -/
  | dmaTimerTick (e : Nat) (timer : Nat)
  /-- PACING_WITHDRAW (R316). DMA_PACE.withdraw or a mode change withdraws pacing credits. -/
  | pacingWithdraw (e : Nat) (c : Nat)
  /-- PACKET_CHANNELS_WRITE (R297). A write to DMA_ENG_CFG.packet_channels is taken only while the engine is idle. -/
  | packetChannelsWrite (e : Nat) (val : Word)
  /-- RING_HEAD_WRITE (R318). A write to RING_HEAD frees ring records or sets req_error. -/
  | ringHeadWrite (k : Nat) (val : Word)
  /-- RING_ENABLE (R318). A write to RING_CFG.enable enables a ring or disables it when no channel waits. -/
  | ringEnable (k : Nat) (val : Word)
  /-- DMA_OFFLINE_WRITE (R491). A DMA_OFFLINE write takes a packet channel offline or back to packet service. -/
  | dmaOfflineWrite (e : Nat) (hi : Bool) (val : Word)
  /-- CARRY_POP (R359). CARRY_CTRL.pop removes the head entry of the carry-over log. -/
  | carryPop
  /-- SOURCE_EDGE (R364). A rising edge of a source input sets its pending bit, counted by the Squall limiter. -/
  | sourceEdge (source : Nat)
  /-- SQUALL_WINDOW_END (R367). A Squall window ends and the event counts restart. -/
  | squallWindowEnd
  /-- SRC_PEND_SET (R365). A write of 1 to SRC_PEND_SET sets a source's pending bit as an edge would. -/
  | srcPendSet (w : Nat) (val : Word)
  /-- SRC_PEND_CLR (R366). A write of 1 to SRC_PEND_CLR clears a pending bit. -/
  | srcPendClr (w : Nat) (val : Word)
  /-- SRC_MASK_WRITE (R368). A write to SRC_MASK masks or unmasks sources and moves the lines. -/
  | srcMaskWrite (w : Nat) (val : Word)
  /-- CLAIM (R370). A read of CLAIM returns and takes the best deliverable source, or the spurious value. -/
  | claim (target : Nat) (fast : Bool)
  /-- COMPLETE (R371). A write to COMPLETE ends the handler of the source in service. -/
  | complete (target : Nat) (fast : Bool) (val : Word)
  /-- LULL_ENTER (R378). LULL_CTRL.enter starts Lull entry when the block is quiet. -/
  | lullEnter
  /-- LULL_ENTRY (R378). The channel and host clocks stop and the state becomes LULL. -/
  | lullEntry
  /-- WAKE (R380). A watched bay edge, the wake pin, an access or a reset starts a wake from Lull. -/
  | wake (event : WakeEvent)
  /-- LULL_WAKE (R381). 40 µs after the wake event the block is ready and held requests are served. -/
  | lullWake
  /-- PRESENCE_SEEN (R388). BAY_PRSNT_N sampled low in EMPTY moves the bay to DEBOUNCE. -/
  | presenceSeen (b : Nat)
  /-- DEBOUNCE_END (R388). Presence stable for 100 ms moves the bay to OFF and sets inserted. -/
  | debounceEnd (b : Nat)
  /-- PRESENCE_LOST (R388). Presence is lost and the bay becomes EMPTY, as a surprise removal when it was ON. -/
  | presenceLost (b : Nat)
  /-- POWER_ON (R390). BAY_CTRL.power_on switches an OFF bay on, or makes it wait for a ramp slot. -/
  | powerOn (b : Nat)
  /-- RAMP_START (R389). A waiting bay enters RAMPING when a ramp slot frees. -/
  | rampStart (b : Nat)
  /-- POWER_OFF (R391). BAY_CTRL.power_off switches a quiet bay off. -/
  | powerOff (b : Nat)
  /-- CLEAR_FAULT (R392). BAY_CTRL.clear_fault moves a FAULT bay to OFF. -/
  | clearFault (b : Nat)
  /-- POWER_GOOD_STABLE (R388). Power good high for 10 µs moves a RAMPING bay to ON. -/
  | powerGoodStable (b : Nat)
  /-- PG_TIMEOUT (R388). A ramping bay that does not reach ON within pg_timeout enters FAULT. -/
  | pgTimeout (b : Nat)
  /-- POWER_LOST (R397). Power lost in ON starts a glitch window and faults the bay's channels. -/
  | powerLost (b : Nat)
  /-- GLITCH_WINDOW_END (R397). The glitch window ends with the bay still ON, or in FAULT. -/
  | glitchWindowEnd (b : Nat) (good : Bool)
  /-- ATTN_BUTTON_PRESS (R399). The attention button held low for 20 ms sets attn_request. -/
  | attnButtonPress (b : Nat)
  /-- PE_SAMPLE_EDGE (R405). An accepted PE_SAMPLE edge captures budget and sense, steps B and drives the model estimate. -/
  | peSampleEdge (budget : BitVec 24) (sense : BitVec 24)
  /-- PE_INTERNAL_TICK (R415). While strobes are lost, a tick every period µs steps B and runs the hard-cap pass. -/
  | peInternalTick
  /-- STROBE_LOST (R416). No edge is accepted for 3 periods and the lost cause holds. -/
  | strobeLost
  /-- PE_RESUME (R417). PE_CTRL.resume returns the governor from FALLBACK to FEEDBACK when the cause has cleared. -/
  | peResume (recent : Bool)
  /-- PE_WEIGHT_WRITE (R408). A write to PE_WEIGHT changes one class weight from the next cycle. -/
  | peWeightWrite (cls : Nat) (val : Word)
  /-- CAL_START (R432). CAL_CTRL.start queues a calibration of the channel. -/
  | calStart (ch : Nat) (apply : Bool)
  /-- CAL_UNIT_TAKE (R433). The calibration unit takes the next queued channel and settles its reference bus. -/
  | calUnitTake
  /-- CAL_RUN_END (R434). A calibration run ends and the calibration is accepted, fails, or runs again. -/
  | calRunEnd (report : CalReport)
  /-- TRIM_IMP_TGT_WRITE (R431). A write to TRIM_IMP_TGT sets the impedance and VREF targets. -/
  | trimImpTgtWrite (ch : Nat) (val : Word)
  /-- CORRECTED_WRITEBACK (R446). A corrected word is written back on the next idle port clock. -/
  | correctedWriteback (cls : Nat) (addr : Nat)
  /-- LOG_CLEAR (R447). MEM_CTRL.log_clear empties a class log. -/
  | logClear (cls : Nat)
  /-- FRAME_RETIRE (R450). A write to FRAME_RETIRE retires a frame now or when it is freed. -/
  | frameRetire (frame : Nat)
  /-- MEM_STG_INIT (R445). A write to MEM_STG_INIT starts staging initialisation of a channel. -/
  | memStgInit (ch : Nat)
  /-- STG_INIT_END (R445). Staging initialisation ends and source 813 is raised. -/
  | stgInitEnd (ch : Nat)
  /-- MEM_BIST (R451). A write to MEM_BIST starts a BIST run of a channel's staging. -/
  | memBist (ch : Nat)
  /-- BIST_END (R451). A BIST run ends, fills the remap table and raises sources 813 and 814. -/
  | bistEnd (ch : Nat) (failing : List Nat) (spares : List Nat)
  /-- RAW_READ (R449). DIAG_CTRL op 1 copies a stored word's raw bits into the diagnostic registers. -/
  | rawRead
  /-- RAW_WRITE (R449). DIAG_CTRL op 2 stores raw data and check bits into a word. -/
  | rawWrite
  /-- REPLAY_FAULT_REQUEST (R457). REPLAY_CTRL.fault faults a running channel with kind 5. -/
  | replayFaultRequest (ch : Nat)
  /-- CHANNEL_RESET_END (R458). After its reset count the faulted island leaves reset, restores registers and runs START. -/
  | channelResetEnd (ch : Nat)
  /-- READ_BACK (R464). A program that may have passed its confirm is read back and ends succeeded, reprogrammed or
    indeterminate. -/
  | readBack (id : Nat)
  /-- REPLAY_END (R458). No tag of the channel remains REPLAYING and replay ends. -/
  | replayEnd (ch : Nat)
  /-- CHAN_FENCE_SET (R481). A write to CHAN_FENCE_SET fences a channel. -/
  | chanFenceSet (ch : Nat)
  /-- CHAN_FENCE_CLR (R482). A write to CHAN_FENCE_CLR unfences a channel, or is refused. -/
  | chanFenceClr (ch : Nat)
  /-- WP_REL_SET (R479). A write to WP_REL_SET releases write protection of a running channel. -/
  | wpRelSet (ch : Nat)
  /-- WP_REL_CLR (R479). A write to WP_REL_CLR asserts write protection of a channel again. -/
  | wpRelClr (ch : Nat)
  /-- SELF_TEST_END (R489). A self-test ends with its result and raises source 856 or 857. -/
  | selfTestEnd (outcomes : List TestOutcome)
  /-- LOOPBACK (R485). The loopback bus job checks a pattern through the pad receivers. -/
  | loopback (ch : Nat) (captured : Bool)
  /-- TIME_SYNC (R498). A TIME_SYNC record is written every sync_interval µs. -/
  | timeSync
  /-- LOST (R503). Once two buffer entries are free after drops, a LOST record and a TIME_SYNC are written. -/
  | lost
  /-- TRC_POP (R502). A write to TRC_POP removes the head trace record. -/
  | trcPop
  /-- TRC_FLUSH (R505). TRC_CTRL.flush empties the trace buffer while tracing is disabled. -/
  | trcFlush
  /-- SNAPSHOT (R508). SNAP_CTRL.go captures and optionally clears a counter group into a snapshot bank. -/
  | snapshot (bank : Nat) (group : Nat) (clear : Bool)
  /-- DEVICE_TIME_LO_READ (R496). A 32-bit read of DEVICE_TIME low latches the high half into a shadow for that port. -/
  | deviceTimeLoRead (mgmt : Bool)
  /-- DEVICE_TIME_FOLLOWER_RELOAD (R19). A new Zephyr count crosses the join and reloads the host island's follower copy of DEVICE_TIME. -/
  | deviceTimeFollowerReload
  /-- DEBOUNCE_PRESENCE_HIGH (R388). BAY_PRSNT_N sampled high on any clock in DEBOUNCE returns the bay to EMPTY. -/
  | debouncePresenceHigh (b : Nat)
  /-- ATTN_BUTTON_RELEASE (R399). BAY_ATTN_BTN_N high on every Zephyr clock for 20 ms re-arms recognition of a further press. -/
  | attnButtonRelease (b : Nat)
  /-- WAKE_PIN_RELEASE (R531). WAKE_N sampled high on 2 consecutive REFCLK_AON edges re-arms the wake pin for a further
    assertion. -/
  | wakePinRelease
  /-- TRACE_PORT_SEND (R504). With port_en = 1 the trace port sends the head record in four beats on TRC_DATA and removes it
    from the buffer. -/
  | tracePortSend
  /-- SNAPSHOT_DONE (R508). A counter snapshot finishes and SNAP_STATUS.busy clears within 64 host-island cycles of the go
    write. -/
  | snapshotDone (bank : Nat)
  /-- LINK_UP (R519). EP_LINK_UP rises again, the block may present TLPs, and the hot reset's end is counted from
    this rise. -/
  | linkUp
  /-- AON_RESET_RELEASE (R475). AON_RESET_N rises and the Zephyr island leaves reset on its own clock, so DEVICE_TIME counts
    and bay sampling runs. -/
  | aonResetRelease
  /-- POWER_REMOVAL (R473). The block's supply is removed, so it drives nothing and its Zephyr island state is lost. -/
  | powerRemoval
  deriving DecidableEq, Repr

end Sys2Proof
end

