-- ==== Sys2Proof/Config.lean ====
section
/-! DEFINITION. What an implementation fixes and the spec does not give, and the free values: constants without a
body, so that no proof can see what they are. -/

namespace Sys2Proof

/-- A free byte (a value that the spec leaves undefined). -/
opaque Config.freeByte : Nat → BitVec 8

/-- A free 32-bit value. -/
opaque Config.freeWord : Nat → BitVec 32

/-- The choice among the columns of odd weight that the SEC-DED code of a staging word may have, as a key by which they sort
(R441 names the code and gives no matrix). -/
opaque Config.stagingKey : Nat → Nat

/-- The order of the slots of a wheel: the key by which slot `i` sorts (R22 gives the numbers of slots, not their
places). -/
opaque Config.wheelKey : Nat → Nat

/-- Row address byte `i` of an address word, in the order of bits that the target declares (R163: the spec names what it
holds and leaves the order to the target). -/
opaque Config.rowByte : BitVec 64 → Nat → BitVec 8

/-- The command byte that the image of a version word sends at entry `e`, where the spec leaves it to the image (R546). -/
opaque Config.imageCommand : BitVec 32 → Nat → BitVec 8

/-- The feature address of group `g` of read-level offsets (R546 names it and gives no value). -/
opaque Config.levelFeature : Nat → BitVec 8

/-- The start of the run that an eye takes where several runs of passing positions are the widest (R286 chooses none): an
index into them. -/
opaque Config.eyeRun : List Nat → Nat

/-- How an eye of all 64 positions reads in a field of six bits (R286, R295). -/
opaque Config.eyeField : Nat → BitVec 6

/-- How a slowdown below -32,768 reads in the low 15 bits of its signed field (R288, R295). -/
opaque Config.slowField : Int → BitVec 15

/-- The requester and completer ID of the function: the host's enumeration gives it (R330). -/
opaque Config.functionId : BitVec 16

/-- The lower-address field of a completion: low bits of the address that the request with this requester and tag gave. -/
opaque Config.lowerAddress : BitVec 16 → Nat → BitVec 7

/-- Argument word 0 of RESUME for an erase or a program (R180 names the operation kind and gives no code). -/
opaque Config.kindArgument : Bool → BitVec 32

/-- The block's value of a feature that it owns, by feature address, mode and rate: the four parameter bytes (R131). -/
opaque Config.ownFeature : BitVec 8 → Nat → Nat → BitVec 32

/-- Argument word 0 of a block entry whose layout the spec does not give, for a value of what it names (R180): DQ and
direction, offset set, pattern. -/
opaque Config.jobArgument : Nat → Nat → BitVec 32

/-- The bin of a successful hard decode with `c` corrected bits whose scaled capability is 0 (R242 divides by it). -/
opaque Config.zeroBin : Nat → Fin 8

end Sys2Proof
end

