-- ==== Sys2Proof/Machine/State.lean ====
section
/-! DEFINITION. The state of the block: every register (one raw register file with a table of resets, field types
and kept fields in `Machine/RegMap.lean`), every queue, table, buffer, counter and mode that the spec names, as plain
data, and the queue of the commands that wait. -/

namespace Sys2Proof.Machine
open Sys2Proof

/-- A sparse table: rising keys, no entry equal to what an unlisted key reads as. -/
abbrev SMap (α : Type) := List (Nat × α)

/-- The three builds (R2, R3). -/
inductive Build where
  | skn256
  | skn128
  | skn64
  deriving DecidableEq, Repr

/-- Queue states (R39, `QC_CTRL.state`). -/
inductive QState where
  | disabled
  | active
  | draining
  | faulted
  deriving DecidableEq, Repr

/-- Status codes of a completion (R80). -/
inductive Status where
  | success
  | successRetried
  | successSoft
  | successRebuilt
  | invalidOpcode
  | invalidField
  | pageOrderViolation
  | channelFenced
  | aborted
  | tooLate
  | notFound
  | uncorrectable
  | lunStatusFail
  | targetAbsent
  | outcomeIndeterminate
  | replayExhausted
  | timeout
  | hostAccessError
  | dataPoisoned
  deriving DecidableEq, Repr

/-- Opcodes (R76). -/
inductive Opcode where
  | readPage
  | readQuarter
  | readRaw
  | readRebuild
  | programPage
  | programRaw
  | reprogramHeld
  | releaseFrame
  | copyPage
  | eraseBlock
  | getFeature
  | setFeature
  | readParameterPage
  | resetTarget
  | abort
  | fence
  | getDeferred
  | survey
  | calibrate
  | selfTest
  | runRoutine
  | stripeParity
  deriving DecidableEq, Repr

/-- A committed completion that waits to be written to its CQ (R59, R61). -/
structure Completion where
  tag : Option Nat
  slot : Option Nat
  cid : BitVec 16
  status : Status
  info : Word
  replayed : Bool
  stagedAck : Bool
  forwarded : Bool
  veer : Nat
  assists : Nat
  hasData : Option Nat
  deriving DecidableEq, Repr

/-- What a queue pair holds besides its context registers (R39 to R63). `fetched` are the SQ entries fetched and not
yet parsed, `due` the committed completions in order of commit. -/
structure Queue where
  st : QState
  cause : Nat
  sqHead : Nat
  sqTail : Nat
  cqHead : Nat
  cqTail : Nat
  phase : Bool
  fetched : SMap Packet
  fetchNext : Nat
  due : List Completion
  discard : Bool
  unsignalled : Nat
  cfgSeen : Word
  extSeen : Word
  deriving DecidableEq, Repr

/-- A push slot (R49): the bytes written since the last capture, the data, and whether it holds a captured packet. -/
structure PushSlot where
  written : BitVec 64
  data : Packet
  captured : Bool
  deriving DecidableEq, Repr

/-- The arbiter (R52): the class being served, queue turns it has taken in this round, the queue whose turn runs,
the packets it has parsed in it and may parse in it, and the queue served last in each class. -/
structure Arbiter where
  cls : Nat
  turns : Nat
  turnQueue : Option Nat
  turnCount : Nat
  turnLimit : Nat
  last : SMap Nat
  deriving DecidableEq, Repr

/-- Tag states (R64). -/
inductive TagState where
  | free
  | queued
  | fetching
  | staged
  | issued
  | confirmed
  | decoding
  | delivering
  | completing
  | replaying
  deriving DecidableEq, Repr

/-- The phase of a REPLAYING tag (R461). -/
inductive ReplayPhase where
  | beforeConfirm
  | possiblySent
  | afterConfirm
  deriving DecidableEq, Repr

/-- A stripe descriptor (R249) as fetched: attribute bytes and member address words of the members in use. -/
structure Descriptor where
  format : Byte
  dataCount : Nat
  parityCount : Nat
  pageSize : Nat
  reservedAt : Option Nat
  attrs : List Byte
  members : List Addr
  deriving DecidableEq, Repr

/-- The outcome of a stripe member in a rebuild (R258). -/
inductive MemberOutcome where
  | running
  | decoded
  | added
  | failed
  | absent
  deriving DecidableEq, Repr

/-- A rebuild in progress (R258 to R261): the outcome of each member, the assembly frames and what they sum up; `wants` is
how many frames of its tag's channel it still waits for (R196, R259). -/
structure Rebuild where
  members : List MemberOutcome
  frameA : Option Nat
  frameB : Option Nat
  wants : Nat
  solving : Bool
  poisoned : Bool
  started : Bool
  sumP : List Byte
  sumQ : List Byte
  deriving DecidableEq, Repr

/-- A tag entry: the command's journal (R64, R68, R461). `stamp` is the order of allocation; `frame` the frame in use;
`ended` says that the operation has ended; `runOn` that it runs on after a function-level or hot reset, and
`dropped` that such a reset abandons it at its next safe point (R357); `rebind`
that a failed REPROGRAM_HELD waits to move its frame's binding (R100); `sdBytes` are the bytes of a stripe descriptor
fetched so far, `accLink` the accumulator that the program contributes to (R117), `ue` that the block met an
uncorrectable error in the entry (R448). `abortPending` says that the command is to stop at its next boundary, because
an ABORT, a deletion of its queue or a target reset asked for it (R42, R64, R106); `abortSlot` is the ABORT that waits on
it (R65). `payload` are the information bytes, by codeword, that a decode from a program's frame gave (R86, R99). -/
structure Tag where
  st : TagState
  committed : Bool
  sqid : Nat
  cid : BitVec 16
  opcode : Option Opcode
  packet : Packet
  frame : Option Nat
  forwarded : Bool
  fellBack : Bool
  stagedAck : Bool
  abortPending : Bool
  abortSlot : Option Nat
  replays : Nat
  phase : Option ReplayPhase
  reRun : Bool
  lastFault : Nat
  status : Status
  info : Word
  veer : Nat
  assists : Nat
  corrected : Nat
  stamp : Nat
  ended : Bool
  runOn : Bool
  dropped : Bool
  losses : Nat
  sd : Option Descriptor
  sdPending : Bool
  rebuild : Option Rebuild
  adding : Bool
  delivered : Nat
  dataPhase : Bool
  poisoned : Bool
  rebind : Bool
  result : Word
  sdBytes : List Byte
  accLink : Option Nat
  ue : Bool
  payload : List (List Byte)
  deriving DecidableEq, Repr

/-- A tagless slot (R57): ABORT, FENCE, GET_DEFERRED or SELF_TEST in progress. -/
structure Slot where
  sqid : Nat
  cid : BitVec 16
  opcode : Opcode
  packet : Packet
  stamp : Nat
  done : Bool
  deriving DecidableEq, Repr

/-- Kinds of flash work that the LUN scheduler holds. -/
inductive WorkKind where
  | read
  | program
  | erase
  | access
  | routine
  | reset
  deriving DecidableEq, Repr

/-- For whom a piece of flash work runs: its own tag, a rebuild, a COPY_PAGE source, a page of a STRIPE_PARITY close,
a survey sample (slot and shift), or a read back of a recovered program (R89, R97, R544, R287, R464). -/
inductive WorkRole where
  | own
  | member (i : Nat)
  | source
  | pPage
  | qPage
  | sample (slot : Nat) (shift : Int)
  | readBack
  deriving DecidableEq, Repr

/-- How far a piece of flash work has gone. -/
inductive WorkState where
  | waiting
  | running
  | arrayDone
  | paused
  | confirmed
  | decoding
  | soft
  | recover
  | ended
  deriving DecidableEq, Repr

/-- The admission of a work's next array operation (R149). -/
inductive Admission where
  | none
  | requested
  | granted
  deriving DecidableEq, Repr

/-- The fields of `ASKOR_CFG` and `ASKOR_LLR` that a decode run works with: those in force at its start (R248). `llr` are
the magnitudes of the assist read that a soft run follows. -/
structure DecodeCfg where
  zeros : Nat
  mag : Nat
  hardIter : Nat
  softIter : Nat
  llr : List Nat
  deriving DecidableEq, Repr

/-- One piece of flash work of a channel: a read with its attempt sequence (R266, R268), a program, an erase, a
feature access, a routine or a reset. `quarters` are the quarters of a quarter-layout read still
to move, `codes` those moved and not yet decoded, `failed` those that failed, `lostQuarter` says that one failed soft
decoding too, `wasRole` is what a program was before a read back, `mateOf` the read that it is combined with (R146).
`steps` is the number of Veer steps fixed at the lookup (R266), `infos` what a forwarded read's decode gave, `run` the
configuration of a decode run from a program's frame; `recovering` says that it has been recovered after a fault (R464). -/
structure Work where
  kind : WorkKind
  role : WorkRole
  wasRole : WorkRole
  ch : Nat
  lun : Nat
  addr : Addr
  tag : Option Nat
  frame : Option Nat
  stamp : Nat
  st : WorkState
  adm : Admission
  levelSet : Bool
  level : Nat
  pageSize : Nat
  pageType : Nat
  quarterLayout : Bool
  quarter : Option Nat
  quarters : List Nat
  failed : List Nat
  codes : List Nat
  lostQuarter : Bool
  mateOf : Option Nat
  raw : Bool
  column : Nat
  length : Nat
  base : List (BitVec 8)
  cold : Bool
  coldStep : Nat
  attempt : Nat
  lastAttempt : Nat
  limit : Nat
  noSoft : Bool
  assist : Nat
  corrected : Nat
  best : Status
  noSuspend : Bool
  climbed : Bool
  readsPast : Nat
  resumeCol : Nat
  sent : Bool
  recovering : Bool
  faults : Nat
  replay : Bool
  issued : Bool
  forward : Bool
  seedAddr : Addr
  poisoned : Bool
  steps : Nat
  infos : List (List Byte)
  run : Option DecodeCfg
  deriving DecidableEq, Repr

/-- Hard-cap handling of a suspended or running operation (R418, R419). -/
inductive CapState where
  | none
  | ordered
  | waiting
  | released
  deriving DecidableEq, Repr

/-- The array operation that runs, or is suspended, in a LUN. `works` is empty when the work that started it was
stopped and the array runs on (R176). `ranFrom` is the time of its confirm or its last resume (R150), `low` that its LUN
holds `RB_N` low, from its start or resume to the rise (R526);
`maySuspend` is the permission of `TGT_CFG` when it was issued (R142). -/
structure ArrayOp where
  kind : WorkKind
  works : List Nat
  suspended : Bool
  suspends : Nat
  suspending : Bool
  readsSince : Nat
  resumeNow : Bool
  cap : CapState
  ranFrom : Nat
  low : Bool
  timedOut : Bool
  maySuspend : Bool
  deriving DecidableEq, Repr

/-- A LUN (R120): its array operations (a suspended one below the one that runs), hold, due poll, and the read-level
offsets last applied (absent: unknown, R263). -/
structure Lun where
  op : Option ArrayOp
  parked : Option ArrayOp
  held : Bool
  pollDue : Bool
  offsets : Option (List (BitVec 8))
  deriving DecidableEq, Repr

/-- Channel states (R129, `CHAN_STATE.state`). -/
inductive ChanState where
  | reset
  | unconfigured
  | discovering
  | training
  | running
  | absent
  deriving DecidableEq, Repr

/-- Recovery steps of a fault (R458, R472). -/
inductive RecStep where
  | idle
  | stopping
  | reset
  | refreshWait
  | retrain
  | replay
  deriving DecidableEq, Repr

/-- Microcode store states (R188). -/
inductive StoreState where
  | empty
  | loading
  | loaded
  deriving DecidableEq, Repr

/-- A microcode image (R182): version word, word count, the entry table and the microwords that are not zero. -/
structure Image where
  version : Word
  count : Nat
  entries : SMap Word
  words : SMap (BitVec 160)
  deriving DecidableEq, Repr

/-- Why a channel trains (R122, R132, R137, R190, R459, R106). -/
inductive TrainWhy where
  | discovery
  | setRate
  | retrain
  | load
  | fault
  | targetReset (tag : Nat)
  deriving DecidableEq, Repr

/-- A word of the message FIFO with its tag (R216). -/
structure MsgWord where
  data : BitVec 128
  count : Nat
  entry : BitVec 6
  first : Bool
  last : Bool
  truncated : Bool
  deriving DecidableEq, Repr

/-- A word of a data FIFO (R211): up to 512 bits, its valid-byte mask and last flag. -/
structure FifoWord where
  data : BitVec 512
  mask : BitVec 64
  last : Bool
  deriving DecidableEq, Repr

/-- What the sequencer does with `RE` (R165). -/
inductive ReDrive where
  | idle
  | toggle
  | readCycle
  deriving DecidableEq, Repr

/-- What the sequencer does with `DQS` (R165). -/
inductive DqsDrive where
  | undriven
  | preamble
  | toggle
  | postamble
  deriving DecidableEq, Repr

/-- The pins of a channel's flash bus as its sequencer drives them (R165, R386): the target whose chip enable is low, the
levels of `CLE`, `ALE` and `WE_N`, `RE`, `DQS`, and the byte that the block drives on `DQ`. -/
structure Pins where
  ce : Option Nat
  cle : Bool
  ale : Bool
  weN : Bool
  re : ReDrive
  dqs : DqsDrive
  dq : Option Byte
  deriving DecidableEq, Repr

/-- A cycle of the flash bus (R163, R546): a latched command or address byte, bytes written to the die, bytes that the
die gave, or a status byte captured. -/
inductive BusCycle where
  | command (b : Byte)
  | address (b : Byte)
  | dataIn (l : List Byte)
  | dataOut (l : List Byte)
  | status (b : Byte)
  deriving DecidableEq, Repr

/-- The sequencer of a channel (R165 to R180): whether a bus job runs, the work and LUN that it is for, its entry and
argument words, the address of its microword and how far that microword has gone, return stack, counters, timers, status
register and column, the conditions 10 to 13 sampled last, the messages that it has emitted for its tag, the bytes pushed of
the open packet of the ingress FIFO, the packets closed before it, and the word being built, the bytes left in the egress
FIFO, what the die has given and not been taken, the pins, the bus cycles of the job, when it started, and how many channel
clocks its timers have counted. -/
structure Bus where
  running : Bool
  work : Option Nat
  lun : Nat
  entry : Nat
  args : List Word
  pc : Nat
  phase : Nat
  left : Nat
  readyWait : Bool
  stack : List Nat
  a : Nat
  b : Nat
  t0 : Nat
  t1 : Nat
  status : Nat
  column : Nat
  sampled : List Bool
  confirmed : Bool
  failed : Option Nat
  paused : Bool
  suspended : Bool
  captured : List Byte
  closed : List (List Byte)
  word : List Byte
  egress : List Byte
  input : List Byte
  pins : Pins
  cycles : List BusCycle
  since : Nat
  ran : Nat
  deriving DecidableEq, Repr

/-- The soft decoder's buffer (R236): the codeword's centre bits, the agreement count of every bit over the assist
reads that have passed, the bytes of the one in hand, and the
configuration of the run in progress (R248). -/
structure SoftBuf where
  work : Nat
  centre : List Bool
  agree : List Nat
  read : List Byte
  assists : Nat
  cfg : DecodeCfg
  deriving DecidableEq, Repr

/-- Calibration of a channel (R432 to R436). -/
inductive CalState where
  | idle
  | queued
  | running
  deriving DecidableEq, Repr

/-- The calibration of one channel in progress: apply, the tag of CALIBRATE, runs made, the previous run's codes, `CAL_CFG` at the
start of the run, and when its settle started. -/
structure Cal where
  st : CalState
  apply : Bool
  tag : Option Nat
  runs : Nat
  prev : Option (List (BitVec 7))
  cfg : Word
  since : Nat
  deriving DecidableEq, Repr

/-- Survey states (R295, `PLAN_STATUS.state`). -/
inductive SurveyState where
  | idle
  | waiting
  | eye
  | samples
  | rings
  | planning
  deriving DecidableEq, Repr

/-- A survey of a channel (R284 to R291): state, parts selected, the SURVEY tag, and the sample slot and shift that
are next, with the corrected bits and erasures of the shifts read, and the results that planning writes together. -/
structure Survey where
  st : SurveyState
  parts : BitVec 3
  tag : Option Nat
  slot : Nat
  shift : Int
  bits : List (Int × Nat)
  erased : Nat
  ring : Nat
  eyes : Option (List Nat)
  shifts : List Int
  counts : List Nat
  results : List (Nat × Int × Nat)
  again : List Nat
  due : Bool
  deriving DecidableEq, Repr

/-- A channel island and its host-side state. `inReset` holds while the island is in channel reset; `before` is the
state it returns to after a store load (R190). Converters 0 to 19 are PU, PD, ODT, VREF, RDLY0-7, WDLY0-7 (R426). `bus`
is its sequencer; `hard` the codewords, as work and quarter, in its hard decoder in the order in which their transfers
ended, with the configuration of the run of the first (R234, R248); `warm` the warm-up cycles that a target's die declares
for Gale rates (R133). `trainRate` and `trainMode` are what a training is for (R132). -/
structure Chan where
  st : ChanState
  before : ChanState
  mode : Nat
  rate : Nat
  present : BitVec 8
  fenced : Bool
  replaying : Bool
  inReset : Bool
  recStep : RecStep
  store : StoreState
  image : Option Image
  loadWhy : Option TrainWhy
  trainRate : Nat
  trainMode : Nat
  stdRate : Nat
  trainWhy : Option TrainWhy
  lastTag : Option Nat
  live : List (BitVec 7)
  target : List (BitVec 7)
  trimOrder : List Nat
  msgs : List MsgWord
  msgDrop : Bool
  msgOpen : Bool
  ingress : List FifoWord
  ingressWork : Option Nat
  egress : List FifoWord
  egressWork : Option Nat
  soft : Option SoftBuf
  bus : Bus
  hard : List (Nat × Nat)
  hardCfg : DecodeCfg
  warm : SMap Nat
  cal : Cal
  survey : Survey
  coldCounts : SMap Nat
  trainedOnce : Bool
  glitch : Bool
  deriving DecidableEq, Repr

/-- Frame states (R195). -/
inductive FrameState where
  | free
  | inUse
  | held
  | reserved
  | retired
  deriving DecidableEq, Repr

/-- A staging frame's state, binding (R201) and what its codeword is: the address whose seed it carries, level,
layout, page size, and the length of raw data. `freeing` says that its owner has ended and that it waits for the end of
the reads forwarded from it (R197). -/
structure Frame where
  st : FrameState
  bind : Option Addr
  bindStamp : Nat
  lastBind : Option Addr
  owner : Option Nat
  named : Option Nat
  staged : Bool
  level : Nat
  pageSize : Nat
  quarterLayout : Bool
  rawLen : Option Nat
  seedAddr : Addr
  retire : Bool
  freeing : Bool
  deriving DecidableEq, Repr

/-- A staging word: 256 data bits, the two copies of the poison bit, and the raw bits as a raw write left them when
they are not the code's (R441, R449). -/
structure FWord where
  data : BitVec 256
  poison0 : Bool
  poison1 : Bool
  raw : Option (BitVec 256 × BitVec 10)
  deriving DecidableEq, Repr

/-- Accumulator states (R257). -/
inductive AccState where
  | closed
  | opened
  | closing
  deriving DecidableEq, Repr

/-- A stripe accumulator (R115 to R119, R255 to R257). `adding` are the tags whose additions wait or run, in order. -/
structure Accumulator where
  st : AccState
  tainted : Bool
  desc : Option Descriptor
  pAddr : Addr
  qAddr : Addr
  count : Nat
  level : Nat
  pageSize : Nat
  sdPtr : Addr
  sqid : Nat
  used : BitVec 31
  contributed : BitVec 31
  pFrame : Option Nat
  qFrame : Option Nat
  adding : List Nat
  closeTag : Option Nat
  pDone : Bool
  qDone : Bool
  deriving DecidableEq, Repr

/-- An open-block entry (R154, R158) with the stamp of its last advance. -/
structure ObtEntry where
  valid : Bool
  plane : BitVec 2
  block : BitVec 20
  pointer : BitVec 16
  stamp : Nat
  deriving DecidableEq, Repr

/-- A read-level table entry (R265). -/
structure RltEntry where
  valid : Bool
  lun : BitVec 12
  group : BitVec 20
  pageType : BitVec 3
  slots : List (BitVec 8)
  trained : Bool
  pinned : Bool
  weak : Bool
  age : BitVec 24
  deriving DecidableEq, Repr

/-- A disturb ledger entry (R278). -/
structure LedgerEntry where
  valid : Bool
  advised : Bool
  inherited : Bool
  lun : BitVec 4
  plane : BitVec 2
  block : BitVec 20
  count : BitVec 32
  deriving DecidableEq, Repr

/-- A disturb advisory (R282). -/
structure Advisory where
  addr : Addr
  count : BitVec 32
  inherited : Bool
  deriving DecidableEq, Repr

/-- A deferred record (R468). -/
structure Deferred where
  addr : Addr
  cid : BitVec 16
  sqid : Nat
  status : Status
  opcode : Opcode
  frame : Nat
  info : Word
  replays : Nat
  fault : Nat
  time : Nat
  deriving DecidableEq, Repr

/-- A carry-over log entry (R359). -/
structure Carry where
  addr : Addr
  sqid : Nat
  cid : BitVec 16
  status : Status
  opcode : Opcode
  stagedAck : Bool
  tag : Nat
  info : Word
  deriving DecidableEq, Repr

/-- DMA channel states (R319). -/
inductive DmaState where
  | idle
  | running
  | waiting
  | held
  | halted
  deriving DecidableEq, Repr

/-- DMA status codes (R317). -/
inductive DmaStatus where
  | ok
  | aborted
  | hostError
  | chainLoop
  | listShort
  | format
  | frameDenied
  | dataPoisoned
  deriving DecidableEq, Repr

/-- A scatter-gather segment (R308). -/
structure Seg where
  addr : Addr
  len : Nat
  frame : Bool
  deriving DecidableEq, Repr

/-- A burst in progress (R310): stream position and length, the host reads still to issue as stream position, address
and length, the bytes gathered by stream position and which of them are poisoned (R325), and how many host reads are
outstanding. -/
structure Burst where
  pos : Nat
  len : Nat
  todo : List (Nat × Nat × Nat)
  bytes : SMap (List Byte)
  outstanding : Nat
  marks : SMap (List Bool)
  deriving DecidableEq, Repr

/-- A completion record that waits for ring room (R317, R318). -/
structure DmaRecord where
  desc : Addr
  bytes : Nat
  status : DmaStatus
  ended : Bool
  aborted : Bool
  fault : Addr
  deriving DecidableEq, Repr

/-- A DMA channel besides its registers (R302 to R328). `user` is the tag of a packet data phase; `loading` the address
of a descriptor to load, `listNext` of the next list entry to fetch; `prio` is the priority of the burst in progress
(R313). -/
structure DmaChan where
  st : DmaState
  heldFrom : DmaState
  loaded : Bool
  loading : Option Addr
  moved : Nat
  credits : Nat
  needCredit : Bool
  stop : Bool
  abort : Bool
  hops : Nat
  status : DmaStatus
  kind : Nat
  dir : Nat
  lastLoaded : Addr
  burst : Option Burst
  granted : Bool
  crossGrant : Bool
  poisoned : Bool
  record : Option DmaRecord
  user : Option Nat
  isMeta : Bool
  prio : Option Nat
  segs : List Seg
  listNext : Option Addr
  listEnd : Bool
  deriving DecidableEq, Repr

/-- A completion-record ring besides its registers (R318). -/
structure Ring where
  tail : Nat
  phase : Bool
  since : Nat
  deriving DecidableEq, Repr

/-- The user of an outstanding host-memory read (R347); `dropped` once nothing waits for its data. -/
inductive ReqUser where
  | sqFetch (q : Nat) (index : Nat) (count : Nat)
  | sdFetch (tag : Nat)
  | dmaData (g : Nat) (pos : Nat)
  | dmaDesc (g : Nat)
  | dmaList (g : Nat)
  | flush (v : Nat)
  | dropped
  deriving DecidableEq, Repr

/-- An outstanding non-posted request of the block, with the data of its completions so far and which of it is
poisoned. -/
structure Req where
  user : ReqUser
  pair : Nat
  addr : Addr
  len : Nat
  got : List Byte := []
  marks : List Bool := []
  deriving DecidableEq, Repr

/-- A request tag out of use: by a reset (completions dropped silently, R358) or by a timeout (R348). -/
structure Abandoned where
  silent : Bool
  deriving DecidableEq, Repr

/-- Completion status that the function returns for a host request. -/
inductive CplOut where
  | success
  | unsupportedRequest
  | completerAbort
  | configRetry
  deriving DecidableEq, Repr

/-- AER error messages (R346). -/
inductive ErrMsg where
  | cor
  | nonfatal
  | fatal
  deriving DecidableEq, Repr

/-- An outbound transaction layer packet (R330, R342). `part` is one of several completions of a read: the low bits of its
address, and how many bytes it and those after it return. -/
inductive Tlp where
  | memWrite (pair : Nat) (addr : Addr) (data : List Byte) (poison : Bool)
  | memRead (pair : Nat) (tag : Nat) (addr : Addr) (len : Nat)
  | completion (requester : BitVec 16) (tag : Nat) (status : CplOut) (data : List Byte) (poison : Bool)
  | part (requester : BitVec 16) (tag low left : Nat) (data : List Byte) (poison : Bool)
  | error (m : ErrMsg)
  | msix (pair : Nat) (vector : Nat) (addr : Addr) (data : Word)
  deriving DecidableEq, Repr

/-- The response of the last management access (R522). -/
structure MgmtResp where
  ack : Bool
  err : Bool
  rdata : BitVec 64
  deriving DecidableEq, Repr

/-- Function resets in progress (R354, R355). -/
inductive FnReset where
  | functionLevel
  | hot
  deriving DecidableEq, Repr

/-- The endpoint function: link, outstanding and abandoned requests, outbound packets in order of issue, management
response, pending MSI-X bits, vectors whose message has fallen due, messages that wait for flush reads (how many and on
which pair they leave), the pairs that carried what a vector's next or pending message counts (R62), the function reset in progress, the `DEVICE_TIME` shadows (R496), and the requests that the ports hold in Lull (R379). -/
structure Endpoint where
  linkUp : Bool
  fnReset : Option FnReset
  reqs : SMap Req
  abandoned : SMap Abandoned
  tx : List Tlp
  mgmt : MgmtResp
  pba : BitVec 2048
  due : List Nat
  flushes : SMap (Nat × Nat)
  carriers : SMap (BitVec 8)
  shadowHost : Option Word
  shadowMgmt : Option Word
  held : List Instr
  deriving DecidableEq, Repr

/-- Lull states (R384). -/
inductive LullState where
  | awake
  | entering
  | lull
  | waking
  deriving DecidableEq, Repr

/-- The interrupt controller besides its registers: pending bits, event counts of the Squall window, the source in
service per target and class (key 2*t + class), edges the Zephyr island holds, Lull and the wake pin. -/
structure Irq where
  pend : BitVec 1024
  counts : SMap Nat
  service : SMap Nat
  heldEdges : List Nat
  lull : LullState
  wakeAfter : Option WakeEvent
  pinArmed : Bool
  deriving DecidableEq, Repr

/-- Bay states (R387). -/
inductive BayState where
  | empty
  | debounce
  | off
  | ramping
  | on
  | fault
  deriving DecidableEq, Repr

/-- A bay besides its registers: state, waiting power-on, sampled inputs, glitch window, button re-armed. -/
structure Bay where
  st : BayState
  powerPending : Bool
  prsnt : Bool
  pwrGood : Bool
  btn : Bool
  glitch : Bool
  btnArmed : Bool
  deriving DecidableEq, Repr

/-- Governor states (R415). -/
inductive GovState where
  | start
  | feedback
  | fallback
  deriving DecidableEq, Repr

/-- A request for admission (R411). `work` is the work it is for; `release` marks a release of a hard-cap
suspension (R419). -/
structure PeReq where
  work : Nat
  cls : Nat
  planes : Nat
  release : Bool
  stamp : Nat
  deriving DecidableEq, Repr

/-- A grant held (R407): the work or, for an operation whose work has gone, the LUN it runs on. `atDie` says that the work
runs again and the operation that took the grant runs on at the die (R414, R465). -/
structure PeGrant where
  work : Nat
  lun : Nat
  charge : Nat
  stamp : Nat
  atDie : Bool := false
  deriving DecidableEq, Repr

/-- The power envelope governor besides its registers. -/
structure Governor where
  st : GovState
  budget : Nat
  target : Nat
  setpoint : Nat
  sense : Nat
  prevSense : Nat
  estimate : Nat
  haveEstimate : Bool
  inTol : Bool
  clamped : Bool
  cause : Nat
  frozen : Nat
  mismatch : Nat
  edgesInState : Nat
  lost : Bool
  lastEdge : Option Nat
  waiting : List PeReq
  grants : List PeGrant
  holdReads : Bool
  stallRaised : Bool
  passOrdered : Bool
  model : Nat
  deriving DecidableEq, Repr

/-- The calibration unit (R425): the channels queued, in order, and the one served. -/
structure CalUnit where
  queue : List Nat
  current : Option Nat
  deriving DecidableEq, Repr

/-- Raw bits that a raw write left in a byte-coded store (R449), by class and 4-byte group address. `met` says that the
interpreter has met their errors in the open-block table (R448). -/
structure RawGroup where
  data : BitVec 32
  check : BitVec 20
  met : Bool
  deriving DecidableEq, Repr

/-- Self-test (R485 to R489). -/
structure SelfTest where
  running : Bool
  extended : Bool
  stopping : Bool
  sawFrameFail : Bool
  outcomes : List TestOutcome
  deriving DecidableEq, Repr

/-- The Rinelle trace (R502, R503): records, oldest first, and the records dropped since the last LOST. -/
structure Trace where
  buf : List (BitVec 128)
  dropped : Nat
  port : List Word
  deriving DecidableEq, Repr

/-- The phases of the whole block: power, the two resets, the host clock, the ready of the tables and of the block, the cause
of the last reset, the ready of the read-level table, and the state of the master image. -/
structure Phases where
  powered : Bool
  aonReset : Bool
  blkReset : Bool
  hclk : Bool
  tablesReady : Bool
  ready : Bool
  resetCause : Nat
  rltReady : Bool
  master : Nat
  deriving DecidableEq, Repr

/-- The codeword-altering generator of the checker test mode (R243). -/
structure Injector where
  gen : BitVec 31
  left : Nat
  deriving DecidableEq, Repr

/-- The state of the block. -/
structure State where
  pending : List Instr
  build : Build
  ties : TieOffs
  ph : Phases
  regs : SMap Word
  cfg : SMap Word
  ep : Endpoint
  queues : SMap Queue
  push : SMap PushSlot
  arb : Arbiter
  tags : SMap Tag
  slots : SMap Slot
  works : SMap Work
  luns : SMap Lun
  chans : SMap Chan
  frames : SMap Frame
  words : SMap FWord
  spares : SMap FWord
  accs : SMap Accumulator
  obt : SMap ObtEntry
  obtLo : SMap Word
  obtDoomed : List Nat
  rlt : SMap RltEntry
  ledger : SMap LedgerEntry
  ledgerLo : SMap Word
  adv : List Advisory
  deferred : List Deferred
  carry : List Carry
  dma : SMap DmaChan
  rings : SMap Ring
  wheels : SMap Nat
  irq : Irq
  bays : SMap Bay
  gov : Governor
  calUnit : CalUnit
  rawGroups : SMap RawGroup
  writeBacks : List (Nat × Nat)
  test : SelfTest
  inj : Injector
  trace : Trace
  counters : SMap (BitVec 48)
  saturated : List Nat
  deviceTime : BitVec 64
  follower : BitVec 64
  stamp : Nat
  nextWork : Nat
  fresh : Nat
  deriving DecidableEq, Repr

/-- The tie-offs before any release of `BLK_RESET_N` has captured them. -/
def TieOffs.none : TieOffs :=
  { vendorId := 0, deviceId := 0, revId := 0, classCode := 0, subVendorId := 0, subsysId := 0, dsn := 0,
    linkCap := 0, keyHash := 0, icTargets := 0 }

/-- The block with its power just applied: `AON_RESET_N` and `BLK_RESET_N` are low, every register reads its reset
value, every table and buffer is empty, and no command waits (R475, R514). -/
def State.reset : State :=
  { pending := []
    build := .skn256
    ties := TieOffs.none
    ph := { powered := true, aonReset := true, blkReset := true, hclk := false, tablesReady := false, ready := false,
            resetCause := 1, rltReady := false, master := 0 }
    regs := []
    cfg := []
    ep := { linkUp := false, fnReset := none, reqs := [], abandoned := [], tx := [],
            mgmt := { ack := false, err := false, rdata := 0 }, pba := 0, due := [], flushes := [], carriers := [],
            shadowHost := none, shadowMgmt := none, held := [] }
    queues := []
    push := []
    arb := { cls := 3, turns := 0, turnQueue := none, turnCount := 0, turnLimit := 0, last := [] }
    tags := []
    slots := []
    works := []
    luns := []
    chans := []
    frames := []
    words := []
    spares := []
    accs := []
    obt := []
    obtLo := []
    obtDoomed := []
    rlt := []
    ledger := []
    ledgerLo := []
    adv := []
    deferred := []
    carry := []
    dma := []
    rings := []
    wheels := []
    irq := { pend := 0, counts := [], service := [], heldEdges := [], lull := .awake, wakeAfter := none,
             pinArmed := true }
    bays := []
    gov := { st := .start, budget := 20000, target := 20000, setpoint := 0, sense := 0, prevSense := 0, estimate := 0,
             haveEstimate := false, inTol := false, clamped := false, cause := 0, frozen := 0, mismatch := 0,
             edgesInState := 0, lost := false, lastEdge := none, waiting := [], grants := [], holdReads := false, stallRaised := false,
             passOrdered := false, model := 0 }
    calUnit := { queue := [], current := none }
    rawGroups := []
    writeBacks := []
    test := { running := false, extended := false, stopping := false, sawFrameFail := false, outcomes := [] }
    inj := { gen := 1, left := 0 }
    trace := { buf := [], dropped := 0, port := [] }
    counters := []
    saturated := []
    deviceTime := 0
    follower := 0
    stamp := 0
    nextWork := 0
    fresh := 0 }

/-- Faults. The spec gives the block no stop of its own, and no command of this model raises one (safe). -/
inductive Fault where
  /-- Raised by no command. -/
  | unreachable
  deriving DecidableEq, Repr

/-- Refusals. -/
inductive Refusal where
  /-- A command that has no meaning in this model yet; raised by no arm once the model is whole (safe). -/
  | notModelled (mnemonic : String)
  deriving DecidableEq, Repr

end Sys2Proof.Machine
end

