-- ==== Sys2Proof/Machine/SMap.lean ====
section
/-! DEFINITION. Sparse tables in canonical form: rising keys, and no entry equal to the value that an unlisted key
reads as. -/

namespace Sys2Proof.Machine

/-- The entry of key `k`. -/
def SMap.get {α : Type} (m : SMap α) (k : Nat) : Option α :=
  match m with
  | [] => none
  | (j, v) :: r => if j = k then some v else SMap.get r k

/-- Takes key `k` out of the table. -/
def SMap.erase {α : Type} (m : SMap α) (k : Nat) : SMap α :=
  match m with
  | [] => []
  | (j, v) :: r => if j = k then SMap.erase r k else (j, v) :: SMap.erase r k

/-- Sets key `k`. -/
def SMap.insert {α : Type} (m : SMap α) (k : Nat) (x : α) : SMap α :=
  match m with
  | [] => [(k, x)]
  | (j, v) :: r =>
    if j = k then (k, x) :: r else if k < j then (k, x) :: (j, v) :: r else (j, v) :: SMap.insert r k x

/-- The value of key `k`, where an unlisted key reads as `d`. -/
def SMap.getD {α : Type} (m : SMap α) (k : Nat) (d : α) : α :=
  (SMap.get m k).getD d

/-- Sets key `k`, where an unlisted key reads as `d`: the default value is not listed. -/
def SMap.setD {α : Type} [DecidableEq α] (m : SMap α) (k : Nat) (x d : α) : SMap α :=
  if x = d then SMap.erase m k else SMap.insert m k x

/-- The keys in use. -/
def SMap.keys {α : Type} (m : SMap α) : List Nat := m.map Prod.fst

/-- Whether key `k` is listed. -/
def SMap.has {α : Type} (m : SMap α) (k : Nat) : Bool := (SMap.get m k).isSome

/-- The keys lie above `b` and rise. -/
def SMap.rising {α : Type} (b : Option Nat) (m : SMap α) : Bool :=
  match m with
  | [] => true
  | (j, _) :: r => (match b with | none => true | some i => decide (i < j)) && SMap.rising (some j) r

/-- The canonical form: rising keys, and no entry equal to the default of its key. -/
def SMap.wf {α : Type} [DecidableEq α] (d : Nat → α) (m : SMap α) : Bool :=
  SMap.rising none m && m.all (fun e => decide (e.2 ≠ d e.1))

end Sys2Proof.Machine
end

