-- ==== Sys2Proof/Machine/Bits.lean ====
section
/-! DEFINITION. Bit fields, byte order, signed and saturating numbers, and small list helpers. -/

namespace Sys2Proof.Machine
open Sys2Proof

/-- Bits `hi` to `lo` of a number. -/
def bits (n hi lo : Nat) : Nat := (n / 2 ^ lo) % 2 ^ (hi + 1 - lo)

/-- Bit `b` of a number. -/
def bitOf (n b : Nat) : Bool := (n / 2 ^ b) % 2 == 1

/-- Bits `hi` to `lo` of a number replaced by `v`, cut to the field's width. -/
def putBits (n hi lo v : Nat) : Nat :=
  n - bits n hi lo * 2 ^ lo + (v % 2 ^ (hi + 1 - lo)) * 2 ^ lo

/-- A field of a word. -/
def wfld (w : Word) (hi lo : Nat) : Nat := bits w.toNat hi lo

/-- A word with a field replaced. -/
def wput (w : Word) (hi lo v : Nat) : Word := BitVec.ofNat 32 (putBits w.toNat hi lo v)

/-- A word mask of bits `hi` to `lo`. -/
def maskW (hi lo : Nat) : Word := BitVec.ofNat 32 ((2 ^ (hi + 1 - lo) - 1) * 2 ^ lo)

/-- One as a number. -/
def ofBool (b : Bool) : Nat := if b then 1 else 0

/-- A field of a 64-bit address word. -/
def afld (a : Addr) (hi lo : Nat) : Nat := bits a.toNat hi lo

/-- Adds, stopping at `top`. -/
def addStop (a b top : Nat) : Nat := if a + b < top then a + b else top

/-- The signed value of an `n`-bit number. -/
def signedOf (n v : Nat) : Int := if v < 2 ^ (n - 1) then (v : Int) else (v : Int) - (2 ^ n : Nat)

/-- A signed 8-bit sum that saturates at -128 and +127 (R263). -/
def sat8 (v : Int) : BitVec 8 := if v < -128 then BitVec.ofInt 8 (-128) else if v > 127 then BitVec.ofInt 8 127 else BitVec.ofInt 8 v

/-- The little-endian number of a list of bytes (R10). -/
def leNat (l : List Byte) : Nat :=
  match l with
  | [] => 0
  | b :: r => b.toNat + 256 * leNat r

/-- The first `n` bytes of a number, little-endian (R10). -/
def leBytes (n v : Nat) : List Byte :=
  match n with
  | 0 => []
  | k + 1 => BitVec.ofNat 8 v :: leBytes k (v / 256)

/-- Bytes `off` to `off + len - 1` of a packet as a number. -/
def ple (p : Packet) (off len : Nat) : Nat := (p.toNat / 2 ^ (8 * off)) % 2 ^ (8 * len)

/-- Bits of 32-bit word `w` of a packet: bits `hi` to `lo` of the dword at byte `4 * w`. -/
def pdw (p : Packet) (w hi lo : Nat) : Nat := bits (ple p (4 * w) 4) hi lo

/-- A packet from its 64 bytes. -/
def packetOf (l : List Byte) : Packet := BitVec.ofNat 512 (leNat l)

/-- Element `i` of a list, or `d`. -/
def nth {α : Type} (l : List α) (i : Nat) (d : α) : α :=
  match l, i with
  | [], _ => d
  | x :: _, 0 => x
  | _ :: r, k + 1 => nth r k d

/-- Element `i` of a list replaced. -/
def setNth {α : Type} (l : List α) (i : Nat) (v : α) : List α :=
  match l, i with
  | [], _ => []
  | _ :: r, 0 => v :: r
  | x :: r, k + 1 => x :: setNth r k v

/-- The first `n` elements. -/
def firstN {α : Type} (n : Nat) (l : List α) : List α :=
  match n, l with
  | 0, _ => []
  | _, [] => []
  | k + 1, x :: r => x :: firstN k r

/-- What is left after the first `n` elements. -/
def restN {α : Type} (n : Nat) (l : List α) : List α :=
  match n, l with
  | 0, l => l
  | _, [] => []
  | k + 1, _ :: r => restN k r

/-- `n` copies. -/
def copies {α : Type} (n : Nat) (x : α) : List α :=
  match n with
  | 0 => []
  | k + 1 => x :: copies k x

/-- The numbers from `i`, `n` of them. -/
def countUp (i n : Nat) : List Nat :=
  match n with
  | 0 => []
  | k + 1 => i :: countUp (i + 1) k

/-- The set bits of a number among bits 0 to `n - 1`. -/
def setBits (n v : Nat) : List Nat := (countUp 0 n).filter (bitOf v)

/-- How many of bits 0 to `n - 1` are set. -/
def popCount (n v : Nat) : Nat := (setBits n v).length

/-- The smallest element of a list by a measure; the earlier one among equals. -/
def leastBy {α : Type} (m : α → Nat) (l : List α) : Option α :=
  match l with
  | [] => none
  | x :: r =>
    match leastBy m r with
    | none => some x
    | some y => if m y < m x then some y else some x

/-- Inserts into a list that rises by a measure, after equals. -/
def insertBy {α : Type} (m : α → Nat) (x : α) (l : List α) : List α :=
  match l with
  | [] => [x]
  | y :: r => if m x < m y then x :: y :: r else y :: insertBy m x r

/-- Sorts by a measure; equals keep their order. -/
def sortBy {α : Type} (m : α → Nat) (l : List α) : List α :=
  l.foldl (fun acc x => insertBy m x acc) []

/-- A list in pieces of `n` elements, at most `fuel` pieces. -/
def pieces {α : Type} (fuel n : Nat) (l : List α) : List (List α) :=
  match fuel with
  | 0 => []
  | k + 1 => match l with
    | [] => []
    | _ => firstN n l :: pieces k n (restN n l)

/-- Rounds up to a multiple. -/
def divUp (a b : Nat) : Nat := (a + b - 1) / b

end Sys2Proof.Machine
end

