-- ==== Sys2Proof/Machine/RegMap.lean ====
section
/-! DEFINITION. The register map of BAR0 (R31 and the register sections of every chapter): which offsets hold a
register, its reset value, which bits firmware writes, which it clears by writing 1, and which bits a function-level
or hot reset keeps. Fields that follow other state are composed by `regRead`. -/

namespace Sys2Proof.Machine
open Sys2Proof

/-- A register: reset value, bits that plain writes change (RW), bits that a written 1 clears (W1C), bits that
function-level and hot reset keep, and whether the register lies in the Zephyr island, where only power-up sets it. -/
structure RegDesc where
  reset : Word
  rw : Word
  w1c : Word
  kept : Word
  zephyr : Bool
  deriving DecidableEq, Repr

/-- A register of read-only, write-only or composed fields. -/
def rdOnly : Option RegDesc := some ⟨0, 0, 0, 0, false⟩

/-- A register of read-only fields that function-level and hot reset keep. -/
def rdKept (reset : Word) : Option RegDesc := some ⟨reset, 0, 0, 0xFFFFFFFF, false⟩

/-- Read-write fields that every reset sets. -/
def rwPlain (reset rw : Word) : Option RegDesc := some ⟨reset, rw, 0, 0, false⟩

/-- Read-write fields that function-level and hot reset keep. -/
def rwKept (reset rw : Word) : Option RegDesc := some ⟨reset, rw, 0, 0xFFFFFFFF, false⟩

/-- Write-1-to-clear bits that every reset clears. -/
def wcPlain (w1c : Word) : Option RegDesc := some ⟨0, 0, w1c, 0, false⟩

/-- The reset weight of operation class `c` (R406). -/
def peWeightReset (c : Nat) : Nat :=
  nth [25, 30, 35, 10, 30, 35, 40, 45, 50, 40, 20, 10, 60, 200, 1500, 0] c 0

/-- The bits per cell and page type of ladder index `x` (R262), as (b, t). -/
def ladderOf (x : Nat) : Nat × Nat :=
  if x < 1 then (1, 0) else if x < 3 then (2, x - 1) else if x < 6 then (3, x - 3)
  else if x < 10 then (4, x - 6) else (5, x - 10)

/-- The reset threshold mask of ladder index `x`: the thresholds whose lowest set bit is bit `t` (R262). -/
def tmaskReset (x : Nat) : Word :=
  let bt := ladderOf x
  let pat := nth [0x55555555, 0x22222222, 0x08080808, 0x00800080, 0x00008000] bt.2 0
  BitVec.ofNat 32 (pat &&& (2 ^ (2 ^ bt.1 - 1) - 1))

/-- The reset delta of step `k` of every ladder (R267): 0, -4, +4, -8, +8 and so on, as a byte. -/
def ladderDelta (k : Nat) : Nat :=
  if k % 2 = 0 then 2 * k else 256 - 2 * (k + 1)

/-- The reset word `j` of step `k` of a ladder (R267). -/
def ladderWordReset (k j : Nat) : Word :=
  let d := ladderDelta k % 256
  if j = 7 then BitVec.ofNat 32 (d * 0x010101) else BitVec.ofNat 32 (d * 0x01010101)

/-- The bits of word `w` of a source bit array that stand for sources 0 to 863 and SW0 to SW7 (R365). -/
def sourceBits (w : Nat) : Word := if w < 27 then 0xFFFFFFFF else if w = 31 then 0xFF000000 else 0

/-- Whether source `s` has a cause (R363). -/
def sourceReal (s : Nat) : Bool := s < 864 || (1016 ≤ s && s < 1024)

/-- The bits of target-mask word `h` (0 low, 1 high) that name implemented targets (R384). -/
def targetBits (tgts h : Nat) : Word :=
  if h = 0 then (if tgts < 32 then BitVec.ofNat 32 (2 ^ tgts - 1) else 0xFFFFFFFF)
  else (if tgts ≤ 32 then 0 else BitVec.ofNat 32 (2 ^ (tgts - 32) - 1))

/-- The bits of word `i` of a channel bit array that stand for channels of the build. -/
def channelBits (nch i : Nat) : Word := if 32 * i < nch then 0xFFFFFFFF else 0

/-- The global page, offsets 0x0000 to 0xFFFF (R31, R39, R205, R247, R361, R472, R492). -/
def globalReg (nch off : Nat) : Option RegDesc :=
  if off < 0x100 then
    if off = 0x8 then some ⟨0, 0x101, 0x80000000, 0, false⟩
    else if off < 0x18 then rdOnly
    else none
  else if off < 0x184 then rdKept 0
  else if off < 0x200 then
    if off = 0x184 then rwKept 0x2710 0xFFFF
    else if off = 0x190 then some ⟨0, 0, 0x80000000, 0xFFFFFFFF, false⟩
    else if 0x194 ≤ off && off < 0x1AC then rdKept 0
    else none
  else if off < 0x400 then
    if off < 0x220 then rwPlain (BitVec.ofNat 32 ((off - 0x200) / 4)) 0x1F
    else if off = 0x240 then rwKept 0x2B5E1C47 0x7FFFFFFF
    else none
  else if off < 0x800 then if (off - 0x400) / 4 < nch then rwKept 0 0x1F000000 else none
  else if off < 0x1000 then
    if off = 0x800 then rwKept 0x40081414 0xFF3F1F1F
    else if off = 0x804 then rwKept 0x1008 0xFFFF
    else if 0x810 ≤ off && off < 0x820 then
      rwKept (nth [0x182, 0x38C1, 0x7A481, 0xF59C61] ((off - 0x810) / 4) 0) 0x1FFFFFF
    else if 0x820 ≤ off && off < 0x840 then rwKept (BitVec.ofNat 32 (600 + 120 * ((off - 0x820) / 4))) 0xFFFF
    else if off = 0x880 then rwPlain 0 0x81FF00FF
    else if off = 0x884 then rwPlain 0 0xFFF
    else if off = 0x888 then rwPlain 1 0x7FFFFFFF
    else if off = 0x88C then rdOnly
    else none
  else if off < 0x1800 then rdOnly
  else if off < 0x2000 then none
  else if off = 0x2000 then some ⟨2, 0x3F, 0, 0xFFFFFFFF, true⟩
  else if off = 0x2004 || off = 0x2008 then rdOnly
  else if off < 0x3000 then none
  else if off < 0x3800 then
    if (off - 0x3000) / 8 < nch then
      (if off % 8 = 0 then rdKept 0 else wcPlain 0x80000000)
    else none
  else if off < 0x4000 then
    if off = 0x3800 then rdKept 0 else if 0x3820 ≤ off && off < 0x3840 then rdOnly else none
  else if off < 0x4100 then rdOnly
  else if off < 0x5000 then none
  else if off < 0x5800 then
    if off < 0x50E0 then rdOnly
    else if 0x5100 ≤ off && off < 0x5140 then rwPlain 0 0xFFFFFFFF
    else if off = 0x5200 then rdKept 0
    else if 0x5220 ≤ off && off < 0x5260 then rdKept 0
    else if 0x5400 ≤ off && (off - 0x5400) / 4 < nch then rdKept 0
    else none
  else if off < 0x8000 then none
  else if off % 16 = 12 then rwPlain 1 1
  else rwPlain 0 0xFFFFFFFF

/-- The interrupt controller: common page and claim pages (R384). -/
def irqReg (tgts off : Nat) : Option RegDesc :=
  if off < 0x14000 then
    if off = 0x10000 then rdOnly
    else if off = 0x10004 then rwPlain 0x80006410 0x80FFFFFF
    else if off = 0x10010 then wcPlain 0x80000000
    else if off = 0x10014 then rdOnly
    else if off = 0x10018 then some ⟨0, 0x1F, 0, 0xFFFFFFFF, true⟩
    else if off = 0x1001C then some ⟨0, 0, 0, 0xFFFFFFFF, true⟩
    else if off < 0x10100 then none
    else if off < 0x10280 then rdOnly
    else if off < 0x10300 then
      let b := sourceBits ((off - 0x10280) / 4)
      rwPlain b b
    else if off < 0x10380 then wcPlain (sourceBits ((off - 0x10300) / 4))
    else if off < 0x10400 then rdOnly
    else if off < 0x10480 then some ⟨0, 0x800003FF, 0, 0xFFFFFFFF, true⟩
    else none
  else if off < 0x18000 then
    let s := (off - 0x14000) / 16
    let real := sourceReal s
    let j := (off % 16) / 4
    if j = 0 then rwPlain 0 (if real then 0x30F else 0)
    else if j = 3 then none
    else rwPlain 0 (if real then targetBits tgts (j - 1) else 0)
  else if off < 0x20000 then none
  else
    let page := (off - 0x20000) % 0x10000
    let t := page / 0x400
    let o := page % 0x400
    if t < tgts then
      if o = 0 || o = 4 then rdOnly
      else if o = 8 then rwPlain 0 7
      else if o = 12 then wcPlain 0xC0000000
      else none
    else none

/-- Power envelope (R423). -/
def peReg (off : Nat) : Option RegDesc :=
  let o := off - 0x40000
  if o = 0 then rwKept 0x0A100819 0xFFFFFFFF
  else if o = 4 then rwKept 0x7D0 0xFFFFFF
  else if o = 8 then rwKept 0x3E8 0xFFFFFF
  else if o = 0xC then rwKept 0x4E20 0xFFFFFF
  else if o = 0x10 then rwKept 0 0xFFFFFF
  else if o = 0x14 then rwKept 0xFFFFFF 0xFFFFFF
  else if o = 0x18 then rwKept 0x7D0 0xFFFFFF
  else if o = 0x1C then rwKept 0x138801F4 0xFFFFFFFF
  else if o = 0x20 then some ⟨0, 0, 0x80000000, 0xFFFFFFFF, false⟩
  else if o = 0x24 || o = 0x28 then rdOnly
  else if 0x30 ≤ o && o < 0x48 then rdOnly
  else if 0x80 ≤ o && o < 0xC0 then rwKept (BitVec.ofNat 32 (peWeightReset ((o - 0x80) / 4))) 0xFFFF
  else none

/-- Calibration (R438). -/
def calReg (nch off : Nat) : Option RegDesc :=
  let o := off - 0x50000
  if o = 0 then rwKept 0x08410301 0xFFFF0703
  else if o = 4 then rdOnly
  else if 0x20 ≤ o && o < 0x40 then wcPlain (channelBits nch ((o - 0x20) / 4))
  else if 0x4000 ≤ o && o < 0x8000 && (o - 0x4000) / 0x40 < nch then
    let r := (o - 0x4000) % 0x40
    if r = 0 then wcPlain 0x80000000
    else if r = 4 || r = 8 || r = 0xC then rdKept 0
    else if r = 0x18 || r = 0x1C then rdKept 0x40404040
    else if r < 0x30 then rdOnly
    else none
  else none

/-- Protection of internal memories (R453); every reset but fundamental reset keeps all but `DIAG_CTRL` (R452). -/
def memReg (nch off : Nat) : Option RegDesc :=
  let o := off - 0x60000
  if o = 0 then some ⟨0, 0x70000, 0x80000000, 0xFFFFFFFF, false⟩
  else if o = 4 then rwKept 0 0x3FFF
  else if o = 8 then rwPlain 0 0x80070000
  else if 0xC ≤ o && o < 0x30 then rwKept 0 0xFFFFFFFF
  else if o = 0x30 then rwKept 0 0xFFFFF
  else if 0x40 ≤ o && o < 0x78 then rdKept 0
  else if 0x80 ≤ o && o < 0x9C then rdKept 0
  else if 0x100 ≤ o && o < 0x160 then rdKept 0
  else if 0x1000 ≤ o && o < 0x1E00 then (if o % 16 = 12 then none else rdKept 0)
  else if 0x8000 ≤ o && o < 0xA000 then (if (o - 0x8000) / 0x20 < nch then rdKept 0 else none)
  else if 0xA000 ≤ o && (o - 0xA000) / 4 < nch && o < 0xA400 then rdKept 0
  else none

/-- Observation (R510). -/
def obsReg (off : Nat) : Option RegDesc :=
  let o := off - 0x70000
  if o = 0 then rwKept 0x3E800 0xE0FFFF00
  else if o = 4 then some ⟨0, 0, 0x80000000, 0xFFFFFFFF, false⟩
  else if o = 8 then rwKept 0 0x1FF
  else if o = 0xC then rwKept 0xFF00 0x8000FFFF
  else if o = 0x10 then rwKept 0 0x80007FFF
  else if o = 0x14 then rdKept 0
  else if 0x20 ≤ o && o < 0x34 then rdOnly
  else if 0x100 ≤ o && o < 0x120 then
    (if o % 16 = 0 then rdOnly
     else if o % 16 = 4 then some ⟨0, 0, 0x40000000, 0x7FFFFFFF, false⟩
     else rdKept 0)
  else if 0x200 ≤ o && o < 0x224 then rdOnly
  else if 0x1000 ≤ o && o < 0x1200 then rdKept 0
  else none

/-- Bays (R402); every field lies in the Zephyr island. -/
def bayReg (nch off : Nat) : Option RegDesc :=
  let o := off - 0x80000
  if o / 0x800 < nch / 8 then
    let r := o % 0x800
    if r = 0 then some ⟨0, 0, 0, 0xFFFFFFFF, true⟩
    else if r = 4 then some ⟨0, 0, 0x80000000, 0xFFFFFFFF, true⟩
    else if r = 8 then some ⟨0, 0, 0x7F, 0xFFFFFFFF, true⟩
    else if r = 0xC then some ⟨0, 0xF, 0, 0xFFFFFFFF, true⟩
    else if r = 0x10 then some ⟨0x319032, 0x33FFFF, 0, 0xFFFFFFFF, true⟩
    else if r = 0x14 then some ⟨0, 0, 0, 0xFFFFFFFF, true⟩
    else none
  else none

/-- DMA channels, engines and rings (R329). -/
def dmaReg (off : Nat) : Option RegDesc :=
  if off < 0x180000 then
    let r := (off - 0x100000) % 0x400
    if r < 0x40 then rwPlain 0 0xFFFFFFFF
    else if r = 0x40 then rwPlain 0x900 0x1F10
    else if r = 0x44 then wcPlain 0x10000
    else if r = 0x48 || r = 0x4C then rdOnly
    else if r = 0x50 || r = 0x54 then rwPlain 0 0xFFFFFFFF
    else if r = 0x58 then rwPlain 0x20000 0x7FFFFB
    else if r = 0x5C then rdOnly
    else none
  else if off < 0x188000 then
    let r := (off - 0x180000) % 0x1000
    if r = 0 then rwPlain 0x10000030 0xFFFF007F
    else if r = 4 then wcPlain 0x80000000
    else if 0x100 ≤ r && r < 0x140 then rwPlain 0 0x80FFFFFF
    else none
  else if 0x190000 ≤ off && off < 0x194000 then
    let r := (off - 0x190000) % 0x100
    if r = 0 then rwPlain 0 0xFFFFF000
    else if r = 4 then rwPlain 0 0xFFFFFFFF
    else if r = 8 then rwPlain 0 0xFFFF
    else if r = 0xC then rwPlain 0 0xFFF0FF01
    else if r = 0x10 then rwPlain 0 0xFFFF
    else if r = 0x14 then wcPlain 0x40000
    else none
  else none

/-- Queue contexts (R39). -/
def qcReg (off : Nat) : Option RegDesc :=
  nth [rwPlain 0 0xFFFFF000, rwPlain 0 0xFFFFFFFF, rwPlain 0 0xFFFFF000, rwPlain 0 0xFFFFFFFF, rwPlain 0 0xFFFFFFFF,
    rwPlain 0 0xFFFFFF00, rwPlain 0 0xFFFF03FF, wcPlain 0x180] ((off % 32) / 4) none

/-- The read-level table window, with the ladders, plan pages and ledger controls (R267, R295). -/
def rltReg (nch off : Nat) : Option RegDesc :=
  let o := off - 0x300000
  if o < 0x10000 then
    if o = 0 then rwKept 0x106 0x10F
    else if o = 4 then rwPlain 0 0xFFFF
    else if o = 0x10 then rwPlain 0 0xFFFFFFFF
    else if o = 0x14 then rwPlain 0 0x80000007
    else if o = 0x18 then rwPlain 0 0xE0FFFFFF
    else if 0x20 ≤ o && o < 0x3C then rwPlain 0 0xFFFFFFFF
    else if o = 0x3C then rwPlain 0 0xFFFFFF
    else if 0x100 ≤ o && o < 0x13C then rwKept 0xF 0xF0F
    else if 0x200 ≤ o && o < 0x23C then rwKept (tmaskReset ((o - 0x200) / 4)) 0x7FFFFFFF
    else if o = 0x300 then rwKept 0x100000 0xFFFFFFFF
    else if 0x304 ≤ o && o < 0x318 then rdOnly
    else if o = 0x400 then rwKept 0x0E104004 0xFFFFF0FF
    else if o = 0x404 then rwKept 0x1E146100 0xFFFFFFC3
    else if 0x420 ≤ o && o < 0x440 then wcPlain (channelBits nch ((o - 0x420) / 4))
    else none
  else if o < 0x11E00 then
    let l := o - 0x10000
    let j := (l % 0x20) / 4
    rwKept (ladderWordReset ((l % 0x200) / 0x20) j) (if j = 7 then 0xFFFFFF else 0xFFFFFFFF)
  else if 0x30000 ≤ o && (o - 0x30000) / 0x100 < nch then
    let r := o % 0x100
    if r < 0x28 then rdKept 0
    else if r < 0x30 then rwKept 0 0xFFFFFFFF
    else if r < 0x80 then none
    else if r % 16 = 0 then rwKept 0 0xFFFFFFFF
    else if r % 16 = 4 then rwKept 0 0xFFFFF
    else if r % 16 = 8 then rwKept 0 0x800003F7
    else rdKept 0
  else none

/-- The microcode image RAM and load control (R184, R185, R194). -/
def mcReg (off : Nat) : Option RegDesc :=
  if off < 0x40A000 then rwKept 0 0xFFFFFFFF
  else if off < 0x410000 then none
  else
    let o := off - 0x410000
    if o = 0 then wcPlain 0x80000000
    else if o = 4 then some ⟨0, 0, 0, 0xFFFF, false⟩
    else if o = 8 then rdKept 0
    else if 0x10 ≤ o && o < 0x30 then rwKept 0 0xFFFFFFFF
    else if 0x100 ≤ o && o < 0x200 then rwKept 0 0xFFFFFFFF
    else if 0x200 ≤ o && o < 0x260 then rwKept 0 0xFFFFFFFF
    else if 0x300 ≤ o && o < 0x360 then rwKept 0 0xFFFFFFFF
    else if 0x380 ≤ o && o < 0x3B0 then rdOnly
    else none

/-- Channel pages (R127, R128, R194, R217). -/
def chanReg (nch off : Nat) : Option RegDesc :=
  let n := (off - 0x1000000) / 0x10000
  let r := off % 0x10000
  if n < nch then
    if r = 0 then rdOnly
    else if r = 4 then some ⟨0x480200, 0xFF0F00, 0x80000000, 0x7FFFFFFF, false⟩
    else if 0x10 ≤ r && r < 0x50 then rdKept 0
    else if 0x50 ≤ r && r < 0x70 then rwKept 0 0xF
    else if r = 0x80 then rwKept 0x0407D020 0xFFFFFFFF
    else if r = 0x84 then rwKept 0x02041014 0x03FFFFFF
    else if r = 0x90 then rwKept 0x271003E8 0xFFFFFFFF
    else if r = 0x94 then rwKept 0x27107530 0xFFFFFFFF
    else if r = 0x98 then rwKept 0x10000 0xFFFFFF
    else if r = 0x9C then wcPlain 0xFFFF
    else if r = 0xA0 then rdKept 0
    else if r = 0xA4 then rwKept 0x1014 0x3F3F
    else if r = 0xA8 then wcPlain 0xFF
    else if r = 0xAC then some ⟨0, 0, 0, 0xFFFF0000, false⟩
    else if 0x100 ≤ r && r < 0x184 then rdOnly
    else if r = 0x800 then rdKept 0
    else if r = 0x804 then wcPlain 0x80000000
    else if r = 0x808 then rdKept 0
    else if r = 0x80C then rdKept 0
    else if r = 0x810 then rdOnly
    else if 0x900 ≤ r && r < 0x91C then rdOnly
    else if r = 0x91C then some ⟨0, 0, 7, 0xFFFFFFFF, false⟩
    else none
  else none

/-- The register at BAR0 offset `off`, or none where the address is reserved (R31), in a build of `nch` channels with
`tgts` interrupt targets. -/
def regDesc (nch tgts off : Nat) : Option RegDesc :=
  if off % 4 ≠ 0 then none
  else if off < 0x10000 then globalReg nch off
  else if off < 0x40000 then irqReg tgts off
  else if off < 0x50000 then peReg off
  else if off < 0x60000 then calReg nch off
  else if off < 0x70000 then memReg nch off
  else if off < 0x80000 then obsReg off
  else if off < 0x90000 then bayReg nch off
  else if off < 0x100000 then none
  else if off < 0x200000 then dmaReg off
  else if off < 0x300000 then qcReg off
  else if off < 0x340000 then rltReg nch off
  else if off < 0x3C0000 then rdOnly
  else if off < 0x400000 then
    (if off < 0x3E0000 then (if (off - 0x3C0000) / 8 < 64 * nch then rdOnly else none)
     else if off = 0x3E0000 then rwPlain 0x08040301 0xFFFFFFFF
     else none)
  else if off < 0x420000 then mcReg off
  else if 0x1000000 ≤ off && off < 0x2000000 then chanReg nch off
  else none

/-- The reset value of the register at an offset; 0 where none lies. -/
def regReset (off : Nat) : Word :=
  match regDesc 256 64 off with
  | none => 0
  | some d => d.reset

/-- Channels of a build (R3). -/
def Build.channels (b : Build) : Nat := match b with | .skn256 => 256 | .skn128 => 128 | .skn64 => 64

/-- Stream pairs of a build (R3). -/
def Build.pairs (b : Build) : Nat := match b with | .skn256 => 8 | .skn128 => 4 | .skn64 => 2

/-- The largest number of interrupt targets of a build (R3). -/
def Build.maxTargets (b : Build) : Nat := match b with | .skn256 => 64 | _ => 8

/-- The build code of `BUILD_CONFIG` (R7). -/
def Build.code (b : Build) : Nat := match b with | .skn256 => 3 | .skn128 => 2 | .skn64 => 1

end Sys2Proof.Machine
end

