-- ==== Sys2Proof/Machine/Access.lean ====
section
/-! DEFINITION. What every table entry holds when nothing has changed it, and one reader, one writer and one modifier
for each table and each register. -/

namespace Sys2Proof.Machine
open Sys2Proof

/-- A queue pair after reset (R39). -/
def Queue.init : Queue :=
  { st := .disabled, cause := 0, sqHead := 0, sqTail := 0, cqHead := 0, cqTail := 0, phase := true, fetched := [],
    fetchNext := 0, due := [], discard := false, unsignalled := 0, cfgSeen := 0, extSeen := 0 }

/-- An empty push slot. -/
def PushSlot.init : PushSlot := { written := 0, data := 0, captured := false }

/-- A FREE tag (R64). -/
def Tag.init : Tag :=
  { st := .free, committed := false, sqid := 0, cid := 0, opcode := none, packet := 0, frame := none,
    forwarded := false, fellBack := false, stagedAck := false, abortPending := false, abortSlot := none, replays := 0,
    phase := none, reRun := false, lastFault := 0, status := .success, info := 0, veer := 0, assists := 0,
    corrected := 0, stamp := 0, ended := false, runOn := false, dropped := false, losses := 0, sd := none, sdPending := false,
    rebuild := none, adding := false, delivered := 0, dataPhase := false, poisoned := false, rebind := false,
    result := 0, sdBytes := [], accLink := none, ue := false, payload := [] }

/-- A tagless slot not in use. -/
def Slot.init : Slot :=
  { sqid := 0, cid := 0, opcode := .abort, packet := 0, 
    stamp := 0, done := true }

/-- An idle LUN. -/
def Lun.init : Lun := { op := none, parked := none, held := false, pollDue := false, offsets := none }

/-- A calibration that does not run. -/
def Cal.init : Cal := { st := .idle, apply := false, tag := none, runs := 0, prev := none, cfg := 0, since := 0 }

/-- A survey that does not run. -/
def Survey.init : Survey :=
  { st := .idle, parts := 0, tag := none, slot := 0, shift := 0, bits := [], erased := 0, ring := 0, eyes := none, shifts := [], counts := [], results := [], again := [],
    due := false }

/-- Trim converters 0 to 19 at fundamental reset: PU, PD, ODT and VREF at 0x40, delays at 0x20 (R427). -/
def trimReset : List (BitVec 7) := copies 4 0x40 ++ copies 16 0x20

/-- The fields of `ASKOR_CFG` as no run has latched them yet. -/
def DecodeCfg.init : DecodeCfg := { zeros := 0, mag := 0, hardIter := 0, softIter := 0, llr := [] }

/-- The pins of a bus at idle (R163, R176): no target selected, nothing driven. -/
def Pins.idle : Pins :=
  { ce := none, cle := false, ale := false, weN := true, re := .idle, dqs := .undriven, dq := none }

/-- A sequencer that runs nothing. -/
def Bus.init : Bus :=
  { running := false, work := none, lun := 0, entry := 0, args := [], pc := 0, phase := 0, left := 0, readyWait := false,
    stack := [], a := 0, b := 0, t0 := 0, t1 := 0, status := 0, column := 0, sampled := [], confirmed := false,
    failed := none, paused := false, suspended := false, captured := [], closed := [], word := [], egress := [], input := [],
    pins := Pins.idle, cycles := [], since := 0, ran := 0 }

/-- A channel island at fundamental reset. -/
def Chan.init : Chan :=
  { st := .reset, before := .unconfigured, mode := 0, rate := 0, present := 0, fenced := false, replaying := false,
    inReset := true, recStep := .idle, store := .empty, image := none, loadWhy := none, trainRate := 0, trainMode := 0, stdRate := 0,
    trainWhy := none, lastTag := none, live := trimReset, target := trimReset, trimOrder := [], msgs := [],
    msgDrop := false, msgOpen := false, ingress := [], ingressWork := none, egress := [], egressWork := none, soft := none,
    bus := Bus.init, hard := [], hardCfg := DecodeCfg.init, warm := [], cal := Cal.init, survey := Survey.init,
    coldCounts := [], trainedOnce := false, glitch := false }

/-- A FREE frame (R195). -/
def Frame.init : Frame :=
  { st := .free, bind := none, bindStamp := 0, lastBind := none, owner := none, named := none, staged := false,
    level := 0, pageSize := 0, quarterLayout := false, rawLen := none, seedAddr := 0, retire := false, freeing := false }

/-- A staging word that nothing has written reads as zero without poison (assumption log). -/
def FWord.init : FWord := { data := 0, poison0 := false, poison1 := false, raw := none }

/-- A CLOSED accumulator (R257). -/
def Accumulator.init : Accumulator :=
  { st := .closed, tainted := false, desc := none, pAddr := 0, qAddr := 0, count := 0, level := 0, pageSize := 0,
    sdPtr := 0, sqid := 0, used := 0, contributed := 0, pFrame := none, qFrame := none, adding := [],
    closeTag := none, pDone := false, qDone := false }

/-- An invalid open-block entry. -/
def ObtEntry.init : ObtEntry :=
  { valid := false, plane := 0, block := 0, pointer := 0, stamp := 0 }

/-- An invalid read-level entry. -/
def RltEntry.init : RltEntry :=
  { valid := false, lun := 0, group := 0, pageType := 0, slots := copies 31 0, trained := false, pinned := false,
    weak := false, age := 0 }

/-- An invalid ledger entry. -/
def LedgerEntry.init : LedgerEntry :=
  { valid := false, advised := false, inherited := false, lun := 0, plane := 0, block := 0, count := 0 }

/-- An IDLE DMA channel. -/
def DmaChan.init : DmaChan :=
  { st := .idle, heldFrom := .idle, loaded := false, loading := none, moved := 0, credits := 0, needCredit := false,
    stop := false, abort := false, hops := 0, status := .ok, kind := 0, dir := 0, lastLoaded := 0, burst := none,
    granted := false, crossGrant := false, poisoned := false, record := none, user := none, isMeta := false,
    prio := none, segs := [], listNext := none, listEnd := false }

/-- A ring after reset (R318). -/
def Ring.init : Ring := { tail := 0, phase := false, since := 0 }

/-- An EMPTY bay. -/
def Bay.init : Bay :=
  { st := .empty, powerPending := false, prsnt := false, pwrGood := false, btn := false, glitch := false,
    btnArmed := true }

/-- Reads queue pair `k`. -/
def State.queue (s : State) (k : Nat) : Queue := SMap.getD s.queues k Queue.init

/-- Writes queue pair `k`. -/
def State.setQueue (s : State) (k : Nat) (x : Queue) : State :=
  { s with queues := SMap.setD s.queues k x Queue.init }

/-- Changes queue pair `k`. -/
def State.modQueue (s : State) (k : Nat) (f : Queue → Queue) : State :=
  s.setQueue k (f (s.queue k))

/-- Reads push slot (64 * window + slot) `k`. -/
def State.pushSlot (s : State) (k : Nat) : PushSlot := SMap.getD s.push k PushSlot.init

/-- Writes push slot (64 * window + slot) `k`. -/
def State.setPushSlot (s : State) (k : Nat) (x : PushSlot) : State :=
  { s with push := SMap.setD s.push k x PushSlot.init }

/-- Changes push slot (64 * window + slot) `k`. -/
def State.modPushSlot (s : State) (k : Nat) (f : PushSlot → PushSlot) : State :=
  s.setPushSlot k (f (s.pushSlot k))

/-- Reads tag `k`. -/
def State.tag (s : State) (k : Nat) : Tag := SMap.getD s.tags k Tag.init

/-- Writes tag `k`. -/
def State.setTag (s : State) (k : Nat) (x : Tag) : State :=
  { s with tags := SMap.setD s.tags k x Tag.init }

/-- Changes tag `k`. -/
def State.modTag (s : State) (k : Nat) (f : Tag → Tag) : State :=
  s.setTag k (f (s.tag k))

/-- Reads tagless slot `k`. -/
def State.slot (s : State) (k : Nat) : Slot := SMap.getD s.slots k Slot.init

/-- Writes tagless slot `k`. -/
def State.setSlot (s : State) (k : Nat) (x : Slot) : State :=
  { s with slots := SMap.setD s.slots k x Slot.init }

/-- Changes tagless slot `k`. -/
def State.modSlot (s : State) (k : Nat) (f : Slot → Slot) : State :=
  s.setSlot k (f (s.slot k))

/-- Reads LUN `k` (16 * channel + local LUN). -/
def State.lun (s : State) (k : Nat) : Lun := SMap.getD s.luns k Lun.init

/-- Writes LUN `k` (16 * channel + local LUN). -/
def State.setLun (s : State) (k : Nat) (x : Lun) : State :=
  { s with luns := SMap.setD s.luns k x Lun.init }

/-- Changes LUN `k` (16 * channel + local LUN). -/
def State.modLun (s : State) (k : Nat) (f : Lun → Lun) : State :=
  s.setLun k (f (s.lun k))

/-- Reads channel `k`. -/
def State.chan (s : State) (k : Nat) : Chan := SMap.getD s.chans k Chan.init

/-- Writes channel `k`. -/
def State.setChan (s : State) (k : Nat) (x : Chan) : State :=
  { s with chans := SMap.setD s.chans k x Chan.init }

/-- Changes channel `k`. -/
def State.modChan (s : State) (k : Nat) (f : Chan → Chan) : State :=
  s.setChan k (f (s.chan k))

/-- Reads frame `k`. -/
def State.frame (s : State) (k : Nat) : Frame := SMap.getD s.frames k Frame.init

/-- Writes frame `k`. -/
def State.setFrame (s : State) (k : Nat) (x : Frame) : State :=
  { s with frames := SMap.setD s.frames k x Frame.init }

/-- Changes frame `k`. -/
def State.modFrame (s : State) (k : Nat) (f : Frame → Frame) : State :=
  s.setFrame k (f (s.frame k))

/-- Reads staging word `k` (640 * frame + word). -/
def State.fword (s : State) (k : Nat) : FWord := SMap.getD s.words k FWord.init

/-- Writes staging word `k` (640 * frame + word). -/
def State.setFword (s : State) (k : Nat) (x : FWord) : State :=
  { s with words := SMap.setD s.words k x FWord.init }

/-- Changes staging word `k` (640 * frame + word). -/
def State.modFword (s : State) (k : Nat) (f : FWord → FWord) : State :=
  s.setFword k (f (s.fword k))

/-- Reads spare word `k` (8 * channel + spare). -/
def State.spare (s : State) (k : Nat) : FWord := SMap.getD s.spares k FWord.init

/-- Writes spare word `k` (8 * channel + spare). -/
def State.setSpare (s : State) (k : Nat) (x : FWord) : State :=
  { s with spares := SMap.setD s.spares k x FWord.init }

/-- Changes spare word `k` (8 * channel + spare). -/
def State.modSpare (s : State) (k : Nat) (f : FWord → FWord) : State :=
  s.setSpare k (f (s.spare k))

/-- Reads accumulator `k`. -/
def State.acc (s : State) (k : Nat) : Accumulator := SMap.getD s.accs k Accumulator.init

/-- Writes accumulator `k`. -/
def State.setAcc (s : State) (k : Nat) (x : Accumulator) : State :=
  { s with accs := SMap.setD s.accs k x Accumulator.init }

/-- Changes accumulator `k`. -/
def State.modAcc (s : State) (k : Nat) (f : Accumulator → Accumulator) : State :=
  s.setAcc k (f (s.acc k))

/-- Reads open-block entry `k`. -/
def State.obtEntry (s : State) (k : Nat) : ObtEntry := SMap.getD s.obt k ObtEntry.init

/-- Writes open-block entry `k`. -/
def State.setObtEntry (s : State) (k : Nat) (x : ObtEntry) : State :=
  { s with obt := SMap.setD s.obt k x ObtEntry.init }

/-- Changes open-block entry `k`. -/
def State.modObtEntry (s : State) (k : Nat) (f : ObtEntry → ObtEntry) : State :=
  s.setObtEntry k (f (s.obtEntry k))

/-- Reads read-level entry `k`. -/
def State.rltEntry (s : State) (k : Nat) : RltEntry := SMap.getD s.rlt k RltEntry.init

/-- Writes read-level entry `k`. -/
def State.setRltEntry (s : State) (k : Nat) (x : RltEntry) : State :=
  { s with rlt := SMap.setD s.rlt k x RltEntry.init }

/-- Changes read-level entry `k`. -/
def State.modRltEntry (s : State) (k : Nat) (f : RltEntry → RltEntry) : State :=
  s.setRltEntry k (f (s.rltEntry k))

/-- Reads ledger entry `k`. -/
def State.ledgerEntry (s : State) (k : Nat) : LedgerEntry := SMap.getD s.ledger k LedgerEntry.init

/-- Writes ledger entry `k`. -/
def State.setLedgerEntry (s : State) (k : Nat) (x : LedgerEntry) : State :=
  { s with ledger := SMap.setD s.ledger k x LedgerEntry.init }

/-- Changes ledger entry `k`. -/
def State.modLedgerEntry (s : State) (k : Nat) (f : LedgerEntry → LedgerEntry) : State :=
  s.setLedgerEntry k (f (s.ledgerEntry k))

/-- Reads DMA channel `k` (64 * engine + channel). -/
def State.dmaChan (s : State) (k : Nat) : DmaChan := SMap.getD s.dma k DmaChan.init

/-- Writes DMA channel `k` (64 * engine + channel). -/
def State.setDmaChan (s : State) (k : Nat) (x : DmaChan) : State :=
  { s with dma := SMap.setD s.dma k x DmaChan.init }

/-- Changes DMA channel `k` (64 * engine + channel). -/
def State.modDmaChan (s : State) (k : Nat) (f : DmaChan → DmaChan) : State :=
  s.setDmaChan k (f (s.dmaChan k))

/-- Reads ring `k`. -/
def State.ring (s : State) (k : Nat) : Ring := SMap.getD s.rings k Ring.init

/-- Writes ring `k`. -/
def State.setRing (s : State) (k : Nat) (x : Ring) : State :=
  { s with rings := SMap.setD s.rings k x Ring.init }

/-- Changes ring `k`. -/
def State.modRing (s : State) (k : Nat) (f : Ring → Ring) : State :=
  s.setRing k (f (s.ring k))

/-- Reads bay `k`. -/
def State.bay (s : State) (k : Nat) : Bay := SMap.getD s.bays k Bay.init

/-- Writes bay `k`. -/
def State.setBay (s : State) (k : Nat) (x : Bay) : State :=
  { s with bays := SMap.setD s.bays k x Bay.init }

/-- Changes bay `k`. -/
def State.modBay (s : State) (k : Nat) (f : Bay → Bay) : State :=
  s.setBay k (f (s.bay k))

/-- The piece of flash work `k`, if it exists. -/
def State.work (s : State) (k : Nat) : Option Work := SMap.get s.works k

/-- Changes the piece of flash work `k`, if it exists. -/
def State.modWork (s : State) (k : Nat) (f : Work → Work) : State :=
  match SMap.get s.works k with
  | none => s
  | some w => { s with works := SMap.insert s.works k (f w) }

/-- Takes the piece of flash work `k` out of the pool. -/
def State.dropWork (s : State) (k : Nat) : State := { s with works := SMap.erase s.works k }

/-- The register at a BAR0 offset, as stored. -/
def State.reg (s : State) (off : Nat) : Word := SMap.getD s.regs off (regReset off)

/-- Stores the register at a BAR0 offset. -/
def State.setReg (s : State) (off : Nat) (w : Word) : State :=
  { s with regs := SMap.setD s.regs off w (regReset off) }

/-- Bits `hi` to `lo` of the register at a BAR0 offset. -/
def State.fld (s : State) (off hi lo : Nat) : Nat := bits (s.reg off).toNat hi lo

/-- Writes bits `hi` to `lo` of the register at a BAR0 offset. -/
def State.setFld (s : State) (off hi lo v : Nat) : State := s.setReg off (wput (s.reg off) hi lo v)

/-- Adds to a field of a register, stopping at all-ones. -/
def State.addFld (s : State) (off hi lo v : Nat) : State :=
  s.setFld off hi lo (addStop (s.fld off hi lo) v (2 ^ (hi + 1 - lo) - 1))

/-- Bit `b` of the register at a BAR0 offset. -/
def State.bit (s : State) (off b : Nat) : Bool := bitOf (s.reg off).toNat b

/-- Writes bit `b` of the register at a BAR0 offset. -/
def State.setBit (s : State) (off b : Nat) (v : Bool) : State := s.setFld off b b (ofBool v)

/-- Bit `n` of a bit array of 32-bit words that starts at a BAR0 offset. -/
def State.arrBit (s : State) (base n : Nat) : Bool := s.bit (base + 4 * (n / 32)) (n % 32)

/-- Writes bit `n` of a bit array of 32-bit words that starts at a BAR0 offset. -/
def State.setArrBit (s : State) (base n : Nat) (v : Bool) : State := s.setBit (base + 4 * (n / 32)) (n % 32) v

/-- Channels of the build. -/
def State.nch (s : State) : Nat := s.build.channels

/-- Implemented interrupt targets: the tie-off, or the maximum when the tie-off is 0 or larger (R515). -/
def State.targets (s : State) : Nat :=
  if s.ties.icTargets = 0 ∨ s.ties.icTargets > s.build.maxTargets then s.build.maxTargets else s.ties.icTargets

/-- The page of channel `n` (R31). -/
def chanPage (n : Nat) : Nat := 0x1000000 + n * 0x10000

/-- The context of queue `q` (R39). -/
def qcAt (q : Nat) : Nat := 0x200000 + q * 0x20

/-- The next order stamp. -/
def State.tick (s : State) : Nat × State := (s.stamp, { s with stamp := s.stamp + 1 })

/-- The next number of the free values. -/
def State.nextFresh (s : State) : Nat × State := (s.fresh, { s with fresh := s.fresh + 1 })

end Sys2Proof.Machine
end

