-- ==== Sys2Proof/Machine/Observe.lean ====
section
/-! DEFINITION. Device time, the Rinelle trace and the statistics counters (R494 to R510). -/

namespace Sys2Proof.Machine
open Sys2Proof

/-- The host island's clock runs: the block is powered, `BLK_RESET_N` is high, `HCLK` is locked, and the block is not in
Lull (R381, R476, R514). -/
def State.hostOn (s : State) : Bool :=
  s.ph.powered && !s.ph.blkReset && s.ph.hclk && (s.irq.lull == .awake || s.irq.lull == .entering)

/-- The function serves requests: the host island runs and does not enter Lull, start-up has ended and no function reset is in
progress (R355, R379, R477). -/
def State.serving (s : State) : Bool := s.hostOn && s.ph.ready && s.ep.fnReset.isNone && s.irq.lull == .awake

/-- The host island works on its own: it runs and no function reset holds it. -/
def State.hostWorks (s : State) : Bool := s.hostOn && s.ep.fnReset.isNone

/-- `WAKE_CAUSE` of a wake event (R384). -/
def wakeCause (e : WakeEvent) : Word :=
  match e with
  | .source n => BitVec.ofNat 32 (2 ^ 30 + n % 1024)
  | .pin => 0x80000000
  | .access => 0xC0000000
  | .fnReset => 0xC0000000

/-- A wake event (R380, R381): in Lull the block starts to wake and records the cause; during the entry it will wake as
soon as the entry is complete. The first event counts. -/
def State.wakeBy (s : State) (e : WakeEvent) : State :=
  match s.irq.lull with
  | .lull => { s.setReg 0x1001C (wakeCause e) with irq := { s.irq with lull := .waking, wakeAfter := some e } }
  | .entering => if s.irq.wakeAfter.isSome then s else { s with irq := { s.irq with wakeAfter := some e } }
  | _ => s

/-- The block is in Lull, or on its way into or out of it. -/
def State.asleep (s : State) : Bool := s.ph.powered && !s.ph.blkReset && s.irq.lull != .awake

/-- A request that arrives then is held at its port, and wakes the block (R379, R380). -/
def State.holdRequest (s : State) (c : Instr) (e : WakeEvent) : State :=
  let s := s.wakeBy e
  { s with ep := { s.ep with held := s.ep.held ++ [c] } }

/-- The time stamp of the host island (R19). -/
def State.now (s : State) : Nat := s.follower.toNat

/-- One REFCLK_AON clock: `DEVICE_TIME` counts 10 ns unless `AON_RESET_N` is low (R495), and the follower copy
reloads before it would trail by more than 40 ns while the host island runs (R19). -/
def State.aonClock (s : State) : State :=
  if s.ph.powered && !s.ph.aonReset then
    let t := s.deviceTime + 10
    { s with deviceTime := t
             follower := if s.hostOn && (decide (s.follower.toNat + 40 < t.toNat) || decide (t.toNat < s.follower.toNat))
                         then t else s.follower }
  else s

/-- A record (R497): time, type, unit and payload. -/
def traceRecord (now ty unit payload : Nat) : BitVec 128 :=
  BitVec.ofNat 128 (now % 2 ^ 40 + ty % 256 * 2 ^ 40 + unit % 1024 * 2 ^ 48 + payload % 2 ^ 64 * 2 ^ 64)

/-- A record reaches the buffer: it is dropped and counted when the buffer is full, and `stop_full` stops the trace
at the record that fills it, or finds it full, without a loss (R502, R503). -/
def State.traceIn (s : State) (r : BitVec 128) : State :=
  if s.trace.buf.length ≥ 65536 && s.bit 0x70000 29 then (s.setBit 0x70000 31 false).setBit 0x70004 29 true
  else if s.trace.buf.length ≥ 65536 then
    let s := { s with trace := { s.trace with dropped := addStop s.trace.dropped 1 0xFFFFFFFF } }
    s.addFld 0x70014 31 0 1
  else
    let s := { s with trace := { s.trace with buf := s.trace.buf ++ [r] } }
    if s.trace.buf.length ≥ 65536 && s.bit 0x70000 29 then (s.setBit 0x70000 31 false).setBit 0x70004 29 true else s

/-- Records are created while `TRC_CTRL.enable` is 1 and the host island runs (R500, R505). -/
def State.tracing (s : State) : Bool := s.bit 0x70000 31 && s.hostOn

/-- A record of class "always" (R500). -/
def State.traceAlways (s : State) (ty unit payload : Nat) : State :=
  if s.tracing then s.traceIn (traceRecord s.now ty unit payload) else s

/-- The class, channel and queue filters of R500. -/
def State.traceFilter (s : State) (cls unit : Nat) (isChan : Bool) (queue : Option Nat) : Bool :=
  s.bit 0x70008 cls &&
  (!s.bit 0x7000C 31 || !isChan || unit == 0x3FF ||
    (decide (s.fld 0x7000C 7 0 ≤ unit) && decide (unit ≤ s.fld 0x7000C 15 8))) &&
  (!s.bit 0x70010 31 || (match queue with | none => true | some q => q == s.fld 0x70010 14 0))

/-- A filtered record. `isChan` says that its unit is a channel; `queue` is the command's queue for types 0x10 to
0x12 (R499, R500). -/
def State.traceRec (s : State) (ty cls unit : Nat) (isChan : Bool) (payload : Nat) (queue : Option Nat) : State :=
  if s.tracing && s.traceFilter cls unit isChan queue then s.traceIn (traceRecord s.now ty unit payload) else s

/-- A TIME_SYNC record (R498). -/
def State.traceSync (s : State) : State := s.traceAlways 0x01 0x3FF s.now

/-- Adds a number to a sorted list without repeats. -/
def addSorted (n : Nat) (l : List Nat) : List Nat :=
  match l with
  | [] => [n]
  | x :: r => if n < x then n :: x :: r else if n = x then x :: r else x :: addSorted n r

/-- Counter `i` of group `g` counts `k` events, or saturates (R507). -/
def State.count (s : State) (g i k : Nat) : State :=
  let key := 32 * g + i
  let v := (SMap.getD s.counters key 0).toNat
  if v + k < 2 ^ 48 then { s with counters := SMap.setD s.counters key (BitVec.ofNat 48 (v + k)) 0 }
  else if s.saturated.contains key then s
  else
    let s := { s with counters := SMap.setD s.counters key (BitVec.ofNat 48 (2 ^ 48 - 1)) 0
                      saturated := addSorted key s.saturated }
    s.traceAlways 0x7F g i

/-- The code of a recovery step (`REPLAY_STATUS.state`). -/
def RecStep.code (r : RecStep) : Nat :=
  match r with
  | .idle => 0 | .stopping => 1 | .reset => 2 | .refreshWait => 3 | .retrain => 4 | .replay => 5

/-- The code of a bay state (R387). -/
def BayState.code (b : BayState) : Nat :=
  match b with
  | .empty => 0 | .debounce => 1 | .off => 2 | .ramping => 3 | .on => 4 | .fault => 5

/-- The code of a tag state (R64). -/
def TagState.code (t : TagState) : Nat :=
  match t with
  | .free => 0 | .queued => 1 | .fetching => 2 | .staged => 3 | .issued => 4 | .confirmed => 5 | .decoding => 6
  | .delivering => 7 | .completing => 8 | .replaying => 9

/-- A snapshot of group `g` into bank `b` (R508): its 32 counters with their saturated bits and the time. -/
def State.snapshot (s : State) (b g : Nat) (clear : Bool) : State :=
  let s := (countUp 0 32).foldl (fun (s : State) k =>
    let key := 32 * g + k
    let v := (SMap.getD s.counters key 0).toNat
    let s := s.setReg (0x71000 + b * 0x100 + k * 8) (BitVec.ofNat 32 v)
    let s := s.setReg (0x71004 + b * 0x100 + k * 8)
      (BitVec.ofNat 32 (v / 2 ^ 32 + ofBool (s.saturated.contains key) * 2 ^ 31))
    if clear then
      { s with counters := SMap.setD s.counters key 0 0, saturated := s.saturated.filter (fun x => x != key) }
    else s) s
  let at0 := 0x70100 + b * 0x10
  let s := s.setReg (at0 + 8) (BitVec.ofNat 32 s.now)
  let s := s.setReg (at0 + 12) (BitVec.ofNat 32 (s.now / 2 ^ 32))
  (s.setFld (at0 + 4) 8 0 g).setBit (at0 + 4) 31 true

/-- The head record leaves the buffer. -/
def State.traceDrop (s : State) : State := { s with trace := { s.trace with buf := restN 1 s.trace.buf } }

/-- A 32-bit read of the low half of `DEVICE_TIME` latches the high half for its port (R496). -/
def State.latchTime (s : State) (mgmt : Bool) : State :=
  let hi := BitVec.ofNat 32 (s.now / 2 ^ 32)
  if mgmt then { s with ep := { s.ep with shadowMgmt := some hi } }
  else { s with ep := { s.ep with shadowHost := some hi } }

/-- TIME_SYNC (R498): the sync interval has passed. -/
def execTimeSync (s : State) : Host.Outcome State Fault Refusal := .next s.traceSync

/-- LOST (R503): once two entries are free the dropped records are reported, and a TIME_SYNC follows. -/
def execLost (s : State) : Host.Outcome State Fault Refusal :=
  if s.hostOn && decide (0 < s.trace.dropped) && decide (s.trace.buf.length + 2 ≤ 65536) then
    let s := s.traceIn (traceRecord s.now 0x02 0x3FF s.trace.dropped)
    let s := s.traceIn (traceRecord s.now 0x01 0x3FF s.now)
    .next { s with trace := { s.trace with dropped := 0 } }
  else .next s

/-- `TRC_CTRL.flush` (R505). -/
def State.traceFlush (s : State) : State :=
  if s.bit 0x70000 31 then s.setBit 0x70004 31 true
  else ({ s with trace := { s.trace with buf := [] } }.setReg 0x70014 0).setBit 0x70004 29 false

/-- `TRC_POP` (R502). -/
def State.tracePop (s : State) : State := if s.bit 0x70000 30 then s else s.traceDrop

/-- BUS_BUSY (R506) of a channel's group counts the channel clocks with a bus job running since it was counted last:
a free number, since the model has no clocks (assumption log 77). -/
def State.busyClocks (s : State) (g : Nat) : State :=
  if g < s.nch then
    (s.nextFresh.2.nextFresh.2).count g 31
      ((Config.freeWord s.fresh).toNat + 2 ^ 32 * ((Config.freeWord s.nextFresh.2.fresh).toNat % 2 ^ 16))
  else s

/-- `SNAP_CTRL(b)` with go = 1 (R508). -/
def State.snapGo (s : State) (bank group : Nat) (clear : Bool) : State :=
  if s.bit (0x70104 + bank * 0x10) 31 || decide (group > 266) then s.setBit (0x70104 + bank * 0x10) 30 true
  else (s.busyClocks group).snapshot bank group clear

/-- TRC_POP (R502): firmware takes the head record; ignored while the port drains the buffer or it is empty. -/
def execTrcPop (s : State) : Host.Outcome State Fault Refusal :=
  if s.asleep then .next (s.holdRequest .trcPop .access)
  else if s.serving then .next s.tracePop else .next s

/-- TRC_FLUSH (R505). -/
def execTrcFlush (s : State) : Host.Outcome State Fault Refusal :=
  if s.asleep then .next (s.holdRequest .trcFlush .access)
  else if s.serving then .next s.traceFlush else .next s

/-- SNAPSHOT (R508): `SNAP_CTRL(b)` is written with go = 1. -/
def execSnapshot (bank group : Nat) (clear : Bool) (s : State) : Host.Outcome State Fault Refusal :=
  if s.asleep then .next (s.holdRequest (.snapshot bank group clear) .access)
  else if s.serving && decide (bank < 2) then .next (s.snapGo bank group clear) else .next s

/-- SNAPSHOT_DONE (R508): busy clears. -/
def execSnapshotDone (bank : Nat) (s : State) : Host.Outcome State Fault Refusal :=
  if s.hostOn && decide (bank < 2) then .next (s.setBit (0x70104 + bank * 0x10) 31 false) else .next s

/-- DEVICE_TIME_LO_READ (R496). -/
def execDeviceTimeLoRead (mgmt : Bool) (s : State) : Host.Outcome State Fault Refusal :=
  if s.hostOn then .next (s.latchTime mgmt) else .next s

/-- DEVICE_TIME_FOLLOWER_RELOAD (R19, R495): a new Zephyr count crosses the join. -/
def execDeviceTimeFollowerReload (s : State) : Host.Outcome State Fault Refusal :=
  if s.hostOn then .next { s with follower := s.deviceTime } else .next s

/-- TRACE_PORT_SEND (R504): the head record leaves in four beats, bits [31:0] first. -/
def execTracePortSend (s : State) : Host.Outcome State Fault Refusal :=
  if s.hostOn && s.bit 0x70000 30 then
    match s.trace.buf with
    | [] => .next s
    | r :: rest =>
      .next { s with trace := { s.trace with
        buf := rest
        port := (countUp 0 4).map (fun j => BitVec.ofNat 32 (r.toNat / 2 ^ (32 * j))) } }
  else .next s

end Sys2Proof.Machine
end

