-- ==== Sys2Proof/Machine/Irq.lean ====
section
/-! DEFINITION. The interrupt controller: sources, Squall limiter, routing, claim and complete (R363 to R377). -/

namespace Sys2Proof.Machine
open Sys2Proof

/-- Whether source `n` is in the fast class. -/
def State.srcFast (s : State) (n : Nat) : Bool := s.bit (0x14000 + n * 16) 8

/-- Whether source `n` is masked (R366). -/
def State.srcMasked (s : State) (n : Nat) : Bool := s.arrBit 0x10280 n

/-- The target mask of source `n`. -/
def State.srcTargets (s : State) (n : Nat) : Nat :=
  (s.reg (0x14004 + n * 16)).toNat + (s.reg (0x14008 + n * 16)).toNat * 2 ^ 32

/-- Whether a source of the build can be raised by its cause (R362, R363). -/
def State.srcExists (s : State) (n : Nat) : Bool :=
  sourceReal n && !(decide (836 ≤ n) && decide (n < 840)) &&
    (if n < 256 then decide (n < s.nch) else if 768 ≤ n && n < 800 then decide (n - 768 < s.nch / 8) else true)

/-- An IRQ trace record (R499): 0 raised, 1 claimed, 2 completed, 3 spurious. -/
def State.traceIrq (s : State) (unit what : Nat) (fast : Bool) (t : Nat) : State :=
  s.traceRec 0x40 5 unit false (what + 4 * ofBool fast + 8 * t) none

/-- The Squall limiter counts one event of source `n` and masks it at the excess (R367). -/
def State.squall (s : State) (n : Nat) : State :=
  if s.bit 0x10004 31 && !s.bit (0x14000 + n * 16) 9 then
    let c := SMap.getD s.irq.counts n 0 + 1
    let s := { s with irq := { s.irq with counts := SMap.setD s.irq.counts n c 0 } }
    let limit := if s.fld 0x10004 7 0 = 0 then 1 else s.fld 0x10004 7 0
    if c = limit + 1 then
      (((s.setArrBit 0x10280 n true).setArrBit 0x10300 n true).addFld 0x10000 31 16 1).count 266 0 1
    else s
  else s

/-- The pending bit of source `n` sets and the limiter counts the event (R364, R365). -/
def State.pendEdge (s : State) (n : Nat) : State :=
  let s := s.squall n
  if bitOf s.irq.pend.toNat n then s
  else ({ s with irq := { s.irq with pend := s.irq.pend ||| (1#1024 <<< n) } }).traceIrq n 0 (s.srcFast n) 0

/-- An enabled `WAKE_SEL` names source `n` (R380). -/
def State.watched (s : State) (n : Nat) : Bool :=
  (countUp 0 32).any (fun i => s.bit (0x10400 + 4 * i) 31 && s.fld (0x10400 + 4 * i) 9 0 == n)

/-- An edge of source `n` reaches the controller (R364). In Lull, in a reset and before the block is ready the Zephyr
island holds the edges of bay sources (R380, R398); other edges during a reset are lost (R382). -/
def State.raise (s : State) (n : Nat) : State :=
  if !s.srcExists n then s
  else if 768 ≤ n && n < 800 && !(s.hostWorks && s.ph.ready) then
    let s : State := { s with irq := { s.irq with heldEdges := addSorted n s.irq.heldEdges } }
    if s.watched n then s.wakeBy (.source n) else s
  else if s.hostWorks then
    (let s := s.pendEdge n
     if 768 ≤ n && n < 800 && s.watched n then s.wakeBy (.source n) else s)
  else s

/-- The edges that the Zephyr island held set their pending bits (R381, R398). -/
def State.releaseEdges (s : State) : State :=
  s.irq.heldEdges.foldl (fun s n => s.pendEdge n) { s with irq := { s.irq with heldEdges := [] } }

/-- Source 835 is raised (R360): its edge counts during the reset that causes it, too. -/
def State.raiseCarry (s : State) : State := if s.hostOn then s.pendEdge 835 else s

/-- A bit of channel `n`'s `CHAN_ATTN` sets; its source gets an edge when the bit was 0 (R162). -/
def State.attn (s : State) (n b : Nat) : State :=
  if s.bit (chanPage n + 0xA8) b then s else (s.setBit (chanPage n + 0xA8) b true).raise n

/-- The key of a target and class in the in-service table. -/
def svcKey (t : Nat) (fast : Bool) : Nat := 2 * t + ofBool fast

/-- The source in service at target `t` in a class (R370). -/
def State.inService (s : State) (t : Nat) (fast : Bool) : Option Nat := SMap.get s.irq.service (svcKey t fast)

/-- The handler state of a target: 0 idle, 1 normal handler, 2 fast handler (R374). -/
def State.targetState (s : State) (t : Nat) : Nat :=
  if (s.inService t true).isSome then 2 else if (s.inService t false).isSome then 1 else 0

/-- The running priority of a target (R374). -/
def State.runningPrio (s : State) (t : Nat) : Nat := 8 * s.targetState t + s.fld (0x20008 + t * 0x400) 2 0

/-- The route of source `n` as a list of targets (R373, R374, R375). -/
def State.route (s : State) (n : Nat) : List Nat :=
  let named := (countUp 0 s.targets).filter (bitOf (s.srcTargets n))
  match s.build with
  | .skn256 => named
  | _ => match leastBy s.runningPrio named with | none => [] | some t => [t]

/-- Source `n` is deliverable to target `t` (R366). -/
def State.deliverable (s : State) (n t : Nat) : Bool :=
  bitOf s.irq.pend.toNat n && !s.srcMasked n && (s.route n).contains t

/-- The deliverable source of a class that a claim at `t` would take: the highest priority, then the lowest number
(R370). -/
def State.bestSource (s : State) (t : Nat) (fast : Bool) : Option Nat :=
  leastBy (fun n => 15 - s.fld (0x14000 + n * 16) 3 0)
    ((setBits 1024 s.irq.pend.toNat).filter (fun n => s.srcFast n == fast && s.deliverable n t))

/-- The level of the interrupt line of target `t` and a class (R369). -/
def State.irqLine (s : State) (t : Nat) (fast : Bool) : Bool :=
  s.hostWorks && decide (t < s.targets) && (s.inService t fast).isNone && (s.bestSource t fast).isSome

/-- The counter group and index of target `t` for a class, from base group `g` (R506). -/
def irqGroup (g t : Nat) (fast : Bool) : Nat × Nat := (g + 2 * ofBool fast + t / 32, t % 32)

/-- The claim page of a target and class (R31). -/
def claimPage (t : Nat) (fast : Bool) : Nat := 0x20000 + 0x10000 * ofBool fast + t * 0x400

/-- A read of `CLAIM` (R370): the source claimed, or 0xFFFF. -/
def State.claim (s : State) (t : Nat) (fast : Bool) : Nat × State :=
  let busy := (s.inService t fast).isSome
  match (if busy then none else s.bestSource t fast) with
  | some n =>
    let s := { s with irq := { s.irq with pend := s.irq.pend &&& ~~~(1#1024 <<< n)
                                          service := SMap.insert s.irq.service (svcKey t fast) n } }
    let c := irqGroup 256 t fast
    (n, (s.count c.1 c.2 1).traceIrq n 1 fast t)
  | none =>
    let s := if busy then s.setBit (claimPage t fast + 12) 31 true else s
    let c := irqGroup 260 t fast
    (0xFFFF, (s.count c.1 c.2 1).traceIrq 0x3FF 3 fast t)

/-- A write to `COMPLETE` (R371, R372). -/
def State.complete (s : State) (t : Nat) (fast : Bool) (v : Word) : State :=
  let src := wfld v 15 0
  if src = 0xFFFF then s
  else if s.inService t fast = some src then
    let s := { s with irq := { s.irq with service := SMap.erase s.irq.service (svcKey t fast) } }
    let s := if bitOf v.toNat 16 then s.count (264 + t / 32) (t % 32) 1 else s
    s.traceIrq src 2 fast t
  else s.setBit (claimPage t fast + 12) 30 true

/-- `SRC_PEND_SET` word `w` (R365). -/
def State.pendSet (s : State) (w : Nat) (v : Word) : State :=
  (setBits 32 (v &&& sourceBits w).toNat).foldl (fun s b => s.pendEdge (32 * w + b)) s

/-- `SRC_PEND_CLR` word `w` (R366). -/
def State.pendClr (s : State) (w : Nat) (v : Word) : State :=
  { s with irq := { s.irq with
    pend := s.irq.pend &&& ~~~(BitVec.ofNat 1024 ((v &&& sourceBits w).toNat * 2 ^ (32 * w))) } }

/-- SOURCE_EDGE (R364): the input of a source rises. A software source has none (R365). -/
def execSourceEdge (source : Nat) (s : State) : Host.Outcome State Fault Refusal :=
  .next (if source < 864 then s.raise source else s)

/-- SQUALL_WINDOW_END (R367): a new window starts. -/
def execSquallWindowEnd (s : State) : Host.Outcome State Fault Refusal :=
  if s.hostOn then .next { s with irq := { s.irq with counts := [] } } else .next s

/-- SRC_PEND_SET (R365). -/
def execSrcPendSet (w : Nat) (val : Word) (s : State) : Host.Outcome State Fault Refusal :=
  if s.asleep then .next (s.holdRequest (.srcPendSet w val) .access)
  else if s.serving && decide (w < 32) then .next (s.pendSet w val) else .next s

/-- SRC_PEND_CLR (R366). -/
def execSrcPendClr (w : Nat) (val : Word) (s : State) : Host.Outcome State Fault Refusal :=
  if s.asleep then .next (s.holdRequest (.srcPendClr w val) .access)
  else if s.serving && decide (w < 32) then .next (s.pendClr w val) else .next s

/-- SRC_MASK_WRITE (R368): the written value replaces the mask word. -/
def execSrcMaskWrite (w : Nat) (val : Word) (s : State) : Host.Outcome State Fault Refusal :=
  if s.asleep then .next (s.holdRequest (.srcMaskWrite w val) .access)
  else if s.serving && decide (w < 32) then .next (s.setReg (0x10280 + 4 * w) (val &&& sourceBits w)) else .next s

/-- CLAIM (R370). -/
def execClaim (target : Nat) (fast : Bool) (s : State) : Host.Outcome State Fault Refusal :=
  if s.asleep then .next (s.holdRequest (.claim target fast) .access)
  else if s.serving && decide (target < s.targets) then .next (s.claim target fast).2 else .next s

/-- COMPLETE (R371). -/
def execComplete (target : Nat) (fast : Bool) (val : Word) (s : State) : Host.Outcome State Fault Refusal :=
  if s.asleep then .next (s.holdRequest (.complete target fast val) .access)
  else if s.serving && decide (target < s.targets) then .next (s.complete target fast val) else .next s

end Sys2Proof.Machine
end

