-- ==== Sys2Proof/Machine/Packet.lean ====
section
/-! DEFINITION. The fields of a packet (R54), of a flash address word (R55) and of a target's geometry (R127), and the
programs that a packet makes. -/

namespace Sys2Proof.Machine
open Sys2Proof

/-- The opcode of a code (R76). -/
def Opcode.ofCode (n : Nat) : Option Opcode :=
  match n with
  | 0x01 => some .readPage
  | 0x02 => some .readQuarter
  | 0x03 => some .readRaw
  | 0x04 => some .readRebuild
  | 0x08 => some .programPage
  | 0x09 => some .programRaw
  | 0x0A => some .reprogramHeld
  | 0x0B => some .releaseFrame
  | 0x0C => some .copyPage
  | 0x10 => some .eraseBlock
  | 0x18 => some .getFeature
  | 0x19 => some .setFeature
  | 0x1A => some .readParameterPage
  | 0x1B => some .resetTarget
  | 0x20 => some .abort
  | 0x21 => some .fence
  | 0x22 => some .getDeferred
  | 0x28 => some .survey
  | 0x29 => some .calibrate
  | 0x2A => some .selfTest
  | 0x30 => some .runRoutine
  | 0x31 => some .stripeParity
  | _ => none

/-- The code of an opcode (R76). -/
def Opcode.code (o : Opcode) : Nat :=
  match o with
  | .readPage => 0x01
  | .readQuarter => 0x02
  | .readRaw => 0x03
  | .readRebuild => 0x04
  | .programPage => 0x08
  | .programRaw => 0x09
  | .reprogramHeld => 0x0A
  | .releaseFrame => 0x0B
  | .copyPage => 0x0C
  | .eraseBlock => 0x10
  | .getFeature => 0x18
  | .setFeature => 0x19
  | .readParameterPage => 0x1A
  | .resetTarget => 0x1B
  | .abort => 0x20
  | .fence => 0x21
  | .getDeferred => 0x22
  | .survey => 0x28
  | .calibrate => 0x29
  | .selfTest => 0x2A
  | .runRoutine => 0x30
  | .stripeParity => 0x31

/-- The code of a status (R80). -/
def Status.code (t : Status) : Nat :=
  match t with
  | .success => 0x00
  | .successRetried => 0x01
  | .successSoft => 0x02
  | .successRebuilt => 0x03
  | .invalidOpcode => 0x10
  | .invalidField => 0x11
  | .pageOrderViolation => 0x12
  | .channelFenced => 0x13
  | .aborted => 0x20
  | .tooLate => 0x21
  | .notFound => 0x22
  | .uncorrectable => 0x30
  | .lunStatusFail => 0x31
  | .targetAbsent => 0x32
  | .outcomeIndeterminate => 0x33
  | .replayExhausted => 0x34
  | .timeout => 0x35
  | .hostAccessError => 0x40
  | .dataPoisoned => 0x41

/-- The opcode of a packet. -/
def pkOpcode (p : Packet) : Option Opcode := Opcode.ofCode (ple p 0 1)

/-- `sd_valid`. -/
def pkSd (p : Packet) : Bool := pdw p 0 8 8 == 1

/-- `data_mode`: the data buffer is described by a scatter-gather list. -/
def pkList (p : Packet) : Bool := pdw p 0 9 9 == 1

/-- `md_valid`. -/
def pkMd (p : Packet) : Bool := pdw p 0 10 10 == 1

/-- `cid`. -/
def pkCid (p : Packet) : BitVec 16 := BitVec.ofNat 16 (ple p 2 2)

/-- `level`. -/
def pkLevel (p : Packet) : Nat := pdw p 1 2 0

/-- `page_size`. -/
def pkSize (p : Packet) : Nat := pdw p 1 9 8

/-- `page_type`. -/
def pkType (p : Packet) : Nat := pdw p 1 18 16

/-- The flash address word. -/
def pkAddr (p : Packet) : Addr := BitVec.ofNat 64 (ple p 8 8)

/-- `length`. -/
def pkLen (p : Packet) : Nat := ple p 24 4

/-- `md_ptr`. -/
def pkMdPtr (p : Packet) : Addr := BitVec.ofNat 64 (ple p 32 8)

/-- `sd_ptr`. -/
def pkSdPtr (p : Packet) : Addr := BitVec.ofNat 64 (ple p 40 8)

/-- Bytes 56 to 63: the source of a COPY_PAGE or the Q page of a STRIPE_PARITY. -/
def pkAddr2 (p : Packet) : Addr := BitVec.ofNat 64 (ple p 56 8)

/-- Byte `n` of a packet. -/
def pkByte (p : Packet) (n : Nat) : Nat := ple p n 1

/-- The channel of an address word. -/
def aCh (a : Addr) : Nat := afld a 11 4

/-- The local LUN of an address word. -/
def aLun (a : Addr) : Nat := afld a 3 0

/-- The LUN index of an address word. -/
def aIdx (a : Addr) : Nat := afld a 11 0

/-- The plane of an address word. -/
def aPlane (a : Addr) : Nat := afld a 13 12

/-- The quarter of an address word. -/
def aQuarter (a : Addr) : Nat := afld a 15 14

/-- The page of an address word. -/
def aPage (a : Addr) : Nat := afld a 31 16

/-- The block of an address word. -/
def aBlock (a : Addr) : Nat := afld a 51 32

/-- The target of a local LUN (R120). -/
def targetOf (lun : Nat) : Nat := lun / 2

/-- `TGT_GEOM_LO` of a target. -/
def geomAt (ch t : Nat) : Nat := chanPage ch + 0x10 + t * 8

/-- The target is recorded present. -/
def State.tgtPresent (s : State) (ch t : Nat) : Bool := s.bit (geomAt ch t) 23

/-- LUNs of a target. -/
def State.tgtLuns (s : State) (ch t : Nat) : Nat := if s.bit (geomAt ch t) 22 then 2 else 1

/-- Bits per cell of a target. -/
def State.tgtBpc (s : State) (ch t : Nat) : Nat := s.fld (geomAt ch t) 26 24

/-- Planes of a target. -/
def State.tgtPlanes (s : State) (ch t : Nat) : Nat := s.fld (geomAt ch t) 21 20 + 1

/-- Blocks per plane of a target. -/
def State.tgtBlocks (s : State) (ch t : Nat) : Nat := s.fld (geomAt ch t) 19 0 + 1

/-- Spare bytes of a target's page. -/
def State.tgtSpare (s : State) (ch t : Nat) : Nat := s.fld (geomAt ch t + 4) 31 20

/-- The native page code of a target: 0, 1 or 2. -/
def State.tgtPage (s : State) (ch t : Nat) : Nat := s.fld (geomAt ch t + 4) 17 16

/-- Pages per block of a target. -/
def State.tgtPages (s : State) (ch t : Nat) : Nat := s.fld (geomAt ch t + 4) 15 0 + 1

/-- Bytes of a page size code. -/
def sizeBytes (k : Nat) : Nat := 4096 * 2 ^ k

/-- Native page bytes plus spare. -/
def State.tgtRoom (s : State) (ch t : Nat) : Nat := sizeBytes (s.tgtPage ch t) + s.tgtSpare ch t

/-- A LUN is found at bring-up (R124). -/
def State.lunFound (s : State) (ch l : Nat) : Bool :=
  decide (ch < s.nch) && s.tgtPresent ch (targetOf l) && decide (l % 2 < s.tgtLuns ch (targetOf l))

/-- The reads that decode or return cells. -/
def Opcode.isRead (o : Opcode) : Bool :=
  match o with
  | .readPage | .readQuarter | .readRaw | .readRebuild => true
  | _ => false

/-- The program-type commands (R81), a STRIPE_PARITY close among them. -/
def isProgramType (p : Packet) : Bool :=
  match pkOpcode p with
  | some .programPage | some .programRaw | some .reprogramHeld | some .copyPage => true
  | some .stripeParity => pkByte p 48 == 1
  | _ => false

/-- The tag holds a program-type command. -/
def Tag.isProgram (t : Tag) : Bool := isProgramType t.packet

/-- The open-block entry `e` covers the page of an address word. -/
def ObtEntry.covers (e : ObtEntry) (lun : Nat) (a : Addr) : Bool :=
  lun == aIdx a && e.plane.toNat == aPlane a && e.block.toNat == aBlock a

/-- Programs in flight of the block of open-block entry `k` (`OBT_HI.inflight`, R158): program-type commands that hold
tags, and the tagless Q program of a close. -/
def State.obtInflight (s : State) (k : Nat) : Nat :=
  let e := s.obtEntry k
  if e.valid then
    (s.tags.filter (fun p => p.2.st != .free && p.2.isProgram && e.covers (k / 8) (pkAddr p.2.packet))).length +
    (s.accs.filter (fun p => p.2.closeTag.isSome && p.2.st == .closing && !p.2.qDone && p.2.count == 2 &&
      e.covers (k / 8) p.2.qAddr)).length
  else 0

end Sys2Proof.Machine
end

