-- ==== Sys2Proof/Machine/Memory.lean ====
section
/-! DEFINITION. Protection of internal memories: byte code, word code, poison, error logs, injection, initialisation
and BIST (R439 to R454). -/

namespace Sys2Proof.Machine
open Sys2Proof

/-- The five check bits of a data byte (R440). -/
def byteCheck (b : Nat) : Nat :=
  let x := fun (l : List Nat) => (l.filter (bitOf b)).length % 2
  let c0 := x [0, 1, 3, 4, 6]
  let c1 := x [0, 2, 3, 5, 6]
  let c2 := x [1, 2, 3, 7]
  let c3 := x [4, 5, 6, 7]
  let c4 := (x [0, 1, 2, 3, 4, 5, 6, 7] + c0 + c1 + c2 + c3) % 2
  c0 + 2 * c1 + 4 * c2 + 8 * c3 + 16 * c4

/-- What a stored word reads as: the data, and whether it was clean, corrected at a bit, or uncorrectable. -/
inductive CodeRead where
  | clean
  | corrected (bit : Nat)
  | bad
  deriving DecidableEq, Repr

/-- Reads a stored byte with its check bits (R440): bits 0 to 7 are the data, 8 to 12 the check bits. -/
def byteDecode (b c : Nat) : Nat × CodeRead :=
  if byteCheck b = c then (b, .clean)
  else
    match (countUp 0 8).find? (fun i => byteCheck (b ^^^ 2 ^ i) == c) with
    | some i => (b ^^^ 2 ^ i, .corrected i)
    | none =>
      match (countUp 0 5).find? (fun i => byteCheck b == c ^^^ 2 ^ i) with
      | some i => (b, .corrected (8 + i))
      | none => (b, .bad)

/-- The number of ones among the 10 bits of a column. -/
def weight10 (x : Nat) : Nat := ((countUp 0 10).filter (bitOf x)).length

/-- The columns that a data bit of a staging word may have: the 10-bit vectors of odd weight but those of the check bits
(R441). -/
def oddColumns : List Nat := (countUp 0 1024).filter (fun x => weight10 x % 2 == 1 && weight10 x != 1)

/-- The columns of the 256 data bits (R441): distinct, each of odd weight, none that of a check bit. -/
def stagingColumns : List Nat := firstN 256 (sortBy Config.stagingKey oddColumns)

/-- The 10 check bits of a staging word: the sum of the columns of its ones (R441). -/
def stagingCheck (d : BitVec 256) : BitVec 10 :=
  stagingColumns.zipIdx.foldl (fun c p => if d.getLsbD p.2 then c ^^^ BitVec.ofNat 10 p.1 else c) 0

/-- Reads a stored staging word with its check bits (R441): bits 0 to 255 are the data, 256 to 265 the check bits. -/
def wordDecode (d : BitVec 256) (c : BitVec 10) : BitVec 256 × CodeRead :=
  let e := (stagingCheck d ^^^ c).toNat
  if e = 0 then (d, .clean)
  else
    match stagingColumns.findIdx? (fun x => x == e) with
    | some i => (d ^^^ (1#256 <<< i), .corrected i)
    | none =>
      match (countUp 0 10).find? (fun i => e == 2 ^ i) with
      | some i => (d, .corrected (256 + i))
      | none => (d, .bad)

/-- Entry `e` of the log of class `c`. -/
def mlogAt (c e : Nat) : Nat := 0x61000 + c * 0x200 + e * 0x10

/-- An error is recorded in its class log (R447); `bist` marks a word that BIST left unmapped (R451). -/
def State.logError (s : State) (c addr : Nat) (ue bist : Bool) (bit : Nat) : State :=
  match (countUp 0 32).find? (fun e => s.bit (mlogAt c e + 4) 31 && (s.reg (mlogAt c e)).toNat == addr) with
  | some e =>
    ((s.addFld (mlogAt c e + 4) 23 16 1).setBit (mlogAt c e + 4) 30 (ue || s.bit (mlogAt c e + 4) 30)).setBit
      (mlogAt c e + 4) 29 (bist || s.bit (mlogAt c e + 4) 29)
  | none =>
    match (countUp 0 32).find? (fun e => !s.bit (mlogAt c e + 4) 31) with
    | some e =>
      let info := 2 ^ 31 + ofBool ue * 2 ^ 30 + ofBool bist * 2 ^ 29 + 2 ^ 16 + bit
      let s := s.setReg (mlogAt c e) (BitVec.ofNat 32 addr)
      let s := s.setReg (mlogAt c e + 4) (BitVec.ofNat 32 info)
      let s := s.setReg (mlogAt c e + 8) (BitVec.ofNat 32 (s.now / 1024))
      let s := s.addFld (0x60080 + 4 * c) 5 0 1
      if ue || bist then s else s.raise 808
    | none => (s.addFld (0x60080 + 4 * c) 31 16 1).raise 812

/-- A correctable error is counted, logged and waits for its write-back (R446). -/
def State.noteCorrected (s : State) (c addr bit : Nat) : State :=
  let s := (s.addFld (0x60040 + 8 * c) 31 0 1).logError c addr false false bit
  if s.writeBacks.contains (c, addr) then s else { s with writeBacks := s.writeBacks ++ [(c, addr)] }

/-- An uncorrectable error is counted, logged and raises its source (R448). -/
def State.noteBad (s : State) (c addr : Nat) : State :=
  ((s.addFld (0x60044 + 8 * c) 31 0 1).logError c addr true false 0x1FF).raise
    (if c < 5 then 809 else if c = 5 then 810 else 811)

/-- The key of a 4-byte group of a byte-coded class: class, and the address in the `MLOG_ADDR` format. -/
def groupKey (c addr : Nat) : Nat := c * 2 ^ 28 + addr / 4 * 4

/-- A write-back that waits for one of `n` bytes or for a word from `addr` is dropped, since the word has been written
(R446). -/
def State.dropWriteBack (s : State) (c addr n : Nat) : State :=
  { s with writeBacks := s.writeBacks.filter (fun p => !(p.1 == c && decide (addr ≤ p.2) && decide (p.2 < addr + n))) }

/-- A byte of a stored group as it reads (R440). -/
def RawGroup.byte (g : RawGroup) (k : Nat) : Nat × CodeRead :=
  byteDecode (wfld g.data (8 * k + 7) (8 * k)) (bits g.check.toNat (5 * k + 4) (5 * k))

/-- The bytes of a stored group that are uncorrectable, as a mask. -/
def RawGroup.bad (g : RawGroup) : Nat :=
  (countUp 0 4).foldl (fun acc k => acc + ofBool ((g.byte k).2 == .bad) * 2 ^ k) 0

/-- The data of a stored group as it reads. -/
def RawGroup.value (g : RawGroup) : Word :=
  BitVec.ofNat 32 ((countUp 0 4).foldl (fun acc k => acc + (g.byte k).1 * 2 ^ (8 * k)) 0)

/-- The errors of one stored group are found by a reader: counted and logged, byte by byte. Answers whether a byte
was uncorrectable. -/
def State.useGroup (s : State) (c addr : Nat) : Bool × State :=
  match SMap.get s.rawGroups (groupKey c addr) with
  | none => (false, s)
  | some g =>
    (countUp 0 4).foldl (fun (p : Bool × State) k =>
      match (g.byte k).2 with
      | .clean => p
      | .corrected b => (p.1, p.2.noteCorrected c (addr / 4 * 4 + k) b)
      | .bad => (true, p.2.noteBad c (addr / 4 * 4 + k))) (false, s)

/-- The block reads an entry of a byte-coded class: `n` bytes from address `addr`, of which raw writes have stored some groups.
Answers whether it met an uncorrectable error. -/
def State.useEntry (s : State) (c addr n : Nat) : Bool × State :=
  ((s.rawGroups.map Prod.fst).filter (fun k => decide (groupKey c addr ≤ k) && decide (k < groupKey c (addr + n + 3)))).foldl
    (fun (p : Bool × State) k =>
      let r := p.2.useGroup c (k % 2 ^ 28)
      (p.1 || r.1, r.2)) (false, s)

/-- A normal write of an entry stores fresh check bits. -/
def State.freshEntry (s : State) (c addr n : Nat) : State :=
  (countUp 0 (divUp n 4)).foldl (fun (s : State) i =>
    { s with rawGroups := SMap.erase s.rawGroups (groupKey c (addr + 4 * i)) }) (s.dropWriteBack c (addr / 4 * 4) n)

/-- The bytes of an entry as its store holds them, where raw writes have changed some of its groups, and a mask of those
that are uncorrectable (R448, R449). -/
def State.storedBytes (s : State) (c addr : Nat) (l : List Byte) : List Byte × Nat :=
  if s.rawGroups.isEmpty then (l, 0)
  else
    (countUp 0 (l.length / 4)).foldl (fun (p : List Byte × Nat) i =>
      match SMap.get s.rawGroups (groupKey c (addr + 4 * i)) with
      | none => p
      | some g => (firstN (4 * i) p.1 ++ leBytes 4 g.value.toNat ++ restN (4 * i + 4) p.1, p.2 + g.bad * 2 ^ (4 * i)))
      (l, 0)

/-- An address in the `MLOG_ADDR` format for classes 0 to 4 (R453). -/
def mlogAddr (store entry byte : Nat) : Nat := store * 2 ^ 24 + entry * 256 + byte

/-- The oldest entry of a store that holds a queue leaves it: the raw bits of the others move one place on. -/
def State.shiftEntries (s : State) (c store : Nat) : State :=
  if s.rawGroups.isEmpty then s
  else
    let base := groupKey c (mlogAddr store 0 0)
    let inside := fun k => decide (base ≤ k) && decide (k < base + 2 ^ 24)
    { s.dropWriteBack c (mlogAddr store 0 0) (2 ^ 24) with
      rawGroups := (s.rawGroups.filter (fun e => !(inside e.1 && decide (e.1 < base + 256)))).map (fun e =>
        (if inside e.1 then e.1 - 256 else e.1, e.2)) }

/-- The head entry leaves the carry-over log (R359); ignored while the log is empty. -/
def State.popCarry (s : State) : State :=
  if s.carry.isEmpty then s else { s with carry := restN 1 s.carry }.shiftEntries 1 1

/-- The head advisory leaves the ring (R282); ignored while the ring is empty. -/
def State.popAdvisory (s : State) : State :=
  if s.adv.isEmpty then s else { s with adv := restN 1 s.adv }.shiftEntries 3 1

/-- Whether every tag of channel `n` is FREE. -/
def State.noTags (s : State) (n : Nat) : Bool :=
  s.tags.all (fun e => e.1 / 64 != n || e.2.st == .free)

/-- The channel is fenced by firmware and holds no tag. -/
def State.fencedIdle (s : State) (n : Nat) : Bool := (s.chan n).fenced && s.noTags n

/-- Where word `w` of frame `f` is stored: its own place, or the spare word that the remap table gives it (R451). -/
def State.spareOf (s : State) (f w : Nat) : Option Nat :=
  let n := f / 64
  ((countUp 0 8).find? (fun k =>
    s.bit (0x68000 + n * 0x20 + k * 4) 31 && s.fld (0x68000 + n * 0x20 + k * 4) 15 0 == f % 64 * 640 + w)).map
    (fun k => n * 8 + k)

/-- The stored word `w` of frame `f`, with its `MLOG_ADDR` address. -/
def State.stored (s : State) (f w : Nat) : Nat × FWord :=
  match s.spareOf f w with
  | some k => (2 ^ 24 + k, s.spare k)
  | none => (640 * f + w, s.fword (640 * f + w))

/-- Stores a word at its place. -/
def State.store (s : State) (f w : Nat) (x : FWord) : State :=
  match s.spareOf f w with
  | some k => (s.dropWriteBack 5 (2 ^ 24 + k) 1).setSpare k x
  | none => (s.dropWriteBack 5 (640 * f + w) 1).setFword (640 * f + w) x

/-- A word with fresh check bits. -/
def FWord.fresh (d : BitVec 256) (poison : Bool) : FWord :=
  { data := d, poison0 := poison, poison1 := poison, raw := none }

/-- The block reads word `w` of frame `f` (R442, R446, R448): the data, whether the word counts as poisoned, and
whether it was uncorrectable. -/
def State.readWord (s : State) (f w : Nat) : (BitVec 256 × Bool × Bool) × State :=
  let p := s.stored f w
  let x := p.2
  let poison := x.poison0 || x.poison1
  match x.raw with
  | none => ((x.data, poison, false), s)
  | some (d, c) =>
    match wordDecode d c with
    | (v, .clean) => ((v, poison, false), s)
    | (v, .corrected b) => ((v, poison, false), s.noteCorrected 5 p.1 b)
    | (v, .bad) => ((v, true, true), (s.noteBad 5 p.1).store f w (FWord.fresh v true))

/-- A write of whole word `w` of frame `f` (R442). -/
def State.writeWord (s : State) (f w : Nat) (d : BitVec 256) (poison : Bool) : State :=
  s.store f w (FWord.fresh d poison)

/-- The 32 bytes of a word. -/
def wordBytes (d : BitVec 256) : List Byte := leBytes 32 d.toNat

/-- A word of 32 bytes. -/
def bytesWord (l : List Byte) : BitVec 256 := BitVec.ofNat 256 (leNat l)

/-- Which of bytes `off` to `off + len - 1` of frame `f` a reader of the block gets poisoned: those of its poisoned words. -/
def State.frameMarks (s : State) (f off len : Nat) : List Bool :=
  let w0 := off / 32
  let n := if len = 0 then 0 else (off + len - 1) / 32 + 1 - w0
  firstN len (restN (off % 32) ((countUp w0 n).flatMap (fun w => copies 32 (s.readWord f w).1.2.1)))

/-- Bytes `off` to `off + len - 1` of frame `f` as a reader of the block gets them, and whether a word it read is
poisoned. -/
def State.frameRead (s : State) (f off len : Nat) : (List Byte × Bool) × State :=
  let w0 := off / 32
  let n := if len = 0 then 0 else (off + len - 1) / 32 + 1 - w0
  let r := (countUp w0 n).foldl (fun (p : (List Byte × Bool) × State) w =>
    let x := p.2.readWord f w
    ((p.1.1 ++ wordBytes x.1.1, p.1.2 || x.1.2.1), x.2)) (([], false), s)
  ((firstN len (restN (off % 32) r.1.1), r.1.2), r.2)

/-- A write of part of word `w`: the hardware read-modify-write (R444). `at0` is the first byte's place. -/
def State.narrowWrite (s : State) (f w at0 : Nat) (l : List Byte) (poison : Bool) : State :=
  let x := s.readWord f w
  let old := wordBytes x.1.1
  let new := firstN at0 old ++ l ++ restN (at0 + l.length) old
  x.2.writeWord f w (bytesWord new) (poison || x.1.2.1)

/-- Writes bytes from offset `off` of frame `f`, at most `fuel` words; a byte whose mark is set poisons its word (R325). -/
def State.frameWriteFrom (s : State) (fuel f off : Nat) (l : List Byte) (marks : List Bool) : State :=
  match fuel with
  | 0 => s
  | k + 1 =>
    match l with
    | [] => s
    | _ =>
      let at0 := off % 32
      let n := min (32 - at0) l.length
      let part := firstN n l
      let poison := (firstN n marks).any id
      let s := if n = 32 then s.writeWord f (off / 32) (bytesWord part) poison
               else s.narrowWrite f (off / 32) at0 part poison
      s.frameWriteFrom k f (off + n) (restN n l) (restN n marks)

/-- Writes bytes from offset `off` of frame `f` (R208, R211, R444). -/
def State.frameWrite (s : State) (f off : Nat) (l : List Byte) (poison : Bool) : State :=
  s.frameWriteFrom (l.length + 1) f off l (copies l.length poison)

/-- Writes bytes of which the marked ones are poisoned (R325). -/
def State.frameWriteMarked (s : State) (f off : Nat) (l : List Byte) (marks : List Bool) : State :=
  s.frameWriteFrom (l.length + 1) f off l marks

/-- Every word of channel `n`'s frames and spares is zero with correct check bits and no poison (R445). -/
def State.clearStaging (s : State) (n : Nat) : State :=
  { s with words := s.words.filter (fun e => e.1 / 40960 != n), spares := s.spares.filter (fun e => e.1 / 8 != n) }

/-- No staging initialisation or BIST runs on channel `n`. -/
def State.stagingQuiet (s : State) (n : Nat) : Bool := !s.arrBit 0x60100 n && !s.arrBit 0x60120 n

/-- None of the channel's frames is IN_USE or HELD. -/
def State.framesIdle (s : State) (n : Nat) : Bool :=
  s.frames.all (fun e => e.1 / 64 != n || (e.2.st != .inUse && e.2.st != .held))

/-- A staging initialisation or BIST of channel `n` may start (R445, R451). -/
def State.stagingReady (s : State) (n : Nat) : Bool := s.fencedIdle n && s.framesIdle n && s.stagingQuiet n

/-- A write of this chapter is ignored. -/
def State.memReqError (s : State) : State := s.setBit 0x60000 31 true

/-- A write of 1 to a channel's bit in the start array at `base` (R445, R451). -/
def State.stagingStart (s : State) (base n : Nat) : State :=
  if s.stagingReady n then s.setArrBit base n true else s.memReqError

/-- A failing word that BIST left unmapped is logged (R451). -/
def State.logBist (s : State) (addr : Nat) : State := s.logError 5 addr false true 0x1FF

/-- The end of a BIST run (R451): `failing` are the failing frame words of channel `n`, `bad` its failing spares. -/
def State.bistEnd (s : State) (n : Nat) (failing bad : List Nat) : State :=
  let failing := sortBy (fun w => w) (failing.filter (fun w => w < 40960))
  let bad := bad.filter (fun k => k < 8)
  let sound := (countUp 0 8).filter (fun k => !bad.contains k)
  let mapped := sound.zip failing
  let s := (countUp 0 8).foldl (fun (s : State) k => s.setReg (0x68000 + n * 0x20 + k * 4) 0) s
  let s := mapped.foldl (fun (s : State) (p : Nat × Nat) =>
    s.setReg (0x68000 + n * 0x20 + p.1 * 4) (BitVec.ofNat 32 (2 ^ 31 + p.2))) s
  let left := restN mapped.length failing
  let s := left.foldl (fun (s : State) w => s.logBist (40960 * n + w)) s
  let s := bad.foldl (fun (s : State) k => s.logBist (2 ^ 24 + n * 8 + k)) s
  let failed := min 255 (failing.length + bad.length)
  let unmapped := min 255 (left.length + bad.length)
  let s := s.setReg (0x6A000 + 4 * n) (BitVec.ofNat 32 (failed * 256 + unmapped))
  let s := s.clearStaging n
  let s := ((s.setArrBit 0x60120 n false).setArrBit 0x60140 n true).raise 813
  if left.length + bad.length = 0 then s else s.raise 814

/-- Channel reset abandons a staging initialisation or BIST (R452). -/
def State.stagingAbandon (s : State) (n : Nat) : State :=
  if s.stagingQuiet n then s
  else ((s.setArrBit 0x60100 n false).setArrBit 0x60120 n false).setArrBit 0x60140 n false

/-- The words of a raw access to a byte-coded store whose layout the spec gives (R449): the BAR0 register that holds
the 4-byte group. Classes 0, 2 store 1, 3 store 0, 4 and 6 have one. -/
def groupRegister (c addr : Nat) : Option Nat :=
  let store := bits addr 26 24
  let entry := bits addr 23 8
  let byte := bits addr 7 0 / 4 * 4
  if c = 0 then (if store = 0 ∧ entry < 32768 ∧ byte < 32 then some (0x200000 + entry * 0x20 + byte) else none)
  else if c = 2 then
    (if store = 1 ∧ entry < 240 ∧ byte < 32 then
      some (0x310000 + entry / 16 * 0x200 + entry % 16 * 0x20 + byte) else none)
  else if c = 6 then (if addr < 40960 then some (0x400000 + addr / 4 * 4) else none)
  else none

/-- The ledger entry with one of its two registers replaced (R283). -/
def LedgerEntry.ofRegs (lo hi : Word) : LedgerEntry :=
  { valid := bitOf lo.toNat 31, advised := bitOf lo.toNat 30, inherited := bitOf lo.toNat 29
    lun := BitVec.ofNat 4 (wfld lo 25 22), plane := BitVec.ofNat 2 (wfld lo 21 20)
    block := BitVec.ofNat 20 (wfld lo 19 0), count := hi }

/-- `LEDGER_LO` of an entry. -/
def LedgerEntry.lo (e : LedgerEntry) : Word :=
  BitVec.ofNat 32 (ofBool e.valid * 2 ^ 31 + ofBool e.advised * 2 ^ 30 + ofBool e.inherited * 2 ^ 29 +
    e.lun.toNat * 2 ^ 22 + e.plane.toNat * 2 ^ 20 + e.block.toNat)

/-- `OBT_LO` of an entry (R158). -/
def ObtEntry.lo (e : ObtEntry) : Word :=
  BitVec.ofNat 32 (ofBool e.valid * 2 ^ 31 + e.plane.toNat * 2 ^ 20 + e.block.toNat)

/-- `OBT_HI` of entry `k` (R158). -/
def State.obtHi (s : State) (k : Nat) : Word :=
  BitVec.ofNat 32 ((s.obtEntry k).pointer.toNat * 2 ^ 16 + min 255 (s.obtInflight k) * 2 ^ 8)

/-- The bytes of the head registers of the carry-over log (R361), with no error in them. -/
def Carry.rawBytes (c : Carry) : List Byte :=
  leBytes 8 c.addr.toNat ++ leBytes 2 c.cid.toNat ++ leBytes 2 c.sqid ++ leBytes 2 (c.tag + ofBool c.stagedAck * 2 ^ 15) ++
    leBytes 1 c.opcode.code ++ leBytes 1 c.status.code ++ leBytes 4 c.info.toNat

/-- The 32 bytes of a deferred record (R468), with no error in them. -/
def Deferred.rawBytes (d : Deferred) : List Byte :=
  leBytes 8 d.addr.toNat ++ leBytes 2 d.cid.toNat ++ leBytes 2 d.sqid ++ leBytes 1 d.status.code ++
    leBytes 1 d.opcode.code ++ leBytes 2 d.frame ++ leBytes 4 d.info.toNat ++
    leBytes 1 (d.replays % 4 + d.fault % 8 * 4) ++ leBytes 3 0 ++ leBytes 8 d.time

/-- An advisory (R282): its address word, its count, and the inherited flag in the byte after them. -/
def Advisory.rawBytes (a : Advisory) : List Byte :=
  leBytes 8 a.addr.toNat ++ leBytes 4 a.count.toNat ++ leBytes 4 (ofBool a.inherited)

/-- Fields, as offset and length, that hold an uncorrectable byte read 0 (R448). -/
def zeroFields (fields : List (Nat × Nat)) (bad : Nat) (l : List Byte) : List Byte :=
  fields.foldl (fun l f =>
    if bits bad (f.1 + f.2 - 1) f.1 = 0 then l
    else firstN f.1 l ++ copies f.2 0 ++ restN (f.1 + f.2) l) l

/-- The status byte at `i` reads DATA_POISONED where the entry holds an uncorrectable byte (R448). -/
def poisonStatus (i bad : Nat) (l : List Byte) : List Byte :=
  if bad = 0 then l else firstN i l ++ leBytes 1 Status.dataPoisoned.code ++ restN (i + 1) l

/-- The bytes of the carry-over entry at place `k`, as they are delivered (R361, R448). -/
def State.carryBytes (s : State) (k : Nat) (c : Carry) : List Byte :=
  let r := s.storedBytes 1 (mlogAddr 1 k 0) c.rawBytes
  poisonStatus 15 r.2 (zeroFields [(0, 8), (8, 2), (10, 2), (12, 2), (14, 1), (16, 4)] r.2 r.1)

/-- The 32 bytes of a deferred record, as they are delivered (R448, R468). -/
def State.deferredBytes (s : State) (d : Deferred) : List Byte :=
  let r := s.storedBytes 1 (mlogAddr 2 d.frame 0) d.rawBytes
  poisonStatus 12 r.2
    (zeroFields [(0, 8), (8, 2), (10, 2), (13, 1), (14, 2), (16, 4), (20, 1), (24, 8)] r.2 r.1)

/-- The bytes of the advisory at place `k` of the ring, as they read. -/
def State.advisoryBytes (s : State) (k : Nat) (a : Advisory) : List Byte :=
  (s.storedBytes 3 (mlogAddr 1 k 0) a.rawBytes).1

/-- Whether a raw address names a stored group of classes 0 to 4 or 6. -/
def groupExists (c addr : Nat) : Bool :=
  let store := bits addr 26 24
  let entry := bits addr 23 8
  if c = 0 then decide (store = 0 ∧ entry < 32768)
  else if c = 1 then decide (store < 3 ∧ entry < 16640)
  else if c = 2 then decide (store < 2 ∧ (store = 0 ∨ entry < 240))
  else if c = 3 then decide ((store = 0 ∧ entry < 32768) ∨ (store = 1 ∧ entry < 64))
  else if c = 4 then decide (store = 0 ∧ entry < 32768)
  else decide (c = 6 ∧ addr < 40960)

/-- A 4-byte group of the bytes of an entry. -/
def groupOf (l : List Byte) (byte : Nat) : Word := BitVec.ofNat 32 (leNat (firstN 4 (restN (byte / 4 * 4) l)))

/-- The data bits of a stored group: the value that its register or entry holds; none where the spec gives the store no
layout. -/
def State.groupData (s : State) (c addr : Nat) : Option Word :=
  let store := bits addr 26 24
  let entry := bits addr 23 8
  let byte := bits addr 7 0
  let second := byte / 4 % 2 == 1
  match groupRegister c addr with
  | some off => some (s.reg off)
  | none =>
    if c = 3 ∧ store = 0 then
      some (if second then (s.ledgerEntry entry).count else (s.ledgerEntry entry).lo)
    else if c = 3 then (s.adv[entry]?).map (fun a => groupOf a.rawBytes byte)
    else if c = 4 then some (if second then s.obtHi entry else (s.obtEntry entry).lo)
    else if c = 1 ∧ store = 1 then (s.carry[entry]?).map (fun e => groupOf e.rawBytes byte)
    else if c = 1 ∧ store = 2 then
      (s.deferred.find? (fun d => d.frame == entry)).map (fun d => groupOf d.rawBytes byte)
    else none

/-- The check bits of a group whose bytes are sound. -/
def groupCheck (d : Word) : BitVec 20 :=
  BitVec.ofNat 20 ((countUp 0 4).foldl (fun acc k => acc + byteCheck (wfld d (8 * k + 7) (8 * k)) * 2 ^ (5 * k)) 0)

/-- A group whose value lies in a register, a ledger entry or an open-block entry. -/
def groupPlain (c addr : Nat) : Bool :=
  (groupRegister c addr).isSome || decide (c = 3 ∧ bits addr 26 24 = 0) || decide (c = 4)

/-- Stores the value that a group reads as into the register or entry it belongs to. -/
def State.setGroupData (s : State) (c addr : Nat) (d : Word) : State :=
  let entry := bits addr 23 8
  let second := bits addr 7 0 / 4 % 2 == 1
  match groupRegister c addr with
  | some off => s.setReg off d
  | none =>
    if c = 3 ∧ bits addr 26 24 = 0 then
      s.modLedgerEntry entry (fun e => if second then { e with count := d } else LedgerEntry.ofRegs d e.count)
    else if c = 4 then
      s.modObtEntry entry (fun e =>
        if second then { e with pointer := BitVec.ofNat 16 (wfld d 31 16) }
        else { e with valid := bitOf d.toNat 31, plane := BitVec.ofNat 2 (wfld d 21 20)
                      block := BitVec.ofNat 20 (wfld d 19 0) })
    else s

/-- A raw read of classes 0 to 4 and 6 (R449). -/
def State.rawReadGroup (s : State) (c addr : Nat) : State :=
  match SMap.get s.rawGroups (groupKey c addr), s.groupData c addr with
  | some g, _ => (s.setReg 0x60010 g.data).setReg 0x60030 (BitVec.ofNat 32 g.check.toNat)
  | none, some d => (s.setReg 0x60010 d).setReg 0x60030 (BitVec.ofNat 32 (groupCheck d).toNat)
  | none, none =>
    let d := Config.freeWord s.fresh
    (s.nextFresh.2.setReg 0x60010 d).setReg 0x60030 (BitVec.ofNat 32 (groupCheck d).toNat)

/-- A raw write of classes 0 to 4 and 6 (R449): the group reads as its corrected bytes from then on. Its bits stay as they
were written where a byte is not sound, or where no register or entry of a fixed form holds them. -/
def State.rawWriteGroup (s : State) (c addr : Nat) (d : Word) (k : BitVec 20) : State :=
  let g : RawGroup := { data := d, check := k, met := false }
  let s := (s.dropWriteBack c (addr / 4 * 4) 4).setGroupData c addr g.value
  if groupCheck d = k && groupPlain c addr then
    { s with rawGroups := SMap.erase s.rawGroups (groupKey c addr) }
  else { s with rawGroups := SMap.insert s.rawGroups (groupKey c addr) g }

/-- Whether a class 5 address names a stored word of the build. -/
def State.rawWordExists (s : State) (addr : Nat) : Bool :=
  if bits addr 26 24 = 0 then decide (bits addr 23 0 < 40960 * s.nch)
  else decide (bits addr 26 24 = 1 ∧ bits addr 23 0 < 8 * s.nch)

/-- The word stored at a class 5 address, without the remap table. -/
def State.rawWord (s : State) (addr : Nat) : FWord :=
  if bits addr 26 24 = 0 then s.fword (bits addr 23 0) else s.spare (bits addr 23 0)

/-- A raw read of a staging word (R449): data, check bits, and the poison copies in CHECK [11:10]. -/
def State.rawReadWord (s : State) (addr : Nat) : State :=
  let x := s.rawWord addr
  let dc := match x.raw with | some p => p | none => (x.data, stagingCheck x.data)
  let s := (countUp 0 8).foldl (fun (s : State) j =>
    s.setReg (0x60010 + 4 * j) (BitVec.ofNat 32 (dc.1.toNat / 2 ^ (32 * j)))) s
  s.setReg 0x60030 (BitVec.ofNat 32 (dc.2.toNat + ofBool x.poison0 * 1024 + ofBool x.poison1 * 2048))

/-- A raw write of a staging word (R449). -/
def State.rawWriteWord (s : State) (addr : Nat) : State :=
  let d := (countUp 0 8).foldl (fun acc j => acc + (s.reg (0x60010 + 4 * j)).toNat * 2 ^ (32 * j)) 0
  let c := (s.reg 0x60030).toNat
  let x : FWord := { data := BitVec.ofNat 256 d, poison0 := bitOf c 10, poison1 := bitOf c 11
                     raw := some (BitVec.ofNat 256 d, BitVec.ofNat 10 c) }
  let s := s.dropWriteBack 5 addr 1
  if bits addr 26 24 = 0 then s.setFword (bits addr 23 0) x else s.setSpare (bits addr 23 0) x

/-- A raw write of a class 5 word is taken: a word of a RESERVED frame, of a FREE frame of a fenced channel with no
tag, or a spare word (R449). -/
def State.rawWordOpen (s : State) (addr : Nat) : Bool :=
  if bits addr 26 24 = 0 then
    let f := bits addr 23 0 / 640
    (s.frame f).st == .reserved || ((s.frame f).st == .free && s.fencedIdle (f / 64))
  else true

/-- A raw read (R449). -/
def State.rawRead (s : State) : State :=
  let c := s.fld 0x60008 18 16
  let addr := (s.reg 0x6000C).toNat
  if !s.bit 0x60008 31 then s.memReqError
  else if c = 5 then (if s.rawWordExists addr then s.rawReadWord addr else s.memReqError)
  else if groupExists c addr then s.rawReadGroup c addr
  else s.memReqError

/-- A raw write (R449). -/
def State.rawWrite (s : State) : State :=
  let c := s.fld 0x60008 18 16
  let addr := (s.reg 0x6000C).toNat
  if !s.bit 0x60008 31 then s.memReqError
  else if c = 5 then
    (if s.rawWordExists addr && s.rawWordOpen addr then s.rawWriteWord addr else s.memReqError)
  else if groupExists c addr && (c != 6 || s.ph.master == 1) then
    s.rawWriteGroup c addr (s.reg 0x60010) (BitVec.ofNat 20 (s.reg 0x60030).toNat)
  else s.memReqError

/-- The corrected word or byte is written back (R446); the write-back is dropped when the word was written since. -/
def State.writeBack (s : State) (c addr : Nat) : State :=
  if s.writeBacks.contains (c, addr) then
    let s := { s with writeBacks := s.writeBacks.filter (fun p => p != (c, addr)) }
    if c = 5 then
      let x := s.rawWord addr
      match x.raw with
      | none => s
      | some (d, k) =>
        match wordDecode d k with
        | (v, .corrected _) =>
          let y := { x with data := v, raw := none }
          if bits addr 26 24 = 0 then s.setFword (bits addr 23 0) y else s.setSpare (bits addr 23 0) y
        | _ => s
    else
      match SMap.get s.rawGroups (groupKey c addr) with
      | none => s
      | some g =>
        let i := addr % 4
        let r := g.byte i
        match r.2 with
        | .corrected _ =>
          let d := wput g.data (8 * i + 7) (8 * i) r.1
          let k := BitVec.ofNat 20 (putBits g.check.toNat (5 * i + 4) (5 * i) (byteCheck r.1))
          if groupCheck d = k && groupPlain c addr then
            { s with rawGroups := SMap.erase s.rawGroups (groupKey c addr) }
          else { s with rawGroups := SMap.insert s.rawGroups (groupKey c addr) { g with data := d, check := k } }
        | _ => s
  else s

/-- The log of class `c` is emptied (R447); there is no class 7. -/
def State.clearLog (s : State) (c : Nat) : State :=
  if 7 ≤ c then s.memReqError
  else
  let s := (countUp 0 32).foldl (fun (s : State) e =>
    ((s.setReg (mlogAt c e) 0).setReg (mlogAt c e + 4) 0).setReg (mlogAt c e + 8) 0) s
  s.setFld (0x60080 + 4 * c) 5 0 0

/-- CORRECTED_WRITEBACK (R446). -/
def execCorrectedWriteback (cls addr : Nat) (s : State) : Host.Outcome State Fault Refusal :=
  if s.hostOn then .next (s.writeBack cls addr) else .next s

/-- LOG_CLEAR (R447): `MEM_CTRL` is written with log_clear = 1 and the class. -/
def execLogClear (cls : Nat) (s : State) : Host.Outcome State Fault Refusal :=
  if s.asleep then .next (s.holdRequest (.logClear cls) .access)
  else if s.serving then .next (s.clearLog cls) else .next s

/-- MEM_STG_INIT (R445). -/
def execMemStgInit (ch : Nat) (s : State) : Host.Outcome State Fault Refusal :=
  if s.asleep then .next (s.holdRequest (.memStgInit ch) .access)
  else if s.serving && decide (ch < s.nch) then .next (s.stagingStart 0x60100 ch) else .next s

/-- STG_INIT_END (R445, R451). -/
def execStgInitEnd (ch : Nat) (s : State) : Host.Outcome State Fault Refusal :=
  if s.hostOn && decide (ch < s.nch) && s.arrBit 0x60100 ch then
    .next ((((s.clearStaging ch).setArrBit 0x60100 ch false).setArrBit 0x60140 ch true).raise 813)
  else .next s

/-- MEM_BIST (R451). -/
def execMemBist (ch : Nat) (s : State) : Host.Outcome State Fault Refusal :=
  if s.asleep then .next (s.holdRequest (.memBist ch) .access)
  else if s.serving && decide (ch < s.nch) then .next (s.stagingStart 0x60120 ch) else .next s

/-- BIST_END (R451). -/
def execBistEnd (ch : Nat) (failing : List Nat) (spares : List Nat) (s : State) : Host.Outcome State Fault Refusal :=
  if s.hostOn && decide (ch < s.nch) && s.arrBit 0x60120 ch then .next (s.bistEnd ch failing spares) else .next s

/-- RAW_READ (R449). -/
def execRawRead (s : State) : Host.Outcome State Fault Refusal :=
  if s.asleep then .next (s.holdRequest .rawRead .access)
  else if s.serving then .next s.rawRead else .next s

end Sys2Proof.Machine
end

