-- ==== Sys2Proof/Machine/Staging.lean ====
section
/-! DEFINITION. Staging frames, bindings, channel FIFOs, the message FIFO and the randomiser (R195 to R222). -/

namespace Sys2Proof.Machine
open Sys2Proof

/-- Frames withdrawn from the top of channel `n`'s pool (R198). -/
def State.reserveOf (s : State) (n : Nat) : Nat := min 16 (s.fld (0x400 + 4 * n) 28 24)

/-- How many frames of channel `n` are in a state. -/
def State.frameCount (s : State) (n : Nat) (st : FrameState) : Nat :=
  ((countUp (64 * n) 64).filter (fun f => (s.frame f).st == st)).length

/-- The lowest-numbered FREE frame of channel `n` (R196). -/
def State.freeFrameOf (s : State) (n : Nat) : Option Nat :=
  (countUp (64 * n) 64).find? (fun f => (s.frame f).st == .free)

/-- Frame `f` becomes IN_USE for an owner. -/
def State.takeFrame (s : State) (f : Nat) (owner : Option Nat) : State :=
  s.modFrame f (fun x => { x with st := .inUse, owner := owner, named := none, staged := false, rawLen := none })

/-- The allocation stamp of the tag for which a piece of work runs (R196). -/
def State.workTagStamp (s : State) (w : Work) : Nat :=
  match w.tag with
  | none => w.stamp
  | some t => (s.tag t).stamp

/-- A read that waits in the scheduler of channel `n` for a frame (R196). -/
def Work.wantsFrame (w : Work) (n : Nat) : Bool :=
  w.ch == n && w.kind == .read && w.st == .waiting && w.frame.isNone &&
    (match w.role with | .sample _ _ | .readBack => false | _ => true)

/-- The read of channel `n` that a freed frame goes to: the oldest tag, then order of issue (R196). -/
def State.frameWaiter (s : State) (n : Nat) : Option (Nat × Work) :=
  leastBy (fun p => s.workTagStamp p.2) (s.works.filter (fun p => p.2.wantsFrame n))

/-- The rebuild of a tag of channel `n` that waits for an assembly frame: the oldest one (R196, R259). -/
def State.rebuildWaiter (s : State) (n : Nat) : Option Nat :=
  (leastBy (fun (e : Nat × Tag) => e.2.stamp) (s.tags.filter (fun e => e.1 / 64 == n &&
    (match e.2.rebuild with | some r => decide (0 < r.wants) | none => false)))).map Prod.fst

/-- A frame becomes an assembly frame: A, and then B (R259). -/
def Rebuild.give (r : Rebuild) (f : Nat) : Rebuild :=
  { r with wants := r.wants - 1, frameA := some (r.frameA.getD f)
           frameB := if r.frameA.isSome then some f else r.frameB }

/-- Frame `f` goes to the rebuild of tag `t`. -/
def State.giveRebuild (s : State) (t f : Nat) : State :=
  (s.takeFrame f (some t)).modTag t (fun x => { x with rebuild := x.rebuild.map (fun r => r.give f) })

/-- FREE frames of channel `n` go to the reads and rebuilds that wait for one, oldest tag first, at most `fuel` of them
(R196). -/
def State.grantFramesN (s : State) (fuel n : Nat) : State :=
  match fuel with
  | 0 => s
  | k + 1 =>
    match s.freeFrameOf n with
    | none => s
    | some f =>
      match s.frameWaiter n, s.rebuildWaiter n with
      | none, none => s
      | none, some t => (s.giveRebuild t f).grantFramesN k n
      | some (id, w), r =>
        let first := match r with | some t => decide ((s.tag t).stamp < s.workTagStamp w) | none => false
        if first then (s.giveRebuild (r.getD 0) f).grantFramesN k n
        else
          let s := s.takeFrame f w.tag
          let s := s.modWork id (fun w => { w with frame := some f })
          let s := match w.role, w.tag with
            | .own, some t => s.modTag t (fun x => { x with frame := some f })
            | _, _ => s
          s.grantFramesN k n

/-- FREE frames go to waiting reads (R196). -/
def State.grantFrames (s : State) (n : Nat) : State := s.grantFramesN 64 n

/-- A forwarded read is in progress from frame `f` (R197). -/
def State.forwardsFrom (s : State) (f : Nat) : Bool :=
  s.tags.any (fun e => e.2.forwarded && e.2.frame == some f && e.2.st != .free && !e.2.ended) ||
    s.works.any (fun e => e.2.forward && e.2.frame == some f)

/-- The addition of a contributing program reads frame `f` (R255). -/
def State.addingFrom (s : State) (f : Nat) : Bool := s.tags.any (fun e => e.2.adding && e.2.frame == some f)

/-- Frame `f` is freed: it becomes RETIRED, RESERVED or FREE, and its binding ends (R197, R198, R199, R202);
the channel may leave the held-frame limit (R470). -/
def State.freeNow (s : State) (f : Nat) : State :=
  let n := f / 64
  let t := s.modFrame f (fun x =>
    { Frame.init with
      st := if x.retire then .retired else if 64 - s.reserveOf n ≤ f % 64 then .reserved else .free
      retire := x.retire })
  let t := if 8 ≤ s.frameCount n .held && t.frameCount n .held < 8 then t.raise 842 else t
  t.grantFrames n

/-- The owner of frame `f` ends: the frame is freed, once no forwarded read is in progress from it (R197) and no addition
reads it (R255). Its binding ends at once (R202): the reads in progress keep the frame by its number. -/
def State.freeFrame (s : State) (f : Nat) : State :=
  if s.forwardsFrom f || s.addingFrom f then s.modFrame f (fun x => { x with owner := none, named := none, bind := none, freeing := true })
  else s.freeNow f

/-- A forwarded read or an addition from frame `f` has ended: a frame whose owner has ended is freed (R197, R255). -/
def State.forwardEnded (s : State) (f : Nat) : State :=
  if (s.frame f).freeing && !s.forwardsFrom f && !s.addingFrom f then s.freeNow f else s

/-- Frame `f` becomes HELD (R195). -/
def State.holdFrame (s : State) (f : Nat) : State :=
  s.modFrame f (fun x => { x with st := .held, owner := none })

/-- Frame `f` is bound to an address, ignoring the quarter index (R201). -/
def State.bindFrame (s : State) (f : Nat) (a : Addr) (stamp : Nat) : State :=
  let a := BitVec.ofNat 64 (putBits a.toNat 15 14 0)
  s.modFrame f (fun x => { x with bind := some a, bindStamp := stamp, lastBind := some a })

/-- The binding of frame `f` ends (R202). -/
def State.unbind (s : State) (f : Nat) : State := s.modFrame f (fun x => { x with bind := none })

/-- The reserve field of channel `n`'s pool is written (R198). -/
def State.framePoolWrite (s : State) (n : Nat) (v : Word) : State :=
  let s := s.setFld (0x400 + 4 * n) 28 24 (wfld v 28 24)
  let r := s.reserveOf n
  let s := (countUp 0 64).foldl (fun (s : State) i =>
    let f := 64 * n + i
    if 64 - r ≤ i then (if (s.frame f).st == .free then s.modFrame f (fun x => { x with st := .reserved }) else s)
    else (if (s.frame f).st == .reserved then s.modFrame f (fun x => { x with st := .free }) else s)) s
  s.grantFrames n

/-- `FRAME_RETIRE` names frame `f` (R199, R450). -/
def State.retireFrame (s : State) (f : Nat) : State :=
  if f < 64 * s.nch then
    match (s.frame f).st with
    | .free | .reserved => s.modFrame f (fun x => { x with st := .retired, retire := true })
    | .inUse | .held => s.modFrame f (fun x => { x with retire := true })
    | .retired => s
  else s.memReqError

/-- A frame that an accepted RELEASE_FRAME names serves no read accepted after it (R101). -/
def State.releasing (s : State) (f : Nat) : Bool :=
  match (s.frame f).named with
  | some t => (s.tag t).opcode == some Opcode.releaseFrame
  | none => false

/-- The program frame that serves a read of `a` whose tag would be allocated at `stamp` (R71, R203): the most recent
binding among the matching frames of the channel. -/
def State.forwardFrame (s : State) (a : Addr) (stamp : Nat) : Option Nat :=
  let n := afld a 11 4
  let a := BitVec.ofNat 64 (putBits a.toNat 15 14 0)
  leastBy (fun f => 2 ^ 64 - (s.frame f).bindStamp)
    ((countUp (64 * n) 64).filter (fun f =>
      let x := s.frame f
      x.bind == some a && !s.releasing f && (x.st == .held || (x.st == .inUse && decide (x.bindStamp < stamp)))))

/-- The words of a FIFO packet on the 512-bit side (R211): full masks but for the last word. -/
def fifoWords (l : List Byte) : List FifoWord :=
  let ps := pieces (l.length + 1) 64 l
  ps.zipIdx.map (fun p =>
    { data := BitVec.ofNat 512 (leNat p.1), mask := BitVec.ofNat 64 (2 ^ p.1.length - 1)
      last := p.2 + 1 == ps.length })

/-- The 64-bit words of a FIFO packet on the bus side (R212), as (data, valid-byte mask). -/
def busWords (l : List Byte) : List (Nat × Nat) :=
  (pieces (l.length + 1) 8 l).map (fun p => (leNat p, 2 ^ p.length - 1))

/-- The words of a packet that a FIFO of 32 words still holds: the last ones. -/
def fifoTail (l : List FifoWord) : List FifoWord := restN (l.length - 32) l

/-- A message word enters the message FIFO (R216, R217); nothing enters a full FIFO. -/
def Chan.pushMsg (c : Chan) (entry : BitVec 6) (w : Word) (isEnd : Bool) : Chan :=
  if c.msgDrop then { c with msgDrop := !isEnd, msgOpen := !isEnd }
  else
    let word : MsgWord := { data := w.setWidth 128, count := 1, entry := entry, first := !c.msgOpen, last := isEnd
                            truncated := false }
    match c.msgs.getLast? with
    | some m =>
      if m.last || decide (m.count ≥ 4) then
        if c.msgs.length ≥ 64 then c else { c with msgs := c.msgs ++ [word], msgOpen := !isEnd }
      else
        { c with msgs := c.msgs.dropLast ++
                   [{ m with data := m.data ||| (w.setWidth 128 <<< (32 * m.count)), count := m.count + 1, last := isEnd }]
                 msgOpen := !isEnd }
    | none => { c with msgs := [word], msgOpen := !isEnd }

/-- The next message needs a word that a full message FIFO does not have (R170, R216). -/
def Chan.msgFull (c : Chan) : Bool :=
  !c.msgDrop && decide (64 ≤ c.msgs.length) &&
    (match c.msgs.getLast? with | some m => m.last || decide (4 ≤ m.count) | none => true)

/-- A word of the message FIFO is readable (R216). -/
def MsgWord.readable (m : MsgWord) : Bool := m.last || decide (m.count ≥ 4)

/-- `MSG_COUNT` (R216). -/
def Chan.msgCount (c : Chan) : Nat := (c.msgs.filter MsgWord.readable).length

/-- An open message packet is closed as its routine is abandoned (R218). -/
def Chan.truncateMsg (c : Chan) : Chan :=
  if c.msgOpen then
    let c := { c with msgOpen := false, msgDrop := false }
    match c.msgs.getLast? with
    | some m => if m.last then c else { c with msgs := c.msgs.dropLast ++ [{ m with last := true, truncated := true }] }
    | none => c
  else c

/-- The words left once the head word's packet has gone. -/
def dropPacket (l : List MsgWord) : List MsgWord :=
  match l with
  | [] => []
  | m :: r => if m.last then r else dropPacket r

/-- `MSG_CTRL.pop` (R217). -/
def Chan.popMsg (c : Chan) : Chan := if c.msgCount = 0 then c else { c with msgs := restN 1 c.msgs }

/-- `MSG_CTRL.drop` (R217). -/
def Chan.dropMsg (c : Chan) : Chan :=
  if c.msgCount = 0 then c
  else { c with msgs := dropPacket c.msgs, msgDrop := !(c.msgs.any (fun m => m.last)) }

/-- One step of the PRBS31 generator (R219): output and next state. -/
def prbsStep (g : Nat) : Nat × Nat :=
  let o := (g / 2 ^ 30 + g / 2 ^ 27) % 2
  (o, (2 * g + o) % 2 ^ 31)

/-- The next stream byte and the state after it: the first output in bit 0. -/
def prbsByte (g : Nat) : Nat × Nat :=
  (countUp 0 8).foldl (fun p i =>
    let r := prbsStep p.2
    (p.1 + r.1 * 2 ^ i, r.2)) (0, g)

/-- The state after `n` stream bytes. -/
def prbsSkip (n g : Nat) : Nat :=
  match n with
  | 0 => g
  | k + 1 => prbsSkip k (prbsByte g).2

/-- `n` stream bytes from a state. -/
def prbsBytes (n g : Nat) : List Byte :=
  match n with
  | 0 => []
  | k + 1 => BitVec.ofNat 8 (prbsByte g).1 :: prbsBytes k (prbsByte g).2

/-- Stream bytes `col` to `col + n - 1` of a page seed (R221). -/
def prbsStream (seed col n : Nat) : List Byte := prbsBytes n (prbsSkip col seed)

/-- The page seed of an address word (R220). -/
def pageSeed (base : Nat) (a : Addr) : Nat :=
  let bp := afld a 51 32 * 4 + afld a 13 12
  let x := (base ^^^ (afld a 11 0 * 2 ^ 19) ^^^ (bp * 2 ^ 7) ^^^ afld a 31 16) % 2 ^ 31
  if x = 0 then 2 ^ 31 - 1 else x

/-- Xors two byte lists; the first one's length stays. -/
def xorBytes (l m : List Byte) : List Byte :=
  match l, m with
  | [], _ => []
  | l, [] => l
  | x :: l, y :: m => (x ^^^ y) :: xorBytes l m

/-- FRAME_POOL_WRITE (R198). -/
def execFramePoolWrite (ch : Nat) (val : Word) (s : State) : Host.Outcome State Fault Refusal :=
  if s.asleep then .next (s.holdRequest (.framePoolWrite ch val) .access)
  else if s.serving && decide (ch < s.nch) then .next (s.framePoolWrite ch val) else .next s

/-- FRAME_RETIRE (R199, R450): `FRAME_RETIRE` is written with retire = 1. -/
def execFrameRetire (frame : Nat) (s : State) : Host.Outcome State Fault Refusal :=
  if s.asleep then .next (s.holdRequest (.frameRetire frame) .access)
  else if s.serving then .next ((s.setFld 0x60004 13 0 frame).retireFrame frame) else .next s

/-- MSG_POP (R217). -/
def execMsgPop (ch : Nat) (s : State) : Host.Outcome State Fault Refusal :=
  if s.asleep then .next (s.holdRequest (.msgPop ch) .access)
  else if s.serving && decide (ch < s.nch) && !(s.chan ch).inReset then .next (s.modChan ch Chan.popMsg) else .next s

/-- MSG_DROP (R217). -/
def execMsgDrop (ch : Nat) (s : State) : Host.Outcome State Fault Refusal :=
  if s.asleep then .next (s.holdRequest (.msgDrop ch) .access)
  else if s.serving && decide (ch < s.nch) && !(s.chan ch).inReset then .next (s.modChan ch Chan.dropMsg) else .next s

end Sys2Proof.Machine
end

