-- ==== Sys2Proof/Machine/HostPort.lean ====
section
/-! DEFINITION. The endpoint function: configuration space, error reporting, violations, requests of the block and MSI-X
(R330 to R353). -/

namespace Sys2Proof.Machine
open Sys2Proof

/-- A configuration dword: reset value, RW bits, W1C bits, and the bits that function-level and hot reset keep. -/
structure CfgDesc where
  reset : Word
  rw : Word
  w1c : Word
  sticky : Word
  deriving DecidableEq, Repr

/-- The writable dwords of the configuration space (R334, R335, R343, R346; layouts of the named standards). -/
def cfgDesc (off : Nat) : CfgDesc :=
  if off = 0x04 then ⟨0, 0x146, 0xF9000000, 0⟩
  else if off = 0x0C then ⟨0, 0xFF, 0, 0⟩
  else if off = 0x10 then ⟨0, 0xFC000000, 0, 0⟩
  else if off = 0x14 then ⟨0, 0xFFFFFFFF, 0, 0⟩
  else if off = 0x18 then ⟨0, 0xFF800000, 0, 0⟩
  else if off = 0x1C then ⟨0, 0xFFFFFFFF, 0, 0⟩
  else if off = 0x20 then ⟨0, 0xF0000000, 0, 0⟩
  else if off = 0x24 then ⟨0, 0xFFFFFFFF, 0, 0⟩
  else if off = 0x3C then ⟨0, 0xFF, 0, 0⟩
  else if off = 0x44 then ⟨0, 3, 0, 0⟩
  else if off = 0x50 then ⟨0, 0xC0000000, 0, 0⟩
  else if off = 0x68 then ⟨0x2810, 0x79FF, 0xF0000, 0⟩
  else if off = 0x70 then ⟨0, 0xFFFF, 0, 0⟩
  else if off = 0x88 then ⟨0, 0x1000, 0, 0⟩
  else if off = 0x104 then ⟨0, 0, 0x0057F030, 0x0057F030⟩
  else if off = 0x108 then ⟨0x00400000, 0x0057F030, 0, 0x0057F030⟩
  else if off = 0x10C then ⟨0x00462030, 0x0057F030, 0, 0x0057F030⟩
  else if off = 0x110 then ⟨0, 0, 0x31C1, 0x31C1⟩
  else if off = 0x114 then ⟨0x2000, 0x31C1, 0, 0x31C1⟩
  else if off = 0x118 then ⟨0, 0, 0, 0x1F⟩
  else if 0x11C ≤ off && off < 0x12C then ⟨0, 0, 0, 0xFFFFFFFF⟩
  else ⟨0, 0, 0, 0⟩

/-- A configuration dword as stored. -/
def State.cfgRaw (s : State) (off : Nat) : Word := SMap.getD s.cfg off (cfgDesc off).reset

/-- Stores a configuration dword. -/
def State.setCfg (s : State) (off : Nat) (w : Word) : State :=
  { s with cfg := SMap.setD s.cfg off w (cfgDesc off).reset }

/-- Sets bits of a configuration dword. -/
def State.orCfg (s : State) (off : Nat) (w : Word) : State := s.setCfg off (s.cfgRaw off ||| w)

/-- Bit `b` of a configuration dword. -/
def State.cfgBit (s : State) (off b : Nat) : Bool := bitOf (s.cfgRaw off).toNat b

/-- The function is in D3hot (R335). -/
def State.d3hot (s : State) : Bool := bits (s.cfgRaw 0x44).toNat 1 0 == 3

/-- Memory Space Enable as it acts (R335, R337). -/
def State.mse (s : State) : Bool := s.cfgBit 4 1 && !s.d3hot

/-- Bus Master Enable as it acts (R335, R353). -/
def State.bme (s : State) : Bool := s.cfgBit 4 2 && !s.d3hot

/-- The largest payload of a write request (R332). -/
def State.mps (s : State) : Nat := 128 * 2 ^ min 3 (bits (s.cfgRaw 0x68).toNat 7 5)

/-- The largest read request (R332). -/
def State.mrrs (s : State) : Nat := 128 * 2 ^ min 5 (bits (s.cfgRaw 0x68).toNat 14 12)

/-- A host range cut into requests of at most `max` bytes that cross no 4 KiB boundary (R332). -/
def splitRange (fuel max addr len : Nat) : List (Nat × Nat) :=
  match fuel with
  | 0 => []
  | k + 1 =>
    if len = 0 then []
    else
      let n := min len (min max (4096 - addr % 4096))
      (addr, n) :: splitRange k max (addr + n) (len - n)

/-- A transaction layer packet leaves the block; nothing is presented while the link is down (R519). -/
def State.send (s : State) (t : Tlp) : State :=
  if s.ep.linkUp then { s with ep := { s.ep with tx := s.ep.tx ++ [t] } } else s

/-- A posted write of the block leaves. A poisoned one sets Master Data Parity Error where Parity Error Response is set
(R330, R343; layouts of the named standards). -/
def State.sendPosted (s : State) (pair : Nat) (addr : Addr) (data : List Byte) (poison : Bool) : State :=
  let s := if poison && s.ep.linkUp && s.cfgBit 4 6 then s.orCfg 4 0x01000000 else s
  s.send (.memWrite pair addr data poison)

/-- A host-memory write on a stream pair, cut under R332: each packet that carries a marked byte is poisoned (R325, R345). -/
def State.sendWrite (s : State) (pair : Nat) (addr : Addr) (data : List Byte) (marks : List Bool) : State :=
  (splitRange (data.length + 1) s.mps addr.toNat data.length).foldl (fun (s : State) (p : Nat × Nat) =>
    let at0 := p.1 - addr.toNat
    s.sendPosted pair (BitVec.ofNat 64 p.1) (firstN p.2 (restN at0 data)) ((firstN p.2 (restN at0 marks)).any id)) s

/-- The completions of a host read (R332, R345): each ends at the range's end or at a multiple of the largest payload. -/
def cutCompletions (fuel max addr len : Nat) : List (Nat × Nat) :=
  match fuel with
  | 0 => []
  | k + 1 =>
    if len = 0 then []
    else
      let n := min len (max - addr % max)
      (addr, n) :: cutCompletions k max (addr + n) (len - n)

/-- The data of a host read at address `addr` leaves in as many completions as it needs; each that carries a marked byte is
poisoned (R345). -/
def State.sendRead (s : State) (requester : BitVec 16) (tag addr : Nat) (data : List Byte) (marks : List Bool) : State :=
  match cutCompletions (data.length + 1) s.mps addr data.length with
  | [] => s.send (.completion requester tag .success data false)
  | [_] => s.send (.completion requester tag .success data (marks.any id))
  | l =>
    l.foldl (fun (s : State) (p : Nat × Nat) =>
      let at0 := p.1 - addr
      s.send (.part requester tag (p.1 % 128) (data.length - at0) (firstN p.2 (restN at0 data))
        ((firstN p.2 (restN at0 marks)).any id))) s

/-- The request tags that the enable bits allow (R332): first tag and number. -/
def State.tagRange (s : State) : Nat × Nat :=
  if s.cfgBit 0x88 12 then (256, 768) else if s.cfgBit 0x68 8 then (0, 256) else (0, 32)

/-- The lowest request tag that is neither outstanding nor out of use. -/
def State.freeReqTag (s : State) : Option Nat :=
  (countUp s.tagRange.1 s.tagRange.2).find? (fun t => !SMap.has s.ep.reqs t && !SMap.has s.ep.abandoned t)

/-- How many request tags are free. -/
def State.freeReqTags (s : State) : Nat :=
  ((countUp s.tagRange.1 s.tagRange.2).filter
    (fun t => !SMap.has s.ep.reqs t && !SMap.has s.ep.abandoned t)).length

/-- The block may issue requests: the function works, Bus Master Enable is set and the link is up (R353, R355, R519). -/
def State.mayIssue (s : State) : Bool := s.hostWorks && s.bme && s.ep.linkUp

/-- A memory read request is issued with the lowest free tag (R332). -/
def State.issueRead (s : State) (pair : Nat) (user : ReqUser) (addr : Addr) (len : Nat) : State :=
  match s.freeReqTag with
  | none => s
  | some t =>
    let s := { s with ep := { s.ep with
      reqs := SMap.insert s.ep.reqs t { user := user, pair := pair, addr := addr, len := len } } }
    s.send (.memRead pair t addr len)

/-- Error message enables (R346): ERR_COR, ERR_NONFATAL or ERR_FATAL goes out as Device Control and SERR# permit. The
message of an Unsupported Request (`ur`) also needs Unsupported Request Reporting Enable in Device Control. -/
def State.errMsg (s : State) (ur : Bool) (m : ErrMsg) : State :=
  let serr := s.cfgBit 4 8
  let reports := !ur || s.cfgBit 0x68 3
  match m with
  | .cor => if s.cfgBit 0x68 0 && reports then s.send (.error .cor) else s
  | .nonfatal =>
    if s.cfgBit 0x68 1 && reports || serr then
      (if serr then s.orCfg 4 0x40000000 else s).send (.error .nonfatal) else s
  | .fatal =>
    if s.cfgBit 0x68 2 && reports || serr then
      (if serr then s.orCfg 4 0x40000000 else s).send (.error .fatal) else s

/-- A correctable error in AER bit `b` (R343, R521). -/
def State.aerCor (s : State) (b : Nat) : State :=
  let s := s.orCfg 0x110 (BitVec.ofNat 32 (2 ^ b))
  let s := s.orCfg 0x68 0x10000
  if s.cfgBit 0x114 b then s else s.errMsg false .cor

/-- The header of the packet that an error concerns is logged (R346); its content is a free value. -/
def State.logHeader (s : State) : State :=
  (countUp 0 4).foldl (fun (s : State) j =>
    let r := s.nextFresh
    r.2.setCfg (0x11C + 4 * j) (Config.freeWord r.1)) s

/-- No error that the First Error Pointer and the header log hold is still recorded (R346): the next one that they take is
the first. -/
def State.firstError (s : State) : Bool := !s.cfgBit 0x104 (bits (s.cfgRaw 0x118).toNat 4 0)

/-- An uncorrectable error in AER bit `b` (R343): `advisory` where the rule reports it as advisory, `header` where a
packet is concerned. -/
def State.aerUncor (s : State) (b : Nat) (advisory header : Bool) : State :=
  let first := s.firstError
  let masked := s.cfgBit 0x108 b
  let fatal := s.cfgBit 0x10C b
  let s := s.orCfg 0x104 (BitVec.ofNat 32 (2 ^ b))
  let s := if b = 20 then s.orCfg 0x68 0x80000 else s
  if advisory && !fatal then
    let s := (s.orCfg 0x110 0x2000).orCfg 0x68 0x10000
    if s.cfgBit 0x114 13 then s
    else
      let s := if first && !masked then
        (let s := s.setCfg 0x118 (BitVec.ofNat 32 b); if header then s.logHeader else s) else s
      if masked then s else s.errMsg (b == 20) .cor
  else
    let s := s.orCfg 0x68 (if fatal then 0x40000 else 0x20000)
    if masked then s
    else
      let s := if first then
        (let s := s.setCfg 0x118 (BitVec.ofNat 32 b); if header then s.logHeader else s) else s
      s.errMsg (b == 20) (if fatal then .fatal else .nonfatal)

/-- A register violation is written into the ring of 8 (R351, R361). -/
def State.violate (s : State) (kind bar off len : Nat) (write mgmt : Bool) (requester : BitVec 16) : State :=
  let i := s.fld 0x180 2 0
  let at0 := 0x100 + 16 * i
  let s := s.setReg at0 (BitVec.ofNat 32 off)
  let s := s.setReg (at0 + 4) (BitVec.ofNat 32 ((if mgmt then 0 else requester.toNat) * 2 ^ 16 + kind * 2 ^ 8 +
    ofBool mgmt * 2 ^ 7 + bar * 2 ^ 4 + ofBool write * 2 ^ 3))
  let s := s.setReg (at0 + 8) (BitVec.ofNat 32 (len % 8192))
  let s := s.setReg (at0 + 12) (BitVec.ofNat 32 (s.now / 1024))
  (s.addFld 0x180 31 16 1).setFld 0x180 2 0 (i + 1)

/-- The vector is held: Function Mask, its own mask, Bus Master Enable clear or a function reset (R339). -/
def State.vectorHeld (s : State) (v : Nat) : Bool :=
  s.cfgBit 0x50 30 || s.bit (0x8000 + v * 16 + 12) 0 || !s.bme || s.ep.fnReset.isSome

/-- The message of vector `v` is sent with the table entry as it stands (R340). -/
def State.sendMsix (s : State) (pair v : Nat) : State :=
  let lo := (s.reg (0x8000 + v * 16)).toNat
  let hi := (s.reg (0x8004 + v * 16)).toNat
  s.send (.msix pair v (BitVec.ofNat 64 (hi * 2 ^ 32 + lo)) (s.reg (0x8008 + v * 16)))

/-- A stream pair carried something that the next message of vector `v` counts (R342). -/
def State.carry1 (s : State) (v pair : Nat) : State :=
  { s with ep := { s.ep with
    carriers := SMap.setD s.ep.carriers v (SMap.getD s.ep.carriers v 0 ||| (1#8 <<< pair)) 0 } }

/-- The message of `v` is sent or made pending (R339), once no flush read is needed (R342). -/
def State.msixNow (s : State) (v pair : Nat) : State :=
  if !s.cfgBit 0x50 31 then s
  else if s.vectorHeld v then { s with ep := { s.ep with pba := s.ep.pba ||| (1#2048 <<< v) } }
  else s.sendMsix pair v

/-- The pairs that carried what a message of `v` counts. -/
def State.carrierList (s : State) (v : Nat) : List Nat := setBits 8 (SMap.getD s.ep.carriers v 0).toNat

/-- A due message of vector `v` (R339, R342): zero-length reads go out first on every other pair that carried entries
or records it counts. A message that becomes pending still counts what it counted (R62). -/
def State.msixDue (s : State) (v : Nat) : State :=
  let pairs := s.carrierList v
  let home := pairs.getLast?.getD 0
  let others := pairs.filter (fun p => p != home)
  if SMap.has s.ep.flushes v then s
  else if s.cfgBit 0x50 31 && s.vectorHeld v then
    { s with ep := { s.ep with due := s.ep.due.filter (fun x => x != v) } }.msixNow v home
  else if !s.cfgBit 0x50 31 || others.isEmpty then
    let s := { s with ep := { s.ep with due := s.ep.due.filter (fun x => x != v)
                                        carriers := SMap.erase s.ep.carriers v } }
    s.msixNow v home
  else if !s.ep.linkUp || decide (s.freeReqTags < others.length) then s
  else
    let s := { s with ep := { s.ep with due := s.ep.due.filter (fun x => x != v)
                                        carriers := SMap.erase s.ep.carriers v
                                        flushes := SMap.insert s.ep.flushes v (others.length, home) } }
    others.foldl (fun (s : State) p =>
      s.issueRead p (.flush v) (BitVec.ofNat 64 ((s.reg (0x8004 + v * 16)).toNat * 2 ^ 32 +
        (s.reg (0x8000 + v * 16)).toNat)) 0) s

/-- A flush read of vector `v` has ended; after the last one the message goes (R342). A message that becomes pending then
still goes on the pair it was to go on, which carried the last of what it counts (R62). -/
def State.flushEnded (s : State) (v : Nat) : State :=
  match SMap.get s.ep.flushes v with
  | none => s
  | some (n, home) =>
    if n ≤ 1 then
      let s := { s with ep := { s.ep with flushes := SMap.erase s.ep.flushes v } }
      (if s.cfgBit 0x50 31 && s.vectorHeld v then s.carry1 v home else s).msixNow v home
    else { s with ep := { s.ep with flushes := SMap.insert s.ep.flushes v (n - 1, home) } }

/-- A user of vector `v` asks for a message (R339); messages that fall due together merge. -/
def State.askMsix (s : State) (v : Nat) : State :=
  if s.ep.due.contains v then s else { s with ep := { s.ep with due := s.ep.due ++ [v] } }

/-- The pending message of vector `v` is sent, or falls due again where flush reads must go out before it (R62, R339,
R342). -/
def State.msixFree (s : State) (v : Nat) : State :=
  let pairs := s.carrierList v
  let s := { s with ep := { s.ep with pba := s.ep.pba &&& ~~~(1#2048 <<< v) } }
  if 1 < pairs.length then s.askMsix v
  else
    let s := s.sendMsix (pairs.getLast?.getD 0) v
    { s with ep := { s.ep with carriers := SMap.erase s.ep.carriers v } }

/-- Pending messages whose holding conditions have all ended are sent (R339). -/
def State.msixRelease (s : State) : State :=
  if s.cfgBit 0x50 31 && s.ep.pba != 0 then
    (setBits 2048 s.ep.pba.toNat).foldl (fun (s : State) v => if s.vectorHeld v then s else s.msixFree v) s
  else s

/-- LINK_ERROR (R521): a pulse on a bit of `EP_LINK_ERR`. -/
def execLinkError (b : Nat) (s : State) : Host.Outcome State Fault Refusal :=
  if s.hostOn && decide (b < 8) then
    .next (if b < 5 then s.aerCor (nth [0, 6, 7, 8, 12] b 0)
           else s.aerUncor (nth [4, 13, 17] (b - 5) 0) false false)
  else .next s

/-- MALFORMED_TLP (R343, R518): dropped and recorded. -/
def execMalformedTlp (pair : Nat) (s : State) : Host.Outcome State Fault Refusal :=
  if s.hostOn && decide (pair < s.build.pairs) then .next (s.aerUncor 18 false true) else .next s

/-- UNEXPECTED_COMPLETION (R348, R358): dropped; silently for a request that a reset abandoned. -/
def execUnexpectedCompletion (tag : Nat) (s : State) : Host.Outcome State Fault Refusal :=
  if !s.hostOn || SMap.has s.ep.reqs tag then .next s
  else
    match SMap.get s.ep.abandoned tag with
    | some a => if a.silent then .next s else .next ((s.aerUncor 16 true true).raise 834)
    | none => .next ((s.aerUncor 16 true true).raise 834)

/-- ABANDONED_TAG_RELEASE (R348, R358): the request tag returns to use. -/
def execAbandonedTagRelease (tag : Nat) (s : State) : Host.Outcome State Fault Refusal :=
  if s.hostOn then .next { s with ep := { s.ep with abandoned := SMap.erase s.ep.abandoned tag } } else .next s

/-- MSIX_MESSAGE (R339). -/
def execMsixMessage (v : Nat) (s : State) : Host.Outcome State Fault Refusal :=
  if s.hostOn && s.ep.due.contains v then .next (s.msixDue v) else .next s

end Sys2Proof.Machine
end

