-- ==== Sys2Proof/Machine/Levels.lean ====
section
/-! DEFINITION. Read levels, the disturb ledger and the open-block table (R154 to R158, R262 to R283). -/

namespace Sys2Proof.Machine
open Sys2Proof

/-- The ladder index of `b` bits per cell and page type `t` (R262). -/
def ladderIndex (b t : Nat) : Nat := b * (b - 1) / 2 + t

/-- The ladder index of a read of an address at a page type. -/
def State.ladderOf (s : State) (a : Addr) (t : Nat) : Nat := ladderIndex (s.tgtBpc (aCh a) (targetOf (aLun a))) t

/-- `RL_TMASK(x).mask`. -/
def State.tmask (s : State) (x : Nat) : Nat := s.fld (0x300200 + 4 * x) 30 0

/-- A page type of a target that may be read: below its bits per cell, with a mask that is not zero (R262). -/
def State.typeOk (s : State) (ch t pt : Nat) : Bool :=
  decide (pt < s.tgtBpc ch t) && s.tmask (ladderIndex (s.tgtBpc ch t) pt) != 0

/-- Steps of ladder `x` (R267). -/
def State.steps (s : State) (x : Nat) : Nat := s.fld (0x300100 + 4 * x) 3 0 + 1

/-- Two lists of offsets added slot by slot, saturating (R263). -/
def addOffsets (l m : List (BitVec 8)) : List (BitVec 8) :=
  match l, m with
  | x :: l, y :: m => sat8 (x.toInt + y.toInt) :: addOffsets l m
  | _, _ => []

/-- 31 zero offsets. -/
def noOffsets : List (BitVec 8) := copies 31 0

/-- The 31 deltas of step `k` of ladder `x` (R267); an uncorrectable error in the ladder RAM makes them read 0
(R448). -/
def State.deltas (s : State) (x k : Nat) : List (BitVec 8) × State :=
  let r := s.useEntry 2 (mlogAddr 1 (16 * x + k) 0) 32
  let at0 := 0x310000 + x * 0x200 + k * 0x20
  if r.1 then (noOffsets, r.2)
  else ((countUp 0 31).map (fun i => BitVec.ofNat 8 (s.fld (at0 + 4 * (i / 4)) (8 * (i % 4) + 7) (8 * (i % 4)))), r.2)

/-- The set of a key (R264). -/
def rltSet (lun group pt : Nat) : Nat := ((2 * lun) ^^^ (group * 0x9E5) ^^^ (pt * 0x2D3)) % 8192

/-- The block group of a block. -/
def State.groupOf (s : State) (block : Nat) : Nat := block / 2 ^ s.fld 0x300000 3 0

/-- An entry holds a key. -/
def RltEntry.holds (e : RltEntry) (lun group pt : Nat) : Bool :=
  e.valid && e.lun.toNat == lun && e.group.toNat == group && e.pageType.toNat == pt

/-- The entries of a set that meet an uncorrectable error are invalidated, even when pinned (R448). -/
def State.rltSweep (s : State) (set : Nat) : State :=
  if s.rawGroups.isEmpty then s
  else (countUp (8 * set) 8).foldl (fun (s : State) i =>
    let r := s.useEntry 2 (mlogAddr 0 i 0) 256
    if r.1 then (r.2.setRltEntry i RltEntry.init).freshEntry 2 (mlogAddr 0 i 0) 256 else r.2) s

/-- The entry that holds a key, if one does. -/
def State.rltFind (s : State) (lun group pt : Nat) : Option Nat :=
  (countUp (8 * rltSet lun group pt) 8).find? (fun i => (s.rltEntry i).holds lun group pt)

/-- The lookup of a read that decodes (R266): the base of a trained entry, or none for a cold start. -/
def State.lookupBase (s : State) (a : Addr) (pt : Nat) : Option (List (BitVec 8)) × State :=
  let g := s.groupOf (aBlock a)
  let s := s.rltSweep (rltSet (aIdx a) g pt)
  match s.rltFind (aIdx a) g pt with
  | some i =>
    if (s.rltEntry i).trained then (some (s.rltEntry i).slots, s.count (aCh a) 16 1) else (none, s.count (aCh a) 17 1)
  | none => (none, s.count (aCh a) 17 1)

/-- The cold-start step of ladder `x` on channel `ch` for page type `pt` (R269). -/
def State.coldStep (s : State) (ch x pt : Nat) : Nat :=
  let plan := s.fld (0x330008 + ch * 0x100) (4 * pt + 3) (4 * pt)
  if s.bit 0x300404 1 && decide (plan < s.steps x) then plan
  else
    let c := s.fld (0x300100 + 4 * x) 11 8
    if c < s.steps x then c else 0

/-- The last attempt of a read (R268). -/
def State.lastAttempt (s : State) (x limit : Nat) : Nat :=
  let n := s.steps x - 1
  if limit ≠ 0 ∧ limit < n then limit else n

/-- The offsets of attempt `k` of a read whose ladder had `n` steps at its lookup (R266, R268). -/
def State.attemptOffsets (s : State) (x : Nat) (base : List (BitVec 8)) (cold : Bool) (c n k : Nat) :
    List (BitVec 8) × State :=
  let r := s.deltas x (if cold then (c + k) % n else k)
  (addOffsets base r.1, r.2)

/-- The offset bytes of the thresholds in a mask, lowest threshold first (R263). -/
def maskedOffsets (mask : Nat) (l : List (BitVec 8)) : List (BitVec 8) :=
  ((countUp 0 31).filter (bitOf mask)).map (fun i => nth l i 0)

/-- `DEVICE_TIME`[55:32]. -/
def State.ageNow (s : State) : Nat := (s.now / 2 ^ 32) % 2 ^ 24

/-- The way that a new key takes in a set (R273): the first free way, else the unpinned way with the oldest stamp. -/
def State.rltPlace (s : State) (set : Nat) : Option Nat :=
  match (countUp (8 * set) 8).find? (fun i => !(s.rltEntry i).valid) with
  | some i => some i
  | none =>
    leastBy (fun i => 2 ^ 24 - (s.ageNow + 2 ^ 24 - (s.rltEntry i).age.toNat) % 2 ^ 24)
      ((countUp (8 * set) 8).filter (fun i => !(s.rltEntry i).pinned))

/-- The slots of a mask replaced by new offsets. -/
def mergeSlots (mask : Nat) (old new : List (BitVec 8)) : List (BitVec 8) :=
  (countUp 0 31).map (fun i => if bitOf mask i then nth new i 0 else nth old i 0)

/-- Offsets are written into the entry of a key, or a new entry, unless the entry is pinned (R272, R273). `train` says
that a training writes it, which counts. -/
def State.writeLevels (s : State) (a : Addr) (pt : Nat) (offs : List (BitVec 8)) (train : Bool) : State :=
  let g := s.groupOf (aBlock a)
  let set := rltSet (aIdx a) g pt
  let mask := s.tmask (s.ladderOf a pt)
  let s := s.rltSweep set
  let note := fun (s : State) => if train then s.count (aCh a) 18 1 else s
  let mark := fun (e : RltEntry) =>
    { e with slots := mergeSlots mask e.slots offs, trained := true, weak := false, age := BitVec.ofNat 24 s.ageNow }
  match s.rltFind (aIdx a) g pt with
  | some i => if (s.rltEntry i).pinned then s else note (s.modRltEntry i mark)
  | none =>
    match s.rltPlace set with
    | some i =>
      note (s.setRltEntry i (mark { RltEntry.init with
        valid := true, lun := BitVec.ofNat 12 (aIdx a), group := BitVec.ofNat 20 g, pageType := BitVec.ofNat 3 pt }))
    | none => (s.count (aCh a) 19 1).raise 850

/-- A success by soft decoding marks the entry weak (R272). -/
def State.markWeak (s : State) (a : Addr) (pt : Nat) : State :=
  let g := s.groupOf (aBlock a)
  let s := s.rltSweep (rltSet (aIdx a) g pt)
  match s.rltFind (aIdx a) g pt with
  | some i => s.modRltEntry i (fun e => { e with weak := true })
  | none => s

/-- A bitvector list from a word, lowest byte first. -/
def wordSlots (w : Word) (n : Nat) : List (BitVec 8) := (countUp 0 n).map (fun j => BitVec.ofNat 8 (wfld w (8 * j + 7) (8 * j)))

/-- The view registers as an entry (R275). -/
def State.rltView (s : State) : RltEntry :=
  { valid := s.bit 0x300014 31
    lun := BitVec.ofNat 12 (s.fld 0x300010 31 20)
    group := BitVec.ofNat 20 (s.fld 0x300010 19 0)
    pageType := BitVec.ofNat 3 (s.fld 0x300014 2 0)
    slots := firstN 31 ((countUp 0 8).flatMap (fun j => wordSlots (s.reg (0x300020 + 4 * j)) 4))
    trained := s.bit 0x300018 31
    pinned := s.bit 0x300018 30
    weak := s.bit 0x300018 29
    age := BitVec.ofNat 24 (s.fld 0x300018 23 0) }

/-- An entry is copied into the view registers. -/
def State.setRltView (s : State) (e : RltEntry) : State :=
  let s := s.setReg 0x300010 (BitVec.ofNat 32 (e.lun.toNat * 2 ^ 20 + e.group.toNat))
  let s := s.setReg 0x300014 (BitVec.ofNat 32 (ofBool e.valid * 2 ^ 31 + e.pageType.toNat))
  let s := s.setReg 0x300018 (BitVec.ofNat 32 (ofBool e.trained * 2 ^ 31 + ofBool e.pinned * 2 ^ 30 +
    ofBool e.weak * 2 ^ 29 + e.age.toNat))
  (countUp 0 8).foldl (fun (s : State) j =>
    s.setReg (0x300020 + 4 * j) (BitVec.ofNat 32 (leNat (firstN 4 (restN (4 * j) e.slots))))) s

/-- `RLT_CMD.result`: 0 OK, 1 MISS, 2 FULL, 3 REJECTED. -/
def State.rltResult (s : State) (r : Nat) : State := s.setFld 0x300004 27 26 r

/-- `RLT_CMD.index`. -/
def State.rltIndex (s : State) (i : Nat) : State := s.setFld 0x300004 15 0 i

/-- The view is written into entry `i` with fresh check bits. -/
def State.rltStore (s : State) (i : Nat) : State :=
  (s.setRltEntry i s.rltView).freshEntry 2 (mlogAddr 0 i 0) 256

/-- The key of the view. -/
def State.viewSet (s : State) : Nat :=
  rltSet s.rltView.lun.toNat s.rltView.group.toNat s.rltView.pageType.toNat

/-- The entry of the view's set that holds the view's key. -/
def State.viewFind (s : State) : Option Nat :=
  s.rltFind s.rltView.lun.toNat s.rltView.group.toNat s.rltView.pageType.toNat

/-- READ (R275). -/
def State.rltOpRead (s : State) (i : Nat) : State :=
  let s := s.rltSweep (i / 8)
  ((s.setRltView (s.rltEntry i)).rltIndex i).rltResult 0

/-- WRITE (R275). -/
def State.rltOpWrite (s : State) (i : Nat) : State :=
  let s := s.rltIndex i
  let clash := match s.viewFind with | some j => j != i | none => false
  if s.rltView.valid && (i / 8 != s.viewSet || clash) then s.rltResult 3 else (s.rltStore i).rltResult 0

/-- LOOKUP (R275). -/
def State.rltOpLookup (s : State) : State :=
  let s := s.rltSweep s.viewSet
  match s.viewFind with
  | some i => ((s.rltIndex i).setRltView (s.rltEntry i)).rltResult 0
  | none => s.rltResult 1

/-- INSERT (R275). -/
def State.rltOpInsert (s : State) : State :=
  let s := s.rltSweep s.viewSet
  match s.viewFind with
  | some i => ((s.rltStore i).rltIndex i).rltResult 0
  | none =>
    match s.rltPlace s.viewSet with
    | some i => ((s.rltStore i).rltIndex i).rltResult 0
    | none => s.rltResult 2

/-- Every entry that a test picks is invalidated. -/
def State.rltDrop (s : State) (p : RltEntry → Bool) : State :=
  { s with rlt := s.rlt.filter (fun e => !p e.2) }

/-- A write to `RLT_CFG` (R276). -/
def State.rltCfg (s : State) (v : Word) : State :=
  let old := s.fld 0x300000 3 0
  let s := s.setReg 0x300000 (v &&& 0x10F)
  if wfld v 3 0 = old then s else { s with rlt := [] }

/-- A command of the read-level table window is taken: the block serves requests and the table is not busy. -/
def State.rltOpen (s : State) : Bool := s.serving && s.ph.rltReady

/-- Entry `k` is advised when its count has reached the threshold (R282). -/
def State.advise (s : State) (k : Nat) : State :=
  let e := s.ledgerEntry k
  let limit := (s.reg 0x300300).toNat
  if e.valid && !e.advised && limit != 0 && decide (limit ≤ e.count.toNat) then
    let ch := k / 128
    let s := (s.setLedgerEntry k { e with advised := true }).count ch 21 1
    if s.adv.length < 64 then
      let a := BitVec.ofNat 64 (ch * 16 + e.lun.toNat + e.plane.toNat * 2 ^ 12 + e.block.toNat * 2 ^ 32)
      (({ s with adv := s.adv ++ [(⟨a, e.count, e.inherited⟩ : Advisory)] }).freshEntry 3 (mlogAddr 1 s.adv.length 0) 16).raise 848
    else (s.addFld 0x300310 31 16 1).raise 849
  else s

/-- The ledger entries of channel `n` that meet an uncorrectable error (R448): a bad count byte makes the count
all-ones and inherited, a bad key byte invalidates the entry. -/
def State.ledgerSweep (s : State) (n : Nat) : State :=
  s.rawGroups.foldl (fun (s : State) p =>
    let addr := p.1 % 2 ^ 28
    let e := bits addr 23 8
    if p.1 / 2 ^ 28 = 3 ∧ bits addr 26 24 = 0 ∧ e / 128 = n then
      let r := s.useGroup 3 addr
      if r.1 then
        let s := r.2.freshEntry 3 (mlogAddr 0 e (bits addr 7 0)) 4
        if bits addr 7 0 < 4 then s.setLedgerEntry e LedgerEntry.init
        else (s.modLedgerEntry e (fun x => { x with count := 0xFFFFFFFF, inherited := true })).advise e
      else r.2
    else s) s

/-- The ledger entry of a block. -/
def State.ledgerFind (s : State) (a : Addr) : Option Nat :=
  (countUp (128 * aCh a) 128).find? (fun k =>
    let e := s.ledgerEntry k
    e.valid && e.lun.toNat == aLun a && e.plane.toNat == aPlane a && e.block.toNat == aBlock a)

/-- An array read of a page counts in the ledger (R279, R280). -/
def State.ledgerRead (s : State) (a : Addr) : State :=
  let ch := aCh a
  let s := (s.ledgerSweep ch).count ch 24 1
  let key : LedgerEntry := { LedgerEntry.init with
    valid := true, lun := BitVec.ofNat 4 (aLun a), plane := BitVec.ofNat 2 (aPlane a)
    block := BitVec.ofNat 20 (aBlock a), count := 1 }
  match s.ledgerFind a with
  | some k =>
    (s.modLedgerEntry k (fun e => { e with count := BitVec.ofNat 32 (addStop e.count.toNat 1 0xFFFFFFFF) })).advise k
  | none =>
    match (countUp (128 * ch) 128).find? (fun k => !(s.ledgerEntry k).valid) with
    | some k => (s.setLedgerEntry k key).advise k
    | none =>
      match leastBy (fun k => (s.ledgerEntry k).count.toNat) (countUp (128 * ch) 128) with
      | none => s
      | some k =>
        let c := addStop (s.ledgerEntry k).count.toNat 1 0xFFFFFFFF
        ((s.setLedgerEntry k { key with count := BitVec.ofNat 32 c, inherited := true }).count ch 20 1).advise k

/-- An erase of a block enters CONFIRMED: its entry becomes invalid (R281). -/
def State.ledgerErase (s : State) (a : Addr) : State :=
  match s.ledgerFind a with
  | some k => s.setLedgerEntry k LedgerEntry.init
  | none => s

/-- The open-block entry of an address word. -/
def State.obtFind (s : State) (a : Addr) : Option Nat :=
  (countUp (8 * aIdx a) 8).find? (fun k => (s.obtEntry k).valid && (s.obtEntry k).covers (aIdx a) a)

/-- The groups of open-block entry `k` that hold an uncorrectable error (R448). -/
def State.obtBad (s : State) (k : Nat) : List Nat :=
  (s.rawGroups.filter (fun p => p.1 / 2 ^ 28 == 4 && bits p.1 23 8 == k && p.2.bad != 0)).map (fun p => p.1 % 2 ^ 28)

/-- Every program of the LUN waits for the window write of a bad entry (R448). -/
def State.obtBlocked (s : State) (lun : Nat) : Bool := (countUp (8 * lun) 8).any (fun k => !(s.obtBad k).isEmpty)

/-- The interpreter reads the entries of a LUN (R155): it finds the errors of a stored group once for each time that its
bits are written (R446 to R448). -/
def State.obtMeet (s : State) (lun : Nat) : State :=
  (s.rawGroups.filter (fun p => p.1 / 2 ^ 28 == 4 && bits p.1 23 8 / 8 == lun && !p.2.met)).foldl
    (fun (s : State) p =>
      let s := (s.useGroup 4 (p.1 % 2 ^ 28)).2
      { s with rawGroups := SMap.insert s.rawGroups p.1 { p.2 with met := true } }) s

/-- The entry that a program of a page takes (R155): its own, the lowest free one, or one evicted; `taken` may not be
evicted. -/
def State.obtTake (s : State) (a : Addr) (taken : List Nat) : Option Nat :=
  match s.obtFind a with
  | some k => some k
  | none =>
    let all := countUp (8 * aIdx a) 8
    match all.find? (fun k => !(s.obtEntry k).valid && !taken.contains k) with
    | some k => some k
    | none =>
      let last := s.tgtPages (aCh a) (targetOf (aLun a)) - 1
      leastBy (fun k => (if (s.obtEntry k).pointer.toNat = last then 0 else 2 ^ 64) + (s.obtEntry k).stamp)
        (all.filter (fun k => s.obtInflight k == 0 && !taken.contains k))

/-- The write pointer that a page must pass (R155): some pointer at or above the page. -/
def State.obtViolates (s : State) (a : Addr) : Option Nat :=
  match s.obtFind a with
  | some k => if aPage a ≤ (s.obtEntry k).pointer.toNat then some (s.obtEntry k).pointer.toNat else none
  | none => none

/-- The pointer of a page's block is set at tag allocation, in an entry other than those kept (R155); `stamp` is the time of
the advance, one for entries that advance together. -/
def State.obtAdvanceAt (s : State) (a : Addr) (keep : List Nat) (stamp : Nat) : State :=
  match s.obtTake a keep with
  | none => s
  | some k =>
    let evict := (s.obtEntry k).valid && !(s.obtEntry k).covers (aIdx a) a
    let s := s.setObtEntry k { valid := true, plane := BitVec.ofNat 2 (aPlane a), block := BitVec.ofNat 20 (aBlock a)
                               pointer := BitVec.ofNat 16 (aPage a), stamp := stamp }
    if evict then s.attn (aCh a) 6 else s

/-- The pointer of a page's block is set at tag allocation (R155). -/
def State.obtAdvance (s : State) (a : Addr) : State := s.tick.2.obtAdvanceAt a [] s.tick.1

/-- The entry of an erased block is freed (R156). -/
def State.obtFree (s : State) (a : Addr) : State :=
  match s.obtFind a with
  | some k => s.setObtEntry k ObtEntry.init
  | none => s

/-- A page-order violation is logged (R157). -/
def State.logOrder (s : State) (a : Addr) (q : Nat) (cid : BitVec 16) (pointer : Nat) : State :=
  let p := chanPage (aCh a)
  let i := s.fld (p + 0x180) 2 0
  let e := p + 0x100 + 16 * i
  let s := s.setReg e (BitVec.ofNat 32 a.toNat)
  let s := s.setReg (e + 4) (BitVec.ofNat 32 (a.toNat / 2 ^ 32))
  let s := s.setReg (e + 8) (BitVec.ofNat 32 (q % 2 ^ 15 * 2 ^ 16 + cid.toNat))
  let s := s.setReg (e + 12) (BitVec.ofNat 32 pointer)
  ((s.addFld (p + 0x180) 31 16 1).setFld (p + 0x180) 2 0 (i + 1)).attn (aCh a) 5

/-- `OBT_LO` of entry `k` is written (R158): the value waits for the `OBT_HI` write that follows; a write to an entry with
a program in flight is ignored. -/
def State.obtLoWrite (s : State) (k : Nat) (v : Word) : State :=
  if s.obtInflight k ≠ 0 && (s.obtBad k).isEmpty then s else { s with obtLo := SMap.insert s.obtLo k v }

/-- `OBT_HI` of entry `k` is written (R158). -/
def State.obtHiWrite (s : State) (k : Nat) (v : Word) : State :=
  let bad := !(s.obtBad k).isEmpty
  let lo := (SMap.get s.obtLo k).getD (s.obtEntry k).lo
  let s := { s with obtLo := SMap.erase s.obtLo k }
  if s.obtInflight k ≠ 0 && !bad then s
  else
    let t := s.tick
    (t.2.setObtEntry k { valid := bitOf lo.toNat 31, plane := BitVec.ofNat 2 (wfld lo 21 20)
                         block := BitVec.ofNat 20 (wfld lo 19 0), pointer := BitVec.ofNat 16 (wfld v 31 16)
                         stamp := t.1 }).freshEntry 4 (mlogAddr 0 k 0) 8

/-- `LEDGER_HI` of entry `k` is written (R283). -/
def State.ledgerHiWrite (s : State) (k : Nat) (v : Word) : State :=
  let lo := (SMap.get s.ledgerLo k).getD (s.ledgerEntry k).lo
  let s := { s with ledgerLo := SMap.erase s.ledgerLo k }
  (s.setLedgerEntry k (LedgerEntry.ofRegs lo v)).freshEntry 3 (mlogAddr 0 k 0) 8

/-- RLT_READ (R275). -/
def execRltRead (index : Nat) (s : State) : Host.Outcome State Fault Refusal :=
  if s.asleep then .next (s.holdRequest (.rltRead index) .access)
  else if s.rltOpen then .next (s.rltOpRead (index % 65536)) else .next s

/-- RLT_WRITE (R275). -/
def execRltWrite (index : Nat) (s : State) : Host.Outcome State Fault Refusal :=
  if s.asleep then .next (s.holdRequest (.rltWrite index) .access)
  else if s.rltOpen then .next (s.rltOpWrite (index % 65536)) else .next s

/-- RLT_LOOKUP (R275). -/
def execRltLookup (s : State) : Host.Outcome State Fault Refusal :=
  if s.asleep then .next (s.holdRequest .rltLookup .access)
  else if s.rltOpen then .next s.rltOpLookup else .next s

/-- RLT_INSERT (R275). -/
def execRltInsert (s : State) : Host.Outcome State Fault Refusal :=
  if s.asleep then .next (s.holdRequest .rltInsert .access)
  else if s.rltOpen then .next s.rltOpInsert else .next s

/-- RLT_CLEAR_UNPINNED (R275). -/
def execRltClearUnpinned (s : State) : Host.Outcome State Fault Refusal :=
  if s.asleep then .next (s.holdRequest .rltClearUnpinned .access)
  else if s.rltOpen then .next ((s.rltDrop (fun e => !e.pinned)).rltResult 0) else .next s

/-- RLT_CLEAR_ALL (R275). -/
def execRltClearAll (s : State) : Host.Outcome State Fault Refusal :=
  if s.asleep then .next (s.holdRequest .rltClearAll .access)
  else if s.rltOpen then .next ({ s with rlt := [] }.rltResult 0) else .next s

/-- RLT_CFG_WRITE (R276). -/
def execRltCfgWrite (val : Word) (s : State) : Host.Outcome State Fault Refusal :=
  if s.asleep then .next (s.holdRequest (.rltCfgWrite val) .access)
  else if s.serving then .next (s.rltCfg val) else .next s

/-- RLT_INIT_END (R277): the table is clear and lookups proceed. -/
def execRltInitEnd (s : State) : Host.Outcome State Fault Refusal :=
  if s.hostOn && s.ph.tablesReady then .next { s with ph := { s.ph with rltReady := true } } else .next s

/-- LEDGER_HI_WRITE (R283). -/
def execLedgerHiWrite (k : Nat) (val : Word) (s : State) : Host.Outcome State Fault Refusal :=
  if s.asleep then .next (s.holdRequest (.ledgerHiWrite k val) .access)
  else if s.serving && decide (k < 128 * s.nch) then .next (s.ledgerHiWrite k val) else .next s

/-- ADV_POP (R282): the head advisory leaves the ring. -/
def execAdvPop (s : State) : Host.Outcome State Fault Refusal :=
  if s.asleep then .next (s.holdRequest .advPop .access)
  else if s.serving then .next s.popAdvisory else .next s

/-- OBT_HI_WRITE (R158). -/
def execObtHiWrite (k : Nat) (val : Word) (s : State) : Host.Outcome State Fault Refusal :=
  if s.asleep then .next (s.holdRequest (.obtHiWrite k val) .access)
  else if s.serving && decide (k < 128 * s.nch) then .next (s.obtHiWrite k val) else .next s

end Sys2Proof.Machine
end

