-- ==== Sys2Proof/Machine/Governor.lean ====
section
/-! DEFINITION. The power envelope governor (R403 to R422): model, budget, admission, feedback checks, hard cap. -/

namespace Sys2Proof.Machine
open Sys2Proof

/-- The key of local LUN `l` of channel `n` (its LUN index). -/
def lunKey (n l : Nat) : Nat := 16 * n + l

/-- The weight of class `c` (R406). -/
def State.weight (s : State) (c : Nat) : Nat := s.fld (0x40080 + 4 * c) 15 0

/-- The class of a piece of work (R406). -/
def State.workClass (s : State) (w : Work) : Nat :=
  let b := s.tgtBpc w.ch (targetOf w.lun)
  match w.kind with
  | .read => if b ≤ 1 then 0 else if b ≤ 3 then 1 else 2
  | .program => if b ≤ 1 then 4 else min 8 (b + 3)
  | .erase => 9
  | .reset => 10
  | .access | .routine => 11

/-- The granted charge G (R407). -/
def State.granted (s : State) : Nat := s.gov.grants.foldl (fun a g => a + g.charge) 0

/-- Bays in a state. -/
def State.baysIn (s : State) (t : BayState) : Nat := ((countUp 0 (s.nch / 8)).filter (fun b => (s.bay b).st == t)).length

/-- The standing of bays and block. -/
def State.bayStanding (s : State) : Nat :=
  s.weight 15 + s.weight 13 * s.baysIn .on + s.weight 14 * s.baysIn .ramping

/-- The admission standing S_a (R407). -/
def State.standing (s : State) : Nat :=
  s.bayStanding + s.weight 12 * ((countUp 0 s.nch).filter (fun n => (s.chan n).st == .running)).length

/-- A data-in job of channel `n` is in progress: a program's job that has not sent its confirm, or a routine's that has data
for the die (R407). -/
def State.dataIn (s : State) (n : Nat) : Bool :=
  let b := (s.chan n).bus
  b.running && (b.entry == 12 || b.entry == 13 || !b.egress.isEmpty)

/-- A data-out job of channel `n` is in progress: its data stands in the ingress FIFO, since the model moves it there in one
step, or a routine captures (R407). -/
def State.dataOutRuns (s : State) (n : Nat) : Bool :=
  let c := s.chan n
  !c.ingress.isEmpty || (c.bus.running && !(c.bus.captured.isEmpty && c.bus.closed.isEmpty))

/-- The channels with a data-out or data-in job in progress (R406, R407). -/
def State.transferring (s : State) : Nat := ((countUp 0 s.nch).filter (fun n => s.dataIn n || s.dataOutRuns n)).length

/-- The model estimate E (R407), saturating. -/
def State.estimate (s : State) : Nat :=
  min 0xFFFFFF (s.bayStanding + s.weight 12 * s.transferring + s.granted)

/-- The committed current C (R407). -/
def State.committed (s : State) : Nat := s.standing + s.granted

/-- The charge of a request (R407). -/
def State.reqCharge (s : State) (r : PeReq) : Nat := s.weight r.cls + s.weight 3 * r.planes

/-- The group of a request (R412): 0 reads, 1 releases, 2 other non-reads. -/
def PeReq.group (r : PeReq) : Nat := if r.release then 1 else if r.cls ≤ 3 then 0 else 2

/-- A request fits the budget (R411). -/
def State.fits (s : State) (r : PeReq) : Bool :=
  if r.group = 0 then decide (s.committed + s.reqCharge r ≤ s.gov.budget)
  else decide (s.committed + s.reqCharge r ≤ s.gov.budget - s.fld 0x40018 23 0)

/-- The oldest waiting request of a group. -/
def State.groupHead (s : State) (g : Nat) : Option PeReq :=
  leastBy (fun r => r.stamp) (s.gov.waiting.filter (fun r => r.group == g))

/-- The request that is granted next (R412, R413). -/
def State.nextGrant (s : State) : Option PeReq :=
  ((countUp 0 3).filterMap (fun g => if g = 0 && s.gov.holdReads then none else s.groupHead g)).find? s.fits

/-- The oldest waiting non-read (R413). -/
def State.oldestNonRead (s : State) : Option PeReq :=
  leastBy (fun r => r.stamp) (s.gov.waiting.filter (fun r => r.group != 0))

/-- A request leaves the waiting ones; what depends on it ends (R413, R414). -/
def State.unwait (s : State) (r : PeReq) : State :=
  let oldest := s.oldestNonRead == some r
  let g := { s.gov with waiting := s.gov.waiting.filter (fun x => x != r) }
  { s with gov := { g with holdReads := g.holdReads && !oldest, stallRaised := g.stallRaised && !g.waiting.isEmpty } }

/-- A work's waiting request is withdrawn. -/
def State.withdraw (s : State) (id : Nat) : State :=
  (s.gov.waiting.filter (fun r => r.work == id)).foldl (fun s r => s.unwait r) s

/-- The grants that a test picks are released (R407, R414). -/
def State.releaseGrants (s : State) (p : PeGrant → Bool) : State :=
  { s with gov := { s.gov with grants := s.gov.grants.filter (fun g => !p g) } }

/-- The grant of the array operation that ends, or is suspended, in a LUN is released (R149). -/
def State.releaseOp (s : State) (key : Nat) (works : List Nat) : State :=
  s.releaseGrants (fun g => g.lun == key && (g.atDie || works.contains g.work || (s.work g.work).isNone))

/-- The grants of works whose array operation runs on in a LUN without them stay with it; their re-runs take grants of their
own (R414, R465). -/
def State.grantsAtDie (s : State) (key : Nat) (works : List Nat) : State :=
  { s with gov := { s.gov with grants := s.gov.grants.map (fun g =>
      if g.lun == key && works.contains g.work then { g with atDie := true } else g) } }

/-- The unused grant of a work is released. -/
def State.releaseUnused (s : State) (id : Nat) : State := s.releaseGrants (fun g => g.work == id && !g.atDie)

/-- A combined read holds one grant: that of read `id`, with the charge of the planes that join it beyond those it was granted
with; the grants that they held themselves are released (R146, R407). -/
def State.joinGrants (s : State) (id : Nat) (go : List Nat) (further : Nat) : State :=
  let s := go.foldl (fun s m => s.releaseUnused m) s
  { s with gov := { s.gov with grants := s.gov.grants.map (fun g =>
      if g.work == id && !g.atDie then { g with charge := g.charge + s.weight 3 * further } else g) } }

/-- A piece of work asks for admission (R149, R411). -/
def State.askAdmission (s : State) (id : Nat) (planes : Nat) (release : Bool) : State :=
  match s.work id with
  | none => s
  | some w =>
    let t := s.tick
    let r : PeReq := { work := id, cls := s.workClass w, planes := planes, release := release, stamp := t.1 }
    let s := t.2
    let blocked := (s.groupHead r.group).isSome || !s.fits r || (r.group == 0 && s.gov.holdReads)
    let s := { s with gov := { s.gov with waiting := s.gov.waiting ++ [r] } }
    if blocked then s.count 266 4 1 else s

/-- The operation of a LUN under hard cap is released (R419). -/
def Lun.capRelease (l : Lun) (id : Nat) : Lun :=
  match l.parked with
  | some o => if o.works.contains id then { l with parked := some { o with cap := .released } } else l
  | none => l

/-- A request is granted (R411, R419): its charge is taken at the weights of the moment. -/
def State.grant (s : State) (r : PeReq) : State :=
  let s := s.unwait r
  match s.work r.work with
  | none => s
  | some w =>
    let key := lunKey w.ch w.lun
    let t := s.tick
    let s := t.2
    let g : PeGrant := { work := r.work, lun := key, charge := s.reqCharge r, stamp := t.1 }
    let s := { s with gov := { s.gov with grants := s.gov.grants ++ [g] } }
    let s := s.modWork r.work (fun w => { w with adm := .granted })
    let s := if r.release then s.modLun key (fun l => l.capRelease r.work) else s
    s.count 266 3 1

/-- The target T (R409, R415). -/
def State.peTarget (s : State) : Nat :=
  match s.gov.st with
  | .feedback => min (s.fld 0x40014 23 0) (max (s.fld 0x40010 23 0) s.gov.setpoint)
  | _ => s.fld 0x4000C 23 0

/-- The budget steps towards the target (R410). -/
def State.stepBudget (s : State) : State :=
  let t := s.peTarget
  let slew := if s.fld 0x40008 23 0 = 0 then 1 else s.fld 0x40008 23 0
  let b := s.gov.budget
  let b := if t > b then min t (b + slew) else max t (b - slew)
  { s with gov := { s.gov with budget := b, target := t } }

/-- The array operation that runs in a LUN may be suspended: as `TGT_CFG` and no_suspend stood at its issue (R142,
R151). -/
def ArrayOp.capAllowed (o : ArrayOp) : Bool := (o.kind == .program || o.kind == .erase) && o.maySuspend

/-- The work of the operation is past its confirm. -/
def State.opConfirmed (s : State) (o : ArrayOp) : Bool :=
  o.works.any (fun id => match s.work id with | some w => w.st == .confirmed | none => false)

/-- The grant held for an operation of a LUN. -/
def State.grantOf (s : State) (key : Nat) (o : ArrayOp) : Option PeGrant :=
  s.gov.grants.find? (fun g => g.lun == key && o.works.contains g.work && !g.atDie)

/-- A candidate of a hard-cap pass: the LUN, the operation, the charge that its suspend releases and the stamp of its grant, and
whether it is suspended for reads already. -/
structure CapPick where
  key : Nat
  op : ArrayOp
  charge : Nat
  stamp : Nat
  parked : Bool
  deriving DecidableEq, Repr

/-- The operation that runs in a LUN as a candidate (R418): past its confirm and not yet ordered. -/
def State.capRunning (s : State) (key : Nat) (l : Lun) : List CapPick :=
  match l.op with
  | some o =>
    if o.cap == .none && s.opConfirmed o && o.capAllowed then
      ((s.grantOf key o).map (fun g => ({ key := key, op := o, charge := g.charge, stamp := g.stamp, parked := false } : CapPick))).toList
    else []
  | none => []

/-- The operation of a LUN that is suspended for reads, as a pass selects it (R419): it holds no grant, so it comes last of its
kind and releases nothing more. -/
def State.capParked (s : State) (key : Nat) (l : Lun) : List CapPick :=
  match l.parked with
  | some o =>
    if o.cap == .none && s.opConfirmed o && o.capAllowed then
      [{ key := key, op := o, charge := 0, stamp := 0, parked := true }]
    else []
  | none => []

/-- The candidate that a hard-cap pass takes next (R418, R419): erases before programs, the newest grant first. -/
def State.capCandidate (s : State) : Option CapPick :=
  leastBy (fun c => (if c.op.kind = .erase then 0 else 2 ^ 64) + (2 ^ 63 - c.stamp))
    (s.luns.flatMap (fun p => s.capRunning p.1 p.2 ++ s.capParked p.1 p.2))

/-- Charges of suspends ordered and not yet reported (R418). -/
def State.orderedCharge (s : State) : Nat :=
  s.luns.foldl (fun a p =>
    match p.2.op with
    | some o => if o.cap == .ordered then a + (match s.grantOf p.1 o with | some g => g.charge | none => 0) else a
    | none => a) 0

/-- A pass selects an operation that is suspended for reads: it becomes a hard-cap suspension, which waits for release
(R419). -/
def State.capTakeParked (s : State) (c : CapPick) : State :=
  let s := c.op.works.foldl (fun (s : State) id =>
    ((s.withdraw id).releaseUnused id).modWork id (fun w => { w with adm := .none })) s
  let s := s.modLun c.key (fun l => { l with parked := some { c.op with cap := .waiting } })
  match c.op.works with
  | id :: _ => s.askAdmission id 0 true
  | [] => s

/-- A suspend of the operation that runs in a LUN is ordered (R418). -/
def State.capOrder (s : State) (key : Nat) : State :=
  let first := !s.gov.passOrdered
  let s := s.modLun key (fun l => { l with op := l.op.map (fun o => { o with cap := .ordered }) })
  let s := { s with gov := { s.gov with passOrdered := true } }
  (if first then s.raise 804 else s).count 266 5 1

/-- Candidates are taken while the excess stands, at most `fuel` of them. -/
def State.capOrderN (s : State) (fuel excess : Nat) : State :=
  match fuel with
  | 0 => s
  | k + 1 =>
    if excess = 0 then s
    else
      match s.capCandidate with
      | none => s
      | some c => (if c.parked then s.capTakeParked c else s.capOrder c.key).capOrderN k (excess - c.charge)

/-- Suspends that are ordered and not yet issued are cancelled (R418). -/
def State.capCancel (s : State) : State :=
  (s.luns.map Prod.fst).foldl (fun (s : State) key =>
    match (s.lun key).op with
    | some o =>
      if o.cap == .ordered && !o.suspending then
        s.modLun key (fun l => { l with op := some { o with cap := .none } }) else s
    | none => s) s

/-- A hard-cap pass (R418). -/
def State.capPass (s : State) : State :=
  if s.bit 0x40000 31 then
    let c := s.committed
    let s := if c ≤ s.gov.budget then s.capCancel else s
    let before := (s.luns.filter (fun p => match p.2.op with | some o => o.cap == .ordered | none => false)).length
    let t := s.capOrderN 4096 (c - s.gov.budget - s.orderedCharge)
    let after := (t.luns.filter (fun p => match p.2.op with | some o => o.cap == .ordered | none => false)).length
    if after = before then { t with gov := { t.gov with passOrdered := false } } else t
  else s

/-- FALLBACK is entered with a cause, and a hard-cap pass runs (R415, R416, R418). -/
def State.fallback (s : State) (cause : Nat) : State :=
  let s := { s with gov := { s.gov with st := .fallback, cause := cause
                                        budget := min s.gov.budget (s.fld 0x4000C 23 0) } }
  ((s.raise 800).count 266 6 1).capPass

/-- The trace record of an edge or tick (R499). -/
def GovState.code (g : GovState) : Nat := match g with | .start => 0 | .feedback => 1 | .fallback => 2

/-- A PE_SAMPLE trace record. -/
def State.tracePe (s : State) : State :=
  s.traceRec 0x50 6 0x3FF false (s.gov.estimate + s.gov.sense * 2 ^ 24 + s.gov.st.code * 2 ^ 48 +
    ofBool s.gov.clamped * 2 ^ 50) none

/-- The steps that an accepted edge and an internal tick share: budget, estimate, hard-cap pass (R405, R415). -/
def State.peStep (s : State) : State :=
  let s := s.stepBudget
  let e := s.estimate
  let s := { s with gov := { s.gov with estimate := e, haveEstimate := true, model := e } }
  s.capPass.tracePe

/-- An accepted edge of `PE_SAMPLE` (R405, R409, R416). -/
def State.peEdge (s : State) (p sense : Nat) : State :=
  let g := s.gov
  let diff := if sense < g.estimate then g.estimate - sense else sense - g.estimate
  let tol := s.fld 0x40004 23 0 + g.estimate * s.fld 0x40000 7 0 / 100
  let inTol := if g.haveEstimate then decide (diff ≤ tol) else g.inTol
  let off := g.haveEstimate && decide (diff > tol)
  let clampedP := min (s.fld 0x40014 23 0) (max (s.fld 0x40010 23 0) p)
  let first := g.st == GovState.start || g.edgesInState == 0
  let frozen := if first then 1 else if sense = g.sense then g.frozen + 1 else 1
  let mismatch := if first then 0 else if off then g.mismatch + 1 else 0
  let s := { s with gov := { g with
    st := (if g.st = GovState.start then GovState.feedback else g.st)
    setpoint := p, prevSense := g.sense, sense := sense, inTol := inTol, clamped := clampedP != p
    frozen := frozen, mismatch := mismatch, edgesInState := g.edgesInState + 1, lost := false
    lastEdge := some s.now } }
  let s := if clampedP = p then s else s.raise 802
  let fn := s.fld 0x40000 23 16
  let mm := s.fld 0x40000 15 8
  let s := if s.gov.st == .feedback then
      (if fn != 0 && decide (fn ≤ frozen) then s.fallback 2
       else if mm != 0 && decide (mm ≤ mismatch) then s.fallback 3 else s) else s
  s.peStep

/-- The governor works: the host island runs outside Lull (R420). -/
def State.govOn (s : State) : Bool := s.hostOn

/-- `PE_CFG.period` in µs, within its bounds (R420). -/
def State.pePeriod (s : State) : Nat := min 100 (max 2 (s.fld 0x40000 30 24))

/-- An edge has been accepted within the last `PE_CFG.period` µs (R417). -/
def State.edgeRecent (s : State) : Bool :=
  match s.gov.lastEdge with
  | none => false
  | some t => decide (s.now - t ≤ 1000 * s.pePeriod)

/-- A write to `PE_CTRL.resume` (R417). -/
def State.peResume (s : State) (recent : Bool) : State :=
  let g := s.gov
  let clear := if g.cause = 1 then recent else if g.cause = 2 then g.sense != g.prevSense else g.inTol
  if g.st == .fallback && clear then
    { s with gov := { g with st := .feedback, cause := 0, frozen := 0, mismatch := 0, edgesInState := 0 } }.raise 801
  else s.setBit 0x40020 31 true

/-- ADMISSION_GRANT (R411, R412): the next waiting request that fits is granted. -/
def execAdmissionGrant (s : State) : Host.Outcome State Fault Refusal :=
  if s.govOn then (match s.nextGrant with | some r => .next (s.grant r) | none => .next s) else .next s

/-- ADMISSION_AGE (R413): the oldest waiting non-read has waited past the age. -/
def execAdmissionAge (s : State) : Host.Outcome State Fault Refusal :=
  if s.govOn && s.fld 0x4001C 15 0 != 0 && s.oldestNonRead.isSome then
    .next { s with gov := { s.gov with holdReads := true } }
  else .next s

/-- ADMISSION_STALL (R414): a request has waited past the stall limit. -/
def execAdmissionStall (s : State) : Host.Outcome State Fault Refusal :=
  if s.govOn && s.fld 0x4001C 31 16 != 0 && !s.gov.waiting.isEmpty && !s.gov.stallRaised then
    .next ({ s with gov := { s.gov with stallRaised := true } }.raise 803)
  else .next s

/-- PE_SAMPLE_EDGE (R405). -/
def execPeSampleEdge (budget sense : BitVec 24) (s : State) : Host.Outcome State Fault Refusal :=
  if s.govOn then .next (s.peEdge budget.toNat sense.toNat) else .next s

/-- PE_INTERNAL_TICK (R415): while strobes are lost, or none has come in START. -/
def execPeInternalTick (s : State) : Host.Outcome State Fault Refusal :=
  if s.govOn && (s.gov.lost || s.gov.st == GovState.start) then .next s.peStep else .next s

/-- STROBE_LOST (R415, R416): three periods without an accepted edge. -/
def execStrobeLost (s : State) : Host.Outcome State Fault Refusal :=
  if s.govOn && s.gov.st != GovState.start then
    let s := { s with gov := { s.gov with lost := true } }
    if s.gov.st == .feedback then .next (s.fallback 1) else .next s
  else .next s

/-- PE_RESUME (R417). -/
def execPeResume (recent : Bool) (s : State) : Host.Outcome State Fault Refusal :=
  if s.asleep then .next (s.holdRequest (.peResume recent) .access)
  else if s.serving then .next (s.peResume recent) else .next s

/-- PE_WEIGHT_WRITE (R408). -/
def execPeWeightWrite (cls : Nat) (val : Word) (s : State) : Host.Outcome State Fault Refusal :=
  if s.asleep then .next (s.holdRequest (.peWeightWrite cls val) .access)
  else if s.serving && decide (cls < 16) then .next (s.setReg (0x40080 + 4 * cls) (val &&& 0xFFFF)) else .next s

end Sys2Proof.Machine
end

