-- ==== Sys2Proof/Machine/Askor.lean ====
section
/-! DEFINITION. The Askor page code: configurations, parity-check matrix, encoder, hard and soft decoder, erased pages,
and the checker test mode (R223 to R245). Codewords are numbers: codeword bit `n` is bit `n`. -/

namespace Sys2Proof.Machine
open Sys2Proof

/-- A codeword configuration (R223): circulant size and information columns. -/
structure CodeCfg where
  z : Nat
  k : Nat
  user : Nat
  metaLen : Nat
  factor : Nat
  deriving DecidableEq, Repr

/-- The configuration of a page size and layout (R223). `factor` divides the capability (R242). -/
def codeCfg (size : Nat) (quarter : Bool) : CodeCfg :=
  if quarter then ⟨128, 257, 4096, 16, 4⟩
  else if size = 0 then ⟨128, 260, 4096, 64, 4⟩
  else if size = 1 then ⟨256, 258, 8192, 64, 2⟩
  else ⟨512, 257, 16384, 64, 1⟩

/-- Parity circulants of a level. -/
def levelRows (l : Nat) : Nat := 18 + 3 * l

/-- Information bytes of a codeword. -/
def CodeCfg.info (c : CodeCfg) : Nat := c.user + c.metaLen

/-- Codeword bytes at a level (R224). -/
def CodeCfg.bytes (c : CodeCfg) (l : Nat) : Nat := c.info + levelRows l * c.z / 8

/-- Bytes of the codewords of a page (R225). -/
def pageBytes (size : Nat) (quarter : Bool) (l : Nat) : Nat :=
  if quarter then 4 * (codeCfg size true).bytes l else (codeCfg size false).bytes l

/-- The circulant rows of an information column (R227), in the order of the procedure. -/
def colRows (c : Nat) : List Nat :=
  let a := c % 18
  let b := (a + 1 + (c / 18) % 17) % 18
  let d0 := (a + 9) % 18
  let d := if d0 = b then (a + 10) % 18 else d0
  [a, b, d, 18 + c % 21]

/-- The shift of an information entry (R227). -/
def entryShift (z r c : Nat) : Nat := ((r + 1) * (2 * c + 1) * 13 + 7 * r * r) % z

/-- The entries of circulant row `r` (R227): circulant column and shift. -/
def rowEntries (x : CodeCfg) (r : Nat) : List (Nat × Nat) :=
  ((countUp 0 x.k).filter (fun c => (colRows c).contains r)).map (fun c => (c, entryShift x.z r c)) ++
    (if r = 0 then [(x.k, 0)] else [(x.k + r - 1, 0), (x.k + r, 0)])

/-- A circulant read at a shift: bit `i` is bit `(i + s) mod z`. -/
def rotate (z v s : Nat) : Nat := (v / 2 ^ s + v * 2 ^ (z - s)) % 2 ^ z

/-- Circulant column `c` of a codeword. -/
def circulant (z w c : Nat) : Nat := (w / 2 ^ (c * z)) % 2 ^ z

/-- The xor of the entries of a row over a codeword: the row's check bits. -/
def rowCheck (z w : Nat) (es : List (Nat × Nat)) : Nat :=
  es.foldl (fun a e => a ^^^ rotate z (circulant z w e.1) e.2) 0

/-- The check sums of the information columns of row `r`. -/
def infoCheck (x : CodeCfg) (w r : Nat) : Nat :=
  rowCheck x.z w ((rowEntries x r).filter (fun e => e.1 < x.k))

/-- The parity circulants of information bits `w` (R229). -/
def parityFrom (x : CodeCfg) (w prev : Nat) (rows : List Nat) : List Nat :=
  match rows with
  | [] => []
  | r :: rs =>
    let p := infoCheck x w r ^^^ prev
    p :: parityFrom x w p rs

/-- The codeword of information bits (R229). -/
def encodeWord (x : CodeCfg) (l w : Nat) : Nat :=
  ((parityFrom x w 0 (countUp 0 (levelRows l))).zipIdx).foldl
    (fun a p => a + p.1 * 2 ^ ((x.k + p.2) * x.z)) w

/-- Set bits of a number, at most `n` of them. -/
def ones (n v : Nat) : Nat :=
  match n with
  | 0 => 0
  | k + 1 => v % 2 + ones k (v / 2)

/-- Unsatisfied checks of a codeword. -/
def syndromeWeight (x : CodeCfg) (l w : Nat) : Nat :=
  (countUp 0 (levelRows l)).foldl (fun a r => a + ones x.z (rowCheck x.z w (rowEntries x r))) 0

/-- The messages of a decode run: a posterior per bit, and the message that each check last sent each of its bits. -/
structure Messages where
  post : Array Int
  sent : Array Int

/-- Clamps to plus or minus `m`. -/
def clampTo (m v : Int) : Int := if v > m then m else if v < -m then -m else v

/-- The new message to bit `j` of a check from the messages of the other bits (R232). -/
def newMessage (qs : List Int) (j : Nat) : Int :=
  let others := (qs.zipIdx.filter (fun p => p.2 != j)).map Prod.fst
  let mag := others.foldl (fun a q => min a q.natAbs) 31
  let neg := (others.filter (fun q => q < 0)).length % 2 == 1
  let m : Int := ((mag - 1 : Nat) : Int)
  if neg then -m else m

/-- One check of a layer (R232). `bitsOf` are the codeword bits, `base` the place of the check's first message. -/
def oneCheck (m : Messages) (bitsOf : List Nat) (base : Nat) : Messages :=
  let qs := (bitsOf.zipIdx).map (fun p => clampTo 31 (m.post.getD p.1 0 - m.sent.getD (base + p.2) 0))
  (bitsOf.zip qs).zipIdx.foldl (fun (a : Messages) p =>
    let n := newMessage qs p.2
    { post := a.post.setIfInBounds p.1.1 (clampTo 127 (p.1.2 + n)), sent := a.sent.setIfInBounds (base + p.2) n }) m

/-- One layer: the checks of circulant row `r` (R232). `at0` is the place of its first message. -/
def oneLayer (x : CodeCfg) (m : Messages) (es : List (Nat × Nat)) (at0 : Nat) : Messages :=
  (countUp 0 x.z).foldl (fun m i =>
    oneCheck m (es.map (fun e => e.1 * x.z + (i + e.2) % x.z)) (at0 + i * es.length)) m

/-- One iteration: every layer in order (R232). -/
def oneIteration (x : CodeCfg) (l : Nat) (m : Messages) : Messages :=
  ((countUp 0 (levelRows l)).foldl (fun (p : Messages × Nat) r =>
    let es := rowEntries x r
    (oneLayer x p.1 es p.2, p.2 + x.z * es.length)) (m, 0)).1

/-- The hard decisions of the posteriors (R232); a posterior of 0 takes the input bit. -/
def decisions (input : Nat) (post : Array Int) : Nat :=
  post.toList.zipIdx.foldl (fun a p =>
    let b := if p.1 < 0 then 1 else if p.1 > 0 then 0 else (input / 2 ^ p.2) % 2
    a + b * 2 ^ p.2) 0

/-- Iterations until success, the limit, or four in a row without progress (R232), as the corrected codeword and the
iterations run. -/
def iterate (x : CodeCfg) (l input : Nat) (fuel : Nat) (m : Messages) (best stuck done : Nat) : Option (Nat × Nat) :=
  match fuel with
  | 0 => none
  | n + 1 =>
    let m := oneIteration x l m
    let w := decisions input m.post
    let u := syndromeWeight x l w
    if u = 0 then some (w, done + 1)
    else
      let stuck := if u < best then 0 else stuck + 1
      if stuck ≥ 4 then none else iterate x l input n m (min u best) stuck (done + 1)

/-- The messages that a run starts with. -/
def startMessages (x : CodeCfg) (l : Nat) (channel : List Int) : Messages :=
  { post := channel.toArray
    sent := (copies ((countUp 0 (levelRows l)).foldl (fun a r => a + x.z * (rowEntries x r).length) 0) (0 : Int)).toArray }

/-- What a decode run ends with. -/
inductive Decoded where
  | clean
  | hard (word bitsFixed : Nat)
  | failed
  | erased
  deriving DecidableEq, Repr

/-- Codeword bits. -/
def CodeCfg.nbits (x : CodeCfg) (l : Nat) : Nat := 8 * x.bytes l

/-- A decode run with given channel values (R232, R235, R238). -/
def runDecoder (x : CodeCfg) (l input iters : Nat) (channel : List Int) : Decoded :=
  let u := syndromeWeight x l input
  match iterate x l input iters (startMessages x l channel) u 0 0 with
  | some (w, _) => .hard w (ones (x.nbits l) (w ^^^ input))
  | none => .failed

/-- A hard decode (R231 to R233): `mag` is the channel magnitude. -/
def hardDecode (x : CodeCfg) (l input erasedZeros mag iters : Nat) : Decoded :=
  let n := x.nbits l
  if n - ones n input ≤ erasedZeros then .erased
  else if syndromeWeight x l input = 0 then .clean
  else runDecoder x l input iters ((countUp 0 n).map (fun i =>
    if (input / 2 ^ i) % 2 = 0 then (mag : Int) else -(mag : Int)))

/-- A soft decode (R238): `agree` are the agreement counts of the bits, `llr` the magnitudes by count. -/
def softDecode (x : CodeCfg) (l input iters : Nat) (agree llr : List Nat) : Decoded :=
  if syndromeWeight x l input = 0 then .hard input 0
  else runDecoder x l input iters ((agree.zipIdx).map (fun p =>
    let m : Int := (nth llr p.1 0 : Nat)
    if (input / 2 ^ p.2) % 2 = 0 then m else -m))

/-- An iteration limit as it acts (R248). -/
def iterLimit (v : Nat) : Nat := if v = 0 ∨ v > 20 then 20 else v

/-- `ASKOR_CFG.hard_iter` as it acts. -/
def State.hardIter (s : State) : Nat := iterLimit (s.fld 0x800 4 0)

/-- `ASKOR_CFG.soft_iter` as it acts. -/
def State.softIter (s : State) : Nat := iterLimit (s.fld 0x800 12 8)

/-- `ASKOR_CFG.hard_mag` as it acts. -/
def State.hardMag (s : State) : Nat := let v := s.fld 0x800 21 16; if v = 0 then 1 else min v 31

/-- `ASKOR_CFG.erased_zeros`. -/
def State.erasedZeros (s : State) : Nat := s.fld 0x800 31 24

/-- The magnitudes of assist read `a`, 1 to 4. -/
def State.llr (s : State) (a : Nat) : List Nat :=
  (countUp 0 5).map (fun j => s.fld (0x810 + 4 * (a - 1)) (5 * j + 4) (5 * j))

/-- The shift of assist read `a`, 1 to 4 (R237). -/
def State.assistShift (s : State) (a : Nat) : Int :=
  let d := signedOf 8 (if a ≤ 2 then s.fld 0x804 7 0 else s.fld 0x804 15 8)
  if a % 2 = 1 then d else -d

/-- The configuration that a hard decode run starts with now (R248). -/
def State.decodeCfg (s : State) : DecodeCfg :=
  { zeros := s.erasedZeros, mag := s.hardMag, hardIter := s.hardIter, softIter := s.softIter, llr := [] }

/-- The configuration that the soft decode run after assist read `a` starts with now (R238, R248). -/
def State.softCfg (s : State) (a : Nat) : DecodeCfg := { s.decodeCfg with llr := s.llr a }

/-- The scaled capability of a configuration at a level (R242). -/
def State.capability (s : State) (x : CodeCfg) (l : Nat) : Nat := s.fld (0x820 + 4 * l) 15 0 / x.factor

/-- The next 18 outputs of the injection generator (R243). -/
def injectValue (g : Nat) : Nat × Nat :=
  (countUp 0 18).foldl (fun p i =>
    let r := prbsStep p.2
    (p.1 + r.1 * 2 ^ i, r.2)) (0, g)

/-- Chooses `left` distinct bit positions below `n` (R243). -/
def injectBits (fuel n left g : Nat) (got : List Nat) : List Nat × Nat :=
  match fuel with
  | 0 => (got, g)
  | k + 1 =>
    if left = 0 then (got, g)
    else
      let r := injectValue g
      if r.1 < n && !got.contains r.1 then injectBits k n (left - 1) r.2 (r.1 :: got)
      else injectBits k n left r.2 got

/-- Injection is armed on channel `ch` and path `path` (R243, R244). -/
def State.injects (s : State) (ch path : Nat) : Bool :=
  s.bit 0x880 31 && s.fld 0x880 7 0 == ch && s.fld 0x880 24 24 == path && decide (0 < s.inj.left)

/-- A codeword of `n` bits passes the checker test mode on a path (R243). -/
def State.inject (s : State) (ch path n w : Nat) : Nat × State :=
  if s.injects ch path then
    let r := injectBits (2 ^ 20) n (s.fld 0x884 11 0) s.inj.gen.toNat []
    let left := s.inj.left - 1
    let s := { s with inj := { gen := BitVec.ofNat 31 r.2, left := left } }
    let s := s.addFld 0x88C 31 16 1
    (r.1.foldl (fun a b => a ^^^ 2 ^ b) w, if left = 0 then s.setBit 0x880 31 false else s)
  else (w, s)

/-- A write to `ASKOR_INJ_CTRL` (R243): its fields, armed or not. Arming loads the generator and the count of codewords; a
written 0 stops injection. -/
def State.injectionWrite (s : State) (v : Word) : State :=
  let armed := s.bit 0x880 31
  let s := s.setReg 0x880 (v &&& 0x81FF00FF)
  if !bitOf v.toNat 31 then { s with inj := { s.inj with left := if armed then 0 else s.inj.left } }
  else if armed then s
  else
    let seed := s.fld 0x888 30 0
    let n := wfld v 23 16
    { s with inj := { gen := BitVec.ofNat 31 (if seed = 0 then 0x7FFFFFFF else seed), left := if n = 0 then 1 else n } }

/-- INJECTION_ARM (R243): `ASKOR_INJ_CTRL` is written. -/
def execInjectionArm (val : Word) (s : State) : Host.Outcome State Fault Refusal :=
  if s.asleep then .next (s.holdRequest (.injectionArm val) .access)
  else if s.serving then .next (s.injectionWrite val) else .next s

/-- The codeword of information bytes at a level, as bytes, with the test mode's flips (R229, R244). -/
def State.encodeBytes (s : State) (ch : Nat) (x : CodeCfg) (l : Nat) (info : List Byte) : List Byte × State :=
  let w := encodeWord x l (leNat (firstN x.info info))
  let r := s.inject ch 1 (x.nbits l) w
  (leBytes (x.bytes l) r.1, r.2)

/-- A decode of codeword bytes at a level by the hard decoder, with the configuration of its run, after the test mode's
flips (R231, R244, R248). The corrected bits are counted against the decoder's input. -/
def State.decodeBytes (s : State) (ch : Nat) (x : CodeCfg) (l : Nat) (g : DecodeCfg) (code : List Byte) :
    (Decoded × List Byte) × State :=
  let r := s.inject ch 0 (x.nbits l) (leNat (firstN (x.bytes l) code))
  let d := hardDecode x l r.1 g.zeros g.mag g.hardIter
  let word := match d with | .hard w _ => w | _ => r.1
  ((d, leBytes (x.bytes l) word), r.2)

end Sys2Proof.Machine
end

