-- ==== Sys2Proof/Machine/Crypto.lean ====
section
/-! DEFINITION. The hash and the signature that protect a microcode image: SHA-384 (FIPS 180-4) and the verification of ECDSA
over the curve P-384 (FIPS 186-5), the published standards that R183 and R187 name. -/

namespace Sys2Proof.Machine
open Sys2Proof

/-- A continuation runs on a number once the number has been computed. -/
def strict {α : Type} (n : Nat) (k : Nat → α) : α :=
  match n with
  | 0 => k 0
  | m + 1 => k (m + 1)

/-- The big-endian number of a list of bytes. -/
def beNat (l : List Byte) : Nat := l.foldl (fun v b => strict (256 * v + b.toNat) id) 0

/-- The largest `r` below `2 ^ n` with `r ^ k ≤ v`. -/
def rootBelow (k v n r : Nat) : Nat :=
  match n with
  | 0 => r
  | m + 1 => strict (if (r + 2 ^ m) ^ k ≤ v then r + 2 ^ m else r) (rootBelow k v m)

/-- The first 64 bits of the fraction of the `k`-th root of a number below 512. -/
def rootFraction (k p : Nat) : Nat := rootBelow k (p * 2 ^ (64 * k)) 69 0 % 2 ^ 64

/-- The primes below 410: eighty of them. -/
def smallPrimes : List Nat := (countUp 2 408).filter (fun p => (countUp 2 19).all (fun d => p ≤ d || p % d != 0))

/-- The constants of the rounds: the fractions of the cube roots of the first eighty primes. -/
def shaRoundConstants : List Nat := smallPrimes.map (rootFraction 3)

/-- The initial hash value of SHA-384: the fractions of the square roots of the ninth to the sixteenth prime. -/
def shaStart : List Nat := (firstN 8 (restN 8 smallPrimes)).map (rootFraction 2)

/-- A 64-bit word rotated right. -/
def rotr64 (n x : Nat) : Nat := x / 2 ^ n ||| x * 2 ^ (64 - n) % 2 ^ 64

/-- A number cut to 64 bits. -/
def low64 (x : Nat) : Nat := x % 2 ^ 64

/-- The next word of the message schedule (FIPS 180-4), from the words 0, 1, 9 and 14 of the sixteen before it. -/
def shaNextWord (w x v y : Nat) : Nat :=
  low64 ((rotr64 19 y ^^^ rotr64 61 y ^^^ y / 2 ^ 6) + v + (rotr64 1 x ^^^ rotr64 8 x ^^^ x / 2 ^ 7) + w)

/-- The first temporary word of a round. -/
def shaTemp (e f g h k w : Nat) : Nat :=
  low64 (h + (rotr64 14 e ^^^ rotr64 18 e ^^^ rotr64 41 e) + (e &&& f ^^^ (2 ^ 64 - 1 - e) &&& g) + k + w)

/-- The new first working word of a round. -/
def shaTop (t a b c : Nat) : Nat :=
  low64 (t + (rotr64 28 a ^^^ rotr64 34 a ^^^ rotr64 39 a) + (a &&& b ^^^ a &&& c ^^^ b &&& c))

/-- The rounds of one block over the eight working words; `w0` to `w15` are the schedule words in hand. -/
def shaRounds (ks : List Nat) (a b c d e f g h w0 w1 w2 w3 w4 w5 w6 w7 w8 w9 w10 w11 w12 w13 w14 w15 : Nat) : List Nat :=
  match ks with
  | [] => [a, b, c, d, e, f, g, h]
  | k :: rest =>
    strict (shaTemp e f g h k w0) (fun t => strict (shaTop t a b c) (fun top => strict (low64 (d + t)) (fun mid =>
      strict (shaNextWord w0 w1 w9 w14) (fun x =>
        shaRounds rest top a b c mid e f g w1 w2 w3 w4 w5 w6 w7 w8 w9 w10 w11 w12 w13 w14 w15 x))))

/-- One block of 128 bytes is worked into the hash value. -/
def shaBlock (ks hash : List Nat) (block : List Byte) : List Nat :=
  match hash, (pieces 16 8 block).map beNat with
  | [a, b, c, d, e, f, g, h], [w0, w1, w2, w3, w4, w5, w6, w7, w8, w9, w10, w11, w12, w13, w14, w15] =>
    (hash.zip (shaRounds ks a b c d e f g h w0 w1 w2 w3 w4 w5 w6 w7 w8 w9 w10 w11 w12 w13 w14 w15)).map (fun p =>
      strict (low64 (p.1 + p.2)) id)
  | _, _ => hash

/-- The padding of a message of `n` bytes to whole blocks. -/
def shaPadding (n : Nat) : List Byte :=
  0x80 :: copies ((239 - n % 128) % 128) 0 ++ (leBytes 16 (8 * n)).reverse

/-- A continuation runs on a list of numbers once they have been computed. -/
def strictAll {α : Type} (l : List Nat) (k : List Nat → α) : α :=
  match l with
  | [] => k []
  | x :: r => strict x (fun y => strictAll r (fun z => k (y :: z)))

/-- The blocks of a message are worked into the hash value one after another. -/
def shaBlocks (ks : List Nat) (blocks : List (List Byte)) (hash : List Nat) : List Nat :=
  match blocks with
  | [] => hash
  | b :: rest => strictAll (shaBlock ks hash b) (shaBlocks ks rest)

/-- The length of a list, added to `n`. -/
def lengthFrom {α : Type} (l : List α) (n : Nat) : Nat :=
  match l with
  | [] => n
  | _ :: r => strict (n + 1) (lengthFrom r)

/-- The SHA-384 digest of a message. -/
def sha384 (l : List Byte) : BitVec 384 :=
  let n := lengthFrom l 0
  let h := shaBlocks shaRoundConstants (pieces (n / 128 + 2) 128 (l ++ shaPadding n)) shaStart
  BitVec.ofNat 384 ((firstN 6 h).foldl (fun v x => v * 2 ^ 64 + x) 0)

/-- The field of P-384. -/
def p384 : Nat := 2 ^ 384 - 2 ^ 128 - 2 ^ 96 + 2 ^ 32 - 1

/-- The coefficient of P-384; the other is -3. -/
def p384b : Nat := 0xb3312fa7e23ee7e4988e056be3f82d19181d9c6efe8141120314088f5013875ac656398d8a2ed19d2a85c8edd3ec2aef

/-- The order of the group of P-384. -/
def p384n : Nat := 0xffffffffffffffffffffffffffffffffffffffffffffffffc7634d81f4372ddf581a0db248b0a77aecec196accc52973

/-- A point of P-384 in Jacobian coordinates; `z` is 0 at the point at infinity. -/
structure CurvePoint where
  x : Nat
  y : Nat
  z : Nat
  deriving DecidableEq, Repr

/-- The base point of P-384. -/
def p384g : CurvePoint :=
  { x := 0xaa87ca22be8b05378eb1c71ef320ad746e1d3b628ba79b9859f741e082542a385502f25dbf55296c3a545e3872760ab7
    y := 0x3617de4a96262c6f5d9e98bf9292dc29f8f41dbd289a147ce9da3113b5f0b8c00a60b1ce1d7e819d7a431d7c90ea0e5f
    z := 1 }

/-- A product in the field. -/
def fmul (a b : Nat) : Nat := a * b % p384

/-- A difference in the field. -/
def fsub (a b : Nat) : Nat := (a + p384 - b % p384) % p384

/-- A point with its coordinates computed. -/
def strictPoint (x y z : Nat) : CurvePoint :=
  strict x (fun x => strict y (fun y => strict z (fun z => { x := x, y := y, z := z })))

/-- A point doubled. -/
def CurvePoint.double (p : CurvePoint) : CurvePoint :=
  strict (fmul p.y p.y) (fun yy => strict (fmul p.z p.z) (fun zz => strict (4 * fmul p.x yy) (fun s =>
    strict (fmul (3 * fsub p.x zz) (p.x + zz)) (fun m => strict (fsub (fmul m m) (2 * s)) (fun x =>
      strictPoint x (fsub (fmul m (fsub s x)) (8 * fmul yy yy)) (fmul (2 * p.y) p.z))))))

/-- The sum of two points. -/
def CurvePoint.add (p q : CurvePoint) : CurvePoint :=
  if p.z = 0 then q
  else if q.z = 0 then p
  else
    strict (fmul p.z p.z) (fun zp => strict (fmul q.z q.z) (fun zq =>
      strict (fmul p.x zq) (fun u => strict (fmul p.y (fmul zq q.z)) (fun s =>
        strict (fsub (fmul q.x zp) u) (fun h => strict (fsub (fmul q.y (fmul zp p.z)) s) (fun r =>
          if h = 0 then (if r = 0 then p.double else { x := 1, y := 1, z := 0 })
          else
            strict (fmul h h) (fun hh => strict (fmul h hh) (fun hhh => strict (fmul u hh) (fun v =>
              strict (fsub (fsub (fmul r r) hhh) (2 * v)) (fun x =>
                strictPoint x (fsub (fmul r (fsub v x)) (fmul s hhh)) (fmul h (fmul p.z q.z))))))))))))

/-- `a` times one point and `b` times another, added: bits `n - 1` to 0 of the factors are still to come. -/
def mulAdd (a b : Nat) (p q both : CurvePoint) (n : Nat) (acc : CurvePoint) : CurvePoint :=
  match n with
  | 0 => acc
  | k + 1 =>
    let d := acc.double
    mulAdd a b p q both k
      (match a.testBit k, b.testBit k with
       | true, true => d.add both
       | true, false => d.add p
       | false, true => d.add q
       | false, false => d)

/-- `a` to the power `e` modulo `m`: bits `n - 1` to 0 of the exponent are still to come. -/
def powMod (a e m n acc : Nat) : Nat :=
  match n with
  | 0 => acc
  | k + 1 =>
    strict (acc * acc % m) (fun sq => strict (if e.testBit k then sq * a % m else sq) (powMod a e m k))

/-- A pair of field elements is a point of the curve (R187). -/
def onCurve (x y : Nat) : Bool :=
  decide (x < p384) && decide (y < p384) &&
    fmul y y == (fmul (fmul x x) x + (p384 - 3) * x + p384b) % p384

/-- A signature `r`, `s` of a digest verifies under the public key `x`, `y` (FIPS 186-5): the key is a point of the curve, `r`
and `s` lie in [1, n - 1], and the signature verifies (R183, R187). -/
def ecdsaVerifies (e x y r s : Nat) : Bool :=
  onCurve x y && decide (1 ≤ r) && decide (r < p384n) && decide (1 ≤ s) && decide (s < p384n) &&
    strict (powMod s (p384n - 2) p384n 384 1) (fun w =>
      let q : CurvePoint := { x := x, y := y, z := 1 }
      let v := mulAdd (e * w % p384n) (r * w % p384n) p384g q (p384g.add q) 384 { x := 1, y := 1, z := 0 }
      v.z != 0 && strict (powMod v.z (p384 - 2) p384 384 1) (fun i => fmul v.x (fmul i i) % p384n == r))

/-- A signature of 96 bytes of a digest verifies under a public key of 96 bytes (R182, R183). -/
def ecdsaOk (digest : BitVec 384) (key sig : List Byte) : Bool :=
  ecdsaVerifies digest.toNat (beNat (firstN 48 key)) (beNat (restN 48 key)) (beNat (firstN 48 sig)) (beNat (restN 48 sig))

end Sys2Proof.Machine
end

