-- ==== Sys2Proof/Machine/Microword.lean ====
section
/-! DEFINITION. The microwords of a channel's sequencer: their fields, their legality, and the run of a routine (R165 to
R181). -/

namespace Sys2Proof.Machine
open Sys2Proof

/-- A field of a microword (R165). -/
def mwf (w : BitVec 160) (hi lo : Nat) : Nat := bits w.toNat hi lo

/-- A microword has a reserved bit set or an illegal code (R165, R167, R179, check 8 of R187). -/
def mwBad (w : BitVec 160) : Bool :=
  mwf w 159 146 != 0 || mwf w 26 25 == 3 || mwf w 28 27 == 3 || mwf w 30 29 == 3 || decide (5 ≤ mwf w 35 33) ||
    decide (9 ≤ mwf w 39 36) ||
    (mwf w 39 36 == 3 && (mwf w 51 48 == 12 || mwf w 51 48 == 13 || mwf w 51 48 == 15)) ||
    decide (20 ≤ mwf w 15 11) || mwf w 83 81 == 7 || mwf w 86 84 == 7 ||
    ((mwf w 83 81 == 5 || mwf w 86 84 == 5) && decide (6 ≤ mwf w 89 87)) ||
    decide (6 ≤ mwf w 105 103) || decide (5 ≤ mwf w 145 143) ||
    (mwf w 65 64 == 1 && mwf w 83 81 != 0) || (mwf w 65 64 == 2 && mwf w 86 84 != 0)

/-- What a job gives the sequencer: the image, argument words, transfer length in 8-byte units, row bytes and
target of its address (entries 0 and 1 run for no target), the conditions of the moment, the targets whose `RB_N` is high, channel clocks in a µs, and whether a
frame takes what it captures, and the words that the ingress FIFO held before. `requests` are the conditions 10 to 13, `abortable` says that an ABORT stops it at a safe
point. -/
structure SeqJob where
  image : Image
  args : List Word
  units : Nat
  rows : List Byte
  target : Option Nat
  lunByte : Byte
  requests : List Bool
  abortable : Bool
  quarterPause : Bool
  toggle : Bool
  gale : Bool
  high : List Nat
  confirms : Bool
  usClocks : Nat
  entry : Nat
  framed : Bool
  inWords : Nat
  deriving DecidableEq, Repr

/-- How a routine stands. -/
inductive SeqEnd where
  | running
  | ended
  | paused
  | illegal
  | stalled
  | abandoned
  deriving DecidableEq, Repr

/-- A routine in progress: its channel with its sequencer and FIFOs, the number of the free values used, and what its messages
have said. -/
structure Seq where
  chan : Chan
  fresh : Nat
  result : Option Word
  messages : List (Nat × Word)
  fin : SeqEnd
  deriving DecidableEq, Repr

/-- The sequencer changes. -/
def Seq.mod (q : Seq) (f : Bus → Bus) : Seq := { q with chan := { q.chan with bus := f q.chan.bus } }

/-- The routine stands in its microword at a phase. -/
def Seq.stall (q : Seq) (phase left : Nat) : Seq :=
  { q.mod (fun b => { b with phase := phase, left := left }) with fin := .stalled }

/-- A byte that the spec leaves open. -/
def Seq.free (q : Seq) : Byte × Seq := (Config.freeByte q.fresh, { q with fresh := q.fresh + 1 })

/-- The FIFO words that packets pushed from the bus fill: closed ones, and an open one (R211). -/
def ingressWords (closed : List (List Byte)) (captured : List Byte) : List FifoWord :=
  closed.flatMap fifoWords ++ (fifoWords captured).map (fun x => { x with last := false })

/-- The ingress FIFO has no room for a bus word: it holds 32 words of 64 bytes that no frame takes, and a packet begins a word
of its own (R210 to R212). -/
def SeqJob.ingressFull (j : SeqJob) (q : Seq) : Bool :=
  let b := q.chan.bus
  !j.framed && decide (32 < j.inWords + b.closed.foldl (fun a l => a + divUp l.length 64) 0 + divUp (b.captured.length + 8) 64)

/-- The branch conditions (R167), before the inversion. -/
def SeqJob.cond (j : SeqJob) (q : Seq) (w : BitVec 160) : Bool :=
  let b := q.chan.bus
  match mwf w 15 11 with
  | 0 => true
  | 1 => b.a == 0
  | 2 => b.b == b.a
  | 3 => b.t0 == 0
  | 4 => b.t1 == 0
  | 5 => (b.pins.ce <|> j.target).any j.high.contains
  | 6 => b.status &&& mwf w 113 106 == mwf w 121 114
  | 7 => bitOf b.status 6
  | 8 => bitOf b.status 0
  | 9 => j.quarterPause
  | 10 => nth b.sampled 0 false
  | 11 => nth b.sampled 1 false
  | 12 => nth b.sampled 2 false
  | 13 => nth b.sampled 3 false
  | 14 => j.rows.length == 4
  | 15 => j.toggle
  | 16 => j.gale
  | 17 => false
  | 18 => b.egress.isEmpty
  | 19 => j.ingressFull q
  | _ => false

/-- The condition of a microword, after the inversion. -/
def SeqJob.holds (j : SeqJob) (q : Seq) (w : BitVec 160) : Bool := j.cond q w != bitOf (mwf w 16 16) 0

/-- A counter operation (R167). -/
def SeqJob.counter (j : SeqJob) (op v : Nat) (w : BitVec 160) : Nat :=
  match op with
  | 1 => mwf w 102 87
  | 2 => j.units % 2 ^ 16
  | 3 => v - 1
  | 4 => (v + 1) % 2 ^ 16
  | 5 =>
    let h := mwf w 89 87
    wfld (nth j.args (h / 2) 0) (16 * (h % 2) + 15) (16 * (h % 2))
  | 6 => 2 + j.rows.length
  | _ => v

/-- A level field of a microword (R165): hold, low, high. -/
def levelOp (op : Nat) (v : Bool) : Bool := if op = 1 then false else if op = 2 then true else v

/-- The address byte of a microword (R165, R168). What the job of a routine does not have is free. -/
def SeqJob.addrByte (j : SeqJob) (b : Bus) (sel : Nat) : Option Byte :=
  let seq := leBytes 2 b.column ++ j.rows
  if sel ≤ 1 then seq[sel]?
  else if sel ≤ 5 then j.rows[sel - 2]?
  else if sel = 11 then some j.lunByte
  else if sel = 14 then seq[b.b]?
  else none

/-- The byte that a microword drives on `DQ` (R165): none where the bus is undriven. -/
def SeqJob.drive (j : SeqJob) (q : Seq) (w : BitVec 160) : Option Byte × Seq :=
  let b := q.chan.bus
  let open0 := fun (v : Option Byte) => match v with
    | some x => (some x, q)
    | none => (some q.free.1, q.free.2)
  match mwf w 39 36 with
  | 0 => (b.pins.dq, q)
  | 2 => (some (BitVec.ofNat 8 (mwf w 47 40)), q)
  | 3 => open0 (j.addrByte b (mwf w 51 48))
  | 4 => (b.egress.head?, q)
  | 7 => open0 none
  | _ => (none, q)

/-- The job's column after a microword's column operation (R165). A routine has no column of its own, no codeword and no
resume column: those operations load a free value. -/
def Seq.column (q : Seq) (w : BitVec 160) : Seq :=
  match mwf w 145 143 with
  | 0 => q
  | 4 => q.mod (fun b => { b with column := mwf w 102 87 })
  | _ => { q.mod (fun b => { b with column := (Config.freeWord q.fresh).toNat % 2 ^ 16 }) with fresh := q.fresh + 1 }

/-- The pins at the first clock of a microword; a command, an address byte or a byte of data is latched where `WE_N` rises
(R163, R165). -/
def SeqJob.pins (j : SeqJob) (q : Seq) (w : BitVec 160) : Seq :=
  let d := j.drive q w
  let old := d.2.chan.bus.pins
  let p : Pins :=
    { ce := match mwf w 21 20 with | 1 => j.target | 2 => none | 3 => some (mwf w 24 22) | _ => old.ce
      cle := levelOp (mwf w 26 25) old.cle, ale := levelOp (mwf w 28 27) old.ale, weN := levelOp (mwf w 30 29) old.weN
      re := match mwf w 32 31 with | 1 => .idle | 2 => .toggle | 3 => .readCycle | _ => old.re
      dqs := match mwf w 35 33 with
        | 1 => .undriven | 2 => .preamble | 3 => .toggle | 4 => .postamble | _ => old.dqs
      dq := d.1 }
  let v := d.1.getD 0
  let latched := if old.weN || !p.weN || d.1.isNone then []
    else if p.cle then [BusCycle.command v] else if p.ale then [.address v] else [.dataIn [v]]
  d.2.mod (fun b => { b with pins := p, cycles := b.cycles ++ latched })

/-- The die gives `n` bytes; those that the command does not bring are free. -/
def Seq.take (q : Seq) (n : Nat) : List Byte × Seq :=
  let l := firstN n q.chan.bus.input
  let more := (countUp q.fresh (n - l.length)).map Config.freeByte
  (l ++ more, { q.mod (fun b => { b with input := restN n b.input }) with fresh := q.fresh + (n - l.length) })

/-- Captured bytes join the word being built; each whole bus word enters the ingress FIFO (R211, R212). -/
def Seq.capture (q : Seq) (l : List Byte) : Seq :=
  q.mod (fun b =>
    let w := b.word ++ l
    let n := w.length / 8 * 8
    { b with captured := b.captured ++ firstN n w, word := restN n w, cycles := b.cycles ++ [.dataOut l] })

/-- The open ingress packet is closed: the word being built is its last (R212). -/
def Bus.closePacket (b : Bus) : Bus :=
  if b.captured.isEmpty && b.word.isEmpty then b
  else { b with closed := b.closed ++ [b.captured ++ b.word], captured := [], word := [] }

/-- The timers count down over channel clocks (R169). -/
def Seq.tick (q : Seq) (n : Nat) : Seq := q.mod (fun b => { b with t0 := b.t0 - n, t1 := b.t1 - n, ran := b.ran + n })

/-- A routine goes on at time `now` with what the die gives it: its timers have counted on while it stood (R169). -/
def Bus.resumed (b : Bus) (now usClocks : Nat) (input : List Byte) : Bus :=
  let k := (now - b.since) * usClocks / 1000 - b.ran
  { b with t0 := b.t0 - k, t1 := b.t1 - k, ran := b.ran + k, input := b.input ++ input }

/-- The clocks of a microword, with the FIFO operation of each; a push to a full FIFO or a pop from an empty one stalls it in
its clock (R166, R170, R212, R213). -/
def SeqJob.clocks (j : SeqJob) (w : BitVec 160) (n : Nat) (q : Seq) : Seq :=
  match n with
  | 0 => q
  | k + 1 =>
    let dq := mwf w 39 36
    let b := q.chan.bus
    match mwf w 105 103 with
    | 1 =>
      if b.egress.isEmpty then q.stall 1 (k + 1)
      else
        let out := firstN 8 b.egress
        j.clocks w k ((q.mod (fun b => { b with
          egress := restN 8 b.egress, cycles := if dq = 4 then b.cycles ++ [.dataIn out] else b.cycles })).tick 1)
    | 2 =>
      if dq != 5 then j.clocks w k (q.tick 1)
      else if j.ingressFull q then q.stall 1 (k + 1)
      else
        let r := q.take 8
        j.clocks w k ((r.2.capture r.1).tick 1)
    | _ => q.tick (k + 1)

/-- The FIFO operations that act once, and the status register, at the first clock of a microword (R165, R212, R213). -/
def Seq.once (q : Seq) (w : BitVec 160) : Seq :=
  let dq := mwf w 39 36
  let q := match dq with
    | 6 =>
      let r := q.take 1
      let v := r.1.headD 0
      r.2.mod (fun b => { b with status := v.toNat, cycles := b.cycles ++ [.status v] })
    | 8 => q.mod (fun b => { b with status := mwf w 47 40 })
    | _ => q
  match mwf w 105 103 with
  | 3 => if dq != 5 then q else (q.take 1).2.capture (q.take 1).1
  | 4 => q.mod Bus.closePacket
  | 5 => q.mod (fun b => { b with egress := [] })
  | _ => q

/-- A microword's one push finds no room: it stalls in its first clock (R170). -/
def SeqJob.noRoom (j : SeqJob) (q : Seq) (w : BitVec 160) : Bool :=
  let b := q.chan.bus
  j.ingressFull q &&
    ((mwf w 105 103 == 3 && mwf w 39 36 == 5 && b.word.length == 7) || (mwf w 105 103 == 4 && !b.word.isEmpty))

/-- The channel clocks of a microword (R165, R166). One that waits lasts at least one clock. -/
def Bus.length (b : Bus) (w : BitVec 160) : Nat :=
  match mwf w 65 64 with
  | 0 => mwf w 63 52 + 1
  | 1 => max 1 b.a
  | 2 => max 1 b.b
  | _ => 1

/-- The bytes that a clock of a microword takes from the die: a status byte, or what it pushes (R165, R166). -/
def clockTakes (w : BitVec 160) : Nat :=
  let dq := mwf w 39 36
  if dq = 6 then 1
  else if dq != 5 then 0
  else if mwf w 105 103 = 2 then 8 else if mwf w 105 103 = 3 then 1 else 0

/-- A further clock of a microword that waits: its DQ and FIFO actions hold (R166). -/
def SeqJob.waitClock (j : SeqJob) (q : Seq) (w : BitVec 160) : Seq :=
  (if mwf w 105 103 = 2 then j.clocks w 1 q else (q.once w).tick 1)

/-- A microword waits for its condition over clocks for which the die has given bytes, at most `fuel` of them (R166). -/
def SeqJob.waitOn (j : SeqJob) (w : BitVec 160) (fuel : Nat) (q : Seq) : Seq :=
  match fuel with
  | 0 => q
  | k + 1 =>
    let n := clockTakes w
    if j.holds q w || n = 0 || decide (q.chan.bus.input.length < n) || (mwf w 39 36 != 6 && j.ingressFull q) then q
    else j.waitOn w k (j.waitClock q w)

/-- A microword that waits for its condition (R166, R171): a wait for a timer passes the timer's clocks. -/
def SeqJob.wait (j : SeqJob) (q : Seq) (w : BitVec 160) : Seq :=
  if mwf w 65 64 != 3 then q
  else
    let c := mwf w 15 11
    let q := if bitOf (mwf w 16 16) 0 then q
             else if c = 3 then q.tick q.chan.bus.t0 else if c = 4 then q.tick q.chan.bus.t1 else q
    let q := j.waitOn w (q.chan.bus.input.length + 1) q
    if j.holds q w then q
    else (q.stall 2 0).mod (fun b => { b with readyWait := c == 3 || c == 4 || c == 5 || c == 7 })

/-- Counters and timers at the last clock of a microword (R166, R167, R169). -/
def SeqJob.lastClock (j : SeqJob) (q : Seq) (w : BitVec 160) : Seq :=
  q.mod (fun b =>
    let a := if mwf w 65 64 = 1 then 0 else j.counter (mwf w 83 81) b.a w
    let c := if mwf w 65 64 = 2 then 0 else j.counter (mwf w 86 84) b.b w
    let tv := mwf w 80 69 * if bitOf (mwf w 68 68) 0 then j.usClocks else 1
    let load := mwf w 67 67 = 1
    { b with
      a := a, b := c, t0 := if load ∧ mwf w 66 66 = 0 then tv else b.t0
      t1 := if load ∧ mwf w 66 66 = 1 then tv else b.t1 })

/-- The message that a microword emits at its last clock (R172, R173). A message to a full FIFO stalls it (R170). -/
def SeqJob.message (j : SeqJob) (q : Seq) (w : BitVec 160) : Seq :=
  let op := mwf w 124 122
  let b := q.chan.bus
  let low := match mwf w 126 125 with | 1 => b.a | 2 => b.b | 3 => b.status | _ => 0
  let word : Word := BitVec.ofNat 32 (mwf w 142 127 * 2 ^ 16 + low % 2 ^ 16)
  if op = 0 then q
  else if (op = 1 ∨ op = 2) ∧ q.chan.msgFull then q.stall 4 0
  else
    let q := { q with messages := q.messages ++ [(op, word)] }
    match op with
    | 1 | 2 => { q with chan := q.chan.pushMsg (BitVec.ofNat 6 j.entry) word (op == 2) }
    | 3 => q.mod (fun b => { b with confirmed := true })
    | 4 => { q with result := some word }
    | 5 => q.mod (fun b => { b with failed := some b.status })
    | 6 => q.mod (fun b => { b with paused := true })
    | _ => q.mod (fun b => { b with suspended := true })

/-- A safe point: the requests are sampled, and a reset or an ABORT that waits abandons the routine (R175). A confirm has
ended an ABORT that waited on it (R65). -/
def SeqJob.safePoint (j : SeqJob) (q : Seq) : Seq :=
  let asked := nth j.requests 0 false && !q.chan.bus.confirmed
  let q := q.mod (fun b => { b with sampled := asked :: restN 1 j.requests })
  if nth j.requests 1 false || (asked && j.abortable) then
    { q with fin := .abandoned }
  else q

/-- The end of a microword: the branch (R167), and the safe point (R175). -/
def SeqJob.branch (j : SeqJob) (q : Seq) (w : BitVec 160) : Seq :=
  let b := q.chan.bus
  let go := fun (pc : Nat) (stack : List Nat) (fin : SeqEnd) =>
    let q := { q.mod (fun b => { b with pc := pc, stack := stack, phase := 0, left := 0, readyWait := false }) with fin := fin }
    if fin != .running || mwf w 17 17 = 1 then j.safePoint q else q
  if !j.holds q w then go (b.pc + 1) b.stack .running
  else
    match mwf w 19 18 with
    | 0 => go (mwf w 10 0) b.stack .running
    | 1 => if b.stack.length = 4 then { q with fin := .illegal } else go (mwf w 10 0) ((b.pc + 1) :: b.stack) .running
    | 2 =>
      match b.stack with
      | [] => { q with fin := .illegal }
      | r :: rest => go r rest .running
    | _ => go b.pc b.stack (if b.paused then .paused else .ended)

/-- The next part of a microword runs where the parts before it have. -/
def Seq.andThen (q : Seq) (f : Seq → Seq) : Seq := if q.fin = .running then f q else q

/-- The message of a microword is illegal in its job (R173, R178). -/
def SeqJob.badMessage (j : SeqJob) (b : Bus) (op : Nat) : Bool :=
  match op with
  | 3 => b.confirmed || !j.confirms
  | 4 | 6 => decide (j.entry < 32)
  | _ => false

/-- A microword is illegal by what it holds and by the job that it runs in (R179). -/
def SeqJob.bad (j : SeqJob) (b : Bus) (w : BitVec 160) : Bool :=
  decide (j.image.count ≤ b.pc) || mwBad w ||
    (mwf w 39 36 == 3 && mwf w 51 48 == 14 && decide (2 + j.rows.length ≤ b.b)) ||
    (mwf w 21 20 == 1 && j.target.isNone) || j.badMessage b (mwf w 124 122)

/-- A microword from the phase in which it stands to its end (R165 to R170): pins, column and FIFOs over its clocks, then the
wait, the counters, timers and the message of its last clock, then the branch. -/
def SeqJob.microword (j : SeqJob) (q : Seq) : Seq :=
  let b := q.chan.bus
  let w := SMap.getD j.image.words b.pc 0
  if j.bad b w then { q with fin := .illegal }
  else
    let p := b.phase
    let u := if p = 0 then (j.pins q w).column w else q
    let u := if p = 0 ∨ p = 5 then (if j.noRoom u w then u.stall 5 0 else u.once w) else u
    let u := u.andThen (fun q =>
      if p = 0 ∨ p = 5 then j.clocks w (b.length w) q else if p = 1 then j.clocks w b.left q else q)
    let u := u.andThen (fun q => if p = 4 then q else j.wait q w)
    let u := u.andThen (fun q => if p = 4 then q else j.lastClock q w)
    let u := u.andThen (fun q => j.message q w)
    let u := u.andThen (fun q => j.branch q w)
    if u.fin = .illegal then { q with fin := .illegal } else u

/-- A routine runs, at most `fuel` microwords of it; one that does not end in them goes on with the next job (R159). -/
def SeqJob.run (j : SeqJob) (fuel : Nat) (q : Seq) : Seq :=
  match fuel with
  | 0 => { q with fin := .stalled }
  | k + 1 =>
    let q := j.microword q
    if q.fin = .running then j.run k q else q

/-- A byte of the CRC-16 of a parameter page: polynomial 0x8005, the highest bit first (ONFI 5.1, named by R105). -/
def crcByte (crc b : Nat) : Nat :=
  (countUp 0 8).foldl (fun c i =>
    let t := bitOf c 15 != bitOf b (7 - i)
    (2 * c % 2 ^ 16) ^^^ (if t then 0x8005 else 0)) crc

/-- The CRC of bytes, from 0x4F4E. -/
def pageCrc (l : List Byte) : Nat := l.foldl (fun c b => crcByte c b.toNat) 0x4F4E

/-- The CRC of a copy of parameter data matches (R105). -/
def crcMatches (extended : Bool) (l : List Byte) : Bool :=
  if extended then leNat (firstN 2 l) == pageCrc (restN 2 l) else leNat (restN 254 l) == pageCrc (firstN 254 l)

end Sys2Proof.Machine
end

