-- ==== Sys2Proof/Machine/PageCode.lean ====
section
/-! DEFINITION. Pages in frames: randomiser, codewords at their columns, encoding and decoding of a frame, correction
statistics (R125, R219 to R222, R225, R229, R230, R235, R241). -/

namespace Sys2Proof.Machine
open Sys2Proof

/-- `RAND_SEED`. -/
def State.randBase (s : State) : Nat := s.fld 0x240 30 0

/-- Bytes at a page column xored with the randomiser stream of an address (R221). -/
def State.randomise (s : State) (a : Addr) (col : Nat) (l : List Byte) : List Byte :=
  xorBytes l (prbsStream (pageSeed s.randBase a) col l.length)

/-- The first columns of the codewords of a page (R225). -/
def codeBases (size : Nat) (quarter : Bool) (level : Nat) : List Nat :=
  if quarter then (countUp 0 4).map (fun q => q * (codeCfg size true).bytes level) else [0]

/-- The information bytes of the codewords of a page, from its payload: user data then metadata (R225, R253). -/
def infoPieces (size : Nat) (quarter : Bool) (payload : List Byte) : List (List Byte) :=
  if quarter then
    (countUp 0 4).map (fun q => firstN 4096 (restN (4096 * q) payload) ++ firstN 16 (restN (16384 + 16 * q) payload))
  else [firstN (codeCfg size false).info payload]

/-- The payload of a page from the information bytes of its codewords (R253). -/
def joinPayload (size : Nat) (quarter : Bool) (infos : List (List Byte)) : List Byte :=
  let u := (codeCfg size quarter).user
  infos.flatMap (fun l => firstN u l) ++ infos.flatMap (fun l => restN u l)

/-- The codewords of a payload at an address and level: the columns and the bytes (R229). -/
def State.codePage (s : State) (a : Addr) (size : Nat) (quarter : Bool) (level : Nat) (payload : List Byte) :
    List (Nat × List Byte) × State :=
  let x := codeCfg size quarter
  ((codeBases size quarter level).zip (infoPieces size quarter payload)).foldl
    (fun (p : List (Nat × List Byte) × State) e =>
      let r := p.2.encodeBytes (aCh a) x level (p.2.randomise a e.1 e.2)
      (p.1 ++ [(e.1, r.1)], r.2)) ([], s)

/-- Codewords are written into a frame at their columns. -/
def State.putCodes (s : State) (f : Nat) (codes : List (Nat × List Byte)) (poison : Bool) : State :=
  codes.foldl (fun (s : State) c => s.frameWrite f c.1 c.2 poison) s

/-- The payload that lies in a frame in clear, at the columns of a layout, and whether it is poisoned (R230). -/
def State.clearPayload (s : State) (f size : Nat) (quarter : Bool) (level : Nat) : (List Byte × Bool) × State :=
  let x := codeCfg size quarter
  let r := (codeBases size quarter level).foldl (fun (p : (List (List Byte) × Bool) × State) b =>
    let r := p.2.frameRead f b x.info
    ((p.1.1 ++ [r.1.1], p.1.2 || r.1.2), r.2)) (([], false), s)
  ((joinPayload size quarter r.1.1, r.1.2), r.2)

/-- A payload is written in clear into a frame at the columns of a layout. -/
def State.putPayload (s : State) (f size : Nat) (quarter : Bool) (level : Nat) (payload : List Byte) (poison : Bool) :
    State :=
  ((codeBases size quarter level).zip (infoPieces size quarter payload)).foldl (fun (s : State) e =>
    s.frameWrite f e.1 e.2 poison) s

/-- What the frame's codewords are (R230). -/
def State.setCode (s : State) (f : Nat) (a : Addr) (size : Nat) (quarter : Bool) (level : Nat) : State :=
  s.modFrame f (fun x => { x with
    level := level, pageSize := size, quarterLayout := quarter, rawLen := none, seedAddr := a, staged := true })

/-- The clear payload of a frame is randomised and encoded in place (R229). Answers whether it is poisoned. -/
def State.encodeFrame (s : State) (f : Nat) (a : Addr) (size : Nat) (quarter : Bool) (level : Nat) : Bool × State :=
  let r := s.clearPayload f size quarter level
  let c := r.2.codePage a size quarter level r.1.1
  (r.1.2, (c.2.putCodes f c.1 r.1.2).setCode f a size quarter level)

/-- The payload of a program's frame, derandomised under its seed (R255). -/
def State.stagedPayload (s : State) (f : Nat) : (List Byte × Bool) × State :=
  let x := s.frame f
  let c := codeCfg x.pageSize x.quarterLayout
  let r := (codeBases x.pageSize x.quarterLayout x.level).foldl (fun (p : (List (List Byte) × Bool) × State) b =>
    let y := p.2.frameRead f b c.info
    ((p.1.1 ++ [p.2.randomise x.seedAddr b y.1.1], p.1.2 || y.1.2), y.2)) (([], false), s)
  ((joinPayload x.pageSize x.quarterLayout r.1.1, r.1.2), r.2)

/-- A frame that holds codewords is put back in clear: the sum of an accumulator whose close was given up (R118). -/
def State.clearFrame (s : State) (f : Nat) : State :=
  let x := s.frame f
  if !x.staged then s
  else
    let r := s.stagedPayload f
    (r.2.putPayload f x.pageSize x.quarterLayout x.level r.1.1 r.1.2).modFrame f (fun y => { y with staged := false })

/-- The bin of a successful hard decode (R242): free where the scaled capability is 0. -/
def State.histBin (s : State) (x : CodeCfg) (level c : Nat) : Nat :=
  let p := s.capability x level
  if p = 0 then Config.zeroBin c else min 7 (8 * c / p)

/-- A hard decode's outcome is counted (R241): `step` is the attempt. -/
def State.countHard (s : State) (ch step : Nat) (x : CodeCfg) (level : Nat) (d : Decoded) : State :=
  match d with
  | .clean =>
    let s := (s.count ch 0 1).count ch (8 + s.histBin x level 0) 1
    if step = 0 then s else s.count ch 2 1
  | .hard _ n => ((s.count ch (if step = 0 then 1 else 2) 1).count ch 7 n).count ch (8 + s.histBin x level n) 1
  | .erased => s.count ch 5 1
  | .failed => s

/-- A DECODE trace record (R499). Results: 0 clean, 1 hard, 2 soft, 3 failed, 4 erased. -/
def State.traceDecode (s : State) (ch tag attempt assists result : Nat) (quarter : Option Nat) (fixed : Nat) : State :=
  s.traceRec 0x21 2 ch true (tag + attempt % 16 * 2 ^ 14 + assists % 8 * 2 ^ 18 + result * 2 ^ 21 +
    ofBool quarter.isSome * 2 ^ 24 + quarter.getD 0 * 2 ^ 25 + min fixed 0xFFFF * 2 ^ 32) none

/-- The trace result of a hard decode. -/
def Decoded.code (d : Decoded) : Nat :=
  match d with
  | .clean => 0 | .hard _ _ => 1 | .failed => 3 | .erased => 4

/-- Corrected bits of a hard decode. -/
def Decoded.fixed (d : Decoded) : Nat := match d with | .hard _ n => n | _ => 0

/-- The decode was a success. -/
def Decoded.good (d : Decoded) : Bool := match d with | .clean | .hard _ _ => true | _ => false

/-- Decodes the codeword of a frame at a column with the configuration of its run (R231, R240, R248): the outcome, the
information bytes derandomised under an address, and whether the codeword is poisoned (it is then not decoded). -/
def State.decodeAt (s : State) (ch f base : Nat) (x : CodeCfg) (level : Nat) (g : DecodeCfg) (a : Addr) :
    (Decoded × List Byte × Bool) × State :=
  let r := s.frameRead f base (x.bytes level)
  if r.1.2 then ((.failed, r.2.randomise a base (firstN x.info r.1.1), true), r.2)
  else
    let d := r.2.decodeBytes ch x level g r.1.1
    ((d.1.1, d.2.randomise a base (firstN x.info d.1.2), false), d.2)

/-- Decodes every codeword of a frame that holds a program, under the frame's own address, level and layout. Answers the
information bytes by codeword, none where a codeword fails or is poisoned; each decode is counted, and a poisoned codeword
is not decoded (R99, R240, R241). -/
def State.decodeFrame (s : State) (f tag : Nat) : Option (List (List Byte)) × State :=
  let x := s.frame f
  let c := codeCfg x.pageSize x.quarterLayout
  let ch := f / 64
  let r := (codeBases x.pageSize x.quarterLayout x.level).zipIdx.foldl
    (fun (p : (List (List Byte) × Bool) × State) b =>
      let d := p.2.decodeAt ch f b.1 c x.level s.decodeCfg x.seedAddr
      if d.1.2.2 then ((p.1.1, false), d.2)
      else
        let s := d.2.countHard ch 0 c x.level d.1.1
        let s := s.traceDecode ch tag 0 0 d.1.1.code (if x.quarterLayout then some b.2 else none) d.1.1.fixed
        let s := if d.1.1 == .failed then s.count ch 4 1 else s
        ((p.1.1 ++ [d.1.2.1], p.1.2 && d.1.1.good), s)) (([], true), s)
  (if r.1.2 then some r.1.1 else none, r.2)

/-- The codewords that a payload has at an address, without the test mode (R99). -/
def State.plainCodes (s : State) (a : Addr) (size : Nat) (quarter : Bool) (level : Nat) (payload : List Byte) :
    List (Nat × List Byte) :=
  let x := codeCfg size quarter
  ((codeBases size quarter level).zip (infoPieces size quarter payload)).map (fun e =>
    (e.1, leBytes (x.bytes level) (encodeWord x level (leNat (s.randomise a e.1 e.2)))))

/-- The new codewords of a REPROGRAM_HELD, formed from the information that the decode of its frame `f` gave (R99). -/
def State.newCodes (s : State) (f : Nat) (infos : List (List Byte)) (a : Addr) (size : Nat) (quarter : Bool)
    (level : Nat) : List (Nat × List Byte) :=
  let x := s.frame f
  match x.rawLen with
  | some n => [(0, (s.frameRead f 0 n).1.1)]
  | none => s.plainCodes a size quarter level (joinPayload x.pageSize x.quarterLayout infos)

/-- The frame of a failed REPROGRAM_HELD is rewritten with the new codeword (R100). -/
def State.rewriteFrame (s : State) (f : Nat) (infos : List (List Byte)) (a : Addr) (size : Nat) (quarter : Bool)
    (level : Nat) : State :=
  match (s.frame f).rawLen with
  | some _ => s.modFrame f (fun x => { x with seedAddr := a })
  | none =>
    let c := s.newCodes f infos a size quarter level
    (s.putCodes f c false).setCode f a size quarter level

/-- The bytes of a page from column `col` on that its data, `len` bytes long, leaves to be filled, `n` of them: 0xFF after
raw data, after codewords the continuation of the page's randomiser sequence over zero bytes (R125). -/
def State.pageFill (s : State) (raw : Bool) (a : Addr) (col n : Nat) : List Byte :=
  if raw then copies n 0xFF else s.randomise a col (copies n 0)

/-- `n` bytes from column `col` of the page that a program's frame holds, as they are sent to the die: the frame's content,
then the fill (R86, R125); and whether a frame word among them carries the poison mark (R204). -/
def State.framePage (s : State) (f col n : Nat) : (List Byte × Bool) × State :=
  let x := s.frame f
  let len := match x.rawLen with | some k => k | none => pageBytes x.pageSize x.quarterLayout x.level
  let r := s.frameRead f col (min n (len - col))
  let from0 := max col len
  ((r.1.1 ++ s.pageFill x.rawLen.isSome x.seedAddr from0 (col + n - from0), r.1.2), r.2)

end Sys2Proof.Machine
end

