-- ==== Sys2Proof/Machine/Life.lean ====
section
/-! DEFINITION. The life of a tag: allocation, states, commit, abort, end, completions, deferred records, and the reset
carry-over log (R57, R59, R61, R64 to R68, R71, R75, R202, R359, R467 to R470), and the two routines that a channel runs for
itself (R176, R180). -/

namespace Sys2Proof.Machine
open Sys2Proof

/-- A piece of flash work on a channel and LUN, not yet started. -/
def Work.new (kind : WorkKind) (role : WorkRole) (a : Addr) (tag : Option Nat) (stamp : Nat) : Work :=
  { kind := kind, role := role, wasRole := role, ch := aCh a, lun := aLun a, addr := a, tag := tag, frame := none, stamp := stamp
    st := .waiting, adm := .none, levelSet := false, level := 0, pageSize := 0, pageType := 0, quarterLayout := false
    quarter := none, quarters := [], failed := [], codes := [], lostQuarter := false, mateOf := none
    raw := false, column := 0, length := 0, base := noOffsets, cold := false
    coldStep := 0, attempt := 0, lastAttempt := 0, limit := 0, noSoft := false, assist := 0, corrected := 0, best := .success
    noSuspend := false, climbed := false, readsPast := 0, resumeCol := 0, sent := false, recovering := false, faults := 0
    replay := false, issued := false, forward := false, seedAddr := a, poisoned := false, steps := 0, infos := [], run := none }

/-- Adds a piece of work to the pool. -/
def State.addWork (s : State) (w : Work) : Nat × State :=
  (s.nextWork, { s with works := SMap.insert s.works s.nextWork w, nextWork := s.nextWork + 1 })

/-- The lookup of a read that decodes fixes its base and its attempts (R266, R268). A raw read and a read back keep what
they were given. -/
def State.fixLevels (s : State) (id : Nat) : State :=
  match s.work id with
  | none => s
  | some w =>
    if w.raw || w.role == .readBack then s
    else
      let r := s.lookupBase w.addr w.pageType
      let x := r.2.ladderOf w.addr w.pageType
      r.2.modWork id (fun w => { w with
        base := r.1.getD noOffsets, cold := r.1.isNone, coldStep := r.2.coldStep w.ch x w.pageType
        steps := r.2.steps x, lastAttempt := r.2.lastAttempt x w.limit })

/-- Tag `t` enters a state (R64). -/
def State.tagTo (s : State) (t : Nat) (st : TagState) : State :=
  let x := s.tag t
  if x.st = st then s
  else
    let op := match x.opcode with | some o => o.code | none => 0
    (s.setTag t { x with st := st }).traceRec 0x11 0 (t / 64) true
      (t + st.code * 2 ^ 16 + x.st.code * 2 ^ 20 + op * 2 ^ 24 + x.replays * 2 ^ 32) (some x.sqid)

/-- The FREE tag that channel `n` allocates next (R57). -/
def State.freeTagOf (s : State) (n : Nat) : Option Nat :=
  let start := match (s.chan n).lastTag with | none => 0 | some k => k + 1
  ((countUp start 64).map (fun i => 64 * n + i % 64)).find? (fun t => (s.tag t).st == .free)

/-- A tag of channel `n` is allocated for a packet of queue `q`: QUEUED, with its journal entry written. -/
def State.allocTag (s : State) (t q : Nat) (p : Packet) : State :=
  let k := (s.freshEntry 1 (mlogAddr 0 t 0) 256).tick
  let s := k.2.setTag t { Tag.init with
    sqid := q, cid := pkCid p, opcode := pkOpcode p, packet := p, stamp := k.1 }
  (s.modChan (t / 64) (fun c => { c with lastTag := some (t % 64) })).tagTo t .queued

/-- Frame `f` becomes HELD; the channel may reach the held-frame limit (R470). -/
def State.holdF (s : State) (f : Nat) : State :=
  let n := f / 64
  let t := s.holdFrame f
  if s.frameCount n .held < 8 && 8 ≤ t.frameCount n .held then t.raise 841 else t

/-- Frame `f` is freed (R197, R470). -/
def State.freeF (s : State) (f : Nat) : State := s.freeFrame f

/-- The COMPLETION trace record of an entry (R499). -/
def State.traceCompletion (s : State) (q : Nat) (c : Completion) : State :=
  let flags := ofBool (s.deferred.any (fun d => d.sqid == q)) + 2 * ofBool c.replayed + 4 * ofBool c.stagedAck +
    8 * ofBool c.forwarded
  let unit := match c.tag with | some t => t / 64 | none => 0x3FF
  s.traceRec 0x12 0 unit c.tag.isSome (c.tag.getD 0 + ofBool c.tag.isNone * 2 ^ 14 + c.status.code * 2 ^ 16 +
    flags * 2 ^ 24 + c.info.toNat * 2 ^ 32) (some q)

/-- A completion of queue `q` waits to be written for tag `t`. -/
def State.isDue (s : State) (q t : Nat) : Bool := (s.queue q).due.any (fun c => c.tag == some t)

/-- Tags whose operations run on after a reset (`CARRY_STATUS.running`). -/
def State.runningOn (s : State) : Nat := (s.tags.filter (fun e => e.2.runOn && e.2.st != .free)).length

/-- Open-block entries of bays that left ON are cleared once no program of theirs is in flight (R394). -/
def State.obtSweep (s : State) : State :=
  (s.obtDoomed.filter (fun k => s.obtInflight k == 0)).foldl (fun (s : State) k =>
    { (s.setObtEntry k ObtEntry.init) with obtDoomed := s.obtDoomed.filter (fun x => x != k) }) s

/-- Tag `t` becomes FREE and its frame is freed with it, unless it is held (R64, R197). -/
def State.freeTag (s : State) (t : Nat) : State :=
  let x := s.tag t
  let s := (s.tagTo t .free).setTag t Tag.init
  let s : State := match x.frame with
    | none => s
    | some f =>
      if x.forwarded then s
      else if (s.frame f).st == .inUse && (s.frame f).owner == some t then s.freeF f
      else if (s.frame f).named == some t then s.modFrame f (fun y => { y with named := none })
      else s
  let s := s.obtSweep
  if x.runOn && s.runningOn == 0 then s.raiseCarry else s

/-- Tag `t` is freed when its operation has ended and its completion has been written or discarded; until then it
waits in COMPLETING (R64). -/
def State.settle (s : State) (t : Nat) : State :=
  let x := s.tag t
  if x.st == .free || !x.committed || !x.ended || x.adding then s
  else if !x.runOn && s.isDue x.sqid t then s.tagTo t .completing
  else s.freeTag t

/-- A tagless slot is free again. -/
def State.freeSlot (s : State) (k : Nat) : State := { s with slots := SMap.erase s.slots k }

/-- What follows once an entry has been written or discarded (R61, R64). -/
def State.entryGone (s : State) (q : Nat) (c : Completion) : State :=
  let s := s.traceCompletion q c
  match c.tag, c.slot with
  | some t, _ => s.settle t
  | none, some k => s.freeSlot k
  | none, none => s

/-- A committed completion joins the queue of those to be written, in order of commit; a queue deleted from FAULTED
discards it (R42, R61). -/
def State.pushDone (s : State) (q : Nat) (c : Completion) : State :=
  if (s.queue q).discard then s.entryGone q c
  else s.modQueue q (fun x => { x with due := x.due ++ [c] })

/-- A completion of a command that took no tag and no slot. -/
def State.completeNow (s : State) (q : Nat) (cid : BitVec 16) (st : Status) (info : Nat) : State :=
  s.pushDone q { tag := none, slot := none, cid := cid, status := st, info := BitVec.ofNat 32 info, replayed := false
                 stagedAck := false, forwarded := false, veer := 0, assists := 0, hasData := none }

/-- The tagless slot `k` commits. -/
def State.commitSlot (s : State) (k : Nat) (st : Status) (info : Nat) : State :=
  if !SMap.has s.slots k || (s.slot k).done then s
  else
    let x := s.slot k
    (s.setSlot k { x with done := true }).pushDone x.sqid
      { tag := none, slot := some k, cid := x.cid, status := st, info := BitVec.ofNat 32 info, replayed := false
        stagedAck := false, forwarded := false, veer := 0, assists := 0, hasData := none }

/-- An entry of the carry-over log (R359). -/
def State.addCarry (s : State) (t : Nat) (st : Status) (info : Word) : State :=
  let x := s.tag t
  let e : Carry := { addr := pkAddr x.packet, sqid := x.sqid, cid := x.cid, status := st
                     opcode := x.opcode.getD .readPage, stagedAck := x.stagedAck, tag := t, info := info }
  let s := if s.carry.length < 16384 then s else ({ s with carry := restN 1 s.carry }.shiftEntries 1 1).setBit 0x190 31 true
  { s with carry := s.carry ++ [e] }.freshEntry 1 (mlogAddr 1 s.carry.length 0) 20

/-- A waiting forwarded read of tag `t` goes to the flash (R71, R196): it will take a frame of its own. -/
def State.fallBackTag (s : State) (t : Nat) : State :=
  s.modTag t (fun x => if x.forwarded then { x with forwarded := false, fellBack := true, frame := none } else x)

/-- A forwarded read is served from its frame, whose data is staged (R71, R86): a raw read delivers, the others decode,
with the configuration in force now (R248). -/
def State.serveForward (s : State) (id : Nat) : State :=
  match s.work id with
  | none => s
  | some w =>
    match w.role, w.tag with
    | .own, some t =>
      if w.raw then (s.dropWork id).tagTo t .delivering
      else (s.modWork id (fun w => { w with st := .decoding, run := some s.decodeCfg })).tagTo t .decoding
    | _, _ => s.modWork id (fun w => { w with st := .decoding, run := some s.decodeCfg })

/-- The reads that wait for the data of frame `f` are served as it is staged (R71, R86). -/
def State.wakeForwards (s : State) (f : Nat) : State :=
  if !(s.frame f).staged then s
  else
    ((s.works.filter (fun e => e.2.forward && e.2.frame == some f && e.2.st == .waiting)).map Prod.fst).foldl
      (fun s id => s.serveForward id) s

/-- The reads that wait for the data of frame `f` go to the flash (R71, R202); those served from it already do not. -/
def State.fallBack (s : State) (f : Nat) : State :=
  let ids := (s.works.filter (fun p => p.2.forward && p.2.frame == some f && p.2.st == .waiting)).map Prod.fst
  let s := ids.foldl (fun (s : State) id =>
    let s := match s.work id with
      | some w => (match w.role, w.tag with | .own, some t => s.fallBackTag t | _, _ => s)
      | none => s
    (s.modWork id (fun w => { w with forward := false, frame := none })).fixLevels id) s
  s.grantFrames (f / 64)

/-- The accumulator effects of the commit of a contributing program (R117): an index not yet used for data is free
again; an accumulator that has taken its data is tainted. -/
def State.commitAcc (s : State) (x : Tag) (st : Status) : State :=
  match x.accLink with
  | none => s
  | some k =>
    let m := pdw x.packet 12 20 16
    if bitOf (s.acc k).contributed.toNat m then
      (if st == .aborted || st == .targetAbsent || st == .dataPoisoned then
        s.modAcc k (fun a => { a with tainted := true })
       else s)
    else s.modAcc k (fun a => { a with used := a.used &&& ~~~(1#31 <<< m) })

/-- A pending ABORT of tag `t` is resolved by the tag's commit (R65). -/
def State.resolveAbort (s : State) (t : Nat) (st : Status) : State :=
  let x := s.tag t
  match x.abortSlot with
  | none => s
  | some k =>
    let s := s.modTag t (fun x => { x with abortPending := false, abortSlot := none })
    if st = .aborted then s.commitSlot k .success t else s.commitSlot k .notFound 0

/-- The stream pair of the engine that serves a flash channel (R296). -/
def State.enginePair (s : State) (ch : Nat) : Nat := (ch / 8) % 8 % s.build.pairs

/-- The tag holds a program-type command or an erase past its confirm. -/
def Tag.confirmedWrite (x : Tag) : Bool :=
  (x.isProgram || x.opcode == some Opcode.eraseBlock) &&
    (x.st == .confirmed || (x.st == .replaying && x.phase == some .afterConfirm))

/-- The status that a tag commits with: one whose entry met an uncorrectable error commits OUTCOME_INDETERMINATE after
its operation at the die, or DATA_POISONED (R448). -/
def Tag.statusOf (x : Tag) (st : Status) : Status :=
  if x.ue then (if x.confirmedWrite then .outcomeIndeterminate else .dataPoisoned) else st

/-- The frames that a program of tag `t` bound to its pages (R201): its own, or those of the accumulator that it closes.
A REPROGRAM_HELD bound none. -/
def State.boundFrames (s : State) (t : Nat) : List Nat :=
  let x := s.tag t
  if !x.isProgram || x.opcode == some Opcode.reprogramHeld || x.forwarded then []
  else
    match x.frame with
    | some f => [f]
    | none => ((s.accs.filter (fun e => e.2.closeTag == some t)).flatMap (fun e => [e.2.pFrame, e.2.qFrame])).filterMap id

/-- Tag `t` commits: its status is fixed (R64, R65, R74, R202). A frame whose data is not to be staged any more serves no read
(R71, R197). A tag that a function-level or hot reset abandons leaves no entry (R67). -/
def State.commitTag (s : State) (t : Nat) (st : Status) (info : Word) : State :=
  let x := s.tag t
  let st := x.statusOf st
  if x.committed || x.st == .free then s
  else
    let s := s.commitAcc x st
    let s := s.setTag t { s.tag t with committed := true, status := st, info := info }
    let s := s.resolveAbort t st
    let unbinds := st == Status.aborted || st == Status.hostAccessError || st == Status.targetAbsent ||
      st == Status.dataPoisoned
    let s := (s.boundFrames t).foldl (fun s f =>
      if unbinds then (s.unbind f).fallBack f else if (s.frame f).staged then s else s.fallBack f) s
    if x.dropped then s
    else if x.runOn then s.addCarry t st info
    else
      s.pushDone x.sqid
        { tag := some t, slot := none, cid := x.cid, status := st, info := info, replayed := x.replays != 0
          stagedAck := x.stagedAck, forwarded := x.forwarded, veer := x.veer, assists := x.assists
          hasData := if x.dataPhase then some (s.enginePair (t / 64)) else none }

/-- The operation of tag `t` has ended (R64); a frame it forwarded from may be freed (R197). -/
def State.endTag0 (s : State) (t : Nat) : State :=
  let x := s.tag t
  let s := s.modTag t (fun x => { x with ended := true })
  let s := match x.frame with | some f => if x.forwarded then s.forwardEnded f else s | none => s
  s.settle t

/-- The deferred record of a frame is removed (R469). -/
def State.dropDeferred (s : State) (f : Nat) : State :=
  { s with deferred := s.deferred.filter (fun (d : Deferred) => d.frame != f) }

/-- Two address words name one page (R201). -/
def samePage (a b : Addr) : Bool := putBits a.toNat 15 14 0 == putBits b.toNat 15 14 0

/-- Reads of a page that waited for the binding of frame `f` to move there are served from the frame (R100). -/
def State.takeForwards (s : State) (f : Nat) (a : Addr) (stamp : Nat) : State :=
  let ids := (s.works.filter (fun e => e.2.kind == .read && e.2.st == .waiting && !e.2.forward && e.2.attempt == 0 &&
    e.2.assist == 0 && samePage e.2.addr a && decide (stamp < s.workTagStamp e.2) &&
    (match e.2.role with | .own | .member _ | .source => true | _ => false))).map Prod.fst
  ids.foldl (fun (s : State) id =>
    match s.work id with
    | none => s
    | some w =>
      let s := match w.role, w.tag with
        | .own, some t => s.modTag t (fun x => { x with forwarded := true, frame := some f })
        | _, _ => s
      let s := (s.withdraw id).modWork id (fun w => { w with forward := true, frame := some f, adm := .none })
      let s := (s.releaseUnused id).count w.ch 30 1
      let s := match w.frame with | some g => s.freeF g | none => s
      s.serveForward id) s

/-- A frame that a command waits to release, or to rebind, once no forwarded read is in progress from it (R100, R101) and
no addition reads it (R255). -/
def State.releaseOne (s : State) (f : Nat) : State :=
  match (s.frame f).named with
  | none => s
  | some t =>
    let x := s.tag t
    if s.forwardsFrom f || s.addingFrom f || (s.frame f).st != .held then s
    else if x.opcode == some Opcode.releaseFrame && !x.committed then
      let s := ((s.dropDeferred f).freeF f).modTag t (fun y => { y with frame := none })
      (s.commitTag t .success 0).endTag0 t
    else if x.rebind then
      let s := s.modFrame f (fun y => { y with named := none })
      let s := s.rewriteFrame f x.payload (pkAddr x.packet) (pkSize x.packet) (bitOf (pkByte x.packet 50) 0) (pkLevel x.packet)
      let s := (s.bindFrame f (pkAddr x.packet) x.stamp).takeForwards f (pkAddr x.packet) x.stamp
      (s.modTag t (fun y => { y with rebind := false })).endTag0 t
    else s

/-- Frames that commands wait to release or rebind (R100, R101). -/
def State.releaseSweep (s : State) : State :=
  ((s.frames.filter (fun e => e.2.named.isSome)).map Prod.fst).foldl (fun s f => s.releaseOne f) s

/-- The operation of tag `t` has ended, and what waited for it goes on. -/
def State.endTag (s : State) (t : Nat) : State := (s.endTag0 t).releaseSweep

/-- The tag commits and its operation has ended. -/
def State.finish (s : State) (t : Nat) (st : Status) (info : Nat) : State :=
  (s.commitTag t st (BitVec.ofNat 32 info)).endTag t

/-- A deferred record of tag `t` is created; it replaces an unfetched record of its frame (R467, R469). -/
def State.addDeferred (s : State) (t f : Nat) (st : Status) (info : Nat) : State :=
  let x := s.tag t
  let r : Deferred := { addr := pkAddr x.packet, cid := x.cid, sqid := x.sqid, status := st
                        opcode := x.opcode.getD .programPage, frame := f, info := BitVec.ofNat 32 info
                        replays := x.replays, fault := x.lastFault, time := s.now }
  let s := { s with deferred := s.deferred.filter (fun (d : Deferred) => d.frame != f) ++ [r] }.freshEntry 1 (mlogAddr 2 f 0) 32
  (s.addFld 0x3800 31 16 1).raise 840

/-- A program-type command of tag `t`, whose frame is `f`, ends in failure: a deferred record when it had committed on
staging (R74, R75), else its commit, with the frame held where `hold` says so (R75, R94, R467). After a function-level or hot reset
the outcome goes to the carry-over log and no frame is held (R359). -/
def State.programFails (s : State) (t f : Nat) (st : Status) (info : Nat) (hold : Bool) : State :=
  let x := s.tag t
  if x.runOn then
    (if x.committed then s.addCarry t st (BitVec.ofNat 32 info) else s.commitTag t st (BitVec.ofNat 32 info)).endTag t
  else if x.committed then
    (if x.stagedAck then ((s.holdF f).addDeferred t f st info).endTag t else (s.holdF f).endTag t)
  else if hold then ((s.holdF f).commitTag t st (BitVec.ofNat 32 info)).endTag t
  else s.finish t st info

/-- A program-type command of tag `t` ends well at the die (R74). -/
def State.programSucceeds (s : State) (t : Nat) (st : Status) (info : Nat) : State :=
  let x := s.tag t
  if x.runOn && x.committed then (s.addCarry t st (BitVec.ofNat 32 info)).endTag t
  else s.finish t st info

/-- The array operation of a work has started at the die. -/
def Work.started (w : Work) : Bool :=
  w.sent || w.st == .confirmed || (w.kind == .read && w.st == .running)

/-- Takes a work out of an array operation. -/
def ArrayOp.without (o : ArrayOp) (id : Nat) : ArrayOp := { o with works := o.works.filter (fun x => x != id) }

/-- The codewords of a work leave the hard decoder (R234); the run of the next one starts with the configuration in force
(R248). -/
def Chan.hardDrop (c : Chan) (id : Nat) (now : DecodeCfg) : Chan :=
  let rest := c.hard.filter (fun e => e.1 != id)
  { c with hard := rest, hardCfg := if rest.head? = c.hard.head? then c.hardCfg else now }

/-- The address of an entry's first microword in a channel's store (R181). -/
def State.entryAddr (s : State) (n e : Nat) : Nat :=
  match (s.chan n).image with | some i => wfld (SMap.getD i.entries e 0) 10 0 | none => 0

/-- A MC_MESSAGE trace record (R499). -/
def State.traceMsg (s : State) (n op entry : Nat) (word : Word) : State :=
  s.traceRec 0x70 8 n true (word.toNat + entry * 2 ^ 32 + op * 2 ^ 38) none

/-- Channel clocks in a µs, at 50 MT/s in steps of the rate code (R160, R169). -/
def Chan.usClocks (c : Chan) : Nat := max 100 (c.rate * 50 / 8)

/-- The targets of channel `n` whose `RB_N` is high: no LUN of them holds it low (R167, R526). -/
def State.highTargets (s : State) (n : Nat) : List Nat :=
  (countUp 0 8).filter (fun x => [2 * x, 2 * x + 1].all (fun l =>
    match (s.lun (lunKey n l)).op with | some o => !o.low | none => true))

/-- START or ABANDON as the sequencer sees it: a job for no tag and no target (R176, R180). -/
def State.entryJob (s : State) (n : Nat) (img : Image) : SeqJob :=
  let c := s.chan n
  { image := img, args := [], units := 0, rows := [], target := none, lunByte := 0, requests := [], abortable := false
    quarterPause := false, toggle := false, gale := decide (72 < c.rate), high := s.highTargets n, confirms := false
    usClocks := c.usClocks, entry := c.bus.entry, framed := false, inWords := 0 }

/-- START or ABANDON goes on, at most `fuel` microwords of it. An illegal one stands where it is: ILLEGAL_MICROWORD or the stall
timer faults the channel (assumption log). -/
def State.entryOn (s : State) (n fuel : Nat) (input : List Byte) : State :=
  match (s.chan n).image with
  | none => s
  | some img =>
    let c := s.chan n
    let q := (s.entryJob n img).run fuel
      { chan := { c with bus := c.bus.resumed s.now c.usClocks input }, fresh := s.fresh, result := none, messages := []
        fin := .running }
    let s := q.messages.foldl (fun (s : State) m => s.traceMsg n m.1 c.bus.entry m.2) s
    { s with fresh := q.fresh }.modChan n (fun c => { c with
      msgs := q.chan.msgs, msgOpen := q.chan.msgOpen, msgDrop := q.chan.msgDrop
      bus := { q.chan.bus with running := q.fin != SeqEnd.ended } })

/-- The channel runs START or ABANDON from its first microword (R176, R180); the pins stand as they were. Without an image the
pins go to idle. -/
def State.runEntry (s : State) (n e fuel : Nat) : State :=
  let c := s.chan n
  if c.image.isNone || c.store != .loaded || c.inReset then s.modChan n (fun c => { c with bus := Bus.init })
  else
    (s.modChan n (fun c => { c with bus := { Bus.init with
      running := true, entry := e, pc := s.entryAddr n e, pins := c.bus.pins, since := s.now } })).entryOn n fuel []

/-- An array operation that has just started; `may` is the permission to suspend it at its issue (R142). -/
def ArrayOp.start (kind : WorkKind) (works : List Nat) (may : Bool := false) : ArrayOp :=
  { kind := kind, works := works, suspended := false, suspends := 0, suspending := false, readsSince := 0
    resumeNow := false, cap := .none, ranFrom := 0, low := true, timedOut := false, maySuspend := may }

/-- A piece of work ends or is withdrawn (R64, R149, R176): its request and unused grant go, an array operation it
started runs on in its LUN, its packets leave the FIFOs, and its codewords the decoders. A bus job that it was running is
abandoned: an open message packet is closed, ABANDON runs, and the LUN of a routine that has sent a command counts as busy
until a poll (R176, R213, R218; assumption log). -/
def State.endWork (s : State) (id : Nat) : State :=
  match s.work id with
  | none => s
  | some w =>
    let runs := (s.chan w.ch).bus.running && (s.chan w.ch).bus.work == some id
    let s := s.withdraw id
    let s := if w.started then s else s.releaseUnused id
    let s := s.modLun (lunKey w.ch w.lun) (fun l =>
      { l with op := l.op.map (fun o => o.without id), parked := l.parked.map (fun o => o.without id) })
    let s := s.modChan w.ch (fun c =>
      let c := if c.ingressWork = some id then { c with ingress := [], ingressWork := none } else c
      let c := if c.egressWork = some id then { c with egress := [], egressWork := none } else c
      let c := c.hardDrop id s.decodeCfg
      let c := if runs then c.truncateMsg else c
      match c.soft with | some b => if b.work = id then { c with soft := none } else c | none => c)
    let s := { s with works := s.works.map (fun (e : Nat × Work) =>
      if e.2.mateOf = some id then (e.1, { e.2 with mateOf := none }) else e) }
    let sent := runs && w.kind == .routine && (s.chan w.ch).bus.cycles.any (fun c => match c with | .command _ => true | _ => false)
    let s := if sent then s.modLun (lunKey w.ch w.lun) (fun l =>
        if l.op.isSome then l else { l with op := some (ArrayOp.start .routine []), pollDue := true }) else s
    let s := if runs then s.runEntry w.ch 1 64 else s
    s.dropWork id

/-- The frame of a work that owns one is freed. -/
def State.freeWorkFrame (s : State) (w : Work) : State :=
  match w.frame with
  | some f => if w.forward then (s.forwardEnded f).releaseSweep else s.freeF f
  | none => s

/-- Member and source reads of a command that has ended: those not yet issued go, the others run to their end with
their results discarded (R90). -/
def State.detachReads (s : State) (t : Nat) : State :=
  let ids := (s.works.filter (fun p => p.2.tag == some t &&
    (match p.2.role with | .member _ | .source => true | _ => false))).map Prod.fst
  ids.foldl (fun (s : State) id =>
    match s.work id with
    | none => s
    | some w =>
      if (w.st == .waiting && !w.started) || w.st == .ended then (s.endWork id).freeWorkFrame w
      else s.modWork id (fun w => { w with tag := none })) s

/-- The assembly frames that the rebuild of tag `t` has taken for itself, no work's and not the tag's own (R259). -/
def State.givenFrames (s : State) (t : Nat) : List Nat :=
  match (s.tag t).rebuild with
  | none => []
  | some r => ([r.frameA, r.frameB].filterMap id).filter (fun f =>
      (s.tag t).frame != some f && !s.works.any (fun e => !e.2.forward && e.2.frame == some f))

/-- The rebuild of a tag ends with the assembly frames that it took. -/
def State.dropRebuild (s : State) (t : Nat) : State :=
  (s.givenFrames t).foldl (fun s f => s.freeF f) (s.modTag t (fun x => { x with rebuild := none }))

/-- The flash work of a tag ends, its rebuild with it. -/
def State.endTagWorks (s : State) (t : Nat) : State :=
  let s := (s.dropRebuild t).detachReads t
  ((s.works.filter (fun p => p.2.tag == some t)).map Prod.fst).foldl (fun s id => s.endWork id) s

/-- The DMA channel that serves the data phase of tag `t`. -/
def State.phaseOf (s : State) (t : Nat) : Option Nat :=
  (s.dma.find? (fun e => e.2.user == some t)).map Prod.fst

/-- Nothing waits any more for the reads that DMA channel `g` has outstanding (R321). -/
def State.dropReads (s : State) (g : Nat) : State :=
  { s with ep := { s.ep with reqs := s.ep.reqs.map (fun e =>
    match e.2.user with
    | .dmaData h _ | .dmaDesc h | .dmaList h => if h = g then (e.1, { e.2 with user := .dropped }) else e
    | _ => e) } }

/-- A channel in IDLE: what `DMA_STATUS` and `DMA_HOPS` latched, and its credits, stay (R322, R324, R328). -/
def DmaChan.cleared (d : DmaChan) : DmaChan :=
  { DmaChan.init with status := d.status, kind := d.kind, dir := d.dir, hops := d.hops, credits := d.credits }

/-- The data phase of tag `t` ends: its channel is idle. -/
def State.dropPhase (s : State) (t : Nat) : State :=
  match s.phaseOf t with
  | none => s
  | some g => (s.dropReads g).modDmaChan g DmaChan.cleared

/-- A survey of channel `n` is abandoned (R291); its command commits ABORTED. -/
def State.abandonSurvey (s : State) (n : Nat) : State :=
  let v := (s.chan n).survey
  if v.st = .idle ∨ v.st = .waiting then s
  else
    let ids := (s.works.filter (fun p => p.2.ch == n &&
      (match p.2.role with | .sample _ _ => true | _ => false))).map Prod.fst
    let s := ids.foldl (fun (s : State) id =>
      match s.work id with
      | some w => (s.endWork id).freeWorkFrame w
      | none => s) s
    let s := s.modChan n (fun c => { c with survey := { Survey.init with again := v.again, due := false } })
    let s := (s.setFld (0x330000 + n * 0x100) 13 12 2).count n 23 1
    match v.tag with
    | some t => s.finish t .aborted 0
    | none => s

/-- A calibration of channel `n` joins the unit's queue (R425, R432). -/
def State.calQueue (s : State) (n : Nat) (apply : Bool) (tag : Option Nat) : State :=
  let s := s.modChan n (fun c => { c with cal := { Cal.init with st := .queued, apply := apply, tag := tag } })
  { s with calUnit := { s.calUnit with queue := s.calUnit.queue ++ [n] } }

/-- A CALIBRATE that waited for another calibration of its channel runs its own (R432). -/
def State.calNext (s : State) (n : Nat) : State :=
  if (s.chan n).cal.st != .idle then s
  else
    match leastBy (fun (e : Nat × Tag) => e.2.stamp) (s.tags.filter (fun e =>
      e.1 / 64 == n && e.2.opcode == some Opcode.calibrate && (e.2.st == .queued || e.2.st == .issued) &&
        !e.2.committed)) with
    | some (t, x) => s.calQueue n (bitOf (pkByte x.packet 48) 0) (some t)
    | none => s

/-- A calibration of channel `n` is abandoned and leaves the calibration unit (R436); a CALIBRATE that waited for it runs its own
(R432). -/
def State.dropCal (s : State) (n : Nat) : State :=
  let runs := (s.chan n).cal.runs
  let s := s.modChan n (fun c => { c with cal := Cal.init })
  let s := (s.setFld (0x54004 + n * 0x40) 10 8 4).setFld (0x54004 + n * 0x40) 23 20 runs
  { s with calUnit := { queue := s.calUnit.queue.filter (fun x => x != n)
                        current := if s.calUnit.current = some n then none else s.calUnit.current } }.calNext n

/-- The survey or calibration that a tag runs ends with it. -/
def State.dropService (s : State) (t : Nat) : State :=
  let n := t / 64
  let s := s.modChan n (fun c => { c with survey := { c.survey with again := c.survey.again.filter (fun x => x != t) } })
  let s := if (s.chan n).survey.tag = some t then s.abandonSurvey n else s
  if (s.chan n).cal.tag = some t then s.dropCal n else s

/-- The close of an accumulator is given up: it stays open with its contributions, and the bindings of its frames end
(R118, R202). -/
def State.reopen (s : State) (t : Nat) : State :=
  match s.accs.find? (fun e => e.2.closeTag == some t) with
  | none => s
  | some (k, a) =>
    [a.pFrame, a.qFrame].foldl (fun (s : State) f => match f with | some f => (s.unbind f).fallBack f | none => s)
      (s.setAcc k { a with st := .opened, closeTag := none, pDone := false, qDone := false })

/-- Nothing waits any more for the stripe descriptor of tag `t`. -/
def State.dropSd (s : State) (t : Nat) : State :=
  { s with ep := { s.ep with reqs := s.ep.reqs.map (fun e =>
    if e.2.user = .sdFetch t then (e.1, { e.2 with user := .dropped }) else e) } }

/-- A tag stops before its end: it commits with a status, and everything it does ends (R64, R395). -/
def State.stopTag (s : State) (t : Nat) (st : Status) (info : Nat) : State :=
  let x := s.tag t
  if x.committed || x.st == .free then s
  else
    let s := s.commitTag t st (BitVec.ofNat 32 info)
    let s := (s.endTagWorks t).dropPhase t
    let s := (s.dropService t).dropSd t
    let s := s.modTag t (fun x => { x with sdPending := false, sd := none, sdBytes := [], rebuild := none })
    s.endTag t

/-- A decoder run is in progress for tag `t` (R64, R240): of the first codeword in its channel's hard decoder, of a
codeword from a program's frame, or of the soft decoder. -/
def State.decoding (s : State) (t : Nat) : Bool :=
  s.works.any (fun p => p.2.tag == some t && p.2.role == .own &&
    (((s.chan p.2.ch).hard.head?.map Prod.fst) == some p.1 || (p.2.forward && p.2.st == .decoding) ||
      (p.2.st == .soft && p.2.assist != 0)))

/-- A data burst of tag `t` is in progress. -/
def State.bursting (s : State) (t : Nat) : Bool :=
  match s.phaseOf t with
  | none => false
  | some g => (s.dmaChan g).burst.isSome

/-- A bus job of tag `t` runs (R64, R177). -/
def State.jobRuns (s : State) (t : Nat) : Bool :=
  s.works.any (fun p => p.2.tag == some t && (s.chan p.2.ch).bus.running && (s.chan p.2.ch).bus.work == some p.1)

/-- A bus job of tag `t` waits for its confirm to be reported. -/
def State.confirming (s : State) (t : Nat) : Bool :=
  s.works.any (fun p => p.2.tag == some t && p.2.sent && p.2.st == .running)

/-- What ABORT, or queue deletion, does to an uncommitted tag (R42, R64): stopped now, to be stopped later, or past its
confirm. -/
inductive StopAt where
  | now
  | later
  | never
  deriving DecidableEq, Repr

/-- When a tag may be stopped (R64, last column). An ABORT reaches a RESET_TARGET only before its reset (R106). -/
def State.stopAt (s : State) (t : Nat) : StopAt :=
  let x := s.tag t
  match x.st with
  | .queued | .staged => .now
  | .fetching | .delivering => if s.bursting t then .later else .now
  | .issued =>
    if s.confirming t || s.jobRuns t || x.opcode == some .resetTarget then .later else .now
  | .confirmed => .never
  | .decoding => if x.rebuild.isNone && s.decoding t then .later else .now
  | .replaying => match x.phase with | some .afterConfirm => .never | _ => .now
  | .free | .completing => .never

/-- A tag is stopped with status ABORTED (R64). `info` is as the command's section says. A close leaves its accumulator
open (R118), a RELEASE_FRAME and a REPROGRAM_HELD leave their frame held (R100, R101). -/
def State.abortNow (s : State) (t : Nat) : State := (s.stopTag t .aborted 0).reopen t

/-- A tag that a function-level or hot reset abandons reaches its safe point (R67, R357): it leaves no completion, and a program
that had committed on staging an entry of the carry-over log (R359). -/
def State.dropTag (s : State) (t : Nat) : State :=
  let x := s.tag t
  let s := if x.committed && x.stagedAck then
      (let u := s.addCarry t .aborted 0; if u.runningOn == 0 then u.raiseCarry else u) else s
  ((s.endTagWorks t).dropPhase t).freeTag t

/-- A tag that was to stop at its next boundary does so (R64, R357). Answers whether it did. A RESET_TARGET in progress runs on
(R106). -/
def State.abortIfPending (s : State) (t : Nat) : Bool × State :=
  let x := s.tag t
  if x.dropped then (true, s.dropTag t)
  else if x.abortPending && !x.committed && !(x.opcode == some .resetTarget && x.st == .issued) then (true, s.abortNow t)
  else (false, s)

/-- Tag `t` has entered CONFIRMED, or REPLAYING after its confirm: an ABORT that waited on it completes TOO_LATE, and a
deletion or reset that asked it to stop lets it run on (R42, R64, R65, R67). -/
def State.tooLate (s : State) (t : Nat) : State :=
  let k := (s.tag t).abortSlot
  let s := s.modTag t (fun x => { x with
    abortPending := false, abortSlot := none, runOn := x.runOn || x.dropped, dropped := false })
  match k with
  | some k => s.commitSlot k .tooLate t
  | none => s

/-- An ABORT in slot `k` acts on tag `t` (R65). -/
def State.abortTag (s : State) (k t : Nat) : State :=
  let x := s.tag t
  if x.committed || x.abortSlot.isSome then s.commitSlot k .notFound 0
  else
    match s.stopAt t with
    | .now => (s.modTag t (fun x => { x with abortPending := true, abortSlot := some k })).abortNow t
    | .later => s.modTag t (fun x => { x with abortPending := true, abortSlot := some k })
    | .never => s.commitSlot k .tooLate t

/-- A queue that is deleted stops the uncommitted tag `t` (R42). -/
def State.cancelTag (s : State) (t : Nat) : State :=
  if (s.tag t).committed then s
  else
    match s.stopAt t with
    | .now => s.abortNow t
    | .later => s.modTag t (fun x => { x with abortPending := true })
    | .never => s

/-- The block meets an uncorrectable error in the entry of tag `t` (R448). -/
def State.tagError (s : State) (t : Nat) : State :=
  let x := s.tag t
  if x.st == .free then s
  else if x.committed then
    s.modQueue x.sqid (fun q => { q with due := q.due.map (fun c =>
      if c.tag == some t then { c with status := .dataPoisoned } else c) })
  else (s.modTag t (fun x => { x with ue := true })).cancelTag t

/-- The block meets an uncorrectable error in tagless slot `k` (R448): an uncommitted command commits DATA_POISONED, and a
committed one completes with it. -/
def State.slotError (s : State) (k : Nat) : State :=
  if !SMap.has s.slots k then s
  else if (s.slot k).done then
    s.modQueue (s.slot k).sqid (fun q => { q with due := q.due.map (fun c =>
      if c.slot == some k then { c with status := .dataPoisoned } else c) })
  else s.commitSlot k .dataPoisoned 0

/-- The block meets what a raw write left in the entry of a tag or a tagless slot in use, which it reads at every clock
(R446, R448). The other stores of the class are read as their entries are delivered. -/
def State.tagTableError (s : State) (addr : Nat) : State :=
  let entry := bits addr 23 8
  if bits addr 26 24 != 0 then s
  else if decide (entry < 16384) then
    if (s.tag entry).st == .free then s
    else
      let r := s.useGroup 1 addr
      if r.1 then r.2.tagError entry else r.2
  else if SMap.has s.slots (entry - 16384) then
    let r := s.useGroup 1 addr
    if r.1 then r.2.slotError (entry - 16384) else r.2
  else s

/-- A raw write (R449); an error that it leaves in the tag table is met as R448 states. -/
def State.rawStore (s : State) : State :=
  let addr := (s.reg 0x6000C).toNat
  let t := s.rawWrite
  if s.fld 0x60008 18 16 == 1 && s.bit 0x60008 31 && groupExists 1 addr then t.tagTableError addr else t

/-- RAW_WRITE (R449). -/
def execRawWrite (s : State) : Host.Outcome State Fault Refusal :=
  if s.asleep then .next (s.holdRequest .rawWrite .access)
  else if s.serving then .next s.rawStore else .next s

end Sys2Proof.Machine
end

