-- ==== Sys2Proof/Machine/Queues.lean ====
section
/-! DEFINITION. Queue pairs: creation, deletion, doorbells, SQ fetch, push windows, completion entries and their
coalescing (R35 to R51, R59 to R63). -/

namespace Sys2Proof.Machine
open Sys2Proof

/-- `QC_CFG.push`. -/
def State.qPush (s : State) (q : Nat) : Bool := s.bit (qcAt q + 0x14) 9

/-- `QC_CFG.ack_mode`: staging acknowledge. -/
def State.qStagedAck (s : State) (q : Nat) : Bool := s.bit (qcAt q + 0x14) 8

/-- `QC_EXT.push_window`. -/
def State.qWindow (s : State) (q : Nat) : Nat := s.fld (qcAt q + 0x18) 9 0

/-- SQ depth (R36, R38). -/
def State.sqDepth (s : State) (q : Nat) : Nat := if s.qPush q then 64 else s.fld (qcAt q + 0x10) 15 0 + 1

/-- CQ depth (R36). -/
def State.cqDepth (s : State) (q : Nat) : Nat := s.fld (qcAt q + 0x10) 31 16 + 1

/-- SQ base address. -/
def State.sqBase (s : State) (q : Nat) : Nat := (s.reg (qcAt q + 4)).toNat * 2 ^ 32 + (s.reg (qcAt q)).toNat

/-- CQ base address. -/
def State.cqBase (s : State) (q : Nat) : Nat := (s.reg (qcAt q + 12)).toNat * 2 ^ 32 + (s.reg (qcAt q + 8)).toNat

/-- The CQ is full (R37). -/
def State.cqFull (s : State) (q : Nat) : Bool :=
  ((s.queue q).cqTail + 1) % s.cqDepth q == (s.queue q).cqHead

/-- Another queue in use is bound to the push window of `q` (R40). -/
def State.windowTaken (s : State) (q : Nat) : Bool :=
  s.queues.any (fun e => e.1 != q && e.2.st != .disabled && s.qPush e.1 && s.qWindow e.1 == s.qWindow q)

/-- The cause that a creation of queue `q` fails with (R40); 0 when it passes. -/
def State.createCause (s : State) (q : Nat) : Nat :=
  let sz := s.reg (qcAt q + 0x10)
  if wfld sz 31 16 = 0 ∨ (wfld sz 15 0 = 0 ∧ s.qPush q = false) then 1
  else if s.qPush q && (q == 0 || s.windowTaken q) then 2
  else 0

/-- The push slots of window `w` are empty. -/
def State.clearWindow (s : State) (w : Nat) : State := { s with push := s.push.filter (fun e => e.1 / 64 != w) }

/-- A write of 1 to `QC_CTRL.enable` (R40). -/
def State.createQueue (s : State) (q : Nat) : State :=
  if (s.queue q).st = .disabled then
    let c := s.createCause q
    if c = 0 then
      let s := if s.qPush q then s.clearWindow (s.qWindow q) else s
      s.setQueue q { Queue.init with st := .active }
    else s.setQueue q { s.queue q with cause := c }
  else s

/-- Queue `q` enters FAULTED with a cause (R44, R448). -/
def State.faultQueue (s : State) (q cause : Nat) : State :=
  s.modQueue q (fun x => { x with st := .faulted, cause := cause, fetched := [] })

/-- The tags of queue `q` in use, those that run on after a reset apart. -/
def State.tagsOf (s : State) (q : Nat) : List Nat :=
  (s.tags.filter (fun e => e.2.sqid == q && e.2.st != .free && !e.2.runOn && !e.2.dropped)).map Prod.fst

/-- Nothing waits any more for the SQ entries of queue `q` that are on their way (R42). -/
def State.dropFetches (s : State) (q : Nat) : State :=
  { s with ep := { s.ep with reqs := s.ep.reqs.map (fun e =>
    match e.2.user with
    | .sqFetch k _ _ => if k = q then (e.1, { e.2 with user := .dropped }) else e
    | _ => e) } }

/-- A write of 0 to `QC_CTRL.enable` (R42). -/
def State.deleteQueue (s : State) (q : Nat) : State :=
  let x := s.queue q
  if x.st = .active ∨ x.st = .faulted then
    let drop := x.st == .faulted
    let s := if s.qPush q then s.clearWindow (s.qWindow q) else s
    let s := s.setQueue q { x with st := .draining, fetched := [], fetchNext := x.sqHead, sqTail := x.sqHead
                                   discard := drop, due := if drop then [] else x.due }
    let s := if drop then x.due.foldl (fun s c => s.entryGone q c) s else s
    (s.tagsOf q).foldl (fun s t => s.cancelTag t) (s.dropFetches q)
  else s

/-- Queue `q` has drained (R42). -/
def State.drained (s : State) (q : Nat) : Bool :=
  (s.queue q).st == .draining && (s.tagsOf q).isEmpty && (s.queue q).due.isEmpty &&
    s.slots.all (fun e => e.2.sqid != q)

/-- `QC_CTRL.db_error` of queue `q` sets. -/
def State.dbError (s : State) (q : Nat) : State := s.setBit (qcAt q + 0x1C) 7 true

/-- A write to the SQ-tail doorbell (R45, R46). -/
def State.sqDoorbell (s : State) (q : Nat) (v : Word) : State :=
  if (s.queue q).st ≠ .active then s
  else if wfld v 31 16 ≠ 0 then s.dbError q
  else if s.qPush q then s
  else if wfld v 15 0 ≥ s.sqDepth q then s.dbError q
  else s.modQueue q (fun x => { x with sqTail := wfld v 15 0 })

/-- A write to the CQ-head doorbell (R43, R45, R61). -/
def State.cqDoorbell (s : State) (q : Nat) (v : Word) : State :=
  let st := (s.queue q).st
  if st ≠ .active ∧ st ≠ .draining then s
  else if wfld v 31 16 ≠ 0 then (if st = .active then s.dbError q else s)
  else if wfld v 15 0 ≥ s.cqDepth q then s.dbError q
  else s.modQueue q (fun x => { x with cqHead := wfld v 15 0 })

/-- Entries from `a` to `b` round a ring. -/
def ringDist (depth a b : Nat) : Nat := (b + depth - a) % depth

/-- How many entries the next fetch of queue `q` asks for (R47). -/
def State.fetchCount (s : State) (q : Nat) : Nat :=
  let x := s.queue q
  let d := s.sqDepth q
  min (min 64 (ringDist d x.fetchNext x.sqTail))
    (min (256 - ringDist d x.sqHead x.fetchNext) (d - x.fetchNext))

/-- The error of a queue context met while fetching or parsing (cause 3) or completing (cause 4) faults the queue
(R448). -/
def State.meetContext (s : State) (q cause : Nat) : Bool × State :=
  let r := s.useEntry 0 (mlogAddr 0 q 0) 32
  if r.1 then (true, r.2.faultQueue q cause) else (false, r.2)

/-- The stream pair of a queue (R342). -/
def State.queuePair (s : State) (q : Nat) : Nat := q % s.build.pairs

/-- The host reads of the next fetch of queue `q` (R47, R345): address and length. -/
def State.fetchReads (s : State) (q : Nat) : List (Nat × Nat) :=
  let n := s.fetchCount q
  splitRange (n + 1) s.mrrs (s.sqBase q + 64 * (s.queue q).fetchNext) (64 * n)

/-- Queue `q` asks for entries (R47): it is ACTIVE, has unread entries and room for them, and its reads find tags. -/
def State.wantsSq (s : State) (q : Nat) : Bool :=
  (s.queue q).st == .active && !s.qPush q && s.mayIssue && s.fetchCount q != 0 &&
    decide ((s.fetchReads q).length ≤ s.freeReqTags)

/-- The block fetches entries of queue `q` (R47). -/
def State.fetchSq (s : State) (q : Nat) : State :=
  let m := s.meetContext q 3
  if m.1 then m.2
  else
    let s := m.2
    let ps := s.fetchReads q
    let n := s.fetchCount q
    let s := s.modQueue q (fun x => { x with fetchNext := (x.fetchNext + n) % s.sqDepth q })
    ps.foldl (fun (s : State) (p : Nat × Nat) =>
      s.issueRead (s.queuePair q) (.sqFetch q ((p.1 - s.sqBase q) / 64) (p.2 / 64)) (BitVec.ofNat 64 p.1) p.2) s

/-- SQ entries arrive from host memory. -/
def State.sqArrive (s : State) (q i : Nat) (data : List Byte) : State :=
  if (s.queue q).st = .active then
    ((pieces (data.length + 1) 64 data).zipIdx).foldl (fun (s : State) (p : List Byte × Nat) =>
      s.modQueue q (fun x => { x with fetched := SMap.insert x.fetched (i + p.2) (packetOf p.1) })) s
  else s

/-- The ACTIVE queue bound to push window `w`. -/
def State.windowQueue (s : State) (w : Nat) : Option Nat :=
  (s.queues.find? (fun e => e.2.st == .active && s.qPush e.1 && s.qWindow e.1 == w)).map Prod.fst

/-- A mask of bytes `off` to `off + n - 1` of a slot. -/
def byteMask (off n : Nat) : BitVec 64 := BitVec.ofNat 64 ((2 ^ n - 1) * 2 ^ off)

/-- The bits of bytes `off` to `off + n - 1` of a packet. -/
def packetMask (off n : Nat) : Packet := BitVec.ofNat 512 ((2 ^ (8 * n) - 1) * 2 ^ (8 * off))

/-- Bytes written into a push slot; it captures when all 64 have been written (R49). -/
def PushSlot.write (x : PushSlot) (off : Nat) (l : List Byte) : PushSlot :=
  let d := (x.data &&& ~~~(packetMask off l.length)) ||| BitVec.ofNat 512 (leNat l * 2 ^ (8 * off))
  let m := x.written ||| byteMask off l.length
  if m = BitVec.allOnes 64 then { written := 0, data := d, captured := true }
  else { written := m, data := d, captured := false }

/-- A write to push window `w` (R48 to R50): none where it is a register violation. -/
def State.pushWrite (s : State) (w off : Nat) (l : List Byte) : Option State :=
  let n := l.length
  match s.windowQueue w with
  | none => none
  | some q =>
    if [4, 8, 16, 32, 64].contains n && off % n == 0 && decide (off + n ≤ 4096) then
      let k := 64 * w + off / 64
      let x := s.pushSlot k
      if x.captured then some (s.setBit (qcAt q + 0x1C) 8 true)
      else some (s.setPushSlot k (x.write (off % 64) l))
    else none

/-- Byte 11 of a CQ entry (R59). -/
def State.entryFlags (s : State) (q : Nat) (c : Completion) : Nat :=
  ofBool (s.deferred.any (fun d => d.sqid == q)) + 2 * ofBool c.replayed + 4 * ofBool c.stagedAck +
    8 * ofBool c.forwarded

/-- The 16 bytes of a CQ entry as it is written (R59). -/
def State.entryBytes (s : State) (q : Nat) (c : Completion) : List Byte :=
  let x := s.queue q
  leBytes 4 c.info.toNat ++ leBytes 2 x.sqHead ++ leBytes 2 (q + ofBool x.phase * 2 ^ 15) ++ leBytes 2 c.cid.toNat ++
    leBytes 1 c.status.code ++ leBytes 1 (s.entryFlags q c) ++
    leBytes 2 (match c.tag with | some t => t | none => 2 ^ 15) ++ leBytes 2 (c.veer % 16 + c.assists % 8 * 16)

/-- The vector of queue `q` falls due when enough entries wait for a message (R63). -/
def State.coalesce (s : State) (q : Nat) : State :=
  let need := max 1 (s.fld (qcAt q + 0x18) 23 16)
  if s.bit (qcAt q + 0x14) 20 && decide (need ≤ (s.queue q).unsignalled) then
    (s.modQueue q (fun x => { x with unsignalled := 0 })).askMsix (s.fld (qcAt q + 0x14) 31 21)
  else s

/-- Queue `q` has a completion to write, and its CQ has room (R61). -/
def State.wantsCq (s : State) (q : Nat) : Bool :=
  let x := s.queue q
  !x.due.isEmpty && (x.st == .active || x.st == .draining) && !s.cqFull q && s.mayIssue

/-- The stream pair that the next completion of queue `q` is written on: that of its data (R62). -/
def State.entryPair (s : State) (q : Nat) : Nat :=
  match (s.queue q).due with
  | { hasData := some p, .. } :: _ => p
  | _ => s.queuePair q

/-- The oldest committed completion of queue `q` is written to its CQ (R60 to R63). -/
def State.writeEntry (s : State) (q : Nat) : State :=
  let x := s.queue q
  match x.due with
  | [] => s
  | c :: rest =>
    if !s.wantsCq q then s
    else
      let m := s.meetContext q 4
      if m.1 then m.2
      else
        let pair := s.entryPair q
        let s := m.2
        let s := s.sendWrite pair (BitVec.ofNat 64 (s.cqBase q + 16 * x.cqTail)) (s.entryBytes q c) []
        let next := (x.cqTail + 1) % s.cqDepth q
        let s := s.modQueue q (fun y => { y with
          due := rest, cqTail := next, phase := if next = 0 then !y.phase else y.phase
          unsignalled := y.unsignalled + 1, cfgSeen := s.reg (qcAt q + 0x14), extSeen := s.reg (qcAt q + 0x18) })
        let s := if s.bit (qcAt q + 0x14) 20 then s.carry1 (s.fld (qcAt q + 0x14) 31 21) pair else s
        (s.coalesce q).entryGone q c

/-- A queue number of the block. -/
def queueOk (q : Nat) : Bool := decide (q < 32768)

/-- QUEUE_CREATE (R40). -/
def execQueueCreate (q : Nat) (s : State) : Host.Outcome State Fault Refusal :=
  if s.asleep then .next (s.holdRequest (.queueCreate q) .access)
  else if s.serving && queueOk q then .next (s.createQueue q) else .next s

/-- QUEUE_DELETE (R42). -/
def execQueueDelete (q : Nat) (s : State) : Host.Outcome State Fault Refusal :=
  if s.asleep then .next (s.holdRequest (.queueDelete q) .access)
  else if s.serving && queueOk q then .next (s.deleteQueue q) else .next s

/-- QUEUE_DRAIN_END (R42): the state becomes DISABLED. -/
def execQueueDrainEnd (q : Nat) (s : State) : Host.Outcome State Fault Refusal :=
  if s.hostWorks && queueOk q && s.drained q then
    .next (s.modQueue q (fun x => { x with st := .disabled, discard := false }))
  else .next s

/-- SQ_TAIL_DOORBELL (R46). -/
def execSqTailDoorbell (q : Nat) (val : Word) (s : State) : Host.Outcome State Fault Refusal :=
  if s.asleep then .next (s.holdRequest (.sqTailDoorbell q val) .access)
  else if s.serving && queueOk q then .next (s.sqDoorbell q val) else .next s

/-- CQ_HEAD_DOORBELL (R61). -/
def execCqHeadDoorbell (q : Nat) (val : Word) (s : State) : Host.Outcome State Fault Refusal :=
  if s.asleep then .next (s.holdRequest (.cqHeadDoorbell q val) .access)
  else if s.serving && queueOk q then .next (s.cqDoorbell q val) else .next s

/-- PUSH_WINDOW_WRITE (R48): a write that breaks the protocol is a register violation of kind 3. -/
def execPushWindowWrite (w off : Nat) (data : List Byte) (s : State) : Host.Outcome State Fault Refusal :=
  if s.asleep then .next (s.holdRequest (.pushWindowWrite w off data) .access)
  else if s.serving && decide (w < 1024) then
    match s.pushWrite w off data with
    | some t => .next t
    | none => .next ((s.violate 3 2 (0x400000 + w * 0x1000 + off) data.length true false 0).raise 832)
  else .next s

/-- COALESCING_TIMEOUT (R63): the vector, irq_en and coal_time of the last completion written count, since a change applies
from the next one (R39). -/
def execCoalescingTimeout (q : Nat) (s : State) : Host.Outcome State Fault Refusal :=
  let x := s.queue q
  if s.hostWorks && queueOk q && bitOf x.cfgSeen.toNat 20 && wfld x.extSeen 31 24 != 0 && decide (0 < x.unsignalled) then
    .next ((s.modQueue q (fun x => { x with unsignalled := 0 })).askMsix (wfld x.cfgSeen 31 21))
  else .next s

end Sys2Proof.Machine
end

