-- ==== Sys2Proof/Machine/Checks.lean ====
section
/-! DEFINITION. The checks of a packet at parse (R55, R56, R77 to R79, R545, and the checks that each opcode adds). -/

namespace Sys2Proof.Machine
open Sys2Proof

/-- A failing offset when a test holds. -/
def failIf (b : Bool) (off : Nat) : List Nat := if b then [off] else []

/-- The header fields that an opcode uses (R79). -/
structure Uses where
  data : Bool
  list : Bool
  len : Bool
  md : Bool
  sd : Bool
  level : Bool
  size : Bool
  ptype : Bool
  deriving DecidableEq, Repr

/-- The header fields that each opcode uses. -/
def Opcode.uses (o : Opcode) : Uses :=
  match o with
  | .readPage | .readQuarter | .readRebuild => ⟨true, true, true, true, true, true, true, true⟩
  | .readRaw => ⟨true, true, true, false, false, false, false, true⟩
  | .programPage => ⟨true, true, true, true, false, true, true, false⟩
  | .programRaw => ⟨true, true, true, false, false, false, false, false⟩
  | .reprogramHeld => ⟨false, false, false, false, false, true, true, false⟩
  | .copyPage => ⟨false, false, false, false, true, true, true, true⟩
  | .readParameterPage => ⟨true, true, true, false, false, false, false, false⟩
  | .getDeferred => ⟨true, false, true, false, false, false, false, false⟩
  | .runRoutine => ⟨true, true, true, false, false, false, false, false⟩
  | .stripeParity => ⟨false, false, false, false, true, true, true, false⟩
  | _ => ⟨false, false, false, false, false, false, false, false⟩

/-- The bits of byte `i` of bytes 48 to 63 that an opcode defines. -/
def Opcode.byteUse (o : Opcode) (i : Nat) : Nat :=
  match o with
  | .readPage => if i = 48 then 0x3F else 0
  | .readRebuild => if i = 48 then 0x3F else 0
  | .readQuarter => if i = 48 then 0x1F else 0
  | .readRaw => if i = 48 then 0xCF else if i = 52 ∨ i = 53 then 0xFF else 0
  | .programPage => if i = 48 then 3 else if i = 49 then 0xFF else if i = 50 then 0x1F else 0
  | .programRaw => 0
  | .reprogramHeld => if i = 48 then 0xFF else if i = 49 then 0x3F else if i = 50 then 1 else 0
  | .releaseFrame => if i = 48 then 0xFF else if i = 49 then 0x3F else 0
  | .copyPage => if i = 48 then 0x1F else if 56 ≤ i then 0xFF else 0
  | .eraseBlock => if i = 48 then 1 else 0
  | .getFeature => if i = 48 then 0xFF else 0
  | .setFeature => if i = 48 ∨ (52 ≤ i ∧ i < 56) then 0xFF else 0
  | .readParameterPage => if i = 48 ∨ i = 49 then 0xFF else 0
  | .resetTarget => if i = 48 then 0xFF else 0
  | .abort => if i = 48 ∨ i = 50 ∨ i = 51 then 0xFF else if i = 49 then 0x7F else 0
  | .fence => 0
  | .getDeferred => if i = 48 ∨ i = 49 then 0xFF else 0
  | .survey => if i = 48 then 7 else 0
  | .calibrate => if i = 48 then 1 else 0
  | .selfTest => if i = 48 then 0xFF else 0
  | .runRoutine => if i = 48 then 0x3F else if i = 49 then 1 else if 52 ≤ i then 0xFF else 0
  | .stripeParity => if i = 48 ∨ i = 49 ∨ i = 50 ∨ 56 ≤ i then 0xFF else 0

/-- The opcode takes a tagless slot (R57). -/
def Opcode.tagless (o : Opcode) : Bool :=
  match o with
  | .abort | .fence | .getDeferred | .selfTest => true
  | _ => false

/-- The opcode is allowed on the admin queue only (R35). -/
def Opcode.admin (o : Opcode) : Bool :=
  match o with
  | .calibrate | .selfTest | .survey | .getDeferred => true
  | _ => false

/-- The opcode names only a target or a channel (R77). -/
def Opcode.lunOnly (o : Opcode) : Bool :=
  match o with
  | .getFeature | .setFeature | .readParameterPage | .resetTarget | .survey | .calibrate => true
  | _ => false

/-- The lowest sub-field of an address word at `base` that holds a set bit of `w` (R545). -/
def subField (base : Nat) (w : Nat) : List Nat :=
  if w % 2 ^ 12 ≠ 0 then [base] else if w % 2 ^ 16 ≠ 0 then [base + 1] else if w % 2 ^ 32 ≠ 0 then [base + 2]
  else if w % 2 ^ 52 ≠ 0 then [base + 4] else if w ≠ 0 then [base + 6] else []

/-- The failing sub-fields of a page address at packet offset `base` (R55): LUN, plane and quarter, page, block,
reserved bits. -/
def State.addrFails (s : State) (base : Nat) (a : Addr) (quarterOk : Bool) : List Nat :=
  let ch := aCh a
  let t := targetOf (aLun a)
  if s.lunFound ch (aLun a) then
    failIf (decide (s.tgtPlanes ch t ≤ aPlane a) || (aQuarter a != 0 && !quarterOk)) (base + 1) ++
      failIf (decide (s.tgtPages ch t ≤ aPage a)) (base + 2) ++ failIf (decide (s.tgtBlocks ch t ≤ aBlock a)) (base + 4) ++
      failIf (afld a 63 52 != 0) (base + 6)
  else base :: failIf (afld a 63 52 != 0) (base + 6)

/-- The address word in bytes 56 to 63, one field that lies at 56, fails as a page address (R545). -/
def State.secondFails (s : State) (p : Packet) : List Nat := failIf (!(s.addrFails 8 (pkAddr2 p) false).isEmpty) 56

/-- The failing fields of an address word that names a target or a channel (R77). -/
def State.lunFails (s : State) (o : Opcode) (a : Addr) : List Nat :=
  failIf (!s.lunFound (aCh a) (aLun a) || ((o == .survey || o == .calibrate) && aLun a != 0)) 8 ++
    subField 8 (afld a 63 12 * 2 ^ 12)

/-- The failing fields of page size and level on a target (R124). -/
def State.geoFails (s : State) (ch t size level levelOff : Nat) (quarter : Bool) : List Nat :=
  if size = 3 then []
  else if s.tgtPage ch t < size then [5]
  else failIf (decide (s.tgtRoom ch t < pageBytes size (quarter && size == 2) level)) levelOff

/-- The failing fields of the header that do not depend on other state (R54, R79). -/
def headerFails (o : Opcode) (p : Packet) : List Nat :=
  let u := o.uses
  let z := fun (used : Bool) (v : Nat) (off : Nat) => failIf (!used && v != 0) off
  failIf (pdw p 0 15 11 != 0) 1 ++ failIf (pdw p 1 7 3 != 0) 4 ++ failIf (pdw p 1 15 10 != 0 || pkSize p == 3) 5 ++
    failIf (pdw p 1 23 19 != 0 || decide (4 < pkType p)) 6 ++ failIf (pkByte p 7 != 0) 7 ++
    failIf (ple p 28 4 != 0) 28 ++
    z u.list (ofBool (pkList p)) 1 ++ z u.data (ple p 16 8) 16 ++
    failIf (u.list && pkList p && ple p 16 8 % 16 != 0) 16 ++ z u.len (pkLen p) 24 ++
    z u.md (ofBool (pkMd p)) 1 ++ failIf (ple p 32 8 != 0 && !(u.md && pkMd p)) 32 ++
    z u.sd (ofBool (pkSd p)) 1 ++ failIf (ple p 40 8 != 0 && !(u.sd && pkSd p)) 40 ++
    failIf (pkSd p && ple p 40 8 % 64 != 0) 40 ++
    z u.level (pkLevel p) 4 ++ z u.size (pkSize p) 5 ++ z u.ptype (pkType p) 6 ++
    ((countUp 48 16).filter (fun i => bits (pkByte p i) 7 0 &&& (255 - o.byteUse i) != 0))

/-- The bytes that a read or program of a page size must move. -/
def lengthFails (p : Packet) : List Nat := failIf (pkSize p != 3 && pkLen p != sizeBytes (pkSize p)) 24

/-- The frame that a REPROGRAM_HELD or RELEASE_FRAME names. -/
def pkFrame (p : Packet) : Nat := pdw p 12 13 0

/-- A held frame that no accepted command names (R99, R101). -/
def State.heldFree (s : State) (f : Nat) : Bool :=
  decide (f < 64 * s.nch) && (s.frame f).st == .held && (s.frame f).named.isNone

/-- The checks of a contribution (R117). -/
def State.memberFails (s : State) (p : Packet) : List Nat :=
  if bitOf (pkByte p 48) 1 then
    let a := s.acc (pkByte p 49)
    let m := pdw p 12 20 16
    match a.st, a.desc with
    | .opened, some d =>
      if d.dataCount ≤ m || bitOf a.used.toNat m then [50]
      else failIf (nth d.members m 0 != pkAddr p) 8
    | _, _ => [49]
  else failIf (pkByte p 49 != 0) 49 ++ failIf (pkByte p 50 != 0) 50

/-- The checks of STRIPE_PARITY (R115, R116, R119). -/
def State.stripeFails (s : State) (p : Packet) : List Nat :=
  let a := s.acc (pkByte p 49)
  let mode := pkByte p 48
  let pc := pkByte p 50
  if mode = 0 then
    failIf (!pkSd p) 1 ++ failIf (a.st != .closed) 49 ++ failIf (pc != 1 && pc != 2) 50 ++
      (if pc = 2 then s.secondFails p ++
        (if s.lunFound (aCh (pkAddr2 p)) (aLun (pkAddr2 p)) then
          s.geoFails (aCh (pkAddr2 p)) (targetOf (aLun (pkAddr2 p))) (pkSize p) (pkLevel p) 4 false else [])
       else failIf (pc == 1 && pkAddr2 p != 0) 56)
  else if mode ≤ 2 then
    if a.st = .opened then
      let q := if a.count = 2 then a.qAddr else 0
      failIf (pkAddr p != a.pAddr) 8 ++ failIf (pc != 0 && pc != a.count) 50 ++
        failIf (pkAddr2 p != 0 && pkAddr2 p != q) 56 ++ failIf (pkSdPtr p != 0 && pkSdPtr p != a.sdPtr) 40 ++
        failIf (pkLevel p != a.level) 4 ++ failIf (pkSize p != a.pageSize) 5
    else [49]
  else [48]

/-- The entry of a channel's store that a RUN_ROUTINE names is valid and callable (R113, R181). -/
def State.callable (s : State) (ch e : Nat) : Bool :=
  let c := s.chan ch
  match c.store, c.image with
  | .loaded, some i =>
    let w := SMap.getD i.entries e 0
    decide (32 ≤ e) && bitOf w.toNat 11 && bitOf w.toNat 12
  | _, _ => false

/-- The feature addresses that the block owns (R131). -/
def ownedFeature (f : Nat) : Bool := [0x01, 0x02, 0x10, 0x20, 0x21, 0x22, 0x23, 0xE8].contains f

/-- The checks that an opcode adds, the addressed LUN being found (R82 to R115, R262, R271). -/
def State.opcodeFails (s : State) (o : Opcode) (p : Packet) : List Nat :=
  let a := pkAddr p
  let ch := aCh a
  let t := targetOf (aLun a)
  let found := s.lunFound ch (aLun a)
  let typeBad := failIf (found && decide (pkType p ≤ 4) && !s.typeOk ch t (pkType p)) 6
  let geo := fun (quarter : Bool) => if found then s.geoFails ch t (pkSize p) (pkLevel p) 4 quarter else []
  let b48 := pkByte p 48
  match o with
  | .readPage => typeBad ++ lengthFails p ++ failIf (bitOf b48 5 && pkSize p != 2) 48 ++ geo (bitOf b48 5)
  | .readRebuild =>
    failIf (!pkSd p) 1 ++ typeBad ++ lengthFails p ++ failIf (bitOf b48 5 && pkSize p != 2) 48 ++ geo (bitOf b48 5)
  | .readQuarter =>
    typeBad ++ failIf (pkSize p != 2) 5 ++ failIf (pkLen p != 4096) 24 ++
      (if pkSize p = 2 then geo true else [])
  | .readRaw =>
    let len := pkLen p
    let x := s.ladderOf a (pkType p)
    typeBad ++ failIf (len == 0 || decide (20480 < len) || (found && decide (s.tgtRoom ch t < ple p 52 2 + len))) 24 ++
      failIf (b48 / 64 == 3 || (b48 / 64 == 2 && found && decide (s.steps x ≤ b48 % 16))) 48
  | .programPage =>
    lengthFails p ++ failIf (bitOf b48 0 && pkSize p != 2) 48 ++ s.memberFails p ++ geo (bitOf b48 0)
  | .programRaw =>
    failIf (pkLen p == 0 || decide (20480 < pkLen p) || (found && decide (s.tgtRoom ch t < pkLen p))) 24
  | .reprogramHeld =>
    let f := pkFrame p
    geo (bitOf (pkByte p 50) 0) ++
      (if s.heldFree f then
        let x := s.frame f
        failIf (f / 64 != ch) 8 ++
          (match x.rawLen with
           | some _ => failIf (pkLevel p != 0) 4 ++ failIf (pkSize p != 0) 5 ++ failIf (pkByte p 50 != 0) 50
           | none => failIf (pkSize p != x.pageSize) 5 ++ failIf (bitOf (pkByte p 50) 0 && pkSize p != 2) 50)
       else [48])
  | .releaseFrame =>
    let f := pkFrame p
    if s.heldFree f then
      let b := match (s.frame f).bind with | some b => some b | none => (s.frame f).lastBind
      failIf (b != some a) 8
    else [48]
  | .copyPage =>
    let src := pkAddr2 p
    let sch := aCh src
    let st := targetOf (aLun src)
    let sfound := s.lunFound sch (aLun src)
    s.secondFails p ++ geo (bitOf b48 4) ++
      failIf (sfound && decide (pkType p ≤ 4) && !s.typeOk sch st (pkType p)) 6 ++
      failIf ((bitOf b48 3 || bitOf b48 4) && pkSize p != 2) 48 ++
      (if sfound then s.geoFails sch st (pkSize p) (b48 % 8) 48 (bitOf b48 3) else [])
  | .eraseBlock => failIf (aPage a != 0) 10
  | .getFeature => []
  | .setFeature => failIf (ownedFeature b48) 48
  | .readParameterPage =>
    failIf (decide (1 < b48)) 48 ++ failIf (decide (2 < pkByte p 49)) 49 ++
      failIf (if b48 = 0 then pkLen p != 256
              else b48 == 1 && (pkLen p % 16 != 0 || pkLen p == 0 || decide (4096 < pkLen p))) 24
  | .resetTarget => failIf (decide (2 < b48)) 48
  | .abort => []
  | .fence => []
  | .getDeferred => failIf (pkLen p == 0 || pkLen p % 32 != 0) 24
  | .survey => []
  | .calibrate => []
  | .selfTest => failIf (decide (2 < b48) || (if b48 = 2 then !s.test.running else s.test.running)) 48
  | .runRoutine => failIf (found && !s.callable ch (b48 % 64)) 48
  | .stripeParity =>
    s.stripeFails p ++ geo false

/-- The failing fields of check 2 of R56. -/
def State.fieldFails (s : State) (o : Opcode) (p : Packet) : List Nat :=
  headerFails o p ++
    (if o.tagless then subField 8 (pkAddr p).toNat
     else if o.lunOnly then s.lunFails o (pkAddr p)
     else s.addrFails 8 (pkAddr p) (o == .readQuarter)) ++
    s.opcodeFails o p

/-- The pages that a program-type command programs (R155). -/
def State.progPages (s : State) (p : Packet) : List Addr :=
  if isProgramType p then
    match pkOpcode p with
    | some .stripeParity =>
      let a := s.acc (pkByte p 49)
      if a.count = 2 then [pkAddr p, a.qAddr] else [pkAddr p]
    | _ => [pkAddr p]
  else []

/-- The bays that check 4 looks at: that of the addressed page, and of the Q page of an open or close (R56, R257). -/
def State.bayList (s : State) (o : Opcode) (p : Packet) : List Nat :=
  aCh (pkAddr p) / 8 ::
    (if o = .stripeParity then
      (if pkByte p 48 = 0 then (if pkByte p 50 = 2 then [aCh (pkAddr2 p) / 8] else [])
       else if pkByte p 48 = 1 then
         (if (s.acc (pkByte p 49)).count = 2 then [aCh (s.acc (pkByte p 49)).qAddr / 8] else [])
       else [])
     else [])

/-- A bay is present and powered. -/
def State.bayOn (s : State) (b : Nat) : Bool := (s.bay b).st == .on

/-- The outcome of the checks of R56. -/
inductive Verdict where
  | fail (st : Status) (info : Nat)
  | order (a : Addr) (pointer : Nat)
  | pass (absent : Bool)
  deriving DecidableEq, Repr

/-- The read goes to rebuild when its bay is absent (R56, R88). -/
def readRebuilds (o : Opcode) (p : Packet) : Bool :=
  match o with
  | .readPage | .readQuarter | .readRebuild => pkSd p
  | _ => false

/-- The checks of R56 in order. -/
def State.verdict (s : State) (q : Nat) (p : Packet) : Verdict :=
  match pkOpcode p with
  | none => .fail .invalidOpcode 0
  | some o =>
    if o.admin && q != 0 then .fail .invalidOpcode 0
    else
      match leastBy (fun n => n) (s.fieldFails o p) with
      | some off => .fail .invalidField off
      | none =>
        if o.tagless then .pass false
        else
          let ch := aCh (pkAddr p)
          if o = .releaseFrame then .pass false
          else if (s.chan ch).fenced then .fail .channelFenced ch
          else
            match (s.bayList o p).find? (fun b => !s.bayOn b) with
            | some b => if readRebuilds o p then .pass true else .fail .targetAbsent b
            | none =>
              match (s.progPages p).find? (fun a => (s.obtViolates a).isSome) with
              | some a => .order a ((s.obtViolates a).getD 0)
              | none => .pass false

end Sys2Proof.Machine
end

