-- ==== Sys2Proof/Machine/Dma.lean ====
section
/-! DEFINITION. DMA engines: working descriptors, loops, lists, bursts, pacing, records, halts and the data
phases of packets (R22, R296 to R328, R491). A global channel number is `64 * engine + channel`. -/

namespace Sys2Proof.Machine
open Sys2Proof

/-- The registers of global DMA channel `g`. -/
def dmaAt (g : Nat) : Nat := 0x100000 + g * 0x400

/-- The registers of engine `e`. -/
def engAt (e : Nat) : Nat := 0x180000 + e * 0x1000

/-- The registers of ring `k`. -/
def ringAt (k : Nat) : Nat := 0x190000 + k * 0x100

/-- One side of a descriptor (R300). -/
structure Side where
  base : Nat
  steps : List Int
  frame : Bool
  list : Bool
  deriving DecidableEq, Repr

/-- A working descriptor (R300). -/
structure Desc where
  src : Side
  dst : Side
  c0 : Nat
  c1 : Nat
  c2 : Nat
  swap : Nat
  elem : Nat
  record : Bool
  ring : Nat
  next : Nat
  rsv : Bool
  deriving DecidableEq, Repr

/-- The 64 bytes of the working descriptor of channel `g`. -/
def State.descBytes (s : State) (g : Nat) : Packet :=
  BitVec.ofNat 512 ((countUp 0 16).foldl (fun a j => a + (s.reg (dmaAt g + 4 * j)).toNat * 2 ^ (32 * j)) 0)

/-- A descriptor from its 64 bytes (R300). -/
def Desc.ofBytes (p : Packet) : Desc :=
  let w := fun (hi lo : Nat) => pdw p 7 hi lo
  let st := fun (off : Nat) => (countUp 0 3).map (fun i => signedOf 32 (ple p (off + 4 * i) 4))
  { src := { base := ple p 0 8, steps := st 32, frame := w 0 0 == 1, list := w 2 2 == 1 }
    dst := { base := ple p 8 8, steps := st 44, frame := w 1 1 == 1, list := w 3 3 == 1 }
    c0 := ple p 16 3 + 1, c1 := ple p 20 3 + 1, c2 := ple p 24 3 + 1, swap := w 5 4, elem := w 9 6
    record := w 10 10 == 1, ring := w 16 11, next := ple p 56 8
    rsv := pkByte p 19 != 0 || pkByte p 23 != 0 || pkByte p 27 != 0 || w 31 17 != 0 }

/-- The working descriptor of channel `g`. -/
def State.desc (s : State) (g : Nat) : Desc := Desc.ofBytes (s.descBytes g)

/-- Element size. -/
def Desc.size (d : Desc) : Nat := 2 ^ d.elem

/-- Bytes of a descriptor (R303). -/
def Desc.total (d : Desc) : Nat := d.size * d.c0 * d.c1 * d.c2

/-- Bytes of one pass of the inner loop. -/
def Desc.pass (d : Desc) : Nat := d.size * d.c0

/-- The size of a swap group (R309). -/
def Desc.group (d : Desc) : Nat := if d.swap = 0 then 1 else if d.swap = 1 then 2 else 4

/-- A ring is in use. -/
def State.ringOn (s : State) (k : Nat) : Bool := s.bit (ringAt k + 0xC) 0

/-- A descriptor breaks the format (R301); a list must be 16-byte aligned (R308). -/
def State.badFormat (s : State) (d : Desc) : Bool :=
  d.rsv || decide (12 < d.elem) || (d.swap == 1 && d.elem == 0) || (decide (2 ≤ d.swap) && decide (d.elem < 2)) ||
    (d.src.list && d.dst.list) || (d.record && !s.ringOn d.ring) || d.next % 64 != 0 ||
    (d.src.list && d.src.base % 16 != 0) || (d.dst.list && d.dst.base % 16 != 0)

/-- The address of stream byte `p` on a side that uses no list (R303). -/
def Desc.addr (d : Desc) (x : Side) (p : Nat) : Nat :=
  let n := p / d.size
  let i : Int := ((n % d.c0 : Nat) : Int)
  let j : Int := ((n / d.c0 % d.c1 : Nat) : Int)
  let k : Int := ((n / (d.c0 * d.c1) : Nat) : Int)
  (((x.base + p % d.size : Nat) : Int) + i * nth x.steps 0 0 + j * nth x.steps 1 0 + k * nth x.steps 2 0).emod
    (2 ^ 64) |>.toNat

/-- Elements of a side may join in a run (R304): no loop of the side has a negative step, or the inner step is the element
size. A loop of one pass takes no step. -/
def Desc.joins (d : Desc) (x : Side) : Bool :=
  nth x.steps 0 0 == (d.size : Int) ||
    ([d.c0, d.c1, d.c2].zip x.steps).all (fun q => q.1 == 1 || decide (0 ≤ q.2))

/-- Bytes from stream byte `p` that lie at rising addresses, at most `max` (R304). -/
def Desc.run (d : Desc) (x : Side) (fuel p max : Nat) : Nat :=
  match fuel with
  | 0 => 0
  | k + 1 =>
    let left := d.size - p % d.size
    if max ≤ left then max
    else if d.total ≤ p + left then left
    else if d.joins x ∧ d.addr x (p + left) = (d.addr x p + left) % 2 ^ 64 then left + d.run x k (p + left) (max - left)
    else left

/-- The segment of a list that holds stream byte `p`: address, bytes left and space (R308). -/
def segAt (l : List Seg) (p : Nat) : Option (Nat × Nat × Bool) :=
  match l with
  | [] => none
  | x :: r => if p < x.len then some ((x.addr.toNat + p) % 2 ^ 64, x.len - p, x.frame) else segAt r (p - x.len)

/-- Bytes of the segments known. -/
def segTotal (l : List Seg) : Nat := l.foldl (fun a x => a + x.len) 0

/-- Where stream byte `p` lies on a side: address, bytes of its run (at most `max`) and space. -/
def Desc.place (d : Desc) (x : Side) (segs : List Seg) (p max : Nat) : Option (Nat × Nat × Bool) :=
  if x.list then (segAt segs p).map (fun r => (r.1, min max r.2.1, r.2.2))
  else some (d.addr x p, d.run x (max + 1) p max, x.frame)

/-- The burst size of channel `g` (`DMA_CTRL.burst`). -/
def State.burstSize (s : State) (g : Nat) : Nat := 256 * 2 ^ min 4 (s.fld (dmaAt g + 0x40) 12 10)

/-- Packet channels of engine `e` (R297). -/
def State.packetChannels (s : State) (e : Nat) : Nat := min 64 (max 8 (s.fld (engAt e) 6 0))

/-- Channel `c` of engine `e` is offline for packets (R491). -/
def State.offline (s : State) (g : Nat) : Bool := s.arrBit (0x5100 + g / 64 * 8) (g % 64)

/-- The channel serves packets: firmware may not run it (R297); an offline one that runs no data phase is a descriptor
channel (R491). -/
def State.packetChan (s : State) (g : Nat) : Bool :=
  decide (g % 64 < s.packetChannels (g / 64)) && (!s.offline g || (s.dmaChan g).user.isSome)

/-- The stream pair of a channel's engine (R296). -/
def State.dmaPair (s : State) (g : Nat) : Nat := g / 64 % s.build.pairs

/-- The pacing mode of a channel; packet channels are not paced (R314). -/
def State.paceMode (s : State) (g : Nat) : Nat :=
  if (s.dmaChan g).user.isSome then 0
  else
    let m := s.fld (dmaAt g + 0x58) 1 0
    if m = 3 then 0 else m

/-- The credit ceiling (R314). -/
def State.maxCredits (s : State) (g : Nat) : Nat := max 1 (s.fld (dmaAt g + 0x58) 20 17)

/-- `DMA_PACE.unit`. -/
def State.paceUnit (s : State) (g : Nat) : Nat := s.fld (dmaAt g + 0x58) 22 21

/-- The channel has bytes to move. -/
def State.dmaMore (s : State) (g : Nat) : Bool := decide ((s.dmaChan g).moved < (s.desc g).total)

/-- A channel about to start a unit spends a credit, or waits for one (R315). -/
def State.dmaGate (s : State) (g : Nat) : State :=
  let d := s.dmaChan g
  if (d.st == .running || (d.st == .waiting && d.record.isNone)) && d.loaded && d.burst.isNone && s.dmaMore g then
    if s.paceMode g ≠ 0 ∧ d.needCredit then
      if d.credits = 0 then s.setDmaChan g { d with st := .waiting, granted := false, crossGrant := false }
      else s.setDmaChan g { d with st := .running, credits := d.credits - 1, needCredit := false }
    else s.setDmaChan g { d with st := .running }
  else s

/-- A channel at its burst boundary is HELD while Bus Master Enable is clear (R326). -/
def State.dmaHold (s : State) (g : Nat) : State :=
  let d := s.dmaChan g
  if !s.bme && (d.st == .running || d.st == .waiting) && d.burst.isNone then
    s.setDmaChan g { d with st := .held, heldFrom := d.st, granted := false, crossGrant := false }
  else s

/-- Bus Master Enable has changed: channels are held at their burst boundary, or go back to the state they left
(R326). -/
def State.dmaBme (s : State) : State :=
  (s.dma.map Prod.fst).foldl (fun (s : State) g =>
    if s.bme then
      (if (s.dmaChan g).st = .held then
        (s.modDmaChan g (fun d => { d with st := d.heldFrom })).dmaGate g
       else s)
    else s.dmaHold g) s

/-- `DMA_FAULT` is latched. -/
def State.dmaFault (s : State) (g : Nat) (a : Nat) : State :=
  (s.setReg (dmaAt g + 0x48) (BitVec.ofNat 32 a)).setReg (dmaAt g + 0x4C) (BitVec.ofNat 32 (a / 2 ^ 32))

/-- A halt (R299, R322, R324): a descriptor channel waits in HALTED and raises its source; the interpreter ends the
command of a packet channel at once. -/
def State.dmaHalt (s : State) (g : Nat) (st : DmaStatus) : State :=
  let d := s.dmaChan g
  match d.user with
  | some t =>
    let s := s.modDmaChan g (fun d => { d with status := st })
    if st = .hostError then s.stopTag t .hostAccessError (if d.kind = 2 then 2 else if d.isMeta then 1 else 0)
    else s.stopTag t .invalidField 16
  | none =>
    (s.setDmaChan g { d with st := .halted, status := st, granted := false, crossGrant := false }).raise (256 + g)

/-- A read of channel `g` failed at an address: kind 0 data, 1 descriptor, 2 list (R322). -/
def State.dmaError (s : State) (g kind dir a : Nat) : State :=
  ((s.dmaFault g a).modDmaChan g (fun d => { d with kind := kind, dir := dir })).dmaHalt g .hostError

/-- The descriptor in the working registers starts (R301, R302). -/
def State.dmaBegin (s : State) (g : Nat) : State :=
  let d := s.desc g
  let s := s.modDmaChan g (fun c => { c with
    st := .running, loaded := true, loading := none, moved := 0, burst := none, poisoned := false, segs := []
    listNext := if d.src.list then some (BitVec.ofNat 64 d.src.base)
                else if d.dst.list then some (BitVec.ofNat 64 d.dst.base) else none
    listEnd := !d.src.list && !d.dst.list, needCredit := true })
  if s.badFormat d then s.dmaHalt g .format else (s.dmaGate g).dmaHold g

/-- `DMA_DESC`. -/
def State.dmaDesc (s : State) (g : Nat) : Nat :=
  (s.reg (dmaAt g + 0x54)).toNat * 2 ^ 32 + (s.reg (dmaAt g + 0x50)).toNat

/-- Sets `DMA_DESC`. -/
def State.setDmaDesc (s : State) (g a : Nat) : State :=
  (s.setReg (dmaAt g + 0x50) (BitVec.ofNat 32 a)).setReg (dmaAt g + 0x54) (BitVec.ofNat 32 (a / 2 ^ 32))

/-- A write of this channel is ignored. -/
def State.dmaReqError (s : State) (g : Nat) : State := s.setBit (dmaAt g + 0x44) 16 true

/-- The hop limit of a channel's engine (R324). -/
def State.eddyLimit (s : State) (g : Nat) : Nat := max 1 (s.fld (engAt (g / 64)) 31 16)

/-- One hop more, or a halt with CHAIN_LOOP (R324). -/
def State.dmaHop (s : State) (g : Nat) : State :=
  let d := s.dmaChan g
  if s.eddyLimit g < d.hops + 1 then (s.dmaFault g d.lastLoaded.toNat).dmaHalt g .chainLoop
  else s.setDmaChan g { d with hops := d.hops + 1 }

/-- `DMA_CTRL.start` (R297, R302). -/
def State.dmaStart (s : State) (g : Nat) : State :=
  let d := s.dmaChan g
  if s.packetChan g || d.st != .idle then s.dmaReqError g
  else
    let s := s.setDmaChan g { DmaChan.init with
      st := .running, status := d.status, kind := d.kind, dir := d.dir
      hops := 0, credits := min (s.maxCredits g) (s.fld (dmaAt g + 0x58) 16 13) }
    if s.bit (dmaAt g + 0x40) 4 then
      (s.modDmaChan g (fun d => { d with loading := some (BitVec.ofNat 64 (s.dmaDesc g / 64 * 64)) })).dmaHold g
    else (s.setDmaDesc g 0).dmaBegin g

/-- Room for one more record in ring `k` (R318). -/
def State.ringSize (s : State) (k : Nat) : Nat := max 1 (s.fld (ringAt k + 8) 15 0) + 1

/-- The ring is full. -/
def State.ringFull (s : State) (k : Nat) : Bool :=
  ((s.ring k).tail + 1) % s.ringSize k == s.fld (ringAt k + 0x10) 15 0

/-- The code of a DMA status (R317). -/
def DmaStatus.code (t : DmaStatus) : Nat :=
  match t with
  | .ok => 0 | .aborted => 1 | .hostError => 2 | .chainLoop => 3 | .listShort => 4 | .format => 5 | .frameDenied => 6
  | .dataPoisoned => 7

/-- The code of a DMA state (R319). -/
def DmaState.code (t : DmaState) : Nat :=
  match t with
  | .idle => 0 | .running => 1 | .waiting => 2 | .held => 3 | .halted => 4

/-- The 32 bytes of a record (R317). -/
def State.recordBytes (s : State) (g k : Nat) (r : DmaRecord) : List Byte :=
  leBytes 8 r.desc.toNat ++ leBytes 8 s.now ++ leBytes 4 (min r.bytes 0xFFFFFFFF) ++ leBytes 2 g ++
    leBytes 1 r.status.code ++
    leBytes 1 (ofBool (s.ring k).phase + 2 * ofBool r.ended + 4 * ofBool r.aborted) ++ leBytes 8 r.fault.toNat

/-- The number of a shared path. -/
def pathNo (p : WheelPath) : Nat :=
  match p with
  | .pair k => k
  | .crossbar => 8
  | .tables => 9
  | .records => 10

/-- `n` slots of a path have been given. -/
def State.slotsGone (s : State) (p : WheelPath) (n : Nat) : State :=
  { s with wheels := SMap.setD s.wheels (pathNo p) ((SMap.getD s.wheels (pathNo p) 0 + n) % 16) 0 }

/-- A record is written at the ring's tail, in a slot of its stream pair (R22), and its vector may fall due (R318). -/
def State.putRecord (s : State) (g k : Nat) (r : DmaRecord) : State :=
  let s := s.slotsGone (.pair (s.dmaPair g)) 1
  let x := s.ring k
  let base := (s.reg (ringAt k + 4)).toNat * 2 ^ 32 + (s.reg (ringAt k)).toNat
  let v := s.fld (ringAt k + 0xC) 31 21
  let s := s.sendWrite (s.dmaPair g) (BitVec.ofNat 64 (base + 32 * x.tail)) (s.recordBytes g k r) []
  let next := (x.tail + 1) % s.ringSize k
  let s := (s.setRing k { x with tail := next, phase := if next = 0 then !x.phase else x.phase, since := x.since + 1 })
  let s := if s.bit (ringAt k + 0xC) 20 then s.carry1 v (s.dmaPair g) else s
  if s.bit (ringAt k + 0xC) 20 && decide (max 1 (s.fld (ringAt k + 0xC) 15 8) ≤ (s.ring k).since) then
    (s.modRing k (fun x => { x with since := 0 })).askMsix v
  else s

/-- A pacing credit reaches channel `g` (R314). -/
def State.dmaCredit (s : State) (g : Nat) : State :=
  ((s.modDmaChan g (fun d => { d with credits := min (s.maxCredits g) (d.credits + 1) })).dmaGate g).dmaHold g

/-- Channels of an engine that are paced by a test. -/
def State.creditAll (s : State) (e : Nat) (p : Nat → Bool) : State :=
  ((countUp (64 * e) 64).filter (fun g => (s.dmaChan g).st != .idle && p g)).foldl (fun s g => s.dmaCredit g) s

/-- The channel goes on after a descriptor: IDLE, or the load of the next one (R302, R320). -/
def State.dmaNext (s : State) (g : Nat) (ended : Bool) : State :=
  if ended then s.modDmaChan g DmaChan.cleared
  else
    let s := s.modDmaChan g (fun d => { d with
      st := .running, loaded := false, record := none, loading := some (BitVec.ofNat 64 (s.desc g).next) })
    (s.dmaHop g).dmaHold g

/-- The record of the descriptor that ended is written when its ring has room, and the channel goes on (R317, R318). -/
def State.dmaRecord (s : State) (g : Nat) : State :=
  match (s.dmaChan g).record with
  | none => s
  | some r =>
    let k := (s.desc g).ring
    if !s.ringOn k then s.dmaNext g r.ended
    else if s.ringFull k || !s.mayIssue then
      (s.modDmaChan g (fun d => if d.st = .held then { d with heldFrom := .waiting } else { d with st := .waiting })).dmaHold g
    else ((s.putRecord g k r).modDmaChan g (fun d => { d with record := none })).dmaNext g r.ended

/-- A descriptor that channel `g` ends with status OK adds a credit to each channel of its engine that it paces (R314). -/
def State.paceOthers (s : State) (g : Nat) : State :=
  s.creditAll (g / 64) (fun h => s.paceMode h == 2 && s.fld (dmaAt h + 0x58) 12 7 == g % 64)

/-- The descriptor of channel `g` ends with a status (R302, R317, R320, R321). -/
def State.dmaEnd (s : State) (g : Nat) (st : DmaStatus) (aborted : Bool) : State :=
  let d := s.dmaChan g
  let x := s.desc g
  let ended := aborted || d.stop || x.next == 0
  let halt := d.st == .halted
  let fault := (s.reg (dmaAt g + 0x4C)).toNat * 2 ^ 32 + (s.reg (dmaAt g + 0x48)).toNat
  let r : DmaRecord := { desc := BitVec.ofNat 64 (s.dmaDesc g), bytes := d.moved, status := st, ended := ended
                         aborted := aborted, fault := if halt then BitVec.ofNat 64 fault else 0 }
  let s := (s.dropReads g).setDmaChan g { d with
    status := st, burst := none, loading := none, listNext := none, abort := false, granted := false, crossGrant := false }
  let s := s.traceRec 0x30 4 g false (st.code + 16 * ofBool ended + 32 * ofBool aborted +
    2 ^ 32 * min d.moved 0xFFFFFFFF) none
  let s := if st = .ok then s.paceOthers g else s
  if x.record && d.loaded then (s.modDmaChan g (fun d => { d with record := some r })).dmaRecord g
  else s.dmaNext g ended

/-- `DMA_CTRL.abort` (R321): at the next burst boundary, or at once from HALTED. A record that waits for room is still
written, as that of an aborted descriptor (R328). -/
def State.dmaAbort (s : State) (g : Nat) : State :=
  let d := s.dmaChan g
  if s.packetChan g then s.dmaReqError g
  else
    match d.st with
    | .idle => s
    | .halted => s.dmaEnd g d.status true
    | _ =>
      match d.record with
      | some r => s.setDmaChan g { d with
          record := some { r with ended := true, aborted := true, status := if r.aborted then r.status else .aborted }
          status := if r.aborted then d.status else .aborted }
      | none => if d.burst.isSome then s.setDmaChan g { d with abort := true } else s.dmaEnd g .aborted true

/-- `DMA_CTRL.stop` (R320). -/
def State.dmaStop (s : State) (g : Nat) : State :=
  let d := s.dmaChan g
  if d.st = .idle || d.user.isSome then s
  else
    s.setDmaChan g { d with
      stop := true
      record := d.record.map (fun r => { r with ended := true }) }

/-- `DMA_CTRL.resume` (R323). -/
def State.dmaResume (s : State) (g : Nat) : State :=
  let d := s.dmaChan g
  if s.packetChan g || d.st != .halted then s.dmaReqError g
  else
    match d.status with
    | .chainLoop => (s.setDmaChan g { d with st := .running, hops := 1 }).dmaHold g
    | .format | .frameDenied | .listShort => s.dmaBegin g
    | _ => if d.burst.isSome && !s.bme then s.setDmaChan g { d with st := .held, heldFrom := .running }
           else (s.setDmaChan g { d with st := .running }).dmaHold g

/-- The pacing of channel `g` is withdrawn (R316). -/
def State.dmaWithdraw (s : State) (g : Nat) : State :=
  (s.modDmaChan g (fun d => { d with credits := 0, needCredit := true })).dmaGate g

/-- A request of channel `g` of a kind is outstanding. -/
def State.dmaAsked (s : State) (g : Nat) : Bool :=
  s.ep.reqs.any (fun e => e.2.user == .dmaDesc g || e.2.user == .dmaList g)

/-- The next step of a channel on the shared paths. -/
inductive DmaStep where
  | idle
  | desc
  | list
  | read
  | deliver
  deriving DecidableEq, Repr

/-- The frame that a packet channel may touch (R306). -/
def State.chanFrame (s : State) (g : Nat) : Option Nat :=
  match (s.dmaChan g).user with | some t => (s.tag t).frame | none => none

/-- A burst may not touch `n` bytes at frame-space address `a` (R306). A packet's data may also lie in a RESERVED frame
(R198). -/
def State.denied (s : State) (g a n : Nat) : Bool :=
  let f := a / 0x8000
  decide (2 ^ 29 ≤ a) || decide (64 * s.nch ≤ f) || decide (20480 < a % 0x8000 + n) ||
    (match (s.dmaChan g).user with
     | some _ => (s.chanFrame g != some f || (s.frame f).st == .retired) && (s.frame f).st != .reserved
     | none => (s.frame f).st != .reserved)

/-- Source pieces of stream bytes `p` to `hi - 1`: stream position, address, length and space. -/
def Desc.pieces (d : Desc) (segs : List Seg) (fuel p hi : Nat) : List (Nat × Nat × Nat × Bool) :=
  match fuel with
  | 0 => []
  | k + 1 =>
    if hi ≤ p then []
    else
      match d.place d.src segs p (hi - p) with
      | none => []
      | some (a, n, fr) =>
        let n := if fr then min n (0x8000 - a % 0x8000) else n
        if n = 0 then [] else (p, a, n, fr) :: d.pieces segs k (p + n) hi

/-- The length of the burst at stream byte `p` (R310, R315): its run, the burst size, 4 KiB, the end of the frame, and
the end of a paced pass. -/
def State.burstLen (s : State) (g p : Nat) : Nat :=
  let d := s.desc g
  let c := s.dmaChan g
  match d.place d.dst c.segs p (min (d.total - p) 4096) with
  | none => 0
  | some (a, n, fr) =>
    let n := min n (s.burstSize g - a % s.burstSize g)
    let n := if fr then (if a % 0x8000 < 20480 then min n (20480 - a % 0x8000) else n) else min n (4096 - a % 4096)
    if s.paceMode g ≠ 0 ∧ s.paceUnit g = 1 then min n (d.pass - p % d.pass) else n

/-- The stream bytes that a burst reads: whole swap groups (R309). -/
def Desc.span (d : Desc) (pos len : Nat) : Nat × Nat :=
  (pos / d.group * d.group, min d.total (divUp (pos + len) d.group * d.group))

/-- Forwarded reads take the decoded payload, not the frame's bytes (R86). -/
def State.forwardUser (s : State) (g : Nat) : Bool :=
  match (s.dmaChan g).user with | some t => (s.tag t).forwarded | none => false

/-- The burst that channel `g` would start now. -/
def State.planBurst (s : State) (g : Nat) : Burst :=
  let d := s.desc g
  let c := s.dmaChan g
  let len := s.burstLen g c.moved
  let x := d.span c.moved len
  let ps := if s.forwardUser g then [] else d.pieces c.segs (x.2 - x.1) x.1 x.2
  { pos := c.moved, len := len, bytes := [], outstanding := 0, marks := []
    todo := (ps.filter (fun q => !q.2.2.2)).flatMap (fun q =>
      (splitRange (q.2.2.1 + 1) s.mrrs q.2.1 q.2.2.1).map (fun r => (q.1 + (r.1 - q.2.1), r.1 % 2 ^ 64, r.2))) }

/-- The burst in progress, or the one that comes next. -/
def State.curBurst (s : State) (g : Nat) : Burst := (s.dmaChan g).burst.getD (s.planBurst g)

/-- More list entries are needed before the next burst (R308). -/
def State.needsList (s : State) (g : Nat) : Bool :=
  let d := s.desc g
  let c := s.dmaChan g
  if c.listEnd || c.burst.isSome then false
  else if d.dst.list then decide (segTotal c.segs ≤ c.moved)
  else decide (segTotal c.segs < (d.span c.moved (s.burstLen g c.moved)).2)

/-- The frames that a burst touches, with address and length: for a forwarded read also the frame that it is served from
(R71, R306). -/
def State.burstFrames (s : State) (g : Nat) (b : Burst) : List (Nat × Nat) :=
  let d := s.desc g
  let c := s.dmaChan g
  let x := d.span b.pos b.len
  let src := if s.forwardUser g then ((s.chanFrame g).map (fun f => (f * 0x8000, 0))).toList
    else (d.pieces c.segs (x.2 - x.1) x.1 x.2).filterMap (fun q => if q.2.2.2 then some (q.2.1, q.2.2.1) else none)
  src ++ (match d.place d.dst c.segs b.pos b.len with
    | some (a, _, true) => [(a, b.len)]
    | _ => [])

/-- The next step of channel `g`. -/
def State.dmaStep (s : State) (g : Nat) : DmaStep :=
  let c := s.dmaChan g
  if c.st != .running || s.dmaAsked g then .idle
  else if !c.loaded then (if c.loading.isSome && s.mayIssue then .desc else .idle)
  else if c.burst.isNone && !s.dmaMore g then .idle
  else if s.needsList g then (if s.mayIssue then .list else .idle)
  else
    let b := s.curBurst g
    let fs := s.burstFrames g b
    if !(c.burst.isNone && fs.any (fun q => s.denied g q.1 q.2)) &&
        fs.any (fun q => (s.chan (q.1 / 0x8000 / 64)).inReset) then .idle
    else if !b.todo.isEmpty then (if s.mayIssue then .read else .idle)
    else if b.outstanding ≠ 0 then .idle
    else
      match (s.desc g).place (s.desc g).dst c.segs b.pos b.len with
      | some (_, _, false) => if s.mayIssue then .deliver else .idle
      | _ => .deliver

/-- A step needs a slot of the stream pair (R22). -/
def State.wantsPair (s : State) (g : Nat) : Bool :=
  match s.dmaStep g with
  | .idle => false
  | .desc | .list | .read => true
  | .deliver =>
    match (s.desc g).place (s.desc g).dst (s.dmaChan g).segs (s.curBurst g).pos (s.curBurst g).len with
    | some (_, _, fr) => !fr
    | none => false

/-- A step needs a slot of the staging crossbar (R22). -/
def State.wantsCross (s : State) (g : Nat) : Bool :=
  s.dmaStep g == .deliver && !(s.burstFrames g (s.curBurst g)).isEmpty

/-- A burst of the channel has been granted a slot and is in progress. -/
def DmaChan.inBurst (c : DmaChan) : Bool := c.burst.isSome || c.granted || c.crossGrant

/-- The priority of a channel (R24, R313): a change of `DMA_CTRL.priority` waits for the end of a burst in progress. -/
def State.dmaPrio (s : State) (g : Nat) : Nat :=
  let c := s.dmaChan g
  match c.user with
  | some t => if (s.tag t).st = .delivering then 3 else 2
  | none => if c.inBurst then c.prio.getD 0 else s.fld (dmaAt g + 0x40) 9 8

/-- The DMA channels that wait for a slot of a path. -/
def State.pathWaiters (s : State) (p : WheelPath) : List Nat :=
  match p with
  | .pair k => (s.dma.map Prod.fst).filter (fun g => s.dmaPair g == k && !(s.dmaChan g).granted && s.wantsPair g)
  | .crossbar => (s.dma.map Prod.fst).filter (fun g => !(s.dmaChan g).crossGrant && s.wantsCross g)
  | _ => []

/-- Stream bytes `from0` to `to0 - 1` of a forwarded read of tag `t`, and whether they are poisoned: for a raw read the page
as it is sent to the die, for the others the information that the decode gave (R86, R204). -/
def State.forwardStream (s : State) (t : Nat) (isMeta : Bool) (from0 to0 : Nat) : (List Byte × Bool) × State :=
  let x := s.tag t
  match x.opcode, x.frame with
  | some .readRaw, some f => s.framePage f (ple x.packet 52 2 + from0) (to0 - from0)
  | _, _ =>
    let quarter := x.opcode == some .readQuarter || bitOf (pkByte x.packet 48) 5
    let u := (codeCfg (pkSize x.packet) quarter).user
    let l := if isMeta then x.payload.flatMap (fun l => restN u l) else x.payload.flatMap (fun l => firstN u l)
    ((firstN (to0 - from0) (restN from0 l), x.poisoned), s)

/-- The frame pieces of a burst's source are read: their bytes by stream position join those of `b`, and so do the marks of
those that are poisoned (R325). -/
def State.readPieces (s : State) (b : Burst) (l : List (Nat × Nat × Nat × Bool)) :
    (SMap (List Byte) × SMap (List Bool)) × State :=
  l.foldl (fun (p : (SMap (List Byte) × SMap (List Bool)) × State) q =>
    let y := p.2.frameRead (q.2.1 / 0x8000) (q.2.1 % 0x8000) q.2.2.1
    let m := p.2.frameMarks (q.2.1 / 0x8000) (q.2.1 % 0x8000) q.2.2.1
    ((SMap.insert p.1.1 q.1 y.1.1, SMap.insert p.1.2 q.1 m), y.2)) ((b.bytes, b.marks), s)

/-- The source bytes of a burst, in stream order from the start of its span, and which of them are poisoned. -/
def State.burstSource (s : State) (g : Nat) (b : Burst) : (List Byte × List Bool) × State :=
  let d := s.desc g
  let c := s.dmaChan g
  let x := d.span b.pos b.len
  if s.forwardUser g then
    match c.user with
    | some t =>
      let r := s.forwardStream t c.isMeta x.1 x.2
      ((r.1.1, copies r.1.1.length r.1.2), r.2)
    | none => (([], []), s)
  else
    let r := s.readPieces b ((d.pieces c.segs (x.2 - x.1) x.1 x.2).filter (fun q => q.2.2.2))
    ((r.1.1.flatMap Prod.snd, r.1.2.flatMap Prod.snd), r.2)

/-- Bytes with each group swapped (R309): byte `i` comes from byte `i xor swap`. -/
def swapBytes {α : Type} (sw : Nat) (zero : α) (l : List α) : List α :=
  if sw = 0 then l
  else (pieces (l.length + 1) (if sw = 1 then 2 else 4) l).flatMap (fun x =>
    (countUp 0 x.length).map (fun i => nth x (i ^^^ sw) zero))

/-- A command that was to stop at the burst boundary of channel `g` does so (R64). -/
def State.boundary (s : State) (g : Nat) : State :=
  match (s.dmaChan g).user with
  | some t => (s.abortIfPending t).2
  | none => if (s.dmaChan g).abort then s.dmaEnd g .aborted true else s

/-- The burst of channel `g` is written to its destination and ends (R310 to R312, R325). -/
def State.deliverBurst (s : State) (g : Nat) (b : Burst) : State :=
  let d := s.desc g
  let r := s.burstSource g b
  let x := d.span b.pos b.len
  let data := firstN b.len (restN (b.pos - x.1) (swapBytes d.swap 0 r.1.1))
  let marks := firstN b.len (restN (b.pos - x.1) (swapBytes d.swap false r.1.2))
  let s := r.2
  let s := match d.place d.dst (s.dmaChan g).segs b.pos b.len with
    | some (a, _, true) => s.frameWriteMarked (a / 0x8000) (a % 0x8000) data marks
    | some (a, _, false) => s.sendWrite (s.dmaPair g) (BitVec.ofNat 64 a) data marks
    | none => s
  let unit := s.paceUnit g
  let s := s.modDmaChan g (fun c => { c with
    moved := b.pos + b.len, burst := none, granted := false, crossGrant := false, poisoned := c.poisoned || marks.any id
    needCredit := c.needCredit || unit == 0 || unit == 3 || (unit == 1 && (b.pos + b.len) % d.pass == 0) })
  ((s.boundary g).dmaGate g).dmaHold g

/-- A granted step of channel `g` (R310). -/
def State.dmaBurst (s : State) (g : Nat) : State :=
  let c := s.dmaChan g
  let pairOk := !s.wantsPair g || c.granted
  let crossOk := !s.wantsCross g || c.crossGrant
  if !pairOk || !crossOk then s
  else
    match s.dmaStep g with
    | .idle | .desc => s
    | .list =>
      match c.listNext with
      | some a =>
        if s.freeReqTag.isNone then s
        else (s.setDmaChan g { c with granted := false }).issueRead (s.dmaPair g) (.dmaList g) a 16
      | none => s
    | .read =>
      let b := s.curBurst g
      if c.burst.isNone && (s.burstFrames g b).any (fun q => s.denied g q.1 q.2) then s.dmaHalt g .frameDenied
      else
        match b.todo with
        | (p, a, n) :: rest =>
          if s.freeReqTag.isNone then s
          else
            (s.setDmaChan g { c with
              granted := false, burst := some { b with todo := rest, outstanding := b.outstanding + 1 } }).issueRead
              (s.dmaPair g) (.dmaData g p) (BitVec.ofNat 64 a) n
        | [] => s
    | .deliver =>
      let b := s.curBurst g
      if c.burst.isNone && (s.burstFrames g b).any (fun q => s.denied g q.1 q.2) then s.dmaHalt g .frameDenied
      else s.deliverBurst g b

/-- A granted descriptor load is issued (R302). -/
def State.dmaLoad (s : State) (g : Nat) : State :=
  let c := s.dmaChan g
  match s.dmaStep g, c.loading with
  | .desc, some a =>
    if !c.granted || s.freeReqTag.isNone then s
    else (s.setDmaChan g { c with granted := false }).issueRead (s.dmaPair g) (.dmaDesc g) a 64
  | _, _ => s

/-- A descriptor has arrived: it becomes the working descriptor (R302). -/
def State.descArrive (s : State) (g : Nat) (a : Addr) (data : List Byte) : State :=
  let s := (countUp 0 16).foldl (fun (s : State) j =>
    s.setReg (dmaAt g + 4 * j) (BitVec.ofNat 32 (leNat (firstN 4 (restN (4 * j) data))))) s
  ((s.setDmaDesc g a.toNat).modDmaChan g (fun c => { c with lastLoaded := a, loading := none })).dmaBegin g

/-- A list entry has arrived (R308). -/
def State.listArrive (s : State) (g : Nat) (a : Addr) (data : List Byte) : State :=
  let v := leNat data
  let addr := BitVec.ofNat 64 v
  let len := bits v 95 64
  let last := bitOf v 96
  let chain := bitOf v 97
  let s := s.modDmaChan g (fun c => { c with lastLoaded := a })
  if bits v 127 99 ≠ 0 ∨ (chain ∧ (len ≠ 0 ∨ addr.toNat % 16 ≠ 0 ∨ last)) then s.dmaHalt g .format
  else if chain then (s.modDmaChan g (fun c => { c with listNext := some addr })).dmaHop g
  else
    let s := s.modDmaChan g (fun c => { c with
      segs := c.segs ++ (if len = 0 then [] else [{ addr := addr, len := len, frame := bitOf v 98 }])
      listNext := if last then none else some (a + 16), listEnd := last })
    if last && decide (segTotal (s.dmaChan g).segs < (s.desc g).total) then s.dmaHalt g .listShort else s

/-- The data of a read of channel `g` has arrived for stream position `p` (R310, R326). -/
def State.dataArrive (s : State) (g p : Nat) (data : List Byte) (marks : List Bool) : State :=
  s.modDmaChan g (fun c => { c with
    burst := c.burst.map (fun b => { b with
      bytes := SMap.insert b.bytes p data, outstanding := b.outstanding - 1,
      marks := SMap.insert b.marks p marks }) })

/-- A data read of channel `g` failed (R322): it is read again after a resume (R323). -/
def State.dataFail (s : State) (g p : Nat) (r : Req) : State :=
  let s := s.modDmaChan g (fun c => { c with
    burst := c.burst.map (fun b => { b with
      outstanding := b.outstanding - 1, todo := (p, r.addr.toNat, r.len) :: b.todo }) })
  if (s.dmaChan g).st = .halted then s else s.dmaError g 0 0 r.addr.toNat

/-- A completed read of the DMA engines. -/
def State.dmaComplete (s : State) (r : Req) (data : List Byte) (marks : List Bool) : State :=
  match r.user with
  | .dmaData g p => s.dataArrive g p data marks
  | .dmaDesc g => s.descArrive g r.addr data
  | .dmaList g => (s.listArrive g r.addr data).dmaHold g
  | _ => s

/-- A read of the DMA engines that failed. -/
def State.dmaFail (s : State) (r : Req) : State :=
  match r.user with
  | .dmaData g p => s.dataFail g p r
  | .dmaDesc g => s.dmaError g 1 0 r.addr.toNat
  | .dmaList g => s.dmaError g 2 (ofBool (s.desc g).dst.list) r.addr.toNat
  | _ => s

/-- Where the data of a command's phase lies in its frame: first column, element size (as a power of two), elements and
step (R225, R230). -/
def phaseShape (p : Packet) (isMeta : Bool) : Nat × Nat × Nat × Nat :=
  match pkOpcode p with
  | some .readPage | some .readRebuild | some .readQuarter | some .programPage =>
    let isQ := ple p 0 1 == 2
    let quarter := isQ || (if ple p 0 1 = 8 then bitOf (pkByte p 48) 0 else bitOf (pkByte p 48) 5)
    let c := codeCfg (pkSize p) quarter
    let n := c.bytes (pkLevel p)
    let first := if isQ then aQuarter (pkAddr p) * n else 0
    if quarter then
      (if isMeta then (first + 4096, 4, if isQ then 1 else 4, n) else (first, 12, if isQ then 1 else 4, n))
    else if isMeta then (c.user, 6, 1, 64) else (0, 12, c.user / 4096, 4096)
  | some .readRaw => (ple p 52 2, 0, pkLen p, 1)
  | _ => (0, 0, pkLen p, 1)

/-- A contiguous data buffer that names a RESERVED frame (R54, R198): a frame-space address (R306) of one. The packet has no
bit that tells host and frame addresses apart; another address is a host address. -/
def State.namesReserved (s : State) (p : Packet) : Bool :=
  let a := ple p 16 8
  !pkList p && decide (a < 2 ^ 29) && decide (a / 0x8000 < 64 * s.nch) && (s.frame (a / 0x8000)).st == .reserved

/-- The working descriptor of a data phase, as 64 bytes (R298); `inFrame`: the data buffer lies in frame space. -/
def phaseDesc (p : Packet) (f : Nat) (deliver isMeta inFrame : Bool) : Packet :=
  let x := phaseShape p isMeta
  let fr := f * 0x8000 + x.1
  let host := if isMeta then (pkMdPtr p).toNat else ple p 16 8
  let list := !isMeta && pkList p
  let e := 2 ^ x.2.1
  let buf := ofBool (inFrame && !isMeta)
  let word := if deliver then 1 + buf * 2 + ofBool list * 8 + x.2.1 * 64 else 2 + buf + ofBool list * 4 + x.2.1 * 64
  let srcStep := if deliver then x.2.2.2 else e
  let dstStep := if deliver then e else x.2.2.2
  packetOf (leBytes 8 (if deliver then fr else host) ++ leBytes 8 (if deliver then host else fr) ++
    leBytes 4 (x.2.2.1 - 1) ++ leBytes 8 0 ++ leBytes 4 word ++ leBytes 4 srcStep ++ leBytes 8 0 ++
    leBytes 4 dstStep ++ leBytes 8 0 ++ leBytes 8 0)

/-- A tag whose data phase waits for a channel of engine `e` (R298). -/
def State.phaseWaits (s : State) (e t : Nat) : Bool :=
  let x := s.tag t
  t / 64 / 8 % 8 == e && !x.ended && !x.committed && x.delivered == 0 && x.frame.isSome && (s.phaseOf t).isNone &&
    (x.st == .delivering ||
      (x.st == .fetching &&
        (match x.opcode with
         | some .programPage | some .programRaw | some .runRoutine => true
         | _ => false)))

/-- A phase of tag `t` runs a descriptor on channel `g`. -/
def State.runPhase (s : State) (g t : Nat) (isMeta : Bool) : State :=
  let x := s.tag t
  let d := phaseDesc x.packet (x.frame.getD 0) (x.st == .delivering) isMeta (s.namesReserved x.packet)
  let s := (countUp 0 16).foldl (fun (s : State) j =>
    s.setReg (dmaAt g + 4 * j) (BitVec.ofNat 32 (ple d (4 * j) 4))) s
  ((s.setDmaDesc g 0).modDmaChan g (fun c => { c with user := some t, isMeta := isMeta })).dmaBegin g

/-- A raw read whose data lies in its frame has left the ingress FIFO when its data phase starts (R85, R215). -/
def State.rawTaken (s : State) (t : Nat) : State :=
  ((s.works.filter (fun e => e.2.tag == some t && e.2.raw && e.2.role == .own && e.2.st == .ended)).map Prod.fst).foldl
    (fun s id => s.endWork id) s

/-- The next data phase of engine `e` takes a packet channel (R298): reads before programs, the oldest tag first. -/
def State.startPhase (s : State) (e : Nat) : State :=
  match leastBy (fun (q : Nat × Tag) => (if q.2.st = .delivering then 0 else 2 ^ 64) + q.2.stamp)
      (s.tags.filter (fun q => s.phaseWaits e q.1)),
    (countUp (64 * e) (s.packetChannels e)).find? (fun g => (s.dmaChan g).st == .idle && !s.offline g) with
  | some (t, _), some g =>
    (((s.rawTaken t).modDmaChan g (fun d => { d.cleared with hops := 0 })).modTag t (fun x => { x with
      dataPhase := true })).runPhase g t false
  | _, _ => s

/-- A tag's data phase has ended (R64, R113, R298): a program's data is in the frame, or the data is delivered and the
command commits. -/
def State.phaseDone (s : State) (t : Nat) : State :=
  let s := s.modTag t (fun x => { x with delivered := 2 })
  let x := s.tag t
  if x.st = .delivering then s.finish t x.status x.info.toNat
  else if x.opcode = some .runRoutine then s.tagTo t .queued
  else s

/-- The command has metadata to move. -/
def Tag.hasMeta (x : Tag) : Bool :=
  pkMd x.packet && (match x.opcode with
    | some .readPage | some .readQuarter | some .readRebuild | some .programPage => true
    | _ => false)

/-- The descriptor of a packet channel has ended (R298, R299): a poisoned one ends the command, after the metadata of a read
too (R260). -/
def State.endPhase (s : State) (g : Nat) : State :=
  let c := s.dmaChan g
  match c.user with
  | none => s
  | some t =>
    if !c.loaded || c.st != .running || c.burst.isSome || s.dmaMore g then s
    else
    let s := s.traceRec 0x30 4 g false (7 * ofBool c.poisoned + 16 + 2 ^ 32 * min c.moved 0xFFFFFFFF) none
    let s := s.modDmaChan g (fun c => { c with status := if c.poisoned then .dataPoisoned else .ok })
    let x := s.tag t
    let poisoned := c.poisoned || (x.st == .delivering && x.poisoned)
    let s := if c.poisoned then s else s.paceOthers g
    if x.hasMeta && !c.isMeta && (!c.poisoned || x.st == .delivering) then
      (s.modTag t (fun x => { x with delivered := 1, poisoned := poisoned })).runPhase g t true
    else if poisoned then s.stopTag t .dataPoisoned 0
    else (s.modDmaChan g DmaChan.cleared).phaseDone t

/-- A descriptor of a descriptor channel has moved its bytes (R317). -/
def State.endDesc (s : State) (g : Nat) : State :=
  let c := s.dmaChan g
  if c.user.isSome || !c.loaded || c.st != .running || c.burst.isSome || c.record.isSome || s.dmaMore g then s
  else s.dmaEnd g (if c.poisoned then .dataPoisoned else .ok) false

/-- `DMA_ENG_CFG` is written (R297): a write of packet_channels, of its present value too, is ignored and sets req_error
while a channel of the engine is not IDLE. -/
def State.engCfgWrite (s : State) (e : Nat) (v : Word) : State :=
  let s := s.setFld (engAt e) 31 16 (wfld v 31 16)
  if (countUp (64 * e) 64).all (fun g => (s.dmaChan g).st == .idle) then s.setFld (engAt e) 6 0 (wfld v 6 0)
  else s.setBit (engAt e + 4) 31 true

/-- A channel waits on ring `k`. -/
def State.ringAwaited (s : State) (k : Nat) : Bool :=
  s.dma.any (fun e => e.2.record.isSome && (s.desc e.1).ring == k)

/-- A record waits for room in ring `k` (`RING_STATUS.full`). -/
def State.ringStuck (s : State) (k : Nat) : Bool := s.ringAwaited k && s.ringFull k

/-- `RING_HEAD` is written (R318). -/
def State.ringHeadWrite (s : State) (k : Nat) (v : Word) : State :=
  if wfld v 15 0 < s.ringSize k then s.setReg (ringAt k + 0x10) (BitVec.ofNat 32 (wfld v 15 0))
  else s.setBit (ringAt k + 0x14) 18 true

/-- `RING_CFG` is written (R318). -/
def State.ringCfgWrite (s : State) (k : Nat) (v : Word) : State :=
  let on := s.ringOn k
  let s := s.setReg (ringAt k + 0xC) ((v &&& 0xFFF0FF00) ||| BitVec.ofNat 32 (ofBool on))
  if bitOf v.toNat 0 && !on then
    (((s.setBit (ringAt k + 0xC) 0 true).setReg (ringAt k + 0x10) 0).setRing k { tail := 0, phase := true, since := 0 })
  else if !bitOf v.toNat 0 && on then
    (if s.ringAwaited k then s.setBit (ringAt k + 0x14) 18 true else s.setBit (ringAt k + 0xC) 0 false)
  else s

/-- A half of `DMA_OFFLINE` is written (R491): bits that may not change set `GLOBAL_CTRL.req_error`. -/
def State.offlineWrite (s : State) (e : Nat) (hi : Bool) (v : Word) : State :=
  let base := if hi then 32 else 0
  (countUp base 32).foldl (fun (s : State) c =>
    let g := 64 * e + c
    let want := bitOf v.toNat (c - base)
    if s.packetChannels e ≤ c || want == s.offline g then s
    else if want then
      (if (countUp 0 (s.packetChannels e)).any (fun k => k != c && !s.offline (64 * e + k))
       then s.setArrBit (0x5100 + e * 8) c true else s.setBit 0x8 31 true)
    else if (s.dmaChan g).st = .idle then s.setArrBit (0x5100 + e * 8) c false
    else s.setBit 0x8 31 true) s

/-- An engine and a channel of the block. -/
def dmaOk (e c : Nat) : Bool := decide (e < 8) && decide (c < 64)

/-- DATA_PHASE_END (R298). -/
def execDataPhaseEnd (e c : Nat) (s : State) : Host.Outcome State Fault Refusal :=
  if s.hostWorks && dmaOk e c then .next (s.endPhase (64 * e + c)) else .next s

/-- DMA_START (R302). -/
def execDmaStart (e c : Nat) (s : State) : Host.Outcome State Fault Refusal :=
  if s.asleep then .next (s.holdRequest (.dmaStart e c) .access)
  else if s.serving && dmaOk e c then .next (s.dmaStart (64 * e + c)) else .next s

/-- DMA_STOP (R320). -/
def execDmaStop (e c : Nat) (s : State) : Host.Outcome State Fault Refusal :=
  if s.asleep then .next (s.holdRequest (.dmaStop e c) .access)
  else if s.serving && dmaOk e c then .next (s.dmaStop (64 * e + c)) else .next s

/-- DMA_ABORT (R321). -/
def execDmaAbort (e c : Nat) (s : State) : Host.Outcome State Fault Refusal :=
  if s.asleep then .next (s.holdRequest (.dmaAbort e c) .access)
  else if s.serving && dmaOk e c then .next (s.dmaAbort (64 * e + c)) else .next s

/-- DMA_RESUME (R323). -/
def execDmaResume (e c : Nat) (s : State) : Host.Outcome State Fault Refusal :=
  if s.asleep then .next (s.holdRequest (.dmaResume e c) .access)
  else if s.serving && dmaOk e c then .next (s.dmaResume (64 * e + c)) else .next s

/-- DESCRIPTOR_FETCH (R302). -/
def execDescriptorFetch (e c : Nat) (s : State) : Host.Outcome State Fault Refusal :=
  if s.hostWorks && dmaOk e c then .next (s.dmaLoad (64 * e + c)) else .next s

/-- DMA_BURST (R310). -/
def execDmaBurst (e c : Nat) (s : State) : Host.Outcome State Fault Refusal :=
  if s.hostWorks && dmaOk e c then .next (s.dmaBurst (64 * e + c)) else .next s

/-- DESCRIPTOR_END (R317). -/
def execDescriptorEnd (e c : Nat) (s : State) : Host.Outcome State Fault Refusal :=
  if s.hostWorks && dmaOk e c then .next (s.endDesc (64 * e + c)) else .next s

/-- RECORD_WRITE (R318). -/
def execRecordWrite (e c : Nat) (s : State) : Host.Outcome State Fault Refusal :=
  if s.hostWorks && dmaOk e c && (s.dmaChan (64 * e + c)).st == .waiting then .next (s.dmaRecord (64 * e + c))
  else .next s

/-- DMA_TIMER_TICK (R315). -/
def execDmaTimerTick (e timer : Nat) (s : State) : Host.Outcome State Fault Refusal :=
  if s.hostWorks && decide (e < 8) && decide (timer < 16) && s.bit (engAt e + 0x100 + 4 * timer) 31 then
    .next (s.creditAll e (fun g => s.paceMode g == 1 && s.fld (dmaAt g + 0x58) 6 3 == timer))
  else .next s

/-- PACING_WITHDRAW (R316): `DMA_PACE` is written with withdraw = 1. -/
def execPacingWithdraw (e c : Nat) (s : State) : Host.Outcome State Fault Refusal :=
  if s.asleep then .next (s.holdRequest (.pacingWithdraw e c) .access)
  else if s.serving && dmaOk e c then .next (s.dmaWithdraw (64 * e + c)) else .next s

/-- PACKET_CHANNELS_WRITE (R297). -/
def execPacketChannelsWrite (e : Nat) (val : Word) (s : State) : Host.Outcome State Fault Refusal :=
  if s.asleep then .next (s.holdRequest (.packetChannelsWrite e val) .access)
  else if s.serving && decide (e < 8) then .next (s.engCfgWrite e val) else .next s

/-- RING_HEAD_WRITE (R318). -/
def execRingHeadWrite (k : Nat) (val : Word) (s : State) : Host.Outcome State Fault Refusal :=
  if s.asleep then .next (s.holdRequest (.ringHeadWrite k val) .access)
  else if s.serving && decide (k < 64) then .next (s.ringHeadWrite k val) else .next s

/-- RING_ENABLE (R318): `RING_CFG` is written. -/
def execRingEnable (k : Nat) (val : Word) (s : State) : Host.Outcome State Fault Refusal :=
  if s.asleep then .next (s.holdRequest (.ringEnable k val) .access)
  else if s.serving && decide (k < 64) then .next (s.ringCfgWrite k val) else .next s

/-- DMA_OFFLINE_WRITE (R491). -/
def execDmaOfflineWrite (e : Nat) (hi : Bool) (val : Word) (s : State) : Host.Outcome State Fault Refusal :=
  if s.asleep then .next (s.holdRequest (.dmaOfflineWrite e hi val) .access)
  else if s.serving && decide (e < 8) then .next (s.offlineWrite e hi val) else .next s

end Sys2Proof.Machine
end

