-- ==== Sys2Proof/Machine/Sched.lean ====
section
/-! DEFINITION. The LUN scheduler: bus jobs and their order, admission requests, level setting, read issue, polls that
fall due, suspend, resume, and the start of programs and erases (R69, R143 to R153). -/

namespace Sys2Proof.Machine
open Sys2Proof

/-- Channel `n` runs bus jobs (R129, R188). -/
def State.chanRuns (s : State) (n : Nat) : Bool :=
  let c := s.chan n
  decide (n < s.nch) && c.st == .running && c.store == .loaded && !c.inReset &&
    (c.recStep == .idle || c.recStep == .replay)

/-- The order stamp of a work under R69: its tag's allocation, or its own issue for reads that hold no tag. -/
def State.orderStamp (s : State) (w : Work) : Nat :=
  match w.role, w.tag with
  | .member _, _ => w.stamp
  | _, some t => (s.tag t).stamp
  | _, none => w.stamp

/-- Kinds that R69 orders. -/
def WorkKind.ordered (k : WorkKind) : Bool :=
  match k with
  | .read | .program | .erase | .routine => true
  | _ => false

/-- Two works act on one block of one LUN. -/
def Work.sameBlock (v w : Work) : Bool :=
  v.ch == w.ch && v.lun == w.lun && aPlane v.addr == aPlane w.addr && aBlock v.addr == aBlock w.addr

/-- A read has started its first array read. -/
def Work.begun (w : Work) : Bool := w.st != .waiting || w.attempt != 0 || w.assist != 0

/-- Work `id` must wait for an earlier work of its block (R69). -/
def State.behind (s : State) (id : Nat) (w : Work) : Bool :=
  w.kind.ordered && s.works.any (fun e =>
    let v := e.2
    e.1 != id && v.kind.ordered && !v.forward && v.st != .ended && v.sameBlock w &&
      (decide (s.orderStamp v < s.orderStamp w) ||
        (s.orderStamp v == s.orderStamp w && decide (e.1 < id))) &&
      !(v.kind == .read && w.kind == .read && v.begun))

/-- A read of the page to which a held frame's binding is about to move waits for it (R100). -/
def State.rebindWaits (s : State) (w : Work) : Bool :=
  w.kind == .read && s.tags.any (fun e => e.2.rebind && samePage (pkAddr e.2.packet) w.addr &&
    decide (e.2.stamp < s.orderStamp w))

/-- What every job of a work needs: a running channel, a LUN that is not held, its turn under R69, and no wait for the
end of a replay (R144, R458). A reset runs on a held LUN, whose hold it clears (R161). -/
def State.mayRun (s : State) (id : Nat) (w : Work) : Bool :=
  s.chanRuns w.ch && (w.kind == .reset || !(s.lun (lunKey w.ch w.lun)).held) && !w.forward && !s.behind id w && !s.rebindWaits w &&
    ((s.chan w.ch).recStep == .idle || w.replay)

/-- `TGT_CFG` permits to suspend an operation of a work that is issued now (R142, R150). -/
def State.maySuspendNow (s : State) (w : Work) : Bool :=
  let cfg := chanPage w.ch + 0x50 + 4 * targetOf w.lun
  match w.kind with
  | .program => s.bit cfg 0
  | .erase => s.bit cfg 1 && !w.noSuspend
  | _ => false

/-- `SUSP_CFG.reads_per_suspend`. -/
def State.readsPerSuspend (s : State) (n : Nat) : Nat := max 1 (s.fld (chanPage n + 0x84) 15 8)

/-- How many reads of a LUN may start while an operation of it is suspended; more than a LUN has planes where nothing
limits them (R152, R419). -/
def State.readsLeft (s : State) (n : Nat) (l : Lun) : Nat :=
  match l.parked with
  | none => 256
  | some o =>
    if o.resumeNow then 0
    else
      match o.cap with
      | .waiting => 256
      | .none => s.readsPerSuspend n - o.readsSince
      | _ => 0

/-- A suspended operation leaves room for one more read of its LUN (R152, R419). -/
def State.readRoom (s : State) (n : Nat) (l : Lun) : Bool := decide (0 < s.readsLeft n l)

/-- The LUN is free for an array read, or for another array operation (R144, R152). -/
def State.lunFree (s : State) (w : Work) : Bool :=
  let l := s.lun (lunKey w.ch w.lun)
  l.op.isNone && (if w.kind = .read then s.readRoom w.ch l else l.parked.isNone)

/-- The data of a program is staged: its tag has reached STAGED, and a Q page waits for its P page (R118). -/
def State.progReady (s : State) (w : Work) : Bool :=
  match w.tag with
  | none => false
  | some t =>
    let x := s.tag t
    (x.st == .staged || x.st == .issued || x.st == .confirmed || x.st == .replaying || w.replay) &&
      (match w.role with
       | .qPage => (s.acc (pkByte x.packet 49)).pDone
       | _ => true)

/-- The address that places tag `t` on its channel: that of its packet; the P page's of a close (R77, R118). A tag whose command
is the channel's names no target. -/
def State.tagAddr (s : State) (t : Nat) : Option Addr :=
  match pkOpcode (s.tag t).packet with
  | some .stripeParity => some (s.acc (pkByte (s.tag t).packet 49)).pAddr
  | some .survey | some .calibrate | some .selfTest | none => none
  | some _ => some (pkAddr (s.tag t).packet)

/-- Tag `t` is one of target `x` of channel `n`. -/
def State.tagOfTarget (s : State) (n x t : Nat) : Bool :=
  match s.tagAddr t with
  | some a => aCh a == n && targetOf (aLun a) == x
  | none => false

/-- No other tag of the target is in ISSUED or CONFIRMED (R104). -/
def State.targetQuiet (s : State) (w : Work) : Bool :=
  s.tags.all (fun e => w.tag == some e.1 || !(e.2.st == .issued || e.2.st == .confirmed) ||
    !s.tagOfTarget w.ch (targetOf w.lun) e.1)

/-- The work is a survey sample read. -/
def Work.isSample (w : Work) : Bool := match w.role with | .sample _ _ => true | _ => false

/-- A Q page's program waits for its P page (R118). -/
def State.pagesBefore (s : State) (w : Work) : Bool :=
  match w.role, w.tag with
  | .qPage, some t => (s.acc (pkByte (s.tag t).packet 49)).pDone
  | _, _ => true

/-- The work waits for a job that starts its array operation, all but the LUN, the grant and a program's data being ready: it
may ask for admission (R26, R143, R144, R149). -/
def State.wantsAdmission (s : State) (id : Nat) (w : Work) : Bool :=
  s.mayRun id w && w.mateOf.isNone &&
    (match w.kind with
     | .read =>
       w.st == .waiting && w.frame.isSome && !w.isSample
     | .program => (w.st == .waiting || w.st == .paused) && s.pagesBefore w
     | .erase => w.st == .waiting
     | .access => w.st == .waiting && s.targetQuiet w
     | .routine =>
       (w.st == .waiting || w.st == .paused) &&
         (match w.tag with | some t => (s.tag t).st != .fetching | none => true)
     | .reset => w.st == .waiting)

/-- The work waits for a job that starts its array operation, all but the LUN and the grant being ready (R143,
R144). -/
def State.wantsStart (s : State) (id : Nat) (w : Work) : Bool :=
  s.wantsAdmission id w && (w.kind != .program || s.progReady w)

/-- Bus jobs (R143). -/
inductive Job where
  | reset (id : Nat)
  | poll (lun : Nat)
  | dataOut (id : Nat)
  | suspend (lun : Nat)
  | read (id : Nat)
  | resume (lun : Nat)
  | program (id : Nat)
  | erase (id : Nat)
  | access (id : Nat)
  | sample (id : Nat)
  deriving DecidableEq, Repr

/-- A program or erase that has climbed to order 5, which it keeps until its bus job starts (R145). -/
def Work.hasClimbed (w : Work) : Bool :=
  (w.kind == .program || w.kind == .erase) && w.st == .waiting && w.climbed

/-- The suspend of the operation of a LUN is permitted (R150, R151). -/
def State.suspendOk (s : State) (key : Nat) (o : ArrayOp) : Bool :=
  let n := key / 16
  let limit := if o.kind = .erase then s.fld (chanPage n + 0x84) 25 20 else s.fld (chanPage n + 0x84) 19 16
  o.capAllowed && s.opConfirmed o && !o.suspending && (o.cap == .ordered || decide (o.suspends < limit))

/-- A read of the LUN waits at order 5 and is otherwise eligible (R150). -/
def State.readWaits (s : State) (key : Nat) : Bool :=
  s.works.any (fun e => lunKey e.2.ch e.2.lun == key && e.2.kind == .read && s.wantsStart e.1 e.2)

/-- A suspended operation is to be resumed (R151 to R153, R419). -/
def State.resumeDue (s : State) (key : Nat) (l : Lun) : Bool :=
  match l.parked with
  | none => false
  | some o =>
    l.op.isNone && !l.held &&
      (o.cap == .released ||
        (o.cap == .none && (o.resumeNow || decide (s.readsPerSuspend (key / 16) ≤ o.readsSince) || !s.readWaits key)))

/-- The works of an operation are granted admission. -/
def State.opGranted (s : State) (o : ArrayOp) : Bool :=
  o.works.any (fun id => match s.work id with | some w => w.adm == .granted | none => false)

/-- The age of an operation: that of its oldest tag (R143). -/
def State.opAge (s : State) (o : ArrayOp) : Nat :=
  ((o.works.filterMap s.work).map s.workTagStamp).foldl min (2 ^ 48)

/-- An operation has run for `SUSP_CFG.holdoff` µs since its confirm or its last resume (R150). -/
def State.heldOff (s : State) (n : Nat) (o : ArrayOp) : Bool :=
  decide (1000 * s.fld (chanPage n + 0x84) 7 0 ≤ s.now - o.ranFrom)

/-- The suspend of the operation of LUN `key` is due: the governor ordered it, or a read of the LUN waits and the operation
has run for the holdoff time (R150, R151). -/
def State.suspendDue (s : State) (key : Nat) (l : Lun) (o : ArrayOp) : Bool :=
  s.suspendOk key o && !l.held &&
    (o.cap == .ordered || (s.readWaits key && s.heldOff (key / 16) o))

/-- The place of a work's job: its order and its age within the order (R143). A paused routine stands at the head of its
order (R178), a program or erase that has climbed before the reads (R145). -/
def State.jobOf (s : State) (id : Nat) (w : Work) : Option (Nat × Nat × Job) :=
  let age := s.workTagStamp w
  if w.kind = .read ∧ w.st = .arrayDone then some (3, age, Job.dataOut id)
  else if w.adm != .granted then none
  else if w.isSample then
    if w.st == .waiting && s.mayRun id w && s.lunFree w then some (10, w.stamp, Job.sample id) else none
  else if !s.wantsStart id w then none
  else
    match w.kind with
    | .reset => some (1, age, Job.reset id)
    | .read => if s.lunFree w then some (5, 2 ^ 48 + age, Job.read id) else none
    | .program => if s.lunFree w then some (if w.hasClimbed then 5 else 7, age, Job.program id) else none
    | .erase => if s.lunFree w then some (if w.hasClimbed then 5 else 8, age, Job.erase id) else none
    | .access | .routine =>
      if s.lunFree w then some (9, if w.st = .paused then 0 else age, Job.access id) else none

/-- The jobs of a LUN itself: its poll, the suspend of its operation, and the resume (R143). -/
def State.lunJobs (s : State) (key : Nat) (l : Lun) : List (Nat × Nat × Job) :=
  (if l.pollDue && (l.op.isSome || l.held) then [(2, key, Job.poll (key % 16))] else []) ++
  (match l.op with
   | some o => if s.suspendDue key l o then [(4, s.opAge o, Job.suspend (key % 16))] else []
   | none => []) ++
  (match l.parked with
   | some o => if s.resumeDue key l && s.opGranted o then [(6, s.opAge o, Job.resume (key % 16))] else []
   | none => [])

/-- The bus jobs of channel `n` that are eligible, as order, age within the order, and job (R143, R144). -/
def State.eligible (s : State) (n : Nat) : List (Nat × Nat × Job) :=
  if s.chanRuns n then
    (s.works.filter (fun e => e.2.ch == n)).filterMap (fun e => s.jobOf e.1 e.2) ++
      (s.luns.filter (fun e => e.1 / 16 == n)).flatMap (fun e => s.lunJobs e.1 e.2)
  else []

/-- A job is the READ_ISSUE that follows its LEVEL_SET (R543). -/
def State.afterLevels (s : State) (j : Nat × Nat × Job) : Bool :=
  match j.2.2 with
  | .read id => (match s.work id with | some w => w.levelSet | none => false)
  | _ => false

/-- The bus jobs that the scheduler of channel `n` chooses among: READ_ISSUE alone where its LEVEL_SET has run (R543). -/
def State.jobs (s : State) (n : Nat) : List (Nat × Nat × Job) :=
  match (s.eligible n).find? s.afterLevels with
  | some j => [j]
  | none => s.eligible n

/-- A job of an order up to `k` is eligible on channel `n`: of orders 1 to 8 YIELD_REQ (R167). -/
def State.jobUpTo (s : State) (n k : Nat) : Bool := (s.jobs n).any (fun j => decide (j.1 ≤ k))

/-- A job that pauses a program data-in (R147): of orders 1 to 5, and none of those that R147 does not list, a program or
an erase that has climbed. -/
def State.quarterPause (s : State) (n : Nat) : Bool :=
  (s.jobs n).any (fun j => decide (j.1 ≤ 5) && (match j.2.2 with | .program _ | .erase _ => false | _ => true))

/-- The job that the scheduler of channel `n` starts next (R143), once the bus job before it has ended (R177). -/
def State.bestJob (s : State) (n : Nat) : Option Job :=
  if (s.chan n).bus.running then none
  else (leastBy (fun (j : Nat × Nat × Job) => j.1 * 2 ^ 64 + j.2.1) (s.jobs n)).map (fun j => j.2.2)

/-- The version word of the image that a channel's store holds. -/
def State.imageVersion (s : State) (n : Nat) : Word :=
  match (s.chan n).image with | some i => i.version | none => 0

/-- The command byte of an entry whose cycles the spec leaves to the image (R546). -/
def State.imageCommand (s : State) (n e : Nat) : BusCycle := .command (Config.imageCommand (s.imageVersion n) e)

/-- The row address cycles of an address word: three, or four where `TGT_GEOM_LO.row4` is set (R163). -/
def State.rowCycles (s : State) (n lun : Nat) (a : Addr) : List BusCycle :=
  (countUp 0 (if s.bit (geomAt n (targetOf lun)) 30 then 4 else 3)).map (fun i => .address (Config.rowByte a i))

/-- The two column address cycles and the row cycles (R163, R168). -/
def State.addrCycles (s : State) (n lun : Nat) (a : Addr) (col : Nat) : List BusCycle :=
  (leBytes 2 col).map .address ++ s.rowCycles n lun a

/-- The address word of a LUN alone, as a poll or a suspend names it. -/
def lunAddr (n lun : Nat) : Addr := BitVec.ofNat 64 (16 * n + lun)

/-- The address at which the sequencer stands after the first part of a job: a routine's, its entry; another job's lies where
the image put it, a free value (R179, R181, R194). -/
def State.jobPc (s : State) (n e : Nat) (run : Bool) : Nat :=
  if run && decide (e < 32) then (Config.freeWord s.fresh).toNat % 2 ^ 11 else s.entryAddr n e

/-- A bus job of channel `n` runs at an entry with its argument words, for a work and LUN, and moves bus cycles. `run` says
that it goes on until a message ends it, and until then its target is selected; a job that has ended leaves the pins idle
(R163, R176, R180, R546). -/
def State.busJob (s : State) (n e : Nat) (args : List Word) (work : Option Nat) (lun : Nat) (run : Bool)
    (cycles : List BusCycle) : State :=
  let pins := if run && decide (e < 32) then { Pins.idle with ce := some (targetOf lun) } else Pins.idle
  { s with fresh := s.fresh + 1 }.modChan n (fun c => { c with bus := { Bus.init with
    running := run, work := work, lun := lun, entry := e, args := args, pc := s.jobPc n e run, pins := pins
    cycles := cycles, since := s.now } })

/-- The bus job of channel `n` has ended. A routine leaves the pins as its microwords set them; the other jobs deselect their
target (R163, R166). -/
def State.busEnds (s : State) (n : Nat) : State :=
  s.modChan n (fun c => { c with bus := { c.bus with
    running := false, pins := if c.bus.entry < 32 then Pins.idle else c.bus.pins } })

/-- A BUS_JOB trace record (R499). -/
def State.traceJob (s : State) (n order entry lun : Nat) (tag : Option Nat) : State :=
  s.traceRec 0x20 1 n true (order + entry * 2 ^ 4 + lun * 2 ^ 10 + tag.getD 0 * 2 ^ 14 + ofBool tag.isSome * 2 ^ 28) none

/-- Whether two reads may combine in one multi-plane read, as far as their addresses and offsets go (R146, R270). -/
def Work.mates (v w : Work) (same : Bool) : Bool :=
  v.ch == w.ch && v.lun == w.lun && aPage v.addr == aPage w.addr && aPlane v.addr != aPlane w.addr &&
    v.pageType == w.pageType && same

/-- The offsets of a work's next array read, by threshold slot (R237, R268, R271). -/
def State.workOffsets (s : State) (w : Work) : List (BitVec 8) × State :=
  if w.raw then (w.base, s)
  else
    match w.role with
    | .sample _ j =>
      let x := s.ladderOf w.addr w.pageType
      let r := s.attemptOffsets x w.base w.cold w.coldStep w.steps 0
      (r.1.map (fun o => sat8 (o.toInt + j * ((max 1 (s.fld 0x300400 7 0) : Nat) : Int))), r.2)
    | _ =>
      let x := s.ladderOf w.addr w.pageType
      let r := s.attemptOffsets x w.base w.cold w.coldStep w.steps w.attempt
      if w.assist = 0 then r else (r.1.map (fun o => sat8 (o.toInt + s.assistShift w.assist)), r.2)

/-- The thresholds of a work's page type; of a read back, every threshold of the cell (R464). -/
def State.workMask (s : State) (w : Work) : Nat :=
  if w.role = .readBack then 2 ^ (2 ^ s.tgtBpc w.ch (targetOf w.lun) - 1) - 1
  else s.tmask (s.ladderOf w.addr w.pageType)

/-- What LEVEL_SET applies for a work: the mask, then the offsets of its thresholds (R263). -/
def State.levelKey (s : State) (w : Work) : List (BitVec 8) :=
  leBytes 4 (s.workMask w) ++ maskedOffsets (s.workMask w) (s.workOffsets w).1

/-- The read needs LEVEL_SET before its issue (R180, R263). -/
def State.needsLevels (s : State) (w : Work) : Bool :=
  (s.lun (lunKey w.ch w.lun)).offsets != some (s.levelKey w)

/-- `TGT_CFG.mp_read` of the target of a work (R146). -/
def State.mayCombine (s : State) (w : Work) : Bool := s.bit (chanPage w.ch + 0x50 + 4 * targetOf w.lun) 2

/-- The works that a test picks among those that may combine with read `w`, in planes of their own, at most `room` of them
(R146). -/
def State.combine (s : State) (id : Nat) (w : Work) (room : Nat) (p : Work → Bool) : List Nat :=
  if w.kind = .read ∧ s.mayCombine w then
    firstN room (s.works.foldl (fun (acc : List Nat × List Nat) e =>
      let v := e.2
      if e.1 != id && v.kind == .read && p v && s.wantsStart e.1 { v with mateOf := none } &&
          v.mates w (s.levelKey v == s.levelKey w) && !acc.2.contains (aPlane v.addr) then
        (acc.1 ++ [e.1], acc.2 ++ [aPlane v.addr])
      else acc) ([], [])).1
  else []

/-- The reads whose admission read `id` asks for with its own, as a plane count (R146, R411). -/
def State.mateIds (s : State) (id : Nat) (w : Work) : List Nat :=
  s.combine id w 256 (fun v => v.adm == .none && v.mateOf.isNone)

/-- The reads that combine with read `id` as it is issued: those admitted with it, with another waiting read, or by
themselves, as far as a suspended operation leaves room for them (R146, R152). -/
def State.joined (s : State) (id : Nat) (w : Work) : List Nat :=
  s.combine id w (s.readsLeft w.ch (s.lun (lunKey w.ch w.lun)) - 1) (fun v =>
    match v.mateOf with
    | none => v.adm == .granted
    | some m => m == id || (match s.work m with | some x => x.adm == .granted && x.st == .waiting | none => false))

/-- The work of a LUN that asks for admission next: resets, reads, resumes, then the others, the oldest first. While a read
of the channel waits for admission, no program, erase, survey or self-test operation asks (R149). -/
def State.nextAsk (s : State) (n l : Nat) : Option Nat :=
  let key := lunKey n l
  let readAsks := s.works.any (fun e => e.2.ch == n && e.2.kind == .read && e.2.adm == .requested && !e.2.isSample)
  let own := s.works.filterMap (fun e =>
    let w := e.2
    if w.ch == n && w.lun == l && w.adm == .none &&
        (s.wantsAdmission e.1 w || (w.isSample && w.st == .waiting && s.mayRun e.1 w))
    then
      match w.kind with
      | .reset => some (0, s.workTagStamp w, e.1)
      | .read =>
        if w.isSample then (if readAsks then none else some (5, w.stamp, e.1))
        else if s.lunFree w then some (1, s.workTagStamp w, e.1) else none
      | .access | .routine => if s.lunFree w then some (3, s.workTagStamp w, e.1) else none
      | .program | .erase => if s.lunFree w && !readAsks then some (3, s.workTagStamp w, e.1) else none
    else none)
  let back := match (s.lun key).parked with
    | some o =>
      if s.resumeDue key (s.lun key) && o.cap != .released then
        match o.works.find? (fun id => match s.work id with | some w => w.adm == .none | none => false) with
        | some id => if readAsks then [] else [(2, 0, id)]
        | none => []
      else []
    | none => []
  (leastBy (fun (q : Nat × Nat × Nat) => q.1 * 2 ^ 64 + q.2.1) (own ++ back)).map (fun q => q.2.2)

/-- A work of a LUN asks for admission; the reads it combines with go with it (R146, R149). -/
def State.ask (s : State) (n l : Nat) : State :=
  match s.nextAsk n l with
  | none => s
  | some id =>
    match s.work id with
    | none => s
    | some w =>
      let ms := if w.st = .waiting then s.mateIds id w else []
      let s := s.askAdmission id ms.length false
      let s := s.modWork id (fun w => { w with adm := .requested })
      ms.foldl (fun s m => s.modWork m (fun v => { v with mateOf := some id })) s

/-- A work's tag enters ISSUED at the start of its first job (R64). -/
def State.issueTag (s : State) (w : Work) : State :=
  match w.role, w.tag with
  | .own, some t | .pPage, some t =>
    let x := s.tag t
    if x.st == .queued || x.st == .staged || (x.st == .replaying && x.phase == some .beforeConfirm)
    then s.tagTo t .issued else s
  | _, _ => s

/-- The tag of a work that carries one in its bus job. -/
def Work.jobTag (w : Work) : Option Nat :=
  match w.role with
  | .own | .pPage => w.tag
  | _ => none

/-- The cycles of LEVEL_SET: for each group of up to four offsets 0xD5, the LUN byte, the feature address and four
parameter bytes, the unused ones 0 (R546). -/
def levelCycles (lun : Nat) (offs : List (BitVec 8)) : List BusCycle :=
  (pieces (offs.length + 1) 4 offs).zipIdx.flatMap (fun g =>
    [.command 0xD5, .address (BitVec.ofNat 8 (lun % 2)), .address (Config.levelFeature g.2),
     .dataIn (firstN 4 (g.1 ++ copies 4 0))])

/-- LEVEL_SET applies the offsets of the next read (R263). -/
def State.setLevels (s : State) (n : Nat) : State :=
  match s.bestJob n with
  | some (.read id) =>
    match s.work id with
    | none => s
    | some w =>
      if !s.needsLevels w then s
      else
        let k := s.levelKey w
        let s := (s.workOffsets w).2
        let s := s.traceJob n 5 9 w.lun w.jobTag
        let offs := restN 4 k
        let s := s.busJob n 9 [BitVec.ofNat 32 offs.length] (some id) w.lun false (levelCycles w.lun offs)
        let s := s.modLun (lunKey n w.lun) (fun l => { l with offsets := some k })
        (s.modWork id (fun w => { w with levelSet := true })).issueTag w
  | _ => s

/-- The programs and erases of a LUN that wait count the `k` reads that start; one climbs at `SCHED_CFG.read_burst` of them
(R145). -/
def State.readPassed (s : State) (n l k : Nat) : State :=
  let burst := s.fld (chanPage n + 0x80) 7 0
  { s with works := s.works.map (fun e =>
    if e.2.ch == n && e.2.lun == l && (e.2.kind == .program || e.2.kind == .erase) && e.2.st == .waiting
    then (e.1, { e.2 with readsPast := e.2.readsPast + k
                          climbed := e.2.climbed || (burst != 0 && decide (burst ≤ e.2.readsPast + k)) })
    else e) }

/-- `k` reads start in LUN `l` of channel `n` (R145, R152). -/
def State.readsStart (s : State) (n l k : Nat) : State :=
  (s.readPassed n l k).modLun (lunKey n l) (fun x => { x with
    parked := x.parked.map (fun o => { o with readsSince := o.readsSince + k }) })

/-- The cycles that issue reads: 0x00, the address and 0x30 for the last of them; the command that queues the others of a
multi-plane read is the image's (R163, R546). -/
def State.readCycles (s : State) (n lun : Nat) (addrs : List Addr) : List BusCycle :=
  addrs.zipIdx.flatMap (fun e =>
    .command 0x00 :: s.addrCycles n lun e.1 0 ++
      [if e.2 + 1 = addrs.length then .command 0x30 else s.imageCommand n 8])

/-- READ_ISSUE starts an array read, and those that combine with it (R146, R152, R279). -/
def State.issueFlashRead (s : State) (n : Nat) : State :=
  match s.bestJob n with
  | some (.read id) =>
    match s.work id with
    | none => s
    | some w =>
      if s.needsLevels w then s
      else
        let go := s.joined id w
        let addrs := w.addr :: (go.filterMap s.work).map (fun v => v.addr)
        let planes := addrs.foldl (fun m a => m + 2 ^ aPlane a) 0
        let e := if go.isEmpty then 7 else 8
        let s := s.traceJob n 5 e w.lun w.jobTag
        let s := s.busJob n e [BitVec.ofNat 32 (if go.isEmpty then w.pageType else planes)] (some id) w.lun false
          (s.readCycles n w.lun addrs)
        let own := (go.filterMap s.work).filter (fun v => v.mateOf == some id)
        let s := s.joinGrants id go (go.length - own.length)
        let s := { s with works := s.works.map (fun (v : Nat × Work) =>
          match v.2.mateOf with
          | some m => if m = id ∨ go.contains m ∨ go.contains v.1 then (v.1, { v.2 with mateOf := none }) else v
          | none => v) }
        let s := (id :: go).foldl (fun (s : State) m =>
          match s.work m with
          | none => s
          | some v =>
            ((s.modWork m (fun v => { v with st := .running, adm := .granted, levelSet := false, issued := true })).issueTag v).ledgerRead
              v.addr) s
        (s.readsStart n w.lun (1 + go.length)).modLun (lunKey n w.lun) (fun l => { l with
          op := some (ArrayOp.start .read (id :: go) false) })
  | _ => s

/-- The polls of the target's busy LUNs are due (R148); at a rise of `RB_N` neither LUN holds it low any more (R526). -/
def State.pollsDue (s : State) (n t : Nat) (rise : Bool) : State :=
  [2 * t, 2 * t + 1].foldl (fun (s : State) l =>
    let x := s.lun (lunKey n l)
    match x.op with
    | some o => s.setLun (lunKey n l) { x with pollDue := true, op := some { o with low := o.low && !rise } }
    | none => s) s

/-- The suspend command of the operation of a LUN is sent (R150, R151), and the bus is free for the jobs of other LUNs until a
poll or a message says how it went (R143, R546); a suspend that the governor ordered counts towards no limit (R418). -/
def State.suspendLun (s : State) (n : Nat) (kind : WorkKind) : State :=
  match s.bestJob n with
  | some (.suspend l) =>
    let key := lunKey n l
    match (s.lun key).op with
    | some o =>
      if o.kind = kind then
        let e := if kind = .erase then 17 else 16
        let s := (s.traceJob n 4 e l none).busJob n e [] o.works.head? l false
          (s.imageCommand n e :: s.rowCycles n l (lunAddr n l))
        (s.modLun key (fun x => { x with op := some { o with
          suspending := true, suspends := if o.cap = .ordered then o.suspends else o.suspends + 1 } })).count n 27 1
      else s
    | none => s
  | _ => s

/-- The SUSPENDED message (R152, R172, R418): the operation is suspended and its grant is released. -/
def State.suspendedLun (s : State) (n l : Nat) : State :=
  let key := lunKey n l
  match (s.lun key).op with
  | some o =>
    if !o.suspending then s
    else
      let s := s.releaseOp key o.works
      let s := o.works.foldl (fun s id => s.modWork id (fun w => { w with adm := .none })) s
      let cap := o.cap == .ordered
      let s := s.modLun key (fun x => { x with
        op := none, pollDue := false
        parked := some { o with suspended := true, suspending := false, readsSince := 0
                                cap := if cap then .waiting else .none } })
      if cap then
        match o.works with
        | id :: _ => s.askAdmission id 0 true
        | [] => s
      else s
  | none => s

/-- RESUME (R152, R153): the suspended operation runs again with its new grant. -/
def State.resumeLun (s : State) (n : Nat) : State :=
  match s.bestJob n with
  | some (.resume l) =>
    let key := lunKey n l
    match (s.lun key).parked with
    | some o =>
      let s := (s.traceJob n 6 18 l none).busJob n 18 [Config.kindArgument (o.kind == .erase)] o.works.head? l false
        (s.imageCommand n 18 :: s.rowCycles n l (lunAddr n l))
      s.modLun key (fun x => { x with
        parked := none, op := some { o with suspended := false, resumeNow := false, cap := .none, readsSince := 0, ranFrom := s.now, low := true } })
    | none => s
  | _ => s

/-- Data-in of `w` bytes stops at quarter boundary `q` (R147). -/
def quarterColumn (w q : Nat) : Nat := q * w / 32 * 8

/-- The bytes that a data-in moves to reach its end: its data and the fill of the page (R125). -/
def State.dataInEnd (s : State) (w : Work) : Nat := max w.length (s.tgtRoom w.ch (targetOf w.lun))

/-- `n` bytes from column `col` of the page that a program sends, and whether a frame word among them carries the poison
mark (R99, R125, R163, R443). -/
def State.programBytes (s : State) (w : Work) (col n : Nat) : (List Byte × Bool) × State :=
  match w.tag, w.frame with
  | some t, some f =>
    let x := s.tag t
    if x.opcode = some .reprogramHeld ∧ (s.frame f).rawLen = none then
      let y := s.frame f
      let r := s.frameRead f 0 (pageBytes y.pageSize y.quarterLayout y.level)
      let l := (s.newCodes f x.payload (pkAddr x.packet) (pkSize x.packet) (bitOf (pkByte x.packet 50) 0)
        (pkLevel x.packet)).flatMap Prod.snd
      let from0 := max col l.length
      ((firstN n (restN col l) ++ s.pageFill false (pkAddr x.packet) from0 (col + n - from0), r.1.2), r.2)
    else s.framePage f col n
  | _, _ => (([], false), s)

/-- The column that the next stretch of a data-in reaches: quarter boundary `q` where it lies ahead, else the data-in's end
(R147). -/
def State.stretchEnd (s : State) (w : Work) (q : Nat) : Nat :=
  let col := quarterColumn w.length q
  if decide (1 ≤ q) && decide (q ≤ 3) && decide (w.resumeCol < col) then col else s.dataInEnd w

/-- The job of a program's data-in starts: the program command, or the change of the write column to where it paused
(R147, R163). -/
def State.startData (s : State) (n : Nat) (resume : Bool) (id : Nat) (w : Work) : State :=
  let e := if resume then 13 else 12
  ((s.traceJob n (if w.hasClimbed then 5 else 7) e w.lun w.jobTag).busJob n e [] (some id) w.lun true
    (.command (if resume then 0x85 else 0x80) :: s.addrCycles n w.lun w.addr w.resumeCol)).issueTag w

/-- A data-in moves its bytes up to column `stop`; at its end the confirm command follows (R125, R147, R163). -/
def State.moveData (s : State) (n id : Nat) (w : Work) (stop : Nat) (data : List Byte) : State :=
  let last := decide (s.dataInEnd w ≤ stop)
  let s := (s.count n 29 data.length).modChan n (fun c => { c with
    egress := fifoTail (fifoWords data), egressWork := some id
    bus := { c.bus with
      cycles := c.bus.cycles ++ [.dataIn data] ++ (if last then [.command 0x10] else [])
      pins := { c.bus.pins with cle := last, dqs := if last then .undriven else .toggle
                                dq := if last then some 0x10 else data.getLast? } } })
  let s := s.modWork id (fun w => { w with st := .running, resumeCol := stop, sent := last })
  if last then
    let may := s.maySuspendNow w
    s.modLun (lunKey n w.lun) (fun l => { l with op := some (ArrayOp.start .program [id] may) })
  else s

/-- The data-in that is in progress on channel `n`, before its confirm. -/
def State.dataInRuns (s : State) (n : Nat) : Option (Nat × Work) :=
  let b := (s.chan n).bus
  match b.running && (b.entry == 12 || b.entry == 13), b.work with
  | true, some id =>
    match s.work id with
    | some w => if w.kind = .program ∧ !w.sent then some (id, w) else none
    | none => none
  | _, _ => none

/-- ERASE sends the erase command with its confirm (R546). -/
def State.eraseLun (s : State) (n : Nat) : State :=
  match s.bestJob n with
  | some (.erase id) =>
    match s.work id with
    | none => s
    | some w =>
      let may := s.maySuspendNow w
      let s := (s.traceJob n (if w.hasClimbed then 5 else 8) 14 w.lun w.jobTag).busJob n 14 [] (some id) w.lun true
        (.command 0x60 :: s.rowCycles n w.lun w.addr ++ [.command 0xD0])
      let s := s.modChan n (fun c => { c with bus := { c.bus with pins := { c.bus.pins with cle := true, dq := some 0xD0 } } })
      let s := (s.issueTag w).modWork id (fun w => { w with st := .running, sent := true })
      s.modLun (lunKey n w.lun) (fun l => { l with op := some (ArrayOp.start .erase [id] may) })
  | _ => s

/-- A local LUN of a channel of the build. -/
def State.lunOk (s : State) (n l : Nat) : Bool := s.hostOn && decide (n < s.nch) && decide (l < 16)

/-- PROGRAM_AGE_CLIMB (R145): the work has waited past the age limit. -/
def execProgramAgeClimb (id : Nat) (s : State) : Host.Outcome State Fault Refusal :=
  match s.work id with
  | some w =>
    if s.hostOn && (w.kind == .program || w.kind == .erase) && w.st == .waiting &&
        s.fld (chanPage w.ch + 0x80) 23 8 != 0 then
      .next (s.modWork id (fun w => { w with climbed := true }))
    else .next s
  | none => .next s

/-- LEVEL_SET (R263). -/
def execLevelSet (ch : Nat) (s : State) : Host.Outcome State Fault Refusal :=
  if s.lunOk ch 0 then .next (s.setLevels ch) else .next s

/-- READ_ISSUE (R143). -/
def execReadIssue (ch : Nat) (s : State) : Host.Outcome State Fault Refusal :=
  if s.lunOk ch 0 then .next (s.issueFlashRead ch) else .next s

/-- RB_N_RISE (R526): ignored in channel reset and while the bay is not ON. -/
def execRbNRise (ch target : Nat) (s : State) : Host.Outcome State Fault Refusal :=
  if s.lunOk ch 0 && decide (target < 8) && !(s.chan ch).inReset && s.bayOn (ch / 8) then .next (s.pollsDue ch target true)
  else .next s

/-- POLL_INTERVAL_EXPIRY (R148): while both LUNs of the target are busy. -/
def execPollIntervalExpiry (ch target : Nat) (s : State) : Host.Outcome State Fault Refusal :=
  if s.lunOk ch 0 && decide (target < 8) && (s.lun (lunKey ch (2 * target))).op.isSome &&
      (s.lun (lunKey ch (2 * target + 1))).op.isSome then .next (s.pollsDue ch target false)
  else .next s

/-- HELD_LUN_POLL (R161). -/
def execHeldLunPoll (ch lun : Nat) (s : State) : Host.Outcome State Fault Refusal :=
  if s.lunOk ch lun && (s.lun (lunKey ch lun)).held then
    .next (s.modLun (lunKey ch lun) (fun l => { l with pollDue := true }))
  else .next s

/-- SUSPEND_PROGRAM (R150). -/
def execSuspendProgram (ch : Nat) (s : State) : Host.Outcome State Fault Refusal :=
  if s.lunOk ch 0 then .next (s.suspendLun ch .program) else .next s

/-- SUSPEND_ERASE (R150). -/
def execSuspendErase (ch : Nat) (s : State) : Host.Outcome State Fault Refusal :=
  if s.lunOk ch 0 then .next (s.suspendLun ch .erase) else .next s

/-- SUSPENDED (R172). -/
def execSuspended (ch lun : Nat) (s : State) : Host.Outcome State Fault Refusal :=
  if s.lunOk ch lun && (match (s.lun (lunKey ch lun)).op with | some o => o.suspending | none => false) then
    .next ((s.suspendedLun ch lun).traceRec 0x70 8 ch true (7 * 2 ^ 38 + (s.chan ch).bus.entry * 2 ^ 32) none)
  else .next s

/-- RESUME (R152). -/
def execResume (ch : Nat) (s : State) : Host.Outcome State Fault Refusal :=
  if s.lunOk ch 0 then .next (s.resumeLun ch) else .next s

/-- ERASE (R546). -/
def execErase (ch : Nat) (s : State) : Host.Outcome State Fault Refusal :=
  if s.lunOk ch 0 then .next (s.eraseLun ch) else .next s

/-- A write to `LUN_HOLD` (R161). -/
def State.holdClear (s : State) (n : Nat) (v : Word) : State :=
  (setBits 16 v.toNat).foldl (fun (s : State) l => s.modLun (lunKey n l) (fun x => { x with held := false })) s

/-- LUN_HOLD_CLEAR (R161): `LUN_HOLD` is written with 1s. -/
def execLunHoldClear (ch : Nat) (val : Word) (s : State) : Host.Outcome State Fault Refusal :=
  if s.asleep then .next (s.holdRequest (.lunHoldClear ch val) .access)
  else if s.serving && decide (ch < s.nch) && !(s.chan ch).inReset then
    .next (s.holdClear ch val)
  else .next s

end Sys2Proof.Machine
end

