-- ==== Sys2Proof/Machine/Stripe.lean ====
section
/-! DEFINITION. Stripe parity: descriptors, GF(2^8) arithmetic, rebuild and accumulators (R88 to R90, R115 to R119, R249
to R261). -/

namespace Sys2Proof.Machine
open Sys2Proof

/-- Multiplication by the generator of GF(2^8) (R253). -/
def gfDouble (a : Nat) : Nat := if 128 ≤ a then (2 * a) ^^^ 0x11D else 2 * a

/-- The product in GF(2^8), over the low `n` bits of `b`. -/
def gfMulN (n a b : Nat) : Nat :=
  match n with
  | 0 => 0
  | k + 1 => (if b % 2 = 1 then a else 0) ^^^ gfMulN k (gfDouble a) (b / 2)

/-- The product in GF(2^8). -/
def gfMul (a b : Nat) : Nat := gfMulN 8 a b

/-- The generator's power. -/
def gfPow (n : Nat) : Nat :=
  match n with
  | 0 => 1
  | k + 1 => gfDouble (gfPow k)

/-- The inverse of a non-zero element. -/
def gfInv (a : Nat) : Nat := ((countUp 1 255).find? (fun b => gfMul a b == 1)).getD 0

/-- A payload multiplied by an element. -/
def gfScale (a : Nat) (l : List Byte) : List Byte := l.map (fun b => BitVec.ofNat 8 (gfMul a b.toNat))

/-- Adds a payload to a sum; the empty sum is zero. -/
def gfAdd (sum l : List Byte) : List Byte := if sum.isEmpty then l else xorBytes sum l

/-- A descriptor from its bytes (R249). -/
def Descriptor.ofBytes (l : List Byte) : Descriptor :=
  let at0 := fun (i : Nat) => (nth l i 0).toNat
  let n := at0 1 + at0 2
  { format := nth l 0 0, dataCount := at0 1, parityCount := at0 2, pageSize := at0 3
    reservedAt := (countUp 4 28).find? (fun i => at0 i != 0)
    attrs := firstN n (restN 32 l)
    members := (countUp 0 n).map (fun i => BitVec.ofNat 64 (leNat (firstN 8 (restN (64 + 8 * i) l)))) }

/-- Level, layout and page type of member `i`. -/
def Descriptor.level (d : Descriptor) (i : Nat) : Nat := bits (nth d.attrs i 0).toNat 2 0

/-- Member `i` is in quarter layout. -/
def Descriptor.quarter (d : Descriptor) (i : Nat) : Bool := bitOf (nth d.attrs i 0).toNat 3

/-- The read-level key of member `i`. -/
def Descriptor.ptype (d : Descriptor) (i : Nat) : Nat := bits (nth d.attrs i 0).toNat 6 4

/-- The address of member `i`. -/
def Descriptor.member (d : Descriptor) (i : Nat) : Addr := nth d.members i 0

/-- Check 1 of R250, as far as it governs the descriptor's length: the failing offset. -/
def Descriptor.badCounts (d : Descriptor) : Option Nat :=
  if d.format ≠ 1 then some 0
  else if d.dataCount = 0 ∨ 31 < d.dataCount then some 1
  else if d.parityCount = 0 ∨ 2 < d.parityCount ∨ 32 < d.dataCount + d.parityCount then some 2
  else none

/-- An attribute byte fails check 3 of R250. -/
def State.badAttr (s : State) (d : Descriptor) (i : Nat) : Bool :=
  let b := (nth d.attrs i 0).toNat
  let a := d.member i
  let ch := aCh a
  let t := targetOf (aLun a)
  decide (4 < d.ptype i) || bitOf b 7 || (d.quarter i && (d.pageSize != 2 || decide (d.dataCount ≤ i))) ||
    (s.lunFound ch (aLun a) &&
      (!s.typeOk ch t (d.ptype i) || !(s.geoFails ch t d.pageSize (d.level i) 0 (d.quarter i)).isEmpty))

/-- The first index whose entry equals an earlier one. -/
def firstDouble (l : List Addr) (seen : List Addr) (i : Nat) : Option Nat :=
  match l with
  | [] => none
  | x :: r => if seen.contains x then some i else firstDouble r (x :: seen) (i + 1)

/-- An address word with quarter index 0. -/
def wholePage (a : Addr) : Addr := BitVec.ofNat 64 (putBits a.toNat 15 14 0)

/-- The page, level, layout and page type that a command reads (R82, R96). -/
def readOf (p : Packet) : Addr × Nat × Bool × Nat :=
  match pkOpcode p with
  | some .copyPage => (pkAddr2 p, pkByte p 48 % 8, bitOf (pkByte p 48) 3, pkType p)
  | some .readQuarter => (pkAddr p, pkLevel p, true, pkType p)
  | _ => (pkAddr p, pkLevel p, bitOf (pkByte p 48) 5, pkType p)

/-- The data member that a command reads. -/
def Descriptor.indexOf (d : Descriptor) (a : Addr) : Option Nat :=
  (countUp 0 d.dataCount).find? (fun i => d.member i == wholePage a)

/-- Check 6 of R250: the failing offset. -/
def Descriptor.opcodeCheck (d : Descriptor) (p : Packet) : Option Nat :=
  match pkOpcode p with
  | some .stripeParity =>
    let n := d.dataCount
    if pkByte p 50 ≠ d.parityCount then some 2
    else if d.member n ≠ pkAddr p then some (64 + 8 * n)
    else if d.parityCount = 2 ∧ d.member (n + 1) ≠ pkAddr2 p then some (64 + 8 * (n + 1))
    else if d.level n ≠ pkLevel p then some (32 + n)
    else if d.parityCount = 2 ∧ d.level (n + 1) ≠ pkLevel p then some (32 + n + 1)
    else none
  | _ =>
    let r := readOf p
    match d.indexOf r.1 with
    | none => some 64
    | some i =>
      if d.level i = r.2.1 ∧ d.quarter i = r.2.2.1 ∧ d.ptype i = r.2.2.2 then none else some (32 + i)

/-- The checks of R250 in order: the offset of the first failing field. -/
def State.sdCheck (s : State) (d : Descriptor) (p : Packet) : Option Nat :=
  let all := countUp 0 (d.dataCount + d.parityCount)
  match d.badCounts with
  | some o => some o
  | none =>
    match d.reservedAt with
    | some o => some o
    | none =>
      if d.pageSize ≠ pkSize p then some 3
      else
        match all.find? (fun i => s.badAttr d i) with
        | some i => some (32 + i)
        | none =>
          match all.find? (fun i => !(s.addrFails 0 (d.member i) false).isEmpty) with
          | some i => some (64 + 8 * i)
          | none =>
            match firstDouble d.members [] 0 with
            | some i => some (64 + 8 * i)
            | none => d.opcodeCheck p

/-- Bytes of the descriptor of tag `t`: the first 64, then as many as they say (R249). -/
def sdLength (l : List Byte) : Nat :=
  if l.length < 64 then 64 else 64 + 8 * ((nth l 1 0).toNat + (nth l 2 0).toNat)

/-- Rebuild slots in use (R252). -/
def State.sdSlots (s : State) : Nat :=
  (s.tags.filter (fun e => e.2.opcode != some Opcode.stripeParity &&
    (e.2.sd.isSome || !e.2.sdBytes.isEmpty || s.ep.reqs.any (fun r => r.2.user == .sdFetch e.1)))).length

/-- An older tag waits for a rebuild slot (R252). -/
def State.olderSd (s : State) (t : Nat) : Bool :=
  s.tags.any (fun e => e.2.sdPending && e.2.sdBytes.isEmpty && e.2.opcode != some Opcode.stripeParity &&
    decide (e.2.stamp < (s.tag t).stamp) && !s.ep.reqs.any (fun r => r.2.user == .sdFetch e.1))

/-- Tag `t` asks for bytes of its stripe descriptor (R251), and has a rebuild slot where it needs one (R252). -/
def State.wantsSd (s : State) (t : Nat) : Bool :=
  let x := s.tag t
  x.sdPending && x.st != .free && s.mayIssue && s.freeReqTag.isSome &&
    (x.opcode == some Opcode.stripeParity || x.sdBytes.length != 0 || (decide (s.sdSlots < 512) && !s.olderSd t)) &&
    !s.ep.reqs.any (fun r => r.2.user == .sdFetch t)

/-- The next read of the stripe descriptor of tag `t` goes out (R251). -/
def State.fetchSd (s : State) (t : Nat) : State :=
  let x := s.tag t
  let n := x.sdBytes.length
  let at0 := (pkSdPtr x.packet).toNat + n
  let len := min (sdLength x.sdBytes - n) (min s.mrrs (4096 - at0 % 4096))
  if !s.wantsSd t then s
  else s.issueRead (s.queuePair x.sqid) (.sdFetch t) (BitVec.ofNat 64 at0) len

/-- An accumulator is released: its frames are freed, and contributions not yet made are dropped (R118, R119). -/
def State.releaseAcc (s : State) (k : Nat) : State :=
  let a := s.acc k
  let s := s.setAcc k Accumulator.init
  let s := { s with tags := s.tags.map (fun e => if e.2.accLink = some k then (e.1, { e.2 with accLink := none }) else e) }
  let s := a.adding.foldl (fun (s : State) t => (s.modTag t (fun x => { x with adding := false })).settle t) s
  [a.pFrame, a.qFrame].foldl (fun (s : State) f =>
    match f with
    | some f => if (s.frame f).st == .inUse then s.freeF f else s
    | none => s) s

/-- Every word of frame `f` becomes zero; a word that the remap table gives a spare is the spare's (R451). -/
def State.zeroWords (s : State) (f : Nat) : State :=
  let spared := fun k => (countUp 0 640).any (fun w => s.spareOf f w == some k)
  { s with
    words := s.words.filter (fun e => e.1 / 640 != f || (s.spareOf f (e.1 % 640)).isSome)
    spares := s.spares.filter (fun e => !spared e.1) }

/-- Frame `f` is taken for an accumulator and zeroed (R116). -/
def State.zeroFrame (s : State) (f : Nat) : State := (s.takeFrame f none).zeroWords f

/-- Accumulator `k` is opened by tag `t` with a descriptor that passed its checks (R116): it must be closed; a frame of the
P channel, and one of the Q channel for two parity pages, are taken and zeroed. While none is FREE the open waits (R196). -/
def State.openAcc (s : State) (t k : Nat) (d : Descriptor) : State :=
  let p := (s.tag t).packet
  if (s.acc k).st != .closed then s.stopTag t .invalidField 49
  else
    match s.freeFrameOf (aCh (pkAddr p)) with
    | none => s
    | some f =>
      let u := s.zeroFrame f
      let two := d.parityCount == 2
      let g := if two then u.freeFrameOf (aCh (pkAddr2 p)) else none
      if two && g.isNone then s
      else
        let u := match g with | some g => u.zeroFrame g | none => u
        let u := u.setAcc k { Accumulator.init with
          st := .opened, desc := some d, pAddr := pkAddr p, qAddr := pkAddr2 p, count := d.parityCount
          level := pkLevel p, pageSize := pkSize p, sdPtr := pkSdPtr p, sqid := (s.tag t).sqid
          pFrame := some f, qFrame := g }
        u.finish t .success 0

/-- An open whose descriptor passed its checks and that waits for frames (R116, R196). -/
def Tag.openWaits (x : Tag) : Bool :=
  x.opcode == some Opcode.stripeParity && pkByte x.packet 48 == 0 && x.sd.isSome && !x.committed && x.st != .free

/-- A member of a rebuild changes its outcome. -/
def State.setMember (s : State) (t i : Nat) (o : MemberOutcome) : State :=
  s.modTag t (fun x => { x with
    rebuild := x.rebuild.map (fun r => { r with members := setNth r.members i o }) })

/-- The member index of the page that tag `t` reads. -/
def Tag.addressed (x : Tag) : Nat :=
  match x.sd with
  | some d => (d.indexOf (readOf x.packet).1).getD 0
  | none => 0

/-- The bay of a channel is present and powered. -/
def State.chanBayOn (s : State) (n : Nat) : Bool := s.bayOn (n / 8)

/-- A member read is created (R89, R258); one that is forwarded from a staged frame is served at once (R71). -/
def State.addMember (s : State) (t : Nat) (d : Descriptor) (i : Nat) : State :=
  let a := d.member i
  let k := s.tick
  let f := k.2.forwardFrame a (s.tag t).stamp
  let x := ladderIndex (s.tgtBpc (aCh a) (targetOf (aLun a))) (d.ptype i)
  let w := { Work.new .read (.member i) a (some t) k.1 with
    level := d.level i, pageSize := d.pageSize, pageType := d.ptype i, quarterLayout := d.quarter i
    quarters := if d.quarter i then countUp 0 4 else [0], lastAttempt := s.lastAttempt x 0
    frame := f, forward := f.isSome }
  let r := k.2.addWork w
  match f with
  | some f => (r.2.count (aCh a) 30 1).wakeForwards f
  | none => (r.2.fixLevels r.1).grantFrames (aCh a)

/-- How members of a rebuild have ended, and whether any still runs. -/
def Rebuild.open (r : Rebuild) : Bool := r.members.any (fun o => o == .running || o == .decoded)

/-- The indices of members that a test picks. -/
def Rebuild.pick (r : Rebuild) (p : MemberOutcome → Bool) : List Nat :=
  (countUp 0 r.members.length).filter (fun i => p (nth r.members i .running))

/-- The failed members, the addressed one among them. -/
def Rebuild.lost (r : Rebuild) : List Nat := r.pick (fun o => o == .failed || o == .absent)

/-- R254: the payload of data member `want`, from the sums of the surviving members; none where the failed members
are too many. -/
def Rebuild.solve (r : Rebuild) (d : Descriptor) (want : Nat) : Option (List Byte) :=
  let lost := r.lost
  let data := lost.filter (fun i => i < d.dataCount)
  let pOk := !lost.contains d.dataCount
  if d.parityCount < lost.length then none
  else
    match data with
    | [x] => if pOk then some r.sumP else some (gfScale (gfInv (gfPow x)) r.sumQ)
    | [x, y] =>
      let dx := gfScale (gfInv (gfPow (y - x) ^^^ 1))
        (xorBytes (gfScale (gfPow (y - x)) r.sumP) (gfScale (gfInv (gfPow x)) r.sumQ))
      if want = x then some dx else some (xorBytes r.sumP dx)
    | _ => none

/-- A solve pass is needed: two members are lost (R259). R254 uses no power of the generator otherwise. -/
def Rebuild.needsSolve (r : Rebuild) : Bool := decide (2 ≤ r.lost.length)

/-- Q is needed, and with it assembly frame B: two data members are lost, or one and P (R254, R259). -/
def Rebuild.needsQ (r : Rebuild) (d : Descriptor) : Bool :=
  decide (2 ≤ (r.lost.filter (fun i => i < d.dataCount)).length) || r.lost.contains d.dataCount

/-- The member works of tag `t`. -/
def State.memberIds (s : State) (t : Nat) : List Nat :=
  (s.works.filter (fun e => e.2.tag == some t && (match e.2.role with | .member _ => true | _ => false))).map Prod.fst

/-- Member works end and their frames are freed, but for those that are kept. -/
def State.endMembers (s : State) (t : Nat) (keep : List Nat) : State :=
  (s.memberIds t).foldl (fun (s : State) id =>
    match s.work id with
    | none => s
    | some w =>
      let s := s.endWork id
      if !w.forward && (match w.frame with | some f => keep.contains f | none => false) then s
      else s.freeWorkFrame w) s

/-- The frames that a rebuild may assemble its result in, as they stand: the member frames from the lowest-numbered channel
on, then the tag's own where it is a read's (R89, R259). -/
def State.assemblyFrames (s : State) (t : Nat) : List Nat :=
  let x := s.tag t
  let fs := (s.memberIds t).filterMap (fun id =>
    match s.work id with | some w => if w.forward then none else w.frame | none => none)
  sortBy (fun f => f) fs ++
    (match x.frame with | some f => if x.forwarded || x.opcode == some Opcode.copyPage then [] else [f] | none => [])

/-- The assembly frames of the rebuild of tag `t` are settled: those there are, and the rest from its own channel, for which
it waits (R196, R259). -/
def State.assemble (s : State) (t : Nat) (r : Rebuild) (need : Nat) : State :=
  let fs := s.assemblyFrames t
  let r := { r with frameA := fs.head?, frameB := if need = 2 then (restN 1 fs).head? else none
                    wants := need - fs.length, solving := true }
  (s.modTag t (fun y => { y with rebuild := some r })).grantFrames (t / 64)

/-- A rebuild that cannot succeed ends (R90, R260). -/
def State.rebuildFails (s : State) (t : Nat) : State :=
  let x := s.tag t
  match x.rebuild with
  | none => s
  | some r =>
    let own := x.addressed
    let lost := r.lost
    let others := lost.filter (fun i => i != own)
    let absent := lost.filter (fun i => nth r.members i .running == .absent)
    let bay := match x.sd, absent.head? with
      | some d, some i => if absent.contains own then aCh (d.member own) / 8 else aCh (d.member i) / 8
      | _, _ => 0
    if absent.isEmpty then s.stopTag t .uncorrectable (others.head?.getD 0xFF % 256 + 256 * lost.length)
    else s.stopTag t .targetAbsent bay

/-- The rebuilt payload is complete: it is delivered from assembly frame A, or goes on into a COPY_PAGE destination (R259 to
R261). Assembly frame B holds the sum over Q until it is freed. -/
def State.rebuildDone (s : State) (t : Nat) (payload : List Byte) : State :=
  let x := s.tag t
  match x.rebuild, x.sd with
  | some r, some d =>
    let decoded := (r.pick (fun o => o == .added)).length
    let recon := (r.lost.filter (fun i => i < d.dataCount)).length
    let note := fun (y : Tag) => { y with
      status := .successRebuilt, info := BitVec.ofNat 32 (decoded + 256 * recon), rebuild := none, sd := none, sdBytes := [] }
    let drop := fun (s : State) (l : List (Option Nat)) => (l.filterMap id).foldl (fun (s : State) f =>
      if (s.frame f).st == .inUse then s.freeF f else s) s
    let s := match r.frameB with | some g => s.frameWrite g 0 r.sumQ r.poisoned | none => s
    if x.opcode = some .copyPage then
      match x.frame with
      | some f =>
        let q := bitOf (pkByte x.packet 48) 4
        let s := s.putPayload f (pkSize x.packet) q (pkLevel x.packet) payload r.poisoned
        drop ((s.endMembers t ([r.frameA, r.frameB].filterMap id)).modTag t (fun y => { note y with
          delivered := 2, poisoned := r.poisoned })) [r.frameA, r.frameB]
      | none => s
    else
      match r.frameA with
      | none => s
      | some f =>
        let q := x.opcode == some Opcode.readQuarter || bitOf (pkByte x.packet 48) 5
        let s := s.putPayload f (pkSize x.packet) q (pkLevel x.packet) payload r.poisoned
        let s := s.modFrame f (fun y => { y with st := .inUse, owner := some t })
        let s := s.endMembers t ([r.frameA, r.frameB].filterMap id)
        let s := s.modTag t (fun y => { note y with frame := some f, forwarded := false, delivered := 0 })
        let own := if x.forwarded || x.frame == some f then none else x.frame
        (drop s [if r.frameB == some f then none else r.frameB, if own == r.frameB then none else own]).tagTo t
          .delivering
  | _, _ => s

/-- The rebuild of tag `t` has its assembly frames and its sums: the payload is solved for and delivered (R254, R259). -/
def State.solveEnd (s : State) (t : Nat) : State :=
  let x := s.tag t
  match x.rebuild, x.sd with
  | some r, some d =>
    if !r.solving || 0 < r.wants then s
    else
      match r.solve d x.addressed with
      | some l => s.rebuildDone t l
      | none => s.rebuildFails t
  | _, _ => s

/-- Rebuilds that waited for an assembly frame alone, and have it, deliver (R196, R259): no solve pass runs. -/
def State.rebuildSweep (s : State) : State :=
  ((s.tags.filter (fun e => match e.2.rebuild with
    | some r => r.solving && r.wants == 0 && !r.needsSolve
    | none => false)).map Prod.fst).foldl (fun s t => s.solveEnd t) s

/-- A rebuild goes on once every member has ended (R258, R259): it ends at once where it needs no solve pass. -/
def State.rebuildCheck (s : State) (t : Nat) : State :=
  let x := s.tag t
  match x.rebuild, x.sd with
  | some r, some d =>
    if !r.started || r.solving || r.open then s
    else if d.parityCount < r.lost.length then s.rebuildFails t
    else
      let s := s.assemble t r (if r.needsQ d then 2 else 1)
      if r.needsSolve then s else s.solveEnd t
  | _, _ => s

/-- The member reads of a rebuild are issued, all at once (R258). -/
def State.beginMembers (s : State) (t : Nat) : State :=
  let x := s.tag t
  match x.sd with
  | none => s
  | some d =>
    let own := x.addressed
    let n := d.dataCount + d.parityCount
    let first := fun (i : Nat) =>
      let ch := aCh (d.member i)
      if !s.chanBayOn ch then MemberOutcome.absent
      else if i = own then .failed
      else if (s.chan ch).fenced then .failed
      else .running
    let ms := (countUp 0 n).map first
    let r : Rebuild := { members := ms, frameA := none, frameB := none, wants := 0, solving := false, poisoned := false
                         started := true, sumP := [], sumQ := [] }
    let s := s.modTag t (fun y => { y with rebuild := some r })
    let s := (countUp 0 n).foldl (fun (s : State) i =>
      if nth ms i .failed = .running then s.addMember t d i else s) s
    s.rebuildCheck t

/-- A read of tag `t` goes to rebuild (R88, R251): its stripe descriptor is fetched. -/
def State.toRebuild (s : State) (t : Nat) : State :=
  let s := s.modTag t (fun x => { x with
    sdPending := true, sdBytes := [], sd := none
    rebuild := some { members := [], frameA := none, frameB := none, wants := 0, solving := false, poisoned := false
                      started := false, sumP := [], sumQ := [] } })
  s.tagTo t .decoding

/-- A member has failed, or failed through absence (R258): its read ends at once, and codewords of it that the hard decoder
holds with it (R233). -/
def State.memberLost (s : State) (id t i : Nat) (o : MemberOutcome) : State :=
  let s := match s.work id with
    | some w => s.modChan w.ch (fun c => c.hardDrop id s.decodeCfg)
    | none => s
  ((s.modWork id (fun w => { w with st := .ended, codes := [], quarters := [] })).setMember t i o).rebuildCheck t

/-- The payload that a member or source read has decoded: from the program's frame where it was forwarded (R86, R253). -/
def State.workPayload (s : State) (w : Work) : (List Byte × Bool) × State :=
  match w.frame with
  | none => (([], false), s)
  | some f =>
    if w.forward then
      ((joinPayload w.pageSize w.quarterLayout w.infos, w.poisoned), s)
    else
      let r := s.clearPayload f w.pageSize w.quarterLayout w.level
      ((r.1.1, r.1.2 || w.poisoned), r.2)

/-- The work is a decoded member of the rebuild of tag `t`, not yet added. -/
def State.toAdd (s : State) (t : Nat) (w : Work) : Bool :=
  match w.role, (s.tag t).rebuild with
  | .member j, some r => w.tag == some t && w.st == .ended && nth r.members j .running == .decoded
  | _, _ => false

/-- The decoded member `id` is the next to be added to its rebuild's sums (R259). -/
def State.wantsAdd (s : State) (id : Nat) : Bool :=
  match s.work id with
  | none => false
  | some w =>
    match w.tag with
    | some t => s.toAdd t w && !s.works.any (fun e => s.toAdd t e.2 && decide (e.2.stamp < w.stamp))
    | none => false

/-- A decoded member's payload is added to the sums (R254, R259). -/
def State.addPayload (s : State) (id : Nat) : State :=
  match s.work id with
  | none => s
  | some w =>
    match w.role, w.tag with
    | .member i, some t =>
      let x := s.tag t
      match x.rebuild, x.sd with
      | some r, some d =>
        if !s.wantsAdd id then s
        else
          let p := s.workPayload w
          let s := p.2
          let data := decide (i < d.dataCount)
          let sumP := if data || i == d.dataCount then gfAdd r.sumP p.1.1 else r.sumP
          let sumQ := if data then gfAdd r.sumQ (gfScale (gfPow i) p.1.1)
                      else if i = d.dataCount + 1 then gfAdd r.sumQ p.1.1 else r.sumQ
          let r := { r with sumP := sumP, sumQ := sumQ, poisoned := r.poisoned || p.1.2
                            members := setNth r.members i .added }
          (s.modTag t (fun y => { y with rebuild := some r })).rebuildCheck t
      | _, _ => s
    | _, _ => s

/-- A stripe descriptor is whole: it is checked and used (R250, R251). -/
def State.sdReady (s : State) (t : Nat) : State :=
  let x := s.tag t
  let d := Descriptor.ofBytes x.sdBytes
  match s.sdCheck d x.packet with
  | some o => s.stopTag t .invalidField (0x100 + o)
  | none =>
    let s := s.modTag t (fun y => { y with sdPending := false, sd := some d })
    if x.opcode = some .stripeParity then s.openAcc t (pkByte x.packet 49) d
    else s.beginMembers t

/-- Bytes of a stripe descriptor have arrived. -/
def State.sdArrive (s : State) (t : Nat) (data : List Byte) : State :=
  if !(s.tag t).sdPending then s
  else
    let s := s.modTag t (fun x => { x with sdBytes := x.sdBytes ++ data })
    let l := (s.tag t).sdBytes
    if l.length < 64 then s
    else
      match (Descriptor.ofBytes l).badCounts with
      | some o => s.stopTag t .invalidField (0x100 + o)
      | none => if sdLength l ≤ l.length then s.sdReady t else s

/-- Adds a payload into an accumulator frame. -/
def State.accumulate (s : State) (f : Option Nat) (l : List Byte) (poison : Bool) : State :=
  match f with
  | none => s
  | some f =>
    let r := (s.clearFrame f).frameRead f 0 l.length
    r.2.frameWrite f 0 (xorBytes r.1.1 l) (poison || r.1.2)

/-- The addition in progress of accumulator `k` ends (R255). -/
def State.accAdd (s : State) (k : Nat) : State :=
  let a := s.acc k
  match a.adding with
  | [] => s
  | t :: rest =>
    match (s.tag t).frame with
    | none => s.setAcc k { a with adding := rest }
    | some f =>
      let p := s.stagedPayload f
      let m := pdw (s.tag t).packet 12 20 16
      let s := p.2.accumulate a.pFrame p.1.1 p.1.2
      let s := s.accumulate a.qFrame (gfScale (gfPow m) p.1.1) p.1.2
      let s := s.setAcc k { a with adding := rest }
      (((s.modTag t (fun x => { x with adding := false })).forwardEnded f).settle t).releaseSweep

/-- DATA_PHASE_START (R298): a rebuild that waited for a frame joins the reads that deliver (R259). -/
def execDataPhaseStart (e : Nat) (s : State) : Host.Outcome State Fault Refusal :=
  if s.hostWorks && decide (e < 8) then .next (s.rebuildSweep.startPhase e) else .next s

/-- REBUILD_SOLVE_END (R259). -/
def execRebuildSolveEnd (tag : Nat) (s : State) : Host.Outcome State Fault Refusal :=
  if s.hostWorks then .next (s.solveEnd tag) else .next s

end Sys2Proof.Machine
end

