-- ==== Sys2Proof/Machine/Reads.lean ====
section
/-! DEFINITION. Reads of pages: data-out, hard decoding and the Veer ladder, soft decoding, training, forwarded reads,
and the read back of a recovered program (R83 to R90, R97, R204, R231 to R241, R268, R272, R464). -/

namespace Sys2Proof.Machine
open Sys2Proof

/-- `n` free bytes: the spec leaves their values open (assumption log). -/
def State.freeBytes (s : State) (n : Nat) : List Byte × State :=
  ((countUp s.fresh n).map Config.freeByte, { s with fresh := s.fresh + n })

/-- The codeword configuration of a read. -/
def Work.cfg (w : Work) : CodeCfg := codeCfg w.pageSize w.quarterLayout

/-- The first column of codeword `q` of a read (R225). -/
def Work.codeBase (w : Work) (q : Nat) : Nat := if w.quarterLayout then q * w.cfg.bytes w.level else 0

/-- A read's work ends, and a frame that it owned is freed. -/
def State.closeRead (s : State) (id : Nat) : State :=
  match s.work id with
  | none => s
  | some w => (s.endWork id).freeWorkFrame w

/-- The weaker of two successes (R83). -/
def weaker (a b : Status) : Status := if a.code < b.code then b else a

/-- A decoded codeword is written in clear into its frame; the parity columns are undefined (R230). -/
def State.putInfo (s : State) (f base : Nat) (x : CodeCfg) (level : Nat) (info : List Byte) : State :=
  let r := s.freeBytes (x.bytes level - x.info)
  r.2.frameWrite f base (info ++ r.1) false

/-- The Veer step reached and the assist reads used are noted for the completion (R59, R239). -/
def State.noteSteps (s : State) (w : Work) : State :=
  match w.role, w.tag with
  | .own, some t | .source, some t =>
    s.modTag t (fun x => { x with veer := max x.veer w.attempt, assists := max x.assists w.assist })
  | _, _ => s

/-- A decoded read trains its read-level entry (R272), a re-issued one not (R465), and a cold start counts for the plan's ladder start (R290). -/
def State.trainRead (s : State) (w : Work) : State :=
  if w.best == .successSoft || w.forward || w.poisoned || w.replay then s
  else
    let x := s.ladderOf w.addr w.pageType
    let s := if w.cold then
        s.modChan w.ch (fun c =>
          let k := 16 * w.pageType + (w.coldStep + w.attempt) % w.steps
          { c with coldCounts := SMap.setD c.coldCounts k (SMap.getD c.coldCounts k 0 + 1) 0 })
      else s
    if s.bit 0x300000 8 && (w.cold || w.attempt != 0) then
      let r := s.attemptOffsets x w.base w.cold w.coldStep w.steps w.attempt
      r.2.writeLevels w.addr w.pageType r.1 true
    else s

/-- A payload goes into the destination frame of the COPY_PAGE of tag `t` (R97). -/
def State.copyArrives (s : State) (t : Nat) (payload : List Byte) (poison : Bool) (w : Work) : State :=
  let x := s.tag t
  match x.frame with
  | none => s
  | some f =>
    let s := s.putPayload f (pkSize x.packet) (bitOf (pkByte x.packet 48) 4) (pkLevel x.packet) payload poison
    s.modTag t (fun y => { y with
      delivered := 2, poisoned := poison, status := w.best, info := BitVec.ofNat 32 w.corrected
      corrected := w.corrected })

/-- Every codeword of a read has decoded: the data is delivered, added to a rebuild, or copied on. -/
def State.readGood (s : State) (id : Nat) : State :=
  match s.work id with
  | none => s
  | some w =>
    let s := s.trainRead w
    match w.role, w.tag with
    | .own, some t =>
      let s := s.modTag t (fun x => { x with
        status := w.best, info := BitVec.ofNat 32 (if w.forward then 0 else w.corrected), corrected := w.corrected
        poisoned := w.poisoned, delivered := 0 })
      (s.endWork id).tagTo t .delivering
    | .member i, some t =>
      let k := s.tick
      (k.2.modWork id (fun w => { w with st := .ended, stamp := k.1 })).setMember t i .decoded
    | .source, some t =>
      let r := s.workPayload w
      (r.2.copyArrives t r.1.1 r.1.2 w).closeRead id
    | _, _ => s.closeRead id

/-- A read has failed every step that it may take (R83, R233): rebuild where a stripe is named, else UNCORRECTABLE. A
forwarded read does not rebuild (R86). -/
def State.readLost (s : State) (id : Nat) : State :=
  match s.work id with
  | none => s
  | some w =>
    match w.role, w.tag with
    | .own, some t | .source, some t =>
      let s := if w.role = .own then s.endWork id else s.closeRead id
      if pkSd (s.tag t).packet && !w.forward then s.toRebuild t else s.stopTag t .uncorrectable 0x1FF
    | .member i, some t => s.memberLost id t i .failed
    | _, _ => s.closeRead id

/-- The next array read of a work: it asks for admission anew (R149, R268). -/
def Work.again (w : Work) (qs : List Nat) : Work :=
  { w with st := .waiting, adm := .none, levelSet := false, quarters := qs, quarter := none, codes := [] }

/-- A read is issued again from its array read at the attempt it had reached (R106, R215). -/
def Work.restart (w : Work) : Work := w.again (w.codes ++ w.quarters)

/-- What a read does once all the codewords that it moved are decoded: end, the next attempt, or soft decoding (R83,
R236, R239). -/
def State.readNext (s : State) (id : Nat) : State :=
  match s.work id with
  | none => s
  | some w =>
    if !w.codes.isEmpty || !w.quarters.isEmpty then s
    else if w.failed.isEmpty then (if w.lostQuarter then s.readLost id else s.readGood id)
    else if w.attempt < w.lastAttempt then
      s.modWork id (fun w => { (w.again w.failed) with attempt := w.attempt + 1, failed := [] })
    else if w.noSoft then (s.count w.ch 4 w.failed.length).readLost id
    else s.modWork id (fun w => { w with st := .soft, assist := 0 })

/-- A codeword of a read carries the poison mark and is not decoded (R240); a member goes on with the others (R258). -/
def State.readPoisoned (s : State) (id : Nat) : State :=
  match s.work id with
  | none => s
  | some w =>
    match w.role, w.tag with
    | .own, some t => s.stopTag t .dataPoisoned 0
    | .source, some t => (s.closeRead id).stopTag t .dataPoisoned 0
    | .member _, some _ => (s.modWork id (fun w => { w with poisoned := true })).readNext id
    | _, _ => s.closeRead id

/-- The soft decoder of channel `n` takes the codeword that waits for it with the oldest tag (R236): its centre comes
from the frame, and the first assist read is due. -/
def State.softNext (s : State) (n : Nat) : State :=
  if (s.chan n).soft.isSome then s
  else
    match leastBy (fun (e : Nat × Work) => s.workTagStamp e.2)
        (s.works.filter (fun e => e.2.ch == n && e.2.st == .soft && e.2.assist == 0)) with
    | none => s
    | some (id, w) =>
      match w.failed, w.frame with
      | q :: _, some f =>
        let r := s.frameRead f (w.codeBase q) (w.cfg.bytes w.level)
        let s := r.2
        if r.1.2 then (s.modWork id (fun w => { w with failed := restN 1 w.failed })).readPoisoned id
        else
          let v := leNat r.1.1
          let k := w.cfg.nbits w.level
          let b : SoftBuf := { work := id, centre := (countUp 0 k).map (fun i => v.testBit i), agree := copies k 0, read := []
                               assists := 0, cfg := s.softCfg 1 }
          (s.modChan n (fun c => { c with soft := some b })).modWork id (fun w => { (w.again [q]) with assist := 1 })
      | _, _ => s

/-- After a decoder run: an abort that waited for its end takes effect (R240); else the read goes on. -/
def State.afterRun (s : State) (id : Nat) (go : State → State) : State :=
  match s.work id with
  | none => s
  | some w =>
    match w.role, w.tag with
    | .own, some t =>
      let r := s.abortIfPending t
      if r.1 then r.2 else go s
    | _, _ => go s

/-- A forwarded read's decode of one codeword (R86), with the configuration of its run: whether it decodes, whether it is
poisoned and then not decoded (R240), and its information bytes. -/
def State.forwardCode (s : State) (w : Work) (g : DecodeCfg) (f q : Nat) : (Bool × Bool × List Byte) × State :=
  let r := s.decodeAt w.ch f (w.codeBase q) w.cfg w.level g w.addr
  if r.1.2.2 then ((true, true, r.1.2.1), r.2)
  else
    let s := (r.2.countHard w.ch 0 w.cfg w.level r.1.1).traceDecode w.ch (w.tag.getD 0) 0 0 r.1.1.code
      (if w.quarterLayout then some q else none) r.1.1.fixed
    ((r.1.1.good, false, r.1.2.1), if r.1.1 == .failed then s.count w.ch 4 1 else s)

/-- A forwarded read decodes from its program's frame (R86, R204); what it decodes is what it delivers (R244). -/
def State.forwardDecode (s : State) (id : Nat) (w : Work) : State :=
  match w.frame with
  | none => s
  | some f =>
    if w.st != .decoding then s
    else
      let r := w.quarters.foldl (fun (p : (Bool × Bool × List (List Byte)) × State) q =>
        let d := p.2.forwardCode w (w.run.getD s.decodeCfg) f q
        ((p.1.1 && d.1.1, p.1.2.1 || d.1.2.1, p.1.2.2 ++ [d.1.2.2]), d.2)) ((true, false, []), s)
      r.2.afterRun id (fun s =>
        let s := s.modWork id (fun w => { w with infos := r.1.2.2 })
        let s := match w.role, w.tag with
          | .own, some t => s.modTag t (fun x => { x with payload := r.1.2.2 })
          | _, _ => s
        if r.1.2.1 then
          (s.modWork id (fun w => { w with poisoned := true, best := .dataPoisoned })).readGood id
        else if r.1.1 then s.readGood id
        else s.readLost id)

/-- A hard decode run ends: of the codeword whose transfer ended first among those that the decoder holds, and the run of
the next starts (R83, R232, R234, R239, R248). -/
def State.hardEnd (s : State) (id : Nat) : State :=
  match s.work id with
  | none => s
  | some w =>
    if w.forward then s.forwardDecode id w
    else
      match (s.chan w.ch).hard, w.frame with
      | (i, q) :: rest, some f =>
        if i != id then s
        else
          let base := w.codeBase q
          let r := s.decodeAt w.ch f base w.cfg w.level (s.chan w.ch).hardCfg w.addr
          let left := w.codes.filter (fun c => c != q)
          let s := r.2.modChan w.ch (fun c =>
            let c := { c with hard := rest, hardCfg := r.2.decodeCfg }
            if c.ingressWork = some id ∧ left = [] then { c with ingress := [], ingressWork := none } else c)
          if r.1.2.2 then (s.modWork id (fun w => { w with codes := left })).afterRun id (fun s => s.readPoisoned id)
          else
            let d := r.1.1
            let s := (s.countHard w.ch w.attempt w.cfg w.level d).traceDecode w.ch (w.tag.getD 0) w.attempt 0 d.code
              (if w.quarterLayout then some q else none) d.fixed
            let s := s.noteSteps w
            let s := s.modWork id (fun w => { w with codes := left })
            if d = .erased then s.afterRun id (fun s => s.readLost id)
            else if d.good then
              let s := s.putInfo f base w.cfg w.level r.1.2.1
              let s := s.modWork id (fun w => { w with
                corrected := w.corrected + d.fixed
                best := weaker w.best (if w.attempt = 0 then .success else .successRetried) })
              s.afterRun id (fun s => s.readNext id)
            else
              (s.modWork id (fun w => { w with failed := w.failed ++ [q] })).afterRun id (fun s => s.readNext id)
      | _, _ => s

/-- The codeword that soft decoding works on is done: the next failing quarter, or the end of the read (R239). -/
def State.softDone (s : State) (id : Nat) : State :=
  match s.work id with
  | none => s
  | some w =>
    let s := s.modChan w.ch (fun c => { c with soft := none })
    match w.failed with
    | _ :: [] => (s.modWork id (fun w => { w with failed := [], quarters := [], codes := [], assist := 0 })).readNext id
    | _ :: rest => s.modWork id (fun w => { w with failed := rest, st := .soft, assist := 0, quarters := [] })
    | [] => s

/-- The buffer with the assist read in hand counted in (R237). -/
def SoftBuf.counted (b : SoftBuf) : SoftBuf :=
  if b.read.isEmpty then b
  else { b with
    agree := (b.agree.zip b.centre).zipIdx.map (fun e =>
      if (leNat b.read).testBit e.2 = e.1.2 then e.1.1 + 1 else e.1.1)
    read := [] }

/-- A soft decode run ends (R238). -/
def State.softEnd (s : State) (id : Nat) : State :=
  match s.work id with
  | none => s
  | some w =>
    match (s.chan w.ch).soft, w.failed, w.frame with
    | some b, q :: _, some f =>
      if b.work != id || w.st != .soft || w.assist == 0 then s
      else
        let centre := leNat ((countUp 0 (w.cfg.bytes w.level)).map (fun i =>
          BitVec.ofNat 8 ((countUp 0 8).foldl (fun v j => v + ofBool (nth b.centre (8 * i + j) false) * 2 ^ j) 0)))
        let d := softDecode w.cfg w.level centre b.cfg.softIter b.counted.agree b.cfg.llr
        let s := s.modChan w.ch (fun c =>
          let c := { c with soft := some b.counted }
          if c.ingressWork = some id then { c with ingress := [], ingressWork := none } else c)
        let quarter := if w.quarterLayout then some q else none
        let s := s.noteSteps w
        match d with
        | .hard v n =>
          let s := ((s.count w.ch 3 1).count w.ch 7 n).traceDecode w.ch (w.tag.getD 0) w.attempt w.assist 2 quarter n
          let info := s.randomise w.addr (w.codeBase q) (firstN w.cfg.info (leBytes (w.cfg.bytes w.level) v))
          let s := (s.putInfo f (w.codeBase q) w.cfg w.level info).markWeak w.addr w.pageType
          let s := s.modWork id (fun w => { w with corrected := w.corrected + n, best := weaker w.best .successSoft })
          s.afterRun id (fun s => s.softDone id)
        | _ =>
          let s := s.traceDecode w.ch (w.tag.getD 0) w.attempt w.assist 3 quarter 0
          s.afterRun id (fun s =>
            if w.assist < 4 then s.modWork id (fun w => { (w.again [q]) with assist := w.assist + 1 })
            else ((s.count w.ch 4 1).modWork id (fun w => { w with lostQuarter := true })).softDone id)
    | _, _, _ => s

/-- The bytes that a read back moves: the codewords of the page, or the whole raw page (R464). -/
def State.readBackLen (s : State) (w : Work) : Nat :=
  match w.frame with
  | none => 0
  | some f =>
    let y := s.frame f
    if y.rawLen.isSome then s.tgtRoom w.ch (targetOf w.lun) else pageBytes y.pageSize y.quarterLayout y.level

/-- The codewords that a read back is compared with: those of the frame, or the new ones of a REPROGRAM_HELD (R464). -/
def State.heldCodes (s : State) (w : Work) (f : Nat) : List (Nat × List Byte) × State :=
  match w.tag with
  | some t =>
    let x := s.tag t
    if x.opcode = some .reprogramHeld then
      (s.newCodes f x.payload (pkAddr x.packet) (pkSize x.packet) (bitOf (pkByte x.packet 50) 0) (pkLevel x.packet), s)
    else
      let y := s.frame f
      (codeBases y.pageSize y.quarterLayout y.level).foldl (fun (p : List (Nat × List Byte) × State) b =>
        let r := p.2.frameRead f b ((codeCfg y.pageSize y.quarterLayout).bytes y.level)
        (p.1 ++ [(b, r.1.1)], r.2)) ([], s)
  | none => ([], s)

/-- Bits of value 0 in bytes. -/
def zeroBits (l : List Byte) : Nat := 8 * l.length - ones (8 * l.length) (leNat l)

/-- What one read back finds of each codeword: 0 erased, 1 the codeword held, 2 another, 3 no decode (R464). -/
def State.readBackOut (s : State) (id : Nat) (w : Work) (data : List Byte) : State :=
  match w.frame with
  | none => s
  | some f =>
    let y := s.frame f
    let done := fun (s : State) (l : List Nat) => s.modWork id (fun w => { w with st := .decoding, codes := l })
    if y.rawLen.isSome then done s [if zeroBits data ≤ s.erasedZeros then 0 else 2]
    else
      let t := w.tag.getD 0
      let x := s.tag t
      let re := x.opcode = some .reprogramHeld
      let size := if re then pkSize x.packet else y.pageSize
      let ql := if re then bitOf (pkByte x.packet 50) 0 else y.quarterLayout
      let level := if re then pkLevel x.packet else y.level
      let c := codeCfg size ql
      let h := s.heldCodes w f
      let r := h.1.zipIdx.foldl (fun (p : List Nat × State) e =>
        let code := firstN (c.bytes level) (restN e.1.1 data)
        let d := p.2.decodeBytes w.ch c level s.decodeCfg code
        let s := (d.2.countHard w.ch w.attempt c level d.1.1).traceDecode w.ch t w.attempt 0 d.1.1.code
          (if ql then some e.2 else none) d.1.1.fixed
        let s := if d.1.1 == .failed && w.attempt == 1 && nth w.quarters e.2 3 == 3 then s.count w.ch 4 1 else s
        let v := match d.1.1 with
          | .erased => 0
          | .failed => if nth w.quarters e.2 3 = 1 then 1 else 3
          | _ => if d.1.2 = e.1.2 then 1 else 2
        (p.1 ++ [v], s)) ([], h.2)
      done r.2 r.1

/-- The bytes that the data-out of a read moves. -/
def State.dataOutLen (s : State) (w : Work) : Nat :=
  if w.role == .readBack then s.readBackLen w else if w.raw then w.length else w.cfg.bytes w.level

/-- The first column that the data-out of a read moves. -/
def Work.dataOutCol (w : Work) : Nat :=
  if w.role == .readBack then 0 else if w.raw then w.column else w.codeBase (w.quarters.headD 0)

/-- The data of an assist read goes to the soft decoder's buffer, whose run starts (R237, R238, R248). -/
def State.assistOut (s : State) (id : Nat) (w : Work) (data : List Byte) : State :=
  let s := (s.count w.ch 6 1).modChan w.ch (fun c => { c with soft := c.soft.map (fun b => { b with
    read := data, assists := w.assist, cfg := s.softCfg w.assist }) })
  s.modWork id (fun w => { w with st := .soft, quarters := [] })

/-- A raw read's data lies in its frame, and its tag delivers (R85). Its work ends with the data phase, so that a lost
packet runs it again (R215). -/
def State.rawOut (s : State) (id : Nat) (w : Work) (f : Nat) (data : List Byte) : State :=
  let s := (s.frameWrite f w.column data false).modWork id (fun w => { w with st := .ended })
  match w.tag with
  | some t => s.tagTo t .delivering
  | none => s.endWork id

/-- A codeword lies in its frame: it enters the hard decoder, where its run starts if no other is held (R234, R248). -/
def State.codeOut (s : State) (id : Nat) (w : Work) (f : Nat) (data : List Byte) : State :=
  let q := w.quarters.headD 0
  let rest := restN 1 w.quarters
  let s := s.frameWrite f (w.codeBase q) data false
  let s := s.modChan w.ch (fun c => { c with
    hard := c.hard ++ [(id, q)], hardCfg := if c.hard.isEmpty then s.decodeCfg else c.hardCfg })
  let s := s.modWork id (fun w => { w with
    quarters := rest, quarter := some q, codes := w.codes ++ [q]
    st := if rest.isEmpty then .decoding else .arrayDone })
  match w.role, w.tag with
  | .own, some t => s.tagTo t .decoding
  | _, _ => s

/-- DATA_OUT moves one codeword, or raw data, of the read that the scheduler starts next, through the ingress FIFO (R163,
R210), in whole 8-byte words: those beyond its length are masked (R212). The hard decoder holds two codewords: the transfer of a third ends after the run of the first, and that of a page that
is read back after the runs of all (R234). -/
def State.dataOut (s : State) (n : Nat) (data : List Byte) : State :=
  match s.bestJob n with
  | some (.dataOut id) =>
    match s.work id with
    | none => s
    | some w =>
      let back := w.role == .readBack
      let code := !back && !w.raw && w.assist == 0
      let len := s.dataOutLen w
      if (data.length != len && data.length != 8 * divUp len 8) || (code && decide (2 ≤ (s.chan n).hard.length)) ||
          (back && !(s.chan n).hard.isEmpty) then s
      else
        let e := if w.raw then 11 else 10
        let moved := data
        let data := firstN len moved
        let cycles := .command 0x06 :: s.addrCycles n w.lun w.addr w.dataOutCol ++ [.command 0xE0, .dataOut moved]
        let s := ((s.traceJob n 3 e w.lun w.jobTag).count n 28 data.length).busJob n e
          (if w.raw then [] else [BitVec.ofNat 32 (w.quarters.headD 0)]) (some id) w.lun false cycles
        let s := s.modChan n (fun c => { c with ingress := fifoTail (fifoWords data), ingressWork := some id })
        if back then s.readBackOut id w data
        else if w.assist != 0 then s.assistOut id w data
        else
          match w.frame with
          | none => s
          | some f => if w.raw then s.rawOut id w f data else s.codeOut id w f data
  | _ => s

/-- ADMISSION_REQUEST (R149, R411): a work of the LUN asks; the codeword that waits for a free soft decoder has taken it
before (R236). -/
def execAdmissionRequest (ch lun : Nat) (s : State) : Host.Outcome State Fault Refusal :=
  if s.lunOk ch lun then .next ((s.softNext ch).ask ch lun) else .next s

/-- DATA_OUT (R163). -/
def execDataOut (ch : Nat) (data : List Byte) (s : State) : Host.Outcome State Fault Refusal :=
  if s.lunOk ch 0 then .next (s.dataOut ch data) else .next s

/-- HARD_DECODE_END (R232). -/
def execHardDecodeEnd (id : Nat) (s : State) : Host.Outcome State Fault Refusal :=
  if !s.hostOn then .next s
  else
    match s.work id with
    | some w => .next (((s.hardEnd id).softNext w.ch).grantFrames w.ch)
    | none => .next s

/-- SOFT_DECODE_END (R238). -/
def execSoftDecodeEnd (id : Nat) (s : State) : Host.Outcome State Fault Refusal :=
  if !s.hostOn then .next s
  else
    match s.work id with
    | some w => .next (((s.softEnd id).softNext w.ch).grantFrames w.ch)
    | none => .next s

end Sys2Proof.Machine
end

