-- ==== Sys2Proof/Machine/Ends.lean ====
section
/-! DEFINITION. How array operations end: staging of programs, status polls, ready timeouts, messages of the sequencer,
and the reset of a target (R91 to R106, R118, R148, R160, R161, R164, R172, R178, R229, R443, R464). -/

namespace Sys2Proof.Machine
open Sys2Proof

/-- A program whose data is poisoned (R93, R443): no confirm is sent. -/
def State.poisonProgram (s : State) (id : Nat) : State :=
  match s.work id with
  | none => s
  | some w =>
    match w.tag with
    | none => s.endWork id
    | some t =>
      let x := s.tag t
      let s := s.endTagWorks t
      let s := if x.committed then
          match w.frame with | some f => s.programFails t f .dataPoisoned 0 true | none => s
        else s.stopTag t .dataPoisoned 0
      if x.opcode = some .stripeParity then s.releaseAcc (pkByte x.packet 49) else s

/-- The payload of a program that lies in its frame in clear; metadata is zero where the command brings none (R91). -/
def State.programPayload (s : State) (f : Nat) (p : Packet) (q : Bool) : (List Byte × Bool) × State :=
  let r := s.clearPayload f (pkSize p) q (pkLevel p)
  let n := sizeBytes (pkSize p)
  if pkOpcode p = some .programPage ∧ !pkMd p then ((firstN n r.1.1 ++ copies 64 0, r.1.2), r.2) else r

/-- Tag `t` enters STAGED; a staging-acknowledge queue commits it there (R64, R74). -/
def State.enterStaged (s : State) (t : Nat) : State :=
  let s := s.tagTo t .staged
  let x := s.tag t
  if s.qStagedAck x.sqid && !x.committed then
    (s.modTag t (fun y => { y with stagedAck := true })).commitTag t x.status x.info
  else s

/-- A contributing program has entered STAGED: its addition waits (R117, R255). -/
def State.contribute (s : State) (t : Nat) : State :=
  let x := s.tag t
  match x.accLink with
  | none => s
  | some k =>
    let m := pdw x.packet 12 20 16
    (s.modAcc k (fun a => { a with contributed := a.contributed ||| (1#31 <<< m), adding := a.adding ++ [t] })).modTag t
      (fun y => { y with adding := true })

/-- The quarter layout of the page that a program-type command writes. -/
def pkQuarterOut (p : Packet) : Bool :=
  match pkOpcode p with
  | some .programPage => bitOf (pkByte p 48) 0
  | some .copyPage => bitOf (pkByte p 48) 4
  | some .reprogramHeld => bitOf (pkByte p 50) 0
  | _ => false

/-- Contributing programs of accumulator `k` that have neither staged nor committed (R118). -/
def State.accWaits (s : State) (k : Nat) : Bool :=
  !(s.acc k).adding.isEmpty ||
    s.tags.any (fun e => e.2.accLink == some k && !e.2.committed && (e.2.st == .queued || e.2.st == .fetching))

/-- A close of accumulator `k` is staged: its parity pages are encoded in their frames, or it ends (R118, R256). -/
def State.stageClose (s : State) (t k : Nat) : State :=
  let a := s.acc k
  if a.closeTag != some t || s.accWaits k then s
  else
    let d := match a.desc with | some d => d.dataCount | none => 0
    let n := popCount 31 a.contributed.toNat
    if a.tainted then (s.stopTag t .aborted (2 ^ 31)).releaseAcc k
    else if n < d then (s.reopen t).stopTag t .invalidField (0x200 + n)
    else
      let enc := fun (p : Bool × State) (e : Option Nat × Addr) =>
        match e.1 with
        | none => p
        | some f =>
          let r := p.2.encodeFrame f e.2 a.pageSize false a.level
          (p.1 || r.1, r.2)
      let r := [(a.pFrame, a.pAddr), (a.qFrame, a.qAddr)].foldl enc (false, s)
      if r.1 then (r.2.stopTag t .dataPoisoned 0).releaseAcc k
      else
        let s := r.2.enterStaged t
        [a.pFrame, a.qFrame].foldl (fun s f => match f with | some f => s.wakeForwards f | none => s) s

/-- The data of tag `t` is in its frame: it is encoded, and the tag enters STAGED (R64, R91, R97, R99, R229). -/
def State.stage (s : State) (t : Nat) : State :=
  let x := s.tag t
  let p := x.packet
  match x.opcode, x.frame with
  | some .stripeParity, _ => if x.st = .queued ∧ pkByte p 48 = 1 then s.stageClose t (pkByte p 49) else s
  | some .programPage, some f =>
    if x.st != .fetching || x.delivered != 2 then s
    else
      let q := pkQuarterOut p
      let r := s.programPayload f p q
      if r.1.2 then r.2.stopTag t .dataPoisoned 0
      else
        let c := r.2.codePage (pkAddr p) (pkSize p) q (pkLevel p) r.1.1
        let s := (c.2.putCodes f c.1 false).setCode f (pkAddr p) (pkSize p) q (pkLevel p)
        ((s.contribute t).enterStaged t).wakeForwards f
  | some .programRaw, some f =>
    if x.st != .fetching || x.delivered != 2 then s
    else
      let r := s.frameRead f 0 (pkLen p)
      if r.1.2 then r.2.stopTag t .dataPoisoned 0
      else
        let s := r.2.modFrame f (fun y => { y with rawLen := some (pkLen p), seedAddr := pkAddr p, staged := true })
        (s.enterStaged t).wakeForwards f
  | some .copyPage, some f =>
    if (x.st != .queued && x.st != .decoding) || x.delivered != 2 then s
    else if x.poisoned then s.stopTag t .dataPoisoned 0
    else
      let r := s.encodeFrame f (pkAddr p) (pkSize p) (pkQuarterOut p) (pkLevel p)
      if r.1 then r.2.stopTag t .dataPoisoned 0 else (r.2.enterStaged t).wakeForwards f
  | some .reprogramHeld, some f =>
    if x.st != .queued then s
    else if (s.frame f).rawLen.isSome then s.enterStaged t
    else
      let r := s.decodeFrame f t
      match r.1 with
      | some l => (r.2.modTag t (fun y => { y with payload := l })).enterStaged t
      | none => r.2.stopTag t .dataPoisoned 0
  | _, _ => s

/-- Both parity pages of a close have ended well at the die (R118). -/
def State.closeDone (s : State) (t k : Nat) : State := (s.releaseAcc k).programSucceeds t .success 0

/-- The info word of a program-type command that fails, `f` its held frame, `info` what its failure adds, `q` a Q page (R80,
R462). -/
def lostInfo (st : Status) (f info : Nat) (q : Bool) : Nat :=
  match st with
  | .lunStatusFail => f + info + if q then 2 ^ 24 else 0
  | .outcomeIndeterminate => f
  | .replayExhausted => f + info
  | .targetAbsent => info
  | _ => 0

/-- A program-type command of the work fails at the die or in recovery, with its frame held where the status holds one
(R94, R100). A close whose one page fails ends with it: its other page is not programmed, and the accumulator is released
(R118; assumption log). -/
def State.programLost (s : State) (id : Nat) (st : Status) (info : Nat) (hold : Bool) : State :=
  match s.work id with
  | none => s
  | some w =>
    match w.tag, w.frame with
    | some t, some f =>
      let x := s.tag t
      let role := if w.role = .readBack then w.wasRole else w.role
      let st := x.statusOf st
      let hold := hold || x.ue
      let info := lostInfo st (if hold && !x.runOn then f else 0) info (role == .qPage)
      let fs := (s.works.filter (fun e => e.2.tag == some t)).filterMap (fun e => e.2.frame)
      let s := s.endTagWorks t
      if x.opcode = some .stripeParity then
        let s := if x.runOn then fs.foldl (fun (s : State) g => if (s.frame g).st == .inUse then s.freeF g else s) s else s
        (s.programFails t f st info hold).releaseAcc (pkByte x.packet 49)
      else if x.opcode = some .reprogramHeld then
        if x.runOn then s.programFails t f st info false
        else
          let move := st == .lunStatusFail || st == .outcomeIndeterminate
          let s := s.modTag t (fun y => { y with rebind := move })
          let s := if !x.committed then s.commitTag t st (BitVec.ofNat 32 info)
                   else if x.stagedAck then s.addDeferred t f st info else s
          if move then s.releaseOne f else s.endTag t
      else s.programFails t f st info hold
    | some t, none => (s.endTagWorks t).finish t st info
    | none, _ => s.endWork id

/-- A page or program is being recovered, or waits to be sent again after a fault (R544). -/
def Work.recovers (w : Work) : Bool := w.replay && w.st != .confirmed

/-- A page of the close of tag `t` has ended: the tag shows REPLAYING only while a page of it is recovered (R544). -/
def State.pageRecovered (s : State) (t : Nat) : State :=
  if (s.tag t).st == .replaying && !s.works.any (fun e => e.2.tag == some t && e.2.recovers) then
    (s.modTag t (fun x => { x with phase := none })).tagTo t .confirmed
  else s

/-- A program-type command of the work ends well at the die (R74, R100, R118). -/
def State.programWell (s : State) (id : Nat) : State :=
  match s.work id with
  | none => s
  | some w =>
    let role := if w.role = .readBack then w.wasRole else w.role
    match w.tag with
    | none => s.endWork id
    | some t =>
      let x := s.tag t
      if x.ue && !x.committed then s.programLost id .outcomeIndeterminate 0 true
      else
      let s := s.endWork id
      let k := pkByte x.packet 49
      let page := role == .pPage || role == .qPage
      if page && x.runOn then
        let s := match w.frame with | some f => s.freeF f | none => s
        if s.works.any (fun e => e.2.tag == some t) then s else s.programSucceeds t .success 0
      else
      match role with
      | .pPage =>
        let s := s.modAcc k (fun a => { a with pDone := true })
        if (s.acc k).qDone || (s.acc k).count < 2 then s.closeDone t k else s.pageRecovered t
      | .qPage =>
        let s := s.modAcc k (fun a => { a with qDone := true })
        if (s.acc k).pDone then s.closeDone t k else (s.pageRecovered t).obtSweep
      | _ =>
        let s := match x.opcode, w.frame with
          | some .reprogramHeld, some f =>
            ((s.modFrame f (fun y => { y with named := none })).dropDeferred f).freeF f |>.modTag t
              (fun y => { y with frame := none })
          | _, _ => s
        s.programSucceeds t x.status x.info.toNat

/-- A program or erase has ended at the die, badly or well; the raw status byte goes into the info word (R80, R164). -/
def State.dieEnd (s : State) (id : Nat) (bad : Bool) (status : Byte) : State :=
  match s.work id with
  | none => s
  | some w =>
    let info := status.toNat * 2 ^ 16
    if w.kind = .program then (if bad then s.programLost id .lunStatusFail info true else s.programWell id)
    else
      match w.tag with
      | none => s.endWork id
      | some t =>
        let s := s.endWork id
        if bad then s.finish t .lunStatusFail info else s.finish t .success 0

/-- A recovered operation finds its LUN ready (R464): an erase is issued again, a program is read back from offset 0. -/
def State.recoverReady (s : State) (id : Nat) : State :=
  s.modWork id (fun w =>
    if w.kind = .erase then { w with st := .waiting, adm := .none, sent := false }
    else { w with kind := .read, role := .readBack, raw := true, base := noOffsets, cold := false, attempt := 0
                  st := .waiting, adm := .none, sent := false, quarters := [], codes := [], failed := [] })

/-- The channel trains for a rate and a mode: rate 0 is of SDR alone (R129, R130). -/
def Chan.toTrain (c : Chan) (rate mode : Nat) (why : TrainWhy) : Chan :=
  { c with st := .training, trainWhy := some why, trainRate := rate, trainMode := if rate = 0 then 1 else mode }

/-- A training starts: no step of it has failed yet (R136; assumption log). -/
def State.noStepFailed (s : State) (n : Nat) : State := s.setFld (chanPage n + 0xA0) 29 24 0

/-- The LUNs that the reset of work `w` resets: the addressed one for a LUN reset, else those of its target (R106). -/
def State.resetLuns (s : State) (w : Work) : List Nat :=
  if pkByte (s.tag (w.tag.getD 0)).packet 48 = 2 then [w.lun]
  else countUp (2 * targetOf w.lun) (s.tgtLuns w.ch (targetOf w.lun))

/-- A reset has ended on all its LUNs: their grants are released and their holds clear (R160, R161), and the channel
retrains (R106). -/
def State.resetDone (s : State) (n id : Nat) (w : Work) : State :=
  let ls := s.resetLuns w
  let s := s.releaseGrants (fun g => ls.any (fun l => g.lun == lunKey n l) || g.work == id)
  let s := ls.foldl (fun (s : State) l => s.modLun (lunKey n l) (fun x => { x with held := false })) s
  let s := s.endWork id
  match w.tag with
  | some tag => (s.noStepFailed n).modChan n (fun c => c.toTrain c.rate c.mode (.targetReset tag))
  | none => s

/-- The works that an array operation ran for have ended at the die. A program or erase fails by bit 0 of the status
(R164). -/
def State.opEnds (s : State) (n l : Nat) (o : ArrayOp) (status : Byte) : State :=
  let key := lunKey n l
  let s := (s.releaseOp key o.works).modLun key (fun x => { x with op := none })
  o.works.foldl (fun (s : State) id =>
    match s.work id with
    | none => s
    | some w =>
      if w.st = .recover then s.recoverReady id
      else
        match o.kind with
        | .read => s.modWork id (fun w => { w with st := .arrayDone })
        | .reset =>
          if s.luns.any (fun e => e.1 / 16 == n && (match e.2.op with | some p => p.works.contains id | none => false))
          then s else s.resetDone n id w
        | .program | .erase => s.dieEnd id (status.getLsbD 0) status
        | .access | .routine => s.modWork id (fun w => if w.st = .paused then { w with adm := .none } else w)) s

/-- The LUN of channel `n` whose poll is next (R148); in a training, of those that the recovery has reset (R459). -/
def State.pollNext (s : State) (n : Nat) : Option Nat :=
  if (s.chan n).st == .training then
    if (s.chan n).inReset then none
    else (countUp 0 16).find? (fun l => let x := s.lun (lunKey n l)
      x.pollDue && (match x.op with | some o => o.kind == .reset | none => false))
  else match s.bestJob n with | some (.poll l) => some l | _ => none

/-- STATUS_POLL reads the status byte of the LUN whose poll is next (R148, R161, R164). A LUN that is ready while its
operation is being suspended has ended the operation only if its array is ready too. -/
def State.statusPoll (s : State) (n : Nat) (status : Byte) : State :=
  match s.pollNext n with
  | some l =>
    let key := lunKey n l
    let s := (s.traceJob n 2 15 l none).busJob n 15 [] none l false
      (.command 0x78 :: s.rowCycles n l (lunAddr n l) ++ [.status status])
    let s := s.modChan n (fun c => { c with bus := { c.bus with status := status.toNat } })
    let s := s.modLun key (fun x => { x with pollDue := false })
    if !status.getLsbD 6 then s
    else
      let s := s.modLun key (fun x => { x with held := false })
      match (s.lun key).op with
      | some o => if o.suspending && !status.getLsbD 5 then s else (s.opEnds n l o status).grantFrames n
      | none => s
  | none => s

/-- A read whose array read passed its ready limit (R160, R258). A survey whose sample read does so is abandoned (assumption
log). -/
def State.readTimeout (s : State) (id : Nat) (w : Work) : State :=
  match w.role, w.tag with
  | .own, some t => s.stopTag t .timeout 0
  | .source, some t => (s.closeRead id).stopTag t .timeout 0
  | .member i, some t => s.memberLost id t i .failed
  | .readBack, _ => s.programLost id .timeout 0 false
  | .sample _ _, _ => s.abandonSurvey w.ch
  | _, _ => s.closeRead id

/-- The ready timer of a LUN passes its limit (R160): the command ends TIMEOUT, the LUN is held, and the grant stays. -/
def State.readyTimeout (s : State) (n l : Nat) : State :=
  let key := lunKey n l
  match (s.lun key).op with
  | none => s
  | some o =>
    if o.timedOut then s
    else
      let s := o.works.foldl (fun (s : State) id =>
        match s.work id with
        | none => s
        | some w =>
          match w.kind, w.tag with
          | .read, _ => s.readTimeout id w
          | .program, some t => s.programLost id .timeout 0 (s.tag t).committed
          | _, some t => s.stopTag t .timeout 0 |>.endWork id |>.finish t .timeout 0
          | _, none => s.endWork id) s
      let s := s.modLun key (fun x => { x with
        held := true, pollDue := false, op := x.op.map (fun o => { o with timedOut := true, works := [] }) })
      (s.attn n 4).grantFrames n

/-- A bus job of channel `n` runs for work `id`, and may emit messages. -/
def State.emits (s : State) (n id : Nat) : Bool := (s.chan n).bus.running && (s.chan n).bus.work == some id

/-- The entry of the job that runs on channel `n` may send a confirm (R173, R181). -/
def State.mayConfirm (s : State) (n : Nat) : Bool :=
  let b := (s.chan n).bus
  (decide (12 ≤ b.entry) && decide (b.entry ≤ 14)) ||
    (match (s.chan n).image with | some i => (SMap.getD i.entries b.entry 0).getLsbD 13 | none => false)

/-- A message that the running job of work `id` may not emit (R172, R173, R178): a CONFIRM of an entry that confirms
nothing, or a second one; a RESULT outside a routine; a PAUSED of a job other than a program or one of orders 9 and 10, which
are the accesses, the eye scan, the sample reads and the loopback. -/
def State.badMessage (s : State) (n id op : Nat) : Bool :=
  let b := (s.chan n).bus
  (op == 3 && !b.running && b.work == some id && b.confirmed && decide (12 ≤ b.entry) && decide (b.entry ≤ 14)) ||
  s.emits n id &&
    (match op with
     | 3 => b.confirmed || !s.mayConfirm n
     | 4 => decide (b.entry < 32)
     | 6 => decide (b.entry < 32) && !([3, 4, 5, 12, 13, 19, 20, 21, 22].contains b.entry)
     | _ => false)

/-- Tag `t` of the running job enters CONFIRMED: an ABORT that waits on it is too late (R65, R172). -/
def State.confirmTag (s : State) (t : Nat) : State :=
  let r := s.tag t
  if r.st == .issued || r.st == .replaying then
    ((s.modTag t (fun x => { x with phase := none })).tagTo t .confirmed).tooLate t
  else s

/-- The array operation of a LUN runs from now on (R150). -/
def State.opFrom (s : State) (n l : Nat) : State :=
  s.modLun (lunKey n l) (fun x => { x with op := x.op.map (fun o => { o with ranFrom := s.now }) })

/-- The array operation whose confirm a routine signals runs in its LUN, under the ready timer, until a poll (R148, R172). -/
def State.routineOp (s : State) (n id l : Nat) : State :=
  (s.modWork id (fun w => { w with sent := true })).modLun (lunKey n l) (fun x =>
    if x.op.isSome then x else { x with op := some { ArrayOp.start .routine [id] with ranFrom := s.now } })

/-- The CONFIRM message (R172): the tag of the job enters CONFIRMED, and a program or erase job ends with it. -/
def State.confirmWork (s : State) (n id : Nat) : State :=
  match s.work id with
  | none => s
  | some w =>
    if !s.emits n id || s.badMessage n id 3 || (w.kind != .routine && (!w.sent || w.st != .running)) then s
    else
      let b := (s.chan n).bus
      let s := s.traceMsg n 3 b.entry 0
      let s := s.modChan n (fun c => { c with bus := { c.bus with confirmed := true } })
      let s := if w.kind = .routine then s.routineOp n id w.lun
               else
                 let s := ((s.opFrom n w.lun).modWork id (fun w => { w with st := .confirmed })).modChan n (fun c =>
                   let c := { c with bus := { c.bus with running := false, pins := Pins.idle } }
                   if c.egressWork = some id then { c with egress := [], egressWork := none } else c)
                 if w.kind = .erase then (s.count n 26 1).ledgerErase w.addr
                 else if w.kind = .program then s.count n 25 1 else s
      match w.tag with
      | some t => s.confirmTag t
      | none => s

/-- The RESULT message (R172): the word becomes the info word of a routine's tag. -/
def State.resultMsg (s : State) (n id : Nat) (word : Word) : State :=
  match s.work id with
  | some w =>
    if !s.emits n id || w.kind != .routine then s
    else
      match w.tag with
      | some t => (s.traceMsg n 4 (s.chan n).bus.entry word).modTag t (fun x => { x with result := word })
      | none => s
  | none => s

/-- The FAIL message (R172): the operation has failed at the die, and the status register becomes its status byte. A routine
runs on to its exit. -/
def State.failMsg (s : State) (n id : Nat) (status : Byte) : State :=
  match s.work id with
  | some w =>
    if w.ch != n || !(s.emits n id || w.st == .confirmed) then s
    else
      let entry := if s.emits n id then (s.chan n).bus.entry
                   else match w.kind with | .erase => 14 | .program => 12 | _ => 32
      let s := s.traceMsg n 5 entry 0
      match w.kind, w.tag with
      | .program, some _ | .erase, some _ => s.dieEnd id true status
      | .routine, some _ =>
        s.modChan n (fun c => { c with bus := { c.bus with failed := some status.toNat, status := status.toNat } })
      | _, _ => s
  | none => s

/-- Column `col` is a quarter boundary of a data-in (R147). -/
def Work.boundary (w : Work) (col : Nat) : Bool :=
  decide (0 < col) && [1, 2, 3].any (fun q => quarterColumn w.length q == col)

/-- The PAUSED message of a program (R147, R178): at a quarter boundary where a job of orders 1 to 5 waits, the job ends
without a confirm and the column that it has reached is kept. The job's
end is a safe point, at which an ABORT that waits takes effect (R64). -/
def State.pausedMsg (s : State) (n id col : Nat) : State :=
  match s.work id with
  | some w =>
    if !s.emits n id then s
    else
      let b := (s.chan n).bus
      let go := fun (s : State) =>
        let s := (s.traceMsg n 6 b.entry 0).busEnds n
        match w.role, w.tag with
        | .own, some t | .pPage, some t => (s.abortIfPending t).2
        | _, _ => s
      match w.kind with
      | .program =>
        if (s.dataInRuns n).isNone || w.resumeCol != col || !w.boundary col || !s.quarterPause n then s
        else
          let s := s.modChan n (fun c => { c with egress := [], egressWork := none })
          go (s.modWork id (fun w => { w with st := .paused }))
      | _ => s
  | none => s

/-- PUSH and PUSH_END (R172, R216). A message to a full FIFO stalls its microword and enters later (R170). -/
def State.pushMsg (s : State) (n : Nat) (entry : BitVec 6) (word : Word) (isEnd : Bool) : State :=
  if (s.chan n).inReset || (s.chan n).store != .loaded || (s.chan n).msgFull then s
  else (s.traceMsg n (if isEnd then 2 else 1) entry.toNat word).modChan n (fun c => c.pushMsg entry word isEnd)

/-- A tag of the target that is reset is treated as R106 says. A failed REPROGRAM_HELD that waits to move its frame's binding
has ended at the die (R100). -/
def State.resetTag (s : State) (t : Nat) : State :=
  let x := s.tag t
  if x.rebind then s
  else
  match x.st with
  | .issued =>
    if x.committed then
      match s.works.find? (fun e => e.2.tag == some t && e.2.frame.isSome && e.2.kind == .program), x.frame with
      | some (id, _), _ => s.programLost id .aborted 0 false
      | none, some f => (s.endTagWorks t).programFails t f .aborted 0 true
      | none, none => s
    else s.abortNow t
  | .decoding =>
    if x.rebuild.isNone && s.decoding t then s.modTag t (fun y => { y with abortPending := true }) else s.abortNow t
  | .confirmed =>
    match s.works.find? (fun e => e.2.tag == some t && e.2.kind == .program) with
    | some (id, _) => s.programLost id .outcomeIndeterminate 0 true
    | none => (s.endTagWorks t).finish t .outcomeIndeterminate 0
  | _ => s

/-- A Q page program on a LUN that is reset holds no tag there: it is sent again if it was before its confirm, and read back
after the reset if it may have passed it (assumption log). -/
def State.resetQ (s : State) (id : Nat) (w : Work) : State :=
  if w.sent || w.st == .confirmed then s.recoverReady id
  else s.modWork id (fun w => { w with st := .waiting, adm := .none, resumeCol := 0 })

/-- The command of a reset by its kind (R546). -/
def resetCommand (kind : Nat) : Byte := if kind = 0 then 0xFF else if kind = 1 then 0xFC else 0xFA

/-- TARGET_RESET: the reset's bus job starts (R106). -/
def State.targetReset (s : State) (n : Nat) : State :=
  match s.bestJob n with
  | some (.reset id) =>
    match s.work id with
    | none => s
    | some w =>
      let own := w.tag.getD 0
      let kind := pkByte (s.tag own).packet 48
      let luns := s.resetLuns w
      let s := ((s.traceJob n 1 6 w.lun w.jobTag).busJob n 6 [BitVec.ofNat 32 kind] (some id) w.lun false
        (.command (resetCommand kind) :: (if kind = 2 then s.rowCycles n w.lun w.addr else []))).issueTag w
      let ids := (s.tags.filter (fun e => e.1 != own && (match s.tagAddr e.1 with
        | some a => aCh a == n && luns.contains (aLun a)
        | none => false))).map Prod.fst
      let s := ids.foldl (fun s t => s.resetTag t) s
      let qs := s.works.filter (fun e => e.2.ch == n && luns.contains e.2.lun && e.2.role == WorkRole.qPage)
      let s := qs.foldl (fun s e => s.resetQ e.1 e.2) s
      let s := { s with works := s.works.map (fun (e : Nat × Work) =>
        if e.2.ch == n && luns.contains e.2.lun && e.2.kind == WorkKind.read && e.1 != id &&
            (e.2.st == WorkState.running || e.2.st == WorkState.arrayDone)
        then (e.1, e.2.restart) else e) }
      let s := s.modWork id (fun w => { w with st := .running, sent := true })
      luns.foldl (fun (s : State) l => s.modLun (lunKey n l) (fun x => { x with
        op := some (ArrayOp.start .reset [id]), parked := none, offsets := none, pollDue := false })) s
  | _ => s

/-- A data-in goes on to quarter boundary `quarters` or its end, unless it meets a poisoned frame word, and then no confirm is
sent (R163, R443). -/
def State.programOn (s : State) (n quarters id : Nat) (w : Work) : State :=
  let stop := s.stretchEnd w quarters
  let r := s.programBytes w w.resumeCol (stop - w.resumeCol)
  if r.1.2 then r.2.poisonProgram id else r.2.moveData n id w stop r.1.1

/-- The data-in that is in progress pauses where a job of orders 1 to 5 waits at the quarter boundary that it has reached, and
goes on otherwise; none in progress, that of the best job starts (R147). -/
def State.programRow (s : State) (n : Nat) (resume : Bool) (quarters : Nat) : State :=
  match s.dataInRuns n with
  | some (id, w) =>
    if ((s.chan n).bus.entry == 13) != resume then s
    else if s.quarterPause n then s.pausedMsg n id w.resumeCol
    else s.programOn n quarters id w
  | none =>
    match s.bestJob n with
    | some (.program id) =>
      match s.work id with
      | none => s
      | some w => if (w.st == .paused) != resume then s else (s.startData n resume id w).programOn n quarters id w
    | _ => s

/-- PROGRAM_STAGED (R229). -/
def execProgramStaged (tag : Nat) (s : State) : Host.Outcome State Fault Refusal :=
  if s.hostWorks && !(s.tag tag).committed then .next (s.stage tag) else .next s

/-- PROGRAM (R163). -/
def execProgram (ch quarters : Nat) (s : State) : Host.Outcome State Fault Refusal :=
  if s.lunOk ch 0 then .next (s.programRow ch false quarters) else .next s

/-- PROGRAM_RESUME (R147). -/
def execProgramResume (ch quarters : Nat) (s : State) : Host.Outcome State Fault Refusal :=
  if s.lunOk ch 0 then .next (s.programRow ch true quarters) else .next s

/-- FAIL (R172). -/
def execFail (ch id : Nat) (status : Byte) (s : State) : Host.Outcome State Fault Refusal :=
  if s.lunOk ch 0 then .next (s.failMsg ch id status) else .next s

/-- PUSH (R216). -/
def execPush (ch : Nat) (entry : BitVec 6) (word : Word) (s : State) : Host.Outcome State Fault Refusal :=
  if s.lunOk ch 0 then .next (s.pushMsg ch entry word false) else .next s

/-- PUSH_END (R216). -/
def execPushEnd (ch : Nat) (entry : BitVec 6) (word : Word) (s : State) : Host.Outcome State Fault Refusal :=
  if s.lunOk ch 0 then .next (s.pushMsg ch entry word true) else .next s

end Sys2Proof.Machine
end

