-- ==== Sys2Proof/Machine/Trims.lean ====
section
/-! DEFINITION. Trim converters and calibration (R425 to R438). -/

namespace Sys2Proof.Machine
open Sys2Proof

/-- The target of converter `i` is set; a step pending keeps its place (R428). -/
def Chan.setTarget (c : Chan) (i : Nat) (v : BitVec 7) : Chan :=
  let c := { c with target := setNth c.target i v }
  if nth c.live i 0 = v then { c with trimOrder := c.trimOrder.filter (fun j => j != i) }
  else if c.trimOrder.contains i then c
  else { c with trimOrder := c.trimOrder ++ [i] }

/-- The trim step of a window: the converter whose target was set earliest moves one step (R428). -/
def Chan.trimStep (c : Chan) : Chan :=
  match c.trimOrder with
  | [] => c
  | i :: rest =>
    let v := nth c.live i 0
    let t := nth c.target i 0
    let v := if v.toNat < t.toNat then v + 1 else v - 1
    { c with live := setNth c.live i v, trimOrder := if v = t then rest else c.trimOrder }

/-- Every pending step is applied at once (R427, R430). -/
def Chan.trimAll (c : Chan) : Chan := { c with live := c.target, trimOrder := [] }

/-- A code that training writes becomes live and target code (R430): no step of its converter is pending. -/
def Chan.trainCode (c : Chan) (i : Nat) (v : BitVec 7) : Chan :=
  { c with live := setNth c.live i v, target := setNth c.target i v, trimOrder := c.trimOrder.filter (fun j => j != i) }

/-- Trim steps pending on a channel (`CAL_STATUS.pending`). -/
def Chan.trimPending (c : Chan) : Nat :=
  min 0xFF ((c.live.zip c.target).foldl (fun n e => n + ((e.1.toNat - e.2.toNat) + (e.2.toNat - e.1.toNat))) 0)

/-- The calibration registers of channel `n` (R438). -/
def calAt (n : Nat) : Nat := 0x54000 + n * 0x40

/-- Four codes as a register (R438). -/
def codeWord (l : List (BitVec 7)) : Word :=
  BitVec.ofNat 32 ((nth l 0 0).toNat + (nth l 1 0).toNat * 2 ^ 8 + (nth l 2 0).toNat * 2 ^ 16 + (nth l 3 0).toNat * 2 ^ 24)

/-- The four codes of a register. -/
def wordCodes (w : Word) : List (BitVec 7) := (countUp 0 4).map (fun i => BitVec.ofNat 7 (wfld w (8 * i + 6) (8 * i)))

/-- A start or a target write is ignored. -/
def State.calReqError (s : State) (n : Nat) : State := s.setBit (calAt n) 31 true

/-- A write to `TRIM_IMP_TGT` (R431). -/
def State.trimTarget (s : State) (n : Nat) (v : Word) : State :=
  if (s.chan n).cal.st != .idle then s.calReqError n
  else
    s.modChan n (fun c => (wordCodes v).zipIdx.foldl (fun (c : Chan) e => c.setTarget e.2 e.1) c)

/-- A start may be taken (R432). -/
def State.calReady (s : State) (n : Nat) : Bool :=
  let c := s.chan n
  !c.inReset && c.st != .discovering && c.st != .training && c.cal.st == .idle

/-- `CAL_CTRL.start` (R432). -/
def State.calStart (s : State) (n : Nat) (apply : Bool) : State :=
  if s.calReady n then s.calQueue n apply none else s.calReqError n

/-- The unit takes the next queued channel (R425, R433). -/
def State.calTake (s : State) : State :=
  match s.calUnit.current, s.calUnit.queue with
  | none, n :: rest =>
    let s := { s with calUnit := { queue := rest, current := some n } }
    let s := s.modChan n (fun c => { c with cal := { c.cal with
      st := .running, runs := 0, prev := none, cfg := s.reg 0x50000, since := s.now } })
    match (s.chan n).cal.tag with
    | some t => s.tagTo t .issued
    | none => s
  | _, _ => s

/-- Two codes agree within a tolerance. -/
def within (tol : Nat) (a b : BitVec 7) : Bool :=
  decide (a.toNat - b.toNat ≤ tol) && decide (b.toNat - a.toNat ≤ tol)

/-- No ODT code is sought (R433). -/
def Cal.odtOff (c : Cal) : Bool := wfld c.cfg 10 8 == 0

/-- A search of the run has ended at a limit (R433). -/
def Cal.saturated (c : Cal) (l : List (BitVec 7)) : Bool :=
  l.zipIdx.any (fun e => !(c.odtOff && e.2 == 2) && (e.1 == 0 || e.1 == 127))

/-- The calibration of channel `n` ends with a cause (R434, R435): its `CAL_RESULT` is its last complete run. -/
def State.calEnd (s : State) (n cause runs : Nat) (res : Option (List (BitVec 7))) : State :=
  let c := (s.chan n).cal
  let p := calAt n
  let s := (s.setFld (p + 4) 23 20 runs).setFld (p + 4) 10 8 cause
  let s := match res with | some l => s.setReg (p + 0x18) (codeWord l) | none => s
  let s := s.setArrBit 0x50020 n true
  let s := match cause, res with
    | 0, some l =>
      let old := wordCodes (s.reg (p + 0x1C))
      let off := c.odtOff
      let tgt := (s.chan n).target
      let drift := s.fld (p + 8) 15 0 != 0 &&
        (l.zip old).zipIdx.any (fun e => !(off && e.2 == 2) && !within (wfld c.cfg 31 24) e.1.1 e.1.2)
      let s := (s.addFld (p + 8) 15 0 1).setReg (p + 0xC) (BitVec.ofNat 32 (s.now / 2 ^ 32))
      let s := if c.apply then
          let v : Int := (nth tgt 3 0).toNat + ((nth l 3 0).toNat : Int) - (nth old 3 0).toNat
          let v := BitVec.ofNat 7 (if v < 0 then 0 else if 127 < v then 127 else v.toNat)
          (s.modChan n (fun c =>
            let c := (c.setTarget 0 (nth l 0 0)).setTarget 1 (nth l 1 0)
            (if off then c else c.setTarget 2 (nth l 2 0)).setTarget 3 v)).setReg (p + 0x1C) (codeWord l)
        else s
      let s := s.raise 816
      if drift then s.raise 819 else s
    | 3, _ => s.raise 818
    | _, _ => s.raise 817
  let s := s.modChan n (fun c => { c with cal := Cal.init })
  let s := { s with calUnit := { s.calUnit with current := none } }
  let s := match c.tag with
    | some t => s.finish t .success (ofBool (cause == 0) + runs % 256 * 2 ^ 8 + s.fld (p + 8) 15 0 * 2 ^ 16)
    | none => s
  s.calNext n

/-- A write to `CAL_CFG` while a calibration settles applies to its first run (R433, R438). -/
def State.calSettling (s : State) : State :=
  match s.calUnit.current with
  | some n =>
    let c := (s.chan n).cal
    if c.runs = 0 ∧ s.now - c.since < 10000 then s.modChan n (fun c => { c with cal := { c.cal with cfg := s.reg 0x50000 } })
    else s
  | none => s

/-- A run of the calibration in progress ends (R433, R434), under `CAL_CFG` as it stood when the run started (R438). -/
def State.calRun (s : State) (report : CalReport) : State :=
  match s.calUnit.current with
  | none => s
  | some n =>
    let c := s.chan n
    if c.inReset then s
    else
      let runs := c.cal.runs + 1
      match report with
      | .referenceFault ohms mv =>
        if decide (ohms < 216) || decide (264 < ohms) || decide (mv < 540) || decide (660 < mv) then s.calEnd n 3 runs c.cal.prev
        else s
      | .saturated pu pd odt vref =>
        if c.cal.saturated [pu, pd, odt, vref] then s.calEnd n 2 runs c.cal.prev else s
      | .codes pu pd odt vref =>
        let l := [pu, pd, if c.cal.odtOff then nth c.target 2 0 else odt, vref]
        let agree := match c.cal.prev with
          | some p => (l.zip p).all (fun e => within (wfld c.cal.cfg 19 16) e.1 e.2)
          | none => false
        if c.cal.saturated l then s.calEnd n 2 runs c.cal.prev
        else if agree then s.calEnd n 0 runs (some l)
        else if max 2 (wfld c.cal.cfg 23 20) ≤ runs then s.calEnd n 1 runs (some l)
        else s.modChan n (fun c => { c with cal := { c.cal with runs := runs, prev := some l, cfg := s.reg 0x50000 } })

/-- CAL_START (R432): `CAL_CTRL(n)` is written with start = 1. -/
def execCalStart (ch : Nat) (apply : Bool) (s : State) : Host.Outcome State Fault Refusal :=
  if s.asleep then .next (s.holdRequest (.calStart ch apply) .access)
  else if s.serving && decide (ch < s.nch) then .next (s.calStart ch apply) else .next s

/-- CAL_UNIT_TAKE (R433). -/
def execCalUnitTake (s : State) : Host.Outcome State Fault Refusal :=
  if s.hostWorks then .next s.calTake else .next s

/-- CAL_RUN_END (R434). -/
def execCalRunEnd (report : CalReport) (s : State) : Host.Outcome State Fault Refusal :=
  if s.hostWorks then .next (s.calRun report) else .next s

/-- TRIM_IMP_TGT_WRITE (R431). -/
def execTrimImpTgtWrite (ch : Nat) (val : Word) (s : State) : Host.Outcome State Fault Refusal :=
  if s.asleep then .next (s.holdRequest (.trimImpTgtWrite ch val) .access)
  else if s.serving && decide (ch < s.nch) then .next (s.trimTarget ch val) else .next s

end Sys2Proof.Machine
end

