-- ==== Sys2Proof/Machine/Target.lean ====
section
/-! DEFINITION. What discovery reads from a chip enable: signatures, the first good copy of the parameter page, the geometry
and the Gale declaration in it (R122, R123, R126, R133). -/

namespace Sys2Proof.Machine
open Sys2Proof

/-- The geometry and the Gale declaration that a parameter page gives; `blocks` are those of a plane. -/
structure Geometry where
  toggle : Bool
  row4 : Bool
  gale4800 : Bool
  gale6400 : Bool
  warm : Nat
  bpc : Nat
  lun2 : Bool
  planes : Nat
  blocks : Nat
  pages : Nat
  pageBytes : Nat
  spare : Nat
  deriving DecidableEq, Repr

/-- The interface family of a chip enable by its signatures, "ONFI" and "JEDEC": whether it is a Toggle DDR target, or none where it gives
neither signature (R122). -/
def tgtFamily (r : TargetReport) : Option Bool :=
  if firstN 4 r.id20 = [0x4F, 0x4E, 0x46, 0x49] then some false
  else if firstN 5 r.id40 = [0x4A, 0x45, 0x44, 0x45, 0x43] then some true
  else none

/-- A copy of a parameter page has a CRC that matches (R122, R126): over bytes 0 to 253 of an ONFI page, 0 to 509 of a
JESD230 page. -/
def copyGood (tog : Bool) (l : List Byte) : Bool :=
  let n := if tog then 510 else 254
  decide (n + 2 ≤ l.length) && leNat (firstN 2 (restN n l)) == pageCrc (firstN n l)

/-- Little-endian number of `n` bytes of a page at an offset. -/
def pageNat (l : List Byte) (off n : Nat) : Nat := leNat (firstN n (restN off l))

/-- The eight bytes of a page's Gale declaration (R133). -/
def galeBytes (tog : Bool) (l : List Byte) : List Byte := firstN 8 (restN (if tog then 420 else 200) l)

/-- A Gale declaration is well formed (R133). -/
def galeDeclared (d : List Byte) : Bool :=
  pageNat d 0 2 == 0x4C47 && decide (pageNat d 2 1 < 4) && decide (pageNat d 3 1 ≤ 16) && pageNat d 4 4 == 0

/-- The geometry of a parameter page (R122, R133). Where its fields lie is the published standards' (ONFI 5.1, JESD230;
assumption log). -/
def Geometry.ofPage (tog : Bool) (l : List Byte) : Geometry :=
  let d := galeBytes tog l
  let gale := galeDeclared d
  let planes := 2 ^ (pageNat l (if tog then 104 else 113) 1 % 16)
  { toggle := tog, row4 := decide (4 ≤ pageNat l 101 1 % 16)
    gale4800 := gale && bitOf (pageNat d 2 1) 0, gale6400 := gale && bitOf (pageNat d 2 1) 1
    warm := if gale then pageNat d 3 1 else 0
    bpc := pageNat l 102 1, lun2 := decide (2 ≤ pageNat l 100 1), planes := planes
    blocks := pageNat l 96 4 / planes, pages := pageNat l 92 4, pageBytes := pageNat l 80 4, spare := pageNat l 84 2 }

/-- The first redundant copy whose CRC matches (R122). -/
def goodPage (r : TargetReport) : Option Geometry :=
  match tgtFamily r with
  | some tog => (r.copies.find? (copyGood tog)).map (Geometry.ofPage tog)
  | none => none

/-- A geometry is one that the block serves (R122). -/
def Geometry.usable (g : Geometry) : Bool := g.pageBytes == 4096 || g.pageBytes == 8192 || g.pageBytes == 16384

/-- A target is present: it gives a signature and a page with a good copy, of a geometry that the block serves. -/
def targetUsable (r : TargetReport) : Bool := match goodPage r with | some g => g.usable | none => false

/-- `TGT_GEOM_LO` and `TGT_GEOM_HI` of a present target. -/
def Geometry.regs (g : Geometry) : Word × Word :=
  (BitVec.ofNat 32 ((g.blocks - 1) % 2 ^ 20 + (g.planes - 1) % 4 * 2 ^ 20 + ofBool g.lun2 * 2 ^ 22 + 2 ^ 23 +
      g.bpc % 8 * 2 ^ 24 + ofBool g.gale4800 * 2 ^ 27 + ofBool g.gale6400 * 2 ^ 28 + ofBool g.toggle * 2 ^ 29 +
      ofBool g.row4 * 2 ^ 30),
   BitVec.ofNat 32 ((g.pages - 1) % 2 ^ 16 +
      (if g.pageBytes = 16384 then 2 else if g.pageBytes = 8192 then 1 else 0) * 2 ^ 16 + g.spare % 2 ^ 12 * 2 ^ 20))

/-- The geometry registers of what a chip enable reports: zeros where no target is present. -/
def targetWords (r : TargetReport) : Word × Word :=
  match goodPage r with
  | some g => if g.usable then g.regs else (0, 0)
  | none => (0, 0)

end Sys2Proof.Machine
end

