-- ==== Sys2Proof/Machine/Train.lean ====
section
/-! DEFINITION. Channel reset, discovery, training, the microcode stores, faults and replay (R16, R122 to R140, R188 to
R191, R214, R215, R430, R455 to R466, R544). -/

namespace Sys2Proof.Machine
open Sys2Proof

/-- The channel holds a tag in a bus phase, or an issued member or source read (R16). -/
def State.busPhase (s : State) (n : Nat) : Bool :=
  s.tags.any (fun e => e.1 / 64 == n && (e.2.st == .issued || e.2.st == .decoding || e.2.st == .replaying)) ||
    s.works.any (fun e => e.2.ch == n && e.2.kind == .read && (e.2.begun || e.2.issued) && e.2.st != .ended &&
      (match e.2.role with | .member _ | .source => true | _ => false))

/-- The channel holds a tag, a member read or a source read (`CHAN_BUSY`, R483). -/
def State.chanBusy (s : State) (n : Nat) : Bool :=
  !s.noTags n || s.works.any (fun e => e.2.ch == n && e.2.st != .ended &&
    (match e.2.role with | .member _ | .source => true | _ => false))

/-- The fields of a channel page that a channel reset sets to their reset values (R11, R127, R194): the request errors of
`CHAN_CTRL` and `MC_CTRL`, and the offset and peak of `TRACK_STATUS`. -/
def State.resetChanPage (s : State) (n : Nat) : State :=
  ((s.setBit (chanPage n + 4) 31 false).setBit (chanPage n + 0x804) 31 false).setFld (chanPage n + 0xAC) 15 0 0

/-- The self-test covers channel `n` (R485). -/
def State.testCovers (s : State) (n : Nat) : Bool :=
  decide (n < s.nch) && !(s.chan n).inReset && (s.chan n).store == .loaded

/-- A channel reset cuts short the part of a self-test that runs on channel `n` (R488). -/
def State.testReset (s : State) (n : Nat) : State :=
  if s.test.running && !(s.chan n).inReset then
    { s with test := { s.test with outcomes := s.test.outcomes ++
      [{ ch := n, failing := [], codecFail := false, trimFail := false, loopbackFail := false, storeFail := false
         skipped := true }] } }
  else s

/-- The island enters channel reset: its sequencer stops with its pins at idle, its message FIFO, data FIFOs and decoders
are emptied, a staging initialisation is
abandoned, its calibration will start again from its settle, the offsets of its LUNs count as unknown (R21, R218, R240,
R263, R436, R452), and the fields of its page that are not kept take their reset values (R11, R354). -/
def State.enterReset (s : State) (n : Nat) : State :=
  let s := (((s.testReset n).stagingAbandon n).resetChanPage n).modChan n (fun c => { c with
    inReset := true, cal := { c.cal with runs := 0, prev := none }, msgs := [], msgDrop := false, msgOpen := false, ingress := [], ingressWork := none
    egress := [], egressWork := none, soft := none, hard := [], bus := Bus.init })
  (countUp 0 16).foldl (fun (s : State) l => s.modLun (lunKey n l) (fun x => { x with offsets := none })) s

/-- The island leaves channel reset: each live trim code is its target (R427), a calibration that runs there starts
again (R436), and START runs (R180). -/
def State.leaveReset (s : State) (n : Nat) : State :=
  (s.modChan n (fun c => { c.trimAll with
    inReset := false, cal := if c.cal.st = .running then { c.cal with cfg := s.reg 0x50000, since := s.now } else c.cal })).runEntry n 0 2048

/-- The recovery step of channel `n` changes, with its FAULT trace record (R458, R499): `marked` tags of the channel. -/
def State.recTo (s : State) (n : Nat) (r : RecStep) (marked : Nat) : State :=
  if (s.chan n).recStep = r then s
  else
    (s.modChan n (fun c => { c with recStep := r })).traceRec 0x22 3 n true
      (s.fld (0x3000 + 8 * n) 14 12 + r.code * 2 ^ 4 + marked % 256 * 2 ^ 8) none

/-- The page of the close of tag `t`, or the program of tag `t`, that channel `n` runs. -/
def State.pageOn (s : State) (t n : Nat) : Option (Nat × Work) :=
  s.works.find? (fun e => e.2.tag == some t && e.2.ch == n && (e.2.kind == .program || e.2.role == .readBack))

/-- The tags that replay on channel `n`: its own in REPLAYING, and the closes that are REPLAYING for a page on it; a close is
REPLAYING on the channel of that page alone (R458, R544). -/
def State.replayTags (s : State) (n : Nat) : List Nat :=
  (s.tags.filter (fun e => e.2.st == .replaying &&
    (if e.2.opcode = some .stripeParity then
       (match s.pageOn e.1 n with | some (_, w) => w.recovers | none => false)
     else e.1 / 64 == n))).map Prod.fst

/-- How many tags replay on channel `n`. -/
def State.replayingTags (s : State) (n : Nat) : Nat := (s.replayTags n).length

/-- A discover, set_rate or retrain request is ignored. -/
def State.chanReqError (s : State) (n : Nat) : State := s.setBit (chanPage n + 4) 31 true

/-- The targets recorded present. -/
def State.presentTargets (s : State) (n : Nat) : List Nat := (countUp 0 8).filter (fun t => s.tgtPresent n t)

/-- Every present target qualifies for a Gale rate, as far as declaration and permission go (R134, R137). -/
def State.galeOk (s : State) (n code : Nat) : Bool :=
  (s.presentTargets n).all (fun t =>
    s.bit (geomAt n t) (if code = 128 then 28 else 27) && s.bit (chanPage n + 0x50 + 4 * t) 3)

/-- The next lower rung of the rate ladder (R137); the standard rung is that of R132 step 2. -/
def State.lowerRung (s : State) (n rate : Nat) : Option Nat :=
  if 96 < rate ∧ s.galeOk n 96 then some 96
  else if 72 < rate then some (min (s.fld (chanPage n + 4) 23 16) (s.chan n).stdRate)
  else none

/-- A valid rate code (R129). -/
def rateOk (c : Nat) : Bool := [0, 16, 24, 32, 48, 64, 72, 96, 128].contains c

/-- SET_FEATURE jobs give every present target the block's values of features that the block owns, in the mode and at the rate
that the channel trains for (R131, R135). -/
def State.ownFeatures (s : State) (n : Nat) (l : List (BitVec 8)) : State :=
  let rate := (s.chan n).trainRate
  let mode := (s.chan n).trainMode
  (s.presentTargets n).foldl (fun (s : State) t => (l.filter (fun a => a != 0xE8#8 || decide (72 < rate))).foldl
    (fun (s : State) a => (s.traceJob n 9 5 (2 * t) none).busJob n 5 [a.setWidth 32] none (2 * t) false
      [s.imageCommand n 5, .address a, .dataIn (leBytes 4 (if a = 0xE8#8 then (if rate = 128 then 2 else 1)
        else (Config.ownFeature a mode rate).toNat))]) s) s

/-- Step 2 of a training, and its relock of the PLL, for which the island is held in channel reset until lock (R16, R135). -/
def State.stepTwo (s : State) (n : Nat) : State := (s.ownFeatures n [0x02, 0x10, 0xE8]).enterReset n

/-- TRAIN runs for the steps from 4 on, which a training below 2,400 MT/s does not have (R135, R180). -/
def State.startTrain (s : State) (n : Nat) : State :=
  let c := s.chan n
  if c.bus.running || decide (c.trainRate < 48) then s else (s.traceJob n 9 19 0 none).busJob n 19 [4] none 0 true []

/-- Training starts at a rate and mode: from step 2, or, without a relock, from step 4 (R16, R135, R430). -/
def State.beginTrain (s : State) (n rate mode : Nat) (why : TrainWhy) (relock : Bool) : State :=
  let s := s.modChan n (fun c => c.trimAll.toTrain rate mode why)
  if relock then s.stepTwo n else s.startTrain n

/-- The resets that channel `n` gives targets for itself, in a discovery or a recovery from a power glitch (R122, R459). -/
def State.ownResets (s : State) (n : Nat) : List (Nat × Work) :=
  s.works.filter (fun e => e.2.ch == n && e.2.kind == .reset && e.2.tag.isNone)

/-- Such a reset asks for admission (R149, R406). -/
def State.askReset (s : State) (n t : Nat) : State :=
  let k := s.tick
  let r := k.2.addWork { Work.new .reset .own (lunAddr n (2 * t)) none k.1 with adm := .requested }
  r.2.askAdmission r.1 0 false

/-- The resets that channel `n` gives targets for itself end with what they are for; the grant of one that runs at a die stays
until a poll (R414). -/
def State.dropResets (s : State) (n : Nat) : State :=
  (s.ownResets n).foldl (fun (s : State) e =>
    let atDie := match (s.lun (lunKey n e.2.lun)).op with | some o => o.works.contains e.1 | none => false
    (if atDie then s else s.releaseGrants (fun g => g.work == e.1)).endWork e.1) s

/-- A TARGET_RESET job of the channel itself starts: of a discovery for every chip enable, one after the other under one grant,
and of a recovery for the next present target, whose LUNs are then polled (R122, R459). -/
def State.sendReset (s : State) (n : Nat) : State :=
  match (s.ownResets n).find? (fun e => e.2.adm == .granted && !e.2.sent) with
  | none => s
  | some (id, w) =>
    let job := fun (s : State) (l : Nat) =>
      (s.traceJob n 1 6 l none).busJob n 6 [0] (some id) l false [.command (resetCommand 0)]
    let s := s.modWork id (fun w => { w with st := .running, sent := true })
    if (s.chan n).st == .discovering then (countUp 0 8).foldl (fun s t => job s (2 * t)) s
    else
      (countUp w.lun (s.tgtLuns n (targetOf w.lun))).foldl (fun (s : State) l => s.modLun (lunKey n l) (fun x => { x with
        op := some (ArrayOp.start .reset (id :: (match x.op with | some o => o.works | none => [])))
        offsets := none, pollDue := false })) (job s w.lun)

/-- A retraining at the rate and mode that the channel holds: from step 2, with its relock, at a standard rate, else from
step 4 (R137, R190, R459). -/
def State.retrainNow (s : State) (n : Nat) (why : TrainWhy) (step2 : Bool) : State :=
  let c := s.chan n
  (s.noStepFailed n).beginTrain n c.rate c.mode why (step2 || decide (c.rate ≤ 72))

/-- The mode of `CHAN_CTRL` is one that every present target declares (R132). -/
def State.modeOk (s : State) (n : Nat) : Bool :=
  let m := s.fld (chanPage n + 4) 11 8
  (m == 2 || m == 3 || m == 4) && (s.presentTargets n).all (fun t => s.bit (geomAt n t) 29 == (m == 4))

/-- The first present target that does not qualify for a Gale rate: step 1 of R135 fails there. -/
def State.galeMiss (s : State) (n code : Nat) : Nat :=
  ((s.presentTargets n).find? (fun t =>
    !(s.bit (geomAt n t) (if code = 128 then 28 else 27) && s.bit (chanPage n + 0x50 + 4 * t) 3))).getD 0

/-- A step of the training at one rate has failed at a target (R135). -/
def State.stepFailed (s : State) (n step target : Nat) : State :=
  (s.setFld (chanPage n + 0xA0) 26 24 step).setFld (chanPage n + 0xA0) 29 27 target

/-- The channel is brought to the requested mode and rate (R132). `CHAN_STATE` shows the mode and rate that it had until the
training has succeeded (assumption log). -/
def State.bringUp (s : State) (n : Nat) (why : TrainWhy) : State :=
  let req := s.fld (chanPage n + 4) 23 16
  let mode := s.fld (chanPage n + 4) 11 8
  let std := (s.chan n).stdRate
  let s := s.noStepFailed n
  if req ≤ 72 then s.beginTrain n (min req std) mode why true
  else if s.galeOk n req then s.beginTrain n req mode why true
  else
    let s := (s.stepFailed n 1 (s.galeMiss n req)).attn n 2
    s.beginTrain n (if req = 128 ∧ s.galeOk n 96 then 96 else std) mode why true

/-- The rate and mode that are requested are codes of R129: a request for any others is ignored. -/
def State.reqOk (s : State) (n : Nat) : Bool :=
  let m := s.fld (chanPage n + 4) 11 8
  rateOk (s.fld (chanPage n + 4) 23 16) && (m == 2 || m == 3 || m == 4)

/-- `CHAN_CTRL.discover` (R122, R129, R188): its resets ask for admission. A request in a state that R122 does not name is
ignored with the others (assumption log). -/
def State.discover (s : State) (n : Nat) : State :=
  let c := s.chan n
  if c.store != .loaded || !c.fenced || s.chanBusy n || c.inReset || !s.bayOn (n / 8) || c.st == .discovering ||
      c.st == .training || !s.reqOk n then s.chanReqError n
  else (s.modChan n (fun c => { c with st := .discovering, mode := 1, rate := 0 })).askReset n 0

/-- `CHAN_CTRL.set_rate` (R132). -/
def State.setRate (s : State) (n : Nat) : State :=
  let c := s.chan n
  if c.store != .loaded || !c.fenced || s.busPhase n || c.inReset || !(c.st == .running || c.st == .unconfigured) ||
      !rateOk (s.fld (chanPage n + 4) 23 16) || !s.modeOk n || (s.presentTargets n).isEmpty || !s.bayOn (n / 8)
  then s.chanReqError n
  else s.bringUp n .setRate

/-- `CHAN_CTRL.retrain` (R137): from step 4 at a Gale rate, else from step 2, with its relock. -/
def State.retrain (s : State) (n : Nat) : State :=
  let c := s.chan n
  if c.store != .loaded || !c.fenced || s.busPhase n || c.inReset || c.st != .running then s.chanReqError n
  else s.retrainNow n .retrain false

/-- IDENTIFY reads the identity of each chip enable, at 0x20 and where that is not ONFI's at 0x40, and PARAM_READ the parameter
page of those that give a signature (R122, R180). -/
def State.identify (s : State) (n : Nat) (found : List TargetReport) : State :=
  (countUp 0 8).foldl (fun (s : State) t =>
    let job := fun (s : State) (e : Nat) (arg : Nat) (l : List BusCycle) =>
      (s.traceJob n 9 e (2 * t) none).busJob n e [BitVec.ofNat 32 arg] none (2 * t) false l
    match found.find? (fun r => r.ce == t) with
    | none => (job s 2 0x20 [s.imageCommand n 2, .address 0x20])
    | some r =>
      let s := job s 2 0x20 [s.imageCommand n 2, .address 0x20, .dataOut r.id20]
      let s := if tgtFamily r = some false then s else job s 2 0x40 [s.imageCommand n 2, .address 0x40, .dataOut r.id40]
      match tgtFamily r with
      | none => s
      | some tog =>
        job s 3 0 ((if tog then [.command 0xEC, .address 0x40] else [s.imageCommand n 3]) ++ [.dataOut r.copies.flatten])) s

/-- Discovery ends with what the chip enables that answered report (R122, R123, R132, R133). A mode that the targets found
do not declare ends it in UNCONFIGURED, with the request's error set (assumption log). -/
def State.discovered (s : State) (n : Nat) (found : List TargetReport) : State :=
  if (s.chan n).st != .discovering || !(s.ownResets n).any (fun e => e.2.sent) then s
  else
    let s := (s.identify n found).dropResets n
    let seen := sortBy (fun (r : TargetReport) => r.ce) (found.filter (fun r => decide (r.ce < 8) && (tgtFamily r).isSome))
    let good := seen.filter targetUsable
    let fam := good.head?.bind tgtFamily
    let kept := good.filter (fun r => tgtFamily r == fam)
    let s := (countUp 0 8).foldl (fun (s : State) t =>
      let w := match kept.find? (fun r => r.ce == t) with | some r => targetWords r | none => (0, 0)
      (s.setReg (geomAt n t) w.1).setReg (geomAt n t + 4) w.2) s
    let s := if seen.any (fun r => (goodPage r).isNone) || good.length != kept.length then s.attn n 7 else s
    let std := kept.foldl (fun m r => min m r.maxRate) 72
    let s := s.modChan n (fun c => { c with
      present := BitVec.ofNat 8 (kept.foldl (fun v r => v ||| 2 ^ r.ce) 0), stdRate := if kept.isEmpty then 0 else std
      warm := kept.foldl (fun m r => SMap.setD m r.ce (match goodPage r with | some g => g.warm | none => 0) 0) [] })
    if kept.isEmpty then (s.attn n 0).modChan n (fun c => { c with st := .unconfigured })
    else if !s.modeOk n then ((s.attn n 0).chanReqError n).modChan n (fun c => { c with st := .unconfigured })
    else s.bringUp n .discovery

/-- `REPLAY_STATUS` of channel `n`. -/
def replayAt (n : Nat) : Nat := 0x3000 + n * 8

/-- A tag of a channel that is not restored, or that has been replayed too often, commits REPLAY_EXHAUSTED (R460,
R462). -/
def State.exhaust (s : State) (t n info : Nat) : State :=
  let x := s.tag t
  if x.rebind then s
  else
  let s := s.raise 845
  match s.pageOn t n with
  | some (id, w) =>
    let hold := x.committed || w.st == .recover || w.role == .readBack || x.phase == some .possiblySent ||
      x.phase == some .afterConfirm
    s.programLost id .replayExhausted info hold
  | none =>
    if x.committed then
      match x.frame with
      | some f => (s.endTagWorks t).programFails t f .replayExhausted (info + f) true
      | none => s.endTag t
    else s.stopTag t .replayExhausted info

/-- A channel is not restored (R460): its tags that wait or replay commit, and so do the closes whose Q page waits or replays
on it (R544). -/
def State.notRestored (s : State) (n : Nat) (own : Option Nat) : State :=
  let replays := s.replayTags n
  let ids := (s.tags.filter (fun e => own == some e.1 || replays.contains e.1 ||
    (e.1 / 64 == n && (e.2.st == .queued || e.2.st == .staged)) ||
    (match s.pageOn e.1 n with | some (_, w) => w.role == .qPage && w.st == .waiting | none => false))).map Prod.fst
  let s := ids.foldl (fun s t => s.exhaust t n (2 ^ 19)) s
  let reads := (s.works.filter (fun e => e.2.ch == n && (match e.2.role with | .member _ | .source => true | _ => false) &&
    e.2.st != .ended)).map Prod.fst
  let s := reads.foldl (fun (s : State) id =>
    match s.work id with
    | none => s
    | some w =>
      match w.role, w.tag with
      | .member i, some t => s.memberLost id t i .failed
      | .source, some t => ((s.closeRead id).raise 845).stopTag t .replayExhausted (2 ^ 19)
      | _, _ => s.closeRead id) s
  ((s.recTo n .idle 0).modChan n (fun c => { c with replaying := false })).raise 846

/-- Training failed at every rate (R137, R460): no rate is achieved (assumption log). -/
def State.trainLost (s : State) (n : Nat) : State :=
  let why := (s.chan n).trainWhy
  let s := s.dropResets n
  let s := if (s.chan n).inReset then s.leaveReset n else s.busEnds n
  let s := s.modChan n (fun c => { c with st := .unconfigured, mode := 1, rate := 0, trainWhy := none })
  let s := (s.setFld (chanPage n + 0xA0) 7 0 0).attn n 3
  match why with
  | some (.targetReset t) => s.notRestored n (some t)
  | some .fault => s.notRestored n none
  | some .discovery => s.attn n 0
  | _ => s

/-- A tag of channel `n` is replayed (R114, R461, R463): a routine that had signalled its confirm ends OUTCOME_INDETERMINATE,
a CALIBRATE restarts, a forwarded read goes on to decode, a program or erase past its confirm is re-run from here. -/
def State.replayTag (s : State) (t : Nat) : State :=
  let x := s.tag t
  let s := s.modTag t (fun x => { x with reRun := x.phase != some .beforeConfirm })
  if x.opcode = some .runRoutine ∧ x.phase = some .afterConfirm then s.stopTag t .outcomeIndeterminate 0
  else if x.opcode = some .calibrate then s.tagTo t .issued
  else if x.forwarded then s.tagTo t .decoding
  else s

/-- Training at the present rung has ended (R122, R131, R135 to R137, R430). -/
def State.rungTrained (s : State) (n re we eq : Nat) (vref : BitVec 7) (rd wd : List (BitVec 7)) : State :=
  let c := s.chan n
  let p := chanPage n + 0xA0
  let s := s.setReg p (BitVec.ofNat 32 (c.trainRate + re % 64 * 2 ^ 8 + we % 64 * 2 ^ 14 +
    (if 72 < c.trainRate then eq % 8 else 0) * 2 ^ 20 + s.fld p 29 24 * 2 ^ 24))
  let s := s.modChan n (fun c =>
    let c := if 48 ≤ c.trainRate then
        let c := c.trainCode 3 vref
        let c := (firstN 8 rd).zipIdx.foldl (fun (c : Chan) e => c.trainCode (4 + e.2) e.1) c
        (firstN 8 wd).zipIdx.foldl (fun (c : Chan) e => c.trainCode (12 + e.2) e.1) c
      else c
    { c with st := .running, mode := c.trainMode, rate := c.trainRate, trainWhy := none, trainedOnce := true })
  let s := ((s.setFld (chanPage n + 0xAC) 15 0 0).attn n 1).busEnds n
  let s := s.ownFeatures n [0x01, 0x02, 0x10, 0x20, 0x21, 0x22, 0x23, 0xE8]
  match c.trainWhy with
  | some .discovery => s.attn n 0
  | some (.targetReset t) => s.finish t .success 0
  | some .fault =>
    let s := s.recTo n .replay (s.replayingTags n)
    (s.replayTags n).foldl (fun s t => s.replayTag t) s
  | _ => s

/-- Training at the present rung ended or failed (R135 to R137). At 2,400 MT/s and above, eyes narrower than
`TRAIN_CFG.min_eye` fail step 7. Steps 2 and 3 end in channel reset; the later ones are those of 2,400 MT/s and above. A target
that stays busy fails step 2; after the resets of a recovery it ends the recovery (R459, R460). -/
def State.trained (s : State) (n : Nat) (report : TrainReport) : State :=
  let c := s.chan n
  if c.st != .training || c.store == .loading then s
  else
    let fails := fun (step target : Nat) =>
      let s := s.stepFailed n step target
      match s.lowerRung n c.trainRate with
      | some r => (s.attn n 2).beginTrain n r c.trainMode (c.trainWhy.getD .setRate) true
      | none => s.trainLost n
    let resets := !(s.ownResets n).isEmpty
    match report with
    | .fail step target =>
      if !resets && (if c.inReset then step == 2 || step == 3 else decide (4 ≤ step) && decide (step ≤ 7) && decide (48 ≤ c.trainRate))
      then fails step target else s
    | .busy target => if resets then s.trainLost n else if c.inReset then fails 2 target else s
    | .ok re we target eq vref rd wd =>
      let min := s.fld (chanPage n + 0xA4) 5 0
      if c.inReset || resets then s
      else if 48 ≤ c.trainRate ∧ (re < min ∨ we < min) then fails 7 target
      else s.rungTrained n re we eq vref rd wd

/-- The master becomes INVALID with a cause and an index. -/
def State.mcInvalid (s : State) (cause index : Nat) : State :=
  let s := { s with ph := { s.ph with master := 4 } }
  let s := ((s.setFld 0x410004 7 4 cause).setFld 0x410004 15 8 (index % 256)).setReg 0x410008
    (BitVec.ofNat 32 (index / 256 % 8 * 2 ^ 20))
  s.raise 825

/-- The master image as the image RAM and load control page hold it (R182, R184). -/
def State.masterImage (s : State) : Image :=
  let count := s.fld 0x41001C 11 0
  { version := s.reg 0x410014, count := count
    entries := (countUp 0 64).filterMap (fun i =>
      let w := s.reg (0x410100 + 4 * i)
      if w = 0 then none else some (i, w))
    words := (countUp 0 count).filterMap (fun i =>
      let v := (countUp 0 5).foldl (fun v j => v + (s.reg (0x400000 + 20 * i + 4 * j)).toNat * 2 ^ (32 * j)) 0
      if v = 0 then none else some (i, BitVec.ofNat 160 v)) }

/-- The channel is ready for a load (R189). -/
def State.loadReady (s : State) (n : Nat) : Bool :=
  (s.chan n).fenced && !s.busPhase n && (countUp 0 16).all (fun l => (s.lun (lunKey n l)).parked.isNone)

/-- A copy of the master into the store of channel `n` starts (R190); a refresh that is due there is one (R191). -/
def State.startLoad (s : State) (n : Nat) : State :=
  if (s.chan n).loadWhy = some .fault then s
  else
    (s.modChan n (fun c => { c with
      store := .loading, loadWhy := some .load, before := if c.recStep = .idle then c.st else c.before })).enterReset n

/-- `MC_CTRL.load` (R190). -/
def State.mcLoad (s : State) (n : Nat) : State :=
  if s.ph.master = 3 && s.loadReady n then s.startLoad n else s.setBit (chanPage n + 0x804) 31 true

/-- `MC_LOAD_CTRL.load_all` (R190). -/
def State.loadAll (s : State) : State :=
  if s.ph.master != 3 then s.setBit 0x410000 31 true
  else
    let ready := (countUp 0 s.nch).filter (fun n => s.loadReady n)
    (ready.foldl (fun s n => s.startLoad n) s).setFld 0x410004 23 16 (min 0xFF (s.nch - ready.length))

/-- A store copy ends and START runs (R190). A copy that meets an uncorrectable error stops (R448). -/
def State.loadEnd (s : State) (n : Nat) : State :=
  let c := s.chan n
  if c.loadWhy != some .load || c.store != .loading then s
  else
    let r := s.useEntry 6 0 40960
    let s := r.2.modChan n (fun c => { c with
      store := if r.1 then .empty else .loaded, image := if r.1 then none else some s.masterImage, loadWhy := none })
    let s := if c.recStep = .reset then s else s.leaveReset n
    if r.1 then s.mcInvalid 10 0
    else
    let s := (s.setFld 0x410004 31 24 n).raise 826
    if c.before = .running ∧ (s.chan n).recStep = .idle then s.retrainNow n .load false else s

/-- The store refresh of a faulted channel ends, or waits for a VALID master (R191). One that meets an uncorrectable error waits
for the next (R448). -/
def State.refresh (s : State) (n : Nat) : State :=
  let c := s.chan n
  if c.loadWhy != some .fault then s
  else if s.ph.master != 3 then
    (if c.recStep = .refreshWait then s
     else (s.recTo n .refreshWait (s.replayingTags n)).raise 828)
  else
    let r := s.useEntry 6 0 40960
    if r.1 then
      ((r.2.modChan n (fun c => { c with store := .empty, image := none })).mcInvalid 10 0 |>.recTo n .refreshWait
        (s.replayingTags n)).raise 828
    else
    let s := r.2.modChan n (fun c => { c with
      store := .loaded, image := some s.masterImage, loadWhy := none })
    let s := s.recTo n .reset (s.replayingTags n)
    (((s.addFld (chanPage n + 0x808) 31 16 1).setFld 0x410004 31 24 n)).raise 827

/-- A piece of flash work of a faulted channel (R461, R463, R464): what has passed its confirm, or may have, is
recovered from the start; everything else is issued again. What had not begun waits as it did. -/
def Work.atFault (w : Work) : Work :=
  let hit := { w with replay := true, mateOf := none, faults := w.faults + 1 }
  match w.kind with
  | .read =>
    if w.role = .readBack then
      { hit with kind := .program, role := w.wasRole, st := .recover, adm := .none, raw := false, quarters := [], codes := []
                 recovering := true }
    else if w.st = .ended ∨ w.forward then w
    else if w.st = .soft ∨ w.assist ≠ 0 then { (hit.again w.failed) with failed := [], assist := 0 }
    else if w.st = .waiting then (if w.begun || w.levelSet then hit else { w with mateOf := none })
    else hit.restart
  | .program =>
    if w.st = .waiting ∧ w.resumeCol = 0 ∧ !w.recovering then w
    else { hit with st := .recover, sent := true, recovering := true, adm := if w.st = .paused then .none else w.adm }
  | .erase =>
    if w.st = .confirmed ∨ w.st = .recover ∨ w.recovering then { hit with st := .recover, recovering := true }
    else if w.st = .waiting then w
    else { hit with st := .waiting, adm := .none, sent := false }
  | .access | .routine | .reset =>
    if w.st = .waiting then w
    else { hit with st := .waiting, adm := .none, sent := false, resumeCol := 0, column := 0, infos := [], failed := [] }

/-- The LUN of a faulted channel (R464, R465): an operation that runs goes on at the die until a poll; a suspended one
is resumed first, or, after a power glitch, only polled. The grants of works that are issued again stay until the poll
(R414). -/
def State.lunAtFault (s : State) (key : Nat) (glitch : Bool) : State :=
  let recs := (s.works.filter (fun e => lunKey e.2.ch e.2.lun == key && e.2.st == .recover)).map Prod.fst
  let s := s.grantsAtDie key (match (s.lun key).op with | some o => o.works.filter (fun id => !recs.contains id) | none => [])
  let keep := fun (o : ArrayOp) => { o with works := o.works.filter (fun id => recs.contains id), suspending := false }
  s.modLun key (fun l =>
    let l := { l with offsets := none, op := l.op.map keep }
    let l := match l.parked with
      | none => l
      | some o =>
        if glitch then
          { l with parked := none
                   op := some (match l.op with
                     | some p => { p with works := p.works ++ (keep o).works }
                     | none => { keep o with suspended := false }) }
        else { l with parked := some { keep o with resumeNow := true } }
    let known := (match l.op with | some o => o.works | none => []) ++ (match l.parked with | some o => o.works | none => [])
    let lost := recs.filter (fun id => !known.contains id)
    let l := if lost.isEmpty then l
             else { l with op := match l.op with
                | some o => some { o with works := o.works ++ lost }
                | none => some (ArrayOp.start .program lost) }
    { l with pollDue := l.op.isSome })

/-- How a page of the close of tag `t` on a faulted channel is treated, as a program-type command of the tag (R544): nothing
happens to one that has not begun. -/
def State.pagePhase (s : State) (t : Nat) (w : Work) : Option (ReplayPhase × Bool) :=
  let x := s.tag t
  if w.st = .waiting ∧ w.resumeCol = 0 ∧ !w.recovering then none
  else
    let past := x.st == .confirmed || x.phase == some .afterConfirm || w.st == .confirmed
    some (if past then .afterConfirm else .possiblySent, w.st != .recover || x.reRun)

/-- How a tag is treated at a fault of channel `n`: its phase in REPLAYING, and whether the fault counts (R461, R544). A
failed REPROGRAM_HELD that waits to move its frame's binding has ended on the channel (R100). -/
def State.faultPhase (s : State) (t n : Nat) : Option (ReplayPhase × Bool) :=
  let x := s.tag t
  if x.rebind then none
  else if x.opcode = some .stripeParity then
    match s.pageOn t n with
    | some (_, w) => s.pagePhase t w
    | none => none
  else if t / 64 != n then none
  else
    match x.st with
    | .issued =>
      let begun := s.works.any (fun e => e.2.tag == some t && e.2.kind == .program &&
        !(e.2.st == .waiting && e.2.resumeCol == 0))
      some (if begun then .possiblySent else .beforeConfirm, true)
    | .confirmed => some (.afterConfirm, true)
    | .decoding => if x.rebuild.isSome then none else some (.beforeConfirm, true)
    | .replaying => some (x.phase.getD .beforeConfirm, x.reRun)
    | _ => none

/-- A fault of channel `n` reaches tag `t` (R461, R462). An ABORT that waits on it acts as on a REPLAYING tag (R64, R466). -/
def State.faultTag (s : State) (t n kind : Nat) : State :=
  match s.faultPhase t n with
  | none => s
  | some (ph, counts) =>
    let x := s.tag t
    let s := s.modTag t (fun x => { x with
      phase := some ph, reRun := false, lastFault := if counts then kind else x.lastFault })
    if counts && decide (3 ≤ x.replays) then s.exhaust t n (kind * 2 ^ 16)
    else
      let s := (s.modTag t (fun x => { x with replays := if counts then x.replays + 1 else x.replays })).tagTo t .replaying
      if ph = .afterConfirm then (if x.abortPending then s.tooLate t else s) else (s.abortIfPending t).2

/-- Member and source reads that a fault hits for the third time fail (R258, R466). -/
def State.faultReads (s : State) (n kind : Nat) : State :=
  ((s.works.filter (fun e => e.2.ch == n && decide (3 ≤ e.2.faults) && e.2.st != .ended)).map Prod.fst).foldl
    (fun (s : State) id =>
      match s.work id with
      | none => s
      | some w =>
        match w.role, w.tag with
        | .member i, some t => s.memberLost id t i .failed
        | .source, some t => ((s.closeRead id).raise 845).stopTag t .replayExhausted (kind * 2 ^ 16)
        | .member _, none | .source, none => s.closeRead id
        | _, _ => s) s

/-- The flash work of a faulted channel; the works of a REPLAYING tag run ahead of the others (R463). -/
def State.worksAtFault (s : State) (n : Nat) : State :=
  { s with works := s.works.map (fun (e : Nat × Work) =>
    if e.2.ch = n then
      let w := e.2.atFault
      let own := match w.role, w.tag with
        | .own, some t => (s.tag t).st == .replaying && !w.forward
        | _, _ => false
      (e.1, { w with replay := w.replay || own })
    else e) }

/-- Channel `n` faults (R455, R458). A RESET_TARGET in its retraining is issued again (R463). Its store is LOADING while a refresh copies the master into it (R188, R191). -/
def State.fault (s : State) (n kind addr : Nat) : State :=
  let p := replayAt n
  let s := (s.addFld p 31 16 1).setFld p 14 12 kind
  let s := if kind = 1 ∨ kind = 2 then
      ((s.addFld (chanPage n + 0x80C) 31 16 1).setFld (chanPage n + 0x80C) 15 14 kind).setFld (chanPage n + 0x80C) 10 0 addr
    else s
  let s := (s.abandonSurvey n).dropResets n
  let copy := s.ph.master == 3
  let again := match (s.chan n).trainWhy with | some (.targetReset t) => some t | _ => none
  let s := s.modChan n (fun c => { c.truncateMsg with
    replaying := true, recStep := .idle, cal := { c.cal with runs := 0, prev := none }
    before := if c.recStep = .idle then c.st else c.before, trainWhy := none
    loadWhy := if kind = 1 ∨ kind = 2 then some .fault else c.loadWhy
    store := if (kind = 1 ∨ kind = 2) ∧ copy then .loading else c.store, glitch := c.glitch || kind == 4 })
  let s := (s.enterReset n).modChan n (fun c => { c with st := if c.st = .absent then .absent else .reset })
  let marked := (s.tags.filter (fun e => (s.faultPhase e.1 n).isSome)).map Prod.fst
  let s := marked.foldl (fun s t => s.faultTag t n kind) ((s.recTo n .stopping marked.length).recTo n .reset marked.length)
  let s := match again with
    | some t =>
      if (s.tag t).st == TagState.replaying then
        (s.addWork (Work.new .reset .own (pkAddr (s.tag t).packet) (some t) (s.tag t).stamp)).2 else s
    | none => s
  let s := s.worksAtFault n
  let s := (countUp 0 16).foldl (fun s l => s.lunAtFault (lunKey n l) (kind == 4)) s
  let s := (s.faultReads n kind).raise 843
  if (kind == 1 || kind == 2) && !copy then s.refresh n else s

/-- A fault may happen: the island works and is not in channel reset. -/
def State.canFault (s : State) (n : Nat) : Bool := s.hostOn && decide (n < s.nch) && !(s.chan n).inReset

/-- The faulted island leaves reset and trains again (R458, R459): after a power glitch its targets are reset first. -/
def State.resetEnd (s : State) (n : Nat) : State :=
  let c := s.chan n
  if c.recStep != .reset || !c.inReset || c.loadWhy == some .fault || c.glitch || c.store == .loading then s
  else
    let s := s.leaveReset n
    if c.before = .running ∨ c.before = .training then
      let glitch := s.fld (replayAt n) 14 12 == 4 && !(s.presentTargets n).isEmpty
      let s := s.recTo n .retrain (s.replayingTags n)
      if glitch then
        let s := (s.noStepFailed n).modChan n (fun c => c.toTrain c.rate c.mode .fault)
        (s.presentTargets n).foldl (fun s t => s.askReset n t) s
      else s.retrainNow n .fault false
    else (s.recTo n .idle 0).modChan n (fun c => { c with
      st := if c.before = .absent then .absent else .unconfigured, replaying := false })

/-- Replay ends: no tag replays on the channel (R458, R544). -/
def State.replayEnd (s : State) (n : Nat) : State :=
  if (s.chan n).recStep != .replay || !(s.replayTags n).isEmpty then s
  else
    let s := { s with works := s.works.map (fun (e : Nat × Work) => if e.2.ch = n then (e.1, { e.2 with replay := false }) else e) }
    ((s.recTo n .idle 0).modChan n (fun c => { c with replaying := false })).raise 844

/-- The read back of a recovered program ends (R464). -/
def State.readBack (s : State) (id : Nat) : State :=
  match s.work id with
  | none => s
  | some w =>
    if w.role != .readBack || w.st != .decoding then s
    else if w.codes.all (fun v => v == 0) then
      s.modWork id (fun w => { w with
        kind := .program, role := w.wasRole, st := .waiting, adm := .none, raw := false, sent := false, resumeCol := 0
        replay := true, codes := [], quarters := [] })
    else if w.codes.all (fun v => v == 1) then s.programWell id
    else if w.attempt = 0 ∧ w.codes.all (fun v => v == 1 || v == 3) then
      let b := s.tgtBpc w.ch (targetOf w.lun)
      let r := s.deltas (ladderIndex b 0) 1
      r.2.modWork id (fun w => { w with
        st := .waiting, adm := .none, levelSet := false, attempt := 1, base := r.1, quarters := w.codes, codes := [] })
    else (s.raise 845).programLost id .outcomeIndeterminate 0 true

/-- A read whose packet was lost runs again from its array read, at the same Veer step or assist read (R215). -/
def Work.rerun (w : Work) : Work :=
  if w.role = .readBack then { w with st := .waiting, adm := .none, levelSet := false, codes := [] }
  else if w.assist ≠ 0 then w.again (firstN 1 w.failed)
  else w.restart

/-- A packet of a read lost in the ingress FIFO (R215). Its codewords leave the decoders; a second loss of the tag ends it. -/
def State.readPacketLost (s : State) (id : Nat) (w : Work) (again : Bool) : State :=
  match w.tag with
  | some t =>
    if again then
      (if w.role = .readBack then s.programLost id .dataPoisoned 0 (s.tag t).committed else s.stopTag t .dataPoisoned 0)
    else
      let s := s.modChan w.ch (fun c =>
        let c := c.hardDrop id s.decodeCfg
        { c with soft := c.soft.map (fun b => if b.work = id then { b with read := [] } else b) })
      let s := s.modWork id Work.rerun
      if w.role = .own then s.tagTo t .issued else s
  | none => s.modWork id Work.rerun

/-- A program whose packet was lost in the egress FIFO runs its data-in again from the set-up command (R215), under the grant
that it holds. -/
def State.programPacketLost (s : State) (id : Nat) (w : Work) : State :=
  let key := lunKey w.ch w.lun
  let s := s.modLun key (fun l => { l with op := l.op.map (fun o => o.without id) })
  let s := s.modLun key (fun l => match l.op with
    | some o => if o.works.isEmpty ∧ o.kind = .program then { l with op := none } else l
    | none => l)
  let s := s.modChan w.ch (fun c => if c.bus.work = some id then { c with bus := Bus.init } else c)
  s.modWork id (fun w => { w with st := .waiting, sent := false, resumeCol := 0 })

/-- A packet lost in the ingress or the egress FIFO (R215): its job runs again, and a second loss of the tag commits
DATA_POISONED. What a routine had in that FIFO is gone. -/
def State.packetLost (s : State) (id : Nat) (ingress : Bool) : State :=
  match s.work id with
  | none => s
  | some w =>
    let again := match w.tag with | some t => decide (1 ≤ (s.tag t).losses) | none => false
    let s := match w.tag with | some t => s.modTag t (fun x => { x with losses := x.losses + 1 }) | none => s
    match w.kind with
    | .read => s.readPacketLost id w again
    | .program => if again then s.poisonProgram id else s.programPacketLost id w
    | _ =>
      let s := s.modChan w.ch (fun c =>
        if c.bus.work != some id then c
        else if ingress then { c with bus := { c.bus with captured := [], closed := [] } }
        else { c with bus := { c.bus with egress := [] } })
      match w.tag with
      | some t => if again then s.stopTag t .dataPoisoned 0 else s
      | none => s

/-- Disagreeing pointer copies empty a FIFO (R214, R215). -/
def State.fifoMismatch (s : State) (n : Nat) (f : FifoId) : State :=
  let p := chanPage n + 0x91C
  let c := s.chan n
  match f with
  | .ingress =>
    let s := ((s.addFld p 31 24 1).setBit p 0 true).raise 815
    let s := s.modChan n (fun c => { c with ingress := [], ingressWork := none })
    (match c.ingressWork with | some id => s.packetLost id true | none => s)
  | .egress =>
    let s := ((s.addFld p 23 16 1).setBit p 1 true).raise 815
    let s := s.modChan n (fun c => { c with egress := [], egressWork := none })
    (match c.egressWork with | some id => s.packetLost id false | none => s)
  | .message =>
    let s := ((s.addFld p 15 8 1).setBit p 2 true).raise 815
    s.modChan n (fun c => { c with msgs := [], msgDrop := false, msgOpen := false })

/-- A window of 256 channel clocks ends (R138 to R140, R428): one trim step, or else one tracking step, is applied; `late`
says to which side of the sampling point the strobe lay. -/
def State.trackWindow (s : State) (n : Nat) (late : Option Bool) : State :=
  let c := s.chan n
  let p := chanPage n + 0xAC
  if c.inReset then s
  else if !c.trimOrder.isEmpty then
    (if c.survey.st = .eye then s else s.modChan n (fun c => c.trimStep))
  else
    match late with
    | none => s
    | some up =>
      if c.st != .running || decide (c.rate < 48) then s
      else
        let o : Int := signedOf 8 (s.fld p 7 0) + (if up then 1 else -1)
        let s := s.setFld p 7 0 (BitVec.ofInt 8 o).toNat
        let s := if s.fld p 15 8 < o.natAbs then s.setFld p 15 8 o.natAbs else s
        if max 1 (s.fld (chanPage n + 0xA4) 13 8) < o.natAbs then (s.addFld p 31 16 1).fault n 3 0 else s

/-- `REPLAY_CTRL.fault` (R457). -/
def State.faultRequest (s : State) (n : Nat) : State :=
  if (s.chan n).st = .running ∧ (s.chan n).recStep = .idle ∧ !(s.chan n).inReset then s.fault n 5 0 else s.setBit (replayAt n + 4) 31 true

/-- ILLEGAL_MICROWORD (R179). -/
def execIllegalMicroword (ch : Nat) (addr : BitVec 11) (s : State) : Host.Outcome State Fault Refusal :=
  if s.canFault ch && (s.chan ch).store == .loaded then .next (s.fault ch 1 addr.toNat) else .next s

/-- DISCOVER (R122). -/
def execDiscover (ch : Nat) (s : State) : Host.Outcome State Fault Refusal :=
  if s.asleep then .next (s.holdRequest (.discover ch) .access)
  else if s.serving && decide (ch < s.nch) && !(s.chan ch).inReset then .next (s.discover ch) else .next s

/-- DISCOVERY_END (R122). -/
def execDiscoveryEnd (ch : Nat) (found : List TargetReport) (s : State) : Host.Outcome State Fault Refusal :=
  if s.hostOn && decide (ch < s.nch) then .next (s.discovered ch found) else .next s

/-- SET_RATE (R132). -/
def execSetRate (ch : Nat) (s : State) : Host.Outcome State Fault Refusal :=
  if s.asleep then .next (s.holdRequest (.setRate ch) .access)
  else if s.serving && decide (ch < s.nch) && !(s.chan ch).inReset then .next (s.setRate ch) else .next s

/-- RETRAIN (R137). -/
def execRetrain (ch : Nat) (s : State) : Host.Outcome State Fault Refusal :=
  if s.asleep then .next (s.holdRequest (.retrain ch) .access)
  else if s.serving && decide (ch < s.nch) && !(s.chan ch).inReset then .next (s.retrain ch) else .next s

/-- PLL_RELOCK (R16). -/
def execPllRelock (ch : Nat) (s : State) : Host.Outcome State Fault Refusal :=
  if s.hostOn && decide (ch < s.nch) && (s.chan ch).st == .training && (s.chan ch).inReset &&
      (s.chan ch).store != .loading then .next ((s.leaveReset ch).startTrain ch)
  else .next s

/-- The resets of a recovery have all ended with the poll before which some were out: the training starts at step 2 (R459). -/
def State.resetsPolled (s : State) (n : Nat) (out : Bool) : State :=
  if out && (s.ownResets n).isEmpty && (s.chan n).st == .training then s.stepTwo n else s

/-- STATUS_POLL (R148, R459). -/
def execStatusPoll (ch : Nat) (status : Byte) (s : State) : Host.Outcome State Fault Refusal :=
  if s.lunOk ch 0 then .next ((s.statusPoll ch status).resetsPolled ch (!(s.ownResets ch).isEmpty)) else .next s

/-- TARGET_RESET (R106, R122, R459). -/
def execTargetReset (ch : Nat) (s : State) : Host.Outcome State Fault Refusal :=
  if s.lunOk ch 0 then .next (if (s.ownResets ch).isEmpty then s.targetReset ch else s.sendReset ch) else .next s

/-- TRAINING_END (R136, R137). -/
def execTrainingEnd (ch : Nat) (report : TrainReport) (s : State) : Host.Outcome State Fault Refusal :=
  if s.hostOn && decide (ch < s.nch) then .next (s.trained ch report) else .next s

/-- STROBE_TRACKING_WINDOW (R139). -/
def execStrobeTrackingWindow (ch : Nat) (late : Option Bool) (s : State) : Host.Outcome State Fault Refusal :=
  if s.hostOn && decide (ch < s.nch) then .next (s.trackWindow ch late) else .next s

/-- FIFO_POINTER_MISMATCH (R214). -/
def execFifoPointerMismatch (ch : Nat) (fifo : FifoId) (s : State) : Host.Outcome State Fault Refusal :=
  if s.hostOn && decide (ch < s.nch) && !(s.chan ch).inReset then .next (s.fifoMismatch ch fifo) else .next s

/-- LOAD_ALL (R190). -/
def execLoadAll (s : State) : Host.Outcome State Fault Refusal :=
  if s.asleep then .next (s.holdRequest .loadAll .access)
  else if s.serving then .next s.loadAll else .next s

/-- MC_LOAD (R190). -/
def execMcLoad (ch : Nat) (s : State) : Host.Outcome State Fault Refusal :=
  if s.asleep then .next (s.holdRequest (.mcLoad ch) .access)
  else if s.serving && decide (ch < s.nch) && !(s.chan ch).inReset then .next (s.mcLoad ch) else .next s

/-- CHANNEL_LOAD_END (R190). -/
def execChannelLoadEnd (ch : Nat) (s : State) : Host.Outcome State Fault Refusal :=
  if s.hostOn && decide (ch < s.nch) then .next (s.loadEnd ch) else .next s

/-- STORE_REFRESH (R191). -/
def execStoreRefresh (ch : Nat) (s : State) : Host.Outcome State Fault Refusal :=
  if s.hostOn && decide (ch < s.nch) then .next (s.refresh ch) else .next s

/-- REPLAY_FAULT_REQUEST (R457). -/
def execReplayFaultRequest (ch : Nat) (s : State) : Host.Outcome State Fault Refusal :=
  if s.asleep then .next (s.holdRequest (.replayFaultRequest ch) .access)
  else if s.serving && decide (ch < s.nch) then .next (s.faultRequest ch) else .next s

/-- CHANNEL_RESET_END (R458). -/
def execChannelResetEnd (ch : Nat) (s : State) : Host.Outcome State Fault Refusal :=
  if s.hostOn && decide (ch < s.nch) then .next (s.resetEnd ch) else .next s

/-- READ_BACK (R464). -/
def execReadBack (id : Nat) (s : State) : Host.Outcome State Fault Refusal :=
  if s.hostOn then .next (s.readBack id) else .next s

/-- REPLAY_END (R458). -/
def execReplayEnd (ch : Nat) (s : State) : Host.Outcome State Fault Refusal :=
  if s.hostOn && decide (ch < s.nch) then .next (s.replayEnd ch) else .next s

end Sys2Proof.Machine
end

