-- ==== Sys2Proof/Machine/Mcode.lean ====
section
/-! DEFINITION. The microcode master image: opening, verification and its outcome (R182 to R187). -/

namespace Sys2Proof.Machine
open Sys2Proof

/-- Bytes of a range of registers, lowest address first. -/
def State.regBytes (s : State) (off n : Nat) : List Byte :=
  (countUp 0 (n / 4)).flatMap (fun i => leBytes 4 (s.reg (off + 4 * i)).toNat)

/-- The public key bytes of the load control page. -/
def State.mcKey (s : State) : List Byte := s.regBytes 0x410200 96

/-- The signed message: header, entry table and all microwords (R183). -/
def State.mcMessage (s : State) : List Byte :=
  s.regBytes 0x410010 32 ++ s.regBytes 0x410100 256 ++ s.regBytes 0x400000 40960

/-- An entry of the entry table breaks R181, or a valid entry lies at or above the word count. -/
def entryBad (n i : Nat) (w : Word) : Bool :=
  wfld w 31 14 != 0 || (w.getLsbD 11 && decide (n ≤ wfld w 10 0)) ||
    (if i < 23 then !w.getLsbD 11 || w.getLsbD 12 || w.getLsbD 13
     else if i < 32 then w != 0
     else (w.getLsbD 12 || w.getLsbD 13) && !w.getLsbD 11)

/-- A microword of the image RAM. -/
def State.mcWord (s : State) (i : Nat) : BitVec 160 :=
  BitVec.ofNat 160 ((countUp 0 5).foldl (fun v j => v + (s.reg (0x400000 + 20 * i + 4 * j)).toNat * 2 ^ (32 * j)) 0)

/-- The first check of R187 that fails, as (cause, index); none when all of the first nine pass. -/
def State.mcFails (s : State) : Option (Nat × Nat) :=
  let hash := s.ties.keyHash
  let n := s.fld 0x41001C 11 0
  if hash = 0 ∨ hash = BitVec.allOnes 384 then some (1, 0)
  else if sha384 s.mcKey ≠ hash then some (2, 0)
  else if !ecdsaOk (sha384 s.mcMessage) s.mcKey (s.regBytes 0x410300 96) then some (3, 0)
  else if s.reg 0x410010 ≠ 0x4B454F4E ∨ (countUp 0 4).any (fun i => s.reg (0x410020 + 4 * i) != 0) then some (4, 0)
  else if s.fld 0x410018 31 16 ≠ 3 ∨ 1 < s.fld 0x410018 15 0 then some (5, 0)
  else if n = 0 ∨ 2048 < n ∨ s.fld 0x41001C 31 12 ≠ 0 ∨ s.reg 0x410014 = 0 then some (6, 0)
  else
    match (countUp 0 64).find? (fun i => entryBad n i (s.reg (0x410100 + 4 * i))) with
    | some i => some (7, i)
    | none =>
      match (countUp 0 n).find? (fun i => mwBad (s.mcWord i)) with
      | some i => some (8, i)
      | none => ((countUp n (2048 - n)).find? (fun i => s.mcWord i != 0)).map (fun i => (9, i))

/-- No channel load is in progress (R185). -/
def State.noLoads (s : State) : Bool := (countUp 0 s.nch).all (fun n => (s.chan n).store != .loading)

/-- `MC_LOAD_CTRL.open` (R185). -/
def State.mcOpen (s : State) : State :=
  if s.ph.master != 2 && s.noLoads then { s with ph := { s.ph with master := 1 } } else s.setBit 0x410000 31 true

/-- `MC_LOAD_CTRL.verify` (R185). -/
def State.mcVerify (s : State) : State :=
  if s.ph.master = 1 then { s with ph := { s.ph with master := 2 } } else s.setBit 0x410000 31 true

/-- The master has become VALID: the refreshes that wait for it go on, and their copies run (R188, R191). -/
def State.refreshesGo (s : State) : State :=
  (countUp 0 s.nch).foldl (fun (s : State) n =>
    if (s.chan n).recStep = .refreshWait then
      (s.modChan n (fun c => { c with store := .loading })).recTo n .reset (s.replayingTags n)
    else s) s

/-- Verification ends (R187). The key checks come before the image is read; an uncorrectable error that reading it meets ends the
verification (R448). -/
def State.mcVerified (s : State) : State :=
  if s.ph.master != 2 then s
  else
    let early := match s.mcFails with | some (c, _) => decide (c ≤ 2) | none => false
    let r := if early then (false, s) else s.useEntry 6 0 40960
    if r.1 then r.2.mcInvalid 10 0
    else
      match s.mcFails with
      | some (c, i) => r.2.mcInvalid c i
      | none => ({ r.2 with ph := { r.2.ph with master := 3 } }.refreshesGo).raise 824

/-- MC_OPEN (R185). -/
def execMcOpen (s : State) : Host.Outcome State Fault Refusal :=
  if s.asleep then .next (s.holdRequest .mcOpen .access)
  else if s.serving then .next s.mcOpen else .next s

/-- MC_VERIFY (R185). -/
def execMcVerify (s : State) : Host.Outcome State Fault Refusal :=
  if s.asleep then .next (s.holdRequest .mcVerify .access)
  else if s.serving then .next s.mcVerify else .next s

/-- VERIFY_END (R187). -/
def execVerifyEnd (s : State) : Host.Outcome State Fault Refusal :=
  if s.hostWorks then .next s.mcVerified else .next s

end Sys2Proof.Machine
end

