-- ==== Sys2Proof/Machine/Survey.lean ====
section
/-! DEFINITION. Margin surveys and the margin plan (R284 to R292). -/

namespace Sys2Proof.Machine
open Sys2Proof

/-- The plan page of channel `n` (R295). -/
def planAt (n : Nat) : Nat := 0x330000 + n * 0x100

/-- The registers of sample slot `j` of channel `n`. -/
def sampleAt (n j : Nat) : Nat := planAt n + 0x80 + j * 0x10

/-- Surveys that run in the block (R285). -/
def State.surveysActive (s : State) : Nat :=
  ((countUp 0 s.nch).filter (fun n => let t := (s.chan n).survey.st; t != .idle && t != .waiting)).length

/-- The survey of channel `n` changes. -/
def State.modSurvey (s : State) (n : Nat) (f : Survey → Survey) : State :=
  s.modChan n (fun c => { c with survey := f c.survey })

/-- Sample slot `j` of channel `n`: its address word. -/
def State.sampleAddr (s : State) (n j : Nat) : Addr :=
  BitVec.ofNat 64 ((s.reg (sampleAt n j)).toNat + s.fld (sampleAt n j + 4) 19 0 * 2 ^ 32)

/-- A sample is skipped: its page is bound, its LUN held, its bay absent, or a field fails (R287). -/
def State.sampleSkipped (s : State) (n j : Nat) : Bool :=
  let a := s.sampleAddr n j
  let p := sampleAt n j + 8
  let t := targetOf (aLun a)
  aCh a != n || !(s.addrFails 0 a false).isEmpty || !s.chanBayOn n || (s.lun (lunKey n (aLun a))).held ||
    s.frames.any (fun f => match f.2.bind with | some b => wholePage b == wholePage a | none => false) ||
    !(s.geoFails n t (s.fld p 9 8) (s.fld p 2 0) 0 (s.bit p 7)).isEmpty || s.fld p 9 8 == 3 ||
    (s.bit p 7 && s.fld p 9 8 != 2) || !s.typeOk n t (s.fld p 6 4)

/-- The next sample read of a survey, from slot `j` on; after the last slot the rings are counted (R287). -/
def State.nextSlotN (s : State) (fuel n j : Nat) : State :=
  match fuel with
  | 0 => s
  | k + 1 =>
    if 8 ≤ j then s.modSurvey n (fun v => { v with
      st := if v.parts.getLsbD 2 then .rings else .planning, ring := 0 })
    else if !s.bit (sampleAt n j + 8) 31 then
      (s.modSurvey n (fun v => { v with results := setNth v.results j (0, 0, 0) })).nextSlotN k n (j + 1)
    else if s.sampleSkipped n j then
      (s.modSurvey n (fun v => { v with results := setNth v.results j (4, 0, 0) })).nextSlotN k n (j + 1)
    else
      let a := s.sampleAddr n j
      let p := sampleAt n j + 8
      let t := s.tick
      let w := { Work.new .read (.sample j (-2)) a none t.1 with
        level := s.fld p 2 0, pageSize := s.fld p 9 8, pageType := s.fld p 6 4, quarterLayout := s.bit p 7, quarters := [0] }
      let r := t.2.addWork w
      (r.2.fixLevels r.1).modSurvey n (fun v => { v with slot := j, shift := -2, bits := [], erased := 0 })

/-- The part of a survey that follows `k` parts (R285). -/
def State.surveyPart (s : State) (n k : Nat) : State :=
  let v := (s.chan n).survey
  if k = 0 ∧ v.parts.getLsbD 0 ∧ 48 ≤ (s.chan n).rate then s.modSurvey n (fun v => { v with st := .eye })
  else if k ≤ 1 ∧ v.parts.getLsbD 1 then
    (s.modSurvey n (fun v => { v with st := .samples, results := copies 8 (0, 0, 0) })).nextSlotN 9 n 0
  else if v.parts.getLsbD 2 then s.modSurvey n (fun v => { v with st := .rings, ring := 0 })
  else s.modSurvey n (fun v => { v with st := .planning })

/-- A survey of channel `n` starts with the parts selected (R110, R285). -/
def State.startSurvey (s : State) (n parts : Nat) (tag : Option Nat) : State :=
  let s := s.modSurvey n (fun v => { Survey.init with
    parts := BitVec.ofNat 3 (if parts % 8 = 0 then 7 else parts % 8), tag := tag, again := v.again
    due := if tag.isNone then false else v.due })
  let s := match tag with | some t => s.tagTo t .issued | none => s
  s.surveyPart n 0

/-- Channel `n` may run a survey (R285). -/
def State.surveyReady (s : State) (n : Nat) : Bool :=
  let c := s.chan n
  c.st == .running && !c.fenced && !c.replaying && (c.survey.st == .idle || c.survey.st == .waiting)

/-- A SURVEY command that waited for the survey of its channel runs (R110). -/
def State.surveyAgain (s : State) (n : Nat) : State :=
  match (s.chan n).survey.again with
  | t :: rest =>
    if s.surveyReady n then
      (s.modSurvey n (fun v => { v with again := rest })).startSurvey n (pkByte (s.tag t).packet 48) (some t)
    else s
  | [] => s

/-- The first due channel that may start does so, in channel order (R285, R484); none by schedule at an interval of 0 (R284). -/
def State.surveyStart (s : State) : State :=
  match (countUp 0 s.nch).find? (fun n => !(s.chan n).survey.again.isEmpty && s.surveyReady n) with
  | some n => s.surveyAgain n
  | none =>
    if s.bit 8 8 || decide (max 1 (s.fld 0x300400 15 12) ≤ s.surveysActive) then s
    else
      match (countUp 0 s.nch).find? (fun n => s.fld 0x300400 31 16 != 0 && (s.chan n).survey.due && s.surveyReady n) with
      | some n => s.startSurvey n 7 none
      | none => s

/-- The mean of numbers, given as the list of their doubles, rounded towards zero and clamped to -8 to +7 (R286). -/
def meanShift (l : List Int) : Int :=
  let m := if l.isEmpty then 0 else Int.tdiv (l.foldl (fun a b => a + b) 0) (2 * (l.length : Int))
  if m < -8 then -8 else if 7 < m then 7 else m

/-- Positions from `i` on that pass without a break. -/
def passRun (x : BitVec 64) (fuel i : Nat) : Nat :=
  match fuel with
  | 0 => 0
  | k + 1 => if x.getLsbD i then passRun x k (i + 1) + 1 else 0

/-- The eye of a DQ in one direction (R286): the width of the widest run of passing positions, and twice its midpoint; 0
and 0 where none passes. -/
def eyeOf (x : BitVec 64) : Nat × Int :=
  let w := (countUp 0 64).foldl (fun a i => max a (passRun x 64 i)) 0
  let starts := (countUp 0 64).filter (fun i => passRun x 64 i == w)
  let i := match starts with | [i] => i | l => nth l (Config.eyeRun l % l.length) 0
  if w = 0 then (0, 0) else (w, 2 * (i : Int) - 64 + ((w : Int) - 1))

/-- The reports of every DQ of every present target of channel `n`, in order of target and DQ (R286): none where one is
missing. -/
def State.eyeReports (s : State) (n : Nat) (report : List EyeReport) : Option (List EyeReport) :=
  ((countUp 0 8).filter (fun t => s.tgtPresent n t)).flatMap (fun t => (countUp 0 8).map (fun d => (t, d)))
    |>.mapM (fun q => report.find? (fun r => r.target == q.1 && r.dq == q.2))

/-- The eye scan has stepped through the positions of every target and DQ (R286); the job that ended last named DQ 7 and the
second direction. -/
def State.eyeScan (s : State) (n : Nat) (report : List EyeReport) : State :=
  if (s.chan n).survey.st != .eye || !s.chanRuns n || (s.chan n).bus.running || (s.bestJob n).isSome then s
  else
    match s.eyeReports n report with
    | none => s
    | some rs =>
      match leastBy (fun (r : EyeReport) => (eyeOf r.readPass).1) rs, leastBy (fun (r : EyeReport) => (eyeOf r.writePass).1) rs with
      | some a, some b =>
        let shifts := (countUp 0 8).map (fun d =>
          meanShift ((rs.filter (fun r => r.dq == d)).map (fun r => (eyeOf r.readPass).2)))
        let s := (s.traceJob n 10 20 0 none).busJob n 20 [Config.jobArgument 20 15] none 0 false []
        (s.modSurvey n (fun v => { v with
          eyes := some [(eyeOf a.readPass).1, a.dq, (eyeOf b.writePass).1, b.dq], shifts := shifts })).surveyPart n 1
      | _, _ => s

/-- The best shift of a sample: fewest corrected bits, then the smaller shift, then the negative one (R287). -/
def bestShift (l : List (Int × Nat)) : Option (Int × Nat) :=
  leastBy (fun e => e.2 * 16 + e.1.natAbs * 2 + (if 0 < e.1 then 1 else 0)) l

/-- The outcome of a sample slot, once its five reads are made (R287). -/
def State.sampleDone (s : State) (id : Nat) (w : Work) (j : Nat) : State :=
  let v := (s.chan w.ch).survey
  let s := s.endWork id
  let r := bestShift v.bits
  let s := match r with
    | some (b, _) =>
      if b = 0 then s
      else
        let x := s.ladderOf w.addr w.pageType
        let a := s.attemptOffsets x w.base w.cold w.coldStep w.steps 0
        let step : Int := (max 1 (s.fld 0x300400 7 0) : Nat)
        a.2.writeLevels w.addr w.pageType (a.1.map (fun (o : BitVec 8) => sat8 (o.toInt + b * step))) true
    | none => if v.erased = 5 then s else s.raise 854
  let res : Nat × Int × Nat := match r with
    | some (b, c) => (1, b, c)
    | none => if v.erased = 5 then (3, 0, 0) else (2, 0, 0)
  (s.modSurvey w.ch (fun v => { v with results := setNth v.results j res })).nextSlotN 9 w.ch (j + 1)

/-- A survey sample read: its array read, data-out and hard decode, behind the codewords that the hard decoder holds (R234,
R287). -/
def State.sampleRead (s : State) (n : Nat) (data : List Byte) : State :=
  match s.bestJob n with
  | some (.sample id) =>
    match s.work id with
    | some w =>
      match w.role with
      | .sample j shift =>
        if data.length != w.cfg.bytes w.level || !(s.chan n).hard.isEmpty then s
        else
          let s := ((s.traceJob n 10 21 w.lun none).busJob n 21 [Config.jobArgument 21 (shift + 2).toNat]
            (some id) w.lun false []).readsStart n w.lun 1
          let k := s.levelKey w
          let s := s.modLun (lunKey n w.lun) (fun l => { l with offsets := some k })
          let s := s.ledgerRead w.addr
          let d := s.decodeBytes n w.cfg w.level s.decodeCfg data
          let s := d.2.traceDecode n 0 0 0 d.1.1.code (if w.quarterLayout then some 0 else none) d.1.1.fixed
          let s := s.modSurvey n (fun v => { v with
            bits := if d.1.1.good then v.bits ++ [(shift, d.1.1.fixed)] else v.bits
            erased := if d.1.1 = .erased then v.erased + 1 else v.erased, shift := shift + 1 })
          let s := s.releaseGrants (fun g => g.work == id)
          if shift < 2 then
            s.modWork id (fun w => { w with role := .sample j (shift + 1), adm := .none })
          else s.sampleDone id w j
      | _ => s
    | none => s
  | _ => s

/-- The slowdown of ring `i` of channel `n` against its baseline, in units of 0.1% (R288). -/
def ringSlow (base count : Nat) : Int :=
  if base = 0 then 0 else Int.fdiv ((((base : Int) - count) * 1000)) (base : Int)

/-- The baseline of ring `i` of channel `n`. -/
def State.ringBase (s : State) (n i : Nat) : Nat :=
  s.fld (planAt n + 0x28 + 4 * (i / 2)) (16 * (i % 2) + 15) (16 * (i % 2))

/-- The worst of the ring slowdowns: the ring and its value. -/
def State.worstRing (s : State) (n : Nat) (counts : List Nat) : Nat × Int :=
  (counts.zipIdx.map (fun e => (e.2, ringSlow (s.ringBase n e.2) e.1))).foldl
    (fun a b => if a.2 < b.2 then b else a) (0, ringSlow (s.ringBase n 0) (counts.headD 0))

/-- A ring oscillator count ends (R288). -/
def State.ringCount (s : State) (n ring count : Nat) : State :=
  let v := (s.chan n).survey
  if v.st != .rings || v.ring != ring then s
  else
    let c := min count 0xFFFF
    let s := if s.ringBase n ring = 0 then
        s.setFld (planAt n + 0x28 + 4 * (ring / 2)) (16 * (ring % 2) + 15) (16 * (ring % 2)) c else s
    let counts := v.counts ++ [c]
    if ring < 3 then s.modSurvey n (fun v => { v with counts := counts, ring := ring + 1 })
    else
      let w := s.worstRing n counts
      let lim := s.fld 0x300404 31 24
      let s := s.modSurvey n (fun v => { v with counts := counts, st := .planning })
      if lim != 0 && decide ((lim : Int) ≤ w.2) then s.raise 853 else s

/-- The next lower valid rate code, never code 0 (R289). -/
def lowerRate (r : Nat) : Option Nat := ([16, 24, 32, 48, 64, 72, 96, 128].filter (fun c => c < r)).getLast?

/-- An eye in its field of six bits. -/
def eyeBits (e : Nat) : Nat := if e < 64 then e else (Config.eyeField e).toNat

/-- A slowdown in its signed field of 16 bits; below the field's range only the sign is given. -/
def slowBits (w : Int) : Nat :=
  if w < -32768 then 2 ^ 15 + (Config.slowField w).toNat else (BitVec.ofInt 16 w).toNat

/-- The measured parts of a survey are written into the plan page (R286 to R288). -/
def State.putMeasures (s : State) (n : Nat) : State :=
  let v := (s.chan n).survey
  let p := planAt n
  let s := if !v.parts.getLsbD 0 then s
    else match v.eyes with
      | some l => (s.setReg (p + 0x10) (BitVec.ofNat 32 (eyeBits (nth l 0 0) + eyeBits (nth l 2 0) * 2 ^ 8 +
          nth l 1 0 * 2 ^ 16 + nth l 3 0 * 2 ^ 19 + 2 ^ 31))).setReg (p + 0xC)
          (BitVec.ofNat 32 (v.shifts.zipIdx.foldl (fun a e => a + (BitVec.ofInt 4 e.1).toNat * 2 ^ (4 * e.2)) 0))
      | none => s.setReg (p + 0x10) 0
  let s := if !v.parts.getLsbD 1 then s
    else v.results.zipIdx.foldl (fun (s : State) e =>
      s.setReg (sampleAt n e.2 + 0xC) (BitVec.ofNat 32
        (min 0xFFFF e.1.2.2 + (BitVec.ofInt 3 e.1.2.1).toNat * 2 ^ 24 + e.1.1 * 2 ^ 28))) s
  if !v.parts.getLsbD 2 then s
  else
    let w := s.worstRing n v.counts
    let s := s.setReg (p + 0x20) (BitVec.ofNat 32 (nth v.counts 0 0 + nth v.counts 1 0 * 2 ^ 16))
    let s := s.setReg (p + 0x24) (BitVec.ofNat 32 (nth v.counts 2 0 + nth v.counts 3 0 * 2 ^ 16))
    s.setReg (p + 0x1C) (BitVec.ofNat 32 (slowBits w.2 + w.1 * 2 ^ 16))

/-- The rate that the plan recommends, and why (R289). -/
def State.planRate (s : State) (n : Nat) : Nat × Nat :=
  let p := planAt n
  let r := (s.chan n).rate
  let req := s.fld (chanPage n + 4) 23 16
  let m := s.bit (p + 0x10) 31 && decide (48 ≤ r)
  let eyes := (s.chan n).survey.eyes
  let re := match eyes with | some l => nth l 0 0 | none => s.fld (p + 0x10) 5 0
  let we := match eyes with | some l => nth l 2 0 | none => s.fld (p + 0x10) 13 8
  let floor := s.fld 0x300404 15 10
  let lim := s.fld 0x300404 31 24
  let ring := lim != 0 && decide ((lim : Int) ≤ signedOf 16 (s.fld (p + 0x1C) 15 0))
  if m && (decide (re < floor) || decide (we < floor)) then ((lowerRate r).getD r, 1)
  else if ring then ((lowerRate r).getD r, 2)
  else
    let high := floor + s.fld 0x300404 9 6
    if decide (r < req) && (!m || (decide (high ≤ re) && decide (high ≤ we))) then (req, 3) else (r, 0)

/-- The samples that decoded: slot, prediction and configuration factor (R289). -/
def State.predictions (s : State) (n : Nat) : List (Nat × Nat × Nat) :=
  (countUp 0 8).filterMap (fun j =>
    let p := sampleAt n j
    if s.fld (p + 0xC) 31 28 = 1 then
      some (j, divUp (s.fld (p + 0xC) 15 0 * (100 + s.fld 0x300404 23 16)) 100, (codeCfg (s.fld (p + 8) 9 8) (s.bit (p + 8) 7)).factor)
    else none)

/-- The level that the plan recommends is written (R289). -/
def State.planLevel (s : State) (n : Nat) : State :=
  let p := planAt n
  let ps := s.predictions n
  let failed := (countUp 0 8).any (fun j => s.fld (sampleAt n j + 0xC) 31 28 == 2)
  let s := match ps with
    | [] => s.setReg (p + 0x14) 0
    | e :: rest =>
      let w := rest.foldl (fun a b => if a.2.1 * a.2.2 < b.2.1 * b.2.2 then b else a) e
      s.setReg (p + 0x14) (BitVec.ofNat 32 (min 0xFFFF (w.2.1 * w.2.2) + w.1 * 2 ^ 20 + ps.length * 2 ^ 24))
  if ps.isEmpty && !failed then s
  else
    let ok := fun (l : Nat) => ps.all (fun e => decide (e.2.1 ≤ s.fld (0x820 + 4 * l) 15 0 / e.2.2))
    match (if failed then none else (countUp 0 8).find? ok) with
    | some l => (s.setFld (p + 4) 10 8 l).setBit (p + 4) 13 false
    | none => (s.setFld (p + 4) 10 8 7).setBit (p + 4) 13 true

/-- The ladder starts of the plan are written (R289). -/
def State.planStarts (s : State) (n : Nat) : State :=
  let cs := (s.chan n).coldCounts
  let s := (countUp 0 5).foldl (fun (s : State) t =>
    let best := (countUp 0 16).foldl (fun (a : Option (Nat × Nat)) k =>
      let c := SMap.getD cs (16 * t + k) 0
      match a with
      | none => if c = 0 then none else some (k, c)
      | some b => if b.2 < c then some (k, c) else a) none
    match best with
    | some b => s.setFld (planAt n + 8) (4 * t + 3) (4 * t) b.1
    | none => s) s
  s.modChan n (fun c => { c with coldCounts := [] })

/-- The plan's shifts are handed to the delay converters (R292). -/
def State.autoTrim (s : State) (n : Nat) (shifts : List Int) : State :=
  if !s.bit 0x300404 0 then s
  else s.modChan n (fun c => shifts.zipIdx.foldl (fun (c : Chan) e =>
    if e.1.natAbs < 2 then c
    else
      let v : Int := ((nth c.target (4 + e.2) 0).toNat : Int) + e.1
      c.setTarget (4 + e.2) (BitVec.ofNat 7 (if v < 0 then 0 else if 127 < v then 127 else v.toNat))) c)

/-- Planning ends: the plan registers change together (R289 to R292). The channel is due again an interval after this end (R284). -/
def State.rewritePlan (s : State) (n : Nat) : State :=
  let v := (s.chan n).survey
  if v.st != .planning then s
  else
    let p := planAt n
    let s := (s.putMeasures n).planLevel n
    let r := s.planRate n
    let s := ((s.setFld (p + 4) 23 16 r.1).setFld (p + 4) 15 14 r.2).planStarts n
    let s := s.setReg (p + 0x18) (BitVec.ofNat 32 s.ageNow)
    let s := (s.setFld p 31 16 (s.fld p 31 16 + 1)).setFld p 13 12 1
    let s := (((s.setArrBit 0x300420 n true).raise 851).count n 22 1)
    let s := if r.1 = (s.chan n).rate then s else s.raise 852
    let s := if v.eyes.isSome then s.autoTrim n v.shifts else s
    let s := s.modSurvey n (fun v => { Survey.init with again := v.again })
    let s := match v.tag with | some t => s.finish t .success 0 | none => s
    s.surveyAgain n

/-- A survey interval has passed (R284). -/
def State.surveyDue (s : State) (n : Nat) : State :=
  if s.fld 0x300400 31 16 == 0 || !(s.chan n).trainedOnce then s
  else s.modSurvey n (fun v => { v with due := true, st := if v.st = .idle then .waiting else v.st })

/-- SURVEY_DUE (R284). -/
def execSurveyDue (ch : Nat) (s : State) : Host.Outcome State Fault Refusal :=
  if s.hostWorks && decide (ch < s.nch) then .next (s.surveyDue ch) else .next s

/-- SURVEY_START (R285). -/
def execSurveyStart (s : State) : Host.Outcome State Fault Refusal :=
  if s.hostWorks then .next s.surveyStart else .next s

/-- EYE_SCAN (R286). -/
def execEyeScan (ch : Nat) (report : List EyeReport) (s : State) : Host.Outcome State Fault Refusal :=
  if s.hostWorks && decide (ch < s.nch) then .next (s.eyeScan ch report) else .next s

/-- SAMPLE_READ (R287). -/
def execSampleRead (ch : Nat) (data : List Byte) (s : State) : Host.Outcome State Fault Refusal :=
  if s.lunOk ch 0 then .next (s.sampleRead ch data) else .next s

/-- RING_COUNT_END (R288). -/
def execRingCountEnd (ch ring count : Nat) (s : State) : Host.Outcome State Fault Refusal :=
  if s.hostWorks && decide (ch < s.nch) then .next (s.ringCount ch ring count) else .next s

/-- PLAN_REWRITE (R290). -/
def execPlanRewrite (ch : Nat) (s : State) : Host.Outcome State Fault Refusal :=
  if s.hostWorks && decide (ch < s.nch) then .next (s.rewritePlan ch) else .next s

end Sys2Proof.Machine
end

