-- ==== Sys2Proof/Machine/Service.lean ====
section
/-! DEFINITION. Fences, write protection and self-tests (R479 to R489). -/

namespace Sys2Proof.Machine
open Sys2Proof

/-- A write of chapter 18 is ignored. -/
def State.globalReqError (s : State) : State := s.setBit 8 31 true

/-- Firmware fences channel `n` (R481): reads not yet issued fail, and a survey is abandoned. -/
def State.setFence (s : State) (n : Nat) : State :=
  if (s.chan n).fenced then s
  else
    let s := (s.modChan n (fun c => { c with fenced := true })).abandonSurvey n
    let ids := (s.works.filter (fun e => e.2.ch == n && e.2.kind == .read && e.2.st == .waiting && !e.2.begun &&
      !e.2.forward && (match e.2.role with | .member _ | .source => true | _ => false))).map Prod.fst
    ids.foldl (fun (s : State) id =>
      match s.work id with
      | none => s
      | some w =>
        match w.role, w.tag with
        | .member i, some t => s.memberLost id t i .failed
        | .source, some t => (s.closeRead id).stopTag t .channelFenced n
        | _, _ => s.closeRead id) s

/-- Firmware unfences channel `n`, unless the channel is busy with what R482 names. -/
def State.clearFence (s : State) (n : Nat) : State :=
  let c := s.chan n
  if c.st == .discovering || c.st == .training || c.store == .loading || !s.stagingQuiet n then s.globalReqError
  else s.modChan n (fun c => { c with fenced := false })

/-- A bit of `WP_REL_SET` is written with 1 (R479). -/
def State.wpSet (s : State) (n : Nat) : State :=
  if (s.bay (n / 8)).st = .on ∧ (s.chan n).st = .running then s.setArrBit 0x5080 n true else s.globalReqError

/-- `FC<n>_WP_N` of channel `n` is deasserted (R479, R480). -/
def State.wpHigh (s : State) (n : Nat) : Bool :=
  (s.bay (n / 8)).st == .on && !(s.bay (n / 8)).glitch &&
    (s.arrBit 0x5080 n || s.tags.any (fun e => e.1 / 64 == n && e.2.runOn && e.2.st == .confirmed))

/-- A self-test starts (R112, R489). -/
def State.testStart (s : State) (extended : Bool) : State :=
  let s := s.setReg 0x5200 (BitVec.ofNat 32 ((s.fld 0x5200 31 16 + 1) % 2 ^ 16 * 2 ^ 16 + 0x100 + ofBool extended))
  let s := (countUp 0 8).foldl (fun (s : State) i => (s.setReg (0x5220 + 4 * i) 0).setReg (0x5240 + 4 * i) 0) s
  let s := (countUp 0 256).foldl (fun (s : State) n => s.setReg (0x5400 + 4 * n) 0) s
  { s with test := { running := true, extended := extended, stopping := false, sawFrameFail := false, outcomes := [] } }

/-- The frames that a test leaves at zero (R485): the highest-numbered FREE frame, or every FREE frame. -/
def State.testedFrames (s : State) (n : Nat) : List Nat :=
  let l := (countUp (64 * n) 64).filter (fun f => (s.frame f).st == .free)
  if s.test.extended then l else match l.getLast? with | some f => [f] | none => []

/-- The store of channel `n` is compared with the master: in an extended test, where the two have one version (R192,
R485). -/
def State.comparable (s : State) (n : Nat) : Bool :=
  s.test.extended && s.ph.master == 3 && s.imageVersion n == s.reg 0x410014

/-- A part of the self-test does not run on channel `n` (R485, R488): no frame is FREE, the channel is busy with its bus
for the trim part, an extended test has no loopback there, its store is not compared, or a reset stopped a part. -/
def State.partSkipped (s : State) (n : Nat) : Bool :=
  let c := s.chan n
  (s.testedFrames n).isEmpty || c.st == .discovering || c.st == .training ||
    (s.test.extended && (!s.comparable n || (c.st != .running && !s.test.outcomes.any (fun e => e.ch == n && !e.skipped)))) ||
    s.test.outcomes.any (fun e => e.ch == n && e.skipped)

/-- The part of the self-test that ran on channel `n` when its island was reset is recorded skipped (R488). -/
def State.testCut (s : State) (n : Nat) : State := (s.setBit (0x5400 + 4 * n) 7 true).setArrBit 0x5240 n true

/-- The outcome of one channel is recorded (R485, R489). A store is found to differ only where it is compared (R192), and
words fail only in the frames tested. -/
def State.testOutcome (s : State) (o : TestOutcome) : State :=
  if !s.testCovers o.ch then s
  else
    let n := o.ch
    let loop := s.test.outcomes.any (fun e => e.ch == n && e.loopbackFail)
    let fs := s.testedFrames n
    let s := { s with words := s.words.filter (fun e => !fs.contains (e.1 / 640)) }
    let failing := o.failing.filter (fun a => fs.contains (a / 640))
    let skip := o.skipped || s.partSkipped n
    let s := failing.foldl (fun (s : State) a => s.logError 5 a true false 0x1FF) s
    let s := if failing.isEmpty ∨ s.test.sawFrameFail then s
             else { s with test := { s.test with sawFrameFail := true } }.raise 860
    let storeFail := o.storeFail && s.comparable n
    let apart := s.test.extended && !s.comparable n
    let s := if storeFail then s.raise 859 else s
    let trim := o.trimFail && (s.chan n).st != .discovering && (s.chan n).st != .training
    let bad := !failing.isEmpty || o.codecFail || trim || o.loopbackFail || loop || storeFail
    let s := s.setReg (0x5400 + 4 * n) (BitVec.ofNat 32
      (1 + ofBool (!failing.isEmpty) * 2 + ofBool o.codecFail * 4 + ofBool trim * 8 +
        ofBool (o.loopbackFail || loop) * 16 + ofBool storeFail * 32 + ofBool apart * 64 + ofBool skip * 128 +
        min 255 failing.length * 2 ^ 24))
    let s := if bad then s.setArrBit 0x5220 n true else s
    if skip then s.setArrBit 0x5240 n true else s

/-- A self-test ends (R488, R489). -/
def State.testEnd (s : State) (l : List TestOutcome) : State :=
  if !s.test.running then s
  else
    let s := (s.test.outcomes.filter TestOutcome.skipped).foldl (fun (s : State) e => s.testCut e.ch) s
    let s := l.foldl (fun s o => s.testOutcome o) s
    let fail := (countUp 0 8).any (fun i => s.reg (0x5220 + 4 * i) != 0)
    let result := if s.test.stopping then 4 else if fail then 3 else 2
    let stop := s.test.stopping
    let s := (s.setFld 0x5200 11 8 result)
    let s := { s with test := { s.test with running := false, stopping := false, outcomes := [] } }
    s.raise (if stop then 858 else if fail then 857 else 856)

/-- The loopback job of an extended test (R485). -/
def State.loopback (s : State) (n : Nat) (captured : Bool) : State :=
  if !s.test.running || !s.test.extended || !s.testCovers n || !s.chanRuns n || (s.chan n).bus.running ||
      (s.bestJob n).isSome then s
  else
    let o : TestOutcome := { ch := n, failing := [], codecFail := false, trimFail := false, loopbackFail := !captured
                             storeFail := false, skipped := false }
    let s := (s.traceJob n 10 22 0 none).busJob n 22 [Config.jobArgument 22 0] none 0 false []
    { s with test := { s.test with outcomes := s.test.outcomes ++ [o] } }

/-- CHAN_FENCE_SET (R481). -/
def execChanFenceSet (ch : Nat) (s : State) : Host.Outcome State Fault Refusal :=
  if s.asleep then .next (s.holdRequest (.chanFenceSet ch) .access)
  else if s.serving && decide (ch < s.nch) then .next (s.setFence ch) else .next s

/-- CHAN_FENCE_CLR (R482). -/
def execChanFenceClr (ch : Nat) (s : State) : Host.Outcome State Fault Refusal :=
  if s.asleep then .next (s.holdRequest (.chanFenceClr ch) .access)
  else if s.serving && decide (ch < s.nch) then .next (s.clearFence ch) else .next s

/-- WP_REL_SET (R479). -/
def execWpRelSet (ch : Nat) (s : State) : Host.Outcome State Fault Refusal :=
  if s.asleep then .next (s.holdRequest (.wpRelSet ch) .access)
  else if s.serving && decide (ch < s.nch) then .next (s.wpSet ch) else .next s

/-- WP_REL_CLR (R479). -/
def execWpRelClr (ch : Nat) (s : State) : Host.Outcome State Fault Refusal :=
  if s.asleep then .next (s.holdRequest (.wpRelClr ch) .access)
  else if s.serving && decide (ch < s.nch) then .next (s.setArrBit 0x5080 ch false) else .next s

/-- SELF_TEST_END (R489). -/
def execSelfTestEnd (outcomes : List TestOutcome) (s : State) : Host.Outcome State Fault Refusal :=
  if s.hostWorks then .next (s.testEnd outcomes) else .next s

/-- LOOPBACK (R485). -/
def execLoopback (ch : Nat) (captured : Bool) (s : State) : Host.Outcome State Fault Refusal :=
  if s.lunOk ch 0 then .next (s.loopback ch captured) else .next s

end Sys2Proof.Machine
end

