-- ==== Sys2Proof/Machine/Bays.lean ====
section
/-! DEFINITION. The bays and their power controller: presence, power, glitches, removal, buttons (R67, R387 to R402). -/

namespace Sys2Proof.Machine
open Sys2Proof

/-- The registers of bay `b` (R402). -/
def bayAt (b : Nat) : Nat := 0x80000 + 0x800 * b

/-- The Zephyr island's clock runs. -/
def State.zephyrOn (s : State) : Bool := s.ph.powered && !s.ph.aonReset

/-- A bay of the build, with the Zephyr island working. -/
def State.bayLive (s : State) (b : Nat) : Bool := s.zephyrOn && decide (b < s.nch / 8)

/-- The channels of a bay. -/
def bayChans (b : Nat) : List Nat := countUp (8 * b) 8

/-- Bits of `BAY_EVENT(b)` set (R402): a change from 0 to 1 is an edge of source 768 + `b`. A change of the state from
`was`, or of the bits, makes a BAY trace record (R499). -/
def State.bayEvents (s : State) (b : Nat) (was : BayState) (l : List Nat) : State :=
  let new := l.filter (fun n => !s.bit (bayAt b + 8) n)
  let s := new.foldl (fun (s : State) n => s.setBit (bayAt b + 8) n true) s
  let st := (s.bay b).st
  let s := if new.isEmpty ∧ st = was then s
    else s.traceRec 0x60 7 b false (new.foldl (fun v n => v + 2 ^ n) 0 + st.code * 2 ^ 8) none
  if new.isEmpty then s else s.raise (768 + b)

/-- A bay request is ignored. -/
def State.bayReqError (s : State) (b : Nat) : State := s.setBit (bayAt b + 4) 31 true

/-- A read that may go to rebuild when its bay is removed (R67). -/
def Tag.rebuilds (x : Tag) : Bool :=
  match x.opcode with
  | some o => readRebuilds o x.packet
  | none => false

/-- A read of a page that delivers its data. -/
def Tag.deliversRead (x : Tag) : Bool :=
  x.st == .delivering &&
    (match x.opcode with
     | some .readPage | some .readQuarter | some .readRaw | some .readRebuild => true
     | _ => false)

/-- A read is sent to rebuild by a removal (R67, R88): what it does at its own page ends. A pending ABORT acts on the
rebuild at once (R90). -/
def State.removalRebuild (s : State) (t : Nat) : State :=
  let x := s.tag t
  if x.rebuild.isSome then s
  else
    let own := (s.works.filter (fun e => e.2.tag == some t && e.2.role == .own)).map Prod.fst
    let s := own.foldl (fun s id => s.endWork id) s
    let s := s.modTag t (fun y => { y with
      phase := none, forwarded := false, frame := if y.forwarded then none else y.frame })
    let s := match x.frame with | some f => if x.forwarded then s.forwardEnded f else s | none => s
    ((s.toRebuild t).abortIfPending t).2

/-- A program-type command that had committed on staging, and whose die status is not yet known, becomes a deferred
record when its bay is removed (R395): of a close, the page that the bay holds; a page on another bay goes on. -/
def State.removalDefers (s : State) (t n : Nat) : State :=
  let x := s.tag t
  let bay := n / 8
  match s.pageOn t n with
  | some (id, _) => s.programLost id .targetAbsent bay true
  | none =>
    if s.works.any (fun e => e.2.tag == some t && e.2.role != .own) then s
    else
    match x.frame with
    | some f => (s.endTagWorks t).programFails t f .targetAbsent bay true
    | none => (s.endTagWorks t).endTag t

/-- Removal reaches tag `t` (R67, R359, R395). -/
def State.removeTag (s : State) (t n : Nat) : State :=
  let x := s.tag t
  let bay := n / 8
  if x.st == .free || x.rebind then s
  else if x.runOn then
    let fs := (s.works.filter (fun e => e.2.tag == some t)).filterMap (fun e => e.2.frame)
    let s := s.endTagWorks t
    let s := fs.foldl (fun (s : State) g => if (s.frame g).st == .inUse then s.freeF g else s) s
    let info := BitVec.ofNat 32 bay
    (if x.committed then s.addCarry t .targetAbsent info else s.commitTag t .targetAbsent info).endTag t
  else if x.committed then (if x.isProgram && !x.ended then s.removalDefers t n else s)
  else if x.deliversRead then s
  else if x.rebuilds then s.removalRebuild t
  else (s.stopTag t .targetAbsent bay).reopen t

/-- The channel of a removed bay stops (R394, R395, R396): discovery, training, replay, surveys and holds end, member
and source reads fail through absence, and a store load or refresh, one that waits for a VALID master too, runs to its
end. -/
def State.chanGone (s : State) (n : Nat) : State :=
  let bay := n / 8
  let s := (s.testReset n).abandonSurvey n
  let tags := (s.tags.filter (fun e => e.1 / 64 == n || s.works.any (fun w =>
    w.2.ch == n && w.2.role == .qPage && w.2.tag == some e.1))).map Prod.fst
  let s := tags.foldl (fun s t => s.removeTag t n) s
  let reads := (s.works.filter (fun e => e.2.ch == n && e.2.st != .ended)).map Prod.fst
  let s := reads.foldl (fun (s : State) id =>
    match s.work id with
    | none => s
    | some w =>
      match w.role, w.tag with
      | .member i, some t => (s.withdraw id).memberLost id t i .absent
      | .source, some t =>
        let s := s.closeRead id
        if pkSd (s.tag t).packet then s.toRebuild t else s.stopTag t .targetAbsent bay
      | .own, some t => if (s.tag t).deliversRead then s else s.closeRead id
      | _, _ => s.closeRead id) s
  let s := (countUp 0 16).foldl (fun (s : State) l =>
    (s.setLun (lunKey n l) Lun.init).releaseGrants (fun g => g.lun == lunKey n l)) s
  let s := s.modChan n (fun c =>
    { c.truncateMsg with
      st := if c.st = .reset ∧ c.recStep = .idle then .reset else .absent, before := .absent
      present := 0, mode := 0, rate := 0, trainWhy := none, replaying := false, glitch := false
      ingress := [], ingressWork := none, egress := [], egressWork := none, soft := none, hard := [], bus := Bus.init
      loadWhy := if c.store = .loading || c.loadWhy == some .fault then c.loadWhy else none, warm := [] })
  if (s.chan n).store == .loading || (s.chan n).loadWhy == some .fault then s
  else
    let s := s.recTo n .idle 0
    if (s.chan n).st != .reset && (s.chan n).inReset then s.leaveReset n else s

/-- A bay leaves ON (R394, R480): its channels stop, and the tables, the write-protection releases and the geometry marks
of its LUNs change as the rules say. -/
def State.bayGone (s : State) (b : Nat) : State :=
  let s := (bayChans b).foldl (fun s n => s.chanGone n) s
  let s := (bayChans b).foldl (fun (s : State) n => s.setArrBit 0x5080 n false) s
  let s := { s with ledger := s.ledger.filter (fun e => e.1 / 1024 != b) }
  let keys := (s.obt.filter (fun e => e.1 / 1024 == b)).map Prod.fst
  ({ s with obtDoomed := s.obtDoomed ++ keys.filter (fun k => !s.obtDoomed.contains k) }).obtSweep

/-- The bay's state changes, and event bits set with it; a wait for a ramp slot and a glitch window end. `pwr_good` stays at the level
that was sampled last (R402; assumption log). -/
def State.bayTo (s : State) (b : Nat) (st : BayState) (l : List Nat) : State :=
  let was := (s.bay b).st
  (s.modBay b (fun x => { x with
    st := st, powerPending := false, glitch := false })).bayEvents b was l

/-- The bay enters FAULT with a cause (R388, R400). -/
def State.bayFault (s : State) (b cause : Nat) : State :=
  let s := (s.addFld (bayAt b + 0x14) 31 16 1).setFld (bayAt b + 8) 17 16 cause
  let s := if s.bit (bayAt b + 0x10) 21 then s.setFld (bayAt b + 0xC) 3 2 1 else s
  s.bayTo b .fault [4]

/-- Ramp slots in force (R389, R402). -/
def State.rampSlots (s : State) : Nat := max 1 (min 32 (s.fld 0x2000 5 0))

/-- A ramp slot is free. -/
def State.rampFree (s : State) : Bool := decide (s.baysIn .ramping < s.rampSlots)

/-- A bay waits for a ramp slot. -/
def State.rampWaiter (s : State) : Option Nat :=
  (countUp 0 (s.nch / 8)).find? (fun b => (s.bay b).powerPending && (s.bay b).st == .off)

/-- A channel of the bay holds a tag, runs a member or source read, or has a suspended operation (R391). -/
def State.powerQuiet (s : State) (n : Nat) : Bool :=
  (s.chan n).fenced && !s.chanBusy n &&
    (countUp 0 16).all (fun l => (s.lun (lunKey n l)).parked.isNone &&
      (match (s.lun (lunKey n l)).op with | some o => !o.suspended | none => true))

/-- `BAY_CTRL.power_on` (R389, R390). -/
def State.powerOn (s : State) (b : Nat) : State :=
  if (s.bay b).st = .off ∧ (bayChans b).all (fun n => (s.chan n).fenced) then
    if s.rampFree && s.rampWaiter.isNone then s.bayTo b .ramping []
    else s.modBay b (fun x => { x with powerPending := true })
  else s.bayReqError b

/-- A power_off is taken (R391). -/
def State.offTaken (s : State) (b : Nat) : Bool :=
  let x := s.bay b
  x.st == .ramping || (x.st == .off && x.powerPending) || (x.st == .on && (bayChans b).all (fun n => s.powerQuiet n))

/-- `BAY_CTRL.power_off` (R391). -/
def State.powerOff (s : State) (b : Nat) : State :=
  if !s.offTaken b then s.bayReqError b
  else
    let t := s.bayTo b .off []
    if (s.bay b).st = .on then t.bayGone b else t

/-- `BAY_CTRL.clear_fault` (R392). -/
def State.clearFault (s : State) (b : Nat) : State :=
  if (s.bay b).st = .fault then s.bayTo b .off [] else s.bayReqError b

/-- A write to `BAY_CTRL` (R392): the three requests together are ignored; each of two is judged as the write arrives. -/
def State.bayCtrl (s : State) (b : Nat) (v : Word) : State :=
  let s := if bitOf v.toNat 31 then s.setBit (bayAt b + 4) 31 false else s
  if wfld v 2 0 = 7 then s.bayReqError b
  else
    let t := if bitOf v.toNat 0 then s.powerOn b else s
    let t := if bitOf v.toNat 1 then (if s.offTaken b then t.powerOff b else t.bayReqError b) else t
    if bitOf v.toNat 2 then (if (s.bay b).st = .fault then t.clearFault b else t.bayReqError b) else t

/-- A waiting bay enters RAMPING (R389), in bay order. -/
def State.rampStart (s : State) (b : Nat) : State :=
  if s.rampFree && s.rampWaiter == some b then s.bayTo b .ramping [] else s

/-- A channel of a bay that reaches ON takes a channel reset, runs START and enters UNCONFIGURED (R394). -/
def State.chanHere (s : State) (n : Nat) : State :=
  let c := s.chan n
  if c.st != .absent then s
  else if c.store == .loading || c.loadWhy == some .fault then s.modChan n (fun c => { c with st := .unconfigured, before := .unconfigured })
  else ((s.enterReset n).leaveReset n).modChan n (fun c => { c with st := .unconfigured, before := .unconfigured })

/-- The bay reaches ON (R388, R394). -/
def State.bayOnNow (s : State) (b : Nat) : State :=
  let s := (s.bayTo b .on [3]).modBay b (fun x => { x with pwrGood := true })
  (bayChans b).foldl (fun s n => s.chanHere n) s

/-- Presence is lost (R388, R395). -/
def State.presenceLost (s : State) (b : Nat) : State :=
  let was := (s.bay b).st
  if was = .empty ∨ was = .debounce then s
  else
    let s := (s.bayTo b .empty (if was = .on then [1, 2] else [1])).modBay b (fun x => { x with
      prsnt := false })
    if was = .on then s.bayGone b else s

/-- A glitch reaches a channel of the bay (R397): it faults, in channel reset too. One that has not come up since a fundamental
reset holds nothing to replay, and waits in reset for the window (R398). -/
def State.chanGlitch (s : State) (n : Nat) : State :=
  let c := s.chan n
  if c.st = .reset ∧ c.recStep = .idle then s else s.fault n 4 0

/-- Power is lost in ON (R397). -/
def State.powerLost (s : State) (b : Nat) : State :=
  if (s.bay b).st != .on || (s.bay b).glitch then s
  else if s.fld (bayAt b + 0x10) 9 0 = 0 then ((s.modBay b (fun x => { x with pwrGood := false })).bayFault b 1).bayGone b
  else
    let s := s.modBay b (fun x => { x with glitch := true, pwrGood := false })
    (bayChans b).foldl (fun s n => s.chanGlitch n) s

/-- The glitch window ends (R397): with power good again, or in FAULT. -/
def State.glitchEnd (s : State) (b : Nat) (good : Bool) : State :=
  if (s.bay b).st != .on || !(s.bay b).glitch then s
  else if good then
    let s := s.modBay b (fun x => { x with glitch := false, pwrGood := true })
    let s := (bayChans b).foldl (fun (s : State) n => s.modChan n (fun c => { c with glitch := false })) s
    s.bayEvents b .on [5]
  else (s.bayFault b 1).bayGone b

/-- PRESENCE_SEEN (R388). -/
def execPresenceSeen (b : Nat) (s : State) : Host.Outcome State Fault Refusal :=
  if s.bayLive b && (s.bay b).st == .empty then
    .next ((s.bayTo b .debounce []).modBay b (fun x => { x with prsnt := true }))
  else .next s

/-- DEBOUNCE_END (R388). -/
def execDebounceEnd (b : Nat) (s : State) : Host.Outcome State Fault Refusal :=
  if s.bayLive b && (s.bay b).st == .debounce then
    .next ((s.addFld (bayAt b + 0x14) 15 0 1).bayTo b .off [0])
  else .next s

/-- DEBOUNCE_PRESENCE_HIGH (R388). -/
def execDebouncePresenceHigh (b : Nat) (s : State) : Host.Outcome State Fault Refusal :=
  if s.bayLive b && (s.bay b).st == .debounce then
    .next ((s.bayTo b .empty []).modBay b (fun x => { x with prsnt := false }))
  else .next s

/-- PRESENCE_LOST (R388). -/
def execPresenceLost (b : Nat) (s : State) : Host.Outcome State Fault Refusal :=
  if s.bayLive b then .next (s.presenceLost b) else .next s

/-- POWER_ON (R390): `BAY_CTRL(b)` is written with power_on = 1 alone. -/
def execPowerOn (b : Nat) (s : State) : Host.Outcome State Fault Refusal :=
  if s.asleep then .next (s.holdRequest (.powerOn b) .access)
  else if s.bayLive b && s.serving then .next (s.powerOn b) else .next s

/-- RAMP_START (R389). -/
def execRampStart (b : Nat) (s : State) : Host.Outcome State Fault Refusal :=
  if s.bayLive b then .next (s.rampStart b) else .next s

/-- POWER_OFF (R391): `BAY_CTRL(b)` is written with power_off = 1 alone. -/
def execPowerOff (b : Nat) (s : State) : Host.Outcome State Fault Refusal :=
  if s.asleep then .next (s.holdRequest (.powerOff b) .access)
  else if s.bayLive b && s.serving then .next (s.powerOff b) else .next s

/-- CLEAR_FAULT (R392): `BAY_CTRL(b)` is written with clear_fault = 1 alone. -/
def execClearFault (b : Nat) (s : State) : Host.Outcome State Fault Refusal :=
  if s.asleep then .next (s.holdRequest (.clearFault b) .access)
  else if s.bayLive b && s.serving then .next (s.clearFault b) else .next s

/-- POWER_GOOD_STABLE (R388). -/
def execPowerGoodStable (b : Nat) (s : State) : Host.Outcome State Fault Refusal :=
  if s.bayLive b && (s.bay b).st == .ramping then .next (s.bayOnNow b) else .next s

/-- PG_TIMEOUT (R388). -/
def execPgTimeout (b : Nat) (s : State) : Host.Outcome State Fault Refusal :=
  if s.bayLive b && (s.bay b).st == .ramping then .next (s.bayFault b 2) else .next s

/-- POWER_LOST (R397). -/
def execPowerLost (b : Nat) (s : State) : Host.Outcome State Fault Refusal :=
  if s.bayLive b then .next (s.powerLost b) else .next s

/-- GLITCH_WINDOW_END (R397). -/
def execGlitchWindowEnd (b : Nat) (good : Bool) (s : State) : Host.Outcome State Fault Refusal :=
  if s.bayLive b then .next (s.glitchEnd b good) else .next s

/-- ATTN_BUTTON_PRESS (R399): recognised once, until the button has been released. -/
def execAttnButtonPress (b : Nat) (s : State) : Host.Outcome State Fault Refusal :=
  if s.bayLive b && (s.bay b).btnArmed then
    .next ((s.modBay b (fun x => { x with btn := true, btnArmed := false })).bayEvents b (s.bay b).st [6])
  else .next s

/-- ATTN_BUTTON_RELEASE (R399). -/
def execAttnButtonRelease (b : Nat) (s : State) : Host.Outcome State Fault Refusal :=
  if s.bayLive b then .next (s.modBay b (fun x => { x with btn := false, btnArmed := true })) else .next s

end Sys2Proof.Machine
end

