-- ==== Sys2Proof/Machine/Opcodes.lean ====
section
/-! DEFINITION. Arbitration, parsing and acceptance of packets, opcode by opcode (R52, R56, R57, R65, R66, R70 to R72,
R82 to R119, R196, R201). -/

namespace Sys2Proof.Machine
open Sys2Proof

/-- The next packet of queue `q`: the fetched SQ entry, or the captured push slot, at `sq_head` (R47, R50). -/
def State.nextPacket (s : State) (q : Nat) : Option Packet :=
  let x := s.queue q
  if s.qPush q then
    let y := s.pushSlot (64 * s.qWindow q + x.sqHead)
    if y.captured then some y.data else none
  else SMap.get x.fetched x.sqHead

/-- `sq_head` moves past the packet that is parsed, and a push slot is free again (R50, R56). -/
def State.advanceHead (s : State) (q : Nat) : State :=
  let h := (s.queue q).sqHead
  let s := if s.qPush q then s.setPushSlot (64 * s.qWindow q + h) PushSlot.init else s
  s.modQueue q (fun x => { x with sqHead := (h + 1) % s.sqDepth q, fetched := SMap.erase x.fetched h })

/-- A FENCE of queue `q` has not committed yet (R70). -/
def State.fencePending (s : State) (q : Nat) : Bool :=
  s.slots.any (fun e => e.2.sqid == q && e.2.opcode == Opcode.fence && !e.2.done)

/-- The PACKET_ACCEPT trace record (R499). -/
def State.traceAccept (s : State) (q : Nat) (p : Packet) (tag : Option Nat) : State :=
  let unit := match tag with | some t => t / 64 | none => 0x3FF
  s.traceRec 0x10 0 unit tag.isSome
    ((pkCid p).toNat + q * 2 ^ 16 + pkByte p 0 * 2 ^ 32 + tag.getD 0 * 2 ^ 40 + ofBool tag.isNone * 2 ^ 54) (some q)

/-- A tag of the addressed channel is taken for a packet (R57). -/
def State.takeTag (s : State) (q : Nat) (p : Packet) : Option (Nat × State) :=
  match s.freeTagOf (aCh (pkAddr p)) with
  | none => none
  | some t => some (t, (s.traceAccept q p (some t)).allocTag t q p)

/-- Frame `f` is taken for tag `t` (R196). -/
def State.tagFrame (s : State) (t f : Nat) : State :=
  (s.takeFrame f (some t)).modTag t (fun x => { x with frame := some f })

/-- A piece of flash work of a tag on its own page joins the scheduler. -/
def State.addOwn (s : State) (w : Work) : State := (s.addWork w).2

/-- The flash work of a READ_PAGE, READ_QUARTER or READ_RAW (R82, R83, R268, R271). -/
def State.readWork (s : State) (t : Nat) (p : Packet) : Work × State :=
  let a := pkAddr p
  let b := pkByte p 48
  let x := s.ladderOf a (pkType p)
  let w := { Work.new .read .own a (some t) (s.tag t).stamp with pageType := pkType p }
  match pkOpcode p with
  | some .readRaw =>
    let r := if b / 64 = 0 then s.lookupBase a (pkType p) else (none, s)
    let d := if b / 64 = 2 then r.2.deltas x (b % 16) else (r.1.getD noOffsets, r.2)
    ({ w with raw := true, column := ple p 52 2, length := pkLen p, base := d.1, quarters := [0] }, d.2)
  | some .readQuarter =>
    ({ w with level := pkLevel p, pageSize := 2, quarterLayout := true, quarters := [aQuarter a]
              limit := b % 16, lastAttempt := s.lastAttempt x (b % 16), noSoft := bitOf b 4 }, s)
  | _ =>
    ({ w with level := pkLevel p, pageSize := pkSize p, quarterLayout := bitOf b 5
              quarters := if bitOf b 5 then countUp 0 4 else [0]
              limit := b % 16, lastAttempt := s.lastAttempt x (b % 16), noSoft := bitOf b 4 }, s)

/-- A read is accepted (R71, R83, R88, R196, R203): forwarded from a program's frame, with a frame of its own, or sent to
rebuild. -/
def State.acceptRead (s : State) (q : Nat) (p : Packet) (absent : Bool) : Option State :=
  match s.takeTag q p with
  | none => none
  | some (t, u) =>
    if absent || pkOpcode p == some Opcode.readRebuild then some (u.toRebuild t)
    else
      match u.forwardFrame (pkAddr p) (u.tag t).stamp with
      | some f =>
        let r := u.readWork t p
        let u := (r.2.addOwn { r.1 with forward := true, frame := some f }).modTag t
          (fun x => { x with forwarded := true, frame := some f })
        some ((u.count (aCh (pkAddr p)) 30 1).wakeForwards f)
      | none =>
        match u.freeFrameOf (aCh (pkAddr p)) with
        | none => none
        | some f =>
          let r := (u.tagFrame t f).readWork t p
          let k := r.2.addWork { r.1 with frame := some f }
          some (k.2.fixLevels k.1)

/-- A program may be accepted as far as the open-block table and the held-frame limit go (R155, R448, R470). -/
def State.programFits (s : State) (q : Nat) (a : Addr) (newFrame : Bool) : Bool :=
  !s.obtBlocked (aIdx a) && (s.obtTake a []).isSome &&
    !(newFrame && s.qStagedAck q && decide (8 ≤ s.frameCount (aCh a) .held))

/-- The flash work of a program of tag `t` from frame `f` (R91, R95, R99). -/
def State.programWork (s : State) (t f : Nat) (p : Packet) : Work :=
  let q := pkQuarterOut p
  let len := match pkOpcode p, (s.frame f).rawLen with
    | some .programRaw, _ => pkLen p
    | some .reprogramHeld, some n => n
    | _, _ => pageBytes (pkSize p) q (pkLevel p)
  { Work.new .program .own (pkAddr p) (some t) (s.tag t).stamp with
    frame := some f, level := pkLevel p, pageSize := pkSize p, quarterLayout := q, length := len }

/-- A program takes a frame, its write pointer advances, and its frame is bound (R155, R196, R201). -/
def State.beginProgram (s : State) (t f : Nat) (p : Packet) : State :=
  let s := ((s.tagFrame t f).obtAdvance (pkAddr p)).bindFrame f (pkAddr p) (s.tag t).stamp
  s.addOwn (s.programWork t f p)

/-- A contribution names its member index (R117). -/
def State.linkAcc (s : State) (t : Nat) (p : Packet) : State :=
  if bitOf (pkByte p 48) 1 && pkOpcode p == some Opcode.programPage then
    let k := pkByte p 49
    (s.modAcc k (fun a => { a with used := a.used ||| (1#31 <<< pdw p 12 20 16) })).modTag t
      (fun x => { x with accLink := some k })
  else s

/-- PROGRAM_PAGE or PROGRAM_RAW is accepted (R91, R95): its data is fetched next. -/
def State.acceptProgram (s : State) (q : Nat) (p : Packet) : Option State :=
  if !s.programFits q (pkAddr p) true then none
  else
    match s.takeTag q p, s.freeFrameOf (aCh (pkAddr p)) with
    | some (t, u), some f => some (((u.beginProgram t f p).linkAcc t p).tagTo t .fetching)
    | _, _ => none

/-- The source read of a COPY_PAGE of tag `t` starts, or fails at once (R78, R97, R98). -/
def State.beginSource (s : State) (t : Nat) (p : Packet) : State :=
  let a := pkAddr2 p
  let ch := aCh a
  if (s.chan ch).fenced then s.stopTag t .channelFenced ch
  else if !s.bayOn (ch / 8) then
    (if pkSd p then s.toRebuild t else s.stopTag t .targetAbsent (ch / 8))
  else
    let q := bitOf (pkByte p 48) 3
    let f := s.forwardFrame a (s.tag t).stamp
    let k := s.tick
    let w := { Work.new .read .source a (some t) k.1 with
      level := pkByte p 48 % 8, pageSize := pkSize p, pageType := pkType p, quarterLayout := q
      quarters := if q then countUp 0 4 else [0], lastAttempt := s.lastAttempt (s.ladderOf a (pkType p)) 0
      frame := f, forward := f.isSome }
    let r := k.2.addWork w
    match f with
    | some f => (r.2.count ch 30 1).wakeForwards f
    | none => (r.2.fixLevels r.1).grantFrames ch

/-- COPY_PAGE is accepted (R96, R97). -/
def State.acceptCopy (s : State) (q : Nat) (p : Packet) : Option State :=
  if !s.programFits q (pkAddr p) true then none
  else
    match s.takeTag q p, s.freeFrameOf (aCh (pkAddr p)) with
    | some (t, u), some f => some ((u.beginProgram t f p).beginSource t p)
    | _, _ => none

/-- REPROGRAM_HELD is accepted (R99): the frame stays bound to its old address. -/
def State.acceptReprogram (s : State) (q : Nat) (p : Packet) : Option State :=
  if !s.programFits q (pkAddr p) false then none
  else
    match s.takeTag q p with
    | none => none
    | some (t, u) =>
      let f := pkFrame p
      let u := (u.modTag t (fun x => { x with frame := some f })).modFrame f (fun y => { y with named := some t })
      some ((u.obtAdvance (pkAddr p)).addOwn (u.programWork t f p))

/-- RELEASE_FRAME is accepted (R101). -/
def State.acceptRelease (s : State) (q : Nat) (p : Packet) : Option State :=
  match s.takeTag q p with
  | none => none
  | some (t, u) =>
    let f := pkFrame p
    some (((u.modTag t (fun x => { x with frame := some f })).modFrame f (fun y => { y with named := some t })).releaseOne f)

/-- The bindings of held frames to pages of a block end (R103). -/
def State.unbindBlock (s : State) (a : Addr) : State :=
  let fs := (countUp (64 * aCh a) 64).filter (fun f =>
    (s.frame f).st == .held &&
      (match (s.frame f).bind with
       | some b => aIdx b == aIdx a && aPlane b == aPlane a && aBlock b == aBlock a
       | none => false))
  fs.foldl (fun s f => s.unbind f) s

/-- ERASE_BLOCK is accepted (R102, R103, R156). -/
def State.acceptErase (s : State) (q : Nat) (p : Packet) : Option State :=
  match s.takeTag q p with
  | none => none
  | some (t, u) =>
    let a := pkAddr p
    some (((u.obtFree a).unbindBlock a).addOwn
      { Work.new .erase .own a (some t) (u.tag t).stamp with noSuspend := bitOf (pkByte p 48) 0 })

/-- A feature access, a parameter page read, a target reset or a routine is accepted (R104 to R106, R113). -/
def State.acceptAccess (s : State) (q : Nat) (p : Packet) (kind : WorkKind) (frame : Bool) : Option State :=
  match s.takeTag q p with
  | none => none
  | some (t, u) =>
    let w := Work.new kind .own (pkAddr p) (some t) (u.tag t).stamp
    if !frame then some (u.addOwn w)
    else
      match u.freeFrameOf (aCh (pkAddr p)) with
      | none => none
      | some f =>
        let u := (u.tagFrame t f).addOwn { w with frame := some f }
        let toDie := kind == .routine && bitOf (pkByte p 49) 0 && decide (0 < pkLen p)
        some (if toDie then u.tagTo t .fetching else u)

/-- SURVEY is accepted (R110): it runs at once, or waits for a survey of its channel. -/
def State.acceptSurvey (s : State) (q : Nat) (p : Packet) : Option State :=
  let n := aCh (pkAddr p)
  match s.takeTag q p, s.freeFrameOf n with
  | some (t, u), some f =>
    let u := u.tagFrame t f
    if u.surveyReady n then some (u.startSurvey n (pkByte p 48) (some t))
    else some (u.modSurvey n (fun v => { v with again := v.again ++ [t] }))
  | _, _ => none

/-- CALIBRATE is accepted (R111, R432). -/
def State.acceptCalibrate (s : State) (q : Nat) (p : Packet) : Option State :=
  match s.takeTag q p with
  | none => none
  | some (_, u) => some (u.calNext (aCh (pkAddr p)))

/-- STRIPE_PARITY open is accepted (R116, R251): its descriptor is fetched next. -/
def State.acceptOpen (s : State) (q : Nat) (p : Packet) : Option State :=
  match s.takeTag q p with
  | none => none
  | some (t, u) => some (u.modTag t (fun x => { x with sdPending := true, sdBytes := [], sd := none }))

/-- STRIPE_PARITY close is accepted (R118, R155, R201): both pages take their entries and are bound. -/
def State.acceptClose (s : State) (q : Nat) (p : Packet) : Option State :=
  let k := pkByte p 49
  let a := s.acc k
  let two := a.count == 2
  let blocked := s.obtBlocked (aIdx a.pAddr) || (two && s.obtBlocked (aIdx a.qAddr))
  let qEntry := if two then (s.obtFind a.qAddr).toList else []
  let fits := match s.obtTake a.pAddr qEntry with
    | none => false
    | some e => !two || (s.obtTake a.qAddr [e]).isSome
  if blocked || !fits then none
  else
    match s.takeTag q p, a.pFrame with
    | some (t, u), some f =>
      let stamp := (u.tag t).stamp
      let advance := u.tick.1
      let u := u.tick.2
      let w := fun (role : WorkRole) (x : Addr) (g : Nat) =>
        { Work.new .program role x (some t) stamp with
          frame := some g, level := a.level, pageSize := a.pageSize, length := pageBytes a.pageSize false a.level }
      let page := fun (u : State) (role : WorkRole) (x : Addr) (g : Nat) =>
        (((u.obtAdvanceAt x (if role == .pPage then qEntry else []) advance).clearFrame g).bindFrame g x stamp).addOwn
          (w role x g)
      let u := u.setAcc k { a with st := .closing, closeTag := some t, pDone := false, qDone := false }
      let u := page u .pPage a.pAddr f
      match two, a.qFrame with
      | true, some g => some (page u .qPage a.qAddr g)
      | _, _ => some u
    | _, _ => none

/-- STRIPE_PARITY discard is accepted (R119). -/
def State.acceptDiscard (s : State) (q : Nat) (p : Packet) : Option State :=
  match s.takeTag q p with
  | none => none
  | some (t, u) => some ((u.releaseAcc (pkByte p 49)).finish t .success 0)

/-- A tagless slot is taken for a packet (R57). -/
def State.takeSlot (s : State) (q : Nat) (p : Packet) (o : Opcode) : Option (Nat × State) :=
  match (countUp 0 256).find? (fun k => !SMap.has s.slots k) with
  | none => none
  | some k =>
    let r := (s.traceAccept q p none).tick
    some (k, (r.2.freshEntry 1 (mlogAddr 0 (16384 + k) 0) 256).setSlot k { sqid := q, cid := pkCid p, opcode := o, packet := p, stamp := r.1, done := false })

/-- ABORT runs (R58, R65, R66, R107): the earliest command in flight with the named identifiers. -/
def State.acceptAbort (s : State) (q : Nat) (p : Packet) : Option State :=
  match s.takeSlot q p .abort with
  | none => none
  | some (k, u) =>
    let sq := ple p 48 2
    let cid := BitVec.ofNat 16 (ple p 50 2)
    let tags := (u.tags.filter (fun e => e.2.sqid == sq && e.2.cid == cid && e.2.st != .free && !e.2.runOn && !e.2.dropped)).map
      (fun e => (e.2.stamp, true, e.1))
    let slots := (u.slots.filter (fun e => e.1 != k && e.2.sqid == sq && e.2.cid == cid)).map
      (fun e => (e.2.stamp, false, e.1))
    match leastBy (fun (e : Nat × Bool × Nat) => e.1) (tags ++ slots) with
    | none => some (u.commitSlot k .notFound 0)
    | some (_, true, t) => some (u.abortTag k t)
    | some (_, false, j) =>
      if (u.slot j).opcode == Opcode.fence && !(u.slot j).done then
        some ((u.commitSlot j .aborted 0).commitSlot k .success (2 ^ 15))
      else some (u.commitSlot k .notFound 0)

/-- The records that GET_DEFERRED delivers, as bytes; an error in an entry is noted as it is read (R446, R448). -/
def State.readDeferred (s : State) (l : List Deferred) : List Byte × State :=
  l.foldl (fun (p : List Byte × State) d =>
    (p.1 ++ p.2.deferredBytes d, (p.2.useEntry 1 (mlogAddr 2 d.frame 0) 32).2)) ([], s)

/-- GET_DEFERRED runs (R75, R109, R468, R469): records, oldest first, are written and removed. A buffer in a RESERVED frame
(R54, R198) waits while the island of that frame is in reset, and fails where it runs past the frame (R306). -/
def State.acceptDeferred (s : State) (q : Nat) (p : Packet) : Option State :=
  let at0 := ple p 16 8
  let inFrame := s.namesReserved p
  if (if inFrame then (s.chan (at0 / 0x8000 / 64)).inReset else !s.mayIssue) then none
  else
    match s.takeSlot q p .getDeferred with
    | none => none
    | some (k, u) =>
      let sel := ple p 48 2
      let all := decide (2 ^ 15 ≤ sel)
      let l := firstN (pkLen p / 32) (u.deferred.filter (fun (d : Deferred) => all || d.sqid == sel % 2 ^ 15))
      if inFrame && decide (20480 < at0 % 0x8000 + 32 * l.length) then some (u.commitSlot k .hostAccessError 4)
      else
        let r := u.readDeferred l
        let u := if l.isEmpty then u
          else if inFrame then r.2.frameWrite (at0 / 0x8000) (at0 % 0x8000) r.1 false
          else r.2.sendWrite (u.queuePair q) (BitVec.ofNat 64 at0) r.1 []
        let u := { u with deferred := u.deferred.filter (fun (d : Deferred) => !l.contains d) }
        some (u.commitSlot k .success (l.length + min 0xFFFF u.deferred.length * 2 ^ 16))

/-- SELF_TEST runs (R112). -/
def State.acceptSelfTest (s : State) (q : Nat) (p : Packet) : Option State :=
  match s.takeSlot q p .selfTest with
  | none => none
  | some (k, u) =>
    let u := if pkByte p 48 = 2 then { u with test := { u.test with stopping := true } }
             else u.testStart (pkByte p 48 == 1)
    some (u.commitSlot k .success (u.fld 0x5200 31 16))

/-- A packet that passed its checks is accepted; none where it must wait, which parks its queue (R52, R57). -/
def State.accept (s : State) (q : Nat) (p : Packet) (absent : Bool) : Option State :=
  match pkOpcode p with
  | none => none
  | some o =>
    match o with
    | .readPage | .readQuarter | .readRaw | .readRebuild => s.acceptRead q p absent
    | .programPage | .programRaw => s.acceptProgram q p
    | .reprogramHeld => s.acceptReprogram q p
    | .releaseFrame => s.acceptRelease q p
    | .copyPage => s.acceptCopy q p
    | .eraseBlock => s.acceptErase q p
    | .getFeature | .setFeature => s.acceptAccess q p .access false
    | .readParameterPage => s.acceptAccess q p .access true
    | .resetTarget => s.acceptAccess q p .reset false
    | .abort => s.acceptAbort q p
    | .fence => (s.takeSlot q p .fence).map (fun r => r.2)
    | .getDeferred => s.acceptDeferred q p
    | .survey => s.acceptSurvey q p
    | .calibrate => s.acceptCalibrate q p
    | .selfTest => s.acceptSelfTest q p
    | .runRoutine => s.acceptAccess q p .routine true
    | .stripeParity =>
      if pkByte p 48 = 0 then s.acceptOpen q p
      else if pkByte p 48 = 1 then s.acceptClose q p
      else s.acceptDiscard q p

/-- The packet of queue `q` is parsed (R56): the outcome of its checks. None where it parks its queue. -/
def State.parseNext (s : State) (q : Nat) (p : Packet) : Option State :=
  let u := s.advanceHead q
  match s.verdict q p with
  | .fail st info => some (u.completeNow q (pkCid p) st info)
  | .order a w => some ((u.logOrder a q (pkCid p) w).completeNow q (pkCid p) .pageOrderViolation w)
  | .pass absent => u.accept q p absent

/-- Queue `q` has a packet that a turn would parse (R52). -/
def State.parsable (s : State) (q : Nat) : Bool :=
  (s.queue q).st == .active && !s.fencePending q &&
    (match s.nextPacket q with
     | none => false
     | some p => (s.parseNext q p).isSome)

/-- `QC_CFG.class` of a queue. -/
def State.qClass (s : State) (q : Nat) : Nat := s.fld (qcAt q + 0x14) 11 10

/-- Packets that a turn of a queue parses (R52). -/
def State.turnLimit (s : State) (q : Nat) : Nat := if q = 0 then 8 else s.fld (qcAt q + 0x14) 19 12 + 1

/-- The turns of a class in a round (R53). -/
def State.classTurns (s : State) (c : Nat) : Nat := max 1 (s.fld 0x3E0000 (8 * c + 7) (8 * c))

/-- The queues other than queue 0 with a packet to parse. -/
def State.parsableQueues (s : State) : List Nat :=
  (s.queues.filter (fun e => e.1 != 0 && s.parsable e.1)).map Prod.fst

/-- The queue of class `c` that takes the class's next turn: round-robin in queue number. -/
def State.nextInClass (s : State) (l : List Nat) (c : Nat) : Option Nat :=
  let l := l.filter (fun q => s.qClass q == c)
  let after := match SMap.get s.arb.last c with | some q => q + 1 | none => 0
  match l.find? (fun q => decide (after ≤ q)) with
  | some q => some q
  | none => l.head?

/-- A turn of queue `q` begins: the packets that it may parse are fixed by the queue's weight at the arbitration turn
(R39, R52). -/
def State.turnOf (s : State) (q : Nat) (a : Arbiter) : Arbiter :=
  { a with turnQueue := some q, turnCount := 0, turnLimit := s.turnLimit q }

/-- The round goes on from class `c` with `turns` taken of it, at most `fuel` classes on: the queue and the arbiter
after the grant. -/
def State.grantTurn (s : State) (l : List Nat) (fuel c turns : Nat) : Option (Nat × Arbiter) :=
  match fuel with
  | 0 => none
  | k + 1 =>
    match s.nextInClass l c with
    | some q =>
      if turns < s.classTurns c then
        some (q, s.turnOf q { s.arb with cls := c, turns := turns + 1, last := SMap.insert s.arb.last c q })
      else s.grantTurn l k (if c = 0 then 3 else c - 1) 0
    | none => s.grantTurn l k (if c = 0 then 3 else c - 1) 0

/-- The queue whose packet is parsed next, and the arbiter before the parse (R52). -/
def State.arbitrate (s : State) : Option (Nat × Arbiter) :=
  let goesOn := match s.arb.turnQueue with
    | some q => if s.parsable q && decide (s.arb.turnCount < s.arb.turnLimit) then some q else none
    | none => none
  match goesOn with
  | some q => some (q, s.arb)
  | none =>
    if s.parsable 0 then some (0, s.turnOf 0 s.arb)
    else s.grantTurn s.parsableQueues 6 s.arb.cls s.arb.turns

/-- The interpreter grants turns: the host island works, and quiesce is 0 (R484). -/
def State.parsing (s : State) : Bool := s.hostWorks && s.ph.ready && !s.bit 8 0

/-- An interpreter that meets a bad open-block entry counts and logs it (R448). -/
def State.meetOpenBlocks (s : State) : State :=
  let luns := s.queues.filterMap (fun e =>
    if e.2.st != .active then none
    else match s.nextPacket e.1 with
      | some p => if isProgramType p && s.obtBlocked (aIdx (pkAddr p)) then some (aIdx (pkAddr p)) else none
      | none => none)
  luns.foldl (fun s l => s.obtMeet l) s

/-- A turn ends when its queue has no packet to parse or parks (R52). -/
def State.endTurn (s : State) : State :=
  match s.arb.turnQueue with
  | some q => if s.parsable q then s else { s with arb := { s.arb with turnQueue := none } }
  | none => s

/-- One packet is parsed in an arbitration turn, when the queue that is served next and its packet pass a test (R52, R56);
the turn ends where the queue runs out or parks. -/
def State.packetTurn (s : State) (want : Nat → Packet → Bool) : State :=
  if !s.parsing then s
  else
    let s := s.meetOpenBlocks
    match s.arbitrate with
    | none => s.endTurn
    | some (q, arb) =>
      match s.nextPacket q with
      | none => s
      | some p =>
        if !want q p then s
        else
          let s := { s with arb := { arb with turnCount := arb.turnCount + 1 } }
          let m := s.meetContext q 3
          if m.1 then m.2
          else
            match m.2.parseNext q p with
            | some t => t.endTurn
            | none => s

/-- The row of an opcode: the packet that is parsed next is its own, on queue `q`. -/
def State.opcodeRow (s : State) (q : Nat) (o : Opcode) : State :=
  s.packetTurn (fun k p => k == q && pkOpcode p == some o)

/-- The row of one mode of an opcode (byte 48). -/
def State.modeRow (s : State) (q : Nat) (o : Opcode) (mode : Nat) : State :=
  s.packetTurn (fun k p => k == q && pkOpcode p == some o && pkByte p 48 == mode)

/-- A FENCE in slot `k` commits once every earlier packet of its queue has committed (R70). -/
def State.fenceCommit (s : State) (k : Nat) : State :=
  let x := s.slot k
  if !SMap.has s.slots k || x.opcode != Opcode.fence || x.done then s
  else if s.tags.any (fun e => e.2.sqid == x.sqid && e.2.st != .free && !e.2.committed && !e.2.runOn && !e.2.dropped &&
      decide (e.2.stamp < x.stamp)) then s
  else if s.slots.any (fun e => e.1 != k && e.2.sqid == x.sqid && !e.2.done && decide (e.2.stamp < x.stamp)) then s
  else s.commitSlot k .success 0

/-- PACKET_PARSE (R56). -/
def execPacketParse (s : State) : Host.Outcome State Fault Refusal := .next (s.packetTurn (fun _ _ => true))

/-- READ_PAGE (R82, R83). -/
def execReadPage (q : Nat) (s : State) : Host.Outcome State Fault Refusal := .next (s.opcodeRow q .readPage)

/-- READ_QUARTER (R82). -/
def execReadQuarter (q : Nat) (s : State) : Host.Outcome State Fault Refusal := .next (s.opcodeRow q .readQuarter)

/-- READ_RAW (R85). -/
def execReadRaw (q : Nat) (s : State) : Host.Outcome State Fault Refusal := .next (s.opcodeRow q .readRaw)

/-- READ_REBUILD (R88). -/
def execReadRebuild (q : Nat) (s : State) : Host.Outcome State Fault Refusal := .next (s.opcodeRow q .readRebuild)

/-- PROGRAM_PAGE (R91). -/
def execProgramPage (q : Nat) (s : State) : Host.Outcome State Fault Refusal := .next (s.opcodeRow q .programPage)

/-- PROGRAM_RAW (R95). -/
def execProgramRaw (q : Nat) (s : State) : Host.Outcome State Fault Refusal := .next (s.opcodeRow q .programRaw)

/-- REPROGRAM_HELD (R99). -/
def execReprogramHeld (q : Nat) (s : State) : Host.Outcome State Fault Refusal := .next (s.opcodeRow q .reprogramHeld)

/-- RELEASE_FRAME (R101). -/
def execReleaseFrame (q : Nat) (s : State) : Host.Outcome State Fault Refusal := .next (s.opcodeRow q .releaseFrame)

/-- COPY_PAGE (R96). -/
def execCopyPage (q : Nat) (s : State) : Host.Outcome State Fault Refusal := .next (s.opcodeRow q .copyPage)

/-- ERASE_BLOCK (R102). -/
def execEraseBlock (q : Nat) (s : State) : Host.Outcome State Fault Refusal := .next (s.opcodeRow q .eraseBlock)

/-- GET_FEATURE (R104). -/
def execGetFeature (q : Nat) (s : State) : Host.Outcome State Fault Refusal := .next (s.opcodeRow q .getFeature)

/-- SET_FEATURE (R104). -/
def execSetFeature (q : Nat) (s : State) : Host.Outcome State Fault Refusal := .next (s.opcodeRow q .setFeature)

/-- READ_PARAMETER_PAGE (R105). -/
def execReadParameterPage (q : Nat) (s : State) : Host.Outcome State Fault Refusal :=
  .next (s.opcodeRow q .readParameterPage)

/-- RESET_TARGET (R106). -/
def execResetTarget (q : Nat) (s : State) : Host.Outcome State Fault Refusal := .next (s.opcodeRow q .resetTarget)

/-- ABORT (R65, R107). -/
def execAbort (q : Nat) (s : State) : Host.Outcome State Fault Refusal := .next (s.opcodeRow q .abort)

/-- FENCE (R70, R108). -/
def execFence (q : Nat) (s : State) : Host.Outcome State Fault Refusal := .next (s.opcodeRow q .fence)

/-- FENCE_COMMIT (R70). -/
def execFenceCommit (slot : Nat) (s : State) : Host.Outcome State Fault Refusal :=
  if s.hostWorks then .next (s.fenceCommit slot) else .next s

/-- GET_DEFERRED (R109). -/
def execGetDeferred (q : Nat) (s : State) : Host.Outcome State Fault Refusal := .next (s.opcodeRow q .getDeferred)

/-- SURVEY (R110). -/
def execSurvey (q : Nat) (s : State) : Host.Outcome State Fault Refusal := .next (s.opcodeRow q .survey)

/-- CALIBRATE (R111). -/
def execCalibrate (q : Nat) (s : State) : Host.Outcome State Fault Refusal := .next (s.opcodeRow q .calibrate)

/-- SELF_TEST, short (R112). -/
def execSelfTestStartShort (q : Nat) (s : State) : Host.Outcome State Fault Refusal := .next (s.modeRow q .selfTest 0)

/-- SELF_TEST, extended (R112). -/
def execSelfTestStartExtended (q : Nat) (s : State) : Host.Outcome State Fault Refusal := .next (s.modeRow q .selfTest 1)

/-- SELF_TEST, stop (R112, R488). -/
def execSelfTestStop (q : Nat) (s : State) : Host.Outcome State Fault Refusal := .next (s.modeRow q .selfTest 2)

/-- RUN_ROUTINE (R113). -/
def execRunRoutine (q : Nat) (s : State) : Host.Outcome State Fault Refusal := .next (s.opcodeRow q .runRoutine)

/-- STRIPE_PARITY open (R116). -/
def execStripeParityOpen (q : Nat) (s : State) : Host.Outcome State Fault Refusal := .next (s.modeRow q .stripeParity 0)

/-- STRIPE_PARITY close (R118). -/
def execStripeParityClose (q : Nat) (s : State) : Host.Outcome State Fault Refusal := .next (s.modeRow q .stripeParity 1)

/-- STRIPE_PARITY discard (R119). -/
def execStripeParityDiscard (q : Nat) (s : State) : Host.Outcome State Fault Refusal :=
  .next (s.modeRow q .stripeParity 2)

end Sys2Proof.Machine
end

