-- ==== Sys2Proof/Machine/Resets.lean ====
section
/-! DEFINITION. The resets of the function and of the block, start-up, and the loss of power (R21, R67, R200, R354 to R360,
R382, R401, R475 to R477, R480, R514, R516, R519). -/

namespace Sys2Proof.Machine
open Sys2Proof

/-- The configuration bits that a function-level reset leaves and a hot reset does not (PCI Express Base Specification,
named by R354): Max_Payload_Size and the link fields of Link Control. -/
def flrKept (off : Nat) : Word := if off = 0x68 then 0xE0 else if off = 0x70 then 0x3CB else 0

/-- A configuration dword after a function-level or hot reset (R346, R354). -/
def cfgAfter (flr : Bool) (off : Nat) (w : Word) : Word :=
  let keep := (cfgDesc off).sticky ||| (if flr then flrKept off else 0)
  (w &&& keep) ||| ((cfgDesc off).reset &&& ~~~keep)

/-- The configuration space after a function-level or hot reset. -/
def State.clearCfg (s : State) (flr : Bool) : State :=
  s.cfg.foldl (fun (s : State) e => s.setCfg e.1 (cfgAfter flr e.1 e.2)) s

/-- A register after a function-level or hot reset: its kept bits stay, and the others take their reset values. -/
def RegDesc.after (d : RegDesc) (w : Word) : Word :=
  if d.zephyr then w else (w &&& d.kept) ||| (d.reset &&& ~~~d.kept)

/-- The registers after a function-level or hot reset (R354). -/
def State.clearRegs (s : State) : State :=
  s.regs.foldl (fun (s : State) e =>
    match regDesc s.nch s.targets e.1 with
    | none => s
    | some d => s.setReg e.1 (d.after e.2)) s

/-- The operation of tag `t` runs on after a function-level or hot reset (R357, R257): it has passed its confirm at the
die, or has sent it and waits for the report, or a page of its close has. -/
def State.runsOn (s : State) (t : Nat) : Bool :=
  let x := s.tag t
  x.st != .free && !x.ended && (x.runOn || x.st == .confirmed || s.confirming t ||
    (x.st == .replaying && x.phase == some .afterConfirm) ||
    s.works.any (fun e => e.2.tag == some t && e.2.kind == .program && e.2.st == .confirmed))

/-- A page of a close that had not sent its confirm ends with the reset; the other page of the close runs on (R257). -/
def State.dropPages (s : State) (t : Nat) : State :=
  ((s.works.filter (fun e => e.2.tag == some t && (e.2.role == .pPage || e.2.role == .qPage) && !e.2.sent &&
    e.2.st != .confirmed && e.2.st != .recover)).map Prod.fst).foldl (fun s id => s.endWork id) s

/-- Tag `t` is abandoned by a function-level or hot reset (R67, R261, R357): it leaves no completion. -/
def State.abandonTag (s : State) (t : Nat) : State :=
  let s := (s.endTagWorks t).dropPhase t
  (s.tagTo t .free).setTag t Tag.init

/-- A function-level or hot reset reaches tag `t` (R200, R357, R359): one in ISSUED or DECODING whose job or decoder run is in
progress is abandoned at its next safe point. A held frame whose binding waits to move is left to
its move (R100). -/
def State.resetTagEntry (s : State) (t : Nat) : State :=
  let x := s.tag t
  if x.st == .free || x.rebind then s
  else if s.runsOn t then (s.modTag t (fun x => { x with runOn := true, abortPending := false, abortSlot := none })).dropPages t
  else if (x.st == .issued || x.st == .decoding) && s.stopAt t == .later then
    s.modTag t (fun x => { x with dropped := true, abortPending := true, abortSlot := none })
  else if x.committed && x.stagedAck && !x.ended then (s.addCarry t .aborted 0).abandonTag t
  else s.abandonTag t

/-- Frames in use that no operation needs any more are freed, and held frames are no longer named by a command (R200). -/
def State.sweepFrames (s : State) : State :=
  s.frames.foldl (fun (s : State) e =>
    let f := e.1
    let y := s.frame f
    let s := match y.named with
      | some t => if (s.tag t).st == .free then s.modFrame f (fun y => { y with named := none }) else s
      | none => s
    let owned := match y.owner with | some t => (s.tag t).runOn | none => false
    if y.st == .inUse && !owned && !s.works.any (fun w => w.2.frame == some f) then s.freeNow f else s) s

/-- What a function-level or hot reset changes on channel `n` (R57, R110, R153, R257, R291, R436, R482): its fence clears,
its survey and calibration are abandoned, and suspended operations are resumed. -/
def State.resetChannel (s : State) (n : Nat) : State :=
  let s := s.modChan n (fun c => { c with
    fenced := false, lastTag := none, survey := { c.survey with tag := none, again := [] }
    trainWhy := match c.trainWhy with
      | some (.targetReset t) => if (s.tag t).runOn || (s.tag t).dropped then c.trainWhy else some .retrain
      | w => w })
  let s := s.abandonSurvey n
  let s := if (s.chan n).cal.st = .idle then s else s.dropCal n
  (countUp 0 16).foldl (fun (s : State) l => s.modLun (lunKey n l) (fun x => { x with
    held := false
    parked := x.parked.map (fun o => { o with resumeNow := true })
    op := x.op.map (fun o => if o.suspending then { o with resumeNow := true } else o) })) s

/-- The self-test that runs is abandoned (R488). -/
def State.resetTest (s : State) : State :=
  if s.test.running then
    { s.setFld 0x5200 11 8 5 with test := { s.test with running := false, stopping := false, outcomes := [] } }
  else s

/-- The endpoint after a function-level or hot reset (R338, R358): requests issued leave their tags out of use. -/
def State.resetEndpoint (s : State) : State :=
  { s with ep := { s.ep with
      reqs := [], abandoned := s.ep.reqs.foldl (fun l e => SMap.insert l e.1 { silent := true }) s.ep.abandoned
      pba := 0, due := [], flushes := [], carriers := [] } }

/-- The tables that a function-level or hot reset clears (R156, R257, R283, R327, R354, R382). -/
def State.resetTables (s : State) : State :=
  { s with
      queues := [], push := [], slots := [], accs := [], obt := [], obtLo := [], obtDoomed := []
      ledger := [], ledgerLo := [], adv := [], dma := [], rings := []
      arb := { cls := 3, turns := 0, turnQueue := none, turnCount := 0, turnLimit := 0, last := [] }
      irq := { s.irq with pend := 0, counts := [], service := [] }
      rawGroups := s.rawGroups.filter (fun e => e.1 / 2 ^ 28 != 0 && e.1 / 2 ^ 28 != 3 && e.1 / 2 ^ 28 != 4)
      inj := { gen := 1, left := 0 } }

/-- A function-level or hot reset starts, or starts again (R354 to R360). -/
def State.functionReset (s : State) (kind : FnReset) : State :=
  let had := s.carry
  let s : State := { s with ep := { s.ep with fnReset := some kind }, ph := { s.ph with resetCause := if kind = FnReset.hot then 2 else 3 } }
  let s := (s.tags.map Prod.fst).foldl (fun (s : State) t => s.resetTagEntry t) s
  let s := (countUp 0 s.nch).foldl (fun s n => s.resetChannel n) s
  let s := if s.ph.master = 1 ∨ s.ph.master = 2 then s.mcInvalid 11 0 else s
  let s := (s.resetTest.resetEndpoint.resetTables.clearRegs).clearCfg (kind == FnReset.functionLevel)
  let s := s.sweepFrames.releaseSweep
  if s.carry != had && s.runningOn == 0 then s.raiseCarry else s

/-- A function-level or hot reset ends: the function is ready, once the link is up (R355, R477, R519). -/
def State.functionReady (s : State) : State :=
  if s.ep.linkUp then
    (let s : State := { s with ep := { s.ep with fnReset := none } }
     if s.ph.ready then s.releaseEdges else s)
  else s

/-- The registers that a fundamental reset keeps: those of the Zephyr island (R382, R401). -/
def State.zephyrRegs (s : State) : SMap Word :=
  s.regs.filter (fun e => match regDesc 256 64 e.1 with | some d => d.zephyr | none => false)

/-- `BLK_RESET_N` falls (R354, R401, R475): every island but the Zephyr island is reset. The bays stay as they are. -/
def State.fundamentalReset (s : State) : State :=
  { State.reset with
      pending := s.pending, build := s.build, ties := s.ties
      ph := { State.reset.ph with powered := s.ph.powered, aonReset := s.ph.aonReset }
      regs := s.zephyrRegs, bays := s.bays, deviceTime := s.deviceTime, fresh := s.fresh
      ep := { State.reset.ep with tx := s.ep.tx }
      irq := { State.reset.irq with pinArmed := s.irq.pinArmed, heldEdges := s.irq.heldEdges } }

/-- `AON_RESET_N` falls (R475, R514): `DEVICE_TIME` is 0 and its follower copy with it (R19), every bay is EMPTY, and
write protection is asserted. The bays that were ON leave it. -/
def State.aonReset (s : State) : State :=
  let on := (countUp 0 (s.nch / 8)).filter (fun b => (s.bay b).st == .on)
  let s := { s with ph := { s.ph with aonReset := true }, deviceTime := 0, follower := 0, bays := []
                    irq := { s.irq with heldEdges := [], pinArmed := true } }
  let s := on.foldl (fun s b => s.bayGone b) s
  (countUp 0 s.nch).foldl (fun (s : State) n => s.setArrBit 0x5080 n false) s

/-- The block loses its power (R401, R473): what it holds is lost, and it drives nothing until it is powered again. -/
def State.powerOff0 (s : State) : State :=
  { State.reset with
      pending := s.pending, build := s.build, fresh := s.fresh
      ph := { State.reset.ph with powered := false }
      ep := { State.reset.ep with tx := s.ep.tx } }

/-- A channel PLL locks after a fundamental reset: its island leaves reset (R427, R476), outside a glitch window of its bay
(R397, R398). -/
def State.channelUp (s : State) (n : Nat) : State :=
  let c := s.chan n
  if c.st = .reset ∧ c.recStep = .idle ∧ c.inReset ∧ !(s.bay (n / 8)).glitch then
    let st : ChanState := if (s.bay (n / 8)).st = .on then .unconfigured else .absent
    (s.leaveReset n).modChan n (fun c => { c with st := st, before := st })
  else s

/-- FUNCTION_READY (R477). -/
def execFunctionReady (s : State) : Host.Outcome State Fault Refusal :=
  if s.hostOn && s.ep.fnReset.isSome then .next s.functionReady else .next s

/-- FUNDAMENTAL_RESET (R475). -/
def execFundamentalReset (s : State) : Host.Outcome State Fault Refusal :=
  if s.ph.powered then .next s.fundamentalReset else .next s

/-- FUNDAMENTAL_RESET_RELEASE (R476, R515, R516): the tie-offs are captured. -/
def execFundamentalResetRelease (ties : TieOffs) (s : State) : Host.Outcome State Fault Refusal :=
  if s.ph.powered && s.ph.blkReset then
    .next { s with ties := ties, ph := { s.ph with blkReset := false } }
  else .next s

/-- HOST_PLL_LOCK (R19, R476): `HCLK` starts and the follower copy of `DEVICE_TIME` loads. -/
def execHostPllLock (s : State) : Host.Outcome State Fault Refusal :=
  if s.ph.powered && !s.ph.blkReset && !s.ph.hclk then
    .next { s with ph := { s.ph with hclk := true }, follower := s.deviceTime }
  else .next s

/-- CHANNEL_PLL_LOCK (R476). -/
def execChannelPllLock (ch : Nat) (s : State) : Host.Outcome State Fault Refusal :=
  if s.ph.powered && !s.ph.blkReset && decide (ch < s.nch) then .next (s.channelUp ch) else .next s

/-- CONTROL_RAM_INIT_END (R277, R476): the tables are clear and the function is ready. -/
def execControlRamInitEnd (s : State) : Host.Outcome State Fault Refusal :=
  if s.hostOn && !s.ph.tablesReady then
    let s : State := { s with ph := { s.ph with tablesReady := true, ready := true, rltReady := true } }
    .next (if s.hostWorks then s.releaseEdges else s)
  else .next s

/-- AON_RESET (R514). -/
def execAonReset (s : State) : Host.Outcome State Fault Refusal :=
  if s.ph.powered then .next s.aonReset else .next s

/-- AON_RESET_RELEASE (R475): the supplies are stable, and the Zephyr island works. -/
def execAonResetRelease (s : State) : Host.Outcome State Fault Refusal :=
  .next { s with ph := { s.ph with powered := true, aonReset := false } }

/-- POWER_REMOVAL (R473). -/
def execPowerRemoval (s : State) : Host.Outcome State Fault Refusal := .next s.powerOff0

/-- LINK_UP (R519): `EP_LINK_UP` is ignored while `BLK_RESET_N` is low. -/
def execLinkUp (s : State) : Host.Outcome State Fault Refusal :=
  if s.ph.powered && !s.ph.blkReset then .next { s with ep := { s.ep with linkUp := true } } else .next s

end Sys2Proof.Machine
end

