-- ==== Sys2Proof/Machine/Inbound.lean ====
section
/-! DEFINITION. Completions that the host returns for the block's requests, and the carry-over log's pop (R344, R347,
R348, R359). -/

namespace Sys2Proof.Machine
open Sys2Proof

/-- Request tag `t` has no request any more. -/
def State.dropReq (s : State) (t : Nat) : State := { s with ep := { s.ep with reqs := SMap.erase s.ep.reqs t } }

/-- A request of the block has failed: its user fails as its own rule states (R44, R251, R322, R347). A flush read that
failed has ended. -/
def State.reqFails (s : State) (r : Req) : State :=
  match r.user with
  | .sqFetch q _ _ => if (s.queue q).st = .active then s.faultQueue q 3 else s
  | .sdFetch t => if (s.tag t).sdPending then s.stopTag t .hostAccessError 3 else s
  | .flush v => s.flushEnded v
  | .dropped => s
  | .dmaData _ _ => s.dmaFail r
  | .dmaDesc _ => s.dmaFail r
  | .dmaList _ => s.dmaFail r

/-- Poisoned completion data fails its user, but for data that moves on poisoned (R344). -/
def ReqUser.poisonFails (u : ReqUser) : Bool :=
  match u with
  | .sqFetch _ _ _ => true
  | .sdFetch _ => true
  | .dmaDesc _ => true
  | .dmaList _ => true
  | .dmaData _ _ => false
  | .flush _ => false
  | .dropped => false

/-- The data of a completed request reaches its user; the marked bytes are poisoned (R325). -/
def State.reqData (s : State) (r : Req) (data : List Byte) (marks : List Bool) : State :=
  match r.user with
  | .sqFetch q i _ => s.sqArrive q i data
  | .sdFetch t => s.sdArrive t data
  | .flush v => s.flushEnded v
  | .dropped => s
  | .dmaData _ _ => s.dmaComplete r data marks
  | .dmaDesc _ => s.dmaComplete r data marks
  | .dmaList _ => s.dmaComplete r data marks

/-- Poisoned TLP Received (R343): the Status register records it, with Master Data Parity Error where Parity Error
Response is set and the TLP is a completion. -/
def State.poisonSeen (s : State) (completion : Bool) : State :=
  let s := s.orCfg 4 0x80000000
  let s := if completion && s.cfgBit 4 6 then s.orCfg 4 0x01000000 else s
  s.aerUncor 12 false true

/-- Request tag `t` waits for more completions, with the data that has arrived. -/
def State.keepReq (s : State) (t : Nat) (r : Req) : State := { s with ep := { s.ep with reqs := SMap.insert s.ep.reqs t r } }

/-- A completion arrives for request `t` (R344, R347). The data of a request may come in several completions, in order; the
user takes it with the last one. A zero-length read ends with its one completion. -/
def State.completionIn (s : State) (t : Nat) (r : Req) (status : CplStatus) (data : List Byte) (poison : Bool) : State :=
  match status with
  | .unsupportedRequest => ((s.dropReq t).orCfg 4 0x20000000).reqFails r
  | .completerAbort => ((s.dropReq t).orCfg 4 0x10000000).reqFails r
  | .success =>
    let all := r.got ++ data
    let marks := r.marks ++ copies data.length poison
    if r.len = 0 || all.length = r.len then
      let s := if poison then (s.dropReq t).poisonSeen true else s.dropReq t
      if marks.any id && r.user.poisonFails then s.reqFails r else s.reqData r all marks
    else if all.length < r.len then
      let s := s.keepReq t { r with got := all, marks := marks }
      if poison then s.poisonSeen true else s
    else s

/-- HOST_READ_COMPLETION (R347). A completion that matches no outstanding request is unexpected (R348). -/
def execHostReadCompletion (tag : Nat) (status : CplStatus) (data : List Byte) (poison : Bool) (s : State) :
    Host.Outcome State Fault Refusal :=
  match SMap.get s.ep.reqs tag with
  | none => execUnexpectedCompletion tag s
  | some r => if s.hostOn then .next (s.completionIn tag r status data poison) else .next s

/-- COMPLETION_TIMEOUT (R347, R348): the tag stays out of use, and the user fails. -/
def execCompletionTimeout (tag : Nat) (s : State) : Host.Outcome State Fault Refusal :=
  match SMap.get s.ep.reqs tag with
  | none => .next s
  | some r =>
    if s.hostOn then
      let s := s.dropReq tag
      let s := { s with ep := { s.ep with abandoned := SMap.insert s.ep.abandoned tag { silent := false } } }
      .next (((s.aerUncor 14 false false).raise 833).reqFails r)
    else .next s

/-- CARRY_POP (R359): the head entry leaves the carry-over log; ignored while the log is empty. -/
def execCarryPop (s : State) : Host.Outcome State Fault Refusal :=
  if s.asleep then .next (s.holdRequest .carryPop .access)
  else if s.serving then .next s.popCarry else .next s

end Sys2Proof.Machine
end

