-- ==== Sys2Proof/Machine/RegRead.lean ====
section
/-! DEFINITION. What a read of a BAR0 register returns, and the few effects that a read has (R21, R31, R345, R370, R448,
R496, and the register sections of every chapter). -/

namespace Sys2Proof.Machine
open Sys2Proof

/-- A word put together from fields: values at bit places. -/
def packW (l : List (Nat × Nat)) : Word := BitVec.ofNat 32 (l.foldl (fun a p => a + p.1 * 2 ^ p.2) 0)

/-- A word of 32 bits, one for each number from `i`. -/
def bitWord (i : Nat) (p : Nat → Bool) : Word :=
  BitVec.ofNat 32 ((countUp 0 32).foldl (fun a b => a + ofBool (p (i + b)) * 2 ^ b) 0)

/-- The low or high half of a 64-bit value. -/
def half (a : Addr) (hi : Bool) : Word := BitVec.ofNat 32 (if hi then a.toNat / 2 ^ 32 else a.toNat)

/-- `BUILD_CONFIG` (R7). -/
def State.buildConfig (s : State) : Word :=
  packW [(ofBool (s.build == .skn256), 28), (s.build.pairs, 24), (s.targets, 16), (s.nch / 8, 8), (s.build.code, 0)]

/-- No tag and no tagless slot is in use (R484). -/
def State.idle (s : State) : Bool := s.tags.all (fun e => e.2.st == .free) && s.slots.isEmpty

/-- `GLOBAL_STATUS` (R492). -/
def State.globalStatus (s : State) : Word :=
  packW [(s.ph.resetCause, 24), (ofBool s.test.running, 3), (ofBool s.idle, 2), (ofBool s.ph.tablesReady, 1),
    (ofBool (s.ph.ready && s.ep.fnReset.isNone), 0)]

/-- The endpoint registers (R361). -/
def State.viewEndpoint (s : State) (off : Nat) : Word :=
  if off = 0x190 then s.reg off ||| packW [(s.carry.length, 16), (s.runningOn, 0)]
  else if 0x198 ≤ off then
    match s.carry with
    | [] => 0
    | c :: _ => BitVec.ofNat 32 (leNat (firstN 4 (restN (off - 0x198) (s.carryBytes 0 c))))
  else s.reg off

/-- `FRAME_POOL` of channel `n` (R205). -/
def State.framePool (s : State) (n : Nat) : Word :=
  packW [(s.fld (0x400 + 4 * n) 28 24, 24), (s.frameCount n .retired, 16), (s.frameCount n .held, 8),
    (s.frameCount n .free, 0)]

/-- Channel service registers (R492): arrays of one bit a channel. -/
def State.viewService (s : State) (off : Nat) : Word :=
  let i := off % 0x20 / 4 * 32
  if off < 0x5060 then bitWord i (fun n => decide (n < s.nch) && (s.chan n).fenced)
  else if off < 0x5080 then bitWord i (fun n => decide (n < s.nch) && s.chanBusy n)
  else if off < 0x50E0 then s.reg (0x5080 + off % 0x20)
  else s.reg off

/-- Bays in the states that a test picks, one bit a bay (R402). -/
def State.bayWord (s : State) (p : BayState → Bool) : Word :=
  bitWord 0 (fun b => decide (b < s.nch / 8) && p (s.bay b).st)

/-- A channel is at the held-frame limit (R470). -/
def State.atLimit (s : State) (n : Nat) : Bool := decide (8 ≤ s.frameCount n .held)

/-- The code of an accumulator's state (R257). -/
def AccState.code (t : AccState) : Nat := match t with | .closed => 0 | .opened => 1 | .closing => 2

/-- `ACC_STATUS` and `ACC_MASK` (R257). -/
def State.viewAcc (s : State) (off : Nat) : Word :=
  let a := s.acc ((off - 0x1000) / 8)
  if a.st = .closed then 0
  else if off % 8 = 4 then BitVec.ofNat 32 a.contributed.toNat
  else
    let d := match a.desc with | some d => d.dataCount | none => 0
    packW [(a.st.code, 30), (ofBool a.tainted, 29), (a.count, 25), (d % 32, 20), (popCount 31 a.contributed.toNat, 15),
      (a.sqid, 0)]

/-- The global page. -/
def State.viewGlobal (s : State) (off : Nat) : Word :=
  if off = 0 then 0x00030001
  else if off = 4 then s.buildConfig
  else if off = 0xC then s.globalStatus
  else if off = 0x10 then BitVec.ofNat 32 s.now
  else if off = 0x14 then BitVec.ofNat 32 (s.now / 2 ^ 32)
  else if off < 0x180 then s.reg off
  else if off < 0x200 then s.viewEndpoint off
  else if off < 0x400 then s.reg off
  else if off < 0x800 then s.framePool ((off - 0x400) / 4)
  else if off = 0x88C then s.reg off ||| packW [(s.inj.left, 0)]
  else if off < 0x1000 then s.reg off
  else if off < 0x1800 then s.viewAcc off
  else if off = 0x2004 then s.bayWord (fun t => t == .on)
  else if off = 0x2008 then s.bayWord (fun t => t == .off || t == .ramping || t == .on || t == .fault)
  else if off < 0x3000 then s.reg off
  else if off < 0x3800 then
    if off % 8 = 0 then
      s.reg off ||| packW [((s.chan ((off - 0x3000) / 8)).recStep.code, 8), (s.replayingTags ((off - 0x3000) / 8), 0)]
    else s.reg off
  else if off = 0x3800 then s.reg off ||| packW [(s.deferred.length, 0)]
  else if off < 0x4000 then bitWord ((off - 0x3820) / 4 * 32) (fun n => decide (n < s.nch) && s.atLimit n)
  else if off < 0x4100 then BitVec.ofNat 32 (s.ep.pba.toNat / 2 ^ ((off - 0x4000) / 4 * 32))
  else if off < 0x5100 then s.viewService off
  else s.reg off

/-- The code of a Lull state (R384). -/
def LullState.code (l : LullState) : Nat :=
  match l with | .awake => 0 | .entering => 1 | .lull => 2 | .waking => 3

/-- Source `n` is in service at some target, in either class. -/
def State.active (s : State) (n : Nat) : Bool := s.irq.service.any (fun e => e.2 == n)

/-- The common page and the claim pages of the interrupt controller (R384). `CLAIM` shows 0xFFFF here; `regRead` claims. -/
def State.viewIrq (s : State) (off : Nat) : Word :=
  if off = 0x10000 then
    s.reg off ||| packW [((countUp 0 32).foldl (fun a w => a + popCount 32 (s.reg (0x10300 + 4 * w)).toNat) 0, 0)]
  else if off = 0x10014 then s.reg off ||| packW [(s.irq.lull.code, 0)]
  else if off < 0x10100 then s.reg off
  else if off < 0x10280 then BitVec.ofNat 32 (s.irq.pend.toNat / 2 ^ (off % 0x80 / 4 * 32))
  else if off < 0x10380 then s.reg off
  else if off < 0x10400 then bitWord ((off - 0x10380) / 4 * 32) s.active
  else if off < 0x20000 then s.reg off
  else
    let fast := 0x30000 ≤ off
    let t := (off - 0x20000) % 0x10000 / 0x400
    let r := off % 0x400
    if r = 0 then 0xFFFF
    else if r = 8 then s.reg (0x20008 + t * 0x400)
    else if r = 12 then
      let src := s.inService t fast
      s.reg off ||| packW [(s.targetState t, 26), (s.runningPrio t % 32, 16), (ofBool src.isSome, 15), (src.getD 0, 0)]
    else 0

/-- Array operations that hard-cap passes ordered to suspend, or that await release (R418, R419). -/
def State.capped (s : State) : Nat :=
  let held := fun (o : Option ArrayOp) =>
    match o with | some o => o.cap == .ordered || o.cap == .waiting | none => false
  s.luns.foldl (fun a e => a + ofBool (held e.2.op) + ofBool (held e.2.parked)) 0

/-- The governor registers (R423). -/
def State.viewPower (s : State) (off : Nat) : Word :=
  let g := s.gov
  if off = 0x40024 then
    packW [(g.st.code, 30), (g.cause, 28), (ofBool g.clamped, 27), (ofBool (s.capped != 0), 26), (ofBool g.inTol, 25),
      (s.capped, 0)]
  else if off = 0x40028 then
    packW [((g.waiting.filter (fun r => r.group != 0)).length, 16), ((g.waiting.filter (fun r => r.group == 0)).length, 0)]
  else if off = 0x40030 then BitVec.ofNat 32 g.budget
  else if off = 0x40034 then BitVec.ofNat 32 g.setpoint
  else if off = 0x40038 then BitVec.ofNat 32 g.sense
  else if off = 0x4003C then BitVec.ofNat 32 g.model
  else if off = 0x40040 then BitVec.ofNat 32 (min s.granted 0xFFFFFF)
  else if off = 0x40044 then BitVec.ofNat 32 (min s.standing 0xFFFFFF)
  else s.reg off

/-- The code of a calibration state (R438). -/
def CalState.code (c : CalState) : Nat := match c with | .idle => 0 | .queued => 1 | .running => 2

/-- The calibration registers (R438). -/
def State.viewCal (s : State) (off : Nat) : Word :=
  if off = 0x50004 then
    packW [(ofBool s.calUnit.current.isSome, 31), (s.calUnit.current.getD 0, 16), (s.calUnit.queue.length, 0)]
  else if off < 0x54000 then s.reg off
  else
    let c := s.chan ((off - 0x54000) / 0x40)
    let r := (off - 0x54000) % 0x40
    if r = 4 then s.reg off ||| packW [(c.cal.st.code, 30), (min 0xFF c.trimPending, 0)]
    else if r = 0x10 then codeWord (firstN 4 c.live)
    else if r = 0x14 then codeWord (firstN 4 c.target)
    else if 0x20 ≤ r then codeWord (firstN 4 (restN (4 + (r - 0x20)) c.live))
    else s.reg off

/-- The observation registers (R510). -/
def State.viewObs (s : State) (off : Nat) : Word :=
  if off = 0x70004 then
    s.reg off ||| packW [(ofBool (decide (65536 ≤ s.trace.buf.length)), 30), (s.trace.buf.length, 0)]
  else if 0x70020 ≤ off && off < 0x70030 then
    match s.trace.buf with
    | [] => 0
    | r :: _ => BitVec.ofNat 32 (r.toNat / 2 ^ ((off - 0x70020) / 4 * 32))
  else if 0x70200 ≤ off && off < 0x70224 then
    bitWord ((off - 0x70200) / 4 * 32) (fun g => s.saturated.any (fun k => k / 32 == g))
  else s.reg off

/-- The power indicator code that a bay state drives under auto_pwr (R400). -/
def BayState.indicator (t : BayState) : Nat := match t with | .on => 1 | .ramping => 2 | _ => 0

/-- The registers of a bay (R402). -/
def State.viewBay (s : State) (off : Nat) : Word :=
  let b := (off - 0x80000) / 0x800
  let x := s.bay b
  let r := off % 0x800
  if r = 0 then
    packW [(ofBool x.powerPending, 23), (ofBool x.btn, 19), (ofBool x.pwrGood, 18),
      (ofBool (x.st == .ramping || x.st == .on), 17), (ofBool x.prsnt, 16), (x.st.code, 0)]
  else if r = 0xC && s.bit (bayAt b + 0x10) 20 then wput (s.reg off) 1 0 x.st.indicator
  else s.reg off

/-- The DMA registers (R329). -/
def State.viewDma (s : State) (off : Nat) : Word :=
  if off < 0x180000 then
    let g := (off - 0x100000) / 0x400
    let x := s.dmaChan g
    let r := off % 0x400
    if r = 0x44 then
      s.reg off ||| packW [(ofBool (decide (g % 64 < s.packetChannels (g / 64))), 15), (x.kind, 13), (x.dir, 12),
        (x.status.code, 8), (x.st.code, 0)]
    else if r = 0x5C then packW [(x.hops, 0)]
    else s.reg off
  else if off < 0x190000 then
    let e := (off - 0x180000) / 0x1000
    if off % 0x1000 = 4 then
      let count := fun (p : DmaState → Bool) =>
        ((countUp 0 64).filter (fun c => p (s.dmaChan (e * 64 + c)).st)).length
      s.reg off ||| packW [(count (fun t => t == .halted), 16), (count (fun t => t != .idle), 0)]
    else s.reg off
  else
    let k := (off - 0x190000) / 0x100
    if off % 0x100 = 0x14 then
      s.reg off ||| packW [(ofBool (s.ringStuck k), 17), (ofBool (s.ring k).phase, 16), ((s.ring k).tail, 0)]
    else s.reg off

/-- The code of a queue state (R39). -/
def QState.code (t : QState) : Nat := match t with | .disabled => 0 | .active => 1 | .draining => 2 | .faulted => 3

/-- The queue contexts (R39). -/
def State.viewQueue (s : State) (off : Nat) : Word :=
  let x := s.queue ((off - 0x200000) / 32)
  if off % 32 = 0x1C then
    s.reg off ||| packW [(x.sqHead, 16), (x.cause, 3), (x.st.code, 1), (ofBool (x.st == .active || x.st == .faulted), 0)]
  else s.reg off

/-- The code of a survey state (R295). -/
def SurveyState.code (t : SurveyState) : Nat :=
  match t with | .idle => 0 | .waiting => 1 | .eye => 2 | .samples => 3 | .rings => 4 | .planning => 5

/-- The read-level window with plan pages and advisories (R295); `SURV_EYE.measured` reads 0 below 2,400 MT/s (R286). -/
def State.viewLevels (s : State) (off : Nat) : Word :=
  let head := s.adv.head?
  let word := fun (i : Nat) => match head with
    | some a => leNat (firstN 4 (restN (4 * i) (s.advisoryBytes 0 a)))
    | none => 0
  if 0x300304 ≤ off && off < 0x300310 then BitVec.ofNat 32 (word ((off - 0x300304) / 4))
  else if off = 0x300310 then s.reg off ||| packW [(word 3 % 2, 15), (s.adv.length, 0)]
  else if 0x330000 ≤ off && off % 0x100 = 0 then
    s.reg off ||| packW [((s.chan ((off - 0x330000) / 0x100)).survey.st.code, 0)]
  else if 0x330000 ≤ off && off % 0x100 = 0x10 && decide ((s.chan ((off - 0x330000) / 0x100)).rate < 48) then
    s.reg off &&& 0x7FFFFFFF
  else s.reg off

/-- `TAG_VIEW_LO` and `TAG_VIEW_HI` of tag `t` (R68). A tag whose operation runs on after a reset shows CONFIRMED. -/
def State.tagView (s : State) (t : Nat) (hi : Bool) : Word :=
  let x := s.tag t
  if x.st == .free then 0
  else if hi then
    packW [(x.frame.getD 0, 18), (ofBool x.forwarded, 17), (ofBool x.stagedAck, 16), (ofBool x.abortSlot.isSome, 14),
      (x.replays % 4, 12), (if x.runOn then TagState.confirmed.code else x.st.code, 8), ((x.opcode.map Opcode.code).getD 0, 0)]
  else packW [(ofBool x.committed, 31), (x.sqid, 16), (x.cid.toNat, 0)]

/-- The microcode load control page (R184, R194). -/
def State.viewLoad (s : State) (off : Nat) : Word :=
  if off = 0x410004 then s.reg off ||| packW [(s.ph.master, 0)]
  else if off = 0x410008 then
    (if s.ph.master = 3 then s.reg 0x410014 else if s.ph.master = 4 then s.reg off else 0)
  else if 0x410380 ≤ off && off < 0x4103B0 then
    let j := off - 0x410380
    BitVec.ofNat 32 (leNat ((countUp 0 4).map (fun i =>
      BitVec.ofNat 8 (s.ties.keyHash.toNat / 2 ^ (8 * (47 - (j + i)))))))
  else s.reg off

/-- The code of a channel state (R129). While the island is in channel reset the state reads RESET, unless the channel
trains (R190) or its bay is absent. -/
def Chan.code (c : Chan) : Nat :=
  match c.st with
  | .training => 3
  | .absent => 5
  | .reset => 0
  | .unconfigured => if c.inReset then 0 else 1
  | .discovering => if c.inReset then 0 else 2
  | .running => if c.inReset then 0 else 4

/-- The code of a store state (R188). -/
def StoreState.code (t : StoreState) : Nat := match t with | .empty => 0 | .loading => 1 | .loaded => 2

/-- The mask of valid bytes of a message word (R216). -/
def MsgWord.mask (m : MsgWord) : Nat := 2 ^ (4 * m.count) - 1

/-- A channel page (R127, R194, R217). Every offset but that of `CHAN_STATE` reads 0 in channel reset (R21). -/
def State.viewChan (s : State) (off : Nat) : Word :=
  let n := (off - 0x1000000) / 0x10000
  let c := s.chan n
  let r := off % 0x10000
  if r = 0 then
    packW [(c.mode, 24), (c.rate, 16), (c.present.toNat, 8), (ofBool (decide (96 ≤ c.rate)), 7), (ofBool c.fenced, 6),
      (ofBool c.replaying, 5), (c.code, 0)]
  else if c.inReset then 0
  else if r = 0x9C then BitVec.ofNat 32 ((countUp 0 16).foldl (fun a l => a + ofBool (s.lun (lunKey n l)).held * 2 ^ l) 0)
  else if r = 0x800 then (match c.store, c.image with | .loaded, some i => i.version | _, _ => 0)
  else if r = 0x808 then
    s.reg off ||| packW [(ofBool (c.recStep == .refreshWait), 3), (ofBool (s.loadReady n), 2), (c.store.code, 0)]
  else if r = 0x810 then
    (if c.bus.running then packW [(c.bus.entry, 18), (1, 16), (c.bus.pc % 2 ^ 11, 0)] else 0)
  else if 0x900 ≤ r && r < 0x914 then
    match c.msgs with
    | m :: _ =>
      if m.readable then
        (if r < 0x910 then BitVec.ofNat 32 (m.data.toNat / 2 ^ ((r - 0x900) / 4 * 32))
         else packW [(m.entry.toNat, 24), (ofBool m.truncated, 18), (ofBool m.first, 17), (ofBool m.last, 16), (m.mask, 0)])
      else 0
    | [] => 0
  else if r = 0x918 then packW [(c.msgCount, 0)]
  else s.reg off

/-- The value of the register at a BAR0 offset, without any effect of reading it. -/
def State.regView (s : State) (off : Nat) : Word :=
  if off < 0x10000 then s.viewGlobal off
  else if off < 0x40000 then s.viewIrq off
  else if off < 0x50000 then s.viewPower off
  else if off < 0x60000 then s.viewCal off
  else if off < 0x70000 then s.reg off
  else if off < 0x80000 then s.viewObs off
  else if off < 0x100000 then s.viewBay off
  else if off < 0x200000 then s.viewDma off
  else if off < 0x300000 then s.viewQueue off
  else if off < 0x340000 then s.viewLevels off
  else if off < 0x380000 then
    let e := s.ledgerEntry ((off - 0x340000) / 8)
    if off % 8 = 0 then e.lo else e.count
  else if off < 0x3C0000 then
    let k := (off - 0x380000) / 8
    if off % 8 = 0 then (s.obtEntry k).lo else s.obtHi k
  else if off < 0x3E0000 then s.tagView ((off - 0x3C0000) / 8) (off % 8 == 4)
  else if off < 0x410000 then s.reg off
  else if off < 0x1000000 then s.viewLoad off
  else s.viewChan off

/-- The protected store behind a window register (R439, R453): class, address and bytes that a read of it uses. -/
def State.regStore (s : State) (off : Nat) : Option (Nat × Nat × Nat) :=
  if 0x200000 ≤ off && off < 0x300000 then some (0, mlogAddr 0 ((off - 0x200000) / 32) (off % 32), 4)
  else if 0x310000 ≤ off && off < 0x311E00 then
    some (2, mlogAddr 1 ((off - 0x310000) / 0x200 * 16 + (off - 0x310000) % 0x200 / 0x20) (off % 0x20), 4)
  else if 0x300304 ≤ off && off < 0x300310 && !s.adv.isEmpty then some (3, mlogAddr 1 0 (off - 0x300304), 4)
  else if 0x198 ≤ off && off < 0x1AC && !s.carry.isEmpty then some (1, mlogAddr 1 0 (off - 0x198), 4)
  else if 0x340000 ≤ off && off < 0x380000 then some (3, mlogAddr 0 ((off - 0x340000) / 8) (off % 8), 4)
  else if 0x380000 ≤ off && off < 0x3C0000 then some (4, mlogAddr 0 ((off - 0x380000) / 8) (off % 8), 4)
  else if 0x3C0000 ≤ off && off < 0x3E0000 then some (1, mlogAddr 0 ((off - 0x3C0000) / 8) 0, 256)
  else if 0x400000 ≤ off && off < 0x40A000 then some (6, off - 0x400000, 4)
  else none

/-- The read of a window register meets the errors of its store (R446, R448). Answers whether one was uncorrectable. An entry
of the carry-over log is delivered as such. -/
def State.meetStore (s : State) (off : Nat) : Bool × State :=
  if s.rawGroups.isEmpty then (false, s)
  else
    match s.regStore off with
    | none => (false, s)
    | some (c, addr, n) =>
      let r := s.useEntry c addr n
      (r.1 && decide (0x200000 ≤ off), r.2)

/-- A read of a claim page offset 0 claims (R370); offsets are those of `regDesc`. -/
def isClaim (off : Nat) : Bool := 0x20000 ≤ off && off < 0x40000 && off % 0x400 == 0

/-- A read of the high half of `DEVICE_TIME` through a port returns the port's shadow (R496). -/
def State.timeHigh (s : State) (mgmt : Bool) : Word × State :=
  match (if mgmt then s.ep.shadowMgmt else s.ep.shadowHost) with
  | some w =>
    (w, { s with ep := if mgmt then { s.ep with shadowMgmt := none } else { s.ep with shadowHost := none } })
  | none => (s.regView 0x14, s)

/-- A 32-bit read of a register through a port: its value, none where an uncorrectable error was met, and what the read
changed. -/
def State.regRead (s : State) (mgmt : Bool) (off : Nat) : Option Word × State :=
  if off = 0x10 then (some (s.regView off), s.latchTime mgmt)
  else if off = 0x14 then (some (s.timeHigh mgmt).1, (s.timeHigh mgmt).2)
  else if isClaim off then
    let r := s.claim ((off - 0x20000) % 0x10000 / 0x400) (0x30000 ≤ off)
    (some (BitVec.ofNat 32 r.1), r.2)
  else
    let r := s.meetStore off
    (if r.1 then none else some (r.2.regView off), r.2)

/-- An aligned 64-bit read (R30): the lower register first; `DEVICE_TIME` is read at one instant (R496). -/
def State.regRead64 (s : State) (mgmt : Bool) (off : Nat) : Option (Word × Word) × State :=
  if off = 0x10 then (some (s.regView 0x10, s.regView 0x14), s)
  else
    let a := s.regRead mgmt off
    let b := a.2.regRead mgmt (off + 4)
    (match a.1, b.1 with | some x, some y => some (x, y) | _, _ => none, b.2)

end Sys2Proof.Machine
end

