-- ==== Sys2Proof/Machine/LullEntry.lean ====
section
/-! DEFINITION. Entry into Lull (R378, R420, R436) and its wake events (R380, R381). -/

namespace Sys2Proof.Machine
open Sys2Proof

/-- Lull may be entered (R378). -/
def State.lullReady (s : State) : Bool :=
  (countUp 0 s.nch).all (fun n => (s.chan n).st == .absent || s.fencedIdle n) && s.slots.isEmpty &&
  s.dma.all (fun e => e.2.st == .idle) && s.queues.all (fun e => e.2.st != .draining) && !s.test.running &&
  s.ph.master != 2 && s.noLoads && s.runningOn == 0

/-- A write of 1 to `LULL_CTRL.enter` (R378); register calibrations are abandoned (R436). -/
def State.lullEnter (s : State) : State :=
  if s.lullReady then
    (countUp 0 s.nch).foldl (fun (s : State) n => if (s.chan n).cal.st = .idle then s else s.dropCal n)
      { s with irq := { s.irq with lull := .entering, wakeAfter := none } }
  else s.setBit 0x10010 31 true

/-- The clocks stop (R378, R383, R420); the block wakes at once when a wake event has arrived during the entry (R381). -/
def State.lullStop (s : State) : State :=
  let s := (s.addFld 0x10014 31 16 1).count 266 1 1
  let s : State := { s with gov := { s.gov with model := min 0xFFFFFF s.bayStanding } }
  let e := s.irq.wakeAfter
  let s : State := { s with irq := { s.irq with lull := .lull, wakeAfter := none } }
  match e with
  | some e => s.wakeBy e
  | none => s

/-- LULL_ENTER (R378). -/
def execLullEnter (s : State) : Host.Outcome State Fault Refusal :=
  if s.asleep then .next (s.holdRequest .lullEnter .access)
  else if s.serving then .next s.lullEnter else .next s

/-- LULL_ENTRY (R378). -/
def execLullEntry (s : State) : Host.Outcome State Fault Refusal :=
  if s.ph.powered && s.irq.lull == .entering then .next s.lullStop else .next s

/-- WAKE (R380): a watched edge of a bay source, an assertion of the wake pin, or the first sign of an access or a
reset at a port. -/
def execWake (event : WakeEvent) (s : State) : Host.Outcome State Fault Refusal :=
  if !s.ph.powered || s.ph.aonReset then .next s
  else
    match event with
    | .source n => if s.asleep && 768 ≤ n && n < 800 then .next (s.raise n) else .next s
    | .pin =>
      if s.irq.pinArmed then
        let s : State := { s with irq := { s.irq with pinArmed := false } }
        .next (if s.asleep && s.bit 0x10018 0 then s.wakeBy .pin else s)
      else .next s
    | .access => .next (if s.asleep then s.wakeBy .access else s)
    | .fnReset => .next (if s.asleep then s.wakeBy .fnReset else s)

/-- WAKE_PIN_RELEASE (R531): the wake pin is high again. -/
def execWakePinRelease (s : State) : Host.Outcome State Fault Refusal :=
  .next { s with irq := { s.irq with pinArmed := true } }

end Sys2Proof.Machine
end

