-- ==== Sys2Proof/Machine/RegWrite.lean ====
section
/-! DEFINITION. What a write of a BAR0 register does (R11, R21, R30, and the register sections of every chapter). -/

namespace Sys2Proof.Machine
open Sys2Proof

/-- The value of a register after a plain write (R11). -/
def RegDesc.written (d : RegDesc) (old v : Word) : Word := (old &&& ~~~(d.rw ||| (d.w1c &&& v))) ||| (v &&& d.rw)

/-- A write that changes a register by the types of its fields alone (R11). -/
def State.plainWrite (s : State) (off : Nat) (v : Word) : State :=
  match regDesc s.nch s.targets off with
  | none => s
  | some d => s.setReg off (d.written (s.reg off) v)

/-- The channels of the build that the written 1s of word `i` of a channel bit array name. -/
def State.eachChan (s : State) (i : Nat) (v : Word) (f : State → Nat → State) : State :=
  ((setBits 32 v.toNat).filter (fun b => 32 * i + b < s.nch)).foldl (fun s b => f s (32 * i + b)) s

/-- An operation that a written 1 asks for. -/
def State.onBit (s : State) (v : Word) (b : Nat) (f : State → State) : State := if bitOf v.toNat b then f s else s

/-- The global page (R31). -/
def State.writeGlobal (s : State) (off : Nat) (v : Word) : State :=
  let i := off % 0x20 / 4
  if off = 0x194 then s.onBit v 0 State.popCarry
  else if 0x400 ≤ off && off < 0x800 then s.framePoolWrite ((off - 0x400) / 4) v
  else if off = 0x880 then s.injectionWrite v
  else if off = 0x884 || off = 0x888 then (if s.bit 0x880 31 then s else s.plainWrite off v)
  else if 0x3000 ≤ off && off < 0x3800 && off % 8 = 4 then
    (s.plainWrite off v).onBit v 0 (fun s => s.faultRequest ((off - 0x3000) / 8))
  else if 0x5020 ≤ off && off < 0x5040 then s.eachChan i v (fun s n => s.setFence n)
  else if 0x5040 ≤ off && off < 0x5060 then s.eachChan i v (fun s n => s.clearFence n)
  else if 0x50A0 ≤ off && off < 0x50C0 then s.eachChan i v (fun s n => s.wpSet n)
  else if 0x50C0 ≤ off && off < 0x50E0 then s.eachChan i v (fun s n => s.setArrBit 0x5080 n false)
  else if 0x5100 ≤ off && off < 0x5140 then s.offlineWrite ((off - 0x5100) / 8) (off % 8 == 4) v
  else if 0x8000 ≤ off && off % 16 = 12 then (s.plainWrite off v).msixRelease
  else s.plainWrite off v

/-- The interrupt controller (R384): a write of `SQUALL_CFG` starts a new window (R367), and both pages of a target reach
one `TGT_THRESH`. -/
def State.writeIrq (s : State) (off : Nat) (v : Word) : State :=
  let t := (off - 0x20000) % 0x10000 / 0x400
  let w := off % 0x80 / 4
  if off = 0x10010 then (s.plainWrite off v).onBit v 0 State.lullEnter
  else if 0x10180 ≤ off && off < 0x10200 then s.pendSet w v
  else if 0x10200 ≤ off && off < 0x10280 then s.pendClr w v
  else if off = 0x10004 then
    let s := s.plainWrite off v
    { s with irq := { s.irq with counts := [] } }
  else if off < 0x20000 then s.plainWrite off v
  else if off % 0x400 = 4 then s.complete t (0x30000 ≤ off) v
  else if off % 0x400 = 8 then s.setReg (0x20008 + t * 0x400) (v &&& 7)
  else s.plainWrite off v

/-- The power envelope (R423). An age of 0 turns the age rule off, while it holds reads too (R413). -/
def State.writePower (s : State) (off : Nat) (v : Word) : State :=
  if off = 0x40020 then (s.plainWrite off v).onBit v 0 (fun s => s.peResume s.edgeRecent)
  else if off = 0x4001C then
    let s := s.plainWrite off v
    if s.fld 0x4001C 15 0 = 0 then { s with gov := { s.gov with holdReads := false } } else s
  else s.plainWrite off v

/-- Calibration (R438). -/
def State.writeCal (s : State) (off : Nat) (v : Word) : State :=
  if off = 0x50000 then (s.plainWrite off v).calSettling
  else if off < 0x54000 then s.plainWrite off v
  else
    let n := (off - 0x54000) / 0x40
    let r := (off - 0x54000) % 0x40
    if r = 0 then (s.plainWrite off v).onBit v 0 (fun s => s.calStart n (bitOf v.toNat 1))
    else if r = 0x14 then s.trimTarget n v
    else s.plainWrite off v

/-- Protection of internal memories (R453). -/
def State.writeMem (s : State) (off : Nat) (v : Word) : State :=
  if off = 0x60000 then (s.plainWrite off v).onBit v 0 (fun s => s.clearLog (wfld v 18 16))
  else if off = 0x60004 then (s.plainWrite off v).onBit v 31 (fun s => s.retireFrame (wfld v 13 0))
  else if off = 0x60008 then
    let s := s.plainWrite off v
    match wfld v 1 0 with
    | 1 => s.rawRead
    | 2 => s.rawStore
    | _ => s
  else if 0x60100 ≤ off && off < 0x60140 then
    s.eachChan (off % 0x20 / 4) v (fun s n => s.stagingStart (if off < 0x60120 then 0x60100 else 0x60120) n)
  else s.plainWrite off v

/-- Observation (R510). A rise of enable writes a TIME_SYNC (R498). -/
def State.writeObs (s : State) (off : Nat) (v : Word) : State :=
  if off = 0x70000 then
    let rise := bitOf v.toNat 31 && !s.bit 0x70000 31
    let s := s.plainWrite off v
    let s := if rise then s.traceSync else s
    s.onBit v 0 State.traceFlush
  else if off = 0x70030 then s.onBit v 0 State.tracePop
  else if off = 0x70100 || off = 0x70110 then
    s.onBit v 31 (fun s => s.snapGo ((off - 0x70100) / 0x10) (wfld v 8 0) (bitOf v.toNat 16))
  else s.plainWrite off v

/-- Module bays (R400, R402): with auto_pwr, writes to pwr_ind are ignored. -/
def State.writeBay (s : State) (off : Nat) (v : Word) : State :=
  let b := (off - 0x80000) / 0x800
  if off % 0x800 = 4 then s.bayCtrl b v
  else if off % 0x800 = 0xC && s.bit (bayAt b + 0x10) 20 then s.plainWrite off (wput v 1 0 (s.fld off 1 0))
  else s.plainWrite off v

/-- `DMA_CTRL` (R302, R320, R321, R323): its fields, then start, stop, resume and abort. -/
def State.dmaCtrl (s : State) (g : Nat) (v : Word) : State :=
  let s := (s.plainWrite (dmaAt g + 0x40) v).onBit v 0 (fun s => s.dmaStart g)
  ((s.onBit v 1 (fun s => s.dmaStop g)).onBit v 2 (fun s => s.dmaResume g)).onBit v 3 (fun s => s.dmaAbort g)

/-- `DMA_PACE` (R316): a written 1 to withdraw, or a change of mode, withdraws pacing. -/
def State.dmaPace (s : State) (g : Nat) (v : Word) : State :=
  let change := wfld v 1 0 != s.fld (dmaAt g + 0x58) 1 0
  let s := s.plainWrite (dmaAt g + 0x58) v
  if bitOf v.toNat 23 || change then s.dmaWithdraw g else s

/-- The DMA registers (R329). The working descriptor and `DMA_DESC` are written in IDLE and HALTED only (R302), the base
and size of a ring only while it is not in use. -/
def State.writeDma (s : State) (off : Nat) (v : Word) : State :=
  if off < 0x180000 then
    let g := (off - 0x100000) / 0x400
    let r := off % 0x400
    if r < 0x40 || r = 0x50 || r = 0x54 then
      (if (s.dmaChan g).st == .idle || (s.dmaChan g).st == .halted then s.plainWrite off v else s.dmaReqError g)
    else if r = 0x40 then s.dmaCtrl g v
    else if r = 0x58 then s.dmaPace g v
    else s.plainWrite off v
  else if off < 0x190000 then
    if off % 0x1000 = 0 then s.engCfgWrite ((off - 0x180000) / 0x1000) v else s.plainWrite off v
  else
    let k := (off - 0x190000) / 0x100
    let r := off % 0x100
    if r < 0xC then (if s.ringOn k then s else s.plainWrite off v)
    else if r = 0xC then s.ringCfgWrite k v
    else if r = 0x10 then s.ringHeadWrite k v
    else s.plainWrite off v

/-- The queue contexts (R39): the fields that only state DISABLED opens keep their value in any other state. -/
def State.writeQueue (s : State) (off : Nat) (v : Word) : State :=
  let q := (off - 0x200000) / 32
  let r := off % 32
  let idle := (s.queue q).st == .disabled
  let s := s.freshEntry 0 (mlogAddr 0 q r) 4
  if r < 0x14 then (if idle then s.plainWrite off v else s)
  else if r = 0x14 then s.plainWrite off (if idle then v else wput v 9 8 (s.fld off 9 8))
  else if r = 0x18 then s.plainWrite off (if idle then v else wput v 9 0 (s.fld off 9 0))
  else
    let s := s.plainWrite off v
    if bitOf v.toNat 0 then s.createQueue q else s.deleteQueue q

/-- `RLT_CMD` (R275): an operation runs unless the table is busy; any other op is rejected. -/
def State.rltCommand (s : State) (v : Word) : State :=
  if !s.ph.rltReady then s
  else
    let i := wfld v 15 0
    let t := s.rltIndex i
    match wfld v 18 16 with
    | 1 => t.rltOpRead i
    | 2 => t.rltOpWrite i
    | 3 => t.rltOpLookup
    | 4 => t.rltOpInsert
    | 5 => (t.rltDrop (fun e => !e.pinned)).rltResult 0
    | 6 => { t with rlt := [] }.rltResult 0
    | _ => s.rltResult 3

/-- The read-level table window (R295). -/
def State.writeRlt (s : State) (off : Nat) (v : Word) : State :=
  if off = 0x300000 then s.rltCfg v
  else if off = 0x300004 then s.rltCommand v
  else if 0x300010 ≤ off && off < 0x300040 then (if s.ph.rltReady then s.plainWrite off v else s)
  else if off = 0x300314 then s.onBit v 0 State.popAdvisory
  else if 0x310000 ≤ off && off < 0x311E00 then
    let s := match s.regStore off with | some (c, addr, n) => s.freshEntry c addr n | none => s
    s.plainWrite off v
  else s.plainWrite off v

/-- The microcode image RAM and load control page (R184, R185, R190). -/
def State.writeLoad (s : State) (off : Nat) (v : Word) : State :=
  if off = 0x410000 then
    ((s.plainWrite off v).onBit v 0 State.mcOpen |>.onBit v 1 State.mcVerify).onBit v 2 State.loadAll
  else
    match regDesc s.nch s.targets off with
    | none => s
    | some d =>
      if d.rw = 0 then s
      else if s.ph.master = 1 then
        (if off < 0x40A000 then s.freshEntry 6 (off - 0x400000) 4 else s).plainWrite off v
      else s.setBit 0x410000 31 true

/-- A channel page (R127, R194, R217); writes are discarded in channel reset (R21). -/
def State.writeChan (s : State) (off : Nat) (v : Word) : State :=
  let n := (off - 0x1000000) / 0x10000
  let r := off % 0x10000
  if (s.chan n).inReset then s
  else if r = 4 then
    ((s.plainWrite off v).onBit v 0 (fun s => s.discover n) |>.onBit v 1 (fun s => s.setRate n)).onBit v 2
      (fun s => s.retrain n)
  else if r = 0x9C then s.holdClear n v
  else if r = 0x804 then (s.plainWrite off v).onBit v 0 (fun s => s.mcLoad n)
  else if r = 0x914 then
    (if bitOf v.toNat 1 then s.modChan n Chan.dropMsg else s.onBit v 0 (fun s => s.modChan n Chan.popMsg))
  else s.plainWrite off v

/-- A write of the register at a BAR0 offset; reserved addresses hold none. -/
def State.regWrite (s : State) (off : Nat) (v : Word) : State :=
  if (regDesc s.nch s.targets off).isNone then s
  else if off < 0x10000 then s.writeGlobal off v
  else if off < 0x40000 then s.writeIrq off v
  else if off < 0x50000 then s.writePower off v
  else if off < 0x60000 then s.writeCal off v
  else if off < 0x70000 then s.writeMem off v
  else if off < 0x80000 then s.writeObs off v
  else if off < 0x100000 then s.writeBay off v
  else if off < 0x200000 then s.writeDma off v
  else if off < 0x300000 then s.writeQueue off v
  else if off < 0x340000 then s.writeRlt off v
  else if off < 0x380000 then
    let k := (off - 0x340000) / 8
    if off % 8 = 0 then { s with ledgerLo := SMap.insert s.ledgerLo k v } else s.ledgerHiWrite k v
  else if off < 0x3C0000 then
    let k := (off - 0x380000) / 8
    if off % 8 = 0 then s.obtLoWrite k v else s.obtHiWrite k v
  else if off < 0x400000 then s.plainWrite off v
  else if off < 0x1000000 then s.writeLoad off v
  else s.writeChan off v

/-- An aligned 64-bit write (R30): the lower register first. -/
def State.regWrite64 (s : State) (off : Nat) (lo hi : Word) : State := (s.regWrite off lo).regWrite (off + 4) hi

/-- REGISTER_WRITE (R11): a write of a register takes effect by the types of its fields. In Lull it is held and wakes the
block (R379, R380). -/
def execRegisterWrite (off : Nat) (val : Word) (s : State) : Host.Outcome State Fault Refusal :=
  if s.asleep then .next (s.holdRequest (.registerWrite off val) .access)
  else if s.serving then .next (s.regWrite off val)
  else .next s

end Sys2Proof.Machine
end

