-- ==== Sys2Proof/Machine/Ports.lean ====
section
/-! DEFINITION. The two ports: host requests to BARs and to configuration space (R30 to R33, R205 to R207, R333 to R355)
and the management port (R352, R522). -/

namespace Sys2Proof.Machine
open Sys2Proof

/-- Bytes of a BAR (R29); there are BAR0, BAR2 and BAR4. -/
def barSize (bar : Nat) : Nat :=
  if bar = 0 then 0x4000000 else if bar = 2 then 0x800000 else if bar = 4 then 0x10000000 else 0

/-- An access of a BAR: the kind of its register violation (R350), or what it does. -/
abbrev Access (α : Type) := Except Nat α

/-- The frame that a BAR4 offset shows and the byte within its stride (R33, R205). -/
def State.apertureAt (s : State) (off : Nat) : Nat × Nat :=
  (s.fld (0x200 + 4 * (off / 0x2000000)) 4 0 * 1024 + off % 0x2000000 / 0x8000, off % 0x8000)

/-- The frame and byte of a BAR4 access of `len` bytes, or its violation (R205, R206). -/
def State.bar4At (s : State) (off len : Nat) : Access (Nat × Nat) :=
  let p := s.apertureAt off
  if 64 * s.nch ≤ p.1 then .error 1
  else if 20480 < p.2 + len then .error 4
  else .ok p

/-- A host or management write opens frame `f` (R207). -/
def State.frameOpen (s : State) (f : Nat) : Bool :=
  (s.frame f).st == .reserved || (s.frame f).st == .free && s.fencedIdle (f / 64)

/-- A write of BAR0 (R30): size and alignment, then the address. -/
def State.bar0Write (s : State) (off : Nat) (l : List Byte) : Access State :=
  if (l.length != 4 && l.length != 8) || off % l.length != 0 then .error 2
  else if (regDesc s.nch s.targets off).isNone then .error 1
  else if l.length = 4 then .ok (s.regWrite off (BitVec.ofNat 32 (leNat l)))
  else if (regDesc s.nch s.targets (off + 4)).isNone then .error 1
  else .ok (s.regWrite64 off (BitVec.ofNat 32 (leNat l)) (BitVec.ofNat 32 (leNat (restN 4 l))))

/-- A write of BAR2 (R32, R45, R48). -/
def State.bar2Write (s : State) (off : Nat) (l : List Byte) : Access State :=
  if off < 0x40000 then
    if l.length != 4 || off % 4 != 0 then .error 2
    else
      let v := BitVec.ofNat 32 (leNat l)
      .ok (if off % 8 = 0 then s.sqDoorbell (off / 8) v else s.cqDoorbell (off / 8) v)
  else if off < 0x400000 then .error 1
  else
    match s.pushWrite ((off - 0x400000) / 4096) (off % 4096) l with
    | some s => .ok s
    | none => .error 3

/-- A write of BAR4 (R206, R207, R344); in channel reset it is discarded. -/
def State.bar4Write (s : State) (off : Nat) (l : List Byte) (poison : Bool) : Access State :=
  match s.bar4At off l.length with
  | .error k => .error k
  | .ok (f, b) =>
    if (s.chan (f / 64)).inReset then .ok s
    else if s.frameOpen f then .ok (s.frameWrite f b l poison)
    else .error 5

/-- A write of a BAR. -/
def State.barWrite (s : State) (bar off : Nat) (l : List Byte) (poison : Bool) : Access State :=
  if bar = 0 then s.bar0Write off l
  else if bar = 2 then s.bar2Write off l
  else if bar = 4 then s.bar4Write off l poison
  else .error 1

/-- What a read returns: its bytes, whether they carry poison, and whether it met an uncorrectable error. -/
structure ReadData where
  bytes : List Byte
  poison : Bool
  bad : Bool
  deriving DecidableEq, Repr

/-- A read of BAR0 (R30, R345). -/
def State.bar0Read (s : State) (mgmt : Bool) (off len : Nat) : Access (ReadData × State) :=
  if (len != 4 && len != 8) || off % len != 0 then .error 2
  else if (regDesc s.nch s.targets off).isNone then .error 1
  else if len = 4 then
    let r := s.regRead mgmt off
    .ok (match r.1 with
      | some w => (⟨leBytes 4 w.toNat, false, false⟩, r.2)
      | none => (⟨[], false, true⟩, r.2))
  else if (regDesc s.nch s.targets (off + 4)).isNone then .error 1
  else
    let r := s.regRead64 mgmt off
    .ok (match r.1 with
      | some (lo, hi) => (⟨leBytes 4 lo.toNat ++ leBytes 4 hi.toNat, false, false⟩, r.2)
      | none => (⟨[], false, true⟩, r.2))

/-- A read of BAR2 (R32, R45, R48). -/
def State.bar2Read (s : State) (off len : Nat) : Access (ReadData × State) :=
  if off < 0x40000 then
    if len != 4 || off % 4 != 0 then .error 2 else .ok (⟨leBytes 4 0, false, false⟩, s)
  else if off < 0x400000 then .error 1
  else .error 3

/-- A word of the range reads uncorrectable (R448). -/
def State.rangeBad (s : State) (f b len : Nat) : Bool :=
  (countUp (b / 32) ((b + len + 31) / 32 - b / 32)).any (fun w => (s.readWord f w).1.2.2)

/-- The poisoned bytes of a host read: the frame words that BAR4 shows (R345). -/
def State.readMarks (s : State) (bar off len : Nat) : List Bool :=
  if bar = 4 then
    match s.bar4At off len with
    | .error _ => []
    | .ok (f, b) => if (s.chan (f / 64)).inReset then [] else s.frameMarks f b len
  else []

/-- A read of BAR4 (R206, R345); in channel reset it returns zeros (R207). -/
def State.bar4Read (s : State) (off len : Nat) : Access (ReadData × State) :=
  match s.bar4At off len with
  | .error k => .error k
  | .ok (f, b) =>
    if (s.chan (f / 64)).inReset then .ok (⟨copies len 0, false, false⟩, s)
    else
      let r := s.frameRead f b len
      .ok (⟨r.1.1, r.1.2, s.rangeBad f b len⟩, r.2)

/-- A read of a BAR. -/
def State.barRead (s : State) (mgmt : Bool) (bar off len : Nat) : Access (ReadData × State) :=
  if bar = 0 then s.bar0Read mgmt off len
  else if bar = 2 then s.bar2Read off len
  else if bar = 4 then s.bar4Read off len
  else .error 1

/-- The address at which a BAR lies: its two registers in configuration space, without the bits that its size and type fix
(R29, R334). -/
def State.barBase (s : State) (bar : Nat) : Nat :=
  let off := 0x10 + 4 * bar
  ((s.cfgRaw (off + 4)).toNat * 2 ^ 32 + (s.cfgRaw off).toNat) / barSize bar * barSize bar

/-- The BAR and offset that an address hits (R337). -/
def State.barHit (s : State) (addr : Nat) : Option (Nat × Nat) :=
  ([0, 2, 4].find? (fun bar => decide (s.barBase bar ≤ addr) && decide (addr < s.barBase bar + barSize bar))).map
    (fun bar => (bar, addr - s.barBase bar))

/-- The BAR and offset that a request hits; none where it hits no BAR or is no memory request (R337). -/
def State.targetHit (s : State) (d : InTarget) : Option (Nat × Nat) :=
  match d with
  | .memory addr => s.barHit addr.toNat
  | .bar0 off => if off < barSize 0 then some (0, off) else none
  | .bar2 off => if off < barSize 2 then some (2, off) else none
  | .bar4 off => if off < barSize 4 then some (4, off) else none
  | .noBar => none
  | .ioSpace => none
  | .locked => none
  | .atomic => none
  | .vendorMsg => none

/-- The function takes packets: its island runs and the link is up (R518, R519). -/
def State.portOpen (s : State) : Bool := s.hostOn && s.ep.linkUp

/-- Where an open port's memory request goes; none is an Unsupported Request (R337, R355). -/
def State.target (s : State) (d : InTarget) : Option (Nat × Nat) := if s.serving && s.mse then s.targetHit d else none

/-- A host write takes effect (R337, R344, R351). -/
def State.hostWrite (s : State) (d : InTarget) (l : List Byte) (requester : BitVec 16) (poison : Bool) : State :=
  if d = .vendorMsg then s
  else
    match s.target d with
    | none => s.aerUncor 20 true true
    | some (bar, off) =>
      let s := if poison then s.poisonSeen false else s
      if poison && bar != 4 then s
      else
        match s.barWrite bar off l poison with
        | .ok s => s
        | .error k => (s.violate k bar off l.length true false requester).raise 832

/-- A Completer Abort completion (R343, R351). -/
def State.completerAbort (s : State) (requester : BitVec 16) (tag : Nat) : State :=
  ((s.aerUncor 15 true true).orCfg 4 0x08000000).send (.completion requester tag .completerAbort [] false)

/-- A host read is completed (R337, R345, R351). -/
def State.hostRead (s : State) (d : InTarget) (len : Nat) (requester : BitVec 16) (tag : Nat) : State :=
  if d = .vendorMsg then s
  else
    match s.target d with
    | none => (s.aerUncor 20 false true).send (.completion requester tag .unsupportedRequest [] false)
    | some (bar, off) =>
      let marks := s.readMarks bar off len
      match s.barRead false bar off len with
      | .error k => (s.violate k bar off len false false requester).completerAbort requester tag
      | .ok (x, s) =>
        if bar = 0 && x.bad then (s.aerUncor 22 false true).completerAbort requester tag
        else s.sendRead requester tag off x.bytes marks

/-- A dword of configuration space as it reads (R333 to R336, R343; layouts of the named standards). Device Status shows
Transactions Pending while a request of the block is outstanding. Link Status is an input of the port and reads as a free
value. -/
def State.cfgView (s : State) (off : Nat) : Word :=
  if off = 0 then BitVec.ofNat 32 (s.ties.deviceId.toNat * 2 ^ 16 + s.ties.vendorId.toNat)
  else if off = 4 then s.cfgRaw 4 ||| 0x00100400
  else if off = 8 then BitVec.ofNat 32 (s.ties.classCode.toNat * 2 ^ 8 + s.ties.revId.toNat)
  else if off = 0x10 || off = 0x18 then s.cfgRaw off ||| 4
  else if off = 0x20 then s.cfgRaw off ||| 0xC
  else if off = 0x2C then BitVec.ofNat 32 (s.ties.subsysId.toNat * 2 ^ 16 + s.ties.subVendorId.toNat)
  else if off = 0x34 then 0x40
  else if off = 0x40 then 0x00035001
  else if off = 0x44 then s.cfgRaw 0x44 ||| 8
  else if off = 0x50 then s.cfgRaw 0x50 ||| 0x07FF6011
  else if off = 0x54 then 0x8000
  else if off = 0x58 then 0x4000
  else if off = 0x60 then 0x00020010
  else if off = 0x64 then 0x10008023
  else if off = 0x68 then s.cfgRaw 0x68 ||| (if s.ep.reqs.isEmpty then 0 else 0x00200000)
  else if off = 0x6C then s.ties.linkCap
  else if off = 0x70 then (s.cfgRaw 0x70 &&& 0xFFFF) ||| (Config.freeWord s.fresh &&& 0xFFFF0000)
  else if off = 0x84 then 0x00030000
  else if off = 0x100 then 0x14820001
  else if off = 0x148 then 0x00010003
  else if off = 0x14C then BitVec.ofNat 32 s.ties.dsn.toNat
  else if off = 0x150 then BitVec.ofNat 32 (s.ties.dsn.toNat / 2 ^ 32)
  else s.cfgRaw off

/-- The bits of a dword whose bytes a write enables. -/
def enableMask (e : BitVec 4) : Word :=
  (countUp 0 4).foldl (fun m b => if bitOf e.toNat b then m ||| (0xFF#32 <<< (8 * b)) else m) 0

/-- A configuration dword as a write leaves it stored: RW bits take the written value, W1C bits clear. -/
def cfgWritten (off : Nat) (old v mask : Word) : Word :=
  let d := cfgDesc off
  let rw := d.rw &&& mask
  ((old &&& ~~~rw) ||| (v &&& rw)) &&& ~~~(d.w1c &&& mask &&& v)

/-- A configuration write takes effect. A power state other than D0 and D3hot is not written (R335). -/
def State.cfgWrite (s : State) (off : Nat) (v : Word) (e : BitVec 4) : State :=
  let w := cfgWritten off (s.cfgRaw off) v (enableMask e)
  if off = 0x44 && (wfld w 1 0 == 1 || wfld w 1 0 == 2) then s
  else (s.setCfg off w).dmaBme.msixRelease

/-- A configuration request (R334, R355). -/
def State.configIn (s : State) (off : Nat) (write : Option Word) (e : BitVec 4) (requester : BitVec 16) (tag : Nat) :
    State :=
  let off := off / 4 * 4
  if !s.serving then s.send (.completion requester tag .configRetry [] false)
  else
    match write with
    | none =>
      let t := s.send (.completion requester tag .success (leBytes 4 (s.cfgView off).toNat) false)
      if off = 0x70 then t.nextFresh.2 else t
    | some v =>
      let t := (s.cfgWrite off v e).send (.completion requester tag .success [] false)
      if off = 0x68 && bitOf e.toNat 1 && bitOf v.toNat 15 then t.functionReset .functionLevel else t

/-- The answer of the management port (R522). -/
def State.mgmtAnswer (s : State) (err : Bool) (data : BitVec 64) : State :=
  { s with ep := { s.ep with mgmt := { ack := true, err := err, rdata := data } } }

/-- The BAR of `MG_BAR`; 3 names none. -/
def mgmtBar (code : Nat) : Nat := if code = 0 then 0 else if code = 1 then 2 else if code = 2 then 4 else 3

/-- A management access of a BAR (R351, R522). Data returned with an uncorrectable error is a free value. -/
def State.mgmtAccess (s : State) (code addr : Nat) (eight : Bool) (wdata : Option (BitVec 64)) : State :=
  let bar := mgmtBar code
  let len := if eight then 8 else 4
  let fail := fun (k : Nat) => (s.violate k bar addr len wdata.isSome true 0).mgmtAnswer true 0
  if addr % len != 0 then fail 2
  else if barSize bar ≤ addr then fail 1
  else
    match wdata with
    | some v =>
      match s.barWrite bar addr (leBytes len v.toNat) false with
      | .error k => fail k
      | .ok s => s.mgmtAnswer false 0
    | none =>
      match s.barRead true bar addr len with
      | .error k => fail k
      | .ok (x, s) =>
        if x.bad then
          let a := s.nextFresh
          let b := a.2.nextFresh
          b.2.mgmtAnswer true (Config.freeWord b.1 ++ Config.freeWord a.1)
        else s.mgmtAnswer false (BitVec.ofNat 64 (leNat x.bytes))

/-- An access on the management port (R352): in a function reset only reads of the first 512 bytes of BAR0 are answered. -/
def State.mgmtIn (s : State) (code addr : Nat) (eight : Bool) (wdata : Option (BitVec 64)) : State :=
  if s.serving || (code == 0 && decide (addr < 0x200) && wdata.isNone) then s.mgmtAccess code addr eight wdata
  else s.mgmtAnswer true 0

/-- MEMORY_WRITE (R341). -/
def execMemoryWrite (dst : InTarget) (data : List Byte) (requester : BitVec 16) (poison : Bool) (s : State) :
    Host.Outcome State Fault Refusal :=
  if s.asleep then .next (s.holdRequest (.memoryWrite dst data requester poison) .access)
  else if s.portOpen then .next (s.hostWrite dst data requester poison)
  else .next s

/-- MEMORY_READ (R341). -/
def execMemoryRead (dst : InTarget) (len : Nat) (requester : BitVec 16) (tag : Nat) (s : State) :
    Host.Outcome State Fault Refusal :=
  if s.asleep then .next (s.holdRequest (.memoryRead dst len requester tag) .access)
  else if s.portOpen then .next (s.hostRead dst len requester tag)
  else .next s

/-- CONFIG_REQUEST (R334). -/
def execConfigRequest (off : Nat) (write : Option Word) (enables : BitVec 4) (requester : BitVec 16) (tag : Nat)
    (s : State) : Host.Outcome State Fault Refusal :=
  if s.asleep then .next (s.holdRequest (.configRequest off write enables requester tag) .access)
  else if s.portOpen then .next (s.configIn off write enables requester tag)
  else .next s

/-- MGMT_ACCESS (R352). -/
def execMgmtAccess (bar addr : Nat) (eight : Bool) (wdata : Option (BitVec 64)) (s : State) :
    Host.Outcome State Fault Refusal :=
  if s.asleep then .next (s.holdRequest (.mgmtAccess bar addr eight wdata) .access)
  else if s.hostOn then .next (s.mgmtIn bar addr eight wdata)
  else .next s

/-- BAR4_WRITE (R207): a host write of the frame window. -/
def execBar4Write (off : Nat) (data : List Byte) (poison : Bool) (s : State) : Host.Outcome State Fault Refusal :=
  if s.asleep then .next (s.holdRequest (.bar4Write off data poison) .access)
  else if s.portOpen then .next (s.hostWrite (.bar4 off) data 0 poison)
  else .next s

/-- BAR4_READ (R206): a host read of the frame window. -/
def execBar4Read (off len : Nat) (s : State) : Host.Outcome State Fault Refusal :=
  if s.asleep then .next (s.holdRequest (.bar4Read off len) .access)
  else if s.portOpen then .next (s.hostRead (.bar4 off) len 0 0)
  else .next s

end Sys2Proof.Machine
end

