-- ==== Sys2Proof/Machine/Lull.lean ====
section
/-! DEFINITION. The wake from Lull with the requests held at the ports (R379 to R381, R420), and the function's resets as
commands (R355, R519). -/

namespace Sys2Proof.Machine
open Sys2Proof

/-- A hot reset reaches the function: a pulse, or a fall of the link, which takes every packet with it (R519). -/
def State.hotReset (s : State) : State := if s.hostOn then s.functionReset .hot else s

/-- A function-level reset starts (R355). -/
def State.flr (s : State) : State := if s.hostOn && s.ph.ready then s.functionReset .functionLevel else s

/-- The state after a held access. -/
def served (s : State) (o : Host.Outcome State Fault Refusal) : State :=
  match o with
  | .next t => t
  | _ => s

/-- A request held at a port is served (R379). -/
def State.serve (s : State) (c : Instr) : State :=
  match c with
  | .memoryWrite dst data requester poison => if s.portOpen then s.hostWrite dst data requester poison else s
  | .memoryRead dst len requester tag => if s.portOpen then s.hostRead dst len requester tag else s
  | .configRequest off write enables requester tag =>
    if s.portOpen then s.configIn off write enables requester tag else s
  | .bar4Write off data poison => if s.portOpen then s.hostWrite (.bar4 off) data 0 poison else s
  | .bar4Read off len => if s.portOpen then s.hostRead (.bar4 off) len 0 0 else s
  | .mgmtAccess bar addr eight wdata => if s.hostOn then s.mgmtIn bar addr eight wdata else s
  | .registerWrite off val => if s.serving then s.regWrite off val else s
  | .functionLevelReset => s.flr
  | .hotReset _ => s.hotReset
  | .injectionArm val => served s (execInjectionArm val s)
  | .powerOn b => served s (execPowerOn b s)
  | .powerOff b => served s (execPowerOff b s)
  | .clearFault b => served s (execClearFault b s)
  | .dmaStart e c => served s (execDmaStart e c s)
  | .dmaStop e c => served s (execDmaStop e c s)
  | .dmaAbort e c => served s (execDmaAbort e c s)
  | .dmaResume e c => served s (execDmaResume e c s)
  | .pacingWithdraw e c => served s (execPacingWithdraw e c s)
  | .packetChannelsWrite e val => served s (execPacketChannelsWrite e val s)
  | .ringHeadWrite k val => served s (execRingHeadWrite k val s)
  | .ringEnable k val => served s (execRingEnable k val s)
  | .dmaOfflineWrite e hi val => served s (execDmaOfflineWrite e hi val s)
  | .peResume recent => served s (execPeResume recent s)
  | .peWeightWrite cls val => served s (execPeWeightWrite cls val s)
  | .carryPop => served s (execCarryPop s)
  | .srcPendSet w val => served s (execSrcPendSet w val s)
  | .srcPendClr w val => served s (execSrcPendClr w val s)
  | .srcMaskWrite w val => served s (execSrcMaskWrite w val s)
  | .claim target fast => served s (execClaim target fast s)
  | .complete target fast val => served s (execComplete target fast val s)
  | .rltRead index => served s (execRltRead index s)
  | .rltWrite index => served s (execRltWrite index s)
  | .rltLookup => served s (execRltLookup s)
  | .rltInsert => served s (execRltInsert s)
  | .rltClearUnpinned => served s (execRltClearUnpinned s)
  | .rltClearAll => served s (execRltClearAll s)
  | .rltCfgWrite val => served s (execRltCfgWrite val s)
  | .ledgerHiWrite k val => served s (execLedgerHiWrite k val s)
  | .advPop => served s (execAdvPop s)
  | .obtHiWrite k val => served s (execObtHiWrite k val s)
  | .rawWrite => served s (execRawWrite s)
  | .lullEnter => served s (execLullEnter s)
  | .mcOpen => served s (execMcOpen s)
  | .mcVerify => served s (execMcVerify s)
  | .logClear cls => served s (execLogClear cls s)
  | .memStgInit ch => served s (execMemStgInit ch s)
  | .memBist ch => served s (execMemBist ch s)
  | .rawRead => served s (execRawRead s)
  | .trcPop => served s (execTrcPop s)
  | .trcFlush => served s (execTrcFlush s)
  | .snapshot bank group clear => served s (execSnapshot bank group clear s)
  | .queueCreate q => served s (execQueueCreate q s)
  | .queueDelete q => served s (execQueueDelete q s)
  | .sqTailDoorbell q val => served s (execSqTailDoorbell q val s)
  | .cqHeadDoorbell q val => served s (execCqHeadDoorbell q val s)
  | .pushWindowWrite w off data => served s (execPushWindowWrite w off data s)
  | .lunHoldClear ch val => served s (execLunHoldClear ch val s)
  | .chanFenceSet ch => served s (execChanFenceSet ch s)
  | .chanFenceClr ch => served s (execChanFenceClr ch s)
  | .wpRelSet ch => served s (execWpRelSet ch s)
  | .wpRelClr ch => served s (execWpRelClr ch s)
  | .framePoolWrite ch val => served s (execFramePoolWrite ch val s)
  | .frameRetire frame => served s (execFrameRetire frame s)
  | .msgPop ch => served s (execMsgPop ch s)
  | .msgDrop ch => served s (execMsgDrop ch s)
  | .discover ch => served s (execDiscover ch s)
  | .setRate ch => served s (execSetRate ch s)
  | .retrain ch => served s (execRetrain ch s)
  | .loadAll => served s (execLoadAll s)
  | .mcLoad ch => served s (execMcLoad ch s)
  | .replayFaultRequest ch => served s (execReplayFaultRequest ch s)
  | .calStart ch apply => served s (execCalStart ch apply s)
  | .trimImpTgtWrite ch val => served s (execTrimImpTgtWrite ch val s)
  | _ => s

/-- The block is ready after a wake (R381): the clocks run, the held bay edges set their pending bits, a pin wake may
raise a software source, and the held requests are served in order. For the lost check of the governor the moment is an
accepted edge (R420). -/
def State.wakeUp (s : State) : State :=
  let held := s.ep.held
  let s : State := { s with irq := { s.irq with lull := .awake, wakeAfter := none }
                            ep := { s.ep with held := [] }
                            gov := { s.gov with lost := false }
                            follower := s.deviceTime }
  let s := s.releaseEdges
  let s := if s.fld 0x1001C 31 30 == 2 && s.bit 0x10018 4 then s.raise (1016 + s.fld 0x10018 3 1) else s
  let s := (s.count 266 2 1).traceSync
  held.foldl (fun (s : State) c => s.serve c) s

/-- LULL_WAKE (R381). -/
def execLullWake (s : State) : Host.Outcome State Fault Refusal :=
  if s.ph.powered && s.irq.lull == .waking then .next s.wakeUp else .next s

/-- FUNCTION_LEVEL_RESET (R355): in Lull it wakes the block and runs once the block is ready. -/
def execFunctionLevelReset (s : State) : Host.Outcome State Fault Refusal :=
  if s.asleep then .next (s.holdRequest .functionLevelReset .fnReset) else .next s.flr

/-- HOT_RESET (R519). -/
def execHotReset (linkDown : Bool) (s : State) : Host.Outcome State Fault Refusal :=
  if s.ph.powered && !s.ph.blkReset then
    let s : State := if linkDown then { s with ep := { s.ep with linkUp := false } } else s
    if s.asleep then .next (s.holdRequest (.hotReset linkDown) .fnReset) else .next s.hotReset
  else .next s

end Sys2Proof.Machine
end

