-- ==== Sys2Proof/Machine/Routine.lean ====
section
/-! DEFINITION. Feature accesses, parameter pages and routines on a channel's bus, the messages of a running job, and its two
timers (R104, R105, R113, R143, R159, R160, R165 to R181). -/

namespace Sys2Proof.Machine
open Sys2Proof

/-- The conditions 10 to 13 of the job of tag `t`: an ABORT is pending on it, a RESET_TARGET waits for its target, a job of
orders 1 to 8 or a hard-cap suspend waits, the channel is fenced (R167). -/
def State.requests (s : State) (n t : Nat) (w : Work) : List Bool :=
  [(s.tag t).abortPending,
   s.works.any (fun e => e.2.ch == n && e.2.kind == .reset && e.2.st == .waiting && targetOf e.2.lun == targetOf w.lun),
   s.jobUpTo n 8 || s.luns.any (fun e => e.1 / 16 == n &&
     (match e.2.op with | some o => o.cap == .ordered | none => false)),
   (s.chan n).fenced]

/-- The routine's data goes to the die (R113). -/
def pkToDie (p : Packet) : Bool := bitOf (pkByte p 49) 0

/-- A frame takes what the routine captures (R113). -/
def Work.framed (w : Work) (p : Packet) : Bool := w.frame.isSome && !pkToDie p && decide (0 < pkLen p)

/-- The job of the routine of tag `t` as its sequencer sees it. -/
def State.routineJob (s : State) (n t : Nat) (w : Work) (img : Image) : SeqJob :=
  let p := (s.tag t).packet
  let e := pkByte p 48 % 64
  let tgt := targetOf w.lun
  let c := s.chan n
  { image := img, args := c.bus.args, units := divUp (pkLen p) 8
    rows := (countUp 0 (if s.bit (geomAt n tgt) 30 then 4 else 3)).map (Config.rowByte w.addr)
    target := some tgt, lunByte := BitVec.ofNat 8 (w.lun % 2)
    requests := s.requests n t w, abortable := (s.tag t).st == .issued, quarterPause := s.quarterPause n
    toggle := s.bit (geomAt n tgt) 29, gale := decide (72 < c.rate)
    high := s.highTargets n, confirms := bitOf (SMap.getD img.entries e 0).toNat 13, usClocks := c.usClocks, entry := e
    framed := w.framed p, inWords := if c.ingressWork == c.bus.work then c.ingress.length else 0 }

/-- What a routine has captured goes into its frame behind what it captured before, or stays in the ingress FIFO where no
frame takes it, packet by packet (R113, R210, R211). -/
def State.storeCapture (s : State) (n id t : Nat) (w : Work) : State :=
  let b := (s.chan n).bus
  let p := (s.tag t).packet
  let clear := { b with captured := [], closed := [] }
  match w.framed p, w.frame with
  | true, some f =>
    let l := b.closed.flatten ++ b.captured
    let s := s.frameWrite f w.column (firstN (pkLen p - w.column) l) false
    (s.modWork id (fun w => { w with column := w.column + l.length })).modChan n (fun c => { c with bus := clear })
  | _, _ => s.modChan n (fun c => { c with
      ingress := fifoTail ((if c.ingressWork = some id then c.ingress else []) ++ ingressWords b.closed b.captured)
      ingressWork := some id, bus := clear })

/-- A routine that has paused: its job goes back to the head of its order with its counters and the data that it has not
taken (R178). -/
def State.routinePauses (s : State) (n id t : Nat) (w : Work) : State :=
  let s := s.storeCapture n id t w
  let b := (s.chan n).bus
  let s := s.modWork id (fun w => { w with
    st := .paused, resumeCol := b.a + b.b * 2 ^ 16, infos := [b.egress], failed := b.failed.toList })
  (s.modChan n (fun c => { c with egress := [], egressWork := none })).busEnds n

/-- A routine is abandoned at a safe point (R175, R176): a pending ABORT, or the reset of its target, ends its tag. -/
def State.routineAbandoned (s : State) (t : Nat) : State :=
  let r := s.abortIfPending t
  if r.1 then r.2 else s.resetTag t

/-- A routine has ended: its data is delivered where it captured any for the host, else it completes, with its result as
info (R113, R172). -/
def State.routineEnds (s : State) (n id t : Nat) (w : Work) : State :=
  let s := s.storeCapture n id t w
  let fail := (s.chan n).bus.failed
  let s := (s.busEnds n).endWork id
  let x := s.tag t
  match fail with
  | some v => s.finish t .lunStatusFail (v % 256 * 2 ^ 16)
  | none =>
    if w.framed x.packet && !x.runOn then
      (s.modTag t (fun x => { x with status := .success, info := x.result, delivered := 0 })).tagTo t .delivering
    else s.finish t .success x.result.toNat

/-- What a stretch of a routine has done: the messages that it emitted, in order, and how it stands (R166, R172, R175 to
R179). -/
def State.routineRan (s : State) (n id t : Nat) (w : Work) (e : Nat) (q : Seq) : State :=
  let s := q.messages.foldl (fun (s : State) m => s.traceMsg n m.1 e m.2) s
  let s := { s.modChan n (fun c => { q.chan with
    egress := if c.egressWork = some id then firstN 32 (fifoWords q.chan.bus.egress) else q.chan.egress }) with fresh := q.fresh }
  let s := s.modWork id (fun w => { w with st := .running })
  let s := if q.messages.any (fun m => m.1 == 3) then (s.routineOp n id w.lun).confirmTag t else s
  let s := match q.result with | some r => s.modTag t (fun x => { x with result := r }) | none => s
  let s := if q.messages.any (fun m => m.1 == 7) then s.suspendedLun n w.lun else s
  match q.fin with
  | .illegal => s.fault n 1 q.chan.bus.pc
  | .stalled | .running => s
  | .abandoned => s.routineAbandoned t
  | .paused => s.routinePauses n id t w
  | .ended => s.routineEnds n id t w

/-- The routine that runs on channel `n` goes on, at most 65,536 microwords of it; `input` is what the die gives it. -/
def State.routineOn (s : State) (n id t : Nat) (w : Work) (input : List Byte) : State :=
  match (s.chan n).image with
  | none => s
  | some img =>
    let c := s.chan n
    let c := { c with bus := c.bus.resumed s.now c.usClocks input }
    let j := s.routineJob n t w img
    s.routineRan n id t w j.entry (j.run 65536
      { chan := c, fresh := s.fresh, result := none, messages := [], fin := .running })

/-- A routine starts at its entry, or is entered again after a pause with its counters as it left them and its argument
words unchanged (R113, R175, R178). Data for the die that is poisoned ends the command. -/
def State.routineStart (s : State) (n id t : Nat) (w : Work) : State :=
  let p := (s.tag t).packet
  let e := pkByte p 48 % 64
  let data := match w.frame with
    | some f => if pkToDie p && decide (0 < pkLen p) then s.frameRead f 0 (pkLen p) else (([], false), s)
    | none => (([], false), s)
  if data.1.2 then data.2.stopTag t .dataPoisoned 0
  else
    let left := if w.st = WorkState.paused then w.infos.headD [] else data.1.1
    let s := ((data.2.traceJob n 9 e w.lun (some t)).issueTag w).busJob n e
      [BitVec.ofNat 32 (ple p 52 4), BitVec.ofNat 32 (ple p 56 4), BitVec.ofNat 32 (ple p 60 4)] (some id) w.lun true []
    s.modChan n (fun c => { c with
      egress := firstN 32 (fifoWords left), egressWork := some id
      bus := { c.bus with
        a := w.resumeCol % 2 ^ 16, b := w.resumeCol / 2 ^ 16, egress := left, failed := w.failed.head?
        sampled := s.requests n t w, confirmed := (s.tag t).st == TagState.confirmed } })

/-- GET_FEATURE returns the four parameter bytes that the target gives (R104). -/
def State.getFeatureJob (s : State) (n id t : Nat) (w : Work) (input : List Byte) : State :=
  if input.length != 4 then s
  else
    let a := BitVec.ofNat 8 (pkByte (s.tag t).packet 48)
    let s := ((s.traceJob n 9 4 w.lun (some t)).issueTag w).busJob n 4 [a.setWidth 32] (some id) w.lun false
      [s.imageCommand n 4, .address a, .dataOut input]
    (s.endWork id).finish t .success (leNat input)

/-- SET_FEATURE sends the four parameter bytes (R104). -/
def State.setFeatureJob (s : State) (n id t : Nat) (w : Work) : State :=
  let p := (s.tag t).packet
  let a := BitVec.ofNat 8 (pkByte p 48)
  let s := ((s.traceJob n 9 5 w.lun (some t)).issueTag w).busJob n 5 [a.setWidth 32] (some id) w.lun false
    [s.imageCommand n 5, .address a, .dataIn ((countUp 52 4).map (fun i => BitVec.ofNat 8 (pkByte p i)))]
  (s.endWork id).finish t .success 0

/-- READ_PARAMETER_PAGE brings the selected copy of the selected data, and whether its CRC matches (R105). -/
def State.paramJob (s : State) (n id t : Nat) (w : Work) (f : Nat) (input : List Byte) : State :=
  let p := (s.tag t).packet
  let tog := s.bit (geomAt n (targetOf w.lun)) 29
  if input.length != (if tog then 512 else pkLen p) then s
  else
    let l := if !tog then input
             else if pkByte p 48 = 0 then firstN 256 input
             else firstN (pkLen p) (restN 256 input ++ copies 4096 0)
    let ok := if tog then leNat (restN 510 input) == pageCrc (firstN 510 input)
              else crcMatches (pkByte p 48 == 1) input
    let s := ((s.traceJob n 9 3 w.lun (some t)).issueTag w).busJob n 3
      [BitVec.ofNat 32 (pkByte p 48 + pkByte p 49 * 2 ^ 8)] (some id) w.lun false [s.imageCommand n 3, .dataOut input]
    let s := (s.frameWrite f 0 l false).endWork id
    (s.modTag t (fun x => { x with status := .success, info := BitVec.ofNat 32 (ofBool ok), delivered := 0 })).tagTo t
      .delivering

/-- The work of the routine that runs on the bus of channel `n`. -/
def State.routineRuns (s : State) (n : Nat) : Option Nat :=
  match (s.chan n).bus.running, (s.chan n).bus.work with
  | true, some id => (match s.work id with | some w => if w.kind = .routine then some id else none | none => none)
  | _, _ => none

/-- START or ABANDON runs on channel `n` (R176, R180). -/
def State.entryRuns (s : State) (n : Nat) : Bool :=
  let b := (s.chan n).bus
  b.running && b.work.isNone && decide (b.entry < 2)

/-- A feature access, a parameter page read or a stretch of a routine (R104, R105, R113, R143, R165 to R178): the routine
that runs, else the job of order 9 that the scheduler starts next. `input` is what the die gives it. -/
def State.featureJob (s : State) (n : Nat) (input : List Byte) : State :=
  let pick := match s.routineRuns n with
    | some id => some id
    | none => (match s.bestJob n with | some (.access id) => some id | _ => none)
  match pick with
  | none => s
  | some id =>
    match s.work id with
    | none => s
    | some w =>
      match w.tag with
      | none => s.endWork id
      | some t =>
        match pkOpcode (s.tag t).packet, w.frame with
        | some .getFeature, _ => s.getFeatureJob n id t w input
        | some .setFeature, _ => s.setFeatureJob n id t w
        | some .readParameterPage, some f => s.paramJob n id t w f input
        | some .runRoutine, _ =>
          let s := if (s.routineRuns n).isSome || (s.chan n).image.isNone then s else s.routineStart n id t w
          (match s.routineRuns n, s.work id with
           | some _, some w => s.routineOn n id t w input
           | _, _ => s)
        | _, _ => s

/-- The microword in which the sequencer of channel `n` stands waits for the die to be ready (R171). -/
def State.waitsReady (s : State) (n : Nat) : Bool :=
  let c := s.chan n
  let w := match c.image with | some i => SMap.getD i.words c.bus.pc 0 | none => 0
  c.bus.running && c.bus.readyWait && (mwf w 15 11 == 5 || mwf w 15 11 == 7)

/-- The ready wait of the feature access or routine of a LUN passes its limit (R160, R171): its tag ends TIMEOUT, the LUN is
held, and the grant stays until a poll finds the LUN ready. -/
def State.accessTimeout (s : State) (n l : Nat) : State :=
  let late := fun (e : Nat × Work) =>
    e.2.ch == n && e.2.lun == l && (e.2.kind == .access || e.2.kind == .routine) &&
      ((s.waitsReady n && (s.chan n).bus.work == some e.1) || (e.2.kind == .access && s.bestJob n == some (.access e.1)))
  match s.works.find? late with
  | some (id, w) =>
    let s := s.modWork id (fun w => { w with sent := true })
    let s := match w.tag with
      | some t => s.stopTag t .timeout 0
      | none => s.endWork id
    ((s.modLun (lunKey n l) (fun x => { x with
      held := true, op := some { ArrayOp.start w.kind [] with timedOut := true } })).attn n 4).grantFrames n
  | none => s

/-- The stall timer of channel `n` counts: a routine runs and is not in a ready wait, or a bus job is due to start (R159,
R171), such as an eye scan's or a loopback's. -/
def State.stallCounts (s : State) (n : Nat) : Bool :=
  let c := s.chan n
  if c.bus.running then !c.bus.readyWait
  else (s.bestJob n).isSome || c.st == .discovering || c.st == .training || c.survey.st == .eye ||
    (s.test.running && s.test.extended && s.testCovers n)

/-- The running job of work `id` emits a message that it may not emit: an illegal microword at the sequencer's address (R173,
R178, R179). -/
def State.badMessageFault (s : State) (n : Nat) : State := s.fault n 1 (s.chan n).bus.pc

/-- READY_TIMEOUT (R160); of a target that a recovery has reset, it ends the recovery (R459). -/
def execReadyTimeout (ch lun : Nat) (s : State) : Host.Outcome State Fault Refusal :=
  if s.lunOk ch lun then
    .next (if (s.lun (lunKey ch lun)).op.isSome then
             (if (s.chan ch).st == .training && !(s.ownResets ch).isEmpty then (s.readyTimeout ch lun).trainLost ch
              else s.readyTimeout ch lun)
           else s.accessTimeout ch lun)
  else .next s

/-- FEATURE_ACCESS_JOB (R143); while START or ABANDON runs, it goes on instead (R176, R180). -/
def execFeatureAccessJob (ch : Nat) (input : List Byte) (s : State) : Host.Outcome State Fault Refusal :=
  if s.lunOk ch 0 then
    .next (if s.entryRuns ch then (if (s.chan ch).inReset then s else s.entryOn ch 65536 input) else s.featureJob ch input)
  else .next s

/-- CONFIRM (R172). -/
def execConfirm (ch id : Nat) (s : State) : Host.Outcome State Fault Refusal :=
  if s.lunOk ch 0 then .next (if s.badMessage ch id 3 then s.badMessageFault ch else s.confirmWork ch id) else .next s

/-- RESULT (R172). -/
def execResult (ch id : Nat) (word : Word) (s : State) : Host.Outcome State Fault Refusal :=
  if s.lunOk ch 0 then .next (if s.badMessage ch id 4 then s.badMessageFault ch else s.resultMsg ch id word) else .next s

/-- PAUSED (R178). -/
def execPaused (ch id col : Nat) (s : State) : Host.Outcome State Fault Refusal :=
  if s.lunOk ch 0 then
    .next (if s.badMessage ch id 6 then s.badMessageFault ch
           else
             match s.work id with
             | some w =>
               (match w.kind, w.tag with
                | .routine, some t =>
                  if s.emits ch id then
                    let s := (s.traceMsg ch 6 (s.chan ch).bus.entry 0).routinePauses ch id t w
                    (s.abortIfPending t).2
                  else s
                | _, _ => s.pausedMsg ch id col)
             | none => s)
  else .next s

/-- DOLDRUMS_STALL_TIMEOUT (R159). -/
def execDoldrumsStallTimeout (ch : Nat) (addr : BitVec 11) (s : State) : Host.Outcome State Fault Refusal :=
  if s.canFault ch && (s.chan ch).store == .loaded && s.stallCounts ch then .next (s.fault ch 2 addr.toNat) else .next s

end Sys2Proof.Machine
end

