-- ==== Sys2Proof/Machine/Wheel.lean ====
section
/-! DEFINITION. The shared host-island paths: their requesters, the wheel, and the commands that take one of its slots
(R22 to R24, R313). -/

namespace Sys2Proof.Machine
open Sys2Proof

/-- The priority that owns position `i` of the wheel: 8, 4, 3 and 1 slots (R22). -/
def slotPrio (i : Nat) : Nat :=
  let k := nth (sortBy Config.wheelKey (countUp 0 16)) i 0
  if k < 8 then 3 else if k < 12 then 2 else if k < 15 then 1 else 0

/-- The priorities of the requesters other than DMA channels that wait for a slot of a path (R24, R251, R255, R259): queue
entry fetches, completion entries and stripe descriptors on a stream pair, additions on the staging crossbar. An access
of the table ports or of the record path is whole within its command: no requester waits there. -/
def State.otherPrios (s : State) (p : WheelPath) : List Nat :=
  match p with
  | .pair k =>
    s.queues.flatMap (fun e =>
      (if s.wantsSq e.1 && s.queuePair e.1 == k then [2] else []) ++
        (if s.wantsCq e.1 && s.entryPair e.1 == k then [3] else [])) ++
      s.tags.flatMap (fun e => if s.wantsSd e.1 && s.queuePair e.2.sqid == k then [3] else [])
  | .crossbar =>
    s.accs.flatMap (fun e => if e.2.adding.isEmpty then [] else [2]) ++
      s.works.flatMap (fun e => if s.wantsAdd e.1 then [3] else [])
  | _ => []

/-- The priorities of all that wait for a slot of a path. -/
def State.waitPrios (s : State) (p : WheelPath) : List Nat := (s.pathWaiters p).map s.dmaPrio ++ s.otherPrios p

/-- The priority that the next slot of a path serves (R22): its own, or the highest that waits. -/
def State.turnPrio (s : State) (p : WheelPath) : Option Nat :=
  let l := s.waitPrios p
  match leastBy (fun k => 3 - k) l with
  | none => none
  | some hi =>
    if l.all (· == hi) then some hi
    else
      let own := slotPrio (SMap.getD s.wheels (pathNo p) 0)
      some (if l.contains own then own else hi)

/-- A slot of a path has been given. -/
def State.slotGone (s : State) (p : WheelPath) : State := s.slotsGone p 1

/-- A user of a path has issued its read requests: each takes a slot (R22). -/
def State.slotsRead (s : State) (p : WheelPath) (before : State) : State :=
  s.slotsGone p (s.ep.reqs.length - before.ep.reqs.length)

/-- A DMA channel has been granted a slot: its next burst keeps the priority that it has now (R313). -/
def State.grantDma (s : State) (p : WheelPath) (g : Nat) : State :=
  let prio := s.dmaPrio g
  s.modDmaChan g (fun c =>
    let c := { c with prio := some prio }
    match p with
    | .crossbar => { c with crossGrant := true }
    | _ => { c with granted := true })

/-- The next slot of a path is granted (R22, R313): round-robin in global channel number among the DMA channels of the
priority that it serves. A slot that serves another requester is taken by that one's own command. -/
def State.wheel (s : State) (p : WheelPath) : State :=
  match s.turnPrio p with
  | none => s
  | some k =>
    let key := 100 + 4 * pathNo p + k
    let from0 := SMap.getD s.wheels key 0
    match leastBy (fun g => (g + 1024 - from0) % 1024) ((s.pathWaiters p).filter (fun g => s.dmaPrio g == k)) with
    | none => s
    | some g =>
      let s := (s.slotGone p).grantDma p g
      { s with wheels := SMap.setD s.wheels key ((g + 1) % 1024) 0 }

/-- The next slot of a path serves a requester of this priority. -/
def State.slotFor (s : State) (p : WheelPath) (prio : Nat) : Bool := s.turnPrio p == some prio

/-- WHEEL_GRANT (R22). -/
def execWheelGrant (path : WheelPath) (s : State) : Host.Outcome State Fault Refusal :=
  if s.hostWorks then .next (s.wheel path) else .next s

/-- SQ_FETCH (R47), at priority 2 of the queue's stream pair. -/
def execSqFetch (q : Nat) (s : State) : Host.Outcome State Fault Refusal :=
  let p := WheelPath.pair (s.queuePair q)
  if queueOk q && s.wantsSq q && s.slotFor p 2 then .next ((s.fetchSq q).slotsRead p s) else .next s

/-- COMPLETION_WRITE (R61), at priority 3 of the stream pair of its data (R62). -/
def execCompletionWrite (q : Nat) (s : State) : Host.Outcome State Fault Refusal :=
  let p := WheelPath.pair (s.entryPair q)
  if s.hostWorks && queueOk q && s.wantsCq q && s.slotFor p 3 then .next ((s.slotGone p).writeEntry q) else .next s

/-- SD_FETCH (R251): a stripe descriptor is fetched, at priority 3 of the stream pair of its queue; an open that waits for
frames tries again (R116, R196). -/
def execSdFetch (tag : Nat) (s : State) : Host.Outcome State Fault Refusal :=
  if !decide (tag < 64 * s.nch) then .next s
  else
    match (s.tag tag).sd with
    | some d =>
      if (s.tag tag).openWaits && s.hostWorks then .next (s.openAcc tag (pkByte (s.tag tag).packet 49) d) else .next s
    | none =>
      let p := WheelPath.pair (s.queuePair (s.tag tag).sqid)
      if s.wantsSd tag && s.slotFor p 3 then .next ((s.fetchSd tag).slotsRead p s) else .next s

/-- REBUILD_ADDITION_END (R259): a decoded member has been added, in a slot of priority 3 of the staging crossbar. -/
def execRebuildAdditionEnd (id : Nat) (s : State) : Host.Outcome State Fault Refusal :=
  if s.hostWorks && s.wantsAdd id && s.slotFor .crossbar 3 then .next ((s.slotGone .crossbar).addPayload id)
  else .next s

/-- ACC_ADDITION_END (R255): a program's payload has been added, in a slot of priority 2 of the staging crossbar. -/
def execAccAdditionEnd (acc : Nat) (s : State) : Host.Outcome State Fault Refusal :=
  if s.hostWorks && decide (acc < 256) && !(s.acc acc).adding.isEmpty && s.slotFor .crossbar 2 then
    .next ((s.slotGone .crossbar).accAdd acc)
  else .next s

end Sys2Proof.Machine
end

