-- ==== Sys2Proof/Machine/Dispatch.lean ====
section
/-! DEFINITION. The dispatch of a command to its meaning: one arm per constructor of `Instr`. -/

namespace Sys2Proof.Machine
open Sys2Proof

def exec (i : Instr) (s : State) : Host.Outcome State Fault Refusal :=
  match i with
  | .registerWrite off val => Sys2Proof.Machine.execRegisterWrite off val s
  | .memoryWrite dst data requester poison => Sys2Proof.Machine.execMemoryWrite dst data requester poison s
  | .memoryRead dst len requester tag => Sys2Proof.Machine.execMemoryRead dst len requester tag s
  | .configRequest off write enables requester tag => Sys2Proof.Machine.execConfigRequest off write enables requester tag s
  | .malformedTlp pair => Sys2Proof.Machine.execMalformedTlp pair s
  | .hostReadCompletion tag status data poison => Sys2Proof.Machine.execHostReadCompletion tag status data poison s
  | .completionTimeout tag => Sys2Proof.Machine.execCompletionTimeout tag s
  | .unexpectedCompletion tag => Sys2Proof.Machine.execUnexpectedCompletion tag s
  | .abandonedTagRelease tag => Sys2Proof.Machine.execAbandonedTagRelease tag s
  | .linkError bit => Sys2Proof.Machine.execLinkError bit s
  | .mgmtAccess bar addr eight wdata => Sys2Proof.Machine.execMgmtAccess bar addr eight wdata s
  | .functionLevelReset => Sys2Proof.Machine.execFunctionLevelReset s
  | .hotReset linkDown => Sys2Proof.Machine.execHotReset linkDown s
  | .functionReady => Sys2Proof.Machine.execFunctionReady s
  | .fundamentalReset => Sys2Proof.Machine.execFundamentalReset s
  | .fundamentalResetRelease ties => Sys2Proof.Machine.execFundamentalResetRelease ties s
  | .hostPllLock => Sys2Proof.Machine.execHostPllLock s
  | .channelPllLock ch => Sys2Proof.Machine.execChannelPllLock ch s
  | .controlRamInitEnd => Sys2Proof.Machine.execControlRamInitEnd s
  | .aonReset => Sys2Proof.Machine.execAonReset s
  | .queueCreate q => Sys2Proof.Machine.execQueueCreate q s
  | .queueDelete q => Sys2Proof.Machine.execQueueDelete q s
  | .queueDrainEnd q => Sys2Proof.Machine.execQueueDrainEnd q s
  | .sqTailDoorbell q val => Sys2Proof.Machine.execSqTailDoorbell q val s
  | .cqHeadDoorbell q val => Sys2Proof.Machine.execCqHeadDoorbell q val s
  | .sqFetch q => Sys2Proof.Machine.execSqFetch q s
  | .pushWindowWrite w off data => Sys2Proof.Machine.execPushWindowWrite w off data s
  | .packetParse => Sys2Proof.Machine.execPacketParse s
  | .completionWrite q => Sys2Proof.Machine.execCompletionWrite q s
  | .coalescingTimeout q => Sys2Proof.Machine.execCoalescingTimeout q s
  | .msixMessage v => Sys2Proof.Machine.execMsixMessage v s
  | .readPage q => Sys2Proof.Machine.execReadPage q s
  | .readQuarter q => Sys2Proof.Machine.execReadQuarter q s
  | .readRaw q => Sys2Proof.Machine.execReadRaw q s
  | .readRebuild q => Sys2Proof.Machine.execReadRebuild q s
  | .programPage q => Sys2Proof.Machine.execProgramPage q s
  | .programRaw q => Sys2Proof.Machine.execProgramRaw q s
  | .reprogramHeld q => Sys2Proof.Machine.execReprogramHeld q s
  | .releaseFrame q => Sys2Proof.Machine.execReleaseFrame q s
  | .copyPage q => Sys2Proof.Machine.execCopyPage q s
  | .eraseBlock q => Sys2Proof.Machine.execEraseBlock q s
  | .getFeature q => Sys2Proof.Machine.execGetFeature q s
  | .setFeature q => Sys2Proof.Machine.execSetFeature q s
  | .readParameterPage q => Sys2Proof.Machine.execReadParameterPage q s
  | .resetTarget q => Sys2Proof.Machine.execResetTarget q s
  | .abort q => Sys2Proof.Machine.execAbort q s
  | .fence q => Sys2Proof.Machine.execFence q s
  | .fenceCommit slot => Sys2Proof.Machine.execFenceCommit slot s
  | .getDeferred q => Sys2Proof.Machine.execGetDeferred q s
  | .survey q => Sys2Proof.Machine.execSurvey q s
  | .calibrate q => Sys2Proof.Machine.execCalibrate q s
  | .selfTestStartShort q => Sys2Proof.Machine.execSelfTestStartShort q s
  | .selfTestStartExtended q => Sys2Proof.Machine.execSelfTestStartExtended q s
  | .selfTestStop q => Sys2Proof.Machine.execSelfTestStop q s
  | .runRoutine q => Sys2Proof.Machine.execRunRoutine q s
  | .stripeParityOpen q => Sys2Proof.Machine.execStripeParityOpen q s
  | .stripeParityClose q => Sys2Proof.Machine.execStripeParityClose q s
  | .stripeParityDiscard q => Sys2Proof.Machine.execStripeParityDiscard q s
  | .sdFetch tag => Sys2Proof.Machine.execSdFetch tag s
  | .dataPhaseStart e => Sys2Proof.Machine.execDataPhaseStart e s
  | .dataPhaseEnd e c => Sys2Proof.Machine.execDataPhaseEnd e c s
  | .programStaged tag => Sys2Proof.Machine.execProgramStaged tag s
  | .accAdditionEnd acc => Sys2Proof.Machine.execAccAdditionEnd acc s
  | .admissionRequest ch lun => Sys2Proof.Machine.execAdmissionRequest ch lun s
  | .admissionGrant => Sys2Proof.Machine.execAdmissionGrant s
  | .admissionAge => Sys2Proof.Machine.execAdmissionAge s
  | .admissionStall => Sys2Proof.Machine.execAdmissionStall s
  | .programAgeClimb id => Sys2Proof.Machine.execProgramAgeClimb id s
  | .levelSet ch => Sys2Proof.Machine.execLevelSet ch s
  | .readIssue ch => Sys2Proof.Machine.execReadIssue ch s
  | .dataOut ch data => Sys2Proof.Machine.execDataOut ch data s
  | .statusPoll ch status => Sys2Proof.Machine.execStatusPoll ch status s
  | .rbNRise ch target => Sys2Proof.Machine.execRbNRise ch target s
  | .pollIntervalExpiry ch target => Sys2Proof.Machine.execPollIntervalExpiry ch target s
  | .heldLunPoll ch lun => Sys2Proof.Machine.execHeldLunPoll ch lun s
  | .suspendProgram ch => Sys2Proof.Machine.execSuspendProgram ch s
  | .suspendErase ch => Sys2Proof.Machine.execSuspendErase ch s
  | .resume ch => Sys2Proof.Machine.execResume ch s
  | .program ch quarters => Sys2Proof.Machine.execProgram ch quarters s
  | .programResume ch quarters => Sys2Proof.Machine.execProgramResume ch quarters s
  | .erase ch => Sys2Proof.Machine.execErase ch s
  | .targetReset ch => Sys2Proof.Machine.execTargetReset ch s
  | .featureAccessJob ch input => Sys2Proof.Machine.execFeatureAccessJob ch input s
  | .confirm ch id => Sys2Proof.Machine.execConfirm ch id s
  | .result ch id word => Sys2Proof.Machine.execResult ch id word s
  | .fail ch id status => Sys2Proof.Machine.execFail ch id status s
  | .paused ch id col => Sys2Proof.Machine.execPaused ch id col s
  | .suspended ch lun => Sys2Proof.Machine.execSuspended ch lun s
  | .push ch entry word => Sys2Proof.Machine.execPush ch entry word s
  | .pushEnd ch entry word => Sys2Proof.Machine.execPushEnd ch entry word s
  | .illegalMicroword ch addr => Sys2Proof.Machine.execIllegalMicroword ch addr s
  | .doldrumsStallTimeout ch addr => Sys2Proof.Machine.execDoldrumsStallTimeout ch addr s
  | .readyTimeout ch lun => Sys2Proof.Machine.execReadyTimeout ch lun s
  | .lunHoldClear ch val => Sys2Proof.Machine.execLunHoldClear ch val s
  | .hardDecodeEnd id => Sys2Proof.Machine.execHardDecodeEnd id s
  | .softDecodeEnd id => Sys2Proof.Machine.execSoftDecodeEnd id s
  | .rebuildAdditionEnd id => Sys2Proof.Machine.execRebuildAdditionEnd id s
  | .rebuildSolveEnd tag => Sys2Proof.Machine.execRebuildSolveEnd tag s
  | .discover ch => Sys2Proof.Machine.execDiscover ch s
  | .discoveryEnd ch found => Sys2Proof.Machine.execDiscoveryEnd ch found s
  | .setRate ch => Sys2Proof.Machine.execSetRate ch s
  | .retrain ch => Sys2Proof.Machine.execRetrain ch s
  | .pllRelock ch => Sys2Proof.Machine.execPllRelock ch s
  | .trainingEnd ch report => Sys2Proof.Machine.execTrainingEnd ch report s
  | .strobeTrackingWindow ch late => Sys2Proof.Machine.execStrobeTrackingWindow ch late s
  | .obtHiWrite k val => Sys2Proof.Machine.execObtHiWrite k val s
  | .framePoolWrite ch val => Sys2Proof.Machine.execFramePoolWrite ch val s
  | .bar4Write off data poison => Sys2Proof.Machine.execBar4Write off data poison s
  | .bar4Read off len => Sys2Proof.Machine.execBar4Read off len s
  | .fifoPointerMismatch ch fifo => Sys2Proof.Machine.execFifoPointerMismatch ch fifo s
  | .msgPop ch => Sys2Proof.Machine.execMsgPop ch s
  | .msgDrop ch => Sys2Proof.Machine.execMsgDrop ch s
  | .injectionArm val => Sys2Proof.Machine.execInjectionArm val s
  | .mcOpen => Sys2Proof.Machine.execMcOpen s
  | .mcVerify => Sys2Proof.Machine.execMcVerify s
  | .verifyEnd => Sys2Proof.Machine.execVerifyEnd s
  | .loadAll => Sys2Proof.Machine.execLoadAll s
  | .mcLoad ch => Sys2Proof.Machine.execMcLoad ch s
  | .channelLoadEnd ch => Sys2Proof.Machine.execChannelLoadEnd ch s
  | .storeRefresh ch => Sys2Proof.Machine.execStoreRefresh ch s
  | .rltRead index => Sys2Proof.Machine.execRltRead index s
  | .rltWrite index => Sys2Proof.Machine.execRltWrite index s
  | .rltLookup => Sys2Proof.Machine.execRltLookup s
  | .rltInsert => Sys2Proof.Machine.execRltInsert s
  | .rltClearUnpinned => Sys2Proof.Machine.execRltClearUnpinned s
  | .rltClearAll => Sys2Proof.Machine.execRltClearAll s
  | .rltCfgWrite val => Sys2Proof.Machine.execRltCfgWrite val s
  | .rltInitEnd => Sys2Proof.Machine.execRltInitEnd s
  | .ledgerHiWrite k val => Sys2Proof.Machine.execLedgerHiWrite k val s
  | .advPop => Sys2Proof.Machine.execAdvPop s
  | .surveyDue ch => Sys2Proof.Machine.execSurveyDue ch s
  | .surveyStart => Sys2Proof.Machine.execSurveyStart s
  | .eyeScan ch report => Sys2Proof.Machine.execEyeScan ch report s
  | .sampleRead ch data => Sys2Proof.Machine.execSampleRead ch data s
  | .ringCountEnd ch ring count => Sys2Proof.Machine.execRingCountEnd ch ring count s
  | .planRewrite ch => Sys2Proof.Machine.execPlanRewrite ch s
  | .dmaStart e c => Sys2Proof.Machine.execDmaStart e c s
  | .dmaStop e c => Sys2Proof.Machine.execDmaStop e c s
  | .dmaAbort e c => Sys2Proof.Machine.execDmaAbort e c s
  | .dmaResume e c => Sys2Proof.Machine.execDmaResume e c s
  | .descriptorFetch e c => Sys2Proof.Machine.execDescriptorFetch e c s
  | .dmaBurst e c => Sys2Proof.Machine.execDmaBurst e c s
  | .wheelGrant path => Sys2Proof.Machine.execWheelGrant path s
  | .descriptorEnd e c => Sys2Proof.Machine.execDescriptorEnd e c s
  | .recordWrite e c => Sys2Proof.Machine.execRecordWrite e c s
  | .dmaTimerTick e timer => Sys2Proof.Machine.execDmaTimerTick e timer s
  | .pacingWithdraw e c => Sys2Proof.Machine.execPacingWithdraw e c s
  | .packetChannelsWrite e val => Sys2Proof.Machine.execPacketChannelsWrite e val s
  | .ringHeadWrite k val => Sys2Proof.Machine.execRingHeadWrite k val s
  | .ringEnable k val => Sys2Proof.Machine.execRingEnable k val s
  | .dmaOfflineWrite e hi val => Sys2Proof.Machine.execDmaOfflineWrite e hi val s
  | .carryPop => Sys2Proof.Machine.execCarryPop s
  | .sourceEdge source => Sys2Proof.Machine.execSourceEdge source s
  | .squallWindowEnd => Sys2Proof.Machine.execSquallWindowEnd s
  | .srcPendSet w val => Sys2Proof.Machine.execSrcPendSet w val s
  | .srcPendClr w val => Sys2Proof.Machine.execSrcPendClr w val s
  | .srcMaskWrite w val => Sys2Proof.Machine.execSrcMaskWrite w val s
  | .claim target fast => Sys2Proof.Machine.execClaim target fast s
  | .complete target fast val => Sys2Proof.Machine.execComplete target fast val s
  | .lullEnter => Sys2Proof.Machine.execLullEnter s
  | .lullEntry => Sys2Proof.Machine.execLullEntry s
  | .wake event => Sys2Proof.Machine.execWake event s
  | .lullWake => Sys2Proof.Machine.execLullWake s
  | .presenceSeen b => Sys2Proof.Machine.execPresenceSeen b s
  | .debounceEnd b => Sys2Proof.Machine.execDebounceEnd b s
  | .presenceLost b => Sys2Proof.Machine.execPresenceLost b s
  | .powerOn b => Sys2Proof.Machine.execPowerOn b s
  | .rampStart b => Sys2Proof.Machine.execRampStart b s
  | .powerOff b => Sys2Proof.Machine.execPowerOff b s
  | .clearFault b => Sys2Proof.Machine.execClearFault b s
  | .powerGoodStable b => Sys2Proof.Machine.execPowerGoodStable b s
  | .pgTimeout b => Sys2Proof.Machine.execPgTimeout b s
  | .powerLost b => Sys2Proof.Machine.execPowerLost b s
  | .glitchWindowEnd b good => Sys2Proof.Machine.execGlitchWindowEnd b good s
  | .attnButtonPress b => Sys2Proof.Machine.execAttnButtonPress b s
  | .peSampleEdge budget sense => Sys2Proof.Machine.execPeSampleEdge budget sense s
  | .peInternalTick => Sys2Proof.Machine.execPeInternalTick s
  | .strobeLost => Sys2Proof.Machine.execStrobeLost s
  | .peResume recent => Sys2Proof.Machine.execPeResume recent s
  | .peWeightWrite cls val => Sys2Proof.Machine.execPeWeightWrite cls val s
  | .calStart ch apply => Sys2Proof.Machine.execCalStart ch apply s
  | .calUnitTake => Sys2Proof.Machine.execCalUnitTake s
  | .calRunEnd report => Sys2Proof.Machine.execCalRunEnd report s
  | .trimImpTgtWrite ch val => Sys2Proof.Machine.execTrimImpTgtWrite ch val s
  | .correctedWriteback cls addr => Sys2Proof.Machine.execCorrectedWriteback cls addr s
  | .logClear cls => Sys2Proof.Machine.execLogClear cls s
  | .frameRetire frame => Sys2Proof.Machine.execFrameRetire frame s
  | .memStgInit ch => Sys2Proof.Machine.execMemStgInit ch s
  | .stgInitEnd ch => Sys2Proof.Machine.execStgInitEnd ch s
  | .memBist ch => Sys2Proof.Machine.execMemBist ch s
  | .bistEnd ch failing spares => Sys2Proof.Machine.execBistEnd ch failing spares s
  | .rawRead => Sys2Proof.Machine.execRawRead s
  | .rawWrite => Sys2Proof.Machine.execRawWrite s
  | .replayFaultRequest ch => Sys2Proof.Machine.execReplayFaultRequest ch s
  | .channelResetEnd ch => Sys2Proof.Machine.execChannelResetEnd ch s
  | .readBack id => Sys2Proof.Machine.execReadBack id s
  | .replayEnd ch => Sys2Proof.Machine.execReplayEnd ch s
  | .chanFenceSet ch => Sys2Proof.Machine.execChanFenceSet ch s
  | .chanFenceClr ch => Sys2Proof.Machine.execChanFenceClr ch s
  | .wpRelSet ch => Sys2Proof.Machine.execWpRelSet ch s
  | .wpRelClr ch => Sys2Proof.Machine.execWpRelClr ch s
  | .selfTestEnd outcomes => Sys2Proof.Machine.execSelfTestEnd outcomes s
  | .loopback ch captured => Sys2Proof.Machine.execLoopback ch captured s
  | .timeSync => Sys2Proof.Machine.execTimeSync s
  | .lost => Sys2Proof.Machine.execLost s
  | .trcPop => Sys2Proof.Machine.execTrcPop s
  | .trcFlush => Sys2Proof.Machine.execTrcFlush s
  | .snapshot bank group clear => Sys2Proof.Machine.execSnapshot bank group clear s
  | .deviceTimeLoRead mgmt => Sys2Proof.Machine.execDeviceTimeLoRead mgmt s
  | .deviceTimeFollowerReload => Sys2Proof.Machine.execDeviceTimeFollowerReload s
  | .debouncePresenceHigh b => Sys2Proof.Machine.execDebouncePresenceHigh b s
  | .attnButtonRelease b => Sys2Proof.Machine.execAttnButtonRelease b s
  | .wakePinRelease => Sys2Proof.Machine.execWakePinRelease s
  | .tracePortSend => Sys2Proof.Machine.execTracePortSend s
  | .snapshotDone bank => Sys2Proof.Machine.execSnapshotDone bank s
  | .linkUp => Sys2Proof.Machine.execLinkUp s
  | .aonResetRelease => Sys2Proof.Machine.execAonResetRelease s
  | .powerRemoval => Sys2Proof.Machine.execPowerRemoval s

end Sys2Proof.Machine
end

