-- ==== Sys2Proof/Machine/Step.lean ====
section
/-! DEFINITION. A step takes the command at the front of the queue. On an empty queue one REFCLK_AON clock passes. -/

namespace Sys2Proof.Machine
open Sys2Proof

/-- One step (assumption log): the first waiting command, or an idle clock. -/
def step (s : State) : Host.Outcome State Fault Refusal :=
  match s.pending with
  | [] => .next s.aonClock
  | c :: rest => exec c { s with pending := rest }

/-- A state with the command that a word spells in front of its queue. No word spells one. -/
def State.withFetchWord (s : State) (nbits w : Nat) : State :=
  match decodeTableWord nbits w with
  | some c => { s with pending := c :: s.pending }
  | none => s

end Sys2Proof.Machine
end

