-- ==== Sys2Proof/Machine/Beats.lean ====
section
/-! DEFINITION. The endpoint streams as beats (R517): how the dwords of a transaction layer packet lie in the beats of its
pair, on receive and on transmit, and the handshake by which beats move. The dwords of a packet are those of the PCI Express
Base Specification (R330). -/

namespace Sys2Proof.Machine
open Sys2Proof

/-- A beat of a stream pair: `DATA`, `SOP`, `EOP` and `NDW`. -/
structure Beat where
  data : BitVec 1024
  sop : Bool
  eop : Bool
  ndw : BitVec 5
  deriving DecidableEq, Repr

/-- The data of a beat: dword `i` in bits [32i + 31 : 32i], zero beyond the dwords given (R517). -/
def beatData (l : List Word) : BitVec 1024 := BitVec.ofNat 1024 (l.foldr (fun w a => w.toNat + 2 ^ 32 * a) 0)

/-- The beats of a packet from its beat `first` on (R517): 32 dwords in each but the last, which carries `EOP`. `NDW` of
another beat means nothing and is driven 0. -/
def beatsFrom (fuel : Nat) (first : Bool) (l : List Word) : List Beat :=
  match fuel with
  | 0 => []
  | k + 1 =>
    if l.length ≤ 32 then [{ data := beatData l, sop := first, eop := true, ndw := BitVec.ofNat 5 l.length }]
    else { data := beatData (firstN 32 l), sop := first, eop := false, ndw := 0 } :: beatsFrom k false (restN 32 l)

/-- The beats of a packet. -/
def beatsOf (l : List Word) : List Beat := beatsFrom l.length true l

/-- Dword `i` of a beat. -/
def Beat.dword (b : Beat) (i : Nat) : Word := b.data.extractLsb' (32 * i) 32

/-- The dwords that a beat carries: those of an `EOP` beat beyond `NDW` are ignored; 0 means 32. -/
def Beat.count (b : Beat) : Nat := if b.eop && b.ndw != 0 then b.ndw.toNat else 32

/-- The dwords of a beat that count. -/
def Beat.dwords (b : Beat) : List Word := (countUp 0 b.count).map b.dword

/-- The beats make one packet: `SOP` in the first alone and `EOP` in the last alone. -/
def onePacket (l : List Beat) : Bool :=
  match l with
  | [] => false
  | b :: rest =>
    b.sop && rest.all (fun c => !c.sop) &&
      (match (b :: rest).reverse with
       | [] => false
       | e :: front => e.eop && front.all (fun c => !c.eop))

/-- The dwords of the packet that beats carry (R517). -/
def packetDwords (l : List Beat) : Option (List Word) := if onePacket l then some (l.flatMap Beat.dwords) else none

/-- A dword from its four link bytes, the byte sent first in bits [7:0] (R517). -/
def linkDword (a b c d : Nat) : Word := BitVec.ofNat 32 (a % 256 + b % 256 * 2 ^ 8 + c % 256 * 2 ^ 16 + d % 256 * 2 ^ 24)

/-- Byte `i` of a dword in link order. -/
def linkByte (w : Word) (i : Nat) : Nat := w.toNat / 2 ^ (8 * i) % 256

/-- Data bytes as dwords, from byte `skip` of the first dword on. -/
def dataDwords (skip : Nat) (l : List Byte) : List Word :=
  (pieces (l.length + skip + 1) 4 (copies skip 0 ++ l)).map (fun x => BitVec.ofNat 32 (leNat x))

/-- The dwords that a byte range touches. -/
def dwordSpan (addr len : Nat) : Nat := divUp (addr % 4 + len) 4

/-- The first and last byte enables of a range, as the fourth byte of its header's second dword. -/
def byteEnables (addr len : Nat) : Nat :=
  let off := addr % 4
  let n := dwordSpan addr len
  let first := (2 ^ 4 - 2 ^ off) % 2 ^ (min 4 (off + len))
  let last := if n ≤ 1 then 0 else 2 ^ ((off + len - 1) % 4 + 1) - 1
  first + 16 * last

/-- The header of a memory request: three dwords below 4 GiB, else four. `ep` is the poison bit; the traffic class and the
attributes are zero (R332). -/
def requestHeader (write ep : Bool) (tag addr len : Nat) : List Word :=
  let n := dwordSpan addr len % 1024
  let long := decide (2 ^ 32 ≤ addr)
  linkDword (ofBool write * 0x40 + ofBool long * 0x20) (tag / 512 % 2 * 0x80 + tag / 256 % 2 * 8) (ofBool ep * 0x40 + n / 256) n ::
    linkDword (Config.functionId.toNat / 256) Config.functionId.toNat tag (byteEnables addr len) ::
    ((if long then [linkDword (addr / 2 ^ 56) (addr / 2 ^ 48) (addr / 2 ^ 40) (addr / 2 ^ 32)] else []) ++
      [linkDword (addr / 2 ^ 24) (addr / 2 ^ 16) (addr / 2 ^ 8) (addr % 256 / 4 * 4)])

/-- A posted write of the block with its data. -/
def writeDwords (addr : Addr) (data : List Byte) (poison : Bool) : List Word :=
  requestHeader true poison 0 addr.toNat data.length ++ dataDwords (addr.toNat % 4) data

/-- The completion status codes. -/
def CplOut.code (c : CplOut) : Nat :=
  match c with | .success => 0 | .unsupportedRequest => 1 | .configRetry => 2 | .completerAbort => 4

/-- The message code of an error message. -/
def ErrMsg.code (m : ErrMsg) : Nat := match m with | .cor => 0x30 | .nonfatal => 0x31 | .fatal => 0x33

/-- A completion: its header, whose lower address is a free value, and its data. -/
def completionDwords (requester : BitVec 16) (tag : Nat) (st : CplOut) (data : List Byte) (poison : Bool) : List Word :=
  let low := (Config.lowerAddress requester tag).toNat
  let n := if data.isEmpty then 0 else dwordSpan low data.length
  let count := if data.isEmpty then 4 else data.length
  [linkDword (if data.isEmpty then 0x0A else 0x4A) (tag / 512 % 2 * 0x80 + tag / 256 % 2 * 8) (ofBool poison * 0x40 + n / 256) n,
   linkDword (Config.functionId.toNat / 256) Config.functionId.toNat (st.code * 32 + count / 256 % 16) count,
   linkDword (requester.toNat / 256) requester.toNat tag low] ++
    (if data.isEmpty then [] else dataDwords (low % 4) data)

/-- One of several completions of a read: its header, with the low bits of its address and the bytes still to come, and its
data. -/
def partDwords (requester : BitVec 16) (tag low left : Nat) (data : List Byte) (poison : Bool) : List Word :=
  let n := dwordSpan low data.length
  [linkDword 0x4A (tag / 512 % 2 * 0x80 + tag / 256 % 2 * 8) (ofBool poison * 0x40 + n / 256) n,
   linkDword (Config.functionId.toNat / 256) Config.functionId.toNat (left / 256 % 16) left,
   linkDword (requester.toNat / 256) requester.toNat tag low] ++ dataDwords (low % 4) data

/-- The dwords of a packet that the block sends. -/
def Tlp.dwords (t : Tlp) : List Word :=
  match t with
  | .memWrite _ addr data poison => writeDwords addr data poison
  | .memRead _ tag addr len => requestHeader false false tag addr.toNat len
  | .completion requester tag st data poison => completionDwords requester tag st data poison
  | .part requester tag low left data poison => partDwords requester tag low left data poison
  | .error m =>
    [linkDword 0x30 0 0 0, linkDword (Config.functionId.toNat / 256) Config.functionId.toNat 0 m.code, 0, 0]
  | .msix _ _ addr data => writeDwords addr (leBytes 4 data.toNat) false

/-- The pair that carries a packet (R331). -/
def Tlp.pair (t : Tlp) : Nat :=
  match t with
  | .memWrite p .. | .memRead p .. | .msix p .. => p
  | .completion .. | .part .. | .error _ => 0

/-- The beats that pair `p` sends, in order: those of a packet follow one another (R517). -/
def State.txBeats (s : State) (p : Nat) : List Beat :=
  (s.ep.tx.filter (fun t => t.pair == p)).flatMap (fun t => beatsOf t.dwords)

/-- One `HCLK` cycle of a sender whose waiting beats are `q`: the beat that it drives with `VALID`, and the beats that wait
after the cycle. A beat moves where `READY` is high, and is held where it is low (R517). -/
def beatCycle (ready : Bool) (q : List Beat) : Option Beat × List Beat :=
  match q with
  | [] => (none, [])
  | b :: rest => (some b, if ready then rest else b :: rest)

/-- A received memory write with a whole header (R517): address, data and requester. -/
def writeOf (l : List Word) : Option (Nat × List Byte × BitVec 16) :=
  match l with
  | a :: b :: rest =>
    let long := linkByte a 0 == 0x60
    let hdr := firstN (if long then 2 else 1) rest
    let addr := hdr.foldl (fun v w =>
      v * 2 ^ 32 + linkByte w 0 * 2 ^ 24 + linkByte w 1 * 2 ^ 16 + linkByte w 2 * 2 ^ 8 + linkByte w 3) 0
    let n := linkByte a 2 % 4 * 256 + linkByte a 3
    let n := if n = 0 then 1024 else n
    let bytes := (firstN n (restN hdr.length rest)).flatMap (fun w => leBytes 4 w.toNat)
    let first := linkByte b 3 % 16
    let last := if n = 1 then first else linkByte b 3 / 16
    let lead := ((countUp 0 4).find? (bitOf first)).getD 4
    let tail := ((countUp 0 4).find? (fun i => bitOf last (3 - i))).getD 4
    if linkByte a 0 != 0x60 && linkByte a 0 != 0x40 then none
    else
      some (addr + lead, firstN (4 * n - lead - tail) (restN lead bytes),
        BitVec.ofNat 16 (linkByte b 0 * 256 + linkByte b 1))
  | _ => none

end Sys2Proof.Machine
end

