-- ==== Sys2Proof/Machine/Pins.lean ====
section
/-! DEFINITION. The levels of a channel's flash pins (R165, R386, R474, R525). -/

namespace Sys2Proof.Machine
open Sys2Proof

/-- What a pin shows: a level, an edge in each clock, or nothing driven. -/
inductive PinLevel where
  | low
  | high
  | toggling
  | undriven
  deriving DecidableEq, Repr

/-- The other half of a differential pair. -/
def PinLevel.other (l : PinLevel) : PinLevel :=
  match l with
  | .low => .high
  | .high => .low
  | .toggling => .toggling
  | .undriven => .undriven

/-- The flash outputs of a channel. `dq` is none while the bus is undriven. -/
structure FlashPins where
  ceN : BitVec 8
  cle : PinLevel
  ale : PinLevel
  weN : PinLevel
  re : PinLevel
  reN : PinLevel
  dqs : PinLevel
  dqsN : PinLevel
  dq : Option Byte
  deriving DecidableEq, Repr

/-- The strobes of a channel run single-ended: SDR timing mode 0, rate code 0, and 800 MT/s, rate code 16 (R129, R130,
R525). -/
def Chan.singleEnded (c : Chan) : Bool := decide (c.rate ≤ 16)

/-- A level held by the sequencer. -/
def heldLevel (b : Bool) : PinLevel := if b then .high else .low

/-- `RE_N` as the sequencer drives it. -/
def ReDrive.level (r : ReDrive) : PinLevel :=
  match r with
  | .idle => .high
  | .toggle | .readCycle => .toggling

/-- `DQS` as the sequencer drives it: a preamble and a postamble hold it low. -/
def DqsDrive.level (d : DqsDrive) : PinLevel :=
  match d with
  | .undriven => .undriven
  | .preamble | .postamble => .low
  | .toggle => .toggling

/-- The outputs while the sequencer does not drive them (R386, R474). -/
def FlashPins.parked : FlashPins :=
  { ceN := BitVec.allOnes 8, cle := .low, ale := .low, weN := .high, re := .low, reN := .high, dqs := .undriven
    dqsN := .undriven, dq := none }

/-- The outputs that the sequencer drives; single-ended, `DQS_N` is undriven and `RE` low (R525). -/
def Pins.levels (p : Pins) (single : Bool) : FlashPins :=
  { ceN := match p.ce with | some t => ~~~(BitVec.ofNat 8 (2 ^ t)) | none => BitVec.allOnes 8
    cle := heldLevel p.cle, ale := heldLevel p.ale, weN := heldLevel p.weN
    re := if single then .low else p.re.level.other, reN := p.re.level
    dqs := p.dqs.level, dqsN := if single then .undriven else p.dqs.level.other
    dq := p.dq }

/-- The flash outputs of channel `n`. -/
def State.flashPins (s : State) (n : Nat) : FlashPins :=
  let c := s.chan n
  if c.inReset || !((s.bay (n / 8)).st == .on) || !s.ph.powered || s.ph.blkReset || s.irq.lull == .lull || s.irq.lull == .waking then FlashPins.parked
  else c.bus.pins.levels c.singleEnded

end Sys2Proof.Machine
end

