-- ==== Sys2Proof/Safety.lean ====
section
/-! DEFINITION. What counts as a safe run, and the terms in which the statements are made. -/

namespace Sys2Proof
open Machine

/-- A command completes: it neither faults nor is refused. -/
def completes (c : Instr) (s : State) : Prop := ∃ t, exec c s = .next t

/-- An access of a host or of the management processor, or a reset of the function that leaves the link up, as a command: it
waits at its port while the block is in Lull (R379). -/
def portAccess : Instr → Bool
  | .memoryWrite .. | .memoryRead .. | .configRequest .. | .bar4Write .. | .bar4Read .. | .mgmtAccess .. |
    .registerWrite .. | .functionLevelReset .. | .injectionArm .. | .powerOn .. | .powerOff .. | .clearFault .. |
    .dmaStart .. | .dmaStop .. | .dmaAbort .. | .dmaResume .. | .pacingWithdraw .. | .packetChannelsWrite .. |
    .ringHeadWrite .. | .ringEnable .. | .dmaOfflineWrite .. | .peResume .. | .peWeightWrite .. | .carryPop .. |
    .srcPendSet .. | .srcPendClr .. | .srcMaskWrite .. | .claim .. | .complete .. | .rltRead .. | .rltWrite .. |
    .rltLookup .. | .rltInsert .. | .rltClearUnpinned .. | .rltClearAll .. | .rltCfgWrite .. | .ledgerHiWrite .. |
    .advPop .. | .obtHiWrite .. | .rawWrite .. | .lullEnter .. | .mcOpen .. | .mcVerify .. | .logClear .. |
    .memStgInit .. | .memBist .. | .rawRead .. | .trcPop .. | .trcFlush .. | .snapshot .. | .queueCreate .. |
    .queueDelete .. | .sqTailDoorbell .. | .cqHeadDoorbell .. | .pushWindowWrite .. | .lunHoldClear .. |
    .chanFenceSet .. | .chanFenceClr .. | .wpRelSet .. | .wpRelClr .. | .framePoolWrite .. | .frameRetire .. |
    .msgPop .. | .msgDrop .. | .discover .. | .setRate .. | .retrain .. | .loadAll .. | .mcLoad .. |
    .replayFaultRequest .. | .calStart .. | .trimImpTgtWrite .. => true
  | .hotReset linkDown => !linkDown
  | _ => false

/-- The registers that a record of the Rinelle trace may change: `TRC_CTRL`, `TRC_STATUS` and `TRC_LOST` (R502, R503). -/
def traceReg (a : Nat) : Bool := a == 0x70000 || a == 0x70004 || a == 0x70014

/-- The registers that an edge of an interrupt source may change: the registers of the trace, `INT_STATUS`,
`WAKE_CAUSE`, and the mask and excess words (R367, R380). -/
def raiseReg (a : Nat) : Bool :=
  traceReg a || a == 0x10000 || a == 0x1001C || (decide (0x10280 ≤ a) && decide (a < 0x10380))

/-- Source `n` is pending (R365). -/
def isPending (s : State) (n : Nat) : Bool := bitOf s.irq.pend.toNat n

/-- A completion of tag `k` with a status and an info word waits to be written to the CQ of queue `q` (R59, R61). -/
def dueFor (s : State) (q k : Nat) (st : Status) (info : Word) : Prop :=
  ∃ c, c ∈ (s.queue q).due ∧ c.tag = some k ∧ c.status = st ∧ c.info = info

/-- Tag `k` holds a command that has not committed, whose entry is sound, of a queue that delivers its completions, and
that no function-level or hot reset has outlived or abandons (R42, R64, R357, R359, R448). -/
def liveTag (s : State) (k : Nat) : Prop :=
  (s.tag k).st ≠ .free ∧ (s.tag k).committed = false ∧ (s.tag k).runOn = false ∧ (s.tag k).dropped = false ∧
    (s.tag k).ue = false ∧ (s.queue (s.tag k).sqid).discard = false

/-- Channel `n` holds no tag and no flash work, and no survey runs on it. -/
def quietChan (s : State) (n : Nat) : Prop :=
  (∀ e, e ∈ s.tags → e.1 / 64 ≠ n) ∧ (∀ e, e ∈ s.works → e.2.ch ≠ n) ∧ (s.chan n).survey.st = .idle

/-- Packet `p` is the next that the interpreter parses, on queue `q`, and no soft error stands in its way (R52, R448). -/
def parsesNext (s : State) (q : Nat) (p : Packet) : Prop :=
  s.parsing = true ∧ s.rawGroups = [] ∧ (∃ arb, s.arbitrate = some (q, arb)) ∧ s.nextPacket q = some p ∧
    s.parsable q = true

/-- The row of the opcode table that the packet of a queue belongs to, besides PACKET_PARSE. -/
def packetRow (q : Nat) (p : Packet) : Option Instr :=
  match pkOpcode p with
  | none => none
  | some .readPage => some (.readPage q)
  | some .readQuarter => some (.readQuarter q)
  | some .readRaw => some (.readRaw q)
  | some .readRebuild => some (.readRebuild q)
  | some .programPage => some (.programPage q)
  | some .programRaw => some (.programRaw q)
  | some .reprogramHeld => some (.reprogramHeld q)
  | some .releaseFrame => some (.releaseFrame q)
  | some .copyPage => some (.copyPage q)
  | some .eraseBlock => some (.eraseBlock q)
  | some .getFeature => some (.getFeature q)
  | some .setFeature => some (.setFeature q)
  | some .readParameterPage => some (.readParameterPage q)
  | some .resetTarget => some (.resetTarget q)
  | some .abort => some (.abort q)
  | some .fence => some (.fence q)
  | some .getDeferred => some (.getDeferred q)
  | some .survey => some (.survey q)
  | some .calibrate => some (.calibrate q)
  | some .selfTest =>
    if pkByte p 48 = 0 then some (.selfTestStartShort q)
    else if pkByte p 48 = 1 then some (.selfTestStartExtended q)
    else if pkByte p 48 = 2 then some (.selfTestStop q)
    else none
  | some .runRoutine => some (.runRoutine q)
  | some .stripeParity =>
    if pkByte p 48 = 0 then some (.stripeParityOpen q)
    else if pkByte p 48 = 1 then some (.stripeParityClose q)
    else if pkByte p 48 = 2 then some (.stripeParityDiscard q)
    else none

/-- The commands that parse packet `p` when it is the next on queue `q`: PACKET_PARSE and the packet's own row. -/
def parses (c : Instr) (q : Nat) (p : Packet) : Prop := c = .packetParse ∨ packetRow q p = some c

/-- Packet `p` of queue `q` has been accepted with tag `k`, the one that its channel allocates next (R57, R64, R68). -/
def accepted (s t : State) (q : Nat) (p : Packet) (k : Nat) : Prop :=
  s.freeTagOf (aCh (pkAddr p)) = some k ∧ (t.tag k).sqid = q ∧ (t.tag k).cid = pkCid p ∧
    (t.tag k).opcode = pkOpcode p ∧ (t.tag k).packet = p ∧ (t.tag k).committed = false ∧
    (t.queue q).sqHead = ((s.queue q).sqHead + 1) % s.sqDepth q

/-- A completion of a command that took a slot, or nothing, waits to be written to the CQ of queue `q` (R57, R59). -/
def dueTagless (s : State) (q : Nat) (cid : BitVec 16) (st : Status) (info : Word) : Prop :=
  ∃ c, c ∈ (s.queue q).due ∧ c.tag = none ∧ c.cid = cid ∧ c.status = st ∧ c.info = info

/-- The page of an address word, its quarter left out (R201). -/
def pageOf (a : Addr) : Addr := BitVec.ofNat 64 (putBits a.toNat 15 14 0)

/-- No frame is bound to the page of an address word (R201). -/
def unboundPage (s : State) (a : Addr) : Prop := ∀ f, (s.frame f).bind ≠ some (pageOf a)

/-- The registers are in canonical form. -/
def regsOk (m : SMap Word) : Bool := SMap.wf regReset m

/-- A table of staging words is in canonical form. -/
def wordsOk (m : SMap FWord) : Bool := SMap.wf (fun _ => FWord.init) m

/-- A bay waits for a ramp slot only in OFF, and has a glitch window only in ON (R389, R397). -/
def Machine.Bay.ok (b : Bay) : Bool := (!b.powerPending || b.st == .off) && (!b.glitch || b.st == .on)

/-- The bays are in canonical form and each obeys `Bay.ok`. -/
def baysOk (m : SMap Bay) : Bool := SMap.wf (fun _ => Bay.init) m && m.all (fun e => e.2.ok)

/-- The Zephyr island holds edges of bay sources only (R398). -/
def edgesOk (l : List Nat) : Bool := l.all (fun n => decide (768 ≤ n) && decide (n < 800))

/-- One step of a budget towards a target (R410). -/
def budgetStep (target slew budget : Nat) : Nat :=
  if budget < target then min target (budget + max 1 slew) else max target (budget - max 1 slew)

/-- What every step keeps: the register file, the staging words, the spare words and the bays are in canonical form,
every bay obeys the rules of its state, and the Zephyr island holds edges of bay sources only. -/
def inv (s : State) : Bool :=
  regsOk s.regs && wordsOk s.words && wordsOk s.spares && baysOk s.bays && edgesOk s.irq.heldEdges

/-- The parts of the state, one for each field of `State`. -/
inductive Part where
| pending | build | ties | ph | regs | cfg | ep | queues | push | arb | tags | slots | works | luns | chans | frames
  | words | spares | accs | obt | obtLo | obtDoomed | rlt | ledger | ledgerLo | adv | deferred | carry | dma | rings
  | wheels | irq | bays | gov | calUnit | rawGroups | writeBacks | test | inj | trace | counters | saturated |
  deviceTime | follower | stamp | nextWork | fresh
  deriving DecidableEq, Repr

/-- A part is the same in two states. -/
def Part.same (s t : State) : Part → Prop
  | .pending => t.pending = s.pending
  | .build => t.build = s.build
  | .ties => t.ties = s.ties
  | .ph => t.ph = s.ph
  | .regs => t.regs = s.regs
  | .cfg => t.cfg = s.cfg
  | .ep => t.ep = s.ep
  | .queues => t.queues = s.queues
  | .push => t.push = s.push
  | .arb => t.arb = s.arb
  | .tags => t.tags = s.tags
  | .slots => t.slots = s.slots
  | .works => t.works = s.works
  | .luns => t.luns = s.luns
  | .chans => t.chans = s.chans
  | .frames => t.frames = s.frames
  | .words => t.words = s.words
  | .spares => t.spares = s.spares
  | .accs => t.accs = s.accs
  | .obt => t.obt = s.obt
  | .obtLo => t.obtLo = s.obtLo
  | .obtDoomed => t.obtDoomed = s.obtDoomed
  | .rlt => t.rlt = s.rlt
  | .ledger => t.ledger = s.ledger
  | .ledgerLo => t.ledgerLo = s.ledgerLo
  | .adv => t.adv = s.adv
  | .deferred => t.deferred = s.deferred
  | .carry => t.carry = s.carry
  | .dma => t.dma = s.dma
  | .rings => t.rings = s.rings
  | .wheels => t.wheels = s.wheels
  | .irq => t.irq = s.irq
  | .bays => t.bays = s.bays
  | .gov => t.gov = s.gov
  | .calUnit => t.calUnit = s.calUnit
  | .rawGroups => t.rawGroups = s.rawGroups
  | .writeBacks => t.writeBacks = s.writeBacks
  | .test => t.test = s.test
  | .inj => t.inj = s.inj
  | .trace => t.trace = s.trace
  | .counters => t.counters = s.counters
  | .saturated => t.saturated = s.saturated
  | .deviceTime => t.deviceTime = s.deviceTime
  | .follower => t.follower = s.follower
  | .stamp => t.stamp = s.stamp
  | .nextWork => t.nextWork = s.nextWork
  | .fresh => t.fresh = s.fresh

/-- Every part. -/
def Part.all : List Part :=
  [.pending, .build, .ties, .ph, .regs, .cfg, .ep, .queues, .push, .arb, .tags, .slots, .works, .luns, .chans,
  .frames, .words, .spares, .accs, .obt, .obtLo, .obtDoomed, .rlt, .ledger, .ledgerLo, .adv, .deferred, .carry,
  .dma, .rings, .wheels, .irq, .bays, .gov, .calUnit, .rawGroups, .writeBacks, .test, .inj, .trace, .counters,
  .saturated, .deviceTime, .follower, .stamp, .nextWork, .fresh]

/-- Every part but those of a list. -/
def Part.except (l : List Part) : List Part := Part.all.filter (fun p => !l.contains p)

/-- The parts that an event changes when its interrupt source, its trace record and its counters note it. -/
def Part.noting : List Part := [.regs, .irq, .trace, .counters, .saturated]

/-- The parts of the state that a command may change. -/
def mayChange : Instr → List Part
  | .registerWrite .. | .memoryWrite .. | .mgmtAccess .. | .bar4Write .. =>
    Part.except [.pending, .build, .ties, .arb, .deviceTime, .follower]
  | .memoryRead .. | .bar4Read .. =>
    Part.noting ++ [.cfg, .ep, .words, .spares, .writeBacks, .fresh]
  | .configRequest .. | .functionLevelReset | .hotReset .. =>
    Part.except [.pending, .build, .ties, .wheels, .bays, .deviceTime, .follower, .stamp, .nextWork]
  | .malformedTlp .. | .linkError .. =>
    [.cfg, .ep, .fresh]
  | .hostReadCompletion .. =>
    Part.except [.pending, .build, .ties, .ph, .push, .arb, .obtLo, .ledger, .ledgerLo, .adv, .rings, .wheels,
    .bays, .test, .inj, .deviceTime, .follower]
  | .completionTimeout .. =>
    Part.except [.pending, .build, .ties, .ph, .push, .arb, .obtLo, .ledger, .ledgerLo, .adv, .rings, .wheels,
    .bays, .test, .inj, .deviceTime, .follower, .stamp, .nextWork]
  | .unexpectedCompletion .. =>
    Part.noting ++ [.cfg, .ep, .fresh]
  | .abandonedTagRelease .. | .msixMessage .. | .deviceTimeLoRead .. | .linkUp =>
    [.ep]
  | .functionReady | .srcPendSet .. | .claim .. | .complete .. =>
    Part.noting ++ [.ep]
  | .fundamentalReset =>
    Part.except [.pending, .build, .ties, .bays, .deviceTime]
  | .fundamentalResetRelease .. =>
    [.ties, .ph]
  | .hostPllLock =>
    [.ph, .follower]
  | .channelPllLock .. | .pllRelock .. =>
    [.regs, .chans, .words, .spares, .writeBacks, .trace, .fresh]
  | .controlRamInitEnd =>
    Part.noting ++ [.ph]
  | .aonReset =>
    Part.except [.pending, .build, .ties, .cfg, .push, .arb, .obtLo, .ledgerLo, .adv, .rings, .wheels, .inj,
    .stamp]
  | .queueCreate .. =>
    [.regs, .ep, .queues, .push, .irq]
  | .queueDelete .. =>
    Part.except [.pending, .build, .ties, .ph, .cfg, .arb, .obtLo, .ledger, .ledgerLo, .adv, .rings, .wheels,
    .bays, .test, .inj, .deviceTime, .follower, .stamp, .nextWork]
  | .queueDrainEnd .. =>
    [.queues]
  | .sqTailDoorbell .. | .cqHeadDoorbell .. =>
    [.regs, .ep, .queues, .irq]
  | .sqFetch .. =>
    Part.noting ++ [.ep, .queues, .wheels, .writeBacks]
  | .pushWindowWrite .. =>
    Part.noting ++ [.ep, .push]
  | .packetParse | .readPage .. | .readQuarter .. | .readRaw .. | .readRebuild .. | .programPage .. |
  .programRaw .. | .reprogramHeld .. | .releaseFrame .. | .copyPage .. | .eraseBlock .. | .getFeature .. |
  .setFeature .. | .readParameterPage .. | .resetTarget .. | .abort .. | .fence .. | .getDeferred .. |
  .survey .. | .calibrate .. | .selfTestStartShort .. | .selfTestStartExtended .. | .selfTestStop .. |
  .runRoutine .. | .stripeParityOpen .. | .stripeParityClose .. | .stripeParityDiscard .. =>
    Part.except [.pending, .build, .ties, .ph, .obtLo, .ledger, .ledgerLo, .adv, .rings, .wheels, .bays, .inj,
    .deviceTime, .follower]
  | .completionWrite .. =>
    Part.noting ++ [.cfg, .ep, .queues, .tags, .slots, .works, .frames, .obt, .obtDoomed, .wheels, .writeBacks]
  | .coalescingTimeout .. =>
    [.ep, .queues]
  | .fenceCommit .. =>
    Part.noting ++ [.queues, .tags, .slots, .works, .frames, .obt, .obtDoomed]
  | .sdFetch .. | .rebuildAdditionEnd .. =>
    Part.except [.pending, .build, .ties, .ph, .cfg, .push, .arb, .obtLo, .ledger, .ledgerLo, .adv, .rings,
    .bays, .test, .inj, .deviceTime, .follower, .stamp, .nextWork]
  | .dataPhaseStart .. | .dataPhaseEnd .. | .targetReset .. | .readyTimeout .. | .rebuildSolveEnd .. |
  .fifoPointerMismatch .. | .dmaStart .. | .dmaResume .. | .chanFenceSet .. =>
    Part.except [.pending, .build, .ties, .ph, .cfg, .push, .arb, .obtLo, .ledger, .ledgerLo, .adv, .rings,
    .wheels, .bays, .test, .inj, .deviceTime, .follower, .stamp, .nextWork]
  | .programStaged .. =>
    Part.except [.pending, .build, .ties, .ph, .cfg, .push, .arb, .obtLo, .ledger, .ledgerLo, .adv, .rings,
    .wheels, .bays, .test, .deviceTime, .follower, .stamp, .nextWork]
  | .accAdditionEnd .. =>
    Part.noting ++ [.queues, .tags, .slots, .works, .frames, .words, .spares, .accs, .obt, .obtDoomed, .rlt,
    .deferred, .carry, .wheels, .gov, .rawGroups, .writeBacks]
  | .admissionRequest .. | .softDecodeEnd .. =>
    Part.except [.pending, .build, .ties, .ph, .push, .arb, .obtLo, .ledger, .ledgerLo, .adv, .rings, .wheels,
    .bays, .test, .inj, .deviceTime, .follower, .nextWork]
  | .admissionGrant | .suspended .. =>
    [.regs, .works, .luns, .gov, .trace, .counters, .saturated, .stamp]
  | .admissionAge =>
    [.gov]
  | .admissionStall | .lullEntry =>
    Part.noting ++ [.gov]
  | .programAgeClimb .. =>
    [.works]
  | .levelSet .. =>
    Part.noting ++ [.tags, .works, .luns, .chans, .writeBacks, .fresh]
  | .readIssue .. =>
    Part.noting ++ [.tags, .works, .luns, .chans, .ledger, .adv, .gov, .rawGroups, .writeBacks, .fresh]
  | .dataOut .. =>
    Part.noting ++ [.cfg, .tags, .works, .luns, .chans, .words, .spares, .gov, .writeBacks, .inj, .fresh]
  | .statusPoll .. =>
    Part.except [.pending, .build, .ties, .ph, .cfg, .ep, .push, .arb, .obtLo, .ledger, .ledgerLo, .adv, .dma,
    .rings, .wheels, .bays, .calUnit, .inj, .deviceTime, .follower, .stamp, .nextWork]
  | .rbNRise .. | .pollIntervalExpiry .. | .heldLunPoll .. =>
    [.luns]
  | .suspendProgram .. | .suspendErase .. =>
    [.regs, .luns, .chans, .trace, .counters, .saturated, .fresh]
  | .resume .. =>
    [.regs, .luns, .chans, .trace, .fresh]
  | .program .. | .programResume .. | .dmaAbort .. | .dmaBurst .. | .descriptorEnd .. | .recordWrite .. =>
    Part.except [.pending, .build, .ties, .ph, .push, .arb, .obtLo, .ledger, .ledgerLo, .adv, .bays, .test,
    .inj, .deviceTime, .follower, .stamp, .nextWork]
  | .erase .. =>
    [.regs, .tags, .works, .luns, .chans, .trace, .fresh]
  | .featureAccessJob .. =>
    Part.except [.pending, .build, .ties, .push, .arb, .obtLo, .ledger, .ledgerLo, .adv, .rings, .wheels, .bays,
    .deviceTime, .follower]
  | .confirm .. =>
    Part.except [.pending, .build, .ties, .cfg, .push, .arb, .obtLo, .ledgerLo, .adv, .rings, .wheels, .bays,
    .inj, .deviceTime, .follower, .stamp]
  | .result .. | .illegalMicroword .. | .doldrumsStallTimeout .. | .strobeTrackingWindow .. |
  .replayFaultRequest .. =>
    Part.except [.pending, .build, .ties, .cfg, .push, .arb, .obtLo, .ledger, .ledgerLo, .adv, .rings, .wheels,
    .bays, .inj, .deviceTime, .follower, .stamp]
  | .fail .. | .readBack .. =>
    Part.except [.pending, .build, .ties, .ph, .cfg, .ep, .push, .arb, .obtLo, .ledger, .ledgerLo, .adv, .dma,
    .rings, .wheels, .bays, .calUnit, .test, .inj, .deviceTime, .follower, .stamp, .nextWork]
  | .paused .. =>
    Part.except [.pending, .build, .ties, .push, .arb, .obtLo, .ledger, .ledgerLo, .adv, .bays, .inj,
    .deviceTime, .follower, .stamp]
  | .push .. | .pushEnd .. =>
    [.regs, .chans, .words, .spares, .writeBacks, .trace]
  | .lunHoldClear .. =>
    [.regs, .ep, .luns, .irq]
  | .hardDecodeEnd .. =>
    Part.except [.pending, .build, .ties, .ph, .push, .arb, .obtLo, .ledger, .ledgerLo, .adv, .rings, .wheels,
    .bays, .test, .deviceTime, .follower, .nextWork]
  | .discover .. =>
    Part.noting ++ [.ep, .works, .chans, .words, .spares, .gov, .writeBacks, .stamp, .nextWork]
  | .discoveryEnd .. =>
    Part.noting ++ [.cfg, .tags, .works, .luns, .chans, .words, .spares, .gov, .writeBacks, .test, .inj, .fresh]
  | .setRate .. =>
    Part.noting ++ [.ep, .luns, .chans, .words, .spares, .writeBacks, .test, .fresh]
  | .retrain .. =>
    [.regs, .ep, .luns, .chans, .words, .spares, .irq, .writeBacks, .test, .trace, .fresh]
  | .trainingEnd .. =>
    Part.except [.pending, .build, .ties, .ph, .cfg, .push, .arb, .obtLo, .ledger, .ledgerLo, .adv, .rings,
    .wheels, .bays, .inj, .deviceTime, .follower, .stamp, .nextWork]
  | .obtHiWrite .. =>
    [.regs, .ep, .obt, .obtLo, .irq, .rawGroups, .writeBacks, .stamp]
  | .framePoolWrite .. =>
    [.regs, .ep, .tags, .works, .frames, .irq]
  | .msgPop .. | .msgDrop .. | .trimImpTgtWrite .. =>
    [.regs, .ep, .chans, .irq]
  | .injectionArm .. =>
    [.regs, .ep, .irq, .inj]
  | .mcOpen | .mcVerify =>
    [.ph, .regs, .ep, .irq]
  | .verifyEnd | .storeRefresh .. =>
    Part.noting ++ [.ph, .chans, .words, .spares, .writeBacks]
  | .loadAll | .mcLoad .. =>
    [.regs, .ep, .luns, .chans, .words, .spares, .irq, .writeBacks, .test]
  | .channelLoadEnd .. =>
    Part.noting ++ [.ph, .luns, .chans, .words, .spares, .writeBacks, .test, .fresh]
  | .rltRead .. | .rltLookup | .rltInsert =>
    Part.noting ++ [.ep, .rlt, .rawGroups, .writeBacks]
  | .rltWrite .. =>
    [.regs, .ep, .rlt, .irq, .rawGroups, .writeBacks]
  | .rltClearUnpinned | .rltClearAll | .rltCfgWrite .. =>
    [.regs, .ep, .rlt, .irq]
  | .rltInitEnd | .aonResetRelease =>
    [.ph]
  | .ledgerHiWrite .. =>
    [.regs, .ep, .ledger, .ledgerLo, .irq, .rawGroups, .writeBacks]
  | .advPop =>
    [.regs, .ep, .adv, .irq, .rawGroups, .writeBacks]
  | .surveyDue .. =>
    [.chans]
  | .surveyStart =>
    Part.noting ++ [.tags, .works, .chans, .rlt, .rawGroups, .writeBacks, .stamp, .nextWork]
  | .eyeScan .. =>
    Part.noting ++ [.works, .chans, .rlt, .rawGroups, .writeBacks, .stamp, .nextWork, .fresh]
  | .sampleRead .. =>
    Part.noting ++ [.slots, .works, .luns, .chans, .words, .spares, .rlt, .ledger, .adv, .gov, .rawGroups,
    .writeBacks, .inj, .stamp, .nextWork, .fresh]
  | .ringCountEnd .. =>
    Part.noting ++ [.chans]
  | .planRewrite .. =>
    Part.except [.pending, .build, .ties, .ph, .cfg, .ep, .push, .arb, .luns, .obtLo, .ledger, .ledgerLo, .adv,
    .dma, .rings, .wheels, .bays, .calUnit, .test, .inj, .deviceTime, .follower, .fresh]
  | .dmaStop .. | .pacingWithdraw .. =>
    [.regs, .ep, .dma, .irq]
  | .descriptorFetch .. =>
    [.ep, .dma]
  | .wheelGrant .. =>
    [.dma, .wheels]
  | .dmaTimerTick .. =>
    [.dma]
  | .packetChannelsWrite .. | .ringHeadWrite .. | .dmaOfflineWrite .. | .srcPendClr .. | .srcMaskWrite .. |
  .peWeightWrite .. | .logClear .. | .memStgInit .. | .memBist .. | .wpRelSet .. | .wpRelClr .. =>
    [.regs, .ep, .irq]
  | .ringEnable .. =>
    [.regs, .ep, .rings, .irq]
  | .carryPop =>
    [.regs, .ep, .carry, .irq, .rawGroups, .writeBacks]
  | .sourceEdge .. | .wake .. =>
    Part.noting
  | .squallWindowEnd | .wakePinRelease =>
    [.irq]
  | .lullEnter | .calStart .. =>
    [.regs, .ep, .chans, .irq, .calUnit]
  | .lullWake =>
    Part.except [.pending, .build, .ties, .deviceTime]
  | .presenceSeen .. | .debounceEnd .. | .rampStart .. | .attnButtonPress .. | .debouncePresenceHigh .. =>
    Part.noting ++ [.bays]
  | .presenceLost .. | .powerOff .. | .powerLost .. | .glitchWindowEnd .. =>
    Part.except [.pending, .build, .ties, .cfg, .push, .arb, .obtLo, .ledgerLo, .adv, .rings, .wheels, .inj,
    .deviceTime, .follower, .stamp]
  | .powerOn .. =>
    Part.noting ++ [.ep, .bays]
  | .clearFault .. | .powerGoodStable .. | .pgTimeout .. =>
    Part.except [.pending, .build, .ties, .cfg, .push, .arb, .obtLo, .ledger, .ledgerLo, .adv, .rings, .wheels,
    .inj, .deviceTime, .follower, .stamp]
  | .peSampleEdge .. | .peInternalTick | .strobeLost =>
    Part.noting ++ [.works, .luns, .gov, .stamp]
  | .peResume .. =>
    Part.noting ++ [.ep, .works, .luns, .gov, .stamp]
  | .calUnitTake =>
    [.regs, .tags, .chans, .calUnit, .trace]
  | .calRunEnd .. =>
    Part.noting ++ [.queues, .tags, .slots, .works, .chans, .frames, .words, .spares, .accs, .obt, .obtDoomed,
    .rlt, .deferred, .carry, .gov, .calUnit, .rawGroups, .writeBacks]
  | .correctedWriteback .. =>
    [.words, .spares, .rawGroups, .writeBacks]
  | .frameRetire .. =>
    [.regs, .ep, .frames, .irq]
  | .stgInitEnd .. | .bistEnd .. =>
    Part.noting ++ [.words, .spares]
  | .rawRead =>
    [.regs, .ep, .irq, .fresh]
  | .rawWrite =>
    Part.except [.pending, .build, .ties, .ph, .cfg, .push, .arb, .obtLo, .ledgerLo, .adv, .rings, .wheels,
    .bays, .test, .inj, .deviceTime, .follower, .stamp, .nextWork]
  | .channelResetEnd .. =>
    Part.except [.pending, .build, .ties, .cfg, .push, .arb, .obtLo, .ledger, .ledgerLo, .adv, .rings, .wheels,
    .bays, .inj, .deviceTime, .follower]
  | .replayEnd .. =>
    Part.noting ++ [.works, .chans]
  | .chanFenceClr .. =>
    [.regs, .ep, .chans, .words, .spares, .irq, .writeBacks]
  | .selfTestEnd .. =>
    Part.noting ++ [.words, .test]
  | .loopback .. =>
    [.regs, .chans, .test, .trace, .fresh]
  | .timeSync | .lost =>
    [.regs, .trace]
  | .trcPop | .trcFlush =>
    [.regs, .ep, .irq, .trace]
  | .snapshot .. =>
    Part.noting ++ [.ep, .fresh]
  | .deviceTimeFollowerReload =>
    [.follower]
  | .attnButtonRelease .. =>
    [.bays]
  | .tracePortSend =>
    [.trace]
  | .snapshotDone .. =>
    [.regs]
  | .powerRemoval =>
    Part.except [.pending, .build]

end Sys2Proof
end

