-- ==== Sys2Proof/Certificates/Slice0/Obligations.lean ====
section
/-! DEFINITION. The statements for the provers. Each says of some commands under which conditions on the state they
complete, and what the next state holds; `Obligations.CommandsKeepTheRest` bounds what each command may change. -/

section
open Sys2Proof Sys2Proof.Machine

/-- A packet that fails a check of R56 completes at once (R56, R80, R157); a row of the table that is not the next
packet's changes nothing (the model's choice, assumption log 3). -/
def Obligations.PacketChecksComplete : Prop :=
  ∀ (s : State) (q : Nat) (p : Packet), parsesNext s q p → (s.queue q).discard = false →
    (∀ c st info, parses c q p → s.verdict q p = .fail st info → ∃ t, exec c s = .next t ∧
      (t.queue q).due = (s.queue q).due ++ [
        { tag := none, slot := none, cid := pkCid p, status := st, info := BitVec.ofNat 32 info, replayed := false,
          stagedAck := false, forwarded := false, veer := 0, assists := 0, hasData := none }] ∧
      (t.queue q).sqHead = ((s.queue q).sqHead + 1) % s.sqDepth q ∧ (∀ k, k ≠ q → t.queue k = s.queue k) ∧
      t = { s with arb := t.arb, queues := t.queues, push := t.push }) ∧
    (∀ c a w, parses c q p → s.verdict q p = .order a w → ∃ t, exec c s = .next t ∧
      dueTagless t q (pkCid p) .pageOrderViolation (BitVec.ofNat 32 w) ∧ t.bit (chanPage (aCh a) + 0xA8) 5 = true ∧
      t.reg (chanPage (aCh a) + 0x100 + 16 * s.fld (chanPage (aCh a) + 0x180) 2 0) = BitVec.ofNat 32 a.toNat ∧
      t.tags = s.tags ∧ t.frames = s.frames ∧ t.obt = s.obt ∧ t.works = s.works) ∧
    (pkOpcode p = none → s.verdict q p = .fail .invalidOpcode 0) ∧
    (∀ r p' c, packetRow r p' = some c → packetRow q p ≠ some c → exec c s = .next s)

/-- What the packets that read do when they pass their checks (R83, R85, R86, R88, R196). -/
def Obligations.ReadPacketsComplete : Prop :=
  ∀ (s : State) (q : Nat) (p : Packet) (c : Instr), parsesNext s q p → parses c q p →
    ((pkOpcode p = some .readPage ∨ pkOpcode p = some .readQuarter ∨ pkOpcode p = some .readRaw) →
      s.verdict q p = .pass false →
      (unboundPage s (pkAddr p) → ∃ t k f, exec c s = .next t ∧ accepted s t q p k ∧ (t.tag k).st = .queued ∧
        s.freeFrameOf (aCh (pkAddr p)) = some f ∧ (t.tag k).frame = some f ∧ (t.frame f).st = .inUse ∧
        (t.frame f).owner = some k ∧ (∃ w, t.work s.nextWork = some w ∧ w.kind = .read ∧ w.role = .own ∧
          w.tag = some k ∧ w.frame = some f ∧ w.st = .waiting ∧ w.addr = pkAddr p ∧
          w.raw = decide (pkOpcode p = some .readRaw))) ∧
      (∀ f, f / 64 = aCh (pkAddr p) → (s.frame f).bind = some (pageOf (pkAddr p)) → (s.frame f).st = .held →
        (s.frame f).named = none → (∀ g, (s.frame g).bind = some (pageOf (pkAddr p)) → g = f) →
        ∃ t k, exec c s = .next t ∧ accepted s t q p k ∧ (t.tag k).forwarded = true ∧ (t.tag k).frame = some f ∧
          (t.frame f).st = .held)) ∧
    (∀ absent, pkOpcode p = some .readRebuild → s.verdict q p = .pass absent →
      ∃ t k, exec c s = .next t ∧ accepted s t q p k ∧ (t.tag k).st = .decoding ∧ (t.tag k).sdPending = true ∧
        t.works = s.works ∧ t.frames = s.frames) ∧
    ((pkOpcode p = some .readPage ∨ pkOpcode p = some .readQuarter) → s.verdict q p = .pass true →
      ∃ t k, exec c s = .next t ∧ accepted s t q p k ∧ (t.tag k).st = .decoding ∧ (t.tag k).sdPending = true ∧
        t.works = s.works ∧ t.frames = s.frames)

/-- What the packets that program, copy and erase, and those on held frames, do when they pass their checks (R91, R95,
R97 to R99, R101, R102, R155, R156, R201). -/
def Obligations.ProgramAndErasePacketsComplete : Prop :=
  ∀ (s : State) (q : Nat) (p : Packet) (c : Instr), parsesNext s q p → parses c q p → s.verdict q p = .pass false →
    ((pkOpcode p = some .programPage ∨ pkOpcode p = some .programRaw) →
      ∃ t k f, exec c s = .next t ∧ accepted s t q p k ∧ (t.tag k).st = .fetching ∧
        s.freeFrameOf (aCh (pkAddr p)) = some f ∧ (t.tag k).frame = some f ∧ (t.frame f).st = .inUse ∧
        (t.frame f).bind = some (pageOf (pkAddr p)) ∧
        (∀ e, s.obtFind (pkAddr p) = some e → (t.obtEntry e).pointer = BitVec.ofNat 16 (aPage (pkAddr p))) ∧
        (∃ w, t.work s.nextWork = some w ∧ w.kind = .program ∧ w.role = .own ∧ w.tag = some k ∧ w.frame = some f ∧
          w.st = .waiting ∧ w.addr = pkAddr p)) ∧
    (pkOpcode p = some .copyPage → (s.queue q).discard = false →
      ((s.chan (aCh (pkAddr2 p))).fenced = true → ∃ t k, exec c s = .next t ∧
        s.freeTagOf (aCh (pkAddr p)) = some k ∧
        dueFor t q k .channelFenced (BitVec.ofNat 32 (aCh (pkAddr2 p)))) ∧
      ((s.chan (aCh (pkAddr2 p))).fenced = false → s.bayOn (aCh (pkAddr2 p) / 8) = true →
        unboundPage s (pkAddr2 p) → ∃ t k, exec c s = .next t ∧ accepted s t q p k ∧ (t.tag k).st = .queued ∧
          (∃ w, t.work s.nextWork = some w ∧ w.kind = .program ∧ w.role = .own ∧ w.tag = some k ∧
            w.addr = pkAddr p) ∧
          (∃ w, t.work (s.nextWork + 1) = some w ∧ w.kind = .read ∧ w.role = .source ∧ w.tag = some k ∧
            w.addr = pkAddr2 p))) ∧
    (pkOpcode p = some .reprogramHeld → ∃ t k, exec c s = .next t ∧ accepted s t q p k ∧ (t.tag k).st = .queued ∧
      (t.tag k).frame = some (pkFrame p) ∧ (t.frame (pkFrame p)).named = some k ∧
      (t.frame (pkFrame p)).bind = (s.frame (pkFrame p)).bind ∧
      (∃ w, t.work s.nextWork = some w ∧ w.kind = .program ∧ w.tag = some k ∧ w.frame = some (pkFrame p))) ∧
    (pkOpcode p = some .releaseFrame → (s.queue q).discard = false → s.forwardsFrom (pkFrame p) = false →
      s.addingFrom (pkFrame p) = false →
      ∃ t k, exec c s = .next t ∧ s.freeTagOf (aCh (pkAddr p)) = some k ∧ dueFor t q k .success 0 ∧
        (t.frame (pkFrame p)).st ≠ .held ∧ (∀ d, d ∈ t.deferred → d.frame ≠ pkFrame p)) ∧
    (pkOpcode p = some .eraseBlock → ∃ t k, exec c s = .next t ∧ accepted s t q p k ∧ (t.tag k).st = .queued ∧
      (∀ e, s.obtFind (pkAddr p) = some e → (t.obtEntry e).valid = false) ∧
      (∃ w, t.work s.nextWork = some w ∧ w.kind = .erase ∧ w.role = .own ∧ w.tag = some k ∧ w.st = .waiting ∧
        w.addr = pkAddr p ∧ w.noSuspend = bitOf (pkByte p 48) 0))

/-- What the packets on features, parameter pages, targets, routines, surveys and calibration do when they pass their
checks (R104 to R106, R110, R111, R113). -/
def Obligations.AccessPacketsComplete : Prop :=
  ∀ (s : State) (q : Nat) (p : Packet) (c : Instr), parsesNext s q p → parses c q p → s.verdict q p = .pass false →
    ((pkOpcode p = some .getFeature ∨ pkOpcode p = some .setFeature ∨ pkOpcode p = some .resetTarget) →
      ∃ t k w, exec c s = .next t ∧ accepted s t q p k ∧ (t.tag k).st = .queued ∧ t.work s.nextWork = some w ∧
        w.kind = (if pkOpcode p = some .resetTarget then .reset else .access) ∧ w.role = .own ∧ w.tag = some k ∧
        w.addr = pkAddr p ∧ w.st = .waiting ∧ t.frames = s.frames) ∧
    ((pkOpcode p = some .readParameterPage ∨ pkOpcode p = some .runRoutine) →
      ∃ t k w f, exec c s = .next t ∧ accepted s t q p k ∧ s.freeFrameOf (aCh (pkAddr p)) = some f ∧
        (t.tag k).frame = some f ∧ (t.frame f).st = .inUse ∧ t.work s.nextWork = some w ∧
        w.kind = (if pkOpcode p = some .runRoutine then .routine else .access) ∧ w.tag = some k ∧ w.frame = some f ∧
        (t.tag k).st = (if pkOpcode p = some .runRoutine ∧ bitOf (pkByte p 49) 0 = true ∧ 0 < pkLen p then .fetching
          else .queued)) ∧
    (pkOpcode p = some .survey → ∃ t k, exec c s = .next t ∧ accepted s t q p k ∧
      (s.surveyReady (aCh (pkAddr p)) = true → (t.tag k).st = .issued ∧
        (t.chan (aCh (pkAddr p))).survey.tag = some k) ∧
      (s.surveyReady (aCh (pkAddr p)) = false → (t.tag k).st = .queued ∧
        (t.chan (aCh (pkAddr p))).survey =
          { (s.chan (aCh (pkAddr p))).survey with again := (s.chan (aCh (pkAddr p))).survey.again ++ [k] })) ∧
    (pkOpcode p = some .calibrate → (∀ e, e ∈ s.tags → e.2.opcode ≠ some .calibrate) →
      ∃ t k, exec c s = .next t ∧ accepted s t q p k ∧ (t.tag k).st = .queued ∧
        ((s.chan (aCh (pkAddr p))).cal.st = .idle → t.calUnit.queue = s.calUnit.queue ++ [aCh (pkAddr p)] ∧
          (t.chan (aCh (pkAddr p))).cal.tag = some k ∧
          (t.chan (aCh (pkAddr p))).cal.apply = bitOf (pkByte p 48) 0) ∧
        ((s.chan (aCh (pkAddr p))).cal.st ≠ .idle →
          (t.chan (aCh (pkAddr p))).cal = (s.chan (aCh (pkAddr p))).cal ∧ t.calUnit = s.calUnit))

/-- What the packets that take a tagless slot do when they pass their checks, and what commits a fence (R65, R70, R75,
R107 to R109, R112, R488). -/
def Obligations.TaglessPacketsComplete : Prop :=
  (∀ (s : State) (q : Nat) (p : Packet) (c : Instr), parsesNext s q p → parses c q p →
    s.verdict q p = .pass false → (s.queue q).discard = false →
    (pkOpcode p = some .abort →
      (∀ e, e ∈ s.slots → ¬ (e.2.sqid = ple p 48 2 ∧ e.2.cid = BitVec.ofNat 16 (ple p 50 2))) →
      ((∀ e, e ∈ s.tags → ¬ (e.2.sqid = ple p 48 2 ∧ e.2.cid = BitVec.ofNat 16 (ple p 50 2))) →
        ∃ t, exec c s = .next t ∧ dueTagless t q (pkCid p) .notFound 0) ∧
      (∀ k, liveTag s k → (s.tag k).sqid = ple p 48 2 → (s.tag k).cid = BitVec.ofNat 16 (ple p 50 2) →
        (∀ e, e ∈ s.tags → e.2.sqid = ple p 48 2 → e.2.cid = BitVec.ofNat 16 (ple p 50 2) → e.1 = k) →
        (s.tag k).abortSlot = none →
        ((s.tag k).st = .queued → ∃ t, exec c s = .next t ∧ dueFor t (s.tag k).sqid k .aborted 0 ∧
          dueTagless t q (pkCid p) .success (BitVec.ofNat 32 k)) ∧
        ((s.tag k).st = .confirmed → ∃ t, exec c s = .next t ∧ t.tag k = s.tag k ∧
          dueTagless t q (pkCid p) .tooLate (BitVec.ofNat 32 k)))) ∧
    (pkOpcode p = some .fence → ∃ t j, exec c s = .next t ∧ t.fencePending q = true ∧ SMap.get s.slots j = none ∧
      t.slot j = { sqid := q, cid := pkCid p, opcode := .fence, packet := p, stamp := s.stamp, done := false } ∧
      t.tags = s.tags) ∧
    (pkOpcode p = some .getDeferred → s.deferred = [] →
      (s.namesReserved p = true → ple p 16 8 % 0x8000 ≤ 20480) → ∃ t, exec c s = .next t ∧
      dueTagless t q (pkCid p) .success 0 ∧ t.deferred = [] ∧ t.ep = s.ep) ∧
    (∀ d, pkOpcode p = some .getDeferred → s.deferred = [d] → ple p 48 2 = 2 ^ 15 →
      (s.namesReserved p = false → ∃ t, exec c s = .next t ∧
        dueTagless t q (pkCid p) .success 1 ∧ t.deferred = [] ∧ s.ep.tx.length < t.ep.tx.length) ∧
      (s.namesReserved p = true → ple p 16 8 % 0x8000 + 32 ≤ 20480 → ∃ t, exec c s = .next t ∧
        dueTagless t q (pkCid p) .success 1 ∧ t.deferred = [] ∧ t.ep = s.ep) ∧
      (s.namesReserved p = true → 20480 < ple p 16 8 % 0x8000 + 32 → ∃ t, exec c s = .next t ∧
        dueTagless t q (pkCid p) .hostAccessError 4 ∧ t.deferred = [d] ∧ t.ep = s.ep)) ∧
    (pkOpcode p = some .selfTest → pkByte p 48 ≤ 1 → ∃ t, exec c s = .next t ∧ t.test.running = true ∧
      t.test.extended = decide (pkByte p 48 = 1) ∧ t.fld 0x5200 31 16 = (s.fld 0x5200 31 16 + 1) % 2 ^ 16 ∧
      dueTagless t q (pkCid p) .success (BitVec.ofNat 32 ((s.fld 0x5200 31 16 + 1) % 2 ^ 16))) ∧
    (pkOpcode p = some .selfTest → pkByte p 48 = 2 → ∃ t, exec c s = .next t ∧
      t.test = { s.test with stopping := true } ∧
      dueTagless t q (pkCid p) .success (BitVec.ofNat 32 (s.fld 0x5200 31 16)))) ∧
  (∀ (s : State) (k : Nat) (x : Slot), s.hostWorks = true → SMap.get s.slots k = some x → x.opcode = .fence →
    x.done = false → (s.queue x.sqid).discard = false →
    ((∀ e, e ∈ s.tags → e.2.sqid = x.sqid → e.2.stamp < x.stamp → e.2.committed = true ∨ e.2.st = .free ∨
        e.2.runOn = true ∨ e.2.dropped = true) →
      (∀ e, e ∈ s.slots → e.1 ≠ k → e.2.sqid = x.sqid → e.2.stamp < x.stamp → e.2.done = true) →
      ∃ t, exec (.fenceCommit k) s = .next t ∧ (t.slot k).done = true ∧
        dueTagless t x.sqid x.cid .success 0 ∧ t.tags = s.tags) ∧
    (∀ e, e ∈ s.tags → e.2.sqid = x.sqid → e.2.stamp < x.stamp → e.2.committed = false → e.2.st ≠ .free →
      e.2.runOn = false → e.2.dropped = false → exec (.fenceCommit k) s = .next s))

/-- What STRIPE_PARITY does when it passes its checks (R116, R118, R119). -/
def Obligations.StripePacketsComplete : Prop :=
  ∀ (s : State) (q : Nat) (p : Packet) (c : Instr), parsesNext s q p → parses c q p → s.verdict q p = .pass false →
    pkOpcode p = some .stripeParity →
    (pkByte p 48 = 0 → ∃ t k, exec c s = .next t ∧ accepted s t q p k ∧ (t.tag k).st = .queued ∧
      (t.tag k).sdPending = true ∧ (t.tag k).sdBytes = [] ∧ (t.tag k).sd = none ∧ t.accs = s.accs ∧
      t.frames = s.frames) ∧
    (∀ f, pkByte p 48 = 1 → (s.acc (pkByte p 49)).pFrame = some f → (s.acc (pkByte p 49)).count = 1 →
      ∃ t k w, exec c s = .next t ∧ accepted s t q p k ∧ (t.tag k).st = .queued ∧
        (t.acc (pkByte p 49)).st = .closing ∧ (t.acc (pkByte p 49)).closeTag = some k ∧
        t.work s.nextWork = some w ∧ w.kind = .program ∧ w.role = .pPage ∧ w.tag = some k ∧ w.frame = some f ∧
        w.addr = (s.acc (pkByte p 49)).pAddr ∧ (t.frame f).bind = some (pageOf (s.acc (pkByte p 49)).pAddr)) ∧
    (pkByte p 48 = 2 → (s.queue q).discard = false → ∃ t k, exec c s = .next t ∧
      s.freeTagOf (aCh (pkAddr p)) = some k ∧ dueFor t q k .success 0 ∧ t.acc (pkByte p 49) = Accumulator.init)

/-- What the commands of the margin survey do (R284 to R291). -/
def Obligations.SurveyCommandsComplete : Prop :=
  ∀ (s : State) (n : Nat), n < s.nch → s.hostWorks = true →
    (s.fld 0x300400 31 16 ≠ 0 → (s.chan n).trainedOnce = true → ∃ t, exec (.surveyDue n) s = .next t ∧
      (t.chan n).survey = { (s.chan n).survey with
        due := true, st := if (s.chan n).survey.st = .idle then .waiting else (s.chan n).survey.st } ∧
      t.chan n = { s.chan n with survey := (t.chan n).survey } ∧ (∀ j, j ≠ n → t.chan j = s.chan j) ∧
      t = { s with chans := t.chans }) ∧
    (s.fld 0x300400 31 16 = 0 → exec (.surveyDue n) s = .next s) ∧
    ((∀ j, j < s.nch → (s.chan j).survey.again = []) → s.bit 8 8 = false →
      s.surveysActive < max 1 (s.fld 0x300400 15 12) → s.fld 0x300400 31 16 ≠ 0 → (s.chan n).survey.due = true →
      s.surveyReady n = true →
      (∀ j, j < n → (s.chan j).survey.due = true → s.surveyReady j = false) →
      ∃ t, exec .surveyStart s = .next t ∧ (t.chan n).survey.due = false ∧ (t.chan n).survey.parts = 7 ∧
        (t.chan n).survey.tag = none ∧ (∀ j, j ≠ n → t.chan j = s.chan j) ∧
        (48 ≤ (s.chan n).rate → (t.chan n).survey.st = .eye) ∧
        ((s.chan n).rate < 48 → (t.chan n).survey.st = .samples ∨ (t.chan n).survey.st = .rings)) ∧
    ((∀ j, j < s.nch → (s.chan j).survey.again = []) → s.fld 0x300400 31 16 = 0 → exec .surveyStart s = .next s) ∧
    (∀ k rest, (s.chan n).survey.again = k :: rest → s.surveyReady n = true →
      (∀ j, j < n → (s.chan j).survey.again = [] ∨ s.surveyReady j = false) →
      ∃ t, exec .surveyStart s = .next t ∧ (t.tag k).st = .issued ∧ (t.chan n).survey.tag = some k ∧
        (t.chan n).survey.again = rest ∧ (t.chan n).survey.st ≠ .idle) ∧
    (∀ report : List EyeReport, (s.chan n).survey.st = .eye → s.chanRuns n = true → s.bestJob n = none →
      (s.chan n).bus.running = false →
      (∀ k d, k < 8 → d < 8 → s.tgtPresent n k = true → ∃ r, r ∈ report ∧ r.target = k ∧ r.dq = d) →
      (∀ r r', r ∈ report → r' ∈ report → r.target = r'.target → r.dq = r'.dq → r = r') →
      (∀ r, r ∈ report → r.target < 8 ∧ r.dq < 8 ∧ s.tgtPresent n r.target = true) → report ≠ [] →
      ∃ t a b l, exec (.eyeScan n report) s = .next t ∧ a ∈ report ∧ b ∈ report ∧
        (∀ r, r ∈ report → (eyeOf a.readPass).1 ≤ (eyeOf r.readPass).1 ∧
          (eyeOf b.writePass).1 ≤ (eyeOf r.writePass).1) ∧
        (t.chan n).survey.eyes = some [(eyeOf a.readPass).1, a.dq, (eyeOf b.writePass).1, b.dq] ∧
        (t.chan n).survey.shifts = l ∧ l.length = 8 ∧
        (∀ d, d < 8 → l[d]? = some (meanShift (((countUp 0 8).filter (fun k => s.tgtPresent n k)).filterMap
          (fun k => (report.find? (fun r => r.target == k && r.dq == d)).map (fun r => (eyeOf r.readPass).2))))) ∧
        (t.chan n).bus.entry = 20 ∧ (t.chan n).survey.st ≠ .eye ∧ (∀ j, j ≠ n → t.chan j = s.chan j)) ∧
    (∀ (x : BitVec 64) (i w : Nat), 0 < w → i + w ≤ 64 →
      (∀ j, j < 64 → x.getLsbD j = decide (i ≤ j ∧ j < i + w)) →
      eyeOf x = (w, 2 * (i : Int) - 64 + ((w : Int) - 1))) ∧
    (∀ report : List EyeReport, (∃ k d, k < 8 ∧ d < 8 ∧ s.tgtPresent n k = true ∧
        ∀ r, r ∈ report → ¬ (r.target = k ∧ r.dq = d)) → exec (.eyeScan n report) s = .next s) ∧
    (∀ id w j shift data, s.bestJob n = some (.sample id) → s.work id = some w → w.role = .sample j shift →
      shift < 2 → data.length = w.cfg.bytes w.level → (s.chan n).hard = [] → ∃ t, exec (.sampleRead n data) s = .next t ∧
        (∃ v, t.work id = some v ∧ v.role = .sample j (shift + 1) ∧ v.adm = .none ∧ v.st = w.st) ∧
        (t.lun (lunKey n w.lun)).offsets ≠ none ∧ (t.chan n).survey.shift = shift + 1 ∧
        (t.chan n).bus.entry = 21 ∧
        (t.chan n).survey.st = (s.chan n).survey.st) ∧
    (∀ ring count, ring < 3 → (s.chan n).survey.st = .rings → (s.chan n).survey.ring = ring →
      ∃ t, exec (.ringCountEnd n ring count) s = .next t ∧
        (t.chan n).survey = { (s.chan n).survey with
          counts := (s.chan n).survey.counts ++ [min count 0xFFFF], ring := ring + 1 } ∧
        t.ringBase n ring = (if s.ringBase n ring = 0 then min count 0xFFFF else s.ringBase n ring) ∧
        t = { s with regs := t.regs, chans := t.chans }) ∧
    (∀ count, (s.chan n).survey.st = .rings → (s.chan n).survey.ring = 3 →
      ∃ t, exec (.ringCountEnd n 3 count) s = .next t ∧ (t.chan n).survey.st = .planning ∧
        (t.chan n).survey.counts = (s.chan n).survey.counts ++ [min count 0xFFFF] ∧
        t.ringBase n 3 = (if s.ringBase n 3 = 0 then min count 0xFFFF else s.ringBase n 3)) ∧
    ((s.chan n).survey.st = .planning → (s.chan n).survey.tag = none → (s.chan n).survey.again = [] →
      ∃ t, exec (.planRewrite n) s = .next t ∧ (t.chan n).survey = Survey.init ∧
        t.fld (0x330000 + n * 0x100) 13 12 = 1 ∧
        t.fld (0x330000 + n * 0x100) 31 16 = (s.fld (0x330000 + n * 0x100) 31 16 + 1) % 2 ^ 16 ∧
        t.reg (0x330018 + n * 0x100) = BitVec.ofNat 32 s.ageNow ∧ t.arrBit 0x300420 n = true ∧
        isPending t 851 = true ∧ (t.chan n).coldCounts = [] ∧ (∀ j, j ≠ n → t.chan j = s.chan j)) ∧
    (∀ k, (s.chan n).survey.st = .planning → (s.chan n).survey.tag = some k → (s.chan n).survey.again = [] →
      liveTag s k → ∃ t, exec (.planRewrite n) s = .next t ∧ dueFor t (s.tag k).sqid k .success 0)

/-- What admission requests, polls, holds and age do to a channel's works and LUNs (R145, R148, R149, R161, R411,
R526). -/
def Obligations.SchedulerEventsComplete : Prop :=
  ∀ (s : State) (n : Nat), n < s.nch → s.hostOn = true →
    (∀ l id w u, l < 16 → u = s.softNext n → u.nextAsk n l = some id → u.work id = some w →
      ∃ t, exec (.admissionRequest n l) s = .next t ∧ (∃ v, t.work id = some v ∧ v.adm = .requested ∧ v.st = w.st) ∧
        (∃ r, r ∈ t.gov.waiting ∧ r.work = id ∧ r.release = false ∧ r.cls = u.workClass w) ∧
        t.gov.grants = u.gov.grants ∧ t.tags = u.tags ∧ t.luns = u.luns) ∧
    (∀ l, l < 16 → (s.softNext n).nextAsk n l = none → exec (.admissionRequest n l) s = .next (s.softNext n)) ∧
    (∀ l id w q rest f, l < 16 → (s.chan n).soft = none → s.work id = some w → w.ch = n → w.st = .soft →
      w.assist = 0 → w.failed = q :: rest → w.frame = some f →
      (∀ e, e ∈ s.works → e.2.ch = n → e.2.st = .soft → e.2.assist = 0 → e = (id, w)) →
      (s.frameRead f (w.codeBase q) (w.cfg.bytes w.level)).1.2 = false →
      ∃ t b, exec (.admissionRequest n l) s = .next t ∧ (t.chan n).soft = some b ∧ b.work = id) ∧
    (∀ id w, s.work id = some w → w.ch = n → (w.kind = .program ∨ w.kind = .erase) → w.st = .waiting →
      s.fld (chanPage n + 0x80) 23 8 ≠ 0 → ∃ t, exec (.programAgeClimb id) s = .next t ∧
        t.work id = some { w with climbed := true } ∧ (∀ j, j ≠ id → t.work j = s.work j) ∧
        t = { s with works := t.works }) ∧
    (∀ i l, i < 8 → (l = 2 * i ∨ l = 2 * i + 1) → (s.chan n).inReset = false → s.bayOn (n / 8) = true →
      ∃ t, exec (.rbNRise n i) s = .next t ∧
        t.lun (lunKey n l) = { s.lun (lunKey n l) with
          pollDue := (s.lun (lunKey n l)).op.isSome || (s.lun (lunKey n l)).pollDue
          op := (s.lun (lunKey n l)).op.map (fun o => { o with low := false }) } ∧
        (∀ k, k ≠ lunKey n (2 * i) → k ≠ lunKey n (2 * i + 1) → t.lun k = s.lun k) ∧ t = { s with luns := t.luns }) ∧
    (∀ i, i < 8 → (s.lun (lunKey n (2 * i))).op ≠ none → (s.lun (lunKey n (2 * i + 1))).op ≠ none →
      ∃ t, exec (.pollIntervalExpiry n i) s = .next t ∧ (t.lun (lunKey n (2 * i))).pollDue = true ∧
        (t.lun (lunKey n (2 * i + 1))).pollDue = true ∧ t = { s with luns := t.luns }) ∧
    (∀ i, i < 8 → ((s.lun (lunKey n (2 * i))).op = none ∨ (s.lun (lunKey n (2 * i + 1))).op = none) →
      exec (.pollIntervalExpiry n i) s = .next s) ∧
    (∀ l, l < 16 → (s.lun (lunKey n l)).held = true → ∃ t, exec (.heldLunPoll n l) s = .next t ∧
      t.lun (lunKey n l) = { s.lun (lunKey n l) with pollDue := true } ∧
      (∀ k, k ≠ lunKey n l → t.lun k = s.lun k) ∧ t = { s with luns := t.luns }) ∧
    (∀ val, s.serving = true → (s.chan n).inReset = false → ∃ t, exec (.lunHoldClear n val) s = .next t ∧
      (∀ l, l < 16 → (t.lun (lunKey n l)).held = ((s.lun (lunKey n l)).held && !bitOf val.toNat l)) ∧
      (∀ k, k / 16 ≠ n → t.lun k = s.lun k) ∧ t = { s with luns := t.luns })

/-- What the bus jobs that set levels and start, suspend and resume array operations do (R143, R147, R150 to R153,
R163, R172, R263, R546). -/
def Obligations.BusJobsComplete : Prop :=
  ∀ (s : State) (n : Nat), n < s.nch → s.hostOn = true →
    (∀ id w, s.bestJob n = some (.read id) → s.work id = some w → s.needsLevels w = true →
      ∃ t, exec (.levelSet n) s = .next t ∧ (t.lun (lunKey n w.lun)).offsets = some (s.levelKey w) ∧
        t.work id = some { w with levelSet := true } ∧ (∀ j, j ≠ id → t.work j = s.work j) ∧
        (∀ k, w.role = .own → w.tag = some k → (s.tag k).st = .queued → (t.tag k).st = .issued)) ∧
    (∀ id w, s.bestJob n = some (.read id) → s.work id = some w → s.needsLevels w = false → w.kind = .read →
      s.joined id w = [] → (∀ e, e ∈ s.works → e.2.mateOf ≠ some id) → ∃ t, exec (.readIssue n) s = .next t ∧
        (t.lun (lunKey n w.lun)).op = some (ArrayOp.start .read [id]) ∧
        t.work id = some { w with st := .running, adm := .granted, levelSet := false, issued := true } ∧
        (∀ o, (s.lun (lunKey n w.lun)).parked = some o →
          (t.lun (lunKey n w.lun)).parked = some { o with readsSince := o.readsSince + 1 }) ∧
        (∀ k, w.role = .own → w.tag = some k → (s.tag k).st = .queued → (t.tag k).st = .issued)) ∧
    (∀ l o c, s.bestJob n = some (.suspend l) → (s.lun (lunKey n l)).op = some o →
      ((c = .suspendProgram n ∧ o.kind = .program) ∨ (c = .suspendErase n ∧ o.kind = .erase)) →
      ∃ t, exec c s = .next t ∧
        (t.lun (lunKey n l)).op = some { o with
          suspending := true, suspends := if o.cap = .ordered then o.suspends else o.suspends + 1 } ∧
        (∀ k, k ≠ lunKey n l → t.lun k = s.lun k) ∧ (t.chan n).bus.running = false ∧ t.works = s.works ∧
        t.tags = s.tags) ∧
    (∀ l o, l < 16 → (s.lun (lunKey n l)).op = some o → o.suspending = true → o.cap ≠ .ordered →
      ∃ t, exec (.suspended n l) s = .next t ∧ (t.lun (lunKey n l)).op = none ∧
        (t.lun (lunKey n l)).parked = some { o with
          suspended := true, suspending := false, readsSince := 0, cap := .none } ∧ t.chans = s.chans ∧
        (∀ g, g ∈ t.gov.grants → ¬ (g.lun = lunKey n l ∧ g.work ∈ o.works)) ∧
        (∀ id w, id ∈ o.works → s.work id = some w → t.work id = some { w with adm := .none })) ∧
    (∀ l o, s.bestJob n = some (.resume l) → (s.lun (lunKey n l)).parked = some o →
      ∃ t, exec (.resume n) s = .next t ∧ (t.lun (lunKey n l)).parked = none ∧
        (t.lun (lunKey n l)).op = some { o with
          suspended := false, resumeNow := false, cap := .none, readsSince := 0, ranFrom := s.now, low := true } ∧
        (∀ k, k ≠ lunKey n l → t.lun k = s.lun k) ∧ t.works = s.works ∧ t.tags = s.tags) ∧
    (∀ c q id w, s.bestJob n = some (.program id) → s.work id = some w →
      ((c = .program n q ∧ w.st ≠ .paused) ∨ (c = .programResume n q ∧ w.st = .paused)) →
      ((s.programBytes w w.resumeCol (s.stretchEnd w q - w.resumeCol)).1.2 = false →
        (s.stretchEnd w q < s.dataInEnd w → ∃ t, exec c s = .next t ∧
          t.work id = some { w with st := .running, resumeCol := s.stretchEnd w q, sent := false } ∧
          t.luns = s.luns ∧ (t.chan n).egressWork = some id ∧ t.emits n id = true ∧
          (∀ k, w.role = .own → w.tag = some k → (s.tag k).st = .staged → (t.tag k).st = .issued)) ∧
        (s.dataInEnd w ≤ s.stretchEnd w q → ∃ t, exec c s = .next t ∧
          t.work id = some { w with st := .running, resumeCol := s.stretchEnd w q, sent := true } ∧
          (t.chan n).egressWork = some id ∧ t.emits n id = true ∧
          (t.lun (lunKey n w.lun)).op = some (ArrayOp.start .program [id] (s.maySuspendNow w)) ∧
          (∀ k, w.role = .own → w.tag = some k → (s.tag k).st = .staged → (t.tag k).st = .issued))) ∧
      (∀ k, (s.programBytes w w.resumeCol (s.stretchEnd w q - w.resumeCol)).1.2 = true → w.tag = some k →
        liveTag s k → (s.tag k).opcode = some .programPage →
        ∃ t, exec c s = .next t ∧ dueFor t (s.tag k).sqid k .dataPoisoned 0)) ∧
    (∀ c q id w, s.dataInRuns n = some (id, w) →
      ((c = .program n q ∧ (s.chan n).bus.entry = 12) ∨ (c = .programResume n q ∧ (s.chan n).bus.entry = 13)) →
      (s.quarterPause n = true → w.boundary w.resumeCol = true →
        (∀ k, w.tag = some k → (s.tag k).abortPending = false ∧ (s.tag k).dropped = false) →
        ∃ t, exec c s = .next t ∧ t.work id = some { w with st := .paused } ∧ t.luns = s.luns ∧
          (t.chan n).bus.running = false ∧ (t.chan n).egressWork = none) ∧
      (s.quarterPause n = false → (s.programBytes w w.resumeCol (s.stretchEnd w q - w.resumeCol)).1.2 = false →
        ∃ t, exec c s = .next t ∧ t.work id = some { w with
            st := .running, resumeCol := s.stretchEnd w q, sent := decide (s.dataInEnd w ≤ s.stretchEnd w q) } ∧
          (s.stretchEnd w q < s.dataInEnd w → t.luns = s.luns) ∧
          (s.dataInEnd w ≤ s.stretchEnd w q →
            (t.lun (lunKey n w.lun)).op = some (ArrayOp.start .program [id] (s.maySuspendNow w))))) ∧
    (∀ id w, s.bestJob n = some (.erase id) → s.work id = some w →
      ∃ t, exec (.erase n) s = .next t ∧ t.work id = some { w with st := .running, sent := true } ∧
        t.emits n id = true ∧ (t.lun (lunKey n w.lun)).op = some (ArrayOp.start .erase [id] (s.maySuspendNow w)) ∧
        (∀ k, k ≠ lunKey n w.lun → t.lun k = s.lun k) ∧
        (∀ k, w.role = .own → w.tag = some k → (s.tag k).st = .queued → (t.tag k).st = .issued)) ∧
    (∀ id w k, s.bestJob n = some (.reset id) → s.work id = some w → w.tag = some k →
      (∀ e a, e ∈ s.tags → s.tagAddr e.1 = some a → aCh a = n → e.1 = k) →
      (∀ e, e ∈ s.works → e.2.ch = n → e.1 = id) → w.kind = .reset →
      w.role = .own →
      ∃ t, exec (.targetReset n) s = .next t ∧ t.work id = some { w with st := .running, sent := true } ∧
        (t.lun (lunKey n (if pkByte (s.tag k).packet 48 = 2 then w.lun else 2 * targetOf w.lun))) =
          { s.lun (lunKey n (if pkByte (s.tag k).packet 48 = 2 then w.lun else 2 * targetOf w.lun)) with
            op := some (ArrayOp.start .reset [id]), parked := none, offsets := none, pollDue := false })

/-- What a fault does to a channel that holds no tag and no flash work, and how its recovery ends (R159, R179, R191,
R455, R457 to R459), and what its flash pins show while it is in reset and in the modes that run single-ended (R474,
R525). -/
def Obligations.ChannelFaultsComplete : Prop :=
  ∀ (s : State) (n : Nat), n < s.nch → quietChan s n →
    (∀ (c : Instr) (addr : BitVec 11) (kind : Nat), s.hostWorks = true → (s.chan n).inReset = false →
      (s.chan n).store = .loaded →
      ((c = .illegalMicroword n addr ∧ kind = 1) ∨ (c = .doldrumsStallTimeout n addr ∧ kind = 2 ∧ s.stallCounts n = true)) →
      ∃ t, exec c s = .next t ∧ t.fld (0x3000 + n * 8) 14 12 = kind ∧
        t.fld (0x3000 + n * 8) 31 16 = min (s.fld (0x3000 + n * 8) 31 16 + 1) 0xFFFF ∧
        t.fld (chanPage n + 0x80C) 15 14 = kind ∧ t.fld (chanPage n + 0x80C) 10 0 = addr.toNat ∧
        (t.chan n).inReset = true ∧ t.flashPins n = FlashPins.parked ∧
        (t.chan n).store = (if s.ph.master = 3 then .loading else .loaded) ∧
        (t.chan n).loadWhy = some .fault ∧ (t.chan n).bus = Bus.init ∧
        (t.chan n).recStep = (if s.ph.master = 3 then .reset else .refreshWait) ∧ (t.chan n).replaying = true ∧
        isPending t 843 = true ∧ (∀ j, j ≠ n → t.chan j = s.chan j)) ∧
    ((s.chan n).inReset = false → (s.bay (n / 8)).st = .on → s.ph.powered = true → s.ph.blkReset = false →
      s.irq.lull ≠ .lull → s.irq.lull ≠ .waking → (s.chan n).rate ≤ 16 → (s.flashPins n).re = .low ∧
      (s.flashPins n).dqsN = .undriven ∧ (s.flashPins n).dqs = (s.chan n).bus.pins.dqs.level) ∧
    (∀ addr, s.stallCounts n = false → exec (.doldrumsStallTimeout n addr) s = .next s) ∧
    (s.serving = true → (s.chan n).st = .running → (s.chan n).recStep = .idle → (s.chan n).inReset = false →
      ∃ t, exec (.replayFaultRequest n) s = .next t ∧ t.fld (0x3000 + n * 8) 14 12 = 5 ∧ (t.chan n).st = .reset ∧
        (t.chan n).before = .running ∧ (t.chan n).inReset = true ∧ (t.chan n).recStep = .reset ∧
        (t.chan n).replaying = true ∧ (t.chan n).store = (s.chan n).store ∧ isPending t 843 = true ∧
        (∀ j, j ≠ n → t.chan j = s.chan j)) ∧
    (s.serving = true → ¬ ((s.chan n).st = .running ∧ (s.chan n).recStep = .idle ∧ (s.chan n).inReset = false) →
      exec (.replayFaultRequest n) s = .next (s.setBit (0x3004 + n * 8) 31 true)) ∧
    (s.hostOn = true → (s.chan n).recStep = .reset → (s.chan n).inReset = true → (s.chan n).loadWhy ≠ some .fault →
      (s.chan n).glitch = false → (s.chan n).store ≠ .loading →
      ∃ t, exec (.channelResetEnd n) s = .next t ∧
        (t.chan n).live = (s.chan n).target ∧ (∀ j, j ≠ n → t.chan j = s.chan j) ∧
        (((s.chan n).before = .running ∨ (s.chan n).before = .training) → (t.chan n).st = .training ∧
          (t.chan n).recStep = .retrain ∧ (t.chan n).trainRate = (s.chan n).rate ∧
          (t.chan n).trainMode = (if (s.chan n).rate = 0 then 1 else (s.chan n).mode) ∧
          (t.chan n).trainWhy = some .fault ∧
          (s.fld (0x3000 + n * 8) 14 12 ≠ 4 → (t.chan n).inReset = decide ((s.chan n).rate ≤ 72)) ∧
          (s.fld (0x3000 + n * 8) 14 12 = 4 → s.presentTargets n ≠ [] → (t.chan n).inReset = false ∧
            ∀ x, x ∈ s.presentTargets n → ∃ id w, t.work id = some w ∧ w.kind = .reset ∧ w.tag = none ∧
              w.addr = lunAddr n (2 * x) ∧ w.adm = .requested)) ∧
        ((s.chan n).before ≠ .running → (s.chan n).before ≠ .training → (t.chan n).recStep = .idle ∧
          (t.chan n).inReset = false ∧
          (t.chan n).replaying = false ∧
          (t.chan n).st = (if (s.chan n).before = .absent then .absent else .unconfigured))) ∧
    (s.hostWorks = true → (s.chan n).recStep = .replay → ∃ t, exec (.replayEnd n) s = .next t ∧
      (t.chan n).recStep = .idle ∧ (t.chan n).replaying = false ∧ isPending t 844 = true ∧
      (∀ j, j ≠ n → t.chan j = s.chan j))

/-- What disagreeing pointer copies do to a FIFO (R214, R215), and what the read back of a recovered program leads to
(R464). -/
def Obligations.FifoLossesAndReadBacksComplete : Prop :=
  ∀ s : State,
    (∀ n, s.hostWorks = true → n < s.nch → (s.chan n).inReset = false → ∃ t,
      exec (.fifoPointerMismatch n .message) s = .next t ∧ t.bit (chanPage n + 0x91C) 2 = true ∧
        t.fld (chanPage n + 0x91C) 15 8 = min (s.fld (chanPage n + 0x91C) 15 8 + 1) 0xFF ∧ isPending t 815 = true ∧
        t.chan n = { s.chan n with msgs := [], msgDrop := false, msgOpen := false } ∧
        (∀ j, j ≠ n → t.chan j = s.chan j)) ∧
    (∀ n, s.hostWorks = true → n < s.nch → (s.chan n).inReset = false → (s.chan n).egressWork = none → ∃ t,
      exec (.fifoPointerMismatch n .egress) s = .next t ∧ t.bit (chanPage n + 0x91C) 1 = true ∧
        t.fld (chanPage n + 0x91C) 23 16 = min (s.fld (chanPage n + 0x91C) 23 16 + 1) 0xFF ∧ isPending t 815 = true ∧
        t.chan n = { s.chan n with egress := [] } ∧ (∀ j, j ≠ n → t.chan j = s.chan j)) ∧
    (∀ n id w k, s.hostWorks = true → n < s.nch → (s.chan n).inReset = false → (s.chan n).ingressWork = some id →
      s.work id = some w → w.ch = n → w.kind = .read → w.tag = some k →
      ((s.tag k).losses = 0 → ∃ t, exec (.fifoPointerMismatch n .ingress) s = .next t ∧
        t.bit (chanPage n + 0x91C) 0 = true ∧
        t.fld (chanPage n + 0x91C) 31 24 = min (s.fld (chanPage n + 0x91C) 31 24 + 1) 0xFF ∧ isPending t 815 = true ∧
        (t.chan n).ingress = [] ∧ (t.chan n).ingressWork = none ∧
        (t.chan n).hard = (s.chan n).hard.filter (fun e => e.1 != id) ∧ (t.tag k).losses = 1 ∧
        (w.role = .own → (t.tag k).st = .issued) ∧
        (w.role ≠ .readBack → w.assist = 0 → t.work id = some { w with
          st := .waiting, adm := .none, levelSet := false, quarters := w.codes ++ w.quarters, quarter := none,
          codes := [] })) ∧
      (1 ≤ (s.tag k).losses → w.role = .own → liveTag s k →
        ∃ t, exec (.fifoPointerMismatch n .ingress) s = .next t ∧
          dueFor t (s.tag k).sqid k .dataPoisoned 0)) ∧
    (∀ n id w k, s.hostWorks = true → n < s.nch → (s.chan n).inReset = false → (s.chan n).egressWork = some id →
      s.work id = some w → w.kind = .program → w.tag = some k → (s.tag k).losses = 0 →
      ∃ t, exec (.fifoPointerMismatch n .egress) s = .next t ∧ t.bit (chanPage n + 0x91C) 1 = true ∧
        t.fld (chanPage n + 0x91C) 23 16 = min (s.fld (chanPage n + 0x91C) 23 16 + 1) 0xFF ∧ isPending t 815 = true ∧
        (t.chan n).egress = [] ∧ (t.chan n).egressWork = none ∧ (t.tag k).losses = 1 ∧
        t.work id = some { w with st := .waiting, sent := false, resumeCol := 0 } ∧ t.gov.grants = s.gov.grants) ∧
    (∀ id w, s.hostOn = true → s.work id = some w → w.role = .readBack → w.st = .decoding →
      w.codes.all (fun v => v == 0) = true → ∃ t, exec (.readBack id) s = .next t ∧
        t.work id = some { w with
          kind := .program, role := w.wasRole, st := .waiting, adm := .none, raw := false, sent := false,
          resumeCol := 0, replay := true, codes := [], quarters := [] } ∧
        (∀ j, j ≠ id → t.work j = s.work j) ∧ t = { s with works := t.works }) ∧
    (∀ id w k, s.hostOn = true → s.work id = some w → w.role = .readBack → w.wasRole = .own → w.st = .decoding →
      w.codes ≠ [] → w.codes.all (fun v => v == 1) = true → w.tag = some k → liveTag s k →
      (s.tag k).opcode = some .programPage → ∃ t, exec (.readBack id) s = .next t ∧
        dueFor t (s.tag k).sqid k (s.tag k).status (s.tag k).info) ∧
    (∀ id w, s.hostOn = true → s.work id = some w → w.role = .readBack → w.st = .decoding → w.attempt = 0 →
      w.codes.all (fun v => v == 1 || v == 3) = true → 3 ∈ w.codes → ∃ t, exec (.readBack id) s = .next t ∧
        (∃ v, t.work id = some v ∧ v.st = .waiting ∧ v.attempt = 1 ∧ v.adm = .none ∧ v.levelSet = false)) ∧
    (∀ id w k f, s.hostOn = true → s.work id = some w → w.role = .readBack → w.wasRole = .own → w.st = .decoding →
      2 ∈ w.codes → w.tag = some k → w.frame = some f → liveTag s k → (s.tag k).opcode = some .programPage →
      ∃ t, exec (.readBack id) s = .next t ∧
        dueFor t (s.tag k).sqid k .outcomeIndeterminate (BitVec.ofNat 32 f))

/-- What a status poll finds of an array operation (R148, R161, R164). -/
def Obligations.StatusPollsComplete : Prop :=
  ∀ (s : State) (n l : Nat) (status : Byte), n < s.nch → s.hostOn = true → s.bestJob n = some (.poll l) →
    (status.getLsbD 6 = false → ∃ t, exec (.statusPoll n status) s = .next t ∧
      t.lun (lunKey n l) = { s.lun (lunKey n l) with pollDue := false } ∧
      (∀ k, k ≠ lunKey n l → t.lun k = s.lun k) ∧ t.works = s.works ∧ t.tags = s.tags) ∧
    (status.getLsbD 6 = true → (s.lun (lunKey n l)).op = none → ∃ t, exec (.statusPoll n status) s = .next t ∧
      t.lun (lunKey n l) = { s.lun (lunKey n l) with pollDue := false, held := false } ∧ t.works = s.works ∧
      t.tags = s.tags) ∧
    (∀ o, status.getLsbD 6 = true → (s.lun (lunKey n l)).op = some o → o.suspending = true →
      status.getLsbD 5 = false → ∃ t, exec (.statusPoll n status) s = .next t ∧
      t.lun (lunKey n l) = { s.lun (lunKey n l) with pollDue := false, held := false } ∧ t.works = s.works ∧
      t.tags = s.tags) ∧
    (∀ o id w, status.getLsbD 6 = true → (s.lun (lunKey n l)).op = some o →
      (o.suspending = false ∨ status.getLsbD 5 = true) → o.works = [id] → s.work id = some w → w.st ≠ .recover →
      (o.kind = .read → ∃ t, exec (.statusPoll n status) s = .next t ∧ (t.lun (lunKey n l)).op = none ∧
        (∃ v, t.work id = some v ∧ v.st = .arrayDone) ∧
        (∀ g, g ∈ t.gov.grants → ¬ (g.lun = lunKey n l ∧ g.work = id))) ∧
      (∀ k, o.kind = .erase → w.kind = .erase → w.tag = some k → liveTag s k →
        ∃ t, exec (.statusPoll n status) s = .next t ∧
          dueFor t (s.tag k).sqid k (if status.getLsbD 0 then .lunStatusFail else .success)
            (if status.getLsbD 0 then BitVec.ofNat 32 (status.toNat * 2 ^ 16) else 0)) ∧
      (∀ k f, o.kind = .program → w.kind = .program → w.role = .own → w.tag = some k → w.frame = some f →
        liveTag s k → (s.tag k).opcode = some .programPage → ∃ t, exec (.statusPoll n status) s = .next t ∧
          dueFor t (s.tag k).sqid k (if status.getLsbD 0 then .lunStatusFail else (s.tag k).status)
            (if status.getLsbD 0 then BitVec.ofNat 32 (f + status.toNat * 2 ^ 16) else (s.tag k).info)))

/-- What the sequencer's messages do: those of the job that runs on a channel's bus, and those that a job may not emit
(R64, R65, R147, R170, R172, R173, R178, R179, R216). -/
def Obligations.SequencerMessagesComplete : Prop :=
  ∀ (s : State) (n id : Nat) (w : Work), n < s.nch → s.hostOn = true → s.work id = some w → w.ch = n →
    (∀ k, s.emits n id = true → s.badMessage n id 3 = false → w.tag = some k → (s.tag k).st = .issued →
      (w.kind ≠ .routine → w.sent = true → w.st = .running →
        ∃ t, exec (.confirm n id) s = .next t ∧ t.work id = some { w with st := .confirmed } ∧
          (t.tag k).st = .confirmed ∧ (t.tag k).abortPending = false ∧ (∀ j, j ≠ id → t.work j = s.work j) ∧
          (∀ j, j ≠ k → t.tag j = s.tag j) ∧ (t.chan n).bus.running = false ∧
          t.lun (lunKey n w.lun) = { s.lun (lunKey n w.lun) with
            op := (s.lun (lunKey n w.lun)).op.map (fun o => { o with ranFrom := s.now }) } ∧
          (∀ j, j ≠ lunKey n w.lun → t.lun j = s.lun j) ∧
          (∀ m x, (s.tag k).abortSlot = some m → SMap.get s.slots m = some x → x.done = false →
            (s.queue x.sqid).discard = false → dueTagless t x.sqid x.cid .tooLate (BitVec.ofNat 32 k))) ∧
      (w.kind = .routine → ∃ t, exec (.confirm n id) s = .next t ∧ t.work id = some { w with sent := true } ∧
        (∀ j, j ≠ id → t.work j = s.work j) ∧ (t.tag k).st = .confirmed ∧ (∀ j, j ≠ k → t.tag j = s.tag j) ∧
        ((s.lun (lunKey n w.lun)).op = none → (t.lun (lunKey n w.lun)).op =
          some { ArrayOp.start .routine [id] with ranFrom := s.now }) ∧
        ((s.lun (lunKey n w.lun)).op ≠ none → t.lun (lunKey n w.lun) = s.lun (lunKey n w.lun)) ∧
        (∀ j, j ≠ lunKey n w.lun → t.lun j = s.lun j) ∧ (t.chan n).bus.running = true ∧ (t.chan n).bus.confirmed = true)) ∧
    (∀ c op, ((c = .confirm n id ∧ op = 3) ∨ (∃ word, c = .result n id word ∧ op = 4) ∨
        (∃ col, c = .paused n id col ∧ op = 6)) → s.badMessage n id op = true →
      ∃ t, exec c s = .next t ∧ (t.chan n).inReset = true ∧ t.fld (chanPage n + 0x80C) 15 14 = 1 ∧
        t.fld (chanPage n + 0x80C) 10 0 = (s.chan n).bus.pc % 2 ^ 11) ∧
    (∀ k word, s.emits n id = true → s.badMessage n id 4 = false → w.kind = .routine → w.tag = some k →
      ∃ t, exec (.result n id word) s = .next t ∧ t.tag k = { s.tag k with result := word } ∧
        (∀ j, j ≠ k → t.tag j = s.tag j) ∧ t.works = s.works ∧ t.luns = s.luns) ∧
    (∀ k (status : Byte), s.emits n id = true ∨ w.st = .confirmed → w.kind = .routine → w.tag = some k →
      ∃ t, exec (.fail n id status) s = .next t ∧ t.works = s.works ∧ t.tags = s.tags ∧ t.luns = s.luns ∧
        t.chan n = { s.chan n with
          bus := { (s.chan n).bus with failed := some status.toNat, status := status.toNat } } ∧
        (∀ j, j ≠ n → t.chan j = s.chan j)) ∧
    (∀ k f (status : Byte), s.emits n id = true ∨ w.st = .confirmed → w.kind = .program → w.role = .own →
      w.tag = some k → w.frame = some f → liveTag s k → (s.tag k).opcode = some .programPage →
      ∃ t, exec (.fail n id status) s = .next t ∧
        dueFor t (s.tag k).sqid k .lunStatusFail (BitVec.ofNat 32 (f + status.toNat * 2 ^ 16))) ∧
    (∀ k, s.dataInRuns n = some (id, w) → w.boundary w.resumeCol = true → s.quarterPause n = true → w.role = .own →
      w.tag = some k → (s.tag k).dropped = false →
      ((s.tag k).abortPending = false → ∃ t, exec (.paused n id w.resumeCol) s = .next t ∧
        t.work id = some { w with st := .paused } ∧ t.luns = s.luns ∧ (t.chan n).bus.running = false ∧
        (∀ j, j ≠ id → t.work j = s.work j) ∧ t.tags = s.tags) ∧
      (liveTag s k → (s.tag k).opcode = some .programPage → (s.tag k).abortPending = true →
        ∃ t, exec (.paused n id w.resumeCol) s = .next t ∧ dueFor t (s.tag k).sqid k .aborted 0)) ∧
    (∀ col k, s.emits n id = true → s.badMessage n id 6 = false → w.kind = .routine → w.tag = some k →
      (s.tag k).abortPending = false → (s.tag k).dropped = false → ∃ t v, exec (.paused n id col) s = .next t ∧ t.work id = some v ∧
        v.st = .paused ∧ v.resumeCol = (s.chan n).bus.a + (s.chan n).bus.b * 2 ^ 16 ∧
        (t.chan n).bus.running = false ∧ t.tags = s.tags ∧ t.luns = s.luns) ∧
    (∀ c entry word isEnd, ((c = .push n entry word ∧ isEnd = false) ∨ (c = .pushEnd n entry word ∧ isEnd = true)) →
      (s.chan n).inReset = false → (s.chan n).store = .loaded → (s.chan n).msgDrop = false →
      ((s.chan n).msgFull = true → exec c s = .next s) ∧
      ((s.chan n).msgs = [] → ∃ t, exec c s = .next t ∧ (t.chan n).msgs = [
          { data := word.setWidth 128, count := 1, entry := entry, first := !(s.chan n).msgOpen, last := isEnd,
            truncated := false }] ∧ (t.chan n).msgOpen = !isEnd ∧ (∀ j, j ≠ n → t.chan j = s.chan j)) ∧
      (∀ l m, (s.chan n).msgs = l ++ [m] → m.last = false → m.count < 4 → ∃ t, exec c s = .next t ∧
        (t.chan n).msgs = l ++ [{ m with
          data := m.data ||| (word.setWidth 128 <<< (32 * m.count)), count := m.count + 1, last := isEnd }] ∧
        (t.chan n).msgOpen = !isEnd))

/-- What the end of encoding, the data-out job and the decoder runs do (R64, R74, R83, R85, R163, R229, R232, R238). -/
def Obligations.EncodeAndDecodeComplete : Prop :=
  ∀ s : State,
    (∀ k f, s.hostWorks = true → liveTag s k → (s.tag k).opcode = some .programPage → (s.tag k).frame = some f →
      (s.tag k).st = .fetching → (s.tag k).delivered = 2 → (s.tag k).accLink = none →
      (s.programPayload f (s.tag k).packet (pkQuarterOut (s.tag k).packet)).1.2 = false →
      (∀ e, e ∈ s.works → e.2.tag = some k → e.2.forward = false) →
      ∃ t, exec (.programStaged k) s = .next t ∧ (t.tag k).st = .staged ∧ (t.frame f).staged = true ∧
        (t.frame f).seedAddr = pkAddr (s.tag k).packet ∧ (t.frame f).level = pkLevel (s.tag k).packet ∧
        (s.qStagedAck (s.tag k).sqid = false → (t.tag k).committed = false) ∧
        (s.qStagedAck (s.tag k).sqid = true → (t.tag k).committed = true ∧
          dueFor t (s.tag k).sqid k (s.tag k).status (s.tag k).info)) ∧
    (∀ n id w k f data, n < s.nch → s.hostOn = true → s.bestJob n = some (.dataOut id) → s.work id = some w →
      w.ch = n → w.role = .own → w.tag = some k → w.frame = some f → w.assist = 0 →
      (w.raw = true → data.length = w.length → (s.tag k).st ≠ .free → 
        ∃ t v, exec (.dataOut n data) s = .next t ∧ t.work id = some v ∧ v.st = .ended ∧
          (t.tag k).st = .delivering) ∧
      (∀ q rest, w.raw = false → w.quarters = q :: rest → data.length = w.cfg.bytes w.level →
        (s.chan n).hard.length < 2 → ∃ t, exec (.dataOut n data) s = .next t ∧
          t.work id = some { w with
            quarters := rest, quarter := some q, codes := w.codes ++ [q],
            st := if rest = [] then .decoding else .arrayDone } ∧
          (t.tag k).st = .decoding ∧ (t.chan n).hard = (s.chan n).hard ++ [(id, q)]) ∧
      (w.raw = false → 2 ≤ (s.chan n).hard.length → exec (.dataOut n data) s = .next s)) ∧
    (∀ id w k f q rest, s.hostOn = true → s.work id = some w → w.forward = false →
      (s.chan w.ch).hard = (id, q) :: rest → w.assist = 0 → w.role = .own →
      w.tag = some k → (s.tag k).abortPending = false → (s.tag k).dropped = false → w.frame = some f →
      w.codes = [q] → w.quarters = [] →
      w.failed = [] → w.lostQuarter = false → w.best = .success → (∀ e, e ∈ s.works → e.2.st ≠ .soft) →
      (s.decodeAt w.ch f (w.codeBase q) w.cfg w.level (s.chan w.ch).hardCfg w.addr).1.2.2 = false →
      ((s.decodeAt w.ch f (w.codeBase q) w.cfg w.level (s.chan w.ch).hardCfg w.addr).1.1.good = true →
        ∃ t, exec (.hardDecodeEnd id) s = .next t ∧ (t.tag k).st = .delivering ∧
          (t.tag k).status = (if w.attempt = 0 then .success else .successRetried) ∧
          (t.tag k).veer = max (s.tag k).veer w.attempt ∧ t.work id = none) ∧
      ((s.decodeAt w.ch f (w.codeBase q) w.cfg w.level (s.chan w.ch).hardCfg w.addr).1.1 = .failed → w.attempt < w.lastAttempt →
        ∃ t, exec (.hardDecodeEnd id) s = .next t ∧ (t.tag k).st = (s.tag k).st ∧
          (∃ v, t.work id = some v ∧ v.st = .waiting ∧ v.adm = .none ∧ v.attempt = w.attempt + 1 ∧
            v.quarters = [q] ∧ v.codes = []))) ∧
    (∀ id w k f q b, s.hostOn = true → s.work id = some w → w.forward = false → w.role = .own → w.tag = some k →
      (s.tag k).abortPending = false → (s.tag k).dropped = false → w.frame = some f → w.failed = [q] →
      w.st = .soft → w.assist ≠ 0 →
      w.assist < 4 → (s.chan w.ch).soft = some b → b.work = id → w.lostQuarter = false →
      (∀ e, e ∈ s.works → e.2.st = .soft → e.1 = id) →
      ∃ t, exec (.softDecodeEnd id) s = .next t ∧ (t.tag k).assists = max (s.tag k).assists w.assist ∧
        (((t.tag k).st = .delivering ∧ (t.tag k).status = weaker w.best .successSoft ∧ (t.chan w.ch).soft = none) ∨
          (∃ v, t.work id = some v ∧ v.st = .waiting ∧ v.assist = w.assist + 1 ∧ v.quarters = [q] ∧
            (t.tag k).st = (s.tag k).st)))

/-- What the commands of stripes do: descriptor fetches, additions into accumulators and rebuilds, and the solve pass
(R251, R252, R255, R258, R259). -/
def Obligations.StripeEngineComplete : Prop :=
  ∀ s : State,
    (∀ k r, k < 64 * s.nch → (s.tag k).sdPending = true → (s.tag k).st ≠ .free → s.mayIssue = true →
      s.freeReqTag = some r → (s.tag k).sdBytes = [] → (s.tag k).sd = none →
      s.slotFor (.pair ((s.tag k).sqid % s.build.pairs)) 3 = true →
      ((s.tag k).opcode = some .stripeParity ∨ (s.sdSlots < 512 ∧ s.olderSd k = false)) →
      (∀ e, e ∈ s.ep.reqs → e.2.user ≠ .sdFetch k) → ∃ t, exec (.sdFetch k) s = .next t ∧
        SMap.get t.ep.reqs r = some
          { user := .sdFetch k, pair := (s.tag k).sqid % s.build.pairs, addr := pkSdPtr (s.tag k).packet,
            len := min 64 (min s.mrrs (4096 - (pkSdPtr (s.tag k).packet).toNat % 4096)) } ∧
        s.ep.tx.length < t.ep.tx.length ∧
        t = { s with ep := t.ep, wheels := (s.slotGone (.pair ((s.tag k).sqid % s.build.pairs))).wheels }) ∧
    (∀ k d f, k < 64 * s.nch → s.hostWorks = true → liveTag s k → (s.tag k).sd = some d → (s.tag k).frame = none →
      (s.tag k).openWaits = true → (s.acc (pkByte (s.tag k).packet 49)).st = .closed → d.parityCount = 1 →
      s.freeFrameOf (aCh (pkAddr (s.tag k).packet)) = some f →
      ∃ t, exec (.sdFetch k) s = .next t ∧ dueFor t (s.tag k).sqid k .success 0 ∧ (t.frame f).st = .inUse ∧
        (t.acc (pkByte (s.tag k).packet 49)).st = .opened ∧
        (t.acc (pkByte (s.tag k).packet 49)).desc = some d ∧
        (t.acc (pkByte (s.tag k).packet 49)).pFrame = some f ∧
        (t.acc (pkByte (s.tag k).packet 49)).qFrame = none) ∧
    (∀ a k rest, s.hostWorks = true → a < 256 → (s.acc a).adding = k :: rest → s.slotFor .crossbar 2 = true →
      ∃ t, exec (.accAdditionEnd a) s = .next t ∧ (t.acc a).adding = rest ∧
        ((s.tag k).frame ≠ none → (t.tag k).adding = false) ∧
        (∀ j, j ≠ a → t.acc j = { s.acc j with used := (t.acc j).used, tainted := (t.acc j).tainted })) ∧
    (∀ id w i k r d, s.hostWorks = true → s.work id = some w → w.role = .member i → w.tag = some k →
      (s.tag k).rebuild = some r → (s.tag k).sd = some d → w.st = .ended → i < r.members.length →
      nth r.members i .running = .decoded →
      (∀ e, e ∈ s.works → e.2.tag = some k → e.2.st = .ended → w.stamp ≤ e.2.stamp) →
      (∃ j, j < r.members.length ∧ j ≠ i ∧ nth r.members j .running = .running) → s.slotFor .crossbar 3 = true →
      ∃ t, exec (.rebuildAdditionEnd id) s = .next t ∧
        (∃ v, (t.tag k).rebuild = some v ∧ v.members = setNth r.members i .added ∧ v.started = r.started ∧
          (d.dataCount < i → v.sumP = r.sumP) ∧ (i = d.dataCount → v.sumQ = r.sumQ)) ∧
        (t.tag k).st = (s.tag k).st ∧ t.works = s.works ∧ (∀ j, j ≠ k → t.tag j = s.tag j)) ∧
    (∀ k r d l f, s.hostWorks = true → (s.tag k).rebuild = some r → (s.tag k).sd = some d → r.solving = true →
      r.solve d (s.tag k).addressed = some l → (s.tag k).opcode = some .readPage → r.wants = 0 →
      r.frameA = some f →
      ∃ t, exec (.rebuildSolveEnd k) s = .next t ∧ (t.tag k).st = .delivering ∧ (t.tag k).status = .successRebuilt ∧
        (t.tag k).frame = some f ∧ (t.tag k).rebuild = none ∧
        (t.tag k).info = BitVec.ofNat 32 ((r.pick (fun o => o == .added)).length +
          256 * (r.lost.filter (fun i => decide (i < d.dataCount))).length))

/-- What a ready timer that passes its limit and the feature access job do (R104, R105, R143, R160). -/
def Obligations.TimeoutsAndAccessJobsComplete : Prop :=
  ∀ (s : State) (n : Nat), n < s.nch → s.hostOn = true →
    (∀ l o, l < 16 → (s.chan n).st ≠ .training → (s.lun (lunKey n l)).op = some o → o.timedOut = false →
      (o.works = [] ∨ (∃ id w k, o.works = [id] ∧ s.work id = some w ∧ w.kind = .erase ∧ w.tag = some k ∧
        liveTag s k)) →
      ∃ t, exec (.readyTimeout n l) s = .next t ∧
        (t.lun (lunKey n l)).held = true ∧ (t.lun (lunKey n l)).op = some { o with timedOut := true, works := [] } ∧
        t.bit (chanPage n + 0xA8) 4 = true ∧
        (∀ id w k, o.works = [id] → s.work id = some w → w.kind = .erase → w.tag = some k → liveTag s k →
          dueFor t (s.tag k).sqid k .timeout 0 ∧ t.work id = none)) ∧
    (∀ l o, l < 16 → (s.chan n).st = .training → s.ownResets n ≠ [] → (s.lun (lunKey n l)).op = some o →
      o.timedOut = false → ∃ t, exec (.readyTimeout n l) s = .next t ∧ (t.chan n).st = .unconfigured ∧
        (t.lun (lunKey n l)).held = true ∧ (t.chan n).inReset = false) ∧
    (∀ l id w k, l < 16 → s.work id = some w → w.ch = n → w.lun = l →
      (w.kind = .access ∧ s.bestJob n = some (.access id) ∨
        (w.kind = .access ∨ w.kind = .routine) ∧ s.waitsReady n = true ∧ (s.chan n).bus.work = some id) →
      (s.lun (lunKey n l)).op = none → w.tag = some k → liveTag s k →
      ∃ t, exec (.readyTimeout n l) s = .next t ∧ dueFor t (s.tag k).sqid k .timeout 0 ∧
        (t.lun (lunKey n l)).held = true ∧
        (t.lun (lunKey n l)).op = some { ArrayOp.start w.kind [] with timedOut := true }) ∧
    (∀ id w k input, s.bestJob n = some (.access id) → s.work id = some w → w.tag = some k → liveTag s k →
      (pkOpcode (s.tag k).packet = some .getFeature → input.length = 4 →
        ∃ t, exec (.featureAccessJob n input) s = .next t ∧
          dueFor t (s.tag k).sqid k .success (BitVec.ofNat 32 (leNat input)) ∧ t.work id = none) ∧
      (pkOpcode (s.tag k).packet = some .setFeature →
        ∃ t, exec (.featureAccessJob n input) s = .next t ∧ dueFor t (s.tag k).sqid k .success 0 ∧
          t.work id = none) ∧
      (∀ f, pkOpcode (s.tag k).packet = some .readParameterPage → w.frame = some f →
        input.length = (if s.bit (geomAt n (targetOf w.lun)) 29 then 512 else pkLen (s.tag k).packet) →
        ∃ t, exec (.featureAccessJob n input) s = .next t ∧ (t.tag k).st = .delivering ∧
          (t.tag k).status = .success ∧ t.work id = none))

/-- What presence and the attention button of a bay do (R388, R395, R398, R402). -/
def Obligations.BayPresenceComplete : Prop :=
  ∀ (s : State) (b : Nat), s.bayLive b = true →
    ((s.bay b).st = .empty → ∃ t, exec (.presenceSeen b) s = .next t ∧ (t.bay b).st = .debounce ∧
      (t.bay b).prsnt = true ∧ (∀ j, j ≠ b → t.bay j = s.bay j) ∧ (∀ a, traceReg a = false → t.reg a = s.reg a) ∧
      t = { s with bays := t.bays, regs := t.regs, trace := t.trace }) ∧
    ((s.bay b).st = .debounce → ∃ t, exec (.debounceEnd b) s = .next t ∧ (t.bay b).st = .off ∧
      t.bit (bayAt b + 8) 0 = true ∧ t.fld (bayAt b + 0x14) 15 0 = min (s.fld (bayAt b + 0x14) 15 0 + 1) 0xFFFF ∧
      (s.hostWorks = true → s.ph.ready = true → s.bit (bayAt b + 8) 0 = false → isPending t (768 + b) = true) ∧
      (∀ j, j ≠ b → t.bay j = s.bay j) ∧
      t = { s with bays := t.bays, regs := t.regs, irq := t.irq, trace := t.trace, counters := t.counters,
                   saturated := t.saturated }) ∧
    ((s.bay b).st = .debounce → ∃ t, exec (.debouncePresenceHigh b) s = .next t ∧ (t.bay b).st = .empty ∧
      (t.bay b).prsnt = false ∧ (∀ j, j ≠ b → t.bay j = s.bay j) ∧
      t = { s with bays := t.bays, regs := t.regs, trace := t.trace }) ∧
    ((s.bay b).st = .off ∨ (s.bay b).st = .ramping ∨ (s.bay b).st = .fault →
      ∃ t, exec (.presenceLost b) s = .next t ∧ (t.bay b).st = .empty ∧ (t.bay b).prsnt = false ∧
        (t.bay b).powerPending = false ∧ t.bit (bayAt b + 8) 1 = true ∧ (∀ j, j ≠ b → t.bay j = s.bay j) ∧
        t = { s with bays := t.bays, regs := t.regs, irq := t.irq, trace := t.trace, counters := t.counters,
                     saturated := t.saturated }) ∧
    ((s.bay b).st = .on → ∃ t, exec (.presenceLost b) s = .next t ∧ (t.bay b).st = .empty ∧
      (t.bay b).prsnt = false ∧ (∀ j, j ≠ b → t.bay j = s.bay j)) ∧
    ((s.bay b).st = .empty ∨ (s.bay b).st = .debounce → exec (.presenceLost b) s = .next s) ∧
    ((s.bay b).btnArmed = true → ∃ t, exec (.attnButtonPress b) s = .next t ∧
      t.bay b = { s.bay b with btn := true, btnArmed := false } ∧ t.bit (bayAt b + 8) 6 = true ∧
      (s.hostWorks = true → s.ph.ready = true → s.bit (bayAt b + 8) 6 = false → isPending t (768 + b) = true) ∧
      t = { s with bays := t.bays, regs := t.regs, irq := t.irq, trace := t.trace, counters := t.counters,
                   saturated := t.saturated }) ∧
    ((s.bay b).btnArmed = false → exec (.attnButtonPress b) s = .next s) ∧
    exec (.attnButtonRelease b) s = .next (s.setBay b { s.bay b with btn := false, btnArmed := true })

/-- What the power controller of a bay does (R388 to R392, R397, R400). -/
def Obligations.BayPowerComplete : Prop :=
  ∀ (s : State) (b : Nat), s.bayLive b = true →
    (s.serving = true → (s.bay b).st = .off → (bayChans b).all (fun n => (s.chan n).fenced) = true →
      (s.rampFree = true → s.rampWaiter = none → ∃ t, exec (.powerOn b) s = .next t ∧ (t.bay b).st = .ramping ∧
        (∀ j, j ≠ b → t.bay j = s.bay j) ∧ t = { s with bays := t.bays, regs := t.regs, trace := t.trace }) ∧
      ((s.rampFree = false ∨ s.rampWaiter ≠ none) →
        exec (.powerOn b) s = .next (s.setBay b { s.bay b with powerPending := true }))) ∧
    (s.serving = true → ((s.bay b).st ≠ .off ∨ (bayChans b).all (fun n => (s.chan n).fenced) = false) →
      exec (.powerOn b) s = .next (s.setBit (bayAt b + 4) 31 true)) ∧
    (s.rampFree = true → s.rampWaiter = some b → ∃ t, exec (.rampStart b) s = .next t ∧ (t.bay b).st = .ramping ∧
      (t.bay b).powerPending = false ∧ (∀ j, j ≠ b → t.bay j = s.bay j) ∧
      t = { s with bays := t.bays, regs := t.regs, trace := t.trace }) ∧
    ((s.rampFree = false ∨ s.rampWaiter ≠ some b) → exec (.rampStart b) s = .next s) ∧
    (s.serving = true → ((s.bay b).st = .ramping ∨ ((s.bay b).st = .off ∧ (s.bay b).powerPending = true)) →
      ∃ t, exec (.powerOff b) s = .next t ∧ (t.bay b).st = .off ∧ (t.bay b).powerPending = false ∧
        (∀ j, j ≠ b → t.bay j = s.bay j) ∧ t = { s with bays := t.bays, regs := t.regs, trace := t.trace }) ∧
    (s.serving = true → (s.bay b).st = .on → (bayChans b).all (fun n => s.powerQuiet n) = true →
      ∃ t, exec (.powerOff b) s = .next t ∧ (t.bay b).st = .off ∧
        (t.bay b).pwrGood = (s.bay b).pwrGood ∧ (∀ j, j ≠ b → t.bay j = s.bay j)) ∧
    (s.serving = true → ((s.bay b).st = .empty ∨ (s.bay b).st = .debounce ∨ (s.bay b).st = .fault ∨
        ((s.bay b).st = .on ∧ (bayChans b).all (fun n => s.powerQuiet n) = false)) →
      exec (.powerOff b) s = .next (s.setBit (bayAt b + 4) 31 true)) ∧
    (s.serving = true → (s.bay b).st = .fault → ∃ t, exec (.clearFault b) s = .next t ∧ (t.bay b).st = .off ∧
      (∀ j, j ≠ b → t.bay j = s.bay j) ∧ t = { s with bays := t.bays, regs := t.regs, trace := t.trace }) ∧
    (s.serving = true → (s.bay b).st ≠ .fault →
      exec (.clearFault b) s = .next (s.setBit (bayAt b + 4) 31 true)) ∧
    ((s.bay b).st = .ramping → ∃ t, exec (.powerGoodStable b) s = .next t ∧ (t.bay b).st = .on ∧
      (t.bay b).pwrGood = true ∧ (∀ j, j ≠ b → t.bay j = s.bay j)) ∧
    ((s.bay b).st = .ramping → ∃ t, exec (.pgTimeout b) s = .next t ∧ (t.bay b).st = .fault ∧
      t.fld (bayAt b + 8) 17 16 = 2 ∧ t.bit (bayAt b + 8) 4 = true ∧
      t.fld (bayAt b + 0x14) 31 16 = min (s.fld (bayAt b + 0x14) 31 16 + 1) 0xFFFF ∧
      (∀ j, j ≠ b → t.bay j = s.bay j) ∧
      t = { s with bays := t.bays, regs := t.regs, irq := t.irq, trace := t.trace, counters := t.counters,
                   saturated := t.saturated }) ∧
    ((s.bay b).st = .on → (s.bay b).glitch = false →
      (s.fld (bayAt b + 0x10) 9 0 = 0 → ∃ t, exec (.powerLost b) s = .next t ∧ (t.bay b).st = .fault ∧
        (∀ j, j ≠ b → t.bay j = s.bay j)) ∧
      (s.fld (bayAt b + 0x10) 9 0 ≠ 0 → ∃ t, exec (.powerLost b) s = .next t ∧
        t.bay b = { s.bay b with glitch := true, pwrGood := false } ∧ (∀ j, j ≠ b → t.bay j = s.bay j))) ∧
    ((s.bay b).st ≠ .on ∨ (s.bay b).glitch = true → exec (.powerLost b) s = .next s) ∧
    ((s.bay b).st = .on → (s.bay b).glitch = true →
      (∃ t, exec (.glitchWindowEnd b true) s = .next t ∧
        t.bay b = { s.bay b with glitch := false, pwrGood := true } ∧ t.bit (bayAt b + 8) 5 = true ∧
        (∀ n ∈ bayChans b, (t.chan n).glitch = false) ∧ (∀ j, j ≠ b → t.bay j = s.bay j)) ∧
      (∃ t, exec (.glitchWindowEnd b false) s = .next t ∧ (t.bay b).st = .fault ∧
        (∀ j, j ≠ b → t.bay j = s.bay j)))

/-- What the control commands of a descriptor channel do (R297, R301, R302, R316, R320, R321, R323, R326). -/
def Obligations.DmaControlCommandsComplete : Prop :=
  ∀ (s : State) (e c : Nat), e < 8 → c < 64 → s.serving = true →
    (s.packetChan (64 * e + c) = false → (s.dmaChan (64 * e + c)).st = .idle →
      s.bit (0x100040 + (64 * e + c) * 0x400) 4 = true → s.bme = true →
      ∃ t, exec (.dmaStart e c) s = .next t ∧ (t.dmaChan (64 * e + c)).st = .running ∧
        (t.dmaChan (64 * e + c)).loaded = false ∧
        (t.dmaChan (64 * e + c)).loading = some (BitVec.ofNat 64 (s.dmaDesc (64 * e + c) / 64 * 64)) ∧
        (t.dmaChan (64 * e + c)).credits =
          min (s.maxCredits (64 * e + c)) (s.fld (0x100058 + (64 * e + c) * 0x400) 16 13) ∧
        (t.dmaChan (64 * e + c)).hops = 0 ∧ (∀ g, g ≠ 64 * e + c → t.dmaChan g = s.dmaChan g) ∧
        t = { s with dma := t.dma }) ∧
    (s.packetChan (64 * e + c) = false → (s.dmaChan (64 * e + c)).st = .idle →
      s.bit (0x100040 + (64 * e + c) * 0x400) 4 = false → (s.dmaChan (64 * e + c)).user = none →
      ∃ t, exec (.dmaStart e c) s = .next t ∧ t.dmaDesc (64 * e + c) = 0 ∧
        (s.badFormat (s.desc (64 * e + c)) = true → (t.dmaChan (64 * e + c)).st = .halted ∧
          (t.dmaChan (64 * e + c)).status = .format ∧ isPending t (256 + (64 * e + c)) = true) ∧
        (s.badFormat (s.desc (64 * e + c)) = false → s.bme = true → s.paceMode (64 * e + c) = 0 →
          (t.dmaChan (64 * e + c)).st = .running ∧ (t.dmaChan (64 * e + c)).loaded = true ∧
          (t.dmaChan (64 * e + c)).moved = 0)) ∧
    ((s.packetChan (64 * e + c) = true ∨ (s.dmaChan (64 * e + c)).st ≠ .idle) →
      exec (.dmaStart e c) s = .next (s.setBit (0x100044 + (64 * e + c) * 0x400) 16 true)) ∧
    ((s.dmaChan (64 * e + c)).st ≠ .idle → (s.dmaChan (64 * e + c)).user = none →
      ∃ t, exec (.dmaStop e c) s = .next t ∧ (t.dmaChan (64 * e + c)).stop = true ∧
        (t.dmaChan (64 * e + c)).st = (s.dmaChan (64 * e + c)).st ∧
        (∀ r, (t.dmaChan (64 * e + c)).record = some r → r.ended = true) ∧
        (∀ g, g ≠ 64 * e + c → t.dmaChan g = s.dmaChan g) ∧ t = { s with dma := t.dma }) ∧
    ((s.dmaChan (64 * e + c)).st = .idle → exec (.dmaStop e c) s = .next s) ∧
    (s.packetChan (64 * e + c) = false → (s.dmaChan (64 * e + c)).st ≠ .idle →
      (s.dmaChan (64 * e + c)).st ≠ .halted → (s.dmaChan (64 * e + c)).record = none →
      ((s.dmaChan (64 * e + c)).burst ≠ none → ∃ t, exec (.dmaAbort e c) s = .next t ∧
        t.dmaChan (64 * e + c) = { s.dmaChan (64 * e + c) with abort := true } ∧
        (∀ g, g ≠ 64 * e + c → t.dmaChan g = s.dmaChan g) ∧ t = { s with dma := t.dma }) ∧
      ((s.dmaChan (64 * e + c)).burst = none → (s.desc (64 * e + c)).record = false →
        ∃ t, exec (.dmaAbort e c) s = .next t ∧ (t.dmaChan (64 * e + c)).st = .idle ∧
          (t.dmaChan (64 * e + c)).status = .aborted ∧ (∀ g, g ≠ 64 * e + c → t.dmaChan g = s.dmaChan g))) ∧
    (s.packetChan (64 * e + c) = false → (s.dmaChan (64 * e + c)).st = .idle → exec (.dmaAbort e c) s = .next s) ∧
    (s.packetChan (64 * e + c) = false → (s.dmaChan (64 * e + c)).st = .halted → s.bme = true →
      ((s.dmaChan (64 * e + c)).status = .hostError ∨ (s.dmaChan (64 * e + c)).status = .chainLoop) →
      ∃ t, exec (.dmaResume e c) s = .next t ∧ t.dmaChan (64 * e + c) = { s.dmaChan (64 * e + c) with
          st := .running
          hops := if (s.dmaChan (64 * e + c)).status = .chainLoop then 1 else (s.dmaChan (64 * e + c)).hops } ∧
        (∀ g, g ≠ 64 * e + c → t.dmaChan g = s.dmaChan g) ∧ t = { s with dma := t.dma }) ∧
    ((s.packetChan (64 * e + c) = true ∨ (s.dmaChan (64 * e + c)).st ≠ .halted) →
      exec (.dmaResume e c) s = .next (s.setBit (0x100044 + (64 * e + c) * 0x400) 16 true)) ∧
    (∃ t, exec (.pacingWithdraw e c) s = .next t ∧ (t.dmaChan (64 * e + c)).credits = 0 ∧
      (t.dmaChan (64 * e + c)).needCredit = true ∧ (∀ g, g ≠ 64 * e + c → t.dmaChan g = s.dmaChan g) ∧
      ((s.dmaChan (64 * e + c)).st = .running → (s.dmaChan (64 * e + c)).loaded = true →
        (s.dmaChan (64 * e + c)).burst = none → s.dmaMore (64 * e + c) = true → s.paceMode (64 * e + c) ≠ 0 →
        (t.dmaChan (64 * e + c)).st = .waiting) ∧ t = { s with dma := t.dma })

/-- What the shared-path slots, descriptor loads, list loads and bursts of a DMA channel do (R22, R302, R306, R308,
R310, R313, R315). -/
def Obligations.DmaTransferCommandsComplete : Prop :=
  ∀ (s : State) (e c : Nat), e < 8 → c < 64 → s.hostWorks = true →
    (∀ k a, s.dmaStep (64 * e + c) = .desc → (s.dmaChan (64 * e + c)).loading = some a →
      (s.dmaChan (64 * e + c)).granted = true → s.freeReqTag = some k →
      ∃ t, exec (.descriptorFetch e c) s = .next t ∧
        SMap.get t.ep.reqs k =
          some { user := .dmaDesc (64 * e + c), pair := e % s.build.pairs, addr := a, len := 64 } ∧
        t.ep.tx = s.ep.tx ++ [.memRead (e % s.build.pairs) k a 64] ∧
        t.dmaChan (64 * e + c) = { s.dmaChan (64 * e + c) with granted := false } ∧
        t = { s with dma := t.dma, ep := t.ep }) ∧
    (∀ k a, s.dmaStep (64 * e + c) = .list → (s.dmaChan (64 * e + c)).listNext = some a →
      (s.dmaChan (64 * e + c)).granted = true → s.freeReqTag = some k →
      ∃ t, exec (.dmaBurst e c) s = .next t ∧
        SMap.get t.ep.reqs k =
          some { user := .dmaList (64 * e + c), pair := e % s.build.pairs, addr := a, len := 16 } ∧
        t.ep.tx = s.ep.tx ++ [.memRead (e % s.build.pairs) k a 16] ∧
        t = { s with dma := t.dma, ep := t.ep }) ∧
    (∀ k b p a n rest, s.dmaStep (64 * e + c) = .read → (s.dmaChan (64 * e + c)).burst = some b →
      b.todo = (p, a, n) :: rest → (s.dmaChan (64 * e + c)).granted = true → s.freeReqTag = some k →
      ∃ t, exec (.dmaBurst e c) s = .next t ∧
        SMap.get t.ep.reqs k = some
          { user := .dmaData (64 * e + c) p, pair := e % s.build.pairs, addr := BitVec.ofNat 64 a, len := n } ∧
        (t.dmaChan (64 * e + c)).burst = some { b with todo := rest, outstanding := b.outstanding + 1 } ∧
        t = { s with dma := t.dma, ep := t.ep }) ∧
    (∀ b, s.dmaStep (64 * e + c) = .deliver → (s.dmaChan (64 * e + c)).burst = some b →
      (s.wantsPair (64 * e + c) = true → (s.dmaChan (64 * e + c)).granted = true) →
      (s.wantsCross (64 * e + c) = true → (s.dmaChan (64 * e + c)).crossGrant = true) →
      (s.dmaChan (64 * e + c)).user = none → (s.dmaChan (64 * e + c)).abort = false →
      ∃ t, exec (.dmaBurst e c) s = .next t ∧ (t.dmaChan (64 * e + c)).moved = b.pos + b.len ∧
        (t.dmaChan (64 * e + c)).burst = none ∧ (∀ g, g ≠ 64 * e + c → t.dmaChan g = s.dmaChan g) ∧
        t.rings = s.rings ∧ t.queues = s.queues ∧ t.tags = s.tags ∧ t.frames = s.frames ∧ t.works = s.works) ∧
    (s.dmaStep (64 * e + c) = .deliver → (s.dmaChan (64 * e + c)).burst = none →
      (s.wantsPair (64 * e + c) = true → (s.dmaChan (64 * e + c)).granted = true) →
      (s.wantsCross (64 * e + c) = true → (s.dmaChan (64 * e + c)).crossGrant = true) →
      (s.dmaChan (64 * e + c)).user = none →
      (s.burstFrames (64 * e + c) (s.curBurst (64 * e + c))).any (fun q => s.denied (64 * e + c) q.1 q.2) = true →
      ∃ t, exec (.dmaBurst e c) s = .next t ∧ (t.dmaChan (64 * e + c)).st = .halted ∧
        (t.dmaChan (64 * e + c)).status = .frameDenied ∧ (t.dmaChan (64 * e + c)).moved =
          (s.dmaChan (64 * e + c)).moved ∧ t.words = s.words ∧ isPending t (256 + (64 * e + c)) = true) ∧
    (∀ k, k < 8 → s.pathWaiters (.pair k) = [64 * e + c] → s.otherPrios (.pair k) = [] →
      ∃ t, exec (.wheelGrant (.pair k)) s = .next t ∧
      t.dmaChan (64 * e + c) = { s.dmaChan (64 * e + c) with
        granted := true, prio := some (s.dmaPrio (64 * e + c)) } ∧
      SMap.getD t.wheels k 0 = (SMap.getD s.wheels k 0 + 1) % 16 ∧
      (∀ g, g ≠ 64 * e + c → t.dmaChan g = s.dmaChan g) ∧ t = { s with dma := t.dma, wheels := t.wheels }) ∧
    (s.pathWaiters .crossbar = [64 * e + c] → s.otherPrios .crossbar = [] →
      ∃ t, exec (.wheelGrant .crossbar) s = .next t ∧
      t.dmaChan (64 * e + c) = { s.dmaChan (64 * e + c) with
        crossGrant := true, prio := some (s.dmaPrio (64 * e + c)) } ∧
      SMap.getD t.wheels 8 0 = (SMap.getD s.wheels 8 0 + 1) % 16 ∧ t = { s with dma := t.dma, wheels := t.wheels }) ∧
    (∀ p, s.pathWaiters p = [] → exec (.wheelGrant p) s = .next s) ∧
    (∀ i, i < 16 → s.bit (0x180100 + e * 0x1000 + 4 * i) 31 = true → ∃ t, exec (.dmaTimerTick e i) s = .next t ∧
      ((s.dmaChan (64 * e + c)).st ≠ .idle → (s.dmaChan (64 * e + c)).burst ≠ none →
        s.paceMode (64 * e + c) = 1 → s.fld (0x100058 + (64 * e + c) * 0x400) 6 3 = i →
        t.dmaChan (64 * e + c) = { s.dmaChan (64 * e + c) with
          credits := min (s.maxCredits (64 * e + c)) ((s.dmaChan (64 * e + c)).credits + 1) }) ∧
      (s.paceMode (64 * e + c) ≠ 1 → t.dmaChan (64 * e + c) = s.dmaChan (64 * e + c)) ∧ t = { s with dma := t.dma })

/-- How a descriptor of a descriptor channel ends, and how its record is written (R317, R318, R320, R324). -/
def Obligations.DescriptorEndsComplete : Prop :=
  ∀ (s : State) (e c : Nat), e < 8 → c < 64 → s.hostWorks = true → (s.dmaChan (64 * e + c)).user = none →
    ((s.dmaChan (64 * e + c)).loaded = true → (s.dmaChan (64 * e + c)).st = .running →
      (s.dmaChan (64 * e + c)).burst = none → (s.dmaChan (64 * e + c)).record = none →
      s.dmaMore (64 * e + c) = false → (s.desc (64 * e + c)).record = false → (∀ g, g < 512 → s.paceMode g = 0) →
      ∃ t, exec (.descriptorEnd e c) s = .next t ∧
        (t.dmaChan (64 * e + c)).status = (if (s.dmaChan (64 * e + c)).poisoned then .dataPoisoned else .ok) ∧
        (((s.desc (64 * e + c)).next = 0 ∨ (s.dmaChan (64 * e + c)).stop = true) →
          (t.dmaChan (64 * e + c)).st = .idle) ∧
        ((s.desc (64 * e + c)).next ≠ 0 → (s.dmaChan (64 * e + c)).stop = false → s.bme = true →
          (s.dmaChan (64 * e + c)).hops + 1 ≤ s.eddyLimit (64 * e + c) →
          (t.dmaChan (64 * e + c)).st = .running ∧ (t.dmaChan (64 * e + c)).loaded = false ∧
          (t.dmaChan (64 * e + c)).loading = some (BitVec.ofNat 64 (s.desc (64 * e + c)).next) ∧
          (t.dmaChan (64 * e + c)).hops = (s.dmaChan (64 * e + c)).hops + 1)) ∧
    ((s.dmaChan (64 * e + c)).loaded = true → (s.dmaChan (64 * e + c)).st = .running →
      (s.dmaChan (64 * e + c)).burst = none → (s.dmaChan (64 * e + c)).record = none →
      s.dmaMore (64 * e + c) = false → (s.desc (64 * e + c)).record = false →
      (s.desc (64 * e + c)).next ≠ 0 → (s.dmaChan (64 * e + c)).stop = false → (∀ g, g < 512 → s.paceMode g = 0) →
      s.eddyLimit (64 * e + c) < (s.dmaChan (64 * e + c)).hops + 1 →
      ∃ t, exec (.descriptorEnd e c) s = .next t ∧ (t.dmaChan (64 * e + c)).status = .chainLoop ∧
        isPending t (256 + (64 * e + c)) = true) ∧
    (∀ r, (s.dmaChan (64 * e + c)).st = .waiting → (s.dmaChan (64 * e + c)).record = some r → r.ended = true →
      s.ringOn (s.desc (64 * e + c)).ring = true → s.ringFull (s.desc (64 * e + c)).ring = false →
      s.mayIssue = true → ∃ t, exec (.recordWrite e c) s = .next t ∧
        (t.ring (s.desc (64 * e + c)).ring).tail =
          ((s.ring (s.desc (64 * e + c)).ring).tail + 1) % s.ringSize (s.desc (64 * e + c)).ring ∧
        (t.ring (s.desc (64 * e + c)).ring).phase =
          (if ((s.ring (s.desc (64 * e + c)).ring).tail + 1) % s.ringSize (s.desc (64 * e + c)).ring = 0
           then !(s.ring (s.desc (64 * e + c)).ring).phase else (s.ring (s.desc (64 * e + c)).ring).phase) ∧
        (t.dmaChan (64 * e + c)).st = .idle ∧ (t.dmaChan (64 * e + c)).record = none ∧
        s.ep.tx.length < t.ep.tx.length ∧
        t.wheels = (s.slotsGone (.pair (s.dmaPair (64 * e + c))) 1).wheels ∧
        t = { s with rings := t.rings, dma := t.dma, ep := t.ep, wheels := t.wheels }) ∧
    (∀ r, (s.dmaChan (64 * e + c)).st = .waiting → (s.dmaChan (64 * e + c)).record = some r →
      s.ringOn (s.desc (64 * e + c)).ring = true → s.ringFull (s.desc (64 * e + c)).ring = true → s.bme = true →
      ∃ t, exec (.recordWrite e c) s = .next t ∧ t.dmaChan (64 * e + c) = s.dmaChan (64 * e + c) ∧
        t = { s with dma := t.dma })

/-- What the writes of the DMA engines' configuration do (R297, R318, R491). -/
def Obligations.DmaConfigurationWritesComplete : Prop :=
  ∀ s : State, s.serving = true →
    (∀ e val, e < 8 → ∃ t, exec (.packetChannelsWrite e val) s = .next t ∧
      t.fld (0x180000 + e * 0x1000) 31 16 = wfld val 31 16 ∧
      ((∀ c, c < 64 → (s.dmaChan (64 * e + c)).st = .idle) →
        t.fld (0x180000 + e * 0x1000) 6 0 = wfld val 6 0) ∧
      (∀ c, c < 64 → (s.dmaChan (64 * e + c)).st ≠ .idle →
        t.fld (0x180000 + e * 0x1000) 6 0 = s.fld (0x180000 + e * 0x1000) 6 0 ∧
        t.bit (0x180004 + e * 0x1000) 31 = true) ∧ t = { s with regs := t.regs }) ∧
    (∀ k val, k < 64 → (wfld val 15 0 < s.ringSize k →
        exec (.ringHeadWrite k val) s = .next (s.setReg (0x190010 + k * 0x100) (BitVec.ofNat 32 (wfld val 15 0)))) ∧
      (s.ringSize k ≤ wfld val 15 0 →
        exec (.ringHeadWrite k val) s = .next (s.setBit (0x190014 + k * 0x100) 18 true))) ∧
    (∀ k val, k < 64 → bitOf val.toNat 0 = true → s.ringOn k = false → ∃ t, exec (.ringEnable k val) s = .next t ∧
      t.ringOn k = true ∧ t.reg (0x190010 + k * 0x100) = 0 ∧ t.ring k = { tail := 0, phase := true, since := 0 } ∧
      t.fld (0x19000C + k * 0x100) 31 20 = wfld val 31 20 ∧ t.fld (0x19000C + k * 0x100) 15 8 = wfld val 15 8 ∧
      (∀ j, j ≠ k → t.ring j = s.ring j) ∧ t = { s with regs := t.regs, rings := t.rings }) ∧
    (∀ k val, k < 64 → bitOf val.toNat 0 = false → s.ringOn k = true → ∃ t, exec (.ringEnable k val) s = .next t ∧
      (s.ringAwaited k = false → t.ringOn k = false) ∧
      (s.ringAwaited k = true → t.ringOn k = true ∧ t.bit (0x190014 + k * 0x100) 18 = true) ∧
      t = { s with regs := t.regs }) ∧
    (∀ e c val, e < 8 → c < s.packetChannels e →
      (∀ j, j < 32 → (bitOf val.toNat j = s.offline (64 * e + (if 32 ≤ c then 32 else 0) + j) ↔
        (if 32 ≤ c then 32 else 0) + j ≠ c)) →
      ∃ t, exec (.dmaOfflineWrite e (decide (32 ≤ c)) val) s = .next t ∧
        (s.offline (64 * e + c) = false →
          (∃ k, k < s.packetChannels e ∧ k ≠ c ∧ s.offline (64 * e + k) = false) →
          t.offline (64 * e + c) = true ∧ t.bit 8 31 = s.bit 8 31) ∧
        (s.offline (64 * e + c) = false →
          (∀ k, k < s.packetChannels e → k ≠ c → s.offline (64 * e + k) = true) →
          t.offline (64 * e + c) = false ∧ t.bit 8 31 = true) ∧
        (s.offline (64 * e + c) = true → (s.dmaChan (64 * e + c)).st = .idle →
          t.offline (64 * e + c) = false ∧ t.bit 8 31 = s.bit 8 31) ∧
        (s.offline (64 * e + c) = true → (s.dmaChan (64 * e + c)).st ≠ .idle →
          t.offline (64 * e + c) = true ∧ t.bit 8 31 = true) ∧
        (∀ k, k < 64 → k ≠ c → t.offline (64 * e + k) = s.offline (64 * e + k)) ∧ t = { s with regs := t.regs })

/-- How a data phase of a packet starts and ends (R113, R298). -/
def Obligations.DataPhasesComplete : Prop :=
  ∀ (s : State) (e c : Nat), e < 8 → c < 64 → s.hostWorks = true →
    (∀ k, (∀ j r, (s.tag j).rebuild = some r → r.solving = true → r.wants ≠ 0 ∨ r.needsSolve = true) →
      s.phaseWaits e k = true → (∀ j, s.phaseWaits e j = true → j = k) → pkList (s.tag k).packet = false →
      pkLen (s.tag k).packet < 2 ^ 24 → s.bme = true → c < s.packetChannels e →
      (s.dmaChan (64 * e + c)).st = .idle → s.offline (64 * e + c) = false →
      (∀ i, i < c → (s.dmaChan (64 * e + i)).st ≠ .idle ∨ s.offline (64 * e + i) = true) →
      ∃ t, exec (.dataPhaseStart e) s = .next t ∧ (t.dmaChan (64 * e + c)).user = some k ∧
        (t.dmaChan (64 * e + c)).st = .running ∧ (t.dmaChan (64 * e + c)).loaded = true ∧
        (t.dmaChan (64 * e + c)).moved = 0 ∧ (t.dmaChan (64 * e + c)).isMeta = false ∧
        t.tag k = { s.tag k with dataPhase := true } ∧ (∀ g, g ≠ 64 * e + c → t.dmaChan g = s.dmaChan g) ∧
        (∀ j, j ≠ k → t.tag j = s.tag j)) ∧
    (∀ k, (s.dmaChan (64 * e + c)).user = some k → (s.dmaChan (64 * e + c)).loaded = true →
      (s.dmaChan (64 * e + c)).st = .running → (s.dmaChan (64 * e + c)).burst = none →
      s.dmaMore (64 * e + c) = false → (s.dmaChan (64 * e + c)).poisoned = false →
      ((s.tag k).hasMeta = true → (s.dmaChan (64 * e + c)).isMeta = true) →
      ((s.tag k).st = .delivering → (s.tag k).poisoned = false → liveTag s k → ∃ t, exec (.dataPhaseEnd e c) s = .next t ∧
        dueFor t (s.tag k).sqid k (s.tag k).status (s.tag k).info) ∧
      ((s.tag k).st = .fetching → (s.tag k).opcode ≠ some .runRoutine → ∃ t,
        exec (.dataPhaseEnd e c) s = .next t ∧ t.tag k = { s.tag k with delivered := 2 } ∧
          (t.dmaChan (64 * e + c)).st = .idle ∧ (t.dmaChan (64 * e + c)).user = none ∧
          (t.dmaChan (64 * e + c)).status = .ok ∧ (∀ j, j ≠ k → t.tag j = s.tag j)) ∧
      ((s.tag k).st = .fetching → (s.tag k).opcode = some .runRoutine → ∃ t,
        exec (.dataPhaseEnd e c) s = .next t ∧ (t.tag k).st = .queued ∧ (t.tag k).delivered = 2)) ∧
    (∀ k, (s.dmaChan (64 * e + c)).user = some k → (s.dmaChan (64 * e + c)).loaded = true →
      (s.dmaChan (64 * e + c)).st = .running → (s.dmaChan (64 * e + c)).burst = none →
      s.dmaMore (64 * e + c) = false → (s.dmaChan (64 * e + c)).poisoned = true → liveTag s k →
      ((s.tag k).st = .delivering → (s.tag k).hasMeta = true → (s.dmaChan (64 * e + c)).isMeta = false →
        ∃ t, exec (.dataPhaseEnd e c) s = .next t ∧
          t.tag k = { s.tag k with delivered := 1, poisoned := true } ∧ (t.dmaChan (64 * e + c)).isMeta = true ∧
          (t.dmaChan (64 * e + c)).user = some k) ∧
      (((s.tag k).st = .fetching ∨ (s.tag k).hasMeta = false ∨ (s.dmaChan (64 * e + c)).isMeta = true) →
        (s.tag k).opcode ≠ some .stripeParity → (s.tag k).opcode ≠ some .reprogramHeld →
        ((s.tag k).st = .fetching ∨ (s.tag k).st = .delivering) → ∃ t, exec (.dataPhaseEnd e c) s = .next t ∧
          dueFor t (s.tag k).sqid k .dataPoisoned 0))

/-- What queue creation, deletion and drain do (R40, R42). -/
def Obligations.QueueLifeComplete : Prop :=
  ∀ (s : State) (q : Nat), q < 32768 →
    (s.serving = true → (s.queue q).st = .disabled →
      (s.createCause q = 0 → ∃ t, exec (.queueCreate q) s = .next t ∧
        t.queue q = { Queue.init with st := .active } ∧ (∀ k, k ≠ q → t.queue k = s.queue k) ∧
        (s.qPush q = true → ∀ i, i < 64 → t.pushSlot (64 * s.qWindow q + i) = PushSlot.init) ∧
        (∀ k, (s.qPush q = false ∨ k / 64 ≠ s.qWindow q) → t.pushSlot k = s.pushSlot k) ∧
        t = { s with queues := t.queues, push := t.push }) ∧
      (s.createCause q ≠ 0 →
        exec (.queueCreate q) s = .next (s.setQueue q { s.queue q with cause := s.createCause q }))) ∧
    (s.serving = true → (s.queue q).st ≠ .disabled → exec (.queueCreate q) s = .next s) ∧
    (s.serving = true → (s.queue q).st = .active → s.tagsOf q = [] → s.qPush q = false →
      ∃ t, exec (.queueDelete q) s = .next t ∧ (t.queue q).st = .draining ∧
        (t.queue q).due = (s.queue q).due ∧ (t.queue q).fetched = [] ∧
        (∀ k, k ≠ q → t.queue k = s.queue k) ∧ t = { s with queues := t.queues, ep := t.ep }) ∧
    (s.serving = true → (s.queue q).st = .faulted → s.tagsOf q = [] → s.qPush q = false → (s.queue q).due = [] →
      ∃ t, exec (.queueDelete q) s = .next t ∧ (t.queue q).st = .draining ∧ (t.queue q).discard = true ∧
        (t.queue q).cause = (s.queue q).cause ∧ (∀ k, k ≠ q → t.queue k = s.queue k) ∧
        t = { s with queues := t.queues, ep := t.ep }) ∧
    (s.serving = true → ((s.queue q).st = .disabled ∨ (s.queue q).st = .draining) →
      exec (.queueDelete q) s = .next s) ∧
    (s.hostWorks = true → s.drained q = true →
      exec (.queueDrainEnd q) s = .next (s.setQueue q { s.queue q with st := .disabled, discard := false })) ∧
    (s.hostWorks = true → s.drained q = false → exec (.queueDrainEnd q) s = .next s)

/-- What a write to an SQ-tail doorbell does (R46). -/
def Obligations.SqTailDoorbellComplete : Prop :=
  ∀ (s : State) (q : Nat) (v : Word), q < 32768 → s.serving = true →
    ((s.queue q).st = .active → wfld v 31 16 = 0 → s.qPush q = false → wfld v 15 0 < s.sqDepth q →
      exec (.sqTailDoorbell q v) s = .next (s.setQueue q { s.queue q with sqTail := wfld v 15 0 })) ∧
    ((s.queue q).st = .active → (wfld v 31 16 ≠ 0 ∨ (s.qPush q = false ∧ s.sqDepth q ≤ wfld v 15 0)) →
      ∃ t, exec (.sqTailDoorbell q v) s = .next t ∧ t.bit (qcAt q + 0x1C) 7 = true ∧ t.queue q = s.queue q ∧
        (∀ a, a ≠ qcAt q + 0x1C → t.reg a = s.reg a) ∧ t = { s with regs := t.regs }) ∧
    ((s.queue q).st = .active → wfld v 31 16 = 0 → s.qPush q = true → exec (.sqTailDoorbell q v) s = .next s) ∧
    ((s.queue q).st ≠ .active → exec (.sqTailDoorbell q v) s = .next s)

/-- What a write to a CQ-head doorbell does (R43, R45, R61). -/
def Obligations.CqHeadDoorbellComplete : Prop :=
  ∀ (s : State) (q : Nat) (v : Word), q < 32768 → s.serving = true →
    (((s.queue q).st = .active ∨ (s.queue q).st = .draining) → wfld v 31 16 = 0 → wfld v 15 0 < s.cqDepth q →
      exec (.cqHeadDoorbell q v) s = .next (s.setQueue q { s.queue q with cqHead := wfld v 15 0 })) ∧
    ((s.queue q).st = .active → (wfld v 31 16 ≠ 0 ∨ s.cqDepth q ≤ wfld v 15 0) →
      exec (.cqHeadDoorbell q v) s = .next (s.setBit (qcAt q + 0x1C) 7 true)) ∧
    ((s.queue q).st = .draining → wfld v 31 16 ≠ 0 → exec (.cqHeadDoorbell q v) s = .next s) ∧
    ((s.queue q).st = .draining → wfld v 31 16 = 0 → s.cqDepth q ≤ wfld v 15 0 →
      exec (.cqHeadDoorbell q v) s = .next (s.setBit (qcAt q + 0x1C) 7 true)) ∧
    (((s.queue q).st = .disabled ∨ (s.queue q).st = .faulted) → exec (.cqHeadDoorbell q v) s = .next s)

/-- What SQ fetches, push-window writes, completion entries and coalescing do (R22, R24, R47 to R50, R59 to R63). -/
def Obligations.QueueTrafficComplete : Prop :=
  (∀ (s : State) (q : Nat), q < 32768 → (s.queue q).st = .active → s.qPush q = false → s.mayIssue = true →
    s.fetchCount q ≠ 0 → s.rawGroups = [] → (s.fetchReads q).length ≤ s.freeReqTags →
    s.slotFor (.pair (q % s.build.pairs)) 2 = true →
    ∃ t, exec (.sqFetch q) s = .next t ∧
      (t.queue q).fetchNext = ((s.queue q).fetchNext + s.fetchCount q) % s.sqDepth q ∧
      (∀ k, k ≠ q → t.queue k = s.queue k) ∧ t.ep.tx.length = s.ep.tx.length + (s.fetchReads q).length ∧
      (∀ id r, SMap.get s.ep.reqs id = some r → SMap.get t.ep.reqs id = some r) ∧
      (∀ a n r, s.fetchReads q = [(a, n)] → s.freeReqTag = some r →
        t.ep.tx = s.ep.tx ++ [.memRead (q % s.build.pairs) r (BitVec.ofNat 64 a) n] ∧
        SMap.get t.ep.reqs r = some { user := .sqFetch q ((a - s.sqBase q) / 64) (n / 64),
                                      pair := q % s.build.pairs, addr := BitVec.ofNat 64 a, len := n }) ∧
      t.wheels = (s.slotsGone (.pair (q % s.build.pairs)) (s.fetchReads q).length).wheels ∧
      t = { s with queues := t.queues, ep := t.ep, wheels := t.wheels }) ∧
  (∀ (s : State) (q : Nat), ((s.queue q).st ≠ .active ∨ s.fetchCount q = 0) → exec (.sqFetch q) s = .next s) ∧
  (∀ (s : State) (q w off : Nat) (data : List Byte), s.serving = true → w < 1024 → s.windowQueue w = some q →
    data.length ∈ [4, 8, 16, 32, 64] → off % data.length = 0 → off + data.length ≤ 4096 →
    ((s.pushSlot (64 * w + off / 64)).captured = false →
      exec (.pushWindowWrite w off data) s = .next (s.setPushSlot (64 * w + off / 64)
        ((s.pushSlot (64 * w + off / 64)).write (off % 64) data))) ∧
    ((s.pushSlot (64 * w + off / 64)).captured = true →
      exec (.pushWindowWrite w off data) s = .next (s.setBit (qcAt q + 0x1C) 8 true))) ∧
  (∀ (s : State) (w off : Nat) (data : List Byte), s.serving = true → w < 1024 →
    (s.windowQueue w = none ∨ data.length ∉ [4, 8, 16, 32, 64] ∨ off % data.length ≠ 0 ∨
      4096 < off + data.length) →
    ∃ t, exec (.pushWindowWrite w off data) s = .next t ∧ isPending t 832 = true ∧ t.push = s.push ∧
      t.fld 0x180 31 16 = min (s.fld 0x180 31 16 + 1) 0xFFFF) ∧
  (∀ (s : State) (q : Nat) (c : Completion) (rest : List Completion), q < 32768 → (s.queue q).due = c :: rest →
    ((s.queue q).st = .active ∨ (s.queue q).st = .draining) → s.cqFull q = false → s.mayIssue = true →
    s.rawGroups = [] → s.slotFor (.pair (s.entryPair q)) 3 = true →
    ∃ t, exec (.completionWrite q) s = .next t ∧ (t.queue q).due = rest ∧
      (t.queue q).cqTail = ((s.queue q).cqTail + 1) % s.cqDepth q ∧
      (t.queue q).cfgSeen = s.reg (qcAt q + 0x14) ∧ (t.queue q).extSeen = s.reg (qcAt q + 0x18) ∧
      (t.queue q).phase = (if ((s.queue q).cqTail + 1) % s.cqDepth q = 0 then !(s.queue q).phase
        else (s.queue q).phase) ∧
      (∀ k, k ≠ q → t.queue k = s.queue k) ∧
      (s.cqBase q % 16 = 0 → t.ep.tx = s.ep.tx ++ [.memWrite (s.entryPair q)
        (BitVec.ofNat 64 (s.cqBase q + 16 * (s.queue q).cqTail)) (s.entryBytes q c) false]) ∧
      (∀ j, c.tag = none → c.slot = some j → SMap.get t.slots j = none) ∧
      (∀ k, c.tag = some k → (s.tag k).committed = true → (s.tag k).ended = true → (s.tag k).adding = false →
        (s.tag k).sqid = q → (∀ d, d ∈ rest → d.tag ≠ some k) → (t.tag k).st = .free)) ∧
  (∀ (s : State) (q : Nat), q < 32768 → s.hostWorks = true → bitOf (s.queue q).cfgSeen.toNat 20 = true →
    wfld (s.queue q).extSeen 31 24 ≠ 0 → 0 < (s.queue q).unsignalled →
    exec (.coalescingTimeout q) s =
      .next ((s.setQueue q { s.queue q with unsignalled := 0 }).askMsix (wfld (s.queue q).cfgSeen 31 21)))

/-- What the commands of the read-level table window do (R275 to R277), while no stored byte of the table is in error. -/
def Obligations.LevelTableCommandsComplete : Prop :=
  ∀ s : State, s.rawGroups = [] →
    (∀ i, s.rltOpen = true → i < 65536 → ∃ t, exec (.rltRead i) s = .next t ∧
      t.fld 0x300004 27 26 = 0 ∧ t.fld 0x300004 15 0 = i ∧
      t.fld 0x300010 31 20 = (s.rltEntry i).lun.toNat ∧ t.fld 0x300010 19 0 = (s.rltEntry i).group.toNat ∧
      t.bit 0x300014 31 = (s.rltEntry i).valid ∧ t.fld 0x300014 2 0 = (s.rltEntry i).pageType.toNat ∧
      t.bit 0x300018 31 = (s.rltEntry i).trained ∧ t.bit 0x300018 30 = (s.rltEntry i).pinned ∧
      t.bit 0x300018 29 = (s.rltEntry i).weak ∧ t.fld 0x300018 23 0 = (s.rltEntry i).age.toNat ∧
      (∀ k, k < 31 → t.fld (0x300020 + 4 * (k / 4)) (8 * (k % 4) + 7) (8 * (k % 4)) =
        (nth (firstN 31 (s.rltEntry i).slots) k 0).toNat) ∧
      t = { s with regs := t.regs }) ∧
    (∀ i, s.rltOpen = true → i < 65536 →
      (s.rltView.valid = true → (i / 8 ≠ s.viewSet ∨ ∃ j, j ≠ i ∧ s.viewFind = some j) →
        exec (.rltWrite i) s = .next ((s.setFld 0x300004 15 0 i).setFld 0x300004 27 26 3)) ∧
      (s.rltView.valid = false ∨ (i / 8 = s.viewSet ∧ ∀ j, s.viewFind = some j → j = i) →
        ∃ t, exec (.rltWrite i) s = .next t ∧ t.fld 0x300004 27 26 = 0 ∧
          (∀ j, t.rltEntry j = if i = j then s.rltView else s.rltEntry j) ∧
          t = { s with regs := t.regs, rlt := t.rlt, writeBacks := t.writeBacks })) ∧
    (s.rltOpen = true →
      (∀ i, s.viewFind = some i → i < 65536 → ∃ t, exec .rltLookup s = .next t ∧ t.fld 0x300004 27 26 = 0 ∧
        t.fld 0x300004 15 0 = i ∧ t.bit 0x300018 31 = (s.rltEntry i).trained ∧ t = { s with regs := t.regs }) ∧
      (s.viewFind = none → exec .rltLookup s = .next (s.setFld 0x300004 27 26 1)) ∧
      (∀ i, (s.viewFind = some i ∨ (s.viewFind = none ∧ s.rltPlace s.viewSet = some i)) → i < 65536 →
        ∃ t, exec .rltInsert s = .next t ∧ t.fld 0x300004 27 26 = 0 ∧ t.fld 0x300004 15 0 = i ∧
          (∀ j, t.rltEntry j = if i = j then s.rltView else s.rltEntry j) ∧
          t = { s with regs := t.regs, rlt := t.rlt, writeBacks := t.writeBacks }) ∧
      (s.viewFind = none → s.rltPlace s.viewSet = none →
        exec .rltInsert s = .next (s.setFld 0x300004 27 26 2)) ∧
      exec .rltClearUnpinned s =
        .next ({ s with rlt := s.rlt.filter (fun e => e.2.pinned) }.setFld 0x300004 27 26 0) ∧
      exec .rltClearAll s = .next ({ s with rlt := [] }.setFld 0x300004 27 26 0)) ∧
    (∀ v, s.serving = true → ∃ t, exec (.rltCfgWrite v) s = .next t ∧ t.reg 0x300000 = v &&& 0x10F ∧
      (∀ a, a ≠ 0x300000 → t.reg a = s.reg a) ∧
      t.rlt = (if wfld v 3 0 = s.fld 0x300000 3 0 then s.rlt else []) ∧ t = { s with regs := t.regs, rlt := t.rlt }) ∧
    (s.hostOn = true → s.ph.tablesReady = true →
      exec .rltInitEnd s = .next { s with ph := { s.ph with rltReady := true } })

/-- What the writes of the disturb ledger, of the advisory ring and of the open-block table do (R158, R282, R283). -/
def Obligations.LedgerAndOpenBlockWritesComplete : Prop :=
  ∀ (s : State) (k : Nat) (v : Word), s.serving = true → k < 128 * s.nch →
    (∃ t, exec (.ledgerHiWrite k v) s = .next t ∧
      (∀ w, SMap.get s.ledgerLo k = some w → t.ledgerEntry k = LedgerEntry.ofRegs w v) ∧
      (SMap.get s.ledgerLo k = none → t.ledgerEntry k = { s.ledgerEntry k with count := v }) ∧
      SMap.get t.ledgerLo k = none ∧ (∀ j, j ≠ k → SMap.get t.ledgerLo j = SMap.get s.ledgerLo j) ∧
      (∀ j, j ≠ k → t.ledgerEntry j = s.ledgerEntry j) ∧
      t = { s with ledger := t.ledger, ledgerLo := t.ledgerLo, rawGroups := t.rawGroups, writeBacks := t.writeBacks }) ∧
    (s.obtInflight k = 0 ∨ s.obtBad k ≠ [] → ∃ t, exec (.obtHiWrite k v) s = .next t ∧
      (t.obtEntry k).pointer = BitVec.ofNat 16 (wfld v 31 16) ∧
      (∀ w, SMap.get s.obtLo k = some w → (t.obtEntry k).valid = bitOf w.toNat 31 ∧
        (t.obtEntry k).plane = BitVec.ofNat 2 (wfld w 21 20) ∧
        (t.obtEntry k).block = BitVec.ofNat 20 (wfld w 19 0)) ∧
      (SMap.get s.obtLo k = none → (t.obtEntry k).valid = (s.obtEntry k).valid ∧
        (t.obtEntry k).plane = (s.obtEntry k).plane ∧ (t.obtEntry k).block = (s.obtEntry k).block) ∧
      SMap.get t.obtLo k = none ∧ (∀ j, j ≠ k → SMap.get t.obtLo j = SMap.get s.obtLo j) ∧
      (∀ j, j ≠ k → t.obtEntry j = s.obtEntry j) ∧
      t = { s with obt := t.obt, obtLo := t.obtLo, rawGroups := t.rawGroups, writeBacks := t.writeBacks, stamp := t.stamp }) ∧
    (s.obtInflight k ≠ 0 → s.obtBad k = [] → ∃ t, exec (.obtHiWrite k v) s = .next t ∧ t.obt = s.obt ∧
      SMap.get t.obtLo k = none ∧ (∀ j, j ≠ k → SMap.get t.obtLo j = SMap.get s.obtLo j) ∧ t = { s with obtLo := t.obtLo }) ∧
    (∃ t, exec .advPop s = .next t ∧ t.adv = s.adv.tail ∧
      t = { s with adv := t.adv, rawGroups := t.rawGroups, writeBacks := t.writeBacks }) ∧
    (s.rawGroups = [] → exec .advPop s = .next { s with adv := s.adv.tail })

/-- In Lull, and on its way into or out of it, a request is held at its port in order of arrival, and in Lull it wakes
the block (R379 to R381). -/
def Obligations.LullHoldsRequests : Prop :=
  ∀ (s : State) (c : Instr), portAccess c = true → s.asleep = true →
    ∃ t, exec c s = .next t ∧ t.ep.held = s.ep.held ++ [c] ∧
      (s.irq.lull = .lull → t.irq.lull = .waking ∧ t.reg 0x1001C = 0xC0000000) ∧
      (s.irq.lull = .waking → t.irq.lull = .waking) ∧
      (∀ a, a ≠ 0x1001C → t.reg a = s.reg a) ∧
      t = { s with ep := { s.ep with held := t.ep.held }, irq := t.irq, regs := t.regs }

/-- What register writes do (R11, R30): a register of plain fields takes the written value by the types of its fields,
a reserved address takes none, and the registers that ask for an operation do what its own command does. -/
def Obligations.RegisterWriteComplete : Prop :=
  ∀ (s : State) (v : Word), s.serving = true → s.irq.lull = .awake →
    (∀ off d, regDesc s.nch s.targets off = some d →
      ((0x14000 ≤ off ∧ off < 0x18000) ∨ (0x10280 ≤ off ∧ off < 0x10300) ∨ (0x10400 ≤ off ∧ off < 0x10480) ∨
        (0x300100 ≤ off ∧ off < 0x300314)) →
      ∃ t, exec (.registerWrite off v) s = .next t ∧
        t.reg off = ((s.reg off &&& ~~~d.rw) ||| (v &&& d.rw)) &&& ~~~(d.w1c &&& v) ∧
        (∀ a, a ≠ off → t.reg a = s.reg a) ∧ t = { s with regs := t.regs }) ∧
    (∀ off, regDesc s.nch s.targets off = none → exec (.registerWrite off v) s = .next s) ∧
    (∀ w, w < 32 →
      exec (.registerWrite (0x10180 + 4 * w) v) s = exec (.srcPendSet w v) s ∧
      exec (.registerWrite (0x10200 + 4 * w) v) s = exec (.srcPendClr w v) s) ∧
    (∀ k fast, k < s.targets → exec (.registerWrite (claimPage k fast + 4) v) s = exec (.complete k fast v) s) ∧
    (v.getLsbD 0 = true → exec (.registerWrite 0x70030 v) s = exec .trcPop s)

/-- What host requests to the BARs do (R30, R32, R46, R61, R206, R207, R337, R341, R351). -/
def Obligations.HostRequestsComplete : Prop :=
  ∀ (s : State), s.serving = true → s.irq.lull = .awake → s.ep.linkUp = true → s.mse = true →
    (∀ off l r, off % 4 = 0 → off < 0x4000000 → l.length = 4 → (regDesc s.nch s.targets off).isSome = true →
      exec (.memoryWrite (.bar0 off) l r false) s = exec (.registerWrite off (BitVec.ofNat 32 (leNat l))) s) ∧
    (∀ off l r d, off % 4 = 0 → l.length = 4 → regDesc s.nch s.targets off = some d →
      ((0x14000 ≤ off ∧ off < 0x18000) ∨ (0x10280 ≤ off ∧ off < 0x10300) ∨ (0x10400 ≤ off ∧ off < 0x10480) ∨
        (0x300100 ≤ off ∧ off < 0x300314)) →
      ∃ t, exec (.memoryWrite (.bar0 off) l r false) s = .next t ∧
        t.reg off = ((s.reg off &&& ~~~d.rw) ||| (BitVec.ofNat 32 (leNat l) &&& d.rw)) &&&
          ~~~(d.w1c &&& BitVec.ofNat 32 (leNat l)) ∧
        (∀ a, a ≠ off → t.reg a = s.reg a) ∧ t = { s with regs := t.regs }) ∧
    (∀ q l r, q < 32768 → l.length = 4 → (s.queue q).st = .active → leNat l < 2 ^ 16 →
      (s.qPush q = false → leNat l < s.sqDepth q → exec (.memoryWrite (.bar2 (8 * q)) l r false) s =
        .next (s.setQueue q { s.queue q with sqTail := leNat l })) ∧
      (leNat l < s.cqDepth q → exec (.memoryWrite (.bar2 (8 * q + 4)) l r false) s =
        .next (s.setQueue q { s.queue q with cqHead := leNat l }))) ∧
    (∀ q w off l r, w < 1024 → s.windowQueue w = some q → l.length ∈ [4, 8, 16, 32, 64] → off % l.length = 0 →
      off + l.length ≤ 4096 → (s.pushSlot (64 * w + off / 64)).captured = false →
      exec (.memoryWrite (.bar2 (0x400000 + 4096 * w + off)) l r false) s =
        .next (s.setPushSlot (64 * w + off / 64) ((s.pushSlot (64 * w + off / 64)).write (off % 64) l))) ∧
    (∀ off f b l r p, s.apertureAt off = (f, b) → off < 0x10000000 → f < 64 * s.nch → b + l.length ≤ 20480 →
      (s.chan (f / 64)).inReset = false → s.frameOpen f = true → p = false →
      exec (.memoryWrite (.bar4 off) l r p) s = .next (s.frameWrite f b l p)) ∧
    (∀ q l r, q < 32768 → l.length = 4 →
      exec (.memoryWrite (.bar2 (8 * q)) l r false) s = exec (.sqTailDoorbell q (BitVec.ofNat 32 (leNat l))) s ∧
      exec (.memoryWrite (.bar2 (8 * q + 4)) l r false) s = exec (.cqHeadDoorbell q (BitVec.ofNat 32 (leNat l))) s) ∧
    (∀ off l r, off % 4 = 0 → off < 0x4000000 → l.length = 4 → regDesc s.nch s.targets off = none →
      ∃ t, exec (.memoryWrite (.bar0 off) l r false) s = .next t ∧ isPending t 832 = true ∧
        t.fld 0x180 31 16 = min (s.fld 0x180 31 16 + 1) 0xFFFF ∧
        t.reg (0x100 + 16 * s.fld 0x180 2 0) = BitVec.ofNat 32 off ∧
        t = { s with regs := t.regs, irq := t.irq, trace := t.trace, counters := t.counters,
                     saturated := t.saturated }) ∧
    (∀ l r p, ∃ t, exec (.memoryWrite .noBar l r p) s = .next t ∧ t.cfgBit 0x104 20 = true ∧
      t = { s with cfg := t.cfg, ep := t.ep, fresh := t.fresh }) ∧
    (∀ addr bar off, s.barHit addr.toNat = some (bar, off) →
      ∃ d, ((bar = 0 ∧ d = .bar0 off) ∨ (bar = 2 ∧ d = .bar2 off) ∨ (bar = 4 ∧ d = .bar4 off)) ∧
        (∀ l r p, exec (.memoryWrite (.memory addr) l r p) s = exec (.memoryWrite d l r p) s) ∧
        (∀ n r k, exec (.memoryRead (.memory addr) n r k) s = exec (.memoryRead d n r k) s)) ∧
    (∀ addr, s.barHit addr.toNat = none →
      (∀ l r p, exec (.memoryWrite (.memory addr) l r p) s = exec (.memoryWrite .noBar l r p) s) ∧
      (∀ n r k, exec (.memoryRead (.memory addr) n r k) s = exec (.memoryRead .noBar n r k) s)) ∧
    (∀ off w u r k, off % 4 = 0 → off < 0x4000000 → (regDesc s.nch s.targets off).isSome = true →
      s.regRead false off = (some w, u) →
      exec (.memoryRead (.bar0 off) 4 r k) s =
        .next (u.send (.completion r k .success (leBytes 4 w.toNat) false))) ∧
    (∀ n r k, ∃ t, exec (.memoryRead .noBar n r k) s = .next t ∧ t.cfgBit 0x104 20 = true ∧
      t.ep.tx.getLast? = some (.completion r k .unsupportedRequest [] false) ∧
      t = { s with cfg := t.cfg, ep := t.ep, fresh := t.fresh }) ∧
    (∀ off f b l, s.apertureAt off = (f, b) → off < 0x10000000 → f < 64 * s.nch → b + l.length ≤ 20480 →
      (s.chan (f / 64)).inReset = false → s.frameOpen f = true →
      exec (.bar4Write off l false) s = .next (s.frameWrite f b l false)) ∧
    (∀ off f b l, s.apertureAt off = (f, b) → off < 0x10000000 → f < 64 * s.nch → b + l.length ≤ 20480 →
      (s.chan (f / 64)).inReset = false → s.frameOpen f = false →
      ∃ t, exec (.bar4Write off l false) s = .next t ∧ isPending t 832 = true ∧
        t = { s with regs := t.regs, irq := t.irq, trace := t.trace, counters := t.counters,
                     saturated := t.saturated }) ∧
    (∀ off f b n, s.apertureAt off = (f, b) → off < 0x10000000 → f < 64 * s.nch → b + n ≤ 20480 →
      (s.chan (f / 64)).inReset = false →
      exec (.bar4Read off n) s = .next ((s.frameRead f b n).2.sendRead 0 0 off
        (s.frameRead f b n).1.1 (s.frameMarks f b n)) ∧
      (0 < n → off % s.mps + n ≤ s.mps → exec (.bar4Read off n) s = .next ((s.frameRead f b n).2.send
        (.completion 0 0 .success (s.frameRead f b n).1.1 (s.frameRead f b n).1.2))))

/-- A write of an aligned whole staging word stores it with fresh check bits and the poison that it came with, and a read
of it returns them (R206, R442). -/
def Obligations.FrameWindowReadsBack : Prop :=
  ∀ (s : State) (f w : Nat) (l : List Byte) (p : Bool), f < 16384 → w < 640 → l.length = 32 → s.spareOf f w = none →
    let t := s.frameWrite f (32 * w) l p
    t.fword (640 * f + w) = FWord.fresh (BitVec.ofNat 256 (leNat l)) p ∧
      (∀ k, k ≠ 640 * f + w → t.fword k = s.fword k) ∧ (t.frameRead f (32 * w) 32).1 = (l, p) ∧
      (t.frameRead f (32 * w) 32).2 = t ∧ t = { s with words := t.words, writeBacks := t.writeBacks }

/-- What configuration requests and management accesses do (R334, R352, R355, R522). -/
def Obligations.ConfigAndManagementComplete : Prop :=
  ∀ (s : State), s.irq.lull = .awake →
    (∀ off w e r k, s.hostOn = true → s.ep.linkUp = true → s.serving = false →
      exec (.configRequest off w e r k) s =
        .next { s with ep := { s.ep with tx := s.ep.tx ++ [.completion r k .configRetry [] false] } }) ∧
    (∀ off e r k, s.serving = true → s.ep.linkUp = true → off % 4 = 0 → off ≠ 0x70 →
      exec (.configRequest off none e r k) s = .next { s with ep := { s.ep with
        tx := s.ep.tx ++ [.completion r k .success (leBytes 4 (s.cfgView off).toNat) false] } }) ∧
    (∀ off v e r k, s.serving = true → s.ep.linkUp = true → off % 4 = 0 → off ≠ 0x44 → off ≠ 0x68 →
      ∃ t, exec (.configRequest off (some v) e r k) s = .next t ∧
        t.cfgRaw off = cfgWritten off (s.cfgRaw off) v (enableMask e) ∧
        (∀ a, a ≠ off → t.cfgRaw a = s.cfgRaw a) ∧
        t.ep.tx.getLast? = some (.completion r k .success [] false)) ∧
    (∀ e r k v, s.serving = true → s.ep.linkUp = true → e.getLsbD 1 = true → v.getLsbD 15 = true →
      ∃ t, exec (.configRequest 0x68 (some v) e r k) s = .next t ∧ t.ep.fnReset = some .functionLevel) ∧
    (∀ off v, s.serving = true → off % 4 = 0 → off < 0x4000000 → (regDesc s.nch s.targets off).isSome = true →
      exec (.mgmtAccess 0 off false (some v)) s = .next (((s.regWrite off (v.setWidth 32))).mgmtAnswer false 0)) ∧
    (∀ off w u, s.hostOn = true → (s.serving = true ∨ off < 0x200) → off % 4 = 0 → off < 0x4000000 →
      (regDesc s.nch s.targets off).isSome = true → s.regRead true off = (some w, u) →
      exec (.mgmtAccess 0 off false none) s = .next (u.mgmtAnswer false (w.setWidth 64))) ∧
    (∀ bar off e w, s.hostOn = true → s.serving = false → (bar ≠ 0 ∨ 0x200 ≤ off ∨ w.isSome = true) →
      exec (.mgmtAccess bar off e w) s = .next { s with ep := { s.ep with mgmt :=
        { ack := true, err := true, rdata := 0 } } })

/-- What an edge of an interrupt source does, and the end of a Squall window (R364, R367, R382, R398). -/
def Obligations.SourceEdgesComplete : Prop :=
  ∀ s : State,
    (∀ n, n < 864 → s.hostWorks = true → s.srcExists n = true → (s.ph.ready = true ∨ n < 768 ∨ 800 ≤ n) →
      ∃ t, exec (.sourceEdge n) s = .next t ∧
        (∀ j, isPending t j = (decide (n = j) || isPending s j)) ∧
        (∀ a, raiseReg a = false → t.reg a = s.reg a) ∧
        t.irq.service = s.irq.service ∧
        t = { s with regs := t.regs, irq := t.irq, trace := t.trace, counters := t.counters,
                     saturated := t.saturated }) ∧
    (∀ n, s.srcExists n = true → 768 ≤ n → n < 800 → (s.hostWorks && s.ph.ready) = false → s.irq.lull = .awake →
      exec (.sourceEdge n) s = .next { s with irq := { s.irq with heldEdges := addSorted n s.irq.heldEdges } }) ∧
    (∀ n, s.hostWorks = false → (n < 768 ∨ 800 ≤ n) → exec (.sourceEdge n) s = .next s) ∧
    (∀ n, s.srcExists n = false ∨ 864 ≤ n → exec (.sourceEdge n) s = .next s) ∧
    (∀ n, n < 864 → s.hostWorks = true → s.srcExists n = true → (s.ph.ready = true ∨ n < 768 ∨ 800 ≤ n) →
      s.bit 0x10004 31 = true → s.bit (0x14000 + n * 16) 9 = false →
      SMap.getD s.irq.counts n 0 = max 1 (s.fld 0x10004 7 0) →
      ∃ t, exec (.sourceEdge n) s = .next t ∧ t.srcMasked n = true ∧ t.arrBit 0x10300 n = true) ∧
    (s.hostOn = true → exec .squallWindowEnd s = .next { s with irq := { s.irq with counts := [] } })

/-- What writes of the pending and mask words of the interrupt controller do (R365, R366, R368). -/
def Obligations.PendingAndMaskWritesComplete : Prop :=
  ∀ (s : State) (w : Nat) (v : Word), s.serving = true → w < 32 →
    (∃ t, exec (.srcPendSet w v) s = .next t ∧
      (∀ j, j < 1024 → isPending t j =
        (isPending s j || (decide (j / 32 = w) && (v &&& sourceBits w).getLsbD (j % 32)))) ∧
      (∀ a, raiseReg a = false → t.reg a = s.reg a) ∧ t.irq.service = s.irq.service ∧
      t = { s with regs := t.regs, irq := t.irq, trace := t.trace, counters := t.counters,
                   saturated := t.saturated }) ∧
    (∃ t, exec (.srcPendClr w v) s = .next t ∧
      (∀ j, j < 1024 → isPending t j =
        (isPending s j && !(decide (j / 32 = w) && (v &&& sourceBits w).getLsbD (j % 32)))) ∧
      t = { s with irq := { s.irq with pend := t.irq.pend } }) ∧
    (∃ t, exec (.srcMaskWrite w v) s = .next t ∧ t.reg (0x10280 + 4 * w) = v &&& sourceBits w ∧
      (∀ a, a ≠ 0x10280 + 4 * w → t.reg a = s.reg a) ∧ t = { s with regs := t.regs })

/-- A read of `CLAIM` takes the deliverable source of its class with the highest priority, the lowest number first
among equals; in any other case it changes no source, and sets `claim_error` while a handler of the class runs
(R370). -/
def Obligations.ClaimTakesBestSource : Prop :=
  ∀ (s : State) (k : Nat) (fast : Bool), s.serving = true → k < s.targets →
    (∀ n, s.inService k fast = none → n < 1024 → s.srcFast n = fast → s.deliverable n k = true →
      (∀ m, m < 1024 → s.srcFast m = fast → s.deliverable m k = true →
        s.fld (0x14000 + m * 16) 3 0 < s.fld (0x14000 + n * 16) 3 0 ∨
          (s.fld (0x14000 + m * 16) 3 0 = s.fld (0x14000 + n * 16) 3 0 ∧ n ≤ m)) →
      ∃ t, exec (.claim k fast) s = .next t ∧ t.inService k fast = some n ∧
        (∀ j, isPending t j = (isPending s j && decide (n ≠ j))) ∧
        (∀ i f, (i, f) ≠ (k, fast) → t.inService i f = s.inService i f) ∧
        (∀ a, traceReg a = false → t.reg a = s.reg a) ∧
        t = { s with regs := t.regs, irq := t.irq, trace := t.trace, counters := t.counters,
                     saturated := t.saturated }) ∧
    (s.inService k fast = none → (∀ m, m < 1024 → s.srcFast m = fast → s.deliverable m k = false) →
      ∃ t, exec (.claim k fast) s = .next t ∧ t.irq = s.irq ∧ (∀ a, traceReg a = false → t.reg a = s.reg a)) ∧
    (∀ n, s.inService k fast = some n →
      ∃ t, exec (.claim k fast) s = .next t ∧ t.irq = s.irq ∧ t.bit (claimPage k fast + 12) 31 = true)

/-- A write to `COMPLETE` with the source in service ends the handler; 0xFFFF is ignored; any other value sets
`complete_error` (R371). -/
def Obligations.CompleteEndsHandler : Prop :=
  ∀ (s : State) (k : Nat) (fast : Bool) (v : Word), s.serving = true → k < s.targets →
    (s.inService k fast = some (wfld v 15 0) → wfld v 15 0 ≠ 0xFFFF →
      ∃ t, exec (.complete k fast v) s = .next t ∧ t.inService k fast = none ∧ t.irq.pend = s.irq.pend ∧
        (∀ i f, (i, f) ≠ (k, fast) → t.inService i f = s.inService i f) ∧
        (∀ a, traceReg a = false → t.reg a = s.reg a) ∧
        t = { s with regs := t.regs, irq := t.irq, trace := t.trace, counters := t.counters,
                     saturated := t.saturated }) ∧
    (wfld v 15 0 = 0xFFFF → exec (.complete k fast v) s = .next s) ∧
    (wfld v 15 0 ≠ 0xFFFF → s.inService k fast ≠ some (wfld v 15 0) →
      exec (.complete k fast v) s = .next (s.setBit (claimPage k fast + 12) 30 true))

/-- What errors on the link and the loss of a request do (R343, R347, R348, R521). -/
def Obligations.EndpointErrorsComplete : Prop :=
  ∀ s : State, s.hostOn = true →
    (∀ pair, pair < s.build.pairs → ∃ t, exec (.malformedTlp pair) s = .next t ∧ t.cfgBit 0x104 18 = true ∧
      t = { s with cfg := t.cfg, ep := t.ep, fresh := t.fresh }) ∧
    (∀ b, b < 5 → ∃ t, exec (.linkError b) s = .next t ∧
      t.cfgBit 0x110 ([0, 6, 7, 8, 12].getD b 0) = true ∧ t.cfgBit 0x68 16 = true ∧
      t = { s with cfg := t.cfg, ep := t.ep, fresh := t.fresh }) ∧
    (∀ b, 5 ≤ b → b < 8 → ∃ t, exec (.linkError b) s = .next t ∧
      t.cfgBit 0x104 ([4, 13, 17].getD (b - 5) 0) = true ∧
      t = { s with cfg := t.cfg, ep := t.ep, fresh := t.fresh }) ∧
    (∀ k, SMap.get s.ep.reqs k = none → (∀ a, SMap.get s.ep.abandoned k = some a → a.silent = false) →
      s.hostWorks = true → ∃ t, exec (.unexpectedCompletion k) s = .next t ∧ t.cfgBit 0x104 16 = true ∧
        isPending t 834 = true ∧
        t = { s with cfg := t.cfg, ep := t.ep, regs := t.regs, irq := t.irq, trace := t.trace,
                     counters := t.counters, saturated := t.saturated, fresh := t.fresh }) ∧
    (∀ k a, SMap.get s.ep.reqs k = none → SMap.get s.ep.abandoned k = some a → a.silent = true →
      exec (.unexpectedCompletion k) s = .next s) ∧
    (∀ k, ∃ t, exec (.abandonedTagRelease k) s = .next t ∧ SMap.get t.ep.abandoned k = none ∧
      (∀ j, j ≠ k → SMap.get t.ep.abandoned j = SMap.get s.ep.abandoned j) ∧
      t = { s with ep := { s.ep with abandoned := t.ep.abandoned } }) ∧
    (∀ k r, s.hostWorks = true → SMap.get s.ep.reqs k = some r → r.user = .dropped →
      ∃ t, exec (.completionTimeout k) s = .next t ∧ SMap.get t.ep.reqs k = none ∧
        SMap.get t.ep.abandoned k = some { silent := false } ∧ t.cfgBit 0x104 14 = true ∧ isPending t 833 = true ∧
        (∀ j, j ≠ k → SMap.get t.ep.reqs j = SMap.get s.ep.reqs j)) ∧
    (∀ k r q i n, s.hostWorks = true → SMap.get s.ep.reqs k = some r → r.user = .sqFetch q i n →
      (s.queue q).st = .active →
      ∃ t, exec (.completionTimeout k) s = .next t ∧ SMap.get t.ep.reqs k = none ∧ (t.queue q).st = .faulted ∧
        (t.queue q).cause = 3 ∧ isPending t 833 = true ∧ (∀ j, j ≠ q → t.queue j = s.queue j))

/-- What a completion of a request of the block does (R44, R344, R347): the entries of an SQ fetch arrive, or the queue
faults. Packets come and go in beats: the beats of a packet carry its dwords, no more and no fewer, and a beat that is not
taken stays as it is (R517). -/
def Obligations.ReadCompletionsComplete : Prop :=
  (∀ l : List Word, l ≠ [] → packetDwords (beatsOf l) = some l ∧
    (∀ b, b ∈ beatsOf l → ∀ i, b.count ≤ i → i < 32 → b.dword i = 0)) ∧
  (∀ (b : Beat) (q : List Beat), beatCycle true (b :: q) = (some b, q) ∧ beatCycle false (b :: q) = (some b, b :: q)) ∧
  (∀ (s : State) (k q i n : Nat) (r : Req), s.hostOn = true → SMap.get s.ep.reqs k = some r →
    r.user = .sqFetch q i n → (s.queue q).st = .active →
    (∀ l, r.got.length + l.length = r.len → r.marks.any id = false →
      ∃ t, exec (.hostReadCompletion k .success l false) s = .next t ∧
      (∀ j, 64 * j + 64 ≤ r.len →
        SMap.get (t.queue q).fetched (i + j) = some (packetOf (((r.got ++ l).drop (64 * j)).take 64))) ∧
      SMap.get t.ep.reqs k = none ∧ (∀ j, j ≠ k → SMap.get t.ep.reqs j = SMap.get s.ep.reqs j) ∧
      (∀ j, j ≠ q → t.queue j = s.queue j) ∧ t = { s with queues := t.queues, ep := t.ep }) ∧
    (∀ l, r.got.length + l.length < r.len → exec (.hostReadCompletion k .success l false) s =
      .next { s with ep := { s.ep with
        reqs := SMap.insert s.ep.reqs k { r with got := r.got ++ l, marks := r.marks ++ copies l.length false } } }) ∧
    (∀ l, ∃ t, exec (.hostReadCompletion k .unsupportedRequest l false) s = .next t ∧ (t.queue q).st = .faulted ∧
      (t.queue q).cause = 3 ∧ t.cfgBit 4 29 = true ∧ SMap.get t.ep.reqs k = none ∧
      (∀ j, j ≠ q → t.queue j = s.queue j) ∧ t = { s with queues := t.queues, ep := t.ep, cfg := t.cfg }) ∧
    (∀ l, ∃ t, exec (.hostReadCompletion k .completerAbort l false) s = .next t ∧ (t.queue q).st = .faulted ∧
      (t.queue q).cause = 3 ∧ t.cfgBit 4 28 = true ∧ SMap.get t.ep.reqs k = none ∧
      (∀ j, j ≠ q → t.queue j = s.queue j) ∧ t = { s with queues := t.queues, ep := t.ep, cfg := t.cfg }) ∧
    (∀ l, r.got.length + l.length = r.len → ∃ t, exec (.hostReadCompletion k .success l true) s = .next t ∧
      (t.queue q).st = .faulted ∧ (t.queue q).cause = 3 ∧ t.cfgBit 0x104 12 = true ∧
      (∀ j, j ≠ q → t.queue j = s.queue j)))

/-- What a due MSI-X message does (R339, R340): it leaves with the table entry as it stands, or waits in the pending
bits while its vector is held. -/
def Obligations.MsixMessageComplete : Prop :=
  ∀ (s : State) (v : Nat), s.hostOn = true → s.ep.due.contains v = true → SMap.has s.ep.flushes v = false → v < 2048 →
    (s.cfgBit 0x50 31 = true → s.vectorHeld v = false → s.carrierList v = [] → s.ep.linkUp = true →
      ∃ t, exec (.msixMessage v) s = .next t ∧
        t.ep.tx = s.ep.tx ++ [.msix 0 v (BitVec.ofNat 64 ((s.reg (0x8004 + v * 16)).toNat * 2 ^ 32 +
          (s.reg (0x8000 + v * 16)).toNat)) (s.reg (0x8008 + v * 16))] ∧
        t.ep.due.contains v = false ∧ t.ep.pba = s.ep.pba ∧ t = { s with ep := t.ep }) ∧
    (s.cfgBit 0x50 31 = true → s.vectorHeld v = true →
      ∃ t, exec (.msixMessage v) s = .next t ∧ t.ep.tx = s.ep.tx ∧ t.ep.pba.getLsbD v = true ∧
        (∀ j, j ≠ v → t.ep.pba.getLsbD j = s.ep.pba.getLsbD j) ∧ t.ep.due.contains v = false ∧
        t = { s with ep := t.ep }) ∧
    (s.cfgBit 0x50 31 = false →
      ∃ t, exec (.msixMessage v) s = .next t ∧ t.ep.tx = s.ep.tx ∧ t.ep.pba = s.ep.pba ∧
        t.ep.due.contains v = false ∧ t = { s with ep := t.ep })

/-- What power, the block's resets and their ends do (R401, R473, R475 to R477, R514 to R516, R519). -/
def Obligations.ResetCommandsComplete : Prop :=
  ∀ s : State,
    (s.ph.powered = true → ∃ t, exec .fundamentalReset s = .next t ∧
      t = { State.reset with
        pending := s.pending, build := s.build, ties := s.ties, regs := t.regs, bays := s.bays,
        deviceTime := s.deviceTime, fresh := s.fresh,
        ph := { State.reset.ph with powered := s.ph.powered, aonReset := s.ph.aonReset },
        ep := { State.reset.ep with tx := s.ep.tx },
        irq := { State.reset.irq with pinArmed := s.irq.pinArmed, heldEdges := s.irq.heldEdges } } ∧
      (∀ off d, regDesc 256 64 off = some d → t.reg off = if d.zephyr then s.reg off else d.reset)) ∧
    (∀ ties, s.ph.powered = true → s.ph.blkReset = true →
      exec (.fundamentalResetRelease ties) s =
        .next { s with ties := ties, ph := { s.ph with blkReset := false } }) ∧
    (s.ph.powered = true → s.ph.blkReset = false → s.ph.hclk = false →
      exec .hostPllLock s = .next { s with ph := { s.ph with hclk := true }, follower := s.deviceTime }) ∧
    (∀ n, s.ph.powered = true → s.ph.blkReset = false → n < s.nch → (s.chan n).st = .reset →
      (s.chan n).recStep = .idle → (s.chan n).inReset = true →
      ((s.bay (n / 8)).glitch = false → ∃ t, exec (.channelPllLock n) s = .next t ∧ (t.chan n).inReset = false ∧
        (t.chan n).st = (if (s.bay (n / 8)).st = .on then .unconfigured else .absent) ∧
        (t.chan n).live = (s.chan n).target ∧ (t.chan n).trimOrder = [] ∧ (∀ j, j ≠ n → t.chan j = s.chan j) ∧
        t = { s with chans := t.chans, regs := t.regs, trace := t.trace, fresh := t.fresh }) ∧
      ((s.bay (n / 8)).glitch = true → exec (.channelPllLock n) s = .next s)) ∧
    (s.hostOn = true → s.ph.tablesReady = false → ∃ t, exec .controlRamInitEnd s = .next t ∧
      t.ph = { s.ph with tablesReady := true, ready := true, rltReady := true } ∧
      (s.hostWorks = true → t.serving = true ∧ t.irq.heldEdges = [] ∧
        ∀ n ∈ s.irq.heldEdges, n < 1024 → isPending t n = true)) ∧
    (s.ph.powered = true → ∃ t, exec .aonReset s = .next t ∧ t.ph.aonReset = true ∧ t.deviceTime = 0 ∧ t.follower = 0 ∧
      t.irq.heldEdges = [] ∧ t.irq.pinArmed = true ∧ (∀ b, t.bay b = Bay.init) ∧
      (∀ n, n < s.nch → t.arrBit 0x5080 n = false)) ∧
    exec .aonResetRelease s = .next { s with ph := { s.ph with powered := true, aonReset := false } } ∧
    (s.ph.powered = true → s.ph.blkReset = false →
      exec .linkUp s = .next { s with ep := { s.ep with linkUp := true } }) ∧
    exec .powerRemoval s = .next { State.reset with
      pending := s.pending, build := s.build, fresh := s.fresh, ph := { State.reset.ph with powered := false },
      ep := { State.reset.ep with tx := s.ep.tx } }

/-- What a function-level or hot reset does to a function whose tags are free, and how it ends, and the pop of the
carry-over log (R354, R355, R358, R359, R382). -/
def Obligations.FunctionResetsComplete : Prop :=
  ∀ s : State,
    (s.hostOn = true → s.irq.lull = .awake → s.tags = [] → (∀ n, (s.chan n).cal.st = .idle) →
      ∀ c : Instr, ((c = .functionLevelReset ∧ s.ph.ready = true) ∨ c = .hotReset false) →
      ∃ t, exec c s = .next t ∧
        t.ep.fnReset = some (if c = .functionLevelReset then .functionLevel else .hot) ∧
        t.ph.resetCause = (if c = .functionLevelReset then 3 else 2) ∧ t.serving = false ∧
        t.queues = [] ∧ t.push = [] ∧ t.slots = [] ∧ t.accs = [] ∧ t.obt = [] ∧ t.ledger = [] ∧ t.adv = [] ∧
        t.dma = [] ∧ t.rings = [] ∧ t.irq.pend = 0 ∧ t.irq.service = [] ∧ t.ep.reqs = [] ∧ t.ep.due = [] ∧
        t.ep.pba = 0 ∧
        (∀ k r, SMap.get s.ep.reqs k = some r → SMap.get t.ep.abandoned k = some { silent := true }) ∧
        (∀ n, n < s.nch → (t.chan n).fenced = false) ∧
        t.bays = s.bays ∧ t.deviceTime = s.deviceTime ∧ t.ties = s.ties) ∧
    (s.hostOn = true → s.ep.fnReset ≠ none → s.ep.linkUp = true → s.ph.ready = false →
      exec .functionReady s = .next { s with ep := { s.ep with fnReset := none } }) ∧
    (s.hostOn = true → s.ep.fnReset ≠ none → s.ep.linkUp = true → s.ph.ready = true →
      ∃ t, exec .functionReady s = .next t ∧ t.serving = true ∧ t.irq.heldEdges = [] ∧
        (∀ n ∈ s.irq.heldEdges, n < 1024 → isPending t n = true)) ∧
    (s.hostOn = true → s.ep.linkUp = false → exec .functionReady s = .next s) ∧
    (s.ph.powered = true → s.ph.blkReset = false → s.irq.lull = .awake →
      ∃ t, exec (.hotReset true) s = .next t ∧ t.ep.linkUp = false) ∧
    (s.serving = true → ∃ t, exec .carryPop s = .next t ∧ t.carry = s.carry.tail ∧
      (s.rawGroups = [] → t = { s with carry := s.carry.tail }) ∧
      t = { s with carry := t.carry, rawGroups := t.rawGroups, writeBacks := t.writeBacks })

/-- What the commands of Lull do (R378, R380, R381, R384). -/
def Obligations.LullCommandsComplete : Prop :=
  ∀ s : State,
    (s.serving = true → s.lullReady = true → (∀ n, n < s.nch → (s.chan n).cal.st = .idle) →
      exec .lullEnter s = .next { s with irq := { s.irq with lull := .entering, wakeAfter := none } }) ∧
    (s.serving = true → s.lullReady = false → exec .lullEnter s = .next (s.setBit 0x10010 31 true)) ∧
    (s.ph.powered = true → s.irq.lull = .entering → ∃ t, exec .lullEntry s = .next t ∧
      (s.irq.wakeAfter = none → t.irq.lull = .lull) ∧
      (∀ e, s.irq.wakeAfter = some e → t.irq.lull = .waking ∧ t.reg 0x1001C = wakeCause e) ∧
      t.fld 0x10014 31 16 = min (s.fld 0x10014 31 16 + 1) 0xFFFF ∧ t.hostOn = false ∧
      t = { s with regs := t.regs, gov := t.gov, irq := t.irq, trace := t.trace, counters := t.counters,
                   saturated := t.saturated }) ∧
    (∀ e, s.ph.powered = true → s.ph.aonReset = false → s.ph.blkReset = false → s.irq.lull = .lull →
      (e = .access ∨ e = .fnReset) → exec (.wake e) s =
        .next { s.setReg 0x1001C (wakeCause e) with irq := { s.irq with lull := .waking, wakeAfter := some e } }) ∧
    (s.ph.powered = true → s.ph.aonReset = false → s.ph.blkReset = false → s.irq.lull = .lull →
      s.irq.pinArmed = true → ∃ t, exec (.wake .pin) s = .next t ∧ t.irq.pinArmed = false ∧
        t.irq.lull = (if s.bit 0x10018 0 then .waking else .lull) ∧
        (s.bit 0x10018 0 = true → t.reg 0x1001C = 0x80000000)) ∧
    (∀ n, s.ph.powered = true → s.ph.aonReset = false → s.ph.blkReset = false → s.irq.lull = .lull →
      768 ≤ n → n < 768 + s.nch / 8 → ∃ t, exec (.wake (.source n)) s = .next t ∧ n ∈ t.irq.heldEdges ∧
        t.irq.lull = (if s.watched n then .waking else .lull)) ∧
    (s.ph.powered = true → s.irq.lull = .waking → s.ep.held = [] →
      ∃ t, exec .lullWake s = .next t ∧ t.irq.lull = .awake ∧ t.irq.heldEdges = [] ∧ t.follower = s.deviceTime ∧
        (∀ n ∈ s.irq.heldEdges, n < 1024 → isPending t n = true)) ∧
    exec .wakePinRelease s = .next { s with irq := { s.irq with pinArmed := true } }

/-- What the commands of the admission of array operations do: a request is granted only within the budget, and its
grant is what R407 and R411 state (R411 to R414). -/
def Obligations.AdmissionCommandsComplete : Prop :=
  ∀ s : State,
    (∀ r w, s.govOn = true → s.nextGrant = some r → s.work r.work = some w →
      ∃ t, exec .admissionGrant s = .next t ∧
        t.gov.grants = s.gov.grants ++
          [⟨r.work, 16 * w.ch + w.lun, s.weight r.cls + s.weight 3 * r.planes, s.stamp, false⟩] ∧
        r ∉ t.gov.waiting ∧ (∀ x ∈ t.gov.waiting, x ∈ s.gov.waiting) ∧
        t.work r.work = some { w with adm := .granted } ∧ (∀ id, id ≠ r.work → t.work id = s.work id) ∧
        t.gov.budget = s.gov.budget ∧ t.committed ≤ t.gov.budget ∧
        t = { s with regs := t.regs, gov := t.gov, works := t.works, luns := t.luns, trace := t.trace,
                     counters := t.counters, saturated := t.saturated, stamp := t.stamp }) ∧
    (s.govOn = true → s.nextGrant = none → exec .admissionGrant s = .next s) ∧
    (s.govOn = true → s.fld 0x4001C 15 0 ≠ 0 → s.oldestNonRead ≠ none →
      exec .admissionAge s = .next { s with gov := { s.gov with holdReads := true } }) ∧
    (s.govOn = true → s.fld 0x4001C 31 16 ≠ 0 → s.gov.waiting ≠ [] → s.gov.stallRaised = false →
      ∃ t, exec .admissionStall s = .next t ∧ t.gov = { s.gov with stallRaised := true } ∧
        (s.hostWorks = true → isPending t 803 = true) ∧
        t = { s with regs := t.regs, gov := t.gov, irq := t.irq, trace := t.trace, counters := t.counters,
                     saturated := t.saturated })

/-- What the samples, ticks and writes of the power envelope governor do (R405, R408 to R410, R415 to R417). -/
def Obligations.GovernorCommandsComplete : Prop :=
  ∀ s : State,
    (∀ p i : BitVec 24, s.govOn = true → ∃ t, exec (.peSampleEdge p i) s = .next t ∧
      t.gov.setpoint = p.toNat ∧ t.gov.sense = i.toNat ∧ t.gov.prevSense = s.gov.sense ∧ t.gov.lost = false ∧
      t.gov.clamped =
        decide (min (s.fld 0x40014 23 0) (max (s.fld 0x40010 23 0) p.toNat) ≠ p.toNat) ∧
      (t.gov.st = .feedback → s.gov.st ≠ .fallback → t.gov.budget = budgetStep
        (min (s.fld 0x40014 23 0) (max (s.fld 0x40010 23 0) p.toNat)) (s.fld 0x40008 23 0) s.gov.budget) ∧
      (s.gov.st = .start → s.fld 0x40000 23 16 ≠ 1 → t.gov.st = .feedback) ∧
      (s.gov.st = .fallback → t.gov.st = .fallback ∧
        t.gov.budget = budgetStep (s.fld 0x4000C 23 0) (s.fld 0x40008 23 0) s.gov.budget) ∧
      t.gov.haveEstimate = true ∧ t.gov.lastEdge = some s.now ∧
      t = { s with regs := t.regs, gov := t.gov, luns := t.luns, works := t.works, irq := t.irq, trace := t.trace,
                   counters := t.counters, saturated := t.saturated, stamp := t.stamp }) ∧
    (s.govOn = true → (s.gov.lost = true ∨ s.gov.st = .start) → ∃ t, exec .peInternalTick s = .next t ∧
      t.gov.st = s.gov.st ∧
      (s.gov.st ≠ .feedback → t.gov.budget =
        budgetStep (s.fld 0x4000C 23 0) (s.fld 0x40008 23 0) s.gov.budget) ∧
      t = { s with regs := t.regs, gov := t.gov, luns := t.luns, works := t.works, irq := t.irq, trace := t.trace,
                   counters := t.counters, saturated := t.saturated, stamp := t.stamp }) ∧
    (s.govOn = true → s.gov.st = .feedback → ∃ t, exec .strobeLost s = .next t ∧ t.gov.st = .fallback ∧
      t.gov.cause = 1 ∧ t.gov.lost = true ∧ t.gov.budget = min s.gov.budget (s.fld 0x4000C 23 0) ∧
      (s.hostWorks = true → isPending t 800 = true) ∧
      t = { s with regs := t.regs, gov := t.gov, luns := t.luns, works := t.works, irq := t.irq, trace := t.trace,
                   counters := t.counters, saturated := t.saturated, stamp := t.stamp }) ∧
    (s.govOn = true → s.gov.st = .fallback →
      exec .strobeLost s = .next { s with gov := { s.gov with lost := true } }) ∧
    (∀ recent, s.serving = true → s.gov.st = .fallback →
      ((s.gov.cause = 1 ∧ recent = true) ∨ (s.gov.cause = 2 ∧ s.gov.sense ≠ s.gov.prevSense) ∨
        (s.gov.cause ≠ 1 ∧ s.gov.cause ≠ 2 ∧ s.gov.inTol = true)) →
      ∃ t, exec (.peResume recent) s = .next t ∧ t.gov.st = .feedback ∧ t.gov.cause = 0 ∧
        t.gov.budget = s.gov.budget ∧ isPending t 801 = true ∧
        t = { s with regs := t.regs, gov := t.gov, irq := t.irq, trace := t.trace, counters := t.counters,
                     saturated := t.saturated }) ∧
    (∀ recent, s.serving = true → s.gov.st ≠ .fallback →
      exec (.peResume recent) s = .next (s.setBit 0x40020 31 true)) ∧
    (∀ c v, s.serving = true → c < 16 →
      exec (.peWeightWrite c v) s = .next (s.setReg (0x40080 + 4 * c) (v &&& 0xFFFF)))

/-- What the commands of calibration do (R427, R428, R431 to R435). -/
def Obligations.CalibrationCommandsComplete : Prop :=
  ∀ s : State,
    (∀ n apply, s.serving = true → n < s.nch → s.calReady n = true →
      ∃ t, exec (.calStart n apply) s = .next t ∧ (t.chan n).cal = { Cal.init with st := .queued, apply := apply } ∧
        t.calUnit = { s.calUnit with queue := s.calUnit.queue ++ [n] } ∧
        t.chan n = { s.chan n with cal := (t.chan n).cal } ∧ (∀ j, j ≠ n → t.chan j = s.chan j) ∧
        t = { s with chans := t.chans, calUnit := t.calUnit }) ∧
    (∀ n apply, s.serving = true → n < s.nch → s.calReady n = false →
      exec (.calStart n apply) s = .next (s.setBit (0x54000 + n * 0x40) 31 true)) ∧
    (∀ n rest, s.hostWorks = true → s.calUnit = { queue := n :: rest, current := none } →
      ∃ t, exec .calUnitTake s = .next t ∧ t.calUnit = { queue := rest, current := some n } ∧
        (t.chan n).cal = { (s.chan n).cal with st := .running, runs := 0, prev := none, cfg := s.reg 0x50000,
                                                 since := s.now } ∧
        (∀ j, j ≠ n → t.chan j = s.chan j) ∧
        (∀ k, (s.chan n).cal.tag = some k → (t.tag k).st = .issued) ∧
        ((s.chan n).cal.tag = none → t = { s with chans := t.chans, calUnit := t.calUnit })) ∧
    (∀ n pu pd odt vref, s.hostWorks = true → s.calUnit.current = some n → (s.chan n).inReset = false →
      (s.chan n).cal.prev = none → (s.chan n).cal.runs + 1 < max 2 (wfld (s.chan n).cal.cfg 23 20) →
      (s.chan n).cal.saturated [pu, pd, odt, vref] = false →
      ∃ t, exec (.calRunEnd (.codes pu pd odt vref)) s = .next t ∧ (t.chan n).cal = { (s.chan n).cal with
          runs := (s.chan n).cal.runs + 1,
          prev := some [pu, pd, if (s.chan n).cal.odtOff then nth (s.chan n).target 2 0 else odt, vref],
          cfg := s.reg 0x50000 } ∧
        (∀ j, j ≠ n → t.chan j = s.chan j) ∧ t = { s with chans := t.chans }) ∧
    (∀ n l pu pd odt vref, s.hostWorks = true → n < s.nch → s.calUnit.current = some n → (s.chan n).inReset = false →
      (s.chan n).cal.tag = none → (∀ e, e ∈ s.tags → e.2.opcode ≠ some .calibrate) →
      (s.chan n).cal.runs < 15 → (s.chan n).cal.prev = some l →
      (l.zip [pu, pd, if (s.chan n).cal.odtOff then nth (s.chan n).target 2 0 else odt, vref]).all
        (fun e => within (wfld (s.chan n).cal.cfg 19 16) e.2 e.1) = true → (s.chan n).cal.saturated [pu, pd, odt, vref] = false →
      ∃ t, exec (.calRunEnd (.codes pu pd odt vref)) s = .next t ∧ (t.chan n).cal = Cal.init ∧
        t.calUnit = { s.calUnit with current := none } ∧
        t.fld (calAt n + 4) 23 20 = (s.chan n).cal.runs + 1 ∧ t.fld (calAt n + 4) 10 8 = 0 ∧
        t.reg (calAt n + 0x18) =
          codeWord [pu, pd, if (s.chan n).cal.odtOff then nth (s.chan n).target 2 0 else odt, vref] ∧
        t.fld (calAt n + 8) 15 0 = min (s.fld (calAt n + 8) 15 0 + 1) 0xFFFF ∧ t.arrBit 0x50020 n = true ∧
        isPending t 816 = true ∧ ((s.chan n).cal.apply = false → (t.chan n).target = (s.chan n).target) ∧
        ((s.chan n).cal.apply = true → (s.chan n).target.length = 20 → nth (t.chan n).target 0 0 = pu ∧
          nth (t.chan n).target 1 0 = pd)) ∧
    (∀ n r cause, s.hostWorks = true → n < s.nch → s.calUnit.current = some n → (s.chan n).inReset = false →
      (s.chan n).cal.tag = none → (∀ e, e ∈ s.tags → e.2.opcode ≠ some .calibrate) →
      (s.chan n).cal.runs < 15 →
      ((cause = 3 ∧ ∃ o m, r = .referenceFault o m ∧ (o < 216 ∨ 264 < o ∨ m < 540 ∨ 660 < m)) ∨
        (cause = 2 ∧ ∃ a b c d, (r = .saturated a b c d ∨ r = .codes a b c d) ∧
          (s.chan n).cal.saturated [a, b, c, d] = true)) →
      ∃ t, exec (.calRunEnd r) s = .next t ∧ (t.chan n).cal = Cal.init ∧
        t.calUnit = { s.calUnit with current := none } ∧ t.fld (calAt n + 4) 10 8 = cause ∧
        t.fld (calAt n + 4) 23 20 = (s.chan n).cal.runs + 1 ∧ isPending t (if cause = 3 then 818 else 817) = true ∧
        (t.chan n).target = (s.chan n).target ∧ (t.chan n).live = (s.chan n).live) ∧
    (∀ n o m, s.hostWorks = true → s.calUnit.current = some n → 216 ≤ o → o ≤ 264 → 540 ≤ m → m ≤ 660 →
      exec (.calRunEnd (.referenceFault o m)) s = .next s) ∧
    (∀ n val, s.serving = true → n < s.nch → (s.chan n).cal.st = .idle → (s.chan n).target.length = 20 →
      ∃ t, exec (.trimImpTgtWrite n val) s = .next t ∧
        (∀ i, i < 4 → (nth (t.chan n).target i 0).toNat = wfld val (8 * i + 6) (8 * i)) ∧
        (∀ i, 4 ≤ i → nth (t.chan n).target i 0 = nth (s.chan n).target i 0) ∧
        (t.chan n).live = (s.chan n).live ∧ (∀ j, j ≠ n → t.chan j = s.chan j) ∧ t = { s with chans := t.chans }) ∧
    (∀ n val, s.serving = true → n < s.nch → (s.chan n).cal.st ≠ .idle →
      exec (.trimImpTgtWrite n val) s = .next (s.setBit (0x54000 + n * 0x40) 31 true))

/-- What the commands on the master image do (R185 to R187). -/
def Obligations.MasterImageCommandsComplete : Prop :=
  ∀ s : State,
    (s.serving = true → s.ph.master ≠ 2 → (∀ n, n < s.nch → (s.chan n).store ≠ .loading) →
      exec .mcOpen s = .next { s with ph := { s.ph with master := 1 } }) ∧
    (∀ n, s.serving = true → (s.ph.master = 2 ∨ (n < s.nch ∧ (s.chan n).store = .loading)) →
      exec .mcOpen s = .next (s.setBit 0x410000 31 true)) ∧
    (s.serving = true → s.ph.master = 1 → exec .mcVerify s = .next { s with ph := { s.ph with master := 2 } }) ∧
    (s.serving = true → s.ph.master ≠ 1 → exec .mcVerify s = .next (s.setBit 0x410000 31 true)) ∧
    (∀ c i, s.hostWorks = true → s.ph.master = 2 → s.mcFails = some (c, i) → (c ≤ 2 ∨ s.rawGroups = []) → i < 2048 →
      ∃ t, exec .verifyEnd s = .next t ∧ t.ph = { s.ph with master := 4 } ∧ t.fld 0x410004 7 4 = c ∧
        t.fld 0x410004 15 8 = i % 256 ∧ t.fld 0x410008 22 20 = i / 256 ∧ isPending t 825 = true) ∧
    (s.hostWorks = true → s.ph.master = 2 → (s.ties.keyHash = 0 ∨ s.ties.keyHash = BitVec.allOnes 384) →
      ∃ t, exec .verifyEnd s = .next t ∧ t.ph = { s.ph with master := 4 } ∧ t.fld 0x410004 7 4 = 1 ∧
        isPending t 825 = true) ∧
    (s.hostWorks = true → s.ph.master = 2 → s.mcFails = none → s.rawGroups = [] →
      ∃ t, exec .verifyEnd s = .next t ∧ t.ph = { s.ph with master := 3 } ∧ t.reg 0x410004 = s.reg 0x410004 ∧
        isPending t 824 = true ∧
        (∀ n, n < s.nch → (s.chan n).recStep ≠ .refreshWait → t.chan n = s.chan n) ∧
        (∀ n, n < s.nch → (s.chan n).recStep = .refreshWait →
          t.chan n = { s.chan n with store := .loading, recStep := .reset }))

/-- What the commands on fences, write protection and self-tests do (R479, R481, R482, R485, R488, R489). -/
def Obligations.ServiceCommandsComplete : Prop :=
  ∀ s : State,
    (∀ n, s.serving = true → n < s.nch → (∀ e, e ∈ s.works → e.2.ch ≠ n) →
      ((s.chan n).survey.st = .idle ∨ (s.chan n).survey.st = .waiting) →
      ∃ t, exec (.chanFenceSet n) s = .next t ∧ t.chan n = { s.chan n with fenced := true } ∧
        (∀ j, j ≠ n → t.chan j = s.chan j) ∧ t = { s with chans := t.chans }) ∧
    (∀ n, s.serving = true → n < s.nch → (∀ e, e ∈ s.works → e.2.ch ≠ n) → (s.chan n).fenced = false →
      (s.chan n).survey.st ≠ .idle → (s.chan n).survey.st ≠ .waiting → (s.chan n).survey.tag = none →
      ∃ t, exec (.chanFenceSet n) s = .next t ∧ (t.chan n).fenced = true ∧ (t.chan n).survey.st = .idle ∧
        t.fld (0x330000 + n * 0x100) 13 12 = 2) ∧
    (∀ n, s.serving = true → n < s.nch → (s.chan n).st ≠ .discovering → (s.chan n).st ≠ .training →
      (s.chan n).store ≠ .loading → s.stagingQuiet n = true → ∃ t, exec (.chanFenceClr n) s = .next t ∧
        t.chan n = { s.chan n with fenced := false } ∧ (∀ j, j ≠ n → t.chan j = s.chan j) ∧
        t = { s with chans := t.chans }) ∧
    (∀ n, s.serving = true → n < s.nch → ((s.chan n).st = .discovering ∨ (s.chan n).st = .training ∨
        (s.chan n).store = .loading) → exec (.chanFenceClr n) s = .next (s.setBit 8 31 true)) ∧
    (∀ n, s.serving = true → n < s.nch → (s.bay (n / 8)).st = .on → (s.chan n).st = .running →
      ∃ t, exec (.wpRelSet n) s = .next t ∧ t.arrBit 0x5080 n = true ∧ ((s.bay (n / 8)).glitch = false →
        t.wpHigh n = true) ∧ (∀ j, j ≠ n → j < 256 → t.arrBit 0x5080 j = s.arrBit 0x5080 j) ∧
        t = { s with regs := t.regs }) ∧
    (∀ n, s.serving = true → n < s.nch → ¬ ((s.bay (n / 8)).st = .on ∧ (s.chan n).st = .running) →
      exec (.wpRelSet n) s = .next (s.setBit 8 31 true)) ∧
    (∀ n, s.serving = true → n < s.nch → ∃ t, exec (.wpRelClr n) s = .next t ∧ t.arrBit 0x5080 n = false ∧
      (∀ j, j ≠ n → j < 256 → t.arrBit 0x5080 j = s.arrBit 0x5080 j) ∧ t = { s with regs := t.regs }) ∧
    (∀ n captured, s.hostWorks = true → s.lunOk n 0 = true → s.test.running = true → s.test.extended = true → s.testCovers n = true →
      s.chanRuns n = true → (s.chan n).bus.running = false → s.bestJob n = none → ∃ t, exec (.loopback n captured) s = .next t ∧
        t.test.outcomes = s.test.outcomes ++ [
          { ch := n, failing := [], codecFail := false, trimFail := false, loopbackFail := !captured,
            storeFail := false, skipped := false }] ∧
        t.test = { s.test with outcomes := t.test.outcomes } ∧ (t.chan n).bus.entry = 22 ∧
        (∀ j, j ≠ n → t.chan j = s.chan j) ∧
        t = { s with test := t.test, trace := t.trace, regs := t.regs, chans := t.chans, fresh := s.fresh + 1 }) ∧
    (∀ outcomes : List TestOutcome, s.hostWorks = true → s.test.running = true → s.test.stopping = false →
      (∀ o, o ∈ outcomes → o.ch < s.nch → s.testCovers o.ch = true →
        ((∃ a, a ∈ o.failing ∧ a / 640 ∈ s.testedFrames o.ch) ∨ o.codecFail = true ∨
          (o.trimFail = true ∧ (s.chan o.ch).st ≠ .discovering ∧ (s.chan o.ch).st ≠ .training) ∨ o.loopbackFail = true ∨
          (o.storeFail = true ∧ s.comparable o.ch = true)) →
        ∃ t, exec (.selfTestEnd outcomes) s = .next t ∧ t.test.running = false ∧ t.fld 0x5200 11 8 = 3 ∧
          isPending t 857 = true ∧ t.arrBit 0x5220 o.ch = true) ∧
      ((∀ o, o ∈ outcomes → s.testCovers o.ch = false) → (∀ i, i < 8 → s.reg (0x5220 + 4 * i) = 0) →
        ∃ t, exec (.selfTestEnd outcomes) s = .next t ∧ t.test = { s.test with running := false, outcomes := [] } ∧
          t.fld 0x5200 11 8 = 2 ∧ isPending t 856 = true)) ∧
    (∀ outcomes : List TestOutcome, s.hostWorks = true → s.test.running = true → s.test.stopping = true →
      ∃ t, exec (.selfTestEnd outcomes) s = .next t ∧ t.test.running = false ∧ t.test.stopping = false ∧
        t.fld 0x5200 11 8 = 4 ∧ isPending t 858 = true)

/-- What the commands that find, train and retrain a channel do (R16, R122, R132, R136, R137, R139, R427, R428). -/
def Obligations.TrainingCommandsComplete : Prop :=
  ∀ (s : State) (n : Nat), n < s.nch →
    (s.serving = true → (s.chan n).inReset = false → (s.chan n).store = .loaded → (s.chan n).fenced = true →
      s.chanBusy n = false → s.bayOn (n / 8) = true → (s.chan n).st ≠ .discovering → (s.chan n).st ≠ .training →
      s.reqOk n = true →
      ∃ t, exec (.discover n) s = .next t ∧ t.chan n = { s.chan n with st := .discovering, mode := 1, rate := 0 } ∧
        (∀ j, j ≠ n → t.chan j = s.chan j) ∧
        t.work s.nextWork = some { Work.new .reset .own (lunAddr n 0) none s.stamp with adm := .requested } ∧
        (∃ r, r ∈ t.gov.waiting ∧ r.work = s.nextWork ∧ r.cls = 10 ∧ r.planes = 0) ∧
        (∀ id, id ≠ s.nextWork → t.work id = s.work id) ∧ t.gov.grants = s.gov.grants ∧
        t = { s with chans := t.chans, works := t.works, nextWork := s.nextWork + 1, stamp := t.stamp, gov := t.gov,
                     counters := t.counters, saturated := t.saturated, regs := t.regs, trace := t.trace }) ∧
    (s.serving = true → (s.chan n).inReset = false → ((s.chan n).store ≠ .loaded ∨ (s.chan n).fenced = false ∨ s.reqOk n = false) →
      exec (.discover n) s = .next (s.setBit (chanPage n + 4) 31 true)) ∧
    (s.hostOn = true → (s.chan n).st = .discovering → (∃ e, e ∈ s.ownResets n ∧ e.2.sent = true) →
      ∃ t, exec (.discoveryEnd n []) s = .next t ∧ (t.chan n).st = .unconfigured ∧ (t.chan n).present = 0 ∧
        (∀ i, i < 8 → t.reg (geomAt n i) = 0 ∧ t.reg (geomAt n i + 4) = 0) ∧ t.bit (chanPage n + 0xA8) 0 = true) ∧
    (s.hostOn = true → (s.chan n).st = .discovering → (∀ e, e ∈ s.ownResets n → e.2.sent = false) →
      ∀ found, exec (.discoveryEnd n found) s = .next s) ∧
    (∀ r, s.hostOn = true → (s.chan n).st = .discovering → (∃ e, e ∈ s.ownResets n ∧ e.2.sent = true) → r.ce < 8 → targetUsable r = true → tgtFamily r = some false →
      s.fld (chanPage n + 4) 11 8 = 2 → rateOk (s.fld (chanPage n + 4) 23 16) = true →
      s.fld (chanPage n + 4) 23 16 ≤ 72 →
      ∃ t, exec (.discoveryEnd n [r]) s = .next t ∧ (t.chan n).st = .training ∧
        (t.chan n).mode = (s.chan n).mode ∧ (t.chan n).trainMode = (if (t.chan n).trainRate = 0 then 1 else 2) ∧
        (t.chan n).trainWhy = some .discovery ∧
        (t.chan n).trainRate = min (s.fld (chanPage n + 4) 23 16) (min 72 r.maxRate) ∧ (t.chan n).inReset = true ∧
        (t.chan n).present = BitVec.ofNat 8 (2 ^ r.ce) ∧ t.reg (geomAt n r.ce) = (targetWords r).1 ∧
        t.reg (geomAt n r.ce + 4) = (targetWords r).2 ∧
        t.bit (chanPage n + 0xA8) 0 = s.bit (chanPage n + 0xA8) 0) ∧
    (s.serving = true → (s.chan n).inReset = false → (s.chan n).store = .loaded → (s.chan n).fenced = true →
      s.busPhase n = false → ((s.chan n).st = .running ∨ (s.chan n).st = .unconfigured) →
      rateOk (s.fld (chanPage n + 4) 23 16) = true → s.modeOk n = true → s.presentTargets n ≠ [] →
      s.bayOn (n / 8) = true → ∃ t, exec (.setRate n) s = .next t ∧ (t.chan n).st = .training ∧
        (t.chan n).mode = (s.chan n).mode ∧
        (t.chan n).trainMode = (if (t.chan n).trainRate = 0 then 1 else s.fld (chanPage n + 4) 11 8) ∧
        (t.chan n).trainWhy = some .setRate ∧
        (t.chan n).inReset = true ∧ (t.chan n).live = (s.chan n).target ∧
        (s.fld (chanPage n + 4) 23 16 ≤ 72 →
          (t.chan n).trainRate = min (s.fld (chanPage n + 4) 23 16) (s.chan n).stdRate) ∧
        (72 < s.fld (chanPage n + 4) 23 16 → s.galeOk n (s.fld (chanPage n + 4) 23 16) = true →
          (t.chan n).trainRate = s.fld (chanPage n + 4) 23 16) ∧
        (72 < s.fld (chanPage n + 4) 23 16 → s.galeOk n (s.fld (chanPage n + 4) 23 16) = false →
          (t.chan n).trainRate = (if s.fld (chanPage n + 4) 23 16 = 128 ∧ s.galeOk n 96 = true then 96
            else (s.chan n).stdRate) ∧ t.bit (chanPage n + 0xA8) 2 = true)) ∧
    (s.serving = true → (s.chan n).inReset = false → (s.chan n).store = .loaded → (s.chan n).fenced = true →
      s.busPhase n = false → (s.chan n).st = .running → ∃ t, exec (.retrain n) s = .next t ∧
        (t.chan n).st = .training ∧ (t.chan n).trainRate = (s.chan n).rate ∧
        (t.chan n).trainMode = (if (s.chan n).rate = 0 then 1 else (s.chan n).mode) ∧
        (t.chan n).trainWhy = some .retrain ∧
        (t.chan n).inReset = decide ((s.chan n).rate ≤ 72) ∧ (t.chan n).live = (s.chan n).target ∧
        (t.chan n).trimOrder = []) ∧
    (s.hostOn = true → (s.chan n).st = .training → (s.chan n).inReset = true → (s.chan n).store ≠ .loading →
      ∃ t, exec (.pllRelock n) s = .next t ∧
        t.chan n = { s.chan n with
          inReset := false, live := (s.chan n).target, trimOrder := [],
          cal := if (s.chan n).cal.st = .running then { (s.chan n).cal with cfg := s.reg 0x50000, since := s.now }
                 else (s.chan n).cal,
          bus := (t.chan n).bus, msgs := (t.chan n).msgs, msgOpen := (t.chan n).msgOpen,
          msgDrop := (t.chan n).msgDrop } ∧
        ((s.chan n).image = none → 48 ≤ (s.chan n).trainRate → (t.chan n).bus.running = true ∧
          (t.chan n).bus.entry = 19 ∧ (t.chan n).bus.args = [4]) ∧
        (∀ j, j ≠ n → t.chan j = s.chan j) ∧
        t = { s with chans := t.chans, regs := t.regs, trace := t.trace, fresh := t.fresh }) ∧
    (∀ re we target eq vref rd wd, s.hostOn = true → (s.chan n).st = .training → (s.chan n).inReset = false →
      (s.chan n).store ≠ .loading → s.ownResets n = [] →
      ((s.chan n).trainWhy = some .setRate ∨ (s.chan n).trainWhy = some .retrain ∨
        (s.chan n).trainWhy = some .load ∨ (s.chan n).trainWhy = some .discovery) →
      ((s.chan n).trainRate < 48 ∨
        (s.fld (chanPage n + 0xA4) 5 0 ≤ re ∧ s.fld (chanPage n + 0xA4) 5 0 ≤ we)) →
      ∃ t, exec (.trainingEnd n (.ok re we target eq vref rd wd)) s = .next t ∧ (t.chan n).st = .running ∧
        (t.chan n).rate = (s.chan n).trainRate ∧ (t.chan n).mode = (s.chan n).trainMode ∧
        (t.chan n).trainWhy = none ∧ t.bit (chanPage n + 0xA8) 1 = true ∧
        ((s.chan n).trainWhy = some .discovery → t.bit (chanPage n + 0xA8) 0 = true) ∧
        t.fld (chanPage n + 0xAC) 15 0 = 0 ∧
        ((s.chan n).trainRate < 256 → t.fld (chanPage n + 0xA0) 7 0 = (s.chan n).trainRate ∧
          t.fld (chanPage n + 0xA0) 13 8 = re % 64 ∧ t.fld (chanPage n + 0xA0) 19 14 = we % 64) ∧
        ((s.chan n).trainRate < 48 → (t.chan n).live = (s.chan n).live ∧ (t.chan n).target = (s.chan n).target) ∧
        (48 ≤ (s.chan n).trainRate → (s.chan n).live.length = 20 → (s.chan n).target.length = 20 →
          nth (t.chan n).live 3 0 = vref ∧ nth (t.chan n).target 3 0 = vref)) ∧
    (∀ re we target eq vref rd wd, (s.chan n).inReset = false → 48 ≤ (s.chan n).trainRate →
      (re < s.fld (chanPage n + 0xA4) 5 0 ∨ we < s.fld (chanPage n + 0xA4) 5 0) →
      exec (.trainingEnd n (.ok re we target eq vref rd wd)) s = exec (.trainingEnd n (.fail 7 target)) s) ∧
    (∀ target, (s.chan n).inReset = true → s.ownResets n = [] →
      exec (.trainingEnd n (.busy target)) s = exec (.trainingEnd n (.fail 2 target)) s) ∧
    (∀ step target, s.hostOn = true → (s.chan n).st = .training → s.ownResets n = [] →
      (s.chan n).store ≠ .loading → target < 8 →
      (((s.chan n).inReset = true ∧ (step = 2 ∨ step = 3)) ∨
        ((s.chan n).inReset = false ∧ 4 ≤ step ∧ step ≤ 7 ∧ 48 ≤ (s.chan n).trainRate)) →
      ((s.chan n).trainWhy = some .setRate ∨ (s.chan n).trainWhy = some .retrain ∨ (s.chan n).trainWhy = some .load) →
      ∃ t, exec (.trainingEnd n (.fail step target)) s = .next t ∧
        t.fld (chanPage n + 0xA0) 26 24 = step ∧ t.fld (chanPage n + 0xA0) 29 27 = target ∧
        ((s.chan n).trainRate ≤ 72 → (t.chan n).st = .unconfigured ∧ (t.chan n).mode = 1 ∧ (t.chan n).rate = 0 ∧
          t.bit (chanPage n + 0xA8) 3 = true ∧ t.fld (chanPage n + 0xA0) 7 0 = 0) ∧
        (72 < (s.chan n).trainRate → (t.chan n).st = .training ∧ t.bit (chanPage n + 0xA8) 2 = true ∧
          (t.chan n).trainRate =
            (if 96 < (s.chan n).trainRate ∧ s.galeOk n 96 = true then 96
              else min (s.fld (chanPage n + 4) 23 16) (s.chan n).stdRate))) ∧
    (∀ late i rest, s.hostOn = true → (s.chan n).inReset = false →
      (s.chan n).trimOrder = i :: rest → (s.chan n).survey.st ≠ .eye →
      ∃ t, exec (.strobeTrackingWindow n late) s = .next t ∧
        (t.chan n).live = setNth (s.chan n).live i
          (if (nth (s.chan n).live i 0).toNat < (nth (s.chan n).target i 0).toNat then nth (s.chan n).live i 0 + 1
           else nth (s.chan n).live i 0 - 1) ∧
        (t.chan n).target = (s.chan n).target ∧ (∀ j, j ≠ n → t.chan j = s.chan j) ∧ t = { s with chans := t.chans }) ∧
    (∀ up, s.hostOn = true → (s.chan n).inReset = false → (s.chan n).st = .running → (s.chan n).trimOrder = [] →
      48 ≤ (s.chan n).rate →
      (signedOf 8 (s.fld (chanPage n + 0xAC) 7 0) + (if up then 1 else -1)).natAbs ≤
        max 1 (s.fld (chanPage n + 0xA4) 13 8) →
      ∃ t, exec (.strobeTrackingWindow n (some up)) s = .next t ∧
        signedOf 8 (t.fld (chanPage n + 0xAC) 7 0) =
          signedOf 8 (s.fld (chanPage n + 0xAC) 7 0) + (if up then 1 else -1) ∧
        t.fld (chanPage n + 0xAC) 15 8 = max (s.fld (chanPage n + 0xAC) 15 8)
          (signedOf 8 (s.fld (chanPage n + 0xAC) 7 0) + (if up then 1 else -1)).natAbs ∧ t = { s with regs := t.regs }) ∧
    (s.hostOn = true → (s.chan n).trimOrder = [] → exec (.strobeTrackingWindow n none) s = .next s)

/-- What the commands that load the microcode stores do (R189, R190, R191). -/
def Obligations.StoreCommandsComplete : Prop :=
  ∀ (s : State) (n : Nat), n < s.nch →
    (s.serving = true → (s.chan n).inReset = false → s.ph.master = 3 → s.loadReady n = true →
      (s.chan n).loadWhy ≠ some .fault →
      ∃ t, exec (.mcLoad n) s = .next t ∧ (t.chan n).store = .loading ∧ (t.chan n).inReset = true ∧
        (t.chan n).loadWhy = some .load ∧ 
        (t.chan n).before = (if (s.chan n).recStep = .idle then (s.chan n).st else (s.chan n).before) ∧ (t.chan n).msgs = [] ∧
        (∀ l, l < 16 → (t.lun (lunKey n l)).offsets = none) ∧ (∀ j, j ≠ n → t.chan j = s.chan j)) ∧
    (s.serving = true → (s.chan n).inReset = false → ¬ (s.ph.master = 3 ∧ s.loadReady n = true) →
      exec (.mcLoad n) s = .next (s.setBit (chanPage n + 0x804) 31 true)) ∧
    (s.serving = true → s.ph.master = 3 → ∃ t, exec .loadAll s = .next t ∧
      (∀ j, j < s.nch → s.loadReady j = true → (s.chan j).loadWhy ≠ some .fault → (t.chan j).store = .loading ∧ (t.chan j).inReset = true) ∧
      (∀ j, (s.loadReady j = false ∨ (s.chan j).loadWhy = some .fault) → t.chan j = s.chan j) ∧
      t.fld 0x410004 23 16 = min 0xFF (s.nch - ((countUp 0 s.nch).filter (fun j => s.loadReady j)).length)) ∧
    (s.serving = true → s.ph.master ≠ 3 → exec .loadAll s = .next (s.setBit 0x410000 31 true)) ∧
    (s.hostWorks = true → (s.chan n).store = .loading → (s.chan n).loadWhy = some .load →
      ((s.chan n).before ≠ .running ∨ (s.chan n).recStep ≠ .idle) → (s.chan n).recStep ≠ .reset → s.rawGroups = [] →
      ∃ t, exec (.channelLoadEnd n) s = .next t ∧
        t.chan n = { s.chan n with
          store := .loaded, image := some s.masterImage, loadWhy := none, inReset := false,
          live := (s.chan n).target, trimOrder := [],
          cal := if (s.chan n).cal.st = .running then { (s.chan n).cal with cfg := s.reg 0x50000, since := s.now }
                 else (s.chan n).cal,
          bus := (t.chan n).bus, msgs := (t.chan n).msgs, msgOpen := (t.chan n).msgOpen,
          msgDrop := (t.chan n).msgDrop } ∧
        (∀ j, j ≠ n → t.chan j = s.chan j) ∧ t.fld 0x410004 31 24 = n ∧ isPending t 826 = true) ∧
    (s.hostWorks = true → (s.chan n).store = .loading → (s.chan n).loadWhy = some .load →
      (s.chan n).recStep = .reset → s.rawGroups = [] → ∃ t, exec (.channelLoadEnd n) s = .next t ∧
        t.chan n = { s.chan n with store := .loaded, image := some s.masterImage, loadWhy := none } ∧
        t.fld 0x410004 31 24 = n ∧ isPending t 826 = true) ∧
    (s.hostWorks = true → (s.chan n).store = .loading → (s.chan n).loadWhy = some .load →
      (s.chan n).before = .running → (s.chan n).recStep = .idle → s.rawGroups = [] →
      ∃ t, exec (.channelLoadEnd n) s = .next t ∧ (t.chan n).store = .loaded ∧
        (t.chan n).image = some s.masterImage ∧ (t.chan n).st = .training ∧ (t.chan n).trainWhy = some .load ∧
        (t.chan n).trainRate = (s.chan n).rate ∧ t.fld 0x410004 31 24 = n ∧ isPending t 826 = true) ∧
    (s.hostWorks = true → (s.chan n).store = .loading → (s.chan n).loadWhy = some .load →
      (s.useEntry 6 0 40960).1 = true →
      ∃ t, exec (.channelLoadEnd n) s = .next t ∧ (t.chan n).store = .empty ∧ (t.chan n).image = none ∧
        (t.chan n).loadWhy = none ∧ t.ph.master = 4 ∧ t.fld 0x410004 7 4 = 10 ∧ isPending t 825 = true ∧
        (∀ j, j ≠ n → t.chan j = s.chan j)) ∧
    (s.hostWorks = true → (s.chan n).loadWhy = some .fault → s.ph.master = 3 → s.rawGroups = [] →
      ∃ t, exec (.storeRefresh n) s = .next t ∧ (t.chan n).store = .loaded ∧ (t.chan n).image = some s.masterImage ∧
        (t.chan n).loadWhy = none ∧ (t.chan n).recStep = .reset ∧
        t.fld (chanPage n + 0x808) 31 16 = min (s.fld (chanPage n + 0x808) 31 16 + 1) 0xFFFF ∧
        t.fld 0x410004 31 24 = n ∧ isPending t 827 = true) ∧
    (s.hostWorks = true → (s.chan n).loadWhy = some .fault → s.ph.master ≠ 3 → (s.chan n).recStep ≠ .refreshWait →
      ∃ t, exec (.storeRefresh n) s = .next t ∧ (t.chan n).recStep = .refreshWait ∧
        (t.chan n).store = (s.chan n).store ∧ isPending t 828 = true)

/-- What the commands of the protection unit do (R442, R445 to R447, R449, R451). -/
def Obligations.ProtectionCommandsComplete : Prop :=
  ∀ s : State,
    (∀ c, s.serving = true → c < 7 → ∃ t, exec (.logClear c) s = .next t ∧
      (∀ e, e < 32 → t.reg (mlogAt c e) = 0 ∧ t.reg (mlogAt c e + 4) = 0 ∧ t.reg (mlogAt c e + 8) = 0) ∧
      t.fld (0x60080 + 4 * c) 5 0 = 0 ∧ t.fld (0x60080 + 4 * c) 31 16 = s.fld (0x60080 + 4 * c) 31 16 ∧
      (∀ a, (a < mlogAt c 0 ∨ mlogAt c 32 ≤ a) → a ≠ 0x60080 + 4 * c → t.reg a = s.reg a) ∧
      t = { s with regs := t.regs }) ∧
    (∀ c, s.serving = true → 7 ≤ c → exec (.logClear c) s = .next (s.setBit 0x60000 31 true)) ∧
    (∀ addr d k v b, s.hostOn = true → (5, addr) ∈ s.writeBacks → (s.rawWord addr).raw = some (d, k) →
      wordDecode d k = (v, .corrected b) →
      ∃ t, exec (.correctedWriteback 5 addr) s = .next t ∧ (5, addr) ∉ t.writeBacks ∧
        t.rawWord addr = { s.rawWord addr with data := v, raw := none } ∧
        t = { s with words := t.words, spares := t.spares, writeBacks := t.writeBacks }) ∧
    (∀ n base, s.serving = true → n < s.nch → s.stagingReady n = true →
      (base = 0x60100 → exec (.memStgInit n) s = .next (s.setArrBit base n true)) ∧
      (base = 0x60120 → exec (.memBist n) s = .next (s.setArrBit base n true))) ∧
    (∀ n, s.serving = true → n < s.nch → s.stagingReady n = false →
      exec (.memStgInit n) s = .next (s.setBit 0x60000 31 true) ∧
      exec (.memBist n) s = .next (s.setBit 0x60000 31 true)) ∧
    (∀ n, s.hostOn = true → n < s.nch → s.arrBit 0x60100 n = true →
      ∃ t, exec (.stgInitEnd n) s = .next t ∧ t.arrBit 0x60100 n = false ∧ t.arrBit 0x60140 n = true ∧
        (∀ w, w / 40960 = n → t.fword w = FWord.init) ∧ (∀ w, w / 40960 ≠ n → t.fword w = s.fword w) ∧
        (∀ k, k / 8 = n → t.spare k = FWord.init) ∧ (∀ k, k / 8 ≠ n → t.spare k = s.spare k) ∧
        (s.hostWorks = true → isPending t 813 = true) ∧
        t = { s with regs := t.regs, words := t.words, spares := t.spares, irq := t.irq, trace := t.trace,
                     counters := t.counters, saturated := t.saturated }) ∧
    (∀ n failing bad, s.hostOn = true → n < s.nch → s.arrBit 0x60120 n = true →
      ∃ t, exec (.bistEnd n failing bad) s = .next t ∧ t.arrBit 0x60120 n = false ∧ t.arrBit 0x60140 n = true ∧
        (∀ w, w / 40960 = n → t.fword w = FWord.init) ∧ (∀ w, w / 40960 ≠ n → t.fword w = s.fword w) ∧
        (∀ k, k / 8 = n → t.spare k = FWord.init) ∧ (∀ k, k / 8 ≠ n → t.spare k = s.spare k) ∧
        (s.hostWorks = true → isPending t 813 = true) ∧
        t = { s with regs := t.regs, words := t.words, spares := t.spares, irq := t.irq, trace := t.trace,
                     counters := t.counters, saturated := t.saturated }) ∧
    (s.serving = true → s.bit 0x60008 31 = true → s.fld 0x60008 18 16 = 5 →
      s.rawWordExists (s.reg 0x6000C).toNat = true →
      (∀ d k, (s.rawWord (s.reg 0x6000C).toNat).raw = some (d, k) →
        ∃ t, exec .rawRead s = .next t ∧
          (∀ j, j < 8 → t.reg (0x60010 + 4 * j) = BitVec.ofNat 32 (d.toNat / 2 ^ (32 * j))) ∧
          wfld (t.reg 0x60030) 9 0 = k.toNat ∧ t = { s with regs := t.regs }) ∧
      (s.rawWordOpen (s.reg 0x6000C).toNat = true →
        ∃ t, exec .rawWrite s = .next t ∧
          (t.rawWord (s.reg 0x6000C).toNat).poison0 = s.bit 0x60030 10 ∧
          (t.rawWord (s.reg 0x6000C).toNat).poison1 = s.bit 0x60030 11 ∧
          (∃ d, (t.rawWord (s.reg 0x6000C).toNat).raw = some (d, BitVec.ofNat 10 (s.fld 0x60030 9 0)) ∧
            ∀ j, j < 8 → BitVec.ofNat 32 (d.toNat / 2 ^ (32 * j)) = s.reg (0x60010 + 4 * j)) ∧
          t = { s with words := t.words, spares := t.spares, writeBacks := t.writeBacks })) ∧
    (∀ c, s.serving = true → s.bit 0x60008 31 = true → s.fld 0x60008 18 16 = c → c ≠ 1 → c < 5 →
      groupExists c (s.reg 0x6000C).toNat = true →
      groupCheck (s.reg 0x60010) ≠ BitVec.ofNat 20 (s.reg 0x60030).toNat →
      ∃ t, exec .rawWrite s = .next t ∧ SMap.get t.rawGroups (groupKey c (s.reg 0x6000C).toNat) =
          some { data := s.reg 0x60010, check := BitVec.ofNat 20 (s.reg 0x60030).toNat, met := false } ∧
        (∀ k, k ≠ groupKey c (s.reg 0x6000C).toNat → SMap.get t.rawGroups k = SMap.get s.rawGroups k) ∧
        t = { s with regs := t.regs, ledger := t.ledger, obt := t.obt, rawGroups := t.rawGroups,
                     writeBacks := t.writeBacks }) ∧
    (∀ c g, s.serving = true → s.bit 0x60008 31 = true → s.fld 0x60008 18 16 = c → c ≠ 5 →
      groupExists c (s.reg 0x6000C).toNat = true →
      SMap.get s.rawGroups (groupKey c (s.reg 0x6000C).toNat) = some g →
      ∃ t, exec .rawRead s = .next t ∧ t.reg 0x60010 = g.data ∧ t.reg 0x60030 = BitVec.ofNat 32 g.check.toNat ∧
        t = { s with regs := t.regs }) ∧
    (s.serving = true → s.bit 0x60008 31 = false → exec .rawRead s = .next (s.setBit 0x60000 31 true))

/-- What the commands on frames, on the message FIFO and on the checker test mode do (R198, R199, R217, R243). -/
def Obligations.StagingCommandsComplete : Prop :=
  ∀ s : State,
    (∀ f, s.serving = true → f < 64 * s.nch → ∃ t, exec (.frameRetire f) s = .next t ∧
      ((s.frame f).st = .free ∨ (s.frame f).st = .reserved →
        t.frame f = { s.frame f with st := .retired, retire := true }) ∧
      ((s.frame f).st = .inUse ∨ (s.frame f).st = .held → t.frame f = { s.frame f with retire := true }) ∧
      ((s.frame f).st = .retired → t.frame f = s.frame f) ∧ (∀ g, g ≠ f → t.frame g = s.frame g) ∧
      t = { s with regs := t.regs, frames := t.frames }) ∧
    (∀ n v, s.serving = true → n < s.nch → ∃ t, exec (.framePoolWrite n v) s = .next t ∧
      t.fld (0x400 + 4 * n) 28 24 = wfld v 28 24 ∧ (∀ a, a ≠ 0x400 + 4 * n → t.reg a = s.reg a) ∧
      (∀ i, i < 64 → 64 - min 16 (wfld v 28 24) ≤ i → (s.frame (64 * n + i)).st = .free →
        (t.frame (64 * n + i)).st = .reserved) ∧
      (∀ i, i < 64 → i < 64 - min 16 (wfld v 28 24) → (s.frame (64 * n + i)).st = .reserved →
        (t.frame (64 * n + i)).st = .free ∨ (t.frame (64 * n + i)).st = .inUse) ∧
      (∀ f, (s.frame f).st ≠ .free → (s.frame f).st ≠ .reserved → t.frame f = s.frame f) ∧
      t = { s with regs := t.regs, frames := t.frames, tags := t.tags, works := t.works }) ∧
    (∀ n, s.serving = true → n < s.nch → (s.chan n).inReset = false →
      ((s.chan n).msgCount ≠ 0 →
        exec (.msgPop n) s = .next (s.setChan n { s.chan n with msgs := (s.chan n).msgs.tail }) ∧
        ∃ t, exec (.msgDrop n) s = .next t ∧
          (∀ a m b, (s.chan n).msgs = a ++ m :: b → (∀ x ∈ a, x.last = false) → m.last = true →
            (t.chan n).msgs = b) ∧
          t = { s with chans := t.chans }) ∧
      ((s.chan n).msgCount = 0 → (∃ t, exec (.msgPop n) s = .next t ∧ t.chan n = s.chan n) ∧
        ∃ t, exec (.msgDrop n) s = .next t ∧ t.chan n = s.chan n)) ∧
    (∀ v, s.serving = true →
      (s.bit 0x880 31 = false → bitOf v.toNat 31 = true →
        ∃ t, exec (.injectionArm v) s = .next t ∧ t.inj.left = max 1 (wfld v 23 16) ∧
          t.inj.gen = (if s.fld 0x888 30 0 = 0 then 0x7FFFFFFF else BitVec.ofNat 31 (s.fld 0x888 30 0)) ∧
          t.bit 0x880 31 = true ∧ t.reg 0x880 = v &&& 0x81FF00FF ∧ (∀ a, a ≠ 0x880 → t.reg a = s.reg a) ∧
          t = { s with regs := t.regs, inj := t.inj }) ∧
      (s.bit 0x880 31 = true → bitOf v.toNat 31 = false →
        exec (.injectionArm v) s =
          .next { s.setReg 0x880 (v &&& 0x81FF00FF) with inj := { s.inj with left := 0 } }) ∧
      (s.bit 0x880 31 = true → bitOf v.toNat 31 = true →
        exec (.injectionArm v) s = .next (s.setReg 0x880 (v &&& 0x81FF00FF))))

/-- The byte code has the check bits of R440's equations, corrects every single error in a stored byte and its check
bits, and detects every double error (R440). -/
def Obligations.ByteCodeCorrectsSingleErrors : Prop :=
  byteCheck 0x47 = 0x1B ∧ ∀ b, b < 256 →
    byteCheck b < 32 ∧
    bitOf (byteCheck b) 0 = (bitOf b 0 ^^ bitOf b 1 ^^ bitOf b 3 ^^ bitOf b 4 ^^ bitOf b 6) ∧
    bitOf (byteCheck b) 1 = (bitOf b 0 ^^ bitOf b 2 ^^ bitOf b 3 ^^ bitOf b 5 ^^ bitOf b 6) ∧
    bitOf (byteCheck b) 2 = (bitOf b 1 ^^ bitOf b 2 ^^ bitOf b 3 ^^ bitOf b 7) ∧
    bitOf (byteCheck b) 3 = (bitOf b 4 ^^ bitOf b 5 ^^ bitOf b 6 ^^ bitOf b 7) ∧
    bitOf (byteCheck b) 4 = (bitOf b 0 ^^ bitOf b 1 ^^ bitOf b 2 ^^ bitOf b 3 ^^ bitOf b 4 ^^ bitOf b 5 ^^ bitOf b 6 ^^
      bitOf b 7 ^^ bitOf (byteCheck b) 0 ^^ bitOf (byteCheck b) 1 ^^ bitOf (byteCheck b) 2 ^^ bitOf (byteCheck b) 3) ∧
    byteDecode b (byteCheck b) = (b, .clean) ∧
    (∀ i, i < 8 → byteDecode (b ^^^ 2 ^ i) (byteCheck b) = (b, .corrected i)) ∧
    (∀ i, i < 5 → byteDecode b (byteCheck b ^^^ 2 ^ i) = (b, .corrected (8 + i))) ∧
    (∀ i j, i < j → j < 8 → (byteDecode (b ^^^ 2 ^ i ^^^ 2 ^ j) (byteCheck b)).2 = .bad) ∧
    (∀ i j, i < 8 → j < 5 → (byteDecode (b ^^^ 2 ^ i) (byteCheck b ^^^ 2 ^ j)).2 = .bad) ∧
    (∀ i j, i < j → j < 5 → (byteDecode b (byteCheck b ^^^ 2 ^ i ^^^ 2 ^ j)).2 = .bad)

/-- What the commands of the Rinelle trace do (R498, R502 to R505). -/
def Obligations.TraceCommandsComplete : Prop :=
  ∀ s : State,
    (s.tracing = true → s.trace.buf.length < 65536 →
      (s.trace.buf.length + 1 < 65536 ∨ s.bit 0x70000 29 = false) →
      exec .timeSync s = .next { s with trace := { s.trace with
        buf := s.trace.buf ++ [traceRecord s.now 0x01 0x3FF s.now] } }) ∧
    (s.tracing = true → 65536 ≤ s.trace.buf.length → s.bit 0x70000 29 = true →
      exec .timeSync s = .next ((s.setBit 0x70000 31 false).setBit 0x70004 29 true)) ∧
    (s.tracing = true → 65536 ≤ s.trace.buf.length → s.bit 0x70000 29 = false →
      ∃ t, exec .timeSync s = .next t ∧ t.trace.buf = s.trace.buf ∧
        t.trace.dropped = min (s.trace.dropped + 1) 0xFFFFFFFF ∧
        t = { s with trace := t.trace, regs := t.regs }) ∧
    (s.hostOn = true → 0 < s.trace.dropped → s.trace.buf.length + 2 ≤ 65536 →
      (s.trace.buf.length + 2 < 65536 ∨ s.bit 0x70000 29 = false) →
      exec .lost s = .next { s with trace := { s.trace with
        buf := s.trace.buf ++ [traceRecord s.now 0x02 0x3FF s.trace.dropped, traceRecord s.now 0x01 0x3FF s.now],
        dropped := 0 } }) ∧
    (s.serving = true → s.bit 0x70000 30 = false →
      exec .trcPop s = .next { s with trace := { s.trace with buf := s.trace.buf.tail } }) ∧
    (s.serving = true → s.bit 0x70000 30 = true → exec .trcPop s = .next s) ∧
    (s.serving = true → s.bit 0x70000 31 = true → exec .trcFlush s = .next (s.setBit 0x70004 31 true)) ∧
    (s.serving = true → s.bit 0x70000 31 = false →
      ∃ t, exec .trcFlush s = .next t ∧ t.trace = { s.trace with buf := [] } ∧ t.reg 0x70014 = 0 ∧
        t.reg 0x70004 = wput (s.reg 0x70004) 29 29 0 ∧ (∀ a, a ≠ 0x70014 → a ≠ 0x70004 → t.reg a = s.reg a) ∧
        t = { s with trace := t.trace, regs := t.regs }) ∧
    (∀ r rest, s.hostOn = true → s.bit 0x70000 30 = true → s.trace.buf = r :: rest →
      exec .tracePortSend s = .next { s with trace := { s.trace with buf := rest, port := [r.extractLsb' 0 32,
        r.extractLsb' 32 32, r.extractLsb' 64 32, r.extractLsb' 96 32] } })

/-- What SNAPSHOT, SNAPSHOT_DONE and the commands on `DEVICE_TIME` do (R19, R496, R508). A snapshot of a channel's group
counts its BUS_BUSY first, by a free number (`State.busyClocks`, the model's choice, assumption log 77). -/
def Obligations.SnapshotAndTimeComplete : Prop :=
  ∀ s : State,
    (∀ group k, k < 32 → (k ≠ 31 ∨ s.nch ≤ group) →
      SMap.getD (s.busyClocks group).counters (32 * group + k) 0 = SMap.getD s.counters (32 * group + k) 0 ∧
      ((32 * group + k) ∈ (s.busyClocks group).saturated ↔ (32 * group + k) ∈ s.saturated)) ∧
    (∀ bank group clear, s.serving = true → bank < 2 → group ≤ 266 → s.bit (0x70104 + bank * 0x10) 31 = false →
      ∃ t, exec (.snapshot bank group clear) s = .next t ∧
        (∀ k, k < 32 →
          t.reg (0x71000 + bank * 0x100 + k * 8) =
            BitVec.ofNat 32 (SMap.getD (s.busyClocks group).counters (32 * group + k) 0).toNat ∧
          t.reg (0x71004 + bank * 0x100 + k * 8) =
            BitVec.ofNat 32 ((SMap.getD (s.busyClocks group).counters (32 * group + k) 0).toNat / 2 ^ 32 +
              (if (32 * group + k) ∈ (s.busyClocks group).saturated then 2 ^ 31 else 0)) ∧
          (clear = true → SMap.getD t.counters (32 * group + k) 0 = 0 ∧ (32 * group + k) ∉ t.saturated)) ∧
        t.reg (0x70108 + bank * 0x10) = BitVec.ofNat 32 s.now ∧
        t.reg (0x7010C + bank * 0x10) = BitVec.ofNat 32 (s.now / 2 ^ 32) ∧
        t.bit (0x70104 + bank * 0x10) 31 = true ∧ t.fld (0x70104 + bank * 0x10) 8 0 = group ∧
        (clear = false → t.counters = (s.busyClocks group).counters ∧ t.saturated = (s.busyClocks group).saturated) ∧
        (∀ g k, g ≠ group → k < 32 → SMap.getD t.counters (32 * g + k) 0 = SMap.getD s.counters (32 * g + k) 0) ∧
        (s.nch ≤ group → t.trace = s.trace ∧ t.fresh = s.fresh) ∧
        t = { s with regs := t.regs, counters := t.counters, saturated := t.saturated, trace := t.trace, fresh := t.fresh }) ∧
    (∀ bank group clear, s.serving = true → bank < 2 → (266 < group ∨ s.bit (0x70104 + bank * 0x10) 31 = true) →
      exec (.snapshot bank group clear) s = .next (s.setBit (0x70104 + bank * 0x10) 30 true)) ∧
    (∀ bank, s.hostOn = true → bank < 2 →
      exec (.snapshotDone bank) s = .next (s.setBit (0x70104 + bank * 0x10) 31 false)) ∧
    (s.hostOn = true → exec (.deviceTimeLoRead false) s =
      .next { s with ep := { s.ep with shadowHost := some (BitVec.ofNat 32 (s.now / 2 ^ 32)) } }) ∧
    (s.hostOn = true → exec (.deviceTimeLoRead true) s =
      .next { s with ep := { s.ep with shadowMgmt := some (BitVec.ofNat 32 (s.now / 2 ^ 32)) } }) ∧
    (s.hostOn = true → exec .deviceTimeFollowerReload s = .next { s with follower := s.deviceTime })

/-- The command at the front of the queue is executed on the state with the queue's rest; on an empty queue one
reference clock passes (the model's choice, assumption log 2), which adds 10 ns to `DEVICE_TIME` unless the always-on
reset is low (R495) and changes nothing but the two copies of the time. -/
def Obligations.StepTakesTheFrontCommand : Prop :=
  ∀ s : State,
    (∀ c rest, s.pending = c :: rest → step s = exec c { s with pending := rest }) ∧
    (s.pending = [] → ∃ t, step s = .next t ∧
      t.deviceTime = (if s.ph.powered && !s.ph.aonReset then s.deviceTime + 10 else s.deviceTime) ∧
      (t.follower = s.follower ∨ t.follower = t.deviceTime) ∧
      t = { s with deviceTime := t.deviceTime, follower := t.follower })

/-- Every command answers a next state, and changes no part of the state but those that `mayChange` names: no command
changes the queue of waiting commands or the build, only FUNDAMENTAL_RESET_RELEASE and POWER_REMOVAL change the captured
tie-offs (R515), and only AON_RESET and POWER_REMOVAL change `DEVICE_TIME` (R495). -/
def Obligations.CommandsKeepTheRest : Prop :=
  (∀ (c : Instr) (s : State), ∃ t, exec c s = .next t ∧ ∀ p, p ∉ mayChange c → p.same s t) ∧
  (∀ c : Instr, Part.pending ∉ mayChange c ∧ Part.build ∉ mayChange c ∧
    (Part.ties ∈ mayChange c → (∃ x, c = .fundamentalResetRelease x) ∨ c = .powerRemoval) ∧
    (Part.deviceTime ∈ mayChange c → c = .aonReset ∨ c = .powerRemoval))

/-- Every step keeps the invariant `inv`, from every state that meets it. -/
def Obligations.StepKeepsInvariant : Prop :=
  ∀ s t : State, inv s = true → step s = .next t → inv t = true

/-- After reset the invariant holds, no command waits, no interrupt source is pending, the tables are empty, the block
is in its always-on and block resets, and every register reads its reset value (R366, R475, R476). -/
def Obligations.ResetMeetsInvariant : Prop :=
  inv State.reset = true ∧ State.reset.pending = [] ∧ State.reset.ph.aonReset = true ∧
    State.reset.ph.blkReset = true ∧ (∀ n, isPending State.reset n = false) ∧
    (∀ off, State.reset.reg off = regReset off) ∧ (∀ k, (State.reset.tag k).st = .free)

end
end

