-- ==== Sys2Proof/Laws/Tables.lean ====
section
/-! SUPPORT. Laws of the sparse tables: a read after a write, and that every operation keeps the canonical form. -/

set_option Elab.async false
set_option linter.unusedTactic false
set_option linter.unreachableTactic false
set_option linter.unusedSimpArgs false

namespace Sys2Proof.Machine
variable {α : Type}

@[simp] theorem SMap.get_nil (k : Nat) : SMap.get ([] : SMap α) k = none := rfl

theorem SMap.get_insert (m : SMap α) (k j : Nat) (x : α) :
    SMap.get (SMap.insert m k x) j = if k = j then some x else SMap.get m j := by
  induction m with
  | nil => simp [SMap.insert, SMap.get]
  | cons e r ih =>
    obtain ⟨i, v⟩ := e
    simp only [SMap.insert]
    by_cases h1 : i = k
    · subst h1; by_cases h : i = j <;> simp [SMap.get, h]
    · by_cases h2 : k < i
      · simp [SMap.get, h1, h2]
      · simp only [h1, h2, if_false, SMap.get, ih]
        by_cases h3 : i = j
        · subst h3; simp [Ne.symm h1]
        · simp [h3]

theorem SMap.get_erase (m : SMap α) (k j : Nat) :
    SMap.get (SMap.erase m k) j = if k = j then none else SMap.get m j := by
  induction m with
  | nil => simp [SMap.erase, SMap.get]
  | cons e r ih =>
    obtain ⟨i, v⟩ := e
    simp only [SMap.erase]
    by_cases h1 : i = k
    · subst h1
      by_cases h : i = j
      · subst h; simpa using ih
      · simpa [SMap.get, h] using ih
    · simp only [h1, if_false, SMap.get, ih]
      by_cases h3 : i = j
      · subst h3; simp [Ne.symm h1]
      · simp [h3]

@[simp] theorem SMap.get_insert_self (m : SMap α) (k : Nat) (x : α) : SMap.get (SMap.insert m k x) k = some x := by
  simp [SMap.get_insert]

@[simp] theorem SMap.get_erase_self (m : SMap α) (k : Nat) : SMap.get (SMap.erase m k) k = none := by
  simp [SMap.get_erase]

variable [DecidableEq α]

theorem SMap.getD_setD (m : SMap α) (k j : Nat) (x d e : α) (h : k = j → d = e) :
    SMap.getD (SMap.setD m k x d) j e = if k = j then x else SMap.getD m j e := by
  unfold SMap.getD SMap.setD
  by_cases hx : x = d <;> by_cases hk : k = j <;> simp [hx, hk, SMap.get_insert, SMap.get_erase]
  exact (h hk).symm

omit [DecidableEq α] in
theorem SMap.rising_insert (m : SMap α) (b : Option Nat) (k : Nat) (x : α) (hb : ∀ i, b = some i → i < k)
    (h : SMap.rising b m = true) : SMap.rising b (SMap.insert m k x) = true := by
  induction m generalizing b with
  | nil => cases b <;> simp_all [SMap.insert, SMap.rising]
  | cons e r ih =>
    obtain ⟨i, v⟩ := e
    simp only [SMap.rising, Bool.and_eq_true] at h
    simp only [SMap.insert]
    by_cases h1 : i = k
    · subst h1; simpa [SMap.rising] using h
    · by_cases h2 : k < i
      · simp only [h1, h2, if_true, if_false, SMap.rising, Bool.and_eq_true]
        refine ⟨?_, by simp, h.2⟩
        cases b with
        | none => rfl
        | some j => simpa using hb j rfl
      · simp only [h1, h2, if_false, SMap.rising, Bool.and_eq_true]
        exact ⟨h.1, ih (some i) (by intro j hj; cases hj; omega) h.2⟩

omit [DecidableEq α] in
theorem SMap.rising_weaken (m : SMap α) (b c : Option Nat) (hbc : ∀ i, c = some i → ∃ j, b = some j ∧ i ≤ j)
    (h : SMap.rising b m = true) : SMap.rising c m = true := by
  cases m with
  | nil => rfl
  | cons e r =>
    obtain ⟨k, v⟩ := e
    simp only [SMap.rising, Bool.and_eq_true] at h ⊢
    refine ⟨?_, h.2⟩
    cases c with
    | none => rfl
    | some i =>
      obtain ⟨j, rfl, hj⟩ := hbc i rfl
      have := h.1
      simp only [decide_eq_true_eq] at this ⊢
      omega

omit [DecidableEq α] in
theorem SMap.rising_filter (m : SMap α) (b : Option Nat) (p : Nat × α → Bool) (h : SMap.rising b m = true) :
    SMap.rising b (m.filter p) = true := by
  induction m generalizing b with
  | nil => exact h
  | cons e r ih =>
    obtain ⟨i, v⟩ := e
    simp only [SMap.rising, Bool.and_eq_true] at h
    have hr : SMap.rising b r = true := by
      refine SMap.rising_weaken r (some i) b ?_ h.2
      intro j hj
      subst hj
      exact ⟨i, rfl, by have := h.1; simp only [decide_eq_true_eq] at this; omega⟩
    by_cases hp : p (i, v) = true
    · rw [List.filter_cons_of_pos hp]
      simp only [SMap.rising, Bool.and_eq_true]
      exact ⟨h.1, ih (some i) h.2⟩
    · rw [List.filter_cons_of_neg hp]; exact ih b hr

omit [DecidableEq α] in
theorem SMap.erase_eq_filter (m : SMap α) (k : Nat) : SMap.erase m k = m.filter (fun e => e.1 != k) := by
  induction m with
  | nil => rfl
  | cons e r ih =>
    obtain ⟨i, v⟩ := e
    by_cases h : i = k <;> simp [SMap.erase, h, ih]

omit [DecidableEq α] in
/-- The entry of a key and a value joins a table: all other entries were there before. -/
theorem SMap.mem_insert (m : SMap α) (k : Nat) (x : α) (e : Nat × α) (h : e ∈ SMap.insert m k x) :
    e = (k, x) ∨ e ∈ m := by
  induction m with
  | nil => simpa [SMap.insert] using h
  | cons a r ih =>
    obtain ⟨i, v⟩ := a
    simp only [SMap.insert] at h
    split at h
    · rcases List.mem_cons.1 h with h | h
      · exact .inl h
      · exact .inr (List.mem_cons_of_mem _ h)
    · split at h
      · rcases List.mem_cons.1 h with h | h
        · exact .inl h
        · exact .inr h
      · rcases List.mem_cons.1 h with h | h
        · exact .inr (h ▸ List.mem_cons_self)
        · rcases ih h with h | h
          · exact .inl h
          · exact .inr (List.mem_cons_of_mem _ h)

/-- A write keeps the canonical form. -/
theorem SMap.wf_setD (d : Nat → α) (m : SMap α) (k : Nat) (x : α) (h : SMap.wf d m = true) :
    SMap.wf d (SMap.setD m k x (d k)) = true := by
  simp only [SMap.wf, Bool.and_eq_true, List.all_eq_true, decide_eq_true_eq] at h ⊢
  unfold SMap.setD
  split
  · rw [SMap.erase_eq_filter]
    exact ⟨SMap.rising_filter m none _ h.1, fun e he => h.2 e (List.mem_filter.1 he).1⟩
  · rename_i hx
    refine ⟨SMap.rising_insert m none k x (by simp) h.1, fun e he => ?_⟩
    rcases SMap.mem_insert m k x e he with rfl | he
    · exact hx
    · exact h.2 e he

/-- A table with entries taken out keeps the canonical form. -/
theorem SMap.wf_filter (d : Nat → α) (m : SMap α) (p : Nat × α → Bool) (h : SMap.wf d m = true) :
    SMap.wf d (m.filter p) = true := by
  simp only [SMap.wf, Bool.and_eq_true, List.all_eq_true, decide_eq_true_eq] at h ⊢
  exact ⟨SMap.rising_filter m none p h.1, fun e he => h.2 e (List.mem_filter.1 he).1⟩

@[simp] theorem SMap.wf_nil (d : Nat → α) : SMap.wf d ([] : SMap α) = true := rfl

end Sys2Proof.Machine
end

