-- ==== Sys2Proof/Laws/State.lean ====
section
/-! SUPPORT. What the writers of `Machine/Access.lean` leave, one lemma for each: every field that it does not write, and
what the table or register that it writes reads as. -/

namespace Sys2Proof.Machine
open Sys2Proof

@[simp] theorem setQueue_fields (s : State) (k : Nat) (x : Queue) :
    (s.setQueue k x).pending = s.pending ∧ (s.setQueue k x).build = s.build ∧ (s.setQueue k x).ties = s.ties ∧
    (s.setQueue k x).ph = s.ph ∧ (s.setQueue k x).regs = s.regs ∧ (s.setQueue k x).cfg = s.cfg ∧
    (s.setQueue k x).ep = s.ep ∧ (s.setQueue k x).push = s.push ∧ (s.setQueue k x).arb = s.arb ∧
    (s.setQueue k x).tags = s.tags ∧ (s.setQueue k x).slots = s.slots ∧ (s.setQueue k x).works = s.works ∧
    (s.setQueue k x).luns = s.luns ∧ (s.setQueue k x).chans = s.chans ∧ (s.setQueue k x).frames = s.frames ∧
    (s.setQueue k x).words = s.words ∧ (s.setQueue k x).spares = s.spares ∧ (s.setQueue k x).accs = s.accs ∧
    (s.setQueue k x).obt = s.obt ∧ (s.setQueue k x).obtLo = s.obtLo ∧ (s.setQueue k x).obtDoomed = s.obtDoomed ∧
    (s.setQueue k x).rlt = s.rlt ∧ (s.setQueue k x).ledger = s.ledger ∧ (s.setQueue k x).ledgerLo = s.ledgerLo ∧
    (s.setQueue k x).adv = s.adv ∧ (s.setQueue k x).deferred = s.deferred ∧ (s.setQueue k x).carry = s.carry ∧
    (s.setQueue k x).dma = s.dma ∧ (s.setQueue k x).rings = s.rings ∧ (s.setQueue k x).wheels = s.wheels ∧
    (s.setQueue k x).irq = s.irq ∧ (s.setQueue k x).bays = s.bays ∧ (s.setQueue k x).gov = s.gov ∧
    (s.setQueue k x).calUnit = s.calUnit ∧ (s.setQueue k x).rawGroups = s.rawGroups ∧
    (s.setQueue k x).writeBacks = s.writeBacks ∧ (s.setQueue k x).test = s.test ∧ (s.setQueue k x).inj = s.inj ∧
    (s.setQueue k x).trace = s.trace ∧ (s.setQueue k x).counters = s.counters ∧
    (s.setQueue k x).saturated = s.saturated ∧ (s.setQueue k x).deviceTime = s.deviceTime ∧
    (s.setQueue k x).follower = s.follower ∧ (s.setQueue k x).stamp = s.stamp ∧
    (s.setQueue k x).nextWork = s.nextWork ∧ (s.setQueue k x).fresh = s.fresh :=   ⟨rfl, rfl, rfl, rfl, rfl, rfl, rfl, rfl, rfl, rfl, rfl, rfl, rfl, rfl, rfl, rfl, rfl, rfl, rfl, rfl, rfl, rfl,
    rfl, rfl, rfl, rfl, rfl, rfl, rfl, rfl, rfl, rfl, rfl, rfl, rfl, rfl, rfl, rfl, rfl, rfl, rfl, rfl, rfl, rfl,
    rfl, rfl⟩

/-- Table queue after a write: the written one, and every other as it was. -/
@[simp] theorem setQueue_get (s : State) (k j : Nat) (x : Queue) :
    (s.setQueue k x).queue j = if k = j then x else s.queue j := SMap.getD_setD _ _ _ _ _ _ fun _ => rfl

@[simp] theorem modQueue_get (s : State) (k j : Nat) (f : Queue → Queue) :
    (s.modQueue k f).queue j = if k = j then f (s.queue j) else s.queue j := by
  unfold State.modQueue; rw [setQueue_get]; split
  · next h => rw [h]
  · rfl

@[simp] theorem modQueue_fields (s : State) (k : Nat) (f : Queue → Queue) :
    (s.modQueue k f).pending = s.pending ∧ (s.modQueue k f).build = s.build ∧ (s.modQueue k f).ties = s.ties ∧
    (s.modQueue k f).ph = s.ph ∧ (s.modQueue k f).regs = s.regs ∧ (s.modQueue k f).cfg = s.cfg ∧
    (s.modQueue k f).ep = s.ep ∧ (s.modQueue k f).push = s.push ∧ (s.modQueue k f).arb = s.arb ∧
    (s.modQueue k f).tags = s.tags ∧ (s.modQueue k f).slots = s.slots ∧ (s.modQueue k f).works = s.works ∧
    (s.modQueue k f).luns = s.luns ∧ (s.modQueue k f).chans = s.chans ∧ (s.modQueue k f).frames = s.frames ∧
    (s.modQueue k f).words = s.words ∧ (s.modQueue k f).spares = s.spares ∧ (s.modQueue k f).accs = s.accs ∧
    (s.modQueue k f).obt = s.obt ∧ (s.modQueue k f).obtLo = s.obtLo ∧ (s.modQueue k f).obtDoomed = s.obtDoomed ∧
    (s.modQueue k f).rlt = s.rlt ∧ (s.modQueue k f).ledger = s.ledger ∧ (s.modQueue k f).ledgerLo = s.ledgerLo ∧
    (s.modQueue k f).adv = s.adv ∧ (s.modQueue k f).deferred = s.deferred ∧ (s.modQueue k f).carry = s.carry ∧
    (s.modQueue k f).dma = s.dma ∧ (s.modQueue k f).rings = s.rings ∧ (s.modQueue k f).wheels = s.wheels ∧
    (s.modQueue k f).irq = s.irq ∧ (s.modQueue k f).bays = s.bays ∧ (s.modQueue k f).gov = s.gov ∧
    (s.modQueue k f).calUnit = s.calUnit ∧ (s.modQueue k f).rawGroups = s.rawGroups ∧
    (s.modQueue k f).writeBacks = s.writeBacks ∧ (s.modQueue k f).test = s.test ∧ (s.modQueue k f).inj = s.inj ∧
    (s.modQueue k f).trace = s.trace ∧ (s.modQueue k f).counters = s.counters ∧
    (s.modQueue k f).saturated = s.saturated ∧ (s.modQueue k f).deviceTime = s.deviceTime ∧
    (s.modQueue k f).follower = s.follower ∧ (s.modQueue k f).stamp = s.stamp ∧
    (s.modQueue k f).nextWork = s.nextWork ∧ (s.modQueue k f).fresh = s.fresh :=   ⟨rfl, rfl, rfl, rfl, rfl, rfl, rfl, rfl, rfl, rfl, rfl, rfl, rfl, rfl, rfl, rfl, rfl, rfl, rfl, rfl, rfl, rfl,
    rfl, rfl, rfl, rfl, rfl, rfl, rfl, rfl, rfl, rfl, rfl, rfl, rfl, rfl, rfl, rfl, rfl, rfl, rfl, rfl, rfl, rfl,
    rfl, rfl⟩

@[simp] theorem setPushSlot_fields (s : State) (k : Nat) (x : PushSlot) :
    (s.setPushSlot k x).pending = s.pending ∧ (s.setPushSlot k x).build = s.build ∧
    (s.setPushSlot k x).ties = s.ties ∧ (s.setPushSlot k x).ph = s.ph ∧ (s.setPushSlot k x).regs = s.regs ∧
    (s.setPushSlot k x).cfg = s.cfg ∧ (s.setPushSlot k x).ep = s.ep ∧ (s.setPushSlot k x).queues = s.queues ∧
    (s.setPushSlot k x).arb = s.arb ∧ (s.setPushSlot k x).tags = s.tags ∧ (s.setPushSlot k x).slots = s.slots ∧
    (s.setPushSlot k x).works = s.works ∧ (s.setPushSlot k x).luns = s.luns ∧ (s.setPushSlot k x).chans = s.chans ∧
    (s.setPushSlot k x).frames = s.frames ∧ (s.setPushSlot k x).words = s.words ∧
    (s.setPushSlot k x).spares = s.spares ∧ (s.setPushSlot k x).accs = s.accs ∧ (s.setPushSlot k x).obt = s.obt ∧
    (s.setPushSlot k x).obtLo = s.obtLo ∧ (s.setPushSlot k x).obtDoomed = s.obtDoomed ∧
    (s.setPushSlot k x).rlt = s.rlt ∧ (s.setPushSlot k x).ledger = s.ledger ∧
    (s.setPushSlot k x).ledgerLo = s.ledgerLo ∧ (s.setPushSlot k x).adv = s.adv ∧
    (s.setPushSlot k x).deferred = s.deferred ∧ (s.setPushSlot k x).carry = s.carry ∧
    (s.setPushSlot k x).dma = s.dma ∧ (s.setPushSlot k x).rings = s.rings ∧ (s.setPushSlot k x).wheels = s.wheels ∧
    (s.setPushSlot k x).irq = s.irq ∧ (s.setPushSlot k x).bays = s.bays ∧ (s.setPushSlot k x).gov = s.gov ∧
    (s.setPushSlot k x).calUnit = s.calUnit ∧ (s.setPushSlot k x).rawGroups = s.rawGroups ∧
    (s.setPushSlot k x).writeBacks = s.writeBacks ∧ (s.setPushSlot k x).test = s.test ∧
    (s.setPushSlot k x).inj = s.inj ∧ (s.setPushSlot k x).trace = s.trace ∧
    (s.setPushSlot k x).counters = s.counters ∧ (s.setPushSlot k x).saturated = s.saturated ∧
    (s.setPushSlot k x).deviceTime = s.deviceTime ∧ (s.setPushSlot k x).follower = s.follower ∧
    (s.setPushSlot k x).stamp = s.stamp ∧ (s.setPushSlot k x).nextWork = s.nextWork ∧
    (s.setPushSlot k x).fresh = s.fresh :=   ⟨rfl, rfl, rfl, rfl, rfl, rfl, rfl, rfl, rfl, rfl, rfl, rfl, rfl, rfl, rfl, rfl, rfl, rfl, rfl, rfl, rfl, rfl,
    rfl, rfl, rfl, rfl, rfl, rfl, rfl, rfl, rfl, rfl, rfl, rfl, rfl, rfl, rfl, rfl, rfl, rfl, rfl, rfl, rfl, rfl,
    rfl, rfl⟩

/-- Table pushSlot after a write: the written one, and every other as it was. -/
@[simp] theorem setPushSlot_get (s : State) (k j : Nat) (x : PushSlot) :
    (s.setPushSlot k x).pushSlot j = if k = j then x else s.pushSlot j := SMap.getD_setD _ _ _ _ _ _ fun _ => rfl

@[simp] theorem modPushSlot_get (s : State) (k j : Nat) (f : PushSlot → PushSlot) :
    (s.modPushSlot k f).pushSlot j = if k = j then f (s.pushSlot j) else s.pushSlot j := by
  unfold State.modPushSlot; rw [setPushSlot_get]; split
  · next h => rw [h]
  · rfl

@[simp] theorem modPushSlot_fields (s : State) (k : Nat) (f : PushSlot → PushSlot) :
    (s.modPushSlot k f).pending = s.pending ∧ (s.modPushSlot k f).build = s.build ∧
    (s.modPushSlot k f).ties = s.ties ∧ (s.modPushSlot k f).ph = s.ph ∧ (s.modPushSlot k f).regs = s.regs ∧
    (s.modPushSlot k f).cfg = s.cfg ∧ (s.modPushSlot k f).ep = s.ep ∧ (s.modPushSlot k f).queues = s.queues ∧
    (s.modPushSlot k f).arb = s.arb ∧ (s.modPushSlot k f).tags = s.tags ∧ (s.modPushSlot k f).slots = s.slots ∧
    (s.modPushSlot k f).works = s.works ∧ (s.modPushSlot k f).luns = s.luns ∧ (s.modPushSlot k f).chans = s.chans ∧
    (s.modPushSlot k f).frames = s.frames ∧ (s.modPushSlot k f).words = s.words ∧
    (s.modPushSlot k f).spares = s.spares ∧ (s.modPushSlot k f).accs = s.accs ∧ (s.modPushSlot k f).obt = s.obt ∧
    (s.modPushSlot k f).obtLo = s.obtLo ∧ (s.modPushSlot k f).obtDoomed = s.obtDoomed ∧
    (s.modPushSlot k f).rlt = s.rlt ∧ (s.modPushSlot k f).ledger = s.ledger ∧
    (s.modPushSlot k f).ledgerLo = s.ledgerLo ∧ (s.modPushSlot k f).adv = s.adv ∧
    (s.modPushSlot k f).deferred = s.deferred ∧ (s.modPushSlot k f).carry = s.carry ∧
    (s.modPushSlot k f).dma = s.dma ∧ (s.modPushSlot k f).rings = s.rings ∧ (s.modPushSlot k f).wheels = s.wheels ∧
    (s.modPushSlot k f).irq = s.irq ∧ (s.modPushSlot k f).bays = s.bays ∧ (s.modPushSlot k f).gov = s.gov ∧
    (s.modPushSlot k f).calUnit = s.calUnit ∧ (s.modPushSlot k f).rawGroups = s.rawGroups ∧
    (s.modPushSlot k f).writeBacks = s.writeBacks ∧ (s.modPushSlot k f).test = s.test ∧
    (s.modPushSlot k f).inj = s.inj ∧ (s.modPushSlot k f).trace = s.trace ∧
    (s.modPushSlot k f).counters = s.counters ∧ (s.modPushSlot k f).saturated = s.saturated ∧
    (s.modPushSlot k f).deviceTime = s.deviceTime ∧ (s.modPushSlot k f).follower = s.follower ∧
    (s.modPushSlot k f).stamp = s.stamp ∧ (s.modPushSlot k f).nextWork = s.nextWork ∧
    (s.modPushSlot k f).fresh = s.fresh :=   ⟨rfl, rfl, rfl, rfl, rfl, rfl, rfl, rfl, rfl, rfl, rfl, rfl, rfl, rfl, rfl, rfl, rfl, rfl, rfl, rfl, rfl, rfl,
    rfl, rfl, rfl, rfl, rfl, rfl, rfl, rfl, rfl, rfl, rfl, rfl, rfl, rfl, rfl, rfl, rfl, rfl, rfl, rfl, rfl, rfl,
    rfl, rfl⟩

@[simp] theorem setTag_fields (s : State) (k : Nat) (x : Tag) :
    (s.setTag k x).pending = s.pending ∧ (s.setTag k x).build = s.build ∧ (s.setTag k x).ties = s.ties ∧
    (s.setTag k x).ph = s.ph ∧ (s.setTag k x).regs = s.regs ∧ (s.setTag k x).cfg = s.cfg ∧ (s.setTag k x).ep = s.ep ∧
    (s.setTag k x).queues = s.queues ∧ (s.setTag k x).push = s.push ∧ (s.setTag k x).arb = s.arb ∧
    (s.setTag k x).slots = s.slots ∧ (s.setTag k x).works = s.works ∧ (s.setTag k x).luns = s.luns ∧
    (s.setTag k x).chans = s.chans ∧ (s.setTag k x).frames = s.frames ∧ (s.setTag k x).words = s.words ∧
    (s.setTag k x).spares = s.spares ∧ (s.setTag k x).accs = s.accs ∧ (s.setTag k x).obt = s.obt ∧
    (s.setTag k x).obtLo = s.obtLo ∧ (s.setTag k x).obtDoomed = s.obtDoomed ∧ (s.setTag k x).rlt = s.rlt ∧
    (s.setTag k x).ledger = s.ledger ∧ (s.setTag k x).ledgerLo = s.ledgerLo ∧ (s.setTag k x).adv = s.adv ∧
    (s.setTag k x).deferred = s.deferred ∧ (s.setTag k x).carry = s.carry ∧ (s.setTag k x).dma = s.dma ∧
    (s.setTag k x).rings = s.rings ∧ (s.setTag k x).wheels = s.wheels ∧ (s.setTag k x).irq = s.irq ∧
    (s.setTag k x).bays = s.bays ∧ (s.setTag k x).gov = s.gov ∧ (s.setTag k x).calUnit = s.calUnit ∧
    (s.setTag k x).rawGroups = s.rawGroups ∧ (s.setTag k x).writeBacks = s.writeBacks ∧
    (s.setTag k x).test = s.test ∧ (s.setTag k x).inj = s.inj ∧ (s.setTag k x).trace = s.trace ∧
    (s.setTag k x).counters = s.counters ∧ (s.setTag k x).saturated = s.saturated ∧
    (s.setTag k x).deviceTime = s.deviceTime ∧ (s.setTag k x).follower = s.follower ∧
    (s.setTag k x).stamp = s.stamp ∧ (s.setTag k x).nextWork = s.nextWork ∧ (s.setTag k x).fresh = s.fresh :=   ⟨rfl, rfl, rfl, rfl, rfl, rfl, rfl, rfl, rfl, rfl, rfl, rfl, rfl, rfl, rfl, rfl, rfl, rfl, rfl, rfl, rfl, rfl,
    rfl, rfl, rfl, rfl, rfl, rfl, rfl, rfl, rfl, rfl, rfl, rfl, rfl, rfl, rfl, rfl, rfl, rfl, rfl, rfl, rfl, rfl,
    rfl, rfl⟩

/-- Table tag after a write: the written one, and every other as it was. -/
@[simp] theorem setTag_get (s : State) (k j : Nat) (x : Tag) :
    (s.setTag k x).tag j = if k = j then x else s.tag j := SMap.getD_setD _ _ _ _ _ _ fun _ => rfl

@[simp] theorem modTag_get (s : State) (k j : Nat) (f : Tag → Tag) :
    (s.modTag k f).tag j = if k = j then f (s.tag j) else s.tag j := by
  unfold State.modTag; rw [setTag_get]; split
  · next h => rw [h]
  · rfl

@[simp] theorem modTag_fields (s : State) (k : Nat) (f : Tag → Tag) :
    (s.modTag k f).pending = s.pending ∧ (s.modTag k f).build = s.build ∧ (s.modTag k f).ties = s.ties ∧
    (s.modTag k f).ph = s.ph ∧ (s.modTag k f).regs = s.regs ∧ (s.modTag k f).cfg = s.cfg ∧ (s.modTag k f).ep = s.ep ∧
    (s.modTag k f).queues = s.queues ∧ (s.modTag k f).push = s.push ∧ (s.modTag k f).arb = s.arb ∧
    (s.modTag k f).slots = s.slots ∧ (s.modTag k f).works = s.works ∧ (s.modTag k f).luns = s.luns ∧
    (s.modTag k f).chans = s.chans ∧ (s.modTag k f).frames = s.frames ∧ (s.modTag k f).words = s.words ∧
    (s.modTag k f).spares = s.spares ∧ (s.modTag k f).accs = s.accs ∧ (s.modTag k f).obt = s.obt ∧
    (s.modTag k f).obtLo = s.obtLo ∧ (s.modTag k f).obtDoomed = s.obtDoomed ∧ (s.modTag k f).rlt = s.rlt ∧
    (s.modTag k f).ledger = s.ledger ∧ (s.modTag k f).ledgerLo = s.ledgerLo ∧ (s.modTag k f).adv = s.adv ∧
    (s.modTag k f).deferred = s.deferred ∧ (s.modTag k f).carry = s.carry ∧ (s.modTag k f).dma = s.dma ∧
    (s.modTag k f).rings = s.rings ∧ (s.modTag k f).wheels = s.wheels ∧ (s.modTag k f).irq = s.irq ∧
    (s.modTag k f).bays = s.bays ∧ (s.modTag k f).gov = s.gov ∧ (s.modTag k f).calUnit = s.calUnit ∧
    (s.modTag k f).rawGroups = s.rawGroups ∧ (s.modTag k f).writeBacks = s.writeBacks ∧
    (s.modTag k f).test = s.test ∧ (s.modTag k f).inj = s.inj ∧ (s.modTag k f).trace = s.trace ∧
    (s.modTag k f).counters = s.counters ∧ (s.modTag k f).saturated = s.saturated ∧
    (s.modTag k f).deviceTime = s.deviceTime ∧ (s.modTag k f).follower = s.follower ∧
    (s.modTag k f).stamp = s.stamp ∧ (s.modTag k f).nextWork = s.nextWork ∧ (s.modTag k f).fresh = s.fresh :=   ⟨rfl, rfl, rfl, rfl, rfl, rfl, rfl, rfl, rfl, rfl, rfl, rfl, rfl, rfl, rfl, rfl, rfl, rfl, rfl, rfl, rfl, rfl,
    rfl, rfl, rfl, rfl, rfl, rfl, rfl, rfl, rfl, rfl, rfl, rfl, rfl, rfl, rfl, rfl, rfl, rfl, rfl, rfl, rfl, rfl,
    rfl, rfl⟩

@[simp] theorem setSlot_fields (s : State) (k : Nat) (x : Slot) :
    (s.setSlot k x).pending = s.pending ∧ (s.setSlot k x).build = s.build ∧ (s.setSlot k x).ties = s.ties ∧
    (s.setSlot k x).ph = s.ph ∧ (s.setSlot k x).regs = s.regs ∧ (s.setSlot k x).cfg = s.cfg ∧
    (s.setSlot k x).ep = s.ep ∧ (s.setSlot k x).queues = s.queues ∧ (s.setSlot k x).push = s.push ∧
    (s.setSlot k x).arb = s.arb ∧ (s.setSlot k x).tags = s.tags ∧ (s.setSlot k x).works = s.works ∧
    (s.setSlot k x).luns = s.luns ∧ (s.setSlot k x).chans = s.chans ∧ (s.setSlot k x).frames = s.frames ∧
    (s.setSlot k x).words = s.words ∧ (s.setSlot k x).spares = s.spares ∧ (s.setSlot k x).accs = s.accs ∧
    (s.setSlot k x).obt = s.obt ∧ (s.setSlot k x).obtLo = s.obtLo ∧ (s.setSlot k x).obtDoomed = s.obtDoomed ∧
    (s.setSlot k x).rlt = s.rlt ∧ (s.setSlot k x).ledger = s.ledger ∧ (s.setSlot k x).ledgerLo = s.ledgerLo ∧
    (s.setSlot k x).adv = s.adv ∧ (s.setSlot k x).deferred = s.deferred ∧ (s.setSlot k x).carry = s.carry ∧
    (s.setSlot k x).dma = s.dma ∧ (s.setSlot k x).rings = s.rings ∧ (s.setSlot k x).wheels = s.wheels ∧
    (s.setSlot k x).irq = s.irq ∧ (s.setSlot k x).bays = s.bays ∧ (s.setSlot k x).gov = s.gov ∧
    (s.setSlot k x).calUnit = s.calUnit ∧ (s.setSlot k x).rawGroups = s.rawGroups ∧
    (s.setSlot k x).writeBacks = s.writeBacks ∧ (s.setSlot k x).test = s.test ∧ (s.setSlot k x).inj = s.inj ∧
    (s.setSlot k x).trace = s.trace ∧ (s.setSlot k x).counters = s.counters ∧
    (s.setSlot k x).saturated = s.saturated ∧ (s.setSlot k x).deviceTime = s.deviceTime ∧
    (s.setSlot k x).follower = s.follower ∧ (s.setSlot k x).stamp = s.stamp ∧ (s.setSlot k x).nextWork = s.nextWork ∧
    (s.setSlot k x).fresh = s.fresh :=   ⟨rfl, rfl, rfl, rfl, rfl, rfl, rfl, rfl, rfl, rfl, rfl, rfl, rfl, rfl, rfl, rfl, rfl, rfl, rfl, rfl, rfl, rfl,
    rfl, rfl, rfl, rfl, rfl, rfl, rfl, rfl, rfl, rfl, rfl, rfl, rfl, rfl, rfl, rfl, rfl, rfl, rfl, rfl, rfl, rfl,
    rfl, rfl⟩

/-- Table slot after a write: the written one, and every other as it was. -/
@[simp] theorem setSlot_get (s : State) (k j : Nat) (x : Slot) :
    (s.setSlot k x).slot j = if k = j then x else s.slot j := SMap.getD_setD _ _ _ _ _ _ fun _ => rfl

@[simp] theorem modSlot_get (s : State) (k j : Nat) (f : Slot → Slot) :
    (s.modSlot k f).slot j = if k = j then f (s.slot j) else s.slot j := by
  unfold State.modSlot; rw [setSlot_get]; split
  · next h => rw [h]
  · rfl

@[simp] theorem modSlot_fields (s : State) (k : Nat) (f : Slot → Slot) :
    (s.modSlot k f).pending = s.pending ∧ (s.modSlot k f).build = s.build ∧ (s.modSlot k f).ties = s.ties ∧
    (s.modSlot k f).ph = s.ph ∧ (s.modSlot k f).regs = s.regs ∧ (s.modSlot k f).cfg = s.cfg ∧
    (s.modSlot k f).ep = s.ep ∧ (s.modSlot k f).queues = s.queues ∧ (s.modSlot k f).push = s.push ∧
    (s.modSlot k f).arb = s.arb ∧ (s.modSlot k f).tags = s.tags ∧ (s.modSlot k f).works = s.works ∧
    (s.modSlot k f).luns = s.luns ∧ (s.modSlot k f).chans = s.chans ∧ (s.modSlot k f).frames = s.frames ∧
    (s.modSlot k f).words = s.words ∧ (s.modSlot k f).spares = s.spares ∧ (s.modSlot k f).accs = s.accs ∧
    (s.modSlot k f).obt = s.obt ∧ (s.modSlot k f).obtLo = s.obtLo ∧ (s.modSlot k f).obtDoomed = s.obtDoomed ∧
    (s.modSlot k f).rlt = s.rlt ∧ (s.modSlot k f).ledger = s.ledger ∧ (s.modSlot k f).ledgerLo = s.ledgerLo ∧
    (s.modSlot k f).adv = s.adv ∧ (s.modSlot k f).deferred = s.deferred ∧ (s.modSlot k f).carry = s.carry ∧
    (s.modSlot k f).dma = s.dma ∧ (s.modSlot k f).rings = s.rings ∧ (s.modSlot k f).wheels = s.wheels ∧
    (s.modSlot k f).irq = s.irq ∧ (s.modSlot k f).bays = s.bays ∧ (s.modSlot k f).gov = s.gov ∧
    (s.modSlot k f).calUnit = s.calUnit ∧ (s.modSlot k f).rawGroups = s.rawGroups ∧
    (s.modSlot k f).writeBacks = s.writeBacks ∧ (s.modSlot k f).test = s.test ∧ (s.modSlot k f).inj = s.inj ∧
    (s.modSlot k f).trace = s.trace ∧ (s.modSlot k f).counters = s.counters ∧
    (s.modSlot k f).saturated = s.saturated ∧ (s.modSlot k f).deviceTime = s.deviceTime ∧
    (s.modSlot k f).follower = s.follower ∧ (s.modSlot k f).stamp = s.stamp ∧ (s.modSlot k f).nextWork = s.nextWork ∧
    (s.modSlot k f).fresh = s.fresh :=   ⟨rfl, rfl, rfl, rfl, rfl, rfl, rfl, rfl, rfl, rfl, rfl, rfl, rfl, rfl, rfl, rfl, rfl, rfl, rfl, rfl, rfl, rfl,
    rfl, rfl, rfl, rfl, rfl, rfl, rfl, rfl, rfl, rfl, rfl, rfl, rfl, rfl, rfl, rfl, rfl, rfl, rfl, rfl, rfl, rfl,
    rfl, rfl⟩

@[simp] theorem setLun_fields (s : State) (k : Nat) (x : Lun) :
    (s.setLun k x).pending = s.pending ∧ (s.setLun k x).build = s.build ∧ (s.setLun k x).ties = s.ties ∧
    (s.setLun k x).ph = s.ph ∧ (s.setLun k x).regs = s.regs ∧ (s.setLun k x).cfg = s.cfg ∧ (s.setLun k x).ep = s.ep ∧
    (s.setLun k x).queues = s.queues ∧ (s.setLun k x).push = s.push ∧ (s.setLun k x).arb = s.arb ∧
    (s.setLun k x).tags = s.tags ∧ (s.setLun k x).slots = s.slots ∧ (s.setLun k x).works = s.works ∧
    (s.setLun k x).chans = s.chans ∧ (s.setLun k x).frames = s.frames ∧ (s.setLun k x).words = s.words ∧
    (s.setLun k x).spares = s.spares ∧ (s.setLun k x).accs = s.accs ∧ (s.setLun k x).obt = s.obt ∧
    (s.setLun k x).obtLo = s.obtLo ∧ (s.setLun k x).obtDoomed = s.obtDoomed ∧ (s.setLun k x).rlt = s.rlt ∧
    (s.setLun k x).ledger = s.ledger ∧ (s.setLun k x).ledgerLo = s.ledgerLo ∧ (s.setLun k x).adv = s.adv ∧
    (s.setLun k x).deferred = s.deferred ∧ (s.setLun k x).carry = s.carry ∧ (s.setLun k x).dma = s.dma ∧
    (s.setLun k x).rings = s.rings ∧ (s.setLun k x).wheels = s.wheels ∧ (s.setLun k x).irq = s.irq ∧
    (s.setLun k x).bays = s.bays ∧ (s.setLun k x).gov = s.gov ∧ (s.setLun k x).calUnit = s.calUnit ∧
    (s.setLun k x).rawGroups = s.rawGroups ∧ (s.setLun k x).writeBacks = s.writeBacks ∧
    (s.setLun k x).test = s.test ∧ (s.setLun k x).inj = s.inj ∧ (s.setLun k x).trace = s.trace ∧
    (s.setLun k x).counters = s.counters ∧ (s.setLun k x).saturated = s.saturated ∧
    (s.setLun k x).deviceTime = s.deviceTime ∧ (s.setLun k x).follower = s.follower ∧
    (s.setLun k x).stamp = s.stamp ∧ (s.setLun k x).nextWork = s.nextWork ∧ (s.setLun k x).fresh = s.fresh :=   ⟨rfl, rfl, rfl, rfl, rfl, rfl, rfl, rfl, rfl, rfl, rfl, rfl, rfl, rfl, rfl, rfl, rfl, rfl, rfl, rfl, rfl, rfl,
    rfl, rfl, rfl, rfl, rfl, rfl, rfl, rfl, rfl, rfl, rfl, rfl, rfl, rfl, rfl, rfl, rfl, rfl, rfl, rfl, rfl, rfl,
    rfl, rfl⟩

/-- Table lun after a write: the written one, and every other as it was. -/
@[simp] theorem setLun_get (s : State) (k j : Nat) (x : Lun) :
    (s.setLun k x).lun j = if k = j then x else s.lun j := SMap.getD_setD _ _ _ _ _ _ fun _ => rfl

@[simp] theorem modLun_get (s : State) (k j : Nat) (f : Lun → Lun) :
    (s.modLun k f).lun j = if k = j then f (s.lun j) else s.lun j := by
  unfold State.modLun; rw [setLun_get]; split
  · next h => rw [h]
  · rfl

@[simp] theorem modLun_fields (s : State) (k : Nat) (f : Lun → Lun) :
    (s.modLun k f).pending = s.pending ∧ (s.modLun k f).build = s.build ∧ (s.modLun k f).ties = s.ties ∧
    (s.modLun k f).ph = s.ph ∧ (s.modLun k f).regs = s.regs ∧ (s.modLun k f).cfg = s.cfg ∧ (s.modLun k f).ep = s.ep ∧
    (s.modLun k f).queues = s.queues ∧ (s.modLun k f).push = s.push ∧ (s.modLun k f).arb = s.arb ∧
    (s.modLun k f).tags = s.tags ∧ (s.modLun k f).slots = s.slots ∧ (s.modLun k f).works = s.works ∧
    (s.modLun k f).chans = s.chans ∧ (s.modLun k f).frames = s.frames ∧ (s.modLun k f).words = s.words ∧
    (s.modLun k f).spares = s.spares ∧ (s.modLun k f).accs = s.accs ∧ (s.modLun k f).obt = s.obt ∧
    (s.modLun k f).obtLo = s.obtLo ∧ (s.modLun k f).obtDoomed = s.obtDoomed ∧ (s.modLun k f).rlt = s.rlt ∧
    (s.modLun k f).ledger = s.ledger ∧ (s.modLun k f).ledgerLo = s.ledgerLo ∧ (s.modLun k f).adv = s.adv ∧
    (s.modLun k f).deferred = s.deferred ∧ (s.modLun k f).carry = s.carry ∧ (s.modLun k f).dma = s.dma ∧
    (s.modLun k f).rings = s.rings ∧ (s.modLun k f).wheels = s.wheels ∧ (s.modLun k f).irq = s.irq ∧
    (s.modLun k f).bays = s.bays ∧ (s.modLun k f).gov = s.gov ∧ (s.modLun k f).calUnit = s.calUnit ∧
    (s.modLun k f).rawGroups = s.rawGroups ∧ (s.modLun k f).writeBacks = s.writeBacks ∧
    (s.modLun k f).test = s.test ∧ (s.modLun k f).inj = s.inj ∧ (s.modLun k f).trace = s.trace ∧
    (s.modLun k f).counters = s.counters ∧ (s.modLun k f).saturated = s.saturated ∧
    (s.modLun k f).deviceTime = s.deviceTime ∧ (s.modLun k f).follower = s.follower ∧
    (s.modLun k f).stamp = s.stamp ∧ (s.modLun k f).nextWork = s.nextWork ∧ (s.modLun k f).fresh = s.fresh :=   ⟨rfl, rfl, rfl, rfl, rfl, rfl, rfl, rfl, rfl, rfl, rfl, rfl, rfl, rfl, rfl, rfl, rfl, rfl, rfl, rfl, rfl, rfl,
    rfl, rfl, rfl, rfl, rfl, rfl, rfl, rfl, rfl, rfl, rfl, rfl, rfl, rfl, rfl, rfl, rfl, rfl, rfl, rfl, rfl, rfl,
    rfl, rfl⟩

@[simp] theorem setChan_fields (s : State) (k : Nat) (x : Chan) :
    (s.setChan k x).pending = s.pending ∧ (s.setChan k x).build = s.build ∧ (s.setChan k x).ties = s.ties ∧
    (s.setChan k x).ph = s.ph ∧ (s.setChan k x).regs = s.regs ∧ (s.setChan k x).cfg = s.cfg ∧
    (s.setChan k x).ep = s.ep ∧ (s.setChan k x).queues = s.queues ∧ (s.setChan k x).push = s.push ∧
    (s.setChan k x).arb = s.arb ∧ (s.setChan k x).tags = s.tags ∧ (s.setChan k x).slots = s.slots ∧
    (s.setChan k x).works = s.works ∧ (s.setChan k x).luns = s.luns ∧ (s.setChan k x).frames = s.frames ∧
    (s.setChan k x).words = s.words ∧ (s.setChan k x).spares = s.spares ∧ (s.setChan k x).accs = s.accs ∧
    (s.setChan k x).obt = s.obt ∧ (s.setChan k x).obtLo = s.obtLo ∧ (s.setChan k x).obtDoomed = s.obtDoomed ∧
    (s.setChan k x).rlt = s.rlt ∧ (s.setChan k x).ledger = s.ledger ∧ (s.setChan k x).ledgerLo = s.ledgerLo ∧
    (s.setChan k x).adv = s.adv ∧ (s.setChan k x).deferred = s.deferred ∧ (s.setChan k x).carry = s.carry ∧
    (s.setChan k x).dma = s.dma ∧ (s.setChan k x).rings = s.rings ∧ (s.setChan k x).wheels = s.wheels ∧
    (s.setChan k x).irq = s.irq ∧ (s.setChan k x).bays = s.bays ∧ (s.setChan k x).gov = s.gov ∧
    (s.setChan k x).calUnit = s.calUnit ∧ (s.setChan k x).rawGroups = s.rawGroups ∧
    (s.setChan k x).writeBacks = s.writeBacks ∧ (s.setChan k x).test = s.test ∧ (s.setChan k x).inj = s.inj ∧
    (s.setChan k x).trace = s.trace ∧ (s.setChan k x).counters = s.counters ∧
    (s.setChan k x).saturated = s.saturated ∧ (s.setChan k x).deviceTime = s.deviceTime ∧
    (s.setChan k x).follower = s.follower ∧ (s.setChan k x).stamp = s.stamp ∧ (s.setChan k x).nextWork = s.nextWork ∧
    (s.setChan k x).fresh = s.fresh :=   ⟨rfl, rfl, rfl, rfl, rfl, rfl, rfl, rfl, rfl, rfl, rfl, rfl, rfl, rfl, rfl, rfl, rfl, rfl, rfl, rfl, rfl, rfl,
    rfl, rfl, rfl, rfl, rfl, rfl, rfl, rfl, rfl, rfl, rfl, rfl, rfl, rfl, rfl, rfl, rfl, rfl, rfl, rfl, rfl, rfl,
    rfl, rfl⟩

/-- Table chan after a write: the written one, and every other as it was. -/
@[simp] theorem setChan_get (s : State) (k j : Nat) (x : Chan) :
    (s.setChan k x).chan j = if k = j then x else s.chan j := SMap.getD_setD _ _ _ _ _ _ fun _ => rfl

@[simp] theorem modChan_get (s : State) (k j : Nat) (f : Chan → Chan) :
    (s.modChan k f).chan j = if k = j then f (s.chan j) else s.chan j := by
  unfold State.modChan; rw [setChan_get]; split
  · next h => rw [h]
  · rfl

@[simp] theorem modChan_fields (s : State) (k : Nat) (f : Chan → Chan) :
    (s.modChan k f).pending = s.pending ∧ (s.modChan k f).build = s.build ∧ (s.modChan k f).ties = s.ties ∧
    (s.modChan k f).ph = s.ph ∧ (s.modChan k f).regs = s.regs ∧ (s.modChan k f).cfg = s.cfg ∧
    (s.modChan k f).ep = s.ep ∧ (s.modChan k f).queues = s.queues ∧ (s.modChan k f).push = s.push ∧
    (s.modChan k f).arb = s.arb ∧ (s.modChan k f).tags = s.tags ∧ (s.modChan k f).slots = s.slots ∧
    (s.modChan k f).works = s.works ∧ (s.modChan k f).luns = s.luns ∧ (s.modChan k f).frames = s.frames ∧
    (s.modChan k f).words = s.words ∧ (s.modChan k f).spares = s.spares ∧ (s.modChan k f).accs = s.accs ∧
    (s.modChan k f).obt = s.obt ∧ (s.modChan k f).obtLo = s.obtLo ∧ (s.modChan k f).obtDoomed = s.obtDoomed ∧
    (s.modChan k f).rlt = s.rlt ∧ (s.modChan k f).ledger = s.ledger ∧ (s.modChan k f).ledgerLo = s.ledgerLo ∧
    (s.modChan k f).adv = s.adv ∧ (s.modChan k f).deferred = s.deferred ∧ (s.modChan k f).carry = s.carry ∧
    (s.modChan k f).dma = s.dma ∧ (s.modChan k f).rings = s.rings ∧ (s.modChan k f).wheels = s.wheels ∧
    (s.modChan k f).irq = s.irq ∧ (s.modChan k f).bays = s.bays ∧ (s.modChan k f).gov = s.gov ∧
    (s.modChan k f).calUnit = s.calUnit ∧ (s.modChan k f).rawGroups = s.rawGroups ∧
    (s.modChan k f).writeBacks = s.writeBacks ∧ (s.modChan k f).test = s.test ∧ (s.modChan k f).inj = s.inj ∧
    (s.modChan k f).trace = s.trace ∧ (s.modChan k f).counters = s.counters ∧
    (s.modChan k f).saturated = s.saturated ∧ (s.modChan k f).deviceTime = s.deviceTime ∧
    (s.modChan k f).follower = s.follower ∧ (s.modChan k f).stamp = s.stamp ∧ (s.modChan k f).nextWork = s.nextWork ∧
    (s.modChan k f).fresh = s.fresh :=   ⟨rfl, rfl, rfl, rfl, rfl, rfl, rfl, rfl, rfl, rfl, rfl, rfl, rfl, rfl, rfl, rfl, rfl, rfl, rfl, rfl, rfl, rfl,
    rfl, rfl, rfl, rfl, rfl, rfl, rfl, rfl, rfl, rfl, rfl, rfl, rfl, rfl, rfl, rfl, rfl, rfl, rfl, rfl, rfl, rfl,
    rfl, rfl⟩

@[simp] theorem setFrame_fields (s : State) (k : Nat) (x : Frame) :
    (s.setFrame k x).pending = s.pending ∧ (s.setFrame k x).build = s.build ∧ (s.setFrame k x).ties = s.ties ∧
    (s.setFrame k x).ph = s.ph ∧ (s.setFrame k x).regs = s.regs ∧ (s.setFrame k x).cfg = s.cfg ∧
    (s.setFrame k x).ep = s.ep ∧ (s.setFrame k x).queues = s.queues ∧ (s.setFrame k x).push = s.push ∧
    (s.setFrame k x).arb = s.arb ∧ (s.setFrame k x).tags = s.tags ∧ (s.setFrame k x).slots = s.slots ∧
    (s.setFrame k x).works = s.works ∧ (s.setFrame k x).luns = s.luns ∧ (s.setFrame k x).chans = s.chans ∧
    (s.setFrame k x).words = s.words ∧ (s.setFrame k x).spares = s.spares ∧ (s.setFrame k x).accs = s.accs ∧
    (s.setFrame k x).obt = s.obt ∧ (s.setFrame k x).obtLo = s.obtLo ∧ (s.setFrame k x).obtDoomed = s.obtDoomed ∧
    (s.setFrame k x).rlt = s.rlt ∧ (s.setFrame k x).ledger = s.ledger ∧ (s.setFrame k x).ledgerLo = s.ledgerLo ∧
    (s.setFrame k x).adv = s.adv ∧ (s.setFrame k x).deferred = s.deferred ∧ (s.setFrame k x).carry = s.carry ∧
    (s.setFrame k x).dma = s.dma ∧ (s.setFrame k x).rings = s.rings ∧ (s.setFrame k x).wheels = s.wheels ∧
    (s.setFrame k x).irq = s.irq ∧ (s.setFrame k x).bays = s.bays ∧ (s.setFrame k x).gov = s.gov ∧
    (s.setFrame k x).calUnit = s.calUnit ∧ (s.setFrame k x).rawGroups = s.rawGroups ∧
    (s.setFrame k x).writeBacks = s.writeBacks ∧ (s.setFrame k x).test = s.test ∧ (s.setFrame k x).inj = s.inj ∧
    (s.setFrame k x).trace = s.trace ∧ (s.setFrame k x).counters = s.counters ∧
    (s.setFrame k x).saturated = s.saturated ∧ (s.setFrame k x).deviceTime = s.deviceTime ∧
    (s.setFrame k x).follower = s.follower ∧ (s.setFrame k x).stamp = s.stamp ∧
    (s.setFrame k x).nextWork = s.nextWork ∧ (s.setFrame k x).fresh = s.fresh :=   ⟨rfl, rfl, rfl, rfl, rfl, rfl, rfl, rfl, rfl, rfl, rfl, rfl, rfl, rfl, rfl, rfl, rfl, rfl, rfl, rfl, rfl, rfl,
    rfl, rfl, rfl, rfl, rfl, rfl, rfl, rfl, rfl, rfl, rfl, rfl, rfl, rfl, rfl, rfl, rfl, rfl, rfl, rfl, rfl, rfl,
    rfl, rfl⟩

/-- Table frame after a write: the written one, and every other as it was. -/
@[simp] theorem setFrame_get (s : State) (k j : Nat) (x : Frame) :
    (s.setFrame k x).frame j = if k = j then x else s.frame j := SMap.getD_setD _ _ _ _ _ _ fun _ => rfl

@[simp] theorem modFrame_get (s : State) (k j : Nat) (f : Frame → Frame) :
    (s.modFrame k f).frame j = if k = j then f (s.frame j) else s.frame j := by
  unfold State.modFrame; rw [setFrame_get]; split
  · next h => rw [h]
  · rfl

@[simp] theorem modFrame_fields (s : State) (k : Nat) (f : Frame → Frame) :
    (s.modFrame k f).pending = s.pending ∧ (s.modFrame k f).build = s.build ∧ (s.modFrame k f).ties = s.ties ∧
    (s.modFrame k f).ph = s.ph ∧ (s.modFrame k f).regs = s.regs ∧ (s.modFrame k f).cfg = s.cfg ∧
    (s.modFrame k f).ep = s.ep ∧ (s.modFrame k f).queues = s.queues ∧ (s.modFrame k f).push = s.push ∧
    (s.modFrame k f).arb = s.arb ∧ (s.modFrame k f).tags = s.tags ∧ (s.modFrame k f).slots = s.slots ∧
    (s.modFrame k f).works = s.works ∧ (s.modFrame k f).luns = s.luns ∧ (s.modFrame k f).chans = s.chans ∧
    (s.modFrame k f).words = s.words ∧ (s.modFrame k f).spares = s.spares ∧ (s.modFrame k f).accs = s.accs ∧
    (s.modFrame k f).obt = s.obt ∧ (s.modFrame k f).obtLo = s.obtLo ∧ (s.modFrame k f).obtDoomed = s.obtDoomed ∧
    (s.modFrame k f).rlt = s.rlt ∧ (s.modFrame k f).ledger = s.ledger ∧ (s.modFrame k f).ledgerLo = s.ledgerLo ∧
    (s.modFrame k f).adv = s.adv ∧ (s.modFrame k f).deferred = s.deferred ∧ (s.modFrame k f).carry = s.carry ∧
    (s.modFrame k f).dma = s.dma ∧ (s.modFrame k f).rings = s.rings ∧ (s.modFrame k f).wheels = s.wheels ∧
    (s.modFrame k f).irq = s.irq ∧ (s.modFrame k f).bays = s.bays ∧ (s.modFrame k f).gov = s.gov ∧
    (s.modFrame k f).calUnit = s.calUnit ∧ (s.modFrame k f).rawGroups = s.rawGroups ∧
    (s.modFrame k f).writeBacks = s.writeBacks ∧ (s.modFrame k f).test = s.test ∧ (s.modFrame k f).inj = s.inj ∧
    (s.modFrame k f).trace = s.trace ∧ (s.modFrame k f).counters = s.counters ∧
    (s.modFrame k f).saturated = s.saturated ∧ (s.modFrame k f).deviceTime = s.deviceTime ∧
    (s.modFrame k f).follower = s.follower ∧ (s.modFrame k f).stamp = s.stamp ∧
    (s.modFrame k f).nextWork = s.nextWork ∧ (s.modFrame k f).fresh = s.fresh :=   ⟨rfl, rfl, rfl, rfl, rfl, rfl, rfl, rfl, rfl, rfl, rfl, rfl, rfl, rfl, rfl, rfl, rfl, rfl, rfl, rfl, rfl, rfl,
    rfl, rfl, rfl, rfl, rfl, rfl, rfl, rfl, rfl, rfl, rfl, rfl, rfl, rfl, rfl, rfl, rfl, rfl, rfl, rfl, rfl, rfl,
    rfl, rfl⟩

@[simp] theorem setFword_fields (s : State) (k : Nat) (x : FWord) :
    (s.setFword k x).pending = s.pending ∧ (s.setFword k x).build = s.build ∧ (s.setFword k x).ties = s.ties ∧
    (s.setFword k x).ph = s.ph ∧ (s.setFword k x).regs = s.regs ∧ (s.setFword k x).cfg = s.cfg ∧
    (s.setFword k x).ep = s.ep ∧ (s.setFword k x).queues = s.queues ∧ (s.setFword k x).push = s.push ∧
    (s.setFword k x).arb = s.arb ∧ (s.setFword k x).tags = s.tags ∧ (s.setFword k x).slots = s.slots ∧
    (s.setFword k x).works = s.works ∧ (s.setFword k x).luns = s.luns ∧ (s.setFword k x).chans = s.chans ∧
    (s.setFword k x).frames = s.frames ∧ (s.setFword k x).spares = s.spares ∧ (s.setFword k x).accs = s.accs ∧
    (s.setFword k x).obt = s.obt ∧ (s.setFword k x).obtLo = s.obtLo ∧ (s.setFword k x).obtDoomed = s.obtDoomed ∧
    (s.setFword k x).rlt = s.rlt ∧ (s.setFword k x).ledger = s.ledger ∧ (s.setFword k x).ledgerLo = s.ledgerLo ∧
    (s.setFword k x).adv = s.adv ∧ (s.setFword k x).deferred = s.deferred ∧ (s.setFword k x).carry = s.carry ∧
    (s.setFword k x).dma = s.dma ∧ (s.setFword k x).rings = s.rings ∧ (s.setFword k x).wheels = s.wheels ∧
    (s.setFword k x).irq = s.irq ∧ (s.setFword k x).bays = s.bays ∧ (s.setFword k x).gov = s.gov ∧
    (s.setFword k x).calUnit = s.calUnit ∧ (s.setFword k x).rawGroups = s.rawGroups ∧
    (s.setFword k x).writeBacks = s.writeBacks ∧ (s.setFword k x).test = s.test ∧ (s.setFword k x).inj = s.inj ∧
    (s.setFword k x).trace = s.trace ∧ (s.setFword k x).counters = s.counters ∧
    (s.setFword k x).saturated = s.saturated ∧ (s.setFword k x).deviceTime = s.deviceTime ∧
    (s.setFword k x).follower = s.follower ∧ (s.setFword k x).stamp = s.stamp ∧
    (s.setFword k x).nextWork = s.nextWork ∧ (s.setFword k x).fresh = s.fresh :=   ⟨rfl, rfl, rfl, rfl, rfl, rfl, rfl, rfl, rfl, rfl, rfl, rfl, rfl, rfl, rfl, rfl, rfl, rfl, rfl, rfl, rfl, rfl,
    rfl, rfl, rfl, rfl, rfl, rfl, rfl, rfl, rfl, rfl, rfl, rfl, rfl, rfl, rfl, rfl, rfl, rfl, rfl, rfl, rfl, rfl,
    rfl, rfl⟩

/-- Table fword after a write: the written one, and every other as it was. -/
@[simp] theorem setFword_get (s : State) (k j : Nat) (x : FWord) :
    (s.setFword k x).fword j = if k = j then x else s.fword j := SMap.getD_setD _ _ _ _ _ _ fun _ => rfl

@[simp] theorem modFword_get (s : State) (k j : Nat) (f : FWord → FWord) :
    (s.modFword k f).fword j = if k = j then f (s.fword j) else s.fword j := by
  unfold State.modFword; rw [setFword_get]; split
  · next h => rw [h]
  · rfl

@[simp] theorem modFword_fields (s : State) (k : Nat) (f : FWord → FWord) :
    (s.modFword k f).pending = s.pending ∧ (s.modFword k f).build = s.build ∧ (s.modFword k f).ties = s.ties ∧
    (s.modFword k f).ph = s.ph ∧ (s.modFword k f).regs = s.regs ∧ (s.modFword k f).cfg = s.cfg ∧
    (s.modFword k f).ep = s.ep ∧ (s.modFword k f).queues = s.queues ∧ (s.modFword k f).push = s.push ∧
    (s.modFword k f).arb = s.arb ∧ (s.modFword k f).tags = s.tags ∧ (s.modFword k f).slots = s.slots ∧
    (s.modFword k f).works = s.works ∧ (s.modFword k f).luns = s.luns ∧ (s.modFword k f).chans = s.chans ∧
    (s.modFword k f).frames = s.frames ∧ (s.modFword k f).spares = s.spares ∧ (s.modFword k f).accs = s.accs ∧
    (s.modFword k f).obt = s.obt ∧ (s.modFword k f).obtLo = s.obtLo ∧ (s.modFword k f).obtDoomed = s.obtDoomed ∧
    (s.modFword k f).rlt = s.rlt ∧ (s.modFword k f).ledger = s.ledger ∧ (s.modFword k f).ledgerLo = s.ledgerLo ∧
    (s.modFword k f).adv = s.adv ∧ (s.modFword k f).deferred = s.deferred ∧ (s.modFword k f).carry = s.carry ∧
    (s.modFword k f).dma = s.dma ∧ (s.modFword k f).rings = s.rings ∧ (s.modFword k f).wheels = s.wheels ∧
    (s.modFword k f).irq = s.irq ∧ (s.modFword k f).bays = s.bays ∧ (s.modFword k f).gov = s.gov ∧
    (s.modFword k f).calUnit = s.calUnit ∧ (s.modFword k f).rawGroups = s.rawGroups ∧
    (s.modFword k f).writeBacks = s.writeBacks ∧ (s.modFword k f).test = s.test ∧ (s.modFword k f).inj = s.inj ∧
    (s.modFword k f).trace = s.trace ∧ (s.modFword k f).counters = s.counters ∧
    (s.modFword k f).saturated = s.saturated ∧ (s.modFword k f).deviceTime = s.deviceTime ∧
    (s.modFword k f).follower = s.follower ∧ (s.modFword k f).stamp = s.stamp ∧
    (s.modFword k f).nextWork = s.nextWork ∧ (s.modFword k f).fresh = s.fresh :=   ⟨rfl, rfl, rfl, rfl, rfl, rfl, rfl, rfl, rfl, rfl, rfl, rfl, rfl, rfl, rfl, rfl, rfl, rfl, rfl, rfl, rfl, rfl,
    rfl, rfl, rfl, rfl, rfl, rfl, rfl, rfl, rfl, rfl, rfl, rfl, rfl, rfl, rfl, rfl, rfl, rfl, rfl, rfl, rfl, rfl,
    rfl, rfl⟩

@[simp] theorem setSpare_fields (s : State) (k : Nat) (x : FWord) :
    (s.setSpare k x).pending = s.pending ∧ (s.setSpare k x).build = s.build ∧ (s.setSpare k x).ties = s.ties ∧
    (s.setSpare k x).ph = s.ph ∧ (s.setSpare k x).regs = s.regs ∧ (s.setSpare k x).cfg = s.cfg ∧
    (s.setSpare k x).ep = s.ep ∧ (s.setSpare k x).queues = s.queues ∧ (s.setSpare k x).push = s.push ∧
    (s.setSpare k x).arb = s.arb ∧ (s.setSpare k x).tags = s.tags ∧ (s.setSpare k x).slots = s.slots ∧
    (s.setSpare k x).works = s.works ∧ (s.setSpare k x).luns = s.luns ∧ (s.setSpare k x).chans = s.chans ∧
    (s.setSpare k x).frames = s.frames ∧ (s.setSpare k x).words = s.words ∧ (s.setSpare k x).accs = s.accs ∧
    (s.setSpare k x).obt = s.obt ∧ (s.setSpare k x).obtLo = s.obtLo ∧ (s.setSpare k x).obtDoomed = s.obtDoomed ∧
    (s.setSpare k x).rlt = s.rlt ∧ (s.setSpare k x).ledger = s.ledger ∧ (s.setSpare k x).ledgerLo = s.ledgerLo ∧
    (s.setSpare k x).adv = s.adv ∧ (s.setSpare k x).deferred = s.deferred ∧ (s.setSpare k x).carry = s.carry ∧
    (s.setSpare k x).dma = s.dma ∧ (s.setSpare k x).rings = s.rings ∧ (s.setSpare k x).wheels = s.wheels ∧
    (s.setSpare k x).irq = s.irq ∧ (s.setSpare k x).bays = s.bays ∧ (s.setSpare k x).gov = s.gov ∧
    (s.setSpare k x).calUnit = s.calUnit ∧ (s.setSpare k x).rawGroups = s.rawGroups ∧
    (s.setSpare k x).writeBacks = s.writeBacks ∧ (s.setSpare k x).test = s.test ∧ (s.setSpare k x).inj = s.inj ∧
    (s.setSpare k x).trace = s.trace ∧ (s.setSpare k x).counters = s.counters ∧
    (s.setSpare k x).saturated = s.saturated ∧ (s.setSpare k x).deviceTime = s.deviceTime ∧
    (s.setSpare k x).follower = s.follower ∧ (s.setSpare k x).stamp = s.stamp ∧
    (s.setSpare k x).nextWork = s.nextWork ∧ (s.setSpare k x).fresh = s.fresh :=   ⟨rfl, rfl, rfl, rfl, rfl, rfl, rfl, rfl, rfl, rfl, rfl, rfl, rfl, rfl, rfl, rfl, rfl, rfl, rfl, rfl, rfl, rfl,
    rfl, rfl, rfl, rfl, rfl, rfl, rfl, rfl, rfl, rfl, rfl, rfl, rfl, rfl, rfl, rfl, rfl, rfl, rfl, rfl, rfl, rfl,
    rfl, rfl⟩

/-- Table spare after a write: the written one, and every other as it was. -/
@[simp] theorem setSpare_get (s : State) (k j : Nat) (x : FWord) :
    (s.setSpare k x).spare j = if k = j then x else s.spare j := SMap.getD_setD _ _ _ _ _ _ fun _ => rfl

@[simp] theorem modSpare_get (s : State) (k j : Nat) (f : FWord → FWord) :
    (s.modSpare k f).spare j = if k = j then f (s.spare j) else s.spare j := by
  unfold State.modSpare; rw [setSpare_get]; split
  · next h => rw [h]
  · rfl

@[simp] theorem modSpare_fields (s : State) (k : Nat) (f : FWord → FWord) :
    (s.modSpare k f).pending = s.pending ∧ (s.modSpare k f).build = s.build ∧ (s.modSpare k f).ties = s.ties ∧
    (s.modSpare k f).ph = s.ph ∧ (s.modSpare k f).regs = s.regs ∧ (s.modSpare k f).cfg = s.cfg ∧
    (s.modSpare k f).ep = s.ep ∧ (s.modSpare k f).queues = s.queues ∧ (s.modSpare k f).push = s.push ∧
    (s.modSpare k f).arb = s.arb ∧ (s.modSpare k f).tags = s.tags ∧ (s.modSpare k f).slots = s.slots ∧
    (s.modSpare k f).works = s.works ∧ (s.modSpare k f).luns = s.luns ∧ (s.modSpare k f).chans = s.chans ∧
    (s.modSpare k f).frames = s.frames ∧ (s.modSpare k f).words = s.words ∧ (s.modSpare k f).accs = s.accs ∧
    (s.modSpare k f).obt = s.obt ∧ (s.modSpare k f).obtLo = s.obtLo ∧ (s.modSpare k f).obtDoomed = s.obtDoomed ∧
    (s.modSpare k f).rlt = s.rlt ∧ (s.modSpare k f).ledger = s.ledger ∧ (s.modSpare k f).ledgerLo = s.ledgerLo ∧
    (s.modSpare k f).adv = s.adv ∧ (s.modSpare k f).deferred = s.deferred ∧ (s.modSpare k f).carry = s.carry ∧
    (s.modSpare k f).dma = s.dma ∧ (s.modSpare k f).rings = s.rings ∧ (s.modSpare k f).wheels = s.wheels ∧
    (s.modSpare k f).irq = s.irq ∧ (s.modSpare k f).bays = s.bays ∧ (s.modSpare k f).gov = s.gov ∧
    (s.modSpare k f).calUnit = s.calUnit ∧ (s.modSpare k f).rawGroups = s.rawGroups ∧
    (s.modSpare k f).writeBacks = s.writeBacks ∧ (s.modSpare k f).test = s.test ∧ (s.modSpare k f).inj = s.inj ∧
    (s.modSpare k f).trace = s.trace ∧ (s.modSpare k f).counters = s.counters ∧
    (s.modSpare k f).saturated = s.saturated ∧ (s.modSpare k f).deviceTime = s.deviceTime ∧
    (s.modSpare k f).follower = s.follower ∧ (s.modSpare k f).stamp = s.stamp ∧
    (s.modSpare k f).nextWork = s.nextWork ∧ (s.modSpare k f).fresh = s.fresh :=   ⟨rfl, rfl, rfl, rfl, rfl, rfl, rfl, rfl, rfl, rfl, rfl, rfl, rfl, rfl, rfl, rfl, rfl, rfl, rfl, rfl, rfl, rfl,
    rfl, rfl, rfl, rfl, rfl, rfl, rfl, rfl, rfl, rfl, rfl, rfl, rfl, rfl, rfl, rfl, rfl, rfl, rfl, rfl, rfl, rfl,
    rfl, rfl⟩

@[simp] theorem setAcc_fields (s : State) (k : Nat) (x : Accumulator) :
    (s.setAcc k x).pending = s.pending ∧ (s.setAcc k x).build = s.build ∧ (s.setAcc k x).ties = s.ties ∧
    (s.setAcc k x).ph = s.ph ∧ (s.setAcc k x).regs = s.regs ∧ (s.setAcc k x).cfg = s.cfg ∧ (s.setAcc k x).ep = s.ep ∧
    (s.setAcc k x).queues = s.queues ∧ (s.setAcc k x).push = s.push ∧ (s.setAcc k x).arb = s.arb ∧
    (s.setAcc k x).tags = s.tags ∧ (s.setAcc k x).slots = s.slots ∧ (s.setAcc k x).works = s.works ∧
    (s.setAcc k x).luns = s.luns ∧ (s.setAcc k x).chans = s.chans ∧ (s.setAcc k x).frames = s.frames ∧
    (s.setAcc k x).words = s.words ∧ (s.setAcc k x).spares = s.spares ∧ (s.setAcc k x).obt = s.obt ∧
    (s.setAcc k x).obtLo = s.obtLo ∧ (s.setAcc k x).obtDoomed = s.obtDoomed ∧ (s.setAcc k x).rlt = s.rlt ∧
    (s.setAcc k x).ledger = s.ledger ∧ (s.setAcc k x).ledgerLo = s.ledgerLo ∧ (s.setAcc k x).adv = s.adv ∧
    (s.setAcc k x).deferred = s.deferred ∧ (s.setAcc k x).carry = s.carry ∧ (s.setAcc k x).dma = s.dma ∧
    (s.setAcc k x).rings = s.rings ∧ (s.setAcc k x).wheels = s.wheels ∧ (s.setAcc k x).irq = s.irq ∧
    (s.setAcc k x).bays = s.bays ∧ (s.setAcc k x).gov = s.gov ∧ (s.setAcc k x).calUnit = s.calUnit ∧
    (s.setAcc k x).rawGroups = s.rawGroups ∧ (s.setAcc k x).writeBacks = s.writeBacks ∧
    (s.setAcc k x).test = s.test ∧ (s.setAcc k x).inj = s.inj ∧ (s.setAcc k x).trace = s.trace ∧
    (s.setAcc k x).counters = s.counters ∧ (s.setAcc k x).saturated = s.saturated ∧
    (s.setAcc k x).deviceTime = s.deviceTime ∧ (s.setAcc k x).follower = s.follower ∧
    (s.setAcc k x).stamp = s.stamp ∧ (s.setAcc k x).nextWork = s.nextWork ∧ (s.setAcc k x).fresh = s.fresh :=   ⟨rfl, rfl, rfl, rfl, rfl, rfl, rfl, rfl, rfl, rfl, rfl, rfl, rfl, rfl, rfl, rfl, rfl, rfl, rfl, rfl, rfl, rfl,
    rfl, rfl, rfl, rfl, rfl, rfl, rfl, rfl, rfl, rfl, rfl, rfl, rfl, rfl, rfl, rfl, rfl, rfl, rfl, rfl, rfl, rfl,
    rfl, rfl⟩

/-- Table acc after a write: the written one, and every other as it was. -/
@[simp] theorem setAcc_get (s : State) (k j : Nat) (x : Accumulator) :
    (s.setAcc k x).acc j = if k = j then x else s.acc j := SMap.getD_setD _ _ _ _ _ _ fun _ => rfl

@[simp] theorem modAcc_get (s : State) (k j : Nat) (f : Accumulator → Accumulator) :
    (s.modAcc k f).acc j = if k = j then f (s.acc j) else s.acc j := by
  unfold State.modAcc; rw [setAcc_get]; split
  · next h => rw [h]
  · rfl

@[simp] theorem modAcc_fields (s : State) (k : Nat) (f : Accumulator → Accumulator) :
    (s.modAcc k f).pending = s.pending ∧ (s.modAcc k f).build = s.build ∧ (s.modAcc k f).ties = s.ties ∧
    (s.modAcc k f).ph = s.ph ∧ (s.modAcc k f).regs = s.regs ∧ (s.modAcc k f).cfg = s.cfg ∧ (s.modAcc k f).ep = s.ep ∧
    (s.modAcc k f).queues = s.queues ∧ (s.modAcc k f).push = s.push ∧ (s.modAcc k f).arb = s.arb ∧
    (s.modAcc k f).tags = s.tags ∧ (s.modAcc k f).slots = s.slots ∧ (s.modAcc k f).works = s.works ∧
    (s.modAcc k f).luns = s.luns ∧ (s.modAcc k f).chans = s.chans ∧ (s.modAcc k f).frames = s.frames ∧
    (s.modAcc k f).words = s.words ∧ (s.modAcc k f).spares = s.spares ∧ (s.modAcc k f).obt = s.obt ∧
    (s.modAcc k f).obtLo = s.obtLo ∧ (s.modAcc k f).obtDoomed = s.obtDoomed ∧ (s.modAcc k f).rlt = s.rlt ∧
    (s.modAcc k f).ledger = s.ledger ∧ (s.modAcc k f).ledgerLo = s.ledgerLo ∧ (s.modAcc k f).adv = s.adv ∧
    (s.modAcc k f).deferred = s.deferred ∧ (s.modAcc k f).carry = s.carry ∧ (s.modAcc k f).dma = s.dma ∧
    (s.modAcc k f).rings = s.rings ∧ (s.modAcc k f).wheels = s.wheels ∧ (s.modAcc k f).irq = s.irq ∧
    (s.modAcc k f).bays = s.bays ∧ (s.modAcc k f).gov = s.gov ∧ (s.modAcc k f).calUnit = s.calUnit ∧
    (s.modAcc k f).rawGroups = s.rawGroups ∧ (s.modAcc k f).writeBacks = s.writeBacks ∧
    (s.modAcc k f).test = s.test ∧ (s.modAcc k f).inj = s.inj ∧ (s.modAcc k f).trace = s.trace ∧
    (s.modAcc k f).counters = s.counters ∧ (s.modAcc k f).saturated = s.saturated ∧
    (s.modAcc k f).deviceTime = s.deviceTime ∧ (s.modAcc k f).follower = s.follower ∧
    (s.modAcc k f).stamp = s.stamp ∧ (s.modAcc k f).nextWork = s.nextWork ∧ (s.modAcc k f).fresh = s.fresh :=   ⟨rfl, rfl, rfl, rfl, rfl, rfl, rfl, rfl, rfl, rfl, rfl, rfl, rfl, rfl, rfl, rfl, rfl, rfl, rfl, rfl, rfl, rfl,
    rfl, rfl, rfl, rfl, rfl, rfl, rfl, rfl, rfl, rfl, rfl, rfl, rfl, rfl, rfl, rfl, rfl, rfl, rfl, rfl, rfl, rfl,
    rfl, rfl⟩

@[simp] theorem setObtEntry_fields (s : State) (k : Nat) (x : ObtEntry) :
    (s.setObtEntry k x).pending = s.pending ∧ (s.setObtEntry k x).build = s.build ∧
    (s.setObtEntry k x).ties = s.ties ∧ (s.setObtEntry k x).ph = s.ph ∧ (s.setObtEntry k x).regs = s.regs ∧
    (s.setObtEntry k x).cfg = s.cfg ∧ (s.setObtEntry k x).ep = s.ep ∧ (s.setObtEntry k x).queues = s.queues ∧
    (s.setObtEntry k x).push = s.push ∧ (s.setObtEntry k x).arb = s.arb ∧ (s.setObtEntry k x).tags = s.tags ∧
    (s.setObtEntry k x).slots = s.slots ∧ (s.setObtEntry k x).works = s.works ∧ (s.setObtEntry k x).luns = s.luns ∧
    (s.setObtEntry k x).chans = s.chans ∧ (s.setObtEntry k x).frames = s.frames ∧
    (s.setObtEntry k x).words = s.words ∧ (s.setObtEntry k x).spares = s.spares ∧ (s.setObtEntry k x).accs = s.accs ∧
    (s.setObtEntry k x).obtLo = s.obtLo ∧ (s.setObtEntry k x).obtDoomed = s.obtDoomed ∧
    (s.setObtEntry k x).rlt = s.rlt ∧ (s.setObtEntry k x).ledger = s.ledger ∧
    (s.setObtEntry k x).ledgerLo = s.ledgerLo ∧ (s.setObtEntry k x).adv = s.adv ∧
    (s.setObtEntry k x).deferred = s.deferred ∧ (s.setObtEntry k x).carry = s.carry ∧
    (s.setObtEntry k x).dma = s.dma ∧ (s.setObtEntry k x).rings = s.rings ∧ (s.setObtEntry k x).wheels = s.wheels ∧
    (s.setObtEntry k x).irq = s.irq ∧ (s.setObtEntry k x).bays = s.bays ∧ (s.setObtEntry k x).gov = s.gov ∧
    (s.setObtEntry k x).calUnit = s.calUnit ∧ (s.setObtEntry k x).rawGroups = s.rawGroups ∧
    (s.setObtEntry k x).writeBacks = s.writeBacks ∧ (s.setObtEntry k x).test = s.test ∧
    (s.setObtEntry k x).inj = s.inj ∧ (s.setObtEntry k x).trace = s.trace ∧
    (s.setObtEntry k x).counters = s.counters ∧ (s.setObtEntry k x).saturated = s.saturated ∧
    (s.setObtEntry k x).deviceTime = s.deviceTime ∧ (s.setObtEntry k x).follower = s.follower ∧
    (s.setObtEntry k x).stamp = s.stamp ∧ (s.setObtEntry k x).nextWork = s.nextWork ∧
    (s.setObtEntry k x).fresh = s.fresh :=   ⟨rfl, rfl, rfl, rfl, rfl, rfl, rfl, rfl, rfl, rfl, rfl, rfl, rfl, rfl, rfl, rfl, rfl, rfl, rfl, rfl, rfl, rfl,
    rfl, rfl, rfl, rfl, rfl, rfl, rfl, rfl, rfl, rfl, rfl, rfl, rfl, rfl, rfl, rfl, rfl, rfl, rfl, rfl, rfl, rfl,
    rfl, rfl⟩

/-- Table obtEntry after a write: the written one, and every other as it was. -/
@[simp] theorem setObtEntry_get (s : State) (k j : Nat) (x : ObtEntry) :
    (s.setObtEntry k x).obtEntry j = if k = j then x else s.obtEntry j := SMap.getD_setD _ _ _ _ _ _ fun _ => rfl

@[simp] theorem modObtEntry_get (s : State) (k j : Nat) (f : ObtEntry → ObtEntry) :
    (s.modObtEntry k f).obtEntry j = if k = j then f (s.obtEntry j) else s.obtEntry j := by
  unfold State.modObtEntry; rw [setObtEntry_get]; split
  · next h => rw [h]
  · rfl

@[simp] theorem modObtEntry_fields (s : State) (k : Nat) (f : ObtEntry → ObtEntry) :
    (s.modObtEntry k f).pending = s.pending ∧ (s.modObtEntry k f).build = s.build ∧
    (s.modObtEntry k f).ties = s.ties ∧ (s.modObtEntry k f).ph = s.ph ∧ (s.modObtEntry k f).regs = s.regs ∧
    (s.modObtEntry k f).cfg = s.cfg ∧ (s.modObtEntry k f).ep = s.ep ∧ (s.modObtEntry k f).queues = s.queues ∧
    (s.modObtEntry k f).push = s.push ∧ (s.modObtEntry k f).arb = s.arb ∧ (s.modObtEntry k f).tags = s.tags ∧
    (s.modObtEntry k f).slots = s.slots ∧ (s.modObtEntry k f).works = s.works ∧ (s.modObtEntry k f).luns = s.luns ∧
    (s.modObtEntry k f).chans = s.chans ∧ (s.modObtEntry k f).frames = s.frames ∧
    (s.modObtEntry k f).words = s.words ∧ (s.modObtEntry k f).spares = s.spares ∧ (s.modObtEntry k f).accs = s.accs ∧
    (s.modObtEntry k f).obtLo = s.obtLo ∧ (s.modObtEntry k f).obtDoomed = s.obtDoomed ∧
    (s.modObtEntry k f).rlt = s.rlt ∧ (s.modObtEntry k f).ledger = s.ledger ∧
    (s.modObtEntry k f).ledgerLo = s.ledgerLo ∧ (s.modObtEntry k f).adv = s.adv ∧
    (s.modObtEntry k f).deferred = s.deferred ∧ (s.modObtEntry k f).carry = s.carry ∧
    (s.modObtEntry k f).dma = s.dma ∧ (s.modObtEntry k f).rings = s.rings ∧ (s.modObtEntry k f).wheels = s.wheels ∧
    (s.modObtEntry k f).irq = s.irq ∧ (s.modObtEntry k f).bays = s.bays ∧ (s.modObtEntry k f).gov = s.gov ∧
    (s.modObtEntry k f).calUnit = s.calUnit ∧ (s.modObtEntry k f).rawGroups = s.rawGroups ∧
    (s.modObtEntry k f).writeBacks = s.writeBacks ∧ (s.modObtEntry k f).test = s.test ∧
    (s.modObtEntry k f).inj = s.inj ∧ (s.modObtEntry k f).trace = s.trace ∧
    (s.modObtEntry k f).counters = s.counters ∧ (s.modObtEntry k f).saturated = s.saturated ∧
    (s.modObtEntry k f).deviceTime = s.deviceTime ∧ (s.modObtEntry k f).follower = s.follower ∧
    (s.modObtEntry k f).stamp = s.stamp ∧ (s.modObtEntry k f).nextWork = s.nextWork ∧
    (s.modObtEntry k f).fresh = s.fresh :=   ⟨rfl, rfl, rfl, rfl, rfl, rfl, rfl, rfl, rfl, rfl, rfl, rfl, rfl, rfl, rfl, rfl, rfl, rfl, rfl, rfl, rfl, rfl,
    rfl, rfl, rfl, rfl, rfl, rfl, rfl, rfl, rfl, rfl, rfl, rfl, rfl, rfl, rfl, rfl, rfl, rfl, rfl, rfl, rfl, rfl,
    rfl, rfl⟩

@[simp] theorem setRltEntry_fields (s : State) (k : Nat) (x : RltEntry) :
    (s.setRltEntry k x).pending = s.pending ∧ (s.setRltEntry k x).build = s.build ∧
    (s.setRltEntry k x).ties = s.ties ∧ (s.setRltEntry k x).ph = s.ph ∧ (s.setRltEntry k x).regs = s.regs ∧
    (s.setRltEntry k x).cfg = s.cfg ∧ (s.setRltEntry k x).ep = s.ep ∧ (s.setRltEntry k x).queues = s.queues ∧
    (s.setRltEntry k x).push = s.push ∧ (s.setRltEntry k x).arb = s.arb ∧ (s.setRltEntry k x).tags = s.tags ∧
    (s.setRltEntry k x).slots = s.slots ∧ (s.setRltEntry k x).works = s.works ∧ (s.setRltEntry k x).luns = s.luns ∧
    (s.setRltEntry k x).chans = s.chans ∧ (s.setRltEntry k x).frames = s.frames ∧
    (s.setRltEntry k x).words = s.words ∧ (s.setRltEntry k x).spares = s.spares ∧ (s.setRltEntry k x).accs = s.accs ∧
    (s.setRltEntry k x).obt = s.obt ∧ (s.setRltEntry k x).obtLo = s.obtLo ∧
    (s.setRltEntry k x).obtDoomed = s.obtDoomed ∧ (s.setRltEntry k x).ledger = s.ledger ∧
    (s.setRltEntry k x).ledgerLo = s.ledgerLo ∧ (s.setRltEntry k x).adv = s.adv ∧
    (s.setRltEntry k x).deferred = s.deferred ∧ (s.setRltEntry k x).carry = s.carry ∧
    (s.setRltEntry k x).dma = s.dma ∧ (s.setRltEntry k x).rings = s.rings ∧ (s.setRltEntry k x).wheels = s.wheels ∧
    (s.setRltEntry k x).irq = s.irq ∧ (s.setRltEntry k x).bays = s.bays ∧ (s.setRltEntry k x).gov = s.gov ∧
    (s.setRltEntry k x).calUnit = s.calUnit ∧ (s.setRltEntry k x).rawGroups = s.rawGroups ∧
    (s.setRltEntry k x).writeBacks = s.writeBacks ∧ (s.setRltEntry k x).test = s.test ∧
    (s.setRltEntry k x).inj = s.inj ∧ (s.setRltEntry k x).trace = s.trace ∧
    (s.setRltEntry k x).counters = s.counters ∧ (s.setRltEntry k x).saturated = s.saturated ∧
    (s.setRltEntry k x).deviceTime = s.deviceTime ∧ (s.setRltEntry k x).follower = s.follower ∧
    (s.setRltEntry k x).stamp = s.stamp ∧ (s.setRltEntry k x).nextWork = s.nextWork ∧
    (s.setRltEntry k x).fresh = s.fresh :=   ⟨rfl, rfl, rfl, rfl, rfl, rfl, rfl, rfl, rfl, rfl, rfl, rfl, rfl, rfl, rfl, rfl, rfl, rfl, rfl, rfl, rfl, rfl,
    rfl, rfl, rfl, rfl, rfl, rfl, rfl, rfl, rfl, rfl, rfl, rfl, rfl, rfl, rfl, rfl, rfl, rfl, rfl, rfl, rfl, rfl,
    rfl, rfl⟩

/-- Table rltEntry after a write: the written one, and every other as it was. -/
@[simp] theorem setRltEntry_get (s : State) (k j : Nat) (x : RltEntry) :
    (s.setRltEntry k x).rltEntry j = if k = j then x else s.rltEntry j := SMap.getD_setD _ _ _ _ _ _ fun _ => rfl

@[simp] theorem modRltEntry_get (s : State) (k j : Nat) (f : RltEntry → RltEntry) :
    (s.modRltEntry k f).rltEntry j = if k = j then f (s.rltEntry j) else s.rltEntry j := by
  unfold State.modRltEntry; rw [setRltEntry_get]; split
  · next h => rw [h]
  · rfl

@[simp] theorem modRltEntry_fields (s : State) (k : Nat) (f : RltEntry → RltEntry) :
    (s.modRltEntry k f).pending = s.pending ∧ (s.modRltEntry k f).build = s.build ∧
    (s.modRltEntry k f).ties = s.ties ∧ (s.modRltEntry k f).ph = s.ph ∧ (s.modRltEntry k f).regs = s.regs ∧
    (s.modRltEntry k f).cfg = s.cfg ∧ (s.modRltEntry k f).ep = s.ep ∧ (s.modRltEntry k f).queues = s.queues ∧
    (s.modRltEntry k f).push = s.push ∧ (s.modRltEntry k f).arb = s.arb ∧ (s.modRltEntry k f).tags = s.tags ∧
    (s.modRltEntry k f).slots = s.slots ∧ (s.modRltEntry k f).works = s.works ∧ (s.modRltEntry k f).luns = s.luns ∧
    (s.modRltEntry k f).chans = s.chans ∧ (s.modRltEntry k f).frames = s.frames ∧
    (s.modRltEntry k f).words = s.words ∧ (s.modRltEntry k f).spares = s.spares ∧ (s.modRltEntry k f).accs = s.accs ∧
    (s.modRltEntry k f).obt = s.obt ∧ (s.modRltEntry k f).obtLo = s.obtLo ∧
    (s.modRltEntry k f).obtDoomed = s.obtDoomed ∧ (s.modRltEntry k f).ledger = s.ledger ∧
    (s.modRltEntry k f).ledgerLo = s.ledgerLo ∧ (s.modRltEntry k f).adv = s.adv ∧
    (s.modRltEntry k f).deferred = s.deferred ∧ (s.modRltEntry k f).carry = s.carry ∧
    (s.modRltEntry k f).dma = s.dma ∧ (s.modRltEntry k f).rings = s.rings ∧ (s.modRltEntry k f).wheels = s.wheels ∧
    (s.modRltEntry k f).irq = s.irq ∧ (s.modRltEntry k f).bays = s.bays ∧ (s.modRltEntry k f).gov = s.gov ∧
    (s.modRltEntry k f).calUnit = s.calUnit ∧ (s.modRltEntry k f).rawGroups = s.rawGroups ∧
    (s.modRltEntry k f).writeBacks = s.writeBacks ∧ (s.modRltEntry k f).test = s.test ∧
    (s.modRltEntry k f).inj = s.inj ∧ (s.modRltEntry k f).trace = s.trace ∧
    (s.modRltEntry k f).counters = s.counters ∧ (s.modRltEntry k f).saturated = s.saturated ∧
    (s.modRltEntry k f).deviceTime = s.deviceTime ∧ (s.modRltEntry k f).follower = s.follower ∧
    (s.modRltEntry k f).stamp = s.stamp ∧ (s.modRltEntry k f).nextWork = s.nextWork ∧
    (s.modRltEntry k f).fresh = s.fresh :=   ⟨rfl, rfl, rfl, rfl, rfl, rfl, rfl, rfl, rfl, rfl, rfl, rfl, rfl, rfl, rfl, rfl, rfl, rfl, rfl, rfl, rfl, rfl,
    rfl, rfl, rfl, rfl, rfl, rfl, rfl, rfl, rfl, rfl, rfl, rfl, rfl, rfl, rfl, rfl, rfl, rfl, rfl, rfl, rfl, rfl,
    rfl, rfl⟩

@[simp] theorem setLedgerEntry_fields (s : State) (k : Nat) (x : LedgerEntry) :
    (s.setLedgerEntry k x).pending = s.pending ∧ (s.setLedgerEntry k x).build = s.build ∧
    (s.setLedgerEntry k x).ties = s.ties ∧ (s.setLedgerEntry k x).ph = s.ph ∧ (s.setLedgerEntry k x).regs = s.regs ∧
    (s.setLedgerEntry k x).cfg = s.cfg ∧ (s.setLedgerEntry k x).ep = s.ep ∧
    (s.setLedgerEntry k x).queues = s.queues ∧ (s.setLedgerEntry k x).push = s.push ∧
    (s.setLedgerEntry k x).arb = s.arb ∧ (s.setLedgerEntry k x).tags = s.tags ∧
    (s.setLedgerEntry k x).slots = s.slots ∧ (s.setLedgerEntry k x).works = s.works ∧
    (s.setLedgerEntry k x).luns = s.luns ∧ (s.setLedgerEntry k x).chans = s.chans ∧
    (s.setLedgerEntry k x).frames = s.frames ∧ (s.setLedgerEntry k x).words = s.words ∧
    (s.setLedgerEntry k x).spares = s.spares ∧ (s.setLedgerEntry k x).accs = s.accs ∧
    (s.setLedgerEntry k x).obt = s.obt ∧ (s.setLedgerEntry k x).obtLo = s.obtLo ∧
    (s.setLedgerEntry k x).obtDoomed = s.obtDoomed ∧ (s.setLedgerEntry k x).rlt = s.rlt ∧
    (s.setLedgerEntry k x).ledgerLo = s.ledgerLo ∧ (s.setLedgerEntry k x).adv = s.adv ∧
    (s.setLedgerEntry k x).deferred = s.deferred ∧ (s.setLedgerEntry k x).carry = s.carry ∧
    (s.setLedgerEntry k x).dma = s.dma ∧ (s.setLedgerEntry k x).rings = s.rings ∧
    (s.setLedgerEntry k x).wheels = s.wheels ∧ (s.setLedgerEntry k x).irq = s.irq ∧
    (s.setLedgerEntry k x).bays = s.bays ∧ (s.setLedgerEntry k x).gov = s.gov ∧
    (s.setLedgerEntry k x).calUnit = s.calUnit ∧ (s.setLedgerEntry k x).rawGroups = s.rawGroups ∧
    (s.setLedgerEntry k x).writeBacks = s.writeBacks ∧ (s.setLedgerEntry k x).test = s.test ∧
    (s.setLedgerEntry k x).inj = s.inj ∧ (s.setLedgerEntry k x).trace = s.trace ∧
    (s.setLedgerEntry k x).counters = s.counters ∧ (s.setLedgerEntry k x).saturated = s.saturated ∧
    (s.setLedgerEntry k x).deviceTime = s.deviceTime ∧ (s.setLedgerEntry k x).follower = s.follower ∧
    (s.setLedgerEntry k x).stamp = s.stamp ∧ (s.setLedgerEntry k x).nextWork = s.nextWork ∧
    (s.setLedgerEntry k x).fresh = s.fresh :=   ⟨rfl, rfl, rfl, rfl, rfl, rfl, rfl, rfl, rfl, rfl, rfl, rfl, rfl, rfl, rfl, rfl, rfl, rfl, rfl, rfl, rfl, rfl,
    rfl, rfl, rfl, rfl, rfl, rfl, rfl, rfl, rfl, rfl, rfl, rfl, rfl, rfl, rfl, rfl, rfl, rfl, rfl, rfl, rfl, rfl,
    rfl, rfl⟩

/-- Table ledgerEntry after a write: the written one, and every other as it was. -/
@[simp] theorem setLedgerEntry_get (s : State) (k j : Nat) (x : LedgerEntry) :
    (s.setLedgerEntry k x).ledgerEntry j = if k = j then x else s.ledgerEntry j := SMap.getD_setD _ _ _ _ _ _ fun _ => rfl

@[simp] theorem modLedgerEntry_get (s : State) (k j : Nat) (f : LedgerEntry → LedgerEntry) :
    (s.modLedgerEntry k f).ledgerEntry j = if k = j then f (s.ledgerEntry j) else s.ledgerEntry j := by
  unfold State.modLedgerEntry; rw [setLedgerEntry_get]; split
  · next h => rw [h]
  · rfl

@[simp] theorem modLedgerEntry_fields (s : State) (k : Nat) (f : LedgerEntry → LedgerEntry) :
    (s.modLedgerEntry k f).pending = s.pending ∧ (s.modLedgerEntry k f).build = s.build ∧
    (s.modLedgerEntry k f).ties = s.ties ∧ (s.modLedgerEntry k f).ph = s.ph ∧ (s.modLedgerEntry k f).regs = s.regs ∧
    (s.modLedgerEntry k f).cfg = s.cfg ∧ (s.modLedgerEntry k f).ep = s.ep ∧
    (s.modLedgerEntry k f).queues = s.queues ∧ (s.modLedgerEntry k f).push = s.push ∧
    (s.modLedgerEntry k f).arb = s.arb ∧ (s.modLedgerEntry k f).tags = s.tags ∧
    (s.modLedgerEntry k f).slots = s.slots ∧ (s.modLedgerEntry k f).works = s.works ∧
    (s.modLedgerEntry k f).luns = s.luns ∧ (s.modLedgerEntry k f).chans = s.chans ∧
    (s.modLedgerEntry k f).frames = s.frames ∧ (s.modLedgerEntry k f).words = s.words ∧
    (s.modLedgerEntry k f).spares = s.spares ∧ (s.modLedgerEntry k f).accs = s.accs ∧
    (s.modLedgerEntry k f).obt = s.obt ∧ (s.modLedgerEntry k f).obtLo = s.obtLo ∧
    (s.modLedgerEntry k f).obtDoomed = s.obtDoomed ∧ (s.modLedgerEntry k f).rlt = s.rlt ∧
    (s.modLedgerEntry k f).ledgerLo = s.ledgerLo ∧ (s.modLedgerEntry k f).adv = s.adv ∧
    (s.modLedgerEntry k f).deferred = s.deferred ∧ (s.modLedgerEntry k f).carry = s.carry ∧
    (s.modLedgerEntry k f).dma = s.dma ∧ (s.modLedgerEntry k f).rings = s.rings ∧
    (s.modLedgerEntry k f).wheels = s.wheels ∧ (s.modLedgerEntry k f).irq = s.irq ∧
    (s.modLedgerEntry k f).bays = s.bays ∧ (s.modLedgerEntry k f).gov = s.gov ∧
    (s.modLedgerEntry k f).calUnit = s.calUnit ∧ (s.modLedgerEntry k f).rawGroups = s.rawGroups ∧
    (s.modLedgerEntry k f).writeBacks = s.writeBacks ∧ (s.modLedgerEntry k f).test = s.test ∧
    (s.modLedgerEntry k f).inj = s.inj ∧ (s.modLedgerEntry k f).trace = s.trace ∧
    (s.modLedgerEntry k f).counters = s.counters ∧ (s.modLedgerEntry k f).saturated = s.saturated ∧
    (s.modLedgerEntry k f).deviceTime = s.deviceTime ∧ (s.modLedgerEntry k f).follower = s.follower ∧
    (s.modLedgerEntry k f).stamp = s.stamp ∧ (s.modLedgerEntry k f).nextWork = s.nextWork ∧
    (s.modLedgerEntry k f).fresh = s.fresh :=   ⟨rfl, rfl, rfl, rfl, rfl, rfl, rfl, rfl, rfl, rfl, rfl, rfl, rfl, rfl, rfl, rfl, rfl, rfl, rfl, rfl, rfl, rfl,
    rfl, rfl, rfl, rfl, rfl, rfl, rfl, rfl, rfl, rfl, rfl, rfl, rfl, rfl, rfl, rfl, rfl, rfl, rfl, rfl, rfl, rfl,
    rfl, rfl⟩

@[simp] theorem setDmaChan_fields (s : State) (k : Nat) (x : DmaChan) :
    (s.setDmaChan k x).pending = s.pending ∧ (s.setDmaChan k x).build = s.build ∧ (s.setDmaChan k x).ties = s.ties ∧
    (s.setDmaChan k x).ph = s.ph ∧ (s.setDmaChan k x).regs = s.regs ∧ (s.setDmaChan k x).cfg = s.cfg ∧
    (s.setDmaChan k x).ep = s.ep ∧ (s.setDmaChan k x).queues = s.queues ∧ (s.setDmaChan k x).push = s.push ∧
    (s.setDmaChan k x).arb = s.arb ∧ (s.setDmaChan k x).tags = s.tags ∧ (s.setDmaChan k x).slots = s.slots ∧
    (s.setDmaChan k x).works = s.works ∧ (s.setDmaChan k x).luns = s.luns ∧ (s.setDmaChan k x).chans = s.chans ∧
    (s.setDmaChan k x).frames = s.frames ∧ (s.setDmaChan k x).words = s.words ∧
    (s.setDmaChan k x).spares = s.spares ∧ (s.setDmaChan k x).accs = s.accs ∧ (s.setDmaChan k x).obt = s.obt ∧
    (s.setDmaChan k x).obtLo = s.obtLo ∧ (s.setDmaChan k x).obtDoomed = s.obtDoomed ∧
    (s.setDmaChan k x).rlt = s.rlt ∧ (s.setDmaChan k x).ledger = s.ledger ∧
    (s.setDmaChan k x).ledgerLo = s.ledgerLo ∧ (s.setDmaChan k x).adv = s.adv ∧
    (s.setDmaChan k x).deferred = s.deferred ∧ (s.setDmaChan k x).carry = s.carry ∧
    (s.setDmaChan k x).rings = s.rings ∧ (s.setDmaChan k x).wheels = s.wheels ∧ (s.setDmaChan k x).irq = s.irq ∧
    (s.setDmaChan k x).bays = s.bays ∧ (s.setDmaChan k x).gov = s.gov ∧ (s.setDmaChan k x).calUnit = s.calUnit ∧
    (s.setDmaChan k x).rawGroups = s.rawGroups ∧ (s.setDmaChan k x).writeBacks = s.writeBacks ∧
    (s.setDmaChan k x).test = s.test ∧ (s.setDmaChan k x).inj = s.inj ∧ (s.setDmaChan k x).trace = s.trace ∧
    (s.setDmaChan k x).counters = s.counters ∧ (s.setDmaChan k x).saturated = s.saturated ∧
    (s.setDmaChan k x).deviceTime = s.deviceTime ∧ (s.setDmaChan k x).follower = s.follower ∧
    (s.setDmaChan k x).stamp = s.stamp ∧ (s.setDmaChan k x).nextWork = s.nextWork ∧ (s.setDmaChan k x).fresh = s.fresh :=   ⟨rfl, rfl, rfl, rfl, rfl, rfl, rfl, rfl, rfl, rfl, rfl, rfl, rfl, rfl, rfl, rfl, rfl, rfl, rfl, rfl, rfl, rfl,
    rfl, rfl, rfl, rfl, rfl, rfl, rfl, rfl, rfl, rfl, rfl, rfl, rfl, rfl, rfl, rfl, rfl, rfl, rfl, rfl, rfl, rfl,
    rfl, rfl⟩

/-- Table dmaChan after a write: the written one, and every other as it was. -/
@[simp] theorem setDmaChan_get (s : State) (k j : Nat) (x : DmaChan) :
    (s.setDmaChan k x).dmaChan j = if k = j then x else s.dmaChan j := SMap.getD_setD _ _ _ _ _ _ fun _ => rfl

@[simp] theorem modDmaChan_get (s : State) (k j : Nat) (f : DmaChan → DmaChan) :
    (s.modDmaChan k f).dmaChan j = if k = j then f (s.dmaChan j) else s.dmaChan j := by
  unfold State.modDmaChan; rw [setDmaChan_get]; split
  · next h => rw [h]
  · rfl

@[simp] theorem modDmaChan_fields (s : State) (k : Nat) (f : DmaChan → DmaChan) :
    (s.modDmaChan k f).pending = s.pending ∧ (s.modDmaChan k f).build = s.build ∧ (s.modDmaChan k f).ties = s.ties ∧
    (s.modDmaChan k f).ph = s.ph ∧ (s.modDmaChan k f).regs = s.regs ∧ (s.modDmaChan k f).cfg = s.cfg ∧
    (s.modDmaChan k f).ep = s.ep ∧ (s.modDmaChan k f).queues = s.queues ∧ (s.modDmaChan k f).push = s.push ∧
    (s.modDmaChan k f).arb = s.arb ∧ (s.modDmaChan k f).tags = s.tags ∧ (s.modDmaChan k f).slots = s.slots ∧
    (s.modDmaChan k f).works = s.works ∧ (s.modDmaChan k f).luns = s.luns ∧ (s.modDmaChan k f).chans = s.chans ∧
    (s.modDmaChan k f).frames = s.frames ∧ (s.modDmaChan k f).words = s.words ∧
    (s.modDmaChan k f).spares = s.spares ∧ (s.modDmaChan k f).accs = s.accs ∧ (s.modDmaChan k f).obt = s.obt ∧
    (s.modDmaChan k f).obtLo = s.obtLo ∧ (s.modDmaChan k f).obtDoomed = s.obtDoomed ∧
    (s.modDmaChan k f).rlt = s.rlt ∧ (s.modDmaChan k f).ledger = s.ledger ∧
    (s.modDmaChan k f).ledgerLo = s.ledgerLo ∧ (s.modDmaChan k f).adv = s.adv ∧
    (s.modDmaChan k f).deferred = s.deferred ∧ (s.modDmaChan k f).carry = s.carry ∧
    (s.modDmaChan k f).rings = s.rings ∧ (s.modDmaChan k f).wheels = s.wheels ∧ (s.modDmaChan k f).irq = s.irq ∧
    (s.modDmaChan k f).bays = s.bays ∧ (s.modDmaChan k f).gov = s.gov ∧ (s.modDmaChan k f).calUnit = s.calUnit ∧
    (s.modDmaChan k f).rawGroups = s.rawGroups ∧ (s.modDmaChan k f).writeBacks = s.writeBacks ∧
    (s.modDmaChan k f).test = s.test ∧ (s.modDmaChan k f).inj = s.inj ∧ (s.modDmaChan k f).trace = s.trace ∧
    (s.modDmaChan k f).counters = s.counters ∧ (s.modDmaChan k f).saturated = s.saturated ∧
    (s.modDmaChan k f).deviceTime = s.deviceTime ∧ (s.modDmaChan k f).follower = s.follower ∧
    (s.modDmaChan k f).stamp = s.stamp ∧ (s.modDmaChan k f).nextWork = s.nextWork ∧ (s.modDmaChan k f).fresh = s.fresh :=   ⟨rfl, rfl, rfl, rfl, rfl, rfl, rfl, rfl, rfl, rfl, rfl, rfl, rfl, rfl, rfl, rfl, rfl, rfl, rfl, rfl, rfl, rfl,
    rfl, rfl, rfl, rfl, rfl, rfl, rfl, rfl, rfl, rfl, rfl, rfl, rfl, rfl, rfl, rfl, rfl, rfl, rfl, rfl, rfl, rfl,
    rfl, rfl⟩

@[simp] theorem setRing_fields (s : State) (k : Nat) (x : Ring) :
    (s.setRing k x).pending = s.pending ∧ (s.setRing k x).build = s.build ∧ (s.setRing k x).ties = s.ties ∧
    (s.setRing k x).ph = s.ph ∧ (s.setRing k x).regs = s.regs ∧ (s.setRing k x).cfg = s.cfg ∧
    (s.setRing k x).ep = s.ep ∧ (s.setRing k x).queues = s.queues ∧ (s.setRing k x).push = s.push ∧
    (s.setRing k x).arb = s.arb ∧ (s.setRing k x).tags = s.tags ∧ (s.setRing k x).slots = s.slots ∧
    (s.setRing k x).works = s.works ∧ (s.setRing k x).luns = s.luns ∧ (s.setRing k x).chans = s.chans ∧
    (s.setRing k x).frames = s.frames ∧ (s.setRing k x).words = s.words ∧ (s.setRing k x).spares = s.spares ∧
    (s.setRing k x).accs = s.accs ∧ (s.setRing k x).obt = s.obt ∧ (s.setRing k x).obtLo = s.obtLo ∧
    (s.setRing k x).obtDoomed = s.obtDoomed ∧ (s.setRing k x).rlt = s.rlt ∧ (s.setRing k x).ledger = s.ledger ∧
    (s.setRing k x).ledgerLo = s.ledgerLo ∧ (s.setRing k x).adv = s.adv ∧ (s.setRing k x).deferred = s.deferred ∧
    (s.setRing k x).carry = s.carry ∧ (s.setRing k x).dma = s.dma ∧ (s.setRing k x).wheels = s.wheels ∧
    (s.setRing k x).irq = s.irq ∧ (s.setRing k x).bays = s.bays ∧ (s.setRing k x).gov = s.gov ∧
    (s.setRing k x).calUnit = s.calUnit ∧ (s.setRing k x).rawGroups = s.rawGroups ∧
    (s.setRing k x).writeBacks = s.writeBacks ∧ (s.setRing k x).test = s.test ∧ (s.setRing k x).inj = s.inj ∧
    (s.setRing k x).trace = s.trace ∧ (s.setRing k x).counters = s.counters ∧
    (s.setRing k x).saturated = s.saturated ∧ (s.setRing k x).deviceTime = s.deviceTime ∧
    (s.setRing k x).follower = s.follower ∧ (s.setRing k x).stamp = s.stamp ∧ (s.setRing k x).nextWork = s.nextWork ∧
    (s.setRing k x).fresh = s.fresh :=   ⟨rfl, rfl, rfl, rfl, rfl, rfl, rfl, rfl, rfl, rfl, rfl, rfl, rfl, rfl, rfl, rfl, rfl, rfl, rfl, rfl, rfl, rfl,
    rfl, rfl, rfl, rfl, rfl, rfl, rfl, rfl, rfl, rfl, rfl, rfl, rfl, rfl, rfl, rfl, rfl, rfl, rfl, rfl, rfl, rfl,
    rfl, rfl⟩

/-- Table ring after a write: the written one, and every other as it was. -/
@[simp] theorem setRing_get (s : State) (k j : Nat) (x : Ring) :
    (s.setRing k x).ring j = if k = j then x else s.ring j := SMap.getD_setD _ _ _ _ _ _ fun _ => rfl

@[simp] theorem modRing_get (s : State) (k j : Nat) (f : Ring → Ring) :
    (s.modRing k f).ring j = if k = j then f (s.ring j) else s.ring j := by
  unfold State.modRing; rw [setRing_get]; split
  · next h => rw [h]
  · rfl

@[simp] theorem modRing_fields (s : State) (k : Nat) (f : Ring → Ring) :
    (s.modRing k f).pending = s.pending ∧ (s.modRing k f).build = s.build ∧ (s.modRing k f).ties = s.ties ∧
    (s.modRing k f).ph = s.ph ∧ (s.modRing k f).regs = s.regs ∧ (s.modRing k f).cfg = s.cfg ∧
    (s.modRing k f).ep = s.ep ∧ (s.modRing k f).queues = s.queues ∧ (s.modRing k f).push = s.push ∧
    (s.modRing k f).arb = s.arb ∧ (s.modRing k f).tags = s.tags ∧ (s.modRing k f).slots = s.slots ∧
    (s.modRing k f).works = s.works ∧ (s.modRing k f).luns = s.luns ∧ (s.modRing k f).chans = s.chans ∧
    (s.modRing k f).frames = s.frames ∧ (s.modRing k f).words = s.words ∧ (s.modRing k f).spares = s.spares ∧
    (s.modRing k f).accs = s.accs ∧ (s.modRing k f).obt = s.obt ∧ (s.modRing k f).obtLo = s.obtLo ∧
    (s.modRing k f).obtDoomed = s.obtDoomed ∧ (s.modRing k f).rlt = s.rlt ∧ (s.modRing k f).ledger = s.ledger ∧
    (s.modRing k f).ledgerLo = s.ledgerLo ∧ (s.modRing k f).adv = s.adv ∧ (s.modRing k f).deferred = s.deferred ∧
    (s.modRing k f).carry = s.carry ∧ (s.modRing k f).dma = s.dma ∧ (s.modRing k f).wheels = s.wheels ∧
    (s.modRing k f).irq = s.irq ∧ (s.modRing k f).bays = s.bays ∧ (s.modRing k f).gov = s.gov ∧
    (s.modRing k f).calUnit = s.calUnit ∧ (s.modRing k f).rawGroups = s.rawGroups ∧
    (s.modRing k f).writeBacks = s.writeBacks ∧ (s.modRing k f).test = s.test ∧ (s.modRing k f).inj = s.inj ∧
    (s.modRing k f).trace = s.trace ∧ (s.modRing k f).counters = s.counters ∧
    (s.modRing k f).saturated = s.saturated ∧ (s.modRing k f).deviceTime = s.deviceTime ∧
    (s.modRing k f).follower = s.follower ∧ (s.modRing k f).stamp = s.stamp ∧ (s.modRing k f).nextWork = s.nextWork ∧
    (s.modRing k f).fresh = s.fresh :=   ⟨rfl, rfl, rfl, rfl, rfl, rfl, rfl, rfl, rfl, rfl, rfl, rfl, rfl, rfl, rfl, rfl, rfl, rfl, rfl, rfl, rfl, rfl,
    rfl, rfl, rfl, rfl, rfl, rfl, rfl, rfl, rfl, rfl, rfl, rfl, rfl, rfl, rfl, rfl, rfl, rfl, rfl, rfl, rfl, rfl,
    rfl, rfl⟩

@[simp] theorem setBay_fields (s : State) (k : Nat) (x : Bay) :
    (s.setBay k x).pending = s.pending ∧ (s.setBay k x).build = s.build ∧ (s.setBay k x).ties = s.ties ∧
    (s.setBay k x).ph = s.ph ∧ (s.setBay k x).regs = s.regs ∧ (s.setBay k x).cfg = s.cfg ∧ (s.setBay k x).ep = s.ep ∧
    (s.setBay k x).queues = s.queues ∧ (s.setBay k x).push = s.push ∧ (s.setBay k x).arb = s.arb ∧
    (s.setBay k x).tags = s.tags ∧ (s.setBay k x).slots = s.slots ∧ (s.setBay k x).works = s.works ∧
    (s.setBay k x).luns = s.luns ∧ (s.setBay k x).chans = s.chans ∧ (s.setBay k x).frames = s.frames ∧
    (s.setBay k x).words = s.words ∧ (s.setBay k x).spares = s.spares ∧ (s.setBay k x).accs = s.accs ∧
    (s.setBay k x).obt = s.obt ∧ (s.setBay k x).obtLo = s.obtLo ∧ (s.setBay k x).obtDoomed = s.obtDoomed ∧
    (s.setBay k x).rlt = s.rlt ∧ (s.setBay k x).ledger = s.ledger ∧ (s.setBay k x).ledgerLo = s.ledgerLo ∧
    (s.setBay k x).adv = s.adv ∧ (s.setBay k x).deferred = s.deferred ∧ (s.setBay k x).carry = s.carry ∧
    (s.setBay k x).dma = s.dma ∧ (s.setBay k x).rings = s.rings ∧ (s.setBay k x).wheels = s.wheels ∧
    (s.setBay k x).irq = s.irq ∧ (s.setBay k x).gov = s.gov ∧ (s.setBay k x).calUnit = s.calUnit ∧
    (s.setBay k x).rawGroups = s.rawGroups ∧ (s.setBay k x).writeBacks = s.writeBacks ∧
    (s.setBay k x).test = s.test ∧ (s.setBay k x).inj = s.inj ∧ (s.setBay k x).trace = s.trace ∧
    (s.setBay k x).counters = s.counters ∧ (s.setBay k x).saturated = s.saturated ∧
    (s.setBay k x).deviceTime = s.deviceTime ∧ (s.setBay k x).follower = s.follower ∧
    (s.setBay k x).stamp = s.stamp ∧ (s.setBay k x).nextWork = s.nextWork ∧ (s.setBay k x).fresh = s.fresh :=   ⟨rfl, rfl, rfl, rfl, rfl, rfl, rfl, rfl, rfl, rfl, rfl, rfl, rfl, rfl, rfl, rfl, rfl, rfl, rfl, rfl, rfl, rfl,
    rfl, rfl, rfl, rfl, rfl, rfl, rfl, rfl, rfl, rfl, rfl, rfl, rfl, rfl, rfl, rfl, rfl, rfl, rfl, rfl, rfl, rfl,
    rfl, rfl⟩

/-- Table bay after a write: the written one, and every other as it was. -/
@[simp] theorem setBay_get (s : State) (k j : Nat) (x : Bay) :
    (s.setBay k x).bay j = if k = j then x else s.bay j := SMap.getD_setD _ _ _ _ _ _ fun _ => rfl

@[simp] theorem modBay_get (s : State) (k j : Nat) (f : Bay → Bay) :
    (s.modBay k f).bay j = if k = j then f (s.bay j) else s.bay j := by
  unfold State.modBay; rw [setBay_get]; split
  · next h => rw [h]
  · rfl

@[simp] theorem modBay_fields (s : State) (k : Nat) (f : Bay → Bay) :
    (s.modBay k f).pending = s.pending ∧ (s.modBay k f).build = s.build ∧ (s.modBay k f).ties = s.ties ∧
    (s.modBay k f).ph = s.ph ∧ (s.modBay k f).regs = s.regs ∧ (s.modBay k f).cfg = s.cfg ∧ (s.modBay k f).ep = s.ep ∧
    (s.modBay k f).queues = s.queues ∧ (s.modBay k f).push = s.push ∧ (s.modBay k f).arb = s.arb ∧
    (s.modBay k f).tags = s.tags ∧ (s.modBay k f).slots = s.slots ∧ (s.modBay k f).works = s.works ∧
    (s.modBay k f).luns = s.luns ∧ (s.modBay k f).chans = s.chans ∧ (s.modBay k f).frames = s.frames ∧
    (s.modBay k f).words = s.words ∧ (s.modBay k f).spares = s.spares ∧ (s.modBay k f).accs = s.accs ∧
    (s.modBay k f).obt = s.obt ∧ (s.modBay k f).obtLo = s.obtLo ∧ (s.modBay k f).obtDoomed = s.obtDoomed ∧
    (s.modBay k f).rlt = s.rlt ∧ (s.modBay k f).ledger = s.ledger ∧ (s.modBay k f).ledgerLo = s.ledgerLo ∧
    (s.modBay k f).adv = s.adv ∧ (s.modBay k f).deferred = s.deferred ∧ (s.modBay k f).carry = s.carry ∧
    (s.modBay k f).dma = s.dma ∧ (s.modBay k f).rings = s.rings ∧ (s.modBay k f).wheels = s.wheels ∧
    (s.modBay k f).irq = s.irq ∧ (s.modBay k f).gov = s.gov ∧ (s.modBay k f).calUnit = s.calUnit ∧
    (s.modBay k f).rawGroups = s.rawGroups ∧ (s.modBay k f).writeBacks = s.writeBacks ∧
    (s.modBay k f).test = s.test ∧ (s.modBay k f).inj = s.inj ∧ (s.modBay k f).trace = s.trace ∧
    (s.modBay k f).counters = s.counters ∧ (s.modBay k f).saturated = s.saturated ∧
    (s.modBay k f).deviceTime = s.deviceTime ∧ (s.modBay k f).follower = s.follower ∧
    (s.modBay k f).stamp = s.stamp ∧ (s.modBay k f).nextWork = s.nextWork ∧ (s.modBay k f).fresh = s.fresh :=   ⟨rfl, rfl, rfl, rfl, rfl, rfl, rfl, rfl, rfl, rfl, rfl, rfl, rfl, rfl, rfl, rfl, rfl, rfl, rfl, rfl, rfl, rfl,
    rfl, rfl, rfl, rfl, rfl, rfl, rfl, rfl, rfl, rfl, rfl, rfl, rfl, rfl, rfl, rfl, rfl, rfl, rfl, rfl, rfl, rfl,
    rfl, rfl⟩

@[simp] theorem modWork_fields (s : State) (k : Nat) (f : Work → Work) :
    (s.modWork k f).pending = s.pending ∧ (s.modWork k f).build = s.build ∧ (s.modWork k f).ties = s.ties ∧
    (s.modWork k f).ph = s.ph ∧ (s.modWork k f).regs = s.regs ∧ (s.modWork k f).cfg = s.cfg ∧
    (s.modWork k f).ep = s.ep ∧ (s.modWork k f).queues = s.queues ∧ (s.modWork k f).push = s.push ∧
    (s.modWork k f).arb = s.arb ∧ (s.modWork k f).tags = s.tags ∧ (s.modWork k f).slots = s.slots ∧
    (s.modWork k f).luns = s.luns ∧ (s.modWork k f).chans = s.chans ∧ (s.modWork k f).frames = s.frames ∧
    (s.modWork k f).words = s.words ∧ (s.modWork k f).spares = s.spares ∧ (s.modWork k f).accs = s.accs ∧
    (s.modWork k f).obt = s.obt ∧ (s.modWork k f).obtLo = s.obtLo ∧ (s.modWork k f).obtDoomed = s.obtDoomed ∧
    (s.modWork k f).rlt = s.rlt ∧ (s.modWork k f).ledger = s.ledger ∧ (s.modWork k f).ledgerLo = s.ledgerLo ∧
    (s.modWork k f).adv = s.adv ∧ (s.modWork k f).deferred = s.deferred ∧ (s.modWork k f).carry = s.carry ∧
    (s.modWork k f).dma = s.dma ∧ (s.modWork k f).rings = s.rings ∧ (s.modWork k f).wheels = s.wheels ∧
    (s.modWork k f).irq = s.irq ∧ (s.modWork k f).bays = s.bays ∧ (s.modWork k f).gov = s.gov ∧
    (s.modWork k f).calUnit = s.calUnit ∧ (s.modWork k f).rawGroups = s.rawGroups ∧
    (s.modWork k f).writeBacks = s.writeBacks ∧ (s.modWork k f).test = s.test ∧ (s.modWork k f).inj = s.inj ∧
    (s.modWork k f).trace = s.trace ∧ (s.modWork k f).counters = s.counters ∧
    (s.modWork k f).saturated = s.saturated ∧ (s.modWork k f).deviceTime = s.deviceTime ∧
    (s.modWork k f).follower = s.follower ∧ (s.modWork k f).stamp = s.stamp ∧ (s.modWork k f).nextWork = s.nextWork ∧
    (s.modWork k f).fresh = s.fresh := by
  unfold State.modWork; split <;> refine ⟨rfl, rfl, rfl, rfl, rfl, rfl, rfl, rfl, rfl, rfl, rfl, rfl, rfl, rfl, rfl, rfl, rfl, rfl, rfl, rfl, rfl, rfl, rfl, rfl, rfl, rfl, rfl, rfl, rfl, rfl, rfl, rfl, rfl, rfl, rfl, rfl, rfl, rfl, rfl, rfl, rfl, rfl, rfl, rfl, rfl, rfl⟩

@[simp] theorem modWork_work (s : State) (k j : Nat) (f : Work → Work) :
    (s.modWork k f).work j = if k = j then (s.work j).map f else s.work j := by
  unfold State.modWork State.work
  split
  · next h => split
              · next e => rw [← e, h]; rfl
              · rfl
  · next w h => simp only [SMap.get_insert]; split
                · next e => rw [← e, h]; rfl
                · rfl

@[simp] theorem dropWork_fields (s : State) (k : Nat) :
    (s.dropWork k).pending = s.pending ∧ (s.dropWork k).build = s.build ∧ (s.dropWork k).ties = s.ties ∧
    (s.dropWork k).ph = s.ph ∧ (s.dropWork k).regs = s.regs ∧ (s.dropWork k).cfg = s.cfg ∧ (s.dropWork k).ep = s.ep ∧
    (s.dropWork k).queues = s.queues ∧ (s.dropWork k).push = s.push ∧ (s.dropWork k).arb = s.arb ∧
    (s.dropWork k).tags = s.tags ∧ (s.dropWork k).slots = s.slots ∧ (s.dropWork k).luns = s.luns ∧
    (s.dropWork k).chans = s.chans ∧ (s.dropWork k).frames = s.frames ∧ (s.dropWork k).words = s.words ∧
    (s.dropWork k).spares = s.spares ∧ (s.dropWork k).accs = s.accs ∧ (s.dropWork k).obt = s.obt ∧
    (s.dropWork k).obtLo = s.obtLo ∧ (s.dropWork k).obtDoomed = s.obtDoomed ∧ (s.dropWork k).rlt = s.rlt ∧
    (s.dropWork k).ledger = s.ledger ∧ (s.dropWork k).ledgerLo = s.ledgerLo ∧ (s.dropWork k).adv = s.adv ∧
    (s.dropWork k).deferred = s.deferred ∧ (s.dropWork k).carry = s.carry ∧ (s.dropWork k).dma = s.dma ∧
    (s.dropWork k).rings = s.rings ∧ (s.dropWork k).wheels = s.wheels ∧ (s.dropWork k).irq = s.irq ∧
    (s.dropWork k).bays = s.bays ∧ (s.dropWork k).gov = s.gov ∧ (s.dropWork k).calUnit = s.calUnit ∧
    (s.dropWork k).rawGroups = s.rawGroups ∧ (s.dropWork k).writeBacks = s.writeBacks ∧
    (s.dropWork k).test = s.test ∧ (s.dropWork k).inj = s.inj ∧ (s.dropWork k).trace = s.trace ∧
    (s.dropWork k).counters = s.counters ∧ (s.dropWork k).saturated = s.saturated ∧
    (s.dropWork k).deviceTime = s.deviceTime ∧ (s.dropWork k).follower = s.follower ∧
    (s.dropWork k).stamp = s.stamp ∧ (s.dropWork k).nextWork = s.nextWork ∧ (s.dropWork k).fresh = s.fresh :=   ⟨rfl, rfl, rfl, rfl, rfl, rfl, rfl, rfl, rfl, rfl, rfl, rfl, rfl, rfl, rfl, rfl, rfl, rfl, rfl, rfl, rfl, rfl,
    rfl, rfl, rfl, rfl, rfl, rfl, rfl, rfl, rfl, rfl, rfl, rfl, rfl, rfl, rfl, rfl, rfl, rfl, rfl, rfl, rfl, rfl,
    rfl, rfl⟩

@[simp] theorem dropWork_work (s : State) (k j : Nat) :
    (s.dropWork k).work j = if k = j then none else s.work j := SMap.get_erase _ _ _

@[simp] theorem setReg_fields (s : State) (off : Nat) (w : Word) :
    (s.setReg off w).pending = s.pending ∧ (s.setReg off w).build = s.build ∧ (s.setReg off w).ties = s.ties ∧
    (s.setReg off w).ph = s.ph ∧ (s.setReg off w).cfg = s.cfg ∧ (s.setReg off w).ep = s.ep ∧
    (s.setReg off w).queues = s.queues ∧ (s.setReg off w).push = s.push ∧ (s.setReg off w).arb = s.arb ∧
    (s.setReg off w).tags = s.tags ∧ (s.setReg off w).slots = s.slots ∧ (s.setReg off w).works = s.works ∧
    (s.setReg off w).luns = s.luns ∧ (s.setReg off w).chans = s.chans ∧ (s.setReg off w).frames = s.frames ∧
    (s.setReg off w).words = s.words ∧ (s.setReg off w).spares = s.spares ∧ (s.setReg off w).accs = s.accs ∧
    (s.setReg off w).obt = s.obt ∧ (s.setReg off w).obtLo = s.obtLo ∧ (s.setReg off w).obtDoomed = s.obtDoomed ∧
    (s.setReg off w).rlt = s.rlt ∧ (s.setReg off w).ledger = s.ledger ∧ (s.setReg off w).ledgerLo = s.ledgerLo ∧
    (s.setReg off w).adv = s.adv ∧ (s.setReg off w).deferred = s.deferred ∧ (s.setReg off w).carry = s.carry ∧
    (s.setReg off w).dma = s.dma ∧ (s.setReg off w).rings = s.rings ∧ (s.setReg off w).wheels = s.wheels ∧
    (s.setReg off w).irq = s.irq ∧ (s.setReg off w).bays = s.bays ∧ (s.setReg off w).gov = s.gov ∧
    (s.setReg off w).calUnit = s.calUnit ∧ (s.setReg off w).rawGroups = s.rawGroups ∧
    (s.setReg off w).writeBacks = s.writeBacks ∧ (s.setReg off w).test = s.test ∧ (s.setReg off w).inj = s.inj ∧
    (s.setReg off w).trace = s.trace ∧ (s.setReg off w).counters = s.counters ∧
    (s.setReg off w).saturated = s.saturated ∧ (s.setReg off w).deviceTime = s.deviceTime ∧
    (s.setReg off w).follower = s.follower ∧ (s.setReg off w).stamp = s.stamp ∧
    (s.setReg off w).nextWork = s.nextWork ∧ (s.setReg off w).fresh = s.fresh :=   ⟨rfl, rfl, rfl, rfl, rfl, rfl, rfl, rfl, rfl, rfl, rfl, rfl, rfl, rfl, rfl, rfl, rfl, rfl, rfl, rfl, rfl, rfl,
    rfl, rfl, rfl, rfl, rfl, rfl, rfl, rfl, rfl, rfl, rfl, rfl, rfl, rfl, rfl, rfl, rfl, rfl, rfl, rfl, rfl, rfl,
    rfl, rfl⟩

/-- The register at an offset after a write. -/
@[simp] theorem setReg_reg (s : State) (k j : Nat) (x : Word) :
    (s.setReg k x).reg j = if k = j then x else s.reg j := SMap.getD_setD _ _ _ _ _ _ fun h => by rw [h]

@[simp] theorem setFld_fields (s : State) (off : Nat) (hi : Nat) (lo : Nat) (v : Nat) :
    (s.setFld off hi lo v).pending = s.pending ∧ (s.setFld off hi lo v).build = s.build ∧
    (s.setFld off hi lo v).ties = s.ties ∧ (s.setFld off hi lo v).ph = s.ph ∧ (s.setFld off hi lo v).cfg = s.cfg ∧
    (s.setFld off hi lo v).ep = s.ep ∧ (s.setFld off hi lo v).queues = s.queues ∧
    (s.setFld off hi lo v).push = s.push ∧ (s.setFld off hi lo v).arb = s.arb ∧
    (s.setFld off hi lo v).tags = s.tags ∧ (s.setFld off hi lo v).slots = s.slots ∧
    (s.setFld off hi lo v).works = s.works ∧ (s.setFld off hi lo v).luns = s.luns ∧
    (s.setFld off hi lo v).chans = s.chans ∧ (s.setFld off hi lo v).frames = s.frames ∧
    (s.setFld off hi lo v).words = s.words ∧ (s.setFld off hi lo v).spares = s.spares ∧
    (s.setFld off hi lo v).accs = s.accs ∧ (s.setFld off hi lo v).obt = s.obt ∧
    (s.setFld off hi lo v).obtLo = s.obtLo ∧ (s.setFld off hi lo v).obtDoomed = s.obtDoomed ∧
    (s.setFld off hi lo v).rlt = s.rlt ∧ (s.setFld off hi lo v).ledger = s.ledger ∧
    (s.setFld off hi lo v).ledgerLo = s.ledgerLo ∧ (s.setFld off hi lo v).adv = s.adv ∧
    (s.setFld off hi lo v).deferred = s.deferred ∧ (s.setFld off hi lo v).carry = s.carry ∧
    (s.setFld off hi lo v).dma = s.dma ∧ (s.setFld off hi lo v).rings = s.rings ∧
    (s.setFld off hi lo v).wheels = s.wheels ∧ (s.setFld off hi lo v).irq = s.irq ∧
    (s.setFld off hi lo v).bays = s.bays ∧ (s.setFld off hi lo v).gov = s.gov ∧
    (s.setFld off hi lo v).calUnit = s.calUnit ∧ (s.setFld off hi lo v).rawGroups = s.rawGroups ∧
    (s.setFld off hi lo v).writeBacks = s.writeBacks ∧ (s.setFld off hi lo v).test = s.test ∧
    (s.setFld off hi lo v).inj = s.inj ∧ (s.setFld off hi lo v).trace = s.trace ∧
    (s.setFld off hi lo v).counters = s.counters ∧ (s.setFld off hi lo v).saturated = s.saturated ∧
    (s.setFld off hi lo v).deviceTime = s.deviceTime ∧ (s.setFld off hi lo v).follower = s.follower ∧
    (s.setFld off hi lo v).stamp = s.stamp ∧ (s.setFld off hi lo v).nextWork = s.nextWork ∧
    (s.setFld off hi lo v).fresh = s.fresh :=   ⟨rfl, rfl, rfl, rfl, rfl, rfl, rfl, rfl, rfl, rfl, rfl, rfl, rfl, rfl, rfl, rfl, rfl, rfl, rfl, rfl, rfl, rfl,
    rfl, rfl, rfl, rfl, rfl, rfl, rfl, rfl, rfl, rfl, rfl, rfl, rfl, rfl, rfl, rfl, rfl, rfl, rfl, rfl, rfl, rfl,
    rfl, rfl⟩

@[simp] theorem setFld_reg (s : State) (k hi lo v j : Nat) :
    (s.setFld k hi lo v).reg j = if k = j then wput (s.reg j) hi lo v else s.reg j := by
  unfold State.setFld; rw [setReg_reg]; split
  · next h => rw [h]
  · rfl

@[simp] theorem addFld_fields (s : State) (off : Nat) (hi : Nat) (lo : Nat) (v : Nat) :
    (s.addFld off hi lo v).pending = s.pending ∧ (s.addFld off hi lo v).build = s.build ∧
    (s.addFld off hi lo v).ties = s.ties ∧ (s.addFld off hi lo v).ph = s.ph ∧ (s.addFld off hi lo v).cfg = s.cfg ∧
    (s.addFld off hi lo v).ep = s.ep ∧ (s.addFld off hi lo v).queues = s.queues ∧
    (s.addFld off hi lo v).push = s.push ∧ (s.addFld off hi lo v).arb = s.arb ∧
    (s.addFld off hi lo v).tags = s.tags ∧ (s.addFld off hi lo v).slots = s.slots ∧
    (s.addFld off hi lo v).works = s.works ∧ (s.addFld off hi lo v).luns = s.luns ∧
    (s.addFld off hi lo v).chans = s.chans ∧ (s.addFld off hi lo v).frames = s.frames ∧
    (s.addFld off hi lo v).words = s.words ∧ (s.addFld off hi lo v).spares = s.spares ∧
    (s.addFld off hi lo v).accs = s.accs ∧ (s.addFld off hi lo v).obt = s.obt ∧
    (s.addFld off hi lo v).obtLo = s.obtLo ∧ (s.addFld off hi lo v).obtDoomed = s.obtDoomed ∧
    (s.addFld off hi lo v).rlt = s.rlt ∧ (s.addFld off hi lo v).ledger = s.ledger ∧
    (s.addFld off hi lo v).ledgerLo = s.ledgerLo ∧ (s.addFld off hi lo v).adv = s.adv ∧
    (s.addFld off hi lo v).deferred = s.deferred ∧ (s.addFld off hi lo v).carry = s.carry ∧
    (s.addFld off hi lo v).dma = s.dma ∧ (s.addFld off hi lo v).rings = s.rings ∧
    (s.addFld off hi lo v).wheels = s.wheels ∧ (s.addFld off hi lo v).irq = s.irq ∧
    (s.addFld off hi lo v).bays = s.bays ∧ (s.addFld off hi lo v).gov = s.gov ∧
    (s.addFld off hi lo v).calUnit = s.calUnit ∧ (s.addFld off hi lo v).rawGroups = s.rawGroups ∧
    (s.addFld off hi lo v).writeBacks = s.writeBacks ∧ (s.addFld off hi lo v).test = s.test ∧
    (s.addFld off hi lo v).inj = s.inj ∧ (s.addFld off hi lo v).trace = s.trace ∧
    (s.addFld off hi lo v).counters = s.counters ∧ (s.addFld off hi lo v).saturated = s.saturated ∧
    (s.addFld off hi lo v).deviceTime = s.deviceTime ∧ (s.addFld off hi lo v).follower = s.follower ∧
    (s.addFld off hi lo v).stamp = s.stamp ∧ (s.addFld off hi lo v).nextWork = s.nextWork ∧
    (s.addFld off hi lo v).fresh = s.fresh :=   ⟨rfl, rfl, rfl, rfl, rfl, rfl, rfl, rfl, rfl, rfl, rfl, rfl, rfl, rfl, rfl, rfl, rfl, rfl, rfl, rfl, rfl, rfl,
    rfl, rfl, rfl, rfl, rfl, rfl, rfl, rfl, rfl, rfl, rfl, rfl, rfl, rfl, rfl, rfl, rfl, rfl, rfl, rfl, rfl, rfl,
    rfl, rfl⟩

@[simp] theorem setBit_fields (s : State) (off : Nat) (b : Nat) (v : Bool) :
    (s.setBit off b v).pending = s.pending ∧ (s.setBit off b v).build = s.build ∧ (s.setBit off b v).ties = s.ties ∧
    (s.setBit off b v).ph = s.ph ∧ (s.setBit off b v).cfg = s.cfg ∧ (s.setBit off b v).ep = s.ep ∧
    (s.setBit off b v).queues = s.queues ∧ (s.setBit off b v).push = s.push ∧ (s.setBit off b v).arb = s.arb ∧
    (s.setBit off b v).tags = s.tags ∧ (s.setBit off b v).slots = s.slots ∧ (s.setBit off b v).works = s.works ∧
    (s.setBit off b v).luns = s.luns ∧ (s.setBit off b v).chans = s.chans ∧ (s.setBit off b v).frames = s.frames ∧
    (s.setBit off b v).words = s.words ∧ (s.setBit off b v).spares = s.spares ∧ (s.setBit off b v).accs = s.accs ∧
    (s.setBit off b v).obt = s.obt ∧ (s.setBit off b v).obtLo = s.obtLo ∧
    (s.setBit off b v).obtDoomed = s.obtDoomed ∧ (s.setBit off b v).rlt = s.rlt ∧
    (s.setBit off b v).ledger = s.ledger ∧ (s.setBit off b v).ledgerLo = s.ledgerLo ∧
    (s.setBit off b v).adv = s.adv ∧ (s.setBit off b v).deferred = s.deferred ∧ (s.setBit off b v).carry = s.carry ∧
    (s.setBit off b v).dma = s.dma ∧ (s.setBit off b v).rings = s.rings ∧ (s.setBit off b v).wheels = s.wheels ∧
    (s.setBit off b v).irq = s.irq ∧ (s.setBit off b v).bays = s.bays ∧ (s.setBit off b v).gov = s.gov ∧
    (s.setBit off b v).calUnit = s.calUnit ∧ (s.setBit off b v).rawGroups = s.rawGroups ∧
    (s.setBit off b v).writeBacks = s.writeBacks ∧ (s.setBit off b v).test = s.test ∧
    (s.setBit off b v).inj = s.inj ∧ (s.setBit off b v).trace = s.trace ∧ (s.setBit off b v).counters = s.counters ∧
    (s.setBit off b v).saturated = s.saturated ∧ (s.setBit off b v).deviceTime = s.deviceTime ∧
    (s.setBit off b v).follower = s.follower ∧ (s.setBit off b v).stamp = s.stamp ∧
    (s.setBit off b v).nextWork = s.nextWork ∧ (s.setBit off b v).fresh = s.fresh :=   ⟨rfl, rfl, rfl, rfl, rfl, rfl, rfl, rfl, rfl, rfl, rfl, rfl, rfl, rfl, rfl, rfl, rfl, rfl, rfl, rfl, rfl, rfl,
    rfl, rfl, rfl, rfl, rfl, rfl, rfl, rfl, rfl, rfl, rfl, rfl, rfl, rfl, rfl, rfl, rfl, rfl, rfl, rfl, rfl, rfl,
    rfl, rfl⟩

@[simp] theorem setArrBit_fields (s : State) (base : Nat) (n : Nat) (v : Bool) :
    (s.setArrBit base n v).pending = s.pending ∧ (s.setArrBit base n v).build = s.build ∧
    (s.setArrBit base n v).ties = s.ties ∧ (s.setArrBit base n v).ph = s.ph ∧ (s.setArrBit base n v).cfg = s.cfg ∧
    (s.setArrBit base n v).ep = s.ep ∧ (s.setArrBit base n v).queues = s.queues ∧
    (s.setArrBit base n v).push = s.push ∧ (s.setArrBit base n v).arb = s.arb ∧
    (s.setArrBit base n v).tags = s.tags ∧ (s.setArrBit base n v).slots = s.slots ∧
    (s.setArrBit base n v).works = s.works ∧ (s.setArrBit base n v).luns = s.luns ∧
    (s.setArrBit base n v).chans = s.chans ∧ (s.setArrBit base n v).frames = s.frames ∧
    (s.setArrBit base n v).words = s.words ∧ (s.setArrBit base n v).spares = s.spares ∧
    (s.setArrBit base n v).accs = s.accs ∧ (s.setArrBit base n v).obt = s.obt ∧
    (s.setArrBit base n v).obtLo = s.obtLo ∧ (s.setArrBit base n v).obtDoomed = s.obtDoomed ∧
    (s.setArrBit base n v).rlt = s.rlt ∧ (s.setArrBit base n v).ledger = s.ledger ∧
    (s.setArrBit base n v).ledgerLo = s.ledgerLo ∧ (s.setArrBit base n v).adv = s.adv ∧
    (s.setArrBit base n v).deferred = s.deferred ∧ (s.setArrBit base n v).carry = s.carry ∧
    (s.setArrBit base n v).dma = s.dma ∧ (s.setArrBit base n v).rings = s.rings ∧
    (s.setArrBit base n v).wheels = s.wheels ∧ (s.setArrBit base n v).irq = s.irq ∧
    (s.setArrBit base n v).bays = s.bays ∧ (s.setArrBit base n v).gov = s.gov ∧
    (s.setArrBit base n v).calUnit = s.calUnit ∧ (s.setArrBit base n v).rawGroups = s.rawGroups ∧
    (s.setArrBit base n v).writeBacks = s.writeBacks ∧ (s.setArrBit base n v).test = s.test ∧
    (s.setArrBit base n v).inj = s.inj ∧ (s.setArrBit base n v).trace = s.trace ∧
    (s.setArrBit base n v).counters = s.counters ∧ (s.setArrBit base n v).saturated = s.saturated ∧
    (s.setArrBit base n v).deviceTime = s.deviceTime ∧ (s.setArrBit base n v).follower = s.follower ∧
    (s.setArrBit base n v).stamp = s.stamp ∧ (s.setArrBit base n v).nextWork = s.nextWork ∧
    (s.setArrBit base n v).fresh = s.fresh :=   ⟨rfl, rfl, rfl, rfl, rfl, rfl, rfl, rfl, rfl, rfl, rfl, rfl, rfl, rfl, rfl, rfl, rfl, rfl, rfl, rfl, rfl, rfl,
    rfl, rfl, rfl, rfl, rfl, rfl, rfl, rfl, rfl, rfl, rfl, rfl, rfl, rfl, rfl, rfl, rfl, rfl, rfl, rfl, rfl, rfl,
    rfl, rfl⟩

end Sys2Proof.Machine
end

