-- ==== Sys2Proof/Laws/Fields.lean ====
section
/-! SUPPORT. Laws of the bit fields of a word and of a register: a field after it is written, and the fields beside it. -/

namespace Sys2Proof.Machine
open Sys2Proof

theorem testBit_bits (n hi lo i : Nat) (hl : lo ≤ hi) :
    (bits n hi lo).testBit i = (decide (i ≤ hi - lo) && n.testBit (lo + i)) := by
  unfold bits
  rw [Nat.testBit_mod_two_pow, Nat.testBit_div_two_pow, Nat.add_comm i lo]
  congr 1
  simp only [decide_eq_decide]
  omega

/-- Taking the bits of a field out of a number and putting others in. -/
theorem testBit_putBits (n hi lo v i : Nat) (hl : lo ≤ hi) :
    (putBits n hi lo v).testBit i = if lo ≤ i ∧ i ≤ hi then v.testBit (i - lo) else n.testBit i := by
  have e : putBits n hi lo v =
      2 ^ (hi + 1) * (n / 2 ^ (hi + 1)) + (2 ^ lo * (v % 2 ^ (hi + 1 - lo)) + n % 2 ^ lo) := by
    have h1 : n = 2 ^ lo * (n / 2 ^ lo) + n % 2 ^ lo := (Nat.div_add_mod _ _).symm
    have h2 : n / 2 ^ lo = 2 ^ (hi + 1 - lo) * (n / 2 ^ lo / 2 ^ (hi + 1 - lo)) + n / 2 ^ lo % 2 ^ (hi + 1 - lo) :=
      (Nat.div_add_mod _ _).symm
    have h3 : n / 2 ^ lo / 2 ^ (hi + 1 - lo) = n / 2 ^ (hi + 1) := by
      rw [Nat.div_div_eq_div_mul, ← Nat.pow_add]; congr 2; omega
    have h4 : 2 ^ lo * 2 ^ (hi + 1 - lo) = 2 ^ (hi + 1) := by rw [← Nat.pow_add]; congr 1; omega
    rw [h3] at h2
    unfold putBits bits
    have h5 : n = 2 ^ (hi + 1) * (n / 2 ^ (hi + 1)) + (2 ^ lo * (n / 2 ^ lo % 2 ^ (hi + 1 - lo)) + n % 2 ^ lo) := by
      have h6 := congrArg (fun x => 2 ^ lo * x) h2
      simp only [Nat.mul_add, ← Nat.mul_assoc, h4] at h6
      omega
    generalize n / 2 ^ lo % 2 ^ (hi + 1 - lo) = x at h5 ⊢
    generalize n / 2 ^ (hi + 1) = y at h5 ⊢
    generalize n % 2 ^ lo = z at h5 ⊢
    rw [Nat.mul_comm x, Nat.mul_comm (v % _)]
    omega
  have hv : v % 2 ^ (hi + 1 - lo) < 2 ^ (hi + 1 - lo) := Nat.mod_lt _ (Nat.two_pow_pos _)
  have hz : n % 2 ^ lo < 2 ^ lo := Nat.mod_lt _ (Nat.two_pow_pos _)
  have hlow : 2 ^ lo * (v % 2 ^ (hi + 1 - lo)) + n % 2 ^ lo < 2 ^ (hi + 1) := by
    have h4 : 2 ^ (hi + 1) = 2 ^ lo * 2 ^ (hi + 1 - lo) := by rw [← Nat.pow_add]; congr 1; omega
    rw [h4]
    calc _ < 2 ^ lo * (v % 2 ^ (hi + 1 - lo)) + 2 ^ lo := by omega
      _ = 2 ^ lo * (v % 2 ^ (hi + 1 - lo) + 1) := by ring
      _ ≤ _ := Nat.mul_le_mul_left _ hv
  rw [e, Nat.testBit_two_pow_mul_add _ hlow]
  by_cases hi1 : i < hi + 1
  · rw [if_pos hi1, Nat.testBit_two_pow_mul_add _ hz]
    by_cases hl1 : i < lo
    · rw [if_pos hl1, if_neg (by omega), Nat.testBit_mod_two_pow]; simp [hl1]
    · rw [if_neg hl1, if_pos (by omega), Nat.testBit_mod_two_pow]
      simp only [show i - lo < hi + 1 - lo by omega, decide_true, Bool.true_and]
  · rw [if_neg hi1, if_neg (by omega), Nat.testBit_div_two_pow]
    congr 1; omega

theorem bits_wput_self (w : Word) (hi lo v : Nat) (hl : lo ≤ hi) (h : hi < 32) :
    bits (wput w hi lo v).toNat hi lo = v % 2 ^ (hi + 1 - lo) := by
  apply Nat.eq_of_testBit_eq
  intro i
  rw [testBit_bits _ _ _ _ hl]
  unfold wput
  rw [BitVec.toNat_ofNat, Nat.testBit_mod_two_pow, testBit_putBits _ _ _ _ _ hl, Nat.testBit_mod_two_pow]
  by_cases hi1 : i ≤ hi - lo
  · rw [if_pos (by omega)]
    simp [hi1, show lo + i < 32 by omega, show i < hi + 1 - lo by omega]
  · simp [hi1, show ¬ i < hi + 1 - lo by omega]

theorem bits_wput_other (w : Word) (hi lo v h2 l2 : Nat) (hl : lo ≤ hi) (hl2 : l2 ≤ h2) (h : h2 < 32)
    (hd : h2 < lo ∨ hi < l2) : bits (wput w hi lo v).toNat h2 l2 = bits w.toNat h2 l2 := by
  apply Nat.eq_of_testBit_eq
  intro i
  rw [testBit_bits _ _ _ _ hl2, testBit_bits _ _ _ _ hl2]
  unfold wput
  rw [BitVec.toNat_ofNat, Nat.testBit_mod_two_pow, testBit_putBits _ _ _ _ _ hl]
  by_cases hi1 : i ≤ h2 - l2
  · rw [if_neg (by omega)]
    simp [hi1, show l2 + i < 32 by omega]
  · simp [hi1]

theorem bitOf_eq (n b : Nat) : bitOf n b = n.testBit b := by
  unfold bitOf
  rw [Nat.testBit_eq_decide_div_mod_eq]
  rfl

theorem bitOf_wput_self (w : Word) (b : Nat) (v : Bool) (h : b < 32) :
    bitOf (wput w b b (ofBool v)).toNat b = v := by
  rw [bitOf_eq]
  unfold wput
  rw [BitVec.toNat_ofNat, Nat.testBit_mod_two_pow, testBit_putBits _ _ _ _ _ (le_refl b), if_pos ⟨le_refl b, le_refl b⟩]
  cases v <;> simp [h, ofBool]

theorem bitOf_wput_other (w : Word) (hi lo v b : Nat) (hl : lo ≤ hi) (hd : b < lo ∨ hi < b) :
    bitOf (wput w hi lo v).toNat b = bitOf w.toNat b := by
  rw [bitOf_eq, bitOf_eq]
  unfold wput
  rw [BitVec.toNat_ofNat, Nat.testBit_mod_two_pow, testBit_putBits _ _ _ _ _ hl, if_neg (by omega)]
  by_cases hb : b < 32
  · simp [hb]
  · have : w.toNat < 2 ^ b := Nat.lt_of_lt_of_le w.isLt (Nat.pow_le_pow_right (by omega) (by omega))
    simp [hb, Nat.testBit_lt_two_pow this]

/-- A bit of a register after it is written. -/
@[simp] theorem setBit_bit (s : State) (o b : Nat) (v : Bool) (h : b < 32) : (s.setBit o b v).bit o b = v := by
  unfold State.bit State.setBit
  rw [setFld_reg, if_pos rfl]
  exact bitOf_wput_self _ _ _ h

/-- A field of a register after it is written. -/
@[simp] theorem setFld_fld (s : State) (o hi lo v : Nat) (hl : lo ≤ hi) (h : hi < 32) :
    (s.setFld o hi lo v).fld o hi lo = v % 2 ^ (hi + 1 - lo) := by
  unfold State.fld
  rw [setFld_reg, if_pos rfl]
  exact bits_wput_self _ _ _ _ hl h

/-- Another bit or register after a field is written. -/
theorem setFld_bit (s : State) (o hi lo v p b : Nat) (hl : lo ≤ hi) (hd : o ≠ p ∨ b < lo ∨ hi < b) :
    (s.setFld o hi lo v).bit p b = s.bit p b := by
  unfold State.bit
  rw [setFld_reg]
  split
  · next e => exact bitOf_wput_other _ _ _ _ _ hl (by omega)
  · rfl

theorem setBit_bit_other (s : State) (o b : Nat) (v : Bool) (p c : Nat) (hd : o ≠ p ∨ b ≠ c) :
    (s.setBit o b v).bit p c = s.bit p c := setFld_bit _ _ _ _ _ _ _ (le_refl b) (by omega)

theorem setFld_fld_other (s : State) (o hi lo v p h2 l2 : Nat) (hl : lo ≤ hi) (hl2 : l2 ≤ h2) (h : h2 < 32)
    (hd : o ≠ p ∨ h2 < lo ∨ hi < l2) : (s.setFld o hi lo v).fld p h2 l2 = s.fld p h2 l2 := by
  unfold State.fld
  rw [setFld_reg]
  split
  · next e => exact bits_wput_other _ _ _ _ _ _ hl hl2 h (by omega)
  · rfl

/-- Every other register after a bit is written. -/
theorem setBit_reg (s : State) (o b : Nat) (v : Bool) (p : Nat) (h : o ≠ p) : (s.setBit o b v).reg p = s.reg p := by
  unfold State.setBit
  rw [setFld_reg, if_neg h]

end Sys2Proof.Machine
end

