-- ==== Sys2Proof/Laws/Same.lean ====
section
/-! SUPPORT. Which fields of the state an operation may change. `Same m z t` says that `t` is `z` but for the fields whose
bits are set in `m`, where bit `i` stands for field `i` of `State` (`pending` is bit 0). It is proved once for each
operation; its rules chain backwards through a definition. -/

namespace Sys2Proof.Machine
open Sys2Proof

/-- `t` is `z` but for the fields whose bits are set in `m`. -/
structure Same (m : Nat) (z t : State) : Prop where
  pending : m.testBit 0 = false → t.pending = z.pending
  build : m.testBit 1 = false → t.build = z.build
  ties : m.testBit 2 = false → t.ties = z.ties
  ph : m.testBit 3 = false → t.ph = z.ph
  regs : m.testBit 4 = false → t.regs = z.regs
  cfg : m.testBit 5 = false → t.cfg = z.cfg
  ep : m.testBit 6 = false → t.ep = z.ep
  queues : m.testBit 7 = false → t.queues = z.queues
  push : m.testBit 8 = false → t.push = z.push
  arb : m.testBit 9 = false → t.arb = z.arb
  tags : m.testBit 10 = false → t.tags = z.tags
  slots : m.testBit 11 = false → t.slots = z.slots
  works : m.testBit 12 = false → t.works = z.works
  luns : m.testBit 13 = false → t.luns = z.luns
  chans : m.testBit 14 = false → t.chans = z.chans
  frames : m.testBit 15 = false → t.frames = z.frames
  words : m.testBit 16 = false → t.words = z.words
  spares : m.testBit 17 = false → t.spares = z.spares
  accs : m.testBit 18 = false → t.accs = z.accs
  obt : m.testBit 19 = false → t.obt = z.obt
  obtLo : m.testBit 20 = false → t.obtLo = z.obtLo
  obtDoomed : m.testBit 21 = false → t.obtDoomed = z.obtDoomed
  rlt : m.testBit 22 = false → t.rlt = z.rlt
  ledger : m.testBit 23 = false → t.ledger = z.ledger
  ledgerLo : m.testBit 24 = false → t.ledgerLo = z.ledgerLo
  adv : m.testBit 25 = false → t.adv = z.adv
  deferred : m.testBit 26 = false → t.deferred = z.deferred
  carry : m.testBit 27 = false → t.carry = z.carry
  dma : m.testBit 28 = false → t.dma = z.dma
  rings : m.testBit 29 = false → t.rings = z.rings
  wheels : m.testBit 30 = false → t.wheels = z.wheels
  irq : m.testBit 31 = false → t.irq = z.irq
  bays : m.testBit 32 = false → t.bays = z.bays
  gov : m.testBit 33 = false → t.gov = z.gov
  calUnit : m.testBit 34 = false → t.calUnit = z.calUnit
  rawGroups : m.testBit 35 = false → t.rawGroups = z.rawGroups
  writeBacks : m.testBit 36 = false → t.writeBacks = z.writeBacks
  test : m.testBit 37 = false → t.test = z.test
  inj : m.testBit 38 = false → t.inj = z.inj
  trace : m.testBit 39 = false → t.trace = z.trace
  counters : m.testBit 40 = false → t.counters = z.counters
  saturated : m.testBit 41 = false → t.saturated = z.saturated
  deviceTime : m.testBit 42 = false → t.deviceTime = z.deviceTime
  follower : m.testBit 43 = false → t.follower = z.follower
  stamp : m.testBit 44 = false → t.stamp = z.stamp
  nextWork : m.testBit 45 = false → t.nextWork = z.nextWork
  fresh : m.testBit 46 = false → t.fresh = z.fresh

theorem Same.refl (m : Nat) (z : State) : Same m z z := by
  constructor <;> intro _ <;> rfl

/-- The bits of a part of a mask. -/
theorem up {a b m : Nat} (h : a ||| m = m) (e : b ||| a = a) : b ||| m = m := by
  rw [← h, ← Nat.or_assoc, e]

theorem bit_of {a m i : Nat} (h : a ||| m = m) (hi : a.testBit i = true) : m.testBit i = true := by
  rw [← h, Nat.testBit_or, hi, Bool.true_or]

/-- A field in the mask is not held to its value. -/
theorem mayDiffer {a m i : Nat} {p : Prop} (h : a ||| m = m) (hi : a.testBit i = true) : m.testBit i = false → p :=
  fun g => Bool.noConfusion ((bit_of h hi).symm.trans g)

/-- A state put together from fields of `t` and others. -/
theorem Same.lit {m : Nat} {z t : State}
    {x_build : Build}
    {x_ties : TieOffs}
    {x_ph : Phases}
    {x_regs : SMap Word}
    {x_cfg : SMap Word}
    {x_ep : Endpoint}
    {x_queues : SMap Queue}
    {x_push : SMap PushSlot}
    {x_arb : Arbiter}
    {x_tags : SMap Tag}
    {x_slots : SMap Slot}
    {x_works : SMap Work}
    {x_luns : SMap Lun}
    {x_chans : SMap Chan}
    {x_frames : SMap Frame}
    {x_words : SMap FWord}
    {x_spares : SMap FWord}
    {x_accs : SMap Accumulator}
    {x_obt : SMap ObtEntry}
    {x_obtLo : SMap Word}
    {x_obtDoomed : List Nat}
    {x_rlt : SMap RltEntry}
    {x_ledger : SMap LedgerEntry}
    {x_ledgerLo : SMap Word}
    {x_adv : List Advisory}
    {x_deferred : List Deferred}
    {x_carry : List Carry}
    {x_dma : SMap DmaChan}
    {x_rings : SMap Ring}
    {x_wheels : SMap Nat}
    {x_irq : Irq}
    {x_bays : SMap Bay}
    {x_gov : Governor}
    {x_calUnit : CalUnit}
    {x_rawGroups : SMap RawGroup}
    {x_writeBacks : List (Nat × Nat)}
    {x_test : SelfTest}
    {x_inj : Injector}
    {x_trace : Trace}
    {x_counters : SMap (BitVec 48)}
    {x_saturated : List Nat}
    {x_deviceTime : BitVec 64}
    {x_follower : BitVec 64}
    {x_stamp : Nat}
    {x_nextWork : Nat}
    {x_fresh : Nat} (hk : Same m z t)
    (h_build : m.testBit 1 = false → x_build = t.build)
    (h_ties : m.testBit 2 = false → x_ties = t.ties)
    (h_ph : m.testBit 3 = false → x_ph = t.ph)
    (h_regs : m.testBit 4 = false → x_regs = t.regs)
    (h_cfg : m.testBit 5 = false → x_cfg = t.cfg)
    (h_ep : m.testBit 6 = false → x_ep = t.ep)
    (h_queues : m.testBit 7 = false → x_queues = t.queues)
    (h_push : m.testBit 8 = false → x_push = t.push)
    (h_arb : m.testBit 9 = false → x_arb = t.arb)
    (h_tags : m.testBit 10 = false → x_tags = t.tags)
    (h_slots : m.testBit 11 = false → x_slots = t.slots)
    (h_works : m.testBit 12 = false → x_works = t.works)
    (h_luns : m.testBit 13 = false → x_luns = t.luns)
    (h_chans : m.testBit 14 = false → x_chans = t.chans)
    (h_frames : m.testBit 15 = false → x_frames = t.frames)
    (h_words : m.testBit 16 = false → x_words = t.words)
    (h_spares : m.testBit 17 = false → x_spares = t.spares)
    (h_accs : m.testBit 18 = false → x_accs = t.accs)
    (h_obt : m.testBit 19 = false → x_obt = t.obt)
    (h_obtLo : m.testBit 20 = false → x_obtLo = t.obtLo)
    (h_obtDoomed : m.testBit 21 = false → x_obtDoomed = t.obtDoomed)
    (h_rlt : m.testBit 22 = false → x_rlt = t.rlt)
    (h_ledger : m.testBit 23 = false → x_ledger = t.ledger)
    (h_ledgerLo : m.testBit 24 = false → x_ledgerLo = t.ledgerLo)
    (h_adv : m.testBit 25 = false → x_adv = t.adv)
    (h_deferred : m.testBit 26 = false → x_deferred = t.deferred)
    (h_carry : m.testBit 27 = false → x_carry = t.carry)
    (h_dma : m.testBit 28 = false → x_dma = t.dma)
    (h_rings : m.testBit 29 = false → x_rings = t.rings)
    (h_wheels : m.testBit 30 = false → x_wheels = t.wheels)
    (h_irq : m.testBit 31 = false → x_irq = t.irq)
    (h_bays : m.testBit 32 = false → x_bays = t.bays)
    (h_gov : m.testBit 33 = false → x_gov = t.gov)
    (h_calUnit : m.testBit 34 = false → x_calUnit = t.calUnit)
    (h_rawGroups : m.testBit 35 = false → x_rawGroups = t.rawGroups)
    (h_writeBacks : m.testBit 36 = false → x_writeBacks = t.writeBacks)
    (h_test : m.testBit 37 = false → x_test = t.test)
    (h_inj : m.testBit 38 = false → x_inj = t.inj)
    (h_trace : m.testBit 39 = false → x_trace = t.trace)
    (h_counters : m.testBit 40 = false → x_counters = t.counters)
    (h_saturated : m.testBit 41 = false → x_saturated = t.saturated)
    (h_deviceTime : m.testBit 42 = false → x_deviceTime = t.deviceTime)
    (h_follower : m.testBit 43 = false → x_follower = t.follower)
    (h_stamp : m.testBit 44 = false → x_stamp = t.stamp)
    (h_nextWork : m.testBit 45 = false → x_nextWork = t.nextWork)
    (h_fresh : m.testBit 46 = false → x_fresh = t.fresh) :
    Same m z (State.mk t.pending x_build x_ties x_ph x_regs x_cfg x_ep x_queues x_push x_arb x_tags x_slots x_works x_luns x_chans
      x_frames x_words x_spares x_accs x_obt x_obtLo x_obtDoomed x_rlt x_ledger x_ledgerLo x_adv
      x_deferred x_carry x_dma x_rings x_wheels x_irq x_bays x_gov x_calUnit x_rawGroups x_writeBacks
      x_test x_inj x_trace x_counters x_saturated x_deviceTime x_follower x_stamp x_nextWork x_fresh) :=
  ⟨hk.pending,
    fun g => (h_build g).trans (hk.build g),
    fun g => (h_ties g).trans (hk.ties g),
    fun g => (h_ph g).trans (hk.ph g),
    fun g => (h_regs g).trans (hk.regs g),
    fun g => (h_cfg g).trans (hk.cfg g),
    fun g => (h_ep g).trans (hk.ep g),
    fun g => (h_queues g).trans (hk.queues g),
    fun g => (h_push g).trans (hk.push g),
    fun g => (h_arb g).trans (hk.arb g),
    fun g => (h_tags g).trans (hk.tags g),
    fun g => (h_slots g).trans (hk.slots g),
    fun g => (h_works g).trans (hk.works g),
    fun g => (h_luns g).trans (hk.luns g),
    fun g => (h_chans g).trans (hk.chans g),
    fun g => (h_frames g).trans (hk.frames g),
    fun g => (h_words g).trans (hk.words g),
    fun g => (h_spares g).trans (hk.spares g),
    fun g => (h_accs g).trans (hk.accs g),
    fun g => (h_obt g).trans (hk.obt g),
    fun g => (h_obtLo g).trans (hk.obtLo g),
    fun g => (h_obtDoomed g).trans (hk.obtDoomed g),
    fun g => (h_rlt g).trans (hk.rlt g),
    fun g => (h_ledger g).trans (hk.ledger g),
    fun g => (h_ledgerLo g).trans (hk.ledgerLo g),
    fun g => (h_adv g).trans (hk.adv g),
    fun g => (h_deferred g).trans (hk.deferred g),
    fun g => (h_carry g).trans (hk.carry g),
    fun g => (h_dma g).trans (hk.dma g),
    fun g => (h_rings g).trans (hk.rings g),
    fun g => (h_wheels g).trans (hk.wheels g),
    fun g => (h_irq g).trans (hk.irq g),
    fun g => (h_bays g).trans (hk.bays g),
    fun g => (h_gov g).trans (hk.gov g),
    fun g => (h_calUnit g).trans (hk.calUnit g),
    fun g => (h_rawGroups g).trans (hk.rawGroups g),
    fun g => (h_writeBacks g).trans (hk.writeBacks g),
    fun g => (h_test g).trans (hk.test g),
    fun g => (h_inj g).trans (hk.inj g),
    fun g => (h_trace g).trans (hk.trace g),
    fun g => (h_counters g).trans (hk.counters g),
    fun g => (h_saturated g).trans (hk.saturated g),
    fun g => (h_deviceTime g).trans (hk.deviceTime g),
    fun g => (h_follower g).trans (hk.follower g),
    fun g => (h_stamp g).trans (hk.stamp g),
    fun g => (h_nextWork g).trans (hk.nextWork g),
    fun g => (h_fresh g).trans (hk.fresh g)⟩

/-- The state again, with the fields outside the mask taken from `z`. -/
theorem Same.eq {m : Nat} {z t : State} (h : Same m z t) : t = State.mk
    (bif m.testBit 0 then t.pending else z.pending)
    (bif m.testBit 1 then t.build else z.build)
    (bif m.testBit 2 then t.ties else z.ties)
    (bif m.testBit 3 then t.ph else z.ph)
    (bif m.testBit 4 then t.regs else z.regs)
    (bif m.testBit 5 then t.cfg else z.cfg)
    (bif m.testBit 6 then t.ep else z.ep)
    (bif m.testBit 7 then t.queues else z.queues)
    (bif m.testBit 8 then t.push else z.push)
    (bif m.testBit 9 then t.arb else z.arb)
    (bif m.testBit 10 then t.tags else z.tags)
    (bif m.testBit 11 then t.slots else z.slots)
    (bif m.testBit 12 then t.works else z.works)
    (bif m.testBit 13 then t.luns else z.luns)
    (bif m.testBit 14 then t.chans else z.chans)
    (bif m.testBit 15 then t.frames else z.frames)
    (bif m.testBit 16 then t.words else z.words)
    (bif m.testBit 17 then t.spares else z.spares)
    (bif m.testBit 18 then t.accs else z.accs)
    (bif m.testBit 19 then t.obt else z.obt)
    (bif m.testBit 20 then t.obtLo else z.obtLo)
    (bif m.testBit 21 then t.obtDoomed else z.obtDoomed)
    (bif m.testBit 22 then t.rlt else z.rlt)
    (bif m.testBit 23 then t.ledger else z.ledger)
    (bif m.testBit 24 then t.ledgerLo else z.ledgerLo)
    (bif m.testBit 25 then t.adv else z.adv)
    (bif m.testBit 26 then t.deferred else z.deferred)
    (bif m.testBit 27 then t.carry else z.carry)
    (bif m.testBit 28 then t.dma else z.dma)
    (bif m.testBit 29 then t.rings else z.rings)
    (bif m.testBit 30 then t.wheels else z.wheels)
    (bif m.testBit 31 then t.irq else z.irq)
    (bif m.testBit 32 then t.bays else z.bays)
    (bif m.testBit 33 then t.gov else z.gov)
    (bif m.testBit 34 then t.calUnit else z.calUnit)
    (bif m.testBit 35 then t.rawGroups else z.rawGroups)
    (bif m.testBit 36 then t.writeBacks else z.writeBacks)
    (bif m.testBit 37 then t.test else z.test)
    (bif m.testBit 38 then t.inj else z.inj)
    (bif m.testBit 39 then t.trace else z.trace)
    (bif m.testBit 40 then t.counters else z.counters)
    (bif m.testBit 41 then t.saturated else z.saturated)
    (bif m.testBit 42 then t.deviceTime else z.deviceTime)
    (bif m.testBit 43 then t.follower else z.follower)
    (bif m.testBit 44 then t.stamp else z.stamp)
    (bif m.testBit 45 then t.nextWork else z.nextWork)
    (bif m.testBit 46 then t.fresh else z.fresh) := by
  cases t
  congr 1
  · cases hb : m.testBit 0
    · exact h.pending hb
    · rfl
  · cases hb : m.testBit 1
    · exact h.build hb
    · rfl
  · cases hb : m.testBit 2
    · exact h.ties hb
    · rfl
  · cases hb : m.testBit 3
    · exact h.ph hb
    · rfl
  · cases hb : m.testBit 4
    · exact h.regs hb
    · rfl
  · cases hb : m.testBit 5
    · exact h.cfg hb
    · rfl
  · cases hb : m.testBit 6
    · exact h.ep hb
    · rfl
  · cases hb : m.testBit 7
    · exact h.queues hb
    · rfl
  · cases hb : m.testBit 8
    · exact h.push hb
    · rfl
  · cases hb : m.testBit 9
    · exact h.arb hb
    · rfl
  · cases hb : m.testBit 10
    · exact h.tags hb
    · rfl
  · cases hb : m.testBit 11
    · exact h.slots hb
    · rfl
  · cases hb : m.testBit 12
    · exact h.works hb
    · rfl
  · cases hb : m.testBit 13
    · exact h.luns hb
    · rfl
  · cases hb : m.testBit 14
    · exact h.chans hb
    · rfl
  · cases hb : m.testBit 15
    · exact h.frames hb
    · rfl
  · cases hb : m.testBit 16
    · exact h.words hb
    · rfl
  · cases hb : m.testBit 17
    · exact h.spares hb
    · rfl
  · cases hb : m.testBit 18
    · exact h.accs hb
    · rfl
  · cases hb : m.testBit 19
    · exact h.obt hb
    · rfl
  · cases hb : m.testBit 20
    · exact h.obtLo hb
    · rfl
  · cases hb : m.testBit 21
    · exact h.obtDoomed hb
    · rfl
  · cases hb : m.testBit 22
    · exact h.rlt hb
    · rfl
  · cases hb : m.testBit 23
    · exact h.ledger hb
    · rfl
  · cases hb : m.testBit 24
    · exact h.ledgerLo hb
    · rfl
  · cases hb : m.testBit 25
    · exact h.adv hb
    · rfl
  · cases hb : m.testBit 26
    · exact h.deferred hb
    · rfl
  · cases hb : m.testBit 27
    · exact h.carry hb
    · rfl
  · cases hb : m.testBit 28
    · exact h.dma hb
    · rfl
  · cases hb : m.testBit 29
    · exact h.rings hb
    · rfl
  · cases hb : m.testBit 30
    · exact h.wheels hb
    · rfl
  · cases hb : m.testBit 31
    · exact h.irq hb
    · rfl
  · cases hb : m.testBit 32
    · exact h.bays hb
    · rfl
  · cases hb : m.testBit 33
    · exact h.gov hb
    · rfl
  · cases hb : m.testBit 34
    · exact h.calUnit hb
    · rfl
  · cases hb : m.testBit 35
    · exact h.rawGroups hb
    · rfl
  · cases hb : m.testBit 36
    · exact h.writeBacks hb
    · rfl
  · cases hb : m.testBit 37
    · exact h.test hb
    · rfl
  · cases hb : m.testBit 38
    · exact h.inj hb
    · rfl
  · cases hb : m.testBit 39
    · exact h.trace hb
    · rfl
  · cases hb : m.testBit 40
    · exact h.counters hb
    · rfl
  · cases hb : m.testBit 41
    · exact h.saturated hb
    · rfl
  · cases hb : m.testBit 42
    · exact h.deviceTime hb
    · rfl
  · cases hb : m.testBit 43
    · exact h.follower hb
    · rfl
  · cases hb : m.testBit 44
    · exact h.stamp hb
    · rfl
  · cases hb : m.testBit 45
    · exact h.nextWork hb
    · rfl
  · cases hb : m.testBit 46
    · exact h.fresh hb
    · rfl

theorem Same.ite {m : Nat} {s a b : State} {c : Prop} [Decidable c] (ha : Same m s a) (hb : Same m s b) :
    Same m s (if c then a else b) := by split <;> assumption

theorem Same.foldl {α : Type} {m : Nat} {s t : State} {g : State → α → State} {l : List α}
    (hg : ∀ t x, Same m s t → Same m s (g t x)) (h : Same m s t) : Same m s (l.foldl g t) := by
  induction l generalizing t with
  | nil => exact h
  | cons a r ih => exact ih (hg t a h)

theorem Same.foldl2 {α β : Type} {m : Nat} {s : State} {p : β × State} {g : β × State → α → β × State} {l : List α}
    (hg : ∀ p x, Same m s p.2 → Same m s (g p x).2) (h : Same m s p.2) : Same m s (l.foldl g p).2 := by
  induction l generalizing p with
  | nil => exact h
  | cons a r ih => exact ih (hg p a h)

theorem Same.ite2 {β : Type} {m : Nat} {s : State} {a b : β × State} {c : Prop} [Decidable c] (ha : Same m s a.2) (hb : Same m s b.2) :
    Same m s (if c then a else b).2 := by split <;> assumption

theorem Same.mk2 {β : Type} {m : Nat} {s t : State} {a : β} (h : Same m s t) : Same m s (a, t).2 := h

/-- The state of a pair that an equation names. -/
theorem Same.snd {β : Type} {m : Nat} {s t : State} {a : β} {p : β × State} (e : p = (a, t)) (h : Same m s p.2) : Same m s t := by
  subst e; exact h

/-- What an operation that may have no result may change. -/
def SameO (m : Nat) (s : State) (o : Option State) : Prop := ∀ u, o = some u → Same m s u

theorem SameO.none {m : Nat} {s : State} : SameO m s Option.none := by intro u h; cases h

theorem SameO.some {m : Nat} {s t : State} (h : Same m s t) : SameO m s (Option.some t) := by intro u e; cases e; exact h

theorem SameO.ite {m : Nat} {s : State} {a b : Option State} {c : Prop} [Decidable c] (ha : SameO m s a) (hb : SameO m s b) :
    SameO m s (if c then a else b) := by split <;> assumption

theorem SameO.get {m : Nat} {s t : State} {o : Option State} (e : o = Option.some t) (h : SameO m s o) : Same m s t := h t e

/-- What an operation that may have no result, and returns a value beside the state, may change. -/
def SameP {β : Type} (m : Nat) (s : State) (o : Option (β × State)) : Prop := ∀ u, o = some u → Same m s u.2

theorem SameP.none {β : Type} {m : Nat} {s : State} : SameP m s (Option.none : Option (β × State)) := by intro u h; cases h

theorem SameP.some {β : Type} {m : Nat} {s : State} {p : β × State} (h : Same m s p.2) : SameP m s (Option.some p) := by
  intro u e; cases e; exact h

theorem SameP.get {β : Type} {m : Nat} {s t : State} {a : β} {o : Option (β × State)} (e : o = Option.some (a, t)) (h : SameP m s o) :
    Same m s t := h _ e

theorem SameP.map {β : Type} {m : Nat} {s : State} {o : Option (β × State)} (h : SameP m s o) : SameO m s (o.map (fun r => r.2)) := by
  intro u e
  cases o with
  | none => cases e
  | some p => cases e; exact h p rfl

/-- What a write that may be a violation may change. -/
def SameE (m : Nat) (s : State) (o : Except Nat State) : Prop := ∀ u, o = .ok u → Same m s u

theorem SameE.error {m : Nat} {s : State} {k : Nat} : SameE m s (.error k) := by intro u h; cases h

theorem SameE.ok {m : Nat} {s t : State} (h : Same m s t) : SameE m s (.ok t) := by intro u e; cases e; exact h

theorem SameE.get {m : Nat} {s t : State} {o : Except Nat State} (e : o = .ok t) (h : SameE m s o) : Same m s t := h t e

/-- What a read that may be a violation may change. -/
def SameR {β : Type} (m : Nat) (s : State) (o : Except Nat (β × State)) : Prop := ∀ u, o = .ok u → Same m s u.2

theorem SameR.error {β : Type} {m : Nat} {s : State} {k : Nat} : SameR m s (.error k : Except Nat (β × State)) := by
  intro u h; cases h

theorem SameR.ok {β : Type} {m : Nat} {s : State} {p : β × State} (h : Same m s p.2) : SameR m s (.ok p) := by
  intro u e; cases e; exact h

theorem SameR.get {β : Type} {m : Nat} {s t : State} {a : β} {o : Except Nat (β × State)} (e : o = .ok (a, t)) (h : SameR m s o) :
    Same m s t := h _ e

/-- What a command may change. -/
def SameX (m : Nat) (s : State) (o : Host.Outcome State Fault Refusal) : Prop := ∀ u, o = .next u → Same m s u

theorem SameX.next {m : Nat} {s t : State} (h : Same m s t) : SameX m s (.next t) := by intro u e; cases e; exact h

end Sys2Proof.Machine
end

