-- ==== Sys2Proof/Laws/Frames/Access.lean ====
section
/-! SUPPORT. Which fields the operations of `Machine/Access.lean` may change. -/

namespace Sys2Proof.Machine
open Sys2Proof

theorem setQueue_same {m : Nat} {z t : State} (hk : Same m z t) (h : 0x80 ||| m = m) (k : Nat) (x : Queue) :
    Same m z (State.setQueue t k x) := by
  unfold State.setQueue
  repeat' with_reducible first
    | exact hk | assumption | exact mayDiffer h rfl | exact fun _ => rfl | apply Same.lit

theorem modQueue_same {m : Nat} {z t : State} (hk : Same m z t) (h : 0x80 ||| m = m) (k : Nat) (f : Queue → Queue) :
    Same m z (State.modQueue t k f) := by
  unfold State.modQueue
  repeat' with_reducible first
    | exact hk | assumption | apply setQueue_same (h := up h rfl)

theorem setPushSlot_same {m : Nat} {z t : State} (hk : Same m z t) (h : 0x100 ||| m = m) (k : Nat) (x : PushSlot) :
    Same m z (State.setPushSlot t k x) := by
  unfold State.setPushSlot
  repeat' with_reducible first
    | exact hk | assumption | exact mayDiffer h rfl | exact fun _ => rfl | apply Same.lit

theorem modPushSlot_same {m : Nat} {z t : State} (hk : Same m z t) (h : 0x100 ||| m = m) (k : Nat) (f : PushSlot → PushSlot) :
    Same m z (State.modPushSlot t k f) := by
  unfold State.modPushSlot
  repeat' with_reducible first
    | exact hk | assumption | apply setPushSlot_same (h := up h rfl)

theorem setTag_same {m : Nat} {z t : State} (hk : Same m z t) (h : 0x400 ||| m = m) (k : Nat) (x : Tag) :
    Same m z (State.setTag t k x) := by
  unfold State.setTag
  repeat' with_reducible first
    | exact hk | assumption | exact mayDiffer h rfl | exact fun _ => rfl | apply Same.lit

theorem modTag_same {m : Nat} {z t : State} (hk : Same m z t) (h : 0x400 ||| m = m) (k : Nat) (f : Tag → Tag) :
    Same m z (State.modTag t k f) := by
  unfold State.modTag
  repeat' with_reducible first
    | exact hk | assumption | apply setTag_same (h := up h rfl)

theorem setSlot_same {m : Nat} {z t : State} (hk : Same m z t) (h : 0x800 ||| m = m) (k : Nat) (x : Slot) :
    Same m z (State.setSlot t k x) := by
  unfold State.setSlot
  repeat' with_reducible first
    | exact hk | assumption | exact mayDiffer h rfl | exact fun _ => rfl | apply Same.lit

theorem modSlot_same {m : Nat} {z t : State} (hk : Same m z t) (h : 0x800 ||| m = m) (k : Nat) (f : Slot → Slot) :
    Same m z (State.modSlot t k f) := by
  unfold State.modSlot
  repeat' with_reducible first
    | exact hk | assumption | apply setSlot_same (h := up h rfl)

theorem setLun_same {m : Nat} {z t : State} (hk : Same m z t) (h : 0x2000 ||| m = m) (k : Nat) (x : Lun) :
    Same m z (State.setLun t k x) := by
  unfold State.setLun
  repeat' with_reducible first
    | exact hk | assumption | exact mayDiffer h rfl | exact fun _ => rfl | apply Same.lit

theorem modLun_same {m : Nat} {z t : State} (hk : Same m z t) (h : 0x2000 ||| m = m) (k : Nat) (f : Lun → Lun) :
    Same m z (State.modLun t k f) := by
  unfold State.modLun
  repeat' with_reducible first
    | exact hk | assumption | apply setLun_same (h := up h rfl)

theorem setChan_same {m : Nat} {z t : State} (hk : Same m z t) (h : 0x4000 ||| m = m) (k : Nat) (x : Chan) :
    Same m z (State.setChan t k x) := by
  unfold State.setChan
  repeat' with_reducible first
    | exact hk | assumption | exact mayDiffer h rfl | exact fun _ => rfl | apply Same.lit

theorem modChan_same {m : Nat} {z t : State} (hk : Same m z t) (h : 0x4000 ||| m = m) (k : Nat) (f : Chan → Chan) :
    Same m z (State.modChan t k f) := by
  unfold State.modChan
  repeat' with_reducible first
    | exact hk | assumption | apply setChan_same (h := up h rfl)

theorem setFrame_same {m : Nat} {z t : State} (hk : Same m z t) (h : 0x8000 ||| m = m) (k : Nat) (x : Frame) :
    Same m z (State.setFrame t k x) := by
  unfold State.setFrame
  repeat' with_reducible first
    | exact hk | assumption | exact mayDiffer h rfl | exact fun _ => rfl | apply Same.lit

theorem modFrame_same {m : Nat} {z t : State} (hk : Same m z t) (h : 0x8000 ||| m = m) (k : Nat) (f : Frame → Frame) :
    Same m z (State.modFrame t k f) := by
  unfold State.modFrame
  repeat' with_reducible first
    | exact hk | assumption | apply setFrame_same (h := up h rfl)

theorem setFword_same {m : Nat} {z t : State} (hk : Same m z t) (h : 0x10000 ||| m = m) (k : Nat) (x : FWord) :
    Same m z (State.setFword t k x) := by
  unfold State.setFword
  repeat' with_reducible first
    | exact hk | assumption | exact mayDiffer h rfl | exact fun _ => rfl | apply Same.lit

theorem modFword_same {m : Nat} {z t : State} (hk : Same m z t) (h : 0x10000 ||| m = m) (k : Nat) (f : FWord → FWord) :
    Same m z (State.modFword t k f) := by
  unfold State.modFword
  repeat' with_reducible first
    | exact hk | assumption | apply setFword_same (h := up h rfl)

theorem setSpare_same {m : Nat} {z t : State} (hk : Same m z t) (h : 0x20000 ||| m = m) (k : Nat) (x : FWord) :
    Same m z (State.setSpare t k x) := by
  unfold State.setSpare
  repeat' with_reducible first
    | exact hk | assumption | exact mayDiffer h rfl | exact fun _ => rfl | apply Same.lit

theorem modSpare_same {m : Nat} {z t : State} (hk : Same m z t) (h : 0x20000 ||| m = m) (k : Nat) (f : FWord → FWord) :
    Same m z (State.modSpare t k f) := by
  unfold State.modSpare
  repeat' with_reducible first
    | exact hk | assumption | apply setSpare_same (h := up h rfl)

theorem setAcc_same {m : Nat} {z t : State} (hk : Same m z t) (h : 0x40000 ||| m = m) (k : Nat) (x : Accumulator) :
    Same m z (State.setAcc t k x) := by
  unfold State.setAcc
  repeat' with_reducible first
    | exact hk | assumption | exact mayDiffer h rfl | exact fun _ => rfl | apply Same.lit

theorem modAcc_same {m : Nat} {z t : State} (hk : Same m z t) (h : 0x40000 ||| m = m) (k : Nat) (f : Accumulator → Accumulator) :
    Same m z (State.modAcc t k f) := by
  unfold State.modAcc
  repeat' with_reducible first
    | exact hk | assumption | apply setAcc_same (h := up h rfl)

theorem setObtEntry_same {m : Nat} {z t : State} (hk : Same m z t) (h : 0x80000 ||| m = m) (k : Nat) (x : ObtEntry) :
    Same m z (State.setObtEntry t k x) := by
  unfold State.setObtEntry
  repeat' with_reducible first
    | exact hk | assumption | exact mayDiffer h rfl | exact fun _ => rfl | apply Same.lit

theorem modObtEntry_same {m : Nat} {z t : State} (hk : Same m z t) (h : 0x80000 ||| m = m) (k : Nat) (f : ObtEntry → ObtEntry) :
    Same m z (State.modObtEntry t k f) := by
  unfold State.modObtEntry
  repeat' with_reducible first
    | exact hk | assumption | apply setObtEntry_same (h := up h rfl)

theorem setRltEntry_same {m : Nat} {z t : State} (hk : Same m z t) (h : 0x400000 ||| m = m) (k : Nat) (x : RltEntry) :
    Same m z (State.setRltEntry t k x) := by
  unfold State.setRltEntry
  repeat' with_reducible first
    | exact hk | assumption | exact mayDiffer h rfl | exact fun _ => rfl | apply Same.lit

theorem modRltEntry_same {m : Nat} {z t : State} (hk : Same m z t) (h : 0x400000 ||| m = m) (k : Nat) (f : RltEntry → RltEntry) :
    Same m z (State.modRltEntry t k f) := by
  unfold State.modRltEntry
  repeat' with_reducible first
    | exact hk | assumption | apply setRltEntry_same (h := up h rfl)

theorem setLedgerEntry_same {m : Nat} {z t : State} (hk : Same m z t) (h : 0x800000 ||| m = m) (k : Nat) (x : LedgerEntry) :
    Same m z (State.setLedgerEntry t k x) := by
  unfold State.setLedgerEntry
  repeat' with_reducible first
    | exact hk | assumption | exact mayDiffer h rfl | exact fun _ => rfl | apply Same.lit

theorem modLedgerEntry_same {m : Nat} {z t : State} (hk : Same m z t) (h : 0x800000 ||| m = m) (k : Nat) (f : LedgerEntry → LedgerEntry) :
    Same m z (State.modLedgerEntry t k f) := by
  unfold State.modLedgerEntry
  repeat' with_reducible first
    | exact hk | assumption | apply setLedgerEntry_same (h := up h rfl)

theorem setDmaChan_same {m : Nat} {z t : State} (hk : Same m z t) (h : 0x10000000 ||| m = m) (k : Nat) (x : DmaChan) :
    Same m z (State.setDmaChan t k x) := by
  unfold State.setDmaChan
  repeat' with_reducible first
    | exact hk | assumption | exact mayDiffer h rfl | exact fun _ => rfl | apply Same.lit

theorem modDmaChan_same {m : Nat} {z t : State} (hk : Same m z t) (h : 0x10000000 ||| m = m) (k : Nat) (f : DmaChan → DmaChan) :
    Same m z (State.modDmaChan t k f) := by
  unfold State.modDmaChan
  repeat' with_reducible first
    | exact hk | assumption | apply setDmaChan_same (h := up h rfl)

theorem setRing_same {m : Nat} {z t : State} (hk : Same m z t) (h : 0x20000000 ||| m = m) (k : Nat) (x : Ring) :
    Same m z (State.setRing t k x) := by
  unfold State.setRing
  repeat' with_reducible first
    | exact hk | assumption | exact mayDiffer h rfl | exact fun _ => rfl | apply Same.lit

theorem modRing_same {m : Nat} {z t : State} (hk : Same m z t) (h : 0x20000000 ||| m = m) (k : Nat) (f : Ring → Ring) :
    Same m z (State.modRing t k f) := by
  unfold State.modRing
  repeat' with_reducible first
    | exact hk | assumption | apply setRing_same (h := up h rfl)

theorem setBay_same {m : Nat} {z t : State} (hk : Same m z t) (h : 0x100000000 ||| m = m) (k : Nat) (x : Bay) :
    Same m z (State.setBay t k x) := by
  unfold State.setBay
  repeat' with_reducible first
    | exact hk | assumption | exact mayDiffer h rfl | exact fun _ => rfl | apply Same.lit

theorem modBay_same {m : Nat} {z t : State} (hk : Same m z t) (h : 0x100000000 ||| m = m) (k : Nat) (f : Bay → Bay) :
    Same m z (State.modBay t k f) := by
  unfold State.modBay
  repeat' with_reducible first
    | exact hk | assumption | apply setBay_same (h := up h rfl)

theorem modWork_same {m : Nat} {z t : State} (hk : Same m z t) (h : 0x1000 ||| m = m) (k : Nat) (f : Work → Work) :
    Same m z (State.modWork t k f) := by
  unfold State.modWork
  repeat' with_reducible first
    | exact hk | assumption | exact mayDiffer h rfl | exact fun _ => rfl | split | (apply Same.snd; assumption)
    | apply Same.lit

theorem dropWork_same {m : Nat} {z t : State} (hk : Same m z t) (h : 0x1000 ||| m = m) (k : Nat) :
    Same m z (State.dropWork t k) := by
  unfold State.dropWork
  repeat' with_reducible first
    | exact hk | assumption | exact mayDiffer h rfl | exact fun _ => rfl | apply Same.lit

theorem setReg_same {m : Nat} {z t : State} (hk : Same m z t) (h : 0x10 ||| m = m) (off : Nat) (w : Word) :
    Same m z (State.setReg t off w) := by
  unfold State.setReg
  repeat' with_reducible first
    | exact hk | assumption | exact mayDiffer h rfl | exact fun _ => rfl | apply Same.lit

theorem setFld_same {m : Nat} {z t : State} (hk : Same m z t) (h : 0x10 ||| m = m) (off : Nat) (hi : Nat) (lo : Nat) (v : Nat) :
    Same m z (State.setFld t off hi lo v) := by
  unfold State.setFld
  repeat' with_reducible first
    | exact hk | assumption | apply setReg_same (h := up h rfl)

theorem addFld_same {m : Nat} {z t : State} (hk : Same m z t) (h : 0x10 ||| m = m) (off : Nat) (hi : Nat) (lo : Nat) (v : Nat) :
    Same m z (State.addFld t off hi lo v) := by
  unfold State.addFld
  repeat' with_reducible first
    | exact hk | assumption | apply setFld_same (h := up h rfl)

theorem setBit_same {m : Nat} {z t : State} (hk : Same m z t) (h : 0x10 ||| m = m) (off : Nat) (b : Nat) (v : Bool) :
    Same m z (State.setBit t off b v) := by
  unfold State.setBit
  repeat' with_reducible first
    | exact hk | assumption | apply setFld_same (h := up h rfl)

theorem setArrBit_same {m : Nat} {z t : State} (hk : Same m z t) (h : 0x10 ||| m = m) (base : Nat) (n : Nat) (v : Bool) :
    Same m z (State.setArrBit t base n v) := by
  unfold State.setArrBit
  repeat' with_reducible first
    | exact hk | assumption | apply setBit_same (h := up h rfl)

theorem tick_same {m : Nat} {z t : State} (hk : Same m z t) (h : 0x100000000000 ||| m = m) :
    Same m z (State.tick t).2 := by
  unfold State.tick
  repeat' with_reducible first
    | exact hk | assumption | exact mayDiffer h rfl | exact fun _ => rfl | apply Same.lit

theorem nextFresh_same {m : Nat} {z t : State} (hk : Same m z t) (h : 0x400000000000 ||| m = m) :
    Same m z (State.nextFresh t).2 := by
  unfold State.nextFresh
  repeat' with_reducible first
    | exact hk | assumption | exact mayDiffer h rfl | exact fun _ => rfl | apply Same.lit

end Sys2Proof.Machine
end

