-- ==== Sys2Proof/Laws/Frames/Observe.lean ====
section
/-! SUPPORT. Which fields the operations of `Machine/Observe.lean` may change. -/

namespace Sys2Proof.Machine
open Sys2Proof

theorem wakeBy_same {m : Nat} {z t : State} (hk : Same m z t) (h : 0x80000010 ||| m = m) (e : WakeEvent) :
    Same m z (State.wakeBy t e) := by
  unfold State.wakeBy
  repeat' with_reducible first
    | exact hk | assumption | exact mayDiffer h rfl | exact fun _ => rfl | apply Same.ite
    | apply setReg_same (h := up h rfl) | split | (apply Same.snd; assumption) | apply Same.lit

theorem holdRequest_same {m : Nat} {z t : State} (hk : Same m z t) (h : 0x80000050 ||| m = m) (c : Instr) (e : WakeEvent) :
    Same m z (State.holdRequest t c e) := by
  unfold State.holdRequest
  dsimp only
  repeat' with_reducible first
    | exact hk | assumption | exact mayDiffer h rfl | exact fun _ => rfl | apply wakeBy_same (h := up h rfl)
    | apply Same.lit

theorem traceIn_same {m : Nat} {z t : State} (hk : Same m z t) (h : 0x8000000010 ||| m = m) (r : BitVec 128) :
    Same m z (State.traceIn t r) := by
  unfold State.traceIn
  dsimp only
  repeat' with_reducible first
    | exact hk | assumption | exact mayDiffer h rfl | exact fun _ => rfl | apply Same.ite
    | apply setBit_same (h := up h rfl) | apply addFld_same (h := up h rfl) | apply Same.lit

theorem traceAlways_same {m : Nat} {z t : State} (hk : Same m z t) (h : 0x8000000010 ||| m = m) (ty : Nat) (unit : Nat) (payload : Nat) :
    Same m z (State.traceAlways t ty unit payload) := by
  unfold State.traceAlways
  repeat' with_reducible first
    | exact hk | assumption | apply Same.ite | apply traceIn_same (h := up h rfl)

theorem traceRec_same {m : Nat} {z t : State} (hk : Same m z t) (h : 0x8000000010 ||| m = m) (ty : Nat) (cls : Nat) (unit : Nat) (isChan : Bool) (payload : Nat) (queue : Option Nat) :
    Same m z (State.traceRec t ty cls unit isChan payload queue) := by
  unfold State.traceRec
  repeat' with_reducible first
    | exact hk | assumption | apply Same.ite | apply traceIn_same (h := up h rfl)

theorem traceSync_same {m : Nat} {z t : State} (hk : Same m z t) (h : 0x8000000010 ||| m = m) :
    Same m z (State.traceSync t) := by
  unfold State.traceSync
  repeat' with_reducible first
    | exact hk | assumption | apply traceAlways_same (h := up h rfl)

theorem count_same {m : Nat} {z t : State} (hk : Same m z t) (h : 0x38000000010 ||| m = m) (g : Nat) (i : Nat) (k : Nat) :
    Same m z (State.count t g i k) := by
  unfold State.count
  dsimp only
  repeat' with_reducible first
    | exact hk | assumption | exact mayDiffer h rfl | exact fun _ => rfl | apply Same.ite
    | apply traceAlways_same (h := up h rfl) | apply Same.lit

theorem snapshot_same {m : Nat} {z t : State} (hk : Same m z t) (h : 0x30000000010 ||| m = m) (b : Nat) (g : Nat) (clear : Bool) :
    Same m z (State.snapshot t b g clear) := by
  unfold State.snapshot
  dsimp only
  repeat' with_reducible first
    | exact hk | assumption | exact mayDiffer h rfl | exact fun _ => rfl | intro _ | apply Same.ite | apply Same.foldl
    | apply setReg_same (h := up h rfl) | apply setFld_same (h := up h rfl) | apply setBit_same (h := up h rfl)
    | apply Same.lit

theorem traceDrop_same {m : Nat} {z t : State} (hk : Same m z t) (h : 0x8000000000 ||| m = m) :
    Same m z (State.traceDrop t) := by
  unfold State.traceDrop
  repeat' with_reducible first
    | exact hk | assumption | exact mayDiffer h rfl | exact fun _ => rfl | apply Same.lit

theorem latchTime_same {m : Nat} {z t : State} (hk : Same m z t) (h : 0x40 ||| m = m) (mgmt : Bool) :
    Same m z (State.latchTime t mgmt) := by
  unfold State.latchTime
  dsimp only
  repeat' with_reducible first
    | exact hk | assumption | exact mayDiffer h rfl | exact fun _ => rfl | apply Same.ite | apply Same.lit

theorem traceFlush_same {m : Nat} {z t : State} (hk : Same m z t) (h : 0x8000000010 ||| m = m) :
    Same m z (State.traceFlush t) := by
  unfold State.traceFlush
  repeat' with_reducible first
    | exact hk | assumption | exact mayDiffer h rfl | exact fun _ => rfl | apply Same.ite
    | apply setBit_same (h := up h rfl) | apply setReg_same (h := up h rfl) | apply Same.lit

theorem tracePop_same {m : Nat} {z t : State} (hk : Same m z t) (h : 0x8000000000 ||| m = m) :
    Same m z (State.tracePop t) := by
  unfold State.tracePop
  repeat' with_reducible first
    | exact hk | assumption | apply Same.ite | apply traceDrop_same (h := up h rfl)

theorem busyClocks_same {m : Nat} {z t : State} (hk : Same m z t) (h : 0x438000000010 ||| m = m) (g : Nat) :
    Same m z (State.busyClocks t g) := by
  unfold State.busyClocks
  repeat' with_reducible first
    | exact hk | assumption | apply Same.ite | apply Same.ite2 | apply nextFresh_same (h := up h rfl)
    | apply count_same (h := up h rfl)

theorem snapGo_same {m : Nat} {z t : State} (hk : Same m z t) (h : 0x438000000010 ||| m = m) (bank : Nat) (group : Nat) (clear : Bool) :
    Same m z (State.snapGo t bank group clear) := by
  unfold State.snapGo
  repeat' with_reducible first
    | exact hk | assumption | apply Same.ite | apply setBit_same (h := up h rfl)
    | apply busyClocks_same (h := up h rfl) | apply snapshot_same (h := up h rfl)

theorem execTrcPop_same {m : Nat} {z t : State} (hk : Same m z t) (h : 0x8080000050 ||| m = m) :
    SameX m z (execTrcPop t) := by
  unfold execTrcPop
  repeat' with_reducible first
    | exact hk | assumption | apply Same.ite | apply holdRequest_same (h := up h rfl)
    | apply tracePop_same (h := up h rfl) | apply SameX.next | split

theorem execTrcFlush_same {m : Nat} {z t : State} (hk : Same m z t) (h : 0x8080000050 ||| m = m) :
    SameX m z (execTrcFlush t) := by
  unfold execTrcFlush
  repeat' with_reducible first
    | exact hk | assumption | apply Same.ite | apply holdRequest_same (h := up h rfl)
    | apply traceFlush_same (h := up h rfl) | apply SameX.next | split

theorem execSnapshot_same {m : Nat} {z t : State} (hk : Same m z t) (h : 0x438080000050 ||| m = m) (bank : Nat) (group : Nat) (clear : Bool) :
    SameX m z (execSnapshot bank group clear t) := by
  unfold execSnapshot
  repeat' with_reducible first
    | exact hk | assumption | apply Same.ite | apply holdRequest_same (h := up h rfl)
    | apply snapshot_same (h := up h rfl) | apply snapGo_same (h := up h rfl) | apply SameX.next | split

end Sys2Proof.Machine
end

