-- ==== Sys2Proof/Laws/Frames/Irq.lean ====
section
/-! SUPPORT. Which fields the operations of `Machine/Irq.lean` may change. -/

namespace Sys2Proof.Machine
open Sys2Proof

theorem traceIrq_same {m : Nat} {z t : State} (hk : Same m z t) (h : 0x8000000010 ||| m = m) (unit : Nat) (what : Nat) (fast : Bool) (t' : Nat) :
    Same m z (State.traceIrq t unit what fast t') := by
  unfold State.traceIrq
  repeat' with_reducible first
    | exact hk | assumption | apply traceRec_same (h := up h rfl)

theorem squall_same {m : Nat} {z t : State} (hk : Same m z t) (h : 0x38080000010 ||| m = m) (n : Nat) :
    Same m z (State.squall t n) := by
  unfold State.squall
  dsimp only
  repeat' with_reducible first
    | exact hk | assumption | exact mayDiffer h rfl | exact fun _ => rfl | apply Same.ite
    | apply setArrBit_same (h := up h rfl) | apply addFld_same (h := up h rfl) | apply count_same (h := up h rfl)
    | apply Same.lit

theorem pendEdge_same {m : Nat} {z t : State} (hk : Same m z t) (h : 0x38080000010 ||| m = m) (n : Nat) :
    Same m z (State.pendEdge t n) := by
  unfold State.pendEdge
  dsimp only
  repeat' with_reducible first
    | exact hk | assumption | exact mayDiffer h rfl | exact fun _ => rfl | apply Same.ite
    | apply squall_same (h := up h rfl) | apply traceIrq_same (h := up h rfl) | apply Same.lit

theorem raise_same {m : Nat} {z t : State} (hk : Same m z t) (h : 0x38080000010 ||| m = m) (n : Nat) :
    Same m z (State.raise t n) := by
  unfold State.raise
  dsimp only
  repeat' with_reducible first
    | exact hk | assumption | exact mayDiffer h rfl | exact fun _ => rfl | apply Same.ite
    | apply wakeBy_same (h := up h rfl) | apply pendEdge_same (h := up h rfl) | apply Same.lit

theorem releaseEdges_same {m : Nat} {z t : State} (hk : Same m z t) (h : 0x38080000010 ||| m = m) :
    Same m z (State.releaseEdges t) := by
  unfold State.releaseEdges
  repeat' with_reducible first
    | exact hk | assumption | exact mayDiffer h rfl | exact fun _ => rfl | intro _ | apply Same.foldl
    | apply pendEdge_same (h := up h rfl) | apply Same.lit

theorem raiseCarry_same {m : Nat} {z t : State} (hk : Same m z t) (h : 0x38080000010 ||| m = m) :
    Same m z (State.raiseCarry t) := by
  unfold State.raiseCarry
  repeat' with_reducible first
    | exact hk | assumption | apply Same.ite | apply pendEdge_same (h := up h rfl)

theorem attn_same {m : Nat} {z t : State} (hk : Same m z t) (h : 0x38080000010 ||| m = m) (n : Nat) (b : Nat) :
    Same m z (State.attn t n b) := by
  unfold State.attn
  repeat' with_reducible first
    | exact hk | assumption | apply Same.ite | apply setBit_same (h := up h rfl) | apply raise_same (h := up h rfl)

theorem claim_same {m : Nat} {z t : State} (hk : Same m z t) (h : 0x38080000010 ||| m = m) (t' : Nat) (fast : Bool) :
    Same m z (State.claim t t' fast).2 := by
  unfold State.claim
  dsimp only
  repeat' with_reducible first
    | exact hk | assumption | exact mayDiffer h rfl | exact fun _ => rfl | apply Same.ite | apply Same.ite2
    | apply count_same (h := up h rfl) | apply traceIrq_same (h := up h rfl) | apply setBit_same (h := up h rfl)
    | split | (apply Same.snd; assumption) | apply Same.lit

theorem complete_same {m : Nat} {z t : State} (hk : Same m z t) (h : 0x38080000010 ||| m = m) (t' : Nat) (fast : Bool) (v : Word) :
    Same m z (State.complete t t' fast v) := by
  unfold State.complete
  dsimp only
  repeat' with_reducible first
    | exact hk | assumption | exact mayDiffer h rfl | exact fun _ => rfl | apply Same.ite
    | apply count_same (h := up h rfl) | apply traceIrq_same (h := up h rfl) | apply setBit_same (h := up h rfl)
    | apply Same.lit

theorem pendSet_same {m : Nat} {z t : State} (hk : Same m z t) (h : 0x38080000010 ||| m = m) (w : Nat) (v : Word) :
    Same m z (State.pendSet t w v) := by
  unfold State.pendSet
  repeat' with_reducible first
    | exact hk | assumption | intro _ | apply Same.foldl | apply pendEdge_same (h := up h rfl)

theorem pendClr_same {m : Nat} {z t : State} (hk : Same m z t) (h : 0x80000000 ||| m = m) (w : Nat) (v : Word) :
    Same m z (State.pendClr t w v) := by
  unfold State.pendClr
  repeat' with_reducible first
    | exact hk | assumption | exact mayDiffer h rfl | exact fun _ => rfl | apply Same.lit

theorem execSrcPendSet_same {m : Nat} {z t : State} (hk : Same m z t) (h : 0x38080000050 ||| m = m) (w : Nat) (val : Word) :
    SameX m z (execSrcPendSet w val t) := by
  unfold execSrcPendSet
  repeat' with_reducible first
    | exact hk | assumption | apply Same.ite | apply holdRequest_same (h := up h rfl)
    | apply pendSet_same (h := up h rfl) | apply SameX.next | split

theorem execSrcPendClr_same {m : Nat} {z t : State} (hk : Same m z t) (h : 0x80000050 ||| m = m) (w : Nat) (val : Word) :
    SameX m z (execSrcPendClr w val t) := by
  unfold execSrcPendClr
  repeat' with_reducible first
    | exact hk | assumption | apply Same.ite | apply holdRequest_same (h := up h rfl)
    | apply pendClr_same (h := up h rfl) | apply SameX.next | split

theorem execSrcMaskWrite_same {m : Nat} {z t : State} (hk : Same m z t) (h : 0x80000050 ||| m = m) (w : Nat) (val : Word) :
    SameX m z (execSrcMaskWrite w val t) := by
  unfold execSrcMaskWrite
  repeat' with_reducible first
    | exact hk | assumption | apply Same.ite | apply holdRequest_same (h := up h rfl)
    | apply setReg_same (h := up h rfl) | apply SameX.next | split

theorem execClaim_same {m : Nat} {z t : State} (hk : Same m z t) (h : 0x38080000050 ||| m = m) (target : Nat) (fast : Bool) :
    SameX m z (execClaim target fast t) := by
  unfold execClaim
  repeat' with_reducible first
    | exact hk | assumption | apply Same.ite | apply Same.ite2 | apply holdRequest_same (h := up h rfl)
    | apply claim_same (h := up h rfl) | apply SameX.next | split

theorem execComplete_same {m : Nat} {z t : State} (hk : Same m z t) (h : 0x38080000050 ||| m = m) (target : Nat) (fast : Bool) (val : Word) :
    SameX m z (execComplete target fast val t) := by
  unfold execComplete
  repeat' with_reducible first
    | exact hk | assumption | apply Same.ite | apply holdRequest_same (h := up h rfl)
    | apply complete_same (h := up h rfl) | apply SameX.next | split

end Sys2Proof.Machine
end

