-- ==== Sys2Proof/Laws/Base.lean ====
section
/-! SUPPORT. What a trace record, a count and an edge of an interrupt source do to the registers and the pending bits. -/

namespace Sys2Proof.Machine
open Sys2Proof

theorem traceIn_reg (s : State) (r : BitVec 128) (a : Nat) (h : traceReg a = false) :
    (s.traceIn r).reg a = s.reg a := by
  simp only [traceReg, Bool.or_eq_false_iff, beq_eq_false_iff_ne, ne_eq] at h
  unfold State.traceIn
  dsimp only
  split
  · rw [setBit_reg _ _ _ _ _ (by omega), setBit_reg _ _ _ _ _ (by omega)]
  split
  · unfold State.addFld; rw [setFld_reg, if_neg (by omega)]; rfl
  · split
    · rw [setBit_reg _ _ _ _ _ (by omega), setBit_reg _ _ _ _ _ (by omega)]; rfl
    · rfl

theorem traceRec_reg (s : State) (ty cls unit : Nat) (c : Bool) (p : Nat) (q : Option Nat) (a : Nat)
    (h : traceReg a = false) : (s.traceRec ty cls unit c p q).reg a = s.reg a := by
  unfold State.traceRec; split
  · exact traceIn_reg _ _ _ h
  · rfl

theorem traceAlways_reg (s : State) (ty unit p a : Nat) (h : traceReg a = false) :
    (s.traceAlways ty unit p).reg a = s.reg a := by
  unfold State.traceAlways; split
  · exact traceIn_reg _ _ _ h
  · rfl

theorem count_reg (s : State) (g i k a : Nat) (h : traceReg a = false) : (s.count g i k).reg a = s.reg a := by
  unfold State.count
  dsimp only
  split
  · rfl
  · split
    · rfl
    · rw [traceAlways_reg _ _ _ _ _ h]; rfl

theorem traceIrq_reg (s : State) (u w : Nat) (f : Bool) (t a : Nat) (h : traceReg a = false) :
    (s.traceIrq u w f t).reg a = s.reg a := traceRec_reg _ _ _ _ _ _ _ _ h

theorem raiseReg_trace {a : Nat} (h : raiseReg a = false) : traceReg a = false := by
  simp only [raiseReg, Bool.or_eq_false_iff] at h; exact h.1.1.1

theorem squall_reg (s : State) (n a : Nat) (hn : n < 1024) (h : raiseReg a = false) : (s.squall n).reg a = s.reg a := by
  have ht := raiseReg_trace h
  simp only [raiseReg, Bool.or_eq_false_iff, beq_eq_false_iff_ne, ne_eq, Bool.and_eq_false_iff,
    decide_eq_false_iff_not] at h
  unfold State.squall
  dsimp only
  repeat' split
  all_goals first
    | rfl
    | (rw [count_reg _ _ _ _ _ ht]
       unfold State.addFld State.setArrBit
       rw [setFld_reg, if_neg (by omega), setBit_reg _ _ _ _ _ (by omega), setBit_reg _ _ _ _ _ (by omega)]; rfl)

theorem pendEdge_reg (s : State) (n a : Nat) (hn : n < 1024) (h : raiseReg a = false) :
    (s.pendEdge n).reg a = s.reg a := by
  unfold State.pendEdge
  dsimp only
  split
  · exact squall_reg s n a hn h
  · rw [traceIrq_reg _ _ _ _ _ _ (raiseReg_trace h)]; exact squall_reg s n a hn h

theorem wakeBy_reg (s : State) (e : WakeEvent) (a : Nat) (h : raiseReg a = false) : (s.wakeBy e).reg a = s.reg a := by
  simp only [raiseReg, Bool.or_eq_false_iff, beq_eq_false_iff_ne, ne_eq] at h
  unfold State.wakeBy
  split
  · exact (setReg_reg _ _ _ _).trans (if_neg (by omega))
  · split <;> rfl
  · rfl

theorem srcExists_lt {s : State} {n : Nat} (h : s.srcExists n = true) : n < 1024 := by
  unfold State.srcExists at h
  simp only [Bool.and_eq_true] at h
  have := h.1
  unfold sourceReal at this
  simp only [Bool.or_eq_true, Bool.and_eq_true, decide_eq_true_eq] at this
  omega

/-- An edge changes no register but those of `raiseReg`. -/
theorem raise_reg (s : State) (n a : Nat) (h : raiseReg a = false) : (s.raise n).reg a = s.reg a := by
  unfold State.raise
  split
  · rfl
  · next he =>
    have hn : n < 1024 := srcExists_lt (s := s) (by simpa using he)
    dsimp only
    split
    · split
      · rw [wakeBy_reg _ _ _ h]; rfl
      · rfl
    · split
      · split
        · rw [wakeBy_reg _ _ _ h, pendEdge_reg _ _ _ hn h]
        · exact pendEdge_reg _ _ _ hn h
      · rfl

theorem attn_reg (s : State) (n b a : Nat) (h : raiseReg a = false) (ha : chanPage n + 0xA8 ≠ a) :
    (s.attn n b).reg a = s.reg a := by
  unfold State.attn
  split
  · rfl
  · rw [raise_reg _ _ _ h, setBit_reg _ _ _ _ _ ha]

theorem traceIn_irq (s : State) (r : BitVec 128) : (s.traceIn r).irq = s.irq :=
  (traceIn_same (m := 0x8000000010) (Same.refl _ s) (by rfl) r).irq rfl

theorem traceIrq_irq (s : State) (u w : Nat) (f : Bool) (t : Nat) : (s.traceIrq u w f t).irq = s.irq := by
  unfold State.traceIrq State.traceRec
  split
  · exact traceIn_irq _ _
  · rfl

theorem count_irq (s : State) (g i k : Nat) : (s.count g i k).irq = s.irq := by
  unfold State.count
  dsimp only
  split
  · rfl
  · split
    · rfl
    · unfold State.traceAlways
      split
      · exact traceIn_irq _ _
      · rfl

theorem squall_pend (s : State) (n : Nat) : (s.squall n).irq.pend = s.irq.pend := by
  unfold State.squall
  dsimp only
  repeat' split
  all_goals first
    | rfl
    | (rw [count_irq]; rfl)

/-- An edge sets its pending bit and no other. -/
theorem pendEdge_pend (s : State) (n : Nat) : (s.pendEdge n).irq.pend = s.irq.pend ||| (1#1024 <<< n) ∨
    (bitOf s.irq.pend.toNat n = true ∧ (s.pendEdge n).irq.pend = s.irq.pend) := by
  unfold State.pendEdge
  dsimp only
  split
  · next h => rw [squall_pend] at h ⊢; exact .inr ⟨h, rfl⟩
  · rw [traceIrq_irq]; simp only [squall_pend]; exact .inl trivial

theorem pendEdge_isPending (s : State) (n j : Nat) (hn : n < 1024) :
    isPending (s.pendEdge n) j = (decide (n = j) || isPending s j) := by
  have key : ∀ w : BitVec 1024, bitOf (w ||| (1#1024 <<< n)).toNat j = (decide (n = j) || bitOf w.toNat j) := by
    intro w
    rw [bitOf_eq, bitOf_eq, BitVec.toNat_or, Nat.testBit_or, Bool.or_comm]
    congr 1
    rw [BitVec.toNat_shiftLeft, Nat.testBit_mod_two_pow]
    simp only [BitVec.toNat_ofNat, Nat.one_mod_two_pow_eq_one.2 (by omega : 0 < 1024)]
    rw [Nat.one_shiftLeft, Nat.testBit_two_pow]
    by_cases h : n = j
    · subst h; simp [hn]
    · simp [h]
  unfold isPending
  rcases pendEdge_pend s n with h | ⟨h0, h⟩
  · rw [h]; exact key _
  · rw [h]
    by_cases hj : n = j
    · subst hj; simp [h0]
    · simp [hj]

theorem wakeBy_pend (s : State) (e : WakeEvent) : (s.wakeBy e).irq.pend = s.irq.pend := by
  unfold State.wakeBy
  split
  · rfl
  · split <;> rfl
  · rfl

/-- An edge of a source that exists sets its pending bit, and no other, while the host island works. -/
theorem raise_isPending (s : State) (n j : Nat) (h : s.hostWorks = true) (he : s.srcExists n = true)
    (hr : s.ph.ready = true ∨ n < 768 ∨ 800 ≤ n) : isPending (s.raise n) j = (decide (n = j) || isPending s j) := by
  have hn := srcExists_lt he
  unfold State.raise
  rw [he, h]
  simp only [Bool.not_true, Bool.false_eq_true, if_false, Bool.true_and, if_true]
  rw [if_neg]
  · split
    · unfold isPending; rw [wakeBy_pend]; exact pendEdge_isPending s n j hn
    · exact pendEdge_isPending s n j hn
  · simp only [Bool.and_eq_true, decide_eq_true_eq, Bool.not_eq_true']
    rintro ⟨⟨h1, h2⟩, h3⟩
    rcases hr with hr | hr | hr
    · rw [hr] at h3; cases h3
    · omega
    · omega

end Sys2Proof.Machine
end

