-- ==== Sys2Proof/Laws/Codes.lean ====
section
/-! SUPPORT. The code of a staging word (R441): whatever columns it has, it corrects every single error and detects every
double one. -/

set_option Elab.async false

namespace Sys2Proof.Machine

theorem insertBy_perm {α : Type} (m : α → Nat) (x : α) (l : List α) : (insertBy m x l).Perm (x :: l) := by
  induction l with
  | nil => exact .refl _
  | cons y r ih =>
    unfold insertBy
    split
    · exact .refl _
    · exact (ih.cons y).trans (.swap x y r)

/-- Sorting keeps the elements. -/
theorem sortBy_perm {α : Type} (m : α → Nat) (l : List α) : (sortBy m l).Perm l := by
  have h : ∀ (l acc : List α), (l.foldl (fun acc x => insertBy m x acc) acc).Perm (l ++ acc) := by
    intro l
    induction l with
    | nil => exact fun acc => .refl acc
    | cons x r ih =>
      exact fun acc => (ih _).trans (((insertBy_perm m x acc).append_left r).trans List.perm_middle)
  simpa [sortBy] using h l []

theorem firstN_eq_take {α : Type} (n : Nat) (l : List α) : firstN n l = l.take n := by
  induction n generalizing l with
  | zero => simp [firstN]
  | succ n ih => cases l <;> simp [firstN, ih]

theorem oddColumns_nodup : oddColumns.Nodup := by
  have ge : ∀ n k i, i ∈ countUp k n → k ≤ i := by
    intro n
    induction n with
    | zero => intro k i h; simp [countUp] at h
    | succ n ih =>
      intro k i h
      rcases List.mem_cons.1 h with rfl | h
      · exact Nat.le_refl _
      · exact Nat.le_of_succ_le (ih _ _ h)
  have h : ∀ n k, (countUp k n).Nodup := by
    intro n
    induction n with
    | zero => intro k; exact List.nodup_nil
    | succ n ih => exact fun k => List.nodup_cons.2 ⟨fun h => Nat.lt_irrefl _ (ge _ _ _ h), ih _⟩
  exact (h 1024 0).filter _

theorem oddColumns_length : oddColumns.length = 502 := by decide +kernel

theorem oddColumns_all : oddColumns.all (fun x => decide (x < 1024) && weight10 x % 2 == 1 && weight10 x != 1) = true := by
  decide +kernel

theorem stagingColumns_length : stagingColumns.length = 256 := by
  rw [stagingColumns, firstN_eq_take, List.length_take, (sortBy_perm _ _).length_eq, oddColumns_length]; rfl

/-- The columns of two data bits differ. -/
theorem stagingColumns_nodup : stagingColumns.Nodup := by
  rw [stagingColumns, firstN_eq_take]
  exact ((sortBy_perm _ _).nodup_iff.2 oddColumns_nodup).sublist (List.take_sublist _ _)

/-- A column has odd weight, and is that of no check bit. -/
theorem stagingColumns_odd {x : Nat} (h : x ∈ stagingColumns) : x < 1024 ∧ weight10 x % 2 = 1 ∧ weight10 x ≠ 1 := by
  rw [stagingColumns, firstN_eq_take] at h
  have a := List.all_eq_true.1 oddColumns_all x ((sortBy_perm _ _).mem_iff.1 (List.mem_of_mem_take h))
  simpa [and_assoc] using a

/-- The parity of the weight of a sum. -/
theorem weight10_xor (x y : Nat) : weight10 (x ^^^ y) % 2 = (weight10 x + weight10 y) % 2 := by
  have b : ∀ n i, bitOf n i = n.testBit i := fun n i => by
    rw [Nat.testBit_eq_decide_div_mod_eq, bitOf]; exact Bool.beq_eq_decide_eq ..
  have h : ∀ l : List Nat, (l.filter (bitOf (x ^^^ y))).length % 2 =
      ((l.filter (bitOf x)).length + (l.filter (bitOf y)).length) % 2 := by
    intro l
    induction l with
    | nil => rfl
    | cons i l ih =>
      simp only [List.filter_cons, b, Nat.testBit_xor] at ih ⊢
      cases x.testBit i <;> cases y.testBit i <;> simp <;> omega
  exact h _

theorem weight10_two_pow : ∀ j, j < 10 → weight10 (2 ^ j) = 1 := by decide +kernel

/-- What a data bit adds to the check bits. -/
theorem fold_flip (d : BitVec 256) (i : Nat) (hi : i < 256) (l : List Nat) : ∀ (k : Nat) (c : BitVec 10),
    (l.zipIdx k).foldl (fun c p => if (d ^^^ (1#256 <<< i)).getLsbD p.2 then c ^^^ BitVec.ofNat 10 p.1 else c) c =
      (l.zipIdx k).foldl (fun c p => if d.getLsbD p.2 then c ^^^ BitVec.ofNat 10 p.1 else c) c ^^^
        (if k ≤ i then BitVec.ofNat 10 (l.getD (i - k) 0) else 0) := by
  have acc : ∀ (l : List (Nat × Nat)) (c e : BitVec 10),
      l.foldl (fun c p => if d.getLsbD p.2 then c ^^^ BitVec.ofNat 10 p.1 else c) (c ^^^ e) =
        l.foldl (fun c p => if d.getLsbD p.2 then c ^^^ BitVec.ofNat 10 p.1 else c) c ^^^ e := by
    intro l
    induction l with
    | nil => exact fun _ _ => rfl
    | cons p l ih =>
      intro c e
      simp only [List.foldl_cons]
      split
      · rw [show c ^^^ e ^^^ BitVec.ofNat 10 p.1 = c ^^^ BitVec.ofNat 10 p.1 ^^^ e by
          rw [BitVec.xor_assoc, BitVec.xor_comm e, ← BitVec.xor_assoc]]
        exact ih _ _
      · exact ih _ _
  induction l with
  | nil => intro k c; simp
  | cons x l ih =>
    intro k c
    have f : (d ^^^ (1#256 <<< i)).getLsbD k = (d.getLsbD k ^^ decide (k = i)) := by
      rw [BitVec.getLsbD_xor, BitVec.getLsbD_shiftLeft]
      by_cases e : k = i
      · subst e; simp [hi]
      · by_cases g : k < i
        · simp [g, e]
        · have : ¬ (k - i = 0) := by omega
          simp [g, e, this]
    simp only [List.zipIdx_cons, List.foldl_cons, f, ih]
    by_cases e : k = i
    · subst e
      have n : ¬ (k + 1 ≤ k) := by omega
      cases d.getLsbD k
      · simp [n, acc]
      · simp only [n, decide_true, Bool.xor_true, Bool.not_true, Bool.false_eq_true, if_false, if_true, acc,
          Nat.le_refl, Nat.sub_self, List.getD_cons_zero, BitVec.xor_assoc, BitVec.xor_self]
        simp
    · by_cases g : k + 1 ≤ i
      · have : i - k = i - (k + 1) + 1 := by omega
        have g' : k ≤ i := by omega
        simp [e, g, g', this]
      · have g' : ¬ k ≤ i := by omega
        simp [e, g, g']

/-- The column of data bit `i`. -/
theorem stagingCheck_flip (d : BitVec 256) {i : Nat} (hi : i < 256) :
    stagingCheck (d ^^^ (1#256 <<< i)) = stagingCheck d ^^^ BitVec.ofNat 10 (stagingColumns.getD i 0) := by
  rw [stagingCheck, fold_flip d i hi]; rfl

theorem column_mem {i : Nat} (hi : i < 256) : stagingColumns.getD i 0 ∈ stagingColumns := by
  rw [List.getD_eq_getElem _ _ (by rw [stagingColumns_length]; exact hi)]
  exact List.getElem_mem _

theorem column_toNat {i : Nat} (hi : i < 256) :
    (BitVec.ofNat 10 (stagingColumns.getD i 0)).toNat = stagingColumns.getD i 0 := by
  rw [BitVec.toNat_ofNat]; exact Nat.mod_eq_of_lt (stagingColumns_odd (column_mem hi)).1

/-- A sound word reads as it was written. -/
theorem word_clean (d : BitVec 256) : wordDecode d (stagingCheck d) = (d, .clean) := by
  simp [wordDecode]

/-- A wrong data bit is corrected. -/
theorem word_data_error (d : BitVec 256) {i : Nat} (hi : i < 256) :
    wordDecode (d ^^^ (1#256 <<< i)) (stagingCheck d) = (d, .corrected i) := by
  have e : (stagingCheck (d ^^^ (1#256 <<< i)) ^^^ stagingCheck d).toNat = stagingColumns.getD i 0 := by
    rw [stagingCheck_flip d hi, BitVec.xor_comm, ← BitVec.xor_assoc, BitVec.xor_self, BitVec.zero_xor, column_toNat hi]
  have l : i < stagingColumns.length := by rw [stagingColumns_length]; exact hi
  have z : stagingColumns.getD i 0 ≠ 0 := fun h => by
    have := (stagingColumns_odd (column_mem hi)).2.1
    rw [h] at this; exact absurd this (by decide)
  have f : stagingColumns.findIdx? (fun x => x == stagingColumns.getD i 0) = some i := by
    rw [List.findIdx?_eq_some_iff_getElem]
    refine ⟨l, by rw [List.getD_eq_getElem _ _ l]; simp, fun j hj => ?_⟩
    rw [List.getD_eq_getElem _ _ l]
    simp only [beq_iff_eq]
    exact fun h => Nat.ne_of_lt hj ((List.Nodup.getElem_inj_iff stagingColumns_nodup).1 h)
  unfold wordDecode
  simp only [e, if_neg z, f]
  rw [BitVec.xor_assoc, BitVec.xor_self, BitVec.xor_zero]

theorem two_pow_check {j : Nat} (hj : j < 10) : (1#10 <<< j).toNat = 2 ^ j := by
  revert j; decide +kernel

theorem not_column {e : Nat} (h : weight10 e % 2 = 0 ∨ weight10 e = 1) :
    stagingColumns.findIdx? (fun x => x == e) = none := by
  rw [List.findIdx?_eq_none_iff]
  intro x hx
  have a := stagingColumns_odd hx
  by_cases g : x = e
  · subst g; omega
  · simpa using g

/-- A wrong check bit is corrected. -/
theorem word_check_error (d : BitVec 256) {j : Nat} (hj : j < 10) :
    wordDecode d (stagingCheck d ^^^ (1#10 <<< j)) = (d, .corrected (256 + j)) := by
  have e : (stagingCheck d ^^^ (stagingCheck d ^^^ (1#10 <<< j))).toNat = 2 ^ j := by
    rw [← BitVec.xor_assoc, BitVec.xor_self, BitVec.zero_xor, two_pow_check hj]
  have z : (2 : Nat) ^ j ≠ 0 := Nat.pos_iff_ne_zero.1 (Nat.pow_pos (by decide))
  have f : (countUp 0 10).find? (fun i => 2 ^ j == 2 ^ i) = some j := by
    clear e z; revert j; decide +kernel
  unfold wordDecode
  simp only [e, if_neg z, not_column (.inr (weight10_two_pow j hj)), f]

/-- A word whose error has an even weight and is not 0 is uncorrectable. -/
theorem word_even_error (d : BitVec 256) (c : BitVec 10) (h : weight10 (stagingCheck d ^^^ c).toNat % 2 = 0)
    (z : (stagingCheck d ^^^ c).toNat ≠ 0) : wordDecode d c = (d, .bad) := by
  have f : (countUp 0 10).find? (fun i => (stagingCheck d ^^^ c).toNat == 2 ^ i) = none := by
    refine List.find?_eq_none.2 fun i hi g => ?_
    have b : i < 10 := by
      have : (countUp 0 10).all (fun i => decide (i < 10)) = true := by decide
      exact of_decide_eq_true (List.all_eq_true.1 this i hi)
    rw [eq_of_beq g, weight10_two_pow i b] at h
    exact absurd h (by decide)
  unfold wordDecode
  simp only [if_neg z, not_column (.inl h), f]

/-- Two wrong data bits are detected. -/
theorem word_two_data (d : BitVec 256) {i j : Nat} (hi : i < 256) (hj : j < 256) (h : i ≠ j) :
    (wordDecode (d ^^^ (1#256 <<< i) ^^^ (1#256 <<< j)) (stagingCheck d)).2 = .bad := by
  have e : (stagingCheck (d ^^^ (1#256 <<< i) ^^^ (1#256 <<< j)) ^^^ stagingCheck d).toNat =
      stagingColumns.getD i 0 ^^^ stagingColumns.getD j 0 := by
    rw [stagingCheck_flip _ hj, stagingCheck_flip _ hi, BitVec.xor_comm, ← BitVec.xor_assoc, ← BitVec.xor_assoc,
      BitVec.xor_self, BitVec.zero_xor, BitVec.toNat_xor, column_toNat hi, column_toNat hj]
  rw [word_even_error _ _ (by
    rw [e, weight10_xor]
    have a := (stagingColumns_odd (column_mem hi)).2.1
    have b := (stagingColumns_odd (column_mem hj)).2.1
    omega) (by
    rw [e]
    intro z
    have li : i < stagingColumns.length := by rw [stagingColumns_length]; exact hi
    have lj : j < stagingColumns.length := by rw [stagingColumns_length]; exact hj
    rw [Nat.xor_eq_zero_iff, List.getD_eq_getElem _ _ li, List.getD_eq_getElem _ _ lj] at z
    exact h ((List.Nodup.getElem_inj_iff stagingColumns_nodup).1 z))]

/-- A wrong data bit and a wrong check bit are detected. -/
theorem word_data_and_check (d : BitVec 256) {i j : Nat} (hi : i < 256) (hj : j < 10) :
    (wordDecode (d ^^^ (1#256 <<< i)) (stagingCheck d ^^^ (1#10 <<< j))).2 = .bad := by
  have e : (stagingCheck (d ^^^ (1#256 <<< i)) ^^^ (stagingCheck d ^^^ (1#10 <<< j))).toNat =
      stagingColumns.getD i 0 ^^^ 2 ^ j := by
    rw [stagingCheck_flip _ hi, BitVec.xor_comm, ← BitVec.xor_assoc, BitVec.xor_comm (stagingCheck d ^^^ _),
      ← BitVec.xor_assoc, BitVec.xor_self, BitVec.zero_xor, BitVec.xor_comm, BitVec.toNat_xor, column_toNat hi,
      two_pow_check hj]
  have a := (stagingColumns_odd (column_mem hi)).2
  rw [word_even_error _ _ (by
    rw [e, weight10_xor, weight10_two_pow j hj]
    omega) (by
    rw [e]
    intro z
    rw [Nat.xor_eq_zero_iff] at z
    rw [z, weight10_two_pow j hj] at a
    exact a.2 rfl)]

/-- Two wrong check bits are detected. -/
theorem word_two_checks (d : BitVec 256) {i j : Nat} (hi : i < 10) (hj : j < 10) (h : i ≠ j) :
    (wordDecode d (stagingCheck d ^^^ (1#10 <<< i) ^^^ (1#10 <<< j))).2 = .bad := by
  have e : (stagingCheck d ^^^ (stagingCheck d ^^^ (1#10 <<< i) ^^^ (1#10 <<< j))).toNat = 2 ^ i ^^^ 2 ^ j := by
    rw [← BitVec.xor_assoc, ← BitVec.xor_assoc, BitVec.xor_self, BitVec.zero_xor, BitVec.toNat_xor, two_pow_check hi,
      two_pow_check hj]
  rw [word_even_error _ _ (by rw [e, weight10_xor, weight10_two_pow i hi, weight10_two_pow j hj]) (by
    rw [e]
    intro z
    rw [Nat.xor_eq_zero_iff] at z
    exact h (Nat.pow_right_injective (Nat.le_refl 2) z))]

end Sys2Proof.Machine
end

