-- ==== Sys2Proof/Laws/Frames/Memory.lean ====
section
/-! SUPPORT. Which fields the operations of `Machine/Memory.lean` may change. -/

namespace Sys2Proof.Machine
open Sys2Proof

theorem logError_same {m : Nat} {z t : State} (hk : Same m z t) (h : 0x38080000010 ||| m = m) (c : Nat) (addr : Nat) (ue : Bool) (bist : Bool) (bit : Nat) :
    Same m z (State.logError t c addr ue bist bit) := by
  unfold State.logError
  dsimp only
  repeat' with_reducible first
    | exact hk | assumption | apply Same.ite | apply addFld_same (h := up h rfl) | apply setBit_same (h := up h rfl)
    | apply setReg_same (h := up h rfl) | apply raise_same (h := up h rfl) | split | (apply Same.snd; assumption)

theorem noteCorrected_same {m : Nat} {z t : State} (hk : Same m z t) (h : 0x39080000010 ||| m = m) (c : Nat) (addr : Nat) (bit : Nat) :
    Same m z (State.noteCorrected t c addr bit) := by
  unfold State.noteCorrected
  dsimp only
  repeat' with_reducible first
    | exact hk | assumption | exact mayDiffer h rfl | exact fun _ => rfl | apply Same.ite
    | apply addFld_same (h := up h rfl) | apply logError_same (h := up h rfl) | apply Same.lit

theorem noteBad_same {m : Nat} {z t : State} (hk : Same m z t) (h : 0x38080000010 ||| m = m) (c : Nat) (addr : Nat) :
    Same m z (State.noteBad t c addr) := by
  unfold State.noteBad
  repeat' with_reducible first
    | exact hk | assumption | apply Same.ite | apply addFld_same (h := up h rfl) | apply logError_same (h := up h rfl)
    | apply raise_same (h := up h rfl)

theorem dropWriteBack_same {m : Nat} {z t : State} (hk : Same m z t) (h : 0x1000000000 ||| m = m) (c : Nat) (addr : Nat) (n : Nat) :
    Same m z (State.dropWriteBack t c addr n) := by
  unfold State.dropWriteBack
  repeat' with_reducible first
    | exact hk | assumption | exact mayDiffer h rfl | exact fun _ => rfl | apply Same.lit

theorem useGroup_same {m : Nat} {z t : State} (hk : Same m z t) (h : 0x39080000010 ||| m = m) (c : Nat) (addr : Nat) :
    Same m z (State.useGroup t c addr).2 := by
  unfold State.useGroup
  repeat' with_reducible first
    | exact hk | assumption | intro _ | apply Same.foldl | apply Same.foldl2
    | apply noteCorrected_same (h := up h rfl) | apply noteBad_same (h := up h rfl) | split
    | (apply Same.snd; assumption)

theorem useEntry_same {m : Nat} {z t : State} (hk : Same m z t) (h : 0x39080000010 ||| m = m) (c : Nat) (addr : Nat) (n : Nat) :
    Same m z (State.useEntry t c addr n).2 := by
  unfold State.useEntry
  dsimp only
  repeat' with_reducible first
    | exact hk | assumption | intro _ | apply Same.foldl | apply Same.foldl2 | apply useGroup_same (h := up h rfl)

theorem freshEntry_same {m : Nat} {z t : State} (hk : Same m z t) (h : 0x1800000000 ||| m = m) (c : Nat) (addr : Nat) (n : Nat) :
    Same m z (State.freshEntry t c addr n) := by
  unfold State.freshEntry
  repeat' with_reducible first
    | exact hk | assumption | exact mayDiffer h rfl | exact fun _ => rfl | intro _ | apply Same.foldl
    | apply dropWriteBack_same (h := up h rfl) | apply Same.lit

theorem shiftEntries_same {m : Nat} {z t : State} (hk : Same m z t) (h : 0x1800000000 ||| m = m) (c : Nat) (store : Nat) :
    Same m z (State.shiftEntries t c store) := by
  unfold State.shiftEntries
  dsimp only
  repeat' with_reducible first
    | exact hk | assumption | exact mayDiffer h rfl | exact fun _ => rfl | apply Same.ite | apply Same.ite2
    | apply dropWriteBack_same (h := up h rfl) | apply Same.lit

theorem popCarry_same {m : Nat} {z t : State} (hk : Same m z t) (h : 0x1808000000 ||| m = m) :
    Same m z (State.popCarry t) := by
  unfold State.popCarry
  repeat' with_reducible first
    | exact hk | assumption | exact mayDiffer h rfl | exact fun _ => rfl | apply Same.ite
    | apply shiftEntries_same (h := up h rfl) | apply Same.lit

theorem popAdvisory_same {m : Nat} {z t : State} (hk : Same m z t) (h : 0x1802000000 ||| m = m) :
    Same m z (State.popAdvisory t) := by
  unfold State.popAdvisory
  repeat' with_reducible first
    | exact hk | assumption | exact mayDiffer h rfl | exact fun _ => rfl | apply Same.ite
    | apply shiftEntries_same (h := up h rfl) | apply Same.lit

theorem store_same {m : Nat} {z t : State} (hk : Same m z t) (h : 0x1000030000 ||| m = m) (f : Nat) (w : Nat) (x : FWord) :
    Same m z (State.store t f w x) := by
  unfold State.store
  repeat' with_reducible first
    | exact hk | assumption | apply dropWriteBack_same (h := up h rfl) | apply setSpare_same (h := up h rfl)
    | apply setFword_same (h := up h rfl) | split | (apply Same.snd; assumption)

theorem readWord_same {m : Nat} {z t : State} (hk : Same m z t) (h : 0x39080030010 ||| m = m) (f : Nat) (w : Nat) :
    Same m z (State.readWord t f w).2 := by
  unfold State.readWord
  dsimp only
  repeat' with_reducible first
    | exact hk | assumption | apply noteCorrected_same (h := up h rfl) | apply noteBad_same (h := up h rfl)
    | apply store_same (h := up h rfl) | split | (apply Same.snd; assumption)

theorem writeWord_same {m : Nat} {z t : State} (hk : Same m z t) (h : 0x1000030000 ||| m = m) (f : Nat) (w : Nat) (d : BitVec 256) (poison : Bool) :
    Same m z (State.writeWord t f w d poison) := by
  unfold State.writeWord
  repeat' with_reducible first
    | exact hk | assumption | apply store_same (h := up h rfl)

theorem frameRead_same {m : Nat} {z t : State} (hk : Same m z t) (h : 0x39080030010 ||| m = m) (f : Nat) (off : Nat) (len : Nat) :
    Same m z (State.frameRead t f off len).2 := by
  unfold State.frameRead
  dsimp only
  repeat' with_reducible first
    | exact hk | assumption | intro _ | apply Same.ite | apply Same.ite2 | apply Same.foldl | apply Same.foldl2
    | apply readWord_same (h := up h rfl)

theorem narrowWrite_same {m : Nat} {z t : State} (hk : Same m z t) (h : 0x39080030010 ||| m = m) (f : Nat) (w : Nat) (at0 : Nat) (l : List Byte) (poison : Bool) :
    Same m z (State.narrowWrite t f w at0 l poison) := by
  unfold State.narrowWrite
  dsimp only
  repeat' with_reducible first
    | exact hk | assumption | apply readWord_same (h := up h rfl) | apply writeWord_same (h := up h rfl)

theorem frameWriteFrom_same {m : Nat} {z t : State} (hk : Same m z t) (h : 0x39080030010 ||| m = m) (fuel : Nat) (f : Nat) (off : Nat) (l : List Byte) (marks : List Bool) :
    Same m z (State.frameWriteFrom t fuel f off l marks) := by
  induction fuel generalizing t f off l marks with
  | zero => unfold State.frameWriteFrom; first | exact hk | exact SameO.none
  | succ k ih =>
    unfold State.frameWriteFrom
    try dsimp only
    repeat' with_reducible first
      | exact hk | assumption | apply Same.ite | apply writeWord_same (h := up h rfl)
      | apply narrowWrite_same (h := up h rfl) | apply ih | split | (apply Same.snd; assumption)

theorem frameWrite_same {m : Nat} {z t : State} (hk : Same m z t) (h : 0x39080030010 ||| m = m) (f : Nat) (off : Nat) (l : List Byte) (poison : Bool) :
    Same m z (State.frameWrite t f off l poison) := by
  unfold State.frameWrite
  repeat' with_reducible first
    | exact hk | assumption | apply frameWriteFrom_same (h := up h rfl)

theorem frameWriteMarked_same {m : Nat} {z t : State} (hk : Same m z t) (h : 0x39080030010 ||| m = m) (f : Nat) (off : Nat) (l : List Byte) (marks : List Bool) :
    Same m z (State.frameWriteMarked t f off l marks) := by
  unfold State.frameWriteMarked
  repeat' with_reducible first
    | exact hk | assumption | apply frameWriteFrom_same (h := up h rfl)

theorem clearStaging_same {m : Nat} {z t : State} (hk : Same m z t) (h : 0x30000 ||| m = m) (n : Nat) :
    Same m z (State.clearStaging t n) := by
  unfold State.clearStaging
  repeat' with_reducible first
    | exact hk | assumption | exact mayDiffer h rfl | exact fun _ => rfl | apply Same.lit

theorem memReqError_same {m : Nat} {z t : State} (hk : Same m z t) (h : 0x10 ||| m = m) :
    Same m z (State.memReqError t) := by
  unfold State.memReqError
  repeat' with_reducible first
    | exact hk | assumption | apply setBit_same (h := up h rfl)

theorem stagingStart_same {m : Nat} {z t : State} (hk : Same m z t) (h : 0x10 ||| m = m) (base : Nat) (n : Nat) :
    Same m z (State.stagingStart t base n) := by
  unfold State.stagingStart
  repeat' with_reducible first
    | exact hk | assumption | apply Same.ite | apply setArrBit_same (h := up h rfl)
    | apply memReqError_same (h := up h rfl)

theorem logBist_same {m : Nat} {z t : State} (hk : Same m z t) (h : 0x38080000010 ||| m = m) (addr : Nat) :
    Same m z (State.logBist t addr) := by
  unfold State.logBist
  repeat' with_reducible first
    | exact hk | assumption | apply logError_same (h := up h rfl)

theorem bistEnd_same {m : Nat} {z t : State} (hk : Same m z t) (h : 0x38080030010 ||| m = m) (n : Nat) (failing : List Nat) (bad : List Nat) :
    Same m z (State.bistEnd t n failing bad) := by
  unfold State.bistEnd
  dsimp only
  repeat' with_reducible first
    | exact hk | assumption | intro _ | apply Same.ite | apply Same.ite2 | apply Same.foldl | apply Same.foldl2
    | apply setReg_same (h := up h rfl) | apply logBist_same (h := up h rfl) | apply clearStaging_same (h := up h rfl)
    | apply setArrBit_same (h := up h rfl) | apply raise_same (h := up h rfl)

theorem stagingAbandon_same {m : Nat} {z t : State} (hk : Same m z t) (h : 0x10 ||| m = m) (n : Nat) :
    Same m z (State.stagingAbandon t n) := by
  unfold State.stagingAbandon
  repeat' with_reducible first
    | exact hk | assumption | apply Same.ite | apply setArrBit_same (h := up h rfl)

theorem setGroupData_same {m : Nat} {z t : State} (hk : Same m z t) (h : 0x38000880010 ||| m = m) (c : Nat) (addr : Nat) (d : Word) :
    Same m z (State.setGroupData t c addr d) := by
  unfold State.setGroupData
  dsimp only
  repeat' with_reducible first
    | exact hk | assumption | apply Same.ite | apply setReg_same (h := up h rfl)
    | apply modLedgerEntry_same (h := up h rfl) | apply count_same (h := up h rfl)
    | apply modObtEntry_same (h := up h rfl) | split | (apply Same.snd; assumption)

theorem rawReadGroup_same {m : Nat} {z t : State} (hk : Same m z t) (h : 0x400000000010 ||| m = m) (c : Nat) (addr : Nat) :
    Same m z (State.rawReadGroup t c addr) := by
  unfold State.rawReadGroup
  dsimp only
  repeat' with_reducible first
    | exact hk | assumption | apply setReg_same (h := up h rfl) | apply nextFresh_same (h := up h rfl) | split
    | (apply Same.snd; assumption)

theorem rawWriteGroup_same {m : Nat} {z t : State} (hk : Same m z t) (h : 0x39800880010 ||| m = m) (c : Nat) (addr : Nat) (d : Word) (k : BitVec 20) :
    Same m z (State.rawWriteGroup t c addr d k) := by
  unfold State.rawWriteGroup
  dsimp only
  repeat' with_reducible first
    | exact hk | assumption | exact mayDiffer h rfl | exact fun _ => rfl | apply Same.ite
    | apply dropWriteBack_same (h := up h rfl) | apply setGroupData_same (h := up h rfl) | apply Same.lit

theorem rawReadWord_same {m : Nat} {z t : State} (hk : Same m z t) (h : 0x10 ||| m = m) (addr : Nat) :
    Same m z (State.rawReadWord t addr) := by
  unfold State.rawReadWord
  dsimp only
  repeat' with_reducible first
    | exact hk | assumption | intro _ | apply Same.foldl | apply Same.foldl2 | apply setReg_same (h := up h rfl)
    | split | (apply Same.snd; assumption)

theorem rawWriteWord_same {m : Nat} {z t : State} (hk : Same m z t) (h : 0x1000030000 ||| m = m) (addr : Nat) :
    Same m z (State.rawWriteWord t addr) := by
  unfold State.rawWriteWord
  dsimp only
  repeat' with_reducible first
    | exact hk | assumption | intro _ | apply Same.ite | apply Same.foldl | apply dropWriteBack_same (h := up h rfl)
    | apply setFword_same (h := up h rfl) | apply setSpare_same (h := up h rfl)

theorem rawRead_same {m : Nat} {z t : State} (hk : Same m z t) (h : 0x400000000010 ||| m = m) :
    Same m z (State.rawRead t) := by
  unfold State.rawRead
  dsimp only
  repeat' with_reducible first
    | exact hk | assumption | apply Same.ite | apply memReqError_same (h := up h rfl)
    | apply rawReadWord_same (h := up h rfl) | apply rawReadGroup_same (h := up h rfl)

theorem rawWrite_same {m : Nat} {z t : State} (hk : Same m z t) (h : 0x398008b0010 ||| m = m) :
    Same m z (State.rawWrite t) := by
  unfold State.rawWrite
  dsimp only
  repeat' with_reducible first
    | exact hk | assumption | apply Same.ite | apply memReqError_same (h := up h rfl)
    | apply rawWriteWord_same (h := up h rfl) | apply rawWriteGroup_same (h := up h rfl)

theorem writeBack_same {m : Nat} {z t : State} (hk : Same m z t) (h : 0x1800030000 ||| m = m) (c : Nat) (addr : Nat) :
    Same m z (State.writeBack t c addr) := by
  unfold State.writeBack
  dsimp only
  repeat' with_reducible first
    | exact hk | assumption | exact mayDiffer h rfl | exact fun _ => rfl | apply Same.ite | apply Same.ite2
    | apply setFword_same (h := up h rfl) | apply setSpare_same (h := up h rfl) | split | (apply Same.snd; assumption)
    | apply Same.lit

theorem clearLog_same {m : Nat} {z t : State} (hk : Same m z t) (h : 0x10 ||| m = m) (c : Nat) :
    Same m z (State.clearLog t c) := by
  unfold State.clearLog
  dsimp only
  repeat' with_reducible first
    | exact hk | assumption | intro _ | apply Same.ite | apply Same.foldl | apply memReqError_same (h := up h rfl)
    | apply setReg_same (h := up h rfl) | apply setFld_same (h := up h rfl)

theorem execLogClear_same {m : Nat} {z t : State} (hk : Same m z t) (h : 0x80000050 ||| m = m) (cls : Nat) :
    SameX m z (execLogClear cls t) := by
  unfold execLogClear
  repeat' with_reducible first
    | exact hk | assumption | apply Same.ite | apply holdRequest_same (h := up h rfl)
    | apply clearLog_same (h := up h rfl) | apply SameX.next | split

theorem execMemStgInit_same {m : Nat} {z t : State} (hk : Same m z t) (h : 0x80000050 ||| m = m) (ch : Nat) :
    SameX m z (execMemStgInit ch t) := by
  unfold execMemStgInit
  repeat' with_reducible first
    | exact hk | assumption | apply Same.ite | apply holdRequest_same (h := up h rfl)
    | apply stagingStart_same (h := up h rfl) | apply SameX.next | split

theorem execMemBist_same {m : Nat} {z t : State} (hk : Same m z t) (h : 0x80000050 ||| m = m) (ch : Nat) :
    SameX m z (execMemBist ch t) := by
  unfold execMemBist
  repeat' with_reducible first
    | exact hk | assumption | apply Same.ite | apply holdRequest_same (h := up h rfl)
    | apply stagingStart_same (h := up h rfl) | apply SameX.next | split

theorem execRawRead_same {m : Nat} {z t : State} (hk : Same m z t) (h : 0x400080000050 ||| m = m) :
    SameX m z (execRawRead t) := by
  unfold execRawRead
  repeat' with_reducible first
    | exact hk | assumption | apply Same.ite | apply holdRequest_same (h := up h rfl)
    | apply rawRead_same (h := up h rfl) | apply SameX.next | split

end Sys2Proof.Machine
end

