-- ==== Sys2Proof/Laws/Frames/Staging.lean ====
section
/-! SUPPORT. Which fields the operations of `Machine/Staging.lean` may change. -/

namespace Sys2Proof.Machine
open Sys2Proof

theorem takeFrame_same {m : Nat} {z t : State} (hk : Same m z t) (h : 0x8000 ||| m = m) (f : Nat) (owner : Option Nat) :
    Same m z (State.takeFrame t f owner) := by
  unfold State.takeFrame
  repeat' with_reducible first
    | exact hk | assumption | apply modFrame_same (h := up h rfl)

theorem giveRebuild_same {m : Nat} {z t : State} (hk : Same m z t) (h : 0x8400 ||| m = m) (t' : Nat) (f : Nat) :
    Same m z (State.giveRebuild t t' f) := by
  unfold State.giveRebuild
  repeat' with_reducible first
    | exact hk | assumption | apply takeFrame_same (h := up h rfl) | apply modTag_same (h := up h rfl)

theorem grantFramesN_same {m : Nat} {z t : State} (hk : Same m z t) (h : 0x9400 ||| m = m) (fuel : Nat) (n : Nat) :
    Same m z (State.grantFramesN t fuel n) := by
  induction fuel generalizing t n with
  | zero => unfold State.grantFramesN; first | exact hk | exact SameO.none
  | succ k ih =>
    unfold State.grantFramesN
    try dsimp only
    repeat' with_reducible first
      | exact hk | assumption | apply Same.ite | apply giveRebuild_same (h := up h rfl)
      | apply takeFrame_same (h := up h rfl) | apply modWork_same (h := up h rfl) | apply modTag_same (h := up h rfl)
      | apply ih | split | (apply Same.snd; assumption)

theorem grantFrames_same {m : Nat} {z t : State} (hk : Same m z t) (h : 0x9400 ||| m = m) (n : Nat) :
    Same m z (State.grantFrames t n) := by
  unfold State.grantFrames
  repeat' with_reducible first
    | exact hk | assumption | apply grantFramesN_same (h := up h rfl)

theorem freeNow_same {m : Nat} {z t : State} (hk : Same m z t) (h : 0x38080009410 ||| m = m) (f : Nat) :
    Same m z (State.freeNow t f) := by
  unfold State.freeNow
  dsimp only
  repeat' with_reducible first
    | exact hk | assumption | apply Same.ite | apply modFrame_same (h := up h rfl) | apply raise_same (h := up h rfl)
    | apply grantFrames_same (h := up h rfl)

theorem freeFrame_same {m : Nat} {z t : State} (hk : Same m z t) (h : 0x38080009410 ||| m = m) (f : Nat) :
    Same m z (State.freeFrame t f) := by
  unfold State.freeFrame
  repeat' with_reducible first
    | exact hk | assumption | apply Same.ite | apply modFrame_same (h := up h rfl)
    | apply freeNow_same (h := up h rfl)

theorem forwardEnded_same {m : Nat} {z t : State} (hk : Same m z t) (h : 0x38080009410 ||| m = m) (f : Nat) :
    Same m z (State.forwardEnded t f) := by
  unfold State.forwardEnded
  repeat' with_reducible first
    | exact hk | assumption | apply Same.ite | apply freeNow_same (h := up h rfl)

theorem holdFrame_same {m : Nat} {z t : State} (hk : Same m z t) (h : 0x8000 ||| m = m) (f : Nat) :
    Same m z (State.holdFrame t f) := by
  unfold State.holdFrame
  repeat' with_reducible first
    | exact hk | assumption | apply modFrame_same (h := up h rfl)

theorem bindFrame_same {m : Nat} {z t : State} (hk : Same m z t) (h : 0x8000 ||| m = m) (f : Nat) (a : Addr) (stamp : Nat) :
    Same m z (State.bindFrame t f a stamp) := by
  unfold State.bindFrame
  dsimp only
  repeat' with_reducible first
    | exact hk | assumption | apply modFrame_same (h := up h rfl)

theorem unbind_same {m : Nat} {z t : State} (hk : Same m z t) (h : 0x8000 ||| m = m) (f : Nat) :
    Same m z (State.unbind t f) := by
  unfold State.unbind
  repeat' with_reducible first
    | exact hk | assumption | apply modFrame_same (h := up h rfl)

theorem framePoolWrite_same {m : Nat} {z t : State} (hk : Same m z t) (h : 0x9410 ||| m = m) (n : Nat) (v : Word) :
    Same m z (State.framePoolWrite t n v) := by
  unfold State.framePoolWrite
  dsimp only
  repeat' with_reducible first
    | exact hk | assumption | intro _ | apply Same.ite | apply Same.foldl | apply setFld_same (h := up h rfl)
    | apply modFrame_same (h := up h rfl) | apply grantFrames_same (h := up h rfl)

theorem retireFrame_same {m : Nat} {z t : State} (hk : Same m z t) (h : 0x8010 ||| m = m) (f : Nat) :
    Same m z (State.retireFrame t f) := by
  unfold State.retireFrame
  repeat' with_reducible first
    | exact hk | assumption | apply Same.ite | apply modFrame_same (h := up h rfl)
    | apply memReqError_same (h := up h rfl) | split | (apply Same.snd; assumption)

theorem execFramePoolWrite_same {m : Nat} {z t : State} (hk : Same m z t) (h : 0x80009450 ||| m = m) (ch : Nat) (val : Word) :
    SameX m z (execFramePoolWrite ch val t) := by
  unfold execFramePoolWrite
  repeat' with_reducible first
    | exact hk | assumption | apply Same.ite | apply holdRequest_same (h := up h rfl)
    | apply framePoolWrite_same (h := up h rfl) | apply SameX.next | split

theorem execFrameRetire_same {m : Nat} {z t : State} (hk : Same m z t) (h : 0x80008050 ||| m = m) (frame : Nat) :
    SameX m z (execFrameRetire frame t) := by
  unfold execFrameRetire
  repeat' with_reducible first
    | exact hk | assumption | apply Same.ite | apply holdRequest_same (h := up h rfl)
    | apply setFld_same (h := up h rfl) | apply retireFrame_same (h := up h rfl) | apply SameX.next | split

theorem execMsgPop_same {m : Nat} {z t : State} (hk : Same m z t) (h : 0x80004050 ||| m = m) (ch : Nat) :
    SameX m z (execMsgPop ch t) := by
  unfold execMsgPop
  repeat' with_reducible first
    | exact hk | assumption | apply Same.ite | apply holdRequest_same (h := up h rfl)
    | apply modChan_same (h := up h rfl) | apply SameX.next | split

theorem execMsgDrop_same {m : Nat} {z t : State} (hk : Same m z t) (h : 0x80004050 ||| m = m) (ch : Nat) :
    SameX m z (execMsgDrop ch t) := by
  unfold execMsgDrop
  repeat' with_reducible first
    | exact hk | assumption | apply Same.ite | apply holdRequest_same (h := up h rfl)
    | apply modChan_same (h := up h rfl) | apply SameX.next | split

end Sys2Proof.Machine
end

