-- ==== Sys2Proof/Laws/Frames/HostPort.lean ====
section
/-! SUPPORT. Which fields the operations of `Machine/HostPort.lean` may change. -/

namespace Sys2Proof.Machine
open Sys2Proof

theorem setCfg_same {m : Nat} {z t : State} (hk : Same m z t) (h : 0x20 ||| m = m) (off : Nat) (w : Word) :
    Same m z (State.setCfg t off w) := by
  unfold State.setCfg
  repeat' with_reducible first
    | exact hk | assumption | exact mayDiffer h rfl | exact fun _ => rfl | apply Same.lit

theorem orCfg_same {m : Nat} {z t : State} (hk : Same m z t) (h : 0x20 ||| m = m) (off : Nat) (w : Word) :
    Same m z (State.orCfg t off w) := by
  unfold State.orCfg
  repeat' with_reducible first
    | exact hk | assumption | apply setCfg_same (h := up h rfl)

theorem send_same {m : Nat} {z t : State} (hk : Same m z t) (h : 0x40 ||| m = m) (t' : Tlp) :
    Same m z (State.send t t') := by
  unfold State.send
  repeat' with_reducible first
    | exact hk | assumption | exact mayDiffer h rfl | exact fun _ => rfl | apply Same.ite | apply Same.lit

theorem sendPosted_same {m : Nat} {z t : State} (hk : Same m z t) (h : 0x60 ||| m = m) (pair : Nat) (addr : Addr) (data : List Byte) (poison : Bool) :
    Same m z (State.sendPosted t pair addr data poison) := by
  unfold State.sendPosted
  dsimp only
  repeat' with_reducible first
    | exact hk | assumption | apply Same.ite | apply orCfg_same (h := up h rfl) | apply send_same (h := up h rfl)

theorem sendWrite_same {m : Nat} {z t : State} (hk : Same m z t) (h : 0x60 ||| m = m) (pair : Nat) (addr : Addr) (data : List Byte) (marks : List Bool) :
    Same m z (State.sendWrite t pair addr data marks) := by
  unfold State.sendWrite
  dsimp only
  repeat' with_reducible first
    | exact hk | assumption | intro _ | apply Same.foldl | apply Same.foldl2 | apply sendPosted_same (h := up h rfl)

theorem sendRead_same {m : Nat} {z t : State} (hk : Same m z t) (h : 0x40 ||| m = m) (requester : BitVec 16) (tag : Nat) (addr : Nat) (data : List Byte) (marks : List Bool) :
    Same m z (State.sendRead t requester tag addr data marks) := by
  unfold State.sendRead
  dsimp only
  repeat' with_reducible first
    | exact hk | assumption | intro _ | apply Same.foldl | apply Same.foldl2 | apply send_same (h := up h rfl) | split
    | (apply Same.snd; assumption)

theorem issueRead_same {m : Nat} {z t : State} (hk : Same m z t) (h : 0x40 ||| m = m) (pair : Nat) (user : ReqUser) (addr : Addr) (len : Nat) :
    Same m z (State.issueRead t pair user addr len) := by
  unfold State.issueRead
  dsimp only
  repeat' with_reducible first
    | exact hk | assumption | exact mayDiffer h rfl | exact fun _ => rfl | apply send_same (h := up h rfl) | split
    | (apply Same.snd; assumption) | apply Same.lit

theorem errMsg_same {m : Nat} {z t : State} (hk : Same m z t) (h : 0x60 ||| m = m) (ur : Bool) (m' : ErrMsg) :
    Same m z (State.errMsg t ur m') := by
  unfold State.errMsg
  dsimp only
  repeat' with_reducible first
    | exact hk | assumption | apply Same.ite | apply send_same (h := up h rfl) | apply orCfg_same (h := up h rfl)
    | split | (apply Same.snd; assumption)

theorem aerCor_same {m : Nat} {z t : State} (hk : Same m z t) (h : 0x60 ||| m = m) (b : Nat) :
    Same m z (State.aerCor t b) := by
  unfold State.aerCor
  dsimp only
  repeat' with_reducible first
    | exact hk | assumption | apply Same.ite | apply orCfg_same (h := up h rfl) | apply errMsg_same (h := up h rfl)

theorem logHeader_same {m : Nat} {z t : State} (hk : Same m z t) (h : 0x400000000020 ||| m = m) :
    Same m z (State.logHeader t) := by
  unfold State.logHeader
  dsimp only
  repeat' with_reducible first
    | exact hk | assumption | intro _ | apply Same.foldl | apply Same.foldl2 | apply nextFresh_same (h := up h rfl)
    | apply setCfg_same (h := up h rfl)

theorem aerUncor_same {m : Nat} {z t : State} (hk : Same m z t) (h : 0x400000000060 ||| m = m) (b : Nat) (advisory : Bool) (header : Bool) :
    Same m z (State.aerUncor t b advisory header) := by
  unfold State.aerUncor
  dsimp only
  repeat' with_reducible first
    | exact hk | assumption | apply Same.ite | apply orCfg_same (h := up h rfl) | apply setCfg_same (h := up h rfl)
    | apply logHeader_same (h := up h rfl) | apply errMsg_same (h := up h rfl)

theorem violate_same {m : Nat} {z t : State} (hk : Same m z t) (h : 0x10 ||| m = m) (kind : Nat) (bar : Nat) (off : Nat) (len : Nat) (write : Bool) (mgmt : Bool) (requester : BitVec 16) :
    Same m z (State.violate t kind bar off len write mgmt requester) := by
  unfold State.violate
  dsimp only
  repeat' with_reducible first
    | exact hk | assumption | apply Same.ite | apply setReg_same (h := up h rfl) | apply addFld_same (h := up h rfl)
    | apply setFld_same (h := up h rfl)

theorem sendMsix_same {m : Nat} {z t : State} (hk : Same m z t) (h : 0x40 ||| m = m) (pair : Nat) (v : Nat) :
    Same m z (State.sendMsix t pair v) := by
  unfold State.sendMsix
  dsimp only
  repeat' with_reducible first
    | exact hk | assumption | apply send_same (h := up h rfl)

theorem carry1_same {m : Nat} {z t : State} (hk : Same m z t) (h : 0x40 ||| m = m) (v : Nat) (pair : Nat) :
    Same m z (State.carry1 t v pair) := by
  unfold State.carry1
  repeat' with_reducible first
    | exact hk | assumption | exact mayDiffer h rfl | exact fun _ => rfl | apply Same.lit

theorem msixNow_same {m : Nat} {z t : State} (hk : Same m z t) (h : 0x40 ||| m = m) (v : Nat) (pair : Nat) :
    Same m z (State.msixNow t v pair) := by
  unfold State.msixNow
  repeat' with_reducible first
    | exact hk | assumption | exact mayDiffer h rfl | exact fun _ => rfl | apply Same.ite
    | apply sendMsix_same (h := up h rfl) | apply Same.lit

theorem msixDue_same {m : Nat} {z t : State} (hk : Same m z t) (h : 0x40 ||| m = m) (v : Nat) :
    Same m z (State.msixDue t v) := by
  unfold State.msixDue
  dsimp only
  repeat' with_reducible first
    | exact hk | assumption | exact mayDiffer h rfl | exact fun _ => rfl | intro _ | apply Same.ite | apply Same.foldl
    | apply msixNow_same (h := up h rfl) | apply issueRead_same (h := up h rfl) | apply Same.lit

theorem flushEnded_same {m : Nat} {z t : State} (hk : Same m z t) (h : 0x40 ||| m = m) (v : Nat) :
    Same m z (State.flushEnded t v) := by
  unfold State.flushEnded
  dsimp only
  repeat' with_reducible first
    | exact hk | assumption | exact mayDiffer h rfl | exact fun _ => rfl | apply Same.ite
    | apply carry1_same (h := up h rfl) | apply msixNow_same (h := up h rfl) | split | (apply Same.snd; assumption)
    | apply Same.lit

theorem askMsix_same {m : Nat} {z t : State} (hk : Same m z t) (h : 0x40 ||| m = m) (v : Nat) :
    Same m z (State.askMsix t v) := by
  unfold State.askMsix
  repeat' with_reducible first
    | exact hk | assumption | exact mayDiffer h rfl | exact fun _ => rfl | apply Same.ite | apply Same.lit

theorem msixFree_same {m : Nat} {z t : State} (hk : Same m z t) (h : 0x40 ||| m = m) (v : Nat) :
    Same m z (State.msixFree t v) := by
  unfold State.msixFree
  dsimp only
  repeat' with_reducible first
    | exact hk | assumption | exact mayDiffer h rfl | exact fun _ => rfl | apply Same.ite
    | apply askMsix_same (h := up h rfl) | apply sendMsix_same (h := up h rfl) | apply Same.lit

theorem msixRelease_same {m : Nat} {z t : State} (hk : Same m z t) (h : 0x40 ||| m = m) :
    Same m z (State.msixRelease t) := by
  unfold State.msixRelease
  repeat' with_reducible first
    | exact hk | assumption | intro _ | apply Same.ite | apply Same.foldl | apply msixFree_same (h := up h rfl)

end Sys2Proof.Machine
end

