-- ==== Sys2Proof/Laws/Frames/Levels.lean ====
section
/-! SUPPORT. Which fields the operations of `Machine/Levels.lean` may change. -/

namespace Sys2Proof.Machine
open Sys2Proof

theorem deltas_same {m : Nat} {z t : State} (hk : Same m z t) (h : 0x39080000010 ||| m = m) (x : Nat) (k : Nat) :
    Same m z (State.deltas t x k).2 := by
  unfold State.deltas
  dsimp only
  repeat' with_reducible first
    | exact hk | assumption | apply Same.ite | apply Same.ite2 | apply useEntry_same (h := up h rfl)

theorem rltSweep_same {m : Nat} {z t : State} (hk : Same m z t) (h : 0x39880400010 ||| m = m) (set : Nat) :
    Same m z (State.rltSweep t set) := by
  unfold State.rltSweep
  dsimp only
  repeat' with_reducible first
    | exact hk | assumption | intro _ | apply Same.ite | apply Same.ite2 | apply Same.foldl | apply Same.foldl2
    | apply useEntry_same (h := up h rfl) | apply setRltEntry_same (h := up h rfl)
    | apply freshEntry_same (h := up h rfl)

theorem lookupBase_same {m : Nat} {z t : State} (hk : Same m z t) (h : 0x39880400010 ||| m = m) (a : Addr) (pt : Nat) :
    Same m z (State.lookupBase t a pt).2 := by
  unfold State.lookupBase
  dsimp only
  repeat' with_reducible first
    | exact hk | assumption | apply Same.ite | apply Same.ite2 | apply rltSweep_same (h := up h rfl)
    | apply count_same (h := up h rfl) | exact SameP.none | apply SameP.some | apply SameP.map | split
    | (apply Same.snd; assumption) | (apply SameP.get; assumption)

theorem attemptOffsets_same {m : Nat} {z t : State} (hk : Same m z t) (h : 0x39080000010 ||| m = m) (x : Nat) (base : List (BitVec 8)) (cold : Bool) (c : Nat) (n : Nat) (k : Nat) :
    Same m z (State.attemptOffsets t x base cold c n k).2 := by
  unfold State.attemptOffsets
  dsimp only
  repeat' with_reducible first
    | exact hk | assumption | apply Same.ite | apply Same.ite2 | apply deltas_same (h := up h rfl)

theorem writeLevels_same {m : Nat} {z t : State} (hk : Same m z t) (h : 0x39880400810 ||| m = m) (a : Addr) (pt : Nat) (offs : List (BitVec 8)) (train : Bool) :
    Same m z (State.writeLevels t a pt offs train) := by
  unfold State.writeLevels
  dsimp only
  repeat' with_reducible first
    | exact hk | assumption | exact mayDiffer h rfl | exact fun _ => rfl | apply Same.ite
    | apply rltSweep_same (h := up h rfl) | apply count_same (h := up h rfl) | apply modRltEntry_same (h := up h rfl)
    | apply setRltEntry_same (h := up h rfl) | apply raise_same (h := up h rfl) | split | (apply Same.snd; assumption)
    | apply Same.lit

theorem markWeak_same {m : Nat} {z t : State} (hk : Same m z t) (h : 0x39880400010 ||| m = m) (a : Addr) (pt : Nat) :
    Same m z (State.markWeak t a pt) := by
  unfold State.markWeak
  dsimp only
  repeat' with_reducible first
    | exact hk | assumption | apply rltSweep_same (h := up h rfl) | apply modRltEntry_same (h := up h rfl) | split
    | (apply Same.snd; assumption)

theorem setRltView_same {m : Nat} {z t : State} (hk : Same m z t) (h : 0x10 ||| m = m) (e : RltEntry) :
    Same m z (State.setRltView t e) := by
  unfold State.setRltView
  dsimp only
  repeat' with_reducible first
    | exact hk | assumption | intro _ | apply Same.foldl | apply setReg_same (h := up h rfl)

theorem rltResult_same {m : Nat} {z t : State} (hk : Same m z t) (h : 0x10 ||| m = m) (r : Nat) :
    Same m z (State.rltResult t r) := by
  unfold State.rltResult
  repeat' with_reducible first
    | exact hk | assumption | apply setFld_same (h := up h rfl)

theorem rltIndex_same {m : Nat} {z t : State} (hk : Same m z t) (h : 0x10 ||| m = m) (i : Nat) :
    Same m z (State.rltIndex t i) := by
  unfold State.rltIndex
  repeat' with_reducible first
    | exact hk | assumption | apply setFld_same (h := up h rfl)

theorem rltStore_same {m : Nat} {z t : State} (hk : Same m z t) (h : 0x1800400000 ||| m = m) (i : Nat) :
    Same m z (State.rltStore t i) := by
  unfold State.rltStore
  repeat' with_reducible first
    | exact hk | assumption | apply setRltEntry_same (h := up h rfl) | apply freshEntry_same (h := up h rfl)

theorem rltOpRead_same {m : Nat} {z t : State} (hk : Same m z t) (h : 0x39880400010 ||| m = m) (i : Nat) :
    Same m z (State.rltOpRead t i) := by
  unfold State.rltOpRead
  dsimp only
  repeat' with_reducible first
    | exact hk | assumption | apply rltSweep_same (h := up h rfl) | apply setRltView_same (h := up h rfl)
    | apply rltIndex_same (h := up h rfl) | apply rltResult_same (h := up h rfl)

theorem rltOpWrite_same {m : Nat} {z t : State} (hk : Same m z t) (h : 0x1800400010 ||| m = m) (i : Nat) :
    Same m z (State.rltOpWrite t i) := by
  unfold State.rltOpWrite
  dsimp only
  repeat' with_reducible first
    | exact hk | assumption | apply Same.ite | apply rltIndex_same (h := up h rfl)
    | apply rltResult_same (h := up h rfl) | apply rltStore_same (h := up h rfl) | split
    | (apply Same.snd; assumption)

theorem rltOpLookup_same {m : Nat} {z t : State} (hk : Same m z t) (h : 0x39880400010 ||| m = m) :
    Same m z (State.rltOpLookup t) := by
  unfold State.rltOpLookup
  dsimp only
  repeat' with_reducible first
    | exact hk | assumption | apply rltSweep_same (h := up h rfl) | apply rltIndex_same (h := up h rfl)
    | apply setRltView_same (h := up h rfl) | apply rltResult_same (h := up h rfl) | split
    | (apply Same.snd; assumption)

theorem rltOpInsert_same {m : Nat} {z t : State} (hk : Same m z t) (h : 0x39880400010 ||| m = m) :
    Same m z (State.rltOpInsert t) := by
  unfold State.rltOpInsert
  dsimp only
  repeat' with_reducible first
    | exact hk | assumption | apply rltSweep_same (h := up h rfl) | apply rltStore_same (h := up h rfl)
    | apply rltIndex_same (h := up h rfl) | apply rltResult_same (h := up h rfl) | split
    | (apply Same.snd; assumption)

theorem rltDrop_same {m : Nat} {z t : State} (hk : Same m z t) (h : 0x400000 ||| m = m) (p : RltEntry → Bool) :
    Same m z (State.rltDrop t p) := by
  unfold State.rltDrop
  repeat' with_reducible first
    | exact hk | assumption | exact mayDiffer h rfl | exact fun _ => rfl | apply Same.lit

theorem rltCfg_same {m : Nat} {z t : State} (hk : Same m z t) (h : 0x400010 ||| m = m) (v : Word) :
    Same m z (State.rltCfg t v) := by
  unfold State.rltCfg
  dsimp only
  repeat' with_reducible first
    | exact hk | assumption | exact mayDiffer h rfl | exact fun _ => rfl | apply Same.ite
    | apply setReg_same (h := up h rfl) | apply Same.lit

theorem advise_same {m : Nat} {z t : State} (hk : Same m z t) (h : 0x39882800010 ||| m = m) (k : Nat) :
    Same m z (State.advise t k) := by
  unfold State.advise
  dsimp only
  repeat' with_reducible first
    | exact hk | assumption | exact mayDiffer h rfl | exact fun _ => rfl | apply Same.ite
    | apply count_same (h := up h rfl) | apply setLedgerEntry_same (h := up h rfl)
    | apply freshEntry_same (h := up h rfl) | apply raise_same (h := up h rfl) | apply addFld_same (h := up h rfl)
    | apply Same.lit

theorem ledgerSweep_same {m : Nat} {z t : State} (hk : Same m z t) (h : 0x39882800010 ||| m = m) (n : Nat) :
    Same m z (State.ledgerSweep t n) := by
  unfold State.ledgerSweep
  dsimp only
  repeat' with_reducible first
    | exact hk | assumption | intro _ | apply Same.ite | apply Same.ite2 | apply Same.foldl | apply Same.foldl2
    | apply useGroup_same (h := up h rfl) | apply freshEntry_same (h := up h rfl)
    | apply setLedgerEntry_same (h := up h rfl) | apply modLedgerEntry_same (h := up h rfl)
    | apply count_same (h := up h rfl) | apply advise_same (h := up h rfl)

theorem ledgerRead_same {m : Nat} {z t : State} (hk : Same m z t) (h : 0x39882800010 ||| m = m) (a : Addr) :
    Same m z (State.ledgerRead t a) := by
  unfold State.ledgerRead
  dsimp only
  repeat' with_reducible first
    | exact hk | assumption | apply ledgerSweep_same (h := up h rfl) | apply count_same (h := up h rfl)
    | apply modLedgerEntry_same (h := up h rfl) | apply advise_same (h := up h rfl)
    | apply setLedgerEntry_same (h := up h rfl) | split | (apply Same.snd; assumption)

theorem ledgerErase_same {m : Nat} {z t : State} (hk : Same m z t) (h : 0x800000 ||| m = m) (a : Addr) :
    Same m z (State.ledgerErase t a) := by
  unfold State.ledgerErase
  repeat' with_reducible first
    | exact hk | assumption | apply setLedgerEntry_same (h := up h rfl) | split | (apply Same.snd; assumption)

theorem obtMeet_same {m : Nat} {z t : State} (hk : Same m z t) (h : 0x39880000010 ||| m = m) (lun : Nat) :
    Same m z (State.obtMeet t lun) := by
  unfold State.obtMeet
  dsimp only
  repeat' with_reducible first
    | exact hk | assumption | exact mayDiffer h rfl | exact fun _ => rfl | intro _ | apply Same.foldl
    | apply Same.foldl2 | apply useGroup_same (h := up h rfl) | apply Same.lit

theorem obtAdvanceAt_same {m : Nat} {z t : State} (hk : Same m z t) (h : 0x138080080010 ||| m = m) (a : Addr) (keep : List Nat) (stamp : Nat) :
    Same m z (State.obtAdvanceAt t a keep stamp) := by
  unfold State.obtAdvanceAt
  dsimp only
  repeat' with_reducible first
    | exact hk | assumption | exact mayDiffer h rfl | exact fun _ => rfl | apply Same.ite
    | apply setObtEntry_same (h := up h rfl) | apply attn_same (h := up h rfl) | split | (apply Same.snd; assumption)
    | apply Same.lit

theorem obtAdvance_same {m : Nat} {z t : State} (hk : Same m z t) (h : 0x138080080010 ||| m = m) (a : Addr) :
    Same m z (State.obtAdvance t a) := by
  unfold State.obtAdvance
  repeat' with_reducible first
    | exact hk | assumption | apply tick_same (h := up h rfl) | apply obtAdvanceAt_same (h := up h rfl)

theorem obtFree_same {m : Nat} {z t : State} (hk : Same m z t) (h : 0x80000 ||| m = m) (a : Addr) :
    Same m z (State.obtFree t a) := by
  unfold State.obtFree
  repeat' with_reducible first
    | exact hk | assumption | apply setObtEntry_same (h := up h rfl) | split | (apply Same.snd; assumption)

theorem logOrder_same {m : Nat} {z t : State} (hk : Same m z t) (h : 0x38080000010 ||| m = m) (a : Addr) (q : Nat) (cid : BitVec 16) (pointer : Nat) :
    Same m z (State.logOrder t a q cid pointer) := by
  unfold State.logOrder
  dsimp only
  repeat' with_reducible first
    | exact hk | assumption | apply setReg_same (h := up h rfl) | apply addFld_same (h := up h rfl)
    | apply setFld_same (h := up h rfl) | apply attn_same (h := up h rfl)

theorem obtLoWrite_same {m : Nat} {z t : State} (hk : Same m z t) (h : 0x100000 ||| m = m) (k : Nat) (v : Word) :
    Same m z (State.obtLoWrite t k v) := by
  unfold State.obtLoWrite
  repeat' with_reducible first
    | exact hk | assumption | exact mayDiffer h rfl | exact fun _ => rfl | apply Same.ite | apply Same.lit

theorem obtHiWrite_same {m : Nat} {z t : State} (hk : Same m z t) (h : 0x101800180000 ||| m = m) (k : Nat) (v : Word) :
    Same m z (State.obtHiWrite t k v) := by
  unfold State.obtHiWrite
  dsimp only
  repeat' with_reducible first
    | exact hk | assumption | exact mayDiffer h rfl | exact fun _ => rfl | apply Same.ite | apply Same.ite2
    | apply tick_same (h := up h rfl) | apply setObtEntry_same (h := up h rfl) | apply freshEntry_same (h := up h rfl)
    | apply Same.lit

theorem ledgerHiWrite_same {m : Nat} {z t : State} (hk : Same m z t) (h : 0x1801800000 ||| m = m) (k : Nat) (v : Word) :
    Same m z (State.ledgerHiWrite t k v) := by
  unfold State.ledgerHiWrite
  dsimp only
  repeat' with_reducible first
    | exact hk | assumption | exact mayDiffer h rfl | exact fun _ => rfl | apply setLedgerEntry_same (h := up h rfl)
    | apply freshEntry_same (h := up h rfl) | apply Same.lit

theorem execRltRead_same {m : Nat} {z t : State} (hk : Same m z t) (h : 0x39880400050 ||| m = m) (index : Nat) :
    SameX m z (execRltRead index t) := by
  unfold execRltRead
  repeat' with_reducible first
    | exact hk | assumption | apply Same.ite | apply holdRequest_same (h := up h rfl)
    | apply rltOpRead_same (h := up h rfl) | apply SameX.next | split

theorem execRltWrite_same {m : Nat} {z t : State} (hk : Same m z t) (h : 0x1880400050 ||| m = m) (index : Nat) :
    SameX m z (execRltWrite index t) := by
  unfold execRltWrite
  repeat' with_reducible first
    | exact hk | assumption | apply Same.ite | apply holdRequest_same (h := up h rfl)
    | apply rltOpWrite_same (h := up h rfl) | apply SameX.next | split

theorem execRltLookup_same {m : Nat} {z t : State} (hk : Same m z t) (h : 0x39880400050 ||| m = m) :
    SameX m z (execRltLookup t) := by
  unfold execRltLookup
  repeat' with_reducible first
    | exact hk | assumption | apply Same.ite | apply holdRequest_same (h := up h rfl)
    | apply rltOpLookup_same (h := up h rfl) | apply SameX.next | split

theorem execRltInsert_same {m : Nat} {z t : State} (hk : Same m z t) (h : 0x39880400050 ||| m = m) :
    SameX m z (execRltInsert t) := by
  unfold execRltInsert
  repeat' with_reducible first
    | exact hk | assumption | apply Same.ite | apply holdRequest_same (h := up h rfl)
    | apply rltOpInsert_same (h := up h rfl) | apply SameX.next | split

theorem execRltClearUnpinned_same {m : Nat} {z t : State} (hk : Same m z t) (h : 0x80400050 ||| m = m) :
    SameX m z (execRltClearUnpinned t) := by
  unfold execRltClearUnpinned
  repeat' with_reducible first
    | exact hk | assumption | apply Same.ite | apply holdRequest_same (h := up h rfl)
    | apply rltDrop_same (h := up h rfl) | apply rltResult_same (h := up h rfl) | apply SameX.next | split

theorem execRltClearAll_same {m : Nat} {z t : State} (hk : Same m z t) (h : 0x80400050 ||| m = m) :
    SameX m z (execRltClearAll t) := by
  unfold execRltClearAll
  repeat' with_reducible first
    | exact hk | assumption | exact mayDiffer h rfl | exact fun _ => rfl | apply Same.ite
    | apply holdRequest_same (h := up h rfl) | apply rltResult_same (h := up h rfl) | apply SameX.next | split
    | apply Same.lit

theorem execRltCfgWrite_same {m : Nat} {z t : State} (hk : Same m z t) (h : 0x80400050 ||| m = m) (val : Word) :
    SameX m z (execRltCfgWrite val t) := by
  unfold execRltCfgWrite
  repeat' with_reducible first
    | exact hk | assumption | apply Same.ite | apply holdRequest_same (h := up h rfl)
    | apply rltCfg_same (h := up h rfl) | apply SameX.next | split

theorem execLedgerHiWrite_same {m : Nat} {z t : State} (hk : Same m z t) (h : 0x1881800050 ||| m = m) (k : Nat) (val : Word) :
    SameX m z (execLedgerHiWrite k val t) := by
  unfold execLedgerHiWrite
  repeat' with_reducible first
    | exact hk | assumption | apply Same.ite | apply holdRequest_same (h := up h rfl)
    | apply ledgerHiWrite_same (h := up h rfl) | apply SameX.next | split

theorem execAdvPop_same {m : Nat} {z t : State} (hk : Same m z t) (h : 0x1882000050 ||| m = m) :
    SameX m z (execAdvPop t) := by
  unfold execAdvPop
  repeat' with_reducible first
    | exact hk | assumption | apply Same.ite | apply holdRequest_same (h := up h rfl)
    | apply popAdvisory_same (h := up h rfl) | apply SameX.next | split

theorem execObtHiWrite_same {m : Nat} {z t : State} (hk : Same m z t) (h : 0x101880180050 ||| m = m) (k : Nat) (val : Word) :
    SameX m z (execObtHiWrite k val t) := by
  unfold execObtHiWrite
  repeat' with_reducible first
    | exact hk | assumption | apply Same.ite | apply holdRequest_same (h := up h rfl)
    | apply obtHiWrite_same (h := up h rfl) | apply SameX.next | split

end Sys2Proof.Machine
end

