-- ==== Sys2Proof/Laws/Frames/Governor.lean ====
section
/-! SUPPORT. Which fields the operations of `Machine/Governor.lean` may change. -/

namespace Sys2Proof.Machine
open Sys2Proof

theorem unwait_same {m : Nat} {z t : State} (hk : Same m z t) (h : 0x200000000 ||| m = m) (r : PeReq) :
    Same m z (State.unwait t r) := by
  unfold State.unwait
  dsimp only
  repeat' with_reducible first
    | exact hk | assumption | exact mayDiffer h rfl | exact fun _ => rfl | apply Same.lit

theorem withdraw_same {m : Nat} {z t : State} (hk : Same m z t) (h : 0x200000000 ||| m = m) (id : Nat) :
    Same m z (State.withdraw t id) := by
  unfold State.withdraw
  repeat' with_reducible first
    | exact hk | assumption | intro _ | apply Same.foldl | apply unwait_same (h := up h rfl)

theorem releaseGrants_same {m : Nat} {z t : State} (hk : Same m z t) (h : 0x200000000 ||| m = m) (p : PeGrant → Bool) :
    Same m z (State.releaseGrants t p) := by
  unfold State.releaseGrants
  repeat' with_reducible first
    | exact hk | assumption | exact mayDiffer h rfl | exact fun _ => rfl | apply Same.lit

theorem releaseOp_same {m : Nat} {z t : State} (hk : Same m z t) (h : 0x200000000 ||| m = m) (key : Nat) (works : List Nat) :
    Same m z (State.releaseOp t key works) := by
  unfold State.releaseOp
  repeat' with_reducible first
    | exact hk | assumption | apply releaseGrants_same (h := up h rfl)

theorem grantsAtDie_same {m : Nat} {z t : State} (hk : Same m z t) (h : 0x200000000 ||| m = m) (key : Nat) (works : List Nat) :
    Same m z (State.grantsAtDie t key works) := by
  unfold State.grantsAtDie
  repeat' with_reducible first
    | exact hk | assumption | exact mayDiffer h rfl | exact fun _ => rfl | apply Same.ite | apply Same.lit

theorem releaseUnused_same {m : Nat} {z t : State} (hk : Same m z t) (h : 0x200000000 ||| m = m) (id : Nat) :
    Same m z (State.releaseUnused t id) := by
  unfold State.releaseUnused
  repeat' with_reducible first
    | exact hk | assumption | apply releaseGrants_same (h := up h rfl)

theorem joinGrants_same {m : Nat} {z t : State} (hk : Same m z t) (h : 0x200000000 ||| m = m) (id : Nat) (go : List Nat) (further : Nat) :
    Same m z (State.joinGrants t id go further) := by
  unfold State.joinGrants
  dsimp only
  repeat' with_reducible first
    | exact hk | assumption | exact mayDiffer h rfl | exact fun _ => rfl | intro _ | apply Same.ite | apply Same.foldl
    | apply releaseUnused_same (h := up h rfl) | apply Same.lit

theorem askAdmission_same {m : Nat} {z t : State} (hk : Same m z t) (h : 0x138200000010 ||| m = m) (id : Nat) (planes : Nat) (release : Bool) :
    Same m z (State.askAdmission t id planes release) := by
  unfold State.askAdmission
  dsimp only
  repeat' with_reducible first
    | exact hk | assumption | exact mayDiffer h rfl | exact fun _ => rfl | apply Same.ite | apply Same.ite2
    | apply tick_same (h := up h rfl) | apply count_same (h := up h rfl) | split | (apply Same.snd; assumption)
    | apply Same.lit

theorem grant_same {m : Nat} {z t : State} (hk : Same m z t) (h : 0x138200003010 ||| m = m) (r : PeReq) :
    Same m z (State.grant t r) := by
  unfold State.grant
  dsimp only
  repeat' with_reducible first
    | exact hk | assumption | exact mayDiffer h rfl | exact fun _ => rfl | apply Same.ite | apply Same.ite2
    | apply unwait_same (h := up h rfl) | apply tick_same (h := up h rfl) | apply modWork_same (h := up h rfl)
    | apply modLun_same (h := up h rfl) | apply count_same (h := up h rfl) | split | (apply Same.snd; assumption)
    | apply Same.lit

theorem stepBudget_same {m : Nat} {z t : State} (hk : Same m z t) (h : 0x200000000 ||| m = m) :
    Same m z (State.stepBudget t) := by
  unfold State.stepBudget
  dsimp only
  repeat' with_reducible first
    | exact hk | assumption | exact mayDiffer h rfl | exact fun _ => rfl | apply Same.ite | apply Same.lit

theorem capTakeParked_same {m : Nat} {z t : State} (hk : Same m z t) (h : 0x138200003010 ||| m = m) (c : CapPick) :
    Same m z (State.capTakeParked t c) := by
  unfold State.capTakeParked
  dsimp only
  repeat' with_reducible first
    | exact hk | assumption | intro _ | apply Same.foldl | apply withdraw_same (h := up h rfl)
    | apply releaseUnused_same (h := up h rfl) | apply modWork_same (h := up h rfl)
    | apply modLun_same (h := up h rfl) | apply askAdmission_same (h := up h rfl) | split
    | (apply Same.snd; assumption)

theorem capOrder_same {m : Nat} {z t : State} (hk : Same m z t) (h : 0x38280002010 ||| m = m) (key : Nat) :
    Same m z (State.capOrder t key) := by
  unfold State.capOrder
  dsimp only
  repeat' with_reducible first
    | exact hk | assumption | exact mayDiffer h rfl | exact fun _ => rfl | apply Same.ite
    | apply modLun_same (h := up h rfl) | apply raise_same (h := up h rfl) | apply count_same (h := up h rfl)
    | apply Same.lit

theorem capOrderN_same {m : Nat} {z t : State} (hk : Same m z t) (h : 0x138280003010 ||| m = m) (fuel : Nat) (excess : Nat) :
    Same m z (State.capOrderN t fuel excess) := by
  induction fuel generalizing t excess with
  | zero => unfold State.capOrderN; first | exact hk | exact SameO.none
  | succ k ih =>
    unfold State.capOrderN
    try dsimp only
    repeat' with_reducible first
      | exact hk | assumption | apply Same.ite | apply capTakeParked_same (h := up h rfl)
      | apply capOrder_same (h := up h rfl) | apply ih | split | (apply Same.snd; assumption)

theorem capCancel_same {m : Nat} {z t : State} (hk : Same m z t) (h : 0x2000 ||| m = m) :
    Same m z (State.capCancel t) := by
  unfold State.capCancel
  repeat' with_reducible first
    | exact hk | assumption | intro _ | apply Same.ite | apply Same.foldl | apply modLun_same (h := up h rfl) | split
    | (apply Same.snd; assumption)

theorem capPass_same {m : Nat} {z t : State} (hk : Same m z t) (h : 0x138280003010 ||| m = m) :
    Same m z (State.capPass t) := by
  unfold State.capPass
  dsimp only
  repeat' with_reducible first
    | exact hk | assumption | exact mayDiffer h rfl | exact fun _ => rfl | apply Same.ite | apply Same.ite2
    | apply capCancel_same (h := up h rfl) | apply capOrderN_same (h := up h rfl) | split
    | (apply Same.snd; assumption) | apply Same.lit

theorem fallback_same {m : Nat} {z t : State} (hk : Same m z t) (h : 0x138280003010 ||| m = m) (cause : Nat) :
    Same m z (State.fallback t cause) := by
  unfold State.fallback
  dsimp only
  repeat' with_reducible first
    | exact hk | assumption | exact mayDiffer h rfl | exact fun _ => rfl | apply raise_same (h := up h rfl)
    | apply count_same (h := up h rfl) | apply capPass_same (h := up h rfl) | apply Same.lit

theorem tracePe_same {m : Nat} {z t : State} (hk : Same m z t) (h : 0x8000000010 ||| m = m) :
    Same m z (State.tracePe t) := by
  unfold State.tracePe
  repeat' with_reducible first
    | exact hk | assumption | apply traceRec_same (h := up h rfl)

theorem peStep_same {m : Nat} {z t : State} (hk : Same m z t) (h : 0x138280003010 ||| m = m) :
    Same m z (State.peStep t) := by
  unfold State.peStep
  dsimp only
  repeat' with_reducible first
    | exact hk | assumption | exact mayDiffer h rfl | exact fun _ => rfl | apply stepBudget_same (h := up h rfl)
    | apply capPass_same (h := up h rfl) | apply tracePe_same (h := up h rfl) | apply Same.lit

theorem peEdge_same {m : Nat} {z t : State} (hk : Same m z t) (h : 0x138280003010 ||| m = m) (p : Nat) (sense : Nat) :
    Same m z (State.peEdge t p sense) := by
  unfold State.peEdge
  extract_lets g diff tol inTol off clampedP first frozen mismatch s1 s2 fn mm s3
  have h1 : Same m z s1 := by
    repeat' with_reducible first
      | exact hk | exact mayDiffer h rfl | exact fun _ => rfl | apply Same.lit
  have h2 : Same m z s2 := Same.ite h1 (raise_same h1 (up h rfl) 802)
  have h3 : Same m z s3 :=
    Same.ite (Same.ite (fallback_same h2 (up h rfl) 2) (Same.ite (fallback_same h2 (up h rfl) 3) h2)) h2
  exact peStep_same h3 (up h rfl)

theorem peResume_same {m : Nat} {z t : State} (hk : Same m z t) (h : 0x138280003010 ||| m = m) (recent : Bool) :
    Same m z (State.peResume t recent) := by
  unfold State.peResume
  dsimp only
  repeat' with_reducible first
    | exact hk | assumption | exact mayDiffer h rfl | exact fun _ => rfl | apply Same.ite
    | apply fallback_same (h := up h rfl) | apply raise_same (h := up h rfl) | apply setBit_same (h := up h rfl)
    | split | (apply Same.snd; assumption) | apply Same.lit

theorem execPeResume_same {m : Nat} {z t : State} (hk : Same m z t) (h : 0x138280003050 ||| m = m) (recent : Bool) :
    SameX m z (execPeResume recent t) := by
  unfold execPeResume
  repeat' with_reducible first
    | exact hk | assumption | apply Same.ite | apply holdRequest_same (h := up h rfl)
    | apply peResume_same (h := up h rfl) | apply SameX.next | split

theorem execPeWeightWrite_same {m : Nat} {z t : State} (hk : Same m z t) (h : 0x80000050 ||| m = m) (cls : Nat) (val : Word) :
    SameX m z (execPeWeightWrite cls val t) := by
  unfold execPeWeightWrite
  repeat' with_reducible first
    | exact hk | assumption | apply Same.ite | apply holdRequest_same (h := up h rfl)
    | apply setReg_same (h := up h rfl) | apply SameX.next | split

end Sys2Proof.Machine
end

