-- ==== Sys2Proof/Laws/Frames/Askor.lean ====
section
/-! SUPPORT. Which fields the operations of `Machine/Askor.lean` may change. -/

namespace Sys2Proof.Machine
open Sys2Proof

theorem inject_same {m : Nat} {z t : State} (hk : Same m z t) (h : 0x4000000010 ||| m = m) (ch : Nat) (path : Nat) (n : Nat) (w : Nat) :
    Same m z (State.inject t ch path n w).2 := by
  unfold State.inject
  dsimp only
  repeat' with_reducible first
    | exact hk | assumption | exact mayDiffer h rfl | exact fun _ => rfl | intro _ | apply Same.ite | apply Same.ite2
    | apply Same.foldl | apply Same.foldl2 | apply addFld_same (h := up h rfl) | apply setBit_same (h := up h rfl)
    | apply Same.lit

theorem injectionWrite_same {m : Nat} {z t : State} (hk : Same m z t) (h : 0x4000000010 ||| m = m) (v : Word) :
    Same m z (State.injectionWrite t v) := by
  unfold State.injectionWrite
  dsimp only
  repeat' with_reducible first
    | exact hk | assumption | exact mayDiffer h rfl | exact fun _ => rfl | apply Same.ite
    | apply setReg_same (h := up h rfl) | apply Same.lit

theorem execInjectionArm_same {m : Nat} {z t : State} (hk : Same m z t) (h : 0x4080000050 ||| m = m) (val : Word) :
    SameX m z (execInjectionArm val t) := by
  unfold execInjectionArm
  repeat' with_reducible first
    | exact hk | assumption | apply Same.ite | apply holdRequest_same (h := up h rfl)
    | apply injectionWrite_same (h := up h rfl) | apply SameX.next | split

theorem encodeBytes_same {m : Nat} {z t : State} (hk : Same m z t) (h : 0x4000000010 ||| m = m) (ch : Nat) (x : CodeCfg) (l : Nat) (info : List Byte) :
    Same m z (State.encodeBytes t ch x l info).2 := by
  unfold State.encodeBytes
  dsimp only
  repeat' with_reducible first
    | exact hk | assumption | apply inject_same (h := up h rfl)

theorem decodeBytes_same {m : Nat} {z t : State} (hk : Same m z t) (h : 0x4000000010 ||| m = m) (ch : Nat) (x : CodeCfg) (l : Nat) (g : DecodeCfg) (code : List Byte) :
    Same m z (State.decodeBytes t ch x l g code).2 := by
  unfold State.decodeBytes
  dsimp only
  repeat' with_reducible first
    | exact hk | assumption | apply inject_same (h := up h rfl) | split | (apply Same.snd; assumption)

end Sys2Proof.Machine
end

