-- ==== Sys2Proof/Laws/Frames/PageCode.lean ====
section
/-! SUPPORT. Which fields the operations of `Machine/PageCode.lean` may change. -/

namespace Sys2Proof.Machine
open Sys2Proof

theorem codePage_same {m : Nat} {z t : State} (hk : Same m z t) (h : 0x4000000010 ||| m = m) (a : Addr) (size : Nat) (quarter : Bool) (level : Nat) (payload : List Byte) :
    Same m z (State.codePage t a size quarter level payload).2 := by
  unfold State.codePage
  dsimp only
  repeat' with_reducible first
    | exact hk | assumption | intro _ | apply Same.foldl | apply Same.foldl2 | apply encodeBytes_same (h := up h rfl)

theorem putCodes_same {m : Nat} {z t : State} (hk : Same m z t) (h : 0x39080030010 ||| m = m) (f : Nat) (codes : List (Nat × List Byte)) (poison : Bool) :
    Same m z (State.putCodes t f codes poison) := by
  unfold State.putCodes
  repeat' with_reducible first
    | exact hk | assumption | intro _ | apply Same.foldl | apply Same.foldl2 | apply frameWrite_same (h := up h rfl)

theorem clearPayload_same {m : Nat} {z t : State} (hk : Same m z t) (h : 0x39080030010 ||| m = m) (f : Nat) (size : Nat) (quarter : Bool) (level : Nat) :
    Same m z (State.clearPayload t f size quarter level).2 := by
  unfold State.clearPayload
  dsimp only
  repeat' with_reducible first
    | exact hk | assumption | intro _ | apply Same.foldl | apply Same.foldl2 | apply frameRead_same (h := up h rfl)

theorem putPayload_same {m : Nat} {z t : State} (hk : Same m z t) (h : 0x39080030010 ||| m = m) (f : Nat) (size : Nat) (quarter : Bool) (level : Nat) (payload : List Byte) (poison : Bool) :
    Same m z (State.putPayload t f size quarter level payload poison) := by
  unfold State.putPayload
  repeat' with_reducible first
    | exact hk | assumption | intro _ | apply Same.foldl | apply Same.foldl2 | apply frameWrite_same (h := up h rfl)

theorem setCode_same {m : Nat} {z t : State} (hk : Same m z t) (h : 0x8000 ||| m = m) (f : Nat) (a : Addr) (size : Nat) (quarter : Bool) (level : Nat) :
    Same m z (State.setCode t f a size quarter level) := by
  unfold State.setCode
  repeat' with_reducible first
    | exact hk | assumption | apply modFrame_same (h := up h rfl)

theorem encodeFrame_same {m : Nat} {z t : State} (hk : Same m z t) (h : 0x3d080038010 ||| m = m) (f : Nat) (a : Addr) (size : Nat) (quarter : Bool) (level : Nat) :
    Same m z (State.encodeFrame t f a size quarter level).2 := by
  unfold State.encodeFrame
  dsimp only
  repeat' with_reducible first
    | exact hk | assumption | apply clearPayload_same (h := up h rfl) | apply codePage_same (h := up h rfl)
    | apply putCodes_same (h := up h rfl) | apply setCode_same (h := up h rfl)

theorem stagedPayload_same {m : Nat} {z t : State} (hk : Same m z t) (h : 0x39080030010 ||| m = m) (f : Nat) :
    Same m z (State.stagedPayload t f).2 := by
  unfold State.stagedPayload
  dsimp only
  repeat' with_reducible first
    | exact hk | assumption | intro _ | apply Same.foldl | apply Same.foldl2 | apply frameRead_same (h := up h rfl)

theorem clearFrame_same {m : Nat} {z t : State} (hk : Same m z t) (h : 0x39080038010 ||| m = m) (f : Nat) :
    Same m z (State.clearFrame t f) := by
  unfold State.clearFrame
  dsimp only
  repeat' with_reducible first
    | exact hk | assumption | apply Same.ite | apply Same.ite2 | apply stagedPayload_same (h := up h rfl)
    | apply putPayload_same (h := up h rfl) | apply modFrame_same (h := up h rfl)

theorem countHard_same {m : Nat} {z t : State} (hk : Same m z t) (h : 0x38000000010 ||| m = m) (ch : Nat) (step : Nat) (x : CodeCfg) (level : Nat) (d : Decoded) :
    Same m z (State.countHard t ch step x level d) := by
  unfold State.countHard
  dsimp only
  repeat' with_reducible first
    | exact hk | assumption | apply Same.ite | apply count_same (h := up h rfl) | split | (apply Same.snd; assumption)

theorem traceDecode_same {m : Nat} {z t : State} (hk : Same m z t) (h : 0x8000000010 ||| m = m) (ch : Nat) (tag : Nat) (attempt : Nat) (assists : Nat) (result : Nat) (quarter : Option Nat) (fixed : Nat) :
    Same m z (State.traceDecode t ch tag attempt assists result quarter fixed) := by
  unfold State.traceDecode
  repeat' with_reducible first
    | exact hk | assumption | apply traceRec_same (h := up h rfl)

theorem decodeAt_same {m : Nat} {z t : State} (hk : Same m z t) (h : 0x3d080030010 ||| m = m) (ch : Nat) (f : Nat) (base : Nat) (x : CodeCfg) (level : Nat) (g : DecodeCfg) (a : Addr) :
    Same m z (State.decodeAt t ch f base x level g a).2 := by
  unfold State.decodeAt
  dsimp only
  repeat' with_reducible first
    | exact hk | assumption | apply Same.ite | apply Same.ite2 | apply frameRead_same (h := up h rfl)
    | apply decodeBytes_same (h := up h rfl)

theorem decodeFrame_same {m : Nat} {z t : State} (hk : Same m z t) (h : 0x3d080030010 ||| m = m) (f : Nat) (tag : Nat) :
    Same m z (State.decodeFrame t f tag).2 := by
  unfold State.decodeFrame
  dsimp only
  repeat' with_reducible first
    | exact hk | assumption | intro _ | apply Same.ite | apply Same.ite2 | apply Same.foldl | apply Same.foldl2
    | apply decodeAt_same (h := up h rfl) | apply countHard_same (h := up h rfl)
    | apply traceDecode_same (h := up h rfl) | apply count_same (h := up h rfl) | exact SameP.none | apply SameP.some
    | apply SameP.map | split | (apply SameP.get; assumption)

theorem rewriteFrame_same {m : Nat} {z t : State} (hk : Same m z t) (h : 0x39080038010 ||| m = m) (f : Nat) (infos : List (List Byte)) (a : Addr) (size : Nat) (quarter : Bool) (level : Nat) :
    Same m z (State.rewriteFrame t f infos a size quarter level) := by
  unfold State.rewriteFrame
  dsimp only
  repeat' with_reducible first
    | exact hk | assumption | apply modFrame_same (h := up h rfl) | apply putCodes_same (h := up h rfl)
    | apply setCode_same (h := up h rfl) | split | (apply Same.snd; assumption)

theorem framePage_same {m : Nat} {z t : State} (hk : Same m z t) (h : 0x39080030010 ||| m = m) (f : Nat) (col : Nat) (n : Nat) :
    Same m z (State.framePage t f col n).2 := by
  unfold State.framePage
  dsimp only
  repeat' with_reducible first
    | exact hk | assumption | apply frameRead_same (h := up h rfl) | split | (apply Same.snd; assumption)

end Sys2Proof.Machine
end

