-- ==== Sys2Proof/Laws/Frames/Life.lean ====
section
/-! SUPPORT. Which fields the operations of `Machine/Life.lean` may change. -/

namespace Sys2Proof.Machine
open Sys2Proof

theorem addWork_same {m : Nat} {z t : State} (hk : Same m z t) (h : 0x200000001000 ||| m = m) (w : Work) :
    Same m z (State.addWork t w).2 := by
  unfold State.addWork
  repeat' with_reducible first
    | exact hk | assumption | exact mayDiffer h rfl | exact fun _ => rfl | apply Same.lit

theorem fixLevels_same {m : Nat} {z t : State} (hk : Same m z t) (h : 0x39880401010 ||| m = m) (id : Nat) :
    Same m z (State.fixLevels t id) := by
  unfold State.fixLevels
  dsimp only
  repeat' with_reducible first
    | exact hk | assumption | apply Same.ite | apply Same.ite2 | apply lookupBase_same (h := up h rfl)
    | apply modWork_same (h := up h rfl) | exact SameP.none | apply SameP.some | apply SameP.map | split
    | (apply Same.snd; assumption) | (apply SameP.get; assumption)

theorem tagTo_same {m : Nat} {z t : State} (hk : Same m z t) (h : 0x8000000410 ||| m = m) (t' : Nat) (st : TagState) :
    Same m z (State.tagTo t t' st) := by
  unfold State.tagTo
  dsimp only
  repeat' with_reducible first
    | exact hk | assumption | apply Same.ite | apply setTag_same (h := up h rfl) | apply traceRec_same (h := up h rfl)
    | split | (apply Same.snd; assumption)

theorem allocTag_same {m : Nat} {z t : State} (hk : Same m z t) (h : 0x109800004410 ||| m = m) (t' : Nat) (q : Nat) (p : Packet) :
    Same m z (State.allocTag t t' q p) := by
  unfold State.allocTag
  dsimp only
  repeat' with_reducible first
    | exact hk | assumption | exact mayDiffer h rfl | exact fun _ => rfl | apply freshEntry_same (h := up h rfl)
    | apply tick_same (h := up h rfl) | apply setTag_same (h := up h rfl) | apply modChan_same (h := up h rfl)
    | apply tagTo_same (h := up h rfl) | apply Same.lit

theorem holdF_same {m : Nat} {z t : State} (hk : Same m z t) (h : 0x38080008010 ||| m = m) (f : Nat) :
    Same m z (State.holdF t f) := by
  unfold State.holdF
  dsimp only
  repeat' with_reducible first
    | exact hk | assumption | apply Same.ite | apply holdFrame_same (h := up h rfl) | apply raise_same (h := up h rfl)

theorem freeF_same {m : Nat} {z t : State} (hk : Same m z t) (h : 0x38080009410 ||| m = m) (f : Nat) :
    Same m z (State.freeF t f) := by
  unfold State.freeF
  repeat' with_reducible first
    | exact hk | assumption | apply freeFrame_same (h := up h rfl)

theorem traceCompletion_same {m : Nat} {z t : State} (hk : Same m z t) (h : 0x8000000010 ||| m = m) (q : Nat) (c : Completion) :
    Same m z (State.traceCompletion t q c) := by
  unfold State.traceCompletion
  dsimp only
  repeat' with_reducible first
    | exact hk | assumption | apply traceRec_same (h := up h rfl) | split | (apply Same.snd; assumption)

theorem obtSweep_same {m : Nat} {z t : State} (hk : Same m z t) (h : 0x280000 ||| m = m) :
    Same m z (State.obtSweep t) := by
  unfold State.obtSweep
  repeat' with_reducible first
    | exact hk | assumption | exact mayDiffer h rfl | exact fun _ => rfl | intro _ | apply Same.foldl
    | apply setObtEntry_same (h := up h rfl) | apply Same.lit

theorem freeTag_same {m : Nat} {z t : State} (hk : Same m z t) (h : 0x38080289410 ||| m = m) (t' : Nat) :
    Same m z (State.freeTag t t') := by
  unfold State.freeTag
  dsimp only
  repeat' with_reducible first
    | exact hk | assumption | apply Same.ite | apply tagTo_same (h := up h rfl) | apply setTag_same (h := up h rfl)
    | apply freeF_same (h := up h rfl) | apply modFrame_same (h := up h rfl) | apply obtSweep_same (h := up h rfl)
    | apply raiseCarry_same (h := up h rfl) | split | (apply Same.snd; assumption)

theorem settle_same {m : Nat} {z t : State} (hk : Same m z t) (h : 0x38080289410 ||| m = m) (t' : Nat) :
    Same m z (State.settle t t') := by
  unfold State.settle
  dsimp only
  repeat' with_reducible first
    | exact hk | assumption | apply Same.ite | apply tagTo_same (h := up h rfl) | apply freeTag_same (h := up h rfl)

theorem freeSlot_same {m : Nat} {z t : State} (hk : Same m z t) (h : 0x800 ||| m = m) (k : Nat) :
    Same m z (State.freeSlot t k) := by
  unfold State.freeSlot
  repeat' with_reducible first
    | exact hk | assumption | exact mayDiffer h rfl | exact fun _ => rfl | apply Same.lit

theorem entryGone_same {m : Nat} {z t : State} (hk : Same m z t) (h : 0x38080289c10 ||| m = m) (q : Nat) (c : Completion) :
    Same m z (State.entryGone t q c) := by
  unfold State.entryGone
  dsimp only
  repeat' with_reducible first
    | exact hk | assumption | apply traceCompletion_same (h := up h rfl) | apply settle_same (h := up h rfl)
    | apply freeSlot_same (h := up h rfl) | split | (apply Same.snd; assumption)

theorem pushDone_same {m : Nat} {z t : State} (hk : Same m z t) (h : 0x38080289c90 ||| m = m) (q : Nat) (c : Completion) :
    Same m z (State.pushDone t q c) := by
  unfold State.pushDone
  repeat' with_reducible first
    | exact hk | assumption | apply Same.ite | apply entryGone_same (h := up h rfl)
    | apply modQueue_same (h := up h rfl)

theorem completeNow_same {m : Nat} {z t : State} (hk : Same m z t) (h : 0x38080289c90 ||| m = m) (q : Nat) (cid : BitVec 16) (st : Status) (info : Nat) :
    Same m z (State.completeNow t q cid st info) := by
  unfold State.completeNow
  repeat' with_reducible first
    | exact hk | assumption | apply pushDone_same (h := up h rfl)

theorem commitSlot_same {m : Nat} {z t : State} (hk : Same m z t) (h : 0x38080289c90 ||| m = m) (k : Nat) (st : Status) (info : Nat) :
    Same m z (State.commitSlot t k st info) := by
  unfold State.commitSlot
  dsimp only
  repeat' with_reducible first
    | exact hk | assumption | apply Same.ite | apply setSlot_same (h := up h rfl)
    | apply pushDone_same (h := up h rfl)

theorem addCarry_same {m : Nat} {z t : State} (hk : Same m z t) (h : 0x1808000010 ||| m = m) (t' : Nat) (st : Status) (info : Word) :
    Same m z (State.addCarry t t' st info) := by
  unfold State.addCarry
  dsimp only
  repeat' with_reducible first
    | exact hk | assumption | exact mayDiffer h rfl | exact fun _ => rfl | apply Same.ite
    | apply shiftEntries_same (h := up h rfl) | apply setBit_same (h := up h rfl)
    | apply freshEntry_same (h := up h rfl) | apply Same.lit

theorem fallBackTag_same {m : Nat} {z t : State} (hk : Same m z t) (h : 0x400 ||| m = m) (t' : Nat) :
    Same m z (State.fallBackTag t t') := by
  unfold State.fallBackTag
  repeat' with_reducible first
    | exact hk | assumption | apply Same.ite | apply modTag_same (h := up h rfl)

theorem serveForward_same {m : Nat} {z t : State} (hk : Same m z t) (h : 0x8000001410 ||| m = m) (id : Nat) :
    Same m z (State.serveForward t id) := by
  unfold State.serveForward
  repeat' with_reducible first
    | exact hk | assumption | apply Same.ite | apply dropWork_same (h := up h rfl) | apply tagTo_same (h := up h rfl)
    | apply modWork_same (h := up h rfl) | split | (apply Same.snd; assumption)

theorem wakeForwards_same {m : Nat} {z t : State} (hk : Same m z t) (h : 0x8000001410 ||| m = m) (f : Nat) :
    Same m z (State.wakeForwards t f) := by
  unfold State.wakeForwards
  repeat' with_reducible first
    | exact hk | assumption | intro _ | apply Same.ite | apply Same.ite2 | apply Same.foldl | apply Same.foldl2
    | apply serveForward_same (h := up h rfl)

theorem fallBack_same {m : Nat} {z t : State} (hk : Same m z t) (h : 0x39880409410 ||| m = m) (f : Nat) :
    Same m z (State.fallBack t f) := by
  unfold State.fallBack
  dsimp only
  repeat' with_reducible first
    | exact hk | assumption | intro _ | apply Same.foldl | apply Same.foldl2 | apply fallBackTag_same (h := up h rfl)
    | apply modWork_same (h := up h rfl) | apply fixLevels_same (h := up h rfl)
    | apply grantFrames_same (h := up h rfl) | split | (apply Same.snd; assumption)

theorem commitAcc_same {m : Nat} {z t : State} (hk : Same m z t) (h : 0x40000 ||| m = m) (x : Tag) (st : Status) :
    Same m z (State.commitAcc t x st) := by
  unfold State.commitAcc
  dsimp only
  repeat' with_reducible first
    | exact hk | assumption | apply Same.ite | apply modAcc_same (h := up h rfl) | split
    | (apply Same.snd; assumption)

theorem resolveAbort_same {m : Nat} {z t : State} (hk : Same m z t) (h : 0x38080289c90 ||| m = m) (t' : Nat) (st : Status) :
    Same m z (State.resolveAbort t t' st) := by
  unfold State.resolveAbort
  dsimp only
  repeat' with_reducible first
    | exact hk | assumption | apply Same.ite | apply modTag_same (h := up h rfl)
    | apply commitSlot_same (h := up h rfl) | split | (apply Same.snd; assumption)

theorem commitTag_same {m : Nat} {z t : State} (hk : Same m z t) (h : 0x398886c9c90 ||| m = m) (t' : Nat) (st : Status) (info : Word) :
    Same m z (State.commitTag t t' st info) := by
  unfold State.commitTag
  dsimp only
  repeat' with_reducible first
    | exact hk | assumption | intro _ | apply Same.ite | apply Same.foldl | apply commitAcc_same (h := up h rfl)
    | apply setTag_same (h := up h rfl) | apply resolveAbort_same (h := up h rfl) | apply unbind_same (h := up h rfl)
    | apply fallBack_same (h := up h rfl) | apply addCarry_same (h := up h rfl) | apply pushDone_same (h := up h rfl)

theorem endTag0_same {m : Nat} {z t : State} (hk : Same m z t) (h : 0x38080289410 ||| m = m) (t' : Nat) :
    Same m z (State.endTag0 t t') := by
  unfold State.endTag0
  dsimp only
  repeat' with_reducible first
    | exact hk | assumption | apply Same.ite | apply modTag_same (h := up h rfl)
    | apply forwardEnded_same (h := up h rfl) | apply settle_same (h := up h rfl) | split
    | (apply Same.snd; assumption)

theorem dropDeferred_same {m : Nat} {z t : State} (hk : Same m z t) (h : 0x4000000 ||| m = m) (f : Nat) :
    Same m z (State.dropDeferred t f) := by
  unfold State.dropDeferred
  repeat' with_reducible first
    | exact hk | assumption | exact mayDiffer h rfl | exact fun _ => rfl | apply Same.lit

theorem takeForwards_same {m : Nat} {z t : State} (hk : Same m z t) (h : 0x38280009410 ||| m = m) (f : Nat) (a : Addr) (stamp : Nat) :
    Same m z (State.takeForwards t f a stamp) := by
  unfold State.takeForwards
  dsimp only
  repeat' with_reducible first
    | exact hk | assumption | intro _ | apply Same.foldl | apply Same.foldl2 | apply modTag_same (h := up h rfl)
    | apply withdraw_same (h := up h rfl) | apply modWork_same (h := up h rfl)
    | apply releaseUnused_same (h := up h rfl) | apply count_same (h := up h rfl) | apply freeF_same (h := up h rfl)
    | apply serveForward_same (h := up h rfl) | split | (apply Same.snd; assumption)

theorem releaseOne_same {m : Nat} {z t : State} (hk : Same m z t) (h : 0x39a8c6f9c90 ||| m = m) (f : Nat) :
    Same m z (State.releaseOne t f) := by
  unfold State.releaseOne
  dsimp only
  repeat' with_reducible first
    | exact hk | assumption | apply Same.ite | apply dropDeferred_same (h := up h rfl)
    | apply freeF_same (h := up h rfl) | apply modTag_same (h := up h rfl) | apply commitTag_same (h := up h rfl)
    | apply endTag0_same (h := up h rfl) | apply modFrame_same (h := up h rfl)
    | apply rewriteFrame_same (h := up h rfl) | apply bindFrame_same (h := up h rfl)
    | apply takeForwards_same (h := up h rfl) | split | (apply Same.snd; assumption)

theorem releaseSweep_same {m : Nat} {z t : State} (hk : Same m z t) (h : 0x39a8c6f9c90 ||| m = m) :
    Same m z (State.releaseSweep t) := by
  unfold State.releaseSweep
  repeat' with_reducible first
    | exact hk | assumption | intro _ | apply Same.foldl | apply Same.foldl2 | apply releaseOne_same (h := up h rfl)

theorem endTag_same {m : Nat} {z t : State} (hk : Same m z t) (h : 0x39a8c6f9c90 ||| m = m) (t' : Nat) :
    Same m z (State.endTag t t') := by
  unfold State.endTag
  repeat' with_reducible first
    | exact hk | assumption | apply endTag0_same (h := up h rfl) | apply releaseSweep_same (h := up h rfl)

theorem finish_same {m : Nat} {z t : State} (hk : Same m z t) (h : 0x39a8c6f9c90 ||| m = m) (t' : Nat) (st : Status) (info : Nat) :
    Same m z (State.finish t t' st info) := by
  unfold State.finish
  repeat' with_reducible first
    | exact hk | assumption | apply commitTag_same (h := up h rfl) | apply endTag_same (h := up h rfl)

theorem addDeferred_same {m : Nat} {z t : State} (hk : Same m z t) (h : 0x39884000010 ||| m = m) (t' : Nat) (f : Nat) (st : Status) (info : Nat) :
    Same m z (State.addDeferred t t' f st info) := by
  unfold State.addDeferred
  dsimp only
  repeat' with_reducible first
    | exact hk | assumption | exact mayDiffer h rfl | exact fun _ => rfl | apply freshEntry_same (h := up h rfl)
    | apply addFld_same (h := up h rfl) | apply raise_same (h := up h rfl) | apply Same.lit

theorem programFails_same {m : Nat} {z t : State} (hk : Same m z t) (h : 0x39a8c6f9c90 ||| m = m) (t' : Nat) (f : Nat) (st : Status) (info : Nat) (hold : Bool) :
    Same m z (State.programFails t t' f st info hold) := by
  unfold State.programFails
  dsimp only
  repeat' with_reducible first
    | exact hk | assumption | apply Same.ite | apply addCarry_same (h := up h rfl)
    | apply commitTag_same (h := up h rfl) | apply endTag_same (h := up h rfl) | apply holdF_same (h := up h rfl)
    | apply addDeferred_same (h := up h rfl) | apply finish_same (h := up h rfl)

theorem programSucceeds_same {m : Nat} {z t : State} (hk : Same m z t) (h : 0x39a8c6f9c90 ||| m = m) (t' : Nat) (st : Status) (info : Nat) :
    Same m z (State.programSucceeds t t' st info) := by
  unfold State.programSucceeds
  dsimp only
  repeat' with_reducible first
    | exact hk | assumption | apply Same.ite | apply addCarry_same (h := up h rfl) | apply endTag_same (h := up h rfl)
    | apply finish_same (h := up h rfl)

theorem traceMsg_same {m : Nat} {z t : State} (hk : Same m z t) (h : 0x8000000010 ||| m = m) (n : Nat) (op : Nat) (entry : Nat) (word : Word) :
    Same m z (State.traceMsg t n op entry word) := by
  unfold State.traceMsg
  repeat' with_reducible first
    | exact hk | assumption | apply traceRec_same (h := up h rfl)

theorem entryOn_same {m : Nat} {z t : State} (hk : Same m z t) (h : 0x408000004010 ||| m = m) (n : Nat) (fuel : Nat) (input : List Byte) :
    Same m z (State.entryOn t n fuel input) := by
  unfold State.entryOn
  dsimp only
  repeat' with_reducible first
    | exact hk | assumption | exact mayDiffer h rfl | exact fun _ => rfl | intro _ | apply Same.foldl
    | apply Same.foldl2 | apply traceMsg_same (h := up h rfl) | apply modChan_same (h := up h rfl) | split
    | (apply Same.snd; assumption) | apply Same.lit

theorem runEntry_same {m : Nat} {z t : State} (hk : Same m z t) (h : 0x409000034010 ||| m = m) (n : Nat) (e : Nat) (fuel : Nat) :
    Same m z (State.runEntry t n e fuel) := by
  unfold State.runEntry
  dsimp only
  repeat' with_reducible first
    | exact hk | assumption | apply Same.ite | apply store_same (h := up h rfl) | apply modChan_same (h := up h rfl)
    | apply entryOn_same (h := up h rfl)

theorem endWork_same {m : Nat} {z t : State} (hk : Same m z t) (h : 0x409200037010 ||| m = m) (id : Nat) :
    Same m z (State.endWork t id) := by
  unfold State.endWork
  split
  · exact hk
  · extract_lets runs s1 s2 s3 s4 s5 sent s6 s7
    have h1 : Same m z s1 := withdraw_same hk (up h rfl) id
    have h2 : Same m z s2 := Same.ite h1 (releaseUnused_same h1 (up h rfl) id)
    have h3 : Same m z s3 := modLun_same h2 (up h rfl) _ _
    have h4 : Same m z s4 := modChan_same h3 (up h rfl) _ _
    clear_value s4
    have h5 : Same m z s5 := by
      repeat' with_reducible first
        | exact h4 | exact mayDiffer h rfl | exact fun _ => rfl | apply Same.lit
    clear_value s5
    have h6 : Same m z s6 := Same.ite (modLun_same h5 (up h rfl) _ _) h5
    exact dropWork_same (Same.ite (runEntry_same h6 (up h rfl) _ _ _) h6) (up h rfl) id

theorem freeWorkFrame_same {m : Nat} {z t : State} (hk : Same m z t) (h : 0x39a8c6f9c90 ||| m = m) (w : Work) :
    Same m z (State.freeWorkFrame t w) := by
  unfold State.freeWorkFrame
  repeat' with_reducible first
    | exact hk | assumption | apply Same.ite | apply forwardEnded_same (h := up h rfl)
    | apply releaseSweep_same (h := up h rfl) | apply freeF_same (h := up h rfl) | split
    | (apply Same.snd; assumption)

theorem detachReads_same {m : Nat} {z t : State} (hk : Same m z t) (h : 0x439a8c6ffc90 ||| m = m) (t' : Nat) :
    Same m z (State.detachReads t t') := by
  unfold State.detachReads
  dsimp only
  repeat' with_reducible first
    | exact hk | assumption | intro _ | apply Same.ite | apply Same.ite2 | apply Same.foldl | apply Same.foldl2
    | apply endWork_same (h := up h rfl) | apply freeWorkFrame_same (h := up h rfl)
    | apply modWork_same (h := up h rfl) | split | (apply Same.snd; assumption)

theorem dropRebuild_same {m : Nat} {z t : State} (hk : Same m z t) (h : 0x38080009410 ||| m = m) (t' : Nat) :
    Same m z (State.dropRebuild t t') := by
  unfold State.dropRebuild
  repeat' with_reducible first
    | exact hk | assumption | intro _ | apply Same.foldl | apply freeF_same (h := up h rfl)
    | apply modTag_same (h := up h rfl)

theorem endTagWorks_same {m : Nat} {z t : State} (hk : Same m z t) (h : 0x439a8c6ffc90 ||| m = m) (t' : Nat) :
    Same m z (State.endTagWorks t t') := by
  unfold State.endTagWorks
  dsimp only
  repeat' with_reducible first
    | exact hk | assumption | intro _ | apply Same.foldl | apply Same.foldl2 | apply dropRebuild_same (h := up h rfl)
    | apply detachReads_same (h := up h rfl) | apply endWork_same (h := up h rfl)

theorem dropReads_same {m : Nat} {z t : State} (hk : Same m z t) (h : 0x40 ||| m = m) (g : Nat) :
    Same m z (State.dropReads t g) := by
  unfold State.dropReads
  repeat' with_reducible first
    | exact hk | assumption | exact mayDiffer h rfl | exact fun _ => rfl | apply Same.ite | apply Same.ite2 | split
    | (apply Same.snd; assumption) | apply Same.lit

theorem dropPhase_same {m : Nat} {z t : State} (hk : Same m z t) (h : 0x10000040 ||| m = m) (t' : Nat) :
    Same m z (State.dropPhase t t') := by
  unfold State.dropPhase
  repeat' with_reducible first
    | exact hk | assumption | apply dropReads_same (h := up h rfl) | apply modDmaChan_same (h := up h rfl) | split
    | (apply Same.snd; assumption)

theorem abandonSurvey_same {m : Nat} {z t : State} (hk : Same m z t) (h : 0x439a8c6ffc90 ||| m = m) (n : Nat) :
    Same m z (State.abandonSurvey t n) := by
  unfold State.abandonSurvey
  dsimp only
  repeat' with_reducible first
    | exact hk | assumption | intro _ | apply Same.ite | apply Same.ite2 | apply Same.foldl | apply Same.foldl2
    | apply endWork_same (h := up h rfl) | apply freeWorkFrame_same (h := up h rfl)
    | apply modChan_same (h := up h rfl) | apply setFld_same (h := up h rfl) | apply count_same (h := up h rfl)
    | apply finish_same (h := up h rfl) | split | (apply Same.snd; assumption)

theorem calQueue_same {m : Nat} {z t : State} (hk : Same m z t) (h : 0x400004000 ||| m = m) (n : Nat) (apply : Bool) (tag : Option Nat) :
    Same m z (State.calQueue t n apply tag) := by
  unfold State.calQueue
  dsimp only
  repeat' with_reducible first
    | exact hk | assumption | exact mayDiffer h rfl | exact fun _ => rfl | apply modChan_same (h := up h rfl)
    | apply Same.lit

theorem calNext_same {m : Nat} {z t : State} (hk : Same m z t) (h : 0x400004000 ||| m = m) (n : Nat) :
    Same m z (State.calNext t n) := by
  unfold State.calNext
  repeat' with_reducible first
    | exact hk | assumption | apply Same.ite | apply Same.ite2 | apply calQueue_same (h := up h rfl) | split
    | (apply Same.snd; assumption)

theorem dropCal_same {m : Nat} {z t : State} (hk : Same m z t) (h : 0x400004010 ||| m = m) (n : Nat) :
    Same m z (State.dropCal t n) := by
  unfold State.dropCal
  dsimp only
  repeat' with_reducible first
    | exact hk | assumption | exact mayDiffer h rfl | exact fun _ => rfl | apply Same.ite
    | apply modChan_same (h := up h rfl) | apply setFld_same (h := up h rfl) | apply calNext_same (h := up h rfl)
    | apply Same.lit

theorem dropService_same {m : Nat} {z t : State} (hk : Same m z t) (h : 0x439e8c6ffc90 ||| m = m) (t' : Nat) :
    Same m z (State.dropService t t') := by
  unfold State.dropService
  dsimp only
  repeat' with_reducible first
    | exact hk | assumption | apply Same.ite | apply modChan_same (h := up h rfl)
    | apply abandonSurvey_same (h := up h rfl) | apply dropCal_same (h := up h rfl)

theorem reopen_same {m : Nat} {z t : State} (hk : Same m z t) (h : 0x39880449410 ||| m = m) (t' : Nat) :
    Same m z (State.reopen t t') := by
  unfold State.reopen
  repeat' with_reducible first
    | exact hk | assumption | intro _ | apply Same.foldl | apply Same.foldl2 | apply unbind_same (h := up h rfl)
    | apply fallBack_same (h := up h rfl) | apply setAcc_same (h := up h rfl) | split | (apply Same.snd; assumption)

theorem dropSd_same {m : Nat} {z t : State} (hk : Same m z t) (h : 0x40 ||| m = m) (t' : Nat) :
    Same m z (State.dropSd t t') := by
  unfold State.dropSd
  repeat' with_reducible first
    | exact hk | assumption | exact mayDiffer h rfl | exact fun _ => rfl | apply Same.ite | apply Same.ite2
    | apply Same.lit

theorem stopTag_same {m : Nat} {z t : State} (hk : Same m z t) (h : 0x439e9c6ffcd0 ||| m = m) (t' : Nat) (st : Status) (info : Nat) :
    Same m z (State.stopTag t t' st info) := by
  unfold State.stopTag
  dsimp only
  repeat' with_reducible first
    | exact hk | assumption | apply Same.ite | apply commitTag_same (h := up h rfl)
    | apply endTagWorks_same (h := up h rfl) | apply dropPhase_same (h := up h rfl)
    | apply dropService_same (h := up h rfl) | apply dropSd_same (h := up h rfl) | apply modTag_same (h := up h rfl)
    | apply endTag_same (h := up h rfl)

theorem abortNow_same {m : Nat} {z t : State} (hk : Same m z t) (h : 0x439e9c6ffcd0 ||| m = m) (t' : Nat) :
    Same m z (State.abortNow t t') := by
  unfold State.abortNow
  repeat' with_reducible first
    | exact hk | assumption | apply stopTag_same (h := up h rfl) | apply reopen_same (h := up h rfl)

theorem dropTag_same {m : Nat} {z t : State} (hk : Same m z t) (h : 0x439a9c6ffcd0 ||| m = m) (t' : Nat) :
    Same m z (State.dropTag t t') := by
  unfold State.dropTag
  dsimp only
  repeat' with_reducible first
    | exact hk | assumption | apply Same.ite | apply addCarry_same (h := up h rfl)
    | apply raiseCarry_same (h := up h rfl) | apply endTagWorks_same (h := up h rfl)
    | apply dropPhase_same (h := up h rfl) | apply freeTag_same (h := up h rfl)

theorem abortIfPending_same {m : Nat} {z t : State} (hk : Same m z t) (h : 0x439e9c6ffcd0 ||| m = m) (t' : Nat) :
    Same m z (State.abortIfPending t t').2 := by
  unfold State.abortIfPending
  dsimp only
  repeat' with_reducible first
    | exact hk | assumption | apply Same.ite | apply Same.ite2 | apply dropTag_same (h := up h rfl)
    | apply abortNow_same (h := up h rfl)

theorem tooLate_same {m : Nat} {z t : State} (hk : Same m z t) (h : 0x38080289c90 ||| m = m) (t' : Nat) :
    Same m z (State.tooLate t t') := by
  unfold State.tooLate
  dsimp only
  repeat' with_reducible first
    | exact hk | assumption | apply modTag_same (h := up h rfl) | apply commitSlot_same (h := up h rfl) | split
    | (apply Same.snd; assumption)

theorem abortTag_same {m : Nat} {z t : State} (hk : Same m z t) (h : 0x439e9c6ffcd0 ||| m = m) (k : Nat) (t' : Nat) :
    Same m z (State.abortTag t k t') := by
  unfold State.abortTag
  dsimp only
  repeat' with_reducible first
    | exact hk | assumption | apply Same.ite | apply commitSlot_same (h := up h rfl)
    | apply modTag_same (h := up h rfl) | apply abortNow_same (h := up h rfl) | apply tooLate_same (h := up h rfl)
    | split | (apply Same.snd; assumption)

theorem cancelTag_same {m : Nat} {z t : State} (hk : Same m z t) (h : 0x439e9c6ffcd0 ||| m = m) (t' : Nat) :
    Same m z (State.cancelTag t t') := by
  unfold State.cancelTag
  repeat' with_reducible first
    | exact hk | assumption | apply Same.ite | apply abortNow_same (h := up h rfl) | apply modTag_same (h := up h rfl)
    | split | (apply Same.snd; assumption)

theorem tagError_same {m : Nat} {z t : State} (hk : Same m z t) (h : 0x439e9c6ffcd0 ||| m = m) (t' : Nat) :
    Same m z (State.tagError t t') := by
  unfold State.tagError
  dsimp only
  repeat' with_reducible first
    | exact hk | assumption | apply Same.ite | apply modQueue_same (h := up h rfl) | apply modTag_same (h := up h rfl)
    | apply cancelTag_same (h := up h rfl)

theorem slotError_same {m : Nat} {z t : State} (hk : Same m z t) (h : 0x38080289c90 ||| m = m) (k : Nat) :
    Same m z (State.slotError t k) := by
  unfold State.slotError
  repeat' with_reducible first
    | exact hk | assumption | apply Same.ite | apply modQueue_same (h := up h rfl)
    | apply commitSlot_same (h := up h rfl)

theorem tagTableError_same {m : Nat} {z t : State} (hk : Same m z t) (h : 0x439e9c6ffcd0 ||| m = m) (addr : Nat) :
    Same m z (State.tagTableError t addr) := by
  unfold State.tagTableError
  dsimp only
  repeat' with_reducible first
    | exact hk | assumption | apply Same.ite | apply Same.ite2 | apply useGroup_same (h := up h rfl)
    | apply tagError_same (h := up h rfl) | apply slotError_same (h := up h rfl)

theorem rawStore_same {m : Nat} {z t : State} (hk : Same m z t) (h : 0x439e9ceffcd0 ||| m = m) :
    Same m z (State.rawStore t) := by
  unfold State.rawStore
  dsimp only
  repeat' with_reducible first
    | exact hk | assumption | apply Same.ite | apply rawWrite_same (h := up h rfl)
    | apply tagTableError_same (h := up h rfl)

theorem execRawWrite_same {m : Nat} {z t : State} (hk : Same m z t) (h : 0x439e9ceffcd0 ||| m = m) :
    SameX m z (execRawWrite t) := by
  unfold execRawWrite
  repeat' with_reducible first
    | exact hk | assumption | apply Same.ite | apply holdRequest_same (h := up h rfl)
    | apply rawWrite_same (h := up h rfl) | apply rawStore_same (h := up h rfl) | apply SameX.next | split

end Sys2Proof.Machine
end

