-- ==== Sys2Proof/Laws/Frames/Queues.lean ====
section
/-! SUPPORT. Which fields the operations of `Machine/Queues.lean` may change. -/

namespace Sys2Proof.Machine
open Sys2Proof

theorem clearWindow_same {m : Nat} {z t : State} (hk : Same m z t) (h : 0x100 ||| m = m) (w : Nat) :
    Same m z (State.clearWindow t w) := by
  unfold State.clearWindow
  repeat' with_reducible first
    | exact hk | assumption | exact mayDiffer h rfl | exact fun _ => rfl | apply Same.lit

theorem createQueue_same {m : Nat} {z t : State} (hk : Same m z t) (h : 0x180 ||| m = m) (q : Nat) :
    Same m z (State.createQueue t q) := by
  unfold State.createQueue
  dsimp only
  repeat' with_reducible first
    | exact hk | assumption | apply Same.ite | apply clearWindow_same (h := up h rfl)
    | apply setQueue_same (h := up h rfl)

theorem faultQueue_same {m : Nat} {z t : State} (hk : Same m z t) (h : 0x80 ||| m = m) (q : Nat) (cause : Nat) :
    Same m z (State.faultQueue t q cause) := by
  unfold State.faultQueue
  repeat' with_reducible first
    | exact hk | assumption | apply modQueue_same (h := up h rfl)

theorem dropFetches_same {m : Nat} {z t : State} (hk : Same m z t) (h : 0x40 ||| m = m) (q : Nat) :
    Same m z (State.dropFetches t q) := by
  unfold State.dropFetches
  repeat' with_reducible first
    | exact hk | assumption | exact mayDiffer h rfl | exact fun _ => rfl | apply Same.ite | apply Same.ite2 | split
    | (apply Same.snd; assumption) | apply Same.lit

theorem deleteQueue_same {m : Nat} {z t : State} (hk : Same m z t) (h : 0x439e9c6ffdd0 ||| m = m) (q : Nat) :
    Same m z (State.deleteQueue t q) := by
  unfold State.deleteQueue
  dsimp only
  repeat' with_reducible first
    | exact hk | assumption | intro _ | apply Same.ite | apply Same.foldl | apply clearWindow_same (h := up h rfl)
    | apply setQueue_same (h := up h rfl) | apply entryGone_same (h := up h rfl)
    | apply cancelTag_same (h := up h rfl) | apply dropFetches_same (h := up h rfl)

theorem dbError_same {m : Nat} {z t : State} (hk : Same m z t) (h : 0x10 ||| m = m) (q : Nat) :
    Same m z (State.dbError t q) := by
  unfold State.dbError
  repeat' with_reducible first
    | exact hk | assumption | apply setBit_same (h := up h rfl)

theorem sqDoorbell_same {m : Nat} {z t : State} (hk : Same m z t) (h : 0x90 ||| m = m) (q : Nat) (v : Word) :
    Same m z (State.sqDoorbell t q v) := by
  unfold State.sqDoorbell
  repeat' with_reducible first
    | exact hk | assumption | apply Same.ite | apply dbError_same (h := up h rfl)
    | apply modQueue_same (h := up h rfl)

theorem cqDoorbell_same {m : Nat} {z t : State} (hk : Same m z t) (h : 0x90 ||| m = m) (q : Nat) (v : Word) :
    Same m z (State.cqDoorbell t q v) := by
  unfold State.cqDoorbell
  dsimp only
  repeat' with_reducible first
    | exact hk | assumption | apply Same.ite | apply dbError_same (h := up h rfl)
    | apply modQueue_same (h := up h rfl)

theorem meetContext_same {m : Nat} {z t : State} (hk : Same m z t) (h : 0x39080000090 ||| m = m) (q : Nat) (cause : Nat) :
    Same m z (State.meetContext t q cause).2 := by
  unfold State.meetContext
  dsimp only
  repeat' with_reducible first
    | exact hk | assumption | apply Same.ite | apply Same.ite2 | apply useEntry_same (h := up h rfl)
    | apply faultQueue_same (h := up h rfl)

theorem fetchSq_same {m : Nat} {z t : State} (hk : Same m z t) (h : 0x390800000d0 ||| m = m) (q : Nat) :
    Same m z (State.fetchSq t q) := by
  unfold State.fetchSq
  dsimp only
  repeat' with_reducible first
    | exact hk | assumption | intro _ | apply Same.ite | apply Same.ite2 | apply Same.foldl | apply Same.foldl2
    | apply meetContext_same (h := up h rfl) | apply modQueue_same (h := up h rfl)
    | apply issueRead_same (h := up h rfl)

theorem sqArrive_same {m : Nat} {z t : State} (hk : Same m z t) (h : 0x80 ||| m = m) (q : Nat) (i : Nat) (data : List Byte) :
    Same m z (State.sqArrive t q i data) := by
  unfold State.sqArrive
  repeat' with_reducible first
    | exact hk | assumption | intro _ | apply Same.ite | apply Same.ite2 | apply Same.foldl | apply Same.foldl2
    | apply modQueue_same (h := up h rfl)

theorem pushWrite_same {m : Nat} {z t : State} (hk : Same m z t) (h : 0x110 ||| m = m) (w : Nat) (off : Nat) (l : List Byte) :
    SameO m z (State.pushWrite t w off l) := by
  unfold State.pushWrite
  dsimp only
  repeat' with_reducible first
    | exact hk | assumption | apply Same.ite | apply setBit_same (h := up h rfl)
    | apply setPushSlot_same (h := up h rfl) | exact SameO.none | apply SameO.some | apply SameO.ite | split
    | (apply Same.snd; assumption) | (apply SameO.get; assumption)

theorem coalesce_same {m : Nat} {z t : State} (hk : Same m z t) (h : 0xc0 ||| m = m) (q : Nat) :
    Same m z (State.coalesce t q) := by
  unfold State.coalesce
  dsimp only
  repeat' with_reducible first
    | exact hk | assumption | apply Same.ite | apply modQueue_same (h := up h rfl)
    | apply askMsix_same (h := up h rfl)

theorem writeEntry_same {m : Nat} {z t : State} (hk : Same m z t) (h : 0x39080289cf0 ||| m = m) (q : Nat) :
    Same m z (State.writeEntry t q) := by
  unfold State.writeEntry
  dsimp only
  repeat' with_reducible first
    | exact hk | assumption | apply Same.ite | apply Same.ite2 | apply meetContext_same (h := up h rfl)
    | apply sendWrite_same (h := up h rfl) | apply modQueue_same (h := up h rfl) | apply carry1_same (h := up h rfl)
    | apply coalesce_same (h := up h rfl) | apply entryGone_same (h := up h rfl) | split
    | (apply Same.snd; assumption)

theorem execQueueCreate_same {m : Nat} {z t : State} (hk : Same m z t) (h : 0x800001d0 ||| m = m) (q : Nat) :
    SameX m z (execQueueCreate q t) := by
  unfold execQueueCreate
  repeat' with_reducible first
    | exact hk | assumption | apply Same.ite | apply holdRequest_same (h := up h rfl)
    | apply createQueue_same (h := up h rfl) | apply SameX.next | split

theorem execQueueDelete_same {m : Nat} {z t : State} (hk : Same m z t) (h : 0x439e9c6ffdd0 ||| m = m) (q : Nat) :
    SameX m z (execQueueDelete q t) := by
  unfold execQueueDelete
  repeat' with_reducible first
    | exact hk | assumption | apply Same.ite | apply holdRequest_same (h := up h rfl)
    | apply deleteQueue_same (h := up h rfl) | apply SameX.next | split

theorem execSqTailDoorbell_same {m : Nat} {z t : State} (hk : Same m z t) (h : 0x800000d0 ||| m = m) (q : Nat) (val : Word) :
    SameX m z (execSqTailDoorbell q val t) := by
  unfold execSqTailDoorbell
  repeat' with_reducible first
    | exact hk | assumption | apply Same.ite | apply holdRequest_same (h := up h rfl)
    | apply sqDoorbell_same (h := up h rfl) | apply SameX.next | split

theorem execCqHeadDoorbell_same {m : Nat} {z t : State} (hk : Same m z t) (h : 0x800000d0 ||| m = m) (q : Nat) (val : Word) :
    SameX m z (execCqHeadDoorbell q val t) := by
  unfold execCqHeadDoorbell
  repeat' with_reducible first
    | exact hk | assumption | apply Same.ite | apply holdRequest_same (h := up h rfl)
    | apply cqDoorbell_same (h := up h rfl) | apply SameX.next | split

theorem execPushWindowWrite_same {m : Nat} {z t : State} (hk : Same m z t) (h : 0x38080000150 ||| m = m) (w : Nat) (off : Nat) (data : List Byte) :
    SameX m z (execPushWindowWrite w off data t) := by
  unfold execPushWindowWrite
  repeat' with_reducible first
    | exact hk | assumption | apply Same.ite | apply holdRequest_same (h := up h rfl)
    | apply pushWrite_same (h := up h rfl) | apply violate_same (h := up h rfl) | apply raise_same (h := up h rfl)
    | exact SameO.none | apply SameO.some | apply SameO.ite | apply SameX.next | split | (apply Same.snd; assumption)
    | (apply SameO.get; assumption)

end Sys2Proof.Machine
end

