-- ==== Sys2Proof/Laws/Frames/Dma.lean ====
section
/-! SUPPORT. Which fields the operations of `Machine/Dma.lean` may change. -/

namespace Sys2Proof.Machine
open Sys2Proof

theorem dmaGate_same {m : Nat} {z t : State} (hk : Same m z t) (h : 0x10000000 ||| m = m) (g : Nat) :
    Same m z (State.dmaGate t g) := by
  unfold State.dmaGate
  dsimp only
  repeat' with_reducible first
    | exact hk | assumption | apply Same.ite | apply setDmaChan_same (h := up h rfl)

theorem dmaHold_same {m : Nat} {z t : State} (hk : Same m z t) (h : 0x10000000 ||| m = m) (g : Nat) :
    Same m z (State.dmaHold t g) := by
  unfold State.dmaHold
  dsimp only
  repeat' with_reducible first
    | exact hk | assumption | apply Same.ite | apply setDmaChan_same (h := up h rfl)

theorem dmaBme_same {m : Nat} {z t : State} (hk : Same m z t) (h : 0x10000000 ||| m = m) :
    Same m z (State.dmaBme t) := by
  unfold State.dmaBme
  repeat' with_reducible first
    | exact hk | assumption | intro _ | apply Same.ite | apply Same.foldl | apply modDmaChan_same (h := up h rfl)
    | apply dmaGate_same (h := up h rfl) | apply dmaHold_same (h := up h rfl)

theorem dmaFault_same {m : Nat} {z t : State} (hk : Same m z t) (h : 0x10 ||| m = m) (g : Nat) (a : Nat) :
    Same m z (State.dmaFault t g a) := by
  unfold State.dmaFault
  repeat' with_reducible first
    | exact hk | assumption | apply setReg_same (h := up h rfl)

theorem dmaHalt_same {m : Nat} {z t : State} (hk : Same m z t) (h : 0x439e9c6ffcd0 ||| m = m) (g : Nat) (st : DmaStatus) :
    Same m z (State.dmaHalt t g st) := by
  unfold State.dmaHalt
  dsimp only
  repeat' with_reducible first
    | exact hk | assumption | apply Same.ite | apply modDmaChan_same (h := up h rfl)
    | apply stopTag_same (h := up h rfl) | apply setDmaChan_same (h := up h rfl) | apply raise_same (h := up h rfl)
    | split | (apply Same.snd; assumption)

theorem dmaError_same {m : Nat} {z t : State} (hk : Same m z t) (h : 0x439e9c6ffcd0 ||| m = m) (g : Nat) (kind : Nat) (dir : Nat) (a : Nat) :
    Same m z (State.dmaError t g kind dir a) := by
  unfold State.dmaError
  repeat' with_reducible first
    | exact hk | assumption | apply dmaFault_same (h := up h rfl) | apply modDmaChan_same (h := up h rfl)
    | apply dmaHalt_same (h := up h rfl)

theorem dmaBegin_same {m : Nat} {z t : State} (hk : Same m z t) (h : 0x439e9c6ffcd0 ||| m = m) (g : Nat) :
    Same m z (State.dmaBegin t g) := by
  unfold State.dmaBegin
  dsimp only
  repeat' with_reducible first
    | exact hk | assumption | apply Same.ite | apply modDmaChan_same (h := up h rfl)
    | apply dmaHalt_same (h := up h rfl) | apply dmaGate_same (h := up h rfl) | apply dmaHold_same (h := up h rfl)

theorem setDmaDesc_same {m : Nat} {z t : State} (hk : Same m z t) (h : 0x10 ||| m = m) (g : Nat) (a : Nat) :
    Same m z (State.setDmaDesc t g a) := by
  unfold State.setDmaDesc
  repeat' with_reducible first
    | exact hk | assumption | apply setReg_same (h := up h rfl)

theorem dmaReqError_same {m : Nat} {z t : State} (hk : Same m z t) (h : 0x10 ||| m = m) (g : Nat) :
    Same m z (State.dmaReqError t g) := by
  unfold State.dmaReqError
  repeat' with_reducible first
    | exact hk | assumption | apply setBit_same (h := up h rfl)

theorem dmaHop_same {m : Nat} {z t : State} (hk : Same m z t) (h : 0x439e9c6ffcd0 ||| m = m) (g : Nat) :
    Same m z (State.dmaHop t g) := by
  unfold State.dmaHop
  dsimp only
  repeat' with_reducible first
    | exact hk | assumption | apply Same.ite | apply dmaFault_same (h := up h rfl)
    | apply dmaHalt_same (h := up h rfl) | apply setDmaChan_same (h := up h rfl)

theorem dmaStart_same {m : Nat} {z t : State} (hk : Same m z t) (h : 0x439e9c6ffcd0 ||| m = m) (g : Nat) :
    Same m z (State.dmaStart t g) := by
  unfold State.dmaStart
  dsimp only
  repeat' with_reducible first
    | exact hk | assumption | apply Same.ite | apply dmaReqError_same (h := up h rfl)
    | apply setDmaChan_same (h := up h rfl) | apply modDmaChan_same (h := up h rfl)
    | apply dmaHold_same (h := up h rfl) | apply setDmaDesc_same (h := up h rfl) | apply dmaBegin_same (h := up h rfl)

theorem slotsGone_same {m : Nat} {z t : State} (hk : Same m z t) (h : 0x40000000 ||| m = m) (p : WheelPath) (n : Nat) :
    Same m z (State.slotsGone t p n) := by
  unfold State.slotsGone
  repeat' with_reducible first
    | exact hk | assumption | exact mayDiffer h rfl | exact fun _ => rfl | apply Same.lit

theorem putRecord_same {m : Nat} {z t : State} (hk : Same m z t) (h : 0x60000060 ||| m = m) (g : Nat) (k : Nat) (r : DmaRecord) :
    Same m z (State.putRecord t g k r) := by
  unfold State.putRecord
  dsimp only
  repeat' with_reducible first
    | exact hk | assumption | apply Same.ite | apply slotsGone_same (h := up h rfl)
    | apply sendWrite_same (h := up h rfl) | apply setRing_same (h := up h rfl) | apply carry1_same (h := up h rfl)
    | apply modRing_same (h := up h rfl) | apply askMsix_same (h := up h rfl)

theorem dmaCredit_same {m : Nat} {z t : State} (hk : Same m z t) (h : 0x10000000 ||| m = m) (g : Nat) :
    Same m z (State.dmaCredit t g) := by
  unfold State.dmaCredit
  repeat' with_reducible first
    | exact hk | assumption | apply modDmaChan_same (h := up h rfl) | apply dmaGate_same (h := up h rfl)
    | apply dmaHold_same (h := up h rfl)

theorem creditAll_same {m : Nat} {z t : State} (hk : Same m z t) (h : 0x10000000 ||| m = m) (e : Nat) (p : Nat → Bool) :
    Same m z (State.creditAll t e p) := by
  unfold State.creditAll
  repeat' with_reducible first
    | exact hk | assumption | intro _ | apply Same.foldl | apply dmaCredit_same (h := up h rfl)

theorem dmaNext_same {m : Nat} {z t : State} (hk : Same m z t) (h : 0x439e9c6ffcd0 ||| m = m) (g : Nat) (ended : Bool) :
    Same m z (State.dmaNext t g ended) := by
  unfold State.dmaNext
  dsimp only
  repeat' with_reducible first
    | exact hk | assumption | apply Same.ite | apply modDmaChan_same (h := up h rfl)
    | apply dmaHop_same (h := up h rfl) | apply dmaHold_same (h := up h rfl)

theorem dmaRecord_same {m : Nat} {z t : State} (hk : Same m z t) (h : 0x439efc6ffcf0 ||| m = m) (g : Nat) :
    Same m z (State.dmaRecord t g) := by
  unfold State.dmaRecord
  dsimp only
  repeat' with_reducible first
    | exact hk | assumption | apply Same.ite | apply dmaNext_same (h := up h rfl)
    | apply modDmaChan_same (h := up h rfl) | apply dmaHold_same (h := up h rfl)
    | apply putRecord_same (h := up h rfl) | split | (apply Same.snd; assumption)

theorem paceOthers_same {m : Nat} {z t : State} (hk : Same m z t) (h : 0x10000000 ||| m = m) (g : Nat) :
    Same m z (State.paceOthers t g) := by
  unfold State.paceOthers
  repeat' with_reducible first
    | exact hk | assumption | apply creditAll_same (h := up h rfl)

theorem dmaEnd_same {m : Nat} {z t : State} (hk : Same m z t) (h : 0x439efc6ffcf0 ||| m = m) (g : Nat) (st : DmaStatus) (aborted : Bool) :
    Same m z (State.dmaEnd t g st aborted) := by
  unfold State.dmaEnd
  dsimp only
  repeat' with_reducible first
    | exact hk | assumption | apply Same.ite | apply dropReads_same (h := up h rfl)
    | apply setDmaChan_same (h := up h rfl) | apply traceRec_same (h := up h rfl)
    | apply paceOthers_same (h := up h rfl) | apply modDmaChan_same (h := up h rfl)
    | apply dmaRecord_same (h := up h rfl) | apply dmaNext_same (h := up h rfl)

theorem dmaAbort_same {m : Nat} {z t : State} (hk : Same m z t) (h : 0x439efc6ffcf0 ||| m = m) (g : Nat) :
    Same m z (State.dmaAbort t g) := by
  unfold State.dmaAbort
  dsimp only
  repeat' with_reducible first
    | exact hk | assumption | apply Same.ite | apply dmaReqError_same (h := up h rfl)
    | apply dmaEnd_same (h := up h rfl) | apply setDmaChan_same (h := up h rfl) | split | (apply Same.snd; assumption)

theorem dmaStop_same {m : Nat} {z t : State} (hk : Same m z t) (h : 0x10000000 ||| m = m) (g : Nat) :
    Same m z (State.dmaStop t g) := by
  unfold State.dmaStop
  dsimp only
  repeat' with_reducible first
    | exact hk | assumption | apply Same.ite | apply setDmaChan_same (h := up h rfl)

theorem dmaResume_same {m : Nat} {z t : State} (hk : Same m z t) (h : 0x439e9c6ffcd0 ||| m = m) (g : Nat) :
    Same m z (State.dmaResume t g) := by
  unfold State.dmaResume
  dsimp only
  repeat' with_reducible first
    | exact hk | assumption | apply Same.ite | apply dmaReqError_same (h := up h rfl)
    | apply setDmaChan_same (h := up h rfl) | apply dmaHold_same (h := up h rfl) | apply dmaBegin_same (h := up h rfl)
    | split | (apply Same.snd; assumption)

theorem dmaWithdraw_same {m : Nat} {z t : State} (hk : Same m z t) (h : 0x10000000 ||| m = m) (g : Nat) :
    Same m z (State.dmaWithdraw t g) := by
  unfold State.dmaWithdraw
  repeat' with_reducible first
    | exact hk | assumption | apply modDmaChan_same (h := up h rfl) | apply dmaGate_same (h := up h rfl)

theorem forwardStream_same {m : Nat} {z t : State} (hk : Same m z t) (h : 0x39080030010 ||| m = m) (t' : Nat) (isMeta : Bool) (from0 : Nat) (to0 : Nat) :
    Same m z (State.forwardStream t t' isMeta from0 to0).2 := by
  unfold State.forwardStream
  dsimp only
  repeat' with_reducible first
    | exact hk | assumption | apply Same.ite | apply Same.ite2 | apply framePage_same (h := up h rfl) | split
    | (apply Same.snd; assumption)

theorem readPieces_same {m : Nat} {z t : State} (hk : Same m z t) (h : 0x39080030010 ||| m = m) (b : Burst) (l : List (Nat × Nat × Nat × Bool)) :
    Same m z (State.readPieces t b l).2 := by
  unfold State.readPieces
  dsimp only
  repeat' with_reducible first
    | exact hk | assumption | intro _ | apply Same.foldl | apply Same.foldl2 | apply frameRead_same (h := up h rfl)

theorem burstSource_same {m : Nat} {z t : State} (hk : Same m z t) (h : 0x39080030010 ||| m = m) (g : Nat) (b : Burst) :
    Same m z (State.burstSource t g b).2 := by
  unfold State.burstSource
  refine Same.ite2 ?_ ?_
  · split
    · exact forwardStream_same hk (up h rfl) _ _ _ _
    · exact Same.mk2 hk
  · exact Same.mk2 (readPieces_same hk (up h rfl) _ _)

theorem boundary_same {m : Nat} {z t : State} (hk : Same m z t) (h : 0x439efc6ffcf0 ||| m = m) (g : Nat) :
    Same m z (State.boundary t g) := by
  unfold State.boundary
  repeat' with_reducible first
    | exact hk | assumption | apply Same.ite | apply Same.ite2 | apply abortIfPending_same (h := up h rfl)
    | apply dmaEnd_same (h := up h rfl) | split | (apply Same.snd; assumption)

theorem deliverBurst_same {m : Nat} {z t : State} (hk : Same m z t) (h : 0x439efc6ffcf0 ||| m = m) (g : Nat) (b : Burst) :
    Same m z (State.deliverBurst t g b) := by
  unfold State.deliverBurst
  dsimp only
  repeat' with_reducible first
    | exact hk | assumption | apply burstSource_same (h := up h rfl) | apply frameWriteMarked_same (h := up h rfl)
    | apply sendWrite_same (h := up h rfl) | apply modDmaChan_same (h := up h rfl)
    | apply boundary_same (h := up h rfl) | apply dmaGate_same (h := up h rfl) | apply dmaHold_same (h := up h rfl)
    | split | (apply Same.snd; assumption)

theorem dmaBurst_same {m : Nat} {z t : State} (hk : Same m z t) (h : 0x439efc6ffcf0 ||| m = m) (g : Nat) :
    Same m z (State.dmaBurst t g) := by
  unfold State.dmaBurst
  dsimp only
  repeat' with_reducible first
    | exact hk | assumption | apply Same.ite | apply Same.ite2 | apply setDmaChan_same (h := up h rfl)
    | apply issueRead_same (h := up h rfl) | apply dmaHalt_same (h := up h rfl)
    | apply deliverBurst_same (h := up h rfl) | split | (apply Same.snd; assumption)

theorem dmaLoad_same {m : Nat} {z t : State} (hk : Same m z t) (h : 0x10000040 ||| m = m) (g : Nat) :
    Same m z (State.dmaLoad t g) := by
  unfold State.dmaLoad
  dsimp only
  repeat' with_reducible first
    | exact hk | assumption | apply Same.ite | apply setDmaChan_same (h := up h rfl)
    | apply issueRead_same (h := up h rfl) | split | (apply Same.snd; assumption)

theorem descArrive_same {m : Nat} {z t : State} (hk : Same m z t) (h : 0x439e9c6ffcd0 ||| m = m) (g : Nat) (a : Addr) (data : List Byte) :
    Same m z (State.descArrive t g a data) := by
  unfold State.descArrive
  dsimp only
  repeat' with_reducible first
    | exact hk | assumption | intro _ | apply Same.foldl | apply setReg_same (h := up h rfl)
    | apply setDmaDesc_same (h := up h rfl) | apply modDmaChan_same (h := up h rfl)
    | apply dmaBegin_same (h := up h rfl)

theorem listArrive_same {m : Nat} {z t : State} (hk : Same m z t) (h : 0x439e9c6ffcd0 ||| m = m) (g : Nat) (a : Addr) (data : List Byte) :
    Same m z (State.listArrive t g a data) := by
  unfold State.listArrive
  dsimp only
  repeat' with_reducible first
    | exact hk | assumption | apply Same.ite | apply modDmaChan_same (h := up h rfl)
    | apply dmaHalt_same (h := up h rfl) | apply dmaHop_same (h := up h rfl)

theorem dataArrive_same {m : Nat} {z t : State} (hk : Same m z t) (h : 0x10000000 ||| m = m) (g : Nat) (p : Nat) (data : List Byte) (marks : List Bool) :
    Same m z (State.dataArrive t g p data marks) := by
  unfold State.dataArrive
  repeat' with_reducible first
    | exact hk | assumption | apply modDmaChan_same (h := up h rfl)

theorem dataFail_same {m : Nat} {z t : State} (hk : Same m z t) (h : 0x439e9c6ffcd0 ||| m = m) (g : Nat) (p : Nat) (r : Req) :
    Same m z (State.dataFail t g p r) := by
  unfold State.dataFail
  dsimp only
  repeat' with_reducible first
    | exact hk | assumption | apply Same.ite | apply modDmaChan_same (h := up h rfl)
    | apply dmaError_same (h := up h rfl)

theorem dmaComplete_same {m : Nat} {z t : State} (hk : Same m z t) (h : 0x439e9c6ffcd0 ||| m = m) (r : Req) (data : List Byte) (marks : List Bool) :
    Same m z (State.dmaComplete t r data marks) := by
  unfold State.dmaComplete
  repeat' with_reducible first
    | exact hk | assumption | apply dataArrive_same (h := up h rfl) | apply descArrive_same (h := up h rfl)
    | apply listArrive_same (h := up h rfl) | apply dmaHold_same (h := up h rfl) | split
    | (apply Same.snd; assumption)

theorem dmaFail_same {m : Nat} {z t : State} (hk : Same m z t) (h : 0x439e9c6ffcd0 ||| m = m) (r : Req) :
    Same m z (State.dmaFail t r) := by
  unfold State.dmaFail
  repeat' with_reducible first
    | exact hk | assumption | apply dataFail_same (h := up h rfl) | apply dmaError_same (h := up h rfl) | split
    | (apply Same.snd; assumption)

theorem runPhase_same {m : Nat} {z t : State} (hk : Same m z t) (h : 0x439e9c6ffcd0 ||| m = m) (g : Nat) (t' : Nat) (isMeta : Bool) :
    Same m z (State.runPhase t g t' isMeta) := by
  unfold State.runPhase
  dsimp only
  repeat' with_reducible first
    | exact hk | assumption | intro _ | apply Same.foldl | apply setReg_same (h := up h rfl)
    | apply setDmaDesc_same (h := up h rfl) | apply modDmaChan_same (h := up h rfl)
    | apply dmaBegin_same (h := up h rfl)

theorem rawTaken_same {m : Nat} {z t : State} (hk : Same m z t) (h : 0x409200037010 ||| m = m) (t' : Nat) :
    Same m z (State.rawTaken t t') := by
  unfold State.rawTaken
  repeat' with_reducible first
    | exact hk | assumption | intro _ | apply Same.foldl | apply Same.foldl2 | apply endWork_same (h := up h rfl)

theorem startPhase_same {m : Nat} {z t : State} (hk : Same m z t) (h : 0x439e9c6ffcd0 ||| m = m) (e : Nat) :
    Same m z (State.startPhase t e) := by
  unfold State.startPhase
  repeat' with_reducible first
    | exact hk | assumption | apply Same.ite | apply Same.ite2 | apply rawTaken_same (h := up h rfl)
    | apply modDmaChan_same (h := up h rfl) | apply modTag_same (h := up h rfl) | apply runPhase_same (h := up h rfl)
    | split | (apply Same.snd; assumption)

theorem phaseDone_same {m : Nat} {z t : State} (hk : Same m z t) (h : 0x39a8c6f9c90 ||| m = m) (t' : Nat) :
    Same m z (State.phaseDone t t') := by
  unfold State.phaseDone
  dsimp only
  repeat' with_reducible first
    | exact hk | assumption | apply Same.ite | apply modTag_same (h := up h rfl) | apply finish_same (h := up h rfl)
    | apply tagTo_same (h := up h rfl)

theorem endPhase_same {m : Nat} {z t : State} (hk : Same m z t) (h : 0x439e9c6ffcd0 ||| m = m) (g : Nat) :
    Same m z (State.endPhase t g) := by
  unfold State.endPhase
  dsimp only
  repeat' with_reducible first
    | exact hk | assumption | apply Same.ite | apply traceRec_same (h := up h rfl)
    | apply modDmaChan_same (h := up h rfl) | apply paceOthers_same (h := up h rfl)
    | apply modTag_same (h := up h rfl) | apply runPhase_same (h := up h rfl) | apply stopTag_same (h := up h rfl)
    | apply phaseDone_same (h := up h rfl) | split | (apply Same.snd; assumption)

theorem endDesc_same {m : Nat} {z t : State} (hk : Same m z t) (h : 0x439efc6ffcf0 ||| m = m) (g : Nat) :
    Same m z (State.endDesc t g) := by
  unfold State.endDesc
  dsimp only
  repeat' with_reducible first
    | exact hk | assumption | apply Same.ite | apply dmaEnd_same (h := up h rfl)

theorem engCfgWrite_same {m : Nat} {z t : State} (hk : Same m z t) (h : 0x10 ||| m = m) (e : Nat) (v : Word) :
    Same m z (State.engCfgWrite t e v) := by
  unfold State.engCfgWrite
  dsimp only
  repeat' with_reducible first
    | exact hk | assumption | apply Same.ite | apply setFld_same (h := up h rfl) | apply setBit_same (h := up h rfl)

theorem ringHeadWrite_same {m : Nat} {z t : State} (hk : Same m z t) (h : 0x10 ||| m = m) (k : Nat) (v : Word) :
    Same m z (State.ringHeadWrite t k v) := by
  unfold State.ringHeadWrite
  repeat' with_reducible first
    | exact hk | assumption | apply Same.ite | apply setReg_same (h := up h rfl) | apply setBit_same (h := up h rfl)

theorem ringCfgWrite_same {m : Nat} {z t : State} (hk : Same m z t) (h : 0x20000010 ||| m = m) (k : Nat) (v : Word) :
    Same m z (State.ringCfgWrite t k v) := by
  unfold State.ringCfgWrite
  dsimp only
  repeat' with_reducible first
    | exact hk | assumption | apply Same.ite | apply setReg_same (h := up h rfl) | apply setBit_same (h := up h rfl)
    | apply setRing_same (h := up h rfl)

theorem offlineWrite_same {m : Nat} {z t : State} (hk : Same m z t) (h : 0x10 ||| m = m) (e : Nat) (hi : Bool) (v : Word) :
    Same m z (State.offlineWrite t e hi v) := by
  unfold State.offlineWrite
  dsimp only
  repeat' with_reducible first
    | exact hk | assumption | intro _ | apply Same.ite | apply Same.foldl | apply setArrBit_same (h := up h rfl)
    | apply setBit_same (h := up h rfl)

theorem execDmaStart_same {m : Nat} {z t : State} (hk : Same m z t) (h : 0x439e9c6ffcd0 ||| m = m) (e : Nat) (c : Nat) :
    SameX m z (execDmaStart e c t) := by
  unfold execDmaStart
  repeat' with_reducible first
    | exact hk | assumption | apply Same.ite | apply holdRequest_same (h := up h rfl)
    | apply dmaStart_same (h := up h rfl) | apply SameX.next | split

theorem execDmaStop_same {m : Nat} {z t : State} (hk : Same m z t) (h : 0x90000050 ||| m = m) (e : Nat) (c : Nat) :
    SameX m z (execDmaStop e c t) := by
  unfold execDmaStop
  repeat' with_reducible first
    | exact hk | assumption | apply Same.ite | apply holdRequest_same (h := up h rfl)
    | apply dmaStop_same (h := up h rfl) | apply SameX.next | split

theorem execDmaAbort_same {m : Nat} {z t : State} (hk : Same m z t) (h : 0x439efc6ffcf0 ||| m = m) (e : Nat) (c : Nat) :
    SameX m z (execDmaAbort e c t) := by
  unfold execDmaAbort
  repeat' with_reducible first
    | exact hk | assumption | apply Same.ite | apply holdRequest_same (h := up h rfl)
    | apply dmaAbort_same (h := up h rfl) | apply SameX.next | split

theorem execDmaResume_same {m : Nat} {z t : State} (hk : Same m z t) (h : 0x439e9c6ffcd0 ||| m = m) (e : Nat) (c : Nat) :
    SameX m z (execDmaResume e c t) := by
  unfold execDmaResume
  repeat' with_reducible first
    | exact hk | assumption | apply Same.ite | apply holdRequest_same (h := up h rfl)
    | apply dmaResume_same (h := up h rfl) | apply SameX.next | split

theorem execPacingWithdraw_same {m : Nat} {z t : State} (hk : Same m z t) (h : 0x90000050 ||| m = m) (e : Nat) (c : Nat) :
    SameX m z (execPacingWithdraw e c t) := by
  unfold execPacingWithdraw
  repeat' with_reducible first
    | exact hk | assumption | apply Same.ite | apply holdRequest_same (h := up h rfl)
    | apply dmaWithdraw_same (h := up h rfl) | apply SameX.next | split

theorem execPacketChannelsWrite_same {m : Nat} {z t : State} (hk : Same m z t) (h : 0x80000050 ||| m = m) (e : Nat) (val : Word) :
    SameX m z (execPacketChannelsWrite e val t) := by
  unfold execPacketChannelsWrite
  repeat' with_reducible first
    | exact hk | assumption | apply Same.ite | apply holdRequest_same (h := up h rfl)
    | apply engCfgWrite_same (h := up h rfl) | apply SameX.next | split

theorem execRingHeadWrite_same {m : Nat} {z t : State} (hk : Same m z t) (h : 0x80000050 ||| m = m) (k : Nat) (val : Word) :
    SameX m z (execRingHeadWrite k val t) := by
  unfold execRingHeadWrite
  repeat' with_reducible first
    | exact hk | assumption | apply Same.ite | apply holdRequest_same (h := up h rfl)
    | apply ringHeadWrite_same (h := up h rfl) | apply SameX.next | split

theorem execRingEnable_same {m : Nat} {z t : State} (hk : Same m z t) (h : 0xa0000050 ||| m = m) (k : Nat) (val : Word) :
    SameX m z (execRingEnable k val t) := by
  unfold execRingEnable
  repeat' with_reducible first
    | exact hk | assumption | apply Same.ite | apply holdRequest_same (h := up h rfl)
    | apply ringCfgWrite_same (h := up h rfl) | apply SameX.next | split

theorem execDmaOfflineWrite_same {m : Nat} {z t : State} (hk : Same m z t) (h : 0x80000050 ||| m = m) (e : Nat) (hi : Bool) (val : Word) :
    SameX m z (execDmaOfflineWrite e hi val t) := by
  unfold execDmaOfflineWrite
  repeat' with_reducible first
    | exact hk | assumption | apply Same.ite | apply holdRequest_same (h := up h rfl)
    | apply offlineWrite_same (h := up h rfl) | apply SameX.next | split

end Sys2Proof.Machine
end

