-- ==== Sys2Proof/Laws/Frames/Sched.lean ====
section
/-! SUPPORT. Which fields the operations of `Machine/Sched.lean` may change. -/

namespace Sys2Proof.Machine
open Sys2Proof

theorem busJob_same {m : Nat} {z t : State} (hk : Same m z t) (h : 0x400000004000 ||| m = m) (n : Nat) (e : Nat) (args : List Word) (work : Option Nat) (lun : Nat) (run : Bool) (cycles : List BusCycle) :
    Same m z (State.busJob t n e args work lun run cycles) := by
  unfold State.busJob
  dsimp only
  repeat' with_reducible first
    | exact hk | assumption | exact mayDiffer h rfl | exact fun _ => rfl | apply Same.ite
    | apply modChan_same (h := up h rfl) | apply Same.lit

theorem busEnds_same {m : Nat} {z t : State} (hk : Same m z t) (h : 0x4000 ||| m = m) (n : Nat) :
    Same m z (State.busEnds t n) := by
  unfold State.busEnds
  repeat' with_reducible first
    | exact hk | assumption | apply Same.ite | apply modChan_same (h := up h rfl)

theorem traceJob_same {m : Nat} {z t : State} (hk : Same m z t) (h : 0x8000000010 ||| m = m) (n : Nat) (order : Nat) (entry : Nat) (lun : Nat) (tag : Option Nat) :
    Same m z (State.traceJob t n order entry lun tag) := by
  unfold State.traceJob
  repeat' with_reducible first
    | exact hk | assumption | apply traceRec_same (h := up h rfl)

theorem workOffsets_same {m : Nat} {z t : State} (hk : Same m z t) (h : 0x39080000010 ||| m = m) (w : Work) :
    Same m z (State.workOffsets t w).2 := by
  unfold State.workOffsets
  dsimp only
  repeat' with_reducible first
    | exact hk | assumption | apply Same.ite | apply Same.ite2 | apply attemptOffsets_same (h := up h rfl) | split
    | (apply Same.snd; assumption)

theorem ask_same {m : Nat} {z t : State} (hk : Same m z t) (h : 0x138200001010 ||| m = m) (n : Nat) (l : Nat) :
    Same m z (State.ask t n l) := by
  unfold State.ask
  dsimp only
  repeat' with_reducible first
    | exact hk | assumption | intro _ | apply Same.ite | apply Same.foldl | apply askAdmission_same (h := up h rfl)
    | apply modWork_same (h := up h rfl) | split | (apply Same.snd; assumption)

theorem issueTag_same {m : Nat} {z t : State} (hk : Same m z t) (h : 0x8000000410 ||| m = m) (w : Work) :
    Same m z (State.issueTag t w) := by
  unfold State.issueTag
  dsimp only
  repeat' with_reducible first
    | exact hk | assumption | apply Same.ite | apply tagTo_same (h := up h rfl) | split | (apply Same.snd; assumption)

theorem setLevels_same {m : Nat} {z t : State} (hk : Same m z t) (h : 0x439080007410 ||| m = m) (n : Nat) :
    Same m z (State.setLevels t n) := by
  unfold State.setLevels
  dsimp only
  repeat' with_reducible first
    | exact hk | assumption | apply Same.ite | apply Same.ite2 | apply workOffsets_same (h := up h rfl)
    | apply traceJob_same (h := up h rfl) | apply busJob_same (h := up h rfl) | apply modLun_same (h := up h rfl)
    | apply modWork_same (h := up h rfl) | apply issueTag_same (h := up h rfl) | split | (apply Same.snd; assumption)

theorem readPassed_same {m : Nat} {z t : State} (hk : Same m z t) (h : 0x1000 ||| m = m) (n : Nat) (l : Nat) (k : Nat) :
    Same m z (State.readPassed t n l k) := by
  unfold State.readPassed
  dsimp only
  repeat' with_reducible first
    | exact hk | assumption | exact mayDiffer h rfl | exact fun _ => rfl | apply Same.ite | apply Same.ite2
    | apply Same.lit

theorem readsStart_same {m : Nat} {z t : State} (hk : Same m z t) (h : 0x3000 ||| m = m) (n : Nat) (l : Nat) (k : Nat) :
    Same m z (State.readsStart t n l k) := by
  unfold State.readsStart
  repeat' with_reducible first
    | exact hk | assumption | apply readPassed_same (h := up h rfl) | apply modLun_same (h := up h rfl)

theorem issueFlashRead_same {m : Nat} {z t : State} (hk : Same m z t) (h : 0x439a82807410 ||| m = m) (n : Nat) :
    Same m z (State.issueFlashRead t n) := by
  unfold State.issueFlashRead
  dsimp only
  repeat' with_reducible first
    | exact hk | assumption | exact mayDiffer h rfl | exact fun _ => rfl | intro _ | apply Same.ite | apply Same.ite2
    | apply Same.foldl | apply Same.foldl2 | apply traceJob_same (h := up h rfl) | apply busJob_same (h := up h rfl)
    | apply joinGrants_same (h := up h rfl) | apply modWork_same (h := up h rfl) | apply issueTag_same (h := up h rfl)
    | apply ledgerRead_same (h := up h rfl) | apply readsStart_same (h := up h rfl)
    | apply modLun_same (h := up h rfl) | split | (apply Same.snd; assumption) | apply Same.lit

theorem pollsDue_same {m : Nat} {z t : State} (hk : Same m z t) (h : 0x2000 ||| m = m) (n : Nat) (t' : Nat) (rise : Bool) :
    Same m z (State.pollsDue t n t' rise) := by
  unfold State.pollsDue
  dsimp only
  repeat' with_reducible first
    | exact hk | assumption | intro _ | apply Same.foldl | apply setLun_same (h := up h rfl) | split
    | (apply Same.snd; assumption)

theorem suspendLun_same {m : Nat} {z t : State} (hk : Same m z t) (h : 0x438000006010 ||| m = m) (n : Nat) (kind : WorkKind) :
    Same m z (State.suspendLun t n kind) := by
  unfold State.suspendLun
  dsimp only
  repeat' with_reducible first
    | exact hk | assumption | apply Same.ite | apply traceJob_same (h := up h rfl) | apply busJob_same (h := up h rfl)
    | apply modLun_same (h := up h rfl) | apply count_same (h := up h rfl) | split | (apply Same.snd; assumption)

theorem suspendedLun_same {m : Nat} {z t : State} (hk : Same m z t) (h : 0x138200003010 ||| m = m) (n : Nat) (l : Nat) :
    Same m z (State.suspendedLun t n l) := by
  unfold State.suspendedLun
  dsimp only
  repeat' with_reducible first
    | exact hk | assumption | intro _ | apply Same.ite | apply Same.foldl | apply releaseOp_same (h := up h rfl)
    | apply modWork_same (h := up h rfl) | apply modLun_same (h := up h rfl) | apply askAdmission_same (h := up h rfl)
    | split | (apply Same.snd; assumption)

theorem resumeLun_same {m : Nat} {z t : State} (hk : Same m z t) (h : 0x408000006010 ||| m = m) (n : Nat) :
    Same m z (State.resumeLun t n) := by
  unfold State.resumeLun
  dsimp only
  repeat' with_reducible first
    | exact hk | assumption | apply traceJob_same (h := up h rfl) | apply busJob_same (h := up h rfl)
    | apply modLun_same (h := up h rfl) | split | (apply Same.snd; assumption)

theorem programBytes_same {m : Nat} {z t : State} (hk : Same m z t) (h : 0x39080030010 ||| m = m) (w : Work) (col : Nat) (n : Nat) :
    Same m z (State.programBytes t w col n).2 := by
  unfold State.programBytes
  dsimp only
  repeat' with_reducible first
    | exact hk | assumption | apply Same.ite | apply Same.ite2 | apply frameRead_same (h := up h rfl)
    | apply framePage_same (h := up h rfl) | split | (apply Same.snd; assumption)

theorem startData_same {m : Nat} {z t : State} (hk : Same m z t) (h : 0x408000004410 ||| m = m) (n : Nat) (resume : Bool) (id : Nat) (w : Work) :
    Same m z (State.startData t n resume id w) := by
  unfold State.startData
  dsimp only
  repeat' with_reducible first
    | exact hk | assumption | apply Same.ite | apply traceJob_same (h := up h rfl) | apply busJob_same (h := up h rfl)
    | apply issueTag_same (h := up h rfl)

theorem moveData_same {m : Nat} {z t : State} (hk : Same m z t) (h : 0x38000007010 ||| m = m) (n : Nat) (id : Nat) (w : Work) (stop : Nat) (data : List Byte) :
    Same m z (State.moveData t n id w stop data) := by
  unfold State.moveData
  dsimp only
  repeat' with_reducible first
    | exact hk | assumption | apply Same.ite | apply count_same (h := up h rfl) | apply modChan_same (h := up h rfl)
    | apply modWork_same (h := up h rfl) | apply modLun_same (h := up h rfl)

theorem eraseLun_same {m : Nat} {z t : State} (hk : Same m z t) (h : 0x408000007410 ||| m = m) (n : Nat) :
    Same m z (State.eraseLun t n) := by
  unfold State.eraseLun
  dsimp only
  repeat' with_reducible first
    | exact hk | assumption | apply Same.ite | apply traceJob_same (h := up h rfl) | apply busJob_same (h := up h rfl)
    | apply modChan_same (h := up h rfl) | apply issueTag_same (h := up h rfl) | apply modWork_same (h := up h rfl)
    | apply modLun_same (h := up h rfl) | split | (apply Same.snd; assumption)

theorem holdClear_same {m : Nat} {z t : State} (hk : Same m z t) (h : 0x2000 ||| m = m) (n : Nat) (v : Word) :
    Same m z (State.holdClear t n v) := by
  unfold State.holdClear
  repeat' with_reducible first
    | exact hk | assumption | intro _ | apply Same.foldl | apply modLun_same (h := up h rfl)

theorem execLunHoldClear_same {m : Nat} {z t : State} (hk : Same m z t) (h : 0x80002050 ||| m = m) (ch : Nat) (val : Word) :
    SameX m z (execLunHoldClear ch val t) := by
  unfold execLunHoldClear
  repeat' with_reducible first
    | exact hk | assumption | apply Same.ite | apply holdRequest_same (h := up h rfl)
    | apply holdClear_same (h := up h rfl) | apply SameX.next | split

end Sys2Proof.Machine
end

