-- ==== Sys2Proof/Laws/Frames/Stripe.lean ====
section
/-! SUPPORT. Which fields the operations of `Machine/Stripe.lean` may change. -/

namespace Sys2Proof.Machine
open Sys2Proof

theorem fetchSd_same {m : Nat} {z t : State} (hk : Same m z t) (h : 0x40 ||| m = m) (t' : Nat) :
    Same m z (State.fetchSd t t') := by
  unfold State.fetchSd
  dsimp only
  repeat' with_reducible first
    | exact hk | assumption | apply Same.ite | apply issueRead_same (h := up h rfl)

theorem releaseAcc_same {m : Nat} {z t : State} (hk : Same m z t) (h : 0x380802c9410 ||| m = m) (k : Nat) :
    Same m z (State.releaseAcc t k) := by
  unfold State.releaseAcc
  dsimp only
  repeat' with_reducible first
    | exact hk | assumption | exact mayDiffer h rfl | exact fun _ => rfl | intro _ | apply Same.ite | apply Same.ite2
    | apply Same.foldl | apply Same.foldl2 | apply setAcc_same (h := up h rfl) | apply modTag_same (h := up h rfl)
    | apply settle_same (h := up h rfl) | apply freeF_same (h := up h rfl) | split | (apply Same.snd; assumption)
    | apply Same.lit

theorem zeroWords_same {m : Nat} {z t : State} (hk : Same m z t) (h : 0x30000 ||| m = m) (f : Nat) :
    Same m z (State.zeroWords t f) := by
  unfold State.zeroWords
  dsimp only
  repeat' with_reducible first
    | exact hk | assumption | exact mayDiffer h rfl | exact fun _ => rfl | apply Same.lit

theorem zeroFrame_same {m : Nat} {z t : State} (hk : Same m z t) (h : 0x38000 ||| m = m) (f : Nat) :
    Same m z (State.zeroFrame t f) := by
  unfold State.zeroFrame
  repeat' with_reducible first
    | exact hk | assumption | apply takeFrame_same (h := up h rfl) | apply zeroWords_same (h := up h rfl)

theorem openAcc_same {m : Nat} {z t : State} (hk : Same m z t) (h : 0x439e9c6ffcd0 ||| m = m) (t' : Nat) (k : Nat) (d : Descriptor) :
    Same m z (State.openAcc t t' k d) := by
  unfold State.openAcc
  dsimp only
  repeat' with_reducible first
    | exact hk | assumption | apply Same.ite | apply stopTag_same (h := up h rfl)
    | apply zeroFrame_same (h := up h rfl) | apply setAcc_same (h := up h rfl) | apply count_same (h := up h rfl)
    | apply finish_same (h := up h rfl) | split | (apply Same.snd; assumption)

theorem setMember_same {m : Nat} {z t : State} (hk : Same m z t) (h : 0x400 ||| m = m) (t' : Nat) (i : Nat) (o : MemberOutcome) :
    Same m z (State.setMember t t' i o) := by
  unfold State.setMember
  repeat' with_reducible first
    | exact hk | assumption | apply modTag_same (h := up h rfl)

theorem addMember_same {m : Nat} {z t : State} (hk : Same m z t) (h : 0x339880409410 ||| m = m) (t' : Nat) (d : Descriptor) (i : Nat) :
    Same m z (State.addMember t t' d i) := by
  unfold State.addMember
  dsimp only
  repeat' with_reducible first
    | exact hk | assumption | apply Same.ite | apply Same.ite2 | apply tick_same (h := up h rfl)
    | apply addWork_same (h := up h rfl) | apply count_same (h := up h rfl) | apply wakeForwards_same (h := up h rfl)
    | apply fixLevels_same (h := up h rfl) | apply grantFrames_same (h := up h rfl) | split
    | (apply Same.snd; assumption)

theorem endMembers_same {m : Nat} {z t : State} (hk : Same m z t) (h : 0x439a8c6ffc90 ||| m = m) (t' : Nat) (keep : List Nat) :
    Same m z (State.endMembers t t' keep) := by
  unfold State.endMembers
  dsimp only
  repeat' with_reducible first
    | exact hk | assumption | intro _ | apply Same.ite | apply Same.foldl | apply endWork_same (h := up h rfl)
    | apply freeWorkFrame_same (h := up h rfl) | split | (apply Same.snd; assumption)

theorem assemble_same {m : Nat} {z t : State} (hk : Same m z t) (h : 0x9400 ||| m = m) (t' : Nat) (r : Rebuild) (need : Nat) :
    Same m z (State.assemble t t' r need) := by
  unfold State.assemble
  dsimp only
  repeat' with_reducible first
    | exact hk | assumption | apply Same.ite | apply modTag_same (h := up h rfl)
    | apply grantFrames_same (h := up h rfl)

theorem rebuildFails_same {m : Nat} {z t : State} (hk : Same m z t) (h : 0x439e9c6ffcd0 ||| m = m) (t' : Nat) :
    Same m z (State.rebuildFails t t') := by
  unfold State.rebuildFails
  dsimp only
  repeat' with_reducible first
    | exact hk | assumption | apply Same.ite | apply stopTag_same (h := up h rfl) | split
    | (apply Same.snd; assumption)

theorem rebuildDone_same {m : Nat} {z t : State} (hk : Same m z t) (h : 0x439a8c6ffc90 ||| m = m) (t' : Nat) (payload : List Byte) :
    Same m z (State.rebuildDone t t' payload) := by
  unfold State.rebuildDone
  dsimp only
  repeat' with_reducible first
    | exact hk | assumption | intro _ | apply Same.ite | apply Same.foldl | apply freeF_same (h := up h rfl)
    | apply frameWrite_same (h := up h rfl) | apply putPayload_same (h := up h rfl)
    | apply endMembers_same (h := up h rfl) | apply modTag_same (h := up h rfl) | apply modFrame_same (h := up h rfl)
    | apply tagTo_same (h := up h rfl) | split | (apply Same.snd; assumption)

theorem solveEnd_same {m : Nat} {z t : State} (hk : Same m z t) (h : 0x439e9c6ffcd0 ||| m = m) (t' : Nat) :
    Same m z (State.solveEnd t t') := by
  unfold State.solveEnd
  dsimp only
  repeat' with_reducible first
    | exact hk | assumption | apply Same.ite | apply rebuildDone_same (h := up h rfl)
    | apply rebuildFails_same (h := up h rfl) | split | (apply Same.snd; assumption)

theorem rebuildSweep_same {m : Nat} {z t : State} (hk : Same m z t) (h : 0x439e9c6ffcd0 ||| m = m) :
    Same m z (State.rebuildSweep t) := by
  unfold State.rebuildSweep
  repeat' with_reducible first
    | exact hk | assumption | intro _ | apply Same.foldl | apply Same.foldl2 | apply solveEnd_same (h := up h rfl)
    | split | (apply Same.snd; assumption)

theorem rebuildCheck_same {m : Nat} {z t : State} (hk : Same m z t) (h : 0x439e9c6ffcd0 ||| m = m) (t' : Nat) :
    Same m z (State.rebuildCheck t t') := by
  unfold State.rebuildCheck
  dsimp only
  repeat' with_reducible first
    | exact hk | assumption | apply Same.ite | apply rebuildFails_same (h := up h rfl)
    | apply assemble_same (h := up h rfl) | apply solveEnd_same (h := up h rfl) | split | (apply Same.snd; assumption)

theorem beginMembers_same {m : Nat} {z t : State} (hk : Same m z t) (h : 0x739e9c6ffcd0 ||| m = m) (t' : Nat) :
    Same m z (State.beginMembers t t') := by
  unfold State.beginMembers
  dsimp only
  repeat' with_reducible first
    | exact hk | assumption | intro _ | apply Same.ite | apply Same.foldl | apply modTag_same (h := up h rfl)
    | apply addMember_same (h := up h rfl) | apply rebuildCheck_same (h := up h rfl) | split
    | (apply Same.snd; assumption)

theorem toRebuild_same {m : Nat} {z t : State} (hk : Same m z t) (h : 0x8000000410 ||| m = m) (t' : Nat) :
    Same m z (State.toRebuild t t') := by
  unfold State.toRebuild
  dsimp only
  repeat' with_reducible first
    | exact hk | assumption | apply modTag_same (h := up h rfl) | apply tagTo_same (h := up h rfl)

theorem memberLost_same {m : Nat} {z t : State} (hk : Same m z t) (h : 0x439e9c6ffcd0 ||| m = m) (id : Nat) (t' : Nat) (i : Nat) (o : MemberOutcome) :
    Same m z (State.memberLost t id t' i o) := by
  unfold State.memberLost
  dsimp only
  repeat' with_reducible first
    | exact hk | assumption | apply modChan_same (h := up h rfl) | apply modWork_same (h := up h rfl)
    | apply setMember_same (h := up h rfl) | apply rebuildCheck_same (h := up h rfl) | split
    | (apply Same.snd; assumption)

theorem workPayload_same {m : Nat} {z t : State} (hk : Same m z t) (h : 0x39080030010 ||| m = m) (w : Work) :
    Same m z (State.workPayload t w).2 := by
  unfold State.workPayload
  dsimp only
  repeat' with_reducible first
    | exact hk | assumption | apply Same.ite | apply Same.ite2 | apply clearPayload_same (h := up h rfl) | split
    | (apply Same.snd; assumption)

theorem addPayload_same {m : Nat} {z t : State} (hk : Same m z t) (h : 0x439e9c6ffcd0 ||| m = m) (id : Nat) :
    Same m z (State.addPayload t id) := by
  unfold State.addPayload
  dsimp only
  repeat' with_reducible first
    | exact hk | assumption | apply Same.ite | apply Same.ite2 | apply workPayload_same (h := up h rfl)
    | apply modTag_same (h := up h rfl) | apply rebuildCheck_same (h := up h rfl) | split
    | (apply Same.snd; assumption)

theorem sdReady_same {m : Nat} {z t : State} (hk : Same m z t) (h : 0x739e9c6ffcd0 ||| m = m) (t' : Nat) :
    Same m z (State.sdReady t t') := by
  unfold State.sdReady
  dsimp only
  repeat' with_reducible first
    | exact hk | assumption | apply Same.ite | apply stopTag_same (h := up h rfl) | apply modTag_same (h := up h rfl)
    | apply openAcc_same (h := up h rfl) | apply beginMembers_same (h := up h rfl) | split
    | (apply Same.snd; assumption)

theorem sdArrive_same {m : Nat} {z t : State} (hk : Same m z t) (h : 0x739e9c6ffcd0 ||| m = m) (t' : Nat) (data : List Byte) :
    Same m z (State.sdArrive t t' data) := by
  unfold State.sdArrive
  dsimp only
  repeat' with_reducible first
    | exact hk | assumption | apply Same.ite | apply modTag_same (h := up h rfl) | apply stopTag_same (h := up h rfl)
    | apply sdReady_same (h := up h rfl) | split | (apply Same.snd; assumption)

theorem accumulate_same {m : Nat} {z t : State} (hk : Same m z t) (h : 0x39080038010 ||| m = m) (f : Option Nat) (l : List Byte) (poison : Bool) :
    Same m z (State.accumulate t f l poison) := by
  unfold State.accumulate
  dsimp only
  repeat' with_reducible first
    | exact hk | assumption | apply clearFrame_same (h := up h rfl) | apply frameRead_same (h := up h rfl)
    | apply frameWrite_same (h := up h rfl) | split | (apply Same.snd; assumption)

theorem accAdd_same {m : Nat} {z t : State} (hk : Same m z t) (h : 0x39a8c6f9c90 ||| m = m) (k : Nat) :
    Same m z (State.accAdd t k) := by
  unfold State.accAdd
  dsimp only
  repeat' with_reducible first
    | exact hk | assumption | apply setAcc_same (h := up h rfl) | apply stagedPayload_same (h := up h rfl)
    | apply accumulate_same (h := up h rfl) | apply modTag_same (h := up h rfl)
    | apply forwardEnded_same (h := up h rfl) | apply settle_same (h := up h rfl)
    | apply releaseSweep_same (h := up h rfl) | split | (apply Same.snd; assumption)

end Sys2Proof.Machine
end

