-- ==== Sys2Proof/Laws/Frames/Wheel.lean ====
section
/-! SUPPORT. Which fields the operations of `Machine/Wheel.lean` may change. -/

namespace Sys2Proof.Machine
open Sys2Proof

theorem slotGone_same {m : Nat} {z t : State} (hk : Same m z t) (h : 0x40000000 ||| m = m) (p : WheelPath) :
    Same m z (State.slotGone t p) := by
  unfold State.slotGone
  repeat' with_reducible first
    | exact hk | assumption | apply slotsGone_same (h := up h rfl)

theorem slotsRead_same {m : Nat} {z t : State} (hk : Same m z t) (h : 0x40000000 ||| m = m) (p : WheelPath) (before : State) :
    Same m z (State.slotsRead t p before) := by
  unfold State.slotsRead
  repeat' with_reducible first
    | exact hk | assumption | apply slotsGone_same (h := up h rfl)

theorem grantDma_same {m : Nat} {z t : State} (hk : Same m z t) (h : 0x10000000 ||| m = m) (p : WheelPath) (g : Nat) :
    Same m z (State.grantDma t p g) := by
  unfold State.grantDma
  dsimp only
  repeat' with_reducible first
    | exact hk | assumption | apply modDmaChan_same (h := up h rfl) | split | (apply Same.snd; assumption)

theorem wheel_same {m : Nat} {z t : State} (hk : Same m z t) (h : 0x50000000 ||| m = m) (p : WheelPath) :
    Same m z (State.wheel t p) := by
  unfold State.wheel
  dsimp only
  repeat' with_reducible first
    | exact hk | assumption | exact mayDiffer h rfl | exact fun _ => rfl | apply slotGone_same (h := up h rfl)
    | apply grantDma_same (h := up h rfl) | split | (apply Same.snd; assumption) | apply Same.lit

end Sys2Proof.Machine
end

