-- ==== Sys2Proof/Laws/Frames/Reads.lean ====
section
/-! SUPPORT. Which fields the operations of `Machine/Reads.lean` may change. -/

namespace Sys2Proof.Machine
open Sys2Proof

theorem freeBytes_same {m : Nat} {z t : State} (hk : Same m z t) (h : 0x400000000000 ||| m = m) (n : Nat) :
    Same m z (State.freeBytes t n).2 := by
  unfold State.freeBytes
  repeat' with_reducible first
    | exact hk | assumption | exact mayDiffer h rfl | exact fun _ => rfl | apply Same.lit

theorem closeRead_same {m : Nat} {z t : State} (hk : Same m z t) (h : 0x439a8c6ffc90 ||| m = m) (id : Nat) :
    Same m z (State.closeRead t id) := by
  unfold State.closeRead
  repeat' with_reducible first
    | exact hk | assumption | apply endWork_same (h := up h rfl) | apply freeWorkFrame_same (h := up h rfl) | split
    | (apply Same.snd; assumption)

theorem putInfo_same {m : Nat} {z t : State} (hk : Same m z t) (h : 0x439080030010 ||| m = m) (f : Nat) (base : Nat) (x : CodeCfg) (level : Nat) (info : List Byte) :
    Same m z (State.putInfo t f base x level info) := by
  unfold State.putInfo
  dsimp only
  repeat' with_reducible first
    | exact hk | assumption | apply freeBytes_same (h := up h rfl) | apply frameWrite_same (h := up h rfl)

theorem noteSteps_same {m : Nat} {z t : State} (hk : Same m z t) (h : 0x400 ||| m = m) (w : Work) :
    Same m z (State.noteSteps t w) := by
  unfold State.noteSteps
  repeat' with_reducible first
    | exact hk | assumption | apply modTag_same (h := up h rfl) | split | (apply Same.snd; assumption)

theorem trainRead_same {m : Nat} {z t : State} (hk : Same m z t) (h : 0x39880404810 ||| m = m) (w : Work) :
    Same m z (State.trainRead t w) := by
  unfold State.trainRead
  dsimp only
  repeat' with_reducible first
    | exact hk | assumption | apply Same.ite | apply Same.ite2 | apply modChan_same (h := up h rfl)
    | apply attemptOffsets_same (h := up h rfl) | apply writeLevels_same (h := up h rfl)

theorem copyArrives_same {m : Nat} {z t : State} (hk : Same m z t) (h : 0x39080030410 ||| m = m) (t' : Nat) (payload : List Byte) (poison : Bool) (w : Work) :
    Same m z (State.copyArrives t t' payload poison w) := by
  unfold State.copyArrives
  dsimp only
  repeat' with_reducible first
    | exact hk | assumption | apply putPayload_same (h := up h rfl) | apply modTag_same (h := up h rfl) | split
    | (apply Same.snd; assumption)

theorem readGood_same {m : Nat} {z t : State} (hk : Same m z t) (h : 0x539a8c6ffc90 ||| m = m) (id : Nat) :
    Same m z (State.readGood t id) := by
  unfold State.readGood
  dsimp only
  repeat' with_reducible first
    | exact hk | assumption | exact mayDiffer h rfl | exact fun _ => rfl | apply Same.ite | apply Same.ite2
    | apply trainRead_same (h := up h rfl) | apply modTag_same (h := up h rfl) | apply endWork_same (h := up h rfl)
    | apply tagTo_same (h := up h rfl) | apply tick_same (h := up h rfl) | apply modWork_same (h := up h rfl)
    | apply setMember_same (h := up h rfl) | apply workPayload_same (h := up h rfl)
    | apply copyArrives_same (h := up h rfl) | apply closeRead_same (h := up h rfl) | split
    | (apply Same.snd; assumption) | apply Same.lit

theorem readLost_same {m : Nat} {z t : State} (hk : Same m z t) (h : 0x439e9c6ffcd0 ||| m = m) (id : Nat) :
    Same m z (State.readLost t id) := by
  unfold State.readLost
  dsimp only
  repeat' with_reducible first
    | exact hk | assumption | apply Same.ite | apply endWork_same (h := up h rfl)
    | apply closeRead_same (h := up h rfl) | apply toRebuild_same (h := up h rfl) | apply stopTag_same (h := up h rfl)
    | apply memberLost_same (h := up h rfl) | split | (apply Same.snd; assumption)

theorem readNext_same {m : Nat} {z t : State} (hk : Same m z t) (h : 0x539e9c6ffcd0 ||| m = m) (id : Nat) :
    Same m z (State.readNext t id) := by
  unfold State.readNext
  repeat' with_reducible first
    | exact hk | assumption | apply Same.ite | apply readLost_same (h := up h rfl)
    | apply readGood_same (h := up h rfl) | apply modWork_same (h := up h rfl) | apply count_same (h := up h rfl)
    | split | (apply Same.snd; assumption)

theorem readPoisoned_same {m : Nat} {z t : State} (hk : Same m z t) (h : 0x539e9c6ffcd0 ||| m = m) (id : Nat) :
    Same m z (State.readPoisoned t id) := by
  unfold State.readPoisoned
  repeat' with_reducible first
    | exact hk | assumption | apply stopTag_same (h := up h rfl) | apply closeRead_same (h := up h rfl)
    | apply modWork_same (h := up h rfl) | apply readNext_same (h := up h rfl) | split | (apply Same.snd; assumption)

theorem softNext_same {m : Nat} {z t : State} (hk : Same m z t) (h : 0x539e9c6ffcf0 ||| m = m) (n : Nat) :
    Same m z (State.softNext t n) := by
  unfold State.softNext
  dsimp only
  repeat' with_reducible first
    | exact hk | assumption | exact mayDiffer h rfl | exact fun _ => rfl | apply Same.ite | apply Same.ite2
    | apply frameRead_same (h := up h rfl) | apply modWork_same (h := up h rfl)
    | apply readPoisoned_same (h := up h rfl) | apply modChan_same (h := up h rfl) | split
    | (apply Same.snd; assumption) | apply Same.lit

theorem afterRun_same {m : Nat} {z t : State} (hk : Same m z t) (h : 0x439e9c6ffcd0 ||| m = m) (id : Nat) (go : State → State) (h_go : ∀ u, Same m z u → Same m z (go u)) :
    Same m z (State.afterRun t id go) := by
  unfold State.afterRun
  dsimp only
  repeat' with_reducible first
    | exact hk | assumption | intro _ | apply Same.ite | apply Same.ite2 | apply abortIfPending_same (h := up h rfl)
    | apply h_go | split | (apply Same.snd; assumption)

theorem forwardCode_same {m : Nat} {z t : State} (hk : Same m z t) (h : 0x3d080030010 ||| m = m) (w : Work) (g : DecodeCfg) (f : Nat) (q : Nat) :
    Same m z (State.forwardCode t w g f q).2 := by
  unfold State.forwardCode
  dsimp only
  repeat' with_reducible first
    | exact hk | assumption | apply Same.ite | apply Same.ite2 | apply decodeAt_same (h := up h rfl)
    | apply countHard_same (h := up h rfl) | apply traceDecode_same (h := up h rfl) | apply count_same (h := up h rfl)

theorem forwardDecode_same {m : Nat} {z t : State} (hk : Same m z t) (h : 0x53de9c6ffcd0 ||| m = m) (id : Nat) (w : Work) :
    Same m z (State.forwardDecode t id w) := by
  unfold State.forwardDecode
  dsimp only
  repeat' with_reducible first
    | exact hk | assumption | intro _ | apply Same.ite | apply Same.ite2 | apply Same.foldl | apply Same.foldl2
    | apply forwardCode_same (h := up h rfl) | apply afterRun_same (h := up h rfl)
    | apply modWork_same (h := up h rfl) | apply modTag_same (h := up h rfl) | apply readGood_same (h := up h rfl)
    | apply readLost_same (h := up h rfl) | split | (apply Same.snd; assumption)

theorem hardEnd_same {m : Nat} {z t : State} (hk : Same m z t) (h : 0x53de9c6ffcd0 ||| m = m) (id : Nat) :
    Same m z (State.hardEnd t id) := by
  unfold State.hardEnd
  dsimp only
  repeat' with_reducible first
    | exact hk | assumption | intro _ | apply Same.ite | apply Same.ite2 | apply forwardDecode_same (h := up h rfl)
    | apply decodeAt_same (h := up h rfl) | apply modChan_same (h := up h rfl) | apply modWork_same (h := up h rfl)
    | apply afterRun_same (h := up h rfl) | apply readPoisoned_same (h := up h rfl)
    | apply countHard_same (h := up h rfl) | apply traceDecode_same (h := up h rfl)
    | apply noteSteps_same (h := up h rfl) | apply readLost_same (h := up h rfl) | apply putInfo_same (h := up h rfl)
    | apply readNext_same (h := up h rfl) | split | (apply Same.snd; assumption)

theorem softDone_same {m : Nat} {z t : State} (hk : Same m z t) (h : 0x539e9c6ffcd0 ||| m = m) (id : Nat) :
    Same m z (State.softDone t id) := by
  unfold State.softDone
  dsimp only
  repeat' with_reducible first
    | exact hk | assumption | apply modChan_same (h := up h rfl) | apply modWork_same (h := up h rfl)
    | apply readNext_same (h := up h rfl) | split | (apply Same.snd; assumption)

theorem softEnd_same {m : Nat} {z t : State} (hk : Same m z t) (h : 0x539e9c6ffcd0 ||| m = m) (id : Nat) :
    Same m z (State.softEnd t id) := by
  unfold State.softEnd
  dsimp only
  repeat' with_reducible first
    | exact hk | assumption | intro _ | apply Same.ite | apply Same.foldl | apply modChan_same (h := up h rfl)
    | apply noteSteps_same (h := up h rfl) | apply count_same (h := up h rfl) | apply traceDecode_same (h := up h rfl)
    | apply putInfo_same (h := up h rfl) | apply markWeak_same (h := up h rfl) | apply modWork_same (h := up h rfl)
    | apply afterRun_same (h := up h rfl) | apply softDone_same (h := up h rfl) | split | (apply Same.snd; assumption)

theorem heldCodes_same {m : Nat} {z t : State} (hk : Same m z t) (h : 0x39080030010 ||| m = m) (w : Work) (f : Nat) :
    Same m z (State.heldCodes t w f).2 := by
  unfold State.heldCodes
  dsimp only
  repeat' with_reducible first
    | exact hk | assumption | intro _ | apply Same.ite | apply Same.ite2 | apply Same.foldl | apply Same.foldl2
    | apply frameRead_same (h := up h rfl) | split | (apply Same.snd; assumption)

theorem readBackOut_same {m : Nat} {z t : State} (hk : Same m z t) (h : 0x3d080031010 ||| m = m) (id : Nat) (w : Work) (data : List Byte) :
    Same m z (State.readBackOut t id w data) := by
  unfold State.readBackOut
  dsimp only
  repeat' with_reducible first
    | exact hk | assumption | intro _ | apply Same.ite | apply Same.ite2 | apply Same.foldl | apply Same.foldl2
    | apply modWork_same (h := up h rfl) | apply heldCodes_same (h := up h rfl)
    | apply decodeBytes_same (h := up h rfl) | apply countHard_same (h := up h rfl)
    | apply traceDecode_same (h := up h rfl) | apply count_same (h := up h rfl) | split | (apply Same.snd; assumption)

theorem assistOut_same {m : Nat} {z t : State} (hk : Same m z t) (h : 0x38000005030 ||| m = m) (id : Nat) (w : Work) (data : List Byte) :
    Same m z (State.assistOut t id w data) := by
  unfold State.assistOut
  dsimp only
  repeat' with_reducible first
    | exact hk | assumption | exact mayDiffer h rfl | exact fun _ => rfl | apply count_same (h := up h rfl)
    | apply modChan_same (h := up h rfl) | apply modWork_same (h := up h rfl) | apply Same.lit

theorem rawOut_same {m : Nat} {z t : State} (hk : Same m z t) (h : 0x439280037410 ||| m = m) (id : Nat) (w : Work) (f : Nat) (data : List Byte) :
    Same m z (State.rawOut t id w f data) := by
  unfold State.rawOut
  dsimp only
  repeat' with_reducible first
    | exact hk | assumption | apply frameWrite_same (h := up h rfl) | apply modWork_same (h := up h rfl)
    | apply tagTo_same (h := up h rfl) | apply endWork_same (h := up h rfl) | split | (apply Same.snd; assumption)

theorem codeOut_same {m : Nat} {z t : State} (hk : Same m z t) (h : 0x39080035410 ||| m = m) (id : Nat) (w : Work) (f : Nat) (data : List Byte) :
    Same m z (State.codeOut t id w f data) := by
  unfold State.codeOut
  dsimp only
  repeat' with_reducible first
    | exact hk | assumption | apply Same.ite | apply frameWrite_same (h := up h rfl)
    | apply modChan_same (h := up h rfl) | apply modWork_same (h := up h rfl) | apply tagTo_same (h := up h rfl)
    | split | (apply Same.snd; assumption)

theorem dataOut_same {m : Nat} {z t : State} (hk : Same m z t) (h : 0x43d280037430 ||| m = m) (n : Nat) (data : List Byte) :
    Same m z (State.dataOut t n data) := by
  unfold State.dataOut
  dsimp only
  repeat' with_reducible first
    | exact hk | assumption | apply Same.ite | apply traceJob_same (h := up h rfl) | apply count_same (h := up h rfl)
    | apply busJob_same (h := up h rfl) | apply modChan_same (h := up h rfl) | apply readBackOut_same (h := up h rfl)
    | apply assistOut_same (h := up h rfl) | apply rawOut_same (h := up h rfl) | apply codeOut_same (h := up h rfl)
    | split | (apply Same.snd; assumption)

end Sys2Proof.Machine
end

