-- ==== Sys2Proof/Laws/Frames/Ends.lean ====
section
/-! SUPPORT. Which fields the operations of `Machine/Ends.lean` may change. -/

namespace Sys2Proof.Machine
open Sys2Proof

theorem poisonProgram_same {m : Nat} {z t : State} (hk : Same m z t) (h : 0x439e9c6ffcd0 ||| m = m) (id : Nat) :
    Same m z (State.poisonProgram t id) := by
  unfold State.poisonProgram
  dsimp only
  repeat' with_reducible first
    | exact hk | assumption | apply Same.ite | apply endWork_same (h := up h rfl)
    | apply endTagWorks_same (h := up h rfl) | apply programFails_same (h := up h rfl)
    | apply stopTag_same (h := up h rfl) | apply releaseAcc_same (h := up h rfl) | split
    | (apply Same.snd; assumption)

theorem programPayload_same {m : Nat} {z t : State} (hk : Same m z t) (h : 0x39080030010 ||| m = m) (f : Nat) (p : Packet) (q : Bool) :
    Same m z (State.programPayload t f p q).2 := by
  unfold State.programPayload
  dsimp only
  repeat' with_reducible first
    | exact hk | assumption | apply Same.ite | apply Same.ite2 | apply clearPayload_same (h := up h rfl)

theorem enterStaged_same {m : Nat} {z t : State} (hk : Same m z t) (h : 0x398886c9c90 ||| m = m) (t' : Nat) :
    Same m z (State.enterStaged t t') := by
  unfold State.enterStaged
  dsimp only
  repeat' with_reducible first
    | exact hk | assumption | apply Same.ite | apply tagTo_same (h := up h rfl) | apply modTag_same (h := up h rfl)
    | apply commitTag_same (h := up h rfl)

theorem contribute_same {m : Nat} {z t : State} (hk : Same m z t) (h : 0x40400 ||| m = m) (t' : Nat) :
    Same m z (State.contribute t t') := by
  unfold State.contribute
  dsimp only
  repeat' with_reducible first
    | exact hk | assumption | apply modAcc_same (h := up h rfl) | apply modTag_same (h := up h rfl) | split
    | (apply Same.snd; assumption)

theorem stageClose_same {m : Nat} {z t : State} (hk : Same m z t) (h : 0x43de9c6ffcd0 ||| m = m) (t' : Nat) (k : Nat) :
    Same m z (State.stageClose t t' k) := by
  unfold State.stageClose
  dsimp only
  repeat' with_reducible first
    | exact hk | assumption | intro _ | apply Same.ite | apply Same.ite2 | apply Same.foldl | apply Same.foldl2
    | apply stopTag_same (h := up h rfl) | apply releaseAcc_same (h := up h rfl) | apply reopen_same (h := up h rfl)
    | apply encodeFrame_same (h := up h rfl) | apply enterStaged_same (h := up h rfl)
    | apply wakeForwards_same (h := up h rfl) | split | (apply Same.snd; assumption)

theorem stage_same {m : Nat} {z t : State} (hk : Same m z t) (h : 0x43de9c6ffcd0 ||| m = m) (t' : Nat) :
    Same m z (State.stage t t') := by
  unfold State.stage
  dsimp only
  repeat' with_reducible first
    | exact hk | assumption | apply Same.ite | apply Same.ite2 | apply stageClose_same (h := up h rfl)
    | apply programPayload_same (h := up h rfl) | apply stopTag_same (h := up h rfl)
    | apply codePage_same (h := up h rfl) | apply putCodes_same (h := up h rfl) | apply setCode_same (h := up h rfl)
    | apply contribute_same (h := up h rfl) | apply enterStaged_same (h := up h rfl)
    | apply wakeForwards_same (h := up h rfl) | apply frameRead_same (h := up h rfl)
    | apply modFrame_same (h := up h rfl) | apply encodeFrame_same (h := up h rfl)
    | apply decodeFrame_same (h := up h rfl) | apply modTag_same (h := up h rfl) | exact SameP.none | apply SameP.some
    | apply SameP.map | split | (apply Same.snd; assumption) | (apply SameP.get; assumption)

theorem closeDone_same {m : Nat} {z t : State} (hk : Same m z t) (h : 0x39a8c6f9c90 ||| m = m) (t' : Nat) (k : Nat) :
    Same m z (State.closeDone t t' k) := by
  unfold State.closeDone
  repeat' with_reducible first
    | exact hk | assumption | apply releaseAcc_same (h := up h rfl) | apply programSucceeds_same (h := up h rfl)

theorem programLost_same {m : Nat} {z t : State} (hk : Same m z t) (h : 0x439a8c6ffc90 ||| m = m) (id : Nat) (st : Status) (info : Nat) (hold : Bool) :
    Same m z (State.programLost t id st info hold) := by
  unfold State.programLost
  dsimp only
  repeat' with_reducible first
    | exact hk | assumption | intro _ | apply Same.ite | apply Same.ite2 | apply Same.foldl | apply Same.foldl2
    | apply endTagWorks_same (h := up h rfl) | apply freeF_same (h := up h rfl)
    | apply programFails_same (h := up h rfl) | apply releaseAcc_same (h := up h rfl)
    | apply modTag_same (h := up h rfl) | apply commitTag_same (h := up h rfl)
    | apply addDeferred_same (h := up h rfl) | apply releaseOne_same (h := up h rfl)
    | apply endTag_same (h := up h rfl) | apply finish_same (h := up h rfl) | apply endWork_same (h := up h rfl)
    | split | (apply Same.snd; assumption)

theorem pageRecovered_same {m : Nat} {z t : State} (hk : Same m z t) (h : 0x8000000410 ||| m = m) (t' : Nat) :
    Same m z (State.pageRecovered t t') := by
  unfold State.pageRecovered
  repeat' with_reducible first
    | exact hk | assumption | apply Same.ite | apply Same.ite2 | apply modTag_same (h := up h rfl)
    | apply tagTo_same (h := up h rfl)

theorem programWell_same {m : Nat} {z t : State} (hk : Same m z t) (h : 0x439a8c6ffc90 ||| m = m) (id : Nat) :
    Same m z (State.programWell t id) := by
  unfold State.programWell
  dsimp only
  repeat' with_reducible first
    | exact hk | assumption | apply Same.ite | apply Same.ite2 | apply endWork_same (h := up h rfl)
    | apply programLost_same (h := up h rfl) | apply freeF_same (h := up h rfl)
    | apply programSucceeds_same (h := up h rfl) | apply modAcc_same (h := up h rfl)
    | apply count_same (h := up h rfl) | apply closeDone_same (h := up h rfl)
    | apply pageRecovered_same (h := up h rfl) | apply obtSweep_same (h := up h rfl)
    | apply modFrame_same (h := up h rfl) | apply dropDeferred_same (h := up h rfl)
    | apply modTag_same (h := up h rfl) | split | (apply Same.snd; assumption)

theorem dieEnd_same {m : Nat} {z t : State} (hk : Same m z t) (h : 0x439a8c6ffc90 ||| m = m) (id : Nat) (bad : Bool) (status : Byte) :
    Same m z (State.dieEnd t id bad status) := by
  unfold State.dieEnd
  dsimp only
  repeat' with_reducible first
    | exact hk | assumption | apply Same.ite | apply programLost_same (h := up h rfl)
    | apply programWell_same (h := up h rfl) | apply endWork_same (h := up h rfl) | apply finish_same (h := up h rfl)
    | split | (apply Same.snd; assumption)

theorem recoverReady_same {m : Nat} {z t : State} (hk : Same m z t) (h : 0x1000 ||| m = m) (id : Nat) :
    Same m z (State.recoverReady t id) := by
  unfold State.recoverReady
  repeat' with_reducible first
    | exact hk | assumption | apply Same.ite | apply modWork_same (h := up h rfl)

theorem noStepFailed_same {m : Nat} {z t : State} (hk : Same m z t) (h : 0x10 ||| m = m) (n : Nat) :
    Same m z (State.noStepFailed t n) := by
  unfold State.noStepFailed
  repeat' with_reducible first
    | exact hk | assumption | apply setFld_same (h := up h rfl)

theorem resetDone_same {m : Nat} {z t : State} (hk : Same m z t) (h : 0x409200037010 ||| m = m) (n : Nat) (id : Nat) (w : Work) :
    Same m z (State.resetDone t n id w) := by
  unfold State.resetDone
  dsimp only
  repeat' with_reducible first
    | exact hk | assumption | intro _ | apply Same.foldl | apply releaseGrants_same (h := up h rfl)
    | apply modLun_same (h := up h rfl) | apply endWork_same (h := up h rfl) | apply noStepFailed_same (h := up h rfl)
    | apply modChan_same (h := up h rfl) | split | (apply Same.snd; assumption)

theorem opEnds_same {m : Nat} {z t : State} (hk : Same m z t) (h : 0x439a8c6ffc90 ||| m = m) (n : Nat) (l : Nat) (o : ArrayOp) (status : Byte) :
    Same m z (State.opEnds t n l o status) := by
  unfold State.opEnds
  dsimp only
  repeat' with_reducible first
    | exact hk | assumption | intro _ | apply Same.ite | apply Same.ite2 | apply Same.foldl | apply Same.foldl2
    | apply releaseOp_same (h := up h rfl) | apply modLun_same (h := up h rfl)
    | apply recoverReady_same (h := up h rfl) | apply modWork_same (h := up h rfl)
    | apply resetDone_same (h := up h rfl) | apply dieEnd_same (h := up h rfl) | split | (apply Same.snd; assumption)

theorem statusPoll_same {m : Nat} {z t : State} (hk : Same m z t) (h : 0x439a8c6ffc90 ||| m = m) (n : Nat) (status : Byte) :
    Same m z (State.statusPoll t n status) := by
  unfold State.statusPoll
  dsimp only
  repeat' with_reducible first
    | exact hk | assumption | apply Same.ite | apply traceJob_same (h := up h rfl) | apply busJob_same (h := up h rfl)
    | apply modChan_same (h := up h rfl) | apply modLun_same (h := up h rfl) | apply opEnds_same (h := up h rfl)
    | apply grantFrames_same (h := up h rfl) | split | (apply Same.snd; assumption)

theorem readTimeout_same {m : Nat} {z t : State} (hk : Same m z t) (h : 0x439e9c6ffcd0 ||| m = m) (id : Nat) (w : Work) :
    Same m z (State.readTimeout t id w) := by
  unfold State.readTimeout
  repeat' with_reducible first
    | exact hk | assumption | apply stopTag_same (h := up h rfl) | apply closeRead_same (h := up h rfl)
    | apply memberLost_same (h := up h rfl) | apply programLost_same (h := up h rfl)
    | apply abandonSurvey_same (h := up h rfl) | split | (apply Same.snd; assumption)

theorem readyTimeout_same {m : Nat} {z t : State} (hk : Same m z t) (h : 0x439e9c6ffcd0 ||| m = m) (n : Nat) (l : Nat) :
    Same m z (State.readyTimeout t n l) := by
  unfold State.readyTimeout
  dsimp only
  repeat' with_reducible first
    | exact hk | assumption | exact mayDiffer h rfl | exact fun _ => rfl | intro _ | apply Same.ite | apply Same.foldl
    | apply readTimeout_same (h := up h rfl) | apply programLost_same (h := up h rfl)
    | apply stopTag_same (h := up h rfl) | apply endWork_same (h := up h rfl) | apply finish_same (h := up h rfl)
    | apply modLun_same (h := up h rfl) | apply attn_same (h := up h rfl) | apply grantFrames_same (h := up h rfl)
    | split | (apply Same.snd; assumption) | apply Same.lit

theorem confirmTag_same {m : Nat} {z t : State} (hk : Same m z t) (h : 0x38080289c90 ||| m = m) (t' : Nat) :
    Same m z (State.confirmTag t t') := by
  unfold State.confirmTag
  dsimp only
  repeat' with_reducible first
    | exact hk | assumption | apply Same.ite | apply modTag_same (h := up h rfl) | apply tagTo_same (h := up h rfl)
    | apply tooLate_same (h := up h rfl)

theorem opFrom_same {m : Nat} {z t : State} (hk : Same m z t) (h : 0x2000 ||| m = m) (n : Nat) (l : Nat) :
    Same m z (State.opFrom t n l) := by
  unfold State.opFrom
  repeat' with_reducible first
    | exact hk | assumption | apply modLun_same (h := up h rfl)

theorem routineOp_same {m : Nat} {z t : State} (hk : Same m z t) (h : 0x3000 ||| m = m) (n : Nat) (id : Nat) (l : Nat) :
    Same m z (State.routineOp t n id l) := by
  unfold State.routineOp
  repeat' with_reducible first
    | exact hk | assumption | apply Same.ite | apply modWork_same (h := up h rfl) | apply modLun_same (h := up h rfl)

theorem confirmWork_same {m : Nat} {z t : State} (hk : Same m z t) (h : 0x38080a8fc90 ||| m = m) (n : Nat) (id : Nat) :
    Same m z (State.confirmWork t n id) := by
  unfold State.confirmWork
  dsimp only
  repeat' with_reducible first
    | exact hk | assumption | apply Same.ite | apply traceMsg_same (h := up h rfl)
    | apply modChan_same (h := up h rfl) | apply routineOp_same (h := up h rfl) | apply opFrom_same (h := up h rfl)
    | apply modWork_same (h := up h rfl) | apply count_same (h := up h rfl) | apply ledgerErase_same (h := up h rfl)
    | apply confirmTag_same (h := up h rfl) | split | (apply Same.snd; assumption)

theorem resultMsg_same {m : Nat} {z t : State} (hk : Same m z t) (h : 0x8000000410 ||| m = m) (n : Nat) (id : Nat) (word : Word) :
    Same m z (State.resultMsg t n id word) := by
  unfold State.resultMsg
  repeat' with_reducible first
    | exact hk | assumption | apply Same.ite | apply traceMsg_same (h := up h rfl) | apply modTag_same (h := up h rfl)
    | split | (apply Same.snd; assumption)

theorem failMsg_same {m : Nat} {z t : State} (hk : Same m z t) (h : 0x439a8c6ffc90 ||| m = m) (n : Nat) (id : Nat) (status : Byte) :
    Same m z (State.failMsg t n id status) := by
  unfold State.failMsg
  dsimp only
  repeat' with_reducible first
    | exact hk | assumption | apply Same.ite | apply traceMsg_same (h := up h rfl) | apply dieEnd_same (h := up h rfl)
    | apply modChan_same (h := up h rfl) | split | (apply Same.snd; assumption)

theorem pausedMsg_same {m : Nat} {z t : State} (hk : Same m z t) (h : 0x439efc6ffcf0 ||| m = m) (n : Nat) (id : Nat) (col : Nat) :
    Same m z (State.pausedMsg t n id col) := by
  unfold State.pausedMsg
  dsimp only
  repeat' with_reducible first
    | exact hk | assumption | apply Same.ite | apply Same.ite2 | apply traceMsg_same (h := up h rfl)
    | apply busEnds_same (h := up h rfl) | apply abortIfPending_same (h := up h rfl)
    | apply boundary_same (h := up h rfl) | apply modChan_same (h := up h rfl) | apply modWork_same (h := up h rfl)
    | split | (apply Same.snd; assumption)

theorem pushMsg_same {m : Nat} {z t : State} (hk : Same m z t) (h : 0x9000034010 ||| m = m) (n : Nat) (entry : BitVec 6) (word : Word) (isEnd : Bool) :
    Same m z (State.pushMsg t n entry word isEnd) := by
  unfold State.pushMsg
  repeat' with_reducible first
    | exact hk | assumption | apply Same.ite | apply store_same (h := up h rfl) | apply traceMsg_same (h := up h rfl)
    | apply modChan_same (h := up h rfl)

theorem resetTag_same {m : Nat} {z t : State} (hk : Same m z t) (h : 0x439e9c6ffcd0 ||| m = m) (t' : Nat) :
    Same m z (State.resetTag t t') := by
  unfold State.resetTag
  dsimp only
  repeat' with_reducible first
    | exact hk | assumption | apply Same.ite | apply Same.ite2 | apply programLost_same (h := up h rfl)
    | apply endTagWorks_same (h := up h rfl) | apply programFails_same (h := up h rfl)
    | apply abortNow_same (h := up h rfl) | apply modTag_same (h := up h rfl) | apply finish_same (h := up h rfl)
    | split | (apply Same.snd; assumption)

theorem resetQ_same {m : Nat} {z t : State} (hk : Same m z t) (h : 0x1000 ||| m = m) (id : Nat) (w : Work) :
    Same m z (State.resetQ t id w) := by
  unfold State.resetQ
  repeat' with_reducible first
    | exact hk | assumption | apply Same.ite | apply recoverReady_same (h := up h rfl)
    | apply modWork_same (h := up h rfl)

theorem targetReset_same {m : Nat} {z t : State} (hk : Same m z t) (h : 0x439e9c6ffcd0 ||| m = m) (n : Nat) :
    Same m z (State.targetReset t n) := by
  unfold State.targetReset
  dsimp only
  repeat' with_reducible first
    | exact hk | assumption | exact mayDiffer h rfl | exact fun _ => rfl | intro _ | apply Same.ite | apply Same.ite2
    | apply Same.foldl | apply Same.foldl2 | apply traceJob_same (h := up h rfl) | apply busJob_same (h := up h rfl)
    | apply issueTag_same (h := up h rfl) | apply resetTag_same (h := up h rfl) | apply resetQ_same (h := up h rfl)
    | apply modWork_same (h := up h rfl) | apply modLun_same (h := up h rfl) | split | (apply Same.snd; assumption)
    | apply Same.lit

theorem programOn_same {m : Nat} {z t : State} (hk : Same m z t) (h : 0x439e9c6ffcd0 ||| m = m) (n : Nat) (quarters : Nat) (id : Nat) (w : Work) :
    Same m z (State.programOn t n quarters id w) := by
  unfold State.programOn
  dsimp only
  repeat' with_reducible first
    | exact hk | assumption | apply Same.ite | apply Same.ite2 | apply programBytes_same (h := up h rfl)
    | apply poisonProgram_same (h := up h rfl) | apply moveData_same (h := up h rfl)

theorem programRow_same {m : Nat} {z t : State} (hk : Same m z t) (h : 0x439efc6ffcf0 ||| m = m) (n : Nat) (resume : Bool) (quarters : Nat) :
    Same m z (State.programRow t n resume quarters) := by
  unfold State.programRow
  repeat' with_reducible first
    | exact hk | assumption | apply Same.ite | apply pausedMsg_same (h := up h rfl)
    | apply programOn_same (h := up h rfl) | apply startData_same (h := up h rfl) | split
    | (apply Same.snd; assumption)

end Sys2Proof.Machine
end

