-- ==== Sys2Proof/Laws/Frames/Trims.lean ====
section
/-! SUPPORT. Which fields the operations of `Machine/Trims.lean` may change. -/

namespace Sys2Proof.Machine
open Sys2Proof

theorem calReqError_same {m : Nat} {z t : State} (hk : Same m z t) (h : 0x10 ||| m = m) (n : Nat) :
    Same m z (State.calReqError t n) := by
  unfold State.calReqError
  repeat' with_reducible first
    | exact hk | assumption | apply setBit_same (h := up h rfl)

theorem trimTarget_same {m : Nat} {z t : State} (hk : Same m z t) (h : 0x4010 ||| m = m) (n : Nat) (v : Word) :
    Same m z (State.trimTarget t n v) := by
  unfold State.trimTarget
  repeat' with_reducible first
    | exact hk | assumption | intro _ | apply Same.ite | apply Same.ite2 | apply Same.foldl | apply Same.foldl2
    | apply calReqError_same (h := up h rfl) | apply modChan_same (h := up h rfl)

theorem calStart_same {m : Nat} {z t : State} (hk : Same m z t) (h : 0x400004010 ||| m = m) (n : Nat) (apply : Bool) :
    Same m z (State.calStart t n apply) := by
  unfold State.calStart
  repeat' with_reducible first
    | exact hk | assumption | apply Same.ite | apply calQueue_same (h := up h rfl)
    | apply calReqError_same (h := up h rfl)

theorem calTake_same {m : Nat} {z t : State} (hk : Same m z t) (h : 0x8400004410 ||| m = m) :
    Same m z (State.calTake t) := by
  unfold State.calTake
  dsimp only
  repeat' with_reducible first
    | exact hk | assumption | exact mayDiffer h rfl | exact fun _ => rfl | apply modChan_same (h := up h rfl)
    | apply tagTo_same (h := up h rfl) | split | (apply Same.snd; assumption) | apply Same.lit

theorem calEnd_same {m : Nat} {z t : State} (hk : Same m z t) (h : 0x39e8c6fdc90 ||| m = m) (n : Nat) (cause : Nat) (runs : Nat) (res : Option (List (BitVec 7))) :
    Same m z (State.calEnd t n cause runs res) := by
  unfold State.calEnd
  dsimp only
  repeat' with_reducible first
    | exact hk | assumption | exact mayDiffer h rfl | exact fun _ => rfl | apply Same.ite | apply Same.ite2
    | apply setFld_same (h := up h rfl) | apply setReg_same (h := up h rfl) | apply setArrBit_same (h := up h rfl)
    | apply addFld_same (h := up h rfl) | apply modChan_same (h := up h rfl) | apply raise_same (h := up h rfl)
    | apply finish_same (h := up h rfl) | apply calNext_same (h := up h rfl) | split | (apply Same.snd; assumption)
    | apply Same.lit

theorem calSettling_same {m : Nat} {z t : State} (hk : Same m z t) (h : 0x4000 ||| m = m) :
    Same m z (State.calSettling t) := by
  unfold State.calSettling
  dsimp only
  repeat' with_reducible first
    | exact hk | assumption | apply Same.ite | apply modChan_same (h := up h rfl) | split
    | (apply Same.snd; assumption)

theorem calRun_same {m : Nat} {z t : State} (hk : Same m z t) (h : 0x39e8c6fdc90 ||| m = m) (report : CalReport) :
    Same m z (State.calRun t report) := by
  unfold State.calRun
  dsimp only
  repeat' with_reducible first
    | exact hk | assumption | apply Same.ite | apply Same.ite2 | apply calEnd_same (h := up h rfl)
    | apply modChan_same (h := up h rfl) | split | (apply Same.snd; assumption)

theorem execCalStart_same {m : Nat} {z t : State} (hk : Same m z t) (h : 0x480004050 ||| m = m) (ch : Nat) (apply : Bool) :
    SameX m z (execCalStart ch apply t) := by
  unfold execCalStart
  repeat' with_reducible first
    | exact hk | assumption | apply Same.ite | apply holdRequest_same (h := up h rfl)
    | apply calStart_same (h := up h rfl) | apply SameX.next | split

theorem execTrimImpTgtWrite_same {m : Nat} {z t : State} (hk : Same m z t) (h : 0x80004050 ||| m = m) (ch : Nat) (val : Word) :
    SameX m z (execTrimImpTgtWrite ch val t) := by
  unfold execTrimImpTgtWrite
  repeat' with_reducible first
    | exact hk | assumption | apply Same.ite | apply holdRequest_same (h := up h rfl)
    | apply trimTarget_same (h := up h rfl) | apply SameX.next | split

end Sys2Proof.Machine
end

