-- ==== Sys2Proof/Laws/Frames/Train.lean ====
section
/-! SUPPORT. Which fields the operations of `Machine/Train.lean` may change. -/

namespace Sys2Proof.Machine
open Sys2Proof

theorem resetChanPage_same {m : Nat} {z t : State} (hk : Same m z t) (h : 0x10 ||| m = m) (n : Nat) :
    Same m z (State.resetChanPage t n) := by
  unfold State.resetChanPage
  repeat' with_reducible first
    | exact hk | assumption | apply setBit_same (h := up h rfl) | apply setFld_same (h := up h rfl)

theorem testReset_same {m : Nat} {z t : State} (hk : Same m z t) (h : 0x2000000000 ||| m = m) (n : Nat) :
    Same m z (State.testReset t n) := by
  unfold State.testReset
  repeat' with_reducible first
    | exact hk | assumption | exact mayDiffer h rfl | exact fun _ => rfl | apply Same.ite | apply Same.lit

theorem enterReset_same {m : Nat} {z t : State} (hk : Same m z t) (h : 0x2000006010 ||| m = m) (n : Nat) :
    Same m z (State.enterReset t n) := by
  unfold State.enterReset
  dsimp only
  repeat' with_reducible first
    | exact hk | assumption | intro _ | apply Same.foldl | apply testReset_same (h := up h rfl)
    | apply stagingAbandon_same (h := up h rfl) | apply resetChanPage_same (h := up h rfl)
    | apply modChan_same (h := up h rfl) | apply modLun_same (h := up h rfl)

theorem leaveReset_same {m : Nat} {z t : State} (hk : Same m z t) (h : 0x409000034010 ||| m = m) (n : Nat) :
    Same m z (State.leaveReset t n) := by
  unfold State.leaveReset
  repeat' with_reducible first
    | exact hk | assumption | apply Same.ite | apply modChan_same (h := up h rfl)
    | apply runEntry_same (h := up h rfl)

theorem recTo_same {m : Nat} {z t : State} (hk : Same m z t) (h : 0x8000004010 ||| m = m) (n : Nat) (r : RecStep) (marked : Nat) :
    Same m z (State.recTo t n r marked) := by
  unfold State.recTo
  repeat' with_reducible first
    | exact hk | assumption | apply Same.ite | apply modChan_same (h := up h rfl)
    | apply traceRec_same (h := up h rfl)

theorem chanReqError_same {m : Nat} {z t : State} (hk : Same m z t) (h : 0x10 ||| m = m) (n : Nat) :
    Same m z (State.chanReqError t n) := by
  unfold State.chanReqError
  repeat' with_reducible first
    | exact hk | assumption | apply setBit_same (h := up h rfl)

theorem ownFeatures_same {m : Nat} {z t : State} (hk : Same m z t) (h : 0x408000004010 ||| m = m) (n : Nat) (l : List (BitVec 8)) :
    Same m z (State.ownFeatures t n l) := by
  unfold State.ownFeatures
  dsimp only
  repeat' with_reducible first
    | exact hk | assumption | intro _ | apply Same.ite | apply Same.foldl | apply traceJob_same (h := up h rfl)
    | apply busJob_same (h := up h rfl)

theorem stepTwo_same {m : Nat} {z t : State} (hk : Same m z t) (h : 0x40a000006010 ||| m = m) (n : Nat) :
    Same m z (State.stepTwo t n) := by
  unfold State.stepTwo
  repeat' with_reducible first
    | exact hk | assumption | apply ownFeatures_same (h := up h rfl) | apply enterReset_same (h := up h rfl)

theorem startTrain_same {m : Nat} {z t : State} (hk : Same m z t) (h : 0x408000004010 ||| m = m) (n : Nat) :
    Same m z (State.startTrain t n) := by
  unfold State.startTrain
  dsimp only
  repeat' with_reducible first
    | exact hk | assumption | apply Same.ite | apply traceJob_same (h := up h rfl) | apply busJob_same (h := up h rfl)

theorem beginTrain_same {m : Nat} {z t : State} (hk : Same m z t) (h : 0x40a000006010 ||| m = m) (n : Nat) (rate : Nat) (mode : Nat) (why : TrainWhy) (relock : Bool) :
    Same m z (State.beginTrain t n rate mode why relock) := by
  unfold State.beginTrain
  dsimp only
  repeat' with_reducible first
    | exact hk | assumption | apply Same.ite | apply modChan_same (h := up h rfl) | apply stepTwo_same (h := up h rfl)
    | apply startTrain_same (h := up h rfl)

theorem askReset_same {m : Nat} {z t : State} (hk : Same m z t) (h : 0x338200001010 ||| m = m) (n : Nat) (t' : Nat) :
    Same m z (State.askReset t n t') := by
  unfold State.askReset
  dsimp only
  repeat' with_reducible first
    | exact hk | assumption | apply tick_same (h := up h rfl) | apply addWork_same (h := up h rfl)
    | apply askAdmission_same (h := up h rfl)

theorem dropResets_same {m : Nat} {z t : State} (hk : Same m z t) (h : 0x409200037010 ||| m = m) (n : Nat) :
    Same m z (State.dropResets t n) := by
  unfold State.dropResets
  dsimp only
  repeat' with_reducible first
    | exact hk | assumption | intro _ | apply Same.ite | apply Same.ite2 | apply Same.foldl | apply Same.foldl2
    | apply releaseGrants_same (h := up h rfl) | apply endWork_same (h := up h rfl) | split
    | (apply Same.snd; assumption)

theorem sendReset_same {m : Nat} {z t : State} (hk : Same m z t) (h : 0x408000007010 ||| m = m) (n : Nat) :
    Same m z (State.sendReset t n) := by
  unfold State.sendReset
  dsimp only
  repeat' with_reducible first
    | exact hk | assumption | intro _ | apply Same.ite | apply Same.ite2 | apply Same.foldl | apply Same.foldl2
    | apply traceJob_same (h := up h rfl) | apply busJob_same (h := up h rfl) | apply modWork_same (h := up h rfl)
    | apply modLun_same (h := up h rfl) | split | (apply Same.snd; assumption)

theorem retrainNow_same {m : Nat} {z t : State} (hk : Same m z t) (h : 0x40a000006010 ||| m = m) (n : Nat) (why : TrainWhy) (step2 : Bool) :
    Same m z (State.retrainNow t n why step2) := by
  unfold State.retrainNow
  dsimp only
  repeat' with_reducible first
    | exact hk | assumption | apply noStepFailed_same (h := up h rfl) | apply beginTrain_same (h := up h rfl)

theorem stepFailed_same {m : Nat} {z t : State} (hk : Same m z t) (h : 0x10 ||| m = m) (n : Nat) (step : Nat) (target : Nat) :
    Same m z (State.stepFailed t n step target) := by
  unfold State.stepFailed
  repeat' with_reducible first
    | exact hk | assumption | apply setFld_same (h := up h rfl)

theorem bringUp_same {m : Nat} {z t : State} (hk : Same m z t) (h : 0x43a080006010 ||| m = m) (n : Nat) (why : TrainWhy) :
    Same m z (State.bringUp t n why) := by
  unfold State.bringUp
  dsimp only
  repeat' with_reducible first
    | exact hk | assumption | apply Same.ite | apply noStepFailed_same (h := up h rfl)
    | apply beginTrain_same (h := up h rfl) | apply stepFailed_same (h := up h rfl) | apply attn_same (h := up h rfl)

theorem discover_same {m : Nat} {z t : State} (hk : Same m z t) (h : 0x339200035010 ||| m = m) (n : Nat) :
    Same m z (State.discover t n) := by
  unfold State.discover
  dsimp only
  repeat' with_reducible first
    | exact hk | assumption | apply Same.ite | apply store_same (h := up h rfl)
    | apply chanReqError_same (h := up h rfl) | apply modChan_same (h := up h rfl)
    | apply askReset_same (h := up h rfl)

theorem setRate_same {m : Nat} {z t : State} (hk : Same m z t) (h : 0x43b080036010 ||| m = m) (n : Nat) :
    Same m z (State.setRate t n) := by
  unfold State.setRate
  dsimp only
  repeat' with_reducible first
    | exact hk | assumption | apply Same.ite | apply store_same (h := up h rfl)
    | apply chanReqError_same (h := up h rfl) | apply bringUp_same (h := up h rfl)

theorem retrain_same {m : Nat} {z t : State} (hk : Same m z t) (h : 0x40b000036010 ||| m = m) (n : Nat) :
    Same m z (State.retrain t n) := by
  unfold State.retrain
  dsimp only
  repeat' with_reducible first
    | exact hk | assumption | apply Same.ite | apply store_same (h := up h rfl)
    | apply chanReqError_same (h := up h rfl) | apply retrainNow_same (h := up h rfl)

theorem identify_same {m : Nat} {z t : State} (hk : Same m z t) (h : 0x43d280037430 ||| m = m) (n : Nat) (found : List TargetReport) :
    Same m z (State.identify t n found) := by
  unfold State.identify
  dsimp only
  repeat' with_reducible first
    | exact hk | assumption | intro _ | apply Same.ite | apply Same.foldl | apply traceJob_same (h := up h rfl)
    | apply busJob_same (h := up h rfl) | apply dataOut_same (h := up h rfl) | split | (apply Same.snd; assumption)

theorem discovered_same {m : Nat} {z t : State} (hk : Same m z t) (h : 0x43f280037430 ||| m = m) (n : Nat) (found : List TargetReport) :
    Same m z (State.discovered t n found) := by
  unfold State.discovered
  dsimp only
  repeat' with_reducible first
    | exact hk | assumption | intro _ | apply Same.ite | apply Same.ite2 | apply Same.foldl | apply Same.foldl2
    | apply identify_same (h := up h rfl) | apply dropResets_same (h := up h rfl) | apply setReg_same (h := up h rfl)
    | apply attn_same (h := up h rfl) | apply modChan_same (h := up h rfl) | apply chanReqError_same (h := up h rfl)
    | apply bringUp_same (h := up h rfl) | split | (apply Same.snd; assumption)

theorem exhaust_same {m : Nat} {z t : State} (hk : Same m z t) (h : 0x439e9c6ffcd0 ||| m = m) (t' : Nat) (n : Nat) (info : Nat) :
    Same m z (State.exhaust t t' n info) := by
  unfold State.exhaust
  dsimp only
  repeat' with_reducible first
    | exact hk | assumption | apply Same.ite | apply raise_same (h := up h rfl)
    | apply programLost_same (h := up h rfl) | apply endTagWorks_same (h := up h rfl)
    | apply programFails_same (h := up h rfl) | apply endTag_same (h := up h rfl) | apply stopTag_same (h := up h rfl)
    | split | (apply Same.snd; assumption)

theorem notRestored_same {m : Nat} {z t : State} (hk : Same m z t) (h : 0x439e9c6ffcd0 ||| m = m) (n : Nat) (own : Option Nat) :
    Same m z (State.notRestored t n own) := by
  unfold State.notRestored
  dsimp only
  repeat' with_reducible first
    | exact hk | assumption | intro _ | apply Same.foldl | apply Same.foldl2 | apply exhaust_same (h := up h rfl)
    | apply memberLost_same (h := up h rfl) | apply closeRead_same (h := up h rfl) | apply raise_same (h := up h rfl)
    | apply stopTag_same (h := up h rfl) | apply recTo_same (h := up h rfl) | apply modChan_same (h := up h rfl)
    | split | (apply Same.snd; assumption)

theorem trainLost_same {m : Nat} {z t : State} (hk : Same m z t) (h : 0x439e9c6ffcd0 ||| m = m) (n : Nat) :
    Same m z (State.trainLost t n) := by
  unfold State.trainLost
  dsimp only
  repeat' with_reducible first
    | exact hk | assumption | apply Same.ite | apply dropResets_same (h := up h rfl)
    | apply leaveReset_same (h := up h rfl) | apply busEnds_same (h := up h rfl) | apply modChan_same (h := up h rfl)
    | apply setFld_same (h := up h rfl) | apply attn_same (h := up h rfl) | apply targetReset_same (h := up h rfl)
    | apply notRestored_same (h := up h rfl) | split | (apply Same.snd; assumption)

theorem replayTag_same {m : Nat} {z t : State} (hk : Same m z t) (h : 0x439e9c6ffcd0 ||| m = m) (t' : Nat) :
    Same m z (State.replayTag t t') := by
  unfold State.replayTag
  dsimp only
  repeat' with_reducible first
    | exact hk | assumption | apply Same.ite | apply modTag_same (h := up h rfl) | apply stopTag_same (h := up h rfl)
    | apply tagTo_same (h := up h rfl)

theorem rungTrained_same {m : Nat} {z t : State} (hk : Same m z t) (h : 0x439e9c6ffcd0 ||| m = m) (n : Nat) (re : Nat) (we : Nat) (eq : Nat) (vref : BitVec 7) (rd : List (BitVec 7)) (wd : List (BitVec 7)) :
    Same m z (State.rungTrained t n re we eq vref rd wd) := by
  unfold State.rungTrained
  dsimp only
  repeat' with_reducible first
    | exact hk | assumption | intro _ | apply Same.ite | apply Same.ite2 | apply Same.foldl | apply Same.foldl2
    | apply setReg_same (h := up h rfl) | apply modChan_same (h := up h rfl) | apply setFld_same (h := up h rfl)
    | apply attn_same (h := up h rfl) | apply busEnds_same (h := up h rfl) | apply ownFeatures_same (h := up h rfl)
    | apply targetReset_same (h := up h rfl) | apply finish_same (h := up h rfl) | apply recTo_same (h := up h rfl)
    | apply replayTag_same (h := up h rfl) | split | (apply Same.snd; assumption)

theorem trained_same {m : Nat} {z t : State} (hk : Same m z t) (h : 0x43be9c6ffcd0 ||| m = m) (n : Nat) (report : TrainReport) :
    Same m z (State.trained t n report) := by
  unfold State.trained
  dsimp only
  repeat' with_reducible first
    | exact hk | assumption | apply Same.ite | apply store_same (h := up h rfl)
    | apply stepFailed_same (h := up h rfl) | apply attn_same (h := up h rfl) | apply beginTrain_same (h := up h rfl)
    | apply setRate_same (h := up h rfl) | apply trainLost_same (h := up h rfl)
    | apply rungTrained_same (h := up h rfl) | split | (apply Same.snd; assumption)

theorem mcInvalid_same {m : Nat} {z t : State} (hk : Same m z t) (h : 0x38080000018 ||| m = m) (cause : Nat) (index : Nat) :
    Same m z (State.mcInvalid t cause index) := by
  unfold State.mcInvalid
  dsimp only
  repeat' with_reducible first
    | exact hk | assumption | exact mayDiffer h rfl | exact fun _ => rfl | apply setFld_same (h := up h rfl)
    | apply setReg_same (h := up h rfl) | apply raise_same (h := up h rfl) | apply Same.lit

theorem startLoad_same {m : Nat} {z t : State} (hk : Same m z t) (h : 0x3000036010 ||| m = m) (n : Nat) :
    Same m z (State.startLoad t n) := by
  unfold State.startLoad
  repeat' with_reducible first
    | exact hk | assumption | apply Same.ite | apply modChan_same (h := up h rfl) | apply store_same (h := up h rfl)
    | apply enterReset_same (h := up h rfl)

theorem mcLoad_same {m : Nat} {z t : State} (hk : Same m z t) (h : 0x3000036010 ||| m = m) (n : Nat) :
    Same m z (State.mcLoad t n) := by
  unfold State.mcLoad
  repeat' with_reducible first
    | exact hk | assumption | apply Same.ite | apply startLoad_same (h := up h rfl)
    | apply setBit_same (h := up h rfl)

theorem loadAll_same {m : Nat} {z t : State} (hk : Same m z t) (h : 0x3000036010 ||| m = m) :
    Same m z (State.loadAll t) := by
  unfold State.loadAll
  dsimp only
  repeat' with_reducible first
    | exact hk | assumption | intro _ | apply Same.ite | apply Same.foldl | apply setBit_same (h := up h rfl)
    | apply startLoad_same (h := up h rfl) | apply setFld_same (h := up h rfl)

theorem loadEnd_same {m : Nat} {z t : State} (hk : Same m z t) (h : 0x43b080036018 ||| m = m) (n : Nat) :
    Same m z (State.loadEnd t n) := by
  unfold State.loadEnd
  dsimp only
  repeat' with_reducible first
    | exact hk | assumption | apply Same.ite | apply Same.ite2 | apply store_same (h := up h rfl)
    | apply useEntry_same (h := up h rfl) | apply modChan_same (h := up h rfl) | apply leaveReset_same (h := up h rfl)
    | apply mcInvalid_same (h := up h rfl) | apply setFld_same (h := up h rfl) | apply raise_same (h := up h rfl)
    | apply retrainNow_same (h := up h rfl)

theorem refresh_same {m : Nat} {z t : State} (hk : Same m z t) (h : 0x39080034018 ||| m = m) (n : Nat) :
    Same m z (State.refresh t n) := by
  unfold State.refresh
  dsimp only
  repeat' with_reducible first
    | exact hk | assumption | apply Same.ite | apply Same.ite2 | apply recTo_same (h := up h rfl)
    | apply raise_same (h := up h rfl) | apply useEntry_same (h := up h rfl) | apply modChan_same (h := up h rfl)
    | apply store_same (h := up h rfl) | apply mcInvalid_same (h := up h rfl) | apply addFld_same (h := up h rfl)
    | apply setFld_same (h := up h rfl)

theorem lunAtFault_same {m : Nat} {z t : State} (hk : Same m z t) (h : 0x200003000 ||| m = m) (key : Nat) (glitch : Bool) :
    Same m z (State.lunAtFault t key glitch) := by
  unfold State.lunAtFault
  dsimp only
  repeat' with_reducible first
    | exact hk | assumption | exact mayDiffer h rfl | exact fun _ => rfl | apply Same.ite | apply Same.ite2
    | apply grantsAtDie_same (h := up h rfl) | apply modLun_same (h := up h rfl) | split
    | (apply Same.snd; assumption) | apply Same.lit

theorem faultTag_same {m : Nat} {z t : State} (hk : Same m z t) (h : 0x439e9c6ffcd0 ||| m = m) (t' : Nat) (n : Nat) (kind : Nat) :
    Same m z (State.faultTag t t' n kind) := by
  unfold State.faultTag
  dsimp only
  repeat' with_reducible first
    | exact hk | assumption | apply Same.ite | apply Same.ite2 | apply modTag_same (h := up h rfl)
    | apply exhaust_same (h := up h rfl) | apply tagTo_same (h := up h rfl) | apply tooLate_same (h := up h rfl)
    | apply abortIfPending_same (h := up h rfl) | split | (apply Same.snd; assumption)

theorem faultReads_same {m : Nat} {z t : State} (hk : Same m z t) (h : 0x439e9c6ffcd0 ||| m = m) (n : Nat) (kind : Nat) :
    Same m z (State.faultReads t n kind) := by
  unfold State.faultReads
  repeat' with_reducible first
    | exact hk | assumption | intro _ | apply Same.foldl | apply Same.foldl2 | apply memberLost_same (h := up h rfl)
    | apply closeRead_same (h := up h rfl) | apply raise_same (h := up h rfl) | apply stopTag_same (h := up h rfl)
    | split | (apply Same.snd; assumption)

theorem worksAtFault_same {m : Nat} {z t : State} (hk : Same m z t) (h : 0x1000 ||| m = m) (n : Nat) :
    Same m z (State.worksAtFault t n) := by
  unfold State.worksAtFault
  dsimp only
  repeat' with_reducible first
    | exact hk | assumption | exact mayDiffer h rfl | exact fun _ => rfl | apply Same.ite | apply Same.ite2 | split
    | (apply Same.snd; assumption) | apply Same.lit

theorem fault_same {m : Nat} {z t : State} (hk : Same m z t) (h : 0x63be9c6ffcd8 ||| m = m) (n : Nat) (kind : Nat) (addr : Nat) :
    Same m z (State.fault t n kind addr) := by
  unfold State.fault
  dsimp only
  repeat' with_reducible first
    | exact hk | assumption | intro _ | apply Same.ite | apply Same.ite2 | apply Same.foldl | apply Same.foldl2
    | apply addFld_same (h := up h rfl) | apply setFld_same (h := up h rfl) | apply abandonSurvey_same (h := up h rfl)
    | apply dropResets_same (h := up h rfl) | apply targetReset_same (h := up h rfl)
    | apply modChan_same (h := up h rfl) | apply store_same (h := up h rfl) | apply enterReset_same (h := up h rfl)
    | apply faultTag_same (h := up h rfl) | apply recTo_same (h := up h rfl) | apply addWork_same (h := up h rfl)
    | apply worksAtFault_same (h := up h rfl) | apply lunAtFault_same (h := up h rfl)
    | apply faultReads_same (h := up h rfl) | apply raise_same (h := up h rfl) | apply refresh_same (h := up h rfl)
    | split | (apply Same.snd; assumption)

theorem resetEnd_same {m : Nat} {z t : State} (hk : Same m z t) (h : 0x73be9c6ffcd8 ||| m = m) (n : Nat) :
    Same m z (State.resetEnd t n) := by
  unfold State.resetEnd
  dsimp only
  repeat' with_reducible first
    | exact hk | assumption | intro _ | apply Same.ite | apply Same.foldl | apply fault_same (h := up h rfl)
    | apply store_same (h := up h rfl) | apply leaveReset_same (h := up h rfl) | apply recTo_same (h := up h rfl)
    | apply retrain_same (h := up h rfl) | apply noStepFailed_same (h := up h rfl)
    | apply modChan_same (h := up h rfl) | apply askReset_same (h := up h rfl) | apply retrainNow_same (h := up h rfl)

theorem replayEnd_same {m : Nat} {z t : State} (hk : Same m z t) (h : 0x38080005010 ||| m = m) (n : Nat) :
    Same m z (State.replayEnd t n) := by
  unfold State.replayEnd
  dsimp only
  repeat' with_reducible first
    | exact hk | assumption | exact mayDiffer h rfl | exact fun _ => rfl | apply Same.ite | apply Same.ite2
    | apply recTo_same (h := up h rfl) | apply modChan_same (h := up h rfl) | apply raise_same (h := up h rfl)
    | apply Same.lit

theorem readBack_same {m : Nat} {z t : State} (hk : Same m z t) (h : 0x439a8c6ffc90 ||| m = m) (id : Nat) :
    Same m z (State.readBack t id) := by
  unfold State.readBack
  dsimp only
  repeat' with_reducible first
    | exact hk | assumption | apply Same.ite | apply Same.ite2 | apply modWork_same (h := up h rfl)
    | apply programWell_same (h := up h rfl) | apply deltas_same (h := up h rfl) | apply raise_same (h := up h rfl)
    | apply programLost_same (h := up h rfl) | split | (apply Same.snd; assumption)

theorem readPacketLost_same {m : Nat} {z t : State} (hk : Same m z t) (h : 0x439e9c6ffcd0 ||| m = m) (id : Nat) (w : Work) (again : Bool) :
    Same m z (State.readPacketLost t id w again) := by
  unfold State.readPacketLost
  dsimp only
  repeat' with_reducible first
    | exact hk | assumption | apply Same.ite | apply readBack_same (h := up h rfl)
    | apply programLost_same (h := up h rfl) | apply stopTag_same (h := up h rfl) | apply modChan_same (h := up h rfl)
    | apply modWork_same (h := up h rfl) | apply tagTo_same (h := up h rfl) | split | (apply Same.snd; assumption)

theorem programPacketLost_same {m : Nat} {z t : State} (hk : Same m z t) (h : 0x7000 ||| m = m) (id : Nat) (w : Work) :
    Same m z (State.programPacketLost t id w) := by
  unfold State.programPacketLost
  dsimp only
  repeat' with_reducible first
    | exact hk | assumption | apply Same.ite | apply modLun_same (h := up h rfl) | apply modChan_same (h := up h rfl)
    | apply modWork_same (h := up h rfl) | split | (apply Same.snd; assumption)

theorem packetLost_same {m : Nat} {z t : State} (hk : Same m z t) (h : 0x439e9c6ffcd0 ||| m = m) (id : Nat) (ingress : Bool) :
    Same m z (State.packetLost t id ingress) := by
  unfold State.packetLost
  dsimp only
  repeat' with_reducible first
    | exact hk | assumption | apply Same.ite | apply modTag_same (h := up h rfl)
    | apply readPacketLost_same (h := up h rfl) | apply poisonProgram_same (h := up h rfl)
    | apply programPacketLost_same (h := up h rfl) | apply modChan_same (h := up h rfl)
    | apply stopTag_same (h := up h rfl) | split | (apply Same.snd; assumption)

theorem fifoMismatch_same {m : Nat} {z t : State} (hk : Same m z t) (h : 0x439e9c6ffcd0 ||| m = m) (n : Nat) (f : FifoId) :
    Same m z (State.fifoMismatch t n f) := by
  unfold State.fifoMismatch
  dsimp only
  repeat' with_reducible first
    | exact hk | assumption | apply addFld_same (h := up h rfl) | apply setBit_same (h := up h rfl)
    | apply raise_same (h := up h rfl) | apply modChan_same (h := up h rfl) | apply packetLost_same (h := up h rfl)
    | split | (apply Same.snd; assumption)

theorem trackWindow_same {m : Nat} {z t : State} (hk : Same m z t) (h : 0x63be9c6ffcd8 ||| m = m) (n : Nat) (late : Option Bool) :
    Same m z (State.trackWindow t n late) := by
  unfold State.trackWindow
  dsimp only
  repeat' with_reducible first
    | exact hk | assumption | apply Same.ite | apply modChan_same (h := up h rfl) | apply setFld_same (h := up h rfl)
    | apply addFld_same (h := up h rfl) | apply fault_same (h := up h rfl) | split | (apply Same.snd; assumption)

theorem faultRequest_same {m : Nat} {z t : State} (hk : Same m z t) (h : 0x63be9c6ffcd8 ||| m = m) (n : Nat) :
    Same m z (State.faultRequest t n) := by
  unfold State.faultRequest
  repeat' with_reducible first
    | exact hk | assumption | apply Same.ite | apply fault_same (h := up h rfl) | apply setBit_same (h := up h rfl)

theorem execDiscover_same {m : Nat} {z t : State} (hk : Same m z t) (h : 0x339280035050 ||| m = m) (ch : Nat) :
    SameX m z (execDiscover ch t) := by
  unfold execDiscover
  repeat' with_reducible first
    | exact hk | assumption | apply Same.ite | apply holdRequest_same (h := up h rfl)
    | apply discover_same (h := up h rfl) | apply SameX.next | split

theorem execSetRate_same {m : Nat} {z t : State} (hk : Same m z t) (h : 0x43b080036050 ||| m = m) (ch : Nat) :
    SameX m z (execSetRate ch t) := by
  unfold execSetRate
  repeat' with_reducible first
    | exact hk | assumption | apply Same.ite | apply holdRequest_same (h := up h rfl)
    | apply setRate_same (h := up h rfl) | apply SameX.next | split

theorem execRetrain_same {m : Nat} {z t : State} (hk : Same m z t) (h : 0x40b080036050 ||| m = m) (ch : Nat) :
    SameX m z (execRetrain ch t) := by
  unfold execRetrain
  repeat' with_reducible first
    | exact hk | assumption | apply Same.ite | apply holdRequest_same (h := up h rfl)
    | apply retrain_same (h := up h rfl) | apply SameX.next | split

theorem resetsPolled_same {m : Nat} {z t : State} (hk : Same m z t) (h : 0x40a000006010 ||| m = m) (n : Nat) (out : Bool) :
    Same m z (State.resetsPolled t n out) := by
  unfold State.resetsPolled
  repeat' with_reducible first
    | exact hk | assumption | apply Same.ite | apply stepTwo_same (h := up h rfl)

theorem execLoadAll_same {m : Nat} {z t : State} (hk : Same m z t) (h : 0x3080036050 ||| m = m) :
    SameX m z (execLoadAll t) := by
  unfold execLoadAll
  repeat' with_reducible first
    | exact hk | assumption | apply Same.ite | apply holdRequest_same (h := up h rfl)
    | apply loadAll_same (h := up h rfl) | apply SameX.next | split

theorem execMcLoad_same {m : Nat} {z t : State} (hk : Same m z t) (h : 0x3080036050 ||| m = m) (ch : Nat) :
    SameX m z (execMcLoad ch t) := by
  unfold execMcLoad
  repeat' with_reducible first
    | exact hk | assumption | apply Same.ite | apply holdRequest_same (h := up h rfl)
    | apply mcLoad_same (h := up h rfl) | apply SameX.next | split

theorem execReplayFaultRequest_same {m : Nat} {z t : State} (hk : Same m z t) (h : 0x63be9c6ffcd8 ||| m = m) (ch : Nat) :
    SameX m z (execReplayFaultRequest ch t) := by
  unfold execReplayFaultRequest
  repeat' with_reducible first
    | exact hk | assumption | apply Same.ite | apply holdRequest_same (h := up h rfl)
    | apply faultRequest_same (h := up h rfl) | apply SameX.next | split

end Sys2Proof.Machine
end

