-- ==== Sys2Proof/Laws/Frames/Routine.lean ====
section
/-! SUPPORT. Which fields the operations of `Machine/Routine.lean` may change. -/

namespace Sys2Proof.Machine
open Sys2Proof

theorem storeCapture_same {m : Nat} {z t : State} (hk : Same m z t) (h : 0x39080035010 ||| m = m) (n : Nat) (id : Nat) (t' : Nat) (w : Work) :
    Same m z (State.storeCapture t n id t' w) := by
  unfold State.storeCapture
  dsimp only
  repeat' with_reducible first
    | exact hk | assumption | apply Same.ite | apply frameWrite_same (h := up h rfl)
    | apply modWork_same (h := up h rfl) | apply modChan_same (h := up h rfl) | split | (apply Same.snd; assumption)

theorem routinePauses_same {m : Nat} {z t : State} (hk : Same m z t) (h : 0x39080035010 ||| m = m) (n : Nat) (id : Nat) (t' : Nat) (w : Work) :
    Same m z (State.routinePauses t n id t' w) := by
  unfold State.routinePauses
  dsimp only
  repeat' with_reducible first
    | exact hk | assumption | apply storeCapture_same (h := up h rfl) | apply modWork_same (h := up h rfl)
    | apply modChan_same (h := up h rfl) | apply busEnds_same (h := up h rfl)

theorem routineAbandoned_same {m : Nat} {z t : State} (hk : Same m z t) (h : 0x439e9c6ffcd0 ||| m = m) (t' : Nat) :
    Same m z (State.routineAbandoned t t') := by
  unfold State.routineAbandoned
  dsimp only
  repeat' with_reducible first
    | exact hk | assumption | apply Same.ite | apply Same.ite2 | apply abortIfPending_same (h := up h rfl)
    | apply resetTag_same (h := up h rfl)

theorem routineEnds_same {m : Nat} {z t : State} (hk : Same m z t) (h : 0x439a8c6ffc90 ||| m = m) (n : Nat) (id : Nat) (t' : Nat) (w : Work) :
    Same m z (State.routineEnds t n id t' w) := by
  unfold State.routineEnds
  dsimp only
  repeat' with_reducible first
    | exact hk | assumption | apply Same.ite | apply storeCapture_same (h := up h rfl)
    | apply busEnds_same (h := up h rfl) | apply endWork_same (h := up h rfl) | apply finish_same (h := up h rfl)
    | apply modTag_same (h := up h rfl) | apply tagTo_same (h := up h rfl) | split | (apply Same.snd; assumption)

theorem routineRan_same {m : Nat} {z t : State} (hk : Same m z t) (h : 0x73be9c6ffcd8 ||| m = m) (n : Nat) (id : Nat) (t' : Nat) (w : Work) (e : Nat) (q : Seq) :
    Same m z (State.routineRan t n id t' w e q) := by
  unfold State.routineRan
  dsimp only
  repeat' with_reducible first
    | exact hk | assumption | exact mayDiffer h rfl | exact fun _ => rfl | intro _ | apply Same.ite | apply Same.ite2
    | apply Same.foldl | apply Same.foldl2 | apply traceMsg_same (h := up h rfl) | apply modChan_same (h := up h rfl)
    | apply modWork_same (h := up h rfl) | apply routineOp_same (h := up h rfl)
    | apply confirmTag_same (h := up h rfl) | apply modTag_same (h := up h rfl)
    | apply suspendedLun_same (h := up h rfl) | apply fault_same (h := up h rfl)
    | apply routineAbandoned_same (h := up h rfl) | apply routinePauses_same (h := up h rfl)
    | apply routineEnds_same (h := up h rfl) | split | (apply Same.snd; assumption) | apply Same.lit

theorem routineOn_same {m : Nat} {z t : State} (hk : Same m z t) (h : 0x73be9c6ffcd8 ||| m = m) (n : Nat) (id : Nat) (t' : Nat) (w : Work) (input : List Byte) :
    Same m z (State.routineOn t n id t' w input) := by
  unfold State.routineOn
  dsimp only
  repeat' with_reducible first
    | exact hk | assumption | exact mayDiffer h rfl | exact fun _ => rfl | apply routineRan_same (h := up h rfl)
    | split | (apply Same.snd; assumption) | apply Same.lit

theorem routineStart_same {m : Nat} {z t : State} (hk : Same m z t) (h : 0x439e9c6ffcd0 ||| m = m) (n : Nat) (id : Nat) (t' : Nat) (w : Work) :
    Same m z (State.routineStart t n id t' w) := by
  unfold State.routineStart
  dsimp only
  repeat' with_reducible first
    | exact hk | assumption | apply Same.ite | apply Same.ite2 | apply frameRead_same (h := up h rfl)
    | apply stopTag_same (h := up h rfl) | apply traceJob_same (h := up h rfl) | apply issueTag_same (h := up h rfl)
    | apply busJob_same (h := up h rfl) | apply modChan_same (h := up h rfl) | split | (apply Same.snd; assumption)

theorem getFeatureJob_same {m : Nat} {z t : State} (hk : Same m z t) (h : 0x43da8c6ffcb0 ||| m = m) (n : Nat) (id : Nat) (t' : Nat) (w : Work) (input : List Byte) :
    Same m z (State.getFeatureJob t n id t' w input) := by
  unfold State.getFeatureJob
  dsimp only
  repeat' with_reducible first
    | exact hk | assumption | apply Same.ite | apply traceJob_same (h := up h rfl)
    | apply issueTag_same (h := up h rfl) | apply busJob_same (h := up h rfl) | apply dataOut_same (h := up h rfl)
    | apply endWork_same (h := up h rfl) | apply finish_same (h := up h rfl)

theorem setFeatureJob_same {m : Nat} {z t : State} (hk : Same m z t) (h : 0x439a8c6ffc90 ||| m = m) (n : Nat) (id : Nat) (t' : Nat) (w : Work) :
    Same m z (State.setFeatureJob t n id t' w) := by
  unfold State.setFeatureJob
  dsimp only
  repeat' with_reducible first
    | exact hk | assumption | apply traceJob_same (h := up h rfl) | apply issueTag_same (h := up h rfl)
    | apply busJob_same (h := up h rfl) | apply endWork_same (h := up h rfl) | apply finish_same (h := up h rfl)

theorem paramJob_same {m : Nat} {z t : State} (hk : Same m z t) (h : 0x43d280037430 ||| m = m) (n : Nat) (id : Nat) (t' : Nat) (w : Work) (f : Nat) (input : List Byte) :
    Same m z (State.paramJob t n id t' w f input) := by
  unfold State.paramJob
  dsimp only
  repeat' with_reducible first
    | exact hk | assumption | apply Same.ite | apply traceJob_same (h := up h rfl)
    | apply issueTag_same (h := up h rfl) | apply busJob_same (h := up h rfl) | apply dataOut_same (h := up h rfl)
    | apply frameWrite_same (h := up h rfl) | apply endWork_same (h := up h rfl) | apply modTag_same (h := up h rfl)
    | apply tagTo_same (h := up h rfl)

theorem featureJob_same {m : Nat} {z t : State} (hk : Same m z t) (h : 0x73fe9c6ffcf8 ||| m = m) (n : Nat) (input : List Byte) :
    Same m z (State.featureJob t n input) := by
  unfold State.featureJob
  dsimp only
  repeat' with_reducible first
    | exact hk | assumption | apply Same.ite | apply endWork_same (h := up h rfl)
    | apply getFeatureJob_same (h := up h rfl) | apply setFeatureJob_same (h := up h rfl)
    | apply paramJob_same (h := up h rfl) | apply routineStart_same (h := up h rfl)
    | apply routineOn_same (h := up h rfl) | split | (apply Same.snd; assumption)

theorem accessTimeout_same {m : Nat} {z t : State} (hk : Same m z t) (h : 0x439e9c6ffcd0 ||| m = m) (n : Nat) (l : Nat) :
    Same m z (State.accessTimeout t n l) := by
  unfold State.accessTimeout
  dsimp only
  repeat' with_reducible first
    | exact hk | assumption | apply modWork_same (h := up h rfl) | apply stopTag_same (h := up h rfl)
    | apply endWork_same (h := up h rfl) | apply modLun_same (h := up h rfl) | apply attn_same (h := up h rfl)
    | apply grantFrames_same (h := up h rfl) | split | (apply Same.snd; assumption)

theorem badMessageFault_same {m : Nat} {z t : State} (hk : Same m z t) (h : 0x63be9c6ffcd8 ||| m = m) (n : Nat) :
    Same m z (State.badMessageFault t n) := by
  unfold State.badMessageFault
  repeat' with_reducible first
    | exact hk | assumption | apply fault_same (h := up h rfl)

end Sys2Proof.Machine
end

