-- ==== Sys2Proof/Laws/Frames/Mcode.lean ====
section
/-! SUPPORT. Which fields the operations of `Machine/Mcode.lean` may change. -/

namespace Sys2Proof.Machine
open Sys2Proof

theorem mcOpen_same {m : Nat} {z t : State} (hk : Same m z t) (h : 0x18 ||| m = m) :
    Same m z (State.mcOpen t) := by
  unfold State.mcOpen
  repeat' with_reducible first
    | exact hk | assumption | exact mayDiffer h rfl | exact fun _ => rfl | apply Same.ite
    | apply setBit_same (h := up h rfl) | apply Same.lit

theorem mcVerify_same {m : Nat} {z t : State} (hk : Same m z t) (h : 0x18 ||| m = m) :
    Same m z (State.mcVerify t) := by
  unfold State.mcVerify
  repeat' with_reducible first
    | exact hk | assumption | exact mayDiffer h rfl | exact fun _ => rfl | apply Same.ite
    | apply setBit_same (h := up h rfl) | apply Same.lit

theorem refreshesGo_same {m : Nat} {z t : State} (hk : Same m z t) (h : 0x9000034010 ||| m = m) :
    Same m z (State.refreshesGo t) := by
  unfold State.refreshesGo
  repeat' with_reducible first
    | exact hk | assumption | intro _ | apply Same.ite | apply Same.foldl | apply modChan_same (h := up h rfl)
    | apply store_same (h := up h rfl) | apply recTo_same (h := up h rfl)

theorem mcVerified_same {m : Nat} {z t : State} (hk : Same m z t) (h : 0x39080034018 ||| m = m) :
    Same m z (State.mcVerified t) := by
  unfold State.mcVerified
  refine Same.ite hk ?_
  extract_lets early r
  have hr : Same m z r.2 := Same.ite2 (Same.mk2 hk) (useEntry_same hk (up h rfl) 6 0 40960)
  clear_value r
  refine Same.ite (mcInvalid_same hr (up h rfl) _ _) ?_
  split
  · exact mcInvalid_same hr (up h rfl) _ _
  · refine raise_same (refreshesGo_same ?_ (up h rfl)) (up h rfl) _
    repeat' with_reducible first
      | exact hr | exact mayDiffer h rfl | exact fun _ => rfl | apply Same.lit

theorem execMcOpen_same {m : Nat} {z t : State} (hk : Same m z t) (h : 0x80000058 ||| m = m) :
    SameX m z (execMcOpen t) := by
  unfold execMcOpen
  repeat' with_reducible first
    | exact hk | assumption | apply Same.ite | apply holdRequest_same (h := up h rfl)
    | apply mcOpen_same (h := up h rfl) | apply SameX.next | split

theorem execMcVerify_same {m : Nat} {z t : State} (hk : Same m z t) (h : 0x80000058 ||| m = m) :
    SameX m z (execMcVerify t) := by
  unfold execMcVerify
  repeat' with_reducible first
    | exact hk | assumption | apply Same.ite | apply holdRequest_same (h := up h rfl)
    | apply mcVerify_same (h := up h rfl) | apply SameX.next | split

end Sys2Proof.Machine
end

