-- ==== Sys2Proof/Laws/Frames/Survey.lean ====
section
/-! SUPPORT. Which fields the operations of `Machine/Survey.lean` may change. -/

namespace Sys2Proof.Machine
open Sys2Proof

theorem modSurvey_same {m : Nat} {z t : State} (hk : Same m z t) (h : 0x4000 ||| m = m) (n : Nat) (f : Survey → Survey) :
    Same m z (State.modSurvey t n f) := by
  unfold State.modSurvey
  repeat' with_reducible first
    | exact hk | assumption | apply modChan_same (h := up h rfl)

theorem nextSlotN_same {m : Nat} {z t : State} (hk : Same m z t) (h : 0x339880405010 ||| m = m) (fuel : Nat) (n : Nat) (j : Nat) :
    Same m z (State.nextSlotN t fuel n j) := by
  induction fuel generalizing t n j with
  | zero => unfold State.nextSlotN; first | exact hk | exact SameO.none
  | succ k ih =>
    unfold State.nextSlotN
    try dsimp only
    repeat' with_reducible first
      | exact hk | assumption | apply Same.ite | apply Same.ite2 | apply modSurvey_same (h := up h rfl)
      | apply tick_same (h := up h rfl) | apply addWork_same (h := up h rfl) | apply fixLevels_same (h := up h rfl)
      | apply ih | split | (apply Same.snd; assumption)

theorem surveyPart_same {m : Nat} {z t : State} (hk : Same m z t) (h : 0x339880405010 ||| m = m) (n : Nat) (k : Nat) :
    Same m z (State.surveyPart t n k) := by
  unfold State.surveyPart
  dsimp only
  repeat' with_reducible first
    | exact hk | assumption | apply Same.ite | apply modSurvey_same (h := up h rfl)
    | apply nextSlotN_same (h := up h rfl)

theorem startSurvey_same {m : Nat} {z t : State} (hk : Same m z t) (h : 0x339880405410 ||| m = m) (n : Nat) (parts : Nat) (tag : Option Nat) :
    Same m z (State.startSurvey t n parts tag) := by
  unfold State.startSurvey
  dsimp only
  repeat' with_reducible first
    | exact hk | assumption | apply Same.ite | apply modSurvey_same (h := up h rfl) | apply tagTo_same (h := up h rfl)
    | apply surveyPart_same (h := up h rfl) | split | (apply Same.snd; assumption)

theorem surveyAgain_same {m : Nat} {z t : State} (hk : Same m z t) (h : 0x339880405410 ||| m = m) (n : Nat) :
    Same m z (State.surveyAgain t n) := by
  unfold State.surveyAgain
  repeat' with_reducible first
    | exact hk | assumption | apply Same.ite | apply modSurvey_same (h := up h rfl)
    | apply startSurvey_same (h := up h rfl) | split | (apply Same.snd; assumption)

theorem surveyStart_same {m : Nat} {z t : State} (hk : Same m z t) (h : 0x339880405410 ||| m = m) :
    Same m z (State.surveyStart t) := by
  unfold State.surveyStart
  repeat' with_reducible first
    | exact hk | assumption | apply Same.ite | apply surveyAgain_same (h := up h rfl)
    | apply startSurvey_same (h := up h rfl) | split | (apply Same.snd; assumption)

theorem eyeScan_same {m : Nat} {z t : State} (hk : Same m z t) (h : 0x739880405010 ||| m = m) (n : Nat) (report : List EyeReport) :
    Same m z (State.eyeScan t n report) := by
  unfold State.eyeScan
  dsimp only
  repeat' with_reducible first
    | exact hk | assumption | apply Same.ite | apply Same.ite2 | apply traceJob_same (h := up h rfl)
    | apply busJob_same (h := up h rfl) | apply modSurvey_same (h := up h rfl) | apply surveyPart_same (h := up h rfl)
    | split | (apply Same.snd; assumption)

theorem sampleDone_same {m : Nat} {z t : State} (hk : Same m z t) (h : 0x739a80437810 ||| m = m) (id : Nat) (w : Work) (j : Nat) :
    Same m z (State.sampleDone t id w j) := by
  unfold State.sampleDone
  dsimp only
  repeat' with_reducible first
    | exact hk | assumption | apply Same.ite | apply Same.ite2 | apply endWork_same (h := up h rfl)
    | apply attemptOffsets_same (h := up h rfl) | apply writeLevels_same (h := up h rfl)
    | apply raise_same (h := up h rfl) | apply modSurvey_same (h := up h rfl) | apply nextSlotN_same (h := up h rfl)
    | split | (apply Same.snd; assumption)

theorem sampleRead_same {m : Nat} {z t : State} (hk : Same m z t) (h : 0x73da82c37810 ||| m = m) (n : Nat) (data : List Byte) :
    Same m z (State.sampleRead t n data) := by
  unfold State.sampleRead
  dsimp only
  repeat' with_reducible first
    | exact hk | assumption | apply Same.ite | apply Same.ite2 | apply traceJob_same (h := up h rfl)
    | apply busJob_same (h := up h rfl) | apply readsStart_same (h := up h rfl) | apply modLun_same (h := up h rfl)
    | apply ledgerRead_same (h := up h rfl) | apply decodeBytes_same (h := up h rfl)
    | apply traceDecode_same (h := up h rfl) | apply modSurvey_same (h := up h rfl)
    | apply releaseGrants_same (h := up h rfl) | apply modWork_same (h := up h rfl)
    | apply sampleDone_same (h := up h rfl) | split | (apply Same.snd; assumption)

theorem ringCount_same {m : Nat} {z t : State} (hk : Same m z t) (h : 0x38080004010 ||| m = m) (n : Nat) (ring : Nat) (count : Nat) :
    Same m z (State.ringCount t n ring count) := by
  unfold State.ringCount
  dsimp only
  repeat' with_reducible first
    | exact hk | assumption | apply Same.ite | apply Same.ite2 | apply count_same (h := up h rfl)
    | apply setFld_same (h := up h rfl) | apply modSurvey_same (h := up h rfl) | apply raise_same (h := up h rfl)

theorem putMeasures_same {m : Nat} {z t : State} (hk : Same m z t) (h : 0x10 ||| m = m) (n : Nat) :
    Same m z (State.putMeasures t n) := by
  unfold State.putMeasures
  dsimp only
  repeat' with_reducible first
    | exact hk | assumption | intro _ | apply Same.ite | apply Same.ite2 | apply Same.foldl | apply Same.foldl2
    | apply setReg_same (h := up h rfl) | split | (apply Same.snd; assumption)

theorem planLevel_same {m : Nat} {z t : State} (hk : Same m z t) (h : 0x10 ||| m = m) (n : Nat) :
    Same m z (State.planLevel t n) := by
  unfold State.planLevel
  dsimp only
  repeat' with_reducible first
    | exact hk | assumption | intro _ | apply Same.ite | apply Same.ite2 | apply Same.foldl | apply Same.foldl2
    | apply setReg_same (h := up h rfl) | apply setFld_same (h := up h rfl) | apply setBit_same (h := up h rfl)
    | split | (apply Same.snd; assumption)

theorem planStarts_same {m : Nat} {z t : State} (hk : Same m z t) (h : 0x4010 ||| m = m) (n : Nat) :
    Same m z (State.planStarts t n) := by
  unfold State.planStarts
  dsimp only
  repeat' with_reducible first
    | exact hk | assumption | intro _ | apply Same.ite | apply Same.ite2 | apply Same.foldl | apply Same.foldl2
    | apply setFld_same (h := up h rfl) | apply modChan_same (h := up h rfl) | split | (apply Same.snd; assumption)

theorem autoTrim_same {m : Nat} {z t : State} (hk : Same m z t) (h : 0x4000 ||| m = m) (n : Nat) (shifts : List Int) :
    Same m z (State.autoTrim t n shifts) := by
  unfold State.autoTrim
  dsimp only
  repeat' with_reducible first
    | exact hk | assumption | intro _ | apply Same.ite | apply Same.ite2 | apply Same.foldl | apply Same.foldl2
    | apply modChan_same (h := up h rfl)

theorem rewritePlan_same {m : Nat} {z t : State} (hk : Same m z t) (h : 0x339a8c6fdc90 ||| m = m) (n : Nat) :
    Same m z (State.rewritePlan t n) := by
  unfold State.rewritePlan
  dsimp only
  repeat' with_reducible first
    | exact hk | assumption | apply Same.ite | apply Same.ite2 | apply putMeasures_same (h := up h rfl)
    | apply planLevel_same (h := up h rfl) | apply setFld_same (h := up h rfl) | apply planStarts_same (h := up h rfl)
    | apply setReg_same (h := up h rfl) | apply setArrBit_same (h := up h rfl) | apply raise_same (h := up h rfl)
    | apply count_same (h := up h rfl) | apply autoTrim_same (h := up h rfl) | apply modSurvey_same (h := up h rfl)
    | apply finish_same (h := up h rfl) | apply surveyAgain_same (h := up h rfl) | split
    | (apply Same.snd; assumption)

theorem surveyDue_same {m : Nat} {z t : State} (hk : Same m z t) (h : 0x4000 ||| m = m) (n : Nat) :
    Same m z (State.surveyDue t n) := by
  unfold State.surveyDue
  repeat' with_reducible first
    | exact hk | assumption | apply Same.ite | apply modSurvey_same (h := up h rfl)

end Sys2Proof.Machine
end

