-- ==== Sys2Proof/Laws/Frames/Service.lean ====
section
/-! SUPPORT. Which fields the operations of `Machine/Service.lean` may change. -/

namespace Sys2Proof.Machine
open Sys2Proof

theorem globalReqError_same {m : Nat} {z t : State} (hk : Same m z t) (h : 0x10 ||| m = m) :
    Same m z (State.globalReqError t) := by
  unfold State.globalReqError
  repeat' with_reducible first
    | exact hk | assumption | apply setBit_same (h := up h rfl)

theorem setFence_same {m : Nat} {z t : State} (hk : Same m z t) (h : 0x439e9c6ffcd0 ||| m = m) (n : Nat) :
    Same m z (State.setFence t n) := by
  unfold State.setFence
  dsimp only
  repeat' with_reducible first
    | exact hk | assumption | intro _ | apply Same.ite | apply Same.ite2 | apply Same.foldl | apply Same.foldl2
    | apply modChan_same (h := up h rfl) | apply abandonSurvey_same (h := up h rfl)
    | apply memberLost_same (h := up h rfl) | apply closeRead_same (h := up h rfl)
    | apply stopTag_same (h := up h rfl) | split | (apply Same.snd; assumption)

theorem clearFence_same {m : Nat} {z t : State} (hk : Same m z t) (h : 0x1000034010 ||| m = m) (n : Nat) :
    Same m z (State.clearFence t n) := by
  unfold State.clearFence
  dsimp only
  repeat' with_reducible first
    | exact hk | assumption | apply Same.ite | apply store_same (h := up h rfl)
    | apply globalReqError_same (h := up h rfl) | apply modChan_same (h := up h rfl)

theorem wpSet_same {m : Nat} {z t : State} (hk : Same m z t) (h : 0x10 ||| m = m) (n : Nat) :
    Same m z (State.wpSet t n) := by
  unfold State.wpSet
  repeat' with_reducible first
    | exact hk | assumption | apply Same.ite | apply setArrBit_same (h := up h rfl)
    | apply globalReqError_same (h := up h rfl)

theorem testStart_same {m : Nat} {z t : State} (hk : Same m z t) (h : 0x2000000010 ||| m = m) (extended : Bool) :
    Same m z (State.testStart t extended) := by
  unfold State.testStart
  extract_lets s1 s2 s3
  have h1 : Same m z s1 := setReg_same hk (up h rfl) _ _
  have h2 : Same m z s2 := Same.foldl (fun u x hu => setReg_same (setReg_same hu (up h rfl) _ _) (up h rfl) _ _) h1
  have h3 : Same m z s3 := Same.foldl (fun u x hu => setReg_same hu (up h rfl) _ _) h2
  clear_value s3
  repeat' with_reducible first
    | exact h3 | exact mayDiffer h rfl | exact fun _ => rfl | apply Same.lit

theorem testCut_same {m : Nat} {z t : State} (hk : Same m z t) (h : 0x10 ||| m = m) (n : Nat) :
    Same m z (State.testCut t n) := by
  unfold State.testCut
  repeat' with_reducible first
    | exact hk | assumption | apply setBit_same (h := up h rfl) | apply setArrBit_same (h := up h rfl)

theorem testOutcome_same {m : Nat} {z t : State} (hk : Same m z t) (h : 0x3a080010010 ||| m = m) (o : TestOutcome) :
    Same m z (State.testOutcome t o) := by
  unfold State.testOutcome
  refine Same.ite hk ?_
  extract_lets n loop fs s1 failing skip s2 tst s3 storeFail apart s4 trim bad s5 s6
  have h1 : Same m z s1 := by
    repeat' with_reducible first
      | exact hk | exact mayDiffer h rfl | exact fun _ => rfl | apply Same.lit
  have h2 : Same m z s2 := Same.foldl (fun u x hu => logError_same hu (up h rfl) 5 x true false 0x1FF) h1
  clear_value s2
  have h3 : Same m z s3 := by
    refine Same.ite h2 (raise_same ?_ (up h rfl) 860)
    repeat' with_reducible first
      | exact h2 | exact mayDiffer h rfl | exact fun _ => rfl | apply Same.lit
  have h4 : Same m z s4 := Same.ite (raise_same h3 (up h rfl) 859) h3
  have h5 : Same m z s5 := setReg_same h4 (up h rfl) _ _
  have h6 : Same m z s6 := Same.ite (setArrBit_same h5 (up h rfl) _ _ _) h5
  exact Same.ite (setArrBit_same h6 (up h rfl) _ _ _) h6

theorem testEnd_same {m : Nat} {z t : State} (hk : Same m z t) (h : 0x3a080010010 ||| m = m) (l : List TestOutcome) :
    Same m z (State.testEnd t l) := by
  unfold State.testEnd
  dsimp only
  repeat' with_reducible first
    | exact hk | assumption | exact mayDiffer h rfl | exact fun _ => rfl | intro _ | apply Same.ite | apply Same.foldl
    | apply testCut_same (h := up h rfl) | apply testOutcome_same (h := up h rfl) | apply setFld_same (h := up h rfl)
    | apply raise_same (h := up h rfl) | apply Same.lit

theorem loopback_same {m : Nat} {z t : State} (hk : Same m z t) (h : 0x40a000004010 ||| m = m) (n : Nat) (captured : Bool) :
    Same m z (State.loopback t n captured) := by
  unfold State.loopback
  dsimp only
  repeat' with_reducible first
    | exact hk | assumption | exact mayDiffer h rfl | exact fun _ => rfl | apply Same.ite
    | apply traceJob_same (h := up h rfl) | apply busJob_same (h := up h rfl) | apply Same.lit

theorem execChanFenceSet_same {m : Nat} {z t : State} (hk : Same m z t) (h : 0x439e9c6ffcd0 ||| m = m) (ch : Nat) :
    SameX m z (execChanFenceSet ch t) := by
  unfold execChanFenceSet
  repeat' with_reducible first
    | exact hk | assumption | apply Same.ite | apply holdRequest_same (h := up h rfl)
    | apply setFence_same (h := up h rfl) | apply SameX.next | split

theorem execChanFenceClr_same {m : Nat} {z t : State} (hk : Same m z t) (h : 0x1080034050 ||| m = m) (ch : Nat) :
    SameX m z (execChanFenceClr ch t) := by
  unfold execChanFenceClr
  repeat' with_reducible first
    | exact hk | assumption | apply Same.ite | apply holdRequest_same (h := up h rfl)
    | apply clearFence_same (h := up h rfl) | apply SameX.next | split

theorem execWpRelSet_same {m : Nat} {z t : State} (hk : Same m z t) (h : 0x80000050 ||| m = m) (ch : Nat) :
    SameX m z (execWpRelSet ch t) := by
  unfold execWpRelSet
  repeat' with_reducible first
    | exact hk | assumption | apply Same.ite | apply holdRequest_same (h := up h rfl)
    | apply wpSet_same (h := up h rfl) | apply SameX.next | split

theorem execWpRelClr_same {m : Nat} {z t : State} (hk : Same m z t) (h : 0x80000050 ||| m = m) (ch : Nat) :
    SameX m z (execWpRelClr ch t) := by
  unfold execWpRelClr
  repeat' with_reducible first
    | exact hk | assumption | apply Same.ite | apply holdRequest_same (h := up h rfl)
    | apply setArrBit_same (h := up h rfl) | apply SameX.next | split

end Sys2Proof.Machine
end

