-- ==== Sys2Proof/Laws/Frames/Bays.lean ====
section
/-! SUPPORT. Which fields the operations of `Machine/Bays.lean` may change. -/

namespace Sys2Proof.Machine
open Sys2Proof

theorem bayEvents_same {m : Nat} {z t : State} (hk : Same m z t) (h : 0x38080000010 ||| m = m) (b : Nat) (was : BayState) (l : List Nat) :
    Same m z (State.bayEvents t b was l) := by
  unfold State.bayEvents
  dsimp only
  repeat' with_reducible first
    | exact hk | assumption | intro _ | apply Same.ite | apply Same.foldl | apply setBit_same (h := up h rfl)
    | apply traceRec_same (h := up h rfl) | apply raise_same (h := up h rfl)

theorem bayReqError_same {m : Nat} {z t : State} (hk : Same m z t) (h : 0x10 ||| m = m) (b : Nat) :
    Same m z (State.bayReqError t b) := by
  unfold State.bayReqError
  repeat' with_reducible first
    | exact hk | assumption | apply setBit_same (h := up h rfl)

theorem removalRebuild_same {m : Nat} {z t : State} (hk : Same m z t) (h : 0x439e9c6ffcd0 ||| m = m) (t' : Nat) :
    Same m z (State.removalRebuild t t') := by
  unfold State.removalRebuild
  dsimp only
  repeat' with_reducible first
    | exact hk | assumption | intro _ | apply Same.ite | apply Same.ite2 | apply Same.foldl | apply Same.foldl2
    | apply endWork_same (h := up h rfl) | apply modTag_same (h := up h rfl) | apply forwardEnded_same (h := up h rfl)
    | apply toRebuild_same (h := up h rfl) | apply abortIfPending_same (h := up h rfl) | split
    | (apply Same.snd; assumption)

theorem removalDefers_same {m : Nat} {z t : State} (hk : Same m z t) (h : 0x439a8c6ffc90 ||| m = m) (t' : Nat) (n : Nat) :
    Same m z (State.removalDefers t t' n) := by
  unfold State.removalDefers
  dsimp only
  repeat' with_reducible first
    | exact hk | assumption | apply Same.ite | apply Same.ite2 | apply programLost_same (h := up h rfl)
    | apply endTagWorks_same (h := up h rfl) | apply programFails_same (h := up h rfl)
    | apply endTag_same (h := up h rfl) | split | (apply Same.snd; assumption)

theorem removeTag_same {m : Nat} {z t : State} (hk : Same m z t) (h : 0x439e9c6ffcd0 ||| m = m) (t' : Nat) (n : Nat) :
    Same m z (State.removeTag t t' n) := by
  unfold State.removeTag
  dsimp only
  repeat' with_reducible first
    | exact hk | assumption | intro _ | apply Same.ite | apply Same.ite2 | apply Same.foldl | apply Same.foldl2
    | apply endTagWorks_same (h := up h rfl) | apply freeF_same (h := up h rfl) | apply addCarry_same (h := up h rfl)
    | apply commitTag_same (h := up h rfl) | apply endTag_same (h := up h rfl)
    | apply removalDefers_same (h := up h rfl) | apply removalRebuild_same (h := up h rfl)
    | apply stopTag_same (h := up h rfl) | apply reopen_same (h := up h rfl)

theorem chanGone_same {m : Nat} {z t : State} (hk : Same m z t) (h : 0x63be9c6ffcd8 ||| m = m) (n : Nat) :
    Same m z (State.chanGone t n) := by
  unfold State.chanGone
  dsimp only
  repeat' with_reducible first
    | exact hk | assumption | exact mayDiffer h rfl | exact fun _ => rfl | intro _ | apply Same.ite | apply Same.ite2
    | apply Same.foldl | apply Same.foldl2 | apply testReset_same (h := up h rfl)
    | apply abandonSurvey_same (h := up h rfl) | apply removeTag_same (h := up h rfl)
    | apply withdraw_same (h := up h rfl) | apply memberLost_same (h := up h rfl)
    | apply closeRead_same (h := up h rfl) | apply toRebuild_same (h := up h rfl) | apply stopTag_same (h := up h rfl)
    | apply setLun_same (h := up h rfl) | apply releaseGrants_same (h := up h rfl)
    | apply modChan_same (h := up h rfl) | apply store_same (h := up h rfl) | apply fault_same (h := up h rfl)
    | apply recTo_same (h := up h rfl) | apply leaveReset_same (h := up h rfl) | split | (apply Same.snd; assumption)
    | apply Same.lit

theorem bayGone_same {m : Nat} {z t : State} (hk : Same m z t) (h : 0x63be9ceffcd8 ||| m = m) (b : Nat) :
    Same m z (State.bayGone t b) := by
  unfold State.bayGone
  dsimp only
  repeat' with_reducible first
    | exact hk | assumption | exact mayDiffer h rfl | exact fun _ => rfl | intro _ | apply Same.foldl
    | apply chanGone_same (h := up h rfl) | apply setArrBit_same (h := up h rfl) | apply obtSweep_same (h := up h rfl)
    | apply Same.lit

theorem bayTo_same {m : Nat} {z t : State} (hk : Same m z t) (h : 0x38180000010 ||| m = m) (b : Nat) (st : BayState) (l : List Nat) :
    Same m z (State.bayTo t b st l) := by
  unfold State.bayTo
  dsimp only
  repeat' with_reducible first
    | exact hk | assumption | apply modBay_same (h := up h rfl) | apply bayEvents_same (h := up h rfl)

theorem bayFault_same {m : Nat} {z t : State} (hk : Same m z t) (h : 0x63bf9c6ffcd8 ||| m = m) (b : Nat) (cause : Nat) :
    Same m z (State.bayFault t b cause) := by
  unfold State.bayFault
  dsimp only
  repeat' with_reducible first
    | exact hk | assumption | apply Same.ite | apply addFld_same (h := up h rfl) | apply setFld_same (h := up h rfl)
    | apply bayTo_same (h := up h rfl) | apply fault_same (h := up h rfl)

theorem powerOn_same {m : Nat} {z t : State} (hk : Same m z t) (h : 0x38180000010 ||| m = m) (b : Nat) :
    Same m z (State.powerOn t b) := by
  unfold State.powerOn
  repeat' with_reducible first
    | exact hk | assumption | apply Same.ite | apply bayTo_same (h := up h rfl) | apply modBay_same (h := up h rfl)
    | apply bayReqError_same (h := up h rfl)

theorem powerOff_same {m : Nat} {z t : State} (hk : Same m z t) (h : 0x63bf9ceffcd8 ||| m = m) (b : Nat) :
    Same m z (State.powerOff t b) := by
  unfold State.powerOff
  dsimp only
  repeat' with_reducible first
    | exact hk | assumption | apply Same.ite | apply bayReqError_same (h := up h rfl)
    | apply bayTo_same (h := up h rfl) | apply bayGone_same (h := up h rfl)

theorem clearFault_same {m : Nat} {z t : State} (hk : Same m z t) (h : 0x63bf9c6ffcd8 ||| m = m) (b : Nat) :
    Same m z (State.clearFault t b) := by
  unfold State.clearFault
  repeat' with_reducible first
    | exact hk | assumption | apply Same.ite | apply fault_same (h := up h rfl) | apply bayTo_same (h := up h rfl)
    | apply bayReqError_same (h := up h rfl)

theorem bayCtrl_same {m : Nat} {z t : State} (hk : Same m z t) (h : 0x63bf9ceffcd8 ||| m = m) (b : Nat) (v : Word) :
    Same m z (State.bayCtrl t b v) := by
  unfold State.bayCtrl
  dsimp only
  repeat' with_reducible first
    | exact hk | assumption | apply Same.ite | apply setBit_same (h := up h rfl)
    | apply bayReqError_same (h := up h rfl) | apply powerOn_same (h := up h rfl)
    | apply powerOff_same (h := up h rfl) | apply fault_same (h := up h rfl) | apply clearFault_same (h := up h rfl)

theorem rampStart_same {m : Nat} {z t : State} (hk : Same m z t) (h : 0x38180000010 ||| m = m) (b : Nat) :
    Same m z (State.rampStart t b) := by
  unfold State.rampStart
  repeat' with_reducible first
    | exact hk | assumption | apply Same.ite | apply bayTo_same (h := up h rfl)

theorem chanHere_same {m : Nat} {z t : State} (hk : Same m z t) (h : 0x63be9c6ffcd8 ||| m = m) (n : Nat) :
    Same m z (State.chanHere t n) := by
  unfold State.chanHere
  dsimp only
  repeat' with_reducible first
    | exact hk | assumption | apply Same.ite | apply store_same (h := up h rfl) | apply fault_same (h := up h rfl)
    | apply modChan_same (h := up h rfl) | apply enterReset_same (h := up h rfl)
    | apply leaveReset_same (h := up h rfl)

theorem bayOnNow_same {m : Nat} {z t : State} (hk : Same m z t) (h : 0x63bf9c6ffcd8 ||| m = m) (b : Nat) :
    Same m z (State.bayOnNow t b) := by
  unfold State.bayOnNow
  dsimp only
  repeat' with_reducible first
    | exact hk | assumption | intro _ | apply Same.foldl | apply bayTo_same (h := up h rfl)
    | apply modBay_same (h := up h rfl) | apply chanHere_same (h := up h rfl)

theorem presenceLost_same {m : Nat} {z t : State} (hk : Same m z t) (h : 0x63bf9ceffcd8 ||| m = m) (b : Nat) :
    Same m z (State.presenceLost t b) := by
  unfold State.presenceLost
  dsimp only
  repeat' with_reducible first
    | exact hk | assumption | apply Same.ite | apply bayTo_same (h := up h rfl) | apply modBay_same (h := up h rfl)
    | apply bayGone_same (h := up h rfl)

theorem chanGlitch_same {m : Nat} {z t : State} (hk : Same m z t) (h : 0x63be9c6ffcd8 ||| m = m) (n : Nat) :
    Same m z (State.chanGlitch t n) := by
  unfold State.chanGlitch
  dsimp only
  repeat' with_reducible first
    | exact hk | assumption | apply Same.ite | apply fault_same (h := up h rfl)

theorem powerLost_same {m : Nat} {z t : State} (hk : Same m z t) (h : 0x63bf9ceffcd8 ||| m = m) (b : Nat) :
    Same m z (State.powerLost t b) := by
  unfold State.powerLost
  dsimp only
  repeat' with_reducible first
    | exact hk | assumption | intro _ | apply Same.ite | apply Same.foldl | apply modBay_same (h := up h rfl)
    | apply bayFault_same (h := up h rfl) | apply bayGone_same (h := up h rfl) | apply chanGlitch_same (h := up h rfl)

theorem glitchEnd_same {m : Nat} {z t : State} (hk : Same m z t) (h : 0x63bf9ceffcd8 ||| m = m) (b : Nat) (good : Bool) :
    Same m z (State.glitchEnd t b good) := by
  unfold State.glitchEnd
  dsimp only
  repeat' with_reducible first
    | exact hk | assumption | intro _ | apply Same.ite | apply Same.foldl | apply modBay_same (h := up h rfl)
    | apply modChan_same (h := up h rfl) | apply bayEvents_same (h := up h rfl) | apply bayFault_same (h := up h rfl)
    | apply bayGone_same (h := up h rfl)

theorem execPowerOn_same {m : Nat} {z t : State} (hk : Same m z t) (h : 0x38180000050 ||| m = m) (b : Nat) :
    SameX m z (execPowerOn b t) := by
  unfold execPowerOn
  repeat' with_reducible first
    | exact hk | assumption | apply Same.ite | apply holdRequest_same (h := up h rfl)
    | apply powerOn_same (h := up h rfl) | apply SameX.next | split

theorem execPowerOff_same {m : Nat} {z t : State} (hk : Same m z t) (h : 0x63bf9ceffcd8 ||| m = m) (b : Nat) :
    SameX m z (execPowerOff b t) := by
  unfold execPowerOff
  repeat' with_reducible first
    | exact hk | assumption | apply Same.ite | apply holdRequest_same (h := up h rfl)
    | apply powerOff_same (h := up h rfl) | apply SameX.next | split

theorem execClearFault_same {m : Nat} {z t : State} (hk : Same m z t) (h : 0x63bf9c6ffcd8 ||| m = m) (b : Nat) :
    SameX m z (execClearFault b t) := by
  unfold execClearFault
  repeat' with_reducible first
    | exact hk | assumption | apply Same.ite | apply holdRequest_same (h := up h rfl)
    | apply clearFault_same (h := up h rfl) | apply SameX.next | split

end Sys2Proof.Machine
end

