-- ==== Sys2Proof/Laws/Frames/Opcodes.lean ====
section
/-! SUPPORT. Which fields the operations of `Machine/Opcodes.lean` may change. -/

namespace Sys2Proof.Machine
open Sys2Proof

theorem advanceHead_same {m : Nat} {z t : State} (hk : Same m z t) (h : 0x180 ||| m = m) (q : Nat) :
    Same m z (State.advanceHead t q) := by
  unfold State.advanceHead
  dsimp only
  repeat' with_reducible first
    | exact hk | assumption | apply Same.ite | apply setPushSlot_same (h := up h rfl)
    | apply modQueue_same (h := up h rfl)

theorem traceAccept_same {m : Nat} {z t : State} (hk : Same m z t) (h : 0x8000000010 ||| m = m) (q : Nat) (p : Packet) (tag : Option Nat) :
    Same m z (State.traceAccept t q p tag) := by
  unfold State.traceAccept
  dsimp only
  repeat' with_reducible first
    | exact hk | assumption | apply traceRec_same (h := up h rfl) | split | (apply Same.snd; assumption)

theorem takeTag_same {m : Nat} {z t : State} (hk : Same m z t) (h : 0x109800004410 ||| m = m) (q : Nat) (p : Packet) :
    SameP m z (State.takeTag t q p) := by
  unfold State.takeTag
  repeat' with_reducible first
    | exact hk | assumption | apply traceAccept_same (h := up h rfl) | apply allocTag_same (h := up h rfl)
    | exact SameP.none | apply SameP.some | apply SameP.map | split | (apply Same.snd; assumption)
    | (apply SameP.get; assumption)

theorem tagFrame_same {m : Nat} {z t : State} (hk : Same m z t) (h : 0x8400 ||| m = m) (t' : Nat) (f : Nat) :
    Same m z (State.tagFrame t t' f) := by
  unfold State.tagFrame
  repeat' with_reducible first
    | exact hk | assumption | apply takeFrame_same (h := up h rfl) | apply modTag_same (h := up h rfl)

theorem addOwn_same {m : Nat} {z t : State} (hk : Same m z t) (h : 0x200000001000 ||| m = m) (w : Work) :
    Same m z (State.addOwn t w) := by
  unfold State.addOwn
  repeat' with_reducible first
    | exact hk | assumption | apply addWork_same (h := up h rfl)

theorem readWork_same {m : Nat} {z t : State} (hk : Same m z t) (h : 0x39880400010 ||| m = m) (t' : Nat) (p : Packet) :
    Same m z (State.readWork t t' p).2 := by
  unfold State.readWork
  dsimp only
  repeat' with_reducible first
    | exact hk | assumption | apply Same.ite | apply Same.ite2 | apply lookupBase_same (h := up h rfl)
    | apply deltas_same (h := up h rfl) | exact SameP.none | apply SameP.some | apply SameP.map | split
    | (apply Same.snd; assumption) | (apply SameP.get; assumption)

theorem acceptRead_same {m : Nat} {z t : State} (hk : Same m z t) (h : 0x33988040d410 ||| m = m) (q : Nat) (p : Packet) (absent : Bool) :
    SameO m z (State.acceptRead t q p absent) := by
  unfold State.acceptRead
  dsimp only
  repeat' with_reducible first
    | exact hk | assumption | apply Same.ite | apply Same.ite2 | apply takeTag_same (h := up h rfl)
    | apply toRebuild_same (h := up h rfl) | apply readWork_same (h := up h rfl) | apply addOwn_same (h := up h rfl)
    | apply modTag_same (h := up h rfl) | apply count_same (h := up h rfl) | apply wakeForwards_same (h := up h rfl)
    | apply tagFrame_same (h := up h rfl) | apply addWork_same (h := up h rfl) | apply fixLevels_same (h := up h rfl)
    | exact SameO.none | apply SameO.some | apply SameO.ite | exact SameP.none | apply SameP.some | apply SameP.map
    | split | (apply Same.snd; assumption) | (apply SameO.get; assumption) | (apply SameP.get; assumption)

theorem beginProgram_same {m : Nat} {z t : State} (hk : Same m z t) (h : 0x338080089410 ||| m = m) (t' : Nat) (f : Nat) (p : Packet) :
    Same m z (State.beginProgram t t' f p) := by
  unfold State.beginProgram
  dsimp only
  repeat' with_reducible first
    | exact hk | assumption | apply tagFrame_same (h := up h rfl) | apply obtAdvance_same (h := up h rfl)
    | apply bindFrame_same (h := up h rfl) | apply addOwn_same (h := up h rfl)

theorem linkAcc_same {m : Nat} {z t : State} (hk : Same m z t) (h : 0x40400 ||| m = m) (t' : Nat) (p : Packet) :
    Same m z (State.linkAcc t t' p) := by
  unfold State.linkAcc
  dsimp only
  repeat' with_reducible first
    | exact hk | assumption | apply Same.ite | apply modAcc_same (h := up h rfl) | apply modTag_same (h := up h rfl)

theorem acceptProgram_same {m : Nat} {z t : State} (hk : Same m z t) (h : 0x3398800cd410 ||| m = m) (q : Nat) (p : Packet) :
    SameO m z (State.acceptProgram t q p) := by
  unfold State.acceptProgram
  repeat' with_reducible first
    | exact hk | assumption | apply Same.ite | apply takeTag_same (h := up h rfl)
    | apply beginProgram_same (h := up h rfl) | apply linkAcc_same (h := up h rfl) | apply tagTo_same (h := up h rfl)
    | exact SameO.none | apply SameO.some | apply SameO.ite | exact SameP.none | apply SameP.some | apply SameP.map
    | split | (apply Same.snd; assumption) | (apply SameO.get; assumption) | (apply SameP.get; assumption)

theorem beginSource_same {m : Nat} {z t : State} (hk : Same m z t) (h : 0x739e9c6ffcd0 ||| m = m) (t' : Nat) (p : Packet) :
    Same m z (State.beginSource t t' p) := by
  unfold State.beginSource
  dsimp only
  repeat' with_reducible first
    | exact hk | assumption | apply Same.ite | apply Same.ite2 | apply stopTag_same (h := up h rfl)
    | apply toRebuild_same (h := up h rfl) | apply tick_same (h := up h rfl) | apply addWork_same (h := up h rfl)
    | apply count_same (h := up h rfl) | apply wakeForwards_same (h := up h rfl)
    | apply fixLevels_same (h := up h rfl) | apply grantFrames_same (h := up h rfl) | split
    | (apply Same.snd; assumption)

theorem acceptCopy_same {m : Nat} {z t : State} (hk : Same m z t) (h : 0x739e9c6ffcd0 ||| m = m) (q : Nat) (p : Packet) :
    SameO m z (State.acceptCopy t q p) := by
  unfold State.acceptCopy
  repeat' with_reducible first
    | exact hk | assumption | apply Same.ite | apply takeTag_same (h := up h rfl)
    | apply beginProgram_same (h := up h rfl) | apply beginSource_same (h := up h rfl) | exact SameO.none
    | apply SameO.some | apply SameO.ite | exact SameP.none | apply SameP.some | apply SameP.map | split
    | (apply Same.snd; assumption) | (apply SameO.get; assumption) | (apply SameP.get; assumption)

theorem acceptReprogram_same {m : Nat} {z t : State} (hk : Same m z t) (h : 0x33988008d410 ||| m = m) (q : Nat) (p : Packet) :
    SameO m z (State.acceptReprogram t q p) := by
  unfold State.acceptReprogram
  dsimp only
  repeat' with_reducible first
    | exact hk | assumption | apply Same.ite | apply takeTag_same (h := up h rfl) | apply modTag_same (h := up h rfl)
    | apply modFrame_same (h := up h rfl) | apply obtAdvance_same (h := up h rfl) | apply addOwn_same (h := up h rfl)
    | exact SameO.none | apply SameO.some | apply SameO.ite | exact SameP.none | apply SameP.some | apply SameP.map
    | split | (apply Same.snd; assumption) | (apply SameO.get; assumption) | (apply SameP.get; assumption)

theorem acceptRelease_same {m : Nat} {z t : State} (hk : Same m z t) (h : 0x139a8c6fdc90 ||| m = m) (q : Nat) (p : Packet) :
    SameO m z (State.acceptRelease t q p) := by
  unfold State.acceptRelease
  dsimp only
  repeat' with_reducible first
    | exact hk | assumption | apply takeTag_same (h := up h rfl) | apply modTag_same (h := up h rfl)
    | apply modFrame_same (h := up h rfl) | apply releaseOne_same (h := up h rfl) | exact SameO.none
    | apply SameO.some | exact SameP.none | apply SameP.some | apply SameP.map | split | (apply Same.snd; assumption)
    | (apply SameO.get; assumption) | (apply SameP.get; assumption)

theorem unbindBlock_same {m : Nat} {z t : State} (hk : Same m z t) (h : 0x8000 ||| m = m) (a : Addr) :
    Same m z (State.unbindBlock t a) := by
  unfold State.unbindBlock
  dsimp only
  repeat' with_reducible first
    | exact hk | assumption | intro _ | apply Same.foldl | apply unbind_same (h := up h rfl) | split
    | (apply Same.snd; assumption)

theorem acceptErase_same {m : Nat} {z t : State} (hk : Same m z t) (h : 0x30980008d410 ||| m = m) (q : Nat) (p : Packet) :
    SameO m z (State.acceptErase t q p) := by
  unfold State.acceptErase
  dsimp only
  repeat' with_reducible first
    | exact hk | assumption | apply takeTag_same (h := up h rfl) | apply obtFree_same (h := up h rfl)
    | apply unbindBlock_same (h := up h rfl) | apply addOwn_same (h := up h rfl) | exact SameO.none | apply SameO.some
    | exact SameP.none | apply SameP.some | apply SameP.map | split | (apply Same.snd; assumption)
    | (apply SameO.get; assumption) | (apply SameP.get; assumption)

theorem acceptAccess_same {m : Nat} {z t : State} (hk : Same m z t) (h : 0x30980000d410 ||| m = m) (q : Nat) (p : Packet) (kind : WorkKind) (frame : Bool) :
    SameO m z (State.acceptAccess t q p kind frame) := by
  unfold State.acceptAccess
  dsimp only
  repeat' with_reducible first
    | exact hk | assumption | apply Same.ite | apply takeTag_same (h := up h rfl) | apply addOwn_same (h := up h rfl)
    | apply tagFrame_same (h := up h rfl) | apply tagTo_same (h := up h rfl) | exact SameO.none | apply SameO.some
    | apply SameO.ite | exact SameP.none | apply SameP.some | apply SameP.map | split | (apply Same.snd; assumption)
    | (apply SameO.get; assumption) | (apply SameP.get; assumption)

theorem acceptSurvey_same {m : Nat} {z t : State} (hk : Same m z t) (h : 0x33988040d410 ||| m = m) (q : Nat) (p : Packet) :
    SameO m z (State.acceptSurvey t q p) := by
  unfold State.acceptSurvey
  dsimp only
  repeat' with_reducible first
    | exact hk | assumption | apply Same.ite | apply takeTag_same (h := up h rfl)
    | apply tagFrame_same (h := up h rfl) | apply startSurvey_same (h := up h rfl)
    | apply modSurvey_same (h := up h rfl) | exact SameO.none | apply SameO.some | apply SameO.ite | exact SameP.none
    | apply SameP.some | apply SameP.map | split | (apply Same.snd; assumption) | (apply SameO.get; assumption)
    | (apply SameP.get; assumption)

theorem acceptCalibrate_same {m : Nat} {z t : State} (hk : Same m z t) (h : 0x109c00004410 ||| m = m) (q : Nat) (p : Packet) :
    SameO m z (State.acceptCalibrate t q p) := by
  unfold State.acceptCalibrate
  repeat' with_reducible first
    | exact hk | assumption | apply takeTag_same (h := up h rfl) | apply calNext_same (h := up h rfl)
    | exact SameO.none | apply SameO.some | exact SameP.none | apply SameP.some | apply SameP.map | split
    | (apply Same.snd; assumption) | (apply SameO.get; assumption) | (apply SameP.get; assumption)

theorem acceptOpen_same {m : Nat} {z t : State} (hk : Same m z t) (h : 0x109800004410 ||| m = m) (q : Nat) (p : Packet) :
    SameO m z (State.acceptOpen t q p) := by
  unfold State.acceptOpen
  repeat' with_reducible first
    | exact hk | assumption | apply takeTag_same (h := up h rfl) | apply modTag_same (h := up h rfl)
    | exact SameO.none | apply SameO.some | exact SameP.none | apply SameP.some | apply SameP.map | split
    | (apply Same.snd; assumption) | (apply SameO.get; assumption) | (apply SameP.get; assumption)

theorem acceptClose_same {m : Nat} {z t : State} (hk : Same m z t) (h : 0x3398800fd410 ||| m = m) (q : Nat) (p : Packet) :
    SameO m z (State.acceptClose t q p) := by
  unfold State.acceptClose
  dsimp only
  repeat' with_reducible first
    | exact hk | assumption | exact mayDiffer h rfl | exact fun _ => rfl | apply Same.ite | apply Same.ite2
    | apply count_same (h := up h rfl) | apply takeTag_same (h := up h rfl) | apply tick_same (h := up h rfl)
    | apply obtAdvanceAt_same (h := up h rfl) | apply clearFrame_same (h := up h rfl)
    | apply bindFrame_same (h := up h rfl) | apply addOwn_same (h := up h rfl) | apply setAcc_same (h := up h rfl)
    | exact SameO.none | apply SameO.some | apply SameO.ite | exact SameP.none | apply SameP.some | apply SameP.map
    | split | (apply Same.snd; assumption) | (apply SameO.get; assumption) | (apply SameP.get; assumption)
    | apply Same.lit

theorem acceptDiscard_same {m : Nat} {z t : State} (hk : Same m z t) (h : 0x139a8c6fdc90 ||| m = m) (q : Nat) (p : Packet) :
    SameO m z (State.acceptDiscard t q p) := by
  unfold State.acceptDiscard
  repeat' with_reducible first
    | exact hk | assumption | apply takeTag_same (h := up h rfl) | apply releaseAcc_same (h := up h rfl)
    | apply finish_same (h := up h rfl) | exact SameO.none | apply SameO.some | exact SameP.none | apply SameP.some
    | apply SameP.map | split | (apply Same.snd; assumption) | (apply SameO.get; assumption)
    | (apply SameP.get; assumption)

theorem takeSlot_same {m : Nat} {z t : State} (hk : Same m z t) (h : 0x109800000810 ||| m = m) (q : Nat) (p : Packet) (o : Opcode) :
    SameP m z (State.takeSlot t q p o) := by
  unfold State.takeSlot
  dsimp only
  repeat' with_reducible first
    | exact hk | assumption | exact mayDiffer h rfl | exact fun _ => rfl | apply traceAccept_same (h := up h rfl)
    | apply tick_same (h := up h rfl) | apply freshEntry_same (h := up h rfl) | apply setSlot_same (h := up h rfl)
    | exact SameP.none | apply SameP.some | apply SameP.map | split | (apply Same.snd; assumption)
    | (apply SameP.get; assumption) | apply Same.lit

theorem acceptAbort_same {m : Nat} {z t : State} (hk : Same m z t) (h : 0x539e9c6ffcd0 ||| m = m) (q : Nat) (p : Packet) :
    SameO m z (State.acceptAbort t q p) := by
  unfold State.acceptAbort
  dsimp only
  repeat' with_reducible first
    | exact hk | assumption | exact mayDiffer h rfl | exact fun _ => rfl | apply Same.ite | apply Same.ite2
    | apply takeSlot_same (h := up h rfl) | apply commitSlot_same (h := up h rfl)
    | apply abortTag_same (h := up h rfl) | exact SameO.none | apply SameO.some | apply SameO.ite | exact SameP.none
    | apply SameP.some | apply SameP.map | split | (apply Same.snd; assumption) | (apply SameO.get; assumption)
    | (apply SameP.get; assumption) | apply Same.lit

theorem readDeferred_same {m : Nat} {z t : State} (hk : Same m z t) (h : 0x39080000010 ||| m = m) (l : List Deferred) :
    Same m z (State.readDeferred t l).2 := by
  unfold State.readDeferred
  repeat' with_reducible first
    | exact hk | assumption | intro _ | apply Same.foldl | apply Same.foldl2 | apply useEntry_same (h := up h rfl)

theorem acceptDeferred_same {m : Nat} {z t : State} (hk : Same m z t) (h : 0x1398842b9cf0 ||| m = m) (q : Nat) (p : Packet) :
    SameO m z (State.acceptDeferred t q p) := by
  unfold State.acceptDeferred
  dsimp only
  repeat' with_reducible first
    | exact hk | assumption | exact mayDiffer h rfl | exact fun _ => rfl | apply Same.ite | apply Same.ite2
    | apply takeSlot_same (h := up h rfl) | apply commitSlot_same (h := up h rfl)
    | apply readDeferred_same (h := up h rfl) | apply frameWrite_same (h := up h rfl)
    | apply sendWrite_same (h := up h rfl) | exact SameO.none | apply SameO.some | apply SameO.ite | exact SameP.none
    | apply SameP.some | apply SameP.map | split | (apply Same.snd; assumption) | (apply SameO.get; assumption)
    | (apply SameP.get; assumption) | apply Same.lit

theorem acceptSelfTest_same {m : Nat} {z t : State} (hk : Same m z t) (h : 0x13b880289c90 ||| m = m) (q : Nat) (p : Packet) :
    SameO m z (State.acceptSelfTest t q p) := by
  unfold State.acceptSelfTest
  dsimp only
  repeat' with_reducible first
    | exact hk | assumption | exact mayDiffer h rfl | exact fun _ => rfl | apply Same.ite
    | apply takeSlot_same (h := up h rfl) | apply testStart_same (h := up h rfl)
    | apply commitSlot_same (h := up h rfl) | exact SameO.none | apply SameO.some | apply SameO.ite | exact SameP.none
    | apply SameP.some | apply SameP.map | split | (apply Same.snd; assumption) | (apply SameO.get; assumption)
    | (apply SameP.get; assumption) | apply Same.lit

theorem accept_same {m : Nat} {z t : State} (hk : Same m z t) (h : 0x73be9c6ffcf0 ||| m = m) (q : Nat) (p : Packet) (absent : Bool) :
    SameO m z (State.accept t q p absent) := by
  unfold State.accept
  repeat' with_reducible first
    | exact hk | assumption | apply Same.ite | apply Same.ite2 | apply acceptRead_same (h := up h rfl)
    | apply acceptProgram_same (h := up h rfl) | apply acceptReprogram_same (h := up h rfl)
    | apply acceptRelease_same (h := up h rfl) | apply acceptCopy_same (h := up h rfl)
    | apply acceptErase_same (h := up h rfl) | apply acceptAccess_same (h := up h rfl)
    | apply acceptAbort_same (h := up h rfl) | apply takeSlot_same (h := up h rfl)
    | apply acceptDeferred_same (h := up h rfl) | apply acceptSurvey_same (h := up h rfl)
    | apply acceptCalibrate_same (h := up h rfl) | apply acceptSelfTest_same (h := up h rfl)
    | apply acceptOpen_same (h := up h rfl) | apply acceptClose_same (h := up h rfl)
    | apply acceptDiscard_same (h := up h rfl) | exact SameO.none | apply SameO.some | apply SameO.ite
    | exact SameP.none | apply SameP.some | apply SameP.map | split | (apply Same.snd; assumption)
    | (apply SameO.get; assumption) | (apply SameP.get; assumption)

theorem parseNext_same {m : Nat} {z t : State} (hk : Same m z t) (h : 0x73be9c6ffdf0 ||| m = m) (q : Nat) (p : Packet) :
    SameO m z (State.parseNext t q p) := by
  unfold State.parseNext
  dsimp only
  repeat' with_reducible first
    | exact hk | assumption | apply advanceHead_same (h := up h rfl) | apply completeNow_same (h := up h rfl)
    | apply logOrder_same (h := up h rfl) | apply accept_same (h := up h rfl) | exact SameO.none | apply SameO.some
    | split | (apply Same.snd; assumption) | (apply SameO.get; assumption)

theorem meetOpenBlocks_same {m : Nat} {z t : State} (hk : Same m z t) (h : 0x39880002010 ||| m = m) :
    Same m z (State.meetOpenBlocks t) := by
  unfold State.meetOpenBlocks
  dsimp only
  repeat' with_reducible first
    | exact hk | assumption | exact mayDiffer h rfl | exact fun _ => rfl | intro _ | apply Same.ite | apply Same.ite2
    | apply Same.foldl | apply Same.foldl2 | apply obtMeet_same (h := up h rfl) | split | (apply Same.snd; assumption)
    | apply Same.lit

theorem endTurn_same {m : Nat} {z t : State} (hk : Same m z t) (h : 0x200 ||| m = m) :
    Same m z (State.endTurn t) := by
  unfold State.endTurn
  repeat' with_reducible first
    | exact hk | assumption | exact mayDiffer h rfl | exact fun _ => rfl | apply Same.ite | split
    | (apply Same.snd; assumption) | apply Same.lit

theorem packetTurn_same {m : Nat} {z t : State} (hk : Same m z t) (h : 0x73be9c6ffff0 ||| m = m) (want : Nat → Packet → Bool) :
    Same m z (State.packetTurn t want) := by
  unfold State.packetTurn
  dsimp only
  repeat' with_reducible first
    | exact hk | assumption | exact mayDiffer h rfl | exact fun _ => rfl | apply Same.ite | apply Same.ite2
    | apply meetOpenBlocks_same (h := up h rfl) | apply endTurn_same (h := up h rfl)
    | apply meetContext_same (h := up h rfl) | apply parseNext_same (h := up h rfl) | exact SameO.none
    | apply SameO.some | apply SameO.ite | split | (apply Same.snd; assumption) | (apply SameO.get; assumption)
    | apply Same.lit

theorem opcodeRow_same {m : Nat} {z t : State} (hk : Same m z t) (h : 0x73be9c6ffff0 ||| m = m) (q : Nat) (o : Opcode) :
    Same m z (State.opcodeRow t q o) := by
  unfold State.opcodeRow
  repeat' with_reducible first
    | exact hk | assumption | apply packetTurn_same (h := up h rfl)

theorem modeRow_same {m : Nat} {z t : State} (hk : Same m z t) (h : 0x73be9c6ffff0 ||| m = m) (q : Nat) (o : Opcode) (mode : Nat) :
    Same m z (State.modeRow t q o mode) := by
  unfold State.modeRow
  repeat' with_reducible first
    | exact hk | assumption | apply packetTurn_same (h := up h rfl)

theorem fenceCommit_same {m : Nat} {z t : State} (hk : Same m z t) (h : 0x38080289c90 ||| m = m) (k : Nat) :
    Same m z (State.fenceCommit t k) := by
  unfold State.fenceCommit
  dsimp only
  repeat' with_reducible first
    | exact hk | assumption | apply Same.ite | apply Same.ite2 | apply commitSlot_same (h := up h rfl)

end Sys2Proof.Machine
end

