-- ==== Sys2Proof/Laws/Frames/Resets.lean ====
section
/-! SUPPORT. Which fields the operations of `Machine/Resets.lean` may change. -/

namespace Sys2Proof.Machine
open Sys2Proof

theorem clearCfg_same {m : Nat} {z t : State} (hk : Same m z t) (h : 0x20 ||| m = m) (flr : Bool) :
    Same m z (State.clearCfg t flr) := by
  unfold State.clearCfg
  repeat' with_reducible first
    | exact hk | assumption | intro _ | apply Same.foldl | apply Same.foldl2 | apply setCfg_same (h := up h rfl)

theorem clearRegs_same {m : Nat} {z t : State} (hk : Same m z t) (h : 0x10 ||| m = m) :
    Same m z (State.clearRegs t) := by
  unfold State.clearRegs
  repeat' with_reducible first
    | exact hk | assumption | intro _ | apply Same.foldl | apply Same.foldl2 | apply setReg_same (h := up h rfl)
    | split | (apply Same.snd; assumption)

theorem dropPages_same {m : Nat} {z t : State} (hk : Same m z t) (h : 0x409200037010 ||| m = m) (t' : Nat) :
    Same m z (State.dropPages t t') := by
  unfold State.dropPages
  repeat' with_reducible first
    | exact hk | assumption | intro _ | apply Same.foldl | apply Same.foldl2 | apply endWork_same (h := up h rfl)

theorem abandonTag_same {m : Nat} {z t : State} (hk : Same m z t) (h : 0x439a9c6ffcd0 ||| m = m) (t' : Nat) :
    Same m z (State.abandonTag t t') := by
  unfold State.abandonTag
  dsimp only
  repeat' with_reducible first
    | exact hk | assumption | apply endTagWorks_same (h := up h rfl) | apply dropPhase_same (h := up h rfl)
    | apply tagTo_same (h := up h rfl) | apply setTag_same (h := up h rfl)

theorem resetTagEntry_same {m : Nat} {z t : State} (hk : Same m z t) (h : 0x439a9c6ffcd0 ||| m = m) (t' : Nat) :
    Same m z (State.resetTagEntry t t') := by
  unfold State.resetTagEntry
  dsimp only
  repeat' with_reducible first
    | exact hk | assumption | apply Same.ite | apply modTag_same (h := up h rfl)
    | apply dropPages_same (h := up h rfl) | apply addCarry_same (h := up h rfl)
    | apply abandonTag_same (h := up h rfl)

theorem sweepFrames_same {m : Nat} {z t : State} (hk : Same m z t) (h : 0x38080009410 ||| m = m) :
    Same m z (State.sweepFrames t) := by
  unfold State.sweepFrames
  dsimp only
  repeat' with_reducible first
    | exact hk | assumption | intro _ | apply Same.ite | apply Same.ite2 | apply Same.foldl | apply Same.foldl2
    | apply modFrame_same (h := up h rfl) | apply freeNow_same (h := up h rfl) | split | (apply Same.snd; assumption)

theorem resetChannel_same {m : Nat} {z t : State} (hk : Same m z t) (h : 0x43be9c6ffcd0 ||| m = m) (n : Nat) :
    Same m z (State.resetChannel t n) := by
  unfold State.resetChannel
  dsimp only
  repeat' with_reducible first
    | exact hk | assumption | intro _ | apply Same.ite | apply Same.foldl | apply modChan_same (h := up h rfl)
    | apply targetReset_same (h := up h rfl) | apply retrain_same (h := up h rfl)
    | apply abandonSurvey_same (h := up h rfl) | apply dropCal_same (h := up h rfl)
    | apply modLun_same (h := up h rfl) | split | (apply Same.snd; assumption)

theorem resetTest_same {m : Nat} {z t : State} (hk : Same m z t) (h : 0x2000000010 ||| m = m) :
    Same m z (State.resetTest t) := by
  unfold State.resetTest
  repeat' with_reducible first
    | exact hk | assumption | exact mayDiffer h rfl | exact fun _ => rfl | apply Same.ite
    | apply setFld_same (h := up h rfl) | apply Same.lit

theorem resetEndpoint_same {m : Nat} {z t : State} (hk : Same m z t) (h : 0x40 ||| m = m) :
    Same m z (State.resetEndpoint t) := by
  unfold State.resetEndpoint
  repeat' with_reducible first
    | exact hk | assumption | exact mayDiffer h rfl | exact fun _ => rfl | intro _ | apply Same.foldl | apply Same.lit

theorem resetTables_same {m : Nat} {z t : State} (hk : Same m z t) (h : 0x48b3bc0b80 ||| m = m) :
    Same m z (State.resetTables t) := by
  unfold State.resetTables
  repeat' with_reducible first
    | exact hk | assumption | exact mayDiffer h rfl | exact fun _ => rfl | apply Same.lit

theorem functionReset_same {m : Nat} {z t : State} (hk : Same m z t) (h : 0x43febffffff8 ||| m = m) (kind : FnReset) :
    Same m z (State.functionReset t kind) := by
  unfold State.functionReset
  dsimp only
  repeat' with_reducible first
    | exact hk | assumption | exact mayDiffer h rfl | exact fun _ => rfl | intro _ | apply Same.ite | apply Same.foldl
    | apply resetTagEntry_same (h := up h rfl) | apply resetChannel_same (h := up h rfl)
    | apply mcInvalid_same (h := up h rfl) | apply resetTest_same (h := up h rfl)
    | apply resetEndpoint_same (h := up h rfl) | apply resetTables_same (h := up h rfl)
    | apply clearRegs_same (h := up h rfl) | apply clearCfg_same (h := up h rfl)
    | apply sweepFrames_same (h := up h rfl) | apply releaseSweep_same (h := up h rfl)
    | apply raiseCarry_same (h := up h rfl) | apply Same.lit

theorem functionReady_same {m : Nat} {z t : State} (hk : Same m z t) (h : 0x38080000050 ||| m = m) :
    Same m z (State.functionReady t) := by
  unfold State.functionReady
  dsimp only
  repeat' with_reducible first
    | exact hk | assumption | exact mayDiffer h rfl | exact fun _ => rfl | apply Same.ite
    | apply releaseEdges_same (h := up h rfl) | apply Same.lit

theorem aonReset_same {m : Nat} {z t : State} (hk : Same m z t) (h : 0x6fbf9ceffcd8 ||| m = m) :
    Same m z (State.aonReset t) := by
  unfold State.aonReset
  dsimp only
  repeat' with_reducible first
    | exact hk | assumption | exact mayDiffer h rfl | exact fun _ => rfl | intro _ | apply Same.foldl
    | apply bayGone_same (h := up h rfl) | apply setArrBit_same (h := up h rfl) | apply Same.lit

theorem channelUp_same {m : Nat} {z t : State} (hk : Same m z t) (h : 0x409000034010 ||| m = m) (n : Nat) :
    Same m z (State.channelUp t n) := by
  unfold State.channelUp
  dsimp only
  repeat' with_reducible first
    | exact hk | assumption | apply Same.ite | apply leaveReset_same (h := up h rfl)
    | apply modChan_same (h := up h rfl)

end Sys2Proof.Machine
end

