-- ==== Sys2Proof/Laws/Frames/Inbound.lean ====
section
/-! SUPPORT. Which fields the operations of `Machine/Inbound.lean` may change. -/

namespace Sys2Proof.Machine
open Sys2Proof

theorem dropReq_same {m : Nat} {z t : State} (hk : Same m z t) (h : 0x40 ||| m = m) (t' : Nat) :
    Same m z (State.dropReq t t') := by
  unfold State.dropReq
  repeat' with_reducible first
    | exact hk | assumption | exact mayDiffer h rfl | exact fun _ => rfl | apply Same.lit

theorem reqFails_same {m : Nat} {z t : State} (hk : Same m z t) (h : 0x439e9c6ffcd0 ||| m = m) (r : Req) :
    Same m z (State.reqFails t r) := by
  unfold State.reqFails
  repeat' with_reducible first
    | exact hk | assumption | apply Same.ite | apply faultQueue_same (h := up h rfl)
    | apply stopTag_same (h := up h rfl) | apply flushEnded_same (h := up h rfl) | apply dmaFail_same (h := up h rfl)
    | split | (apply Same.snd; assumption)

theorem reqData_same {m : Nat} {z t : State} (hk : Same m z t) (h : 0x739e9c6ffcd0 ||| m = m) (r : Req) (data : List Byte) (marks : List Bool) :
    Same m z (State.reqData t r data marks) := by
  unfold State.reqData
  repeat' with_reducible first
    | exact hk | assumption | apply sqArrive_same (h := up h rfl) | apply sdArrive_same (h := up h rfl)
    | apply flushEnded_same (h := up h rfl) | apply dmaComplete_same (h := up h rfl) | split
    | (apply Same.snd; assumption)

theorem poisonSeen_same {m : Nat} {z t : State} (hk : Same m z t) (h : 0x400000000060 ||| m = m) (completion : Bool) :
    Same m z (State.poisonSeen t completion) := by
  unfold State.poisonSeen
  dsimp only
  repeat' with_reducible first
    | exact hk | assumption | apply Same.ite | apply orCfg_same (h := up h rfl) | apply aerUncor_same (h := up h rfl)

theorem keepReq_same {m : Nat} {z t : State} (hk : Same m z t) (h : 0x40 ||| m = m) (t' : Nat) (r : Req) :
    Same m z (State.keepReq t t' r) := by
  unfold State.keepReq
  repeat' with_reducible first
    | exact hk | assumption | exact mayDiffer h rfl | exact fun _ => rfl | apply Same.lit

theorem completionIn_same {m : Nat} {z t : State} (hk : Same m z t) (h : 0x739e9c6ffcf0 ||| m = m) (t' : Nat) (r : Req) (status : CplStatus) (data : List Byte) (poison : Bool) :
    Same m z (State.completionIn t t' r status data poison) := by
  unfold State.completionIn
  dsimp only
  repeat' with_reducible first
    | exact hk | assumption | apply Same.ite | apply dropReq_same (h := up h rfl) | apply orCfg_same (h := up h rfl)
    | apply reqFails_same (h := up h rfl) | apply poisonSeen_same (h := up h rfl) | apply reqData_same (h := up h rfl)
    | apply keepReq_same (h := up h rfl) | split | (apply Same.snd; assumption)

theorem execCarryPop_same {m : Nat} {z t : State} (hk : Same m z t) (h : 0x1888000050 ||| m = m) :
    SameX m z (execCarryPop t) := by
  unfold execCarryPop
  repeat' with_reducible first
    | exact hk | assumption | apply Same.ite | apply holdRequest_same (h := up h rfl)
    | apply popCarry_same (h := up h rfl) | apply SameX.next | split

end Sys2Proof.Machine
end

