-- ==== Sys2Proof/Laws/Frames/RegRead.lean ====
section
/-! SUPPORT. Which fields the operations of `Machine/RegRead.lean` may change. -/

namespace Sys2Proof.Machine
open Sys2Proof

theorem meetStore_same {m : Nat} {z t : State} (hk : Same m z t) (h : 0x39080000010 ||| m = m) (off : Nat) :
    Same m z (State.meetStore t off).2 := by
  unfold State.meetStore
  dsimp only
  repeat' with_reducible first
    | exact hk | assumption | apply Same.ite | apply Same.ite2 | apply useEntry_same (h := up h rfl) | split
    | (apply Same.snd; assumption)

theorem timeHigh_same {m : Nat} {z t : State} (hk : Same m z t) (h : 0x40 ||| m = m) (mgmt : Bool) :
    Same m z (State.timeHigh t mgmt).2 := by
  unfold State.timeHigh
  repeat' with_reducible first
    | exact hk | assumption | exact mayDiffer h rfl | exact fun _ => rfl | apply Same.ite | apply Same.ite2 | split
    | (apply Same.snd; assumption) | apply Same.lit

theorem regRead_same {m : Nat} {z t : State} (hk : Same m z t) (h : 0x39080000050 ||| m = m) (mgmt : Bool) (off : Nat) :
    Same m z (State.regRead t mgmt off).2 := by
  unfold State.regRead
  dsimp only
  repeat' with_reducible first
    | exact hk | assumption | apply Same.ite | apply Same.ite2 | apply latchTime_same (h := up h rfl)
    | apply timeHigh_same (h := up h rfl) | apply claim_same (h := up h rfl) | apply meetStore_same (h := up h rfl)
    | split

theorem regRead64_same {m : Nat} {z t : State} (hk : Same m z t) (h : 0x39080000050 ||| m = m) (mgmt : Bool) (off : Nat) :
    Same m z (State.regRead64 t mgmt off).2 := by
  unfold State.regRead64
  dsimp only
  repeat' with_reducible first
    | exact hk | assumption | apply Same.ite | apply Same.ite2 | apply regRead_same (h := up h rfl) | exact SameP.none
    | apply SameP.some | apply SameP.map | split | (apply Same.snd; assumption) | (apply SameP.get; assumption)

end Sys2Proof.Machine
end

