-- ==== Sys2Proof/Laws/Frames/LullEntry.lean ====
section
/-! SUPPORT. Which fields the operations of `Machine/LullEntry.lean` may change. -/

namespace Sys2Proof.Machine
open Sys2Proof

theorem lullEnter_same {m : Nat} {z t : State} (hk : Same m z t) (h : 0x480004010 ||| m = m) :
    Same m z (State.lullEnter t) := by
  unfold State.lullEnter
  repeat' with_reducible first
    | exact hk | assumption | exact mayDiffer h rfl | exact fun _ => rfl | intro _ | apply Same.ite | apply Same.foldl
    | apply dropCal_same (h := up h rfl) | apply setBit_same (h := up h rfl) | apply Same.lit

theorem lullStop_same {m : Nat} {z t : State} (hk : Same m z t) (h : 0x38280000010 ||| m = m) :
    Same m z (State.lullStop t) := by
  unfold State.lullStop
  dsimp only
  repeat' with_reducible first
    | exact hk | assumption | exact mayDiffer h rfl | exact fun _ => rfl | apply addFld_same (h := up h rfl)
    | apply count_same (h := up h rfl) | apply wakeBy_same (h := up h rfl) | split | (apply Same.snd; assumption)
    | apply Same.lit

theorem execLullEnter_same {m : Nat} {z t : State} (hk : Same m z t) (h : 0x480004050 ||| m = m) :
    SameX m z (execLullEnter t) := by
  unfold execLullEnter
  repeat' with_reducible first
    | exact hk | assumption | apply Same.ite | apply holdRequest_same (h := up h rfl)
    | apply lullEnter_same (h := up h rfl) | apply SameX.next | split

end Sys2Proof.Machine
end

