-- ==== Sys2Proof/Laws/Frames/RegWrite.lean ====
section
/-! SUPPORT. Which fields the operations of `Machine/RegWrite.lean` may change. -/

namespace Sys2Proof.Machine
open Sys2Proof

theorem plainWrite_same {m : Nat} {z t : State} (hk : Same m z t) (h : 0x10 ||| m = m) (off : Nat) (v : Word) :
    Same m z (State.plainWrite t off v) := by
  unfold State.plainWrite
  repeat' with_reducible first
    | exact hk | assumption | apply setReg_same (h := up h rfl) | split | (apply Same.snd; assumption)

theorem eachChan_same {m : Nat} {z t : State} (hk : Same m z t) (h : 0x0 ||| m = m) (i : Nat) (v : Word) (f : State → Nat → State) (h_f : ∀ u i, Same m z u → Same m z (f u i)) :
    Same m z (State.eachChan t i v f) := by
  unfold State.eachChan
  repeat' with_reducible first
    | exact hk | assumption | intro _ | apply Same.foldl | apply h_f

theorem onBit_same {m : Nat} {z t : State} (hk : Same m z t) (h : 0x0 ||| m = m) (v : Word) (b : Nat) (f : State → State) (h_f : ∀ u, Same m z u → Same m z (f u)) :
    Same m z (State.onBit t v b f) := by
  unfold State.onBit
  repeat' with_reducible first
    | exact hk | assumption | intro _ | apply Same.ite | apply h_f

theorem writeGlobal_same {m : Nat} {z t : State} (hk : Same m z t) (h : 0x63fe9c6ffcd8 ||| m = m) (off : Nat) (v : Word) :
    Same m z (State.writeGlobal t off v) := by
  unfold State.writeGlobal
  dsimp only
  repeat' with_reducible first
    | exact hk | assumption | intro _ | apply Same.ite | apply onBit_same (h := up h rfl)
    | apply popCarry_same (h := up h rfl) | apply framePoolWrite_same (h := up h rfl)
    | apply injectionWrite_same (h := up h rfl) | apply plainWrite_same (h := up h rfl)
    | apply faultRequest_same (h := up h rfl) | apply eachChan_same (h := up h rfl)
    | apply setFence_same (h := up h rfl) | apply clearFence_same (h := up h rfl) | apply wpSet_same (h := up h rfl)
    | apply setArrBit_same (h := up h rfl) | apply offlineWrite_same (h := up h rfl)
    | apply msixRelease_same (h := up h rfl)

theorem writeIrq_same {m : Nat} {z t : State} (hk : Same m z t) (h : 0x38480004010 ||| m = m) (off : Nat) (v : Word) :
    Same m z (State.writeIrq t off v) := by
  unfold State.writeIrq
  dsimp only
  repeat' with_reducible first
    | exact hk | assumption | exact mayDiffer h rfl | exact fun _ => rfl | intro _ | apply Same.ite
    | apply plainWrite_same (h := up h rfl) | apply onBit_same (h := up h rfl) | apply lullEnter_same (h := up h rfl)
    | apply pendSet_same (h := up h rfl) | apply pendClr_same (h := up h rfl) | apply complete_same (h := up h rfl)
    | apply setReg_same (h := up h rfl) | apply Same.lit

theorem writePower_same {m : Nat} {z t : State} (hk : Same m z t) (h : 0x138280003010 ||| m = m) (off : Nat) (v : Word) :
    Same m z (State.writePower t off v) := by
  unfold State.writePower
  dsimp only
  repeat' with_reducible first
    | exact hk | assumption | exact mayDiffer h rfl | exact fun _ => rfl | intro _ | apply Same.ite
    | apply plainWrite_same (h := up h rfl) | apply onBit_same (h := up h rfl) | apply peResume_same (h := up h rfl)
    | apply Same.lit

theorem writeCal_same {m : Nat} {z t : State} (hk : Same m z t) (h : 0x400004010 ||| m = m) (off : Nat) (v : Word) :
    Same m z (State.writeCal t off v) := by
  unfold State.writeCal
  dsimp only
  repeat' with_reducible first
    | exact hk | assumption | intro _ | apply Same.ite | apply plainWrite_same (h := up h rfl)
    | apply calSettling_same (h := up h rfl) | apply onBit_same (h := up h rfl) | apply calStart_same (h := up h rfl)
    | apply trimTarget_same (h := up h rfl)

theorem writeMem_same {m : Nat} {z t : State} (hk : Same m z t) (h : 0x439e9ceffcd0 ||| m = m) (off : Nat) (v : Word) :
    Same m z (State.writeMem t off v) := by
  unfold State.writeMem
  dsimp only
  repeat' with_reducible first
    | exact hk | assumption | intro _ | apply Same.ite | apply plainWrite_same (h := up h rfl)
    | apply onBit_same (h := up h rfl) | apply clearLog_same (h := up h rfl) | apply retireFrame_same (h := up h rfl)
    | apply rawRead_same (h := up h rfl) | apply rawStore_same (h := up h rfl) | apply eachChan_same (h := up h rfl)
    | apply stagingStart_same (h := up h rfl) | split | (apply Same.snd; assumption)

theorem writeObs_same {m : Nat} {z t : State} (hk : Same m z t) (h : 0x438000000010 ||| m = m) (off : Nat) (v : Word) :
    Same m z (State.writeObs t off v) := by
  unfold State.writeObs
  dsimp only
  repeat' with_reducible first
    | exact hk | assumption | intro _ | apply Same.ite | apply plainWrite_same (h := up h rfl)
    | apply traceSync_same (h := up h rfl) | apply onBit_same (h := up h rfl) | apply traceFlush_same (h := up h rfl)
    | apply tracePop_same (h := up h rfl) | apply snapGo_same (h := up h rfl)

theorem writeBay_same {m : Nat} {z t : State} (hk : Same m z t) (h : 0x63bf9ceffcd8 ||| m = m) (off : Nat) (v : Word) :
    Same m z (State.writeBay t off v) := by
  unfold State.writeBay
  dsimp only
  repeat' with_reducible first
    | exact hk | assumption | apply Same.ite | apply bayCtrl_same (h := up h rfl)
    | apply plainWrite_same (h := up h rfl)

theorem dmaCtrl_same {m : Nat} {z t : State} (hk : Same m z t) (h : 0x439efc6ffcf0 ||| m = m) (g : Nat) (v : Word) :
    Same m z (State.dmaCtrl t g v) := by
  unfold State.dmaCtrl
  dsimp only
  repeat' with_reducible first
    | exact hk | assumption | intro _ | apply plainWrite_same (h := up h rfl) | apply onBit_same (h := up h rfl)
    | apply dmaStart_same (h := up h rfl) | apply dmaStop_same (h := up h rfl) | apply dmaResume_same (h := up h rfl)
    | apply dmaAbort_same (h := up h rfl)

theorem dmaPace_same {m : Nat} {z t : State} (hk : Same m z t) (h : 0x10000010 ||| m = m) (g : Nat) (v : Word) :
    Same m z (State.dmaPace t g v) := by
  unfold State.dmaPace
  dsimp only
  repeat' with_reducible first
    | exact hk | assumption | apply Same.ite | apply plainWrite_same (h := up h rfl)
    | apply dmaWithdraw_same (h := up h rfl)

theorem writeDma_same {m : Nat} {z t : State} (hk : Same m z t) (h : 0x439efc6ffcf0 ||| m = m) (off : Nat) (v : Word) :
    Same m z (State.writeDma t off v) := by
  unfold State.writeDma
  dsimp only
  repeat' with_reducible first
    | exact hk | assumption | apply Same.ite | apply plainWrite_same (h := up h rfl)
    | apply dmaReqError_same (h := up h rfl) | apply dmaCtrl_same (h := up h rfl) | apply dmaPace_same (h := up h rfl)
    | apply engCfgWrite_same (h := up h rfl) | apply ringCfgWrite_same (h := up h rfl)
    | apply ringHeadWrite_same (h := up h rfl)

theorem writeQueue_same {m : Nat} {z t : State} (hk : Same m z t) (h : 0x439e9c6ffdd0 ||| m = m) (off : Nat) (v : Word) :
    Same m z (State.writeQueue t off v) := by
  unfold State.writeQueue
  dsimp only
  repeat' with_reducible first
    | exact hk | assumption | apply Same.ite | apply freshEntry_same (h := up h rfl)
    | apply plainWrite_same (h := up h rfl) | apply createQueue_same (h := up h rfl)
    | apply deleteQueue_same (h := up h rfl)

theorem rltCommand_same {m : Nat} {z t : State} (hk : Same m z t) (h : 0x39880400010 ||| m = m) (v : Word) :
    Same m z (State.rltCommand t v) := by
  unfold State.rltCommand
  dsimp only
  repeat' with_reducible first
    | exact hk | assumption | exact mayDiffer h rfl | exact fun _ => rfl | apply Same.ite
    | apply rltIndex_same (h := up h rfl) | apply rltOpRead_same (h := up h rfl)
    | apply rltOpWrite_same (h := up h rfl) | apply rltOpLookup_same (h := up h rfl)
    | apply rltOpInsert_same (h := up h rfl) | apply rltDrop_same (h := up h rfl)
    | apply rltResult_same (h := up h rfl) | split | (apply Same.snd; assumption) | apply Same.lit

theorem writeRlt_same {m : Nat} {z t : State} (hk : Same m z t) (h : 0x39882400010 ||| m = m) (off : Nat) (v : Word) :
    Same m z (State.writeRlt t off v) := by
  unfold State.writeRlt
  dsimp only
  repeat' with_reducible first
    | exact hk | assumption | intro _ | apply Same.ite | apply rltCfg_same (h := up h rfl)
    | apply rltCommand_same (h := up h rfl) | apply plainWrite_same (h := up h rfl) | apply onBit_same (h := up h rfl)
    | apply popAdvisory_same (h := up h rfl) | apply freshEntry_same (h := up h rfl) | split
    | (apply Same.snd; assumption)

theorem writeLoad_same {m : Nat} {z t : State} (hk : Same m z t) (h : 0x3800036018 ||| m = m) (off : Nat) (v : Word) :
    Same m z (State.writeLoad t off v) := by
  unfold State.writeLoad
  repeat' with_reducible first
    | exact hk | assumption | intro _ | apply Same.ite | apply plainWrite_same (h := up h rfl)
    | apply onBit_same (h := up h rfl) | apply mcOpen_same (h := up h rfl) | apply mcVerify_same (h := up h rfl)
    | apply loadAll_same (h := up h rfl) | apply freshEntry_same (h := up h rfl) | apply setBit_same (h := up h rfl)
    | split | (apply Same.snd; assumption)

theorem writeChan_same {m : Nat} {z t : State} (hk : Same m z t) (h : 0x73b280037010 ||| m = m) (off : Nat) (v : Word) :
    Same m z (State.writeChan t off v) := by
  unfold State.writeChan
  dsimp only
  repeat' with_reducible first
    | exact hk | assumption | intro _ | apply Same.ite | apply plainWrite_same (h := up h rfl)
    | apply onBit_same (h := up h rfl) | apply discover_same (h := up h rfl) | apply setRate_same (h := up h rfl)
    | apply retrain_same (h := up h rfl) | apply holdClear_same (h := up h rfl) | apply mcLoad_same (h := up h rfl)
    | apply modChan_same (h := up h rfl)

theorem regWrite_same {m : Nat} {z t : State} (hk : Same m z t) (h : 0x73fffffffdf8 ||| m = m) (off : Nat) (v : Word) :
    Same m z (State.regWrite t off v) := by
  unfold State.regWrite
  dsimp only
  repeat' with_reducible first
    | exact hk | assumption | exact mayDiffer h rfl | exact fun _ => rfl | apply Same.ite
    | apply writeGlobal_same (h := up h rfl) | apply writeIrq_same (h := up h rfl)
    | apply writePower_same (h := up h rfl) | apply writeCal_same (h := up h rfl)
    | apply writeMem_same (h := up h rfl) | apply writeObs_same (h := up h rfl) | apply writeBay_same (h := up h rfl)
    | apply writeDma_same (h := up h rfl) | apply writeQueue_same (h := up h rfl)
    | apply writeRlt_same (h := up h rfl) | apply ledgerHiWrite_same (h := up h rfl)
    | apply obtLoWrite_same (h := up h rfl) | apply obtHiWrite_same (h := up h rfl)
    | apply plainWrite_same (h := up h rfl) | apply writeLoad_same (h := up h rfl)
    | apply writeChan_same (h := up h rfl) | apply Same.lit

theorem regWrite64_same {m : Nat} {z t : State} (hk : Same m z t) (h : 0x73fffffffdf8 ||| m = m) (off : Nat) (lo : Word) (hi : Word) :
    Same m z (State.regWrite64 t off lo hi) := by
  unfold State.regWrite64
  repeat' with_reducible first
    | exact hk | assumption | apply regWrite_same (h := up h rfl)

end Sys2Proof.Machine
end

