-- ==== Sys2Proof/Laws/Frames/Ports.lean ====
section
/-! SUPPORT. Which fields the operations of `Machine/Ports.lean` may change. -/

namespace Sys2Proof.Machine
open Sys2Proof

theorem bar0Write_same {m : Nat} {z t : State} (hk : Same m z t) (h : 0x73fffffffdf8 ||| m = m) (off : Nat) (l : List Byte) :
    SameE m z (State.bar0Write t off l) := by
  unfold State.bar0Write
  repeat' with_reducible first
    | exact hk | assumption | apply Same.ite | apply regWrite_same (h := up h rfl)
    | apply regWrite64_same (h := up h rfl) | exact SameE.error | apply SameE.ok | split
    | (apply SameE.get; assumption)

theorem bar2Write_same {m : Nat} {z t : State} (hk : Same m z t) (h : 0x190 ||| m = m) (off : Nat) (l : List Byte) :
    SameE m z (State.bar2Write t off l) := by
  unfold State.bar2Write
  dsimp only
  repeat' with_reducible first
    | exact hk | assumption | apply Same.ite | apply sqDoorbell_same (h := up h rfl)
    | apply cqDoorbell_same (h := up h rfl) | apply pushWrite_same (h := up h rfl) | exact SameO.none
    | apply SameO.some | apply SameO.ite | exact SameE.error | apply SameE.ok | split | (apply Same.snd; assumption)
    | (apply SameO.get; assumption) | (apply SameE.get; assumption)

theorem bar4Write_same {m : Nat} {z t : State} (hk : Same m z t) (h : 0x39080030010 ||| m = m) (off : Nat) (l : List Byte) (poison : Bool) :
    SameE m z (State.bar4Write t off l poison) := by
  unfold State.bar4Write
  repeat' with_reducible first
    | exact hk | assumption | apply Same.ite | apply frameWrite_same (h := up h rfl) | exact SameE.error
    | apply SameE.ok | split | (apply Same.snd; assumption) | (apply SameE.get; assumption)

theorem barWrite_same {m : Nat} {z t : State} (hk : Same m z t) (h : 0x73fffffffdf8 ||| m = m) (bar : Nat) (off : Nat) (l : List Byte) (poison : Bool) :
    SameE m z (State.barWrite t bar off l poison) := by
  unfold State.barWrite
  repeat' with_reducible first
    | exact hk | assumption | apply Same.ite | apply bar0Write_same (h := up h rfl)
    | apply bar2Write_same (h := up h rfl) | apply bar4Write_same (h := up h rfl) | exact SameE.error | apply SameE.ok
    | split | (apply SameE.get; assumption)

theorem bar0Read_same {m : Nat} {z t : State} (hk : Same m z t) (h : 0x39080000050 ||| m = m) (mgmt : Bool) (off : Nat) (len : Nat) :
    SameR m z (State.bar0Read t mgmt off len) := by
  unfold State.bar0Read
  dsimp only
  repeat' with_reducible first
    | exact hk | assumption | apply Same.ite | apply Same.ite2 | apply regRead_same (h := up h rfl)
    | apply regRead64_same (h := up h rfl) | exact SameP.none | apply SameP.some | apply SameP.map | exact SameR.error
    | apply SameR.ok | split | (apply Same.snd; assumption) | (apply SameP.get; assumption)
    | (apply SameR.get; assumption)

theorem bar2Read_same {m : Nat} {z t : State} (hk : Same m z t) (h : 0x0 ||| m = m) (off : Nat) (len : Nat) :
    SameR m z (State.bar2Read t off len) := by
  unfold State.bar2Read
  repeat' with_reducible first
    | exact hk | assumption | apply Same.ite | apply Same.ite2 | exact SameR.error | apply SameR.ok | split
    | (apply SameR.get; assumption)

theorem bar4Read_same {m : Nat} {z t : State} (hk : Same m z t) (h : 0x39080030010 ||| m = m) (off : Nat) (len : Nat) :
    SameR m z (State.bar4Read t off len) := by
  unfold State.bar4Read
  dsimp only
  repeat' with_reducible first
    | exact hk | assumption | apply Same.ite | apply Same.ite2 | apply frameRead_same (h := up h rfl)
    | exact SameR.error | apply SameR.ok | split | (apply Same.snd; assumption) | (apply SameR.get; assumption)

theorem barRead_same {m : Nat} {z t : State} (hk : Same m z t) (h : 0x39080030050 ||| m = m) (mgmt : Bool) (bar : Nat) (off : Nat) (len : Nat) :
    SameR m z (State.barRead t mgmt bar off len) := by
  unfold State.barRead
  repeat' with_reducible first
    | exact hk | assumption | apply Same.ite | apply Same.ite2 | apply bar0Read_same (h := up h rfl)
    | apply bar2Read_same (h := up h rfl) | apply bar4Read_same (h := up h rfl) | exact SameR.error | apply SameR.ok
    | split | (apply SameR.get; assumption)

theorem hostWrite_same {m : Nat} {z t : State} (hk : Same m z t) (h : 0x73fffffffdf8 ||| m = m) (d : InTarget) (l : List Byte) (requester : BitVec 16) (poison : Bool) :
    Same m z (State.hostWrite t d l requester poison) := by
  unfold State.hostWrite
  dsimp only
  repeat' with_reducible first
    | exact hk | assumption | apply Same.ite | apply aerUncor_same (h := up h rfl)
    | apply poisonSeen_same (h := up h rfl) | apply barWrite_same (h := up h rfl) | apply violate_same (h := up h rfl)
    | apply raise_same (h := up h rfl) | exact SameE.error | apply SameE.ok | split | (apply Same.snd; assumption)
    | (apply SameE.get; assumption)

theorem completerAbort_same {m : Nat} {z t : State} (hk : Same m z t) (h : 0x400000000060 ||| m = m) (requester : BitVec 16) (tag : Nat) :
    Same m z (State.completerAbort t requester tag) := by
  unfold State.completerAbort
  repeat' with_reducible first
    | exact hk | assumption | apply aerUncor_same (h := up h rfl) | apply orCfg_same (h := up h rfl)
    | apply send_same (h := up h rfl)

theorem hostRead_same {m : Nat} {z t : State} (hk : Same m z t) (h : 0x439080030070 ||| m = m) (d : InTarget) (len : Nat) (requester : BitVec 16) (tag : Nat) :
    Same m z (State.hostRead t d len requester tag) := by
  unfold State.hostRead
  dsimp only
  repeat' with_reducible first
    | exact hk | assumption | apply Same.ite | apply aerUncor_same (h := up h rfl) | apply send_same (h := up h rfl)
    | apply barRead_same (h := up h rfl) | apply violate_same (h := up h rfl)
    | apply completerAbort_same (h := up h rfl) | apply sendRead_same (h := up h rfl) | exact SameR.error
    | apply SameR.ok | split | (apply Same.snd; assumption) | (apply SameR.get; assumption)

theorem cfgWrite_same {m : Nat} {z t : State} (hk : Same m z t) (h : 0x10000060 ||| m = m) (off : Nat) (v : Word) (e : BitVec 4) :
    Same m z (State.cfgWrite t off v e) := by
  unfold State.cfgWrite
  dsimp only
  repeat' with_reducible first
    | exact hk | assumption | apply Same.ite | apply setCfg_same (h := up h rfl) | apply dmaBme_same (h := up h rfl)
    | apply msixRelease_same (h := up h rfl)

theorem configIn_same {m : Nat} {z t : State} (hk : Same m z t) (h : 0x43febffffff8 ||| m = m) (off : Nat) (write : Option Word) (e : BitVec 4) (requester : BitVec 16) (tag : Nat) :
    Same m z (State.configIn t off write e requester tag) := by
  unfold State.configIn
  dsimp only
  repeat' with_reducible first
    | exact hk | assumption | apply Same.ite | apply Same.ite2 | apply send_same (h := up h rfl)
    | apply nextFresh_same (h := up h rfl) | apply cfgWrite_same (h := up h rfl)
    | apply functionReset_same (h := up h rfl) | split | (apply Same.snd; assumption)

theorem mgmtAnswer_same {m : Nat} {z t : State} (hk : Same m z t) (h : 0x40 ||| m = m) (err : Bool) (data : BitVec 64) :
    Same m z (State.mgmtAnswer t err data) := by
  unfold State.mgmtAnswer
  repeat' with_reducible first
    | exact hk | assumption | exact mayDiffer h rfl | exact fun _ => rfl | apply Same.lit

theorem mgmtAccess_same {m : Nat} {z t : State} (hk : Same m z t) (h : 0x73fffffffdf8 ||| m = m) (code : Nat) (addr : Nat) (eight : Bool) (wdata : Option (BitVec 64)) :
    Same m z (State.mgmtAccess t code addr eight wdata) := by
  unfold State.mgmtAccess
  dsimp only
  repeat' with_reducible first
    | exact hk | assumption | apply Same.ite | apply Same.ite2 | apply violate_same (h := up h rfl)
    | apply mgmtAnswer_same (h := up h rfl) | apply barWrite_same (h := up h rfl) | apply barRead_same (h := up h rfl)
    | apply nextFresh_same (h := up h rfl) | exact SameE.error | apply SameE.ok | exact SameR.error | apply SameR.ok
    | split | (apply Same.snd; assumption) | (apply SameE.get; assumption) | (apply SameR.get; assumption)

theorem mgmtIn_same {m : Nat} {z t : State} (hk : Same m z t) (h : 0x73fffffffdf8 ||| m = m) (code : Nat) (addr : Nat) (eight : Bool) (wdata : Option (BitVec 64)) :
    Same m z (State.mgmtIn t code addr eight wdata) := by
  unfold State.mgmtIn
  repeat' with_reducible first
    | exact hk | assumption | apply Same.ite | apply mgmtAccess_same (h := up h rfl)
    | apply mgmtAnswer_same (h := up h rfl)

end Sys2Proof.Machine
end

