-- ==== Sys2Proof/Laws/Frames/Lull.lean ====
section
/-! SUPPORT. Which fields the operations of `Machine/Lull.lean` may change. -/

namespace Sys2Proof.Machine
open Sys2Proof

theorem hotReset_same {m : Nat} {z t : State} (hk : Same m z t) (h : 0x43febffffff8 ||| m = m) :
    Same m z (State.hotReset t) := by
  unfold State.hotReset
  repeat' with_reducible first
    | exact hk | assumption | apply Same.ite | apply functionReset_same (h := up h rfl)

theorem flr_same {m : Nat} {z t : State} (hk : Same m z t) (h : 0x43febffffff8 ||| m = m) :
    Same m z (State.flr t) := by
  unfold State.flr
  repeat' with_reducible first
    | exact hk | assumption | apply Same.ite | apply functionReset_same (h := up h rfl)

/-- What a held access may change. -/
theorem served_same {m : Nat} {z t : State} (hk : Same m z t) {o : Host.Outcome State Fault Refusal} (h : SameX m z o) :
    Same m z (served t o) := by
  unfold served
  split
  · exact h _ rfl
  · exact hk

theorem serve_same {m : Nat} {z t : State} (hk : Same m z t) (h : 0x73fffffffff8 ||| m = m) (c : Instr) :
    Same m z (State.serve t c) := by
  cases c
  case memoryWrite => exact Same.ite (hostWrite_same hk (up h rfl) _ _ _ _) hk
  case memoryRead => exact Same.ite (hostRead_same hk (up h rfl) _ _ _ _) hk
  case configRequest => exact Same.ite (configIn_same hk (up h rfl) _ _ _ _ _) hk
  case bar4Write => exact Same.ite (hostWrite_same hk (up h rfl) _ _ _ _) hk
  case bar4Read => exact Same.ite (hostRead_same hk (up h rfl) _ _ _ _) hk
  case mgmtAccess => exact Same.ite (mgmtIn_same hk (up h rfl) _ _ _ _) hk
  case registerWrite => exact Same.ite (regWrite_same hk (up h rfl) _ _) hk
  case functionLevelReset => exact flr_same hk (up h rfl)
  case hotReset => exact hotReset_same hk (up h rfl)
  case injectionArm => exact served_same hk (execInjectionArm_same hk (up h rfl) _)
  case powerOn => exact served_same hk (execPowerOn_same hk (up h rfl) _)
  case powerOff => exact served_same hk (execPowerOff_same hk (up h rfl) _)
  case clearFault => exact served_same hk (execClearFault_same hk (up h rfl) _)
  case dmaStart => exact served_same hk (execDmaStart_same hk (up h rfl) _ _)
  case dmaStop => exact served_same hk (execDmaStop_same hk (up h rfl) _ _)
  case dmaAbort => exact served_same hk (execDmaAbort_same hk (up h rfl) _ _)
  case dmaResume => exact served_same hk (execDmaResume_same hk (up h rfl) _ _)
  case pacingWithdraw => exact served_same hk (execPacingWithdraw_same hk (up h rfl) _ _)
  case packetChannelsWrite => exact served_same hk (execPacketChannelsWrite_same hk (up h rfl) _ _)
  case ringHeadWrite => exact served_same hk (execRingHeadWrite_same hk (up h rfl) _ _)
  case ringEnable => exact served_same hk (execRingEnable_same hk (up h rfl) _ _)
  case dmaOfflineWrite => exact served_same hk (execDmaOfflineWrite_same hk (up h rfl) _ _ _)
  case peResume => exact served_same hk (execPeResume_same hk (up h rfl) _)
  case peWeightWrite => exact served_same hk (execPeWeightWrite_same hk (up h rfl) _ _)
  case carryPop => exact served_same hk (execCarryPop_same hk (up h rfl))
  case srcPendSet => exact served_same hk (execSrcPendSet_same hk (up h rfl) _ _)
  case srcPendClr => exact served_same hk (execSrcPendClr_same hk (up h rfl) _ _)
  case srcMaskWrite => exact served_same hk (execSrcMaskWrite_same hk (up h rfl) _ _)
  case claim => exact served_same hk (execClaim_same hk (up h rfl) _ _)
  case complete => exact served_same hk (execComplete_same hk (up h rfl) _ _ _)
  case rltRead => exact served_same hk (execRltRead_same hk (up h rfl) _)
  case rltWrite => exact served_same hk (execRltWrite_same hk (up h rfl) _)
  case rltLookup => exact served_same hk (execRltLookup_same hk (up h rfl))
  case rltInsert => exact served_same hk (execRltInsert_same hk (up h rfl))
  case rltClearUnpinned => exact served_same hk (execRltClearUnpinned_same hk (up h rfl))
  case rltClearAll => exact served_same hk (execRltClearAll_same hk (up h rfl))
  case rltCfgWrite => exact served_same hk (execRltCfgWrite_same hk (up h rfl) _)
  case ledgerHiWrite => exact served_same hk (execLedgerHiWrite_same hk (up h rfl) _ _)
  case advPop => exact served_same hk (execAdvPop_same hk (up h rfl))
  case obtHiWrite => exact served_same hk (execObtHiWrite_same hk (up h rfl) _ _)
  case rawWrite => exact served_same hk (execRawWrite_same hk (up h rfl))
  case lullEnter => exact served_same hk (execLullEnter_same hk (up h rfl))
  case mcOpen => exact served_same hk (execMcOpen_same hk (up h rfl))
  case mcVerify => exact served_same hk (execMcVerify_same hk (up h rfl))
  case logClear => exact served_same hk (execLogClear_same hk (up h rfl) _)
  case memStgInit => exact served_same hk (execMemStgInit_same hk (up h rfl) _)
  case memBist => exact served_same hk (execMemBist_same hk (up h rfl) _)
  case rawRead => exact served_same hk (execRawRead_same hk (up h rfl))
  case trcPop => exact served_same hk (execTrcPop_same hk (up h rfl))
  case trcFlush => exact served_same hk (execTrcFlush_same hk (up h rfl))
  case snapshot => exact served_same hk (execSnapshot_same hk (up h rfl) _ _ _)
  case queueCreate => exact served_same hk (execQueueCreate_same hk (up h rfl) _)
  case queueDelete => exact served_same hk (execQueueDelete_same hk (up h rfl) _)
  case sqTailDoorbell => exact served_same hk (execSqTailDoorbell_same hk (up h rfl) _ _)
  case cqHeadDoorbell => exact served_same hk (execCqHeadDoorbell_same hk (up h rfl) _ _)
  case pushWindowWrite => exact served_same hk (execPushWindowWrite_same hk (up h rfl) _ _ _)
  case lunHoldClear => exact served_same hk (execLunHoldClear_same hk (up h rfl) _ _)
  case chanFenceSet => exact served_same hk (execChanFenceSet_same hk (up h rfl) _)
  case chanFenceClr => exact served_same hk (execChanFenceClr_same hk (up h rfl) _)
  case wpRelSet => exact served_same hk (execWpRelSet_same hk (up h rfl) _)
  case wpRelClr => exact served_same hk (execWpRelClr_same hk (up h rfl) _)
  case framePoolWrite => exact served_same hk (execFramePoolWrite_same hk (up h rfl) _ _)
  case frameRetire => exact served_same hk (execFrameRetire_same hk (up h rfl) _)
  case msgPop => exact served_same hk (execMsgPop_same hk (up h rfl) _)
  case msgDrop => exact served_same hk (execMsgDrop_same hk (up h rfl) _)
  case discover => exact served_same hk (execDiscover_same hk (up h rfl) _)
  case setRate => exact served_same hk (execSetRate_same hk (up h rfl) _)
  case retrain => exact served_same hk (execRetrain_same hk (up h rfl) _)
  case loadAll => exact served_same hk (execLoadAll_same hk (up h rfl))
  case mcLoad => exact served_same hk (execMcLoad_same hk (up h rfl) _)
  case replayFaultRequest => exact served_same hk (execReplayFaultRequest_same hk (up h rfl) _)
  case calStart => exact served_same hk (execCalStart_same hk (up h rfl) _ _)
  case trimImpTgtWrite => exact served_same hk (execTrimImpTgtWrite_same hk (up h rfl) _ _)
  all_goals exact hk

theorem wakeUp_same {m : Nat} {z t : State} (hk : Same m z t) (h : 0x7bfffffffff8 ||| m = m) :
    Same m z (State.wakeUp t) := by
  unfold State.wakeUp
  dsimp only
  repeat' with_reducible first
    | exact hk | assumption | exact mayDiffer h rfl | exact fun _ => rfl | intro _ | apply Same.ite | apply Same.foldl
    | apply releaseEdges_same (h := up h rfl) | apply raise_same (h := up h rfl) | apply count_same (h := up h rfl)
    | apply traceSync_same (h := up h rfl) | apply serve_same (h := up h rfl) | apply Same.lit

end Sys2Proof.Machine
end

