-- ==== Sys2Proof/Laws/Kept.lean ====
section
/-! SUPPORT. What every operation of the block keeps: the queue of commands, the build, the canonical form of the
registers and of the staging memory, and the rules of the bays. `Kept s t` says so of a change from `s` to `t`; it is
proved once for each operation, and its rules chain backwards through a definition. -/

namespace Sys2Proof.Machine
open Sys2Proof

/-- What every change from `s` to `t` keeps. -/
structure KeptB (s t : State) : Prop where
  pending : t.pending = s.pending
  build : t.build = s.build
  regs : regsOk s.regs = true → regsOk t.regs = true
  words : wordsOk s.words = true → wordsOk t.words = true
  spares : wordsOk s.spares = true → wordsOk t.spares = true
  bays : baysOk s.bays = true → baysOk t.bays = true
  edges : edgesOk s.irq.heldEdges = true → edgesOk t.irq.heldEdges = true

/-- What a change from `s` to `t` keeps, the captured tie-offs and `DEVICE_TIME` too (R495, R515). -/
structure Kept (s t : State) : Prop extends KeptB s t where
  ties : t.ties = s.ties
  time : t.deviceTime = s.deviceTime

theorem Kept.refl (s : State) : Kept s s := ⟨⟨rfl, rfl, id, id, id, id, id⟩, rfl, rfl⟩

theorem KeptB.trans {s t u : State} (h : KeptB s t) (g : KeptB t u) : KeptB s u :=
  ⟨g.pending.trans h.pending, g.build.trans h.build, fun x => g.regs (h.regs x), fun x => g.words (h.words x),
    fun x => g.spares (h.spares x), fun x => g.bays (h.bays x), fun x => g.edges (h.edges x)⟩

/-- A change of other fields. -/
theorem Kept.same {s t u : State} (h : Kept s t) (h1 : u.pending = t.pending) (h2 : u.build = t.build)
    (h3 : u.regs = t.regs) (h4 : u.words = t.words) (h5 : u.spares = t.spares) (h6 : u.bays = t.bays)
    (h7 : u.irq.heldEdges = t.irq.heldEdges) (h8 : u.ties = t.ties) (h9 : u.deviceTime = t.deviceTime) : Kept s u :=
  ⟨⟨h1.trans h.pending, h2.trans h.build, by rw [h3]; exact h.regs, by rw [h4]; exact h.words,
    by rw [h5]; exact h.spares, by rw [h6]; exact h.bays, by rw [h7]; exact h.edges⟩, h8.trans h.ties, h9.trans h.time⟩

/-- A state put together from the kept fields of `t` and any others. -/
theorem Kept.lit {z t : State} {x_ph : Phases} {x_cfg : SMap Word} {x_ep : Endpoint} {x_queues :
    SMap Queue} {x_push : SMap PushSlot} {x_arb : Arbiter} {x_tags : SMap Tag} {x_slots : SMap Slot} {x_works : SMap
    Work} {x_luns : SMap Lun} {x_chans : SMap Chan} {x_frames : SMap Frame} {x_accs : SMap Accumulator} {x_obt : SMap
    ObtEntry} {x_obtLo : SMap Word} {x_obtDoomed : List Nat} {x_rlt : SMap RltEntry} {x_ledger : SMap
    LedgerEntry} {x_ledgerLo : SMap Word} {x_adv : List Advisory} {x_deferred : List Deferred} {x_carry :
    List Carry} {x_dma : SMap DmaChan} {x_rings : SMap Ring} {x_wheels : SMap Nat} {x_irq : Irq} {x_gov : Governor}
    {x_calUnit : CalUnit} {x_rawGroups : SMap RawGroup} {x_writeBacks : List (Nat × Nat)} {x_test : SelfTest} {x_inj :
    Injector} {x_trace : Trace} {x_counters : SMap (BitVec 48)} {x_saturated : List Nat} {x_follower : BitVec 64} {x_stamp : Nat} {x_nextWork : Nat} {x_fresh : Nat}
        (hk : Kept z t) (he : x_irq.heldEdges = t.irq.heldEdges) :
        Kept z (State.mk t.pending t.build t.ties x_ph t.regs x_cfg x_ep x_queues x_push x_arb x_tags x_slots x_works
    x_luns x_chans x_frames t.words t.spares x_accs x_obt x_obtLo x_obtDoomed x_rlt x_ledger x_ledgerLo x_adv
    x_deferred x_carry x_dma x_rings x_wheels x_irq t.bays x_gov x_calUnit x_rawGroups x_writeBacks x_test x_inj
    x_trace x_counters x_saturated t.deviceTime x_follower x_stamp x_nextWork x_fresh) :=
  hk.same rfl rfl rfl rfl rfl rfl he rfl rfl

theorem Kept.ite {s a b : State} {c : Prop} [Decidable c] (ha : Kept s a) (hb : Kept s b) :
    Kept s (if c then a else b) := by split <;> assumption

theorem Kept.foldl {α : Type} {s t : State} {g : State → α → State} {l : List α}
    (hg : ∀ t x, Kept s t → Kept s (g t x)) (h : Kept s t) : Kept s (l.foldl g t) := by
  induction l generalizing t with
  | nil => exact h
  | cons a r ih => exact ih (hg t a h)

theorem Kept.foldl2 {α β : Type} {s : State} {p : β × State} {g : β × State → α → β × State} {l : List α}
    (hg : ∀ p x, Kept s p.2 → Kept s (g p x).2) (h : Kept s p.2) : Kept s (l.foldl g p).2 := by
  induction l generalizing p with
  | nil => exact h
  | cons a r ih => exact ih (hg p a h)

theorem Kept.ite2 {β : Type} {s : State} {a b : β × State} {c : Prop} [Decidable c] (ha : Kept s a.2) (hb : Kept s b.2) :
    Kept s (if c then a else b).2 := by split <;> assumption

theorem Kept.mk2 {β : Type} {s t : State} {a : β} (h : Kept s t) : Kept s (a, t).2 := h

/-- The state of a pair that an equation names. -/
theorem Kept.snd {β : Type} {s t : State} {a : β} {p : β × State} (e : p = (a, t)) (h : Kept s p.2) : Kept s t := by
  subst e; exact h

/-- What an operation that may have no result keeps. -/
def KeptO (s : State) (o : Option State) : Prop := ∀ u, o = some u → Kept s u

theorem KeptO.none {s : State} : KeptO s Option.none := by intro u h; cases h

theorem KeptO.some {s t : State} (h : Kept s t) : KeptO s (Option.some t) := by intro u e; cases e; exact h

theorem KeptO.ite {s : State} {a b : Option State} {c : Prop} [Decidable c] (ha : KeptO s a) (hb : KeptO s b) :
    KeptO s (if c then a else b) := by split <;> assumption

theorem KeptO.get {s t : State} {o : Option State} (e : o = Option.some t) (h : KeptO s o) : Kept s t := h t e

/-- What an operation that may have no result, and returns a value beside the state, keeps. -/
def KeptP {β : Type} (s : State) (o : Option (β × State)) : Prop := ∀ u, o = some u → Kept s u.2

theorem KeptP.none {β : Type} {s : State} : KeptP s (Option.none : Option (β × State)) := by intro u h; cases h

theorem KeptP.some {β : Type} {s : State} {p : β × State} (h : Kept s p.2) : KeptP s (Option.some p) := by
  intro u e; cases e; exact h

theorem KeptP.get {β : Type} {s t : State} {a : β} {o : Option (β × State)} (e : o = Option.some (a, t)) (h : KeptP s o) :
    Kept s t := h _ e

theorem KeptP.map {β : Type} {s : State} {o : Option (β × State)} (h : KeptP s o) : KeptO s (o.map (fun r => r.2)) := by
  intro u e
  cases o with
  | none => cases e
  | some p => cases e; exact h p rfl

/-- What a write that may be a violation keeps. -/
def KeptE (s : State) (o : Except Nat State) : Prop := ∀ u, o = .ok u → Kept s u

theorem KeptE.error {s : State} {k : Nat} : KeptE s (.error k) := by intro u h; cases h

theorem KeptE.ok {s t : State} (h : Kept s t) : KeptE s (.ok t) := by intro u e; cases e; exact h

theorem KeptE.get {s t : State} {o : Except Nat State} (e : o = .ok t) (h : KeptE s o) : Kept s t := h t e

/-- What a read that may be a violation keeps. -/
def KeptR {β : Type} (s : State) (o : Except Nat (β × State)) : Prop := ∀ u, o = .ok u → Kept s u.2

theorem KeptR.error {β : Type} {s : State} {k : Nat} : KeptR s (.error k : Except Nat (β × State)) := by
  intro u h; cases h

theorem KeptR.ok {β : Type} {s : State} {p : β × State} (h : Kept s p.2) : KeptR s (.ok p) := by
  intro u e; cases e; exact h

theorem KeptR.get {β : Type} {s t : State} {a : β} {o : Except Nat (β × State)} (e : o = .ok (a, t)) (h : KeptR s o) :
    Kept s t := h _ e

/-- What a command keeps. -/
def KeptX (s : State) (o : Host.Outcome State Fault Refusal) : Prop := ∀ u, o = .next u → Kept s u

theorem KeptX.next {s t : State} (h : Kept s t) : KeptX s (.next t) := by intro u e; cases e; exact h

theorem setReg_kept {s t : State} (h : Kept s t) (o : Nat) (w : Word) : Kept s (t.setReg o w) :=
  ⟨⟨h.pending, h.build, fun k => SMap.wf_setD regReset t.regs o w (h.regs k), h.words, h.spares, h.bays, h.edges⟩,
    h.ties, h.time⟩

theorem setFword_kept {s t : State} (h : Kept s t) (k : Nat) (x : FWord) : Kept s (t.setFword k x) :=
  ⟨⟨h.pending, h.build, h.regs, fun g => SMap.wf_setD (fun _ => FWord.init) t.words k x (h.words g), h.spares, h.bays,
    h.edges⟩, h.ties, h.time⟩

theorem setSpare_kept {s t : State} (h : Kept s t) (k : Nat) (x : FWord) : Kept s (t.setSpare k x) :=
  ⟨⟨h.pending, h.build, h.regs, h.words, fun g => SMap.wf_setD (fun _ => FWord.init) t.spares k x (h.spares g), h.bays,
    h.edges⟩, h.ties, h.time⟩

theorem SMap.mem_setD {α : Type} [DecidableEq α] (m : SMap α) (k : Nat) (x d : α) (e : Nat × α)
    (h : e ∈ SMap.setD m k x d) : e = (k, x) ∨ e ∈ m := by
  unfold SMap.setD at h
  split at h
  · rw [SMap.erase_eq_filter] at h
    exact .inr (List.mem_filter.1 h).1
  · exact SMap.mem_insert m k x e h

/-- Staging words return to zero. -/
theorem Kept.dropWords {s t : State} {p : Nat × FWord → Bool} (h : Kept s t) :
    Kept s { t with words := t.words.filter p } :=
  ⟨⟨h.pending, h.build, h.regs, fun g => SMap.wf_filter _ t.words p (h.words g), h.spares, h.bays, h.edges⟩,
    h.ties, h.time⟩

/-- A frame is zeroed: its words and its spares return to zero. -/
theorem zeroWords_kept {s t : State} (h : Kept s t) (f : Nat) : Kept s (t.zeroWords f) :=
  ⟨⟨h.pending, h.build, h.regs, fun g => SMap.wf_filter _ t.words _ (h.words g),
    fun g => SMap.wf_filter _ t.spares _ (h.spares g), h.bays, h.edges⟩, h.ties, h.time⟩

theorem setBay_kept {s t : State} (h : Kept s t) (k : Nat) (x : Bay) (hx : baysOk t.bays = true → x.ok = true) :
    Kept s (t.setBay k x) := by
  refine ⟨⟨h.pending, h.build, h.regs, h.words, h.spares, fun g => ?_, h.edges⟩, h.ties, h.time⟩
  have g1 := h.bays g
  have g2 := hx g1
  unfold baysOk at g1 ⊢
  rw [Bool.and_eq_true, List.all_eq_true] at g1 ⊢
  refine ⟨SMap.wf_setD (fun _ => Bay.init) t.bays k x g1.1, fun e he => ?_⟩
  rcases SMap.mem_setD t.bays k x Bay.init e he with rfl | he
  · exact g2
  · exact g1.2 e he

/-- A bay of a state in which the rules of the bays hold obeys them. -/
theorem bay_ok {t : State} (h : baysOk t.bays = true) (b : Nat) : (t.bay b).ok = true := by
  unfold baysOk at h
  rw [Bool.and_eq_true, List.all_eq_true] at h
  unfold State.bay SMap.getD
  rcases hg : SMap.get t.bays b with _ | x
  · rfl
  · have : ∀ m : SMap Bay, SMap.get m b = some x → (b, x) ∈ m := by
      intro m hm
      induction m with
      | nil => cases hm
      | cons e r ih =>
        obtain ⟨i, v⟩ := e
        simp only [SMap.get] at hm
        split at hm
        · rename_i hi; cases hm; subst hi; exact List.mem_cons_self
        · exact List.mem_cons_of_mem _ (ih hm)
    exact h.2 _ (this _ hg)

theorem modBay_kept {s t : State} (h : Kept s t) (k : Nat) (f : Bay → Bay)
    (hf : baysOk t.bays = true → (f (t.bay k)).ok = true) : Kept s (t.modBay k f) := setBay_kept h k _ hf

theorem modWork_kept {s t : State} (h : Kept s t) (k : Nat) (f : Work → Work) : Kept s (t.modWork k f) := by
  unfold State.modWork
  split
  · exact h
  · exact h.same rfl rfl rfl rfl rfl rfl rfl rfl rfl

end Sys2Proof.Machine
end

