-- ==== Sys2Proof/Laws/Keeps/Access.lean ====
section
/-! SUPPORT. What the operations of `Machine/Access.lean` keep. -/

namespace Sys2Proof.Machine
open Sys2Proof

theorem setQueue_kept {z t : State} (hk : Kept z t) (k : Nat) (x : Queue) : Kept z (State.setQueue t k x) := by
  unfold State.setQueue
  repeat' with_reducible first
    | exact hk | assumption | (fail_if_no_progress refine Kept.lit ?_ rfl)

theorem modQueue_kept {z t : State} (hk : Kept z t) (k : Nat) (f : Queue → Queue) : Kept z (State.modQueue t k f) := by
  unfold State.modQueue
  repeat' with_reducible first
    | exact hk | assumption | apply setQueue_kept

theorem setPushSlot_kept {z t : State} (hk : Kept z t) (k : Nat) (x : PushSlot) : Kept z (State.setPushSlot t k x) := by
  unfold State.setPushSlot
  repeat' with_reducible first
    | exact hk | assumption | (fail_if_no_progress refine Kept.lit ?_ rfl)

theorem modPushSlot_kept {z t : State} (hk : Kept z t) (k : Nat) (f : PushSlot → PushSlot) : Kept z (State.modPushSlot t k f) := by
  unfold State.modPushSlot
  repeat' with_reducible first
    | exact hk | assumption | apply setPushSlot_kept

theorem setTag_kept {z t : State} (hk : Kept z t) (k : Nat) (x : Tag) : Kept z (State.setTag t k x) := by
  unfold State.setTag
  repeat' with_reducible first
    | exact hk | assumption | (fail_if_no_progress refine Kept.lit ?_ rfl)

theorem modTag_kept {z t : State} (hk : Kept z t) (k : Nat) (f : Tag → Tag) : Kept z (State.modTag t k f) := by
  unfold State.modTag
  repeat' with_reducible first
    | exact hk | assumption | apply setTag_kept

theorem setSlot_kept {z t : State} (hk : Kept z t) (k : Nat) (x : Slot) : Kept z (State.setSlot t k x) := by
  unfold State.setSlot
  repeat' with_reducible first
    | exact hk | assumption | (fail_if_no_progress refine Kept.lit ?_ rfl)

theorem modSlot_kept {z t : State} (hk : Kept z t) (k : Nat) (f : Slot → Slot) : Kept z (State.modSlot t k f) := by
  unfold State.modSlot
  repeat' with_reducible first
    | exact hk | assumption | apply setSlot_kept

theorem setLun_kept {z t : State} (hk : Kept z t) (k : Nat) (x : Lun) : Kept z (State.setLun t k x) := by
  unfold State.setLun
  repeat' with_reducible first
    | exact hk | assumption | (fail_if_no_progress refine Kept.lit ?_ rfl)

theorem modLun_kept {z t : State} (hk : Kept z t) (k : Nat) (f : Lun → Lun) : Kept z (State.modLun t k f) := by
  unfold State.modLun
  repeat' with_reducible first
    | exact hk | assumption | apply setLun_kept

theorem setChan_kept {z t : State} (hk : Kept z t) (k : Nat) (x : Chan) : Kept z (State.setChan t k x) := by
  unfold State.setChan
  repeat' with_reducible first
    | exact hk | assumption | (fail_if_no_progress refine Kept.lit ?_ rfl)

theorem modChan_kept {z t : State} (hk : Kept z t) (k : Nat) (f : Chan → Chan) : Kept z (State.modChan t k f) := by
  unfold State.modChan
  repeat' with_reducible first
    | exact hk | assumption | apply setChan_kept

theorem setFrame_kept {z t : State} (hk : Kept z t) (k : Nat) (x : Frame) : Kept z (State.setFrame t k x) := by
  unfold State.setFrame
  repeat' with_reducible first
    | exact hk | assumption | (fail_if_no_progress refine Kept.lit ?_ rfl)

theorem modFrame_kept {z t : State} (hk : Kept z t) (k : Nat) (f : Frame → Frame) : Kept z (State.modFrame t k f) := by
  unfold State.modFrame
  repeat' with_reducible first
    | exact hk | assumption | apply setFrame_kept

theorem modFword_kept {z t : State} (hk : Kept z t) (k : Nat) (f : FWord → FWord) : Kept z (State.modFword t k f) := by
  unfold State.modFword
  repeat' with_reducible first
    | exact hk | assumption | apply setFword_kept

theorem modSpare_kept {z t : State} (hk : Kept z t) (k : Nat) (f : FWord → FWord) : Kept z (State.modSpare t k f) := by
  unfold State.modSpare
  repeat' with_reducible first
    | exact hk | assumption | apply setSpare_kept

theorem setAcc_kept {z t : State} (hk : Kept z t) (k : Nat) (x : Accumulator) : Kept z (State.setAcc t k x) := by
  unfold State.setAcc
  repeat' with_reducible first
    | exact hk | assumption | (fail_if_no_progress refine Kept.lit ?_ rfl)

theorem modAcc_kept {z t : State} (hk : Kept z t) (k : Nat) (f : Accumulator → Accumulator) : Kept z (State.modAcc t k f) := by
  unfold State.modAcc
  repeat' with_reducible first
    | exact hk | assumption | apply setAcc_kept

theorem setObtEntry_kept {z t : State} (hk : Kept z t) (k : Nat) (x : ObtEntry) : Kept z (State.setObtEntry t k x) := by
  unfold State.setObtEntry
  repeat' with_reducible first
    | exact hk | assumption | (fail_if_no_progress refine Kept.lit ?_ rfl)

theorem modObtEntry_kept {z t : State} (hk : Kept z t) (k : Nat) (f : ObtEntry → ObtEntry) : Kept z (State.modObtEntry t k f) := by
  unfold State.modObtEntry
  repeat' with_reducible first
    | exact hk | assumption | apply setObtEntry_kept

theorem setRltEntry_kept {z t : State} (hk : Kept z t) (k : Nat) (x : RltEntry) : Kept z (State.setRltEntry t k x) := by
  unfold State.setRltEntry
  repeat' with_reducible first
    | exact hk | assumption | (fail_if_no_progress refine Kept.lit ?_ rfl)

theorem modRltEntry_kept {z t : State} (hk : Kept z t) (k : Nat) (f : RltEntry → RltEntry) : Kept z (State.modRltEntry t k f) := by
  unfold State.modRltEntry
  repeat' with_reducible first
    | exact hk | assumption | apply setRltEntry_kept

theorem setLedgerEntry_kept {z t : State} (hk : Kept z t) (k : Nat) (x : LedgerEntry) : Kept z (State.setLedgerEntry t k x) := by
  unfold State.setLedgerEntry
  repeat' with_reducible first
    | exact hk | assumption | (fail_if_no_progress refine Kept.lit ?_ rfl)

theorem modLedgerEntry_kept {z t : State} (hk : Kept z t) (k : Nat) (f : LedgerEntry → LedgerEntry) : Kept z (State.modLedgerEntry t k f) := by
  unfold State.modLedgerEntry
  repeat' with_reducible first
    | exact hk | assumption | apply setLedgerEntry_kept

theorem setDmaChan_kept {z t : State} (hk : Kept z t) (k : Nat) (x : DmaChan) : Kept z (State.setDmaChan t k x) := by
  unfold State.setDmaChan
  repeat' with_reducible first
    | exact hk | assumption | (fail_if_no_progress refine Kept.lit ?_ rfl)

theorem modDmaChan_kept {z t : State} (hk : Kept z t) (k : Nat) (f : DmaChan → DmaChan) : Kept z (State.modDmaChan t k f) := by
  unfold State.modDmaChan
  repeat' with_reducible first
    | exact hk | assumption | apply setDmaChan_kept

theorem setRing_kept {z t : State} (hk : Kept z t) (k : Nat) (x : Ring) : Kept z (State.setRing t k x) := by
  unfold State.setRing
  repeat' with_reducible first
    | exact hk | assumption | (fail_if_no_progress refine Kept.lit ?_ rfl)

theorem modRing_kept {z t : State} (hk : Kept z t) (k : Nat) (f : Ring → Ring) : Kept z (State.modRing t k f) := by
  unfold State.modRing
  repeat' with_reducible first
    | exact hk | assumption | apply setRing_kept

theorem dropWork_kept {z t : State} (hk : Kept z t) (k : Nat) : Kept z (State.dropWork t k) := by
  unfold State.dropWork
  repeat' with_reducible first
    | exact hk | assumption | (fail_if_no_progress refine Kept.lit ?_ rfl)

theorem setFld_kept {z t : State} (hk : Kept z t) (off : Nat) (hi : Nat) (lo : Nat) (v : Nat) : Kept z (State.setFld t off hi lo v) := by
  unfold State.setFld
  repeat' with_reducible first
    | exact hk | assumption | apply setReg_kept

theorem addFld_kept {z t : State} (hk : Kept z t) (off : Nat) (hi : Nat) (lo : Nat) (v : Nat) : Kept z (State.addFld t off hi lo v) := by
  unfold State.addFld
  repeat' with_reducible first
    | exact hk | assumption | apply setFld_kept

theorem setBit_kept {z t : State} (hk : Kept z t) (off : Nat) (b : Nat) (v : Bool) : Kept z (State.setBit t off b v) := by
  unfold State.setBit
  repeat' with_reducible first
    | exact hk | assumption | apply setFld_kept

theorem setArrBit_kept {z t : State} (hk : Kept z t) (base : Nat) (n : Nat) (v : Bool) : Kept z (State.setArrBit t base n v) := by
  unfold State.setArrBit
  repeat' with_reducible first
    | exact hk | assumption | apply setBit_kept

theorem tick_kept {z t : State} (hk : Kept z t) : Kept z (State.tick t).2 := by
  unfold State.tick
  repeat' with_reducible first
    | exact hk | assumption | (fail_if_no_progress refine Kept.lit ?_ rfl)

theorem nextFresh_kept {z t : State} (hk : Kept z t) : Kept z (State.nextFresh t).2 := by
  unfold State.nextFresh
  repeat' with_reducible first
    | exact hk | assumption | (fail_if_no_progress refine Kept.lit ?_ rfl)

end Sys2Proof.Machine
end

