-- ==== Sys2Proof/Laws/Keeps/Observe.lean ====
section
/-! SUPPORT. What the operations of `Machine/Observe.lean` keep. -/

namespace Sys2Proof.Machine
open Sys2Proof

theorem wakeBy_kept {z t : State} (hk : Kept z t) (e : WakeEvent) : Kept z (State.wakeBy t e) := by
  unfold State.wakeBy
  repeat' with_reducible first
    | exact hk | assumption | apply Kept.ite | apply setReg_kept | (fail_if_no_progress refine Kept.lit ?_ rfl)
    | split | (apply Kept.snd; assumption)

theorem holdRequest_kept {z t : State} (hk : Kept z t) (c : Instr) (e : WakeEvent) : Kept z (State.holdRequest t c e) := by
  unfold State.holdRequest
  dsimp only
  repeat' with_reducible first
    | exact hk | assumption | apply wakeBy_kept | (fail_if_no_progress refine Kept.lit ?_ rfl)

theorem aonClock_kept (t : State) : KeptB t (State.aonClock t) := by
  unfold State.aonClock
  split
  · exact ⟨rfl, rfl, id, id, id, id, id⟩
  · exact (Kept.refl t).toKeptB

theorem traceIn_kept {z t : State} (hk : Kept z t) (r : BitVec 128) : Kept z (State.traceIn t r) := by
  unfold State.traceIn
  dsimp only
  repeat' with_reducible first
    | exact hk | assumption | apply Kept.ite | apply setBit_kept | apply addFld_kept
    | (fail_if_no_progress refine Kept.lit ?_ rfl) | split

theorem traceAlways_kept {z t : State} (hk : Kept z t) (ty : Nat) (unit : Nat) (payload : Nat) : Kept z (State.traceAlways t ty unit payload) := by
  unfold State.traceAlways
  repeat' with_reducible first
    | exact hk | assumption | apply Kept.ite | apply traceIn_kept | split

theorem traceRec_kept {z t : State} (hk : Kept z t) (ty : Nat) (cls : Nat) (unit : Nat) (isChan : Bool) (payload : Nat) (queue : Option Nat) : Kept z (State.traceRec t ty cls unit isChan payload queue) := by
  unfold State.traceRec
  repeat' with_reducible first
    | exact hk | assumption | apply Kept.ite | apply traceIn_kept | split

theorem traceSync_kept {z t : State} (hk : Kept z t) : Kept z (State.traceSync t) := by
  unfold State.traceSync
  repeat' with_reducible first
    | exact hk | assumption | apply traceAlways_kept

theorem count_kept {z t : State} (hk : Kept z t) (g : Nat) (i : Nat) (k : Nat) : Kept z (State.count t g i k) := by
  unfold State.count
  dsimp only
  repeat' with_reducible first
    | exact hk | assumption | apply Kept.ite | apply traceAlways_kept | (fail_if_no_progress refine Kept.lit ?_ rfl)
    | split

theorem snapshot_kept {z t : State} (hk : Kept z t) (b : Nat) (g : Nat) (clear : Bool) : Kept z (State.snapshot t b g clear) := by
  unfold State.snapshot
  dsimp only
  repeat' with_reducible first
    | exact hk | assumption | intro _ | apply Kept.ite | apply Kept.foldl | apply setReg_kept | apply setFld_kept
    | apply setBit_kept | (fail_if_no_progress refine Kept.lit ?_ rfl) | split

theorem traceDrop_kept {z t : State} (hk : Kept z t) : Kept z (State.traceDrop t) := by
  unfold State.traceDrop
  repeat' with_reducible first
    | exact hk | assumption | (fail_if_no_progress refine Kept.lit ?_ rfl)

theorem latchTime_kept {z t : State} (hk : Kept z t) (mgmt : Bool) : Kept z (State.latchTime t mgmt) := by
  unfold State.latchTime
  dsimp only
  repeat' with_reducible first
    | exact hk | assumption | apply Kept.ite | (fail_if_no_progress refine Kept.lit ?_ rfl) | split

theorem traceFlush_kept {z t : State} (hk : Kept z t) : Kept z (State.traceFlush t) := by
  unfold State.traceFlush
  repeat' with_reducible first
    | exact hk | assumption | apply Kept.ite | apply setBit_kept | apply setReg_kept
    | (fail_if_no_progress refine Kept.lit ?_ rfl) | split

theorem tracePop_kept {z t : State} (hk : Kept z t) : Kept z (State.tracePop t) := by
  unfold State.tracePop
  repeat' with_reducible first
    | exact hk | assumption | apply Kept.ite | apply traceDrop_kept | split

theorem busyClocks_kept {z t : State} (hk : Kept z t) (g : Nat) : Kept z (State.busyClocks t g) := by
  unfold State.busyClocks
  repeat' with_reducible first
    | exact hk | assumption | apply Kept.ite | apply Kept.ite2 | apply nextFresh_kept | apply count_kept | split

theorem snapGo_kept {z t : State} (hk : Kept z t) (bank : Nat) (group : Nat) (clear : Bool) : Kept z (State.snapGo t bank group clear) := by
  unfold State.snapGo
  repeat' with_reducible first
    | exact hk | assumption | apply Kept.ite | apply setBit_kept | apply busyClocks_kept | apply snapshot_kept | split

theorem execTrcPop_kept {z t : State} (hk : Kept z t) : KeptX z (execTrcPop t) := by
  unfold execTrcPop
  repeat' with_reducible first
    | exact hk | assumption | apply Kept.ite | apply holdRequest_kept | apply tracePop_kept | apply KeptX.next | split

theorem execTrcFlush_kept {z t : State} (hk : Kept z t) : KeptX z (execTrcFlush t) := by
  unfold execTrcFlush
  repeat' with_reducible first
    | exact hk | assumption | apply Kept.ite | apply holdRequest_kept | apply traceFlush_kept | apply KeptX.next
    | split

theorem execSnapshot_kept {z t : State} (hk : Kept z t) (bank : Nat) (group : Nat) (clear : Bool) : KeptX z (execSnapshot bank group clear t) := by
  unfold execSnapshot
  repeat' with_reducible first
    | exact hk | assumption | apply Kept.ite | apply holdRequest_kept | apply snapshot_kept | apply snapGo_kept
    | apply KeptX.next | split

end Sys2Proof.Machine
end

