-- ==== Sys2Proof/Laws/Keeps/Irq.lean ====
section
/-! SUPPORT. What the operations of `Machine/Irq.lean` keep. -/

namespace Sys2Proof.Machine
open Sys2Proof

theorem traceIrq_kept {z t : State} (hk : Kept z t) (unit : Nat) (what : Nat) (fast : Bool) (t' : Nat) : Kept z (State.traceIrq t unit what fast t') := by
  unfold State.traceIrq
  repeat' with_reducible first
    | exact hk | assumption | apply traceRec_kept

theorem squall_kept {z t : State} (hk : Kept z t) (n : Nat) : Kept z (State.squall t n) := by
  unfold State.squall
  dsimp only
  repeat' with_reducible first
    | exact hk | assumption | apply Kept.ite | apply setArrBit_kept | apply addFld_kept | apply count_kept
    | (fail_if_no_progress refine Kept.lit ?_ rfl) | split

theorem pendEdge_kept {z t : State} (hk : Kept z t) (n : Nat) : Kept z (State.pendEdge t n) := by
  unfold State.pendEdge
  dsimp only
  repeat' with_reducible first
    | exact hk | assumption | apply Kept.ite | apply squall_kept | apply traceIrq_kept
    | (fail_if_no_progress refine Kept.lit ?_ rfl) | split

theorem raise_kept {z t : State} (hk : Kept z t) (n : Nat) : Kept z (State.raise t n) := by
  have hadd : ∀ l : List Nat, 768 ≤ n → n < 800 → edgesOk l = true → edgesOk (addSorted n l) = true := by
    intro l h1 h2 hl
    have hn : ∀ m ∈ addSorted n l, m = n ∨ m ∈ l := by
      clear hl
      induction l with
      | nil => intro m hm; simpa [addSorted] using hm
      | cons x r ih =>
        intro m hm
        unfold addSorted at hm
        split at hm
        · rcases List.mem_cons.1 hm with hm | hm
          · exact .inl hm
          · exact .inr hm
        · split at hm
          · exact .inr hm
          · rcases List.mem_cons.1 hm with hm | hm
            · exact .inr (hm ▸ List.mem_cons_self)
            · rcases ih m hm with hm | hm
              · exact .inl hm
              · exact .inr (List.mem_cons_of_mem _ hm)
    unfold edgesOk at hl ⊢
    rw [List.all_eq_true] at hl ⊢
    intro m hm
    rcases hn m hm with rfl | hm
    · simp [h1, h2]
    · exact hl m hm
  unfold State.raise
  dsimp only
  split
  · exact hk
  · split
    · rename_i h
      simp only [Bool.and_eq_true, decide_eq_true_eq] at h
      have h2 : Kept z { t with irq := { t.irq with heldEdges := addSorted n t.irq.heldEdges } } :=
        ⟨⟨hk.pending, hk.build, hk.regs, hk.words, hk.spares, hk.bays, fun g => hadd _ h.1.1 h.1.2 (hk.edges g)⟩,
          hk.ties, hk.time⟩
      split
      · exact wakeBy_kept h2 _
      · exact h2
    · repeat' with_reducible first
        | exact hk | assumption | apply Kept.ite | apply pendEdge_kept | apply wakeBy_kept | split

theorem releaseEdges_kept {z t : State} (hk : Kept z t) : Kept z (State.releaseEdges t) := by
  unfold State.releaseEdges
  refine Kept.foldl (fun t x h => pendEdge_kept h x) ?_
  exact ⟨⟨hk.pending, hk.build, hk.regs, hk.words, hk.spares, hk.bays, fun _ => rfl⟩, hk.ties, hk.time⟩

theorem raiseCarry_kept {z t : State} (hk : Kept z t) : Kept z (State.raiseCarry t) := by
  unfold State.raiseCarry
  repeat' with_reducible first
    | exact hk | assumption | apply Kept.ite | apply pendEdge_kept | split

theorem attn_kept {z t : State} (hk : Kept z t) (n : Nat) (b : Nat) : Kept z (State.attn t n b) := by
  unfold State.attn
  repeat' with_reducible first
    | exact hk | assumption | apply Kept.ite | apply setBit_kept | apply raise_kept | split

theorem claim_kept {z t : State} (hk : Kept z t) (t' : Nat) (fast : Bool) : Kept z (State.claim t t' fast).2 := by
  unfold State.claim
  dsimp only
  repeat' with_reducible first
    | exact hk | assumption | apply Kept.ite | apply Kept.ite2 | apply count_kept | apply traceIrq_kept
    | apply setBit_kept | (fail_if_no_progress refine Kept.lit ?_ rfl) | split | (apply Kept.snd; assumption)

theorem complete_kept {z t : State} (hk : Kept z t) (t' : Nat) (fast : Bool) (v : Word) : Kept z (State.complete t t' fast v) := by
  unfold State.complete
  dsimp only
  repeat' with_reducible first
    | exact hk | assumption | apply Kept.ite | apply count_kept | apply traceIrq_kept | apply setBit_kept
    | (fail_if_no_progress refine Kept.lit ?_ rfl) | split

theorem pendSet_kept {z t : State} (hk : Kept z t) (w : Nat) (v : Word) : Kept z (State.pendSet t w v) := by
  unfold State.pendSet
  repeat' with_reducible first
    | exact hk | assumption | intro _ | apply Kept.foldl | apply pendEdge_kept

theorem pendClr_kept {z t : State} (hk : Kept z t) (w : Nat) (v : Word) : Kept z (State.pendClr t w v) := by
  unfold State.pendClr
  repeat' with_reducible first
    | exact hk | assumption | (fail_if_no_progress refine Kept.lit ?_ rfl)

theorem execSrcPendSet_kept {z t : State} (hk : Kept z t) (w : Nat) (val : Word) : KeptX z (execSrcPendSet w val t) := by
  unfold execSrcPendSet
  repeat' with_reducible first
    | exact hk | assumption | apply Kept.ite | apply holdRequest_kept | apply pendSet_kept | apply KeptX.next | split

theorem execSrcPendClr_kept {z t : State} (hk : Kept z t) (w : Nat) (val : Word) : KeptX z (execSrcPendClr w val t) := by
  unfold execSrcPendClr
  repeat' with_reducible first
    | exact hk | assumption | apply Kept.ite | apply holdRequest_kept | apply pendClr_kept | apply KeptX.next | split

theorem execSrcMaskWrite_kept {z t : State} (hk : Kept z t) (w : Nat) (val : Word) : KeptX z (execSrcMaskWrite w val t) := by
  unfold execSrcMaskWrite
  repeat' with_reducible first
    | exact hk | assumption | apply Kept.ite | apply holdRequest_kept | apply setReg_kept | apply KeptX.next | split

theorem execClaim_kept {z t : State} (hk : Kept z t) (target : Nat) (fast : Bool) : KeptX z (execClaim target fast t) := by
  unfold execClaim
  repeat' with_reducible first
    | exact hk | assumption | apply Kept.ite | apply Kept.ite2 | apply holdRequest_kept | apply claim_kept
    | apply KeptX.next | split

theorem execComplete_kept {z t : State} (hk : Kept z t) (target : Nat) (fast : Bool) (val : Word) : KeptX z (execComplete target fast val t) := by
  unfold execComplete
  repeat' with_reducible first
    | exact hk | assumption | apply Kept.ite | apply holdRequest_kept | apply complete_kept | apply KeptX.next | split

end Sys2Proof.Machine
end

