-- ==== Sys2Proof/Laws/Keeps/Memory.lean ====
section
/-! SUPPORT. What the operations of `Machine/Memory.lean` keep. -/

namespace Sys2Proof.Machine
open Sys2Proof

theorem logError_kept {z t : State} (hk : Kept z t) (c : Nat) (addr : Nat) (ue : Bool) (bist : Bool) (bit : Nat) : Kept z (State.logError t c addr ue bist bit) := by
  unfold State.logError
  dsimp only
  repeat' with_reducible first
    | exact hk | assumption | apply Kept.ite | apply addFld_kept | apply setBit_kept | apply setReg_kept
    | apply raise_kept | (fail_if_no_progress refine Kept.lit ?_ rfl) | split | (apply Kept.snd; assumption)

theorem noteCorrected_kept {z t : State} (hk : Kept z t) (c : Nat) (addr : Nat) (bit : Nat) : Kept z (State.noteCorrected t c addr bit) := by
  unfold State.noteCorrected
  dsimp only
  repeat' with_reducible first
    | exact hk | assumption | apply Kept.ite | apply addFld_kept | apply logError_kept
    | (fail_if_no_progress refine Kept.lit ?_ rfl) | split

theorem noteBad_kept {z t : State} (hk : Kept z t) (c : Nat) (addr : Nat) : Kept z (State.noteBad t c addr) := by
  unfold State.noteBad
  repeat' with_reducible first
    | exact hk | assumption | apply Kept.ite | apply addFld_kept | apply logError_kept | apply raise_kept | split

theorem dropWriteBack_kept {z t : State} (hk : Kept z t) (c : Nat) (addr : Nat) (n : Nat) : Kept z (State.dropWriteBack t c addr n) := by
  unfold State.dropWriteBack
  repeat' with_reducible first
    | exact hk | assumption | (fail_if_no_progress refine Kept.lit ?_ rfl)

theorem useGroup_kept {z t : State} (hk : Kept z t) (c : Nat) (addr : Nat) : Kept z (State.useGroup t c addr).2 := by
  unfold State.useGroup
  repeat' with_reducible first
    | exact hk | assumption | intro _ | apply Kept.foldl | apply Kept.foldl2 | apply noteCorrected_kept
    | apply noteBad_kept | (fail_if_no_progress refine Kept.lit ?_ rfl) | split | (apply Kept.snd; assumption)

theorem useEntry_kept {z t : State} (hk : Kept z t) (c : Nat) (addr : Nat) (n : Nat) : Kept z (State.useEntry t c addr n).2 := by
  unfold State.useEntry
  dsimp only
  repeat' with_reducible first
    | exact hk | assumption | intro _ | apply Kept.foldl | apply Kept.foldl2 | apply useGroup_kept

theorem freshEntry_kept {z t : State} (hk : Kept z t) (c : Nat) (addr : Nat) (n : Nat) : Kept z (State.freshEntry t c addr n) := by
  unfold State.freshEntry
  repeat' with_reducible first
    | exact hk | assumption | intro _ | apply Kept.foldl | apply dropWriteBack_kept
    | (fail_if_no_progress refine Kept.lit ?_ rfl)

theorem shiftEntries_kept {z t : State} (hk : Kept z t) (c : Nat) (store : Nat) : Kept z (State.shiftEntries t c store) := by
  unfold State.shiftEntries
  dsimp only
  repeat' with_reducible first
    | exact hk | assumption | apply Kept.ite | apply Kept.ite2 | apply dropWriteBack_kept
    | (fail_if_no_progress refine Kept.lit ?_ rfl) | split

theorem popCarry_kept {z t : State} (hk : Kept z t) : Kept z (State.popCarry t) := by
  unfold State.popCarry
  repeat' with_reducible first
    | exact hk | assumption | apply Kept.ite | apply shiftEntries_kept | (fail_if_no_progress refine Kept.lit ?_ rfl)
    | split

theorem popAdvisory_kept {z t : State} (hk : Kept z t) : Kept z (State.popAdvisory t) := by
  unfold State.popAdvisory
  repeat' with_reducible first
    | exact hk | assumption | apply Kept.ite | apply shiftEntries_kept | (fail_if_no_progress refine Kept.lit ?_ rfl)
    | split

theorem store_kept {z t : State} (hk : Kept z t) (f : Nat) (w : Nat) (x : FWord) : Kept z (State.store t f w x) := by
  unfold State.store
  repeat' with_reducible first
    | exact hk | assumption | apply dropWriteBack_kept | apply setSpare_kept | apply setFword_kept
    | (fail_if_no_progress refine Kept.lit ?_ rfl) | split | (apply Kept.snd; assumption)

theorem readWord_kept {z t : State} (hk : Kept z t) (f : Nat) (w : Nat) : Kept z (State.readWord t f w).2 := by
  unfold State.readWord
  dsimp only
  repeat' with_reducible first
    | exact hk | assumption | apply noteCorrected_kept | apply noteBad_kept | apply store_kept
    | (fail_if_no_progress refine Kept.lit ?_ rfl) | split | (apply Kept.snd; assumption)

theorem writeWord_kept {z t : State} (hk : Kept z t) (f : Nat) (w : Nat) (d : BitVec 256) (poison : Bool) : Kept z (State.writeWord t f w d poison) := by
  unfold State.writeWord
  repeat' with_reducible first
    | exact hk | assumption | apply store_kept

theorem frameRead_kept {z t : State} (hk : Kept z t) (f : Nat) (off : Nat) (len : Nat) : Kept z (State.frameRead t f off len).2 := by
  unfold State.frameRead
  dsimp only
  repeat' with_reducible first
    | exact hk | assumption | intro _ | apply Kept.ite | apply Kept.ite2 | apply Kept.foldl | apply Kept.foldl2
    | apply readWord_kept | split

theorem narrowWrite_kept {z t : State} (hk : Kept z t) (f : Nat) (w : Nat) (at0 : Nat) (l : List Byte) (poison : Bool) : Kept z (State.narrowWrite t f w at0 l poison) := by
  unfold State.narrowWrite
  dsimp only
  repeat' with_reducible first
    | exact hk | assumption | apply readWord_kept | apply writeWord_kept

theorem frameWriteFrom_kept {z t : State} (hk : Kept z t) (fuel : Nat) (f : Nat) (off : Nat) (l : List Byte) (marks : List Bool) : Kept z (State.frameWriteFrom t fuel f off l marks) := by
  induction fuel generalizing t f off l marks with
  | zero => unfold State.frameWriteFrom; first | exact hk | exact KeptO.none
  | succ k ih =>
    unfold State.frameWriteFrom
    try dsimp only
    repeat' with_reducible first
      | exact hk | assumption | apply Kept.ite | apply writeWord_kept | apply narrowWrite_kept | apply ih
      | (fail_if_no_progress refine Kept.lit ?_ rfl) | split | (apply Kept.snd; assumption)

theorem frameWrite_kept {z t : State} (hk : Kept z t) (f : Nat) (off : Nat) (l : List Byte) (poison : Bool) : Kept z (State.frameWrite t f off l poison) := by
  unfold State.frameWrite
  repeat' with_reducible first
    | exact hk | assumption | apply frameWriteFrom_kept

theorem frameWriteMarked_kept {z t : State} (hk : Kept z t) (f : Nat) (off : Nat) (l : List Byte) (marks : List Bool) : Kept z (State.frameWriteMarked t f off l marks) := by
  unfold State.frameWriteMarked
  repeat' with_reducible first
    | exact hk | assumption | apply frameWriteFrom_kept

theorem clearStaging_kept {z t : State} (hk : Kept z t) (n : Nat) : Kept z (State.clearStaging t n) :=
  ⟨⟨hk.pending, hk.build, hk.regs, fun g => SMap.wf_filter _ _ _ (hk.words g),
    fun g => SMap.wf_filter _ _ _ (hk.spares g), hk.bays, hk.edges⟩, hk.ties, hk.time⟩

theorem memReqError_kept {z t : State} (hk : Kept z t) : Kept z (State.memReqError t) := by
  unfold State.memReqError
  repeat' with_reducible first
    | exact hk | assumption | apply setBit_kept

theorem stagingStart_kept {z t : State} (hk : Kept z t) (base : Nat) (n : Nat) : Kept z (State.stagingStart t base n) := by
  unfold State.stagingStart
  repeat' with_reducible first
    | exact hk | assumption | apply Kept.ite | apply setArrBit_kept | apply memReqError_kept | split

theorem logBist_kept {z t : State} (hk : Kept z t) (addr : Nat) : Kept z (State.logBist t addr) := by
  unfold State.logBist
  repeat' with_reducible first
    | exact hk | assumption | apply logError_kept

theorem bistEnd_kept {z t : State} (hk : Kept z t) (n : Nat) (failing : List Nat) (bad : List Nat) : Kept z (State.bistEnd t n failing bad) := by
  unfold State.bistEnd
  dsimp only
  repeat' with_reducible first
    | exact hk | assumption | intro _ | apply Kept.ite | apply Kept.ite2 | apply Kept.foldl | apply Kept.foldl2
    | apply setReg_kept | apply logBist_kept | apply clearStaging_kept | apply setArrBit_kept | apply raise_kept
    | split

theorem stagingAbandon_kept {z t : State} (hk : Kept z t) (n : Nat) : Kept z (State.stagingAbandon t n) := by
  unfold State.stagingAbandon
  repeat' with_reducible first
    | exact hk | assumption | apply Kept.ite | apply setArrBit_kept | split

theorem setGroupData_kept {z t : State} (hk : Kept z t) (c : Nat) (addr : Nat) (d : Word) : Kept z (State.setGroupData t c addr d) := by
  unfold State.setGroupData
  dsimp only
  repeat' with_reducible first
    | exact hk | assumption | apply Kept.ite | apply setReg_kept | apply modLedgerEntry_kept | apply count_kept
    | apply modObtEntry_kept | (fail_if_no_progress refine Kept.lit ?_ rfl) | split | (apply Kept.snd; assumption)

theorem rawReadGroup_kept {z t : State} (hk : Kept z t) (c : Nat) (addr : Nat) : Kept z (State.rawReadGroup t c addr) := by
  unfold State.rawReadGroup
  dsimp only
  repeat' with_reducible first
    | exact hk | assumption | apply setReg_kept | apply nextFresh_kept | (fail_if_no_progress refine Kept.lit ?_ rfl)
    | split | (apply Kept.snd; assumption)

theorem rawWriteGroup_kept {z t : State} (hk : Kept z t) (c : Nat) (addr : Nat) (d : Word) (k : BitVec 20) : Kept z (State.rawWriteGroup t c addr d k) := by
  unfold State.rawWriteGroup
  dsimp only
  repeat' with_reducible first
    | exact hk | assumption | apply Kept.ite | apply dropWriteBack_kept | apply setGroupData_kept
    | (fail_if_no_progress refine Kept.lit ?_ rfl) | split

theorem rawReadWord_kept {z t : State} (hk : Kept z t) (addr : Nat) : Kept z (State.rawReadWord t addr) := by
  unfold State.rawReadWord
  dsimp only
  repeat' with_reducible first
    | exact hk | assumption | intro _ | apply Kept.foldl | apply Kept.foldl2 | apply setReg_kept
    | (fail_if_no_progress refine Kept.lit ?_ rfl) | split | (apply Kept.snd; assumption)

theorem rawWriteWord_kept {z t : State} (hk : Kept z t) (addr : Nat) : Kept z (State.rawWriteWord t addr) := by
  unfold State.rawWriteWord
  dsimp only
  repeat' with_reducible first
    | exact hk | assumption | intro _ | apply Kept.ite | apply Kept.foldl | apply dropWriteBack_kept
    | apply setFword_kept | apply setSpare_kept | split

theorem rawRead_kept {z t : State} (hk : Kept z t) : Kept z (State.rawRead t) := by
  unfold State.rawRead
  dsimp only
  repeat' with_reducible first
    | exact hk | assumption | apply Kept.ite | apply memReqError_kept | apply rawReadWord_kept
    | apply rawReadGroup_kept | split

theorem rawWrite_kept {z t : State} (hk : Kept z t) : Kept z (State.rawWrite t) := by
  unfold State.rawWrite
  dsimp only
  repeat' with_reducible first
    | exact hk | assumption | apply Kept.ite | apply memReqError_kept | apply rawWriteWord_kept
    | apply rawWriteGroup_kept | split

theorem writeBack_kept {z t : State} (hk : Kept z t) (c : Nat) (addr : Nat) : Kept z (State.writeBack t c addr) := by
  unfold State.writeBack
  dsimp only
  repeat' with_reducible first
    | exact hk | assumption | apply Kept.ite | apply Kept.ite2 | apply setFword_kept | apply setSpare_kept
    | (fail_if_no_progress refine Kept.lit ?_ rfl) | split | (apply Kept.snd; assumption)

theorem clearLog_kept {z t : State} (hk : Kept z t) (c : Nat) : Kept z (State.clearLog t c) := by
  unfold State.clearLog
  dsimp only
  repeat' with_reducible first
    | exact hk | assumption | intro _ | apply Kept.ite | apply Kept.foldl | apply memReqError_kept | apply setReg_kept
    | apply setFld_kept | split

theorem execLogClear_kept {z t : State} (hk : Kept z t) (cls : Nat) : KeptX z (execLogClear cls t) := by
  unfold execLogClear
  repeat' with_reducible first
    | exact hk | assumption | apply Kept.ite | apply holdRequest_kept | apply clearLog_kept | apply KeptX.next | split

theorem execMemStgInit_kept {z t : State} (hk : Kept z t) (ch : Nat) : KeptX z (execMemStgInit ch t) := by
  unfold execMemStgInit
  repeat' with_reducible first
    | exact hk | assumption | apply Kept.ite | apply holdRequest_kept | apply stagingStart_kept | apply KeptX.next
    | split

theorem execMemBist_kept {z t : State} (hk : Kept z t) (ch : Nat) : KeptX z (execMemBist ch t) := by
  unfold execMemBist
  repeat' with_reducible first
    | exact hk | assumption | apply Kept.ite | apply holdRequest_kept | apply stagingStart_kept | apply KeptX.next
    | split

theorem execRawRead_kept {z t : State} (hk : Kept z t) : KeptX z (execRawRead t) := by
  unfold execRawRead
  repeat' with_reducible first
    | exact hk | assumption | apply Kept.ite | apply holdRequest_kept | apply rawRead_kept | apply KeptX.next | split

end Sys2Proof.Machine
end

