-- ==== Sys2Proof/Laws/Keeps/Staging.lean ====
section
/-! SUPPORT. What the operations of `Machine/Staging.lean` keep. -/

namespace Sys2Proof.Machine
open Sys2Proof

theorem takeFrame_kept {z t : State} (hk : Kept z t) (f : Nat) (owner : Option Nat) : Kept z (State.takeFrame t f owner) := by
  unfold State.takeFrame
  repeat' with_reducible first
    | exact hk | assumption | apply modFrame_kept | (fail_if_no_progress refine Kept.lit ?_ rfl)

theorem giveRebuild_kept {z t : State} (hk : Kept z t) (t' : Nat) (f : Nat) : Kept z (State.giveRebuild t t' f) := by
  unfold State.giveRebuild
  repeat' with_reducible first
    | exact hk | assumption | apply takeFrame_kept | apply modTag_kept | (fail_if_no_progress refine Kept.lit ?_ rfl)

theorem grantFramesN_kept {z t : State} (hk : Kept z t) (fuel : Nat) (n : Nat) : Kept z (State.grantFramesN t fuel n) := by
  induction fuel generalizing t n with
  | zero => unfold State.grantFramesN; first | exact hk | exact KeptO.none
  | succ k ih =>
    unfold State.grantFramesN
    try dsimp only
    repeat' with_reducible first
      | exact hk | assumption | apply Kept.ite | apply giveRebuild_kept | apply takeFrame_kept | apply modWork_kept
      | apply modTag_kept | apply ih | (fail_if_no_progress refine Kept.lit ?_ rfl) | split
      | (apply Kept.snd; assumption)

theorem grantFrames_kept {z t : State} (hk : Kept z t) (n : Nat) : Kept z (State.grantFrames t n) := by
  unfold State.grantFrames
  repeat' with_reducible first
    | exact hk | assumption | apply grantFramesN_kept

theorem freeNow_kept {z t : State} (hk : Kept z t) (f : Nat) : Kept z (State.freeNow t f) := by
  unfold State.freeNow
  dsimp only
  repeat' with_reducible first
    | exact hk | assumption | apply Kept.ite | apply modFrame_kept | apply raise_kept | apply grantFrames_kept
    | (fail_if_no_progress refine Kept.lit ?_ rfl) | split

theorem freeFrame_kept {z t : State} (hk : Kept z t) (f : Nat) : Kept z (State.freeFrame t f) := by
  unfold State.freeFrame
  repeat' with_reducible first
    | exact hk | assumption | apply Kept.ite | apply modFrame_kept | apply freeNow_kept
    | (fail_if_no_progress refine Kept.lit ?_ rfl) | split

theorem forwardEnded_kept {z t : State} (hk : Kept z t) (f : Nat) : Kept z (State.forwardEnded t f) := by
  unfold State.forwardEnded
  repeat' with_reducible first
    | exact hk | assumption | apply Kept.ite | apply freeNow_kept | split

theorem holdFrame_kept {z t : State} (hk : Kept z t) (f : Nat) : Kept z (State.holdFrame t f) := by
  unfold State.holdFrame
  repeat' with_reducible first
    | exact hk | assumption | apply modFrame_kept | (fail_if_no_progress refine Kept.lit ?_ rfl)

theorem bindFrame_kept {z t : State} (hk : Kept z t) (f : Nat) (a : Addr) (stamp : Nat) : Kept z (State.bindFrame t f a stamp) := by
  unfold State.bindFrame
  dsimp only
  repeat' with_reducible first
    | exact hk | assumption | apply modFrame_kept | (fail_if_no_progress refine Kept.lit ?_ rfl)

theorem unbind_kept {z t : State} (hk : Kept z t) (f : Nat) : Kept z (State.unbind t f) := by
  unfold State.unbind
  repeat' with_reducible first
    | exact hk | assumption | apply modFrame_kept | (fail_if_no_progress refine Kept.lit ?_ rfl)

theorem framePoolWrite_kept {z t : State} (hk : Kept z t) (n : Nat) (v : Word) : Kept z (State.framePoolWrite t n v) := by
  unfold State.framePoolWrite
  dsimp only
  repeat' with_reducible first
    | exact hk | assumption | intro _ | apply Kept.ite | apply Kept.foldl | apply setFld_kept | apply modFrame_kept
    | apply grantFrames_kept | (fail_if_no_progress refine Kept.lit ?_ rfl) | split

theorem retireFrame_kept {z t : State} (hk : Kept z t) (f : Nat) : Kept z (State.retireFrame t f) := by
  unfold State.retireFrame
  repeat' with_reducible first
    | exact hk | assumption | apply Kept.ite | apply modFrame_kept | apply memReqError_kept
    | (fail_if_no_progress refine Kept.lit ?_ rfl) | split | (apply Kept.snd; assumption)

theorem execFramePoolWrite_kept {z t : State} (hk : Kept z t) (ch : Nat) (val : Word) : KeptX z (execFramePoolWrite ch val t) := by
  unfold execFramePoolWrite
  repeat' with_reducible first
    | exact hk | assumption | apply Kept.ite | apply holdRequest_kept | apply framePoolWrite_kept | apply KeptX.next
    | split

theorem execFrameRetire_kept {z t : State} (hk : Kept z t) (frame : Nat) : KeptX z (execFrameRetire frame t) := by
  unfold execFrameRetire
  repeat' with_reducible first
    | exact hk | assumption | apply Kept.ite | apply holdRequest_kept | apply setFld_kept | apply retireFrame_kept
    | apply KeptX.next | split

theorem execMsgPop_kept {z t : State} (hk : Kept z t) (ch : Nat) : KeptX z (execMsgPop ch t) := by
  unfold execMsgPop
  repeat' with_reducible first
    | exact hk | assumption | apply Kept.ite | apply holdRequest_kept | apply modChan_kept | apply KeptX.next | split

theorem execMsgDrop_kept {z t : State} (hk : Kept z t) (ch : Nat) : KeptX z (execMsgDrop ch t) := by
  unfold execMsgDrop
  repeat' with_reducible first
    | exact hk | assumption | apply Kept.ite | apply holdRequest_kept | apply modChan_kept | apply KeptX.next | split

end Sys2Proof.Machine
end

