-- ==== Sys2Proof/Laws/Keeps/HostPort.lean ====
section
/-! SUPPORT. What the operations of `Machine/HostPort.lean` keep. -/

namespace Sys2Proof.Machine
open Sys2Proof

theorem setCfg_kept {z t : State} (hk : Kept z t) (off : Nat) (w : Word) : Kept z (State.setCfg t off w) := by
  unfold State.setCfg
  repeat' with_reducible first
    | exact hk | assumption | (fail_if_no_progress refine Kept.lit ?_ rfl)

theorem orCfg_kept {z t : State} (hk : Kept z t) (off : Nat) (w : Word) : Kept z (State.orCfg t off w) := by
  unfold State.orCfg
  repeat' with_reducible first
    | exact hk | assumption | apply setCfg_kept

theorem send_kept {z t : State} (hk : Kept z t) (t' : Tlp) : Kept z (State.send t t') := by
  unfold State.send
  repeat' with_reducible first
    | exact hk | assumption | apply Kept.ite | (fail_if_no_progress refine Kept.lit ?_ rfl) | split

theorem sendPosted_kept {z t : State} (hk : Kept z t) (pair : Nat) (addr : Addr) (data : List Byte) (poison : Bool) : Kept z (State.sendPosted t pair addr data poison) := by
  unfold State.sendPosted
  dsimp only
  repeat' with_reducible first
    | exact hk | assumption | apply Kept.ite | apply orCfg_kept | apply send_kept | split

theorem sendWrite_kept {z t : State} (hk : Kept z t) (pair : Nat) (addr : Addr) (data : List Byte) (marks : List Bool) : Kept z (State.sendWrite t pair addr data marks) := by
  unfold State.sendWrite
  dsimp only
  repeat' with_reducible first
    | exact hk | assumption | intro _ | apply Kept.foldl | apply Kept.foldl2 | apply sendPosted_kept

theorem sendRead_kept {z t : State} (hk : Kept z t) (requester : BitVec 16) (tag : Nat) (addr : Nat) (data : List Byte) (marks : List Bool) : Kept z (State.sendRead t requester tag addr data marks) := by
  unfold State.sendRead
  dsimp only
  repeat' with_reducible first
    | exact hk | assumption | intro _ | apply Kept.foldl | apply Kept.foldl2 | apply send_kept
    | (fail_if_no_progress refine Kept.lit ?_ rfl) | split | (apply Kept.snd; assumption)

theorem issueRead_kept {z t : State} (hk : Kept z t) (pair : Nat) (user : ReqUser) (addr : Addr) (len : Nat) : Kept z (State.issueRead t pair user addr len) := by
  unfold State.issueRead
  dsimp only
  repeat' with_reducible first
    | exact hk | assumption | apply send_kept | (fail_if_no_progress refine Kept.lit ?_ rfl) | split
    | (apply Kept.snd; assumption)

theorem errMsg_kept {z t : State} (hk : Kept z t) (ur : Bool) (m : ErrMsg) : Kept z (State.errMsg t ur m) := by
  unfold State.errMsg
  dsimp only
  repeat' with_reducible first
    | exact hk | assumption | apply Kept.ite | apply send_kept | apply orCfg_kept
    | (fail_if_no_progress refine Kept.lit ?_ rfl) | split | (apply Kept.snd; assumption)

theorem aerCor_kept {z t : State} (hk : Kept z t) (b : Nat) : Kept z (State.aerCor t b) := by
  unfold State.aerCor
  dsimp only
  repeat' with_reducible first
    | exact hk | assumption | apply Kept.ite | apply orCfg_kept | apply errMsg_kept | split

theorem logHeader_kept {z t : State} (hk : Kept z t) : Kept z (State.logHeader t) := by
  unfold State.logHeader
  dsimp only
  repeat' with_reducible first
    | exact hk | assumption | intro _ | apply Kept.foldl | apply Kept.foldl2 | apply nextFresh_kept
    | apply setCfg_kept

theorem aerUncor_kept {z t : State} (hk : Kept z t) (b : Nat) (advisory : Bool) (header : Bool) : Kept z (State.aerUncor t b advisory header) := by
  unfold State.aerUncor
  dsimp only
  repeat' with_reducible first
    | exact hk | assumption | apply Kept.ite | apply orCfg_kept | apply setCfg_kept | apply logHeader_kept
    | apply errMsg_kept | split

theorem violate_kept {z t : State} (hk : Kept z t) (kind : Nat) (bar : Nat) (off : Nat) (len : Nat) (write : Bool) (mgmt : Bool) (requester : BitVec 16) : Kept z (State.violate t kind bar off len write mgmt requester) := by
  unfold State.violate
  dsimp only
  repeat' with_reducible first
    | exact hk | assumption | apply Kept.ite | apply setReg_kept | apply addFld_kept | apply setFld_kept | split

theorem sendMsix_kept {z t : State} (hk : Kept z t) (pair : Nat) (v : Nat) : Kept z (State.sendMsix t pair v) := by
  unfold State.sendMsix
  dsimp only
  repeat' with_reducible first
    | exact hk | assumption | apply send_kept

theorem carry1_kept {z t : State} (hk : Kept z t) (v : Nat) (pair : Nat) : Kept z (State.carry1 t v pair) := by
  unfold State.carry1
  repeat' with_reducible first
    | exact hk | assumption | (fail_if_no_progress refine Kept.lit ?_ rfl)

theorem msixNow_kept {z t : State} (hk : Kept z t) (v : Nat) (pair : Nat) : Kept z (State.msixNow t v pair) := by
  unfold State.msixNow
  repeat' with_reducible first
    | exact hk | assumption | apply Kept.ite | apply sendMsix_kept | (fail_if_no_progress refine Kept.lit ?_ rfl)
    | split

theorem msixDue_kept {z t : State} (hk : Kept z t) (v : Nat) : Kept z (State.msixDue t v) := by
  unfold State.msixDue
  dsimp only
  repeat' with_reducible first
    | exact hk | assumption | intro _ | apply Kept.ite | apply Kept.foldl | apply msixNow_kept | apply issueRead_kept
    | (fail_if_no_progress refine Kept.lit ?_ rfl) | split

theorem flushEnded_kept {z t : State} (hk : Kept z t) (v : Nat) : Kept z (State.flushEnded t v) := by
  unfold State.flushEnded
  dsimp only
  repeat' with_reducible first
    | exact hk | assumption | apply Kept.ite | apply carry1_kept | apply msixNow_kept
    | (fail_if_no_progress refine Kept.lit ?_ rfl) | split | (apply Kept.snd; assumption)

theorem askMsix_kept {z t : State} (hk : Kept z t) (v : Nat) : Kept z (State.askMsix t v) := by
  unfold State.askMsix
  repeat' with_reducible first
    | exact hk | assumption | apply Kept.ite | (fail_if_no_progress refine Kept.lit ?_ rfl) | split

theorem msixFree_kept {z t : State} (hk : Kept z t) (v : Nat) : Kept z (State.msixFree t v) := by
  unfold State.msixFree
  dsimp only
  repeat' with_reducible first
    | exact hk | assumption | apply Kept.ite | apply askMsix_kept | apply sendMsix_kept
    | (fail_if_no_progress refine Kept.lit ?_ rfl) | split

theorem msixRelease_kept {z t : State} (hk : Kept z t) : Kept z (State.msixRelease t) := by
  unfold State.msixRelease
  repeat' with_reducible first
    | exact hk | assumption | intro _ | apply Kept.ite | apply Kept.foldl | apply msixFree_kept | split

end Sys2Proof.Machine
end

