-- ==== Sys2Proof/Laws/Keeps/Levels.lean ====
section
/-! SUPPORT. What the operations of `Machine/Levels.lean` keep. -/

namespace Sys2Proof.Machine
open Sys2Proof

theorem deltas_kept {z t : State} (hk : Kept z t) (x : Nat) (k : Nat) : Kept z (State.deltas t x k).2 := by
  unfold State.deltas
  dsimp only
  repeat' with_reducible first
    | exact hk | assumption | apply Kept.ite | apply Kept.ite2 | apply useEntry_kept | split

theorem rltSweep_kept {z t : State} (hk : Kept z t) (set : Nat) : Kept z (State.rltSweep t set) := by
  unfold State.rltSweep
  dsimp only
  repeat' with_reducible first
    | exact hk | assumption | intro _ | apply Kept.ite | apply Kept.ite2 | apply Kept.foldl | apply Kept.foldl2
    | apply useEntry_kept | apply setRltEntry_kept | apply freshEntry_kept | split

theorem lookupBase_kept {z t : State} (hk : Kept z t) (a : Addr) (pt : Nat) : Kept z (State.lookupBase t a pt).2 := by
  unfold State.lookupBase
  dsimp only
  repeat' with_reducible first
    | exact hk | assumption | apply Kept.ite | apply Kept.ite2 | apply rltSweep_kept | apply count_kept
    | exact KeptP.none | apply KeptP.some | apply KeptP.map | (fail_if_no_progress refine Kept.lit ?_ rfl) | split
    | (apply Kept.snd; assumption) | (apply KeptP.get; assumption)

theorem attemptOffsets_kept {z t : State} (hk : Kept z t) (x : Nat) (base : List (BitVec 8)) (cold : Bool) (c : Nat) (n : Nat) (k : Nat) : Kept z (State.attemptOffsets t x base cold c n k).2 := by
  unfold State.attemptOffsets
  dsimp only
  repeat' with_reducible first
    | exact hk | assumption | apply Kept.ite | apply Kept.ite2 | apply deltas_kept | split

theorem writeLevels_kept {z t : State} (hk : Kept z t) (a : Addr) (pt : Nat) (offs : List (BitVec 8)) (train : Bool) : Kept z (State.writeLevels t a pt offs train) := by
  unfold State.writeLevels
  dsimp only
  repeat' with_reducible first
    | exact hk | assumption | apply Kept.ite | apply rltSweep_kept | apply count_kept | apply modRltEntry_kept
    | apply setRltEntry_kept | apply raise_kept | (fail_if_no_progress refine Kept.lit ?_ rfl) | split
    | (apply Kept.snd; assumption)

theorem markWeak_kept {z t : State} (hk : Kept z t) (a : Addr) (pt : Nat) : Kept z (State.markWeak t a pt) := by
  unfold State.markWeak
  dsimp only
  repeat' with_reducible first
    | exact hk | assumption | apply rltSweep_kept | apply modRltEntry_kept
    | (fail_if_no_progress refine Kept.lit ?_ rfl) | split | (apply Kept.snd; assumption)

theorem setRltView_kept {z t : State} (hk : Kept z t) (e : RltEntry) : Kept z (State.setRltView t e) := by
  unfold State.setRltView
  dsimp only
  repeat' with_reducible first
    | exact hk | assumption | intro _ | apply Kept.foldl | apply setReg_kept

theorem rltResult_kept {z t : State} (hk : Kept z t) (r : Nat) : Kept z (State.rltResult t r) := by
  unfold State.rltResult
  repeat' with_reducible first
    | exact hk | assumption | apply setFld_kept

theorem rltIndex_kept {z t : State} (hk : Kept z t) (i : Nat) : Kept z (State.rltIndex t i) := by
  unfold State.rltIndex
  repeat' with_reducible first
    | exact hk | assumption | apply setFld_kept

theorem rltStore_kept {z t : State} (hk : Kept z t) (i : Nat) : Kept z (State.rltStore t i) := by
  unfold State.rltStore
  repeat' with_reducible first
    | exact hk | assumption | apply setRltEntry_kept | apply freshEntry_kept

theorem rltOpRead_kept {z t : State} (hk : Kept z t) (i : Nat) : Kept z (State.rltOpRead t i) := by
  unfold State.rltOpRead
  dsimp only
  repeat' with_reducible first
    | exact hk | assumption | apply rltSweep_kept | apply setRltView_kept | apply rltIndex_kept | apply rltResult_kept

theorem rltOpWrite_kept {z t : State} (hk : Kept z t) (i : Nat) : Kept z (State.rltOpWrite t i) := by
  unfold State.rltOpWrite
  dsimp only
  repeat' with_reducible first
    | exact hk | assumption | apply Kept.ite | apply rltIndex_kept | apply rltResult_kept | apply rltStore_kept
    | (fail_if_no_progress refine Kept.lit ?_ rfl) | split | (apply Kept.snd; assumption)

theorem rltOpLookup_kept {z t : State} (hk : Kept z t) : Kept z (State.rltOpLookup t) := by
  unfold State.rltOpLookup
  dsimp only
  repeat' with_reducible first
    | exact hk | assumption | apply rltSweep_kept | apply rltIndex_kept | apply setRltView_kept | apply rltResult_kept
    | (fail_if_no_progress refine Kept.lit ?_ rfl) | split | (apply Kept.snd; assumption)

theorem rltOpInsert_kept {z t : State} (hk : Kept z t) : Kept z (State.rltOpInsert t) := by
  unfold State.rltOpInsert
  dsimp only
  repeat' with_reducible first
    | exact hk | assumption | apply rltSweep_kept | apply rltStore_kept | apply rltIndex_kept | apply rltResult_kept
    | (fail_if_no_progress refine Kept.lit ?_ rfl) | split | (apply Kept.snd; assumption)

theorem rltDrop_kept {z t : State} (hk : Kept z t) (p : RltEntry → Bool) : Kept z (State.rltDrop t p) := by
  unfold State.rltDrop
  repeat' with_reducible first
    | exact hk | assumption | (fail_if_no_progress refine Kept.lit ?_ rfl)

theorem rltCfg_kept {z t : State} (hk : Kept z t) (v : Word) : Kept z (State.rltCfg t v) := by
  unfold State.rltCfg
  dsimp only
  repeat' with_reducible first
    | exact hk | assumption | apply Kept.ite | apply setReg_kept | (fail_if_no_progress refine Kept.lit ?_ rfl)
    | split

theorem advise_kept {z t : State} (hk : Kept z t) (k : Nat) : Kept z (State.advise t k) := by
  unfold State.advise
  dsimp only
  repeat' with_reducible first
    | exact hk | assumption | apply Kept.ite | apply count_kept | apply setLedgerEntry_kept | apply freshEntry_kept
    | apply raise_kept | apply addFld_kept | (fail_if_no_progress refine Kept.lit ?_ rfl) | split

theorem ledgerSweep_kept {z t : State} (hk : Kept z t) (n : Nat) : Kept z (State.ledgerSweep t n) := by
  unfold State.ledgerSweep
  dsimp only
  repeat' with_reducible first
    | exact hk | assumption | intro _ | apply Kept.ite | apply Kept.ite2 | apply Kept.foldl | apply Kept.foldl2
    | apply useGroup_kept | apply freshEntry_kept | apply setLedgerEntry_kept | apply modLedgerEntry_kept
    | apply count_kept | apply advise_kept | (fail_if_no_progress refine Kept.lit ?_ rfl) | split

theorem ledgerRead_kept {z t : State} (hk : Kept z t) (a : Addr) : Kept z (State.ledgerRead t a) := by
  unfold State.ledgerRead
  dsimp only
  repeat' with_reducible first
    | exact hk | assumption | apply ledgerSweep_kept | apply count_kept | apply modLedgerEntry_kept
    | apply advise_kept | apply setLedgerEntry_kept | (fail_if_no_progress refine Kept.lit ?_ rfl) | split
    | (apply Kept.snd; assumption)

theorem ledgerErase_kept {z t : State} (hk : Kept z t) (a : Addr) : Kept z (State.ledgerErase t a) := by
  unfold State.ledgerErase
  repeat' with_reducible first
    | exact hk | assumption | apply setLedgerEntry_kept | (fail_if_no_progress refine Kept.lit ?_ rfl) | split
    | (apply Kept.snd; assumption)

theorem obtMeet_kept {z t : State} (hk : Kept z t) (lun : Nat) : Kept z (State.obtMeet t lun) := by
  unfold State.obtMeet
  dsimp only
  repeat' with_reducible first
    | exact hk | assumption | intro _ | apply Kept.foldl | apply Kept.foldl2 | apply useGroup_kept
    | (fail_if_no_progress refine Kept.lit ?_ rfl)

theorem obtAdvanceAt_kept {z t : State} (hk : Kept z t) (a : Addr) (keep : List Nat) (stamp : Nat) : Kept z (State.obtAdvanceAt t a keep stamp) := by
  unfold State.obtAdvanceAt
  dsimp only
  repeat' with_reducible first
    | exact hk | assumption | apply Kept.ite | apply setObtEntry_kept | apply attn_kept
    | (fail_if_no_progress refine Kept.lit ?_ rfl) | split | (apply Kept.snd; assumption)

theorem obtAdvance_kept {z t : State} (hk : Kept z t) (a : Addr) : Kept z (State.obtAdvance t a) := by
  unfold State.obtAdvance
  repeat' with_reducible first
    | exact hk | assumption | apply tick_kept | apply obtAdvanceAt_kept

theorem obtFree_kept {z t : State} (hk : Kept z t) (a : Addr) : Kept z (State.obtFree t a) := by
  unfold State.obtFree
  repeat' with_reducible first
    | exact hk | assumption | apply setObtEntry_kept | (fail_if_no_progress refine Kept.lit ?_ rfl) | split
    | (apply Kept.snd; assumption)

theorem logOrder_kept {z t : State} (hk : Kept z t) (a : Addr) (q : Nat) (cid : BitVec 16) (pointer : Nat) : Kept z (State.logOrder t a q cid pointer) := by
  unfold State.logOrder
  dsimp only
  repeat' with_reducible first
    | exact hk | assumption | apply setReg_kept | apply addFld_kept | apply setFld_kept | apply attn_kept

theorem obtLoWrite_kept {z t : State} (hk : Kept z t) (k : Nat) (v : Word) : Kept z (State.obtLoWrite t k v) := by
  unfold State.obtLoWrite
  repeat' with_reducible first
    | exact hk | assumption | apply Kept.ite | (fail_if_no_progress refine Kept.lit ?_ rfl) | split

theorem obtHiWrite_kept {z t : State} (hk : Kept z t) (k : Nat) (v : Word) : Kept z (State.obtHiWrite t k v) := by
  unfold State.obtHiWrite
  dsimp only
  repeat' with_reducible first
    | exact hk | assumption | apply Kept.ite | apply Kept.ite2 | apply tick_kept | apply setObtEntry_kept
    | apply freshEntry_kept | (fail_if_no_progress refine Kept.lit ?_ rfl) | split

theorem ledgerHiWrite_kept {z t : State} (hk : Kept z t) (k : Nat) (v : Word) : Kept z (State.ledgerHiWrite t k v) := by
  unfold State.ledgerHiWrite
  dsimp only
  repeat' with_reducible first
    | exact hk | assumption | apply setLedgerEntry_kept | apply freshEntry_kept
    | (fail_if_no_progress refine Kept.lit ?_ rfl)

theorem execRltRead_kept {z t : State} (hk : Kept z t) (index : Nat) : KeptX z (execRltRead index t) := by
  unfold execRltRead
  repeat' with_reducible first
    | exact hk | assumption | apply Kept.ite | apply holdRequest_kept | apply rltOpRead_kept | apply KeptX.next
    | split

theorem execRltWrite_kept {z t : State} (hk : Kept z t) (index : Nat) : KeptX z (execRltWrite index t) := by
  unfold execRltWrite
  repeat' with_reducible first
    | exact hk | assumption | apply Kept.ite | apply holdRequest_kept | apply rltOpWrite_kept | apply KeptX.next
    | split

theorem execRltLookup_kept {z t : State} (hk : Kept z t) : KeptX z (execRltLookup t) := by
  unfold execRltLookup
  repeat' with_reducible first
    | exact hk | assumption | apply Kept.ite | apply holdRequest_kept | apply rltOpLookup_kept | apply KeptX.next
    | split

theorem execRltInsert_kept {z t : State} (hk : Kept z t) : KeptX z (execRltInsert t) := by
  unfold execRltInsert
  repeat' with_reducible first
    | exact hk | assumption | apply Kept.ite | apply holdRequest_kept | apply rltOpInsert_kept | apply KeptX.next
    | split

theorem execRltClearUnpinned_kept {z t : State} (hk : Kept z t) : KeptX z (execRltClearUnpinned t) := by
  unfold execRltClearUnpinned
  repeat' with_reducible first
    | exact hk | assumption | apply Kept.ite | apply holdRequest_kept | apply rltDrop_kept | apply rltResult_kept
    | apply KeptX.next | split

theorem execRltClearAll_kept {z t : State} (hk : Kept z t) : KeptX z (execRltClearAll t) := by
  unfold execRltClearAll
  repeat' with_reducible first
    | exact hk | assumption | apply Kept.ite | apply holdRequest_kept | apply rltResult_kept | apply KeptX.next
    | (fail_if_no_progress refine Kept.lit ?_ rfl) | split

theorem execRltCfgWrite_kept {z t : State} (hk : Kept z t) (val : Word) : KeptX z (execRltCfgWrite val t) := by
  unfold execRltCfgWrite
  repeat' with_reducible first
    | exact hk | assumption | apply Kept.ite | apply holdRequest_kept | apply rltCfg_kept | apply KeptX.next | split

theorem execLedgerHiWrite_kept {z t : State} (hk : Kept z t) (k : Nat) (val : Word) : KeptX z (execLedgerHiWrite k val t) := by
  unfold execLedgerHiWrite
  repeat' with_reducible first
    | exact hk | assumption | apply Kept.ite | apply holdRequest_kept | apply ledgerHiWrite_kept | apply KeptX.next
    | split

theorem execAdvPop_kept {z t : State} (hk : Kept z t) : KeptX z (execAdvPop t) := by
  unfold execAdvPop
  repeat' with_reducible first
    | exact hk | assumption | apply Kept.ite | apply holdRequest_kept | apply popAdvisory_kept | apply KeptX.next
    | split

theorem execObtHiWrite_kept {z t : State} (hk : Kept z t) (k : Nat) (val : Word) : KeptX z (execObtHiWrite k val t) := by
  unfold execObtHiWrite
  repeat' with_reducible first
    | exact hk | assumption | apply Kept.ite | apply holdRequest_kept | apply obtHiWrite_kept | apply KeptX.next
    | split

end Sys2Proof.Machine
end

