-- ==== Sys2Proof/Laws/Keeps/Governor.lean ====
section
/-! SUPPORT. What the operations of `Machine/Governor.lean` keep. -/

namespace Sys2Proof.Machine
open Sys2Proof

theorem unwait_kept {z t : State} (hk : Kept z t) (r : PeReq) : Kept z (State.unwait t r) := by
  unfold State.unwait
  dsimp only
  repeat' with_reducible first
    | exact hk | assumption | (fail_if_no_progress refine Kept.lit ?_ rfl)

theorem withdraw_kept {z t : State} (hk : Kept z t) (id : Nat) : Kept z (State.withdraw t id) := by
  unfold State.withdraw
  repeat' with_reducible first
    | exact hk | assumption | intro _ | apply Kept.foldl | apply unwait_kept

theorem releaseGrants_kept {z t : State} (hk : Kept z t) (p : PeGrant → Bool) : Kept z (State.releaseGrants t p) := by
  unfold State.releaseGrants
  repeat' with_reducible first
    | exact hk | assumption | (fail_if_no_progress refine Kept.lit ?_ rfl)

theorem releaseOp_kept {z t : State} (hk : Kept z t) (key : Nat) (works : List Nat) : Kept z (State.releaseOp t key works) := by
  unfold State.releaseOp
  repeat' with_reducible first
    | exact hk | assumption | apply releaseGrants_kept

theorem grantsAtDie_kept {z t : State} (hk : Kept z t) (key : Nat) (works : List Nat) : Kept z (State.grantsAtDie t key works) := by
  unfold State.grantsAtDie
  repeat' with_reducible first
    | exact hk | assumption | apply Kept.ite | (fail_if_no_progress refine Kept.lit ?_ rfl) | split

theorem releaseUnused_kept {z t : State} (hk : Kept z t) (id : Nat) : Kept z (State.releaseUnused t id) := by
  unfold State.releaseUnused
  repeat' with_reducible first
    | exact hk | assumption | apply releaseGrants_kept

theorem joinGrants_kept {z t : State} (hk : Kept z t) (id : Nat) (go : List Nat) (further : Nat) : Kept z (State.joinGrants t id go further) := by
  unfold State.joinGrants
  dsimp only
  repeat' with_reducible first
    | exact hk | assumption | intro _ | apply Kept.ite | apply Kept.foldl | apply releaseUnused_kept
    | (fail_if_no_progress refine Kept.lit ?_ rfl) | split

theorem askAdmission_kept {z t : State} (hk : Kept z t) (id : Nat) (planes : Nat) (release : Bool) : Kept z (State.askAdmission t id planes release) := by
  unfold State.askAdmission
  dsimp only
  repeat' with_reducible first
    | exact hk | assumption | apply Kept.ite | apply Kept.ite2 | apply tick_kept | apply count_kept
    | (fail_if_no_progress refine Kept.lit ?_ rfl) | split | (apply Kept.snd; assumption)

theorem grant_kept {z t : State} (hk : Kept z t) (r : PeReq) : Kept z (State.grant t r) := by
  unfold State.grant
  dsimp only
  repeat' with_reducible first
    | exact hk | assumption | apply Kept.ite | apply Kept.ite2 | apply unwait_kept | apply tick_kept
    | apply modWork_kept | apply modLun_kept | apply count_kept | (fail_if_no_progress refine Kept.lit ?_ rfl) | split
    | (apply Kept.snd; assumption)

theorem stepBudget_kept {z t : State} (hk : Kept z t) : Kept z (State.stepBudget t) := by
  unfold State.stepBudget
  dsimp only
  repeat' with_reducible first
    | exact hk | assumption | apply Kept.ite | (fail_if_no_progress refine Kept.lit ?_ rfl) | split

theorem capTakeParked_kept {z t : State} (hk : Kept z t) (c : CapPick) : Kept z (State.capTakeParked t c) := by
  unfold State.capTakeParked
  dsimp only
  repeat' with_reducible first
    | exact hk | assumption | intro _ | apply Kept.foldl | apply withdraw_kept | apply releaseUnused_kept
    | apply modWork_kept | apply modLun_kept | apply askAdmission_kept | (fail_if_no_progress refine Kept.lit ?_ rfl)
    | split | (apply Kept.snd; assumption)

theorem capOrder_kept {z t : State} (hk : Kept z t) (key : Nat) : Kept z (State.capOrder t key) := by
  unfold State.capOrder
  dsimp only
  repeat' with_reducible first
    | exact hk | assumption | apply Kept.ite | apply modLun_kept | apply raise_kept | apply count_kept
    | (fail_if_no_progress refine Kept.lit ?_ rfl) | split

theorem capOrderN_kept {z t : State} (hk : Kept z t) (fuel : Nat) (excess : Nat) : Kept z (State.capOrderN t fuel excess) := by
  induction fuel generalizing t excess with
  | zero => unfold State.capOrderN; first | exact hk | exact KeptO.none
  | succ k ih =>
    unfold State.capOrderN
    try dsimp only
    repeat' with_reducible first
      | exact hk | assumption | apply Kept.ite | apply capTakeParked_kept | apply capOrder_kept | apply ih
      | (fail_if_no_progress refine Kept.lit ?_ rfl) | split | (apply Kept.snd; assumption)

theorem capCancel_kept {z t : State} (hk : Kept z t) : Kept z (State.capCancel t) := by
  unfold State.capCancel
  repeat' with_reducible first
    | exact hk | assumption | intro _ | apply Kept.ite | apply Kept.foldl | apply modLun_kept
    | (fail_if_no_progress refine Kept.lit ?_ rfl) | split | (apply Kept.snd; assumption)

theorem capPass_kept {z t : State} (hk : Kept z t) : Kept z (State.capPass t) := by
  unfold State.capPass
  dsimp only
  repeat' with_reducible first
    | exact hk | assumption | apply Kept.ite | apply Kept.ite2 | apply capCancel_kept | apply capOrderN_kept
    | (fail_if_no_progress refine Kept.lit ?_ rfl) | split | (apply Kept.snd; assumption)

theorem fallback_kept {z t : State} (hk : Kept z t) (cause : Nat) : Kept z (State.fallback t cause) := by
  unfold State.fallback
  dsimp only
  repeat' with_reducible first
    | exact hk | assumption | apply raise_kept | apply count_kept | apply capPass_kept
    | (fail_if_no_progress refine Kept.lit ?_ rfl)

theorem tracePe_kept {z t : State} (hk : Kept z t) : Kept z (State.tracePe t) := by
  unfold State.tracePe
  repeat' with_reducible first
    | exact hk | assumption | apply traceRec_kept

theorem peStep_kept {z t : State} (hk : Kept z t) : Kept z (State.peStep t) := by
  unfold State.peStep
  dsimp only
  repeat' with_reducible first
    | exact hk | assumption | apply stepBudget_kept | apply capPass_kept | apply tracePe_kept
    | (fail_if_no_progress refine Kept.lit ?_ rfl)

theorem peEdge_kept {z t : State} (hk : Kept z t) (p : Nat) (sense : Nat) : Kept z (State.peEdge t p sense) := by
  unfold State.peEdge
  dsimp only
  repeat' with_reducible first
    | exact hk | assumption | apply Kept.ite | apply raise_kept | apply fallback_kept | apply peStep_kept
    | (fail_if_no_progress refine Kept.lit ?_ rfl) | split | (apply Kept.snd; assumption)

theorem peResume_kept {z t : State} (hk : Kept z t) (recent : Bool) : Kept z (State.peResume t recent) := by
  unfold State.peResume
  dsimp only
  repeat' with_reducible first
    | exact hk | assumption | apply Kept.ite | apply fallback_kept | apply raise_kept | apply setBit_kept
    | (fail_if_no_progress refine Kept.lit ?_ rfl) | split | (apply Kept.snd; assumption)

theorem execPeResume_kept {z t : State} (hk : Kept z t) (recent : Bool) : KeptX z (execPeResume recent t) := by
  unfold execPeResume
  repeat' with_reducible first
    | exact hk | assumption | apply Kept.ite | apply holdRequest_kept | apply peResume_kept | apply KeptX.next | split

theorem execPeWeightWrite_kept {z t : State} (hk : Kept z t) (cls : Nat) (val : Word) : KeptX z (execPeWeightWrite cls val t) := by
  unfold execPeWeightWrite
  repeat' with_reducible first
    | exact hk | assumption | apply Kept.ite | apply holdRequest_kept | apply setReg_kept | apply KeptX.next | split

end Sys2Proof.Machine
end

