-- ==== Sys2Proof/Laws/Keeps/Askor.lean ====
section
/-! SUPPORT. What the operations of `Machine/Askor.lean` keep. -/

namespace Sys2Proof.Machine
open Sys2Proof

theorem inject_kept {z t : State} (hk : Kept z t) (ch : Nat) (path : Nat) (n : Nat) (w : Nat) : Kept z (State.inject t ch path n w).2 := by
  unfold State.inject
  dsimp only
  repeat' with_reducible first
    | exact hk | assumption | intro _ | apply Kept.ite | apply Kept.ite2 | apply Kept.foldl | apply Kept.foldl2
    | apply addFld_kept | apply setBit_kept | (fail_if_no_progress refine Kept.lit ?_ rfl) | split

theorem injectionWrite_kept {z t : State} (hk : Kept z t) (v : Word) : Kept z (State.injectionWrite t v) := by
  unfold State.injectionWrite
  dsimp only
  repeat' with_reducible first
    | exact hk | assumption | apply Kept.ite | apply setReg_kept | (fail_if_no_progress refine Kept.lit ?_ rfl)
    | split

theorem execInjectionArm_kept {z t : State} (hk : Kept z t) (val : Word) : KeptX z (execInjectionArm val t) := by
  unfold execInjectionArm
  repeat' with_reducible first
    | exact hk | assumption | apply Kept.ite | apply holdRequest_kept | apply injectionWrite_kept | apply KeptX.next
    | split

theorem encodeBytes_kept {z t : State} (hk : Kept z t) (ch : Nat) (x : CodeCfg) (l : Nat) (info : List Byte) : Kept z (State.encodeBytes t ch x l info).2 := by
  unfold State.encodeBytes
  dsimp only
  repeat' with_reducible first
    | exact hk | assumption | apply inject_kept

theorem decodeBytes_kept {z t : State} (hk : Kept z t) (ch : Nat) (x : CodeCfg) (l : Nat) (g : DecodeCfg) (code : List Byte) : Kept z (State.decodeBytes t ch x l g code).2 := by
  unfold State.decodeBytes
  dsimp only
  repeat' with_reducible first
    | exact hk | assumption | apply inject_kept | (fail_if_no_progress refine Kept.lit ?_ rfl) | split
    | (apply Kept.snd; assumption)

end Sys2Proof.Machine
end

