-- ==== Sys2Proof/Laws/Keeps/PageCode.lean ====
section
/-! SUPPORT. What the operations of `Machine/PageCode.lean` keep. -/

namespace Sys2Proof.Machine
open Sys2Proof

theorem codePage_kept {z t : State} (hk : Kept z t) (a : Addr) (size : Nat) (quarter : Bool) (level : Nat) (payload : List Byte) : Kept z (State.codePage t a size quarter level payload).2 := by
  unfold State.codePage
  dsimp only
  repeat' with_reducible first
    | exact hk | assumption | intro _ | apply Kept.foldl | apply Kept.foldl2 | apply encodeBytes_kept

theorem putCodes_kept {z t : State} (hk : Kept z t) (f : Nat) (codes : List (Nat × List Byte)) (poison : Bool) : Kept z (State.putCodes t f codes poison) := by
  unfold State.putCodes
  repeat' with_reducible first
    | exact hk | assumption | intro _ | apply Kept.foldl | apply Kept.foldl2 | apply frameWrite_kept

theorem clearPayload_kept {z t : State} (hk : Kept z t) (f : Nat) (size : Nat) (quarter : Bool) (level : Nat) : Kept z (State.clearPayload t f size quarter level).2 := by
  unfold State.clearPayload
  dsimp only
  repeat' with_reducible first
    | exact hk | assumption | intro _ | apply Kept.foldl | apply Kept.foldl2 | apply frameRead_kept

theorem putPayload_kept {z t : State} (hk : Kept z t) (f : Nat) (size : Nat) (quarter : Bool) (level : Nat) (payload : List Byte) (poison : Bool) : Kept z (State.putPayload t f size quarter level payload poison) := by
  unfold State.putPayload
  repeat' with_reducible first
    | exact hk | assumption | intro _ | apply Kept.foldl | apply Kept.foldl2 | apply frameWrite_kept

theorem setCode_kept {z t : State} (hk : Kept z t) (f : Nat) (a : Addr) (size : Nat) (quarter : Bool) (level : Nat) : Kept z (State.setCode t f a size quarter level) := by
  unfold State.setCode
  repeat' with_reducible first
    | exact hk | assumption | apply modFrame_kept | (fail_if_no_progress refine Kept.lit ?_ rfl)

theorem encodeFrame_kept {z t : State} (hk : Kept z t) (f : Nat) (a : Addr) (size : Nat) (quarter : Bool) (level : Nat) : Kept z (State.encodeFrame t f a size quarter level).2 := by
  unfold State.encodeFrame
  dsimp only
  repeat' with_reducible first
    | exact hk | assumption | apply clearPayload_kept | apply codePage_kept | apply putCodes_kept | apply setCode_kept

theorem stagedPayload_kept {z t : State} (hk : Kept z t) (f : Nat) : Kept z (State.stagedPayload t f).2 := by
  unfold State.stagedPayload
  dsimp only
  repeat' with_reducible first
    | exact hk | assumption | intro _ | apply Kept.foldl | apply Kept.foldl2 | apply frameRead_kept

theorem clearFrame_kept {z t : State} (hk : Kept z t) (f : Nat) : Kept z (State.clearFrame t f) := by
  unfold State.clearFrame
  dsimp only
  repeat' with_reducible first
    | exact hk | assumption | apply Kept.ite | apply Kept.ite2 | apply stagedPayload_kept | apply putPayload_kept
    | apply modFrame_kept | (fail_if_no_progress refine Kept.lit ?_ rfl) | split

theorem countHard_kept {z t : State} (hk : Kept z t) (ch : Nat) (step : Nat) (x : CodeCfg) (level : Nat) (d : Decoded) : Kept z (State.countHard t ch step x level d) := by
  unfold State.countHard
  dsimp only
  repeat' with_reducible first
    | exact hk | assumption | apply Kept.ite | apply count_kept | (fail_if_no_progress refine Kept.lit ?_ rfl) | split
    | (apply Kept.snd; assumption)

theorem traceDecode_kept {z t : State} (hk : Kept z t) (ch : Nat) (tag : Nat) (attempt : Nat) (assists : Nat) (result : Nat) (quarter : Option Nat) (fixed : Nat) : Kept z (State.traceDecode t ch tag attempt assists result quarter fixed) := by
  unfold State.traceDecode
  repeat' with_reducible first
    | exact hk | assumption | apply traceRec_kept

theorem decodeAt_kept {z t : State} (hk : Kept z t) (ch : Nat) (f : Nat) (base : Nat) (x : CodeCfg) (level : Nat) (g : DecodeCfg) (a : Addr) : Kept z (State.decodeAt t ch f base x level g a).2 := by
  unfold State.decodeAt
  dsimp only
  repeat' with_reducible first
    | exact hk | assumption | apply Kept.ite | apply Kept.ite2 | apply frameRead_kept | apply decodeBytes_kept | split

theorem decodeFrame_kept {z t : State} (hk : Kept z t) (f : Nat) (tag : Nat) : Kept z (State.decodeFrame t f tag).2 := by
  unfold State.decodeFrame
  dsimp only
  repeat' with_reducible first
    | exact hk | assumption | intro _ | apply Kept.ite | apply Kept.ite2 | apply Kept.foldl | apply Kept.foldl2
    | apply decodeAt_kept | apply countHard_kept | apply traceDecode_kept | apply count_kept | exact KeptP.none
    | apply KeptP.some | apply KeptP.map | split | (apply KeptP.get; assumption)

theorem rewriteFrame_kept {z t : State} (hk : Kept z t) (f : Nat) (infos : List (List Byte)) (a : Addr) (size : Nat) (quarter : Bool) (level : Nat) : Kept z (State.rewriteFrame t f infos a size quarter level) := by
  unfold State.rewriteFrame
  dsimp only
  repeat' with_reducible first
    | exact hk | assumption | apply modFrame_kept | apply putCodes_kept | apply setCode_kept
    | (fail_if_no_progress refine Kept.lit ?_ rfl) | split | (apply Kept.snd; assumption)

theorem framePage_kept {z t : State} (hk : Kept z t) (f : Nat) (col : Nat) (n : Nat) : Kept z (State.framePage t f col n).2 := by
  unfold State.framePage
  dsimp only
  repeat' with_reducible first
    | exact hk | assumption | apply frameRead_kept | (fail_if_no_progress refine Kept.lit ?_ rfl) | split
    | (apply Kept.snd; assumption)

end Sys2Proof.Machine
end

