-- ==== Sys2Proof/Laws/Keeps/Life.lean ====
section
/-! SUPPORT. What the operations of `Machine/Life.lean` keep. -/

namespace Sys2Proof.Machine
open Sys2Proof

theorem addWork_kept {z t : State} (hk : Kept z t) (w : Work) : Kept z (State.addWork t w).2 := by
  unfold State.addWork
  repeat' with_reducible first
    | exact hk | assumption | (fail_if_no_progress refine Kept.lit ?_ rfl)

theorem fixLevels_kept {z t : State} (hk : Kept z t) (id : Nat) : Kept z (State.fixLevels t id) := by
  unfold State.fixLevels
  dsimp only
  repeat' with_reducible first
    | exact hk | assumption | apply Kept.ite | apply Kept.ite2 | apply lookupBase_kept | apply modWork_kept
    | exact KeptP.none | apply KeptP.some | apply KeptP.map | (fail_if_no_progress refine Kept.lit ?_ rfl) | split
    | (apply Kept.snd; assumption) | (apply KeptP.get; assumption)

theorem tagTo_kept {z t : State} (hk : Kept z t) (t' : Nat) (st : TagState) : Kept z (State.tagTo t t' st) := by
  unfold State.tagTo
  dsimp only
  repeat' with_reducible first
    | exact hk | assumption | apply Kept.ite | apply setTag_kept | apply traceRec_kept
    | (fail_if_no_progress refine Kept.lit ?_ rfl) | split | (apply Kept.snd; assumption)

theorem allocTag_kept {z t : State} (hk : Kept z t) (t' : Nat) (q : Nat) (p : Packet) : Kept z (State.allocTag t t' q p) := by
  unfold State.allocTag
  dsimp only
  repeat' with_reducible first
    | exact hk | assumption | apply freshEntry_kept | apply tick_kept | apply setTag_kept | apply modChan_kept
    | apply tagTo_kept | (fail_if_no_progress refine Kept.lit ?_ rfl)

theorem holdF_kept {z t : State} (hk : Kept z t) (f : Nat) : Kept z (State.holdF t f) := by
  unfold State.holdF
  dsimp only
  repeat' with_reducible first
    | exact hk | assumption | apply Kept.ite | apply holdFrame_kept | apply raise_kept | split

theorem freeF_kept {z t : State} (hk : Kept z t) (f : Nat) : Kept z (State.freeF t f) := by
  unfold State.freeF
  repeat' with_reducible first
    | exact hk | assumption | apply freeFrame_kept

theorem traceCompletion_kept {z t : State} (hk : Kept z t) (q : Nat) (c : Completion) : Kept z (State.traceCompletion t q c) := by
  unfold State.traceCompletion
  dsimp only
  repeat' with_reducible first
    | exact hk | assumption | apply traceRec_kept | (fail_if_no_progress refine Kept.lit ?_ rfl) | split
    | (apply Kept.snd; assumption)

theorem obtSweep_kept {z t : State} (hk : Kept z t) : Kept z (State.obtSweep t) := by
  unfold State.obtSweep
  repeat' with_reducible first
    | exact hk | assumption | intro _ | apply Kept.foldl | apply setObtEntry_kept
    | (fail_if_no_progress refine Kept.lit ?_ rfl)

theorem freeTag_kept {z t : State} (hk : Kept z t) (t' : Nat) : Kept z (State.freeTag t t') := by
  unfold State.freeTag
  dsimp only
  repeat' with_reducible first
    | exact hk | assumption | apply Kept.ite | apply tagTo_kept | apply setTag_kept | apply freeF_kept
    | apply modFrame_kept | apply obtSweep_kept | apply raiseCarry_kept | (fail_if_no_progress refine Kept.lit ?_ rfl)
    | split | (apply Kept.snd; assumption)

theorem settle_kept {z t : State} (hk : Kept z t) (t' : Nat) : Kept z (State.settle t t') := by
  unfold State.settle
  dsimp only
  repeat' with_reducible first
    | exact hk | assumption | apply Kept.ite | apply tagTo_kept | apply freeTag_kept | split

theorem freeSlot_kept {z t : State} (hk : Kept z t) (k : Nat) : Kept z (State.freeSlot t k) := by
  unfold State.freeSlot
  repeat' with_reducible first
    | exact hk | assumption | (fail_if_no_progress refine Kept.lit ?_ rfl)

theorem entryGone_kept {z t : State} (hk : Kept z t) (q : Nat) (c : Completion) : Kept z (State.entryGone t q c) := by
  unfold State.entryGone
  dsimp only
  repeat' with_reducible first
    | exact hk | assumption | apply traceCompletion_kept | apply settle_kept | apply freeSlot_kept
    | (fail_if_no_progress refine Kept.lit ?_ rfl) | split | (apply Kept.snd; assumption)

theorem pushDone_kept {z t : State} (hk : Kept z t) (q : Nat) (c : Completion) : Kept z (State.pushDone t q c) := by
  unfold State.pushDone
  repeat' with_reducible first
    | exact hk | assumption | apply Kept.ite | apply entryGone_kept | apply modQueue_kept
    | (fail_if_no_progress refine Kept.lit ?_ rfl) | split

theorem completeNow_kept {z t : State} (hk : Kept z t) (q : Nat) (cid : BitVec 16) (st : Status) (info : Nat) : Kept z (State.completeNow t q cid st info) := by
  unfold State.completeNow
  repeat' with_reducible first
    | exact hk | assumption | apply pushDone_kept

theorem commitSlot_kept {z t : State} (hk : Kept z t) (k : Nat) (st : Status) (info : Nat) : Kept z (State.commitSlot t k st info) := by
  unfold State.commitSlot
  dsimp only
  repeat' with_reducible first
    | exact hk | assumption | apply Kept.ite | apply setSlot_kept | apply pushDone_kept
    | (fail_if_no_progress refine Kept.lit ?_ rfl) | split

theorem addCarry_kept {z t : State} (hk : Kept z t) (t' : Nat) (st : Status) (info : Word) : Kept z (State.addCarry t t' st info) := by
  unfold State.addCarry
  dsimp only
  repeat' with_reducible first
    | exact hk | assumption | apply Kept.ite | apply shiftEntries_kept | apply setBit_kept | apply freshEntry_kept
    | (fail_if_no_progress refine Kept.lit ?_ rfl) | split

theorem fallBackTag_kept {z t : State} (hk : Kept z t) (t' : Nat) : Kept z (State.fallBackTag t t') := by
  unfold State.fallBackTag
  repeat' with_reducible first
    | exact hk | assumption | apply Kept.ite | apply modTag_kept | (fail_if_no_progress refine Kept.lit ?_ rfl)
    | split

theorem serveForward_kept {z t : State} (hk : Kept z t) (id : Nat) : Kept z (State.serveForward t id) := by
  unfold State.serveForward
  repeat' with_reducible first
    | exact hk | assumption | apply Kept.ite | apply dropWork_kept | apply tagTo_kept | apply modWork_kept
    | (fail_if_no_progress refine Kept.lit ?_ rfl) | split | (apply Kept.snd; assumption)

theorem wakeForwards_kept {z t : State} (hk : Kept z t) (f : Nat) : Kept z (State.wakeForwards t f) := by
  unfold State.wakeForwards
  repeat' with_reducible first
    | exact hk | assumption | intro _ | apply Kept.ite | apply Kept.ite2 | apply Kept.foldl | apply Kept.foldl2
    | apply serveForward_kept | split

theorem fallBack_kept {z t : State} (hk : Kept z t) (f : Nat) : Kept z (State.fallBack t f) := by
  unfold State.fallBack
  dsimp only
  repeat' with_reducible first
    | exact hk | assumption | intro _ | apply Kept.foldl | apply Kept.foldl2 | apply fallBackTag_kept
    | apply modWork_kept | apply fixLevels_kept | apply grantFrames_kept
    | (fail_if_no_progress refine Kept.lit ?_ rfl) | split | (apply Kept.snd; assumption)

theorem commitAcc_kept {z t : State} (hk : Kept z t) (x : Tag) (st : Status) : Kept z (State.commitAcc t x st) := by
  unfold State.commitAcc
  dsimp only
  repeat' with_reducible first
    | exact hk | assumption | apply Kept.ite | apply modAcc_kept | (fail_if_no_progress refine Kept.lit ?_ rfl)
    | split | (apply Kept.snd; assumption)

theorem resolveAbort_kept {z t : State} (hk : Kept z t) (t' : Nat) (st : Status) : Kept z (State.resolveAbort t t' st) := by
  unfold State.resolveAbort
  dsimp only
  repeat' with_reducible first
    | exact hk | assumption | apply Kept.ite | apply modTag_kept | apply commitSlot_kept
    | (fail_if_no_progress refine Kept.lit ?_ rfl) | split | (apply Kept.snd; assumption)

theorem commitTag_kept {z t : State} (hk : Kept z t) (t' : Nat) (st : Status) (info : Word) : Kept z (State.commitTag t t' st info) := by
  unfold State.commitTag
  dsimp only
  repeat' with_reducible first
    | exact hk | assumption | intro _ | apply Kept.ite | apply Kept.foldl | apply commitAcc_kept | apply setTag_kept
    | apply resolveAbort_kept | apply unbind_kept | apply fallBack_kept | apply addCarry_kept | apply pushDone_kept
    | (fail_if_no_progress refine Kept.lit ?_ rfl) | split

theorem endTag0_kept {z t : State} (hk : Kept z t) (t' : Nat) : Kept z (State.endTag0 t t') := by
  unfold State.endTag0
  dsimp only
  repeat' with_reducible first
    | exact hk | assumption | apply Kept.ite | apply modTag_kept | apply forwardEnded_kept | apply settle_kept
    | (fail_if_no_progress refine Kept.lit ?_ rfl) | split | (apply Kept.snd; assumption)

theorem dropDeferred_kept {z t : State} (hk : Kept z t) (f : Nat) : Kept z (State.dropDeferred t f) := by
  unfold State.dropDeferred
  repeat' with_reducible first
    | exact hk | assumption | (fail_if_no_progress refine Kept.lit ?_ rfl)

theorem takeForwards_kept {z t : State} (hk : Kept z t) (f : Nat) (a : Addr) (stamp : Nat) : Kept z (State.takeForwards t f a stamp) := by
  unfold State.takeForwards
  dsimp only
  repeat' with_reducible first
    | exact hk | assumption | intro _ | apply Kept.foldl | apply Kept.foldl2 | apply modTag_kept | apply withdraw_kept
    | apply modWork_kept | apply releaseUnused_kept | apply count_kept | apply freeF_kept | apply serveForward_kept
    | (fail_if_no_progress refine Kept.lit ?_ rfl) | split | (apply Kept.snd; assumption)

theorem releaseOne_kept {z t : State} (hk : Kept z t) (f : Nat) : Kept z (State.releaseOne t f) := by
  unfold State.releaseOne
  dsimp only
  repeat' with_reducible first
    | exact hk | assumption | apply Kept.ite | apply dropDeferred_kept | apply freeF_kept | apply modTag_kept
    | apply commitTag_kept | apply endTag0_kept | apply modFrame_kept | apply rewriteFrame_kept | apply bindFrame_kept
    | apply takeForwards_kept | (fail_if_no_progress refine Kept.lit ?_ rfl) | split | (apply Kept.snd; assumption)

theorem releaseSweep_kept {z t : State} (hk : Kept z t) : Kept z (State.releaseSweep t) := by
  unfold State.releaseSweep
  repeat' with_reducible first
    | exact hk | assumption | intro _ | apply Kept.foldl | apply Kept.foldl2 | apply releaseOne_kept

theorem endTag_kept {z t : State} (hk : Kept z t) (t' : Nat) : Kept z (State.endTag t t') := by
  unfold State.endTag
  repeat' with_reducible first
    | exact hk | assumption | apply endTag0_kept | apply releaseSweep_kept

theorem finish_kept {z t : State} (hk : Kept z t) (t' : Nat) (st : Status) (info : Nat) : Kept z (State.finish t t' st info) := by
  unfold State.finish
  repeat' with_reducible first
    | exact hk | assumption | apply commitTag_kept | apply endTag_kept

theorem addDeferred_kept {z t : State} (hk : Kept z t) (t' : Nat) (f : Nat) (st : Status) (info : Nat) : Kept z (State.addDeferred t t' f st info) := by
  unfold State.addDeferred
  dsimp only
  repeat' with_reducible first
    | exact hk | assumption | apply freshEntry_kept | apply addFld_kept | apply raise_kept
    | (fail_if_no_progress refine Kept.lit ?_ rfl)

theorem programFails_kept {z t : State} (hk : Kept z t) (t' : Nat) (f : Nat) (st : Status) (info : Nat) (hold : Bool) : Kept z (State.programFails t t' f st info hold) := by
  unfold State.programFails
  dsimp only
  repeat' with_reducible first
    | exact hk | assumption | apply Kept.ite | apply addCarry_kept | apply commitTag_kept | apply endTag_kept
    | apply holdF_kept | apply addDeferred_kept | apply finish_kept | split

theorem programSucceeds_kept {z t : State} (hk : Kept z t) (t' : Nat) (st : Status) (info : Nat) : Kept z (State.programSucceeds t t' st info) := by
  unfold State.programSucceeds
  dsimp only
  repeat' with_reducible first
    | exact hk | assumption | apply Kept.ite | apply addCarry_kept | apply endTag_kept | apply finish_kept | split

theorem traceMsg_kept {z t : State} (hk : Kept z t) (n : Nat) (op : Nat) (entry : Nat) (word : Word) : Kept z (State.traceMsg t n op entry word) := by
  unfold State.traceMsg
  repeat' with_reducible first
    | exact hk | assumption | apply traceRec_kept

theorem entryOn_kept {z t : State} (hk : Kept z t) (n : Nat) (fuel : Nat) (input : List Byte) : Kept z (State.entryOn t n fuel input) := by
  unfold State.entryOn
  dsimp only
  repeat' with_reducible first
    | exact hk | assumption | intro _ | apply Kept.foldl | apply Kept.foldl2 | apply traceMsg_kept
    | apply modChan_kept | (fail_if_no_progress refine Kept.lit ?_ rfl) | split | (apply Kept.snd; assumption)

theorem runEntry_kept {z t : State} (hk : Kept z t) (n : Nat) (e : Nat) (fuel : Nat) : Kept z (State.runEntry t n e fuel) := by
  unfold State.runEntry
  dsimp only
  repeat' with_reducible first
    | exact hk | assumption | apply Kept.ite | apply store_kept | apply modChan_kept | apply entryOn_kept
    | (fail_if_no_progress refine Kept.lit ?_ rfl) | split

theorem endWork_kept {z t : State} (hk : Kept z t) (id : Nat) : Kept z (State.endWork t id) := by
  unfold State.endWork
  dsimp only
  repeat' with_reducible first
    | exact hk | assumption | apply Kept.ite | apply Kept.ite2 | apply withdraw_kept | apply releaseUnused_kept
    | apply modLun_kept | apply modChan_kept | apply runEntry_kept | apply dropWork_kept
    | (fail_if_no_progress refine Kept.lit ?_ rfl) | split | (apply Kept.snd; assumption)

theorem freeWorkFrame_kept {z t : State} (hk : Kept z t) (w : Work) : Kept z (State.freeWorkFrame t w) := by
  unfold State.freeWorkFrame
  repeat' with_reducible first
    | exact hk | assumption | apply Kept.ite | apply forwardEnded_kept | apply releaseSweep_kept | apply freeF_kept
    | (fail_if_no_progress refine Kept.lit ?_ rfl) | split | (apply Kept.snd; assumption)

theorem detachReads_kept {z t : State} (hk : Kept z t) (t' : Nat) : Kept z (State.detachReads t t') := by
  unfold State.detachReads
  dsimp only
  repeat' with_reducible first
    | exact hk | assumption | intro _ | apply Kept.ite | apply Kept.ite2 | apply Kept.foldl | apply Kept.foldl2
    | apply endWork_kept | apply freeWorkFrame_kept | apply modWork_kept
    | (fail_if_no_progress refine Kept.lit ?_ rfl) | split | (apply Kept.snd; assumption)

theorem dropRebuild_kept {z t : State} (hk : Kept z t) (t' : Nat) : Kept z (State.dropRebuild t t') := by
  unfold State.dropRebuild
  repeat' with_reducible first
    | exact hk | assumption | intro _ | apply Kept.foldl | apply freeF_kept | apply modTag_kept
    | (fail_if_no_progress refine Kept.lit ?_ rfl)

theorem endTagWorks_kept {z t : State} (hk : Kept z t) (t' : Nat) : Kept z (State.endTagWorks t t') := by
  unfold State.endTagWorks
  dsimp only
  repeat' with_reducible first
    | exact hk | assumption | intro _ | apply Kept.foldl | apply Kept.foldl2 | apply dropRebuild_kept
    | apply detachReads_kept | apply endWork_kept

theorem dropReads_kept {z t : State} (hk : Kept z t) (g : Nat) : Kept z (State.dropReads t g) := by
  unfold State.dropReads
  repeat' with_reducible first
    | exact hk | assumption | apply Kept.ite | apply Kept.ite2 | (fail_if_no_progress refine Kept.lit ?_ rfl) | split
    | (apply Kept.snd; assumption)

theorem dropPhase_kept {z t : State} (hk : Kept z t) (t' : Nat) : Kept z (State.dropPhase t t') := by
  unfold State.dropPhase
  repeat' with_reducible first
    | exact hk | assumption | apply dropReads_kept | apply modDmaChan_kept
    | (fail_if_no_progress refine Kept.lit ?_ rfl) | split | (apply Kept.snd; assumption)

theorem abandonSurvey_kept {z t : State} (hk : Kept z t) (n : Nat) : Kept z (State.abandonSurvey t n) := by
  unfold State.abandonSurvey
  dsimp only
  repeat' with_reducible first
    | exact hk | assumption | intro _ | apply Kept.ite | apply Kept.ite2 | apply Kept.foldl | apply Kept.foldl2
    | apply endWork_kept | apply freeWorkFrame_kept | apply modChan_kept | apply setFld_kept | apply count_kept
    | apply finish_kept | (fail_if_no_progress refine Kept.lit ?_ rfl) | split | (apply Kept.snd; assumption)

theorem calQueue_kept {z t : State} (hk : Kept z t) (n : Nat) (apply : Bool) (tag : Option Nat) : Kept z (State.calQueue t n apply tag) := by
  unfold State.calQueue
  dsimp only
  repeat' with_reducible first
    | exact hk | assumption | apply modChan_kept | (fail_if_no_progress refine Kept.lit ?_ rfl)

theorem calNext_kept {z t : State} (hk : Kept z t) (n : Nat) : Kept z (State.calNext t n) := by
  unfold State.calNext
  repeat' with_reducible first
    | exact hk | assumption | apply Kept.ite | apply Kept.ite2 | apply calQueue_kept
    | (fail_if_no_progress refine Kept.lit ?_ rfl) | split | (apply Kept.snd; assumption)

theorem dropCal_kept {z t : State} (hk : Kept z t) (n : Nat) : Kept z (State.dropCal t n) := by
  unfold State.dropCal
  dsimp only
  repeat' with_reducible first
    | exact hk | assumption | apply Kept.ite | apply modChan_kept | apply setFld_kept | apply calNext_kept
    | (fail_if_no_progress refine Kept.lit ?_ rfl) | split

theorem dropService_kept {z t : State} (hk : Kept z t) (t' : Nat) : Kept z (State.dropService t t') := by
  unfold State.dropService
  dsimp only
  repeat' with_reducible first
    | exact hk | assumption | apply Kept.ite | apply modChan_kept | apply abandonSurvey_kept | apply dropCal_kept
    | (fail_if_no_progress refine Kept.lit ?_ rfl) | split

theorem reopen_kept {z t : State} (hk : Kept z t) (t' : Nat) : Kept z (State.reopen t t') := by
  unfold State.reopen
  repeat' with_reducible first
    | exact hk | assumption | intro _ | apply Kept.foldl | apply Kept.foldl2 | apply unbind_kept | apply fallBack_kept
    | apply setAcc_kept | (fail_if_no_progress refine Kept.lit ?_ rfl) | split | (apply Kept.snd; assumption)

theorem dropSd_kept {z t : State} (hk : Kept z t) (t' : Nat) : Kept z (State.dropSd t t') := by
  unfold State.dropSd
  repeat' with_reducible first
    | exact hk | assumption | apply Kept.ite | apply Kept.ite2 | (fail_if_no_progress refine Kept.lit ?_ rfl) | split

theorem stopTag_kept {z t : State} (hk : Kept z t) (t' : Nat) (st : Status) (info : Nat) : Kept z (State.stopTag t t' st info) := by
  unfold State.stopTag
  dsimp only
  repeat' with_reducible first
    | exact hk | assumption | apply Kept.ite | apply commitTag_kept | apply endTagWorks_kept | apply dropPhase_kept
    | apply dropService_kept | apply dropSd_kept | apply modTag_kept | apply endTag_kept
    | (fail_if_no_progress refine Kept.lit ?_ rfl) | split

theorem abortNow_kept {z t : State} (hk : Kept z t) (t' : Nat) : Kept z (State.abortNow t t') := by
  unfold State.abortNow
  repeat' with_reducible first
    | exact hk | assumption | apply stopTag_kept | apply reopen_kept

theorem dropTag_kept {z t : State} (hk : Kept z t) (t' : Nat) : Kept z (State.dropTag t t') := by
  unfold State.dropTag
  dsimp only
  repeat' with_reducible first
    | exact hk | assumption | apply Kept.ite | apply addCarry_kept | apply raiseCarry_kept | apply endTagWorks_kept
    | apply dropPhase_kept | apply freeTag_kept | split

theorem abortIfPending_kept {z t : State} (hk : Kept z t) (t' : Nat) : Kept z (State.abortIfPending t t').2 := by
  unfold State.abortIfPending
  dsimp only
  repeat' with_reducible first
    | exact hk | assumption | apply Kept.ite | apply Kept.ite2 | apply dropTag_kept | apply abortNow_kept | split

theorem tooLate_kept {z t : State} (hk : Kept z t) (t' : Nat) : Kept z (State.tooLate t t') := by
  unfold State.tooLate
  dsimp only
  repeat' with_reducible first
    | exact hk | assumption | apply modTag_kept | apply commitSlot_kept | (fail_if_no_progress refine Kept.lit ?_ rfl)
    | split | (apply Kept.snd; assumption)

theorem abortTag_kept {z t : State} (hk : Kept z t) (k : Nat) (t' : Nat) : Kept z (State.abortTag t k t') := by
  unfold State.abortTag
  dsimp only
  repeat' with_reducible first
    | exact hk | assumption | apply Kept.ite | apply commitSlot_kept | apply modTag_kept | apply abortNow_kept
    | apply tooLate_kept | (fail_if_no_progress refine Kept.lit ?_ rfl) | split | (apply Kept.snd; assumption)

theorem cancelTag_kept {z t : State} (hk : Kept z t) (t' : Nat) : Kept z (State.cancelTag t t') := by
  unfold State.cancelTag
  repeat' with_reducible first
    | exact hk | assumption | apply Kept.ite | apply abortNow_kept | apply modTag_kept
    | (fail_if_no_progress refine Kept.lit ?_ rfl) | split | (apply Kept.snd; assumption)

theorem tagError_kept {z t : State} (hk : Kept z t) (t' : Nat) : Kept z (State.tagError t t') := by
  unfold State.tagError
  dsimp only
  repeat' with_reducible first
    | exact hk | assumption | apply Kept.ite | apply modQueue_kept | apply modTag_kept | apply cancelTag_kept
    | (fail_if_no_progress refine Kept.lit ?_ rfl) | split

theorem slotError_kept {z t : State} (hk : Kept z t) (k : Nat) : Kept z (State.slotError t k) := by
  unfold State.slotError
  repeat' with_reducible first
    | exact hk | assumption | apply Kept.ite | apply modQueue_kept | apply commitSlot_kept
    | (fail_if_no_progress refine Kept.lit ?_ rfl) | split

theorem tagTableError_kept {z t : State} (hk : Kept z t) (addr : Nat) : Kept z (State.tagTableError t addr) := by
  unfold State.tagTableError
  dsimp only
  repeat' with_reducible first
    | exact hk | assumption | apply Kept.ite | apply Kept.ite2 | apply useGroup_kept | apply tagError_kept
    | apply slotError_kept | split

theorem rawStore_kept {z t : State} (hk : Kept z t) : Kept z (State.rawStore t) := by
  unfold State.rawStore
  dsimp only
  repeat' with_reducible first
    | exact hk | assumption | apply Kept.ite | apply rawWrite_kept | apply tagTableError_kept | split

theorem execRawWrite_kept {z t : State} (hk : Kept z t) : KeptX z (execRawWrite t) := by
  unfold execRawWrite
  repeat' with_reducible first
    | exact hk | assumption | apply Kept.ite | apply holdRequest_kept | apply rawWrite_kept | apply rawStore_kept
    | apply KeptX.next | split

end Sys2Proof.Machine
end

