-- ==== Sys2Proof/Laws/Keeps/Queues.lean ====
section
/-! SUPPORT. What the operations of `Machine/Queues.lean` keep. -/

namespace Sys2Proof.Machine
open Sys2Proof

theorem clearWindow_kept {z t : State} (hk : Kept z t) (w : Nat) : Kept z (State.clearWindow t w) := by
  unfold State.clearWindow
  repeat' with_reducible first
    | exact hk | assumption | (fail_if_no_progress refine Kept.lit ?_ rfl)

theorem createQueue_kept {z t : State} (hk : Kept z t) (q : Nat) : Kept z (State.createQueue t q) := by
  unfold State.createQueue
  dsimp only
  repeat' with_reducible first
    | exact hk | assumption | apply Kept.ite | apply clearWindow_kept | apply setQueue_kept
    | (fail_if_no_progress refine Kept.lit ?_ rfl) | split

theorem faultQueue_kept {z t : State} (hk : Kept z t) (q : Nat) (cause : Nat) : Kept z (State.faultQueue t q cause) := by
  unfold State.faultQueue
  repeat' with_reducible first
    | exact hk | assumption | apply modQueue_kept | (fail_if_no_progress refine Kept.lit ?_ rfl)

theorem dropFetches_kept {z t : State} (hk : Kept z t) (q : Nat) : Kept z (State.dropFetches t q) := by
  unfold State.dropFetches
  repeat' with_reducible first
    | exact hk | assumption | apply Kept.ite | apply Kept.ite2 | (fail_if_no_progress refine Kept.lit ?_ rfl) | split
    | (apply Kept.snd; assumption)

theorem deleteQueue_kept {z t : State} (hk : Kept z t) (q : Nat) : Kept z (State.deleteQueue t q) := by
  unfold State.deleteQueue
  dsimp only
  repeat' with_reducible first
    | exact hk | assumption | intro _ | apply Kept.ite | apply Kept.foldl | apply clearWindow_kept
    | apply setQueue_kept | apply entryGone_kept | apply cancelTag_kept | apply dropFetches_kept
    | (fail_if_no_progress refine Kept.lit ?_ rfl) | split

theorem dbError_kept {z t : State} (hk : Kept z t) (q : Nat) : Kept z (State.dbError t q) := by
  unfold State.dbError
  repeat' with_reducible first
    | exact hk | assumption | apply setBit_kept

theorem sqDoorbell_kept {z t : State} (hk : Kept z t) (q : Nat) (v : Word) : Kept z (State.sqDoorbell t q v) := by
  unfold State.sqDoorbell
  repeat' with_reducible first
    | exact hk | assumption | apply Kept.ite | apply dbError_kept | apply modQueue_kept
    | (fail_if_no_progress refine Kept.lit ?_ rfl) | split

theorem cqDoorbell_kept {z t : State} (hk : Kept z t) (q : Nat) (v : Word) : Kept z (State.cqDoorbell t q v) := by
  unfold State.cqDoorbell
  dsimp only
  repeat' with_reducible first
    | exact hk | assumption | apply Kept.ite | apply dbError_kept | apply modQueue_kept
    | (fail_if_no_progress refine Kept.lit ?_ rfl) | split

theorem meetContext_kept {z t : State} (hk : Kept z t) (q : Nat) (cause : Nat) : Kept z (State.meetContext t q cause).2 := by
  unfold State.meetContext
  dsimp only
  repeat' with_reducible first
    | exact hk | assumption | apply Kept.ite | apply Kept.ite2 | apply useEntry_kept | apply faultQueue_kept | split

theorem fetchSq_kept {z t : State} (hk : Kept z t) (q : Nat) : Kept z (State.fetchSq t q) := by
  unfold State.fetchSq
  dsimp only
  repeat' with_reducible first
    | exact hk | assumption | intro _ | apply Kept.ite | apply Kept.ite2 | apply Kept.foldl | apply Kept.foldl2
    | apply meetContext_kept | apply modQueue_kept | apply issueRead_kept
    | (fail_if_no_progress refine Kept.lit ?_ rfl) | split

theorem sqArrive_kept {z t : State} (hk : Kept z t) (q : Nat) (i : Nat) (data : List Byte) : Kept z (State.sqArrive t q i data) := by
  unfold State.sqArrive
  repeat' with_reducible first
    | exact hk | assumption | intro _ | apply Kept.ite | apply Kept.ite2 | apply Kept.foldl | apply Kept.foldl2
    | apply modQueue_kept | (fail_if_no_progress refine Kept.lit ?_ rfl) | split

theorem pushWrite_kept {z t : State} (hk : Kept z t) (w : Nat) (off : Nat) (l : List Byte) : KeptO z (State.pushWrite t w off l) := by
  unfold State.pushWrite
  dsimp only
  repeat' with_reducible first
    | exact hk | assumption | apply Kept.ite | apply setBit_kept | apply setPushSlot_kept | exact KeptO.none
    | apply KeptO.some | apply KeptO.ite | (fail_if_no_progress refine Kept.lit ?_ rfl) | split
    | (apply Kept.snd; assumption) | (apply KeptO.get; assumption)

theorem coalesce_kept {z t : State} (hk : Kept z t) (q : Nat) : Kept z (State.coalesce t q) := by
  unfold State.coalesce
  dsimp only
  repeat' with_reducible first
    | exact hk | assumption | apply Kept.ite | apply modQueue_kept | apply askMsix_kept
    | (fail_if_no_progress refine Kept.lit ?_ rfl) | split

theorem writeEntry_kept {z t : State} (hk : Kept z t) (q : Nat) : Kept z (State.writeEntry t q) := by
  unfold State.writeEntry
  dsimp only
  repeat' with_reducible first
    | exact hk | assumption | apply Kept.ite | apply Kept.ite2 | apply meetContext_kept | apply sendWrite_kept
    | apply modQueue_kept | apply carry1_kept | apply coalesce_kept | apply entryGone_kept
    | (fail_if_no_progress refine Kept.lit ?_ rfl) | split | (apply Kept.snd; assumption)

theorem execQueueCreate_kept {z t : State} (hk : Kept z t) (q : Nat) : KeptX z (execQueueCreate q t) := by
  unfold execQueueCreate
  repeat' with_reducible first
    | exact hk | assumption | apply Kept.ite | apply holdRequest_kept | apply createQueue_kept | apply KeptX.next
    | split

theorem execQueueDelete_kept {z t : State} (hk : Kept z t) (q : Nat) : KeptX z (execQueueDelete q t) := by
  unfold execQueueDelete
  repeat' with_reducible first
    | exact hk | assumption | apply Kept.ite | apply holdRequest_kept | apply deleteQueue_kept | apply KeptX.next
    | split

theorem execSqTailDoorbell_kept {z t : State} (hk : Kept z t) (q : Nat) (val : Word) : KeptX z (execSqTailDoorbell q val t) := by
  unfold execSqTailDoorbell
  repeat' with_reducible first
    | exact hk | assumption | apply Kept.ite | apply holdRequest_kept | apply sqDoorbell_kept | apply KeptX.next
    | split

theorem execCqHeadDoorbell_kept {z t : State} (hk : Kept z t) (q : Nat) (val : Word) : KeptX z (execCqHeadDoorbell q val t) := by
  unfold execCqHeadDoorbell
  repeat' with_reducible first
    | exact hk | assumption | apply Kept.ite | apply holdRequest_kept | apply cqDoorbell_kept | apply KeptX.next
    | split

theorem execPushWindowWrite_kept {z t : State} (hk : Kept z t) (w : Nat) (off : Nat) (data : List Byte) : KeptX z (execPushWindowWrite w off data t) := by
  unfold execPushWindowWrite
  repeat' with_reducible first
    | exact hk | assumption | apply Kept.ite | apply holdRequest_kept | apply pushWrite_kept | apply violate_kept
    | apply raise_kept | exact KeptO.none | apply KeptO.some | apply KeptO.ite | apply KeptX.next
    | (fail_if_no_progress refine Kept.lit ?_ rfl) | split | (apply Kept.snd; assumption)
    | (apply KeptO.get; assumption)

end Sys2Proof.Machine
end

