-- ==== Sys2Proof/Laws/Keeps/Dma.lean ====
section
/-! SUPPORT. What the operations of `Machine/Dma.lean` keep. -/

namespace Sys2Proof.Machine
open Sys2Proof

theorem dmaGate_kept {z t : State} (hk : Kept z t) (g : Nat) : Kept z (State.dmaGate t g) := by
  unfold State.dmaGate
  dsimp only
  repeat' with_reducible first
    | exact hk | assumption | apply Kept.ite | apply setDmaChan_kept | (fail_if_no_progress refine Kept.lit ?_ rfl)
    | split

theorem dmaHold_kept {z t : State} (hk : Kept z t) (g : Nat) : Kept z (State.dmaHold t g) := by
  unfold State.dmaHold
  dsimp only
  repeat' with_reducible first
    | exact hk | assumption | apply Kept.ite | apply setDmaChan_kept | (fail_if_no_progress refine Kept.lit ?_ rfl)
    | split

theorem dmaBme_kept {z t : State} (hk : Kept z t) : Kept z (State.dmaBme t) := by
  unfold State.dmaBme
  repeat' with_reducible first
    | exact hk | assumption | intro _ | apply Kept.ite | apply Kept.foldl | apply modDmaChan_kept | apply dmaGate_kept
    | apply dmaHold_kept | (fail_if_no_progress refine Kept.lit ?_ rfl) | split

theorem dmaFault_kept {z t : State} (hk : Kept z t) (g : Nat) (a : Nat) : Kept z (State.dmaFault t g a) := by
  unfold State.dmaFault
  repeat' with_reducible first
    | exact hk | assumption | apply setReg_kept

theorem dmaHalt_kept {z t : State} (hk : Kept z t) (g : Nat) (st : DmaStatus) : Kept z (State.dmaHalt t g st) := by
  unfold State.dmaHalt
  dsimp only
  repeat' with_reducible first
    | exact hk | assumption | apply Kept.ite | apply modDmaChan_kept | apply stopTag_kept | apply setDmaChan_kept
    | apply raise_kept | (fail_if_no_progress refine Kept.lit ?_ rfl) | split | (apply Kept.snd; assumption)

theorem dmaError_kept {z t : State} (hk : Kept z t) (g : Nat) (kind : Nat) (dir : Nat) (a : Nat) : Kept z (State.dmaError t g kind dir a) := by
  unfold State.dmaError
  repeat' with_reducible first
    | exact hk | assumption | apply dmaFault_kept | apply modDmaChan_kept | apply dmaHalt_kept
    | (fail_if_no_progress refine Kept.lit ?_ rfl)

theorem dmaBegin_kept {z t : State} (hk : Kept z t) (g : Nat) : Kept z (State.dmaBegin t g) := by
  unfold State.dmaBegin
  dsimp only
  repeat' with_reducible first
    | exact hk | assumption | apply Kept.ite | apply modDmaChan_kept | apply dmaHalt_kept | apply dmaGate_kept
    | apply dmaHold_kept | (fail_if_no_progress refine Kept.lit ?_ rfl) | split

theorem setDmaDesc_kept {z t : State} (hk : Kept z t) (g : Nat) (a : Nat) : Kept z (State.setDmaDesc t g a) := by
  unfold State.setDmaDesc
  repeat' with_reducible first
    | exact hk | assumption | apply setReg_kept

theorem dmaReqError_kept {z t : State} (hk : Kept z t) (g : Nat) : Kept z (State.dmaReqError t g) := by
  unfold State.dmaReqError
  repeat' with_reducible first
    | exact hk | assumption | apply setBit_kept

theorem dmaHop_kept {z t : State} (hk : Kept z t) (g : Nat) : Kept z (State.dmaHop t g) := by
  unfold State.dmaHop
  dsimp only
  repeat' with_reducible first
    | exact hk | assumption | apply Kept.ite | apply dmaFault_kept | apply dmaHalt_kept | apply setDmaChan_kept
    | (fail_if_no_progress refine Kept.lit ?_ rfl) | split

theorem dmaStart_kept {z t : State} (hk : Kept z t) (g : Nat) : Kept z (State.dmaStart t g) := by
  unfold State.dmaStart
  dsimp only
  repeat' with_reducible first
    | exact hk | assumption | apply Kept.ite | apply dmaReqError_kept | apply setDmaChan_kept | apply modDmaChan_kept
    | apply dmaHold_kept | apply setDmaDesc_kept | apply dmaBegin_kept | (fail_if_no_progress refine Kept.lit ?_ rfl)
    | split

theorem slotsGone_kept {z t : State} (hk : Kept z t) (p : WheelPath) (n : Nat) : Kept z (State.slotsGone t p n) := by
  unfold State.slotsGone
  repeat' with_reducible first
    | exact hk | assumption | (fail_if_no_progress refine Kept.lit ?_ rfl)

theorem putRecord_kept {z t : State} (hk : Kept z t) (g : Nat) (k : Nat) (r : DmaRecord) : Kept z (State.putRecord t g k r) := by
  unfold State.putRecord
  dsimp only
  repeat' with_reducible first
    | exact hk | assumption | apply Kept.ite | apply slotsGone_kept | apply sendWrite_kept | apply setRing_kept
    | apply carry1_kept | apply modRing_kept | apply askMsix_kept | (fail_if_no_progress refine Kept.lit ?_ rfl)
    | split

theorem dmaCredit_kept {z t : State} (hk : Kept z t) (g : Nat) : Kept z (State.dmaCredit t g) := by
  unfold State.dmaCredit
  repeat' with_reducible first
    | exact hk | assumption | apply modDmaChan_kept | apply dmaGate_kept | apply dmaHold_kept
    | (fail_if_no_progress refine Kept.lit ?_ rfl)

theorem creditAll_kept {z t : State} (hk : Kept z t) (e : Nat) (p : Nat → Bool) : Kept z (State.creditAll t e p) := by
  unfold State.creditAll
  repeat' with_reducible first
    | exact hk | assumption | intro _ | apply Kept.foldl | apply dmaCredit_kept

theorem dmaNext_kept {z t : State} (hk : Kept z t) (g : Nat) (ended : Bool) : Kept z (State.dmaNext t g ended) := by
  unfold State.dmaNext
  dsimp only
  repeat' with_reducible first
    | exact hk | assumption | apply Kept.ite | apply modDmaChan_kept | apply dmaHop_kept | apply dmaHold_kept
    | (fail_if_no_progress refine Kept.lit ?_ rfl) | split

theorem dmaRecord_kept {z t : State} (hk : Kept z t) (g : Nat) : Kept z (State.dmaRecord t g) := by
  unfold State.dmaRecord
  dsimp only
  repeat' with_reducible first
    | exact hk | assumption | apply Kept.ite | apply dmaNext_kept | apply modDmaChan_kept | apply dmaHold_kept
    | apply putRecord_kept | (fail_if_no_progress refine Kept.lit ?_ rfl) | split | (apply Kept.snd; assumption)

theorem paceOthers_kept {z t : State} (hk : Kept z t) (g : Nat) : Kept z (State.paceOthers t g) := by
  unfold State.paceOthers
  repeat' with_reducible first
    | exact hk | assumption | apply creditAll_kept

theorem dmaEnd_kept {z t : State} (hk : Kept z t) (g : Nat) (st : DmaStatus) (aborted : Bool) : Kept z (State.dmaEnd t g st aborted) := by
  unfold State.dmaEnd
  dsimp only
  repeat' with_reducible first
    | exact hk | assumption | apply Kept.ite | apply dropReads_kept | apply setDmaChan_kept | apply traceRec_kept
    | apply paceOthers_kept | apply modDmaChan_kept | apply dmaRecord_kept | apply dmaNext_kept
    | (fail_if_no_progress refine Kept.lit ?_ rfl) | split

theorem dmaAbort_kept {z t : State} (hk : Kept z t) (g : Nat) : Kept z (State.dmaAbort t g) := by
  unfold State.dmaAbort
  dsimp only
  repeat' with_reducible first
    | exact hk | assumption | apply Kept.ite | apply dmaReqError_kept | apply dmaEnd_kept | apply setDmaChan_kept
    | (fail_if_no_progress refine Kept.lit ?_ rfl) | split | (apply Kept.snd; assumption)

theorem dmaStop_kept {z t : State} (hk : Kept z t) (g : Nat) : Kept z (State.dmaStop t g) := by
  unfold State.dmaStop
  dsimp only
  repeat' with_reducible first
    | exact hk | assumption | apply Kept.ite | apply setDmaChan_kept | (fail_if_no_progress refine Kept.lit ?_ rfl)
    | split

theorem dmaResume_kept {z t : State} (hk : Kept z t) (g : Nat) : Kept z (State.dmaResume t g) := by
  unfold State.dmaResume
  dsimp only
  repeat' with_reducible first
    | exact hk | assumption | apply Kept.ite | apply dmaReqError_kept | apply setDmaChan_kept | apply dmaHold_kept
    | apply dmaBegin_kept | (fail_if_no_progress refine Kept.lit ?_ rfl) | split | (apply Kept.snd; assumption)

theorem dmaWithdraw_kept {z t : State} (hk : Kept z t) (g : Nat) : Kept z (State.dmaWithdraw t g) := by
  unfold State.dmaWithdraw
  repeat' with_reducible first
    | exact hk | assumption | apply modDmaChan_kept | apply dmaGate_kept
    | (fail_if_no_progress refine Kept.lit ?_ rfl)

theorem forwardStream_kept {z t : State} (hk : Kept z t) (t' : Nat) (isMeta : Bool) (from0 : Nat) (to0 : Nat) : Kept z (State.forwardStream t t' isMeta from0 to0).2 := by
  unfold State.forwardStream
  dsimp only
  repeat' with_reducible first
    | exact hk | assumption | apply Kept.ite | apply Kept.ite2 | apply framePage_kept
    | (fail_if_no_progress refine Kept.lit ?_ rfl) | split | (apply Kept.snd; assumption)

theorem readPieces_kept {z t : State} (hk : Kept z t) (b : Burst) (l : List (Nat × Nat × Nat × Bool)) : Kept z (State.readPieces t b l).2 := by
  unfold State.readPieces
  dsimp only
  repeat' with_reducible first
    | exact hk | assumption | intro _ | apply Kept.foldl | apply Kept.foldl2 | apply frameRead_kept

theorem burstSource_kept {z t : State} (hk : Kept z t) (g : Nat) (b : Burst) : Kept z (State.burstSource t g b).2 := by
  unfold State.burstSource
  refine Kept.ite2 ?_ ?_
  · split
    · exact forwardStream_kept hk _ _ _ _
    · exact Kept.mk2 hk
  · exact Kept.mk2 (readPieces_kept hk _ _)

theorem boundary_kept {z t : State} (hk : Kept z t) (g : Nat) : Kept z (State.boundary t g) := by
  unfold State.boundary
  repeat' with_reducible first
    | exact hk | assumption | apply Kept.ite | apply Kept.ite2 | apply abortIfPending_kept | apply dmaEnd_kept
    | (fail_if_no_progress refine Kept.lit ?_ rfl) | split | (apply Kept.snd; assumption)

theorem deliverBurst_kept {z t : State} (hk : Kept z t) (g : Nat) (b : Burst) : Kept z (State.deliverBurst t g b) := by
  unfold State.deliverBurst
  dsimp only
  repeat' with_reducible first
    | exact hk | assumption | apply burstSource_kept | apply frameWriteMarked_kept | apply sendWrite_kept
    | apply modDmaChan_kept | apply boundary_kept | apply dmaGate_kept | apply dmaHold_kept
    | (fail_if_no_progress refine Kept.lit ?_ rfl) | split | (apply Kept.snd; assumption)

theorem dmaBurst_kept {z t : State} (hk : Kept z t) (g : Nat) : Kept z (State.dmaBurst t g) := by
  unfold State.dmaBurst
  dsimp only
  repeat' with_reducible first
    | exact hk | assumption | apply Kept.ite | apply Kept.ite2 | apply setDmaChan_kept | apply issueRead_kept
    | apply dmaHalt_kept | apply deliverBurst_kept | (fail_if_no_progress refine Kept.lit ?_ rfl) | split
    | (apply Kept.snd; assumption)

theorem dmaLoad_kept {z t : State} (hk : Kept z t) (g : Nat) : Kept z (State.dmaLoad t g) := by
  unfold State.dmaLoad
  dsimp only
  repeat' with_reducible first
    | exact hk | assumption | apply Kept.ite | apply setDmaChan_kept | apply issueRead_kept
    | (fail_if_no_progress refine Kept.lit ?_ rfl) | split | (apply Kept.snd; assumption)

theorem descArrive_kept {z t : State} (hk : Kept z t) (g : Nat) (a : Addr) (data : List Byte) : Kept z (State.descArrive t g a data) := by
  unfold State.descArrive
  dsimp only
  repeat' with_reducible first
    | exact hk | assumption | intro _ | apply Kept.foldl | apply setReg_kept | apply setDmaDesc_kept
    | apply modDmaChan_kept | apply dmaBegin_kept | (fail_if_no_progress refine Kept.lit ?_ rfl)

theorem listArrive_kept {z t : State} (hk : Kept z t) (g : Nat) (a : Addr) (data : List Byte) : Kept z (State.listArrive t g a data) := by
  unfold State.listArrive
  dsimp only
  repeat' with_reducible first
    | exact hk | assumption | apply Kept.ite | apply modDmaChan_kept | apply dmaHalt_kept | apply dmaHop_kept
    | (fail_if_no_progress refine Kept.lit ?_ rfl) | split

theorem dataArrive_kept {z t : State} (hk : Kept z t) (g : Nat) (p : Nat) (data : List Byte) (marks : List Bool) : Kept z (State.dataArrive t g p data marks) := by
  unfold State.dataArrive
  repeat' with_reducible first
    | exact hk | assumption | apply modDmaChan_kept | (fail_if_no_progress refine Kept.lit ?_ rfl)

theorem dataFail_kept {z t : State} (hk : Kept z t) (g : Nat) (p : Nat) (r : Req) : Kept z (State.dataFail t g p r) := by
  unfold State.dataFail
  dsimp only
  repeat' with_reducible first
    | exact hk | assumption | apply Kept.ite | apply modDmaChan_kept | apply dmaError_kept
    | (fail_if_no_progress refine Kept.lit ?_ rfl) | split

theorem dmaComplete_kept {z t : State} (hk : Kept z t) (r : Req) (data : List Byte) (marks : List Bool) : Kept z (State.dmaComplete t r data marks) := by
  unfold State.dmaComplete
  repeat' with_reducible first
    | exact hk | assumption | apply dataArrive_kept | apply descArrive_kept | apply listArrive_kept
    | apply dmaHold_kept | (fail_if_no_progress refine Kept.lit ?_ rfl) | split | (apply Kept.snd; assumption)

theorem dmaFail_kept {z t : State} (hk : Kept z t) (r : Req) : Kept z (State.dmaFail t r) := by
  unfold State.dmaFail
  repeat' with_reducible first
    | exact hk | assumption | apply dataFail_kept | apply dmaError_kept | (fail_if_no_progress refine Kept.lit ?_ rfl)
    | split | (apply Kept.snd; assumption)

theorem runPhase_kept {z t : State} (hk : Kept z t) (g : Nat) (t' : Nat) (isMeta : Bool) : Kept z (State.runPhase t g t' isMeta) := by
  unfold State.runPhase
  dsimp only
  repeat' with_reducible first
    | exact hk | assumption | intro _ | apply Kept.foldl | apply setReg_kept | apply setDmaDesc_kept
    | apply modDmaChan_kept | apply dmaBegin_kept | (fail_if_no_progress refine Kept.lit ?_ rfl)

theorem rawTaken_kept {z t : State} (hk : Kept z t) (t' : Nat) : Kept z (State.rawTaken t t') := by
  unfold State.rawTaken
  repeat' with_reducible first
    | exact hk | assumption | intro _ | apply Kept.foldl | apply Kept.foldl2 | apply endWork_kept

theorem startPhase_kept {z t : State} (hk : Kept z t) (e : Nat) : Kept z (State.startPhase t e) := by
  unfold State.startPhase
  repeat' with_reducible first
    | exact hk | assumption | apply Kept.ite | apply Kept.ite2 | apply rawTaken_kept | apply modDmaChan_kept
    | apply modTag_kept | apply runPhase_kept | (fail_if_no_progress refine Kept.lit ?_ rfl) | split
    | (apply Kept.snd; assumption)

theorem phaseDone_kept {z t : State} (hk : Kept z t) (t' : Nat) : Kept z (State.phaseDone t t') := by
  unfold State.phaseDone
  dsimp only
  repeat' with_reducible first
    | exact hk | assumption | apply Kept.ite | apply modTag_kept | apply finish_kept | apply tagTo_kept
    | (fail_if_no_progress refine Kept.lit ?_ rfl) | split

theorem endPhase_kept {z t : State} (hk : Kept z t) (g : Nat) : Kept z (State.endPhase t g) := by
  unfold State.endPhase
  dsimp only
  repeat' with_reducible first
    | exact hk | assumption | apply Kept.ite | apply traceRec_kept | apply modDmaChan_kept | apply paceOthers_kept
    | apply modTag_kept | apply runPhase_kept | apply stopTag_kept | apply phaseDone_kept
    | (fail_if_no_progress refine Kept.lit ?_ rfl) | split | (apply Kept.snd; assumption)

theorem endDesc_kept {z t : State} (hk : Kept z t) (g : Nat) : Kept z (State.endDesc t g) := by
  unfold State.endDesc
  dsimp only
  repeat' with_reducible first
    | exact hk | assumption | apply Kept.ite | apply dmaEnd_kept | split

theorem engCfgWrite_kept {z t : State} (hk : Kept z t) (e : Nat) (v : Word) : Kept z (State.engCfgWrite t e v) := by
  unfold State.engCfgWrite
  dsimp only
  repeat' with_reducible first
    | exact hk | assumption | apply Kept.ite | apply setFld_kept | apply setBit_kept | split

theorem ringHeadWrite_kept {z t : State} (hk : Kept z t) (k : Nat) (v : Word) : Kept z (State.ringHeadWrite t k v) := by
  unfold State.ringHeadWrite
  repeat' with_reducible first
    | exact hk | assumption | apply Kept.ite | apply setReg_kept | apply setBit_kept | split

theorem ringCfgWrite_kept {z t : State} (hk : Kept z t) (k : Nat) (v : Word) : Kept z (State.ringCfgWrite t k v) := by
  unfold State.ringCfgWrite
  dsimp only
  repeat' with_reducible first
    | exact hk | assumption | apply Kept.ite | apply setReg_kept | apply setBit_kept | apply setRing_kept | split

theorem offlineWrite_kept {z t : State} (hk : Kept z t) (e : Nat) (hi : Bool) (v : Word) : Kept z (State.offlineWrite t e hi v) := by
  unfold State.offlineWrite
  dsimp only
  repeat' with_reducible first
    | exact hk | assumption | intro _ | apply Kept.ite | apply Kept.foldl | apply setArrBit_kept | apply setBit_kept
    | split

theorem execDmaStart_kept {z t : State} (hk : Kept z t) (e : Nat) (c : Nat) : KeptX z (execDmaStart e c t) := by
  unfold execDmaStart
  repeat' with_reducible first
    | exact hk | assumption | apply Kept.ite | apply holdRequest_kept | apply dmaStart_kept | apply KeptX.next | split

theorem execDmaStop_kept {z t : State} (hk : Kept z t) (e : Nat) (c : Nat) : KeptX z (execDmaStop e c t) := by
  unfold execDmaStop
  repeat' with_reducible first
    | exact hk | assumption | apply Kept.ite | apply holdRequest_kept | apply dmaStop_kept | apply KeptX.next | split

theorem execDmaAbort_kept {z t : State} (hk : Kept z t) (e : Nat) (c : Nat) : KeptX z (execDmaAbort e c t) := by
  unfold execDmaAbort
  repeat' with_reducible first
    | exact hk | assumption | apply Kept.ite | apply holdRequest_kept | apply dmaAbort_kept | apply KeptX.next | split

theorem execDmaResume_kept {z t : State} (hk : Kept z t) (e : Nat) (c : Nat) : KeptX z (execDmaResume e c t) := by
  unfold execDmaResume
  repeat' with_reducible first
    | exact hk | assumption | apply Kept.ite | apply holdRequest_kept | apply dmaResume_kept | apply KeptX.next
    | split

theorem execPacingWithdraw_kept {z t : State} (hk : Kept z t) (e : Nat) (c : Nat) : KeptX z (execPacingWithdraw e c t) := by
  unfold execPacingWithdraw
  repeat' with_reducible first
    | exact hk | assumption | apply Kept.ite | apply holdRequest_kept | apply dmaWithdraw_kept | apply KeptX.next
    | split

theorem execPacketChannelsWrite_kept {z t : State} (hk : Kept z t) (e : Nat) (val : Word) : KeptX z (execPacketChannelsWrite e val t) := by
  unfold execPacketChannelsWrite
  repeat' with_reducible first
    | exact hk | assumption | apply Kept.ite | apply holdRequest_kept | apply engCfgWrite_kept | apply KeptX.next
    | split

theorem execRingHeadWrite_kept {z t : State} (hk : Kept z t) (k : Nat) (val : Word) : KeptX z (execRingHeadWrite k val t) := by
  unfold execRingHeadWrite
  repeat' with_reducible first
    | exact hk | assumption | apply Kept.ite | apply holdRequest_kept | apply ringHeadWrite_kept | apply KeptX.next
    | split

theorem execRingEnable_kept {z t : State} (hk : Kept z t) (k : Nat) (val : Word) : KeptX z (execRingEnable k val t) := by
  unfold execRingEnable
  repeat' with_reducible first
    | exact hk | assumption | apply Kept.ite | apply holdRequest_kept | apply ringCfgWrite_kept | apply KeptX.next
    | split

theorem execDmaOfflineWrite_kept {z t : State} (hk : Kept z t) (e : Nat) (hi : Bool) (val : Word) : KeptX z (execDmaOfflineWrite e hi val t) := by
  unfold execDmaOfflineWrite
  repeat' with_reducible first
    | exact hk | assumption | apply Kept.ite | apply holdRequest_kept | apply offlineWrite_kept | apply KeptX.next
    | split

end Sys2Proof.Machine
end

