-- ==== Sys2Proof/Laws/Keeps/Sched.lean ====
section
/-! SUPPORT. What the operations of `Machine/Sched.lean` keep. -/

namespace Sys2Proof.Machine
open Sys2Proof

theorem busJob_kept {z t : State} (hk : Kept z t) (n : Nat) (e : Nat) (args : List Word) (work : Option Nat) (lun : Nat) (run : Bool) (cycles : List BusCycle) : Kept z (State.busJob t n e args work lun run cycles) := by
  unfold State.busJob
  dsimp only
  repeat' with_reducible first
    | exact hk | assumption | apply Kept.ite | apply modChan_kept | (fail_if_no_progress refine Kept.lit ?_ rfl)
    | split

theorem busEnds_kept {z t : State} (hk : Kept z t) (n : Nat) : Kept z (State.busEnds t n) := by
  unfold State.busEnds
  repeat' with_reducible first
    | exact hk | assumption | apply Kept.ite | apply modChan_kept | (fail_if_no_progress refine Kept.lit ?_ rfl)
    | split

theorem traceJob_kept {z t : State} (hk : Kept z t) (n : Nat) (order : Nat) (entry : Nat) (lun : Nat) (tag : Option Nat) : Kept z (State.traceJob t n order entry lun tag) := by
  unfold State.traceJob
  repeat' with_reducible first
    | exact hk | assumption | apply traceRec_kept

theorem workOffsets_kept {z t : State} (hk : Kept z t) (w : Work) : Kept z (State.workOffsets t w).2 := by
  unfold State.workOffsets
  dsimp only
  repeat' with_reducible first
    | exact hk | assumption | apply Kept.ite | apply Kept.ite2 | apply attemptOffsets_kept
    | (fail_if_no_progress refine Kept.lit ?_ rfl) | split | (apply Kept.snd; assumption)

theorem ask_kept {z t : State} (hk : Kept z t) (n : Nat) (l : Nat) : Kept z (State.ask t n l) := by
  unfold State.ask
  dsimp only
  repeat' with_reducible first
    | exact hk | assumption | intro _ | apply Kept.ite | apply Kept.foldl | apply askAdmission_kept
    | apply modWork_kept | (fail_if_no_progress refine Kept.lit ?_ rfl) | split | (apply Kept.snd; assumption)

theorem issueTag_kept {z t : State} (hk : Kept z t) (w : Work) : Kept z (State.issueTag t w) := by
  unfold State.issueTag
  dsimp only
  repeat' with_reducible first
    | exact hk | assumption | apply Kept.ite | apply tagTo_kept | (fail_if_no_progress refine Kept.lit ?_ rfl) | split
    | (apply Kept.snd; assumption)

theorem setLevels_kept {z t : State} (hk : Kept z t) (n : Nat) : Kept z (State.setLevels t n) := by
  unfold State.setLevels
  dsimp only
  repeat' with_reducible first
    | exact hk | assumption | apply Kept.ite | apply Kept.ite2 | apply workOffsets_kept | apply traceJob_kept
    | apply busJob_kept | apply modLun_kept | apply modWork_kept | apply issueTag_kept
    | (fail_if_no_progress refine Kept.lit ?_ rfl) | split | (apply Kept.snd; assumption)

theorem readPassed_kept {z t : State} (hk : Kept z t) (n : Nat) (l : Nat) (k : Nat) : Kept z (State.readPassed t n l k) := by
  unfold State.readPassed
  dsimp only
  repeat' with_reducible first
    | exact hk | assumption | apply Kept.ite | apply Kept.ite2 | (fail_if_no_progress refine Kept.lit ?_ rfl) | split

theorem readsStart_kept {z t : State} (hk : Kept z t) (n : Nat) (l : Nat) (k : Nat) : Kept z (State.readsStart t n l k) := by
  unfold State.readsStart
  repeat' with_reducible first
    | exact hk | assumption | apply readPassed_kept | apply modLun_kept | (fail_if_no_progress refine Kept.lit ?_ rfl)

theorem issueFlashRead_kept {z t : State} (hk : Kept z t) (n : Nat) : Kept z (State.issueFlashRead t n) := by
  unfold State.issueFlashRead
  dsimp only
  repeat' with_reducible first
    | exact hk | assumption | intro _ | apply Kept.ite | apply Kept.ite2 | apply Kept.foldl | apply Kept.foldl2
    | apply traceJob_kept | apply busJob_kept | apply joinGrants_kept | apply modWork_kept | apply issueTag_kept
    | apply ledgerRead_kept | apply readsStart_kept | apply modLun_kept | (fail_if_no_progress refine Kept.lit ?_ rfl)
    | split | (apply Kept.snd; assumption)

theorem pollsDue_kept {z t : State} (hk : Kept z t) (n : Nat) (t' : Nat) (rise : Bool) : Kept z (State.pollsDue t n t' rise) := by
  unfold State.pollsDue
  dsimp only
  repeat' with_reducible first
    | exact hk | assumption | intro _ | apply Kept.foldl | apply setLun_kept
    | (fail_if_no_progress refine Kept.lit ?_ rfl) | split | (apply Kept.snd; assumption)

theorem suspendLun_kept {z t : State} (hk : Kept z t) (n : Nat) (kind : WorkKind) : Kept z (State.suspendLun t n kind) := by
  unfold State.suspendLun
  dsimp only
  repeat' with_reducible first
    | exact hk | assumption | apply Kept.ite | apply traceJob_kept | apply busJob_kept | apply modLun_kept
    | apply count_kept | (fail_if_no_progress refine Kept.lit ?_ rfl) | split | (apply Kept.snd; assumption)

theorem suspendedLun_kept {z t : State} (hk : Kept z t) (n : Nat) (l : Nat) : Kept z (State.suspendedLun t n l) := by
  unfold State.suspendedLun
  dsimp only
  repeat' with_reducible first
    | exact hk | assumption | intro _ | apply Kept.ite | apply Kept.foldl | apply releaseOp_kept | apply modWork_kept
    | apply modLun_kept | apply askAdmission_kept | (fail_if_no_progress refine Kept.lit ?_ rfl) | split
    | (apply Kept.snd; assumption)

theorem resumeLun_kept {z t : State} (hk : Kept z t) (n : Nat) : Kept z (State.resumeLun t n) := by
  unfold State.resumeLun
  dsimp only
  repeat' with_reducible first
    | exact hk | assumption | apply traceJob_kept | apply busJob_kept | apply modLun_kept
    | (fail_if_no_progress refine Kept.lit ?_ rfl) | split | (apply Kept.snd; assumption)

theorem programBytes_kept {z t : State} (hk : Kept z t) (w : Work) (col : Nat) (n : Nat) : Kept z (State.programBytes t w col n).2 := by
  unfold State.programBytes
  dsimp only
  repeat' with_reducible first
    | exact hk | assumption | apply Kept.ite | apply Kept.ite2 | apply frameRead_kept | apply framePage_kept
    | (fail_if_no_progress refine Kept.lit ?_ rfl) | split | (apply Kept.snd; assumption)

theorem startData_kept {z t : State} (hk : Kept z t) (n : Nat) (resume : Bool) (id : Nat) (w : Work) : Kept z (State.startData t n resume id w) := by
  unfold State.startData
  dsimp only
  repeat' with_reducible first
    | exact hk | assumption | apply Kept.ite | apply traceJob_kept | apply busJob_kept | apply issueTag_kept | split

theorem moveData_kept {z t : State} (hk : Kept z t) (n : Nat) (id : Nat) (w : Work) (stop : Nat) (data : List Byte) : Kept z (State.moveData t n id w stop data) := by
  unfold State.moveData
  dsimp only
  repeat' with_reducible first
    | exact hk | assumption | apply Kept.ite | apply count_kept | apply modChan_kept | apply modWork_kept
    | apply modLun_kept | (fail_if_no_progress refine Kept.lit ?_ rfl) | split

theorem eraseLun_kept {z t : State} (hk : Kept z t) (n : Nat) : Kept z (State.eraseLun t n) := by
  unfold State.eraseLun
  dsimp only
  repeat' with_reducible first
    | exact hk | assumption | apply Kept.ite | apply traceJob_kept | apply busJob_kept | apply modChan_kept
    | apply issueTag_kept | apply modWork_kept | apply modLun_kept | (fail_if_no_progress refine Kept.lit ?_ rfl)
    | split | (apply Kept.snd; assumption)

theorem holdClear_kept {z t : State} (hk : Kept z t) (n : Nat) (v : Word) : Kept z (State.holdClear t n v) := by
  unfold State.holdClear
  repeat' with_reducible first
    | exact hk | assumption | intro _ | apply Kept.foldl | apply modLun_kept
    | (fail_if_no_progress refine Kept.lit ?_ rfl)

theorem execLunHoldClear_kept {z t : State} (hk : Kept z t) (ch : Nat) (val : Word) : KeptX z (execLunHoldClear ch val t) := by
  unfold execLunHoldClear
  repeat' with_reducible first
    | exact hk | assumption | apply Kept.ite | apply holdRequest_kept | apply holdClear_kept | apply KeptX.next
    | split

end Sys2Proof.Machine
end

