-- ==== Sys2Proof/Laws/Keeps/Stripe.lean ====
section
/-! SUPPORT. What the operations of `Machine/Stripe.lean` keep. -/

namespace Sys2Proof.Machine
open Sys2Proof

theorem fetchSd_kept {z t : State} (hk : Kept z t) (t' : Nat) : Kept z (State.fetchSd t t') := by
  unfold State.fetchSd
  dsimp only
  repeat' with_reducible first
    | exact hk | assumption | apply Kept.ite | apply issueRead_kept | split

theorem releaseAcc_kept {z t : State} (hk : Kept z t) (k : Nat) : Kept z (State.releaseAcc t k) := by
  unfold State.releaseAcc
  dsimp only
  repeat' with_reducible first
    | exact hk | assumption | intro _ | apply Kept.ite | apply Kept.ite2 | apply Kept.foldl | apply Kept.foldl2
    | apply setAcc_kept | apply modTag_kept | apply settle_kept | apply freeF_kept
    | (fail_if_no_progress refine Kept.lit ?_ rfl) | split | (apply Kept.snd; assumption)

theorem zeroFrame_kept {z t : State} (hk : Kept z t) (f : Nat) : Kept z (State.zeroFrame t f) := by
  unfold State.zeroFrame
  repeat' with_reducible first
    | exact hk | assumption | apply takeFrame_kept | apply zeroWords_kept

theorem openAcc_kept {z t : State} (hk : Kept z t) (t' : Nat) (k : Nat) (d : Descriptor) : Kept z (State.openAcc t t' k d) := by
  unfold State.openAcc
  dsimp only
  repeat' with_reducible first
    | exact hk | assumption | apply Kept.ite | apply stopTag_kept | apply zeroFrame_kept | apply setAcc_kept
    | apply count_kept | apply finish_kept | (fail_if_no_progress refine Kept.lit ?_ rfl) | split
    | (apply Kept.snd; assumption)

theorem setMember_kept {z t : State} (hk : Kept z t) (t' : Nat) (i : Nat) (o : MemberOutcome) : Kept z (State.setMember t t' i o) := by
  unfold State.setMember
  repeat' with_reducible first
    | exact hk | assumption | apply modTag_kept | (fail_if_no_progress refine Kept.lit ?_ rfl)

theorem addMember_kept {z t : State} (hk : Kept z t) (t' : Nat) (d : Descriptor) (i : Nat) : Kept z (State.addMember t t' d i) := by
  unfold State.addMember
  dsimp only
  repeat' with_reducible first
    | exact hk | assumption | apply Kept.ite | apply Kept.ite2 | apply tick_kept | apply addWork_kept
    | apply count_kept | apply wakeForwards_kept | apply fixLevels_kept | apply grantFrames_kept
    | (fail_if_no_progress refine Kept.lit ?_ rfl) | split | (apply Kept.snd; assumption)

theorem endMembers_kept {z t : State} (hk : Kept z t) (t' : Nat) (keep : List Nat) : Kept z (State.endMembers t t' keep) := by
  unfold State.endMembers
  dsimp only
  repeat' with_reducible first
    | exact hk | assumption | intro _ | apply Kept.ite | apply Kept.foldl | apply endWork_kept
    | apply freeWorkFrame_kept | (fail_if_no_progress refine Kept.lit ?_ rfl) | split | (apply Kept.snd; assumption)

theorem assemble_kept {z t : State} (hk : Kept z t) (t' : Nat) (r : Rebuild) (need : Nat) : Kept z (State.assemble t t' r need) := by
  unfold State.assemble
  dsimp only
  repeat' with_reducible first
    | exact hk | assumption | apply Kept.ite | apply modTag_kept | apply grantFrames_kept
    | (fail_if_no_progress refine Kept.lit ?_ rfl) | split

theorem rebuildFails_kept {z t : State} (hk : Kept z t) (t' : Nat) : Kept z (State.rebuildFails t t') := by
  unfold State.rebuildFails
  dsimp only
  repeat' with_reducible first
    | exact hk | assumption | apply Kept.ite | apply stopTag_kept | (fail_if_no_progress refine Kept.lit ?_ rfl)
    | split | (apply Kept.snd; assumption)

theorem rebuildDone_kept {z t : State} (hk : Kept z t) (t' : Nat) (payload : List Byte) : Kept z (State.rebuildDone t t' payload) := by
  unfold State.rebuildDone
  dsimp only
  repeat' with_reducible first
    | exact hk | assumption | intro _ | apply Kept.ite | apply Kept.foldl | apply freeF_kept | apply frameWrite_kept
    | apply putPayload_kept | apply endMembers_kept | apply modTag_kept | apply modFrame_kept | apply tagTo_kept
    | (fail_if_no_progress refine Kept.lit ?_ rfl) | split | (apply Kept.snd; assumption)

theorem solveEnd_kept {z t : State} (hk : Kept z t) (t' : Nat) : Kept z (State.solveEnd t t') := by
  unfold State.solveEnd
  dsimp only
  repeat' with_reducible first
    | exact hk | assumption | apply Kept.ite | apply rebuildDone_kept | apply rebuildFails_kept
    | (fail_if_no_progress refine Kept.lit ?_ rfl) | split | (apply Kept.snd; assumption)

theorem rebuildSweep_kept {z t : State} (hk : Kept z t) : Kept z (State.rebuildSweep t) := by
  unfold State.rebuildSweep
  repeat' with_reducible first
    | exact hk | assumption | intro _ | apply Kept.foldl | apply Kept.foldl2 | apply solveEnd_kept
    | (fail_if_no_progress refine Kept.lit ?_ rfl) | split | (apply Kept.snd; assumption)

theorem rebuildCheck_kept {z t : State} (hk : Kept z t) (t' : Nat) : Kept z (State.rebuildCheck t t') := by
  unfold State.rebuildCheck
  dsimp only
  repeat' with_reducible first
    | exact hk | assumption | apply Kept.ite | apply rebuildFails_kept | apply assemble_kept | apply solveEnd_kept
    | (fail_if_no_progress refine Kept.lit ?_ rfl) | split | (apply Kept.snd; assumption)

theorem beginMembers_kept {z t : State} (hk : Kept z t) (t' : Nat) : Kept z (State.beginMembers t t') := by
  unfold State.beginMembers
  dsimp only
  repeat' with_reducible first
    | exact hk | assumption | intro _ | apply Kept.ite | apply Kept.foldl | apply modTag_kept | apply addMember_kept
    | apply rebuildCheck_kept | (fail_if_no_progress refine Kept.lit ?_ rfl) | split | (apply Kept.snd; assumption)

theorem toRebuild_kept {z t : State} (hk : Kept z t) (t' : Nat) : Kept z (State.toRebuild t t') := by
  unfold State.toRebuild
  dsimp only
  repeat' with_reducible first
    | exact hk | assumption | apply modTag_kept | apply tagTo_kept | (fail_if_no_progress refine Kept.lit ?_ rfl)

theorem memberLost_kept {z t : State} (hk : Kept z t) (id : Nat) (t' : Nat) (i : Nat) (o : MemberOutcome) : Kept z (State.memberLost t id t' i o) := by
  unfold State.memberLost
  dsimp only
  repeat' with_reducible first
    | exact hk | assumption | apply modChan_kept | apply modWork_kept | apply setMember_kept | apply rebuildCheck_kept
    | (fail_if_no_progress refine Kept.lit ?_ rfl) | split | (apply Kept.snd; assumption)

theorem workPayload_kept {z t : State} (hk : Kept z t) (w : Work) : Kept z (State.workPayload t w).2 := by
  unfold State.workPayload
  dsimp only
  repeat' with_reducible first
    | exact hk | assumption | apply Kept.ite | apply Kept.ite2 | apply clearPayload_kept
    | (fail_if_no_progress refine Kept.lit ?_ rfl) | split | (apply Kept.snd; assumption)

theorem addPayload_kept {z t : State} (hk : Kept z t) (id : Nat) : Kept z (State.addPayload t id) := by
  unfold State.addPayload
  dsimp only
  repeat' with_reducible first
    | exact hk | assumption | apply Kept.ite | apply Kept.ite2 | apply workPayload_kept | apply modTag_kept
    | apply rebuildCheck_kept | (fail_if_no_progress refine Kept.lit ?_ rfl) | split | (apply Kept.snd; assumption)

theorem sdReady_kept {z t : State} (hk : Kept z t) (t' : Nat) : Kept z (State.sdReady t t') := by
  unfold State.sdReady
  dsimp only
  repeat' with_reducible first
    | exact hk | assumption | apply Kept.ite | apply stopTag_kept | apply modTag_kept | apply openAcc_kept
    | apply beginMembers_kept | (fail_if_no_progress refine Kept.lit ?_ rfl) | split | (apply Kept.snd; assumption)

theorem sdArrive_kept {z t : State} (hk : Kept z t) (t' : Nat) (data : List Byte) : Kept z (State.sdArrive t t' data) := by
  unfold State.sdArrive
  dsimp only
  repeat' with_reducible first
    | exact hk | assumption | apply Kept.ite | apply modTag_kept | apply stopTag_kept | apply sdReady_kept
    | (fail_if_no_progress refine Kept.lit ?_ rfl) | split | (apply Kept.snd; assumption)

theorem accumulate_kept {z t : State} (hk : Kept z t) (f : Option Nat) (l : List Byte) (poison : Bool) : Kept z (State.accumulate t f l poison) := by
  unfold State.accumulate
  dsimp only
  repeat' with_reducible first
    | exact hk | assumption | apply clearFrame_kept | apply frameRead_kept | apply frameWrite_kept
    | (fail_if_no_progress refine Kept.lit ?_ rfl) | split | (apply Kept.snd; assumption)

theorem accAdd_kept {z t : State} (hk : Kept z t) (k : Nat) : Kept z (State.accAdd t k) := by
  unfold State.accAdd
  dsimp only
  repeat' with_reducible first
    | exact hk | assumption | apply setAcc_kept | apply stagedPayload_kept | apply accumulate_kept | apply modTag_kept
    | apply forwardEnded_kept | apply settle_kept | apply releaseSweep_kept
    | (fail_if_no_progress refine Kept.lit ?_ rfl) | split | (apply Kept.snd; assumption)

end Sys2Proof.Machine
end

