-- ==== Sys2Proof/Laws/Keeps/Wheel.lean ====
section
/-! SUPPORT. What the operations of `Machine/Wheel.lean` keep. -/

namespace Sys2Proof.Machine
open Sys2Proof

theorem slotGone_kept {z t : State} (hk : Kept z t) (p : WheelPath) : Kept z (State.slotGone t p) := by
  unfold State.slotGone
  repeat' with_reducible first
    | exact hk | assumption | apply slotsGone_kept

theorem slotsRead_kept {z t : State} (hk : Kept z t) (p : WheelPath) (before : State) : Kept z (State.slotsRead t p before) := by
  unfold State.slotsRead
  repeat' with_reducible first
    | exact hk | assumption | apply slotsGone_kept

theorem grantDma_kept {z t : State} (hk : Kept z t) (p : WheelPath) (g : Nat) : Kept z (State.grantDma t p g) := by
  unfold State.grantDma
  dsimp only
  repeat' with_reducible first
    | exact hk | assumption | apply modDmaChan_kept | (fail_if_no_progress refine Kept.lit ?_ rfl) | split
    | (apply Kept.snd; assumption)

theorem wheel_kept {z t : State} (hk : Kept z t) (p : WheelPath) : Kept z (State.wheel t p) := by
  unfold State.wheel
  dsimp only
  repeat' with_reducible first
    | exact hk | assumption | apply slotGone_kept | apply grantDma_kept | (fail_if_no_progress refine Kept.lit ?_ rfl)
    | split | (apply Kept.snd; assumption)

end Sys2Proof.Machine
end

