-- ==== Sys2Proof/Laws/Keeps/Reads.lean ====
section
/-! SUPPORT. What the operations of `Machine/Reads.lean` keep. -/

namespace Sys2Proof.Machine
open Sys2Proof

theorem freeBytes_kept {z t : State} (hk : Kept z t) (n : Nat) : Kept z (State.freeBytes t n).2 := by
  unfold State.freeBytes
  repeat' with_reducible first
    | exact hk | assumption | (fail_if_no_progress refine Kept.lit ?_ rfl)

theorem closeRead_kept {z t : State} (hk : Kept z t) (id : Nat) : Kept z (State.closeRead t id) := by
  unfold State.closeRead
  repeat' with_reducible first
    | exact hk | assumption | apply endWork_kept | apply freeWorkFrame_kept
    | (fail_if_no_progress refine Kept.lit ?_ rfl) | split | (apply Kept.snd; assumption)

theorem putInfo_kept {z t : State} (hk : Kept z t) (f : Nat) (base : Nat) (x : CodeCfg) (level : Nat) (info : List Byte) : Kept z (State.putInfo t f base x level info) := by
  unfold State.putInfo
  dsimp only
  repeat' with_reducible first
    | exact hk | assumption | apply freeBytes_kept | apply frameWrite_kept

theorem noteSteps_kept {z t : State} (hk : Kept z t) (w : Work) : Kept z (State.noteSteps t w) := by
  unfold State.noteSteps
  repeat' with_reducible first
    | exact hk | assumption | apply modTag_kept | (fail_if_no_progress refine Kept.lit ?_ rfl) | split
    | (apply Kept.snd; assumption)

theorem trainRead_kept {z t : State} (hk : Kept z t) (w : Work) : Kept z (State.trainRead t w) := by
  unfold State.trainRead
  dsimp only
  repeat' with_reducible first
    | exact hk | assumption | apply Kept.ite | apply Kept.ite2 | apply modChan_kept | apply attemptOffsets_kept
    | apply writeLevels_kept | (fail_if_no_progress refine Kept.lit ?_ rfl) | split

theorem copyArrives_kept {z t : State} (hk : Kept z t) (t' : Nat) (payload : List Byte) (poison : Bool) (w : Work) : Kept z (State.copyArrives t t' payload poison w) := by
  unfold State.copyArrives
  dsimp only
  repeat' with_reducible first
    | exact hk | assumption | apply putPayload_kept | apply modTag_kept | (fail_if_no_progress refine Kept.lit ?_ rfl)
    | split | (apply Kept.snd; assumption)

theorem readGood_kept {z t : State} (hk : Kept z t) (id : Nat) : Kept z (State.readGood t id) := by
  unfold State.readGood
  dsimp only
  repeat' with_reducible first
    | exact hk | assumption | apply Kept.ite | apply Kept.ite2 | apply trainRead_kept | apply modTag_kept
    | apply endWork_kept | apply tagTo_kept | apply tick_kept | apply modWork_kept | apply setMember_kept
    | apply workPayload_kept | apply copyArrives_kept | apply closeRead_kept
    | (fail_if_no_progress refine Kept.lit ?_ rfl) | split | (apply Kept.snd; assumption)

theorem readLost_kept {z t : State} (hk : Kept z t) (id : Nat) : Kept z (State.readLost t id) := by
  unfold State.readLost
  dsimp only
  repeat' with_reducible first
    | exact hk | assumption | apply Kept.ite | apply endWork_kept | apply closeRead_kept | apply toRebuild_kept
    | apply stopTag_kept | apply memberLost_kept | (fail_if_no_progress refine Kept.lit ?_ rfl) | split
    | (apply Kept.snd; assumption)

theorem readNext_kept {z t : State} (hk : Kept z t) (id : Nat) : Kept z (State.readNext t id) := by
  unfold State.readNext
  repeat' with_reducible first
    | exact hk | assumption | apply Kept.ite | apply readLost_kept | apply readGood_kept | apply modWork_kept
    | apply count_kept | (fail_if_no_progress refine Kept.lit ?_ rfl) | split | (apply Kept.snd; assumption)

theorem readPoisoned_kept {z t : State} (hk : Kept z t) (id : Nat) : Kept z (State.readPoisoned t id) := by
  unfold State.readPoisoned
  repeat' with_reducible first
    | exact hk | assumption | apply stopTag_kept | apply closeRead_kept | apply modWork_kept | apply readNext_kept
    | (fail_if_no_progress refine Kept.lit ?_ rfl) | split | (apply Kept.snd; assumption)

theorem softNext_kept {z t : State} (hk : Kept z t) (n : Nat) : Kept z (State.softNext t n) := by
  unfold State.softNext
  dsimp only
  repeat' with_reducible first
    | exact hk | assumption | apply Kept.ite | apply Kept.ite2 | apply frameRead_kept | apply modWork_kept
    | apply readPoisoned_kept | apply modChan_kept | (fail_if_no_progress refine Kept.lit ?_ rfl) | split
    | (apply Kept.snd; assumption)

theorem afterRun_kept {z t : State} (hk : Kept z t) (id : Nat) (go : State → State) (h_go : ∀ u, Kept z u → Kept z (go u)) : Kept z (State.afterRun t id go) := by
  unfold State.afterRun
  dsimp only
  repeat' with_reducible first
    | exact hk | assumption | intro _ | apply Kept.ite | apply Kept.ite2 | apply abortIfPending_kept | apply h_go
    | (fail_if_no_progress refine Kept.lit ?_ rfl) | split | (apply Kept.snd; assumption)

theorem forwardCode_kept {z t : State} (hk : Kept z t) (w : Work) (g : DecodeCfg) (f : Nat) (q : Nat) : Kept z (State.forwardCode t w g f q).2 := by
  unfold State.forwardCode
  dsimp only
  repeat' with_reducible first
    | exact hk | assumption | apply Kept.ite | apply Kept.ite2 | apply decodeAt_kept | apply countHard_kept
    | apply traceDecode_kept | apply count_kept | split

theorem forwardDecode_kept {z t : State} (hk : Kept z t) (id : Nat) (w : Work) : Kept z (State.forwardDecode t id w) := by
  unfold State.forwardDecode
  dsimp only
  repeat' with_reducible first
    | exact hk | assumption | intro _ | apply Kept.ite | apply Kept.ite2 | apply Kept.foldl | apply Kept.foldl2
    | apply forwardCode_kept | apply afterRun_kept | apply modWork_kept | apply modTag_kept | apply readGood_kept
    | apply readLost_kept | (fail_if_no_progress refine Kept.lit ?_ rfl) | split | (apply Kept.snd; assumption)

theorem hardEnd_kept {z t : State} (hk : Kept z t) (id : Nat) : Kept z (State.hardEnd t id) := by
  unfold State.hardEnd
  dsimp only
  repeat' with_reducible first
    | exact hk | assumption | intro _ | apply Kept.ite | apply Kept.ite2 | apply forwardDecode_kept
    | apply decodeAt_kept | apply modChan_kept | apply modWork_kept | apply afterRun_kept | apply readPoisoned_kept
    | apply countHard_kept | apply traceDecode_kept | apply noteSteps_kept | apply readLost_kept | apply putInfo_kept
    | apply readNext_kept | (fail_if_no_progress refine Kept.lit ?_ rfl) | split | (apply Kept.snd; assumption)

theorem softDone_kept {z t : State} (hk : Kept z t) (id : Nat) : Kept z (State.softDone t id) := by
  unfold State.softDone
  dsimp only
  repeat' with_reducible first
    | exact hk | assumption | apply modChan_kept | apply modWork_kept | apply readNext_kept
    | (fail_if_no_progress refine Kept.lit ?_ rfl) | split | (apply Kept.snd; assumption)

theorem softEnd_kept {z t : State} (hk : Kept z t) (id : Nat) : Kept z (State.softEnd t id) := by
  unfold State.softEnd
  dsimp only
  repeat' with_reducible first
    | exact hk | assumption | intro _ | apply Kept.ite | apply Kept.foldl | apply modChan_kept | apply noteSteps_kept
    | apply count_kept | apply traceDecode_kept | apply putInfo_kept | apply markWeak_kept | apply modWork_kept
    | apply afterRun_kept | apply softDone_kept | (fail_if_no_progress refine Kept.lit ?_ rfl) | split
    | (apply Kept.snd; assumption)

theorem heldCodes_kept {z t : State} (hk : Kept z t) (w : Work) (f : Nat) : Kept z (State.heldCodes t w f).2 := by
  unfold State.heldCodes
  dsimp only
  repeat' with_reducible first
    | exact hk | assumption | intro _ | apply Kept.ite | apply Kept.ite2 | apply Kept.foldl | apply Kept.foldl2
    | apply frameRead_kept | (fail_if_no_progress refine Kept.lit ?_ rfl) | split | (apply Kept.snd; assumption)

theorem readBackOut_kept {z t : State} (hk : Kept z t) (id : Nat) (w : Work) (data : List Byte) : Kept z (State.readBackOut t id w data) := by
  unfold State.readBackOut
  dsimp only
  repeat' with_reducible first
    | exact hk | assumption | intro _ | apply Kept.ite | apply Kept.ite2 | apply Kept.foldl | apply Kept.foldl2
    | apply modWork_kept | apply heldCodes_kept | apply decodeBytes_kept | apply countHard_kept
    | apply traceDecode_kept | apply count_kept | (fail_if_no_progress refine Kept.lit ?_ rfl) | split
    | (apply Kept.snd; assumption)

theorem assistOut_kept {z t : State} (hk : Kept z t) (id : Nat) (w : Work) (data : List Byte) : Kept z (State.assistOut t id w data) := by
  unfold State.assistOut
  dsimp only
  repeat' with_reducible first
    | exact hk | assumption | apply count_kept | apply modChan_kept | apply modWork_kept
    | (fail_if_no_progress refine Kept.lit ?_ rfl)

theorem rawOut_kept {z t : State} (hk : Kept z t) (id : Nat) (w : Work) (f : Nat) (data : List Byte) : Kept z (State.rawOut t id w f data) := by
  unfold State.rawOut
  dsimp only
  repeat' with_reducible first
    | exact hk | assumption | apply frameWrite_kept | apply modWork_kept | apply tagTo_kept | apply endWork_kept
    | (fail_if_no_progress refine Kept.lit ?_ rfl) | split | (apply Kept.snd; assumption)

theorem codeOut_kept {z t : State} (hk : Kept z t) (id : Nat) (w : Work) (f : Nat) (data : List Byte) : Kept z (State.codeOut t id w f data) := by
  unfold State.codeOut
  dsimp only
  repeat' with_reducible first
    | exact hk | assumption | apply Kept.ite | apply frameWrite_kept | apply modChan_kept | apply modWork_kept
    | apply tagTo_kept | (fail_if_no_progress refine Kept.lit ?_ rfl) | split | (apply Kept.snd; assumption)

theorem dataOut_kept {z t : State} (hk : Kept z t) (n : Nat) (data : List Byte) : Kept z (State.dataOut t n data) := by
  unfold State.dataOut
  dsimp only
  repeat' with_reducible first
    | exact hk | assumption | apply Kept.ite | apply traceJob_kept | apply count_kept | apply busJob_kept
    | apply modChan_kept | apply readBackOut_kept | apply assistOut_kept | apply rawOut_kept | apply codeOut_kept
    | (fail_if_no_progress refine Kept.lit ?_ rfl) | split | (apply Kept.snd; assumption)

end Sys2Proof.Machine
end

