-- ==== Sys2Proof/Laws/Keeps/Ends.lean ====
section
/-! SUPPORT. What the operations of `Machine/Ends.lean` keep. -/

namespace Sys2Proof.Machine
open Sys2Proof

theorem poisonProgram_kept {z t : State} (hk : Kept z t) (id : Nat) : Kept z (State.poisonProgram t id) := by
  unfold State.poisonProgram
  dsimp only
  repeat' with_reducible first
    | exact hk | assumption | apply Kept.ite | apply endWork_kept | apply endTagWorks_kept | apply programFails_kept
    | apply stopTag_kept | apply releaseAcc_kept | (fail_if_no_progress refine Kept.lit ?_ rfl) | split
    | (apply Kept.snd; assumption)

theorem programPayload_kept {z t : State} (hk : Kept z t) (f : Nat) (p : Packet) (q : Bool) : Kept z (State.programPayload t f p q).2 := by
  unfold State.programPayload
  dsimp only
  repeat' with_reducible first
    | exact hk | assumption | apply Kept.ite | apply Kept.ite2 | apply clearPayload_kept | split

theorem enterStaged_kept {z t : State} (hk : Kept z t) (t' : Nat) : Kept z (State.enterStaged t t') := by
  unfold State.enterStaged
  dsimp only
  repeat' with_reducible first
    | exact hk | assumption | apply Kept.ite | apply tagTo_kept | apply modTag_kept | apply commitTag_kept
    | (fail_if_no_progress refine Kept.lit ?_ rfl) | split

theorem contribute_kept {z t : State} (hk : Kept z t) (t' : Nat) : Kept z (State.contribute t t') := by
  unfold State.contribute
  dsimp only
  repeat' with_reducible first
    | exact hk | assumption | apply modAcc_kept | apply modTag_kept | (fail_if_no_progress refine Kept.lit ?_ rfl)
    | split | (apply Kept.snd; assumption)

theorem stageClose_kept {z t : State} (hk : Kept z t) (t' : Nat) (k : Nat) : Kept z (State.stageClose t t' k) := by
  unfold State.stageClose
  dsimp only
  repeat' with_reducible first
    | exact hk | assumption | intro _ | apply Kept.ite | apply Kept.ite2 | apply Kept.foldl | apply Kept.foldl2
    | apply stopTag_kept | apply releaseAcc_kept | apply reopen_kept | apply encodeFrame_kept | apply enterStaged_kept
    | apply wakeForwards_kept | (fail_if_no_progress refine Kept.lit ?_ rfl) | split | (apply Kept.snd; assumption)

theorem stage_kept {z t : State} (hk : Kept z t) (t' : Nat) : Kept z (State.stage t t') := by
  unfold State.stage
  dsimp only
  repeat' with_reducible first
    | exact hk | assumption | apply Kept.ite | apply Kept.ite2 | apply stageClose_kept | apply programPayload_kept
    | apply stopTag_kept | apply codePage_kept | apply putCodes_kept | apply setCode_kept | apply contribute_kept
    | apply enterStaged_kept | apply wakeForwards_kept | apply frameRead_kept | apply modFrame_kept
    | apply encodeFrame_kept | apply decodeFrame_kept | apply modTag_kept | exact KeptP.none | apply KeptP.some
    | apply KeptP.map | (fail_if_no_progress refine Kept.lit ?_ rfl) | split | (apply Kept.snd; assumption)
    | (apply KeptP.get; assumption)

theorem closeDone_kept {z t : State} (hk : Kept z t) (t' : Nat) (k : Nat) : Kept z (State.closeDone t t' k) := by
  unfold State.closeDone
  repeat' with_reducible first
    | exact hk | assumption | apply releaseAcc_kept | apply programSucceeds_kept

theorem programLost_kept {z t : State} (hk : Kept z t) (id : Nat) (st : Status) (info : Nat) (hold : Bool) : Kept z (State.programLost t id st info hold) := by
  unfold State.programLost
  dsimp only
  repeat' with_reducible first
    | exact hk | assumption | intro _ | apply Kept.ite | apply Kept.ite2 | apply Kept.foldl | apply Kept.foldl2
    | apply endTagWorks_kept | apply freeF_kept | apply programFails_kept | apply releaseAcc_kept | apply modTag_kept
    | apply commitTag_kept | apply addDeferred_kept | apply releaseOne_kept | apply endTag_kept | apply finish_kept
    | apply endWork_kept | (fail_if_no_progress refine Kept.lit ?_ rfl) | split | (apply Kept.snd; assumption)

theorem pageRecovered_kept {z t : State} (hk : Kept z t) (t' : Nat) : Kept z (State.pageRecovered t t') := by
  unfold State.pageRecovered
  repeat' with_reducible first
    | exact hk | assumption | apply Kept.ite | apply Kept.ite2 | apply modTag_kept | apply tagTo_kept
    | (fail_if_no_progress refine Kept.lit ?_ rfl) | split

theorem programWell_kept {z t : State} (hk : Kept z t) (id : Nat) : Kept z (State.programWell t id) := by
  unfold State.programWell
  dsimp only
  repeat' with_reducible first
    | exact hk | assumption | apply Kept.ite | apply Kept.ite2 | apply endWork_kept | apply programLost_kept
    | apply freeF_kept | apply programSucceeds_kept | apply modAcc_kept | apply count_kept | apply closeDone_kept
    | apply pageRecovered_kept | apply obtSweep_kept | apply modFrame_kept | apply dropDeferred_kept
    | apply modTag_kept | (fail_if_no_progress refine Kept.lit ?_ rfl) | split | (apply Kept.snd; assumption)

theorem dieEnd_kept {z t : State} (hk : Kept z t) (id : Nat) (bad : Bool) (status : Byte) : Kept z (State.dieEnd t id bad status) := by
  unfold State.dieEnd
  dsimp only
  repeat' with_reducible first
    | exact hk | assumption | apply Kept.ite | apply programLost_kept | apply programWell_kept | apply endWork_kept
    | apply finish_kept | (fail_if_no_progress refine Kept.lit ?_ rfl) | split | (apply Kept.snd; assumption)

theorem recoverReady_kept {z t : State} (hk : Kept z t) (id : Nat) : Kept z (State.recoverReady t id) := by
  unfold State.recoverReady
  repeat' with_reducible first
    | exact hk | assumption | apply Kept.ite | apply modWork_kept | (fail_if_no_progress refine Kept.lit ?_ rfl)
    | split

theorem noStepFailed_kept {z t : State} (hk : Kept z t) (n : Nat) : Kept z (State.noStepFailed t n) := by
  unfold State.noStepFailed
  repeat' with_reducible first
    | exact hk | assumption | apply setFld_kept

theorem resetDone_kept {z t : State} (hk : Kept z t) (n : Nat) (id : Nat) (w : Work) : Kept z (State.resetDone t n id w) := by
  unfold State.resetDone
  dsimp only
  repeat' with_reducible first
    | exact hk | assumption | intro _ | apply Kept.foldl | apply releaseGrants_kept | apply modLun_kept
    | apply endWork_kept | apply noStepFailed_kept | apply modChan_kept | (fail_if_no_progress refine Kept.lit ?_ rfl)
    | split | (apply Kept.snd; assumption)

theorem opEnds_kept {z t : State} (hk : Kept z t) (n : Nat) (l : Nat) (o : ArrayOp) (status : Byte) : Kept z (State.opEnds t n l o status) := by
  unfold State.opEnds
  dsimp only
  repeat' with_reducible first
    | exact hk | assumption | intro _ | apply Kept.ite | apply Kept.ite2 | apply Kept.foldl | apply Kept.foldl2
    | apply releaseOp_kept | apply modLun_kept | apply recoverReady_kept | apply modWork_kept | apply resetDone_kept
    | apply dieEnd_kept | (fail_if_no_progress refine Kept.lit ?_ rfl) | split | (apply Kept.snd; assumption)

theorem statusPoll_kept {z t : State} (hk : Kept z t) (n : Nat) (status : Byte) : Kept z (State.statusPoll t n status) := by
  unfold State.statusPoll
  dsimp only
  repeat' with_reducible first
    | exact hk | assumption | apply Kept.ite | apply traceJob_kept | apply busJob_kept | apply modChan_kept
    | apply modLun_kept | apply opEnds_kept | apply grantFrames_kept | (fail_if_no_progress refine Kept.lit ?_ rfl)
    | split | (apply Kept.snd; assumption)

theorem readTimeout_kept {z t : State} (hk : Kept z t) (id : Nat) (w : Work) : Kept z (State.readTimeout t id w) := by
  unfold State.readTimeout
  repeat' with_reducible first
    | exact hk | assumption | apply stopTag_kept | apply closeRead_kept | apply memberLost_kept
    | apply programLost_kept | apply abandonSurvey_kept | (fail_if_no_progress refine Kept.lit ?_ rfl) | split
    | (apply Kept.snd; assumption)

theorem readyTimeout_kept {z t : State} (hk : Kept z t) (n : Nat) (l : Nat) : Kept z (State.readyTimeout t n l) := by
  unfold State.readyTimeout
  dsimp only
  repeat' with_reducible first
    | exact hk | assumption | intro _ | apply Kept.ite | apply Kept.foldl | apply readTimeout_kept
    | apply programLost_kept | apply stopTag_kept | apply endWork_kept | apply finish_kept | apply modLun_kept
    | apply attn_kept | apply grantFrames_kept | (fail_if_no_progress refine Kept.lit ?_ rfl) | split
    | (apply Kept.snd; assumption)

theorem confirmTag_kept {z t : State} (hk : Kept z t) (t' : Nat) : Kept z (State.confirmTag t t') := by
  unfold State.confirmTag
  dsimp only
  repeat' with_reducible first
    | exact hk | assumption | apply Kept.ite | apply modTag_kept | apply tagTo_kept | apply tooLate_kept
    | (fail_if_no_progress refine Kept.lit ?_ rfl) | split

theorem opFrom_kept {z t : State} (hk : Kept z t) (n : Nat) (l : Nat) : Kept z (State.opFrom t n l) := by
  unfold State.opFrom
  repeat' with_reducible first
    | exact hk | assumption | apply modLun_kept | (fail_if_no_progress refine Kept.lit ?_ rfl)

theorem routineOp_kept {z t : State} (hk : Kept z t) (n : Nat) (id : Nat) (l : Nat) : Kept z (State.routineOp t n id l) := by
  unfold State.routineOp
  repeat' with_reducible first
    | exact hk | assumption | apply Kept.ite | apply modWork_kept | apply modLun_kept
    | (fail_if_no_progress refine Kept.lit ?_ rfl) | split

theorem confirmWork_kept {z t : State} (hk : Kept z t) (n : Nat) (id : Nat) : Kept z (State.confirmWork t n id) := by
  unfold State.confirmWork
  dsimp only
  repeat' with_reducible first
    | exact hk | assumption | apply Kept.ite | apply traceMsg_kept | apply modChan_kept | apply routineOp_kept
    | apply opFrom_kept | apply modWork_kept | apply count_kept | apply ledgerErase_kept | apply confirmTag_kept
    | (fail_if_no_progress refine Kept.lit ?_ rfl) | split | (apply Kept.snd; assumption)

theorem resultMsg_kept {z t : State} (hk : Kept z t) (n : Nat) (id : Nat) (word : Word) : Kept z (State.resultMsg t n id word) := by
  unfold State.resultMsg
  repeat' with_reducible first
    | exact hk | assumption | apply Kept.ite | apply traceMsg_kept | apply modTag_kept
    | (fail_if_no_progress refine Kept.lit ?_ rfl) | split | (apply Kept.snd; assumption)

theorem failMsg_kept {z t : State} (hk : Kept z t) (n : Nat) (id : Nat) (status : Byte) : Kept z (State.failMsg t n id status) := by
  unfold State.failMsg
  dsimp only
  repeat' with_reducible first
    | exact hk | assumption | apply Kept.ite | apply traceMsg_kept | apply dieEnd_kept | apply modChan_kept
    | (fail_if_no_progress refine Kept.lit ?_ rfl) | split | (apply Kept.snd; assumption)

theorem pausedMsg_kept {z t : State} (hk : Kept z t) (n : Nat) (id : Nat) (col : Nat) : Kept z (State.pausedMsg t n id col) := by
  unfold State.pausedMsg
  dsimp only
  repeat' with_reducible first
    | exact hk | assumption | apply Kept.ite | apply Kept.ite2 | apply traceMsg_kept | apply busEnds_kept
    | apply abortIfPending_kept | apply boundary_kept | apply modChan_kept | apply modWork_kept
    | (fail_if_no_progress refine Kept.lit ?_ rfl) | split | (apply Kept.snd; assumption)

theorem pushMsg_kept {z t : State} (hk : Kept z t) (n : Nat) (entry : BitVec 6) (word : Word) (isEnd : Bool) : Kept z (State.pushMsg t n entry word isEnd) := by
  unfold State.pushMsg
  repeat' with_reducible first
    | exact hk | assumption | apply Kept.ite | apply store_kept | apply traceMsg_kept | apply modChan_kept | split

theorem resetTag_kept {z t : State} (hk : Kept z t) (t' : Nat) : Kept z (State.resetTag t t') := by
  unfold State.resetTag
  dsimp only
  repeat' with_reducible first
    | exact hk | assumption | apply Kept.ite | apply Kept.ite2 | apply programLost_kept | apply endTagWorks_kept
    | apply programFails_kept | apply abortNow_kept | apply modTag_kept | apply finish_kept
    | (fail_if_no_progress refine Kept.lit ?_ rfl) | split | (apply Kept.snd; assumption)

theorem resetQ_kept {z t : State} (hk : Kept z t) (id : Nat) (w : Work) : Kept z (State.resetQ t id w) := by
  unfold State.resetQ
  repeat' with_reducible first
    | exact hk | assumption | apply Kept.ite | apply recoverReady_kept | apply modWork_kept
    | (fail_if_no_progress refine Kept.lit ?_ rfl) | split

theorem targetReset_kept {z t : State} (hk : Kept z t) (n : Nat) : Kept z (State.targetReset t n) := by
  unfold State.targetReset
  dsimp only
  repeat' with_reducible first
    | exact hk | assumption | intro _ | apply Kept.ite | apply Kept.ite2 | apply Kept.foldl | apply Kept.foldl2
    | apply traceJob_kept | apply busJob_kept | apply issueTag_kept | apply resetTag_kept | apply resetQ_kept
    | apply modWork_kept | apply modLun_kept | (fail_if_no_progress refine Kept.lit ?_ rfl) | split
    | (apply Kept.snd; assumption)

theorem programOn_kept {z t : State} (hk : Kept z t) (n : Nat) (quarters : Nat) (id : Nat) (w : Work) : Kept z (State.programOn t n quarters id w) := by
  unfold State.programOn
  dsimp only
  repeat' with_reducible first
    | exact hk | assumption | apply Kept.ite | apply Kept.ite2 | apply programBytes_kept | apply poisonProgram_kept
    | apply moveData_kept | split

theorem programRow_kept {z t : State} (hk : Kept z t) (n : Nat) (resume : Bool) (quarters : Nat) : Kept z (State.programRow t n resume quarters) := by
  unfold State.programRow
  repeat' with_reducible first
    | exact hk | assumption | apply Kept.ite | apply pausedMsg_kept | apply programOn_kept | apply startData_kept
    | (fail_if_no_progress refine Kept.lit ?_ rfl) | split | (apply Kept.snd; assumption)

end Sys2Proof.Machine
end

