-- ==== Sys2Proof/Laws/Keeps/Trims.lean ====
section
/-! SUPPORT. What the operations of `Machine/Trims.lean` keep. -/

namespace Sys2Proof.Machine
open Sys2Proof

theorem calReqError_kept {z t : State} (hk : Kept z t) (n : Nat) : Kept z (State.calReqError t n) := by
  unfold State.calReqError
  repeat' with_reducible first
    | exact hk | assumption | apply setBit_kept

theorem trimTarget_kept {z t : State} (hk : Kept z t) (n : Nat) (v : Word) : Kept z (State.trimTarget t n v) := by
  unfold State.trimTarget
  repeat' with_reducible first
    | exact hk | assumption | intro _ | apply Kept.ite | apply Kept.ite2 | apply Kept.foldl | apply Kept.foldl2
    | apply calReqError_kept | apply modChan_kept | split

theorem calStart_kept {z t : State} (hk : Kept z t) (n : Nat) (apply : Bool) : Kept z (State.calStart t n apply) := by
  unfold State.calStart
  repeat' with_reducible first
    | exact hk | assumption | apply Kept.ite | apply calQueue_kept | apply calReqError_kept | split

theorem calTake_kept {z t : State} (hk : Kept z t) : Kept z (State.calTake t) := by
  unfold State.calTake
  dsimp only
  repeat' with_reducible first
    | exact hk | assumption | apply modChan_kept | apply tagTo_kept | (fail_if_no_progress refine Kept.lit ?_ rfl)
    | split | (apply Kept.snd; assumption)

theorem calEnd_kept {z t : State} (hk : Kept z t) (n : Nat) (cause : Nat) (runs : Nat) (res : Option (List (BitVec 7))) : Kept z (State.calEnd t n cause runs res) := by
  unfold State.calEnd
  dsimp only
  repeat' with_reducible first
    | exact hk | assumption | apply Kept.ite | apply Kept.ite2 | apply setFld_kept | apply setReg_kept
    | apply setArrBit_kept | apply addFld_kept | apply modChan_kept | apply raise_kept | apply finish_kept
    | apply calNext_kept | (fail_if_no_progress refine Kept.lit ?_ rfl) | split | (apply Kept.snd; assumption)

theorem calSettling_kept {z t : State} (hk : Kept z t) : Kept z (State.calSettling t) := by
  unfold State.calSettling
  dsimp only
  repeat' with_reducible first
    | exact hk | assumption | apply Kept.ite | apply modChan_kept | (fail_if_no_progress refine Kept.lit ?_ rfl)
    | split | (apply Kept.snd; assumption)

theorem calRun_kept {z t : State} (hk : Kept z t) (report : CalReport) : Kept z (State.calRun t report) := by
  unfold State.calRun
  dsimp only
  repeat' with_reducible first
    | exact hk | assumption | apply Kept.ite | apply Kept.ite2 | apply calEnd_kept | apply modChan_kept
    | (fail_if_no_progress refine Kept.lit ?_ rfl) | split | (apply Kept.snd; assumption)

theorem execCalStart_kept {z t : State} (hk : Kept z t) (ch : Nat) (apply : Bool) : KeptX z (execCalStart ch apply t) := by
  unfold execCalStart
  repeat' with_reducible first
    | exact hk | assumption | apply Kept.ite | apply holdRequest_kept | apply calStart_kept | apply KeptX.next | split

theorem execTrimImpTgtWrite_kept {z t : State} (hk : Kept z t) (ch : Nat) (val : Word) : KeptX z (execTrimImpTgtWrite ch val t) := by
  unfold execTrimImpTgtWrite
  repeat' with_reducible first
    | exact hk | assumption | apply Kept.ite | apply holdRequest_kept | apply trimTarget_kept | apply KeptX.next
    | split

end Sys2Proof.Machine
end

