-- ==== Sys2Proof/Laws/Keeps/Train.lean ====
section
/-! SUPPORT. What the operations of `Machine/Train.lean` keep. -/

namespace Sys2Proof.Machine
open Sys2Proof

theorem resetChanPage_kept {z t : State} (hk : Kept z t) (n : Nat) : Kept z (State.resetChanPage t n) := by
  unfold State.resetChanPage
  repeat' with_reducible first
    | exact hk | assumption | apply setBit_kept | apply setFld_kept

theorem testReset_kept {z t : State} (hk : Kept z t) (n : Nat) : Kept z (State.testReset t n) := by
  unfold State.testReset
  repeat' with_reducible first
    | exact hk | assumption | apply Kept.ite | (fail_if_no_progress refine Kept.lit ?_ rfl) | split

theorem enterReset_kept {z t : State} (hk : Kept z t) (n : Nat) : Kept z (State.enterReset t n) := by
  unfold State.enterReset
  dsimp only
  repeat' with_reducible first
    | exact hk | assumption | intro _ | apply Kept.foldl | apply testReset_kept | apply stagingAbandon_kept
    | apply resetChanPage_kept | apply modChan_kept | apply modLun_kept | (fail_if_no_progress refine Kept.lit ?_ rfl)

theorem leaveReset_kept {z t : State} (hk : Kept z t) (n : Nat) : Kept z (State.leaveReset t n) := by
  unfold State.leaveReset
  repeat' with_reducible first
    | exact hk | assumption | apply Kept.ite | apply modChan_kept | apply runEntry_kept
    | (fail_if_no_progress refine Kept.lit ?_ rfl) | split

theorem recTo_kept {z t : State} (hk : Kept z t) (n : Nat) (r : RecStep) (marked : Nat) : Kept z (State.recTo t n r marked) := by
  unfold State.recTo
  repeat' with_reducible first
    | exact hk | assumption | apply Kept.ite | apply modChan_kept | apply traceRec_kept
    | (fail_if_no_progress refine Kept.lit ?_ rfl) | split

theorem chanReqError_kept {z t : State} (hk : Kept z t) (n : Nat) : Kept z (State.chanReqError t n) := by
  unfold State.chanReqError
  repeat' with_reducible first
    | exact hk | assumption | apply setBit_kept

theorem ownFeatures_kept {z t : State} (hk : Kept z t) (n : Nat) (l : List (BitVec 8)) : Kept z (State.ownFeatures t n l) := by
  unfold State.ownFeatures
  dsimp only
  repeat' with_reducible first
    | exact hk | assumption | intro _ | apply Kept.ite | apply Kept.foldl | apply traceJob_kept | apply busJob_kept
    | split

theorem stepTwo_kept {z t : State} (hk : Kept z t) (n : Nat) : Kept z (State.stepTwo t n) := by
  unfold State.stepTwo
  repeat' with_reducible first
    | exact hk | assumption | apply ownFeatures_kept | apply enterReset_kept

theorem startTrain_kept {z t : State} (hk : Kept z t) (n : Nat) : Kept z (State.startTrain t n) := by
  unfold State.startTrain
  dsimp only
  repeat' with_reducible first
    | exact hk | assumption | apply Kept.ite | apply traceJob_kept | apply busJob_kept | split

theorem beginTrain_kept {z t : State} (hk : Kept z t) (n : Nat) (rate : Nat) (mode : Nat) (why : TrainWhy) (relock : Bool) : Kept z (State.beginTrain t n rate mode why relock) := by
  unfold State.beginTrain
  dsimp only
  repeat' with_reducible first
    | exact hk | assumption | apply Kept.ite | apply modChan_kept | apply stepTwo_kept | apply startTrain_kept | split

theorem askReset_kept {z t : State} (hk : Kept z t) (n : Nat) (t' : Nat) : Kept z (State.askReset t n t') := by
  unfold State.askReset
  dsimp only
  repeat' with_reducible first
    | exact hk | assumption | apply tick_kept | apply addWork_kept | apply askAdmission_kept
    | (fail_if_no_progress refine Kept.lit ?_ rfl)

theorem dropResets_kept {z t : State} (hk : Kept z t) (n : Nat) : Kept z (State.dropResets t n) := by
  unfold State.dropResets
  dsimp only
  repeat' with_reducible first
    | exact hk | assumption | intro _ | apply Kept.ite | apply Kept.ite2 | apply Kept.foldl | apply Kept.foldl2
    | apply releaseGrants_kept | apply endWork_kept | (fail_if_no_progress refine Kept.lit ?_ rfl) | split
    | (apply Kept.snd; assumption)

theorem sendReset_kept {z t : State} (hk : Kept z t) (n : Nat) : Kept z (State.sendReset t n) := by
  unfold State.sendReset
  dsimp only
  repeat' with_reducible first
    | exact hk | assumption | intro _ | apply Kept.ite | apply Kept.ite2 | apply Kept.foldl | apply Kept.foldl2
    | apply traceJob_kept | apply busJob_kept | apply modWork_kept | apply modLun_kept
    | (fail_if_no_progress refine Kept.lit ?_ rfl) | split | (apply Kept.snd; assumption)

theorem retrainNow_kept {z t : State} (hk : Kept z t) (n : Nat) (why : TrainWhy) (step2 : Bool) : Kept z (State.retrainNow t n why step2) := by
  unfold State.retrainNow
  dsimp only
  repeat' with_reducible first
    | exact hk | assumption | apply noStepFailed_kept | apply beginTrain_kept

theorem stepFailed_kept {z t : State} (hk : Kept z t) (n : Nat) (step : Nat) (target : Nat) : Kept z (State.stepFailed t n step target) := by
  unfold State.stepFailed
  repeat' with_reducible first
    | exact hk | assumption | apply setFld_kept

theorem bringUp_kept {z t : State} (hk : Kept z t) (n : Nat) (why : TrainWhy) : Kept z (State.bringUp t n why) := by
  unfold State.bringUp
  dsimp only
  repeat' with_reducible first
    | exact hk | assumption | apply Kept.ite | apply noStepFailed_kept | apply beginTrain_kept | apply stepFailed_kept
    | apply attn_kept | split

theorem discover_kept {z t : State} (hk : Kept z t) (n : Nat) : Kept z (State.discover t n) := by
  unfold State.discover
  dsimp only
  repeat' with_reducible first
    | exact hk | assumption | apply Kept.ite | apply store_kept | apply chanReqError_kept | apply modChan_kept
    | apply askReset_kept | (fail_if_no_progress refine Kept.lit ?_ rfl) | split

theorem setRate_kept {z t : State} (hk : Kept z t) (n : Nat) : Kept z (State.setRate t n) := by
  unfold State.setRate
  dsimp only
  repeat' with_reducible first
    | exact hk | assumption | apply Kept.ite | apply store_kept | apply chanReqError_kept | apply bringUp_kept | split

theorem retrain_kept {z t : State} (hk : Kept z t) (n : Nat) : Kept z (State.retrain t n) := by
  unfold State.retrain
  dsimp only
  repeat' with_reducible first
    | exact hk | assumption | apply Kept.ite | apply store_kept | apply chanReqError_kept | apply retrainNow_kept
    | split

theorem identify_kept {z t : State} (hk : Kept z t) (n : Nat) (found : List TargetReport) : Kept z (State.identify t n found) := by
  unfold State.identify
  dsimp only
  repeat' with_reducible first
    | exact hk | assumption | intro _ | apply Kept.ite | apply Kept.foldl | apply traceJob_kept | apply busJob_kept
    | apply dataOut_kept | (fail_if_no_progress refine Kept.lit ?_ rfl) | split | (apply Kept.snd; assumption)

theorem discovered_kept {z t : State} (hk : Kept z t) (n : Nat) (found : List TargetReport) : Kept z (State.discovered t n found) := by
  unfold State.discovered
  dsimp only
  repeat' with_reducible first
    | exact hk | assumption | intro _ | apply Kept.ite | apply Kept.ite2 | apply Kept.foldl | apply Kept.foldl2
    | apply identify_kept | apply dropResets_kept | apply setReg_kept | apply attn_kept | apply modChan_kept
    | apply chanReqError_kept | apply bringUp_kept | (fail_if_no_progress refine Kept.lit ?_ rfl) | split
    | (apply Kept.snd; assumption)

theorem exhaust_kept {z t : State} (hk : Kept z t) (t' : Nat) (n : Nat) (info : Nat) : Kept z (State.exhaust t t' n info) := by
  unfold State.exhaust
  dsimp only
  repeat' with_reducible first
    | exact hk | assumption | apply Kept.ite | apply raise_kept | apply programLost_kept | apply endTagWorks_kept
    | apply programFails_kept | apply endTag_kept | apply stopTag_kept | (fail_if_no_progress refine Kept.lit ?_ rfl)
    | split | (apply Kept.snd; assumption)

theorem notRestored_kept {z t : State} (hk : Kept z t) (n : Nat) (own : Option Nat) : Kept z (State.notRestored t n own) := by
  unfold State.notRestored
  dsimp only
  repeat' with_reducible first
    | exact hk | assumption | intro _ | apply Kept.foldl | apply Kept.foldl2 | apply exhaust_kept
    | apply memberLost_kept | apply closeRead_kept | apply raise_kept | apply stopTag_kept | apply recTo_kept
    | apply modChan_kept | (fail_if_no_progress refine Kept.lit ?_ rfl) | split | (apply Kept.snd; assumption)

theorem trainLost_kept {z t : State} (hk : Kept z t) (n : Nat) : Kept z (State.trainLost t n) := by
  unfold State.trainLost
  dsimp only
  repeat' with_reducible first
    | exact hk | assumption | apply Kept.ite | apply dropResets_kept | apply leaveReset_kept | apply busEnds_kept
    | apply modChan_kept | apply setFld_kept | apply attn_kept | apply targetReset_kept | apply notRestored_kept
    | (fail_if_no_progress refine Kept.lit ?_ rfl) | split | (apply Kept.snd; assumption)

theorem replayTag_kept {z t : State} (hk : Kept z t) (t' : Nat) : Kept z (State.replayTag t t') := by
  unfold State.replayTag
  dsimp only
  repeat' with_reducible first
    | exact hk | assumption | apply Kept.ite | apply modTag_kept | apply stopTag_kept | apply tagTo_kept
    | (fail_if_no_progress refine Kept.lit ?_ rfl) | split

theorem rungTrained_kept {z t : State} (hk : Kept z t) (n : Nat) (re : Nat) (we : Nat) (eq : Nat) (vref : BitVec 7) (rd : List (BitVec 7)) (wd : List (BitVec 7)) : Kept z (State.rungTrained t n re we eq vref rd wd) := by
  unfold State.rungTrained
  dsimp only
  repeat' with_reducible first
    | exact hk | assumption | intro _ | apply Kept.ite | apply Kept.ite2 | apply Kept.foldl | apply Kept.foldl2
    | apply setReg_kept | apply modChan_kept | apply setFld_kept | apply attn_kept | apply busEnds_kept
    | apply ownFeatures_kept | apply targetReset_kept | apply finish_kept | apply recTo_kept | apply replayTag_kept
    | (fail_if_no_progress refine Kept.lit ?_ rfl) | split | (apply Kept.snd; assumption)

theorem trained_kept {z t : State} (hk : Kept z t) (n : Nat) (report : TrainReport) : Kept z (State.trained t n report) := by
  unfold State.trained
  dsimp only
  repeat' with_reducible first
    | exact hk | assumption | apply Kept.ite | apply store_kept | apply stepFailed_kept | apply attn_kept
    | apply beginTrain_kept | apply setRate_kept | apply trainLost_kept | apply rungTrained_kept
    | (fail_if_no_progress refine Kept.lit ?_ rfl) | split | (apply Kept.snd; assumption)

theorem mcInvalid_kept {z t : State} (hk : Kept z t) (cause : Nat) (index : Nat) : Kept z (State.mcInvalid t cause index) := by
  unfold State.mcInvalid
  dsimp only
  repeat' with_reducible first
    | exact hk | assumption | apply setFld_kept | apply setReg_kept | apply raise_kept
    | (fail_if_no_progress refine Kept.lit ?_ rfl)

theorem startLoad_kept {z t : State} (hk : Kept z t) (n : Nat) : Kept z (State.startLoad t n) := by
  unfold State.startLoad
  repeat' with_reducible first
    | exact hk | assumption | apply Kept.ite | apply modChan_kept | apply store_kept | apply enterReset_kept
    | (fail_if_no_progress refine Kept.lit ?_ rfl) | split

theorem mcLoad_kept {z t : State} (hk : Kept z t) (n : Nat) : Kept z (State.mcLoad t n) := by
  unfold State.mcLoad
  repeat' with_reducible first
    | exact hk | assumption | apply Kept.ite | apply startLoad_kept | apply setBit_kept | split

theorem loadAll_kept {z t : State} (hk : Kept z t) : Kept z (State.loadAll t) := by
  unfold State.loadAll
  dsimp only
  repeat' with_reducible first
    | exact hk | assumption | intro _ | apply Kept.ite | apply Kept.foldl | apply setBit_kept | apply startLoad_kept
    | apply setFld_kept | split

theorem loadEnd_kept {z t : State} (hk : Kept z t) (n : Nat) : Kept z (State.loadEnd t n) := by
  unfold State.loadEnd
  dsimp only
  repeat' with_reducible first
    | exact hk | assumption | apply Kept.ite | apply Kept.ite2 | apply store_kept | apply useEntry_kept
    | apply modChan_kept | apply leaveReset_kept | apply mcInvalid_kept | apply setFld_kept | apply raise_kept
    | apply retrainNow_kept | (fail_if_no_progress refine Kept.lit ?_ rfl) | split

theorem refresh_kept {z t : State} (hk : Kept z t) (n : Nat) : Kept z (State.refresh t n) := by
  unfold State.refresh
  dsimp only
  repeat' with_reducible first
    | exact hk | assumption | apply Kept.ite | apply Kept.ite2 | apply recTo_kept | apply raise_kept
    | apply useEntry_kept | apply modChan_kept | apply store_kept | apply mcInvalid_kept | apply addFld_kept
    | apply setFld_kept | (fail_if_no_progress refine Kept.lit ?_ rfl) | split

theorem lunAtFault_kept {z t : State} (hk : Kept z t) (key : Nat) (glitch : Bool) : Kept z (State.lunAtFault t key glitch) := by
  unfold State.lunAtFault
  dsimp only
  repeat' with_reducible first
    | exact hk | assumption | apply Kept.ite | apply Kept.ite2 | apply grantsAtDie_kept | apply modLun_kept
    | (fail_if_no_progress refine Kept.lit ?_ rfl) | split | (apply Kept.snd; assumption)

theorem faultTag_kept {z t : State} (hk : Kept z t) (t' : Nat) (n : Nat) (kind : Nat) : Kept z (State.faultTag t t' n kind) := by
  unfold State.faultTag
  dsimp only
  repeat' with_reducible first
    | exact hk | assumption | apply Kept.ite | apply Kept.ite2 | apply modTag_kept | apply exhaust_kept
    | apply tagTo_kept | apply tooLate_kept | apply abortIfPending_kept | (fail_if_no_progress refine Kept.lit ?_ rfl)
    | split | (apply Kept.snd; assumption)

theorem faultReads_kept {z t : State} (hk : Kept z t) (n : Nat) (kind : Nat) : Kept z (State.faultReads t n kind) := by
  unfold State.faultReads
  repeat' with_reducible first
    | exact hk | assumption | intro _ | apply Kept.foldl | apply Kept.foldl2 | apply memberLost_kept
    | apply closeRead_kept | apply raise_kept | apply stopTag_kept | (fail_if_no_progress refine Kept.lit ?_ rfl)
    | split | (apply Kept.snd; assumption)

theorem worksAtFault_kept {z t : State} (hk : Kept z t) (n : Nat) : Kept z (State.worksAtFault t n) := by
  unfold State.worksAtFault
  dsimp only
  repeat' with_reducible first
    | exact hk | assumption | apply Kept.ite | apply Kept.ite2 | (fail_if_no_progress refine Kept.lit ?_ rfl) | split
    | (apply Kept.snd; assumption)

theorem fault_kept {z t : State} (hk : Kept z t) (n : Nat) (kind : Nat) (addr : Nat) : Kept z (State.fault t n kind addr) := by
  unfold State.fault
  dsimp only
  repeat' with_reducible first
    | exact hk | assumption | intro _ | apply Kept.ite | apply Kept.ite2 | apply Kept.foldl | apply Kept.foldl2
    | apply addFld_kept | apply setFld_kept | apply abandonSurvey_kept | apply dropResets_kept
    | apply targetReset_kept | apply modChan_kept | apply store_kept | apply enterReset_kept | apply faultTag_kept
    | apply recTo_kept | apply addWork_kept | apply worksAtFault_kept | apply lunAtFault_kept | apply faultReads_kept
    | apply raise_kept | apply refresh_kept | (fail_if_no_progress refine Kept.lit ?_ rfl) | split
    | (apply Kept.snd; assumption)

theorem resetEnd_kept {z t : State} (hk : Kept z t) (n : Nat) : Kept z (State.resetEnd t n) := by
  unfold State.resetEnd
  dsimp only
  repeat' with_reducible first
    | exact hk | assumption | intro _ | apply Kept.ite | apply Kept.foldl | apply fault_kept | apply store_kept
    | apply leaveReset_kept | apply recTo_kept | apply retrain_kept | apply noStepFailed_kept | apply modChan_kept
    | apply askReset_kept | apply retrainNow_kept | (fail_if_no_progress refine Kept.lit ?_ rfl) | split

theorem replayEnd_kept {z t : State} (hk : Kept z t) (n : Nat) : Kept z (State.replayEnd t n) := by
  unfold State.replayEnd
  dsimp only
  repeat' with_reducible first
    | exact hk | assumption | apply Kept.ite | apply Kept.ite2 | apply recTo_kept | apply modChan_kept
    | apply raise_kept | (fail_if_no_progress refine Kept.lit ?_ rfl) | split

theorem readBack_kept {z t : State} (hk : Kept z t) (id : Nat) : Kept z (State.readBack t id) := by
  unfold State.readBack
  dsimp only
  repeat' with_reducible first
    | exact hk | assumption | apply Kept.ite | apply Kept.ite2 | apply modWork_kept | apply programWell_kept
    | apply deltas_kept | apply raise_kept | apply programLost_kept | (fail_if_no_progress refine Kept.lit ?_ rfl)
    | split | (apply Kept.snd; assumption)

theorem readPacketLost_kept {z t : State} (hk : Kept z t) (id : Nat) (w : Work) (again : Bool) : Kept z (State.readPacketLost t id w again) := by
  unfold State.readPacketLost
  dsimp only
  repeat' with_reducible first
    | exact hk | assumption | apply Kept.ite | apply readBack_kept | apply programLost_kept | apply stopTag_kept
    | apply modChan_kept | apply modWork_kept | apply tagTo_kept | (fail_if_no_progress refine Kept.lit ?_ rfl)
    | split | (apply Kept.snd; assumption)

theorem programPacketLost_kept {z t : State} (hk : Kept z t) (id : Nat) (w : Work) : Kept z (State.programPacketLost t id w) := by
  unfold State.programPacketLost
  dsimp only
  repeat' with_reducible first
    | exact hk | assumption | apply Kept.ite | apply modLun_kept | apply modChan_kept | apply modWork_kept
    | (fail_if_no_progress refine Kept.lit ?_ rfl) | split | (apply Kept.snd; assumption)

theorem packetLost_kept {z t : State} (hk : Kept z t) (id : Nat) (ingress : Bool) : Kept z (State.packetLost t id ingress) := by
  unfold State.packetLost
  dsimp only
  repeat' with_reducible first
    | exact hk | assumption | apply Kept.ite | apply modTag_kept | apply readPacketLost_kept
    | apply poisonProgram_kept | apply programPacketLost_kept | apply modChan_kept | apply stopTag_kept
    | (fail_if_no_progress refine Kept.lit ?_ rfl) | split | (apply Kept.snd; assumption)

theorem fifoMismatch_kept {z t : State} (hk : Kept z t) (n : Nat) (f : FifoId) : Kept z (State.fifoMismatch t n f) := by
  unfold State.fifoMismatch
  dsimp only
  repeat' with_reducible first
    | exact hk | assumption | apply addFld_kept | apply setBit_kept | apply raise_kept | apply modChan_kept
    | apply packetLost_kept | (fail_if_no_progress refine Kept.lit ?_ rfl) | split | (apply Kept.snd; assumption)

theorem trackWindow_kept {z t : State} (hk : Kept z t) (n : Nat) (late : Option Bool) : Kept z (State.trackWindow t n late) := by
  unfold State.trackWindow
  dsimp only
  repeat' with_reducible first
    | exact hk | assumption | apply Kept.ite | apply modChan_kept | apply setFld_kept | apply addFld_kept
    | apply fault_kept | (fail_if_no_progress refine Kept.lit ?_ rfl) | split | (apply Kept.snd; assumption)

theorem faultRequest_kept {z t : State} (hk : Kept z t) (n : Nat) : Kept z (State.faultRequest t n) := by
  unfold State.faultRequest
  repeat' with_reducible first
    | exact hk | assumption | apply Kept.ite | apply fault_kept | apply setBit_kept | split

theorem execDiscover_kept {z t : State} (hk : Kept z t) (ch : Nat) : KeptX z (execDiscover ch t) := by
  unfold execDiscover
  repeat' with_reducible first
    | exact hk | assumption | apply Kept.ite | apply holdRequest_kept | apply discover_kept | apply KeptX.next | split

theorem execSetRate_kept {z t : State} (hk : Kept z t) (ch : Nat) : KeptX z (execSetRate ch t) := by
  unfold execSetRate
  repeat' with_reducible first
    | exact hk | assumption | apply Kept.ite | apply holdRequest_kept | apply setRate_kept | apply KeptX.next | split

theorem execRetrain_kept {z t : State} (hk : Kept z t) (ch : Nat) : KeptX z (execRetrain ch t) := by
  unfold execRetrain
  repeat' with_reducible first
    | exact hk | assumption | apply Kept.ite | apply holdRequest_kept | apply retrain_kept | apply KeptX.next | split

theorem resetsPolled_kept {z t : State} (hk : Kept z t) (n : Nat) (out : Bool) : Kept z (State.resetsPolled t n out) := by
  unfold State.resetsPolled
  repeat' with_reducible first
    | exact hk | assumption | apply Kept.ite | apply stepTwo_kept | split

theorem execLoadAll_kept {z t : State} (hk : Kept z t) : KeptX z (execLoadAll t) := by
  unfold execLoadAll
  repeat' with_reducible first
    | exact hk | assumption | apply Kept.ite | apply holdRequest_kept | apply loadAll_kept | apply KeptX.next | split

theorem execMcLoad_kept {z t : State} (hk : Kept z t) (ch : Nat) : KeptX z (execMcLoad ch t) := by
  unfold execMcLoad
  repeat' with_reducible first
    | exact hk | assumption | apply Kept.ite | apply holdRequest_kept | apply mcLoad_kept | apply KeptX.next | split

theorem execReplayFaultRequest_kept {z t : State} (hk : Kept z t) (ch : Nat) : KeptX z (execReplayFaultRequest ch t) := by
  unfold execReplayFaultRequest
  repeat' with_reducible first
    | exact hk | assumption | apply Kept.ite | apply holdRequest_kept | apply faultRequest_kept | apply KeptX.next
    | split

end Sys2Proof.Machine
end

