-- ==== Sys2Proof/Laws/Keeps/Routine.lean ====
section
/-! SUPPORT. What the operations of `Machine/Routine.lean` keep. -/

namespace Sys2Proof.Machine
open Sys2Proof

theorem storeCapture_kept {z t : State} (hk : Kept z t) (n : Nat) (id : Nat) (t' : Nat) (w : Work) : Kept z (State.storeCapture t n id t' w) := by
  unfold State.storeCapture
  dsimp only
  repeat' with_reducible first
    | exact hk | assumption | apply Kept.ite | apply frameWrite_kept | apply modWork_kept | apply modChan_kept
    | (fail_if_no_progress refine Kept.lit ?_ rfl) | split | (apply Kept.snd; assumption)

theorem routinePauses_kept {z t : State} (hk : Kept z t) (n : Nat) (id : Nat) (t' : Nat) (w : Work) : Kept z (State.routinePauses t n id t' w) := by
  unfold State.routinePauses
  dsimp only
  repeat' with_reducible first
    | exact hk | assumption | apply storeCapture_kept | apply modWork_kept | apply modChan_kept | apply busEnds_kept
    | (fail_if_no_progress refine Kept.lit ?_ rfl)

theorem routineAbandoned_kept {z t : State} (hk : Kept z t) (t' : Nat) : Kept z (State.routineAbandoned t t') := by
  unfold State.routineAbandoned
  dsimp only
  repeat' with_reducible first
    | exact hk | assumption | apply Kept.ite | apply Kept.ite2 | apply abortIfPending_kept | apply resetTag_kept
    | split

theorem routineEnds_kept {z t : State} (hk : Kept z t) (n : Nat) (id : Nat) (t' : Nat) (w : Work) : Kept z (State.routineEnds t n id t' w) := by
  unfold State.routineEnds
  dsimp only
  repeat' with_reducible first
    | exact hk | assumption | apply Kept.ite | apply storeCapture_kept | apply busEnds_kept | apply endWork_kept
    | apply finish_kept | apply modTag_kept | apply tagTo_kept | (fail_if_no_progress refine Kept.lit ?_ rfl) | split
    | (apply Kept.snd; assumption)

theorem routineRan_kept {z t : State} (hk : Kept z t) (n : Nat) (id : Nat) (t' : Nat) (w : Work) (e : Nat) (q : Seq) : Kept z (State.routineRan t n id t' w e q) := by
  unfold State.routineRan
  dsimp only
  repeat' with_reducible first
    | exact hk | assumption | intro _ | apply Kept.ite | apply Kept.ite2 | apply Kept.foldl | apply Kept.foldl2
    | apply traceMsg_kept | apply modChan_kept | apply modWork_kept | apply routineOp_kept | apply confirmTag_kept
    | apply modTag_kept | apply suspendedLun_kept | apply fault_kept | apply routineAbandoned_kept
    | apply routinePauses_kept | apply routineEnds_kept | (fail_if_no_progress refine Kept.lit ?_ rfl) | split
    | (apply Kept.snd; assumption)

theorem routineOn_kept {z t : State} (hk : Kept z t) (n : Nat) (id : Nat) (t' : Nat) (w : Work) (input : List Byte) : Kept z (State.routineOn t n id t' w input) := by
  unfold State.routineOn
  dsimp only
  repeat' with_reducible first
    | exact hk | assumption | apply routineRan_kept | (fail_if_no_progress refine Kept.lit ?_ rfl) | split
    | (apply Kept.snd; assumption)

theorem routineStart_kept {z t : State} (hk : Kept z t) (n : Nat) (id : Nat) (t' : Nat) (w : Work) : Kept z (State.routineStart t n id t' w) := by
  unfold State.routineStart
  dsimp only
  repeat' with_reducible first
    | exact hk | assumption | apply Kept.ite | apply Kept.ite2 | apply frameRead_kept | apply stopTag_kept
    | apply traceJob_kept | apply issueTag_kept | apply busJob_kept | apply modChan_kept
    | (fail_if_no_progress refine Kept.lit ?_ rfl) | split | (apply Kept.snd; assumption)

theorem getFeatureJob_kept {z t : State} (hk : Kept z t) (n : Nat) (id : Nat) (t' : Nat) (w : Work) (input : List Byte) : Kept z (State.getFeatureJob t n id t' w input) := by
  unfold State.getFeatureJob
  dsimp only
  repeat' with_reducible first
    | exact hk | assumption | apply Kept.ite | apply traceJob_kept | apply issueTag_kept | apply busJob_kept
    | apply dataOut_kept | apply endWork_kept | apply finish_kept | split

theorem setFeatureJob_kept {z t : State} (hk : Kept z t) (n : Nat) (id : Nat) (t' : Nat) (w : Work) : Kept z (State.setFeatureJob t n id t' w) := by
  unfold State.setFeatureJob
  dsimp only
  repeat' with_reducible first
    | exact hk | assumption | apply traceJob_kept | apply issueTag_kept | apply busJob_kept | apply endWork_kept
    | apply finish_kept

theorem paramJob_kept {z t : State} (hk : Kept z t) (n : Nat) (id : Nat) (t' : Nat) (w : Work) (f : Nat) (input : List Byte) : Kept z (State.paramJob t n id t' w f input) := by
  unfold State.paramJob
  dsimp only
  repeat' with_reducible first
    | exact hk | assumption | apply Kept.ite | apply traceJob_kept | apply issueTag_kept | apply busJob_kept
    | apply dataOut_kept | apply frameWrite_kept | apply endWork_kept | apply modTag_kept | apply tagTo_kept
    | (fail_if_no_progress refine Kept.lit ?_ rfl) | split

theorem featureJob_kept {z t : State} (hk : Kept z t) (n : Nat) (input : List Byte) : Kept z (State.featureJob t n input) := by
  unfold State.featureJob
  dsimp only
  repeat' with_reducible first
    | exact hk | assumption | apply Kept.ite | apply endWork_kept | apply getFeatureJob_kept
    | apply setFeatureJob_kept | apply paramJob_kept | apply routineStart_kept | apply routineOn_kept
    | (fail_if_no_progress refine Kept.lit ?_ rfl) | split | (apply Kept.snd; assumption)

theorem accessTimeout_kept {z t : State} (hk : Kept z t) (n : Nat) (l : Nat) : Kept z (State.accessTimeout t n l) := by
  unfold State.accessTimeout
  dsimp only
  repeat' with_reducible first
    | exact hk | assumption | apply modWork_kept | apply stopTag_kept | apply endWork_kept | apply modLun_kept
    | apply attn_kept | apply grantFrames_kept | (fail_if_no_progress refine Kept.lit ?_ rfl) | split
    | (apply Kept.snd; assumption)

theorem badMessageFault_kept {z t : State} (hk : Kept z t) (n : Nat) : Kept z (State.badMessageFault t n) := by
  unfold State.badMessageFault
  repeat' with_reducible first
    | exact hk | assumption | apply fault_kept

end Sys2Proof.Machine
end

