-- ==== Sys2Proof/Laws/Keeps/Mcode.lean ====
section
/-! SUPPORT. What the operations of `Machine/Mcode.lean` keep. -/

namespace Sys2Proof.Machine
open Sys2Proof

theorem mcOpen_kept {z t : State} (hk : Kept z t) : Kept z (State.mcOpen t) := by
  unfold State.mcOpen
  repeat' with_reducible first
    | exact hk | assumption | apply Kept.ite | apply setBit_kept | (fail_if_no_progress refine Kept.lit ?_ rfl)
    | split

theorem mcVerify_kept {z t : State} (hk : Kept z t) : Kept z (State.mcVerify t) := by
  unfold State.mcVerify
  repeat' with_reducible first
    | exact hk | assumption | apply Kept.ite | apply setBit_kept | (fail_if_no_progress refine Kept.lit ?_ rfl)
    | split

theorem refreshesGo_kept {z t : State} (hk : Kept z t) : Kept z (State.refreshesGo t) := by
  unfold State.refreshesGo
  repeat' with_reducible first
    | exact hk | assumption | intro _ | apply Kept.ite | apply Kept.foldl | apply modChan_kept | apply store_kept
    | apply recTo_kept | (fail_if_no_progress refine Kept.lit ?_ rfl) | split

theorem mcVerified_kept {z t : State} (hk : Kept z t) : Kept z (State.mcVerified t) := by
  unfold State.mcVerified
  dsimp only
  repeat' with_reducible first
    | exact hk | assumption | apply Kept.ite | apply Kept.ite2 | apply useEntry_kept | apply mcInvalid_kept
    | apply refreshesGo_kept | apply raise_kept | (fail_if_no_progress refine Kept.lit ?_ rfl) | split
    | (apply Kept.snd; assumption)

theorem execMcOpen_kept {z t : State} (hk : Kept z t) : KeptX z (execMcOpen t) := by
  unfold execMcOpen
  repeat' with_reducible first
    | exact hk | assumption | apply Kept.ite | apply holdRequest_kept | apply mcOpen_kept | apply KeptX.next | split

theorem execMcVerify_kept {z t : State} (hk : Kept z t) : KeptX z (execMcVerify t) := by
  unfold execMcVerify
  repeat' with_reducible first
    | exact hk | assumption | apply Kept.ite | apply holdRequest_kept | apply mcVerify_kept | apply KeptX.next | split

end Sys2Proof.Machine
end

