-- ==== Sys2Proof/Laws/Keeps/Survey.lean ====
section
/-! SUPPORT. What the operations of `Machine/Survey.lean` keep. -/

namespace Sys2Proof.Machine
open Sys2Proof

theorem modSurvey_kept {z t : State} (hk : Kept z t) (n : Nat) (f : Survey → Survey) : Kept z (State.modSurvey t n f) := by
  unfold State.modSurvey
  repeat' with_reducible first
    | exact hk | assumption | apply modChan_kept | (fail_if_no_progress refine Kept.lit ?_ rfl)

theorem nextSlotN_kept {z t : State} (hk : Kept z t) (fuel : Nat) (n : Nat) (j : Nat) : Kept z (State.nextSlotN t fuel n j) := by
  induction fuel generalizing t n j with
  | zero => unfold State.nextSlotN; first | exact hk | exact KeptO.none
  | succ k ih =>
    unfold State.nextSlotN
    try dsimp only
    repeat' with_reducible first
      | exact hk | assumption | apply Kept.ite | apply Kept.ite2 | apply modSurvey_kept | apply tick_kept
      | apply addWork_kept | apply fixLevels_kept | apply ih | (fail_if_no_progress refine Kept.lit ?_ rfl) | split
      | (apply Kept.snd; assumption)

theorem surveyPart_kept {z t : State} (hk : Kept z t) (n : Nat) (k : Nat) : Kept z (State.surveyPart t n k) := by
  unfold State.surveyPart
  dsimp only
  repeat' with_reducible first
    | exact hk | assumption | apply Kept.ite | apply modSurvey_kept | apply nextSlotN_kept
    | (fail_if_no_progress refine Kept.lit ?_ rfl) | split

theorem startSurvey_kept {z t : State} (hk : Kept z t) (n : Nat) (parts : Nat) (tag : Option Nat) : Kept z (State.startSurvey t n parts tag) := by
  unfold State.startSurvey
  dsimp only
  repeat' with_reducible first
    | exact hk | assumption | apply Kept.ite | apply modSurvey_kept | apply tagTo_kept | apply surveyPart_kept
    | (fail_if_no_progress refine Kept.lit ?_ rfl) | split | (apply Kept.snd; assumption)

theorem surveyAgain_kept {z t : State} (hk : Kept z t) (n : Nat) : Kept z (State.surveyAgain t n) := by
  unfold State.surveyAgain
  repeat' with_reducible first
    | exact hk | assumption | apply Kept.ite | apply modSurvey_kept | apply startSurvey_kept
    | (fail_if_no_progress refine Kept.lit ?_ rfl) | split | (apply Kept.snd; assumption)

theorem surveyStart_kept {z t : State} (hk : Kept z t) : Kept z (State.surveyStart t) := by
  unfold State.surveyStart
  repeat' with_reducible first
    | exact hk | assumption | apply Kept.ite | apply surveyAgain_kept | apply startSurvey_kept
    | (fail_if_no_progress refine Kept.lit ?_ rfl) | split | (apply Kept.snd; assumption)

theorem eyeScan_kept {z t : State} (hk : Kept z t) (n : Nat) (report : List EyeReport) : Kept z (State.eyeScan t n report) := by
  unfold State.eyeScan
  dsimp only
  repeat' with_reducible first
    | exact hk | assumption | apply Kept.ite | apply Kept.ite2 | apply traceJob_kept | apply busJob_kept
    | apply modSurvey_kept | apply surveyPart_kept | (fail_if_no_progress refine Kept.lit ?_ rfl) | split
    | (apply Kept.snd; assumption)

theorem sampleDone_kept {z t : State} (hk : Kept z t) (id : Nat) (w : Work) (j : Nat) : Kept z (State.sampleDone t id w j) := by
  unfold State.sampleDone
  dsimp only
  repeat' with_reducible first
    | exact hk | assumption | apply Kept.ite | apply Kept.ite2 | apply endWork_kept | apply attemptOffsets_kept
    | apply writeLevels_kept | apply raise_kept | apply modSurvey_kept | apply nextSlotN_kept
    | (fail_if_no_progress refine Kept.lit ?_ rfl) | split | (apply Kept.snd; assumption)

theorem sampleRead_kept {z t : State} (hk : Kept z t) (n : Nat) (data : List Byte) : Kept z (State.sampleRead t n data) := by
  unfold State.sampleRead
  dsimp only
  repeat' with_reducible first
    | exact hk | assumption | apply Kept.ite | apply Kept.ite2 | apply traceJob_kept | apply busJob_kept
    | apply readsStart_kept | apply modLun_kept | apply ledgerRead_kept | apply decodeBytes_kept
    | apply traceDecode_kept | apply modSurvey_kept | apply releaseGrants_kept | apply modWork_kept
    | apply sampleDone_kept | (fail_if_no_progress refine Kept.lit ?_ rfl) | split | (apply Kept.snd; assumption)

theorem ringCount_kept {z t : State} (hk : Kept z t) (n : Nat) (ring : Nat) (count : Nat) : Kept z (State.ringCount t n ring count) := by
  unfold State.ringCount
  dsimp only
  repeat' with_reducible first
    | exact hk | assumption | apply Kept.ite | apply Kept.ite2 | apply count_kept | apply setFld_kept
    | apply modSurvey_kept | apply raise_kept | (fail_if_no_progress refine Kept.lit ?_ rfl) | split

theorem putMeasures_kept {z t : State} (hk : Kept z t) (n : Nat) : Kept z (State.putMeasures t n) := by
  unfold State.putMeasures
  dsimp only
  repeat' with_reducible first
    | exact hk | assumption | intro _ | apply Kept.ite | apply Kept.ite2 | apply Kept.foldl | apply Kept.foldl2
    | apply setReg_kept | (fail_if_no_progress refine Kept.lit ?_ rfl) | split | (apply Kept.snd; assumption)

theorem planLevel_kept {z t : State} (hk : Kept z t) (n : Nat) : Kept z (State.planLevel t n) := by
  unfold State.planLevel
  dsimp only
  repeat' with_reducible first
    | exact hk | assumption | intro _ | apply Kept.ite | apply Kept.ite2 | apply Kept.foldl | apply Kept.foldl2
    | apply setReg_kept | apply setFld_kept | apply setBit_kept | (fail_if_no_progress refine Kept.lit ?_ rfl) | split
    | (apply Kept.snd; assumption)

theorem planStarts_kept {z t : State} (hk : Kept z t) (n : Nat) : Kept z (State.planStarts t n) := by
  unfold State.planStarts
  dsimp only
  repeat' with_reducible first
    | exact hk | assumption | intro _ | apply Kept.ite | apply Kept.ite2 | apply Kept.foldl | apply Kept.foldl2
    | apply setFld_kept | apply modChan_kept | (fail_if_no_progress refine Kept.lit ?_ rfl) | split
    | (apply Kept.snd; assumption)

theorem autoTrim_kept {z t : State} (hk : Kept z t) (n : Nat) (shifts : List Int) : Kept z (State.autoTrim t n shifts) := by
  unfold State.autoTrim
  dsimp only
  repeat' with_reducible first
    | exact hk | assumption | intro _ | apply Kept.ite | apply Kept.ite2 | apply Kept.foldl | apply Kept.foldl2
    | apply modChan_kept | split

theorem rewritePlan_kept {z t : State} (hk : Kept z t) (n : Nat) : Kept z (State.rewritePlan t n) := by
  unfold State.rewritePlan
  dsimp only
  repeat' with_reducible first
    | exact hk | assumption | apply Kept.ite | apply Kept.ite2 | apply putMeasures_kept | apply planLevel_kept
    | apply setFld_kept | apply planStarts_kept | apply setReg_kept | apply setArrBit_kept | apply raise_kept
    | apply count_kept | apply autoTrim_kept | apply modSurvey_kept | apply finish_kept | apply surveyAgain_kept
    | (fail_if_no_progress refine Kept.lit ?_ rfl) | split | (apply Kept.snd; assumption)

theorem surveyDue_kept {z t : State} (hk : Kept z t) (n : Nat) : Kept z (State.surveyDue t n) := by
  unfold State.surveyDue
  repeat' with_reducible first
    | exact hk | assumption | apply Kept.ite | apply modSurvey_kept | (fail_if_no_progress refine Kept.lit ?_ rfl)
    | split

end Sys2Proof.Machine
end

