-- ==== Sys2Proof/Laws/Keeps/Service.lean ====
section
/-! SUPPORT. What the operations of `Machine/Service.lean` keep. -/

namespace Sys2Proof.Machine
open Sys2Proof

theorem globalReqError_kept {z t : State} (hk : Kept z t) : Kept z (State.globalReqError t) := by
  unfold State.globalReqError
  repeat' with_reducible first
    | exact hk | assumption | apply setBit_kept

theorem setFence_kept {z t : State} (hk : Kept z t) (n : Nat) : Kept z (State.setFence t n) := by
  unfold State.setFence
  dsimp only
  repeat' with_reducible first
    | exact hk | assumption | intro _ | apply Kept.ite | apply Kept.ite2 | apply Kept.foldl | apply Kept.foldl2
    | apply modChan_kept | apply abandonSurvey_kept | apply memberLost_kept | apply closeRead_kept
    | apply stopTag_kept | (fail_if_no_progress refine Kept.lit ?_ rfl) | split | (apply Kept.snd; assumption)

theorem clearFence_kept {z t : State} (hk : Kept z t) (n : Nat) : Kept z (State.clearFence t n) := by
  unfold State.clearFence
  dsimp only
  repeat' with_reducible first
    | exact hk | assumption | apply Kept.ite | apply store_kept | apply globalReqError_kept | apply modChan_kept
    | (fail_if_no_progress refine Kept.lit ?_ rfl) | split

theorem wpSet_kept {z t : State} (hk : Kept z t) (n : Nat) : Kept z (State.wpSet t n) := by
  unfold State.wpSet
  repeat' with_reducible first
    | exact hk | assumption | apply Kept.ite | apply setArrBit_kept | apply globalReqError_kept | split

theorem testStart_kept {z t : State} (hk : Kept z t) (extended : Bool) : Kept z (State.testStart t extended) := by
  unfold State.testStart
  dsimp only
  repeat' with_reducible first
    | exact hk | assumption | intro _ | apply Kept.foldl | apply setReg_kept
    | (fail_if_no_progress refine Kept.lit ?_ rfl)

theorem testCut_kept {z t : State} (hk : Kept z t) (n : Nat) : Kept z (State.testCut t n) := by
  unfold State.testCut
  repeat' with_reducible first
    | exact hk | assumption | apply setBit_kept | apply setArrBit_kept

theorem testOutcome_kept {z t : State} (hk : Kept z t) (o : TestOutcome) : Kept z (State.testOutcome t o) := by
  unfold State.testOutcome
  dsimp only
  repeat' with_reducible first
    | exact hk | assumption | intro _ | apply Kept.ite | apply Kept.foldl | apply logError_kept | apply raise_kept
    | apply setReg_kept | apply setArrBit_kept | apply Kept.dropWords | (fail_if_no_progress refine Kept.lit ?_ rfl)
    | split

theorem testEnd_kept {z t : State} (hk : Kept z t) (l : List TestOutcome) : Kept z (State.testEnd t l) := by
  unfold State.testEnd
  dsimp only
  repeat' with_reducible first
    | exact hk | assumption | intro _ | apply Kept.ite | apply Kept.foldl | apply testCut_kept
    | apply testOutcome_kept | apply setFld_kept | apply raise_kept | (fail_if_no_progress refine Kept.lit ?_ rfl)
    | split

theorem loopback_kept {z t : State} (hk : Kept z t) (n : Nat) (captured : Bool) : Kept z (State.loopback t n captured) := by
  unfold State.loopback
  dsimp only
  repeat' with_reducible first
    | exact hk | assumption | apply Kept.ite | apply traceJob_kept | apply busJob_kept
    | (fail_if_no_progress refine Kept.lit ?_ rfl) | split

theorem execChanFenceSet_kept {z t : State} (hk : Kept z t) (ch : Nat) : KeptX z (execChanFenceSet ch t) := by
  unfold execChanFenceSet
  repeat' with_reducible first
    | exact hk | assumption | apply Kept.ite | apply holdRequest_kept | apply setFence_kept | apply KeptX.next | split

theorem execChanFenceClr_kept {z t : State} (hk : Kept z t) (ch : Nat) : KeptX z (execChanFenceClr ch t) := by
  unfold execChanFenceClr
  repeat' with_reducible first
    | exact hk | assumption | apply Kept.ite | apply holdRequest_kept | apply clearFence_kept | apply KeptX.next
    | split

theorem execWpRelSet_kept {z t : State} (hk : Kept z t) (ch : Nat) : KeptX z (execWpRelSet ch t) := by
  unfold execWpRelSet
  repeat' with_reducible first
    | exact hk | assumption | apply Kept.ite | apply holdRequest_kept | apply wpSet_kept | apply KeptX.next | split

theorem execWpRelClr_kept {z t : State} (hk : Kept z t) (ch : Nat) : KeptX z (execWpRelClr ch t) := by
  unfold execWpRelClr
  repeat' with_reducible first
    | exact hk | assumption | apply Kept.ite | apply holdRequest_kept | apply setArrBit_kept | apply KeptX.next
    | split

end Sys2Proof.Machine
end

