-- ==== Sys2Proof/Laws/Keeps/Bays.lean ====
section
/-! SUPPORT. What the operations of `Machine/Bays.lean` keep. -/

namespace Sys2Proof.Machine
open Sys2Proof

theorem bayEvents_kept {z t : State} (hk : Kept z t) (b : Nat) (was : BayState) (l : List Nat) : Kept z (State.bayEvents t b was l) := by
  unfold State.bayEvents
  dsimp only
  repeat' with_reducible first
    | exact hk | assumption | intro _ | apply Kept.ite | apply Kept.foldl | apply setBit_kept | apply traceRec_kept
    | apply raise_kept | split

theorem bayReqError_kept {z t : State} (hk : Kept z t) (b : Nat) : Kept z (State.bayReqError t b) := by
  unfold State.bayReqError
  repeat' with_reducible first
    | exact hk | assumption | apply setBit_kept

theorem removalRebuild_kept {z t : State} (hk : Kept z t) (t' : Nat) : Kept z (State.removalRebuild t t') := by
  unfold State.removalRebuild
  dsimp only
  repeat' with_reducible first
    | exact hk | assumption | intro _ | apply Kept.ite | apply Kept.ite2 | apply Kept.foldl | apply Kept.foldl2
    | apply endWork_kept | apply modTag_kept | apply forwardEnded_kept | apply toRebuild_kept
    | apply abortIfPending_kept | (fail_if_no_progress refine Kept.lit ?_ rfl) | split | (apply Kept.snd; assumption)

theorem removalDefers_kept {z t : State} (hk : Kept z t) (t' : Nat) (n : Nat) : Kept z (State.removalDefers t t' n) := by
  unfold State.removalDefers
  dsimp only
  repeat' with_reducible first
    | exact hk | assumption | apply Kept.ite | apply Kept.ite2 | apply programLost_kept | apply endTagWorks_kept
    | apply programFails_kept | apply endTag_kept | (fail_if_no_progress refine Kept.lit ?_ rfl) | split
    | (apply Kept.snd; assumption)

theorem removeTag_kept {z t : State} (hk : Kept z t) (t' : Nat) (n : Nat) : Kept z (State.removeTag t t' n) := by
  unfold State.removeTag
  dsimp only
  repeat' with_reducible first
    | exact hk | assumption | intro _ | apply Kept.ite | apply Kept.ite2 | apply Kept.foldl | apply Kept.foldl2
    | apply endTagWorks_kept | apply freeF_kept | apply addCarry_kept | apply commitTag_kept | apply endTag_kept
    | apply removalDefers_kept | apply removalRebuild_kept | apply stopTag_kept | apply reopen_kept | split

theorem chanGone_kept {z t : State} (hk : Kept z t) (n : Nat) : Kept z (State.chanGone t n) := by
  unfold State.chanGone
  dsimp only
  repeat' with_reducible first
    | exact hk | assumption | intro _ | apply Kept.ite | apply Kept.ite2 | apply Kept.foldl | apply Kept.foldl2
    | apply testReset_kept | apply abandonSurvey_kept | apply removeTag_kept | apply withdraw_kept
    | apply memberLost_kept | apply closeRead_kept | apply toRebuild_kept | apply stopTag_kept | apply setLun_kept
    | apply releaseGrants_kept | apply modChan_kept | apply store_kept | apply fault_kept | apply recTo_kept
    | apply leaveReset_kept | (fail_if_no_progress refine Kept.lit ?_ rfl) | split | (apply Kept.snd; assumption)

theorem bayGone_kept {z t : State} (hk : Kept z t) (b : Nat) : Kept z (State.bayGone t b) := by
  unfold State.bayGone
  dsimp only
  repeat' with_reducible first
    | exact hk | assumption | intro _ | apply Kept.foldl | apply chanGone_kept | apply setArrBit_kept
    | apply obtSweep_kept | (fail_if_no_progress refine Kept.lit ?_ rfl)

theorem bayTo_kept {z t : State} (hk : Kept z t) (b : Nat) (st : BayState) (l : List Nat) : Kept z (State.bayTo t b st l) := by
  unfold State.bayTo
  refine bayEvents_kept (modBay_kept hk b _ fun _ => ?_) _ _ _
  simp [Bay.ok]

theorem bayFault_kept {z t : State} (hk : Kept z t) (b : Nat) (cause : Nat) : Kept z (State.bayFault t b cause) := by
  unfold State.bayFault
  dsimp only
  repeat' with_reducible first
    | exact hk | assumption | apply Kept.ite | apply addFld_kept | apply setFld_kept | apply bayTo_kept
    | apply fault_kept | split

theorem powerOn_kept {z t : State} (hk : Kept z t) (b : Nat) : Kept z (State.powerOn t b) := by
  unfold State.powerOn
  split
  · rename_i h
    split
    · exact bayTo_kept hk _ _ _
    · refine modBay_kept hk _ _ fun g => ?_
      have := bay_ok g b
      simp only [Bay.ok] at this ⊢
      simp_all
  · exact bayReqError_kept hk _

theorem powerOff_kept {z t : State} (hk : Kept z t) (b : Nat) : Kept z (State.powerOff t b) := by
  unfold State.powerOff
  dsimp only
  repeat' with_reducible first
    | exact hk | assumption | apply Kept.ite | apply bayReqError_kept | apply bayTo_kept | apply bayGone_kept | split

theorem clearFault_kept {z t : State} (hk : Kept z t) (b : Nat) : Kept z (State.clearFault t b) := by
  unfold State.clearFault
  repeat' with_reducible first
    | exact hk | assumption | apply Kept.ite | apply fault_kept | apply bayTo_kept | apply bayReqError_kept | split

theorem bayCtrl_kept {z t : State} (hk : Kept z t) (b : Nat) (v : Word) : Kept z (State.bayCtrl t b v) := by
  unfold State.bayCtrl
  dsimp only
  repeat' with_reducible first
    | exact hk | assumption | apply Kept.ite | apply setBit_kept | apply bayReqError_kept | apply powerOn_kept
    | apply powerOff_kept | apply fault_kept | apply clearFault_kept | split

theorem rampStart_kept {z t : State} (hk : Kept z t) (b : Nat) : Kept z (State.rampStart t b) := by
  unfold State.rampStart
  repeat' with_reducible first
    | exact hk | assumption | apply Kept.ite | apply bayTo_kept | split

theorem chanHere_kept {z t : State} (hk : Kept z t) (n : Nat) : Kept z (State.chanHere t n) := by
  unfold State.chanHere
  dsimp only
  repeat' with_reducible first
    | exact hk | assumption | apply Kept.ite | apply store_kept | apply fault_kept | apply modChan_kept
    | apply enterReset_kept | apply leaveReset_kept | (fail_if_no_progress refine Kept.lit ?_ rfl) | split

theorem bayOnNow_kept {z t : State} (hk : Kept z t) (b : Nat) : Kept z (State.bayOnNow t b) := by
  unfold State.bayOnNow
  dsimp only
  refine Kept.foldl (fun t x h => chanHere_kept h x) (modBay_kept (bayTo_kept hk _ _ _) _ _ fun g => ?_)
  exact bay_ok g b

theorem presenceLost_kept {z t : State} (hk : Kept z t) (b : Nat) : Kept z (State.presenceLost t b) := by
  unfold State.presenceLost
  dsimp only
  have h1 : ∀ l, Kept z ((t.bayTo b .empty l).modBay b (fun x => { x with prsnt := false })) :=
    fun l => modBay_kept (bayTo_kept hk _ _ _) _ _ fun g => bay_ok g b
  repeat' with_reducible first
    | exact hk | apply Kept.ite | apply bayGone_kept | apply h1

theorem chanGlitch_kept {z t : State} (hk : Kept z t) (n : Nat) : Kept z (State.chanGlitch t n) := by
  unfold State.chanGlitch
  dsimp only
  repeat' with_reducible first
    | exact hk | assumption | apply Kept.ite | apply fault_kept | split

theorem powerLost_kept {z t : State} (hk : Kept z t) (b : Nat) : Kept z (State.powerLost t b) := by
  unfold State.powerLost
  split
  · exact hk
  · rename_i h
    split
    · refine bayGone_kept (bayFault_kept (modBay_kept hk b _ fun g => ?_) _ _) _
      exact bay_ok g b
    · refine Kept.foldl (fun t x h => chanGlitch_kept h x) (modBay_kept hk _ _ fun g => ?_)
      have := bay_ok g b
      simp only [Bay.ok] at this ⊢
      simp_all

theorem glitchEnd_kept {z t : State} (hk : Kept z t) (b : Nat) (good : Bool) : Kept z (State.glitchEnd t b good) := by
  unfold State.glitchEnd
  dsimp only
  repeat' with_reducible first
    | exact hk | apply Kept.ite | apply bayGone_kept | apply bayFault_kept | apply bayEvents_kept
    | apply Kept.foldl (fun t x h => modChan_kept h _ _)
  refine modBay_kept hk _ _ fun g => ?_
  have := bay_ok g b
  simp only [Bay.ok] at this ⊢
  simp_all

theorem execPowerOn_kept {z t : State} (hk : Kept z t) (b : Nat) : KeptX z (execPowerOn b t) := by
  unfold execPowerOn
  repeat' with_reducible first
    | exact hk | assumption | apply Kept.ite | apply holdRequest_kept | apply powerOn_kept | apply KeptX.next | split

theorem execPowerOff_kept {z t : State} (hk : Kept z t) (b : Nat) : KeptX z (execPowerOff b t) := by
  unfold execPowerOff
  repeat' with_reducible first
    | exact hk | assumption | apply Kept.ite | apply holdRequest_kept | apply powerOff_kept | apply KeptX.next | split

theorem execClearFault_kept {z t : State} (hk : Kept z t) (b : Nat) : KeptX z (execClearFault b t) := by
  unfold execClearFault
  repeat' with_reducible first
    | exact hk | assumption | apply Kept.ite | apply holdRequest_kept | apply clearFault_kept | apply KeptX.next
    | split

end Sys2Proof.Machine
end

