-- ==== Sys2Proof/Laws/Keeps/Opcodes.lean ====
section
/-! SUPPORT. What the operations of `Machine/Opcodes.lean` keep. -/

namespace Sys2Proof.Machine
open Sys2Proof

theorem advanceHead_kept {z t : State} (hk : Kept z t) (q : Nat) : Kept z (State.advanceHead t q) := by
  unfold State.advanceHead
  dsimp only
  repeat' with_reducible first
    | exact hk | assumption | apply Kept.ite | apply setPushSlot_kept | apply modQueue_kept
    | (fail_if_no_progress refine Kept.lit ?_ rfl) | split

theorem traceAccept_kept {z t : State} (hk : Kept z t) (q : Nat) (p : Packet) (tag : Option Nat) : Kept z (State.traceAccept t q p tag) := by
  unfold State.traceAccept
  dsimp only
  repeat' with_reducible first
    | exact hk | assumption | apply traceRec_kept | (fail_if_no_progress refine Kept.lit ?_ rfl) | split
    | (apply Kept.snd; assumption)

theorem takeTag_kept {z t : State} (hk : Kept z t) (q : Nat) (p : Packet) : KeptP z (State.takeTag t q p) := by
  unfold State.takeTag
  repeat' with_reducible first
    | exact hk | assumption | apply traceAccept_kept | apply allocTag_kept | exact KeptP.none | apply KeptP.some
    | apply KeptP.map | (fail_if_no_progress refine Kept.lit ?_ rfl) | split | (apply Kept.snd; assumption)
    | (apply KeptP.get; assumption)

theorem tagFrame_kept {z t : State} (hk : Kept z t) (t' : Nat) (f : Nat) : Kept z (State.tagFrame t t' f) := by
  unfold State.tagFrame
  repeat' with_reducible first
    | exact hk | assumption | apply takeFrame_kept | apply modTag_kept | (fail_if_no_progress refine Kept.lit ?_ rfl)

theorem addOwn_kept {z t : State} (hk : Kept z t) (w : Work) : Kept z (State.addOwn t w) := by
  unfold State.addOwn
  repeat' with_reducible first
    | exact hk | assumption | apply addWork_kept

theorem readWork_kept {z t : State} (hk : Kept z t) (t' : Nat) (p : Packet) : Kept z (State.readWork t t' p).2 := by
  unfold State.readWork
  dsimp only
  repeat' with_reducible first
    | exact hk | assumption | apply Kept.ite | apply Kept.ite2 | apply lookupBase_kept | apply deltas_kept
    | exact KeptP.none | apply KeptP.some | apply KeptP.map | (fail_if_no_progress refine Kept.lit ?_ rfl) | split
    | (apply Kept.snd; assumption) | (apply KeptP.get; assumption)

theorem acceptRead_kept {z t : State} (hk : Kept z t) (q : Nat) (p : Packet) (absent : Bool) : KeptO z (State.acceptRead t q p absent) := by
  unfold State.acceptRead
  dsimp only
  repeat' with_reducible first
    | exact hk | assumption | apply Kept.ite | apply Kept.ite2 | apply takeTag_kept | apply toRebuild_kept
    | apply readWork_kept | apply addOwn_kept | apply modTag_kept | apply count_kept | apply wakeForwards_kept
    | apply tagFrame_kept | apply addWork_kept | apply fixLevels_kept | exact KeptO.none | apply KeptO.some
    | apply KeptO.ite | exact KeptP.none | apply KeptP.some | apply KeptP.map
    | (fail_if_no_progress refine Kept.lit ?_ rfl) | split | (apply Kept.snd; assumption)
    | (apply KeptO.get; assumption) | (apply KeptP.get; assumption)

theorem beginProgram_kept {z t : State} (hk : Kept z t) (t' : Nat) (f : Nat) (p : Packet) : Kept z (State.beginProgram t t' f p) := by
  unfold State.beginProgram
  dsimp only
  repeat' with_reducible first
    | exact hk | assumption | apply tagFrame_kept | apply obtAdvance_kept | apply bindFrame_kept | apply addOwn_kept

theorem linkAcc_kept {z t : State} (hk : Kept z t) (t' : Nat) (p : Packet) : Kept z (State.linkAcc t t' p) := by
  unfold State.linkAcc
  dsimp only
  repeat' with_reducible first
    | exact hk | assumption | apply Kept.ite | apply modAcc_kept | apply modTag_kept
    | (fail_if_no_progress refine Kept.lit ?_ rfl) | split

theorem acceptProgram_kept {z t : State} (hk : Kept z t) (q : Nat) (p : Packet) : KeptO z (State.acceptProgram t q p) := by
  unfold State.acceptProgram
  repeat' with_reducible first
    | exact hk | assumption | apply Kept.ite | apply takeTag_kept | apply beginProgram_kept | apply linkAcc_kept
    | apply tagTo_kept | exact KeptO.none | apply KeptO.some | apply KeptO.ite | exact KeptP.none | apply KeptP.some
    | apply KeptP.map | (fail_if_no_progress refine Kept.lit ?_ rfl) | split | (apply Kept.snd; assumption)
    | (apply KeptO.get; assumption) | (apply KeptP.get; assumption)

theorem beginSource_kept {z t : State} (hk : Kept z t) (t' : Nat) (p : Packet) : Kept z (State.beginSource t t' p) := by
  unfold State.beginSource
  dsimp only
  repeat' with_reducible first
    | exact hk | assumption | apply Kept.ite | apply Kept.ite2 | apply stopTag_kept | apply toRebuild_kept
    | apply tick_kept | apply addWork_kept | apply count_kept | apply wakeForwards_kept | apply fixLevels_kept
    | apply grantFrames_kept | (fail_if_no_progress refine Kept.lit ?_ rfl) | split | (apply Kept.snd; assumption)

theorem acceptCopy_kept {z t : State} (hk : Kept z t) (q : Nat) (p : Packet) : KeptO z (State.acceptCopy t q p) := by
  unfold State.acceptCopy
  repeat' with_reducible first
    | exact hk | assumption | apply Kept.ite | apply takeTag_kept | apply beginProgram_kept | apply beginSource_kept
    | exact KeptO.none | apply KeptO.some | apply KeptO.ite | exact KeptP.none | apply KeptP.some | apply KeptP.map
    | (fail_if_no_progress refine Kept.lit ?_ rfl) | split | (apply Kept.snd; assumption)
    | (apply KeptO.get; assumption) | (apply KeptP.get; assumption)

theorem acceptReprogram_kept {z t : State} (hk : Kept z t) (q : Nat) (p : Packet) : KeptO z (State.acceptReprogram t q p) := by
  unfold State.acceptReprogram
  dsimp only
  repeat' with_reducible first
    | exact hk | assumption | apply Kept.ite | apply takeTag_kept | apply modTag_kept | apply modFrame_kept
    | apply obtAdvance_kept | apply addOwn_kept | exact KeptO.none | apply KeptO.some | apply KeptO.ite
    | exact KeptP.none | apply KeptP.some | apply KeptP.map | (fail_if_no_progress refine Kept.lit ?_ rfl) | split
    | (apply Kept.snd; assumption) | (apply KeptO.get; assumption) | (apply KeptP.get; assumption)

theorem acceptRelease_kept {z t : State} (hk : Kept z t) (q : Nat) (p : Packet) : KeptO z (State.acceptRelease t q p) := by
  unfold State.acceptRelease
  dsimp only
  repeat' with_reducible first
    | exact hk | assumption | apply takeTag_kept | apply modTag_kept | apply modFrame_kept | apply releaseOne_kept
    | exact KeptO.none | apply KeptO.some | exact KeptP.none | apply KeptP.some | apply KeptP.map
    | (fail_if_no_progress refine Kept.lit ?_ rfl) | split | (apply Kept.snd; assumption)
    | (apply KeptO.get; assumption) | (apply KeptP.get; assumption)

theorem unbindBlock_kept {z t : State} (hk : Kept z t) (a : Addr) : Kept z (State.unbindBlock t a) := by
  unfold State.unbindBlock
  dsimp only
  repeat' with_reducible first
    | exact hk | assumption | intro _ | apply Kept.foldl | apply unbind_kept
    | (fail_if_no_progress refine Kept.lit ?_ rfl) | split | (apply Kept.snd; assumption)

theorem acceptErase_kept {z t : State} (hk : Kept z t) (q : Nat) (p : Packet) : KeptO z (State.acceptErase t q p) := by
  unfold State.acceptErase
  dsimp only
  repeat' with_reducible first
    | exact hk | assumption | apply takeTag_kept | apply obtFree_kept | apply unbindBlock_kept | apply addOwn_kept
    | exact KeptO.none | apply KeptO.some | exact KeptP.none | apply KeptP.some | apply KeptP.map
    | (fail_if_no_progress refine Kept.lit ?_ rfl) | split | (apply Kept.snd; assumption)
    | (apply KeptO.get; assumption) | (apply KeptP.get; assumption)

theorem acceptAccess_kept {z t : State} (hk : Kept z t) (q : Nat) (p : Packet) (kind : WorkKind) (frame : Bool) : KeptO z (State.acceptAccess t q p kind frame) := by
  unfold State.acceptAccess
  dsimp only
  repeat' with_reducible first
    | exact hk | assumption | apply Kept.ite | apply takeTag_kept | apply addOwn_kept | apply tagFrame_kept
    | apply tagTo_kept | exact KeptO.none | apply KeptO.some | apply KeptO.ite | exact KeptP.none | apply KeptP.some
    | apply KeptP.map | (fail_if_no_progress refine Kept.lit ?_ rfl) | split | (apply Kept.snd; assumption)
    | (apply KeptO.get; assumption) | (apply KeptP.get; assumption)

theorem acceptSurvey_kept {z t : State} (hk : Kept z t) (q : Nat) (p : Packet) : KeptO z (State.acceptSurvey t q p) := by
  unfold State.acceptSurvey
  dsimp only
  repeat' with_reducible first
    | exact hk | assumption | apply Kept.ite | apply takeTag_kept | apply tagFrame_kept | apply startSurvey_kept
    | apply modSurvey_kept | exact KeptO.none | apply KeptO.some | apply KeptO.ite | exact KeptP.none
    | apply KeptP.some | apply KeptP.map | (fail_if_no_progress refine Kept.lit ?_ rfl) | split
    | (apply Kept.snd; assumption) | (apply KeptO.get; assumption) | (apply KeptP.get; assumption)

theorem acceptCalibrate_kept {z t : State} (hk : Kept z t) (q : Nat) (p : Packet) : KeptO z (State.acceptCalibrate t q p) := by
  unfold State.acceptCalibrate
  repeat' with_reducible first
    | exact hk | assumption | apply takeTag_kept | apply calNext_kept | exact KeptO.none | apply KeptO.some
    | exact KeptP.none | apply KeptP.some | apply KeptP.map | (fail_if_no_progress refine Kept.lit ?_ rfl) | split
    | (apply Kept.snd; assumption) | (apply KeptO.get; assumption) | (apply KeptP.get; assumption)

theorem acceptOpen_kept {z t : State} (hk : Kept z t) (q : Nat) (p : Packet) : KeptO z (State.acceptOpen t q p) := by
  unfold State.acceptOpen
  repeat' with_reducible first
    | exact hk | assumption | apply takeTag_kept | apply modTag_kept | exact KeptO.none | apply KeptO.some
    | exact KeptP.none | apply KeptP.some | apply KeptP.map | (fail_if_no_progress refine Kept.lit ?_ rfl) | split
    | (apply Kept.snd; assumption) | (apply KeptO.get; assumption) | (apply KeptP.get; assumption)

theorem acceptClose_kept {z t : State} (hk : Kept z t) (q : Nat) (p : Packet) : KeptO z (State.acceptClose t q p) := by
  unfold State.acceptClose
  dsimp only
  repeat' with_reducible first
    | exact hk | assumption | apply Kept.ite | apply Kept.ite2 | apply count_kept | apply takeTag_kept
    | apply tick_kept | apply obtAdvanceAt_kept | apply clearFrame_kept | apply bindFrame_kept | apply addOwn_kept
    | apply setAcc_kept | exact KeptO.none | apply KeptO.some | apply KeptO.ite | exact KeptP.none | apply KeptP.some
    | apply KeptP.map | (fail_if_no_progress refine Kept.lit ?_ rfl) | split | (apply Kept.snd; assumption)
    | (apply KeptO.get; assumption) | (apply KeptP.get; assumption)

theorem acceptDiscard_kept {z t : State} (hk : Kept z t) (q : Nat) (p : Packet) : KeptO z (State.acceptDiscard t q p) := by
  unfold State.acceptDiscard
  repeat' with_reducible first
    | exact hk | assumption | apply takeTag_kept | apply releaseAcc_kept | apply finish_kept | exact KeptO.none
    | apply KeptO.some | exact KeptP.none | apply KeptP.some | apply KeptP.map
    | (fail_if_no_progress refine Kept.lit ?_ rfl) | split | (apply Kept.snd; assumption)
    | (apply KeptO.get; assumption) | (apply KeptP.get; assumption)

theorem takeSlot_kept {z t : State} (hk : Kept z t) (q : Nat) (p : Packet) (o : Opcode) : KeptP z (State.takeSlot t q p o) := by
  unfold State.takeSlot
  dsimp only
  repeat' with_reducible first
    | exact hk | assumption | apply traceAccept_kept | apply tick_kept | apply freshEntry_kept | apply setSlot_kept
    | exact KeptP.none | apply KeptP.some | apply KeptP.map | (fail_if_no_progress refine Kept.lit ?_ rfl) | split
    | (apply Kept.snd; assumption) | (apply KeptP.get; assumption)

theorem acceptAbort_kept {z t : State} (hk : Kept z t) (q : Nat) (p : Packet) : KeptO z (State.acceptAbort t q p) := by
  unfold State.acceptAbort
  dsimp only
  repeat' with_reducible first
    | exact hk | assumption | apply Kept.ite | apply Kept.ite2 | apply takeSlot_kept | apply commitSlot_kept
    | apply abortTag_kept | exact KeptO.none | apply KeptO.some | apply KeptO.ite | exact KeptP.none
    | apply KeptP.some | apply KeptP.map | (fail_if_no_progress refine Kept.lit ?_ rfl) | split
    | (apply Kept.snd; assumption) | (apply KeptO.get; assumption) | (apply KeptP.get; assumption)

theorem readDeferred_kept {z t : State} (hk : Kept z t) (l : List Deferred) : Kept z (State.readDeferred t l).2 := by
  unfold State.readDeferred
  repeat' with_reducible first
    | exact hk | assumption | intro _ | apply Kept.foldl | apply Kept.foldl2 | apply useEntry_kept

theorem acceptDeferred_kept {z t : State} (hk : Kept z t) (q : Nat) (p : Packet) : KeptO z (State.acceptDeferred t q p) := by
  unfold State.acceptDeferred
  dsimp only
  repeat' with_reducible first
    | exact hk | assumption | apply Kept.ite | apply Kept.ite2 | apply takeSlot_kept | apply commitSlot_kept
    | apply readDeferred_kept | apply frameWrite_kept | apply sendWrite_kept | exact KeptO.none | apply KeptO.some
    | apply KeptO.ite | exact KeptP.none | apply KeptP.some | apply KeptP.map
    | (fail_if_no_progress refine Kept.lit ?_ rfl) | split | (apply Kept.snd; assumption)
    | (apply KeptO.get; assumption) | (apply KeptP.get; assumption)

theorem acceptSelfTest_kept {z t : State} (hk : Kept z t) (q : Nat) (p : Packet) : KeptO z (State.acceptSelfTest t q p) := by
  unfold State.acceptSelfTest
  dsimp only
  repeat' with_reducible first
    | exact hk | assumption | apply Kept.ite | apply takeSlot_kept | apply testStart_kept | apply commitSlot_kept
    | exact KeptO.none | apply KeptO.some | apply KeptO.ite | exact KeptP.none | apply KeptP.some | apply KeptP.map
    | (fail_if_no_progress refine Kept.lit ?_ rfl) | split | (apply Kept.snd; assumption)
    | (apply KeptO.get; assumption) | (apply KeptP.get; assumption)

theorem accept_kept {z t : State} (hk : Kept z t) (q : Nat) (p : Packet) (absent : Bool) : KeptO z (State.accept t q p absent) := by
  unfold State.accept
  repeat' with_reducible first
    | exact hk | assumption | apply Kept.ite | apply Kept.ite2 | apply acceptRead_kept | apply acceptProgram_kept
    | apply acceptReprogram_kept | apply acceptRelease_kept | apply acceptCopy_kept | apply acceptErase_kept
    | apply acceptAccess_kept | apply acceptAbort_kept | apply takeSlot_kept | apply acceptDeferred_kept
    | apply acceptSurvey_kept | apply acceptCalibrate_kept | apply acceptSelfTest_kept | apply acceptOpen_kept
    | apply acceptClose_kept | apply acceptDiscard_kept | exact KeptO.none | apply KeptO.some | apply KeptO.ite
    | exact KeptP.none | apply KeptP.some | apply KeptP.map | (fail_if_no_progress refine Kept.lit ?_ rfl) | split
    | (apply Kept.snd; assumption) | (apply KeptO.get; assumption) | (apply KeptP.get; assumption)

theorem parseNext_kept {z t : State} (hk : Kept z t) (q : Nat) (p : Packet) : KeptO z (State.parseNext t q p) := by
  unfold State.parseNext
  dsimp only
  repeat' with_reducible first
    | exact hk | assumption | apply advanceHead_kept | apply completeNow_kept | apply logOrder_kept
    | apply accept_kept | exact KeptO.none | apply KeptO.some | (fail_if_no_progress refine Kept.lit ?_ rfl) | split
    | (apply Kept.snd; assumption) | (apply KeptO.get; assumption)

theorem meetOpenBlocks_kept {z t : State} (hk : Kept z t) : Kept z (State.meetOpenBlocks t) := by
  unfold State.meetOpenBlocks
  dsimp only
  repeat' with_reducible first
    | exact hk | assumption | intro _ | apply Kept.ite | apply Kept.ite2 | apply Kept.foldl | apply Kept.foldl2
    | apply obtMeet_kept | (fail_if_no_progress refine Kept.lit ?_ rfl) | split | (apply Kept.snd; assumption)

theorem endTurn_kept {z t : State} (hk : Kept z t) : Kept z (State.endTurn t) := by
  unfold State.endTurn
  repeat' with_reducible first
    | exact hk | assumption | apply Kept.ite | (fail_if_no_progress refine Kept.lit ?_ rfl) | split
    | (apply Kept.snd; assumption)

theorem packetTurn_kept {z t : State} (hk : Kept z t) (want : Nat → Packet → Bool) : Kept z (State.packetTurn t want) := by
  unfold State.packetTurn
  dsimp only
  repeat' with_reducible first
    | exact hk | assumption | apply Kept.ite | apply Kept.ite2 | apply meetOpenBlocks_kept | apply endTurn_kept
    | apply meetContext_kept | apply parseNext_kept | exact KeptO.none | apply KeptO.some | apply KeptO.ite
    | (fail_if_no_progress refine Kept.lit ?_ rfl) | split | (apply Kept.snd; assumption)
    | (apply KeptO.get; assumption)

theorem opcodeRow_kept {z t : State} (hk : Kept z t) (q : Nat) (o : Opcode) : Kept z (State.opcodeRow t q o) := by
  unfold State.opcodeRow
  repeat' with_reducible first
    | exact hk | assumption | apply packetTurn_kept

theorem modeRow_kept {z t : State} (hk : Kept z t) (q : Nat) (o : Opcode) (mode : Nat) : Kept z (State.modeRow t q o mode) := by
  unfold State.modeRow
  repeat' with_reducible first
    | exact hk | assumption | apply packetTurn_kept

theorem fenceCommit_kept {z t : State} (hk : Kept z t) (k : Nat) : Kept z (State.fenceCommit t k) := by
  unfold State.fenceCommit
  dsimp only
  repeat' with_reducible first
    | exact hk | assumption | apply Kept.ite | apply Kept.ite2 | apply commitSlot_kept | split

end Sys2Proof.Machine
end

