-- ==== Sys2Proof/Laws/Keeps/Resets.lean ====
section
/-! SUPPORT. What the operations of `Machine/Resets.lean` keep. -/

namespace Sys2Proof.Machine
open Sys2Proof

theorem clearCfg_kept {z t : State} (hk : Kept z t) (flr : Bool) : Kept z (State.clearCfg t flr) := by
  unfold State.clearCfg
  repeat' with_reducible first
    | exact hk | assumption | intro _ | apply Kept.foldl | apply Kept.foldl2 | apply setCfg_kept

theorem clearRegs_kept {z t : State} (hk : Kept z t) : Kept z (State.clearRegs t) := by
  unfold State.clearRegs
  repeat' with_reducible first
    | exact hk | assumption | intro _ | apply Kept.foldl | apply Kept.foldl2 | apply setReg_kept
    | (fail_if_no_progress refine Kept.lit ?_ rfl) | split | (apply Kept.snd; assumption)

theorem dropPages_kept {z t : State} (hk : Kept z t) (t' : Nat) : Kept z (State.dropPages t t') := by
  unfold State.dropPages
  repeat' with_reducible first
    | exact hk | assumption | intro _ | apply Kept.foldl | apply Kept.foldl2 | apply endWork_kept

theorem abandonTag_kept {z t : State} (hk : Kept z t) (t' : Nat) : Kept z (State.abandonTag t t') := by
  unfold State.abandonTag
  dsimp only
  repeat' with_reducible first
    | exact hk | assumption | apply endTagWorks_kept | apply dropPhase_kept | apply tagTo_kept | apply setTag_kept

theorem resetTagEntry_kept {z t : State} (hk : Kept z t) (t' : Nat) : Kept z (State.resetTagEntry t t') := by
  unfold State.resetTagEntry
  dsimp only
  repeat' with_reducible first
    | exact hk | assumption | apply Kept.ite | apply modTag_kept | apply dropPages_kept | apply addCarry_kept
    | apply abandonTag_kept | (fail_if_no_progress refine Kept.lit ?_ rfl) | split

theorem sweepFrames_kept {z t : State} (hk : Kept z t) : Kept z (State.sweepFrames t) := by
  unfold State.sweepFrames
  dsimp only
  repeat' with_reducible first
    | exact hk | assumption | intro _ | apply Kept.ite | apply Kept.ite2 | apply Kept.foldl | apply Kept.foldl2
    | apply modFrame_kept | apply freeNow_kept | (fail_if_no_progress refine Kept.lit ?_ rfl) | split
    | (apply Kept.snd; assumption)

theorem resetChannel_kept {z t : State} (hk : Kept z t) (n : Nat) : Kept z (State.resetChannel t n) := by
  unfold State.resetChannel
  dsimp only
  repeat' with_reducible first
    | exact hk | assumption | intro _ | apply Kept.ite | apply Kept.foldl | apply modChan_kept
    | apply targetReset_kept | apply retrain_kept | apply abandonSurvey_kept | apply dropCal_kept | apply modLun_kept
    | (fail_if_no_progress refine Kept.lit ?_ rfl) | split | (apply Kept.snd; assumption)

theorem resetTest_kept {z t : State} (hk : Kept z t) : Kept z (State.resetTest t) := by
  unfold State.resetTest
  repeat' with_reducible first
    | exact hk | assumption | apply Kept.ite | apply setFld_kept | (fail_if_no_progress refine Kept.lit ?_ rfl)
    | split

theorem resetEndpoint_kept {z t : State} (hk : Kept z t) : Kept z (State.resetEndpoint t) := by
  unfold State.resetEndpoint
  repeat' with_reducible first
    | exact hk | assumption | intro _ | apply Kept.foldl | (fail_if_no_progress refine Kept.lit ?_ rfl)

theorem resetTables_kept {z t : State} (hk : Kept z t) : Kept z (State.resetTables t) := by
  unfold State.resetTables
  repeat' with_reducible first
    | exact hk | assumption | (fail_if_no_progress refine Kept.lit ?_ rfl)

theorem functionReset_kept {z t : State} (hk : Kept z t) (kind : FnReset) : Kept z (State.functionReset t kind) := by
  unfold State.functionReset
  dsimp only
  repeat' with_reducible first
    | exact hk | assumption | intro _ | apply Kept.ite | apply Kept.foldl | apply resetTagEntry_kept
    | apply resetChannel_kept | apply mcInvalid_kept | apply resetTest_kept | apply resetEndpoint_kept
    | apply resetTables_kept | apply clearRegs_kept | apply clearCfg_kept | apply sweepFrames_kept
    | apply releaseSweep_kept | apply raiseCarry_kept | (fail_if_no_progress refine Kept.lit ?_ rfl) | split

theorem functionReady_kept {z t : State} (hk : Kept z t) : Kept z (State.functionReady t) := by
  unfold State.functionReady
  dsimp only
  repeat' with_reducible first
    | exact hk | assumption | apply Kept.ite | apply releaseEdges_kept | (fail_if_no_progress refine Kept.lit ?_ rfl)
    | split

theorem fundamentalReset_kept {z t : State} (hk : Kept z t) : Kept z (State.fundamentalReset t) :=
  ⟨⟨hk.pending, hk.build, fun g => SMap.wf_filter _ _ _ (hk.regs g), fun _ => rfl, fun _ => rfl, hk.bays, hk.edges⟩,
    hk.ties, hk.time⟩

theorem aonReset_kept (t : State) : KeptB t (State.aonReset t) := by
  unfold State.aonReset
  dsimp only
  refine KeptB.trans ?_ (Kept.foldl (fun t x h => setArrBit_kept h _ _ _)
    (Kept.foldl (fun t x h => bayGone_kept h x) (Kept.refl _))).toKeptB
  exact ⟨rfl, rfl, id, id, id, fun _ => rfl, fun _ => rfl⟩

theorem powerOff0_kept (t : State) : KeptB t (State.powerOff0 t) :=
  ⟨rfl, rfl, fun _ => rfl, fun _ => rfl, fun _ => rfl, fun _ => rfl, fun _ => rfl⟩

theorem channelUp_kept {z t : State} (hk : Kept z t) (n : Nat) : Kept z (State.channelUp t n) := by
  unfold State.channelUp
  dsimp only
  repeat' with_reducible first
    | exact hk | assumption | apply Kept.ite | apply leaveReset_kept | apply modChan_kept
    | (fail_if_no_progress refine Kept.lit ?_ rfl) | split

end Sys2Proof.Machine
end

