-- ==== Sys2Proof/Laws/Keeps/Inbound.lean ====
section
/-! SUPPORT. What the operations of `Machine/Inbound.lean` keep. -/

namespace Sys2Proof.Machine
open Sys2Proof

theorem dropReq_kept {z t : State} (hk : Kept z t) (t' : Nat) : Kept z (State.dropReq t t') := by
  unfold State.dropReq
  repeat' with_reducible first
    | exact hk | assumption | (fail_if_no_progress refine Kept.lit ?_ rfl)

theorem reqFails_kept {z t : State} (hk : Kept z t) (r : Req) : Kept z (State.reqFails t r) := by
  unfold State.reqFails
  repeat' with_reducible first
    | exact hk | assumption | apply Kept.ite | apply faultQueue_kept | apply stopTag_kept | apply flushEnded_kept
    | apply dmaFail_kept | (fail_if_no_progress refine Kept.lit ?_ rfl) | split | (apply Kept.snd; assumption)

theorem reqData_kept {z t : State} (hk : Kept z t) (r : Req) (data : List Byte) (marks : List Bool) : Kept z (State.reqData t r data marks) := by
  unfold State.reqData
  repeat' with_reducible first
    | exact hk | assumption | apply sqArrive_kept | apply sdArrive_kept | apply flushEnded_kept
    | apply dmaComplete_kept | (fail_if_no_progress refine Kept.lit ?_ rfl) | split | (apply Kept.snd; assumption)

theorem poisonSeen_kept {z t : State} (hk : Kept z t) (completion : Bool) : Kept z (State.poisonSeen t completion) := by
  unfold State.poisonSeen
  dsimp only
  repeat' with_reducible first
    | exact hk | assumption | apply Kept.ite | apply orCfg_kept | apply aerUncor_kept | split

theorem keepReq_kept {z t : State} (hk : Kept z t) (t' : Nat) (r : Req) : Kept z (State.keepReq t t' r) := by
  unfold State.keepReq
  repeat' with_reducible first
    | exact hk | assumption | (fail_if_no_progress refine Kept.lit ?_ rfl)

theorem completionIn_kept {z t : State} (hk : Kept z t) (t' : Nat) (r : Req) (status : CplStatus) (data : List Byte) (poison : Bool) : Kept z (State.completionIn t t' r status data poison) := by
  unfold State.completionIn
  dsimp only
  repeat' with_reducible first
    | exact hk | assumption | apply Kept.ite | apply dropReq_kept | apply orCfg_kept | apply reqFails_kept
    | apply poisonSeen_kept | apply reqData_kept | apply keepReq_kept | (fail_if_no_progress refine Kept.lit ?_ rfl)
    | split | (apply Kept.snd; assumption)

theorem execCarryPop_kept {z t : State} (hk : Kept z t) : KeptX z (execCarryPop t) := by
  unfold execCarryPop
  repeat' with_reducible first
    | exact hk | assumption | apply Kept.ite | apply holdRequest_kept | apply popCarry_kept | apply KeptX.next | split

end Sys2Proof.Machine
end

