-- ==== Sys2Proof/Laws/Keeps/RegRead.lean ====
section
/-! SUPPORT. What the operations of `Machine/RegRead.lean` keep. -/

namespace Sys2Proof.Machine
open Sys2Proof

theorem meetStore_kept {z t : State} (hk : Kept z t) (off : Nat) : Kept z (State.meetStore t off).2 := by
  unfold State.meetStore
  dsimp only
  repeat' with_reducible first
    | exact hk | assumption | apply Kept.ite | apply Kept.ite2 | apply useEntry_kept
    | (fail_if_no_progress refine Kept.lit ?_ rfl) | split | (apply Kept.snd; assumption)

theorem timeHigh_kept {z t : State} (hk : Kept z t) (mgmt : Bool) : Kept z (State.timeHigh t mgmt).2 := by
  unfold State.timeHigh
  repeat' with_reducible first
    | exact hk | assumption | apply Kept.ite | apply Kept.ite2 | (fail_if_no_progress refine Kept.lit ?_ rfl) | split
    | (apply Kept.snd; assumption)

theorem regRead_kept {z t : State} (hk : Kept z t) (mgmt : Bool) (off : Nat) : Kept z (State.regRead t mgmt off).2 := by
  unfold State.regRead
  dsimp only
  repeat' with_reducible first
    | exact hk | assumption | apply Kept.ite | apply Kept.ite2 | apply latchTime_kept | apply timeHigh_kept
    | apply claim_kept | apply meetStore_kept | split

theorem regRead64_kept {z t : State} (hk : Kept z t) (mgmt : Bool) (off : Nat) : Kept z (State.regRead64 t mgmt off).2 := by
  unfold State.regRead64
  dsimp only
  repeat' with_reducible first
    | exact hk | assumption | apply Kept.ite | apply Kept.ite2 | apply regRead_kept | exact KeptP.none
    | apply KeptP.some | apply KeptP.map | (fail_if_no_progress refine Kept.lit ?_ rfl) | split
    | (apply Kept.snd; assumption) | (apply KeptP.get; assumption)

end Sys2Proof.Machine
end

