-- ==== Sys2Proof/Laws/Keeps/LullEntry.lean ====
section
/-! SUPPORT. What the operations of `Machine/LullEntry.lean` keep. -/

namespace Sys2Proof.Machine
open Sys2Proof

theorem lullEnter_kept {z t : State} (hk : Kept z t) : Kept z (State.lullEnter t) := by
  unfold State.lullEnter
  repeat' with_reducible first
    | exact hk | assumption | intro _ | apply Kept.ite | apply Kept.foldl | apply dropCal_kept | apply setBit_kept
    | (fail_if_no_progress refine Kept.lit ?_ rfl) | split

theorem lullStop_kept {z t : State} (hk : Kept z t) : Kept z (State.lullStop t) := by
  unfold State.lullStop
  dsimp only
  repeat' with_reducible first
    | exact hk | assumption | apply addFld_kept | apply count_kept | apply wakeBy_kept
    | (fail_if_no_progress refine Kept.lit ?_ rfl) | split | (apply Kept.snd; assumption)

theorem execLullEnter_kept {z t : State} (hk : Kept z t) : KeptX z (execLullEnter t) := by
  unfold execLullEnter
  repeat' with_reducible first
    | exact hk | assumption | apply Kept.ite | apply holdRequest_kept | apply lullEnter_kept | apply KeptX.next
    | split

end Sys2Proof.Machine
end

