-- ==== Sys2Proof/Laws/Keeps/RegWrite.lean ====
section
/-! SUPPORT. What the operations of `Machine/RegWrite.lean` keep. -/

namespace Sys2Proof.Machine
open Sys2Proof

theorem plainWrite_kept {z t : State} (hk : Kept z t) (off : Nat) (v : Word) : Kept z (State.plainWrite t off v) := by
  unfold State.plainWrite
  repeat' with_reducible first
    | exact hk | assumption | apply setReg_kept | (fail_if_no_progress refine Kept.lit ?_ rfl) | split
    | (apply Kept.snd; assumption)

theorem eachChan_kept {z t : State} (hk : Kept z t) (i : Nat) (v : Word) (f : State → Nat → State) (h_f : ∀ u i, Kept z u → Kept z (f u i)) : Kept z (State.eachChan t i v f) := by
  unfold State.eachChan
  repeat' with_reducible first
    | exact hk | assumption | intro _ | apply Kept.foldl | apply h_f

theorem onBit_kept {z t : State} (hk : Kept z t) (v : Word) (b : Nat) (f : State → State) (h_f : ∀ u, Kept z u → Kept z (f u)) : Kept z (State.onBit t v b f) := by
  unfold State.onBit
  repeat' with_reducible first
    | exact hk | assumption | intro _ | apply Kept.ite | apply h_f | split

theorem writeGlobal_kept {z t : State} (hk : Kept z t) (off : Nat) (v : Word) : Kept z (State.writeGlobal t off v) := by
  unfold State.writeGlobal
  dsimp only
  repeat' with_reducible first
    | exact hk | assumption | intro _ | apply Kept.ite | apply onBit_kept | apply popCarry_kept
    | apply framePoolWrite_kept | apply injectionWrite_kept | apply plainWrite_kept | apply faultRequest_kept
    | apply eachChan_kept | apply setFence_kept | apply clearFence_kept | apply wpSet_kept | apply setArrBit_kept
    | apply offlineWrite_kept | apply msixRelease_kept | split

theorem writeIrq_kept {z t : State} (hk : Kept z t) (off : Nat) (v : Word) : Kept z (State.writeIrq t off v) := by
  unfold State.writeIrq
  dsimp only
  repeat' with_reducible first
    | exact hk | assumption | intro _ | apply Kept.ite | apply plainWrite_kept | apply onBit_kept
    | apply lullEnter_kept | apply pendSet_kept | apply pendClr_kept | apply complete_kept | apply setReg_kept
    | (fail_if_no_progress refine Kept.lit ?_ rfl) | split

theorem writePower_kept {z t : State} (hk : Kept z t) (off : Nat) (v : Word) : Kept z (State.writePower t off v) := by
  unfold State.writePower
  dsimp only
  repeat' with_reducible first
    | exact hk | assumption | intro _ | apply Kept.ite | apply plainWrite_kept | apply onBit_kept
    | apply peResume_kept | (fail_if_no_progress refine Kept.lit ?_ rfl) | split

theorem writeCal_kept {z t : State} (hk : Kept z t) (off : Nat) (v : Word) : Kept z (State.writeCal t off v) := by
  unfold State.writeCal
  dsimp only
  repeat' with_reducible first
    | exact hk | assumption | intro _ | apply Kept.ite | apply plainWrite_kept | apply calSettling_kept
    | apply onBit_kept | apply calStart_kept | apply trimTarget_kept | split

theorem writeMem_kept {z t : State} (hk : Kept z t) (off : Nat) (v : Word) : Kept z (State.writeMem t off v) := by
  unfold State.writeMem
  dsimp only
  repeat' with_reducible first
    | exact hk | assumption | intro _ | apply Kept.ite | apply plainWrite_kept | apply onBit_kept
    | apply clearLog_kept | apply retireFrame_kept | apply rawRead_kept | apply rawStore_kept | apply eachChan_kept
    | apply stagingStart_kept | (fail_if_no_progress refine Kept.lit ?_ rfl) | split | (apply Kept.snd; assumption)

theorem writeObs_kept {z t : State} (hk : Kept z t) (off : Nat) (v : Word) : Kept z (State.writeObs t off v) := by
  unfold State.writeObs
  dsimp only
  repeat' with_reducible first
    | exact hk | assumption | intro _ | apply Kept.ite | apply plainWrite_kept | apply traceSync_kept
    | apply onBit_kept | apply traceFlush_kept | apply tracePop_kept | apply snapGo_kept | split

theorem writeBay_kept {z t : State} (hk : Kept z t) (off : Nat) (v : Word) : Kept z (State.writeBay t off v) := by
  unfold State.writeBay
  dsimp only
  repeat' with_reducible first
    | exact hk | assumption | apply Kept.ite | apply bayCtrl_kept | apply plainWrite_kept | split

theorem dmaCtrl_kept {z t : State} (hk : Kept z t) (g : Nat) (v : Word) : Kept z (State.dmaCtrl t g v) := by
  unfold State.dmaCtrl
  dsimp only
  repeat' with_reducible first
    | exact hk | assumption | intro _ | apply plainWrite_kept | apply onBit_kept | apply dmaStart_kept
    | apply dmaStop_kept | apply dmaResume_kept | apply dmaAbort_kept

theorem dmaPace_kept {z t : State} (hk : Kept z t) (g : Nat) (v : Word) : Kept z (State.dmaPace t g v) := by
  unfold State.dmaPace
  dsimp only
  repeat' with_reducible first
    | exact hk | assumption | apply Kept.ite | apply plainWrite_kept | apply dmaWithdraw_kept | split

theorem writeDma_kept {z t : State} (hk : Kept z t) (off : Nat) (v : Word) : Kept z (State.writeDma t off v) := by
  unfold State.writeDma
  dsimp only
  repeat' with_reducible first
    | exact hk | assumption | apply Kept.ite | apply plainWrite_kept | apply dmaReqError_kept | apply dmaCtrl_kept
    | apply dmaPace_kept | apply engCfgWrite_kept | apply ringCfgWrite_kept | apply ringHeadWrite_kept | split

theorem writeQueue_kept {z t : State} (hk : Kept z t) (off : Nat) (v : Word) : Kept z (State.writeQueue t off v) := by
  unfold State.writeQueue
  dsimp only
  repeat' with_reducible first
    | exact hk | assumption | apply Kept.ite | apply freshEntry_kept | apply plainWrite_kept | apply createQueue_kept
    | apply deleteQueue_kept | split

theorem rltCommand_kept {z t : State} (hk : Kept z t) (v : Word) : Kept z (State.rltCommand t v) := by
  unfold State.rltCommand
  dsimp only
  repeat' with_reducible first
    | exact hk | assumption | apply Kept.ite | apply rltIndex_kept | apply rltOpRead_kept | apply rltOpWrite_kept
    | apply rltOpLookup_kept | apply rltOpInsert_kept | apply rltDrop_kept | apply rltResult_kept
    | (fail_if_no_progress refine Kept.lit ?_ rfl) | split | (apply Kept.snd; assumption)

theorem writeRlt_kept {z t : State} (hk : Kept z t) (off : Nat) (v : Word) : Kept z (State.writeRlt t off v) := by
  unfold State.writeRlt
  dsimp only
  repeat' with_reducible first
    | exact hk | assumption | intro _ | apply Kept.ite | apply rltCfg_kept | apply rltCommand_kept
    | apply plainWrite_kept | apply onBit_kept | apply popAdvisory_kept | apply freshEntry_kept
    | (fail_if_no_progress refine Kept.lit ?_ rfl) | split | (apply Kept.snd; assumption)

theorem writeLoad_kept {z t : State} (hk : Kept z t) (off : Nat) (v : Word) : Kept z (State.writeLoad t off v) := by
  unfold State.writeLoad
  repeat' with_reducible first
    | exact hk | assumption | intro _ | apply Kept.ite | apply plainWrite_kept | apply onBit_kept | apply mcOpen_kept
    | apply mcVerify_kept | apply loadAll_kept | apply freshEntry_kept | apply setBit_kept
    | (fail_if_no_progress refine Kept.lit ?_ rfl) | split | (apply Kept.snd; assumption)

theorem writeChan_kept {z t : State} (hk : Kept z t) (off : Nat) (v : Word) : Kept z (State.writeChan t off v) := by
  unfold State.writeChan
  dsimp only
  repeat' with_reducible first
    | exact hk | assumption | intro _ | apply Kept.ite | apply plainWrite_kept | apply onBit_kept
    | apply discover_kept | apply setRate_kept | apply retrain_kept | apply holdClear_kept | apply mcLoad_kept
    | apply modChan_kept | split

theorem regWrite_kept {z t : State} (hk : Kept z t) (off : Nat) (v : Word) : Kept z (State.regWrite t off v) := by
  unfold State.regWrite
  dsimp only
  repeat' with_reducible first
    | exact hk | assumption | apply Kept.ite | apply writeGlobal_kept | apply writeIrq_kept | apply writePower_kept
    | apply writeCal_kept | apply writeMem_kept | apply writeObs_kept | apply writeBay_kept | apply writeDma_kept
    | apply writeQueue_kept | apply writeRlt_kept | apply ledgerHiWrite_kept | apply obtLoWrite_kept
    | apply obtHiWrite_kept | apply plainWrite_kept | apply writeLoad_kept | apply writeChan_kept
    | (fail_if_no_progress refine Kept.lit ?_ rfl) | split

theorem regWrite64_kept {z t : State} (hk : Kept z t) (off : Nat) (lo : Word) (hi : Word) : Kept z (State.regWrite64 t off lo hi) := by
  unfold State.regWrite64
  repeat' with_reducible first
    | exact hk | assumption | apply regWrite_kept

end Sys2Proof.Machine
end

