-- ==== Sys2Proof/Laws/Keeps/Ports.lean ====
section
/-! SUPPORT. What the operations of `Machine/Ports.lean` keep. -/

namespace Sys2Proof.Machine
open Sys2Proof

theorem bar0Write_kept {z t : State} (hk : Kept z t) (off : Nat) (l : List Byte) : KeptE z (State.bar0Write t off l) := by
  unfold State.bar0Write
  repeat' with_reducible first
    | exact hk | assumption | apply Kept.ite | apply regWrite_kept | apply regWrite64_kept | exact KeptE.error
    | apply KeptE.ok | split | (apply KeptE.get; assumption)

theorem bar2Write_kept {z t : State} (hk : Kept z t) (off : Nat) (l : List Byte) : KeptE z (State.bar2Write t off l) := by
  unfold State.bar2Write
  dsimp only
  repeat' with_reducible first
    | exact hk | assumption | apply Kept.ite | apply sqDoorbell_kept | apply cqDoorbell_kept | apply pushWrite_kept
    | exact KeptO.none | apply KeptO.some | apply KeptO.ite | exact KeptE.error | apply KeptE.ok
    | (fail_if_no_progress refine Kept.lit ?_ rfl) | split | (apply Kept.snd; assumption)
    | (apply KeptO.get; assumption) | (apply KeptE.get; assumption)

theorem bar4Write_kept {z t : State} (hk : Kept z t) (off : Nat) (l : List Byte) (poison : Bool) : KeptE z (State.bar4Write t off l poison) := by
  unfold State.bar4Write
  repeat' with_reducible first
    | exact hk | assumption | apply Kept.ite | apply frameWrite_kept | exact KeptE.error | apply KeptE.ok
    | (fail_if_no_progress refine Kept.lit ?_ rfl) | split | (apply Kept.snd; assumption)
    | (apply KeptE.get; assumption)

theorem barWrite_kept {z t : State} (hk : Kept z t) (bar : Nat) (off : Nat) (l : List Byte) (poison : Bool) : KeptE z (State.barWrite t bar off l poison) := by
  unfold State.barWrite
  repeat' with_reducible first
    | exact hk | assumption | apply Kept.ite | apply bar0Write_kept | apply bar2Write_kept | apply bar4Write_kept
    | exact KeptE.error | apply KeptE.ok | split | (apply KeptE.get; assumption)

theorem bar0Read_kept {z t : State} (hk : Kept z t) (mgmt : Bool) (off : Nat) (len : Nat) : KeptR z (State.bar0Read t mgmt off len) := by
  unfold State.bar0Read
  dsimp only
  repeat' with_reducible first
    | exact hk | assumption | apply Kept.ite | apply Kept.ite2 | apply regRead_kept | apply regRead64_kept
    | exact KeptP.none | apply KeptP.some | apply KeptP.map | exact KeptR.error | apply KeptR.ok
    | (fail_if_no_progress refine Kept.lit ?_ rfl) | split | (apply Kept.snd; assumption)
    | (apply KeptP.get; assumption) | (apply KeptR.get; assumption)

theorem bar2Read_kept {z t : State} (hk : Kept z t) (off : Nat) (len : Nat) : KeptR z (State.bar2Read t off len) := by
  unfold State.bar2Read
  repeat' with_reducible first
    | exact hk | assumption | apply Kept.ite | apply Kept.ite2 | exact KeptR.error | apply KeptR.ok | split
    | (apply KeptR.get; assumption)

theorem bar4Read_kept {z t : State} (hk : Kept z t) (off : Nat) (len : Nat) : KeptR z (State.bar4Read t off len) := by
  unfold State.bar4Read
  dsimp only
  repeat' with_reducible first
    | exact hk | assumption | apply Kept.ite | apply Kept.ite2 | apply frameRead_kept | exact KeptR.error
    | apply KeptR.ok | (fail_if_no_progress refine Kept.lit ?_ rfl) | split | (apply Kept.snd; assumption)
    | (apply KeptR.get; assumption)

theorem barRead_kept {z t : State} (hk : Kept z t) (mgmt : Bool) (bar : Nat) (off : Nat) (len : Nat) : KeptR z (State.barRead t mgmt bar off len) := by
  unfold State.barRead
  repeat' with_reducible first
    | exact hk | assumption | apply Kept.ite | apply Kept.ite2 | apply bar0Read_kept | apply bar2Read_kept
    | apply bar4Read_kept | exact KeptR.error | apply KeptR.ok | split | (apply KeptR.get; assumption)

theorem hostWrite_kept {z t : State} (hk : Kept z t) (d : InTarget) (l : List Byte) (requester : BitVec 16) (poison : Bool) : Kept z (State.hostWrite t d l requester poison) := by
  unfold State.hostWrite
  dsimp only
  repeat' with_reducible first
    | exact hk | assumption | apply Kept.ite | apply aerUncor_kept | apply poisonSeen_kept | apply barWrite_kept
    | apply violate_kept | apply raise_kept | exact KeptE.error | apply KeptE.ok
    | (fail_if_no_progress refine Kept.lit ?_ rfl) | split | (apply Kept.snd; assumption)
    | (apply KeptE.get; assumption)

theorem completerAbort_kept {z t : State} (hk : Kept z t) (requester : BitVec 16) (tag : Nat) : Kept z (State.completerAbort t requester tag) := by
  unfold State.completerAbort
  repeat' with_reducible first
    | exact hk | assumption | apply aerUncor_kept | apply orCfg_kept | apply send_kept

theorem hostRead_kept {z t : State} (hk : Kept z t) (d : InTarget) (len : Nat) (requester : BitVec 16) (tag : Nat) : Kept z (State.hostRead t d len requester tag) := by
  unfold State.hostRead
  dsimp only
  repeat' with_reducible first
    | exact hk | assumption | apply Kept.ite | apply aerUncor_kept | apply send_kept | apply barRead_kept
    | apply violate_kept | apply completerAbort_kept | apply sendRead_kept | exact KeptR.error | apply KeptR.ok
    | (fail_if_no_progress refine Kept.lit ?_ rfl) | split | (apply Kept.snd; assumption)
    | (apply KeptR.get; assumption)

theorem cfgWrite_kept {z t : State} (hk : Kept z t) (off : Nat) (v : Word) (e : BitVec 4) : Kept z (State.cfgWrite t off v e) := by
  unfold State.cfgWrite
  dsimp only
  repeat' with_reducible first
    | exact hk | assumption | apply Kept.ite | apply setCfg_kept | apply dmaBme_kept | apply msixRelease_kept | split

theorem configIn_kept {z t : State} (hk : Kept z t) (off : Nat) (write : Option Word) (e : BitVec 4) (requester : BitVec 16) (tag : Nat) : Kept z (State.configIn t off write e requester tag) := by
  unfold State.configIn
  dsimp only
  repeat' with_reducible first
    | exact hk | assumption | apply Kept.ite | apply Kept.ite2 | apply send_kept | apply nextFresh_kept
    | apply cfgWrite_kept | apply functionReset_kept | (fail_if_no_progress refine Kept.lit ?_ rfl) | split
    | (apply Kept.snd; assumption)

theorem mgmtAnswer_kept {z t : State} (hk : Kept z t) (err : Bool) (data : BitVec 64) : Kept z (State.mgmtAnswer t err data) := by
  unfold State.mgmtAnswer
  repeat' with_reducible first
    | exact hk | assumption | (fail_if_no_progress refine Kept.lit ?_ rfl)

theorem mgmtAccess_kept {z t : State} (hk : Kept z t) (code : Nat) (addr : Nat) (eight : Bool) (wdata : Option (BitVec 64)) : Kept z (State.mgmtAccess t code addr eight wdata) := by
  unfold State.mgmtAccess
  dsimp only
  repeat' with_reducible first
    | exact hk | assumption | apply Kept.ite | apply Kept.ite2 | apply violate_kept | apply mgmtAnswer_kept
    | apply barWrite_kept | apply barRead_kept | apply nextFresh_kept | exact KeptE.error | apply KeptE.ok
    | exact KeptR.error | apply KeptR.ok | (fail_if_no_progress refine Kept.lit ?_ rfl) | split
    | (apply Kept.snd; assumption) | (apply KeptE.get; assumption) | (apply KeptR.get; assumption)

theorem mgmtIn_kept {z t : State} (hk : Kept z t) (code : Nat) (addr : Nat) (eight : Bool) (wdata : Option (BitVec 64)) : Kept z (State.mgmtIn t code addr eight wdata) := by
  unfold State.mgmtIn
  repeat' with_reducible first
    | exact hk | assumption | apply Kept.ite | apply mgmtAccess_kept | apply mgmtAnswer_kept | split

end Sys2Proof.Machine
end

