-- ==== Sys2Proof/Laws/Keeps/Lull.lean ====
section
/-! SUPPORT. What the operations of `Machine/Lull.lean` keep. -/

namespace Sys2Proof.Machine
open Sys2Proof

theorem hotReset_kept {z t : State} (hk : Kept z t) : Kept z (State.hotReset t) := by
  unfold State.hotReset
  repeat' with_reducible first
    | exact hk | assumption | apply Kept.ite | apply functionReset_kept | split

theorem flr_kept {z t : State} (hk : Kept z t) : Kept z (State.flr t) := by
  unfold State.flr
  repeat' with_reducible first
    | exact hk | assumption | apply Kept.ite | apply functionReset_kept | split

/-- What a held access keeps. -/
theorem served_kept {z t : State} (hk : Kept z t) {o : Host.Outcome State Fault Refusal} (h : KeptX z o) :
    Kept z (served t o) := by
  unfold served
  split
  · exact h _ rfl
  · exact hk

theorem serve_kept {z t : State} (hk : Kept z t) (c : Instr) : Kept z (State.serve t c) := by
  cases c
  case memoryWrite => exact Kept.ite (hostWrite_kept hk _ _ _ _) hk
  case memoryRead => exact Kept.ite (hostRead_kept hk _ _ _ _) hk
  case configRequest => exact Kept.ite (configIn_kept hk _ _ _ _ _) hk
  case bar4Write => exact Kept.ite (hostWrite_kept hk _ _ _ _) hk
  case bar4Read => exact Kept.ite (hostRead_kept hk _ _ _ _) hk
  case mgmtAccess => exact Kept.ite (mgmtIn_kept hk _ _ _ _) hk
  case registerWrite => exact Kept.ite (regWrite_kept hk _ _) hk
  case functionLevelReset => exact flr_kept hk
  case hotReset => exact hotReset_kept hk
  case injectionArm => exact served_kept hk (execInjectionArm_kept hk _)
  case powerOn => exact served_kept hk (execPowerOn_kept hk _)
  case powerOff => exact served_kept hk (execPowerOff_kept hk _)
  case clearFault => exact served_kept hk (execClearFault_kept hk _)
  case dmaStart => exact served_kept hk (execDmaStart_kept hk _ _)
  case dmaStop => exact served_kept hk (execDmaStop_kept hk _ _)
  case dmaAbort => exact served_kept hk (execDmaAbort_kept hk _ _)
  case dmaResume => exact served_kept hk (execDmaResume_kept hk _ _)
  case pacingWithdraw => exact served_kept hk (execPacingWithdraw_kept hk _ _)
  case packetChannelsWrite => exact served_kept hk (execPacketChannelsWrite_kept hk _ _)
  case ringHeadWrite => exact served_kept hk (execRingHeadWrite_kept hk _ _)
  case ringEnable => exact served_kept hk (execRingEnable_kept hk _ _)
  case dmaOfflineWrite => exact served_kept hk (execDmaOfflineWrite_kept hk _ _ _)
  case peResume => exact served_kept hk (execPeResume_kept hk _)
  case peWeightWrite => exact served_kept hk (execPeWeightWrite_kept hk _ _)
  case carryPop => exact served_kept hk (execCarryPop_kept hk)
  case srcPendSet => exact served_kept hk (execSrcPendSet_kept hk _ _)
  case srcPendClr => exact served_kept hk (execSrcPendClr_kept hk _ _)
  case srcMaskWrite => exact served_kept hk (execSrcMaskWrite_kept hk _ _)
  case claim => exact served_kept hk (execClaim_kept hk _ _)
  case complete => exact served_kept hk (execComplete_kept hk _ _ _)
  case rltRead => exact served_kept hk (execRltRead_kept hk _)
  case rltWrite => exact served_kept hk (execRltWrite_kept hk _)
  case rltLookup => exact served_kept hk (execRltLookup_kept hk)
  case rltInsert => exact served_kept hk (execRltInsert_kept hk)
  case rltClearUnpinned => exact served_kept hk (execRltClearUnpinned_kept hk)
  case rltClearAll => exact served_kept hk (execRltClearAll_kept hk)
  case rltCfgWrite => exact served_kept hk (execRltCfgWrite_kept hk _)
  case ledgerHiWrite => exact served_kept hk (execLedgerHiWrite_kept hk _ _)
  case advPop => exact served_kept hk (execAdvPop_kept hk)
  case obtHiWrite => exact served_kept hk (execObtHiWrite_kept hk _ _)
  case rawWrite => exact served_kept hk (execRawWrite_kept hk)
  case lullEnter => exact served_kept hk (execLullEnter_kept hk)
  case mcOpen => exact served_kept hk (execMcOpen_kept hk)
  case mcVerify => exact served_kept hk (execMcVerify_kept hk)
  case logClear => exact served_kept hk (execLogClear_kept hk _)
  case memStgInit => exact served_kept hk (execMemStgInit_kept hk _)
  case memBist => exact served_kept hk (execMemBist_kept hk _)
  case rawRead => exact served_kept hk (execRawRead_kept hk)
  case trcPop => exact served_kept hk (execTrcPop_kept hk)
  case trcFlush => exact served_kept hk (execTrcFlush_kept hk)
  case snapshot => exact served_kept hk (execSnapshot_kept hk _ _ _)
  case queueCreate => exact served_kept hk (execQueueCreate_kept hk _)
  case queueDelete => exact served_kept hk (execQueueDelete_kept hk _)
  case sqTailDoorbell => exact served_kept hk (execSqTailDoorbell_kept hk _ _)
  case cqHeadDoorbell => exact served_kept hk (execCqHeadDoorbell_kept hk _ _)
  case pushWindowWrite => exact served_kept hk (execPushWindowWrite_kept hk _ _ _)
  case lunHoldClear => exact served_kept hk (execLunHoldClear_kept hk _ _)
  case chanFenceSet => exact served_kept hk (execChanFenceSet_kept hk _)
  case chanFenceClr => exact served_kept hk (execChanFenceClr_kept hk _)
  case wpRelSet => exact served_kept hk (execWpRelSet_kept hk _)
  case wpRelClr => exact served_kept hk (execWpRelClr_kept hk _)
  case framePoolWrite => exact served_kept hk (execFramePoolWrite_kept hk _ _)
  case frameRetire => exact served_kept hk (execFrameRetire_kept hk _)
  case msgPop => exact served_kept hk (execMsgPop_kept hk _)
  case msgDrop => exact served_kept hk (execMsgDrop_kept hk _)
  case discover => exact served_kept hk (execDiscover_kept hk _)
  case setRate => exact served_kept hk (execSetRate_kept hk _)
  case retrain => exact served_kept hk (execRetrain_kept hk _)
  case loadAll => exact served_kept hk (execLoadAll_kept hk)
  case mcLoad => exact served_kept hk (execMcLoad_kept hk _)
  case replayFaultRequest => exact served_kept hk (execReplayFaultRequest_kept hk _)
  case calStart => exact served_kept hk (execCalStart_kept hk _ _)
  case trimImpTgtWrite => exact served_kept hk (execTrimImpTgtWrite_kept hk _ _)
  all_goals exact hk

theorem wakeUp_kept {z t : State} (hk : Kept z t) : Kept z (State.wakeUp t) := by
  unfold State.wakeUp
  dsimp only
  repeat' with_reducible first
    | exact hk | assumption | intro _ | apply Kept.ite | apply Kept.foldl | apply releaseEdges_kept | apply raise_kept
    | apply count_kept | apply traceSync_kept | apply serve_kept | (fail_if_no_progress refine Kept.lit ?_ rfl)
    | split

end Sys2Proof.Machine
end

