-- ==== Sys2Proof/Machine/Outputs.lean ====
section
/-! DEFINITION. The levels of the block's other outputs, what its parts draw, and the clocks of its islands (R15, R24,
R34, R376, R387, R400, R415, R420, R421, R473, R474, R479, R504, R513, R518, R520, R523, R527, R528, R531, R532, R535,
R536, R538). -/

namespace Sys2Proof.Machine
open Sys2Proof

/-- `HCLK_LOCK`: the host island's clock is at its locked frequency (R513). -/
def State.hclkLock (s : State) : Bool := s.hostOn

/-- `EP<p>_RX_READY` of a pair of the build (R511, R518). -/
def State.rxReady (s : State) (p : Nat) : Bool := s.hclkLock && decide (p < s.build.pairs)

/-- `EP_LINK_CTRL`: Link Control as configured; 0 while `BLK_RESET_N` is low (R520). -/
def State.linkCtrl (s : State) : BitVec 16 :=
  if s.ph.powered && !s.ph.blkReset then BitVec.ofNat 16 (s.cfgRaw 0x70).toNat else 0

/-- `LULL_ACTIVE` (R531). -/
def State.lullActive (s : State) : Bool := s.ph.powered && s.irq.lull == .lull

/-- `BAY_PWR_EN[b]` (R387, R527). -/
def State.bayPwrEn (s : State) (b : Nat) : Bool :=
  s.ph.powered && !s.ph.aonReset && ((s.bay b).st == .ramping || (s.bay b).st == .on)

/-- How an indicator output is driven: a blinking one changes its level after a half period in ns (R400). -/
inductive IndDrive where
  | off
  | on
  | blink (half : Nat)
  deriving DecidableEq, Repr

/-- An indicator code (R400). -/
def indDrive (code : Nat) : IndDrive :=
  match code with
  | 0 => .off
  | 1 => .on
  | 2 => .blink 500000000
  | _ => .blink 125000000

/-- `BAY_PWR_IND[b]` or `BAY_ATTN_IND[b]`, as `BAY_IND` reads (R400). -/
def State.bayInd (s : State) (b : Nat) (attn : Bool) : IndDrive :=
  if s.ph.powered && !s.ph.aonReset then
    let w := s.viewBay (bayAt b + 0xC)
    indDrive (if attn then wfld w 3 2 else wfld w 1 0)
  else .off

/-- `FC<n>_WP_N` (R473, R479, R480). -/
def State.wpN (s : State) (n : Nat) : PinLevel :=
  if !s.ph.powered then .undriven else heldLevel (!s.ph.aonReset && !s.ph.blkReset && s.wpHigh n)

/-- `IRQ_NORMAL[t]` and `IRQ_FAST[t]` of the wired targets; lines of targets past the build's stay low (R523). -/
def State.irqLines (s : State) (fast : Bool) : List Bool := (countUp 0 64).map (fun t => s.irqLine t fast)

/-- `PE_MODEL` (R407, R420, R528). -/
def State.peModel (s : State) : Nat := if s.ph.powered && !s.ph.blkReset then s.gov.model else 0

/-- `PE_FALLBACK` (R415, R420, R528). -/
def State.peFallback (s : State) : Bool := s.ph.powered && (s.ph.blkReset || s.gov.st != .feedback)

/-- The port beats of a record (R504, R532): `TRC_START`, `TRC_VALID` and `TRC_DATA` of each. -/
def recordBeats (r : BitVec 128) : List (Bool × Bool × Word) :=
  [(true, true, r.extractLsb' 0 32), (false, true, r.extractLsb' 32 32), (false, true, r.extractLsb' 64 32),
   (false, true, r.extractLsb' 96 32)]

/-- A beat between records (R532). -/
def idleBeat : Bool × Bool × Word := (false, false, 0)

/-- The clock of a channel island in kHz: an eighth of its rate, at least 100 MHz (R15, R538). -/
def Chan.clockKhz (c : Chan) : Nat := max 100000 (c.rate * 50000 / 8)

/-- A length of channel clocks in ps at the channel's present rate (R15, R541). -/
def Chan.clocksPs (c : Chan) (k : Nat) : Nat := k * 1000000000 / c.clockKhz

/-- What a channel draws at most, in tenths of a mW, by its rate code when fully used (R536). The spec gives the full-rate
share at the three highest rates. -/
def fullShare (rate : Nat) : Option Nat :=
  if rate = 128 then some 8047 else if rate = 96 then some 6200 else if rate = 72 then some 4800 else none

/-- What the host island draws at full rate or idle, and trim, calibration, Zephyr and the rest, in tenths of a mW (R536). -/
def hostShare (channels : Nat) (full : Bool) : Nat :=
  if channels = 256 then (if full then 340000 else 150000)
  else if channels = 128 then (if full then 200000 else 90000)
  else (if full then 120000 else 60000)

/-- The fixed part besides the host island, in tenths of a mW (R536). -/
def otherShare (channels : Nat) : Nat := if channels = 256 then 100000 else if channels = 128 then 60000 else 40000

/-- The most that a build draws at full load with every channel at a rate, in tenths of a mW (R535, R536). -/
def fullPower (channels rate : Nat) : Option Nat :=
  (fullShare rate).map (fun x => hostShare channels true + otherShare channels + channels * x)

/-- The most that a build draws idle: every channel RUNNING with no bus job (R535, R536). -/
def idlePower (channels : Nat) : Nat := hostShare channels false + otherShare channels + channels * 1640

/-- The most that a build draws with every channel fenced and idle (R535, R536). -/
def fencedPower (channels : Nat) : Nat := hostShare channels true + otherShare channels + channels * 148

/-- What the block draws at most in Lull, and with `BLK_RESET_N` low, in tenths of a mW (R535). -/
def lullPower (channels : Nat) : Nat := if channels = 256 then 60000 else if channels = 128 then 35000 else 22000

/-- What the Zephyr island draws alone, in tenths of a mW (R535). -/
def zephyrPower : Nat := 4000

end Sys2Proof.Machine
end

