-- ==== Sys2Proof/WellFormed.lean ====
section
/-! DEFINITION. The commands whose operands name something that the largest build has (R3, R28): channels, bays, queues,
tags, DMA channels and so on. A command that is not well formed names nothing, and its meaning changes nothing or acts on
nothing of the block. -/

namespace Sys2Proof

/-- A channel number (R3). -/
def chanOk (n : Nat) : Bool := decide (n < 256)

/-- A bay number (R28). -/
def bayOk (b : Nat) : Bool := decide (b < 32)

/-- A queue number (R28). -/
def qidOk (q : Nat) : Bool := decide (q < 32768)

/-- A DMA engine and one of its channels (R28). -/
def dmaIn (e c : Nat) : Bool := decide (e < 8) && decide (c < 64)

/-- A tag number (R28). -/
def tagOk (t : Nat) : Bool := decide (t < 16384)

/-- A word of the source bit arrays (R384). -/
def srcWordOk (w : Nat) : Bool := decide (w < 32)

/-- A target of the largest build (R28). -/
def targetOk (t : Nat) : Bool := decide (t < 64)

/-- A register offset of BAR0: in the BAR and naturally aligned (R29, R30). -/
def regOk (off : Nat) : Bool := decide (off < 0x4000000) && off % 4 == 0

/-- A posted memory write goes to memory space or is a message (R337). -/
def InTarget.postedOk (t : InTarget) : Bool :=
  match t with
  | .memory _ => true
  | .bar0 off => decide (off < 0x4000000)
  | .bar2 off => decide (off < 0x800000)
  | .bar4 off => decide (off < 0x10000000)
  | .noBar => true
  | .vendorMsg => true
  | .ioSpace => false
  | .locked => false
  | .atomic => false

/-- A non-posted request is no message (R337). -/
def InTarget.nonPostedOk (t : InTarget) : Bool :=
  match t with
  | .memory _ => true
  | .bar0 off => decide (off < 0x4000000)
  | .bar2 off => decide (off < 0x800000)
  | .bar4 off => decide (off < 0x10000000)
  | .noBar => true
  | .ioSpace => true
  | .locked => true
  | .atomic => true
  | .vendorMsg => false

/-- A wheel path of the largest build (R22). -/
def WheelPath.ok (p : WheelPath) : Bool :=
  match p with
  | .pair n => decide (n < 8)
  | .crossbar => true
  | .tables => true
  | .records => true

/-- A source number (R363). -/
def WakeEvent.ok (e : WakeEvent) : Bool :=
  match e with
  | .source n => decide (n < 1024)
  | .pin => true
  | .access => true
  | .fnReset => true

/-- The operands of a command are in range. -/
def Instr.wellFormed (i : Instr) : Bool :=
  match i with
  | .registerWrite off _ => regOk off
  | .memoryWrite dst data _ _ => dst.postedOk && decide (0 < data.length) && decide (data.length ≤ 1024)
  | .memoryRead dst len _ tag => dst.nonPostedOk && decide (len ≤ 4096) && decide (tag < 1024)
  | .configRequest off _ _ _ tag => decide (off < 4096) && off % 4 == 0 && decide (tag < 1024)
  | .malformedTlp pair => decide (pair < 8)
  | .hostReadCompletion tag _ data _ => decide (tag < 1024) && decide (data.length ≤ 4096)
  | .completionTimeout tag => decide (tag < 1024)
  | .unexpectedCompletion tag => decide (tag < 1024)
  | .abandonedTagRelease tag => decide (tag < 1024)
  | .linkError b => decide (b < 8)
  | .mgmtAccess bar addr _ _ => decide (bar < 4) && decide (addr < 2 ^ 28)
  | .functionLevelReset => true
  | .hotReset _ => true
  | .functionReady => true
  | .fundamentalReset => true
  | .fundamentalResetRelease ties => decide (ties.icTargets < 128)
  | .hostPllLock => true
  | .channelPllLock ch => chanOk ch
  | .controlRamInitEnd => true
  | .aonReset => true
  | .queueCreate q => qidOk q
  | .queueDelete q => qidOk q
  | .queueDrainEnd q => qidOk q
  | .sqTailDoorbell q _ => qidOk q
  | .cqHeadDoorbell q _ => qidOk q
  | .sqFetch q => qidOk q
  | .pushWindowWrite w off data => decide (w < 1024) && decide (off < 4096) && decide (data.length ≤ 1024)
  | .packetParse => true
  | .completionWrite q => qidOk q
  | .coalescingTimeout q => qidOk q
  | .msixMessage v => decide (v < 2048)
  | .readPage q => qidOk q
  | .readQuarter q => qidOk q
  | .readRaw q => qidOk q
  | .readRebuild q => qidOk q
  | .programPage q => qidOk q
  | .programRaw q => qidOk q
  | .reprogramHeld q => qidOk q
  | .releaseFrame q => qidOk q
  | .copyPage q => qidOk q
  | .eraseBlock q => qidOk q
  | .getFeature q => qidOk q
  | .setFeature q => qidOk q
  | .readParameterPage q => qidOk q
  | .resetTarget q => qidOk q
  | .abort q => qidOk q
  | .fence q => qidOk q
  | .fenceCommit _ => true
  | .getDeferred q => qidOk q
  | .survey q => qidOk q
  | .calibrate q => qidOk q
  | .selfTestStartShort q => qidOk q
  | .selfTestStartExtended q => qidOk q
  | .selfTestStop q => qidOk q
  | .runRoutine q => qidOk q
  | .stripeParityOpen q => qidOk q
  | .stripeParityClose q => qidOk q
  | .stripeParityDiscard q => qidOk q
  | .sdFetch tag => tagOk tag
  | .dataPhaseStart e => decide (e < 8)
  | .dataPhaseEnd e c => dmaIn e c
  | .programStaged tag => tagOk tag
  | .accAdditionEnd _ => true
  | .admissionRequest ch lun => chanOk ch && decide (lun < 16)
  | .admissionGrant => true
  | .admissionAge => true
  | .admissionStall => true
  | .programAgeClimb _ => true
  | .levelSet ch => chanOk ch
  | .readIssue ch => chanOk ch
  | .dataOut ch data => chanOk ch && decide (data.length ≤ 20480)
  | .statusPoll ch _ => chanOk ch
  | .rbNRise ch target => chanOk ch && decide (target < 8)
  | .pollIntervalExpiry ch target => chanOk ch && decide (target < 8)
  | .heldLunPoll ch lun => chanOk ch && decide (lun < 16)
  | .suspendProgram ch => chanOk ch
  | .suspendErase ch => chanOk ch
  | .resume ch => chanOk ch
  | .program ch quarters => chanOk ch && decide (quarters ≤ 4)
  | .programResume ch quarters => chanOk ch && decide (quarters ≤ 4)
  | .erase ch => chanOk ch
  | .targetReset ch => chanOk ch
  | .featureAccessJob ch _ => chanOk ch
  | .confirm ch _ => chanOk ch
  | .result ch _ _ => chanOk ch
  | .fail ch _ _ => chanOk ch
  | .paused ch _ _ => chanOk ch
  | .suspended ch lun => chanOk ch && decide (lun < 16)
  | .push ch _ _ => chanOk ch
  | .pushEnd ch _ _ => chanOk ch
  | .illegalMicroword ch _ => chanOk ch
  | .doldrumsStallTimeout ch _ => chanOk ch
  | .readyTimeout ch lun => chanOk ch && decide (lun < 16)
  | .lunHoldClear ch _ => chanOk ch
  | .hardDecodeEnd _ => true
  | .softDecodeEnd _ => true
  | .rebuildAdditionEnd _ => true
  | .rebuildSolveEnd tag => tagOk tag
  | .discover ch => chanOk ch
  | .discoveryEnd ch found => chanOk ch && decide (found.length ≤ 8)
  | .setRate ch => chanOk ch
  | .retrain ch => chanOk ch
  | .pllRelock ch => chanOk ch
  | .trainingEnd ch _ => chanOk ch
  | .strobeTrackingWindow ch _ => chanOk ch
  | .obtHiWrite k _ => decide (k < 32768)
  | .framePoolWrite ch _ => chanOk ch
  | .bar4Write off data _ => decide (off < 0x10000000) && decide (0 < data.length) && decide (data.length ≤ 1024)
  | .bar4Read off len => decide (off < 0x10000000) && decide (len ≤ 4096)
  | .fifoPointerMismatch ch _ => chanOk ch
  | .msgPop ch => chanOk ch
  | .msgDrop ch => chanOk ch
  | .injectionArm _ => true
  | .mcOpen => true
  | .mcVerify => true
  | .verifyEnd => true
  | .loadAll => true
  | .mcLoad ch => chanOk ch
  | .channelLoadEnd ch => chanOk ch
  | .storeRefresh ch => chanOk ch
  | .rltRead index => decide (index < 65536)
  | .rltWrite index => decide (index < 65536)
  | .rltLookup => true
  | .rltInsert => true
  | .rltClearUnpinned => true
  | .rltClearAll => true
  | .rltCfgWrite _ => true
  | .rltInitEnd => true
  | .ledgerHiWrite k _ => decide (k < 32768)
  | .advPop => true
  | .surveyDue ch => chanOk ch
  | .surveyStart => true
  | .eyeScan ch _ => chanOk ch
  | .sampleRead ch data => chanOk ch && decide (data.length ≤ 20480)
  | .ringCountEnd ch ring count => chanOk ch && decide (ring < 8) && decide (count < 2 ^ 32)
  | .planRewrite ch => chanOk ch
  | .dmaStart e c => dmaIn e c
  | .dmaStop e c => dmaIn e c
  | .dmaAbort e c => dmaIn e c
  | .dmaResume e c => dmaIn e c
  | .descriptorFetch e c => dmaIn e c
  | .dmaBurst e c => dmaIn e c
  | .wheelGrant path => path.ok
  | .descriptorEnd e c => dmaIn e c
  | .recordWrite e c => dmaIn e c
  | .dmaTimerTick e timer => decide (e < 8) && decide (timer < 16)
  | .pacingWithdraw e c => dmaIn e c
  | .packetChannelsWrite e _ => decide (e < 8)
  | .ringHeadWrite k _ => decide (k < 64)
  | .ringEnable k _ => decide (k < 64)
  | .dmaOfflineWrite e _ _ => decide (e < 8)
  | .carryPop => true
  | .sourceEdge source => decide (source < 1024)
  | .squallWindowEnd => true
  | .srcPendSet w _ => srcWordOk w
  | .srcPendClr w _ => srcWordOk w
  | .srcMaskWrite w _ => srcWordOk w
  | .claim target _ => targetOk target
  | .complete target _ _ => targetOk target
  | .lullEnter => true
  | .lullEntry => true
  | .wake event => event.ok
  | .lullWake => true
  | .presenceSeen b => bayOk b
  | .debounceEnd b => bayOk b
  | .presenceLost b => bayOk b
  | .powerOn b => bayOk b
  | .rampStart b => bayOk b
  | .powerOff b => bayOk b
  | .clearFault b => bayOk b
  | .powerGoodStable b => bayOk b
  | .pgTimeout b => bayOk b
  | .powerLost b => bayOk b
  | .glitchWindowEnd b _ => bayOk b
  | .attnButtonPress b => bayOk b
  | .peSampleEdge _ _ => true
  | .peInternalTick => true
  | .strobeLost => true
  | .peResume _ => true
  | .peWeightWrite cls _ => decide (cls < 16)
  | .calStart ch _ => chanOk ch
  | .calUnitTake => true
  | .calRunEnd _ => true
  | .trimImpTgtWrite ch _ => chanOk ch
  | .correctedWriteback cls _ => decide (cls < 7)
  | .logClear cls => decide (cls < 8)
  | .frameRetire frame => decide (frame < 16384)
  | .memStgInit ch => chanOk ch
  | .stgInitEnd ch => chanOk ch
  | .memBist ch => chanOk ch
  | .bistEnd ch failing spares =>
    chanOk ch && failing.all (fun w => decide (w < 40960)) && spares.all (fun k => decide (k < 8))
  | .rawRead => true
  | .rawWrite => true
  | .replayFaultRequest ch => chanOk ch
  | .channelResetEnd ch => chanOk ch
  | .readBack _ => true
  | .replayEnd ch => chanOk ch
  | .chanFenceSet ch => chanOk ch
  | .chanFenceClr ch => chanOk ch
  | .wpRelSet ch => chanOk ch
  | .wpRelClr ch => chanOk ch
  | .selfTestEnd outcomes => outcomes.all (fun o => chanOk o.ch)
  | .loopback ch _ => chanOk ch
  | .timeSync => true
  | .lost => true
  | .trcPop => true
  | .trcFlush => true
  | .snapshot bank group _ => decide (bank < 2) && decide (group < 512)
  | .deviceTimeLoRead _ => true
  | .deviceTimeFollowerReload => true
  | .debouncePresenceHigh b => bayOk b
  | .attnButtonRelease b => bayOk b
  | .wakePinRelease => true
  | .tracePortSend => true
  | .snapshotDone bank => decide (bank < 2)
  | .linkUp => true
  | .aonResetRelease => true
  | .powerRemoval => true

end Sys2Proof
end

