-- ==== Sys2Proof/Tests/Slice0.lean ====
section
/-! SUPPORT. The model's own tests: for every statement, states that meet the hypotheses of its clauses and what the rules
of the spec say of the next state there, and the smoke test of `WellFormed`. -/

set_option Elab.async false
set_option synthInstance.maxHeartbeats 400000
set_option synthInstance.maxSize 4000

namespace Sys2Proof.Tests
open Sys2Proof Sys2Proof.Machine

/-- The state after a command. -/
def after (c : Instr) (s : State) : State := match exec c s with | .next t => t | _ => s

/-- A command leaves the state as it is. -/
def still (c : Instr) (s : State) : Bool := match exec c s with | .next t => decide (t = s) | _ => false

/-- A running block of the smallest build, with its link up and requests allowed. -/
def up : State :=
  { State.reset with
    build := .skn64
    ph := { powered := true, aonReset := false, blkReset := false, hclk := true, tablesReady := true, ready := true,
            resetCause := 0, rltReady := true, master := 0 }
    cfg := [(4, 0x6)]
    ep := { State.reset.ep with linkUp := true } }

/-- Bay 0 is on, and channel 0 runs with one TLC target of two LUNs, two planes and 16 KiB pages. -/
def flash : State :=
  let s := up.setBay 0 { Bay.init with st := .on, prsnt := true, pwrGood := true }
  let s := s.setChan 0 { Chan.init with st := .running, inReset := false, present := 1, store := .loaded }
  (s.setReg (geomAt 0 0) 0x03D00063).setReg (geomAt 0 0 + 4) 0x700202FF

/-- A packet of an opcode with the fields of a list, each a byte offset and a value. -/
def pkt (op : Nat) (l : List (Nat × Nat)) : Packet :=
  BitVec.ofNat 512 (l.foldl (fun n e => n + e.2 * 2 ^ (8 * e.1)) (op + 0x1234 * 2 ^ 16))

/-- A packet waits in the SQ of queue `q`, which is active. -/
def onQueue (s : State) (q : Nat) (p : Packet) : State :=
  (s.setReg (qcAt q + 0x10) 0x00070007).setQueue q
    { Queue.init with st := .active, sqTail := 1, fetched := [(0, p)], fetchNext := 1 }

/-- What `parsesNext` says, as a test. -/
def ready (s : State) (q : Nat) (p : Packet) : Bool :=
  s.parsing && s.rawGroups.isEmpty && (s.arbitrate.map Prod.fst == some q) && (s.nextPacket q == some p) && s.parsable q

theorem parsesNext_of {s : State} {q : Nat} {p : Packet} (h : ready s q p = true) : parsesNext s q p := by
  unfold ready at h
  simp only [Bool.and_eq_true, beq_iff_eq, List.isEmpty_iff, Option.map_eq_some_iff, Prod.exists,
    exists_and_right, exists_eq_right] at h
  obtain ⟨⟨⟨⟨a, b⟩, c⟩, d⟩, e⟩ := h
  exact ⟨a, b, c, d, e⟩

theorem getD_all {α : Type} (P : Nat → α → Prop) (m : SMap α) (d : α) (h0 : ∀ k, P k d) (h : ∀ e, e ∈ m → P e.1 e.2)
    (k : Nat) : P k (SMap.getD m k d) := by
  unfold SMap.getD
  induction m with
  | nil => exact h0 k
  | cons e r ih =>
    obtain ⟨i, v⟩ := e
    simp only [SMap.get]
    split
    · rename_i hi; subst hi; exact h (i, v) List.mem_cons_self
    · exact ih (fun e he => h e (List.mem_cons_of_mem _ he))

/-- No frame is bound to the page. -/
def unbound (s : State) (a : Addr) : Bool := s.frames.all (fun e => decide (e.2.bind ≠ some (pageOf a)))

theorem unboundPage_of {s : State} {a : Addr} (h : unbound s a = true) : unboundPage s a :=
  getD_all (fun _ x => x.bind ≠ some (pageOf a)) s.frames Frame.init (fun _ => nofun)
    (fun e he => of_decide_eq_true (List.all_eq_true.1 h e he))

theorem onlyBound_of {s : State} {a : Addr} {f : Nat}
    (h : s.frames.all (fun e => decide (e.2.bind = some (pageOf a) → e.1 = f)) = true) :
    ∀ g, (s.frame g).bind = some (pageOf a) → g = f := fun g =>
  getD_all (fun g x => x.bind = some (pageOf a) → g = f) s.frames Frame.init (fun _ => nofun)
    (fun e he => of_decide_eq_true (List.all_eq_true.1 h e he)) g

/-- A tag in use for a command of queue `q`. -/
def useTag (s : State) (k : Nat) (o : Opcode) (p : Packet) (st : TagState) (f : Tag → Tag) : State :=
  s.setTag k (f { Tag.init with st := st, cid := pkCid p, opcode := some o, packet := p })

/-- A piece of flash work of channel 0, LUN 0. -/
def work0 (k : WorkKind) : Work := { Work.new k .own 0x50000 none 0 with pageSize := 2, length := 16 }

/-- Work 0. -/
def withWork (s : State) (w : Work) : State := { s with works := [(0, w)], nextWork := 1 }

/-- An array operation of work 0 runs in LUN 0 of channel 0. -/
def withOp (s : State) (k : WorkKind) (f : ArrayOp → ArrayOp) : State :=
  s.modLun 0 (fun x => { x with op := some (f (ArrayOp.start k [0])) })

/-! Packets. -/

def readPkt : Packet := pkt 1 [(5, 2), (10, 5), (24, 16384)]
def progPkt : Packet := pkt 8 [(5, 2), (10, 5), (12, 7), (24, 16384)]
def qRead : State := onQueue flash 0 readPkt
def qOrder : State := onQueue (flash.setObtEntry 0 { ObtEntry.init with valid := true, block := 7, pointer := 5 }) 0 progPkt

theorem test_check_opcode :
    let s := onQueue up 0 (pkt 0xFF [])
    let t := after .packetParse s
    ready s 0 (pkt 0xFF []) = true ∧ (s.queue 0).discard = false ∧
      s.verdict 0 (pkt 0xFF []) = .fail .invalidOpcode 0 ∧ dueTagless t 0 0x1234 .invalidOpcode 0 ∧
      (t.queue 0).sqHead = 1 := by
  unfold dueTagless; decide +kernel

theorem test_check_admin :
    let s := onQueue up 1 (pkt 0x29 [])
    ready s 1 (pkt 0x29 []) = true ∧ s.verdict 1 (pkt 0x29 []) = .fail .invalidOpcode 0 ∧
      dueTagless (after (.calibrate 1) s) 1 0x1234 .invalidOpcode 0 := by
  unfold dueTagless; decide +kernel

theorem test_check_field :
    let s := onQueue flash 0 (pkt 1 [(5, 2), (24, 4096)])
    ready s 0 (pkt 1 [(5, 2), (24, 4096)]) = true ∧
      dueTagless (after (.readPage 0) s) 0 0x1234 .invalidField 24 := by
  unfold dueTagless; decide +kernel

theorem test_check_order :
    let t := after (.programPage 0) qOrder
    ready qOrder 0 progPkt = true ∧ qOrder.verdict 0 progPkt = .order (pkAddr progPkt) 5 ∧
      dueTagless t 0 0x1234 .pageOrderViolation 5 ∧ t.bit (chanPage 0 + 0xA8) 5 = true ∧
      t.reg (chanPage 0 + 0x100 + 16 * qOrder.fld (chanPage 0 + 0x180) 2 0) = 0x50000 ∧ t.tags = qOrder.tags ∧
      t.obt = qOrder.obt := by
  unfold dueTagless; decide +kernel

theorem test_row_not_next : packetRow 0 readPkt = some (.readPage 0) ∧ packetRow 0 readPkt ≠ some (.eraseBlock 0) ∧
    still (.eraseBlock 0) qRead = true ∧ still (.readPage 1) qRead = true := by decide +kernel

theorem test_read :
    let t := after (.readPage 0) qRead
    ready qRead 0 readPkt = true ∧ qRead.verdict 0 readPkt = .pass false ∧ unbound qRead (pkAddr readPkt) = true ∧
      accepted qRead t 0 readPkt 0 ∧ (t.tag 0).st = .queued ∧ qRead.freeFrameOf 0 = some 0 ∧
      (t.tag 0).frame = some 0 ∧ (t.frame 0).st = .inUse ∧ (t.frame 0).owner = some 0 ∧
      (t.work 0).map (fun w => (w.kind, w.role, w.tag, w.frame, w.st, w.addr)) =
        some (.read, .own, some 0, some 0, .waiting, 0x50000) := by
  unfold accepted; decide +kernel

def quarterPkt : Packet := pkt 2 [(5, 2), (8, 0xC000), (24, 4096)]
def rawPkt : Packet := pkt 3 [(24, 18176)]

theorem test_read_quarter_raw :
    let s := onQueue flash 0 quarterPkt
    let r := onQueue flash 0 rawPkt
    ready s 0 quarterPkt = true ∧ s.verdict 0 quarterPkt = .pass false ∧
      ((after (.readQuarter 0) s).work 0).map (fun w => (w.addr, w.raw)) = some (0xC000, false) ∧
      ready r 0 rawPkt = true ∧ r.verdict 0 rawPkt = .pass false ∧
      ((after (.readRaw 0) r).work 0).map (fun w => w.raw) = some true := by
  decide +kernel

def qForward : State :=
  onQueue (flash.setFrame 63 { Frame.init with st := .held, bind := some 0x50000 }) 0 readPkt

theorem test_read_forward :
    let t := after (.readPage 0) qForward
    ready qForward 0 readPkt = true ∧ qForward.verdict 0 readPkt = .pass false ∧
      (qForward.frame 63).bind = some (pageOf (pkAddr readPkt)) ∧ (qForward.frame 63).named = none ∧
      qForward.frames.all (fun e => decide (e.2.bind = some (pageOf (pkAddr readPkt)) → e.1 = 63)) = true ∧
      accepted qForward t 0 readPkt 0 ∧ (t.tag 0).forwarded = true ∧ (t.tag 0).frame = some 63 ∧
      (t.frame 63).st = .held := by
  unfold accepted; decide +kernel

def rebuildPkt : Packet := pkt 4 [(1, 1), (5, 2), (10, 5), (24, 16384), (40, 0x1000)]
def dark : State := flash.setBay 0 Bay.init

theorem test_read_rebuild :
    let s := onQueue flash 0 rebuildPkt
    let r := onQueue dark 0 rebuildPkt
    let t := after (.readRebuild 0) s
    ready s 0 rebuildPkt = true ∧ s.verdict 0 rebuildPkt = .pass false ∧ ready r 0 rebuildPkt = true ∧
      r.verdict 0 rebuildPkt = .pass true ∧ accepted s t 0 rebuildPkt 0 ∧ (t.tag 0).st = .decoding ∧
      (t.tag 0).sdPending = true ∧ t.works = s.works ∧ t.frames = s.frames ∧
      ((after .packetParse r).tag 0).st = .decoding := by
  unfold accepted; decide +kernel

def absentPkt : Packet := pkt 1 [(1, 1), (5, 2), (10, 5), (24, 16384), (40, 0x1000)]

theorem test_read_absent :
    let s := onQueue dark 0 absentPkt
    let t := after (.readPage 0) s
    ready s 0 absentPkt = true ∧ s.verdict 0 absentPkt = .pass true ∧ accepted s t 0 absentPkt 0 ∧
      (t.tag 0).st = .decoding ∧ (t.tag 0).sdPending = true ∧ t.works = s.works ∧ t.frames = s.frames := by
  unfold accepted; decide +kernel

theorem test_program :
    let s := onQueue (flash.setObtEntry 0 { ObtEntry.init with valid := true, block := 7, pointer := 4 }) 0 progPkt
    let t := after (.programPage 0) s
    ready s 0 progPkt = true ∧ s.verdict 0 progPkt = .pass false ∧ accepted s t 0 progPkt 0 ∧
      (t.tag 0).st = .fetching ∧ s.freeFrameOf 0 = some 0 ∧ (t.tag 0).frame = some 0 ∧ (t.frame 0).st = .inUse ∧
      (t.frame 0).bind = some (pageOf (pkAddr progPkt)) ∧ s.obtFind (pkAddr progPkt) = some 0 ∧
      (t.obtEntry 0).pointer = 5 ∧
      (t.work 0).map (fun w => (w.kind, w.role, w.tag, w.frame, w.st, w.addr)) =
        some (.program, .own, some 0, some 0, .waiting, pkAddr progPkt) := by
  unfold accepted; decide +kernel

def copyPkt : Packet := pkt 0x0C [(5, 2), (10, 5), (12, 7), (58, 6)]

theorem test_copy :
    let s := onQueue flash 0 copyPkt
    let t := after (.copyPage 0) s
    ready s 0 copyPkt = true ∧ s.verdict 0 copyPkt = .pass false ∧ (s.queue 0).discard = false ∧
      (s.chan 0).fenced = false ∧ s.bayOn 0 = true ∧ unbound s (pkAddr2 copyPkt) = true ∧
      accepted s t 0 copyPkt 0 ∧ (t.tag 0).st = .queued ∧
      (t.work 0).map (fun w => (w.kind, w.role, w.tag, w.addr)) = some (.program, .own, some 0, pkAddr copyPkt) ∧
      (t.work 1).map (fun w => (w.kind, w.role, w.tag, w.addr)) = some (.read, .source, some 0, 0x60000) := by
  unfold accepted; decide +kernel

/-- Channel 1 has a target too, and is fenced. -/
def fencedSource : State :=
  let s := flash.setChan 1 { Chan.init with st := .running, inReset := false, present := 1, fenced := true }
  (s.setReg (geomAt 1 0) 0x03D00063).setReg (geomAt 1 0 + 4) 0x700202FF

def copyFencedPkt : Packet := pkt 0x0C [(5, 2), (10, 5), (12, 7), (56, 0x10)]

theorem test_copy_fenced :
    let s := onQueue fencedSource 0 copyFencedPkt
    let t := after (.copyPage 0) s
    ready s 0 copyFencedPkt = true ∧ s.verdict 0 copyFencedPkt = .pass false ∧ s.freeTagOf 0 = some 0 ∧
      dueFor t 0 0 .channelFenced 1 := by
  unfold dueFor; decide +kernel

def heldFrame : Frame := { Frame.init with st := .held, bind := some 0x700050000, pageSize := 2, level := 1 }
def reprogPkt : Packet := pkt 0x0A [(5, 2), (10, 9), (12, 7), (48, 5)]

theorem test_reprogram :
    let s := onQueue (flash.setFrame 5 heldFrame) 0 reprogPkt
    let t := after (.reprogramHeld 0) s
    ready s 0 reprogPkt = true ∧ s.verdict 0 reprogPkt = .pass false ∧ accepted s t 0 reprogPkt 0 ∧
      (t.tag 0).st = .queued ∧ (t.tag 0).frame = some 5 ∧ (t.frame 5).named = some 0 ∧
      (t.frame 5).bind = some 0x700050000 ∧
      (t.work 0).map (fun w => (w.kind, w.tag, w.frame)) = some (.program, some 0, some 5) := by
  unfold accepted; decide +kernel

def releasePkt : Packet := pkt 0x0B [(10, 5), (12, 7), (48, 5)]

theorem test_release :
    let s := onQueue (flash.setFrame 5 heldFrame) 0 releasePkt
    let t := after (.releaseFrame 0) s
    ready s 0 releasePkt = true ∧ s.verdict 0 releasePkt = .pass false ∧ s.forwardsFrom 5 = false ∧ s.addingFrom 5 = false ∧
      s.freeTagOf 0 = some 0 ∧ dueFor t 0 0 .success 0 ∧ (t.frame 5).st = .free := by
  unfold dueFor; decide +kernel

def erasePkt : Packet := pkt 0x10 [(12, 7), (48, 1)]

theorem test_erase :
    let s := onQueue (flash.setObtEntry 0 { ObtEntry.init with valid := true, block := 7, pointer := 4 }) 0 erasePkt
    let t := after (.eraseBlock 0) s
    ready s 0 erasePkt = true ∧ s.verdict 0 erasePkt = .pass false ∧ accepted s t 0 erasePkt 0 ∧
      (t.tag 0).st = .queued ∧ s.obtFind (pkAddr erasePkt) = some 0 ∧ (t.obtEntry 0).valid = false ∧
      (t.work 0).map (fun w => (w.kind, w.role, w.tag, w.st, w.noSuspend)) =
        some (.erase, .own, some 0, .waiting, true) := by
  unfold accepted; decide +kernel

def featurePkt : Packet := pkt 0x18 [(48, 0x90)]
def setFeaturePkt : Packet := pkt 0x19 [(48, 0x90), (52, 7)]
def resetPkt : Packet := pkt 0x1B [(48, 2)]

theorem test_feature_packets :
    let s := onQueue flash 0 featurePkt
    let r := onQueue flash 0 setFeaturePkt
    let x := onQueue flash 0 resetPkt
    ready s 0 featurePkt = true ∧ s.verdict 0 featurePkt = .pass false ∧ ready r 0 setFeaturePkt = true ∧
      r.verdict 0 setFeaturePkt = .pass false ∧ ready x 0 resetPkt = true ∧ x.verdict 0 resetPkt = .pass false ∧
      ((after (.getFeature 0) s).tag 0).st = .queued ∧
      ((after (.getFeature 0) s).work 0).map (fun w => (w.kind, w.st)) = some (.access, .waiting) ∧
      ((after (.setFeature 0) r).work 0).map (fun w => (w.kind, w.st)) = some (.access, .waiting) ∧
      ((after (.resetTarget 0) x).work 0).map (fun w => (w.kind, w.st)) = some (.reset, .waiting) ∧
      (after (.resetTarget 0) x).frames = x.frames := by
  decide +kernel

def paramPkt : Packet := pkt 0x1A [(24, 256)]
def routinePkt : Packet := pkt 0x30 [(24, 64), (48, 32), (49, 1)]
def routineImage : Image := { version := 1, count := 1, entries := [(32, 0x1800)], words := [] }

theorem test_param_routine :
    let s := onQueue flash 0 paramPkt
    let r := onQueue (flash.modChan 0 (fun c => { c with image := some routineImage })) 0 routinePkt
    ready s 0 paramPkt = true ∧ s.verdict 0 paramPkt = .pass false ∧ ready r 0 routinePkt = true ∧
      r.verdict 0 routinePkt = .pass false ∧ ((after (.readParameterPage 0) s).tag 0).st = .queued ∧
      ((after (.readParameterPage 0) s).frame 0).st = .inUse ∧ ((after (.runRoutine 0) r).tag 0).st = .fetching ∧
      ((after (.runRoutine 0) r).work 0).map (fun w => (w.kind, w.frame)) = some (.routine, some 0) := by
  decide +kernel

def surveyPkt : Packet := pkt 0x28 [(48, 7)]
def calPkt : Packet := pkt 0x29 [(48, 1)]

theorem test_survey_packet :
    let s := onQueue flash 0 surveyPkt
    let r := onQueue (flash.modChan 0 (fun c => { c with survey := { Survey.init with st := .samples } })) 0 surveyPkt
    ready s 0 surveyPkt = true ∧ s.verdict 0 surveyPkt = .pass false ∧ s.surveyReady 0 = true ∧
      ((after (.survey 0) s).tag 0).st = .issued ∧ ((after (.survey 0) s).chan 0).survey.tag = some 0 ∧
      ready r 0 surveyPkt = true ∧ r.surveyReady 0 = false ∧ ((after (.survey 0) r).tag 0).st = .queued ∧
      ((after (.survey 0) r).chan 0).survey.again = [0] := by
  decide +kernel

theorem test_calibrate_packet :
    let s := onQueue flash 0 calPkt
    let t := after (.calibrate 0) s
    let r := onQueue (flash.modChan 0 (fun c => { c with cal := { Cal.init with st := .queued } })) 0 calPkt
    ready s 0 calPkt = true ∧ s.verdict 0 calPkt = .pass false ∧ (∀ e, e ∈ s.tags → e.2.opcode ≠ some .calibrate) ∧
      (t.tag 0).st = .queued ∧ t.calUnit.queue = [0] ∧ (t.chan 0).cal.tag = some 0 ∧ (t.chan 0).cal.apply = true ∧
      ready r 0 calPkt = true ∧ ((after (.calibrate 0) r).chan 0).cal = (r.chan 0).cal := by
  decide +kernel

def abortPkt : Packet := pkt 0x20 [(50, 0x55)]

theorem test_abort_not_found :
    let s := onQueue up 0 abortPkt
    ready s 0 abortPkt = true ∧ s.verdict 0 abortPkt = .pass false ∧
      dueTagless (after (.abort 0) s) 0 0x1234 .notFound 0 := by
  unfold dueTagless; decide +kernel

def abortOf (st : TagState) : State :=
  onQueue (useTag flash 63 .readPage readPkt st (fun x => { x with cid := 0x55 })) 0 abortPkt

theorem test_abort_tag :
    let s := abortOf .queued
    let r := abortOf .confirmed
    let t := after (.abort 0) s
    ready s 0 abortPkt = true ∧ s.verdict 0 abortPkt = .pass false ∧ liveTag s 63 ∧ (s.tag 63).abortSlot = none ∧
      (∀ e, e ∈ s.tags → e.2.sqid = 0 → e.2.cid = 0x55 → e.1 = 63) ∧ dueFor t 0 63 .aborted 0 ∧
      dueTagless t 0 0x1234 .success 63 ∧ ready r 0 abortPkt = true ∧ liveTag r 63 ∧
      (after (.abort 0) r).tag 63 = r.tag 63 ∧ dueTagless (after (.abort 0) r) 0 0x1234 .tooLate 63 := by
  unfold dueTagless dueFor liveTag; decide +kernel

theorem test_fence_packet :
    let s := onQueue up 0 (pkt 0x21 [])
    let t := after (.fence 0) s
    ready s 0 (pkt 0x21 []) = true ∧ s.verdict 0 (pkt 0x21 []) = .pass false ∧ t.fencePending 0 = true ∧
      SMap.get s.slots 0 = none ∧
      t.slot 0 = { sqid := 0, cid := 0x1234, opcode := .fence, packet := pkt 0x21 [], stamp := 0, done := false } ∧
      t.tags = s.tags := by
  decide +kernel

def deferredPkt : Packet := pkt 0x22 [(16, 0x1000), (24, 32), (48, 0x8000)]
def oneDeferred : Deferred :=
  { addr := 0x50000, cid := 1, sqid := 0, status := .lunStatusFail, opcode := .programPage, frame := 5, info := 0,
    replays := 0, fault := 0, time := 0 }

theorem test_get_deferred :
    let s := onQueue up 0 deferredPkt
    let r := onQueue { up with deferred := [oneDeferred] } 0 deferredPkt
    let t := after (.getDeferred 0) r
    ready s 0 deferredPkt = true ∧ s.verdict 0 deferredPkt = .pass false ∧ s.deferred = [] ∧
      dueTagless (after (.getDeferred 0) s) 0 0x1234 .success 0 ∧ (after (.getDeferred 0) s).ep = s.ep ∧
      ready r 0 deferredPkt = true ∧ ple deferredPkt 48 2 = 2 ^ 15 ∧ dueTagless t 0 0x1234 .success 1 ∧
      t.deferred = [] ∧ t.ep.tx.length = 1 := by
  unfold dueTagless; decide +kernel

def reservedPkt (off : Nat) : Packet := pkt 0x22 [(16, 0x18000 + off), (24, 32), (48, 0x8000)]

/-- The records go into a RESERVED frame, while they fit (R109, R198). -/
theorem test_get_deferred_reserved :
    let u := { flash with deferred := [oneDeferred] }.setFrame 3 { Frame.init with st := .reserved }
    let s := onQueue u 0 (reservedPkt 20448)
    let r := onQueue u 0 (reservedPkt 20449)
    let t := after (.getDeferred 0) s
    let v := after (.getDeferred 0) r
    ready s 0 (reservedPkt 20448) = true ∧ s.verdict 0 (reservedPkt 20448) = .pass false ∧
      s.namesReserved (reservedPkt 20448) = true ∧ dueTagless t 0 0x1234 .success 1 ∧ t.deferred = [] ∧ t.ep = s.ep ∧
      (t.frameRead 3 20448 1).1 = ([0#8], false) ∧ t.words.length = 1 ∧
      ready r 0 (reservedPkt 20449) = true ∧ dueTagless v 0 0x1234 .hostAccessError 4 ∧ v.deferred = [oneDeferred] := by
  unfold dueTagless; decide +kernel

def testPkt (mode : Nat) : Packet := pkt 0x2A [(48, mode)]

theorem test_self_test_packets :
    let s := onQueue flash 0 (testPkt 0)
    let r := onQueue { flash with test := { State.reset.test with running := true } } 0 (testPkt 2)
    ready s 0 (testPkt 0) = true ∧ s.verdict 0 (testPkt 0) = .pass false ∧ pkByte (testPkt 0) 48 ≤ 1 ∧
      (after (.selfTestStartShort 0) s).test.running = true ∧
      dueTagless (after (.selfTestStartShort 0) s) 0 0x1234 .success 1 ∧
      ready (onQueue flash 0 (testPkt 1)) 0 (testPkt 1) = true ∧
      (after (.selfTestStartExtended 0) (onQueue flash 0 (testPkt 1))).test.extended = true ∧
      ready r 0 (testPkt 2) = true ∧ r.verdict 0 (testPkt 2) = .pass false ∧
      (after (.selfTestStop 0) r).test.stopping = true := by
  unfold dueTagless; decide +kernel

def withFence : State :=
  up.setSlot 63 { sqid := 1, cid := 9, opcode := .fence, packet := pkt 0x21 [], stamp := 5, done := false }

theorem test_fence_commit :
    let r := useTag withFence 0 .readPage readPkt .queued (fun x => { x with sqid := 1, stamp := 4 })
    withFence.hostWorks = true ∧ (SMap.get withFence.slots 63).map (fun x => (x.opcode, x.done)) = some (.fence, false) ∧
      ((after (.fenceCommit 63) withFence).slot 63).done = true ∧
      dueTagless (after (.fenceCommit 63) withFence) 1 9 .success 0 ∧ still (.fenceCommit 63) r = true := by
  unfold dueTagless; decide +kernel

def openPkt : Packet := pkt 0x31 [(1, 1), (5, 2), (10, 5), (40, 0x1000), (49, 255), (50, 1)]
def openPkt2 : Packet := pkt 0x31 [(1, 1), (5, 2), (10, 5), (40, 0x1000), (50, 2), (58, 6)]

theorem test_stripe_open :
    let s := onQueue flash 0 openPkt
    let t := after (.stripeParityOpen 0) s
    let r := onQueue flash 0 openPkt2
    ready s 0 openPkt = true ∧ s.verdict 0 openPkt = .pass false ∧ accepted s t 0 openPkt 0 ∧ (t.tag 0).st = .queued ∧
      (t.tag 0).sdPending = true ∧ (t.tag 0).sd = none ∧ t.accs = s.accs ∧ t.frames = s.frames ∧
      ready r 0 openPkt2 = true ∧ r.verdict 0 openPkt2 = .pass false ∧
      ((after (.stripeParityOpen 0) r).tag 0).sdPending = true := by
  unfold accepted; decide +kernel

def openAcc : State :=
  (flash.setFrame 0 { Frame.init with st := .inUse }).setAcc 0
    { Accumulator.init with st := .opened, pAddr := 0x50000, count := 1, pageSize := 2, pFrame := some 0 }
def closePkt (mode : Nat) : Packet := pkt 0x31 [(5, 2), (10, 5), (48, mode)]

theorem test_stripe_close :
    let s := onQueue openAcc 0 (closePkt 1)
    let t := after (.stripeParityClose 0) s
    let r := onQueue openAcc 0 (closePkt 2)
    let u := after (.stripeParityDiscard 0) r
    ready s 0 (closePkt 1) = true ∧ s.verdict 0 (closePkt 1) = .pass false ∧ accepted s t 0 (closePkt 1) 0 ∧
      (t.acc 0).st = .closing ∧ (t.acc 0).closeTag = some 0 ∧
      (t.work 0).map (fun w => (w.kind, w.role, w.tag, w.frame, w.addr)) =
        some (.program, .pPage, some 0, some 0, 0x50000) ∧ (t.frame 0).bind = some (pageOf 0x50000) ∧
      ready r 0 (closePkt 2) = true ∧ r.verdict 0 (closePkt 2) = .pass false ∧ dueFor u 0 0 .success 0 ∧
      u.acc 0 = Accumulator.init := by
  unfold accepted dueFor; decide +kernel

/-! Margin survey. -/

def survey (s : State) (f : Survey → Survey) : State :=
  s.modChan 0 (fun c => { c with trainedOnce := true, survey := f c.survey })

/-- DQ 7 passes at 20 positions from -12 on for reads, and at 30 from -32 on for writes; the others pass everywhere. -/
def eyes : List EyeReport :=
  (countUp 0 8).map (fun d => { target := 0, dq := d
                                readPass := if d = 7 then (2 ^ 20 - 1) <<< 20 else -1
                                writePass := if d = 7 then 2 ^ 30 - 1 else -1 })

theorem test_survey_due :
    let s := (survey flash id).setFld 0x300400 31 16 1
    let r := (survey flash id).setFld 0x300400 31 16 0
    let t := after (.surveyDue 0) s
    s.hostWorks = true ∧ (0 : Nat) < s.nch ∧ s.fld 0x300400 31 16 ≠ 0 ∧ (t.chan 0).survey.due = true ∧
      (t.chan 0).survey.st = .waiting ∧ still (.surveyDue 0) r = true ∧ r.fld 0x300400 31 16 = 0 := by
  decide +kernel

theorem test_survey_start :
    let s := survey flash (fun x => { x with st := .waiting, due := true })
    let r := s.modChan 0 (fun c => { c with rate := 48 })
    let t := after .surveyStart s
    s.chans.all (fun e => e.2.survey.again.isEmpty) = true ∧ s.bit 8 8 = false ∧
      s.surveysActive < max 1 (s.fld 0x300400 15 12) ∧ (s.chan 0).survey.due = true ∧ s.surveyReady 0 = true ∧
      (t.chan 0).survey.due = false ∧ (t.chan 0).survey.parts = 7 ∧ (t.chan 0).survey.tag = none ∧
      ((t.chan 0).survey.st = .samples ∨ (t.chan 0).survey.st = .rings) ∧
      s.fld 0x300400 31 16 ≠ 0 ∧ still .surveyStart (s.setReg 0x300400 0x1000) = true ∧
      ((after .surveyStart r).chan 0).survey.st = .eye := by
  decide +kernel

theorem test_survey_start_tag :
    let s := useTag (survey flash (fun x => { x with again := [5, 6] })) 5 .survey surveyPkt .queued id
    let t := after .surveyStart s
    s.surveyReady 0 = true ∧ (t.tag 5).st = .issued ∧ (t.chan 0).survey.tag = some 5 ∧
      (t.chan 0).survey.again = [6] ∧ (t.chan 0).survey.st ≠ .idle := by
  decide +kernel

theorem test_eye_scan :
    let s := survey flash (fun x => { x with st := .eye, parts := 7 })
    let t := after (.eyeScan 0 eyes) s
    (s.chan 0).survey.st = .eye ∧ s.chanRuns 0 = true ∧ s.bestJob 0 = none ∧ s.tgtPresent 0 0 = true ∧
      (t.chan 0).survey.eyes = some [20, 7, 30, 7] ∧
      (t.chan 0).survey.shifts = copies 7 (meanShift [-1]) ++ [meanShift [-5]] ∧ (t.chan 0).survey.st ≠ .eye ∧
      still (.eyeScan 0 (eyes.drop 1)) s = true := by
  decide +kernel

def sampling : State :=
  withWork (survey flash (fun x => { x with st := .samples, parts := 2, shift := 1 }))
    { work0 .read with role := .sample 0 1, adm := .granted, frame := none }

theorem test_sample_read_hyp :
    sampling.bestJob 0 = some (.sample 0) ∧ (sampling.work 0).map (fun w => w.role) = some (.sample 0 1) ∧
      (1 : Int) < 2 := by
  decide +kernel

theorem test_ring_count :
    let s := survey flash (fun x => { x with st := .rings })
    let r := survey flash (fun x => { x with st := .rings, ring := 3, counts := [7, 7, 7] })
    let t := after (.ringCountEnd 0 0 70000) s
    let u := after (.ringCountEnd 0 3 9) r
    (s.chan 0).survey.st = .rings ∧ (s.chan 0).survey.ring = 0 ∧ (t.chan 0).survey.counts = [0xFFFF] ∧
      (t.chan 0).survey.ring = 1 ∧ t.ringBase 0 0 = 0xFFFF ∧ (r.chan 0).survey.ring = 3 ∧
      (u.chan 0).survey.st = .planning ∧ (u.chan 0).survey.counts = [7, 7, 7, 9] ∧ u.ringBase 0 3 = 9 := by
  decide +kernel

theorem test_plan_rewrite :
    let s := survey flash (fun x => { x with st := .planning })
    let r := useTag (survey flash (fun x => { x with st := .planning, tag := some 5 })) 5 .survey surveyPkt .issued id
    let t := after (.planRewrite 0) s
    (s.chan 0).survey.st = .planning ∧ (s.chan 0).survey.tag = none ∧ (s.chan 0).survey.again = [] ∧
      (t.chan 0).survey = Survey.init ∧ t.fld 0x330000 13 12 = 1 ∧ t.fld 0x330000 31 16 = 1 ∧
      t.arrBit 0x300420 0 = true ∧ isPending t 851 = true ∧ (t.chan 0).coldCounts = [] ∧ liveTag r 5 ∧
      (r.chan 0).survey.tag = some 5 ∧ dueFor (after (.planRewrite 0) r) 0 5 .success 0 := by
  unfold isPending liveTag dueFor; decide +kernel

/-! Faults, recovery and read backs. -/

def chan0 (s : State) (f : Chan → Chan) : State := s.modChan 0 f

theorem quietChan_of {s : State} {n : Nat} (h : (s.tags.isEmpty && s.works.isEmpty &&
    decide ((s.chan n).survey.st = .idle)) = true) : quietChan s n := by
  simp only [Bool.and_eq_true, List.isEmpty_iff, decide_eq_true_eq] at h
  exact ⟨by simp [h.1.1], by simp [h.1.2], h.2⟩

theorem test_quiet : quietChan flash 63 := quietChan_of (by decide +kernel)

theorem test_microword_faults :
    let t := after (.illegalMicroword 0 5) flash
    let s := chan0 { flash with ph := { flash.ph with master := 3 } } (fun c => { c with
      bus := { c.bus with running := true } })
    let u := after (.doldrumsStallTimeout 0 2047) s
    flash.hostWorks = true ∧ (flash.chan 0).inReset = false ∧ (flash.chan 0).store = .loaded ∧
      t.fld 0x3000 14 12 = 1 ∧ t.fld 0x3000 31 16 = 1 ∧ t.fld (chanPage 0 + 0x80C) 15 14 = 1 ∧
      t.fld (chanPage 0 + 0x80C) 10 0 = 5 ∧ (t.chan 0).inReset = true ∧ (t.chan 0).store = .loaded ∧
      t.flashPins 0 = FlashPins.parked ∧ s.stallCounts 0 = true ∧ (u.chan 0).store = .loading ∧
      (flash.flashPins 0).dqsN = .undriven ∧ (flash.flashPins 0).re = .low ∧ flash.stallCounts 0 = false ∧
      still (.doldrumsStallTimeout 0 1) flash = true ∧ (t.chan 0).loadWhy = some .fault ∧ (t.chan 0).recStep = .refreshWait ∧ (t.chan 0).replaying = true ∧
      isPending t 843 = true ∧ u.fld 0x3000 14 12 = 2 ∧ u.fld (chanPage 0 + 0x80C) 10 0 = 2047 ∧
      (u.chan 0).recStep = .reset := by
  unfold isPending; decide +kernel

theorem test_fault_request :
    let t := after (.replayFaultRequest 0) flash
    let s := chan0 flash (fun c => { c with st := .training })
    flash.serving = true ∧ (flash.chan 0).st = .running ∧ (flash.chan 0).recStep = .idle ∧ t.fld 0x3000 14 12 = 5 ∧
      (t.chan 0).st = .reset ∧ (t.chan 0).before = .running ∧ (t.chan 0).inReset = true ∧
      (t.chan 0).recStep = .reset ∧ (t.chan 0).store = .loaded ∧ isPending t 843 = true ∧
      after (.replayFaultRequest 0) s = s.setBit 0x3004 31 true := by
  unfold isPending; decide +kernel

def recovering (b : ChanState) : State :=
  chan0 flash (fun c => { c with st := .reset, before := b, inReset := true, recStep := .reset, replaying := true,
                                 target := copies 20 3 })

theorem test_channel_reset_end :
    let t := after (.channelResetEnd 0) (recovering .running)
    let u := after (.channelResetEnd 0) (recovering .absent)
    ((recovering .running).chan 0).loadWhy ≠ some .fault ∧ (t.chan 0).inReset = true ∧ (u.chan 0).inReset = false ∧
      (t.chan 0).live = copies 20 3 ∧ (t.chan 0).st = .training ∧ (t.chan 0).recStep = .retrain ∧
      (t.chan 0).trainWhy = some .fault ∧ (u.chan 0).st = .absent ∧ (u.chan 0).recStep = .idle ∧
      (u.chan 0).replaying = false := by
  decide +kernel

/-- After a power glitch the target is reset first (R459). -/
theorem test_glitch_reset :
    let s := (recovering .running).setReg 0x3000 0x4000
    let t := after (.channelResetEnd 0) s
    s.presentTargets 0 = [0] ∧ (t.chan 0).st = .training ∧ (t.chan 0).inReset = false ∧
      (t.chan 0).recStep = .retrain ∧
      (t.work 0).map (fun w => (w.kind, w.tag, w.addr, w.adm)) = some (.reset, none, 0, .requested) ∧
      after (.replayFaultRequest 0) t = t.setBit 0x3004 31 true := by
  decide +kernel

theorem test_replay_end :
    let s := chan0 flash (fun c => { c with recStep := .replay, replaying := true })
    let t := after (.replayEnd 0) s
    s.hostWorks = true ∧ (s.chan 0).recStep = .replay ∧ quietChan s 0 ∧ (t.chan 0).recStep = .idle ∧
      (t.chan 0).replaying = false ∧ isPending t 844 = true := by
  refine ⟨by decide +kernel, by decide +kernel, quietChan_of (by decide +kernel), ?_⟩
  unfold isPending; decide +kernel

theorem test_fifo_mismatch :
    let s := chan0 flash (fun c => { c with msgDrop := true, msgOpen := true })
    let r := (chan0 flash (fun c => { c with egress := [{ data := 1, mask := 1, last := true }] })).setReg
      (chanPage 0 + 0x91C) 0xFFFF0000
    let t := after (.fifoPointerMismatch 0 .message) s
    let u := after (.fifoPointerMismatch 0 .egress) r
    t.bit (chanPage 0 + 0x91C) 2 = true ∧ t.fld (chanPage 0 + 0x91C) 15 8 = 1 ∧ isPending t 815 = true ∧
      (t.chan 0).msgOpen = false ∧ (r.chan 0).egressWork = none ∧ u.bit (chanPage 0 + 0x91C) 1 = true ∧
      u.fld (chanPage 0 + 0x91C) 23 16 = 0xFF ∧ u.chan 0 = { r.chan 0 with egress := [] } := by
  unfold isPending; decide +kernel

def lossy : State :=
  useTag (withWork (chan0 flash (fun c => { c with ingressWork := some 0 }))
    { work0 .read with tag := some 3, st := .decoding, codes := [0], frame := some 0 }) 3 .readPage readPkt .decoding id

theorem test_fifo_mismatch_read :
    let s := lossy
    let t := after (.fifoPointerMismatch 0 .ingress) s
    (s.chan 0).ingressWork = some 0 ∧ (s.tag 3).losses = 0 ∧ t.bit (chanPage 0 + 0x91C) 0 = true ∧
      t.fld (chanPage 0 + 0x91C) 31 24 = 1 ∧ (t.chan 0).ingressWork = none ∧ (t.tag 3).losses = 1 ∧
      (t.work 0).map (fun w => (w.st, w.quarters, w.codes)) = some (.waiting, [0], []) := by
  decide +kernel

/-- A program of tag 3 is read back; its codewords have the outcomes of a list. -/
def readingBack (l : List Nat) : State :=
  useTag (withWork flash { work0 .program with
    role := .readBack, wasRole := .own, st := .decoding, tag := some 3, frame := some 0, codes := l })
    3 .programPage progPkt .replaying (fun x => { x with frame := some 0 })

theorem test_read_back :
    let n := after (.readBack 0) (readingBack [0])
    let y := after (.readBack 0) (readingBack [1, 1])
    let m := after (.readBack 0) (readingBack [1, 3])
    let x := after (.readBack 0) (readingBack [0, 1, 2])
    (n.work 0).map (fun w => (w.kind, w.role, w.st, w.replay, w.codes)) = some (.program, .own, .waiting, true, []) ∧
      liveTag (readingBack [1, 1]) 3 ∧ dueFor y 0 3 .success 0 ∧
      (m.work 0).map (fun w => (w.st, w.attempt, w.adm)) = some (.waiting, 1, .none) ∧
      dueFor x 0 3 .outcomeIndeterminate 0 := by
  unfold liveTag dueFor; decide +kernel

/-! The scheduler and its bus jobs. -/

def readWork : Work := { work0 .read with tag := some 3, frame := some 0, adm := .granted }
def readWaiting (a : Admission) : State :=
  useTag (withWork flash { readWork with adm := a }) 3 .readPage readPkt .queued (fun x => { x with frame := some 0 })

theorem test_admission_request :
    let s := readWaiting .none
    let t := after (.admissionRequest 0 0) s
    s.hostOn = true ∧ s.nextAsk 0 0 = some 0 ∧ (t.work 0).map (fun w => (w.adm, w.st)) = some (.requested, .waiting) ∧
      t.gov.waiting.map (fun r => (r.work, r.cls, r.release)) = [(0, 1, false)] ∧ t.gov.grants = [] ∧
      t.luns = s.luns ∧ s.softNext 0 = s ∧ s.nextAsk 0 15 = none ∧ still (.admissionRequest 0 15) s = true := by
  decide +kernel

theorem test_soft_codeword_waits :
    let w := { readWork with st := .soft, failed := [0] }
    let s := withWork flash w
    let t := after (.admissionRequest 0 15) s
    (s.chan 0).soft = none ∧ (∀ e, e ∈ s.works → e = (0, w)) ∧
      (s.frameRead 0 (w.codeBase 0) (w.cfg.bytes 0)).1.2 = false ∧ (t.chan 0).soft.map (fun b => b.work) = some 0 := by
  decide +kernel

theorem test_age_climb :
    let s := (withWork flash (work0 .erase)).setFld (chanPage 0 + 0x80) 23 8 1
    s.fld (chanPage 0 + 0x80) 23 8 ≠ 0 ∧
      (after (.programAgeClimb 0) s).work 0 = some { work0 .erase with climbed := true } := by
  decide +kernel

theorem test_polls :
    let s := withOp flash .erase id
    let r := s.modLun 1 (fun x => { x with op := some (ArrayOp.start .read [5]) })
    let t := after (.rbNRise 0 0) s
    let u := after (.pollIntervalExpiry 0 0) r
    (s.chan 0).inReset = false ∧ s.bayOn 0 = true ∧ (t.lun 0).pollDue = true ∧ (t.lun 1).pollDue = false ∧
      (r.lun 0).op ≠ none ∧ (r.lun 1).op ≠ none ∧ (u.lun 0).pollDue = true ∧ (u.lun 1).pollDue = true ∧
      (s.lun 1).op = none ∧ still (.pollIntervalExpiry 0 0) s = true := by
  decide +kernel

theorem test_held_lun :
    let s := flash.modLun 15 (fun x => { x with held := true })
    let t := after (.heldLunPoll 0 15) s
    let u := after (.lunHoldClear 0 0x8000) s
    (s.lun 15).held = true ∧ (t.lun 15).pollDue = true ∧ s.serving = true ∧ (s.chan 0).inReset = false ∧
      (u.lun 15).held = false ∧ ((after (.lunHoldClear 0 0x7FFF) s).lun 15).held = true := by
  decide +kernel

theorem test_level_set :
    let s := readWaiting .granted
    let t := after (.levelSet 0) s
    s.bestJob 0 = some (.read 0) ∧ s.needsLevels readWork = true ∧
      (t.lun 0).offsets = some (s.levelKey readWork) ∧ t.work 0 = some { readWork with levelSet := true } ∧
      (t.tag 3).st = .issued := by
  decide +kernel

def levelled : State :=
  let s := readWaiting .granted
  s.modLun 0 (fun x => { x with offsets := some (s.levelKey readWork) })
def withParked (s : State) : State :=
  s.modLun 0 (fun x => { x with parked := some { ArrayOp.start .erase [7] with suspended := true } })

theorem test_read_issue :
    let s := withParked levelled
    let t := after (.readIssue 0) s
    s.bestJob 0 = some (.read 0) ∧ s.needsLevels readWork = false ∧ s.joined 0 readWork = [] ∧
      (∀ e, e ∈ s.works → e.2.mateOf ≠ some 0) ∧
      (t.lun 0).op = some (ArrayOp.start .read [0]) ∧
      t.work 0 = some { readWork with st := .running, levelSet := false, issued := true } ∧
      (t.lun 0).parked.map (fun o => o.readsSince) = some 1 ∧ (t.tag 3).st = .issued := by
  decide +kernel

def eraseRuns (k : WorkKind) (f : ArrayOp → ArrayOp) : State :=
  let s := withWork flash { work0 k with st := .confirmed, tag := some 4, sent := true }
  let s := { s with works := s.works ++ [(1, { readWork with addr := 0x800050000 })] }
  let s := useTag s 3 .readPage readPkt .queued (fun x => { x with frame := some 0 })
  ((withOp { s with follower := 255000 } k (fun o => f { o with maySuspend := true })).setReg (chanPage 0 + 0x50) 3).setReg (chanPage 0 + 0x84) 0xFFFFFFFF

theorem test_suspend :
    let s := eraseRuns .erase id
    let r := eraseRuns .program id
    let t := after (.suspendErase 0) s
    let u := after (.suspendProgram 0) r
    s.bestJob 0 = some (.suspend 0) ∧ (s.lun 0).op.map (fun o => o.kind) = some .erase ∧
      (t.lun 0).op = some { ArrayOp.start .erase [0] true with suspending := true, suspends := 1 } ∧
      r.bestJob 0 = some (.suspend 0) ∧ (t.chan 0).bus.running = false ∧ (t.chan 0).bus.entry = 17 ∧
      { s with follower := 254999 }.bestJob 0 = none ∧
      (u.lun 0).op = some { ArrayOp.start .program [0] true with suspending := true, suspends := 1 } ∧
      still (.suspendProgram 0) s = true := by
  decide +kernel

theorem test_suspended :
    let s := eraseRuns .erase (fun o => { o with suspending := true, readsSince := 3 })
    let t := after (.suspended 0 0) s
    (s.lun 0).op.map (fun o => (o.suspending, o.cap)) = some (true, .none) ∧ (t.lun 0).op = none ∧
      (t.lun 0).parked = some { ArrayOp.start .erase [0] true with suspended := true } ∧
      t.chans = s.chans ∧ (t.work 0).map (fun w => w.adm) = some .none := by
  decide +kernel

theorem test_resume :
    let s := withWork flash { work0 .erase with st := .confirmed, adm := .granted, tag := some 4 }
    let s := s.modLun 0 (fun x => { x with parked := some { ArrayOp.start .erase [0] with suspended := true } })
    let t := after (.resume 0) s
    s.bestJob 0 = some (.resume 0) ∧ (t.lun 0).parked = none ∧ (t.lun 0).op = some (ArrayOp.start .erase [0]) := by
  decide +kernel

def programWaiting (st : WorkState) (col : Nat) : State :=
  useTag (withWork flash { work0 .program with
    tag := some 3, adm := .granted, st := st, resumeCol := col, length := 64 }) 3 .programPage progPkt .staged id

theorem test_program_job :
    let t := after (.program 0 0) (programWaiting .waiting 0)
    let u := after (.programResume 0 0) (programWaiting .paused 16)
    (programWaiting .waiting 0).bestJob 0 = some (.program 0) ∧
      (t.work 0).map (fun w => (w.st, w.resumeCol, w.sent)) = some (.running, 18176, true) ∧
      (t.chan 0).egressWork = some 0 ∧ (t.lun 0).op = some (ArrayOp.start .program [0]) ∧ (t.tag 3).st = .issued ∧
      (programWaiting .paused 16).bestJob 0 = some (.program 0) ∧
      (u.work 0).map (fun w => (w.st, w.resumeCol)) = some (.running, 18176) := by
  decide +kernel

/-- The program has climbed, and a read of the other LUN waits behind it (R143, R147). -/
def programPauses (st : WorkState) (col : Nat) : State :=
  let s := programWaiting st col
  let s := s.modWork 0 (fun w => { w with climbed := true, addr := 0x50000 })
  let s := { s with works := s.works ++ [(1, { readWork with lun := 1, stamp := 9 })], nextWork := 2 }
  s.modLun 0 (fun x => { x with held := false })

theorem test_program_stretch :
    let s := programPauses .waiting 0
    let t := after (.program 0 1) s
    let u := after (.programResume 0 3) (programWaiting .paused 16)
    s.bestJob 0 = some (.program 0) ∧ (s.work 0).map (fun w => (s.stretchEnd w 1, s.dataInEnd w)) = some (16, 18176) ∧
      (t.work 0).map (fun w => (w.st, w.resumeCol, w.sent)) = some (.running, 16, false) ∧ t.luns = s.luns ∧
      (t.chan 0).egressWork = some 0 ∧ t.emits 0 0 = true ∧ (t.tag 3).st = .issued ∧
      (u.work 0).map (fun w => (w.st, w.resumeCol, w.sent)) = some (.running, 48, false) := by
  decide +kernel

theorem test_program_pause :
    let s := after (.program 0 1) (programPauses .waiting 0)
    let r := after (.programResume 0 1) (programWaiting .paused 8)
    let v := { r with works := r.works ++ [(1, { readWork with lun := 1, stamp := 9 })], nextWork := 2 }
    let t := after (.program 0 2) s
    let u := after (.program 0 2) (after (.program 0 1) (programWaiting .waiting 0))
    (s.dataInRuns 0).map Prod.fst = some 0 ∧ (s.chan 0).bus.entry = 12 ∧ s.quarterPause 0 = true ∧
      (t.work 0).map (fun w => (w.st, w.resumeCol)) = some (.paused, 16) ∧ (t.chan 0).bus.running = false ∧
      (t.chan 0).egressWork = none ∧ t.luns = s.luns ∧ (r.chan 0).bus.entry = 13 ∧
      (v.dataInRuns 0).map Prod.fst = some 0 ∧ v.quarterPause 0 = true ∧
      ((after (.programResume 0 2) v).work 0).map (fun w => (w.st, w.resumeCol)) = some (.paused, 16) ∧
      (programWaiting .waiting 0).quarterPause 0 = false ∧
      (u.work 0).map (fun w => (w.st, w.resumeCol, w.sent)) = some (.running, 32, false) ∧
      ((after (.program 0 0) u).work 0).map (fun w => (w.resumeCol, w.sent)) = some (18176, true) := by
  decide +kernel

theorem test_program_poisoned :
    let s := ((programWaiting .waiting 0).modWork 0 (fun w => { w with frame := some 5 })).setFword (5 * 640)
      { FWord.init with poison0 := true, poison1 := true }
    s.bestJob 0 = some (.program 0) ∧ liveTag s 3 ∧ dueFor (after (.program 0 0) s) 0 3 .dataPoisoned 0 := by
  unfold liveTag dueFor; decide +kernel

theorem test_erase_job :
    let s := useTag (withWork flash { work0 .erase with tag := some 3, adm := .granted }) 3 .eraseBlock erasePkt .queued id
    let t := after (.erase 0) s
    s.bestJob 0 = some (.erase 0) ∧ (t.work 0).map (fun w => (w.st, w.sent)) = some (.running, true) ∧
      (t.lun 0).op = some (ArrayOp.start .erase [0]) ∧ (t.tag 3).st = .issued := by
  decide +kernel

theorem test_target_reset :
    let s := useTag (withWork flash { work0 .reset with tag := some 3, adm := .granted, lun := 1 }) 3 .resetTarget
      resetPkt .queued id
    let r := useTag (withWork flash { work0 .reset with tag := some 3, adm := .granted, lun := 1 }) 3 .resetTarget
      (pkt 0x1B []) .queued id
    let t := after (.targetReset 0) s
    let u := after (.targetReset 0) r
    s.bestJob 0 = some (.reset 0) ∧ (∀ e, e ∈ s.tags → e.1 / 64 = 0 → e.1 = 3) ∧
      (t.work 0).map (fun w => (w.st, w.sent)) = some (.running, true) ∧
      (t.lun 1).op = some (ArrayOp.start .reset [0]) ∧ (u.lun 0).op = some (ArrayOp.start .reset [0]) := by
  decide +kernel

/-! Polls, messages, data and stripes. -/

def polled (k : WorkKind) (o : Opcode) (p : Packet) (f : Work → Work) : State :=
  (useTag (withOp (withWork flash (f { work0 k with st := .confirmed, tag := some 3, frame := some 5, sent := true })) k id)
    3 o p .confirmed (fun x => { x with frame := some 5 })).modLun 0 (fun x => { x with pollDue := true })

theorem test_status_poll_busy :
    let s := polled .erase .eraseBlock erasePkt id
    let h := flash.modLun 0 (fun x => { x with held := true, pollDue := true })
    let t := after (.statusPoll 0 0) s
    let u := after (.statusPoll 0 0x40) h
    s.bestJob 0 = some (.poll 0) ∧ (t.lun 0).pollDue = false ∧ (t.lun 0).op.isSome = true ∧ t.works = s.works ∧
      h.bestJob 0 = some (.poll 0) ∧ (h.lun 0).op = none ∧ (u.lun 0).held = false := by
  decide +kernel

theorem test_status_poll_end :
    let r := polled .read .readPage readPkt (fun w => { w with st := .running })
    let s := polled .erase .eraseBlock erasePkt id
    let p := polled .program .programPage progPkt id
    r.bestJob 0 = some (.poll 0) ∧ ((after (.statusPoll 0 0x40) r).lun 0).op = none ∧
      ((after (.statusPoll 0 0x40) r).work 0).map (fun w => w.st) = some .arrayDone ∧ liveTag s 3 ∧
      dueFor (after (.statusPoll 0 0x40) s) 0 3 .success 0 ∧
      dueFor (after (.statusPoll 0 0xC1) s) 0 3 .lunStatusFail 0xC10000 ∧ liveTag p 3 ∧
      dueFor (after (.statusPoll 0 0x40) p) 0 3 .success 0 ∧
      dueFor (after (.statusPoll 0 0x41) p) 0 3 .lunStatusFail 0x410005 := by
  unfold liveTag dueFor; decide +kernel

theorem test_status_poll_suspending :
    let s := (polled .erase .eraseBlock erasePkt id).modLun 0 (fun x => { x with
      op := x.op.map (fun o => { o with suspending := true }) })
    (s.lun 0).op.map (fun o => o.suspending) = some true ∧ s.bestJob 0 = some (.poll 0) ∧
      ((after (.statusPoll 0 0x40) s).lun 0).op.isSome = true ∧ ((after (.statusPoll 0 0x60) s).lun 0).op = none := by
  decide +kernel

/-- The bus job of work 0 runs at an entry. -/
def sent (k : WorkKind) (o : Opcode) (p : Packet) (entry : Nat) : State :=
  useTag (withOp (withWork (chan0 flash (fun c => { c with
      bus := { c.bus with running := true, work := some 0, entry := entry, a := 7, b := 1 } }))
    { work0 k with st := .running, tag := some 3, frame := some 5, sent := true, length := 64 }) k id)
    3 o p .issued (fun x => { x with frame := some 5 })

/-- A poll of the other LUN is due. -/
def otherPoll (s : State) : State := s.modLun 1 (fun x => { x with held := true, pollDue := true })

theorem test_messages :
    let s := sent .erase .eraseBlock erasePkt 14
    let r := chan0 (sent .routine .runRoutine routinePkt 32) (fun c => { c with
      image := some { routineImage with entries := [(32, 0x2000)] } })
    let p := otherPoll (sent .program .programPage progPkt 12)
    let u := after (.confirm 0 0) { r.modLun 0 (fun x => { x with op := none }) with follower := 900 }
    let v := after (.confirm 0 0) { s with follower := 900 }
    s.emits 0 0 = true ∧ s.badMessage 0 0 3 = false ∧ ((after (.confirm 0 0) s).work 0).map (fun w => w.st) = some .confirmed ∧
      ((after (.confirm 0 0) s).tag 3).st = .confirmed ∧ ((after (.confirm 0 0) s).chan 0).bus.running = false ∧
      r.badMessage 0 0 3 = false ∧ ((after (.confirm 0 0) r).tag 3).st = .confirmed ∧
      ((after (.result 0 0 7) r).tag 3).result = 7 ∧ r.badMessage 0 0 4 = false ∧ liveTag r 3 ∧
      ((after (.fail 0 0 0xE1) r).chan 0).bus.failed = some 0xE1 ∧ (after (.fail 0 0 0xE1) r).works = r.works ∧
      (after (.confirm 0 0) r).luns = r.luns ∧ ((after (.confirm 0 0) r).chan 0).bus.confirmed = true ∧
      (u.lun 0).op = some { ArrayOp.start .routine [0] with ranFrom := 900 } ∧ (u.work 0).map (fun w => w.sent) = some true ∧
      (v.lun 0).op = some { ArrayOp.start .erase [0] with ranFrom := 900 } ∧
      dueFor (after (.fail 0 0 0xE0) p) 0 3 .lunStatusFail 0xE00005 ∧ r.badMessage 0 0 6 = false ∧
      ((after (.paused 0 0 0) r).work 0).map (fun w => (w.st, w.resumeCol)) = some (.paused, 0x10007) := by
  unfold liveTag dueFor; decide +kernel

theorem test_message_aborts :
    let s := (sent .erase .eraseBlock erasePkt 14).modTag 3 (fun x => { x with abortPending := true, abortSlot := some 9 })
    let s := s.setSlot 9 { sqid := 0, cid := 8, opcode := .abort, packet := 0, stamp := 5, done := false }
    let p := (after (.program 0 1) (programPauses .waiting 0)).modTag 3 (fun x => { x with abortPending := true })
    SMap.has s.slots 9 = true ∧ dueTagless (after (.confirm 0 0) s) 0 8 .tooLate 3 ∧ liveTag p 3 ∧
      (p.dataInRuns 0).map Prod.fst = some 0 ∧ p.quarterPause 0 = true ∧ (p.tag 3).opcode = some .programPage ∧
      dueFor (after (.paused 0 0 16) p) 0 3 .aborted 0 := by
  unfold dueTagless liveTag dueFor; decide +kernel

/-- A PAUSED message ends the data-in of a program at a quarter boundary (R147, R178). -/
theorem test_paused_message :
    let s := after (.program 0 1) (programPauses .waiting 0)
    let t := after (.paused 0 0 16) s
    (s.dataInRuns 0).map (fun e => (e.1, e.2.boundary e.2.resumeCol)) = some (0, true) ∧ s.quarterPause 0 = true ∧
      (t.work 0).map (fun w => (w.st, w.resumeCol, w.sent)) = some (.paused, 16, false) ∧ t.luns = s.luns ∧
      (t.chan 0).bus.running = false ∧ t.tags = s.tags := by
  decide +kernel

theorem test_bad_message :
    let s := chan0 (sent .read .readPage readPkt 7) (fun c => { c with bus := { c.bus with pc := 77 } })
    (after (.confirm 0 0) s).fld (chanPage 0 + 0x80C) 10 0 = 77 ∧ ((after (.confirm 0 0) s).chan 0).inReset = true ∧
    s.badMessage 0 0 3 = true ∧ s.badMessage 0 0 4 = true ∧ s.badMessage 0 0 6 = true := by
  decide +kernel

def oneMsg : State := after (.push 0 12 0xA) flash

theorem test_push :
    let t := after (.pushEnd 0 12 0xB) oneMsg
    (flash.chan 0).msgs = [] ∧ (flash.chan 0).msgDrop = false ∧ (oneMsg.chan 0).msgs =
      [{ data := 0xA, count := 1, entry := 12, first := true, last := false, truncated := false }] ∧
      (oneMsg.chan 0).msgOpen = true ∧ (t.chan 0).msgs =
      [{ data := 0xB0000000A, count := 2, entry := 12, first := true, last := true, truncated := false }] ∧
      (t.chan 0).msgOpen = false := by
  decide +kernel

theorem test_push_full :
    let m : MsgWord := { data := 0, count := 4, entry := 12, first := true, last := true, truncated := false }
    let s := chan0 flash (fun c => { c with msgs := copies 64 m })
    (s.chan 0).msgFull = true ∧ still (.push 0 12 1) s = true := by
  decide +kernel

def sdTag (o : Opcode) (p : Packet) (f : Tag → Tag) : State :=
  useTag flash 3 o p .decoding (fun x => f { x with sdPending := true, sqid := 1 })

theorem test_sd_fetch :
    let s := sdTag .readRebuild rebuildPkt id
    let t := after (.sdFetch 3) s
    s.mayIssue = true ∧ s.freeReqTag = some 0 ∧ (s.tag 3).sdBytes = [] ∧ s.sdSlots < 512 ∧ s.olderSd 3 = false ∧
      s.slotFor (.pair 1) 3 = true ∧ SMap.get t.ep.reqs 0 = some { user := .sdFetch 3, pair := 1, addr := 0x1000, len := 64 } ∧
      t.ep.tx.length = 1 := by
  decide +kernel

def stripe : Descriptor :=
  { format := 1, dataCount := 2, parityCount := 1, pageSize := 2, reservedAt := none, attrs := [0, 0, 0],
    members := [0x50000, 0x50000, 0x50000] }

theorem test_open_acc :
    let d := { stripe with dataCount := 1, parityCount := 1 }
    let s := useTag flash 3 .stripeParity openPkt .queued (fun x => { x with sd := some d })
    let t := after (.sdFetch 3) s
    liveTag s 3 ∧ (s.tag 3).openWaits = true ∧ (s.acc 255).st = .closed ∧ s.freeFrameOf 0 = some 0 ∧
      dueFor t 0 3 .success 0 ∧ (t.frame 0).st = .inUse ∧ (t.acc 255).st = .opened ∧ (t.acc 255).pFrame = some 0 := by
  unfold liveTag dueFor; decide +kernel

theorem test_acc_addition :
    let s := (useTag flash 3 .programPage progPkt .fetching (fun x => { x with adding := true, frame := some 0 })).setAcc 255
      { Accumulator.init with st := .opened, adding := [3, 9] }
    let t := after (.accAdditionEnd 255) s
    (s.acc 255).adding = [3, 9] ∧ s.slotFor .crossbar 2 = true ∧ (t.acc 255).adding = [9] ∧ (t.tag 3).adding = false := by
  decide +kernel

def rebuilding (l : List MemberOutcome) (solving : Bool) : State :=
  useTag (withWork flash { work0 .read with role := .member 1, tag := some 3, frame := some 1, st := .ended, level := 1 })
    3 .readPage readPkt .decoding (fun x => { x with
      sd := some stripe
      rebuild := some { members := l, frameA := some 1, frameB := none, wants := 0, solving := solving, poisoned := false,
                        started := true, sumP := [1, 2], sumQ := [] } })

theorem test_rebuild_addition_hyp :
    let s := rebuilding [.failed, .decoded, .running] false
    s.hostWorks = true ∧ (s.work 0).map (fun w => (w.role, w.st)) = some (.member 1, .ended) ∧
      s.slotFor .crossbar 3 = true ∧ nth [MemberOutcome.failed, .decoded, .running] 1 .running = .decoded ∧
      nth [MemberOutcome.failed, .decoded, .running] 2 .running = .running := by
  decide +kernel

theorem test_rebuild_solve_hyp :
    let s := rebuilding [.failed, .added, .added] true
    ((s.tag 3).rebuild.bind (fun r => r.solve stripe 0)) = some [1, 2] ∧
      (s.tag 3).rebuild.map (fun r => (r.frameA, r.wants)) = some (some 1, 0) := by
  decide +kernel

theorem test_ready_timeout :
    let s := sent .erase .eraseBlock erasePkt 14
    let r := flash.modLun 15 (fun x => { x with op := some { ArrayOp.start .read [] with suspends := 1 } })
    let t := after (.readyTimeout 0 0) s
    let u := after (.readyTimeout 0 15) r
    (s.lun 0).op = some (ArrayOp.start .erase [0]) ∧ liveTag s 3 ∧ (t.lun 0).held = true ∧
      (t.lun 0).op = some { ArrayOp.start .erase [] with timedOut := true } ∧
      t.bit (chanPage 0 + 0xA8) 4 = true ∧ dueFor t 0 3 .timeout 0 ∧ t.work 0 = none ∧ (u.lun 15).held = true ∧
      (u.lun 15).op.map (fun o => o.timedOut) = some true := by
  unfold liveTag dueFor; decide +kernel

def access (o : Opcode) (p : Packet) : State :=
  useTag (withWork flash { work0 .access with tag := some 3, adm := .granted, frame := some 5 }) 3 o p .queued
    (fun x => { x with frame := some 5 })

theorem test_access_timeout :
    let s := access .getFeature featurePkt
    let t := after (.readyTimeout 0 0) s
    s.bestJob 0 = some (.access 0) ∧ (s.lun 0).op = none ∧ liveTag s 3 ∧ dueFor t 0 3 .timeout 0 ∧
      (t.lun 0).held = true ∧ (t.lun 0).op = some { ArrayOp.start .access [] with timedOut := true } := by
  unfold liveTag dueFor; decide +kernel

/-- A routine that waits for the die in a microword (R171). -/
theorem test_routine_timeout :
    let s := (sent .routine .runRoutine routinePkt 32).modLun 0 (fun x => { x with op := none })
    let s := chan0 s (fun c => { c with bus := { c.bus with readyWait := true }, image := some { routineImage with words := [(0, 0x2800)] } })
    let t := after (.readyTimeout 0 0) s
    s.waitsReady 0 = true ∧ (s.chan 0).bus.work = some 0 ∧ (s.lun 0).op = none ∧ liveTag s 3 ∧ dueFor t 0 3 .timeout 0 ∧
      (t.lun 0).held = true ∧ (t.lun 0).op = some { ArrayOp.start .routine [] with timedOut := true } := by
  unfold liveTag dueFor; decide +kernel

/-- A target that stays busy after the resets of a recovery ends the recovery (R459). -/
theorem test_reset_timeout :
    let s := withOp (withWork (chan0 flash (fun c => { c with st := .training, trainWhy := some .fault }))
      { work0 .reset with addr := 0, sent := true, st := .running }) .reset id
    let t := after (.readyTimeout 0 0) s
    (s.ownResets 0).length = 1 ∧ (s.lun 0).op.map (fun o => o.timedOut) = some false ∧ (t.chan 0).st = .unconfigured ∧
      (t.lun 0).held = true ∧ (t.chan 0).inReset = false := by
  decide +kernel

theorem test_feature_job :
    let s := access .getFeature featurePkt
    let r := access .setFeature setFeaturePkt
    s.bestJob 0 = some (.access 0) ∧ liveTag s 3 ∧ pkOpcode featurePkt = some .getFeature ∧
      dueFor (after (.featureAccessJob 0 [1, 2, 3, 4]) s) 0 3 .success 0x04030201 ∧
      (after (.featureAccessJob 0 [1, 2, 3, 4]) s).work 0 = none ∧
      dueFor (after (.featureAccessJob 0 []) r) 0 3 .success 0 := by
  unfold liveTag dueFor; decide +kernel

theorem test_parameter_page_hyp :
    let s := access .readParameterPage paramPkt
    s.bestJob 0 = some (.access 0) ∧ liveTag s 3 ∧
      (if s.bit (geomAt 0 0) 29 then 512 else pkLen paramPkt) = 256 := by
  unfold liveTag; decide +kernel

def staging : State :=
  useTag (flash.setFrame 5 { Frame.init with st := .inUse }) 3 .programPage progPkt .fetching
    (fun x => { x with frame := some 5, delivered := 2 })
def stagingAck : State := staging.setReg (qcAt 0 + 0x14) 0x100

theorem test_program_staged_hyp :
    staging.hostWorks = true ∧ liveTag staging 3 ∧ staging.qStagedAck 0 = false ∧ liveTag stagingAck 3 ∧
      stagingAck.qStagedAck 0 = true := by
  unfold liveTag; decide +kernel

def moving (f : Work → Work) : State :=
  useTag (withWork flash (f { work0 .read with tag := some 3, frame := some 5, st := .arrayDone, pageSize := 0 }))
    3 .readPage readPkt .issued (fun x => { x with frame := some 5 })

theorem test_data_out :
    let r := moving (fun w => { w with raw := true, length := 4 })
    let s := moving (fun w => { w with quarters := [0] })
    let t := after (.dataOut 0 [1, 2, 3, 4]) r
    let u := chan0 s (fun c => { c with hard := [(7, 0), (8, 0)] })
    r.bestJob 0 = some (.dataOut 0) ∧ (t.work 0).map (fun w => w.st) = some .ended ∧ (t.tag 3).st = .delivering ∧
      (s.chan 0).hard.length < 2 ∧ 2 ≤ (u.chan 0).hard.length ∧ still (.dataOut 0 []) u = true ∧
      s.bestJob 0 = some (.dataOut 0) ∧ (s.work 0).map (fun w => w.quarters) = some [0] := by
  decide +kernel

/-- One iteration with channel values of magnitude 1. -/
def weakCfg : DecodeCfg := { zeros := 0, mag := 1, hardIter := 1, softIter := 1, llr := [] }

def decoding (f : Work → Work) (st : TagState) : State :=
  useTag (withWork (chan0 flash (fun c => { c with hard := [(0, 0)], hardCfg := weakCfg })) (f { work0 .read with
    tag := some 3, frame := some 5, st := .decoding, codes := [0], pageSize := 0, addr := 0 }))
    3 .readPage (pkt 1 [(24, 4096)]) st (fun x => { x with frame := some 5 })

/-! A hard decode that fails: with channel magnitude 1 every message is 0, so that no bit changes (R232). -/

/-- Posteriors of magnitude 1 or less, and no message sent. -/
structure Flat (post : Array Int) (m : Messages) : Prop where
  same : m.post = post
  sent : ∀ i, m.sent.getD i 0 = 0

theorem foldl_min_le (l : List Int) (a : Nat) : l.foldl (fun a q => min a q.natAbs) a ≤ a ∧
    ∀ q, q ∈ l → l.foldl (fun a q => min a q.natAbs) a ≤ q.natAbs := by
  induction l generalizing a with
  | nil => simp
  | cons x r ih =>
    obtain ⟨h1, h2⟩ := ih (min a x.natAbs)
    refine ⟨by simp only [List.foldl_cons]; omega, fun q hq => ?_⟩
    rcases List.mem_cons.1 hq with rfl | hq
    · simp only [List.foldl_cons]; omega
    · exact h2 q hq

theorem newMessage_flat {qs : List Int} (h : ∀ q, q ∈ qs → q.natAbs ≤ 1) (hl : 2 ≤ qs.length) (j : Nat) :
    newMessage qs j = 0 := by
  have hm : (((qs.zipIdx.filter (fun p => p.2 != j)).map Prod.fst).foldl (fun a q => min a q.natAbs) 31) ≤ 1 := by
    obtain ⟨i, hi, hij⟩ : ∃ i, i < qs.length ∧ i ≠ j := by
      by_cases hj : j = 0
      · exact ⟨1, by omega, by omega⟩
      · exact ⟨0, by omega, by omega⟩
    have hmem : qs[i] ∈ (qs.zipIdx.filter (fun p => p.2 != j)).map Prod.fst := by
      refine List.mem_map.2 ⟨(qs[i], i), List.mem_filter.2 ⟨?_, by simpa using hij⟩, rfl⟩
      exact List.mk_mem_zipIdx_iff_getElem?.2 (by simp [hi])
    exact le_trans ((foldl_min_le _ 31).2 _ hmem) (h _ (List.getElem_mem hi))
  unfold newMessage
  have h0 : ∀ n : Nat, n ≤ 1 → ((n - 1 : Nat) : Int) = 0 := by omega
  simp only [h0 _ hm, neg_zero, ite_self]

theorem oneCheck_flat {post : Array Int} {m : Messages} (hp : ∀ i, (post.getD i 0).natAbs ≤ 1) (h : Flat post m)
    (l : List Nat) (hl : 2 ≤ l.length) (base : Nat) : Flat post (oneCheck m l base) := by
  unfold oneCheck
  have hc : ∀ v : Int, v.natAbs ≤ 1 → clampTo 31 v = v ∧ clampTo 127 (v + 0) = v := by
    intro v hv; unfold clampTo; constructor <;> split <;> (try split) <;> omega
  have hq : (l.zipIdx).map (fun p => clampTo 31 (m.post.getD p.1 0 - m.sent.getD (base + p.2) 0)) =
      l.map (fun i => post.getD i 0) := by
    rw [h.same]
    apply List.ext_getElem (by simp)
    intro i h1 h2
    simp only [List.getElem_map, List.getElem_zipIdx, h.sent, sub_zero, (hc _ (hp _)).1]
  rw [hq]
  have hn : ∀ j, newMessage (l.map (fun i => post.getD i 0)) j = 0 := fun j =>
    newMessage_flat (by simp only [List.mem_map]; rintro q ⟨i, -, rfl⟩; exact hp i) (by simpa using hl) j
  simp only [hn]
  have key : ∀ (ps : List ((Nat × Int) × Nat)) (a : Messages), (∀ p, p ∈ ps → p.1.2 = post.getD p.1.1 0) → Flat post a →
      Flat post (ps.foldl (fun (a : Messages) p =>
        { post := a.post.setIfInBounds p.1.1 (clampTo 127 (p.1.2 + 0)),
          sent := a.sent.setIfInBounds (base + p.2) 0 }) a) := by
    intro ps
    induction ps with
    | nil => intro a _ ha; exact ha
    | cons p r ih =>
      intro a hps ha
      refine ih _ (fun x hx => hps x (List.mem_cons_of_mem _ hx)) ⟨?_, fun i => ?_⟩
      · show a.post.setIfInBounds p.1.1 (clampTo 127 (p.1.2 + 0)) = post
        rw [hps p List.mem_cons_self, (hc _ (hp _)).2, ha.same]
        apply Array.ext_getElem?
        intro i
        rw [Array.getElem?_setIfInBounds]
        split
        · rename_i e
          subst e
          split
          · rename_i hs; rw [Array.getElem?_eq_getElem hs]; rfl
          · rename_i hs; rw [Array.getElem?_eq_none (by omega)]
        · rfl
      · have := ha.sent i
        simp only [Array.getD_eq_getD_getElem?, Array.getElem?_setIfInBounds] at this ⊢
        split
        · split <;> rfl
        · exact this
  have hz : ∀ (l : List Nat) (x : Nat × Int), x ∈ l.zip (l.map (fun i => post.getD i 0)) → x.2 = post.getD x.1 0 := by
    intro l
    induction l with
    | nil => intro x hx; cases hx
    | cons a r ih =>
      intro x hx
      rcases List.mem_cons.1 hx with rfl | hx
      · rfl
      · exact ih x hx
  exact key _ m (fun p hpm => hz l p.1 (List.fst_mem_of_mem_zipIdx hpm)) h

theorem foldl_flat {α : Type} {post : Array Int} (g : Messages → α → Messages) (l : List α)
    (hg : ∀ a x, x ∈ l → Flat post a → Flat post (g a x)) (m : Messages) (h : Flat post m) :
    Flat post (l.foldl g m) := by
  induction l generalizing m with
  | nil => exact h
  | cons x r ih =>
    exact ih (fun a y hy => hg a y (List.mem_cons_of_mem _ hy)) _ (hg m x List.mem_cons_self h)

theorem oneIteration_flat {post : Array Int} {m : Messages} {x : CodeCfg} {l : Nat}
    (hp : ∀ i, (post.getD i 0).natAbs ≤ 1) (hr : ∀ r, r ∈ countUp 0 (levelRows l) → 2 ≤ (rowEntries x r).length)
    (h : Flat post m) : Flat post (oneIteration x l m) := by
  unfold oneIteration
  have key : ∀ (rs : List Nat) (a : Messages × Nat), (∀ r, r ∈ rs → 2 ≤ (rowEntries x r).length) → Flat post a.1 →
      Flat post (rs.foldl (fun (p : Messages × Nat) r =>
        (oneLayer x p.1 (rowEntries x r) p.2, p.2 + x.z * (rowEntries x r).length)) a).1 := by
    intro rs
    induction rs with
    | nil => intro a _ ha; exact ha
    | cons r rs ih =>
      intro a h2 ha
      refine ih _ (fun y hy => h2 y (List.mem_cons_of_mem _ hy)) ?_
      exact foldl_flat _ _ (fun a i _ ha => oneCheck_flat hp ha _
        (by simpa using h2 r List.mem_cons_self) _) _ ha
  exact key _ (m, 0) hr h

/-- A channel value of magnitude 1 for bit `i`. -/
def unitOf (input i : Nat) : Int := if (input / 2 ^ i) % 2 = 0 then 1 else -1

theorem decisions_unit (input n : Nat) (hi : input < 2 ^ n) :
    decisions input ((countUp 0 n).map (unitOf input)).toArray = input := by
  have key : ∀ n k a, (((countUp k n).map (unitOf input)).zipIdx k).foldl (fun a (p : Int × Nat) =>
      let b := if p.1 < 0 then 1 else if p.1 > 0 then 0 else (input / 2 ^ p.2) % 2
      a + b * 2 ^ p.2) a = a + (input / 2 ^ k % 2 ^ n) * 2 ^ k := by
    intro n
    induction n with
    | zero => intro k a; simp [countUp, Nat.mod_one]
    | succ n ih =>
      intro k a
      have hb : (if unitOf input k < 0 then 1 else if unitOf input k > 0 then 0 else (input / 2 ^ k) % 2) =
          input / 2 ^ k % 2 := by
        unfold unitOf
        rcases Nat.mod_two_eq_zero_or_one (input / 2 ^ k) with h | h <;> simp [h]
      simp only [countUp, List.map_cons, List.zipIdx_cons, List.foldl_cons]
      rw [ih (k + 1), hb, Nat.pow_succ 2 k, ← Nat.div_div_eq_div_mul]
      have : input / 2 ^ k % 2 ^ (n + 1) = input / 2 ^ k % 2 + 2 * (input / 2 ^ k / 2 % 2 ^ n) := by
        rw [Nat.pow_succ, Nat.mul_comm (2 ^ n) 2, Nat.mod_mul]
      rw [this]; ring
  have := key n 0 0
  simp only [Nat.pow_zero, Nat.div_one, Nat.mul_one, Nat.zero_add, Nat.mod_eq_of_lt hi] at this
  unfold decisions
  exact this

theorem hardDecode_unit {x : CodeCfg} {l input z : Nat} (hi : input < 2 ^ x.nbits l)
    (hr : ∀ r, r ∈ countUp 0 (levelRows l) → 2 ≤ (rowEntries x r).length)
    (hz : z < x.nbits l - ones (x.nbits l) input) (hu : syndromeWeight x l input ≠ 0) :
    hardDecode x l input z 1 1 = .failed := by
  have hpost : (fun i => if (input / 2 ^ i) % 2 = 0 then ((1 : Nat) : Int) else -((1 : Nat) : Int)) = unitOf input := by
    funext i; rfl
  have hflat : Flat ((countUp 0 (x.nbits l)).map (unitOf input)).toArray
      (startMessages x l ((countUp 0 (x.nbits l)).map (unitOf input))) := by
    refine ⟨rfl, fun i => ?_⟩
    have hc : ∀ n, copies n (0 : Int) = List.replicate n 0 := by
      intro n; induction n with
      | zero => rfl
      | succ n ih => simp [copies, List.replicate_succ, ih]
    simp only [startMessages, hc, Array.getD_eq_getD_getElem?, List.getElem?_toArray, List.getElem?_replicate]
    split <;> rfl
  have h1 := (oneIteration_flat (x := x) (l := l) (fun i => by
    simp only [Array.getD_eq_getD_getElem?, List.getElem?_toArray, List.getElem?_map]
    cases (countUp 0 (x.nbits l))[i]? with
    | none => simp
    | some v => simp only [Option.map_some, Option.getD_some, unitOf]; split <;> decide) hr hflat).same
  unfold hardDecode runDecoder
  simp only [hpost]
  rw [if_neg (by omega), if_neg hu]
  unfold iterate
  simp only [h1, decisions_unit input _ hi, if_neg hu]
  simp [iterate]

/-- One bit of a codeword of zeros is set, with channel magnitude 1 and one iteration. -/
def failing : State :=
  let s := decoding (fun w => { w with lastAttempt := 1 }) .decoding
  (s.setReg 0x800 0x00010001).setFword 3200 { FWord.init with data := 1 }

theorem test_hard_fails : hardDecode (codeCfg 0 false) 0 1 0 1 1 = .failed :=
  hardDecode_unit (by decide +kernel) (by decide +kernel) (by decide +kernel) (by decide +kernel)

theorem test_good_word : hardDecode (codeCfg 0 false) 0 0 0 1 1 = .clean := by decide +kernel

def readBytes : (List Byte × Bool) × State := failing.frameRead 5 0 ((codeCfg 0 false).bytes 0)

theorem test_failing_bytes : readBytes.1.2 = false ∧ leNat (firstN ((codeCfg 0 false).bytes 0) readBytes.1.1) = 1 ∧
    readBytes.2.injects 0 0 = false ∧ (failing.chan 0).hard = [(0, 0)] ∧ (failing.chan 0).hardCfg = weakCfg := by
  decide +kernel

theorem test_decode_fails : (failing.decodeAt 0 5 0 (codeCfg 0 false) 0 weakCfg 0).1.1 = .failed ∧
    (failing.decodeAt 0 5 0 (codeCfg 0 false) 0 weakCfg 0).1.2.2 = false := by
  obtain ⟨h1, h2, h3, -, -⟩ := test_failing_bytes
  have h : failing.frameRead 5 0 ((codeCfg 0 false).bytes 0) = readBytes := rfl
  simp [State.decodeAt, h, h1, State.decodeBytes, State.inject, h2, h3, weakCfg, test_hard_fails]

def clean : State := (decoding id .decoding).setReg 0x800 0x00010001

def cleanBytes : (List Byte × Bool) × State := clean.frameRead 5 0 ((codeCfg 0 false).bytes 0)

theorem test_decode_good :
    (clean.decodeAt 0 5 0 (codeCfg 0 false) 0 weakCfg 0).1.1.good = true ∧
      (clean.decodeAt 0 5 0 (codeCfg 0 false) 0 weakCfg 0).1.2.2 = false := by
  have hb : cleanBytes.1.2 = false ∧ leNat (firstN ((codeCfg 0 false).bytes 0) cleanBytes.1.1) = 0 ∧
      cleanBytes.2.injects 0 0 = false := by decide +kernel
  obtain ⟨h1, h2, h3⟩ := hb
  have hd : ∀ m i, hardDecode (codeCfg 0 false) 0 0 0 m i = .clean := by
    intro m i
    unfold hardDecode
    rw [if_neg (by decide +kernel), if_pos (by decide +kernel)]
  have h : clean.frameRead 5 0 ((codeCfg 0 false).bytes 0) = cleanBytes := rfl
  simp [State.decodeAt, h, h1, State.decodeBytes, State.inject, h2, h3, weakCfg, hd, Decoded.good]

/-! Bays. -/

def bay7 (f : Bay → Bay) : State := flash.setBay 7 (f Bay.init)

theorem test_presence :
    let e := bay7 id
    let d := bay7 (fun x => { x with st := .debounce, prsnt := true })
    let t := after (.debounceEnd 7) d
    e.bayLive 7 = true ∧ (e.bay 7).st = .empty ∧ ((after (.presenceSeen 7) e).bay 7).st = .debounce ∧
      (t.bay 7).st = .off ∧ t.bit (bayAt 7 + 8) 0 = true ∧ t.fld (bayAt 7 + 0x14) 15 0 = 1 ∧ d.hostWorks = true ∧
      d.ph.ready = true ∧ d.bit (bayAt 7 + 8) 0 = false ∧ isPending t 775 = true ∧
      ((after (.debouncePresenceHigh 7) d).bay 7).st = .empty ∧ still (.presenceLost 7) d = true := by
  unfold isPending; decide +kernel

theorem test_presence_lost :
    let o := bay7 (fun x => { x with st := .off, prsnt := true, powerPending := true })
    let n := bay7 (fun x => { x with st := .on, prsnt := true })
    let t := after (.presenceLost 7) o
    (t.bay 7).st = .empty ∧ (t.bay 7).powerPending = false ∧ t.bit (bayAt 7 + 8) 1 = true ∧
      ((after (.presenceLost 7) n).bay 7).st = .empty ∧ ((after (.presenceLost 7) n).bay 7).prsnt = false := by
  decide +kernel

theorem test_button :
    let s := bay7 id
    let t := after (.attnButtonPress 7) s
    (s.bay 7).btnArmed = true ∧ t.bay 7 = { Bay.init with btn := true, btnArmed := false } ∧
      t.bit (bayAt 7 + 8) 6 = true ∧ isPending t 775 = true ∧ still (.attnButtonPress 7) t = true ∧
      (after (.attnButtonRelease 7) t).bay 7 = Bay.init := by
  unfold isPending; decide +kernel

def fencedBay (f : Bay → Bay) : State :=
  (bayChans 7).foldl (fun s n => s.setChan n { Chan.init with fenced := true }) (bay7 f)

theorem test_power_on :
    let s := fencedBay (fun x => { x with st := .off, prsnt := true })
    let w := s.setBay 6 { Bay.init with st := .off, prsnt := true, powerPending := true }
    s.serving = true ∧ (bayChans 7).all (fun n => (s.chan n).fenced) = true ∧ s.rampFree = true ∧
      s.rampWaiter = none ∧ ((after (.powerOn 7) s).bay 7).st = .ramping ∧ w.rampWaiter = some 6 ∧
      after (.powerOn 7) w = w.setBay 7 { w.bay 7 with powerPending := true } ∧
      ((after (.rampStart 6) w).bay 6).st = .ramping ∧ ((after (.rampStart 6) w).bay 6).powerPending = false ∧
      still (.rampStart 7) w = true ∧
      after (.powerOn 0) s = s.setBit (bayAt 0 + 4) 31 true := by
  decide +kernel

theorem test_power_off :
    let r := fencedBay (fun x => { x with st := .ramping, prsnt := true })
    let n := fencedBay (fun x => { x with st := .on, prsnt := true, pwrGood := true })
    let f := fencedBay (fun x => { x with st := .fault, prsnt := true })
    ((after (.powerOff 7) r).bay 7).st = .off ∧ (bayChans 7).all (fun c => n.powerQuiet c) = true ∧
      ((after (.powerOff 7) n).bay 7).st = .off ∧ ((after (.powerOff 7) n).bay 7).pwrGood = true ∧
      after (.powerOff 7) f = f.setBit (bayAt 7 + 4) 31 true ∧ ((after (.clearFault 7) f).bay 7).st = .off ∧
      after (.clearFault 7) n = n.setBit (bayAt 7 + 4) 31 true ∧
      (bayChans 0).all (fun c => f.powerQuiet c) = false ∧
      after (.powerOff 0) f = f.setBit (bayAt 0 + 4) 31 true := by
  decide +kernel

theorem test_ramp_ends :
    let s := fencedBay (fun x => { x with st := .ramping, prsnt := true })
    let t := after (.pgTimeout 7) s
    ((after (.powerGoodStable 7) s).bay 7).st = .on ∧ ((after (.powerGoodStable 7) s).bay 7).pwrGood = true ∧
      (t.bay 7).st = .fault ∧ t.fld (bayAt 7 + 8) 17 16 = 2 ∧ t.bit (bayAt 7 + 8) 4 = true ∧
      t.fld (bayAt 7 + 0x14) 31 16 = 1 := by
  decide +kernel

theorem test_power_lost :
    let n := fencedBay (fun x => { x with st := .on, prsnt := true, pwrGood := true })
    let z := n.setFld (bayAt 7 + 0x10) 9 0 0
    let w := n.setFld (bayAt 7 + 0x10) 9 0 1
    let g := fencedBay (fun x => { x with st := .on, prsnt := true, glitch := true })
    ((after (.powerLost 7) z).bay 7).st = .fault ∧
      (after (.powerLost 7) w).bay 7 = { w.bay 7 with glitch := true, pwrGood := false } ∧
      still (.powerLost 7) g = true ∧
      (after (.glitchWindowEnd 7 true) g).bay 7 = { g.bay 7 with glitch := false, pwrGood := true } ∧
      (after (.glitchWindowEnd 7 true) g).bit (bayAt 7 + 8) 5 = true ∧
      ((after (.glitchWindowEnd 7 false) g).bay 7).st = .fault := by
  decide +kernel

/-! DMA. Channel 511 is channel 63 of engine 7. -/

def dma511 (f : DmaChan → DmaChan) : State := flash.setDmaChan 511 (f DmaChan.init)
def loadedChan (f : DmaChan → DmaChan) : State :=
  dma511 (fun d => f { d with st := .running, loaded := true, listEnd := true })

def aRecord : DmaRecord := { desc := 0, bytes := 1, status := .ok, ended := true, aborted := false, fault := 0 }

theorem test_dma_start :
    let s := (dma511 id).setReg (0x100050 + 511 * 0x400) 0x1234
    let l := s.setBit (0x100040 + 511 * 0x400) 4 true
    let b := s.setReg (0x10001C + 511 * 0x400) 0xF0000000
    let t := after (.dmaStart 7 63) l
    let u := after (.dmaStart 7 63) s
    let v := after (.dmaStart 7 63) b
    s.serving = true ∧ l.packetChan 511 = false ∧ (l.dmaChan 511).st = .idle ∧ l.bme = true ∧
      (t.dmaChan 511).st = .running ∧ (t.dmaChan 511).loading = some 0x1200 ∧ (t.dmaChan 511).loaded = false ∧
      s.bit (0x100040 + 511 * 0x400) 4 = false ∧ (s.dmaChan 511).user = none ∧ u.dmaDesc 511 = 0 ∧
      s.badFormat (s.desc 511) = false ∧ s.paceMode 511 = 0 ∧ (u.dmaChan 511).st = .running ∧
      (u.dmaChan 511).loaded = true ∧ b.badFormat (b.desc 511) = true ∧ (v.dmaChan 511).st = .halted ∧
      (v.dmaChan 511).status = .format ∧ isPending v 767 = true := by
  unfold isPending; decide +kernel

theorem test_dma_start_ignored :
    let s := dma511 id
    let r := loadedChan id
    s.packetChan 0 = true ∧ after (.dmaStart 0 0) s = s.setBit 0x100044 16 true ∧
      after (.dmaStart 7 63) r = r.setBit (0x100044 + 511 * 0x400) 16 true ∧
      after (.dmaResume 7 63) s = s.setBit (0x100044 + 511 * 0x400) 16 true := by
  decide +kernel

theorem test_dma_stop :
    let r := loadedChan (fun d => { d with record := some { aRecord with ended := false } })
    let t := after (.dmaStop 7 63) r
    (t.dmaChan 511).stop = true ∧ (t.dmaChan 511).record.map (fun x => x.ended) = some true ∧
      still (.dmaStop 7 63) (dma511 id) = true := by
  decide +kernel

def aBurst : Burst := { pos := 0, len := 8, todo := [(0, 0x40, 8)], bytes := [], outstanding := 0, marks := [] }

theorem test_dma_abort :
    let s := loadedChan id
    let b := loadedChan (fun d => { d with burst := some aBurst })
    (s.dmaChan 511).record = none ∧ (s.desc 511).record = false ∧
      ((after (.dmaAbort 7 63) s).dmaChan 511).st = .idle ∧
      ((after (.dmaAbort 7 63) s).dmaChan 511).status = .aborted ∧
      (after (.dmaAbort 7 63) b).dmaChan 511 = { b.dmaChan 511 with abort := true } ∧
      still (.dmaAbort 7 63) (dma511 id) = true := by
  decide +kernel

theorem test_dma_resume :
    let h := loadedChan (fun d => { d with st := .halted, status := .hostError, hops := 9 })
    let c := loadedChan (fun d => { d with st := .halted, status := .chainLoop, hops := 9 })
    h.packetChan 511 = false ∧ (after (.dmaResume 7 63) h).dmaChan 511 = { h.dmaChan 511 with st := .running } ∧
      (after (.dmaResume 7 63) c).dmaChan 511 = { c.dmaChan 511 with st := .running, hops := 1 } := by
  decide +kernel

theorem test_pacing_withdraw :
    let s := (loadedChan (fun d => { d with credits := 3 })).setFld (0x100058 + 511 * 0x400) 1 0 1
    let t := after (.pacingWithdraw 7 63) s
    s.dmaMore 511 = true ∧ s.paceMode 511 ≠ 0 ∧ (t.dmaChan 511).credits = 0 ∧ (t.dmaChan 511).needCredit = true ∧
      (t.dmaChan 511).st = .waiting := by
  decide +kernel

theorem test_descriptor_fetch :
    let s := dma511 (fun d => { d with st := .running, loading := some 0x1200, granted := true })
    let t := after (.descriptorFetch 7 63) s
    s.hostWorks = true ∧ s.dmaStep 511 = .desc ∧ s.freeReqTag = some 0 ∧
      SMap.get t.ep.reqs 0 = some { user := .dmaDesc 511, pair := 1, addr := 0x1200, len := 64 } ∧
      t.ep.tx = [.memRead 1 0 0x1200 64] ∧ (t.dmaChan 511).granted = false := by
  decide +kernel

theorem test_list_fetch :
    let s := (loadedChan (fun d => { d with listEnd := false, listNext := some 0x40, granted := true })).setReg
      (0x10001C + 511 * 0x400) 4
    let t := after (.dmaBurst 7 63) s
    s.dmaStep 511 = .list ∧ SMap.get t.ep.reqs 0 = some { user := .dmaList 511, pair := 1, addr := 0x40, len := 16 } ∧
      t.ep.tx = [.memRead 1 0 0x40 16] := by
  decide +kernel

theorem test_burst_read :
    let s := loadedChan (fun d => { d with burst := some aBurst, granted := true })
    let t := after (.dmaBurst 7 63) s
    s.dmaStep 511 = .read ∧ SMap.get t.ep.reqs 0 = some { user := .dmaData 511 0, pair := 1, addr := 0x40, len := 8 } ∧
      (t.dmaChan 511).burst = some { aBurst with todo := [], outstanding := 1 } := by
  decide +kernel

theorem test_burst_deliver :
    let s := loadedChan (fun d => { d with burst := some { aBurst with todo := [], bytes := [(0, [1])] }, granted := true })
    let t := after (.dmaBurst 7 63) s
    s.dmaStep 511 = .deliver ∧ s.wantsPair 511 = true ∧ s.wantsCross 511 = false ∧ (t.dmaChan 511).moved = 8 ∧
      (t.dmaChan 511).burst = none ∧ t.tags = s.tags := by
  decide +kernel

theorem test_burst_denied :
    let s := (loadedChan (fun d => { d with granted := true, crossGrant := true })).setReg (0x10001C + 511 * 0x400) 1
    let t := after (.dmaBurst 7 63) s
    s.dmaStep 511 = .deliver ∧ (s.dmaChan 511).burst = none ∧
      (s.burstFrames 511 (s.curBurst 511)).any (fun q => s.denied 511 q.1 q.2) = true ∧
      (t.dmaChan 511).st = .halted ∧ (t.dmaChan 511).status = .frameDenied ∧ t.words = s.words ∧
      isPending t 767 = true := by
  unfold isPending; decide +kernel

def asksPair : State := dma511 (fun d => { d with st := .running, loading := some 0x1200 })
def asksCross : State := (loadedChan (fun d => { d with granted := true })).setReg (0x10001C + 511 * 0x400) 1

theorem test_wheel_hyp : asksPair.pathWaiters (.pair 1) = [511] ∧ asksCross.pathWaiters .crossbar = [511] ∧
    asksPair.pathWaiters .records = [] ∧ still (.wheelGrant .records) asksPair = true := by decide +kernel

theorem test_timer_tick :
    let s := ((loadedChan (fun d => { d with burst := some aBurst })).setFld (0x100058 + 511 * 0x400) 6 0 0x79).setBit
      0x18713C 31 true
    let t := after (.dmaTimerTick 7 15) s
    s.bit (0x180100 + 7 * 0x1000 + 4 * 15) 31 = true ∧ s.paceMode 511 = 1 ∧
      s.fld (0x100058 + 511 * 0x400) 6 3 = 15 ∧ (t.dmaChan 511).credits = 1 := by
  decide +kernel

/-- A descriptor that has moved its one byte. -/
def movedAll (f : DmaChan → DmaChan) : State := loadedChan (fun d => f { d with moved := 1 })

theorem test_descriptor_end :
    let s := movedAll id
    let n := (movedAll id).setReg (0x100038 + 511 * 0x400) 0x40
    let l := (movedAll (fun d => { d with hops := 5000 })).setReg (0x100038 + 511 * 0x400) 0x40
    let l := l.setFld 0x187000 31 16 100
    let t := after (.descriptorEnd 7 63) n
    s.dmaMore 511 = false ∧ (s.desc 511).record = false ∧ (s.desc 511).next = 0 ∧
      ((after (.descriptorEnd 7 63) s).dmaChan 511).status = .ok ∧
      ((after (.descriptorEnd 7 63) s).dmaChan 511).st = .idle ∧ (n.desc 511).next ≠ 0 ∧
      0 + 1 ≤ n.eddyLimit 511 ∧ (t.dmaChan 511).st = .running ∧ (t.dmaChan 511).loaded = false ∧
      (t.dmaChan 511).loading = some 0x40 ∧ (t.dmaChan 511).hops = 1 ∧ l.eddyLimit 511 < 5001 ∧
      ((after (.descriptorEnd 7 63) l).dmaChan 511).status = .chainLoop ∧
      isPending (after (.descriptorEnd 7 63) l) 767 = true := by
  unfold isPending; decide +kernel

def recording (tail : Nat) (head : Word) : State :=
  let s := loadedChan (fun d => { d with st := .waiting, record := some aRecord })
  (((s.setBit 0x19000C 0 true).setReg 0x190008 7).setReg 0x190010 head).setRing 0 { tail := tail, phase := true, since := 0 }

theorem test_record_write :
    let s := recording 7 0
    let w := recording 6 0
    let t := after (.recordWrite 7 63) w
    let z := recording 7 5
    let v := after (.recordWrite 7 63) z
    w.ringOn 0 = true ∧ w.ringFull 0 = false ∧ w.mayIssue = true ∧ (t.ring 0).tail = 7 ∧ (t.ring 0).phase = true ∧
      (t.dmaChan 511).st = .idle ∧ (t.dmaChan 511).record = none ∧ t.ep.tx.length = 1 ∧ z.ringFull 0 = false ∧
      (v.ring 0).tail = 0 ∧ (v.ring 0).phase = false ∧ s.ringFull 0 = true ∧
      (after (.recordWrite 7 63) s).dmaChan 511 = s.dmaChan 511 := by
  decide +kernel

theorem test_packet_channels :
    let s := dma511 id
    let r := loadedChan id
    let t := after (.packetChannelsWrite 7 0xABCD0008) s
    let u := after (.packetChannelsWrite 7 0xABCD0009) r
    t.fld 0x187000 31 16 = 0xABCD ∧ t.fld 0x187000 6 0 = 8 ∧ wfld (9 : Word) 6 0 ≠ r.fld 0x187000 6 0 ∧
      u.fld 0x187000 6 0 = r.fld 0x187000 6 0 ∧ u.bit 0x187004 31 = true := by
  decide +kernel

theorem test_ring_writes :
    let s := recording 0 0
    let t := after (.ringEnable 63 0xABC00F01) s
    let u := after (.ringEnable 0 0) s
    let v := after (.ringEnable 0 0) ((dma511 id).setBit 0x19000C 0 true)
    wfld (7 : Word) 15 0 < s.ringSize 0 ∧ after (.ringHeadWrite 0 7) s = s.setReg 0x190010 7 ∧
      s.ringSize 0 ≤ wfld (8 : Word) 15 0 ∧ after (.ringHeadWrite 0 8) s = s.setBit 0x190014 18 true ∧
      s.ringOn 63 = false ∧ t.ringOn 63 = true ∧ t.ring 63 = { tail := 0, phase := true, since := 0 } ∧
      t.fld (0x19000C + 63 * 0x100) 31 20 = 0xABC ∧ t.fld (0x19000C + 63 * 0x100) 15 8 = 0xF ∧
      s.ringAwaited 0 = true ∧ u.ringOn 0 = true ∧ u.bit 0x190014 18 = true ∧ v.ringOn 0 = false := by
  decide +kernel

theorem test_offline :
    let s := (dma511 id).setFld 0x187000 6 0 8
    let one := (countUp 0 7).foldl (fun (s : State) j => s.setArrBit 0x5138 j true) s
    let off := s.setArrBit 0x5138 7 true
    let t := after (.dmaOfflineWrite 7 false 0x80) s
    let u := after (.dmaOfflineWrite 7 false 0xFF) one
    let v := after (.dmaOfflineWrite 7 false 0) off
    let w := after (.dmaOfflineWrite 7 false 0) (off.setDmaChan 455 { DmaChan.init with st := .running })
    s.packetChannels 7 = 8 ∧ (∀ j, j < 32 → (bitOf 0x80 j = s.offline (64 * 7 + 0 + j) ↔ 0 + j ≠ 7)) ∧
      t.offline 455 = true ∧ t.bit 8 31 = false ∧
      (∀ j, j < 32 → (bitOf 0xFF j = one.offline (64 * 7 + 0 + j) ↔ 0 + j ≠ 7)) ∧ u.offline 455 = false ∧
      u.bit 8 31 = true ∧ v.offline 455 = false ∧ v.bit 8 31 = false ∧ w.offline 455 = true ∧ w.bit 8 31 = true := by
  decide +kernel

def delivering (st : TagState) (o : Opcode) (p : Packet) (x : Nat) : State :=
  useTag flash 3 o p st (fun t => { t with frame := some 5, delivered := x })

theorem test_data_phase_start :
    let s := delivering .delivering .readPage readPkt 0
    let t := after (.dataPhaseStart 0) s
    s.phaseWaits 0 3 = true ∧ (s.tags.all (fun e => e.1 == 3)) = true ∧ pkList readPkt = false ∧
      pkLen readPkt < 2 ^ 24 ∧ (0 : Nat) < s.packetChannels 0 ∧ s.offline 0 = false ∧
      (t.dmaChan 0).user = some 3 ∧ (t.dmaChan 0).st = .running ∧ (t.dmaChan 0).loaded = true ∧
      (t.dmaChan 0).moved = 0 ∧ t.tag 3 = { s.tag 3 with dataPhase := true } := by
  decide +kernel

def phaseDoneState (st : TagState) (o : Opcode) (p : Packet) : State :=
  (delivering st o p 0).setDmaChan 0 { DmaChan.init with
    st := .running, loaded := true, moved := 1, user := some 3, listEnd := true }

theorem test_data_phase_end :
    let s := phaseDoneState .delivering .readPage readPkt
    let f := phaseDoneState .fetching .programPage progPkt
    let r := phaseDoneState .fetching .runRoutine routinePkt
    let t := after (.dataPhaseEnd 0 0) f
    s.dmaMore 0 = false ∧ (s.tag 3).hasMeta = false ∧ liveTag s 3 ∧
      dueFor (after (.dataPhaseEnd 0 0) s) 0 3 .success 0 ∧ t.tag 3 = { f.tag 3 with delivered := 2 } ∧
      (t.dmaChan 0).st = .idle ∧ (t.dmaChan 0).user = none ∧ (t.dmaChan 0).status = .ok ∧ ((after (.dataPhaseEnd 0 0) r).tag 3).st = .queued ∧
      ((after (.dataPhaseEnd 0 0) r).tag 3).delivered = 2 := by
  unfold liveTag dueFor; decide +kernel

/-- Poison ends a data phase, after the metadata of a read that has some (R204, R260, R325). -/
theorem test_data_phase_poison :
    let bad := fun (s : State) => s.modDmaChan 0 (fun d => { d with poisoned := true })
    let s := bad (phaseDoneState .delivering .readPage readPkt)
    let m := s.modTag 3 (fun x => { x with packet := pkt 1 [(1, 4), (5, 2), (10, 5), (24, 16384)] })
    let f := bad (phaseDoneState .fetching .programPage progPkt)
    let t := after (.dataPhaseEnd 0 0) m
    (s.dmaChan 0).isMeta = false ∧ liveTag s 3 ∧ liveTag f 3 ∧ (s.tag 3).hasMeta = false ∧
      dueFor (after (.dataPhaseEnd 0 0) s) 0 3 .dataPoisoned 0 ∧
      dueFor (after (.dataPhaseEnd 0 0) f) 0 3 .dataPoisoned 0 ∧
      t.tag 3 = { m.tag 3 with delivered := 1, poisoned := true } ∧ (t.dmaChan 0).isMeta = true ∧
      (t.dmaChan 0).user = some 3 := by
  unfold liveTag dueFor; decide +kernel

/-! Queues. 32767 is the last queue. -/

def sized (s : State) (q : Nat) : State := s.setReg (qcAt q + 0x10) 0x00070007
def atQueue (f : Queue → Queue) : State :=
  (sized up 32767).setQueue 32767 (f { Queue.init with st := .active })
def pushed : State := (atQueue id).setReg (qcAt 32767 + 0x14) 0x200

theorem test_queue_create :
    let s := sized up 32767
    let p := (s.setReg (qcAt 32767 + 0x14) 0x200).setPushSlot 5 { PushSlot.init with written := 1 }
    let t := after (.queueCreate 32767) s
    let u := after (.queueCreate 32767) p
    s.serving = true ∧ (s.queue 32767).st = .disabled ∧ s.createCause 32767 = 0 ∧
      t.queue 32767 = { Queue.init with st := .active } ∧ p.qPush 32767 = true ∧ p.createCause 32767 = 0 ∧
      u.pushSlot 5 = PushSlot.init ∧ up.createCause 32767 = 1 ∧
      after (.queueCreate 32767) up = up.setQueue 32767 { Queue.init with cause := 1 } ∧
      still (.queueCreate 32767) (atQueue id) = true := by
  decide +kernel

theorem test_queue_delete :
    let s := atQueue (fun x => { x with sqHead := 3, fetched := [(3, readPkt)] })
    let f := atQueue (fun x => { x with st := .faulted, cause := 3 })
    let d := atQueue (fun x => { x with st := .draining })
    let t := after (.queueDelete 32767) s
    let u := after (.queueDelete 32767) f
    s.tagsOf 32767 = [] ∧ s.qPush 32767 = false ∧ (t.queue 32767).st = .draining ∧ (t.queue 32767).fetched = [] ∧
      (f.queue 32767).due = [] ∧ (u.queue 32767).discard = true ∧ (u.queue 32767).cause = 3 ∧
      still (.queueDelete 32767) d = true ∧ d.drained 32767 = true ∧
      ((after (.queueDrainEnd 32767) d).queue 32767).st = .disabled ∧ s.drained 32767 = false ∧
      still (.queueDrainEnd 32767) s = true := by
  decide +kernel

theorem test_sq_tail :
    let s := atQueue id
    let t := after (.sqTailDoorbell 32767 8) s
    s.qPush 32767 = false ∧ s.sqDepth 32767 = 8 ∧
      after (.sqTailDoorbell 32767 7) s = s.setQueue 32767 { s.queue 32767 with sqTail := 7 } ∧
      t.bit (qcAt 32767 + 0x1C) 7 = true ∧ t.queue 32767 = s.queue 32767 ∧
      (after (.sqTailDoorbell 32767 0x10000) s).bit (qcAt 32767 + 0x1C) 7 = true ∧
      pushed.qPush 32767 = true ∧ still (.sqTailDoorbell 32767 3) pushed = true ∧
      still (.sqTailDoorbell 32767 3) up = true := by
  decide +kernel

theorem test_cq_head :
    let s := atQueue id
    let d := atQueue (fun x => { x with st := .draining })
    let f := atQueue (fun x => { x with st := .faulted })
    s.cqDepth 32767 = 8 ∧ after (.cqHeadDoorbell 32767 7) s = s.setQueue 32767 { s.queue 32767 with cqHead := 7 } ∧
      after (.cqHeadDoorbell 32767 7) d = d.setQueue 32767 { d.queue 32767 with cqHead := 7 } ∧
      after (.cqHeadDoorbell 32767 8) s = s.setBit (qcAt 32767 + 0x1C) 7 true ∧
      after (.cqHeadDoorbell 32767 8) d = d.setBit (qcAt 32767 + 0x1C) 7 true ∧
      still (.cqHeadDoorbell 32767 0x10000) d = true ∧ still (.cqHeadDoorbell 32767 0) f = true ∧
      still (.cqHeadDoorbell 32767 0) up = true := by
  decide +kernel

theorem test_sq_fetch :
    let s := atQueue (fun x => { x with sqTail := 7 })
    let t := after (.sqFetch 32767) s
    s.mayIssue = true ∧ s.fetchCount 32767 = 7 ∧ s.rawGroups = [] ∧
      (splitRange 8 s.mrrs (s.sqBase 32767) 448).length ≤ s.freeReqTags ∧ (t.queue 32767).fetchNext = 7 ∧
      0 < t.ep.tx.length ∧ still (.sqFetch 32767) up = true := by
  decide +kernel

theorem test_push_window :
    let l := copies 64 (7 : Byte)
    let s := pushed
    let c := s.setPushSlot 63 { PushSlot.init with captured := true }
    let t := after (.pushWindowWrite 0 4032 l) s
    let u := after (.pushWindowWrite 1023 0 l) s
    s.windowQueue 0 = some 32767 ∧ l.length = 64 ∧ 4032 + 64 ≤ 4096 ∧ (t.pushSlot 63).captured = true ∧
      after (.pushWindowWrite 0 4032 l) c = c.setBit (qcAt 32767 + 0x1C) 8 true ∧ s.windowQueue 1023 = none ∧
      isPending u 832 = true ∧ u.push = s.push ∧ u.fld 0x180 31 16 = 1 ∧
      isPending (after (.pushWindowWrite 0 2 (copies 4 0)) s) 832 = true := by
  unfold isPending; decide +kernel

def aCompletion : Completion :=
  { tag := none, slot := none, cid := 9, status := .success, info := 0, replayed := false, stagedAck := false,
    forwarded := false, veer := 0, assists := 0, hasData := none }

theorem test_completion_write :
    let s := atQueue (fun x => { x with due := [aCompletion, { aCompletion with cid := 10 }], cqTail := 7, cqHead := 1 })
    let t := after (.completionWrite 32767) s
    s.hostWorks = true ∧ s.cqFull 32767 = false ∧ s.mayIssue = true ∧ (t.queue 32767).due.map (fun c => c.cid) = [10] ∧
      (t.queue 32767).cfgSeen = s.reg (qcAt 32767 + 0x14) ∧ (t.queue 32767).cqTail = 0 ∧ (t.queue 32767).phase = false ∧ 0 < t.ep.tx.length := by
  decide +kernel

theorem test_coalescing :
    let s := atQueue (fun x => { x with unsignalled := 1, cfgSeen := 0xFFF00000, extSeen := 0x01000000 })
    let t := after (.coalescingTimeout 32767) s
    bitOf (s.queue 32767).cfgSeen.toNat 20 = true ∧ wfld (s.queue 32767).extSeen 31 24 ≠ 0 ∧ (t.queue 32767).unsignalled = 0 ∧
      t.ep.due.contains 2047 = true := by
  decide +kernel

/-! The read-level table, the ledger and the open-block table. -/

def entryA : RltEntry :=
  { RltEntry.init with valid := true, lun := 0x123, group := 0x45678, pageType := 2, trained := true, age := 7 }
def level : State := up.setRltEntry 65535 entryA

theorem test_rlt_read :
    let t := after (.rltRead 65535) level
    level.rltOpen = true ∧ level.rawGroups = [] ∧ t.fld 0x300004 27 26 = 0 ∧ t.fld 0x300004 15 0 = 65535 ∧
      t.fld 0x300010 31 20 = 0x123 ∧ t.fld 0x300010 19 0 = 0x45678 ∧ t.bit 0x300014 31 = true ∧
      t.fld 0x300014 2 0 = 2 ∧ t.bit 0x300018 31 = true ∧ t.fld 0x300018 23 0 = 7 := by
  decide +kernel

def viewed (v : Word) : State :=
  ((up.setReg 0x300010 0x12345678).setReg 0x300014 v).setReg 0x300018 0x80000000
def viewAt : Nat := 8 * (viewed 0x80000002).viewSet

theorem test_rlt_write :
    let s := viewed 0x80000002
    let z := viewed 2
    let t := after (.rltWrite (viewAt + 7)) s
    let bad := (viewAt + 8) % 65536
    (t.fld 0x300004 27 26 = 0 ∧ t.rltEntry (viewAt + 7) = s.rltView ∧ s.rltView.valid = true ∧ s.viewFind = none ∧
      (viewAt + 7) / 8 = s.viewSet ∧ bad / 8 ≠ s.viewSet ∧
      after (.rltWrite bad) s = (s.setFld 0x300004 15 0 bad).setFld 0x300004 27 26 3 ∧ z.rltView.valid = false ∧
      (after (.rltWrite bad) z).rltEntry bad = z.rltView) := by
  decide +kernel

theorem test_rlt_lookup :
    let s := viewed 0x80000002
    let f := s.setRltEntry (viewAt + 3) s.rltView
    let t := after .rltLookup f
    f.viewFind = some (viewAt + 3) ∧ t.fld 0x300004 27 26 = 0 ∧ t.fld 0x300004 15 0 = viewAt + 3 ∧
      t.bit 0x300018 31 = true ∧ s.viewFind = none ∧ after .rltLookup s = s.setFld 0x300004 27 26 1 := by
  decide +kernel

theorem test_rlt_insert :
    let s := viewed 0x80000002
    let f := s.setRltEntry (viewAt + 3) s.rltView
    let full := (countUp viewAt 8).foldl (fun (s : State) i => s.setRltEntry i { entryA with lun := 1, pinned := true }) s
    s.rltPlace s.viewSet = some viewAt ∧ (after .rltInsert s).rltEntry viewAt = s.rltView ∧
      (after .rltInsert f).fld 0x300004 15 0 = viewAt + 3 ∧ full.viewFind = none ∧
      full.rltPlace full.viewSet = none ∧ after .rltInsert full = full.setFld 0x300004 27 26 2 ∧
      (after .rltClearUnpinned full).rlt.length = 8 ∧ (after .rltClearAll full).rlt = [] := by
  decide +kernel

theorem test_rlt_cfg :
    let t := after (.rltCfgWrite 0xFFFFFFFF) level
    level.serving = true ∧ t.reg 0x300000 = 0x10F ∧ t.rlt = [] ∧ up.ph.tablesReady = true ∧
      (after .rltInitEnd { up with ph := { up.ph with rltReady := false } }).ph.rltReady = true := by
  decide +kernel

theorem test_ledger_write :
    let s := { up with ledgerLo := [(0, 7), (8191, 0x80000005)] }
    let t := after (.ledgerHiWrite 8191 9) s
    let u := after (.ledgerHiWrite 0 9) s
    (8191 : Nat) < 128 * s.nch ∧ t.ledgerEntry 8191 = LedgerEntry.ofRegs 0x80000005 9 ∧ t.ledgerLo = [(0, 7)] ∧
      (t.ledgerEntry 0 = LedgerEntry.init) ∧ u.ledgerEntry 0 = LedgerEntry.ofRegs 7 9 ∧ u.ledgerLo = [(8191, 0x80000005)] := by
  decide +kernel

theorem test_obt_write :
    let s := { up with obtLo := [(3, 9), (8191, 0x80300007)] }
    let t := after (.obtHiWrite 8191 0x00050000) s
    let b := useTag ({ flash with obtLo := [(0, 0x80000009)] }.setObtEntry 0 { ObtEntry.init with valid := true, block := 7 })
      3 .programPage progPkt .staged id
    s.obtInflight 8191 = 0 ∧ (t.obtEntry 8191).pointer = 5 ∧ (t.obtEntry 8191).valid = true ∧
      (t.obtEntry 8191).plane = 3 ∧ (t.obtEntry 8191).block = 7 ∧ t.obtLo = [(3, 9)] ∧ b.obtInflight 0 = 1 ∧
      b.obtBad 0 = [] ∧ (after (.obtHiWrite 0 0x00050000) b).obt = b.obt := by
  decide +kernel

theorem test_adv_pop :
    let a : Advisory := { addr := 1, count := 2, inherited := false }
    (after .advPop { up with adv := [a, { a with addr := 2 }] }).adv = [{ a with addr := 2 }] := by
  decide +kernel

/-! Host and management requests. -/

def lullState : State := { up with irq := { up.irq with lull := .lull } }

theorem test_lull_holds :
    let t := after (.registerWrite 0x600 5) lullState
    let w := { up with irq := { up.irq with lull := .waking } }
    lullState.asleep = true ∧ t.ep.held = [.registerWrite 0x600 5] ∧ t.irq.lull = .waking ∧
      t.reg 0x1001C = 0xC0000000 ∧ w.asleep = true ∧ (after (.hotReset false) w).ep.held = [.hotReset false] ∧
      (after (.hotReset false) w).irq.lull = .waking ∧ portAccess (.claim 0 false) = true ∧
      (after (.claim 0 false) lullState).ep.held = [.claim 0 false] ∧ portAccess (.hotReset false) = true := by
  decide +kernel

theorem test_register_write :
    let t := after (.registerWrite 0x14000 0xFFFFFFFF) up
    up.serving = true ∧ up.irq.lull = .awake ∧ (regDesc up.nch up.targets 0x14000).isSome = true ∧
      (regDesc up.nch up.targets 0x14000).map (fun d => ((up.reg 0x14000 &&& ~~~d.rw) ||| d.rw) &&& ~~~d.w1c) =
        some (t.reg 0x14000) ∧ regDesc up.nch up.targets 2 = none ∧ still (.registerWrite 2 5) up = true ∧
      after (.registerWrite 0x101FC 1) up = after (.srcPendSet 31 1) up ∧
      after (.registerWrite 0x1027C 1) up = after (.srcPendClr 31 1) up ∧
      after (.registerWrite (claimPage 7 true + 4) 1) up = after (.complete 7 true 1) up ∧ (7 : Nat) < up.targets ∧
      after (.registerWrite 0x70030 1) up = after .trcPop up := by
  decide +kernel

theorem test_host_writes :
    let l : List Byte := [1, 2, 3, 4]
    let t := after (.memoryWrite (.bar0 0x3FFFFFC) l 0 false) up
    up.mse = true ∧ up.ep.linkUp = true ∧ (regDesc up.nch up.targets 0x14000).isSome = true ∧
      after (.memoryWrite (.bar0 0x14000) l 0 false) up = after (.registerWrite 0x14000 0x04030201) up ∧
      after (.memoryWrite (.bar2 262136) l 0 false) (atQueue id) =
        after (.sqTailDoorbell 32767 0x04030201) (atQueue id) ∧
      after (.memoryWrite (.bar2 262140) l 0 false) (atQueue id) =
        after (.cqHeadDoorbell 32767 0x04030201) (atQueue id) ∧
      regDesc up.nch up.targets 0x3FFFFFC = none ∧ isPending t 832 = true ∧ t.fld 0x180 31 16 = 1 ∧
      t.reg (0x100 + 16 * up.fld 0x180 2 0) = 0x3FFFFFC := by
  unfold isPending; decide +kernel

/-- BAR2 at 4 GiB: a request is placed by its address (R337). -/
theorem test_bar_hit :
    let s := { up with cfg := [(4, 0x6), (0x1C, 1)] }
    let l : List Byte := [1, 0, 0, 0]
    s.barHit 0x100000008 = some (2, 8) ∧ s.barHit 0x200000000 = none ∧
      after (.memoryWrite (.memory 0x100000008) l 0 false) s = after (.memoryWrite (.bar2 8) l 0 false) s ∧
      (after (.memoryWrite (.memory 0x200000000) l 0 false) s).cfgBit 0x104 20 = true := by
  decide +kernel

theorem test_host_reads :
    let t := after (.memoryRead (.bar0 0x14000) 4 5 6) up
    (up.regRead false 0x14000).1 = some (up.regView 0x14000) ∧
      t.ep.tx = [.completion 5 6 .success (leBytes 4 (up.regView 0x14000).toNat) false] := by
  decide +kernel

def openFrame : State := up.setFrame 4095 { Frame.init with st := .reserved }
def lastFrame : Nat := 0x6000000 + 1023 * 0x8000
def window : State := (openFrame.setReg 0x20C 3).setChan 63 { Chan.init with inReset := false }

theorem test_frame_window :
    let l : List Byte := copies 32 9
    let t := after (.bar4Write (lastFrame + 0x4FE0) l false) window
    let z := window.setFrame 4095 { Frame.init with st := .inUse }
    let u := after (.bar4Read (lastFrame + 0x4FE0) 32) t
    window.apertureAt (lastFrame + 0x4FE0) = (4095, 0x4FE0) ∧ 0x4FE0 + 32 ≤ 20480 ∧ (window.chan 63).inReset = false ∧
      window.frameOpen 4095 = true ∧ t = window.frameWrite 4095 0x4FE0 l false ∧ z.frameOpen 4095 = false ∧
      isPending (after (.bar4Write (lastFrame + 0x4FE0) l false) z) 832 = true ∧
      (lastFrame + 0x4FE0) % t.mps + 32 ≤ t.mps ∧
      u.ep.tx = [.completion 0 0 .success l false] := by
  unfold isPending; decide +kernel

theorem test_frame_words :
    let l : List Byte := copies 32 9
    let t := up.frameWrite 16383 (32 * 639) l true
    up.spareOf 16383 639 = none ∧ t.fword (640 * 16383 + 639) = FWord.fresh (BitVec.ofNat 256 (leNat l)) true ∧
      (t.frameRead 16383 (32 * 639) 32).1 = (l, true) := by
  decide +kernel

def starting : State := { up with ph := { up.ph with ready := false } }

theorem test_config :
    let r := after (.configRequest 4 none 0xF 5 6) starting
    let t := after (.configRequest 0x0C none 0xF 5 6) up
    let u := after (.configRequest 0x10 (some 0xFFFFFFFF) 0xF 5 6) up
    let f := after (.configRequest 0x68 (some 0x8000) 2 5 6) up
    starting.hostOn = true ∧ starting.serving = false ∧ r.ep.tx = [.completion 5 6 .configRetry [] false] ∧
      t.ep.tx = [.completion 5 6 .success (leBytes 4 (up.cfgView 0x0C).toNat) false] ∧
      u.cfgRaw 0x10 = cfgWritten 0x10 (up.cfgRaw 0x10) 0xFFFFFFFF (enableMask 0xF) ∧
      u.ep.tx.getLast? = some (.completion 5 6 .success [] false) ∧ (2 : BitVec 4).getLsbD 1 = true ∧
      (0x8000 : Word).getLsbD 15 = true ∧ f.ep.fnReset = some .functionLevel := by
  decide +kernel

theorem test_mgmt :
    let t := after (.mgmtAccess 0 0x14000 false (some 5)) up
    let u := after (.mgmtAccess 0 0x14000 false none) up
    let z := after (.mgmtAccess 0 0x200 false none) starting
    t = (up.regWrite 0x14000 5).mgmtAnswer false 0 ∧
      u = up.mgmtAnswer false ((up.regView 0x14000).setWidth 64) ∧ (up.regRead true 0x14000).2 = up ∧
      z.ep.mgmt = { ack := true, err := true, rdata := 0 } ∧
      (after (.mgmtAccess 0 8 false none) starting).ep.mgmt.err = false := by
  decide +kernel

/-! Interrupts. Source 1023 is the last; target 7 is the last of this build. -/

def asleepBay : State := { up with ph := { up.ph with ready := false } }

theorem test_source_edge :
    let t := after (.sourceEdge 863) up
    let r := { up with irq := { up.irq with lull := .lull } }
    up.srcExists 863 = true ∧ isPending t 863 = true ∧ up.srcExists 836 = false ∧ still (.sourceEdge 1023) up = true ∧ isPending t 0 = false ∧ t.irq.service = [] ∧
      asleepBay.srcExists 775 = true ∧ (asleepBay.hostWorks && asleepBay.ph.ready) = false ∧
      asleepBay.irq.lull = .awake ∧ (after (.sourceEdge 775) asleepBay).irq.heldEdges = [775] ∧
      r.hostWorks = false ∧ still (.sourceEdge 0) r = true ∧ up.srcExists 864 = false ∧
      still (.sourceEdge 864) up = true := by
  unfold isPending; decide +kernel

theorem test_squall :
    let s := { (up.setReg 0x10004 0x80000002) with irq := { up.irq with counts := [(5, 2)] } }
    let t := after (.sourceEdge 5) s
    s.bit 0x10004 31 = true ∧ s.bit (0x14000 + 5 * 16) 9 = false ∧
      SMap.getD s.irq.counts 5 0 = max 1 (s.fld 0x10004 7 0) ∧ t.srcMasked 5 = true ∧ t.arrBit 0x10300 5 = true ∧
      (after .squallWindowEnd s).irq.counts = [] := by
  decide +kernel

theorem test_pend_words :
    let t := after (.srcPendSet 31 0xFFFFFFFF) up
    let u := after (.srcPendClr 31 0x80000000) t
    isPending t 1023 = true ∧ isPending t 1016 = true ∧ isPending t 1015 = false ∧ isPending u 1023 = false ∧
      isPending u 1022 = true ∧ (after (.srcMaskWrite 31 0xFFFFFFFF) up).reg 0x102FC = 0xFF000000 := by
  unfold isPending; decide +kernel

/-- Sources 3 and 9 are pending at target 7, 9 with the higher priority. -/
def twoPending : State :=
  let s := { up with irq := { up.irq with pend := 1#1024 <<< 3 ||| 1#1024 <<< 9 } }
  let s := (s.setReg 0x10280 0).setReg 0x14030 1
  ((s.setReg 0x14090 2).setReg 0x14034 0x80).setReg 0x14094 0x80

theorem test_claim :
    let t := after (.claim 7 false) twoPending
    let u := after (.claim 7 false) t
    (7 : Nat) < twoPending.targets ∧ twoPending.inService 7 false = none ∧ twoPending.bestSource 7 false = some 9 ∧
      twoPending.deliverable 9 7 = true ∧ twoPending.deliverable 3 7 = true ∧ t.inService 7 false = some 9 ∧
      isPending t 9 = false ∧ isPending t 3 = true ∧ u.irq = t.irq ∧ u.bit (claimPage 7 false + 12) 31 = true ∧
      twoPending.bestSource 7 true = none ∧ (after (.claim 7 true) twoPending).irq = twoPending.irq := by
  unfold isPending; decide +kernel

theorem test_claim_order :
    (∀ m, m < 1024 → twoPending.srcFast m = false → twoPending.deliverable m 7 = true →
      twoPending.fld (0x14000 + m * 16) 3 0 < twoPending.fld (0x14000 + 9 * 16) 3 0 ∨
        (twoPending.fld (0x14000 + m * 16) 3 0 = twoPending.fld (0x14000 + 9 * 16) 3 0 ∧ 9 ≤ m)) ∧
    (∀ m, m < 1024 → twoPending.srcFast m = true → twoPending.deliverable m 7 = false) := by
  decide +kernel

theorem test_complete :
    let s := after (.claim 7 false) twoPending
    let t := after (.complete 7 false 9) s
    s.inService 7 false = some (wfld (9 : Word) 15 0) ∧ t.inService 7 false = none ∧ t.irq.pend = s.irq.pend ∧
      still (.complete 7 false 0xFFFF) s = true ∧
      after (.complete 7 false 8) s = s.setBit (claimPage 7 false + 12) 30 true := by
  decide +kernel

/-! The endpoint. -/

def asked (u : ReqUser) : State :=
  { atQueue id with ep := { up.ep with reqs := [(255, { user := u, pair := 0, addr := 0, len := 128 })] } }

theorem test_unexpected :
    let s := { up with ep := { up.ep with abandoned := [(255, { silent := true })] } }
    SMap.get s.ep.reqs 255 = none ∧ (SMap.get s.ep.abandoned 255).map (fun a => a.silent) = some true ∧
      still (.unexpectedCompletion 255) s = true ∧
      SMap.get (after (.abandonedTagRelease 255) s).ep.abandoned 255 = none ∧ SMap.get up.ep.reqs 254 = none ∧
      SMap.get up.ep.abandoned 254 = none ∧ up.hostWorks = true := by
  decide +kernel

theorem test_completion_timeout_hyp :
    let s := asked .dropped
    let q := asked (.sqFetch 32767 0 2)
    s.hostWorks = true ∧ (SMap.get s.ep.reqs 255).map (fun r => r.user) = some .dropped ∧
      (SMap.get q.ep.reqs 255).map (fun r => r.user) = some (.sqFetch 32767 0 2) ∧ (q.queue 32767).st = .active := by
  decide +kernel

theorem test_read_completion :
    let s := asked (.sqFetch 32767 0 2)
    let t := after (.hostReadCompletion 255 .success (copies 64 1 ++ copies 64 2) false) s
    let u := after (.hostReadCompletion 255 .unsupportedRequest [] false) s
    let v := after (.hostReadCompletion 255 .completerAbort [] false) s
    s.hostOn = true ∧ SMap.get (t.queue 32767).fetched 1 = some (packetOf (copies 64 2)) ∧
      SMap.get t.ep.reqs 255 = none ∧ (u.queue 32767).st = .faulted ∧ (u.queue 32767).cause = 3 ∧
      u.cfgBit 4 29 = true ∧ (v.queue 32767).st = .faulted ∧ v.cfgBit 4 28 = true := by
  decide +kernel

theorem test_partial_completion :
    let s := asked (.sqFetch 32767 0 2)
    let p := after (.hostReadCompletion 255 .success (copies 64 1) false) s
    let t := after (.hostReadCompletion 255 .success (copies 64 2) false) p
    (SMap.get p.ep.reqs 255).map (fun r => (r.got.length, r.marks, r.len)) = some (64, copies 64 false, 128) ∧
      (p.queue 32767).fetched = [] ∧ SMap.get (t.queue 32767).fetched 0 = some (packetOf (copies 64 1)) ∧
      SMap.get (t.queue 32767).fetched 1 = some (packetOf (copies 64 2)) ∧ t.ep.reqs = [] := by
  decide +kernel

/-- The beat of the push-slot example of the block ports chapter: its four header dwords, the first of its packet, and a
payload of zeros after it. -/
def pushTlp : List Word :=
  [0x10000060, 0xFF000000, 0xF0000000, 0x4031C000, 0x0A310401] ++ (countUp 0 15).map (fun _ => 0)

theorem test_push_beat :
    let l := beatsOf pushTlp
    l.length = 1 ∧ (l.map (fun b => (b.sop, b.eop, b.ndw.toNat))) = [(true, true, 20)] ∧ packetDwords l = some pushTlp ∧
      (writeOf pushTlp).map (fun w => (w.1, firstN 4 w.2.1, w.2.1.length)) =
        some (0xF000C03140, [0x01, 0x04, 0x31, 0x0A], 64) := by
  decide +kernel

def msix (b : Nat) : State :=
  { up with
    cfg := [(4, 0x6), (0x50, BitVec.ofNat 32 b)]
    ep := { up.ep with due := [2047] } }

theorem test_msix :
    let s := (((msix 0x80000000).setReg 0xFFF0 0x1000).setReg 0xFFF8 7).setReg 0xFFFC 0
    let h := msix 0xC0000000
    let t := after (.msixMessage 2047) s
    let u := after (.msixMessage 2047) h
    let v := after (.msixMessage 2047) (msix 0)
    s.ep.due.contains 2047 = true ∧ SMap.has s.ep.flushes 2047 = false ∧ s.cfgBit 0x50 31 = true ∧
      s.vectorHeld 2047 = false ∧ s.carrierList 2047 = [] ∧ t.ep.tx = [.msix 0 2047 0x1000 7] ∧ t.ep.due = [] ∧
      h.vectorHeld 2047 = true ∧ u.ep.tx = [] ∧ u.ep.pba.getLsbD 2047 = true ∧ (msix 0).cfgBit 0x50 31 = false ∧
      v.ep.tx = [] ∧ v.ep.due = [] ∧ v.ep.pba = 0 := by
  decide +kernel

/-! Resets and Lull. -/

theorem chan_idle {s : State} (h : s.chans.all (fun e => decide (e.2.cal.st = .idle)) = true) (n : Nat) :
    (s.chan n).cal.st = .idle :=
  getD_all (fun _ c => c.cal.st = .idle) s.chans Chan.init (fun _ => rfl)
    (fun e he => of_decide_eq_true (List.all_eq_true.1 h e he)) n

theorem test_idle_channels : ∀ n, (flash.chan n).cal.st = .idle := chan_idle (by decide +kernel)

def held : State := (State.reset.setReg 0x600 0x55).setReg 0x70018 7
def someTies : TieOffs := { TieOffs.none with vendorId := 0x1234 }

theorem test_block_resets :
    let s := { flash with deviceTime := 70 }
    let t := after .fundamentalReset s
    let r := after (.fundamentalResetRelease someTies) t
    let p := after .hostPllLock r
    let c := after (.channelPllLock 63) p
    let i := after .controlRamInitEnd p
    s.ph.powered = true ∧ t.bays = s.bays ∧ t.deviceTime = 70 ∧ t.ph.blkReset = true ∧ t.chans = [] ∧
      t.reg (geomAt 0 0) = regReset (geomAt 0 0) ∧ r.ties = someTies ∧ r.ph.blkReset = false ∧ p.ph.hclk = true ∧
      p.follower = 70 ∧ (p.chan 63).st = .reset ∧ (p.chan 63).recStep = .idle ∧ (p.chan 63).inReset = true ∧
      (c.chan 63).st = .absent ∧ (c.chan 63).inReset = false ∧
      ((after (.channelPllLock 7) p).chan 7).st = .unconfigured ∧ (p.bay 0).glitch = false ∧
      still (.channelPllLock 7) (p.modBay 0 (fun b => { b with glitch := true })) = true ∧ p.hostOn = true ∧ p.ph.tablesReady = false ∧
      i.ph.ready = true ∧ i.ph.rltReady = true ∧ i.serving = true := by
  decide +kernel

theorem test_aon_resets :
    let s := { flash with irq := { flash.irq with heldEdges := [768], pinArmed := false } }
    let t := after .aonReset s
    let p := after .powerRemoval s
    t.ph.aonReset = true ∧ t.deviceTime = 0 ∧ t.irq.heldEdges = [] ∧ t.irq.pinArmed = true ∧ t.bays = [] ∧
      (after .aonResetRelease t).ph.aonReset = false ∧ p.ph.powered = false ∧ p.regs = [] ∧
      (after .linkUp { up with ep := { up.ep with linkUp := false } }).ep.linkUp = true := by
  decide +kernel

theorem test_function_reset :
    let s := { flash with irq := { flash.irq with heldEdges := [768] } }
    let t := after .functionLevelReset s
    let h := after (.hotReset false) s
    let r := after .functionReady t
    s.hostOn = true ∧ s.irq.lull = .awake ∧ s.tags = [] ∧ t.ep.fnReset = some .functionLevel ∧ t.ph.resetCause = 3 ∧
      t.serving = false ∧ t.queues = [] ∧ t.irq.pend = 0 ∧ t.bays = s.bays ∧ h.ep.fnReset = some .hot ∧
      h.ph.resetCause = 2 ∧ t.ep.linkUp = true ∧ r.serving = true ∧ r.irq.heldEdges = [] ∧ isPending r 768 = true ∧
      (after (.hotReset true) s).ep.linkUp = false := by
  unfold isPending; decide +kernel

theorem test_function_ready :
    let s := { up with ph := { up.ph with ready := false }, ep := { up.ep with fnReset := some .hot } }
    let d := { s with ep := { s.ep with linkUp := false } }
    let c : Carry := { addr := 0, sqid := 0, cid := 0, status := .success, opcode := .readPage, stagedAck := false,
                       tag := 0, info := 0 }
    (after .functionReady s).ep.fnReset = none ∧ still .functionReady d = true ∧
      (after .carryPop { up with carry := [c, { c with tag := 1 }] }).carry = [{ c with tag := 1 }] := by
  decide +kernel

def quietBlock : State :=
  { up with chans := (countUp 0 64).map (fun n => (n, { Chan.init with st := .absent, inReset := false })) }
def sleeping : State := { up with irq := { up.irq with lull := .lull } }

theorem test_lull_enter :
    let t := after .lullEnter quietBlock
    let u := after .lullEntry t
    let e := { up with irq := { up.irq with lull := .entering, wakeAfter := some .pin } }
    quietBlock.serving = true ∧ quietBlock.lullReady = true ∧ quietBlock.chans.all (fun e => decide (e.2.cal.st = .idle)) = true ∧
      t.irq.lull = .entering ∧ u.irq.lull = .lull ∧ u.fld 0x10014 31 16 = 1 ∧ u.hostOn = false ∧
      (after .lullEntry e).irq.lull = .waking ∧ (after .lullEntry e).reg 0x1001C = 0x80000000 ∧
      flash.lullReady = false ∧ after .lullEnter flash = flash.setBit 0x10010 31 true := by
  decide +kernel

theorem test_wakes :
    let p := sleeping.setReg 0x10018 1
    let w := sleeping.setReg 0x10400 0x80000307
    (after (.wake .access) sleeping).irq.lull = .waking ∧ (after (.wake .access) sleeping).reg 0x1001C = 0xC0000000 ∧
      sleeping.irq.pinArmed = true ∧ (after (.wake .pin) p).irq.lull = .waking ∧
      (after (.wake .pin) p).reg 0x1001C = 0x80000000 ∧ (after (.wake .pin) (sleeping.setReg 0x10018 0)).irq.lull = .lull ∧
      w.watched 775 = true ∧ (after (.wake (.source 775)) w).irq.lull = .waking ∧
      (after (.wake (.source 775)) w).irq.heldEdges = [775] ∧ w.watched 768 = false ∧
      (after (.wake (.source 768)) w).irq.lull = .lull := by
  decide +kernel

theorem test_lull_wake :
    let s := { up with irq := { up.irq with lull := .waking, heldEdges := [775] }, deviceTime := 90 }
    let t := after .lullWake s
    s.ep.held = [] ∧ t.irq.lull = .awake ∧ t.irq.heldEdges = [] ∧ t.follower = 90 ∧ isPending t 775 = true ∧
      (after .wakePinRelease { s with irq := { s.irq with pinArmed := false } }).irq.pinArmed = true := by
  unfold isPending; decide +kernel

/-! The power envelope. -/

def requesting : State :=
  let s := readWaiting .requested
  { s with gov := { s.gov with waiting := [{ work := 0, cls := 1, planes := 1, release := false, stamp := 4 }] } }

theorem test_admission_grant :
    let t := after .admissionGrant requesting
    requesting.govOn = true ∧ (requesting.nextGrant).map (fun r => r.work) = some 0 ∧ t.gov.waiting = [] ∧
      t.gov.grants = [⟨0, 0, requesting.weight 1 + requesting.weight 3, requesting.stamp, false⟩] ∧
      (t.work 0).map (fun w => w.adm) = some .granted ∧ t.committed ≤ t.gov.budget ∧ up.nextGrant = none ∧
      still .admissionGrant up = true := by
  decide +kernel

theorem test_admission_age :
    let s := (withWork flash { work0 .erase with adm := .requested, tag := some 3 }).setReg 0x4001C 0x00010001
    let s := { s with gov := { s.gov with waiting := [{ work := 0, cls := 9, planes := 1, release := false, stamp := 4 }] } }
    let t := after .admissionStall s
    s.fld 0x4001C 15 0 ≠ 0 ∧ s.oldestNonRead ≠ none ∧ (after .admissionAge s).gov.holdReads = true ∧
      s.fld 0x4001C 31 16 ≠ 0 ∧ s.gov.waiting ≠ [] ∧ t.gov.stallRaised = true ∧ isPending t 803 = true := by
  unfold isPending; decide +kernel

def governed (st : GovState) (f : Governor → Governor) : State :=
  { up with gov := f { up.gov with st := st, sense := 5, prevSense := 4 } }

theorem test_pe_sample :
    let s := governed .start id
    let f := governed .fallback id
    let t := after (.peSampleEdge 0xFFFFFF 7) s
    let u := after (.peSampleEdge 30000 7) f
    s.govOn = true ∧ t.gov.setpoint = 0xFFFFFF ∧ t.gov.sense = 7 ∧ t.gov.prevSense = 5 ∧
      s.fld 0x40000 23 16 ≠ 1 ∧ t.gov.st = .feedback ∧ t.gov.lastEdge = some s.now ∧ t.gov.budget = budgetStep
        (min (s.fld 0x40014 23 0) (max (s.fld 0x40010 23 0) 0xFFFFFF)) (s.fld 0x40008 23 0) s.gov.budget ∧
      t.gov.clamped = false ∧ (after (.peSampleEdge 0 7) (s.setReg 0x40010 100)).gov.clamped = true ∧ u.gov.st = .fallback ∧
      u.gov.budget = budgetStep (f.fld 0x4000C 23 0) (f.fld 0x40008 23 0) f.gov.budget ∧
      u.gov.haveEstimate = true := by
  decide +kernel

theorem test_pe_tick :
    let s := governed .start (fun g => { g with budget := 100 })
    let f := governed .feedback id
    let t := after .peInternalTick s
    let u := after .strobeLost f
    let l := governed .fallback id
    t.gov.st = .start ∧ t.gov.budget = budgetStep (s.fld 0x4000C 23 0) (s.fld 0x40008 23 0) 100 ∧
      u.gov.st = .fallback ∧ u.gov.cause = 1 ∧ u.gov.lost = true ∧
      u.gov.budget = min f.gov.budget (f.fld 0x4000C 23 0) ∧ isPending u 800 = true ∧
      (after .strobeLost l).gov.lost = true := by
  unfold isPending; decide +kernel

theorem test_pe_writes :
    let a := governed .fallback (fun g => { g with cause := 1 })
    let b := governed .fallback (fun g => { g with cause := 2 })
    let c := governed .fallback (fun g => { g with cause := 3, inTol := true })
    let f := governed .feedback id
    (after (.peResume true) a).gov.st = .feedback ∧ (after (.peResume true) a).gov.cause = 0 ∧
      isPending (after (.peResume true) a) 801 = true ∧ b.gov.sense ≠ b.gov.prevSense ∧
      (after (.peResume false) b).gov.st = .feedback ∧ (after (.peResume false) c).gov.st = .feedback ∧
      after (.peResume true) f = f.setBit 0x40020 31 true ∧
      after (.peWeightWrite 15 0xFFFFFFFF) f = f.setReg 0x400BC 0xFFFF := by
  unfold isPending; decide +kernel

/-! Calibration, the master image, fences and self-tests. -/

/-- Channel 0 calibrates, with two runs asked for. -/
def calibrating (f : Cal → Cal) : State :=
  let s := { (flash.setReg 0x50000 0x00210100) with calUnit := { queue := [], current := some 0 } }
  s.modChan 0 (fun c => { c with cal := f { c.cal with st := .running, cfg := 0x00210100 } })

theorem test_cal_start :
    let t := after (.calStart 0 true) flash
    let q := { (flash.modChan 0 (fun c => { c with cal := { c.cal with st := .queued } })) with
      calUnit := { queue := [0, 1], current := none } }
    let u := after .calUnitTake q
    flash.calReady 0 = true ∧ (t.chan 0).cal.st = .queued ∧ (t.chan 0).cal.apply = true ∧ t.calUnit.queue = [0] ∧
      flash.calReady 1 = false ∧ after (.calStart 1 true) flash = flash.setBit 0x54040 31 true ∧
      u.calUnit.queue = [1] ∧ u.calUnit.current = some 0 ∧ (u.chan 0).cal.st = .running ∧ (q.chan 0).cal.tag = none := by
  decide +kernel

theorem test_cal_runs :
    let s := calibrating id
    let t := after (.calRunEnd (.codes 40 41 42 43)) s
    let s' := calibrating (fun c => { c with runs := 1, prev := some [40, 41, 42, 43], apply := true })
    let u := after (.calRunEnd (.codes 41 40 42 44)) s'
    (s.chan 0).cal.prev = none ∧ (s.chan 0).cal.runs + 1 < max 2 (wfld (s.chan 0).cal.cfg 23 20) ∧
      (s.chan 0).cal.saturated [40, 41, 42, 43] = false ∧ (s'.chan 0).cal.saturated [41, 40, 42, 44] = false ∧ (s.chan 0).inReset = false ∧
      (t.chan 0).cal.runs = 1 ∧ (t.chan 0).cal.prev ≠ none ∧
      ([40, 41, 42, 43].zip [41, 40, if (s'.chan 0).cal.odtOff then nth (s'.chan 0).target 2 0 else 42, 44]).all
        (fun e => within (wfld (s'.chan 0).cal.cfg 19 16) e.2 e.1) = true ∧
      (s'.chan 0).target.length = 20 ∧ u.calUnit.current = none ∧ (u.chan 0).cal = Cal.init ∧
      u.fld (calAt 0 + 4) 23 20 = 2 ∧ wfld (u.reg (calAt 0 + 0x18)) 15 0 = 0x2829 ∧ isPending u 816 = true ∧
      nth (u.chan 0).target 0 0 = 41 ∧ nth (u.chan 0).target 1 0 = 40 ∧ u.arrBit 0x50020 0 = true := by
  unfold isPending; decide +kernel

theorem test_cal_fails :
    let s := calibrating id
    let t := after (.calRunEnd (.referenceFault 300 600)) s
    let u := after (.calRunEnd (.saturated 127 41 42 43)) s
    let v := after (.calRunEnd (.codes 40 41 0 43)) s
    still (.calRunEnd (.referenceFault 240 600)) s = true ∧
      (s.chan 0).cal.tag = none ∧ s.tags.all (fun e => decide (e.2.opcode ≠ some .calibrate)) = true ∧
      t.fld (calAt 0 + 4) 10 8 = 3 ∧ isPending t 818 = true ∧ u.fld (calAt 0 + 4) 10 8 = 2 ∧
      (s.chan 0).cal.saturated [40, 41, 0, 43] = true ∧ v.fld (calAt 0 + 4) 10 8 = 2 ∧
      isPending u 817 = true ∧ (u.chan 0).target = (s.chan 0).target := by
  unfold isPending; decide +kernel

theorem test_trim_write :
    let t := after (.trimImpTgtWrite 0 0x7F012345) flash
    let s := calibrating id
    (nth (t.chan 0).target 0 0).toNat = 0x45 ∧ (nth (t.chan 0).target 3 0).toNat = 0x7F ∧
      nth (t.chan 0).target 4 0 = nth (flash.chan 0).target 4 0 ∧ (t.chan 0).live = (flash.chan 0).live ∧
      (s.chan 0).cal.st ≠ .idle ∧ after (.trimImpTgtWrite 0 0) s = s.setBit 0x54000 31 true := by
  decide +kernel

/-- The master image is at a stage of its life, and the key hash is fused. -/
def master (m : Nat) : State :=
  { flash with ph := { flash.ph with master := m }, ties := { flash.ties with keyHash := 5 } }

theorem test_master_open :
    (countUp 0 flash.nch).all (fun n => (((master 3).chan n).store != .loading)) = true ∧
      (after .mcOpen (master 3)).ph.master = 1 ∧ (after .mcVerify (master 1)).ph.master = 2 ∧
      after .mcOpen (master 2) = (master 2).setBit 0x410000 31 true ∧
      after .mcVerify (master 3) = (master 3).setBit 0x410000 31 true := by
  decide +kernel

theorem test_verify_unfused :
    let s := { master 2 with ties := { flash.ties with keyHash := 0 } }
    let t := after .verifyEnd s
    s.mcFails = some (1, 0) ∧ t.ph.master = 4 ∧ t.fld 0x410004 7 4 = 1 ∧ t.fld 0x410004 15 8 = 0 ∧
      isPending t 825 = true := by
  unfold isPending; decide +kernel

/-- The public key, the signature and the digest of an image with one microword of zeros, computed outside the model with
FIPS 180-4 and FIPS 186-5. -/
def imageKey : Nat :=
  0xa803e4a766f5a8c42ac15a940c156c8e4a864d4a583b3dbf8fa795a0703e96c081a844b376005c963ae10ee75c2d21d677e5b07832c5ac4f06ebdba5310b3195720e30bd87cb9c4eee032c2a299f30baf0c7f6338903911ad2baf991c8c07f9c
def imageSig : Nat :=
  0x1af06807ee73d08aef2d206c5a9adbbcda9b3820767cf7b45d7ce584b044ff370234c841dcfabb1eba8728e177261f75e7434d6828f9eead42fe467057bb26b8322ffc15980aec1f50793a8c98b4a2ae6e5af75b6494f91563ed9622ccdbbec9
def imageDigest : BitVec 384 :=
  0x276e78d9bc8021a32e22337417792725369e0151c25501f4b4c70cb7ef784488d2349320aa28fc50b0faec6afcf6255e
def imageKeyHash : BitVec 384 :=
  0xa2f1ff41f3c8affed77301019352a4f518350116a82a49c5cb9190e3746e225efd7dc05636b1829427eb888aa7af8e75

/-- 96 bytes lie in the load control page. -/
def at96 (s : State) (off v : Nat) : State :=
  (countUp 0 24).foldl (fun s i => s.setReg (off + 4 * i) (BitVec.ofNat 32 (v / 2 ^ (32 * i)))) s

/-- A signed image in the image RAM. -/
def goodImage : State :=
  let s := { master 2 with ties := { flash.ties with keyHash := imageKeyHash } }
  let s := ((s.setReg 0x410010 0x4B454F4E).setReg 0x410014 1).setReg 0x410018 0x00030000
  at96 (at96 ((countUp 0 23).foldl (fun s i => s.setReg (0x410100 + 4 * i) 0x800) (s.setReg 0x41001C 1)) 0x410200 imageKey)
    0x410300 imageSig

/-- The header and the entry table as bytes. -/
def imageHead : List Byte :=
  [0x4E, 0x4F, 0x45, 0x4B, 1, 0, 0, 0, 0, 0, 3, 0, 1, 0, 0, 0] ++ copies 16 0 ++
    (countUp 0 64).flatMap (fun i => if i < 23 then [0, 8, 0, 0] else [0, 0, 0, 0])

theorem test_image_entries :
    ((countUp 0 64).find? (fun i => entryBad 1 i (goodImage.reg (0x410100 + 4 * i)))) = none ∧
      goodImage.fld 0x41001C 11 0 = 1 ∧ goodImage.ties.keyHash = imageKeyHash ∧ goodImage.ph.master = 2 ∧
      goodImage.rawGroups = [] ∧
      ¬ (goodImage.reg 0x410010 ≠ 0x4B454F4E ∨
        (countUp 0 4).any (fun i => goodImage.reg (0x410020 + 4 * i) != 0) = true) ∧
      ¬ (goodImage.fld 0x410018 31 16 ≠ 3 ∨ 1 < goodImage.fld 0x410018 15 0) ∧
      ¬ (goodImage.fld 0x41001C 31 12 ≠ 0 ∨ goodImage.reg 0x410014 = 0) ∧
      mwBad (goodImage.mcWord 0) = false ∧
      goodImage.regBytes 0x410010 32 ++ goodImage.regBytes 0x410100 256 = imageHead ∧
      goodImage.mcKey = leBytes 96 imageKey ∧ goodImage.regBytes 0x410300 96 = leBytes 96 imageSig := by
  decide +kernel

theorem test_key_hash : sha384 (leBytes 96 imageKey) = imageKeyHash := by decide +kernel

theorem strict_eq {α : Type} (n : Nat) (k : Nat → α) : strict n k = k n := by cases n <;> rfl

theorem strictAll_eq {α : Type} (l : List Nat) : ∀ k : List Nat → α, strictAll l k = k l := by
  induction l with
  | nil => intro _; rfl
  | cons x l ih => intro k; rw [strictAll, strict_eq, ih]

theorem shaBlocks_append (ks : List Nat) (a b : List (List Byte)) :
    ∀ h, shaBlocks ks (a ++ b) h = shaBlocks ks b (shaBlocks ks a h) := by
  induction a with
  | nil => intro _; rfl
  | cons x a ih => intro h; rw [List.cons_append, shaBlocks, strictAll_eq, ih, shaBlocks, strictAll_eq]

/-- The hash value after the first three blocks of that image, and after 80, 160, 240 and 319 blocks of zeros more. -/
def imageHash0 : List Nat :=
  [0x752cb27cc867483c, 0xef2147e69ae29249, 0xe1c5075c75ae6f53, 0x37213f63e325dc4e,
    0xdd0d7100b980c427, 0x178e793dc324e78d, 0x5b25fc61f095c6e7, 0x3085961e6ac427bf]
def imageHash1 : List Nat :=
  [0x138b4fb705f19b5e, 0x8fc6a6a4f226ce39, 0x5560f284ff2d6d91, 0xe5a0018f2d724b68,
    0x7d473bd4aeccc2c2, 0x13dac2b995b76a3, 0x653ac7c5bce1797c, 0x942dc528cba2bb80]
def imageHash2 : List Nat :=
  [0xe061251b42659a6c, 0x2541f8b32983f558, 0xc0b1f8d52e4888ec, 0xa3a877c6b3fca1f7,
    0x977a8becec619ae5, 0x24bcbdbf0fd28cfa, 0x8cf2737ab4931c22, 0x62de5cc2fadec261]
def imageHash3 : List Nat :=
  [0x26418158f4865bae, 0x6be16c2ce94cb66, 0xdb0187e5225458b7, 0x233f6c59125b8148,
    0x8c038f92812aa8eb, 0x89d638be89ec78b0, 0x985a92924d4112e5, 0xe88d20bc97373d1a]
def imageHash4 : List Nat :=
  [0x467bf210db895622, 0x23e270d175dd4262, 0xccb167aadde992d, 0x8493c294575a8f12,
    0xd4c684e00932c01b, 0x2a73eab3b579a1c9, 0xf1eecc38e299834, 0x6f6d6c614953fdb6]

/-- A block of zeros. -/
def zeroBlock : List Byte := copies 128 0

theorem copies_split {α : Type} (x : α) (a b : Nat) : copies (a + b) x = copies a x ++ copies b x := by
  induction a with
  | zero => simp [copies]
  | succ a ih => rw [Nat.add_right_comm, copies, copies, ih, List.cons_append]

theorem firstN_prefix {α : Type} (l r : List α) : firstN l.length (l ++ r) = l := by
  induction l with
  | nil => simp [firstN]
  | cons x l ih => simp [firstN, ih]

theorem restN_prefix {α : Type} (l r : List α) : restN l.length (l ++ r) = r := by
  induction l with
  | nil => simp [restN]
  | cons x l ih => simp [restN, ih]

theorem pieces_block (k : Nat) (l r : List Byte) (h : l.length = 128) :
    pieces (k + 1) 128 (l ++ r) = l :: pieces k 128 r := by
  have f := firstN_prefix l r
  have g := restN_prefix l r
  rw [h] at f g
  cases l with
  | nil => simp at h
  | cons x l =>
    rw [List.cons_append] at f g ⊢
    rw [pieces, f, g]
    simp

theorem pieces_zeros (k : Nat) (r : List Byte) : ∀ m,
    pieces (m + k) 128 (copies (128 * m) 0 ++ r) = copies m zeroBlock ++ pieces k 128 r := by
  intro m
  induction m with
  | zero => rw [Nat.zero_add]; rfl
  | succ m ih =>
    have e : copies (128 * (m + 1)) (0 : Byte) ++ r = zeroBlock ++ (copies (128 * m) 0 ++ r) := by
      rw [Nat.mul_succ, Nat.add_comm, copies_split, List.append_assoc]; rfl
    rw [e, Nat.add_right_comm, pieces_block _ _ _ rfl, ih, copies, List.cons_append]

theorem length_from {α : Type} (l : List α) : ∀ n, lengthFrom l n = n + l.length := by
  induction l with
  | nil => intro n; rfl
  | cons x l ih => intro n; rw [lengthFrom, strict_eq, ih, List.length_cons]; omega

theorem copies_length {α : Type} (n : Nat) (x : α) : (copies n x).length = n := by
  induction n with
  | zero => rfl
  | succ n ih => rw [copies, List.length_cons, ih]

/-- The bytes of the first three blocks. -/
def imageFront : List Byte := imageHead ++ copies 96 0

theorem test_image_front : imageHead.length = 288 ∧
    imageFront = firstN 128 imageFront ++ (firstN 128 (restN 128 imageFront) ++ restN 256 imageFront) ∧
    pieces 3 128 imageFront = [firstN 128 imageFront, firstN 128 (restN 128 imageFront), restN 256 imageFront] ∧
    (firstN 128 imageFront).length = 128 ∧ (firstN 128 (restN 128 imageFront)).length = 128 ∧
    (restN 256 imageFront).length = 128 := by decide +kernel

theorem test_image_blocks :
    lengthFrom (imageHead ++ copies 40960 0) 0 = 41248 ∧
      pieces 324 128 (imageHead ++ copies 40960 0 ++ shaPadding 41248) =
        pieces 3 128 imageFront ++ (copies 80 zeroBlock ++ (copies 80 zeroBlock ++
          (copies 80 zeroBlock ++ (copies 79 zeroBlock ++ [copies 32 0 ++ shaPadding 41248])))) := by
  obtain ⟨n, e, p, a, b, c⟩ := test_image_front
  refine ⟨by rw [length_from, List.length_append, n, copies_length], ?_⟩
  have m : imageHead ++ copies 40960 0 ++ shaPadding 41248 =
      imageFront ++ (copies (128 * 319) 0 ++ (copies 32 0 ++ shaPadding 41248)) := by
    rw [show 40960 = 96 + (128 * 319 + 32) from rfl, copies_split, copies_split, imageFront]
    simp only [List.append_assoc]
  have z : copies 319 zeroBlock =
      copies 80 zeroBlock ++ (copies 80 zeroBlock ++ (copies 80 zeroBlock ++ copies 79 zeroBlock)) := by
    rw [← copies_split, ← copies_split, ← copies_split]
  have q : pieces 2 128 (copies 32 0 ++ shaPadding 41248) = [copies 32 0 ++ shaPadding 41248] := by decide +kernel
  rw [m, p, e, List.append_assoc, List.append_assoc, pieces_block 323 _ _ a, pieces_block 322 _ _ b,
    pieces_block 321 _ _ c, pieces_zeros 2 _ 319, z, q]
  simp only [← e, List.cons_append, List.nil_append, List.append_assoc]

theorem test_image_hash0 :
    shaBlocks shaRoundConstants (pieces 3 128 imageFront) shaStart = imageHash0 := by decide +kernel

theorem test_image_hash1 :
    shaBlocks shaRoundConstants (copies 80 zeroBlock) imageHash0 = imageHash1 := by decide +kernel

theorem test_image_hash2 :
    shaBlocks shaRoundConstants (copies 80 zeroBlock) imageHash1 = imageHash2 := by decide +kernel

theorem test_image_hash3 :
    shaBlocks shaRoundConstants (copies 80 zeroBlock) imageHash2 = imageHash3 := by decide +kernel

theorem test_image_hash4 :
    shaBlocks shaRoundConstants (copies 79 zeroBlock) imageHash3 = imageHash4 := by decide +kernel

theorem test_image_hash5 :
    BitVec.ofNat 384 ((firstN 6 (shaBlocks shaRoundConstants [copies 32 0 ++ shaPadding 41248] imageHash4)).foldl
      (fun v x => v * 2 ^ 64 + x) 0) = imageDigest := by decide +kernel

theorem test_image_digest : sha384 (imageHead ++ copies 40960 0) = imageDigest := by
  unfold sha384
  rw [test_image_blocks.1]
  dsimp only
  rw [show 41248 / 128 + 2 = 324 from rfl, test_image_blocks.2, shaBlocks_append, shaBlocks_append, shaBlocks_append,
    shaBlocks_append, shaBlocks_append, test_image_hash0, test_image_hash1, test_image_hash2, test_image_hash3,
    test_image_hash4]
  exact test_image_hash5

theorem test_image_signature : ecdsaOk imageDigest (leBytes 96 imageKey) (leBytes 96 imageSig) = true := by
  decide +kernel

theorem image_reg_reset (off : Nat) (h : 0x400000 ≤ off) (g : off < 0x40A000) : regReset off = 0 := by
  unfold regReset regDesc
  by_cases a : off % 4 ≠ 0
  · simp only [if_pos a]
  · simp (disch := omega) only [if_neg a, if_neg, if_pos, mcReg]
    rfl

theorem image_reg (off : Nat) (h : 0x400000 ≤ off) (g : off < 0x40A000) : goodImage.reg off = 0 := by
  have a : goodImage.regs.all (fun e => decide (e.1 < 0x400000) || decide (0x40A000 ≤ e.1)) = true := by decide +kernel
  exact getD_all (fun k v => 0x400000 ≤ k → k < 0x40A000 → v = 0) goodImage.regs (regReset off)
    (fun _ _ _ => image_reg_reset off h g)
    (fun e he => by
      have b := List.all_eq_true.1 a e he
      simp only [Bool.or_eq_true, decide_eq_true_eq] at b
      omega) off h g

theorem countUp_bound (k n i : Nat) (h : i ∈ countUp k n) : i < k + n := by
  induction n generalizing k with
  | zero => cases h
  | succ n ih =>
    unfold countUp at h
    rcases List.mem_cons.1 h with rfl | h
    · omega
    · have := ih _ h; omega

theorem test_image_words : (countUp 1 2047).find? (fun i => goodImage.mcWord i != 0) = none := by
  refine List.find?_eq_none.2 fun i hi => ?_
  have b : i < 2048 := by have := countUp_bound _ _ _ hi; omega
  have q : ∀ j, j < 5 → goodImage.reg (0x400000 + 20 * i + 4 * j) = 0 := fun j hj => image_reg _ (by omega) (by omega)
  have w : goodImage.mcWord i = 0 := by
    unfold State.mcWord
    rw [show countUp 0 5 = [0, 1, 2, 3, 4] from rfl]
    simp only [List.foldl_cons, List.foldl_nil, q 0 (by decide), q 1 (by decide), q 2 (by decide), q 3 (by decide),
      q 4 (by decide)]
    rfl
  simp [w]

theorem zero_bytes (f : Nat → Word) (n : Nat) : ∀ k, (∀ i, i < k + n → f i = 0) →
    (countUp k n).flatMap (fun i => leBytes 4 (f i).toNat) = copies (4 * n) 0 := by
  induction n with
  | zero => intro _ _; rfl
  | succ n ih =>
    intro k h
    rw [countUp, List.flatMap_cons, h k (by omega), ih (k + 1) (fun i hi => h i (by omega))]
    rfl

theorem test_image_message : goodImage.mcMessage = imageHead ++ copies 40960 0 := by
  obtain ⟨-, -, -, -, -, -, -, -, -, m, -, -⟩ := test_image_entries
  rw [State.mcMessage, m, State.regBytes]
  exact congrArg _ (zero_bytes (fun i => goodImage.reg (0x400000 + 4 * i)) 10240 0
    fun i hi => image_reg _ (by omega) (by omega))

theorem test_image_good : goodImage.mcFails = none := by
  obtain ⟨a, b, c, d, e, f, i, j, k, -, y, u⟩ := test_image_entries
  have z : ¬ (imageKeyHash = 0 ∨ imageKeyHash = BitVec.allOnes 384) := by decide +kernel
  have q : (countUp 0 1).find? (fun i => mwBad (goodImage.mcWord i)) = none := by
    simp [countUp, k]
  have l := test_image_words
  unfold State.mcFails
  simp only [b, c, y, u, z, test_key_hash, test_image_message, test_image_digest, test_image_signature, a, q, if_neg f,
    if_neg i, l, Option.map_none]
  have m := not_or.1 j
  have o : ¬ (1 = 0 ∨ 2048 < 1 ∨ goodImage.fld 0x41001C 31 12 ≠ 0 ∨ goodImage.reg 0x410014 = 0) := by
    rintro (o | o | o | o)
    · omega
    · omega
    · exact m.1 o
    · exact m.2 o
  rw [if_neg o]
  simp

theorem test_fence :
    let t := after (.chanFenceSet 0) flash
    let w := flash.modChan 0 (fun c => { c with survey := { c.survey with st := .waiting } })
    let s := flash.modChan 0 (fun c => { c with survey := { c.survey with st := .eye } })
    let u := after (.chanFenceSet 0) s
    let l := flash.modChan 0 (fun c => { c with store := .loading })
    flash.works = [] ∧ (flash.chan 0).survey.st = .idle ∧ (t.chan 0).fenced = true ∧ (s.chan 0).survey.tag = none ∧
      (s.chan 0).survey.st = .eye ∧ ((after (.chanFenceSet 0) w).chan 0).survey.st = .waiting ∧ (u.chan 0).survey.st = .idle ∧ u.fld 0x330000 13 12 = 2 ∧
      t.stagingQuiet 0 = true ∧ ((after (.chanFenceClr 0) t).chan 0).fenced = false ∧
      after (.chanFenceClr 0) l = l.setBit 8 31 true := by
  decide +kernel

theorem test_write_protect :
    let t := after (.wpRelSet 0) flash
    (flash.bay 0).st = .on ∧ (flash.chan 0).st = .running ∧ (flash.bay 0).glitch = false ∧
      t.arrBit 0x5080 0 = true ∧ t.arrBit 0x5080 1 = false ∧ t.wpHigh 0 = true ∧ t.wpHigh 1 = false ∧
      after (.wpRelSet 1) flash = flash.setBit 8 31 true ∧ (after (.wpRelClr 0) t).arrBit 0x5080 0 = false := by
  decide +kernel

/-- An outcome of channel 0. -/
def outcome0 (fail : Bool) : TestOutcome :=
  { ch := 0, failing := [], codecFail := fail, trimFail := false, loopbackFail := false, storeFail := false,
    skipped := false }

/-- A self-test runs. -/
def testing (stop : Bool) : State :=
  { flash with test := { flash.test with running := true, extended := true, stopping := stop } }

theorem test_self_test :
    let t := after (.loopback 0 false) (testing false)
    let u := after (.selfTestEnd [outcome0 true]) (testing false)
    let v := after (.selfTestEnd [{ outcome0 true with ch := 1 }]) (testing false)
    let w := after (.selfTestEnd []) (testing true)
    (testing false).lunOk 0 0 = true ∧ (testing false).testCovers 0 = true ∧ (testing false).testCovers 1 = false ∧
      (testing false).chanRuns 0 = true ∧
      (testing false).bestJob 0 = none ∧ ((testing false).chan 0).bus.running = false ∧ t.test.outcomes = [{ outcome0 false with loopbackFail := true }] ∧
      u.fld 0x5200 11 8 = 3 ∧ isPending u 857 = true ∧ u.arrBit 0x5220 0 = true ∧
      (countUp 0 8).all (fun i => (testing false).reg (0x5220 + 4 * i) == 0) = true ∧ v.fld 0x5200 11 8 = 2 ∧
      isPending v 856 = true ∧ v.test.running = false ∧ w.fld 0x5200 11 8 = 4 ∧ isPending w 858 = true := by
  unfold isPending; decide +kernel

/-! Discovery, training and the microcode stores. -/

/-- Channel 0 is fenced, and its requested mode is NV-DDR2 at the highest rate of ONFI. -/
def fencedChan (f : Chan → Chan) : State :=
  (flash.setReg (chanPage 0 + 4) 0x00480200).modChan 0 (fun c => f { c with fenced := true, stdRate := 72 })

/-- An ONFI parameter page of 16 KiB pages with the Gale declaration of R133 at byte 200, and its CRC (R126). -/
def onfiPage : List Byte :=
  let m : SMap Byte := [(81, 0x40), (85, 7), (93, 3), (96, 0xD0), (97, 7), (100, 2), (101, 4), (102, 3), (113, 1),
    (200, 0x47), (201, 0x4C), (202, 1), (203, 5)]
  let l := (countUp 0 254).map (fun i => SMap.getD m i 0)
  l ++ [BitVec.ofNat 8 (pageCrc l), BitVec.ofNat 8 (pageCrc l / 2 ^ 8)]

/-- An ONFI target answers at chip enable 0; its first copy is damaged. -/
def report0 : TargetReport :=
  { ce := 0, id20 := [0x4F, 0x4E, 0x46, 0x49], id40 := [], copies := [setNth onfiPage 0 1, onfiPage], maxRate := 64 }

theorem test_good_copy : copyGood false (setNth onfiPage 0 1) = false ∧ goodPage report0 = some
    { toggle := false, row4 := true, gale4800 := true, gale6400 := false, warm := 5, bpc := 3, lun2 := true, planes := 2,
      blocks := 1000, pages := 768, pageBytes := 16384, spare := 1792 } := by
  decide +kernel

theorem test_discover :
    let s := fencedChan id
    let a := after (.discover 0) s
    let t := after (.targetReset 0) (after .admissionGrant a)
    let u := after (.discoveryEnd 0 []) t
    let v := after (.discoveryEnd 0 [report0]) t
    s.chanBusy 0 = false ∧ s.bayOn 0 = true ∧ (a.chan 0).st = .discovering ∧ (a.chan 0).mode = 1 ∧
      a.gov.waiting.map (fun r => (r.work, r.cls, r.planes)) = [(s.nextWork, 10, 0)] ∧
      (a.ownResets 0).all (fun e => !e.2.sent) = true ∧ still (.discoveryEnd 0 [report0]) a = true ∧
      (t.chan 0).st = .discovering ∧ (t.ownResets 0).any (fun e => e.2.sent) = true ∧ u.works = [] ∧
      after (.discover 0) flash = flash.setBit (chanPage 0 + 4) 31 true ∧ (flash.chan 0).fenced = false ∧
      (u.chan 0).st = .unconfigured ∧ (u.chan 0).present = 0 ∧ u.reg (geomAt 0 0) = 0 ∧ u.bit (chanPage 0 + 0xA8) 0 = true ∧
      targetUsable report0 = true ∧ t.fld (chanPage 0 + 4) 11 8 = 2 ∧ rateOk (t.fld (chanPage 0 + 4) 23 16) = true ∧
      t.fld (chanPage 0 + 4) 23 16 ≤ 72 ∧ (v.chan 0).st = .training ∧ (v.chan 0).trainRate = 64 ∧
      (v.chan 0).trainMode = 2 ∧ (v.chan 0).mode = 1 ∧ (v.chan 0).warm = [(0, 5)] ∧ s.reqOk 0 = true ∧ (v.chan 0).present = 1 ∧ v.reg (geomAt 0 0) = 0x4BD003E7 ∧ v.reg (geomAt 0 0 + 4) = 0x700202FF := by
  decide +kernel

theorem test_set_rate :
    let s := fencedChan id
    let t := after (.setRate 0) s
    let fast (b : Nat) := ((s.setReg (chanPage 0 + 4) 0x00600200).setBit (geomAt 0 0) 27 true).setReg (chanPage 0 + 0x50)
      (BitVec.ofNat 32 (8 * b))
    s.busPhase 0 = false ∧ s.modeOk 0 = true ∧ s.presentTargets 0 = [0] ∧ rateOk (s.fld (chanPage 0 + 4) 23 16) = true ∧
      (t.chan 0).st = .training ∧ (t.chan 0).trainMode = 2 ∧ (t.chan 0).mode = (s.chan 0).mode ∧ (t.chan 0).trainRate = 72 ∧ (t.chan 0).inReset = true ∧
      72 < (fast 0).fld (chanPage 0 + 4) 23 16 ∧ (fast 0).modeOk 0 = true ∧ (fast 0).galeOk 0 96 = false ∧
      (fast 1).galeOk 0 96 = true ∧ ((after (.setRate 0) (fast 1)).chan 0).trainRate = 96 ∧
      (after (.setRate 0) (fast 0)).bit (chanPage 0 + 0xA8) 2 = true := by
  decide +kernel

theorem test_retrain :
    let s := fencedChan (fun c => { c with rate := 64, trimOrder := [3] })
    let t := after (.retrain 0) s
    let u := after (.pllRelock 0) t
    (s.chan 0).inReset = false ∧ (t.chan 0).st = .training ∧ (t.chan 0).trainRate = 64 ∧ (t.chan 0).inReset = true ∧
      (t.chan 0).trimOrder = [] ∧ (u.chan 0).inReset = false ∧ (u.chan 0).live = (t.chan 0).target ∧
      (t.chan 0).image = none ∧ 48 ≤ (t.chan 0).trainRate ∧ (u.chan 0).bus.running = true ∧ (u.chan 0).bus.entry = 19 ∧
      (u.chan 0).bus.args = [4] := by
  decide +kernel

/-- Channel 0 trains at a rate. -/
def training (rate : Nat) : State :=
  fencedChan (fun c => { c with st := .training, trainWhy := some .setRate, trainRate := rate })

theorem test_training_ends :
    let s := training 64
    let t := after (.trainingEnd 0 (.ok 20 21 0 5 99 [] [])) s
    let u := after (.trainingEnd 0 (.ok 20 21 0 5 99 [] [])) (training 32)
    let v := after (.trainingEnd 0 (.fail 7 7)) s
    let w := after (.trainingEnd 0 (.fail 4 0)) (training 128)
    let r := (training 64).modChan 0 (fun c => { c with inReset := true })
    let x := after (.trainingEnd 0 (.busy 3)) r
    let q := s.setReg (chanPage 0 + 0xA4) 6
    (s.chan 0).live.length = 20 ∧ (t.chan 0).st = .running ∧ (t.chan 0).rate = 64 ∧ nth (t.chan 0).live 3 0 = 99 ∧
      t.bit (chanPage 0 + 0xA8) 1 = true ∧ (u.chan 0).live = ((training 32).chan 0).live ∧ (u.chan 0).rate = 32 ∧
      v.fld (chanPage 0 + 0xA0) 26 24 = 7 ∧ v.fld (chanPage 0 + 0xA0) 29 27 = 7 ∧ (v.chan 0).st = .unconfigured ∧
      v.bit (chanPage 0 + 0xA8) 3 = true ∧ (w.chan 0).st = .training ∧ (w.chan 0).trainRate = 72 ∧
      s.ownResets 0 = [] ∧ x = after (.trainingEnd 0 (.fail 2 3)) r ∧ x.fld (chanPage 0 + 0xA0) 26 24 = 2 ∧
      (x.chan 0).st = .unconfigured ∧ after (.trainingEnd 0 (.ok 5 9 1 5 99 [] [])) q = after (.trainingEnd 0 (.fail 7 1)) q ∧
      w.bit (chanPage 0 + 0xA8) 2 = true ∧ (training 128).galeOk 0 96 = false := by
  decide +kernel

theorem test_strobe_windows :
    let s := fencedChan (fun c => { c with rate := 64 })
    let m := fencedChan (fun c => { c with trimOrder := [1, 0], target := setNth c.target 1 100, live := setNth c.live 1 90 })
    let t := after (.strobeTrackingWindow 0 (some false)) s
    let u := after (.strobeTrackingWindow 0 (some true)) m
    (m.chan 0).survey.st ≠ .eye ∧ nth (u.chan 0).live 1 0 = 91 ∧ (u.chan 0).target = (m.chan 0).target ∧
      (signedOf 8 (s.fld (chanPage 0 + 0xAC) 7 0) + -1).natAbs ≤ max 1 (s.fld (chanPage 0 + 0xA4) 13 8) ∧
      (s.chan 0).trimOrder = [] ∧ signedOf 8 (t.fld (chanPage 0 + 0xAC) 7 0) = -1 ∧
      t.fld (chanPage 0 + 0xAC) 15 8 = 1 ∧ still (.strobeTrackingWindow 0 none) s = true := by
  decide +kernel

/-- The master image is valid and channel 0 is fenced. -/
def loadable (f : Chan → Chan) : State := let s := fencedChan f; { s with ph := { s.ph with master := 3 } }

theorem test_loads :
    let s := loadable id
    let t := after (.mcLoad 0) s
    let u := after .loadAll s
    let r := after (.channelLoadEnd 0) t
    let i := loadable (fun c => { c with st := .unconfigured })
    s.loadReady 0 = true ∧ s.loadReady 1 = false ∧ (t.chan 0).store = .loading ∧ (t.chan 0).inReset = true ∧
      (t.chan 0).before = .running ∧ (t.chan 0).loadWhy = some .load ∧
      after (.mcLoad 1) (s.modChan 1 (fun c => { c with inReset := false })) =
        (s.modChan 1 (fun c => { c with inReset := false })).setBit (chanPage 1 + 0x804) 31 true ∧
      (u.chan 0).store = .loading ∧ u.chan 1 = s.chan 1 ∧ u.fld 0x410004 23 16 = 63 ∧
      after .loadAll flash = flash.setBit 0x410000 31 true ∧ (r.chan 0).st = .training ∧
      (r.chan 0).trainWhy = some .load ∧ (r.chan 0).store = .loaded ∧ isPending r 826 = true ∧
      ((after (.channelLoadEnd 0) (after (.mcLoad 0) i)).chan 0).st = .unconfigured ∧ t.rawGroups = [] ∧
      ((after (.channelLoadEnd 0) (t.modChan 0 (fun c => { c with recStep := .reset }))).chan 0).inReset = true := by
  unfold isPending; decide +kernel

theorem test_load_meets_error :
    let t := after (.mcLoad 0) (loadable id)
    let t := { t with rawGroups := [(groupKey 6 8, { data := 3, check := 0, met := false })] }
    let u := after (.channelLoadEnd 0) t
    (t.useEntry 6 0 40960).1 = true ∧ (u.chan 0).store = .empty ∧ (u.chan 0).image = none ∧ u.ph.master = 4 ∧
      u.fld 0x410004 7 4 = 10 ∧ isPending u 825 = true := by
  unfold isPending; decide +kernel

theorem test_store_refresh :
    let s := loadable (fun c => { c with loadWhy := some .fault, recStep := .stopping })
    let w := { s with ph := { s.ph with master := 4 } }
    let t := after (.storeRefresh 0) s
    let u := after (.storeRefresh 0) w
    (t.chan 0).store = .loaded ∧ (t.chan 0).recStep = .reset ∧ t.fld (chanPage 0 + 0x808) 31 16 = 1 ∧
      isPending t 827 = true ∧ (w.chan 0).recStep ≠ .refreshWait ∧ (u.chan 0).recStep = .refreshWait ∧
      isPending u 828 = true := by
  unfold isPending; decide +kernel

/-! Memory protection, frames, messages and the checker test mode. -/

/-- Channel 0 is fenced, and word 7 of its frames holds raw bits. -/
def rawStored : State :=
  { flash.modChan 0 (fun c => { c with fenced := true }) with
    words := [(7, { FWord.init with raw := some (0x100000002, 3) })] }

theorem test_log_clear :
    let s := ((flash.setReg (mlogAt 3 31) 5).setReg 0x6008C 0x00070021).setReg (mlogAt 4 0) 9
    let t := after (.logClear 3) s
    s.serving = true ∧ t.reg (mlogAt 3 31) = 0 ∧ t.fld 0x6008C 5 0 = 0 ∧ t.fld 0x6008C 31 16 = 7 ∧
      t.reg (mlogAt 4 0) = 9 ∧ after (.logClear 7) s = s.setBit 0x60000 31 true := by
  decide +kernel

theorem test_staging_runs :
    let f := flash.modChan 0 (fun c => { c with fenced := true })
    let a := after (.memStgInit 0) f
    let b := after (.memBist 0) f
    let t := after (.stgInitEnd 0) a
    let u := after (.bistEnd 0 [] []) b
    f.stagingReady 0 = true ∧ flash.stagingReady 0 = false ∧ a.arrBit 0x60100 0 = true ∧ b.arrBit 0x60120 0 = true ∧
      after (.memStgInit 0) flash = flash.setBit 0x60000 31 true ∧ t.arrBit 0x60100 0 = false ∧
      t.arrBit 0x60140 0 = true ∧ isPending t 813 = true ∧ u.arrBit 0x60120 0 = false ∧ isPending u 813 = true := by
  unfold isPending; decide +kernel

theorem test_raw_access :
    let s := ((rawStored.setReg 0x60008 0x80050000).setReg 0x6000C 7).setReg 0x60030 0xC55
    let t := after .rawRead s
    let u := after .rawWrite t
    let o := s.setReg 0x60008 0x00050000
    s.rawWordExists 7 = true ∧ s.rawWordOpen 7 = true ∧ (s.rawWord 7).raw = some (0x100000002, 3) ∧
      t.reg 0x60010 = 2 ∧ t.reg 0x60014 = 1 ∧ wfld (t.reg 0x60030) 9 0 = 3 ∧
      (((after .rawWrite (s.setReg 0x60014 9)).rawWord 7).raw).map (fun e => (e.1.toNat / 2 ^ 32, e.2)) = some (9, 0x55) ∧
      ((after .rawWrite s).rawWord 7).poison1 = true ∧ (u.rawWord 7).raw = some (0x100000002, 3) ∧
      after .rawRead o = o.setBit 0x60000 31 true := by
  decide +kernel

/-- CONTENT names a byte group of the ageing ledger. -/
def rawGrouped : State :=
  (((flash.setReg 0x60008 0x80020000).setReg 0x6000C 4).setReg 0x60010 0x11223347).setReg 0x60030 0x1C

theorem test_raw_groups :
    let t := after .rawWrite rawGrouped
    let u := after .rawRead ((t.setReg 0x60010 0).setReg 0x60030 0)
    rawGrouped.serving = true ∧ groupExists 2 4 = true ∧ groupCheck 0x11223347 ≠ 0x1C ∧
      SMap.get t.rawGroups (groupKey 2 4) = some { data := 0x11223347, check := 0x1C, met := false } ∧
      u.reg 0x60010 = 0x11223347 ∧ u.reg 0x60030 = 0x1C := by
  decide +kernel

/-- A staging word whose code is wrong in one check bit, whatever the code is. -/
theorem one_check_bit : ∃ v b, wordDecode 0 (stagingCheck 0 ^^^ 1) = (v, .corrected b) := by
  have h : (stagingCheck 0 ^^^ (stagingCheck 0 ^^^ 1)).toNat = 1 := by
    generalize stagingCheck 0 = x; revert x; decide +kernel
  unfold wordDecode
  rw [h]
  dsimp only
  rw [if_neg (by decide)]
  split
  · exact ⟨_, _, rfl⟩
  · exact ⟨_, _, rfl⟩

/-- Word 7 waits for its write-back. -/
def toWriteBack : State :=
  { flash with words := [(7, { FWord.init with raw := some (0, stagingCheck 0 ^^^ 1) })], writeBacks := [(5, 7)] }

theorem test_writeback :
    toWriteBack.hostOn = true ∧ (5, 7) ∈ toWriteBack.writeBacks ∧
      ∃ d k v b, (toWriteBack.rawWord 7).raw = some (d, k) ∧ wordDecode d k = (v, .corrected b) := by
  obtain ⟨v, b, h⟩ := one_check_bit
  exact ⟨by decide +kernel, by decide +kernel, 0, _, v, b, rfl, h⟩

theorem test_frames :
    let s := flash.setFrame 5 { flash.frame 5 with st := .held }
    let t := after (.frameRetire 5) s
    let u := after (.frameRetire 4) s
    let v := after (.framePoolWrite 0 0x03000000) s
    let w := after (.framePoolWrite 0 0) v
    (s.frame 4).st = .free ∧ (t.frame 5).retire = true ∧ (t.frame 5).st = .held ∧ (u.frame 4).st = .retired ∧
      (v.frame 61).st = .reserved ∧ (v.frame 60).st = .free ∧ (w.frame 61).st = .free := by
  decide +kernel

theorem test_message_fifo :
    let m (b : Bool) : MsgWord := { data := 0, count := 0, entry := 0, first := false, last := b, truncated := false }
    let s := flash.modChan 0 (fun c => { c with msgs := [m false, m true, m false] })
    (s.chan 0).msgCount ≠ 0 ∧ ((after (.msgPop 0) s).chan 0).msgs = [m true, m false] ∧
      ((after (.msgDrop 0) s).chan 0).msgs = [m false] ∧ (flash.chan 0).msgCount = 0 ∧
      ((after (.msgDrop 0) flash).chan 0) = flash.chan 0 := by
  decide +kernel

theorem test_injection :
    let t := after (.injectionArm 0x80030000) (flash.setReg 0x888 0)
    flash.bit 0x880 31 = false ∧ t.inj.left = 3 ∧ t.inj.gen = 0x7FFFFFFF ∧ t.bit 0x880 31 = true ∧
      (after (.injectionArm 0x80010000) t).inj = t.inj ∧ (after (.injectionArm 0) t).bit 0x880 31 = false := by
  decide +kernel

theorem test_byte_code :
    byteCheck 0x47 = 0x1B ∧ (countUp 0 256).all (fun b => decide (byteCheck b < 32) &&
      bitOf (byteCheck b) 0 == (bitOf b 0 ^^ bitOf b 1 ^^ bitOf b 3 ^^ bitOf b 4 ^^ bitOf b 6) &&
      bitOf (byteCheck b) 4 == (bitOf b 0 ^^ bitOf b 1 ^^ bitOf b 2 ^^ bitOf b 3 ^^ bitOf b 4 ^^ bitOf b 5 ^^ bitOf b 6 ^^
        bitOf b 7 ^^ bitOf (byteCheck b) 0 ^^ bitOf (byteCheck b) 1 ^^ bitOf (byteCheck b) 2 ^^
        bitOf (byteCheck b) 3)) = true ∧
      byteDecode 0xFF (byteCheck 0x7F) = (0x7F, .corrected 7) ∧ byteDecode 0 0x10 = (0, .corrected 12) ∧
      (byteDecode 3 0).2 = .bad ∧ (byteDecode 0x80 1).2 = .bad := by
  decide +kernel

/-! The trace, snapshots and the time. -/

/-- The trace runs, with a record in its buffer. -/
def traced (ctl : BitVec 32) : State :=
  let s := up.setReg 0x70000 ctl
  { s with trace := { s.trace with buf := [0x00000004000000030000000200000001], dropped := 2 } }

theorem test_trace :
    let s := traced 0x80000000
    let o := traced 0
    let p := traced 0xC0000000
    let t := after .lost s
    let w := after .tracePortSend p
    s.tracing = true ∧ (after .timeSync s).trace.buf.length = 2 ∧ t.trace.dropped = 0 ∧ t.trace.buf.length = 3 ∧
      (after .trcPop s).trace.buf = [] ∧ still .trcPop p = true ∧ after .trcFlush s = s.setBit 0x70004 31 true ∧
      (after .trcFlush o).trace.buf = [] ∧ w.trace.buf = [] ∧ w.trace.port = [1, 2, 3, 4] := by
  decide +kernel

theorem test_trace_full :
    let r : BitVec 128 := 0
    ∃ l : List (BitVec 128), 65536 ≤ l.length ∧
      { traced 0x80000000 with trace := { (traced 0x80000000).trace with buf := l } }.tracing = true ∧
      { traced 0xA0000000 with trace := { (traced 0xA0000000).trace with buf := l } }.tracing = true ∧
      (traced 0x80000000).bit 0x70000 29 = false ∧ (traced 0xA0000000).bit 0x70000 29 = true ∧ nth l 0 r = 0 :=
  ⟨List.replicate 65536 0, by rw [List.length_replicate], by decide +kernel, by decide +kernel, by decide +kernel,
    by decide +kernel, rfl⟩

theorem test_snapshot :
    let s := { up with counters := [(32 * 266 + 31, 0x500000007), (3, 9)], saturated := [32 * 266 + 31] }
    let t := after (.snapshot 1 266 true) s
    up.serving = true ∧ s.bit 0x70114 31 = false ∧ t.reg 0x711F8 = 7 ∧ t.reg 0x711FC = 0x80000005 ∧
      t.counters = [(3, 9)] ∧ t.saturated = [] ∧ t.bit 0x70114 31 = true ∧ t.fld 0x70114 8 0 = 266 ∧
      after (.snapshot 0 267 true) s = s.setBit 0x70104 30 true ∧
      after (.snapshot 1 0 true) t = t.setBit 0x70114 30 true ∧ (after (.snapshotDone 1) t).bit 0x70114 31 = false := by
  decide +kernel

theorem test_time :
    let s := { up with deviceTime := 0x600000000, follower := 0x500000007 }
    (after (.deviceTimeLoRead false) s).ep.shadowHost = some 5 ∧ (after (.deviceTimeLoRead true) s).ep.shadowMgmt = some 5 ∧
      (after .deviceTimeFollowerReload s).follower = 0x600000000 := by
  decide +kernel

/-- The record of the example of the trace chapter leaves in the four beats given there (R497, R504). -/
theorem test_record_beats :
    recordBeats 0x000000250000320B00C8123185C50032 =
      [(true, true, 0x85C50032), (false, true, 0x00C81231), (false, true, 0x0000320B), (false, true, 0x00000025)] := by
  decide +kernel

/-- The full-load figures of the three builds, and the idle and fenced ones of the largest (R535). -/
theorem test_power :
    (fullPower 256 128).map (fun p => p / 1000) = some 2500 ∧ (fullPower 128 128).map (fun p => p / 1000) = some 1290 ∧
      (fullPower 64 128).map (fun p => p / 1000) = some 675 ∧ (fullPower 256 72).map (fun p => p / 1000) = some 1668 ∧
      idlePower 256 / 1000 = 669 ∧ fencedPower 256 / 1000 = 477 := by
  decide

theorem test_outputs :
    let r := State.reset
    up.hclkLock = true ∧ up.rxReady 0 = true ∧ up.rxReady 15 = false ∧ r.rxReady 0 = false ∧ up.lullActive = false ∧
      up.peFallback = true ∧ up.peModel = 0 ∧ flash.bayPwrEn 0 = true ∧ flash.bayPwrEn 1 = false ∧
      flash.wpN 0 = .low ∧ (after (.wpRelSet 0) flash).wpN 0 = .high ∧ flash.bayInd 0 false = .on ∧
      flash.bayInd 0 true = .off ∧ up.irqLines true = copies 64 false ∧ indDrive 3 = .blink 125000000 := by
  decide +kernel

/-! The step and the invariant. -/

/-- The time after a step. -/
def stepTime (s : State) : Nat := match step s with | .next t => t.deviceTime.toNat | _ => 0

theorem test_step_front :
    step { up with pending := [.deviceTimeLoRead false, .lost] } =
      exec (.deviceTimeLoRead false) { up with pending := [.lost] } := rfl

theorem test_step_idle : stepTime { up with deviceTime := 70 } = 80 ∧ stepTime State.reset = 0 := by decide +kernel

theorem test_inv : inv flash = true ∧ inv twoPending = true := by decide +kernel

theorem test_inv_refuses :
    inv { up with regs := [(8, 1), (4, 1)] } = false ∧ inv { up with words := [(3, FWord.init)] } = false ∧
      inv { up with spares := [(3, FWord.init)] } = false ∧
      inv (up.setBay 4 { Bay.init with st := .off, glitch := true }) = false ∧
      inv (up.setBay 4 { Bay.init with powerPending := true }) = false ∧
      inv { up with irq := { up.irq with heldEdges := [800] } } = false := by decide +kernel

theorem test_unpaced : ∀ g, g < 512 → (movedAll id).paceMode g = 0 := by decide +kernel

/-! Well-formed commands: for each check, an operand at the end of its range and one past it. -/

theorem test_wf_numbers :
    (Instr.discover 255).wellFormed = true ∧ (Instr.discover 256).wellFormed = false ∧
      (Instr.powerOn 31).wellFormed = true ∧ (Instr.powerOn 32).wellFormed = false ∧
      (Instr.readPage 32767).wellFormed = true ∧ (Instr.readPage 32768).wellFormed = false ∧
      (Instr.dmaStart 7 63).wellFormed = true ∧ (Instr.dmaStart 8 0).wellFormed = false ∧
      (Instr.dmaStart 0 64).wellFormed = false ∧ (Instr.sdFetch 16384).wellFormed = false ∧
      (Instr.srcPendSet 32 0).wellFormed = false ∧ (Instr.claim 64 true).wellFormed = false ∧
      (Instr.complete 64 true 0).wellFormed = false ∧ (Instr.sourceEdge 1024).wellFormed = false ∧
      (Instr.wake (.source 1024)).wellFormed = false ∧ (Instr.wake .pin).wellFormed = true ∧
      (Instr.wheelGrant (.pair 8)).wellFormed = false ∧ (Instr.wheelGrant .records).wellFormed = true := by
  decide

theorem test_wf_host :
    (Instr.registerWrite 0x3FFFFFC 0).wellFormed = true ∧ (Instr.registerWrite 0x4000000 0).wellFormed = false ∧
      (Instr.registerWrite 2 0).wellFormed = false ∧ (Instr.memoryRead (.bar0 0) 4096 0 1023).wellFormed = true ∧
      (Instr.memoryRead .vendorMsg 4 0 0).wellFormed = false ∧ (Instr.memoryRead (.bar0 0) 4 0 1024).wellFormed = false ∧
      (Instr.memoryRead (.bar0 0) 4097 0 0).wellFormed = false ∧ (Instr.memoryWrite .ioSpace [0] 0 false).wellFormed = false ∧
      (Instr.memoryWrite (.bar0 0) [] 0 false).wellFormed = false ∧
      (Instr.memoryWrite (.bar2 0x800000) [0] 0 false).wellFormed = false ∧
      (Instr.configRequest 4096 none 0 0 0).wellFormed = false := by
  decide

theorem test_wf_small :
    (Instr.malformedTlp 8).wellFormed = false ∧ (Instr.completionTimeout 1024).wellFormed = false ∧
      (Instr.unexpectedCompletion 1024).wellFormed = false ∧ (Instr.abandonedTagRelease 1024).wellFormed = false ∧
      (Instr.linkError 8).wellFormed = false ∧ (Instr.msixMessage 2048).wellFormed = false ∧
      (Instr.dataPhaseStart 8).wellFormed = false ∧ (Instr.admissionRequest 0 16).wellFormed = false ∧
      (Instr.rbNRise 0 8).wellFormed = false ∧ (Instr.pollIntervalExpiry 0 8).wellFormed = false ∧
      (Instr.heldLunPoll 0 16).wellFormed = false ∧ (Instr.program 0 5).wellFormed = false ∧
      (Instr.programResume 0 5).wellFormed = false ∧ (Instr.suspended 0 16).wellFormed = false ∧
      (Instr.readyTimeout 0 16).wellFormed = false ∧ (Instr.obtHiWrite 32768 0).wellFormed = false ∧
      (Instr.rltRead 65536).wellFormed = false ∧ (Instr.rltWrite 65536).wellFormed = false ∧
      (Instr.ledgerHiWrite 32768 0).wellFormed = false ∧ (Instr.ringCountEnd 0 8 0).wellFormed = false ∧
      (Instr.dmaTimerTick 0 16).wellFormed = false ∧ (Instr.packetChannelsWrite 8 0).wellFormed = false ∧
      (Instr.ringHeadWrite 64 0).wellFormed = false ∧ (Instr.ringEnable 64 0).wellFormed = false ∧
      (Instr.peWeightWrite 16 0).wellFormed = false ∧ (Instr.correctedWriteback 7 0).wellFormed = false ∧
      (Instr.logClear 8).wellFormed = false ∧ (Instr.frameRetire 16384).wellFormed = false ∧
      (Instr.snapshot 2 0 false).wellFormed = false ∧ (Instr.snapshot 0 512 false).wellFormed = false ∧
      (Instr.snapshotDone 2).wellFormed = false ∧ (Instr.bar4Read 0x10000000 4).wellFormed = false ∧
      (Instr.bistEnd 0 [40960] []).wellFormed = false ∧ (Instr.bistEnd 0 [] [8]).wellFormed = false := by
  decide

end Sys2Proof.Tests
end

section
/-! Every step keeps the invariant. Each command's meaning is put together from the operations whose `_kept` lemmas
stand under Laws/Keeps; here each command's branches are taken apart once. -/

namespace Sys2Proof.Machine
open Sys2Proof

/-- A command that acts only under a condition, and else leaves the state as it is. -/
theorem KeptX.nextIf {z s t : State} {c : Prop} [Decidable c] (h : Kept z t) (hs : Kept z s) :
    KeptX z (if c then .next t else .next s) := by
  split
  · exact .next h
  · exact .next hs

/-- A request of a port: held in Lull, served while its port is open. -/
theorem KeptX.port {z s t : State} {c : Instr} {e : WakeEvent} {p : Prop} [Decidable p] (hs : Kept z s)
    (h : Kept z t) :
    KeptX z (if s.asleep then .next (s.holdRequest c e) else if p then .next t else .next s) := by
  split
  · exact .next (holdRequest_kept hs c e)
  · exact .nextIf h hs

theorem execUnexpectedCompletion_kept {z t : State} (hk : Kept z t) (tag : Nat) :
    KeptX z (execUnexpectedCompletion tag t) := by
  have herr := raise_kept (aerUncor_kept hk 16 true true) 834
  unfold execUnexpectedCompletion
  split
  · exact .next hk
  · split
    · split
      · exact .next hk
      · exact .next herr
    · exact .next herr

theorem execHostReadCompletion_kept {z t : State} (hk : Kept z t) (tag : Nat) (status : CplStatus) (data : List Byte)
    (poison : Bool) : KeptX z (execHostReadCompletion tag status data poison t) := by
  unfold execHostReadCompletion
  split
  · exact execUnexpectedCompletion_kept hk tag
  · exact .nextIf (completionIn_kept hk _ _ _ _ _) hk

theorem execCompletionTimeout_kept {z t : State} (hk : Kept z t) (tag : Nat) :
    KeptX z (execCompletionTimeout tag t) := by
  unfold execCompletionTimeout
  split
  · exact .next hk
  · exact .nextIf (reqFails_kept (raise_kept (aerUncor_kept (.lit (dropReq_kept hk _) rfl) _ _ _) _) _) hk

theorem execLinkError_kept {z t : State} (hk : Kept z t) (b : Nat) : KeptX z (execLinkError b t) := by
  unfold execLinkError
  exact .nextIf (.ite (aerCor_kept hk _) (aerUncor_kept hk _ _ _)) hk

theorem execFunctionLevelReset_kept {z t : State} (hk : Kept z t) : KeptX z (execFunctionLevelReset t) := by
  unfold execFunctionLevelReset
  exact .nextIf (holdRequest_kept hk _ _) (flr_kept hk)

theorem execHotReset_kept {z t : State} (hk : Kept z t) (linkDown : Bool) : KeptX z (execHotReset linkDown t) := by
  have hlink : Kept z (if linkDown then { t with ep := { t.ep with linkUp := false } } else t) := .ite (.lit hk rfl) hk
  unfold execHotReset
  split
  · exact .nextIf (holdRequest_kept hlink _ _) (hotReset_kept hlink)
  · exact .next hk

theorem execControlRamInitEnd_kept {z t : State} (hk : Kept z t) : KeptX z (execControlRamInitEnd t) := by
  unfold execControlRamInitEnd
  exact .nextIf (.ite (releaseEdges_kept (.lit hk rfl)) (.lit hk rfl)) hk

theorem execSdFetch_kept {z t : State} (hk : Kept z t) (tag : Nat) : KeptX z (execSdFetch tag t) := by
  unfold execSdFetch
  split
  · exact .next hk
  · split
    · exact .nextIf (openAcc_kept hk _ _ _) hk
    · exact .nextIf (slotsRead_kept (fetchSd_kept hk _) _ _) hk

theorem execAdmissionGrant_kept {z t : State} (hk : Kept z t) : KeptX z (execAdmissionGrant t) := by
  unfold execAdmissionGrant
  split
  · split
    · exact .next (grant_kept hk _)
    · exact .next hk
  · exact .next hk

theorem execProgramAgeClimb_kept {z t : State} (hk : Kept z t) (id : Nat) : KeptX z (execProgramAgeClimb id t) := by
  unfold execProgramAgeClimb
  split
  · exact .nextIf (modWork_kept hk _ _) hk
  · exact .next hk

/-- A routine pauses only as its PAUSED message says; another job's work goes on (R172, R173). -/
theorem execPaused_kept {z t : State} (hk : Kept z t) (ch id col : Nat) : KeptX z (execPaused ch id col t) := by
  unfold execPaused
  refine .nextIf (.ite (badMessageFault_kept hk _) ?_) hk
  split
  · split
    · exact .ite (abortIfPending_kept (routinePauses_kept (traceMsg_kept hk _ _ _ _) _ _ _ _) _) hk
    · exact pausedMsg_kept hk _ _ _
  · exact hk

theorem execReadyTimeout_kept {z t : State} (hk : Kept z t) (ch lun : Nat) : KeptX z (execReadyTimeout ch lun t) := by
  have htimeout := readyTimeout_kept hk ch lun
  unfold execReadyTimeout
  exact .nextIf (.ite (.ite (trainLost_kept htimeout _) htimeout) (accessTimeout_kept hk _ _)) hk

theorem execHardDecodeEnd_kept {z t : State} (hk : Kept z t) (id : Nat) : KeptX z (execHardDecodeEnd id t) := by
  unfold execHardDecodeEnd
  split
  · exact .next hk
  · split
    · exact .next (grantFrames_kept (softNext_kept (hardEnd_kept hk _) _) _)
    · exact .next hk

theorem execSoftDecodeEnd_kept {z t : State} (hk : Kept z t) (id : Nat) : KeptX z (execSoftDecodeEnd id t) := by
  unfold execSoftDecodeEnd
  split
  · exact .next hk
  · split
    · exact .next (grantFrames_kept (softNext_kept (softEnd_kept hk _) _) _)
    · exact .next hk

theorem execWake_kept {z t : State} (hk : Kept z t) (event : WakeEvent) : KeptX z (execWake event t) := by
  have hpin : Kept z { t with irq := { t.irq with pinArmed := false } } := .lit hk rfl
  unfold execWake
  split
  · exact .next hk
  · cases event with
    | source n => exact .nextIf (raise_kept hk _) hk
    | pin => exact .nextIf (.ite (wakeBy_kept hpin _) hpin) hk
    | access => exact .next (.ite (wakeBy_kept hk _) hk)
    | fnReset => exact .next (.ite (wakeBy_kept hk _) hk)

theorem execStrobeLost_kept {z t : State} (hk : Kept z t) : KeptX z (execStrobeLost t) := by
  unfold execStrobeLost
  split
  · exact .nextIf (fallback_kept (.lit hk rfl) _) (.lit hk rfl)
  · exact .next hk

theorem execTracePortSend_kept {z t : State} (hk : Kept z t) : KeptX z (execTracePortSend t) := by
  unfold execTracePortSend
  split
  · split
    · exact .next hk
    · exact .next (.lit hk rfl)
  · exact .next hk

/-- Every command but those that reset the always-on island or capture the tie-offs keeps the two of them, with all
that every command keeps. -/
theorem exec_kept (c : Instr) (s : State) (hties : ∀ x, c ≠ .fundamentalResetRelease x) (haon : c ≠ .aonReset)
    (hpower : c ≠ .powerRemoval) : KeptX s (exec c s) := by
  have hk := Kept.refl s
  cases c
  case fundamentalResetRelease x => exact absurd rfl (hties x)
  case aonReset => exact absurd rfl haon
  case powerRemoval => exact absurd rfl hpower
  case registerWrite => exact .port hk (regWrite_kept hk _ _)
  case memoryWrite => exact .port hk (hostWrite_kept hk _ _ _ _)
  case memoryRead => exact .port hk (hostRead_kept hk _ _ _ _)
  case configRequest => exact .port hk (configIn_kept hk _ _ _ _ _)
  case malformedTlp => exact .nextIf (aerUncor_kept hk _ _ _) hk
  case hostReadCompletion => exact execHostReadCompletion_kept hk _ _ _ _
  case completionTimeout => exact execCompletionTimeout_kept hk _
  case unexpectedCompletion => exact execUnexpectedCompletion_kept hk _
  case abandonedTagRelease | hostPllLock | admissionAge | rltInitEnd | squallWindowEnd | deviceTimeFollowerReload |
      linkUp => exact .nextIf (.lit hk rfl) hk
  case linkError => exact execLinkError_kept hk _
  case mgmtAccess => exact .port hk (mgmtIn_kept hk _ _ _ _)
  case functionLevelReset => exact execFunctionLevelReset_kept hk
  case hotReset => exact execHotReset_kept hk _
  case functionReady => exact .nextIf (functionReady_kept hk) hk
  case fundamentalReset => exact .nextIf (fundamentalReset_kept hk) hk
  case channelPllLock => exact .nextIf (channelUp_kept hk _) hk
  case controlRamInitEnd => exact execControlRamInitEnd_kept hk
  case queueCreate => exact execQueueCreate_kept hk _
  case queueDelete => exact execQueueDelete_kept hk _
  case queueDrainEnd => exact .nextIf (modQueue_kept hk _ _) hk
  case sqTailDoorbell => exact execSqTailDoorbell_kept hk _ _
  case cqHeadDoorbell => exact execCqHeadDoorbell_kept hk _ _
  case sqFetch => exact .nextIf (slotsRead_kept (fetchSq_kept hk _) _ _) hk
  case pushWindowWrite => exact execPushWindowWrite_kept hk _ _ _
  case packetParse => exact .next (packetTurn_kept hk _)
  case completionWrite => exact .nextIf (writeEntry_kept (slotGone_kept hk _) _) hk
  case coalescingTimeout => exact .nextIf (askMsix_kept (modQueue_kept hk _ _) _) hk
  case msixMessage => exact .nextIf (msixDue_kept hk _) hk
  case readPage | readQuarter | readRaw | readRebuild | programPage | programRaw | reprogramHeld | releaseFrame |
      copyPage | eraseBlock | getFeature | setFeature | readParameterPage | resetTarget | abort | fence |
      getDeferred | survey | calibrate | runRoutine => exact .next (opcodeRow_kept hk _ _)
  case fenceCommit => exact .nextIf (fenceCommit_kept hk _) hk
  case selfTestStartShort | selfTestStartExtended | selfTestStop | stripeParityOpen | stripeParityClose |
      stripeParityDiscard => exact .next (modeRow_kept hk _ _ _)
  case sdFetch => exact execSdFetch_kept hk _
  case dataPhaseStart => exact .nextIf (startPhase_kept (rebuildSweep_kept hk) _) hk
  case dataPhaseEnd => exact .nextIf (endPhase_kept hk _) hk
  case programStaged => exact .nextIf (stage_kept hk _) hk
  case accAdditionEnd => exact .nextIf (accAdd_kept (slotGone_kept hk _) _) hk
  case admissionRequest => exact .nextIf (ask_kept (softNext_kept hk _) _ _) hk
  case admissionGrant => exact execAdmissionGrant_kept hk
  case admissionStall => exact .nextIf (raise_kept (.lit hk rfl) _) hk
  case programAgeClimb => exact execProgramAgeClimb_kept hk _
  case levelSet => exact .nextIf (setLevels_kept hk _) hk
  case readIssue => exact .nextIf (issueFlashRead_kept hk _) hk
  case dataOut => exact .nextIf (dataOut_kept hk _ _) hk
  case statusPoll => exact .nextIf (resetsPolled_kept (statusPoll_kept hk _ _) _ _) hk
  case rbNRise | pollIntervalExpiry => exact .nextIf (pollsDue_kept hk _ _ _) hk
  case heldLunPoll => exact .nextIf (modLun_kept hk _ _) hk
  case suspendProgram | suspendErase => exact .nextIf (suspendLun_kept hk _ _) hk
  case resume => exact .nextIf (resumeLun_kept hk _) hk
  case program | programResume => exact .nextIf (programRow_kept hk _ _ _) hk
  case erase => exact .nextIf (eraseLun_kept hk _) hk
  case targetReset => exact .nextIf (.ite (targetReset_kept hk _) (sendReset_kept hk _)) hk
  case featureAccessJob => exact .nextIf (.ite (.ite hk (entryOn_kept hk _ _ _)) (featureJob_kept hk _ _)) hk
  case confirm => exact .nextIf (.ite (badMessageFault_kept hk _) (confirmWork_kept hk _ _)) hk
  case result => exact .nextIf (.ite (badMessageFault_kept hk _) (resultMsg_kept hk _ _ _)) hk
  case fail => exact .nextIf (failMsg_kept hk _ _ _) hk
  case paused => exact execPaused_kept hk _ _ _
  case suspended => exact .nextIf (traceRec_kept (suspendedLun_kept hk _ _) _ _ _ _ _ _) hk
  case push | pushEnd => exact .nextIf (pushMsg_kept hk _ _ _ _) hk
  case illegalMicroword | doldrumsStallTimeout => exact .nextIf (fault_kept hk _ _ _) hk
  case readyTimeout => exact execReadyTimeout_kept hk _ _
  case lunHoldClear => exact execLunHoldClear_kept hk _ _
  case hardDecodeEnd => exact execHardDecodeEnd_kept hk _
  case softDecodeEnd => exact execSoftDecodeEnd_kept hk _
  case rebuildAdditionEnd => exact .nextIf (addPayload_kept (slotGone_kept hk _) _) hk
  case rebuildSolveEnd => exact .nextIf (solveEnd_kept hk _) hk
  case discover => exact execDiscover_kept hk _
  case discoveryEnd => exact .nextIf (discovered_kept hk _ _) hk
  case setRate => exact execSetRate_kept hk _
  case retrain => exact execRetrain_kept hk _
  case pllRelock => exact .nextIf (startTrain_kept (leaveReset_kept hk _) _) hk
  case trainingEnd => exact .nextIf (trained_kept hk _ _) hk
  case strobeTrackingWindow => exact .nextIf (trackWindow_kept hk _ _) hk
  case obtHiWrite => exact execObtHiWrite_kept hk _ _
  case framePoolWrite => exact execFramePoolWrite_kept hk _ _
  case bar4Write => exact .port hk (hostWrite_kept hk _ _ _ _)
  case bar4Read => exact .port hk (hostRead_kept hk _ _ _ _)
  case fifoPointerMismatch => exact .nextIf (fifoMismatch_kept hk _ _) hk
  case msgPop => exact execMsgPop_kept hk _
  case msgDrop => exact execMsgDrop_kept hk _
  case injectionArm => exact execInjectionArm_kept hk _
  case mcOpen => exact execMcOpen_kept hk
  case mcVerify => exact execMcVerify_kept hk
  case verifyEnd => exact .nextIf (mcVerified_kept hk) hk
  case loadAll => exact execLoadAll_kept hk
  case mcLoad => exact execMcLoad_kept hk _
  case channelLoadEnd => exact .nextIf (loadEnd_kept hk _) hk
  case storeRefresh => exact .nextIf (refresh_kept hk _) hk
  case rltRead => exact execRltRead_kept hk _
  case rltWrite => exact execRltWrite_kept hk _
  case rltLookup => exact execRltLookup_kept hk
  case rltInsert => exact execRltInsert_kept hk
  case rltClearUnpinned => exact execRltClearUnpinned_kept hk
  case rltClearAll => exact execRltClearAll_kept hk
  case rltCfgWrite => exact execRltCfgWrite_kept hk _
  case ledgerHiWrite => exact execLedgerHiWrite_kept hk _ _
  case advPop => exact execAdvPop_kept hk
  case surveyDue => exact .nextIf (surveyDue_kept hk _) hk
  case surveyStart => exact .nextIf (surveyStart_kept hk) hk
  case eyeScan => exact .nextIf (eyeScan_kept hk _ _) hk
  case sampleRead => exact .nextIf (sampleRead_kept hk _ _) hk
  case ringCountEnd => exact .nextIf (ringCount_kept hk _ _ _) hk
  case planRewrite => exact .nextIf (rewritePlan_kept hk _) hk
  case dmaStart => exact execDmaStart_kept hk _ _
  case dmaStop => exact execDmaStop_kept hk _ _
  case dmaAbort => exact execDmaAbort_kept hk _ _
  case dmaResume => exact execDmaResume_kept hk _ _
  case descriptorFetch => exact .nextIf (dmaLoad_kept hk _) hk
  case dmaBurst => exact .nextIf (dmaBurst_kept hk _) hk
  case wheelGrant => exact .nextIf (wheel_kept hk _) hk
  case descriptorEnd => exact .nextIf (endDesc_kept hk _) hk
  case recordWrite => exact .nextIf (dmaRecord_kept hk _) hk
  case dmaTimerTick => exact .nextIf (creditAll_kept hk _ _) hk
  case pacingWithdraw => exact execPacingWithdraw_kept hk _ _
  case packetChannelsWrite => exact execPacketChannelsWrite_kept hk _ _
  case ringHeadWrite => exact execRingHeadWrite_kept hk _ _
  case ringEnable => exact execRingEnable_kept hk _ _
  case dmaOfflineWrite => exact execDmaOfflineWrite_kept hk _ _ _
  case carryPop => exact execCarryPop_kept hk
  case sourceEdge => exact .next (.ite (raise_kept hk _) hk)
  case srcPendSet => exact execSrcPendSet_kept hk _ _
  case srcPendClr => exact execSrcPendClr_kept hk _ _
  case srcMaskWrite => exact execSrcMaskWrite_kept hk _ _
  case claim => exact execClaim_kept hk _ _
  case complete => exact execComplete_kept hk _ _ _
  case lullEnter => exact execLullEnter_kept hk
  case lullEntry => exact .nextIf (lullStop_kept hk) hk
  case wake => exact execWake_kept hk _
  case lullWake => exact .nextIf (wakeUp_kept hk) hk
  case presenceSeen | debouncePresenceHigh =>
    exact .nextIf (modBay_kept (bayTo_kept hk _ _ _) _ _ (fun h => bay_ok h _)) hk
  case debounceEnd => exact .nextIf (bayTo_kept (addFld_kept hk _ _ _ _) _ _ _) hk
  case presenceLost => exact .nextIf (presenceLost_kept hk _) hk
  case powerOn => exact execPowerOn_kept hk _
  case rampStart => exact .nextIf (rampStart_kept hk _) hk
  case powerOff => exact execPowerOff_kept hk _
  case clearFault => exact execClearFault_kept hk _
  case powerGoodStable => exact .nextIf (bayOnNow_kept hk _) hk
  case pgTimeout => exact .nextIf (bayFault_kept hk _ _) hk
  case powerLost => exact .nextIf (powerLost_kept hk _) hk
  case glitchWindowEnd => exact .nextIf (glitchEnd_kept hk _ _) hk
  case attnButtonPress => exact .nextIf (bayEvents_kept (modBay_kept hk _ _ (fun h => bay_ok h _)) _ _ _) hk
  case peSampleEdge => exact .nextIf (peEdge_kept hk _ _) hk
  case peInternalTick => exact .nextIf (peStep_kept hk) hk
  case strobeLost => exact execStrobeLost_kept hk
  case peResume => exact execPeResume_kept hk _
  case peWeightWrite => exact execPeWeightWrite_kept hk _ _
  case calStart => exact execCalStart_kept hk _ _
  case calUnitTake => exact .nextIf (calTake_kept hk) hk
  case calRunEnd => exact .nextIf (calRun_kept hk _) hk
  case trimImpTgtWrite => exact execTrimImpTgtWrite_kept hk _ _
  case correctedWriteback => exact .nextIf (writeBack_kept hk _ _) hk
  case logClear => exact execLogClear_kept hk _
  case frameRetire => exact execFrameRetire_kept hk _
  case memStgInit => exact execMemStgInit_kept hk _
  case stgInitEnd =>
    exact .nextIf (raise_kept (setArrBit_kept (setArrBit_kept (clearStaging_kept hk _) _ _ _) _ _ _) _) hk
  case memBist => exact execMemBist_kept hk _
  case bistEnd => exact .nextIf (bistEnd_kept hk _ _ _) hk
  case rawRead => exact execRawRead_kept hk
  case rawWrite => exact execRawWrite_kept hk
  case replayFaultRequest => exact execReplayFaultRequest_kept hk _
  case channelResetEnd => exact .nextIf (resetEnd_kept hk _) hk
  case readBack => exact .nextIf (readBack_kept hk _) hk
  case replayEnd => exact .nextIf (replayEnd_kept hk _) hk
  case chanFenceSet => exact execChanFenceSet_kept hk _
  case chanFenceClr => exact execChanFenceClr_kept hk _
  case wpRelSet => exact execWpRelSet_kept hk _
  case wpRelClr => exact execWpRelClr_kept hk _
  case selfTestEnd => exact .nextIf (testEnd_kept hk _) hk
  case loopback => exact .nextIf (loopback_kept hk _ _) hk
  case timeSync => exact .next (traceSync_kept hk)
  case lost => exact .nextIf (.lit (traceIn_kept (traceIn_kept hk _) _) rfl) hk
  case trcPop => exact execTrcPop_kept hk
  case trcFlush => exact execTrcFlush_kept hk
  case snapshot => exact execSnapshot_kept hk _ _ _
  case deviceTimeLoRead => exact .nextIf (latchTime_kept hk _) hk
  case attnButtonRelease => exact .nextIf (modBay_kept hk _ _ (fun h => bay_ok h _)) hk
  case wakePinRelease | aonResetRelease => exact .next (.lit hk rfl)
  case tracePortSend => exact execTracePortSend_kept hk
  case snapshotDone => exact .nextIf (setBit_kept hk _ _ _) hk

theorem execFundamentalResetRelease_keptB {s t : State} (ties : TieOffs)
    (h : execFundamentalResetRelease ties s = .next t) : KeptB s t := by
  unfold execFundamentalResetRelease at h
  split at h
  · cases h; exact ⟨rfl, rfl, id, id, id, id, id⟩
  · cases h; exact (Kept.refl s).toKeptB

theorem execAonReset_keptB {s t : State} (h : execAonReset s = .next t) : KeptB s t := by
  unfold execAonReset at h
  split at h
  · cases h; exact aonReset_kept s
  · cases h; exact (Kept.refl s).toKeptB

theorem execPowerRemoval_keptB {s t : State} (h : execPowerRemoval s = .next t) : KeptB s t := by
  cases h; exact powerOff0_kept s

/-- What every command keeps. -/
theorem exec_keptB {c : Instr} {s t : State} (h : exec c s = .next t) : KeptB s t := by
  by_cases hties : ∃ x, c = .fundamentalResetRelease x
  · obtain ⟨x, rfl⟩ := hties
    exact execFundamentalResetRelease_keptB x h
  by_cases haon : c = .aonReset
  · subst haon; exact execAonReset_keptB h
  by_cases hpower : c = .powerRemoval
  · subst hpower; exact execPowerRemoval_keptB h
  exact (exec_kept c s (fun x e => hties ⟨x, e⟩) haon hpower t h).toKeptB

theorem step_idle {s : State} (h : s.pending = []) : step s = .next s.aonClock := by
  unfold step; rw [h]

theorem step_front {s : State} {c : Instr} {rest : List Instr} (h : s.pending = c :: rest) :
    step s = exec c { s with pending := rest } := by
  unfold step; rw [h]

/-- The invariant does not look at the queue of commands, and each part of it is kept. -/
theorem KeptB.inv {s t : State} (h : KeptB s t) (hs : inv s = true) : inv t = true := by
  simp only [Sys2Proof.inv, Bool.and_eq_true] at hs ⊢
  obtain ⟨⟨⟨⟨hregs, hwords⟩, hspares⟩, hbays⟩, hedges⟩ := hs
  exact ⟨⟨⟨⟨h.regs hregs, h.words hwords⟩, h.spares hspares⟩, h.bays hbays⟩, h.edges hedges⟩

end Sys2Proof.Machine

namespace Sys2Proof
open Machine

/-- Settles O59: a clock keeps the invariant, and so does every command, whatever waits behind it. -/
theorem stepKeepsInvariant : Obligations.StepKeepsInvariant := by
  intro s t hs h
  cases hp : s.pending with
  | nil =>
    rw [step_idle hp] at h
    cases h
    exact (aonClock_kept s).inv hs
  | cons c rest =>
    rw [step_front hp] at h
    exact (exec_keptB h).inv (s := { s with pending := rest }) hs

end Sys2Proof
end

section
/-! The step, and what a write of a register does. -/

namespace Sys2Proof.Machine
open Sys2Proof

/-- A clock changes nothing but the two copies of the time (R19, R495). -/
theorem aonClock_eq (s : State) :
    s.aonClock = { s with deviceTime := s.aonClock.deviceTime, follower := s.aonClock.follower } := by
  unfold State.aonClock
  split <;> rfl

theorem aonClock_deviceTime (s : State) : s.aonClock.deviceTime =
    if s.ph.powered && !s.ph.aonReset then s.deviceTime + 10 else s.deviceTime := by
  unfold State.aonClock
  split <;> rfl

/-- The host island's copy stands still, or takes the count that `DEVICE_TIME` has after the clock. -/
theorem aonClock_follower (s : State) :
    s.aonClock.follower = s.follower ∨ s.aonClock.follower = s.aonClock.deviceTime := by
  unfold State.aonClock
  split
  · dsimp only
    split
    · exact .inr rfl
    · exact .inl rfl
  · exact .inl rfl

/-! The types of a register's fields. -/

/-- No bit of a register is both written plainly and cleared by writing 1. -/
def fieldsApart (o : Option RegDesc) : Prop := ∀ d, o = some d → d.rw &&& d.w1c = 0

@[simp] theorem fieldsApart_none : fieldsApart none := by intro d h; cases h

@[simp] theorem fieldsApart_some (d : RegDesc) : fieldsApart (some d) ↔ d.rw &&& d.w1c = 0 := by
  simp [fieldsApart]

@[simp] theorem fieldsApart_rdOnly : fieldsApart rdOnly := by simp [rdOnly]

@[simp] theorem fieldsApart_rdKept (r : Word) : fieldsApart (rdKept r) := by simp [rdKept]

@[simp] theorem fieldsApart_rwPlain (r w : Word) : fieldsApart (rwPlain r w) := by simp [rwPlain]

@[simp] theorem fieldsApart_rwKept (r w : Word) : fieldsApart (rwKept r w) := by simp [rwKept]

@[simp] theorem fieldsApart_wcPlain (w : Word) : fieldsApart (wcPlain w) := by simp [wcPlain]

@[simp] theorem fieldsApart_ite (c : Prop) [Decidable c] (a b : Option RegDesc) :
    fieldsApart (if c then a else b) ↔ (c → fieldsApart a) ∧ (¬ c → fieldsApart b) := by
  split <;> simp_all

theorem globalReg_fieldsApart (nch off : Nat) : fieldsApart (globalReg nch off) := by simp [globalReg]

theorem irqReg_fieldsApart (tgts off : Nat) : fieldsApart (irqReg tgts off) := by simp [irqReg]

theorem peReg_fieldsApart (off : Nat) : fieldsApart (peReg off) := by simp [peReg]

theorem calReg_fieldsApart (nch off : Nat) : fieldsApart (calReg nch off) := by simp [calReg]

theorem memReg_fieldsApart (nch off : Nat) : fieldsApart (memReg nch off) := by simp [memReg]

theorem obsReg_fieldsApart (off : Nat) : fieldsApart (obsReg off) := by simp [obsReg]

theorem bayReg_fieldsApart (nch off : Nat) : fieldsApart (bayReg nch off) := by simp [bayReg]

theorem dmaReg_fieldsApart (off : Nat) : fieldsApart (dmaReg off) := by simp [dmaReg]

theorem qcReg_fieldsApart (off : Nat) : fieldsApart (qcReg off) := by
  unfold qcReg
  generalize off % 32 / 4 = i
  rcases i with _ | _ | _ | _ | _ | _ | _ | _ | i <;> simp [nth]

theorem rltReg_fieldsApart (nch off : Nat) : fieldsApart (rltReg nch off) := by simp [rltReg]

theorem mcReg_fieldsApart (off : Nat) : fieldsApart (mcReg off) := by simp [mcReg]

theorem chanReg_fieldsApart (nch off : Nat) : fieldsApart (chanReg nch off) := by simp [chanReg]

theorem regDesc_fieldsApart (nch tgts off : Nat) : fieldsApart (regDesc nch tgts off) := by
  simp [regDesc, globalReg_fieldsApart, irqReg_fieldsApart, peReg_fieldsApart, calReg_fieldsApart, memReg_fieldsApart,
    obsReg_fieldsApart, bayReg_fieldsApart, dmaReg_fieldsApart, qcReg_fieldsApart, rltReg_fieldsApart,
    mcReg_fieldsApart, chanReg_fieldsApart]

/-! A write of a register. -/

/-- What a plain write leaves in a register whose fields are apart (R11). -/
theorem RegDesc.written_eq (d : RegDesc) (old v : Word) (hd : d.rw &&& d.w1c = 0) :
    d.written old v = ((old &&& ~~~d.rw) ||| (v &&& d.rw)) &&& ~~~(d.w1c &&& v) := by
  unfold RegDesc.written
  ext i hi
  have hbit : d.rw[i] = true → d.w1c[i] = false := by
    have hi0 : (d.rw &&& d.w1c)[i] = false := by rw [hd]; simp
    simpa using hi0
  by_cases hw : d.rw[i] = true
  · simp [hw, hbit hw]
  · simp [hw]

theorem plainWrite_eq {s : State} {off : Nat} {d : RegDesc} (hd : regDesc s.nch s.targets off = some d) (v : Word) :
    s.plainWrite off v = s.setReg off (((s.reg off &&& ~~~d.rw) ||| (v &&& d.rw)) &&& ~~~(d.w1c &&& v)) := by
  unfold State.plainWrite
  rw [hd, ← d.written_eq _ _ (regDesc_fieldsApart _ _ _ d hd)]

theorem regWrite_reserved {s : State} {off : Nat} (h : regDesc s.nch s.targets off = none) (v : Word) :
    s.regWrite off v = s := by
  unfold State.regWrite
  rw [h]
  rfl

/-- A write of a register of the interrupt controller. -/
theorem regWrite_irq {s : State} {off : Nat} {d : RegDesc} (hd : regDesc s.nch s.targets off = some d)
    (hlo : 0x10000 ≤ off) (hhi : off < 0x40000) (v : Word) : s.regWrite off v = s.writeIrq off v := by
  unfold State.regWrite
  rw [hd, if_neg (by simp), if_neg (by omega), if_pos hhi]

/-- The registers whose fields are plain, among those of the interrupt controller and of the ladders. -/
def plainOffset (off : Nat) : Prop :=
  (0x14000 ≤ off ∧ off < 0x18000) ∨ (0x10280 ≤ off ∧ off < 0x10300) ∨ (0x10400 ≤ off ∧ off < 0x10480) ∨
    (0x300100 ≤ off ∧ off < 0x300314)

theorem writeIrq_plain (s : State) {off : Nat} (h : plainOffset off) (hhi : off < 0x40000) (v : Word) :
    s.writeIrq off v = s.plainWrite off v := by
  unfold plainOffset at h
  unfold State.writeIrq
  simp only [Bool.and_eq_true, decide_eq_true_eq]
  rw [if_neg (by omega), if_neg (by omega), if_neg (by omega), if_neg (by omega), if_pos (by omega)]

theorem writeRlt_plain (s : State) {off : Nat} (h : plainOffset off) (v : Word) :
    s.writeRlt off v = s.plainWrite off v := by
  unfold plainOffset at h
  unfold State.writeRlt
  simp only [Bool.and_eq_true, decide_eq_true_eq]
  rw [if_neg (by omega), if_neg (by omega), if_neg (by omega), if_neg (by omega), if_neg (by omega)]

theorem regWrite_plain {s : State} {off : Nat} {d : RegDesc} (hd : regDesc s.nch s.targets off = some d)
    (h : plainOffset off) (v : Word) : s.regWrite off v = s.plainWrite off v := by
  by_cases hirq : off < 0x40000
  · rw [regWrite_irq hd (by unfold plainOffset at h; omega) hirq, writeIrq_plain s h hirq]
  · have hrlt := writeRlt_plain s h v
    have hhi : off < 0x340000 := by unfold plainOffset at h; omega
    unfold State.regWrite
    rw [hd, if_neg (by simp)]
    unfold plainOffset at h
    iterate 9 rw [if_neg (by omega)]
    rw [if_pos hhi, hrlt]

/-- The offsets of the pending words are registers of every build. -/
theorem regDesc_pend (nch tgts : Nat) {off : Nat} (h4 : off % 4 = 0) (hlo : 0x10180 ≤ off) (hhi : off < 0x10280) :
    regDesc nch tgts off = rdOnly := by
  unfold regDesc irqReg
  rw [if_neg (by omega), if_neg (by omega), if_pos (by omega), if_pos (by omega)]
  iterate 7 rw [if_neg (by omega)]
  rw [if_pos hhi]

theorem regWrite_pendSet (s : State) {w : Nat} (hw : w < 32) (v : Word) :
    s.regWrite (0x10180 + 4 * w) v = s.pendSet w v := by
  rw [regWrite_irq (regDesc_pend _ _ (by omega) (by omega) (by omega)) (by omega) (by omega)]
  unfold State.writeIrq
  simp only [Bool.and_eq_true, decide_eq_true_eq]
  rw [if_neg (by omega), if_pos (by omega), show (0x10180 + 4 * w) % 0x80 / 4 = w by omega]

theorem regWrite_pendClr (s : State) {w : Nat} (hw : w < 32) (v : Word) :
    s.regWrite (0x10200 + 4 * w) v = s.pendClr w v := by
  rw [regWrite_irq (regDesc_pend _ _ (by omega) (by omega) (by omega)) (by omega) (by omega)]
  unfold State.writeIrq
  simp only [Bool.and_eq_true, decide_eq_true_eq]
  rw [if_neg (by omega), if_neg (by omega), if_pos (by omega), show (0x10200 + 4 * w) % 0x80 / 4 = w by omega]

theorem maxTargets_le (b : Build) : b.maxTargets ≤ 64 := by cases b <;> decide

theorem targets_le (s : State) : s.targets ≤ 64 := by
  have hmax := maxTargets_le s.build
  unfold State.targets
  split <;> omega

theorem claimPage_normal (k : Nat) : claimPage k false = 0x20000 + k * 0x400 := by
  simp [claimPage, ofBool]

theorem claimPage_fast (k : Nat) : claimPage k true = 0x30000 + k * 0x400 := by
  simp [claimPage, ofBool]

/-- Both claim pages of a target lie among the claim pages, and keep its number (R31). -/
theorem claimPage_bounds {k : Nat} (hk : k < 64) (fast : Bool) :
    0x20000 ≤ claimPage k fast ∧ claimPage k fast < 0x40000 ∧ claimPage k fast % 0x400 = 0 ∧
      (claimPage k fast - 0x20000) % 0x10000 = k * 0x400 ∧ decide (0x30000 ≤ claimPage k fast) = fast := by
  cases fast
  · rw [claimPage_normal]
    exact ⟨by omega, by omega, by omega, by omega, decide_eq_false (by omega)⟩
  · rw [claimPage_fast]
    exact ⟨by omega, by omega, by omega, by omega, decide_eq_true (by omega)⟩

theorem regDesc_complete (nch : Nat) {tgts k : Nat} (hk : k < tgts) (ht : tgts ≤ 64) (fast : Bool) :
    regDesc nch tgts (claimPage k fast + 4) = rdOnly := by
  obtain ⟨hlo, hhi, hpage, htgt, -⟩ := claimPage_bounds (show k < 64 by omega) fast
  generalize claimPage k fast = p at *
  have hoff : (p + 4 - 0x20000) % 0x10000 = k * 0x400 + 4 := Eq.symm (by omega)
  unfold regDesc irqReg
  simp only [hoff, Bool.or_eq_true, decide_eq_true_eq]
  rw [if_neg (by omega), if_neg (by omega), if_pos (by omega), if_neg (by omega), if_neg (by omega), if_neg (by omega),
    if_pos (by omega), if_pos (by omega)]

theorem regWrite_complete (s : State) {k : Nat} (hk : k < s.targets) (fast : Bool) (v : Word) :
    s.regWrite (claimPage k fast + 4) v = s.complete k fast v := by
  have ht := targets_le s
  obtain ⟨hlo, hhi, hpage, htgt, hfast⟩ := claimPage_bounds (show k < 64 by omega) fast
  have hclass : decide (0x30000 ≤ claimPage k fast + 4) = fast :=
    (decide_eq_decide.2 (by omega)).trans hfast
  rw [regWrite_irq (regDesc_complete _ hk ht fast) (by omega) (by omega)]
  unfold State.writeIrq
  simp only [Bool.and_eq_true, decide_eq_true_eq]
  rw [if_neg (by omega), if_neg (by omega), if_neg (by omega), if_neg (by omega), if_neg (by omega), if_pos (by omega),
    hclass, show (claimPage k fast + 4 - 0x20000) % 0x10000 / 0x400 = k by omega]

theorem regWrite_tracePop (s : State) {v : Word} (hv : v.getLsbD 0 = true) : s.regWrite 0x70030 v = s.tracePop := by
  have hbit : bitOf v.toNat 0 = true := by rw [bitOf_eq]; exact hv
  have hpop : s.regWrite 0x70030 v = s.onBit v 0 State.tracePop := rfl
  rw [hpop, State.onBit, if_pos hbit]

/-! The commands that write a register, while the function serves and no Lull holds them (R355, R379). -/

section
variable {s : State} (hs : s.serving = true) (hl : s.irq.lull = .awake)
include hl

theorem asleep_of_awake : s.asleep = false := by simp [State.asleep, hl]

include hs

theorem exec_registerWrite (off : Nat) (v : Word) : exec (.registerWrite off v) s = .next (s.regWrite off v) := by
  show execRegisterWrite off v s = _
  simp [execRegisterWrite, asleep_of_awake hl, hs]

theorem exec_srcPendSet {w : Nat} (hw : w < 32) (v : Word) : exec (.srcPendSet w v) s = .next (s.pendSet w v) := by
  show execSrcPendSet w v s = _
  simp [execSrcPendSet, asleep_of_awake hl, hs, hw]

theorem exec_srcPendClr {w : Nat} (hw : w < 32) (v : Word) : exec (.srcPendClr w v) s = .next (s.pendClr w v) := by
  show execSrcPendClr w v s = _
  simp [execSrcPendClr, asleep_of_awake hl, hs, hw]

theorem exec_complete {k : Nat} (hk : k < s.targets) (fast : Bool) (v : Word) :
    exec (.complete k fast v) s = .next (s.complete k fast v) := by
  show execComplete k fast v s = _
  simp [execComplete, asleep_of_awake hl, hs, hk]

theorem exec_trcPop : exec .trcPop s = .next s.tracePop := by
  show execTrcPop s = _
  simp [execTrcPop, asleep_of_awake hl, hs]

end

end Sys2Proof.Machine

namespace Sys2Proof
open Machine

/-- Settles O57: the two arms of `step`, and what an idle clock does. -/
theorem stepTakesTheFrontCommand : Obligations.StepTakesTheFrontCommand := by
  intro s
  refine ⟨fun c rest h => step_front h, fun h => ⟨s.aonClock, step_idle h, ?_, ?_, ?_⟩⟩
  · exact aonClock_deviceTime s
  · exact aonClock_follower s
  · exact aonClock_eq s

/-- Settles O31: on a state that serves, a register write runs `regWrite`, which is a plain write at the plain offsets,
nothing at a reserved address, and the operation asked for at the others. -/
theorem registerWriteComplete : Obligations.RegisterWriteComplete := by
  intro s v hs hl
  have hwrite (off : Nat) := exec_registerWrite hs hl off v
  refine ⟨fun off d hd hoff => ?_, fun off hd => ?_, fun w hw => ⟨?_, ?_⟩, fun k fast hk => ?_, fun hv => ?_⟩
  · refine ⟨_, hwrite off, ?_⟩
    rw [regWrite_plain hd hoff, plainWrite_eq hd]
    refine ⟨?_, fun a ha => ?_, rfl⟩
    · rw [setReg_reg, if_pos rfl]
    · rw [setReg_reg, if_neg (Ne.symm ha)]
  · rw [hwrite, regWrite_reserved hd]
  · rw [hwrite, regWrite_pendSet s hw, exec_srcPendSet hs hl hw]
  · rw [hwrite, regWrite_pendClr s hw, exec_srcPendClr hs hl hw]
  · rw [hwrite, regWrite_complete s hk, exec_complete hs hl hk]
  · rw [hwrite, regWrite_tracePop s hv, exec_trcPop hs hl]

end Sys2Proof
end

section
/-! Snapshots of the statistics counters and the commands on the time (R19, R496, R508). -/

namespace Sys2Proof.Machine
open Sys2Proof

theorem mem_addSorted {n x : Nat} {l : List Nat} : x ∈ addSorted n l ↔ x = n ∨ x ∈ l := by
  induction l with
  | nil => simp [addSorted]
  | cons y r ih =>
    unfold addSorted
    split
    · simp
    · split
      · next h => simp [h]
      · simp only [List.mem_cons, ih]; tauto

theorem traceAlways_counters (s : State) (ty unit p : Nat) :
    (s.traceAlways ty unit p).counters = s.counters :=
  (traceAlways_same (m := 0x8000000010) (Same.refl _ s) rfl ty unit p).counters rfl

theorem traceAlways_saturated (s : State) (ty unit p : Nat) :
    (s.traceAlways ty unit p).saturated = s.saturated :=
  (traceAlways_same (m := 0x8000000010) (Same.refl _ s) rfl ty unit p).saturated rfl

/-- A count changes the value of its own counter alone. -/
theorem count_counter_other (s : State) (g i k j : Nat) (h : 32 * g + i ≠ j) :
    SMap.getD (s.count g i k).counters j 0 = SMap.getD s.counters j 0 := by
  unfold State.count
  dsimp only
  split
  · exact (SMap.getD_setD _ _ _ _ (0 : BitVec 48) _ fun _ => rfl).trans (if_neg h)
  · split
    · rfl
    · rw [traceAlways_counters]
      dsimp only
      rw [SMap.getD_setD _ _ _ _ _ _ fun _ => rfl, if_neg h]

/-- A count saturates no other counter. -/
theorem count_saturated_other (s : State) (g i k j : Nat) (h : 32 * g + i ≠ j) :
    j ∈ (s.count g i k).saturated ↔ j ∈ s.saturated := by
  unfold State.count
  dsimp only
  split
  · rfl
  · split
    · rfl
    · rw [traceAlways_saturated, mem_addSorted]
      exact or_iff_right (Ne.symm h)

theorem busyClocks_of_le {s : State} {g : Nat} (h : s.nch ≤ g) : s.busyClocks g = s := by
  unfold State.busyClocks
  rw [if_neg (by omega)]

/-- The clocks counted before a snapshot change BUS_BUSY alone, and it only in a channel's group (R506). -/
theorem busyClocks_counter_other (s : State) {g j : Nat} (h : 32 * g + 31 ≠ j ∨ s.nch ≤ g) :
    SMap.getD (s.busyClocks g).counters j 0 = SMap.getD s.counters j 0 := by
  by_cases hg : s.nch ≤ g
  · rw [busyClocks_of_le hg]
  · unfold State.busyClocks
    rw [if_pos (by omega)]
    exact count_counter_other _ _ _ _ _ (h.resolve_right hg)

theorem busyClocks_saturated_other (s : State) {g j : Nat} (h : 32 * g + 31 ≠ j ∨ s.nch ≤ g) :
    j ∈ (s.busyClocks g).saturated ↔ j ∈ s.saturated := by
  by_cases hg : s.nch ≤ g
  · rw [busyClocks_of_le hg]
  · unfold State.busyClocks
    rw [if_pos (by omega)]
    exact count_saturated_other _ _ _ _ _ (h.resolve_right hg)

theorem busyClocks_now (s : State) (g : Nat) : (s.busyClocks g).now = s.now :=
  congrArg BitVec.toNat ((busyClocks_same (m := 0x438000000010) (Same.refl _ s) rfl g).follower rfl)

/-- The clear of counter `key` with a snapshot. -/
def State.snapClear (s : State) (clear : Bool) (key : Nat) : State :=
  if clear then
    { s with counters := SMap.setD s.counters key 0 0, saturated := s.saturated.filter (fun x => x != key) }
  else s

/-- The words of counter `key` in the bank: its low half, and its high half with its saturated bit (R508). -/
def State.snapLow (s : State) (key : Nat) : Word := BitVec.ofNat 32 (SMap.getD s.counters key 0).toNat

def State.snapHigh (s : State) (key : Nat) : Word :=
  BitVec.ofNat 32 ((SMap.getD s.counters key 0).toNat / 2 ^ 32 + ofBool (s.saturated.contains key) * 2 ^ 31)

/-- What a snapshot does for counter `k` of group `g`: its two words of bank `b`, and its clear. -/
def State.snapOne (b g : Nat) (clear : Bool) (s : State) (k : Nat) : State :=
  ((s.setReg (0x71000 + b * 0x100 + k * 8) (s.snapLow (32 * g + k))).setReg (0x71004 + b * 0x100 + k * 8)
    (s.snapHigh (32 * g + k))).snapClear clear (32 * g + k)

/-- The words of the 32 counters, before the bank's own registers are written. -/
def State.snapWords (s : State) (b g : Nat) (clear : Bool) (l : List Nat) : State := l.foldl (State.snapOne b g clear) s

theorem snapshot_eq (s : State) (b g : Nat) (clear : Bool) :
    s.snapshot b g clear =
      let t := s.snapWords b g clear (countUp 0 32)
      let t := t.setReg (0x70108 + b * 0x10) (BitVec.ofNat 32 t.now)
      let t := t.setReg (0x7010C + b * 0x10) (BitVec.ofNat 32 (t.now / 2 ^ 32))
      (t.setFld (0x70104 + b * 0x10) 8 0 g).setBit (0x70104 + b * 0x10) 31 true := by
  have h4 : 0x70100 + b * 0x10 + 4 = 0x70104 + b * 0x10 := by omega
  have h8 : 0x70100 + b * 0x10 + 8 = 0x70108 + b * 0x10 := by omega
  have hc : 0x70100 + b * 0x10 + 12 = 0x7010C + b * 0x10 := by omega
  unfold State.snapshot State.snapWords
  delta State.snapOne State.snapClear State.snapHigh State.snapLow
  simp only [h4, h8, hc, setReg_fields]

section
variable (b g : Nat) (clear : Bool) (s : State) (k : Nat)

theorem snapClear_false : s.snapClear false k = s := rfl

theorem snapClear_reg (a : Nat) : (s.snapClear clear k).reg a = s.reg a := by
  cases clear <;> rfl

theorem snapClear_now : (s.snapClear clear k).now = s.now := by
  cases clear <;> rfl

theorem snapClear_counter (j : Nat) : SMap.getD (s.snapClear clear k).counters j 0 =
    if clear = true ∧ k = j then 0 else SMap.getD s.counters j 0 := by
  cases clear
  · rfl
  · simp only [State.snapClear, if_true, true_and]
    exact SMap.getD_setD _ _ _ _ (0 : BitVec 48) _ fun _ => rfl

theorem mem_snapClear_saturated (j : Nat) : j ∈ (s.snapClear clear k).saturated ↔
    ¬ (clear = true ∧ k = j) ∧ j ∈ s.saturated := by
  cases clear
  · simp [State.snapClear]
  · simp only [State.snapClear, if_true, List.mem_filter, bne_iff_ne, ne_eq, true_and]
    rw [and_comm, eq_comm]

theorem snapOne_counter (j : Nat) : SMap.getD (s.snapOne b g clear k).counters j 0 =
    if clear = true ∧ 32 * g + k = j then 0 else SMap.getD s.counters j 0 := by
  rw [State.snapOne, snapClear_counter]
  simp only [setReg_fields]

theorem mem_snapOne_saturated (j : Nat) : j ∈ (s.snapOne b g clear k).saturated ↔
    ¬ (clear = true ∧ 32 * g + k = j) ∧ j ∈ s.saturated := by
  rw [State.snapOne, mem_snapClear_saturated]
  simp only [setReg_fields]

theorem snapOne_now : (s.snapOne b g clear k).now = s.now := by
  rw [State.snapOne, snapClear_now]
  simp only [State.now, setReg_fields]

/-- A counter's two words in the bank, and every other register. -/
theorem snapOne_reg (a : Nat) : (s.snapOne b g clear k).reg a =
    if 0x71004 + b * 0x100 + k * 8 = a then s.snapHigh (32 * g + k)
    else if 0x71000 + b * 0x100 + k * 8 = a then s.snapLow (32 * g + k) else s.reg a := by
  rw [State.snapOne, snapClear_reg, setReg_reg, setReg_reg]

variable (l : List Nat)

theorem snapWords_cons : s.snapWords b g clear (k :: l) = (s.snapOne b g clear k).snapWords b g clear l := rfl

theorem snapWords_now : (s.snapWords b g clear l).now = s.now := by
  induction l generalizing s with
  | nil => rfl
  | cons k l ih => rw [snapWords_cons, ih, snapOne_now]

theorem snapWords_counter (j : Nat) : SMap.getD (s.snapWords b g clear l).counters j 0 =
    if clear = true ∧ ∃ k ∈ l, 32 * g + k = j then 0 else SMap.getD s.counters j 0 := by
  induction l generalizing s with
  | nil => simp [State.snapWords]
  | cons k l ih =>
    rw [snapWords_cons, ih, snapOne_counter]
    by_cases hk : 32 * g + k = j <;> cases clear <;> simp [hk]

theorem mem_snapWords_saturated (j : Nat) : j ∈ (s.snapWords b g clear l).saturated ↔
    ¬ (clear = true ∧ ∃ k ∈ l, 32 * g + k = j) ∧ j ∈ s.saturated := by
  induction l generalizing s with
  | nil => simp [State.snapWords]
  | cons k l ih =>
    rw [snapWords_cons, ih, mem_snapOne_saturated]
    by_cases hk : 32 * g + k = j <;> cases clear <;> simp [hk]

/-- Registers that no counter of the list writes. -/
theorem snapWords_reg_other (a : Nat)
    (h : ∀ k ∈ l, 0x71000 + b * 0x100 + k * 8 ≠ a ∧ 0x71004 + b * 0x100 + k * 8 ≠ a) :
    (s.snapWords b g clear l).reg a = s.reg a := by
  induction l generalizing s with
  | nil => rfl
  | cons k l ih =>
    obtain ⟨hlo, hhi⟩ := h k List.mem_cons_self
    rw [snapWords_cons, ih _ fun i hi => h i (List.mem_cons_of_mem _ hi), snapOne_reg, if_neg hhi, if_neg hlo]

/-- Both words of a counter hold what it counted before the snapshot. -/
theorem snapWords_reg {k : Nat} (hl : l.Nodup) (hk : k ∈ l) :
    (s.snapWords b g clear l).reg (0x71000 + b * 0x100 + k * 8) = s.snapLow (32 * g + k) ∧
    (s.snapWords b g clear l).reg (0x71004 + b * 0x100 + k * 8) = s.snapHigh (32 * g + k) := by
  induction l generalizing s with
  | nil => cases hk
  | cons i l ih =>
    obtain ⟨hi, hl⟩ := List.nodup_cons.1 hl
    rw [snapWords_cons]
    rcases List.mem_cons.1 hk with rfl | hk
    · have hne : ∀ j ∈ l, j ≠ k := fun j hj e => hi (e ▸ hj)
      constructor
      · rw [snapWords_reg_other _ _ _ _ _ _ fun j hj => by have := hne j hj; omega, snapOne_reg, if_neg (by omega),
          if_pos rfl]
      · rw [snapWords_reg_other _ _ _ _ _ _ fun j hj => by have := hne j hj; omega, snapOne_reg, if_pos rfl]
    · have hne : 32 * g + i ≠ 32 * g + k := fun e => hi (by rwa [Nat.add_left_cancel e])
      have hlow : (s.snapOne b g clear i).snapLow (32 * g + k) = s.snapLow (32 * g + k) := by
        rw [State.snapLow, snapOne_counter, if_neg fun h => hne h.2, State.snapLow]
      have hsat : (s.snapOne b g clear i).saturated.contains (32 * g + k) = s.saturated.contains (32 * g + k) := by
        rw [Bool.eq_iff_iff, List.contains_iff_mem, List.contains_iff_mem, mem_snapOne_saturated,
          and_iff_right fun h => hne h.2]
      have hhigh : (s.snapOne b g clear i).snapHigh (32 * g + k) = s.snapHigh (32 * g + k) := by
        rw [State.snapHigh, snapOne_counter, if_neg fun h => hne h.2, hsat, State.snapHigh]
      rw [← hlow, ← hhigh]
      exact ih _ hl hk

end

theorem mem_countUp {i n k : Nat} : k ∈ countUp i n ↔ i ≤ k ∧ k < i + n := by
  induction n generalizing i with
  | zero => simp [countUp]
  | succ n ih => simp only [countUp, List.mem_cons, ih]; omega

theorem nodup_countUp (i n : Nat) : (countUp i n).Nodup := by
  induction n generalizing i with
  | zero => exact List.nodup_nil
  | succ n ih => exact List.nodup_cons.2 ⟨fun h => by have := mem_countUp.1 h; omega, ih _⟩

section
variable (s : State) (b g : Nat) (clear : Bool)

/-- The words of the bank hold the counters as they were (R508). -/
theorem snapshot_words {k : Nat} (hk : k < 32) :
    (s.snapshot b g clear).reg (0x71000 + b * 0x100 + k * 8) = s.snapLow (32 * g + k) ∧
    (s.snapshot b g clear).reg (0x71004 + b * 0x100 + k * 8) = s.snapHigh (32 * g + k) := by
  have hwords := snapWords_reg b g clear s (countUp 0 32) (nodup_countUp _ _) (mem_countUp.2 ⟨Nat.zero_le k, by omega⟩)
  rw [snapshot_eq, State.setBit]
  simp only [setFld_reg, setReg_reg]
  constructor
  · iterate 4 rw [if_neg (by omega)]
    exact hwords.1
  · iterate 4 rw [if_neg (by omega)]
    exact hwords.2

theorem snapshot_time : (s.snapshot b g clear).reg (0x70108 + b * 0x10) = BitVec.ofNat 32 s.now ∧
    (s.snapshot b g clear).reg (0x7010C + b * 0x10) = BitVec.ofNat 32 (s.now / 2 ^ 32) := by
  rw [snapshot_eq, State.setBit]
  simp only [setFld_reg, setReg_reg]
  constructor
  · rw [if_neg (by omega), if_neg (by omega), if_neg (by omega), if_pos trivial, snapWords_now]
  · rw [if_neg (by omega), if_neg (by omega), if_pos trivial]
    simp only [State.now, setReg_fields]
    exact congrArg (fun n => BitVec.ofNat 32 (n / 2 ^ 32)) (snapWords_now b g clear s (countUp 0 32))

theorem snapshot_busy : (s.snapshot b g clear).bit (0x70104 + b * 0x10) 31 = true := by
  rw [snapshot_eq]
  exact setBit_bit _ _ _ _ (by omega)

theorem snapshot_group (hg : g < 512) : (s.snapshot b g clear).fld (0x70104 + b * 0x10) 8 0 = g := by
  rw [snapshot_eq, State.setBit, setFld_fld_other _ _ _ _ _ _ _ _ (by omega) (by omega) (by omega) (by omega),
    setFld_fld _ _ _ _ _ (by omega) (by omega)]
  omega

theorem snapshot_counter (j : Nat) : SMap.getD (s.snapshot b g clear).counters j 0 =
    if clear = true ∧ ∃ k ∈ countUp 0 32, 32 * g + k = j then 0 else SMap.getD s.counters j 0 := by
  rw [snapshot_eq]
  simp only [setBit_fields, setFld_fields, setReg_fields]
  exact snapWords_counter ..

theorem mem_snapshot_saturated (j : Nat) : j ∈ (s.snapshot b g clear).saturated ↔
    ¬ (clear = true ∧ ∃ k ∈ countUp 0 32, 32 * g + k = j) ∧ j ∈ s.saturated := by
  rw [snapshot_eq]
  simp only [setBit_fields, setFld_fields, setReg_fields]
  exact mem_snapWords_saturated ..

/-- A snapshot without a clear leaves every counter. -/
theorem snapWords_counters_of_not_clear (l : List Nat) (s : State) :
    (s.snapWords b g false l).counters = s.counters ∧ (s.snapWords b g false l).saturated = s.saturated := by
  induction l generalizing s with
  | nil => exact ⟨rfl, rfl⟩
  | cons k l ih =>
    rw [snapWords_cons, (ih _).1, (ih _).2, State.snapOne, snapClear_false]
    simp only [setReg_fields]
    exact ⟨trivial, trivial⟩

theorem snapshot_counters_of_not_clear :
    (s.snapshot b g false).counters = s.counters ∧ (s.snapshot b g false).saturated = s.saturated := by
  rw [snapshot_eq]
  simp only [setBit_fields, setFld_fields, setReg_fields]
  exact snapWords_counters_of_not_clear ..

end

section
variable {s : State}

theorem serving_iff : s.serving = true ↔
    s.hostOn = true ∧ s.ph.ready = true ∧ s.ep.fnReset = none ∧ s.irq.lull = .awake := by
  simp [State.serving, and_assoc]

theorem asleep_of_serving (hs : s.serving = true) : s.asleep = false :=
  asleep_of_awake (serving_iff.1 hs).2.2.2

theorem exec_snapshot (hs : s.serving = true) {bank : Nat} (hb : bank < 2) (group : Nat) (clear : Bool) :
    exec (.snapshot bank group clear) s = .next (s.snapGo bank group clear) := by
  show execSnapshot bank group clear s = _
  simp [execSnapshot, asleep_of_serving hs, hs, hb]

theorem Same.eq_of_snapshot {s t : State} (h : Same 0x438000000010 s t) :
    t = { s with regs := t.regs, counters := t.counters, saturated := t.saturated, trace := t.trace,
                 fresh := t.fresh } := h.eq

theorem snapGo_refused {bank group : Nat} (clear : Bool)
    (h : 266 < group ∨ s.bit (0x70104 + bank * 0x10) 31 = true) :
    s.snapGo bank group clear = s.setBit (0x70104 + bank * 0x10) 30 true := by
  unfold State.snapGo
  rw [if_pos (by simpa [or_comm] using h)]

theorem snapGo_taken {bank group : Nat} (clear : Bool) (hg : group ≤ 266)
    (hb : s.bit (0x70104 + bank * 0x10) 31 = false) :
    s.snapGo bank group clear = (s.busyClocks group).snapshot bank group clear := by
  unfold State.snapGo
  rw [if_neg (by simp [hb, hg])]

end
end Sys2Proof.Machine

namespace Sys2Proof
open Machine

/-- Settles O56: a snapshot copies the counters of its group before it clears them, and the time commands store the copy
that they name. -/
theorem snapshotAndTimeComplete : Obligations.SnapshotAndTimeComplete := by
  intro s
  refine ⟨fun group k hk h => ⟨?_, ?_⟩, fun bank group clear hs hb hg hbusy => ?_, fun bank group clear hs hb h => ?_,
    fun bank hs hb => ?_, fun hs => ?_, fun hs => ?_, fun hs => ?_⟩
  · exact busyClocks_counter_other s (by omega)
  · exact busyClocks_saturated_other s (by omega)
  · refine ⟨_, exec_snapshot hs hb group clear, ?_⟩
    have hframe := snapGo_same (m := 0x438000000010) (Same.refl _ s) rfl bank group clear
    rw [snapGo_taken clear hg hbusy] at hframe ⊢
    generalize hu : s.busyClocks group = u at hframe ⊢
    have hnow : u.now = s.now := hu ▸ busyClocks_now s group
    have hother : ∀ g k, g ≠ group → k < 32 →
        SMap.getD u.counters (32 * g + k) 0 = SMap.getD s.counters (32 * g + k) 0 :=
      fun g k h hk => hu ▸ busyClocks_counter_other s (by omega)
    refine ⟨fun k hk => ⟨?_, ?_, fun hc => ⟨?_, ?_⟩⟩, ?_, ?_, ?_, ?_, ?_, fun g k hne hk => ?_, fun hn => ?_, ?_⟩
    · exact (snapshot_words u bank group clear hk).1
    · rw [(snapshot_words u bank group clear hk).2, State.snapHigh]
      by_cases hsat : 32 * group + k ∈ u.saturated <;> simp [hsat, ofBool]
    · rw [snapshot_counter, if_pos ⟨hc, k, mem_countUp.2 (by omega), rfl⟩]
    · rw [mem_snapshot_saturated]
      exact fun h => h.1 ⟨hc, k, mem_countUp.2 (by omega), rfl⟩
    · rw [(snapshot_time u bank group clear).1, hnow]
    · rw [(snapshot_time u bank group clear).2, hnow]
    · exact snapshot_busy ..
    · exact snapshot_group _ _ _ _ (by omega)
    · rintro rfl
      exact snapshot_counters_of_not_clear ..
    · rw [snapshot_counter, if_neg, hother g k hne hk]
      rintro ⟨-, i, hi, e⟩
      have := mem_countUp.1 hi
      omega
    · rw [busyClocks_of_le hn] at hu
      subst hu
      have hsame := snapshot_same (m := 0x30000000010) (Same.refl _ s) rfl bank group clear
      exact ⟨hsame.trace rfl, hsame.fresh rfl⟩
    · exact hframe.eq_of_snapshot
  · rw [exec_snapshot hs hb, snapGo_refused clear h]
  · show execSnapshotDone bank s = _
    simp [execSnapshotDone, hs, hb]
  · show execDeviceTimeLoRead false s = _
    simp [execDeviceTimeLoRead, hs, State.latchTime]
  · show execDeviceTimeLoRead true s = _
    simp [execDeviceTimeLoRead, hs, State.latchTime]
  · show execDeviceTimeFollowerReload s = _
    simp [execDeviceTimeFollowerReload, hs]

end Sys2Proof
end

section
/-! What the requests of the host to the BARs do (R30, R32, R46, R61, R206, R207, R337, R341, R351). -/

namespace Sys2Proof.Machine
open Sys2Proof

/-! The violation ring and the configuration space. -/

theorem addStop_one {v top : Nat} : addStop v 1 top = min (v + 1) top := by
  unfold addStop; split <;> omega

/-- A field after something has been added to it (R447, R361). -/
theorem addFld_fld (s : State) {o hi lo : Nat} (v : Nat) (hl : lo ≤ hi) (h : hi < 32) :
    (s.addFld o hi lo v).fld o hi lo = addStop (s.fld o hi lo) v (2 ^ (hi + 1 - lo) - 1) := by
  unfold State.addFld
  rw [setFld_fld _ _ _ _ _ hl h]
  apply Nat.mod_eq_of_lt
  have := Nat.two_pow_pos (hi + 1 - lo)
  unfold addStop
  split <;> omega

theorem addFld_reg_other (s : State) {o a : Nat} (hi lo v : Nat) (h : o ≠ a) : (s.addFld o hi lo v).reg a = s.reg a := by
  unfold State.addFld
  rw [setFld_reg, if_neg h]

theorem fld_lt (s : State) (o hi lo : Nat) : s.fld o hi lo < 2 ^ (hi + 1 - lo) := Nat.mod_lt _ (Nat.two_pow_pos _)

theorem fld_of_reg {s t : State} {o : Nat} (h : t.reg o = s.reg o) (hi lo : Nat) : t.fld o hi lo = s.fld o hi lo := by
  unfold State.fld; rw [h]

theorem bit_of_reg {s t : State} {o : Nat} (h : t.reg o = s.reg o) (b : Nat) : t.bit o b = s.bit o b := by
  unfold State.bit; rw [h]

section
variable (s : State) (kind bar off len : Nat) (write mgmt : Bool) (requester : BitVec 16)

/-- The violation's offset is the first word of its entry of the ring (R351). -/
theorem violate_offset : (s.violate kind bar off len write mgmt requester).reg (0x100 + 16 * s.fld 0x180 2 0) =
    BitVec.ofNat 32 off := by
  have hi := fld_lt s 0x180 2 0
  unfold State.violate
  dsimp only
  rw [setFld_reg, if_neg (by omega), addFld_reg_other _ _ _ _ (by omega), setReg_reg, if_neg (by omega), setReg_reg,
    if_neg (by omega), setReg_reg, if_neg (by omega), setReg_reg, if_pos rfl]

/-- A violation is counted, at most to all-ones (R361). -/
theorem violate_count : (s.violate kind bar off len write mgmt requester).fld 0x180 31 16 =
    min (s.fld 0x180 31 16 + 1) 0xFFFF := by
  have hi := fld_lt s 0x180 2 0
  unfold State.violate
  dsimp only
  rw [setFld_fld_other _ _ _ _ _ _ _ _ (by omega) (by omega) (by omega) (by omega), addFld_fld _ _ (by omega) (by omega),
    addStop_one]
  congr 2
  apply fld_of_reg
  rw [setReg_reg, if_neg (by omega), setReg_reg, if_neg (by omega), setReg_reg, if_neg (by omega), setReg_reg,
    if_neg (by omega)]

end

theorem hostWorks_of_serving {s : State} (hs : s.serving = true) : s.hostWorks = true := by
  simp only [State.serving, Bool.and_eq_true] at hs
  simp [State.hostWorks, hs]

/-- The two resets, the clock and the function reset decide whether the host island works. -/
theorem Same.hostWorks {m : Nat} {s t : State} (h : Same m s t) (hph : m.testBit 3 = false) (hep : m.testBit 6 = false)
    (hirq : m.testBit 31 = false) : t.hostWorks = s.hostWorks := by
  unfold State.hostWorks State.hostOn
  rw [h.ph hph, h.ep hep, h.irq hirq]

theorem srcExists_violation (s : State) : s.srcExists 832 = true := by
  have hreal : sourceReal 832 = true := by decide
  simp [State.srcExists, hreal]

theorem Same.eq_of_violation {s t : State} (h : Same 0x38080000010 s t) :
    t = { s with regs := t.regs, irq := t.irq, trace := t.trace, counters := t.counters,
                 saturated := t.saturated } := h.eq

section
variable {s : State} (kind bar off len : Nat) (write mgmt : Bool) (requester : BitVec 16)

/-- What a register violation leaves (R350, R351, R361): source 832 pending, the count, its entry, and the rest. -/
theorem violation_raised (hs : s.serving = true) :
    let t := (s.violate kind bar off len write mgmt requester).raise 832
    isPending t 832 = true ∧ t.fld 0x180 31 16 = min (s.fld 0x180 31 16 + 1) 0xFFFF ∧
      t.reg (0x100 + 16 * s.fld 0x180 2 0) = BitVec.ofNat 32 off ∧
      t = { s with regs := t.regs, irq := t.irq, trace := t.trace, counters := t.counters,
                   saturated := t.saturated } := by
  intro t
  have hsame := violate_same (m := 0x10) (Same.refl _ s) rfl kind bar off len write mgmt requester
  have hworks : (s.violate kind bar off len write mgmt requester).hostWorks = true :=
    (hsame.hostWorks rfl rfl rfl).trans (hostWorks_of_serving hs)
  refine ⟨?_, ?_, ?_, ?_⟩
  · rw [raise_isPending _ _ _ hworks (srcExists_violation _) (.inr (.inr (by omega)))]
    rfl
  · rw [fld_of_reg (raise_reg _ _ _ (by rfl)), violate_count]
  · have hi := fld_lt s 0x180 2 0
    have hreg : raiseReg (0x100 + 16 * s.fld 0x180 2 0) = false := by
      simp [raiseReg, traceReg]
      omega
    rw [raise_reg _ _ _ hreg, violate_offset]
  · exact (raise_same (m := 0x38080000010)
      (violate_same (m := 0x38080000010) (Same.refl _ s) rfl kind bar off len write mgmt requester) rfl 832).eq_of_violation

end

/-! Configuration dwords and what an error writes of them. -/

theorem setCfg_raw (s : State) (off a : Nat) (w : Word) : (s.setCfg off w).cfgRaw a = if off = a then w else s.cfgRaw a :=
  SMap.getD_setD _ _ _ _ _ _ fun h => by rw [h]

theorem setCfg_bit_other (s : State) {off a : Nat} (w : Word) (b : Nat) (h : off ≠ a) :
    (s.setCfg off w).cfgBit a b = s.cfgBit a b := by
  unfold State.cfgBit; rw [setCfg_raw, if_neg h]

theorem orCfg_bit_other (s : State) {off a : Nat} (w : Word) (b : Nat) (h : off ≠ a) :
    (s.orCfg off w).cfgBit a b = s.cfgBit a b := setCfg_bit_other _ _ _ h

theorem orCfg_bit_self (s : State) (off : Nat) (w : Word) (b : Nat) :
    (s.orCfg off w).cfgBit off b = (s.cfgBit off b || bitOf w.toNat b) := by
  unfold State.cfgBit State.orCfg
  rw [setCfg_raw, if_pos rfl, bitOf_eq, bitOf_eq, bitOf_eq, BitVec.toNat_or, Nat.testBit_or]

theorem send_cfgBit (s : State) (x : Tlp) (a b : Nat) : (s.send x).cfgBit a b = s.cfgBit a b := by
  unfold State.send; split <;> rfl

/-- An error message leaves every dword but Status. -/
theorem errMsg_bit_other (s : State) (ur : Bool) (m : ErrMsg) {a : Nat} (b : Nat) (h : 4 ≠ a) :
    (s.errMsg ur m).cfgBit a b = s.cfgBit a b := by
  cases m with
  | cor => simp only [State.errMsg]; split <;> simp [send_cfgBit]
  | nonfatal =>
    simp only [State.errMsg]
    split
    · rw [send_cfgBit]; split
      · exact orCfg_bit_other _ _ _ h
      · rfl
    · rfl
  | fatal =>
    simp only [State.errMsg]
    split
    · rw [send_cfgBit]; split
      · exact orCfg_bit_other _ _ _ h
      · rfl
    · rfl

theorem logHeader_bit_other (s : State) {a : Nat} (b : Nat) (h : a < 0x11C) : s.logHeader.cfgBit a b = s.cfgBit a b := by
  have hfold : ∀ (l : List Nat) (s : State), (l.foldl (fun (s : State) j =>
      (s.nextFresh.2).setCfg (0x11C + 4 * j) (Config.freeWord s.nextFresh.1)) s).cfgBit a b = s.cfgBit a b := by
    intro l
    induction l with
    | nil => intro s; rfl
    | cons j l ih =>
      intro s
      rw [List.foldl_cons, ih, setCfg_bit_other _ _ _ (by omega)]
      rfl
  exact hfold _ _

/-- An uncorrectable error sets its own bit of the AER status (R343). -/
theorem aerUncor_bit (s : State) (b : Nat) (advisory header : Bool) (hb : b < 32) :
    (s.aerUncor b advisory header).cfgBit 0x104 b = true := by
  have hset : (s.orCfg 0x104 (BitVec.ofNat 32 (2 ^ b))).cfgBit 0x104 b = true := by
    rw [orCfg_bit_self, Bool.or_eq_true]
    right
    rw [bitOf_eq, BitVec.toNat_ofNat, Nat.testBit_mod_two_pow]
    simp [hb]
  unfold State.aerUncor
  dsimp only
  generalize s.orCfg 0x104 (BitVec.ofNat 32 (2 ^ b)) = u at hset ⊢
  simp [apply_ite (State.cfgBit · 0x104 b), orCfg_bit_other, setCfg_bit_other, errMsg_bit_other, logHeader_bit_other, hset]


/-! Reads of frames (R206, R345). -/

/-- What a stored word reads as: its data, whether it counts as poisoned, and whether it is uncorrectable. -/
def FWord.read (x : FWord) : BitVec 256 × Bool × Bool :=
  match x.raw with
  | none => (x.data, x.poison0 || x.poison1, false)
  | some (d, c) =>
    match wordDecode d c with
    | (v, .clean) => (v, x.poison0 || x.poison1, false)
    | (v, .corrected _) => (v, x.poison0 || x.poison1, false)
    | (v, .bad) => (v, true, true)

theorem readWord_fst (s : State) (f w : Nat) : (s.readWord f w).1 = (s.stored f w).2.read := by
  unfold State.readWord FWord.read
  dsimp only
  split
  · next h => simp only [h]
  · next h => split <;> next hd => simp only [h, hd]

/-- The registers that an error of a staging word may not change: those of the spare words among them. -/
def quietReg (a : Nat) : Prop := 0x68000 ≤ a ∧ a < 0x70000

theorem raiseReg_of_quiet {a : Nat} (h : quietReg a) : raiseReg a = false := by
  unfold quietReg at h
  simp [raiseReg, traceReg]
  omega

theorem logError_reg (s : State) (addr : Nat) (ue bist : Bool) (bit : Nat) {a : Nat} (h : quietReg a) :
    (s.logError 5 addr ue bist bit).reg a = s.reg a := by
  have hr := raiseReg_of_quiet h
  have hlog : ∀ e o, e < 32 → o ≤ 8 → mlogAt 5 e + o ≠ a := by
    intro e o he ho
    unfold quietReg at h
    unfold mlogAt
    omega
  have hbound : ∀ p : Nat → Bool, ∀ e, (countUp 0 32).find? p = some e → e < 32 := fun p e he => by
    have := mem_countUp.1 (List.mem_of_find?_eq_some he)
    omega
  have hq := h
  unfold quietReg at hq
  unfold State.logError
  split
  · next e he =>
    have he := hbound _ _ he
    rw [setBit_reg _ _ _ _ _ (hlog e 4 he (by omega)), setBit_reg _ _ _ _ _ (hlog e 4 he (by omega)),
      addFld_reg_other _ _ _ _ (hlog e 4 he (by omega))]
  · split
    · next e he =>
      have he := hbound _ _ he
      have hset : ∀ (u : State) (w0 w1 w2 : Word), (((((u.setReg (mlogAt 5 e) w0).setReg (mlogAt 5 e + 4) w1).setReg
          (mlogAt 5 e + 8) w2).addFld 0x60094 5 0 1)).reg a = u.reg a := by
        intro u w0 w1 w2
        rw [addFld_reg_other _ _ _ _ (by omega), setReg_reg, if_neg (hlog e 8 he (by omega)), setReg_reg,
          if_neg (hlog e 4 he (by omega)), setReg_reg, if_neg (hlog e 0 he (by omega) ∘ Eq.trans (Nat.add_zero _))]
      dsimp only
      split
      · exact hset s _ _ _
      · rw [raise_reg _ _ _ hr]; exact hset s _ _ _
    · rw [raise_reg _ _ _ hr, addFld_reg_other _ _ _ _ (by omega)]

theorem noteCorrected_reg (s : State) (addr bit : Nat) {a : Nat} (h : quietReg a) :
    (s.noteCorrected 5 addr bit).reg a = s.reg a := by
  have hlog := (logError_reg (s.addFld 0x60068 31 0 1) addr false false bit h).trans
    (addFld_reg_other _ _ _ _ (by unfold quietReg at h; omega))
  unfold State.noteCorrected
  dsimp only
  split
  · exact hlog
  · exact hlog

theorem noteBad_reg (s : State) (addr : Nat) {a : Nat} (h : quietReg a) : (s.noteBad 5 addr).reg a = s.reg a := by
  unfold State.noteBad
  rw [raise_reg _ _ _ (raiseReg_of_quiet h), logError_reg _ _ _ _ _ h]
  exact addFld_reg_other _ _ _ _ (by unfold quietReg at h; omega)

/-- The place of a word depends on the spare registers of its channel alone (R451). -/
theorem spareOf_of_reg {s t : State} {f : Nat} (hf : f < 16384) (h : ∀ a, quietReg a → t.reg a = s.reg a) (w : Nat) :
    t.spareOf f w = s.spareOf f w := by
  unfold State.spareOf
  dsimp only
  have hreg : ∀ k ∈ countUp 0 8, t.reg (0x68000 + f / 64 * 0x20 + k * 4) = s.reg (0x68000 + f / 64 * 0x20 + k * 4) := by
    intro k hk
    have := mem_countUp.1 hk
    exact h _ (by unfold quietReg; omega)
  congr 1
  refine List.find?_congr fun k hk => ?_
  rw [bit_of_reg (hreg k hk), fld_of_reg (hreg k hk)]

/-- Two words of a frame have their places apart (R451). -/
theorem spareOf_ne {s : State} {f w v k : Nat} (hne : w ≠ v) (hw : s.spareOf f w = some k) : s.spareOf f v ≠ some k := by
  intro hv
  unfold State.spareOf at hw hv
  dsimp only at hw hv
  rw [Option.map_eq_some_iff] at hw hv
  obtain ⟨i, hi, hik⟩ := hw
  obtain ⟨j, hj, hjk⟩ := hv
  obtain rfl : i = j := by omega
  have hi := List.find?_some hi
  have hj := List.find?_some hj
  simp only [Bool.and_eq_true, beq_iff_eq] at hi hj
  omega

theorem store_stored_other (s : State) {f w v : Nat} (x : FWord) (hne : w ≠ v) :
    (s.store f w x).stored f v = s.stored f v := by
  have hspare : (s.store f w x).spareOf f v = s.spareOf f v := by
    unfold State.store
    split <;> rfl
  unfold State.stored
  rw [hspare]
  unfold State.store
  cases hv : s.spareOf f v with
  | none =>
    dsimp only
    congr 1
    split
    · rfl
    · rw [setFword_get, if_neg (by omega)]; rfl
  | some j =>
    dsimp only
    congr 1
    split
    · next k hk =>
      have hkj : k ≠ j := fun e => spareOf_ne hne hk (e ▸ hv)
      rw [setSpare_get, if_neg hkj]; rfl
    · rfl

theorem stored_of_same {s t : State} {f : Nat} (hf : f < 16384) (h : ∀ a, quietReg a → t.reg a = s.reg a)
    (hwords : t.words = s.words) (hspares : t.spares = s.spares) (w : Nat) : t.stored f w = s.stored f w := by
  unfold State.stored State.spare State.fword
  rw [spareOf_of_reg hf h, hwords, hspares]

/-- A read of one word of a frame leaves the others as they are stored. -/
theorem readWord_stored_other (s : State) {f w v : Nat} (hf : f < 16384) (hne : w ≠ v) :
    (s.readWord f w).2.stored f v = s.stored f v := by
  unfold State.readWord
  dsimp only
  split
  · rfl
  · split
    · rfl
    · have hsame := noteCorrected_same (m := 0x39080000010) (Same.refl _ s) rfl 5 (s.stored f w).1
      exact stored_of_same hf (fun a ha => noteCorrected_reg _ _ _ ha) ((hsame _).words rfl) ((hsame _).spares rfl) v
    · have hsame := noteBad_same (m := 0x38080000010) (Same.refl _ s) rfl 5 (s.stored f w).1
      rw [store_stored_other _ _ hne]
      exact stored_of_same hf (fun a ha => noteBad_reg _ _ ha) (hsame.words rfl) (hsame.spares rfl) v

theorem readWord_fst_other (s : State) {f w v : Nat} (hf : f < 16384) (hne : w ≠ v) :
    ((s.readWord f w).2.readWord f v).1 = (s.readWord f v).1 := by
  rw [readWord_fst, readWord_fst, readWord_stored_other s hf hne]

/-- One word joins the bytes that a read of frame `f` has gathered. -/
def readStep (f : Nat) (p : (List Byte × Bool) × State) (w : Nat) : (List Byte × Bool) × State :=
  ((p.1.1 ++ wordBytes (p.2.readWord f w).1.1, p.1.2 || (p.2.readWord f w).1.2.1), (p.2.readWord f w).2)

/-- What the words of a frame read as. -/
def State.wordReads (s : State) (f : Nat) (l : List Nat) : List (BitVec 256 × Bool × Bool) :=
  l.map (fun w => (s.readWord f w).1)

/-- A read of several words of a frame gathers what each reads as at its start. -/
theorem readSteps_fst {f : Nat} (hf : f < 16384) (l : List Nat) (hl : l.Nodup) (p : (List Byte × Bool) × State) :
    (l.foldl (readStep f) p).1 = (p.1.1 ++ (p.2.wordReads f l).flatMap (fun x => wordBytes x.1),
      p.1.2 || (p.2.wordReads f l).any (fun x => x.2.1)) := by
  induction l generalizing p with
  | nil => simp [State.wordReads]
  | cons w l ih =>
    obtain ⟨hw, hl⟩ := List.nodup_cons.1 hl
    have hother : (readStep f p w).2.wordReads f l = p.2.wordReads f l :=
      List.map_congr_left fun v hv => readWord_fst_other p.2 hf fun e => hw (e ▸ hv)
    rw [List.foldl_cons, ih hl, hother]
    simp [readStep, State.wordReads, Bool.or_assoc]

/-- The words that hold bytes `off` to `off + len - 1`. -/
def wordRange (off len : Nat) : List Nat :=
  countUp (off / 32) (if len = 0 then 0 else (off + len - 1) / 32 + 1 - off / 32)

theorem length_countUp (i n : Nat) : (countUp i n).length = n := by
  induction n generalizing i with
  | zero => rfl
  | succ n ih => rw [countUp, List.length_cons, ih]

theorem restN_eq_drop {α : Type} (n : Nat) (l : List α) : restN n l = l.drop n := by
  induction n generalizing l with
  | zero => rfl
  | succ n ih => cases l with
    | nil => rfl
    | cons x l => exact ih l

theorem copies_eq_replicate {α : Type} (n : Nat) (x : α) : copies n x = List.replicate n x := by
  induction n with
  | zero => rfl
  | succ n ih => rw [copies, ih, List.replicate_succ]

theorem length_leBytes (n v : Nat) : (leBytes n v).length = n := by
  induction n generalizing v with
  | zero => rfl
  | succ n ih => rw [leBytes, List.length_cons, ih]

/-- A frame read: the bytes of its words, and whether one of them is poisoned (R206). -/
theorem frameRead_fst (s : State) {f : Nat} (hf : f < 16384) (off len : Nat) :
    (s.frameRead f off len).1 =
      (firstN len (restN (off % 32) ((s.wordReads f (wordRange off len)).flatMap (fun x => wordBytes x.1))),
        (s.wordReads f (wordRange off len)).any (fun x => x.2.1)) := by
  have hfold := readSteps_fst hf (wordRange off len) (nodup_countUp _ _) (([], false), s)
  rw [List.nil_append, Bool.false_or] at hfold
  exact congrArg (fun q : List Byte × Bool => (firstN len (restN (off % 32) q.1), q.2)) hfold

theorem frameMarks_eq (s : State) (f off len : Nat) : s.frameMarks f off len =
    firstN len (restN (off % 32) ((s.wordReads f (wordRange off len)).flatMap (fun x => copies 32 x.2.1))) := by
  unfold State.frameMarks State.wordReads wordRange
  rw [List.flatMap_map]

theorem length_flatMap_const {α β : Type} (l : List α) (n : Nat) (g : α → List β) (h : ∀ x, (g x).length = n) :
    (l.flatMap g).length = n * l.length := by
  induction l with
  | nil => simp
  | cons x l ih => rw [List.flatMap_cons, List.length_append, ih, h, List.length_cons]; ring

/-- A read of a range that lies in the frame returns a byte for each of its places. -/
theorem length_frameRead (s : State) {f : Nat} (hf : f < 16384) (off len : Nat) :
    (s.frameRead f off len).1.1.length = len := by
  rw [frameRead_fst s hf, firstN_eq_take, restN_eq_drop, List.length_take, List.length_drop,
    length_flatMap_const _ 32 (fun x : BitVec 256 × Bool × Bool => wordBytes x.1)
      fun x => length_leBytes 32 _, State.wordReads, List.length_map, wordRange, length_countUp]
  split <;> omega

/-- A repeated element lies where its place divided by the count of copies says. -/
theorem getElem?_flatMap_replicate {α : Type} (l : List α) (j : Nat) :
    (l.flatMap (List.replicate 32))[j]? = l[j / 32]? := by
  induction l generalizing j with
  | nil => simp
  | cons x l ih =>
    rw [List.flatMap_cons]
    by_cases hj : j < 32
    · rw [List.getElem?_append_left (by simpa using hj), show j / 32 = 0 by omega]
      simp only [List.getElem?_replicate, if_pos hj, List.getElem?_cons_zero]
    · rw [List.getElem?_append_right (by simpa using hj), ih, List.length_replicate,
        show j / 32 = (j - 32) / 32 + 1 by omega]
      rfl

/-- Every word of a range has a byte in it: one of its bytes is marked where one of its words is. -/
theorem marks_any (l : List Bool) {r len : Nat} (hr : r < 32) (hl : l.length = if len = 0 then 0 else (r + len - 1) / 32 + 1) :
    (((l.flatMap (List.replicate 32)).drop r).take len).any id = l.any id := by
  rw [Bool.eq_iff_iff, List.any_eq_true, List.any_eq_true]
  simp only [id_eq, exists_eq_right, List.mem_iff_getElem?]
  constructor
  · rintro ⟨i, hi⟩
    rw [List.getElem?_take] at hi
    split at hi
    · rw [List.getElem?_drop, getElem?_flatMap_replicate] at hi
      exact ⟨_, hi⟩
    · cases hi
  · rintro ⟨i, hi⟩
    have hlt := (List.getElem?_eq_some_iff.1 hi).1
    rw [hl] at hlt
    split at hlt
    · omega
    · refine ⟨if i = 0 then 0 else 32 * i - r, ?_⟩
      rw [List.getElem?_take, if_pos (by split <;> omega), List.getElem?_drop, getElem?_flatMap_replicate, ← hi]
      congr 1
      split <;> omega

/-- A host read's data is poisoned where one of its bytes is marked (R345). -/
theorem frameMarks_any (s : State) {f : Nat} (hf : f < 16384) (off len : Nat) :
    (s.frameMarks f off len).any id = (s.frameRead f off len).1.2 := by
  have hcopies : (s.wordReads f (wordRange off len)).flatMap (fun x => copies 32 x.2.1) =
      ((s.wordReads f (wordRange off len)).map (fun x => x.2.1)).flatMap (List.replicate 32) := by
    rw [List.flatMap_map]
    simp only [copies_eq_replicate]
  rw [frameMarks_eq, frameRead_fst s hf, firstN_eq_take, restN_eq_drop, hcopies, marks_any _ (Nat.mod_lt _ (by omega)),
    List.any_map]
  · rfl
  · rw [List.length_map, State.wordReads, List.length_map, wordRange, length_countUp]
    split <;> omega

end Sys2Proof.Machine
end

section
/-! The two directions of an open port, and the BARs behind it (R30, R32, R206, R337). -/

namespace Sys2Proof.Machine
open Sys2Proof

section
variable {s : State} (hs : s.serving = true) (hl : s.irq.lull = .awake) (hlink : s.ep.linkUp = true)
include hs hlink

theorem portOpen_of_serving : s.portOpen = true := by
  simp only [State.portOpen, (serving_iff.1 hs).1, hlink, Bool.and_self]

theorem exec_memoryWrite (d : InTarget) (l : List Byte) (r : BitVec 16) (p : Bool) :
    exec (.memoryWrite d l r p) s = .next (s.hostWrite d l r p) := by
  show execMemoryWrite d l r p s = _
  simp [execMemoryWrite, asleep_of_serving hs, portOpen_of_serving hs hlink]

theorem exec_memoryRead (d : InTarget) (n : Nat) (r : BitVec 16) (k : Nat) :
    exec (.memoryRead d n r k) s = .next (s.hostRead d n r k) := by
  show execMemoryRead d n r k s = _
  simp [execMemoryRead, asleep_of_serving hs, portOpen_of_serving hs hlink]

theorem exec_bar4Write (off : Nat) (l : List Byte) (p : Bool) :
    exec (.bar4Write off l p) s = .next (s.hostWrite (.bar4 off) l 0 p) := by
  show execBar4Write off l p s = _
  simp [execBar4Write, asleep_of_serving hs, portOpen_of_serving hs hlink]

theorem exec_bar4Read (off n : Nat) : exec (.bar4Read off n) s = .next (s.hostRead (.bar4 off) n 0 0) := by
  show execBar4Read off n s = _
  simp [execBar4Read, asleep_of_serving hs, portOpen_of_serving hs hlink]

end

section
variable {s : State} (hs : s.serving = true)
include hs

theorem exec_sqTailDoorbell {q : Nat} (hq : q < 32768) (v : Word) :
    exec (.sqTailDoorbell q v) s = .next (s.sqDoorbell q v) := by
  show execSqTailDoorbell q v s = _
  simp [execSqTailDoorbell, asleep_of_serving hs, hs, queueOk, hq]

theorem exec_cqHeadDoorbell {q : Nat} (hq : q < 32768) (v : Word) :
    exec (.cqHeadDoorbell q v) s = .next (s.cqDoorbell q v) := by
  show execCqHeadDoorbell q v s = _
  simp [execCqHeadDoorbell, asleep_of_serving hs, hs, queueOk, hq]

end

/-! Where a request goes, and what becomes of it there. -/

section
variable {s : State} {d : InTarget} {bar off : Nat}

theorem target_eq (hs : s.serving = true) (hm : s.mse = true) (d : InTarget) : s.target d = s.targetHit d := by
  simp [State.target, hs, hm]

/-- A write that the BAR takes. -/
theorem hostWrite_ok {t : State} {l : List Byte} (r : BitVec 16) (hd : d ≠ .vendorMsg) (ht : s.target d = some (bar, off))
    (h : s.barWrite bar off l false = .ok t) : s.hostWrite d l r false = t := by
  unfold State.hostWrite
  rw [if_neg hd, ht]
  simp [h]

/-- A write that breaks the rules of its BAR is a register violation (R350). -/
theorem hostWrite_error {k : Nat} {l : List Byte} (r : BitVec 16) (hd : d ≠ .vendorMsg) (ht : s.target d = some (bar, off))
    (h : s.barWrite bar off l false = .error k) :
    s.hostWrite d l r false = (s.violate k bar off l.length true false r).raise 832 := by
  unfold State.hostWrite
  rw [if_neg hd, ht]
  simp [h]

/-- A write that hits no BAR is an Unsupported Request (R337, R343). -/
theorem hostWrite_none (l : List Byte) (r : BitVec 16) (p : Bool) (hd : d ≠ .vendorMsg) (ht : s.target d = none) :
    s.hostWrite d l r p = s.aerUncor 20 true true := by
  unfold State.hostWrite
  rw [if_neg hd, ht]

theorem hostRead_none (n : Nat) (r : BitVec 16) (k : Nat) (hd : d ≠ .vendorMsg) (ht : s.target d = none) :
    s.hostRead d n r k = (s.aerUncor 20 false true).send (.completion r k .unsupportedRequest [] false) := by
  unfold State.hostRead
  rw [if_neg hd, ht]

/-- A read that the BAR answers without an uncorrectable register. -/
theorem hostRead_ok {x : ReadData} {u : State} {n : Nat} (r : BitVec 16) (k : Nat) (hd : d ≠ .vendorMsg)
    (ht : s.target d = some (bar, off)) (h : s.barRead false bar off n = .ok (x, u)) (hx : bar ≠ 0 ∨ x.bad = false) :
    s.hostRead d n r k = u.sendRead r k off x.bytes (s.readMarks bar off n) := by
  unfold State.hostRead
  rw [if_neg hd, ht]
  dsimp only
  rw [h]
  dsimp only
  rw [if_neg]
  rcases hx with hx | hx <;> simp [hx]

/-- Requests that hit the same place of a BAR are one (R337). -/
theorem hostWrite_congr {d' : InTarget} (hd : d ≠ .vendorMsg) (hd' : d' ≠ .vendorMsg) (h : s.target d = s.target d')
    (l : List Byte) (r : BitVec 16) (p : Bool) : s.hostWrite d l r p = s.hostWrite d' l r p := by
  unfold State.hostWrite
  rw [if_neg hd, if_neg hd', h]

theorem hostRead_congr {d' : InTarget} (hd : d ≠ .vendorMsg) (hd' : d' ≠ .vendorMsg) (h : s.target d = s.target d')
    (n : Nat) (r : BitVec 16) (k : Nat) : s.hostRead d n r k = s.hostRead d' n r k := by
  unfold State.hostRead
  rw [if_neg hd, if_neg hd', h]

end

/-- An address hits BAR0, BAR2 or BAR4, within its size (R29, R337). -/
theorem barHit_bounds {s : State} {addr bar off : Nat} (h : s.barHit addr = some (bar, off)) :
    (bar = 0 ∨ bar = 2 ∨ bar = 4) ∧ off < barSize bar := by
  unfold State.barHit at h
  rw [Option.map_eq_some_iff] at h
  obtain ⟨b, hfind, hb⟩ := h
  obtain ⟨rfl, rfl⟩ := Prod.mk.inj hb
  have hmem := List.mem_of_find?_eq_some hfind
  have hrange := List.find?_some hfind
  simp only [List.mem_cons, List.not_mem_nil, or_false] at hmem
  simp only [Bool.and_eq_true, decide_eq_true_eq] at hrange
  exact ⟨hmem, by omega⟩

/-- The offset of a BAR as the destination of a request. -/
def inBar (bar off : Nat) : InTarget := if bar = 0 then .bar0 off else if bar = 2 then .bar2 off else .bar4 off

theorem targetHit_inBar (s : State) {bar off : Nat} (hb : bar = 0 ∨ bar = 2 ∨ bar = 4) (ho : off < barSize bar) :
    inBar bar off ≠ .vendorMsg ∧ s.targetHit (inBar bar off) = some (bar, off) := by
  rcases hb with rfl | rfl | rfl <;> simp [inBar, State.targetHit, ho]

/-! BAR0. -/

theorem bar0Write_dword {s : State} {off : Nat} {l : List Byte} (h4 : off % 4 = 0) (hlen : l.length = 4)
    (hd : (regDesc s.nch s.targets off).isSome = true) :
    s.bar0Write off l = .ok (s.regWrite off (BitVec.ofNat 32 (leNat l))) := by
  have hn : (regDesc s.nch s.targets off).isNone = false := by
    rw [← Option.not_isSome, hd]; rfl
  unfold State.bar0Write
  rw [hlen, if_neg (by simp [h4]), if_neg (by simp [hn]), if_pos rfl]

theorem bar0Write_reserved {s : State} {off : Nat} {l : List Byte} (h4 : off % 4 = 0) (hlen : l.length = 4)
    (hd : regDesc s.nch s.targets off = none) : s.bar0Write off l = .error 1 := by
  unfold State.bar0Write
  rw [hlen, hd, if_neg (by simp [h4])]
  exact if_pos rfl

theorem bar0Read_dword {s u : State} {off : Nat} {w : Word} (h4 : off % 4 = 0)
    (hd : (regDesc s.nch s.targets off).isSome = true) (hr : s.regRead false off = (some w, u)) :
    s.bar0Read false off 4 = .ok (⟨leBytes 4 w.toNat, false, false⟩, u) := by
  have hn : (regDesc s.nch s.targets off).isNone = false := by
    rw [← Option.not_isSome, hd]; rfl
  unfold State.bar0Read
  rw [if_neg (by simp [h4]), if_neg (by simp [hn]), if_pos rfl, hr]

/-! BAR2: doorbells and push windows. -/

theorem bar2Write_sqDoorbell (s : State) {q : Nat} {l : List Byte} (hq : q < 32768) (hlen : l.length = 4) :
    s.bar2Write (8 * q) l = .ok (s.sqDoorbell q (BitVec.ofNat 32 (leNat l))) := by
  unfold State.bar2Write
  rw [if_pos (by omega), hlen, if_neg (by simp; omega)]
  dsimp only
  rw [if_pos (by omega), show 8 * q / 8 = q by omega]

theorem bar2Write_cqDoorbell (s : State) {q : Nat} {l : List Byte} (hq : q < 32768) (hlen : l.length = 4) :
    s.bar2Write (8 * q + 4) l = .ok (s.cqDoorbell q (BitVec.ofNat 32 (leNat l))) := by
  unfold State.bar2Write
  rw [if_pos (by omega), hlen, if_neg (by simp; omega)]
  dsimp only
  rw [if_neg (by omega), show (8 * q + 4) / 8 = q by omega]

/-- A write of a push window's offset. -/
theorem bar2Write_push (s : State) {w off : Nat} {l : List Byte} {t : State} (hoff : off < 4096)
    (h : s.pushWrite w off l = some t) : s.bar2Write (0x400000 + 4096 * w + off) l = .ok t := by
  unfold State.bar2Write
  rw [if_neg (by omega), if_neg (by omega), show (0x400000 + 4096 * w + off - 0x400000) / 4096 = w by omega,
    show (0x400000 + 4096 * w + off) % 4096 = off by omega, h]

/-- A legal write into a push slot that still takes bytes (R49). -/
theorem pushWrite_taken {s : State} {w q off : Nat} {l : List Byte} (hw : s.windowQueue w = some q)
    (hlen : l.length ∈ [4, 8, 16, 32, 64]) (hmod : off % l.length = 0) (hend : off + l.length ≤ 4096)
    (hc : (s.pushSlot (64 * w + off / 64)).captured = false) :
    s.pushWrite w off l = some (s.setPushSlot (64 * w + off / 64)
      ((s.pushSlot (64 * w + off / 64)).write (off % 64) l)) := by
  unfold State.pushWrite
  rw [hw]
  dsimp only
  rw [List.contains_iff_mem.2 hlen, if_pos (by simp [hmod, hend]), if_neg (by simp [hc])]

/-- The fields of a doorbell's value that fits its low half. -/
theorem wfld_small {n : Nat} (h : n < 2 ^ 16) :
    wfld (BitVec.ofNat 32 n) 31 16 = 0 ∧ wfld (BitVec.ofNat 32 n) 15 0 = n := by
  unfold wfld bits
  rw [BitVec.toNat_ofNat]
  constructor <;> omega

/-- A queue's tail in its range moves (R46). -/
theorem sqDoorbell_moves {s : State} {q : Nat} {v : Word} (hq : (s.queue q).st = .active) (hp : s.qPush q = false)
    (hhi : wfld v 31 16 = 0) (hlo : wfld v 15 0 < s.sqDepth q) :
    s.sqDoorbell q v = s.setQueue q { s.queue q with sqTail := wfld v 15 0 } := by
  unfold State.sqDoorbell
  rw [if_neg (by simp [hq]), if_neg (by simp [hhi]), if_neg (by simp [hp]), if_neg (by omega)]
  rfl

/-- A queue's head in its range moves (R61). -/
theorem cqDoorbell_moves {s : State} {q : Nat} {v : Word} (hq : (s.queue q).st = .active)
    (hhi : wfld v 31 16 = 0) (hlo : wfld v 15 0 < s.cqDepth q) :
    s.cqDoorbell q v = s.setQueue q { s.queue q with cqHead := wfld v 15 0 } := by
  unfold State.cqDoorbell
  dsimp only
  rw [if_neg (by simp [hq]), if_neg (by simp [hhi]), if_neg (by omega)]
  rfl

/-! BAR4: the frame window. -/

section
variable {s : State} {off f b n : Nat} (hat : s.apertureAt off = (f, b)) (hf : f < 64 * s.nch) (hb : b + n ≤ 20480)
include hat hf hb

theorem bar4At_ok : s.bar4At off n = .ok (f, b) := by
  unfold State.bar4At
  rw [hat]
  dsimp only
  rw [if_neg (by omega), if_neg (by omega)]

theorem bar4Write_open {l : List Byte} (hn : l.length = n) (hr : (s.chan (f / 64)).inReset = false)
    (ho : s.frameOpen f = true) (p : Bool) : s.bar4Write off l p = .ok (s.frameWrite f b l p) := by
  unfold State.bar4Write
  rw [hn, bar4At_ok hat hf hb]
  simp [hr, ho]

theorem bar4Write_shut {l : List Byte} (hn : l.length = n) (hr : (s.chan (f / 64)).inReset = false)
    (ho : s.frameOpen f = false) (p : Bool) : s.bar4Write off l p = .error 5 := by
  unfold State.bar4Write
  rw [hn, bar4At_ok hat hf hb]
  simp [hr, ho]

theorem bar4Read_running (hr : (s.chan (f / 64)).inReset = false) : s.bar4Read off n =
    .ok (⟨(s.frameRead f b n).1.1, (s.frameRead f b n).1.2, s.rangeBad f b n⟩, (s.frameRead f b n).2) := by
  unfold State.bar4Read
  rw [bar4At_ok hat hf hb]
  simp [hr]

theorem readMarks_running (hr : (s.chan (f / 64)).inReset = false) : s.readMarks 4 off n = s.frameMarks f b n := by
  unfold State.readMarks
  rw [bar4At_ok hat hf hb]
  simp [hr]

end

/-! The completion of a read. -/

theorem mps_eq (s : State) : ∃ k, s.mps = 128 * 2 ^ k := ⟨_, rfl⟩

/-- A read that does not pass a multiple of the largest payload has one completion (R332). -/
theorem sendRead_one (s : State) (r : BitVec 16) (k off : Nat) {data : List Byte} (marks : List Bool)
    (hpos : data ≠ []) (hfit : off % s.mps + data.length ≤ s.mps) :
    s.sendRead r k off data marks = s.send (.completion r k .success data (marks.any id)) := by
  have hlen : 0 < data.length := List.length_pos_iff.2 hpos
  have hcut : cutCompletions (data.length + 1) s.mps off data.length = [(off, data.length)] := by
    rw [cutCompletions, if_neg (by omega)]
    dsimp only
    rw [Nat.min_eq_left (by omega), Nat.sub_self, cutCompletions.eq_def]
    split
    · rfl
    · rw [if_pos rfl]
  unfold State.sendRead
  rw [hcut]

theorem channels_le (b : Build) : b.channels ≤ 256 := by cases b <;> decide

theorem frame_lt {s : State} {f : Nat} (hf : f < 64 * s.nch) : f < 16384 := by
  have := channels_le s.build
  unfold State.nch at hf
  omega

theorem send_linkUp (s : State) (x : Tlp) : (s.send x).ep.linkUp = s.ep.linkUp := by
  unfold State.send; split <;> rfl

theorem send_tx {s : State} (h : s.ep.linkUp = true) (x : Tlp) : (s.send x).ep.tx = s.ep.tx ++ [x] := by
  unfold State.send; rw [if_pos h]

theorem errMsg_linkUp (s : State) (ur : Bool) (m : ErrMsg) : (s.errMsg ur m).ep.linkUp = s.ep.linkUp := by
  cases m with
  | cor => simp only [State.errMsg]; split <;> simp [send_linkUp]
  | nonfatal =>
    simp only [State.errMsg]
    split
    · rw [send_linkUp]; split <;> rfl
    · rfl
  | fatal =>
    simp only [State.errMsg]
    split
    · rw [send_linkUp]; split <;> rfl
    · rfl

theorem orCfg_linkUp (s : State) (off : Nat) (w : Word) : (s.orCfg off w).ep.linkUp = s.ep.linkUp := rfl

theorem setCfg_linkUp (s : State) (off : Nat) (w : Word) : (s.setCfg off w).ep.linkUp = s.ep.linkUp := rfl

theorem logHeader_linkUp (s : State) : s.logHeader.ep.linkUp = s.ep.linkUp :=
  congrArg Endpoint.linkUp ((logHeader_same (m := 0x400000000020) (Same.refl _ s) rfl).ep rfl)

/-- The report of an error leaves the link as it is. -/
theorem aerUncor_linkUp (s : State) (b : Nat) (advisory header : Bool) :
    (s.aerUncor b advisory header).ep.linkUp = s.ep.linkUp := by
  unfold State.aerUncor
  simp [apply_ite (fun t : State => t.ep.linkUp), errMsg_linkUp, orCfg_linkUp, setCfg_linkUp, logHeader_linkUp]

theorem Same.eq_of_unsupported {s t : State} (h : Same 0x400000000060 s t) :
    t = { s with cfg := t.cfg, ep := t.ep, fresh := t.fresh } := h.eq

/-- What an Unsupported Request leaves (R337, R343): its AER bit, and all but the endpoint's records. -/
theorem unsupported_recorded (s : State) (advisory header : Bool) :
    (s.aerUncor 20 advisory header).cfgBit 0x104 20 = true ∧
      Same 0x400000000060 s (s.aerUncor 20 advisory header) :=
  ⟨aerUncor_bit _ _ _ _ (by omega), aerUncor_same (Same.refl _ s) rfl _ _ _⟩

theorem Same.mps {m : Nat} {s t : State} (h : Same m s t) (hcfg : m.testBit 5 = false) : t.mps = s.mps := by
  unfold State.mps State.cfgRaw
  rw [h.cfg hcfg]

/-! The requests that each BAR takes, as commands. -/

section
variable {s : State} (hs : s.serving = true) (hlink : s.ep.linkUp = true) (hm : s.mse = true)
include hs hm

theorem target_bar0 {off : Nat} (h : off < 0x4000000) : s.target (.bar0 off) = some (0, off) := by
  rw [target_eq hs hm]
  exact if_pos h

theorem target_bar2 {off : Nat} (h : off < 0x800000) : s.target (.bar2 off) = some (2, off) := by
  rw [target_eq hs hm]
  exact if_pos h

theorem target_bar4 {off : Nat} (h : off < 0x10000000) : s.target (.bar4 off) = some (4, off) := by
  rw [target_eq hs hm]
  exact if_pos h

theorem target_noBar : s.target .noBar = none := by
  rw [target_eq hs hm]
  rfl

/-- A host write of an open frame, whoever asks for it (R207). -/
theorem hostWrite_frame {off f b : Nat} {l : List Byte} (r : BitVec 16) (hat : s.apertureAt off = (f, b))
    (hoff : off < 0x10000000) (hf : f < 64 * s.nch) (hb : b + l.length ≤ 20480)
    (hr : (s.chan (f / 64)).inReset = false) (ho : s.frameOpen f = true) :
    s.hostWrite (.bar4 off) l r false = s.frameWrite f b l false :=
  hostWrite_ok r (by simp) (target_bar4 hs hm hoff) (bar4Write_open hat hf hb rfl hr ho false)

include hlink

theorem exec_bar0Write {off : Nat} {l : List Byte} (r : BitVec 16) (h4 : off % 4 = 0) (hoff : off < 0x4000000)
    (hlen : l.length = 4) (hd : (regDesc s.nch s.targets off).isSome = true) :
    exec (.memoryWrite (.bar0 off) l r false) s = .next (s.regWrite off (BitVec.ofNat 32 (leNat l))) := by
  rw [exec_memoryWrite hs hlink, hostWrite_ok r (by simp) (target_bar0 hs hm hoff) (bar0Write_dword h4 hlen hd)]

theorem exec_bar2Write {off : Nat} {l : List Byte} {t : State} (r : BitVec 16) (hoff : off < 0x800000)
    (h : s.bar2Write off l = .ok t) : exec (.memoryWrite (.bar2 off) l r false) s = .next t := by
  rw [exec_memoryWrite hs hlink, hostWrite_ok r (by simp) (target_bar2 hs hm hoff) h]

/-- A host read of a frame (R206, R345). -/
theorem exec_frameRead {off f b n : Nat} (hat : s.apertureAt off = (f, b)) (hoff : off < 0x10000000)
    (hf : f < 64 * s.nch) (hb : b + n ≤ 20480) (hr : (s.chan (f / 64)).inReset = false) :
    exec (.bar4Read off n) s = .next ((s.frameRead f b n).2.sendRead 0 0 off (s.frameRead f b n).1.1
      (s.frameMarks f b n)) := by
  rw [exec_bar4Read hs hlink, hostRead_ok 0 0 (by simp) (target_bar4 hs hm hoff) (bar4Read_running hat hf hb hr)
    (.inl (by omega)), readMarks_running hat hf hb hr]

/-- A read of a register: its four bytes never pass a multiple of the largest payload. -/
theorem exec_regRead {off : Nat} {w : Word} {u : State} (r : BitVec 16) (k : Nat) (h4 : off % 4 = 0)
    (hoff : off < 0x4000000) (hd : (regDesc s.nch s.targets off).isSome = true)
    (hr : s.regRead false off = (some w, u)) : exec (.memoryRead (.bar0 off) 4 r k) s =
      .next (u.send (.completion r k .success (leBytes 4 w.toNat) false)) := by
  have hlen : (leBytes 4 w.toNat).length = 4 := length_leBytes 4 _
  have hfit : off % u.mps + (leBytes 4 w.toNat).length ≤ u.mps := by
    obtain ⟨j, hj⟩ := mps_eq u
    have hlt := Nat.mod_lt off (show 0 < u.mps by rw [hj]; positivity)
    have hmod : off % u.mps % 4 = 0 := by
      rw [Nat.mod_mod_of_dvd _ (by rw [hj]; exact Dvd.dvd.mul_right (by norm_num) _), h4]
    have hmps : u.mps % 4 = 0 := by rw [hj]; omega
    omega
  rw [exec_memoryRead hs hlink, hostRead_ok r k (by simp) (target_bar0 hs hm hoff) (bar0Read_dword h4 hd hr) (.inr rfl),
    sendRead_one _ _ _ _ _ (List.ne_nil_of_length_pos (by omega)) hfit]
  rfl

end

end Sys2Proof.Machine

namespace Sys2Proof
open Machine

/-- Settles O32: each request goes to the access that its BAR and offset name, and that access is what the command of
the register, doorbell, push window or frame does. -/
theorem hostRequestsComplete : Obligations.HostRequestsComplete := by
  intro s hs hl hlink hm
  have hwrite := exec_memoryWrite hs hlink
  have hread := exec_memoryRead hs hlink
  refine ⟨fun off l r h4 hoff hlen hd => ?_, fun off l r d h4 hlen hd hoff => ?_, fun q l r hq hlen hst hsmall => ⟨?_, ?_⟩,
    fun q w off l r hw hwin hlen hmod hend hc => ?_, fun off f b l r p hat hoff hf hb hr ho hp => ?_,
    fun q l r hq hlen => ⟨?_, ?_⟩, fun off l r h4 hoff hlen hd => ?_, fun l r p => ?_, fun addr bar off hhit => ?_,
    fun addr hhit => ⟨fun l r p => ?_, fun n r k => ?_⟩, fun off w u r k h4 hoff hd hr => ?_, fun n r k => ?_,
    fun off f b l hat hoff hf hb hr ho => ?_, fun off f b l hat hoff hf hb hr ho => ?_,
    fun off f b n hat hoff hf hb hr => ⟨?_, fun hn hfit => ?_⟩⟩
  · rw [exec_bar0Write hs hlink hm r h4 hoff hlen hd, exec_registerWrite hs hl]
  · refine ⟨_, exec_bar0Write hs hlink hm r h4 (by omega) hlen (by rw [hd]; rfl), ?_⟩
    rw [regWrite_plain hd hoff, plainWrite_eq hd]
    exact ⟨(setReg_reg ..).trans (if_pos rfl), fun a ha => (setReg_reg ..).trans (if_neg (Ne.symm ha)), rfl⟩
  · intro hp hlt
    obtain ⟨hhi, hlo⟩ := wfld_small hsmall
    rw [exec_bar2Write hs hlink hm r (by omega) (bar2Write_sqDoorbell s hq hlen),
      sqDoorbell_moves hst hp hhi (hlo.symm ▸ hlt), hlo]
  · intro hlt
    obtain ⟨hhi, hlo⟩ := wfld_small hsmall
    rw [exec_bar2Write hs hlink hm r (by omega) (bar2Write_cqDoorbell s hq hlen),
      cqDoorbell_moves hst hhi (hlo.symm ▸ hlt), hlo]
  · have hpos : 0 < l.length := by
      simp only [List.mem_cons, List.not_mem_nil, or_false] at hlen
      omega
    exact exec_bar2Write hs hlink hm r (by omega) (bar2Write_push s (by omega) (pushWrite_taken hwin hlen hmod hend hc))
  · subst hp
    rw [hwrite, hostWrite_frame hs hm r hat hoff hf hb hr ho]
  · rw [exec_bar2Write hs hlink hm r (by omega) (bar2Write_sqDoorbell s hq hlen), exec_sqTailDoorbell hs hq]
  · rw [exec_bar2Write hs hlink hm r (by omega) (bar2Write_cqDoorbell s hq hlen), exec_cqHeadDoorbell hs hq]
  · refine ⟨_, hwrite .., ?_⟩
    rw [hostWrite_error r (by simp) (target_bar0 hs hm hoff) (bar0Write_reserved h4 hlen hd)]
    exact violation_raised 1 0 off l.length true false r hs
  · refine ⟨_, hwrite .., ?_⟩
    rw [hostWrite_none l r p (by simp) (target_noBar hs hm)]
    obtain ⟨hbit, hsame⟩ := unsupported_recorded s true true
    exact ⟨hbit, hsame.eq_of_unsupported⟩
  · obtain ⟨hbar, hoff⟩ := barHit_bounds hhit
    obtain ⟨hd, ht⟩ := targetHit_inBar s hbar hoff
    have hsame : s.target (.memory addr) = s.target (inBar bar off) := by
      rw [target_eq hs hm, target_eq hs hm, ht]
      exact hhit
    refine ⟨inBar bar off, ?_, fun l r p => ?_, fun n r k => ?_⟩
    · rcases hbar with rfl | rfl | rfl <;> simp [inBar]
    · rw [hwrite, hwrite, hostWrite_congr (by simp) hd hsame]
    · rw [hread, hread, hostRead_congr (by simp) hd hsame]
  · have hnone : s.target (.memory addr) = none := (target_eq hs hm _).trans hhit
    rw [hwrite, hwrite, hostWrite_congr (by simp) (by simp) (hnone.trans (target_noBar hs hm).symm)]
  · have hnone : s.target (.memory addr) = none := (target_eq hs hm _).trans hhit
    rw [hread, hread, hostRead_congr (by simp) (by simp) (hnone.trans (target_noBar hs hm).symm)]
  · exact exec_regRead hs hlink hm r k h4 hoff hd hr
  · refine ⟨_, hread .., ?_⟩
    rw [hostRead_none n r k (by simp) (target_noBar hs hm)]
    obtain ⟨hbit, hsame⟩ := unsupported_recorded s false true
    refine ⟨(send_cfgBit ..).trans hbit, ?_, (send_same hsame rfl _).eq_of_unsupported⟩
    rw [send_tx ((aerUncor_linkUp ..).trans hlink), List.getLast?_concat]
  · rw [exec_bar4Write hs hlink, hostWrite_frame hs hm 0 hat hoff hf hb hr ho]
  · refine ⟨_, exec_bar4Write hs hlink .., ?_⟩
    rw [hostWrite_error 0 (by simp) (target_bar4 hs hm hoff) (bar4Write_shut hat hf hb rfl hr ho false)]
    obtain ⟨hpend, -, -, hframe⟩ := violation_raised 5 4 off l.length true false 0 hs
    exact ⟨hpend, hframe⟩
  · exact exec_frameRead hs hlink hm hat hoff hf hb hr
  · have hlen : (s.frameRead f b n).1.1.length = n := length_frameRead s (frame_lt hf) b n
    have hmps : (s.frameRead f b n).2.mps = s.mps :=
      (frameRead_same (m := 0x39080030010) (Same.refl _ s) rfl f b n).mps rfl
    rw [exec_frameRead hs hlink hm hat hoff hf hb hr, sendRead_one _ _ _ _ _ (List.ne_nil_of_length_pos (by omega))
      (by rw [hmps, hlen]; exact hfit), frameMarks_any s (frame_lt hf)]

end Sys2Proof
end

section
/-! The reads that the block issues: the tag that each takes, the packet that asks for it, and how many tags are left
(R332). -/

namespace Sys2Proof.Machine
open Sys2Proof

theorem Same.freeReqTag {m : Nat} {s t : State} (h : Same m s t) (hcfg : m.testBit 5 = false) (hep : m.testBit 6 = false) :
    t.freeReqTag = s.freeReqTag := by
  unfold State.freeReqTag State.tagRange State.cfgBit State.cfgRaw
  rw [h.cfg hcfg, h.ep hep]

theorem mayIssue_iff {s : State} : s.mayIssue = true ↔ s.hostWorks = true ∧ s.bme = true ∧ s.ep.linkUp = true := by
  simp [State.mayIssue, and_assoc]

/-- A read takes the lowest free tag (R332). -/
theorem issueRead_eq {s : State} {k : Nat} (h : s.freeReqTag = some k) (pair : Nat) (user : ReqUser) (addr : Addr)
    (len : Nat) : s.issueRead pair user addr len =
      { s with ep := { s.ep with
        reqs := SMap.insert s.ep.reqs k { user := user, pair := pair, addr := addr, len := len } } }.send
        (.memRead pair k addr len) := by
  unfold State.issueRead
  rw [h]

theorem send_reqs (s : State) (x : Tlp) : (s.send x).ep.reqs = s.ep.reqs := by
  unfold State.send; split <;> rfl

theorem send_abandoned (s : State) (x : Tlp) : (s.send x).ep.abandoned = s.ep.abandoned := by
  unfold State.send; split <;> rfl

section
variable {s : State} {k : Nat} (h : s.freeReqTag = some k) (pair : Nat) (user : ReqUser) (addr : Addr) (len : Nat)
include h

theorem issueRead_reqs : (s.issueRead pair user addr len).ep.reqs =
    SMap.insert s.ep.reqs k { user := user, pair := pair, addr := addr, len := len } := by
  rw [issueRead_eq h, send_reqs]

theorem issueRead_abandoned : (s.issueRead pair user addr len).ep.abandoned = s.ep.abandoned := by
  rw [issueRead_eq h, send_abandoned]

theorem issueRead_linkUp : (s.issueRead pair user addr len).ep.linkUp = s.ep.linkUp := by
  rw [issueRead_eq h, send_linkUp]

theorem issueRead_tx (hl : s.ep.linkUp = true) :
    (s.issueRead pair user addr len).ep.tx = s.ep.tx ++ [.memRead pair k addr len] := by
  rw [issueRead_eq h, send_tx]
  exact hl

/-- The tag taken was neither outstanding nor out of use. -/
theorem freeReqTag_spec : k ∈ countUp s.tagRange.1 s.tagRange.2 ∧ SMap.get s.ep.reqs k = none ∧
    SMap.get s.ep.abandoned k = none := by
  have hfree := List.find?_some h
  simpa [SMap.has, List.mem_of_find?_eq_some h] using hfree

end

end Sys2Proof.Machine
end

section
/-! What the granted steps of a DMA channel do: loads, list loads, bursts, the wheel's grants and the timers' credits
(R22, R302, R306, R308, R310, R313, R315). -/

namespace Sys2Proof.Machine
open Sys2Proof

theorem globalChan_engine {e c : Nat} (hc : c < 64) : (64 * e + c) / 64 = e := by omega

theorem dmaOk_of_lt {e c : Nat} (he : e < 8) (hc : c < 64) : dmaOk e c = true := by simp [dmaOk, he, hc]

section
variable {s : State} (hw : s.hostWorks = true)
include hw

theorem exec_descriptorFetch {e c : Nat} (he : e < 8) (hc : c < 64) :
    exec (.descriptorFetch e c) s = .next (s.dmaLoad (64 * e + c)) := by
  show execDescriptorFetch e c s = _
  simp [execDescriptorFetch, hw, dmaOk_of_lt he hc]

theorem exec_dmaBurst {e c : Nat} (he : e < 8) (hc : c < 64) :
    exec (.dmaBurst e c) s = .next (s.dmaBurst (64 * e + c)) := by
  show execDmaBurst e c s = _
  simp [execDmaBurst, hw, dmaOk_of_lt he hc]

theorem exec_wheelGrant (p : WheelPath) : exec (.wheelGrant p) s = .next (s.wheel p) := by
  show execWheelGrant p s = _
  simp [execWheelGrant, hw]

end

/-! The step that a channel takes next. -/

/-- A channel asks for a load, a list entry or data while the block may issue requests (R353). -/
theorem mayIssue_of_dmaStep {s : State} {g : Nat}
    (h : s.dmaStep g = .desc ∨ s.dmaStep g = .list ∨ s.dmaStep g = .read) : s.mayIssue = true := by
  by_contra hm
  have hm : s.mayIssue = false := by simpa using hm
  unfold State.dmaStep at h
  simp only [hm, Bool.and_false, Bool.false_eq_true, if_false] at h
  revert h
  repeat' split
  all_goals simp

theorem wantsCross_of_ne {s : State} {g : Nat} (h : s.dmaStep g ≠ .deliver) : s.wantsCross g = false := by
  unfold State.wantsCross
  simp [h]

/-- The step has the slots that it needs (R22). -/
def State.slotsOk (s : State) (g : Nat) : Prop :=
  (s.wantsPair g = true → (s.dmaChan g).granted = true) ∧ (s.wantsCross g = true → (s.dmaChan g).crossGrant = true)

theorem slotsOk_of_granted {s : State} {g : Nat} (hstep : s.dmaStep g ≠ .deliver) (hg : (s.dmaChan g).granted = true) :
    s.slotsOk g := ⟨fun _ => hg, fun h => by rw [wantsCross_of_ne hstep] at h; cases h⟩

theorem curBurst_of_some {s : State} {g : Nat} {b : Burst} (h : (s.dmaChan g).burst = some b) : s.curBurst g = b := by
  unfold State.curBurst
  rw [h]
  rfl

section
variable {s : State} {g : Nat}

/-- A granted burst step is what its step says. -/
theorem dmaBurst_list {k : Nat} {a : Addr} (hok : s.slotsOk g) (hstep : s.dmaStep g = .list)
    (hnext : (s.dmaChan g).listNext = some a) (hk : s.freeReqTag = some k) :
    s.dmaBurst g = (s.setDmaChan g { s.dmaChan g with granted := false }).issueRead (s.dmaPair g) (.dmaList g) a 16 := by
  obtain ⟨hp, hc⟩ := hok
  unfold State.dmaBurst
  rw [if_neg (by simp; tauto), hstep]
  dsimp only
  rw [hnext, hk]
  rfl

theorem dmaBurst_read {k p a n : Nat} {b : Burst} {rest : List (Nat × Nat × Nat)} (hok : s.slotsOk g)
    (hstep : s.dmaStep g = .read) (hb : (s.dmaChan g).burst = some b) (htodo : b.todo = (p, a, n) :: rest)
    (hk : s.freeReqTag = some k) :
    s.dmaBurst g = (s.setDmaChan g { s.dmaChan g with
      granted := false, burst := some { b with todo := rest, outstanding := b.outstanding + 1 } }).issueRead
      (s.dmaPair g) (.dmaData g p) (BitVec.ofNat 64 a) n := by
  obtain ⟨hp, hc⟩ := hok
  unfold State.dmaBurst
  rw [if_neg (by simp; tauto), hstep]
  dsimp only
  rw [curBurst_of_some hb, if_neg (by simp [hb]), htodo, hk]
  rfl

theorem dmaBurst_deliver {b : Burst} (hok : s.slotsOk g) (hstep : s.dmaStep g = .deliver)
    (hb : (s.dmaChan g).burst = some b) : s.dmaBurst g = s.deliverBurst g b := by
  obtain ⟨hp, hc⟩ := hok
  unfold State.dmaBurst
  rw [if_neg (by simp; tauto), hstep]
  dsimp only
  rw [curBurst_of_some hb, if_neg (by simp [hb])]

/-- A burst that would touch a frame it may not is not started (R306). -/
theorem dmaBurst_denied (hok : s.slotsOk g) (hstep : s.dmaStep g = .deliver) (hb : (s.dmaChan g).burst = none)
    (hd : (s.burstFrames g (s.curBurst g)).any (fun q => s.denied g q.1 q.2) = true) :
    s.dmaBurst g = s.dmaHalt g .frameDenied := by
  obtain ⟨hp, hc⟩ := hok
  unfold State.dmaBurst
  rw [if_neg (by simp; tauto), hstep]
  dsimp only
  rw [hb, hd, if_pos (by rfl)]

theorem dmaLoad_eq {k : Nat} {a : Addr} (hstep : s.dmaStep g = .desc) (hload : (s.dmaChan g).loading = some a)
    (hg : (s.dmaChan g).granted = true) (hk : s.freeReqTag = some k) :
    s.dmaLoad g = (s.setDmaChan g { s.dmaChan g with granted := false }).issueRead (s.dmaPair g) (.dmaDesc g) a 64 := by
  unfold State.dmaLoad
  dsimp only
  rw [hstep, hload]
  dsimp only
  rw [if_neg (by simp [hg, hk])]

end

theorem setDmaChan_freeReqTag (s : State) (g : Nat) (x : DmaChan) : (s.setDmaChan g x).freeReqTag = s.freeReqTag :=
  (setDmaChan_same (m := 0x10000000) (Same.refl _ s) rfl g x).freeReqTag rfl rfl

theorem issueRead_dmaChan (s : State) (pair : Nat) (user : ReqUser) (addr : Addr) (len h : Nat) :
    (s.issueRead pair user addr len).dmaChan h = s.dmaChan h := by
  unfold State.dmaChan
  rw [(issueRead_same (m := 0x40) (Same.refl _ s) rfl pair user addr len).dma rfl]

theorem Same.eq_of_dmaRead {s t : State} (h : Same 0x10000040 s t) : t = { s with dma := t.dma, ep := t.ep } := h.eq

/-- A channel's read leaves with the lowest free tag, and changes the channel as its step says. -/
theorem dmaRead_issued {s : State} {k : Nat} (hk : s.freeReqTag = some k) (g : Nat) (x : DmaChan) (pair : Nat)
    (user : ReqUser) (addr : Addr) (len : Nat) :
    let t := (s.setDmaChan g x).issueRead pair user addr len
    SMap.get t.ep.reqs k = some { user := user, pair := pair, addr := addr, len := len } ∧
      (s.ep.linkUp = true → t.ep.tx = s.ep.tx ++ [.memRead pair k addr len]) ∧ t.dmaChan g = x ∧
      t = { s with dma := t.dma, ep := t.ep } := by
  intro t
  have hk := (setDmaChan_freeReqTag s g x).trans hk
  refine ⟨?_, fun hl => ?_, ?_, ?_⟩
  · rw [issueRead_reqs hk, SMap.get_insert_self]
  · exact issueRead_tx hk pair user addr len hl
  · rw [issueRead_dmaChan, setDmaChan_get, if_pos rfl]
  · exact (issueRead_same (setDmaChan_same (m := 0x10000040) (Same.refl _ s) rfl g x) rfl pair user addr
      len).eq_of_dmaRead

/-! The end of a step: the gate, the hold and the boundary. -/

/-- The gate sets only the state, the grants and the credit of its channel, and nothing while a burst runs (R315). -/
theorem dmaGate_cases (s : State) (g : Nat) : s.dmaGate g = s ∨ ((s.dmaChan g).burst = none ∧
    ∃ st gr cr n need, s.dmaGate g = s.setDmaChan g { s.dmaChan g with
      st := st, granted := gr, crossGrant := cr, credits := n, needCredit := need }) := by
  unfold State.dmaGate
  dsimp only
  split
  · next h =>
    simp only [Bool.and_eq_true, Option.isNone_iff_eq_none] at h
    refine .inr ⟨h.1.2, ?_⟩
    split
    · split
      · exact ⟨_, _, _, _, _, rfl⟩
      · exact ⟨_, _, _, _, _, rfl⟩
    · exact ⟨_, _, _, _, _, rfl⟩
  · exact .inl rfl

/-- The hold sets only the state and the grants of its channel, and nothing while a burst runs (R326). -/
theorem dmaHold_cases (s : State) (g : Nat) : s.dmaHold g = s ∨ ((s.dmaChan g).burst = none ∧
    ∃ st from0 gr cr, s.dmaHold g = s.setDmaChan g { s.dmaChan g with
      st := st, heldFrom := from0, granted := gr, crossGrant := cr }) := by
  unfold State.dmaHold
  dsimp only
  split
  · next h =>
    simp only [Bool.and_eq_true, Option.isNone_iff_eq_none] at h
    exact .inr ⟨h.2, _, _, _, _, rfl⟩
  · exact .inl rfl

/-- The gate and the hold leave the other channels, and in their own what its burst has moved. -/
theorem gateHold_chan (s : State) (g : Nat) :
    (((s.dmaGate g).dmaHold g).dmaChan g).moved = (s.dmaChan g).moved ∧
    (((s.dmaGate g).dmaHold g).dmaChan g).burst = (s.dmaChan g).burst ∧
    (∀ h, h ≠ g → ((s.dmaGate g).dmaHold g).dmaChan h = s.dmaChan h) := by
  have hgate : ((s.dmaGate g).dmaChan g).moved = (s.dmaChan g).moved ∧
      ((s.dmaGate g).dmaChan g).burst = (s.dmaChan g).burst ∧ (∀ h, h ≠ g → (s.dmaGate g).dmaChan h = s.dmaChan h) := by
    rcases dmaGate_cases s g with h | ⟨-, _, _, _, _, _, h⟩
    · rw [h]; exact ⟨rfl, rfl, fun _ _ => rfl⟩
    · rw [h]
      simp only [setDmaChan_get, if_pos]
      exact ⟨trivial, trivial, fun i hi => if_neg (Ne.symm hi)⟩
  obtain ⟨hmoved, hburst, hother⟩ := hgate
  rcases dmaHold_cases (s.dmaGate g) g with h | ⟨-, _, _, _, _, h⟩
  · rw [h]; exact ⟨hmoved, hburst, hother⟩
  · rw [h]
    simp only [setDmaChan_get, if_pos]
    exact ⟨hmoved, hburst, fun i hi => (if_neg (Ne.symm hi)).trans (hother i hi)⟩

/-- While a burst runs, the gate and the hold do nothing. -/
theorem gateHold_of_burst {s : State} {g : Nat} (h : (s.dmaChan g).burst ≠ none) : (s.dmaGate g).dmaHold g = s := by
  have hgate : s.dmaGate g = s := (dmaGate_cases s g).resolve_right fun hb => h hb.1
  rw [hgate]
  exact (dmaHold_cases s g).resolve_right fun hb => h hb.1

theorem boundary_quiet {s : State} {g : Nat} (hu : (s.dmaChan g).user = none) (ha : (s.dmaChan g).abort = false) :
    s.boundary g = s := by
  unfold State.boundary
  rw [hu]
  dsimp only
  rw [if_neg (by simp [ha])]

/-! A delivered burst. -/

/-- The channel of a burst that has been written goes on (R310, R315, R325). -/
def State.burstDone (s : State) (g : Nat) (d : Desc) (b : Burst) (marks : List Bool) : State :=
  let unit := s.paceUnit g
  let s := s.modDmaChan g (fun c => { c with
    moved := b.pos + b.len, burst := none, granted := false, crossGrant := false, poisoned := c.poisoned || marks.any id
    needCredit := c.needCredit || unit == 0 || unit == 3 || (unit == 1 && (b.pos + b.len) % d.pass == 0) })
  ((s.boundary g).dmaGate g).dmaHold g

/-- A burst is written to its frame or sent to the host, and then its channel goes on (R310 to R312). -/
theorem deliverBurst_eq (s : State) (g : Nat) (b : Burst) :
    ∃ u marks, Same 0x39080030070 s u ∧ s.deliverBurst g b = u.burstDone g (s.desc g) b marks := by
  have hsource := burstSource_same (m := 0x39080030070) (Same.refl _ s) rfl g b
  unfold State.deliverBurst
  dsimp only
  split
  · exact ⟨_, _, frameWriteMarked_same hsource rfl _ _ _ _, rfl⟩
  · exact ⟨_, _, sendWrite_same hsource rfl _ _ _ _, rfl⟩
  · exact ⟨_, _, hsource, rfl⟩

theorem burstDone_chan {s : State} {g : Nat} (d : Desc) (b : Burst) (marks : List Bool)
    (hu : (s.dmaChan g).user = none) (ha : (s.dmaChan g).abort = false) :
    ((s.burstDone g d b marks).dmaChan g).moved = b.pos + b.len ∧
      ((s.burstDone g d b marks).dmaChan g).burst = none ∧
      (∀ h, h ≠ g → (s.burstDone g d b marks).dmaChan h = s.dmaChan h) ∧
      Same 0x10000000 s (s.burstDone g d b marks) := by
  unfold State.burstDone
  dsimp only
  rw [boundary_quiet (by rw [modDmaChan_get, if_pos rfl]; exact hu) (by rw [modDmaChan_get, if_pos rfl]; exact ha)]
  obtain ⟨hmoved, hburst, hother⟩ := gateHold_chan (s.modDmaChan g _) g
  refine ⟨?_, ?_, fun h hne => ?_, ?_⟩
  · rw [hmoved, modDmaChan_get, if_pos rfl]
  · rw [hburst, modDmaChan_get, if_pos rfl]
  · rw [hother h hne, modDmaChan_get, if_neg (Ne.symm hne)]
  · exact dmaHold_same (dmaGate_same (modDmaChan_same (Same.refl _ s) rfl g _) rfl g) rfl g

/-- A burst of a descriptor channel that is not to stop ends: its bytes have moved, and the channel goes on (R310). -/
theorem deliverBurst_chan {s : State} {g : Nat} (b : Burst) (hu : (s.dmaChan g).user = none)
    (ha : (s.dmaChan g).abort = false) :
    ((s.deliverBurst g b).dmaChan g).moved = b.pos + b.len ∧ ((s.deliverBurst g b).dmaChan g).burst = none ∧
      (∀ h, h ≠ g → (s.deliverBurst g b).dmaChan h = s.dmaChan h) ∧
      (s.deliverBurst g b).rings = s.rings ∧ (s.deliverBurst g b).queues = s.queues ∧
      (s.deliverBurst g b).tags = s.tags ∧ (s.deliverBurst g b).frames = s.frames ∧
      (s.deliverBurst g b).works = s.works := by
  obtain ⟨u, marks, hu', heq⟩ := deliverBurst_eq s g b
  have hdma : ∀ h, u.dmaChan h = s.dmaChan h := fun h => by unfold State.dmaChan; rw [hu'.dma rfl]
  obtain ⟨hmoved, hburst, hother, hsame⟩ := burstDone_chan (s.desc g) b marks ((hdma g).symm ▸ hu) ((hdma g).symm ▸ ha)
  rw [heq]
  exact ⟨hmoved, hburst, fun h hne => (hother h hne).trans (hdma h), (hsame.rings rfl).trans (hu'.rings rfl),
    (hsame.queues rfl).trans (hu'.queues rfl), (hsame.tags rfl).trans (hu'.tags rfl),
    (hsame.frames rfl).trans (hu'.frames rfl), (hsame.works rfl).trans (hu'.works rfl)⟩

/-- The source of a DMA channel exists in every build (R362). -/
theorem srcExists_dma (s : State) {g : Nat} (hg : g < 512) : s.srcExists (256 + g) = true := by
  simp [State.srcExists, sourceReal]
  omega

/-- A descriptor channel halts: it raises its source, and moves nothing (R299, R322). -/
theorem dmaHalt_chan {s : State} {g : Nat} (hw : s.hostWorks = true) (hg : g < 512) (hu : (s.dmaChan g).user = none)
    (st : DmaStatus) :
    ((s.dmaHalt g st).dmaChan g).st = .halted ∧ ((s.dmaHalt g st).dmaChan g).status = st ∧
      ((s.dmaHalt g st).dmaChan g).moved = (s.dmaChan g).moved ∧ (s.dmaHalt g st).words = s.words ∧
      isPending (s.dmaHalt g st) (256 + g) = true := by
  have hset := setDmaChan_same (m := 0x10000000) (Same.refl _ s) rfl g
    { s.dmaChan g with st := .halted, status := st, granted := false, crossGrant := false }
  have heq : s.dmaHalt g st = (s.setDmaChan g
      { s.dmaChan g with st := .halted, status := st, granted := false, crossGrant := false }).raise (256 + g) := by
    unfold State.dmaHalt
    dsimp only
    rw [hu]
  have hchan : (s.setDmaChan g
      { s.dmaChan g with st := .halted, status := st, granted := false, crossGrant := false }).dmaChan g =
      { s.dmaChan g with st := .halted, status := st, granted := false, crossGrant := false } := by
    rw [setDmaChan_get, if_pos rfl]
  generalize s.setDmaChan g _ = u at hset heq hchan
  have hraise := raise_same (m := 0x38080000010) (Same.refl _ u) rfl (256 + g)
  have hdma : (u.raise (256 + g)).dmaChan g = u.dmaChan g := by unfold State.dmaChan; rw [hraise.dma rfl]
  rw [heq, hdma, hchan]
  refine ⟨rfl, rfl, rfl, (hraise.words rfl).trans (hset.words rfl), ?_⟩
  rw [raise_isPending _ _ _ ((hset.hostWorks rfl rfl rfl).trans hw) (srcExists_dma u hg) (by omega)]
  simp

/-! The wheel of a shared path (R22). -/

section
variable {s : State} {p : WheelPath}

theorem wheel_idle (h : s.pathWaiters p = []) : s.wheel p = s := by
  unfold State.wheel
  cases s.turnPrio p with
  | none => rfl
  | some k => simp [h, leastBy]

/-- A path with one waiting channel and nothing else grants it its next slot. -/
theorem wheel_one {g : Nat} (hw : s.pathWaiters p = [g]) (ho : s.otherPrios p = []) :
    s.wheel p = { (s.slotGone p).grantDma p g with
      wheels := SMap.setD ((s.slotGone p).grantDma p g).wheels (100 + 4 * pathNo p + s.dmaPrio g) ((g + 1) % 1024) 0 } := by
  have hturn : s.turnPrio p = some (s.dmaPrio g) := by
    simp [State.turnPrio, State.waitPrios, hw, ho, leastBy]
  unfold State.wheel
  rw [hturn]
  simp [hw, leastBy]

theorem grantDma_same_wheels (u : State) (g : Nat) : (u.grantDma p g).wheels = u.wheels :=
  (grantDma_same (m := 0x10000000) (Same.refl _ u) rfl p g).wheels rfl

/-- The wheel of the path has turned by one slot. -/
theorem wheel_one_turned {g : Nat} (hp : pathNo p < 100) (hw : s.pathWaiters p = [g]) (ho : s.otherPrios p = []) :
    SMap.getD (s.wheel p).wheels (pathNo p) 0 = (SMap.getD s.wheels (pathNo p) 0 + 1) % 16 := by
  rw [wheel_one hw ho]
  dsimp only
  rw [SMap.getD_setD _ _ _ _ _ _ fun _ => rfl, if_neg (by omega), grantDma_same_wheels]
  exact (SMap.getD_setD _ _ _ _ (0 : Nat) _ fun _ => rfl).trans (if_pos rfl)

end

theorem grantDma_pair (s : State) (k g : Nat) : s.grantDma (.pair k) g =
    s.setDmaChan g { s.dmaChan g with granted := true, prio := some (s.dmaPrio g) } := rfl

theorem grantDma_crossbar (s : State) (g : Nat) : s.grantDma .crossbar g =
    s.setDmaChan g { s.dmaChan g with crossGrant := true, prio := some (s.dmaPrio g) } := rfl

theorem Same.eq_of_wheel {s t : State} (h : Same 0x50000000 s t) : t = { s with dma := t.dma, wheels := t.wheels } := h.eq

/-! The credits of a timer (R315). -/

section
variable {s : State} {g h : Nat}

theorem dmaCredit_chan_other (hne : h ≠ g) : (s.dmaCredit h).dmaChan g = s.dmaChan g := by
  unfold State.dmaCredit
  rw [(gateHold_chan _ h).2.2 g (Ne.symm hne), modDmaChan_get, if_neg hne]

/-- A credit reaches a channel in a burst, and nothing else changes there. -/
theorem dmaCredit_chan_self (hb : (s.dmaChan g).burst ≠ none) : (s.dmaCredit g).dmaChan g =
    { s.dmaChan g with credits := min (s.maxCredits g) ((s.dmaChan g).credits + 1) } := by
  unfold State.dmaCredit
  rw [gateHold_of_burst (by rw [modDmaChan_get, if_pos rfl]; exact hb), modDmaChan_get, if_pos rfl]

theorem dmaCredit_maxCredits : (s.dmaCredit h).maxCredits g = s.maxCredits g := by
  unfold State.maxCredits State.fld State.reg
  rw [(dmaCredit_same (m := 0x10000000) (Same.refl _ s) rfl h).regs rfl]

variable {l : List Nat}

theorem foldl_dmaCredit_other (hl : g ∉ l) : (l.foldl (fun s g => s.dmaCredit g) s).dmaChan g = s.dmaChan g := by
  induction l generalizing s with
  | nil => rfl
  | cons h l ih =>
    simp only [List.mem_cons, not_or] at hl
    obtain ⟨hne, hl⟩ := hl
    rw [List.foldl_cons, ih hl, dmaCredit_chan_other (Ne.symm hne)]

theorem foldl_dmaCredit_mem (hnodup : l.Nodup) (hl : g ∈ l) (hb : (s.dmaChan g).burst ≠ none) :
    (l.foldl (fun s g => s.dmaCredit g) s).dmaChan g =
      { s.dmaChan g with credits := min (s.maxCredits g) ((s.dmaChan g).credits + 1) } := by
  induction l generalizing s with
  | nil => cases hl
  | cons h l ih =>
    obtain ⟨hh, hnodup⟩ := List.nodup_cons.1 hnodup
    rw [List.foldl_cons]
    rcases List.mem_cons.1 hl with rfl | hl
    · rw [foldl_dmaCredit_other hh, dmaCredit_chan_self hb]
    · have hne : h ≠ g := fun e => hh (e ▸ hl)
      rw [ih hnodup hl (by rwa [dmaCredit_chan_other hne]), dmaCredit_chan_other hne, dmaCredit_maxCredits]

end

theorem Same.eq_of_credit {s t : State} (h : Same 0x10000000 s t) : t = { s with dma := t.dma } := h.eq

/-- A tick of an engine's timer that is on (R315). -/
theorem exec_dmaTimerTick {s : State} (hw : s.hostWorks = true) {e i : Nat} (he : e < 8) (hi : i < 16)
    (hon : s.bit (0x180100 + e * 0x1000 + 4 * i) 31 = true) :
    exec (.dmaTimerTick e i) s = .next (s.creditAll e (fun g => s.paceMode g == 1 && s.fld (dmaAt g + 0x58) 6 3 == i)) := by
  have hat : engAt e + 0x100 + 4 * i = 0x180100 + e * 0x1000 + 4 * i := by unfold engAt; omega
  show execDmaTimerTick e i s = _
  simp [execDmaTimerTick, hw, he, hi, hat, hon]

end Sys2Proof.Machine

namespace Sys2Proof
open Machine

/-- Settles O20: a granted step of a channel issues the read that it asks for, delivers its burst or halts, a grant goes
to the one channel that waits, and a timer's tick credits the channels that it paces. -/
theorem dmaTransferCommandsComplete : Obligations.DmaTransferCommandsComplete := by
  intro s e c he hc hw
  have hpair : s.dmaPair (64 * e + c) = e % s.build.pairs := by
    unfold State.dmaPair
    rw [globalChan_engine hc]
  have hburst := exec_dmaBurst hw he hc
  refine ⟨fun k a hstep hload hg hk => ?_, fun k a hstep hnext hg hk => ?_,
    fun k b p a n rest hstep hb htodo hg hk => ?_, fun b hstep hb hp hx hu ha => ?_, fun hstep hb hp hx hu hd => ?_,
    fun k hk hwait ho => ?_, fun hwait ho => ?_, fun p hwait => ?_, fun i hi hon => ?_⟩
  · have hlink := (mayIssue_iff.1 (mayIssue_of_dmaStep (.inl hstep))).2.2
    refine ⟨_, exec_descriptorFetch hw he hc, ?_⟩
    rw [dmaLoad_eq hstep hload hg hk, hpair]
    obtain ⟨hreq, htx, hchan, hframe⟩ := dmaRead_issued hk (64 * e + c) { s.dmaChan (64 * e + c) with granted := false }
      (e % s.build.pairs) (.dmaDesc (64 * e + c)) a 64
    exact ⟨hreq, htx hlink, hchan, hframe⟩
  · have hlink := (mayIssue_iff.1 (mayIssue_of_dmaStep (.inr (.inl hstep)))).2.2
    refine ⟨_, hburst, ?_⟩
    rw [dmaBurst_list (slotsOk_of_granted (by simp [hstep]) hg) hstep hnext hk, hpair]
    obtain ⟨hreq, htx, -, hframe⟩ := dmaRead_issued hk (64 * e + c) { s.dmaChan (64 * e + c) with granted := false }
      (e % s.build.pairs) (.dmaList (64 * e + c)) a 16
    exact ⟨hreq, htx hlink, hframe⟩
  · refine ⟨_, hburst, ?_⟩
    rw [dmaBurst_read (slotsOk_of_granted (by simp [hstep]) hg) hstep hb htodo hk, hpair]
    obtain ⟨hreq, -, hchan, hframe⟩ := dmaRead_issued hk (64 * e + c) { s.dmaChan (64 * e + c) with
      granted := false, burst := some { b with todo := rest, outstanding := b.outstanding + 1 } }
      (e % s.build.pairs) (.dmaData (64 * e + c) p) (BitVec.ofNat 64 a) n
    exact ⟨hreq, congrArg DmaChan.burst hchan, hframe⟩
  · refine ⟨_, hburst, ?_⟩
    rw [dmaBurst_deliver ⟨hp, hx⟩ hstep hb]
    exact deliverBurst_chan b hu ha
  · refine ⟨_, hburst, ?_⟩
    rw [dmaBurst_denied ⟨hp, hx⟩ hstep hb hd]
    exact dmaHalt_chan hw (by omega) hu .frameDenied
  · refine ⟨_, exec_wheelGrant hw _, ?_, ?_, ?_, (wheel_same (Same.refl _ s) rfl _).eq_of_wheel⟩
    · rw [wheel_one hwait ho, grantDma_pair]
      exact (setDmaChan_get ..).trans (if_pos rfl)
    · exact wheel_one_turned (p := .pair k) (show k < 100 by omega) hwait ho
    · intro g hne
      rw [wheel_one hwait ho, grantDma_pair]
      exact (setDmaChan_get ..).trans (if_neg (Ne.symm hne))
  · refine ⟨_, exec_wheelGrant hw _, ?_, ?_, (wheel_same (Same.refl _ s) rfl _).eq_of_wheel⟩
    · rw [wheel_one hwait ho, grantDma_crossbar]
      exact (setDmaChan_get ..).trans (if_pos rfl)
    · exact wheel_one_turned (p := .crossbar) (show 8 < 100 by omega) hwait ho
  · rw [exec_wheelGrant hw, wheel_idle hwait]
  · refine ⟨_, exec_dmaTimerTick hw he hi hon, fun hst hb hmode hfld => ?_, fun hmode => ?_,
      (creditAll_same (Same.refl _ s) rfl _ _).eq_of_credit⟩
    · refine foldl_dmaCredit_mem ((nodup_countUp _ _).filter _) (List.mem_filter.2 ⟨mem_countUp.2 (by omega), ?_⟩) hb
      have hat : dmaAt (64 * e + c) + 0x58 = 0x100058 + (64 * e + c) * 0x400 := by unfold dmaAt; omega
      simp [hst, hmode, hat, hfld]
    · refine foldl_dmaCredit_other fun hmem => hmode ?_
      have hp := (List.mem_filter.1 hmem).2
      simp only [Bool.and_eq_true, beq_iff_eq] at hp
      exact hp.2.1

end Sys2Proof
end

section
/-! What the traffic of the queues does: fetches of entries, push windows, completion entries and their messages (R22, R24,
R47 to R50, R59 to R63). -/

namespace Sys2Proof.Machine
open Sys2Proof

/-! Many reads at once: as many tags as they need are free (R332). -/

/-- The tags that a new read may take. -/
def State.freeTags (s : State) : List Nat :=
  (countUp s.tagRange.1 s.tagRange.2).filter (fun t => !SMap.has s.ep.reqs t && !SMap.has s.ep.abandoned t)

theorem freeReqTags_eq (s : State) : s.freeReqTags = s.freeTags.length := rfl

theorem freeReqTag_isSome {s : State} (h : 0 < s.freeReqTags) : ∃ k, s.freeReqTag = some k := by
  obtain ⟨k, hk⟩ := List.exists_mem_of_length_pos (freeReqTags_eq s ▸ h)
  obtain ⟨hmem, hfree⟩ := List.mem_filter.1 hk
  exact Option.isSome_iff_exists.1 (List.find?_isSome.2 ⟨k, hmem, hfree⟩)

theorem SMap.length_insert {α : Type} (m : SMap α) {k : Nat} (x : α) (h : SMap.get m k = none) :
    (SMap.insert m k x).length = m.length + 1 := by
  induction m with
  | nil => rfl
  | cons e r ih =>
    obtain ⟨j, v⟩ := e
    simp only [SMap.get] at h
    split at h
    · cases h
    · next hj =>
      simp only [SMap.insert, if_neg hj]
      split
      · rfl
      · rw [List.length_cons, ih h, List.length_cons]

section
variable {s : State} {k : Nat} (h : s.freeReqTag = some k) (pair : Nat) (user : ReqUser) (addr : Addr) (len : Nat)
include h

omit h in
theorem issueRead_tagRange : (s.issueRead pair user addr len).tagRange = s.tagRange := by
  unfold State.tagRange State.cfgBit State.cfgRaw
  rw [(issueRead_same (m := 0x40) (Same.refl _ s) rfl pair user addr len).cfg rfl]

/-- A read takes one tag. -/
theorem issueRead_freeReqTags : s.freeReqTags ≤ (s.issueRead pair user addr len).freeReqTags + 1 := by
  have hreqs := issueRead_reqs h pair user addr len
  have hsub : s.freeTags ⊆ k :: (s.issueRead pair user addr len).freeTags := by
    intro t ht
    obtain ⟨hmem, hfree⟩ := List.mem_filter.1 ht
    by_cases hkt : t = k
    · exact hkt ▸ List.mem_cons_self
    · refine List.mem_cons_of_mem _ (List.mem_filter.2 ⟨?_, ?_⟩)
      · rwa [issueRead_tagRange]
      · rw [hreqs, issueRead_abandoned h]
        unfold SMap.has at hfree ⊢
        rwa [SMap.get_insert, if_neg (Ne.symm hkt)]
  have hnodup : s.freeTags.Nodup := (nodup_countUp _ _).filter _
  rw [freeReqTags_eq, freeReqTags_eq, ← List.length_cons]
  exact (List.subperm_of_subset hnodup hsub).length_le

theorem issueRead_length_reqs : (s.issueRead pair user addr len).ep.reqs.length = s.ep.reqs.length + 1 := by
  rw [issueRead_reqs h, SMap.length_insert _ _ (freeReqTag_spec h).2.1]

/-- A read in progress keeps its entry. -/
theorem issueRead_keeps {id : Nat} {r : Req} (hr : SMap.get s.ep.reqs id = some r) :
    SMap.get (s.issueRead pair user addr len).ep.reqs id = some r := by
  have hne : k ≠ id := fun e => by rw [← e, (freeReqTag_spec h).2.1] at hr; cases hr
  rw [issueRead_reqs h, SMap.get_insert, if_neg hne, hr]

end

/-- A list of reads, each with its own user. -/
def State.issueReads (s : State) (pair : Nat) (user : Nat → Nat → ReqUser) (l : List (Nat × Nat)) : State :=
  l.foldl (fun s p => s.issueRead pair (user p.1 p.2) (BitVec.ofNat 64 p.1) p.2) s

/-- Each of the reads leaves, and takes a tag (R332). -/
theorem issueReads_all (pair : Nat) (user : Nat → Nat → ReqUser) (l : List (Nat × Nat)) {s : State}
    (hl : s.ep.linkUp = true) (hn : l.length ≤ s.freeReqTags) :
    (s.issueReads pair user l).ep.tx.length = s.ep.tx.length + l.length ∧
    (s.issueReads pair user l).ep.reqs.length = s.ep.reqs.length + l.length ∧
    (∀ id r, SMap.get s.ep.reqs id = some r → SMap.get (s.issueReads pair user l).ep.reqs id = some r) := by
  induction l generalizing s with
  | nil => exact ⟨rfl, rfl, fun _ _ => id⟩
  | cons p l ih =>
    rw [List.length_cons] at hn
    obtain ⟨k, hk⟩ := freeReqTag_isSome (s := s) (by omega)
    have htags := issueRead_freeReqTags hk pair (user p.1 p.2) (BitVec.ofNat 64 p.1) p.2
    obtain ⟨htx, hreqs, hkeep⟩ := ih (s := s.issueRead pair (user p.1 p.2) (BitVec.ofNat 64 p.1) p.2)
      (by rw [issueRead_linkUp hk]; exact hl) (by omega)
    have hcons : s.issueReads pair user (p :: l) =
      (s.issueRead pair (user p.1 p.2) (BitVec.ofNat 64 p.1) p.2).issueReads pair user l := rfl
    rw [hcons]
    refine ⟨?_, ?_, fun id r hr => hkeep id r (issueRead_keeps hk _ _ _ _ hr)⟩
    · rw [htx, issueRead_tx hk _ _ _ _ hl, List.length_append, List.length_singleton, List.length_cons]
      omega
    · rw [hreqs, issueRead_length_reqs hk, List.length_cons]
      omega

theorem issueReads_same {m : Nat} {z t : State} (hk : Same m z t) (h : 0x40 ||| m = m) (pair : Nat)
    (user : Nat → Nat → ReqUser) (l : List (Nat × Nat)) : Same m z (t.issueReads pair user l) :=
  Same.foldl (fun _ _ hu => issueRead_same hu h _ _ _ _) hk

/-! Fetches of SQ entries (R47). -/

/-- A queue's context without raw bits is sound (R448, R449). -/
theorem meetContext_clean {s : State} (h : s.rawGroups = []) (q cause : Nat) : s.meetContext q cause = (false, s) := by
  have hclean : s.useEntry 0 (mlogAddr 0 q 0) 32 = (false, s) := by
    unfold State.useEntry
    rw [h, List.map_nil, List.filter_nil, List.foldl_nil]
  unfold State.meetContext
  rw [hclean]
  rfl

/-- The reads of a fetch, from a state with the queue's registers. -/
theorem fetchReads_issued (q : Nat) (l : List (Nat × Nat)) {s u : State} (hb : u.build = s.build) (hr : u.regs = s.regs) :
    l.foldl (fun (u : State) (p : Nat × Nat) =>
      u.issueRead (u.queuePair q) (.sqFetch q ((p.1 - u.sqBase q) / 64) (p.2 / 64)) (BitVec.ofNat 64 p.1) p.2) u =
    u.issueReads (s.queuePair q) (fun a n => .sqFetch q ((a - s.sqBase q) / 64) (n / 64)) l := by
  induction l generalizing u with
  | nil => rw [State.issueReads, List.foldl_nil, List.foldl_nil]
  | cons p l ih =>
    have hpair : u.queuePair q = s.queuePair q := by unfold State.queuePair; rw [hb]
    have hbase : u.sqBase q = s.sqBase q := by unfold State.sqBase State.reg; rw [hr]
    have hsame := issueRead_same (m := 0x40) (Same.refl _ u) rfl (s.queuePair q)
      (.sqFetch q ((p.1 - s.sqBase q) / 64) (p.2 / 64)) (BitVec.ofNat 64 p.1) p.2
    rw [List.foldl_cons, hpair, hbase, ih ((hsame.build rfl).trans hb) ((hsame.regs rfl).trans hr)]
    rfl

/-- The position of the next fetch moves on. -/
def State.fetchMoved (s : State) (q : Nat) : State :=
  s.modQueue q (fun x => { x with fetchNext := (x.fetchNext + s.fetchCount q) % s.sqDepth q })

theorem fetchMoved_same (s : State) (q : Nat) : Same 0x80 s (s.fetchMoved q) := modQueue_same (Same.refl _ s) rfl q _

theorem fetchSq_eq {s : State} (h : s.rawGroups = []) (q : Nat) : s.fetchSq q =
    (s.fetchMoved q).issueReads (s.queuePair q) (fun a n => .sqFetch q ((a - s.sqBase q) / 64) (n / 64))
      (s.fetchReads q) := by
  have hsame := fetchMoved_same s q
  rw [← fetchReads_issued q (s.fetchReads q) (hsame.build rfl) (hsame.regs rfl)]
  unfold State.fetchSq State.fetchMoved
  rw [meetContext_clean h]
  rfl

theorem slotsGone_wheels {s t : State} (h : t.wheels = s.wheels) (p : WheelPath) (n : Nat) :
    (t.slotsGone p n).wheels = (s.slotsGone p n).wheels := by
  unfold State.slotsGone
  rw [h]

theorem Same.freeReqTags {m : Nat} {s t : State} (h : Same m s t) (hcfg : m.testBit 5 = false)
    (hep : m.testBit 6 = false) : t.freeReqTags = s.freeReqTags := by
  unfold State.freeReqTags State.tagRange State.cfgBit State.cfgRaw
  rw [h.cfg hcfg, h.ep hep]

theorem wantsSq_iff {s : State} {q : Nat} : s.wantsSq q = true ↔ (s.queue q).st = .active ∧ s.qPush q = false ∧
    s.mayIssue = true ∧ s.fetchCount q ≠ 0 ∧ (s.fetchReads q).length ≤ s.freeReqTags := by
  simp [State.wantsSq, and_assoc]

theorem exec_sqFetch {s : State} {q : Nat} (hq : q < 32768) (hwants : s.wantsSq q = true)
    (hslot : s.slotFor (.pair (s.queuePair q)) 2 = true) :
    exec (.sqFetch q) s = .next ((s.fetchSq q).slotsRead (.pair (s.queuePair q)) s) := by
  show execSqFetch q s = _
  simp [execSqFetch, queueOk, hq, hwants, hslot]

theorem exec_sqFetch_idle {s : State} {q : Nat} (hwants : s.wantsSq q = false) : exec (.sqFetch q) s = .next s := by
  show execSqFetch q s = _
  simp [execSqFetch, hwants]

theorem Same.eq_of_fetch {s t : State} (h : Same 0x400000C0 s t) :
    t = { s with queues := t.queues, ep := t.ep, wheels := t.wheels } := h.eq

/-! Push windows (R48 to R50). -/

theorem exec_pushWindowWrite {s t : State} {w off : Nat} {data : List Byte} (hs : s.serving = true) (hw : w < 1024)
    (h : s.pushWrite w off data = some t) : exec (.pushWindowWrite w off data) s = .next t := by
  show execPushWindowWrite w off data s = _
  simp [execPushWindowWrite, asleep_of_serving hs, hs, hw, h]

theorem exec_pushWindowWrite_violation {s : State} {w off : Nat} {data : List Byte} (hs : s.serving = true)
    (hw : w < 1024) (h : s.pushWrite w off data = none) : exec (.pushWindowWrite w off data) s =
      .next ((s.violate 3 2 (0x400000 + w * 0x1000 + off) data.length true false 0).raise 832) := by
  show execPushWindowWrite w off data s = _
  simp [execPushWindowWrite, asleep_of_serving hs, hs, hw, h]

/-- A write into a slot that holds a captured packet is an overrun (R50). -/
theorem pushWrite_overrun {s : State} {w q off : Nat} {l : List Byte} (hw : s.windowQueue w = some q)
    (hlen : l.length ∈ [4, 8, 16, 32, 64]) (hmod : off % l.length = 0) (hend : off + l.length ≤ 4096)
    (hc : (s.pushSlot (64 * w + off / 64)).captured = true) :
    s.pushWrite w off l = some (s.setBit (qcAt q + 0x1C) 8 true) := by
  unfold State.pushWrite
  rw [hw]
  dsimp only
  rw [List.contains_iff_mem.2 hlen, if_pos (by simp [hmod, hend]), if_pos hc]

theorem pushWrite_broken {s : State} {w off : Nat} {l : List Byte} (h : s.windowQueue w = none ∨
    l.length ∉ [4, 8, 16, 32, 64] ∨ off % l.length ≠ 0 ∨ 4096 < off + l.length) : s.pushWrite w off l = none := by
  unfold State.pushWrite
  split
  · rfl
  · next q hq =>
    have h := h.resolve_left (by simp [hq])
    dsimp only
    rw [if_neg]
    simp only [Bool.and_eq_true, List.contains_iff_mem, beq_iff_eq, decide_eq_true_eq]
    rintro ⟨⟨hlen, hmod⟩, hend⟩
    rcases h with h | h | h
    · exact h hlen
    · exact h hmod
    · omega

/-! Completion entries (R59 to R63). -/

/-- A message that falls due leaves all but the list of those that are due. -/
theorem askMsix_tx (s : State) (v : Nat) : (s.askMsix v).ep.tx = s.ep.tx := by
  unfold State.askMsix
  split <;> rfl

theorem askMsix_queue (s : State) (v k : Nat) : (s.askMsix v).queue k = s.queue k := by
  unfold State.queue
  rw [(askMsix_same (m := 0x40) (Same.refl _ s) rfl v).queues rfl]

/-- Coalescing starts again the count of a queue, and nothing else of it (R63). -/
theorem coalesce_cases (s : State) (q : Nat) : s.coalesce q = s ∨
    ∃ v, s.coalesce q = (s.modQueue q (fun x => { x with unsignalled := 0 })).askMsix v := by
  unfold State.coalesce
  dsimp only
  split
  · exact .inr ⟨_, rfl⟩
  · exact .inl rfl

theorem coalesce_tx (s : State) (q : Nat) : (s.coalesce q).ep.tx = s.ep.tx := by
  rcases coalesce_cases s q with h | ⟨v, h⟩
  · rw [h]
  · rw [h, askMsix_tx, (modQueue_fields ..).2.2.2.2.2.2.1]

/-- The fields of a queue that an entry or its counts set, apart from the count of those not signalled. -/
theorem coalesce_queue (s : State) (q k : Nat) :
    (k ≠ q → (s.coalesce q).queue k = s.queue k) ∧
    ((s.coalesce q).queue q).due = (s.queue q).due ∧ ((s.coalesce q).queue q).cqTail = (s.queue q).cqTail ∧
    ((s.coalesce q).queue q).cfgSeen = (s.queue q).cfgSeen ∧ ((s.coalesce q).queue q).extSeen = (s.queue q).extSeen ∧
    ((s.coalesce q).queue q).phase = (s.queue q).phase := by
  rcases coalesce_cases s q with h | ⟨v, h⟩
  · rw [h]; exact ⟨fun _ => rfl, rfl, rfl, rfl, rfl, rfl⟩
  · rw [h, askMsix_queue, askMsix_queue, modQueue_get, modQueue_get, if_pos rfl]
    exact ⟨fun hne => if_neg (Ne.symm hne), rfl, rfl, rfl, rfl, rfl⟩

/-- A queue once its oldest entry has been written (R60, R61). -/
def Queue.afterEntry (y : Queue) (rest : List Completion) (next : Nat) (cfg ext : Word) : Queue :=
  { y with
    due := rest, cqTail := next, phase := if next = 0 then !y.phase else y.phase
    unsignalled := y.unsignalled + 1, cfgSeen := cfg, extSeen := ext }

theorem wantsCq_iff {s : State} {q : Nat} : s.wantsCq q = true ↔ (s.queue q).due ≠ [] ∧
    ((s.queue q).st = .active ∨ (s.queue q).st = .draining) ∧ s.cqFull q = false ∧ s.mayIssue = true := by
  simp [State.wantsCq, and_assoc]

/-- Queue `q` once its oldest entry has left. -/
def State.entryQueued (s : State) (q : Nat) (rest : List Completion) (tail : Nat) : State :=
  s.modQueue q (fun y => y.afterEntry rest ((tail + 1) % s.cqDepth q) (s.reg (qcAt q + 0x14)) (s.reg (qcAt q + 0x18)))

/-- The next message of the vector of queue `q` counts the entry, where the queue has a vector (R342). -/
def State.entryCarried (s : State) (q pair : Nat) : State :=
  if s.bit (qcAt q + 0x14) 20 then s.carry1 (s.fld (qcAt q + 0x14) 31 21) pair else s

/-- An entry leaves on its pair, its queue goes on, and its completion is done with. -/
theorem writeEntry_eq {s : State} {q : Nat} {c : Completion} {rest : List Completion}
    (hdue : (s.queue q).due = c :: rest) (hwants : s.wantsCq q = true) (hraw : s.rawGroups = []) :
    s.writeEntry q = (((((s.sendWrite (s.entryPair q) (BitVec.ofNat 64 (s.cqBase q + 16 * (s.queue q).cqTail))
      (s.entryBytes q c) []).entryQueued q rest (s.queue q).cqTail).entryCarried q (s.entryPair q)).coalesce q).entryGone
        q c) := by
  unfold State.writeEntry
  dsimp only
  rw [hdue]
  dsimp only
  rw [if_neg (by simp [hwants]), meetContext_clean hraw]
  dsimp only
  rw [if_neg (by simp)]
  rfl

theorem entryCarried_same {m : Nat} {z t : State} (hk : Same m z t) (h : 0x40 ||| m = m) (q pair : Nat) :
    Same m z (t.entryCarried q pair) := by
  unfold State.entryCarried
  split
  · exact carry1_same hk h _ _
  · exact hk

theorem entryCarried_tx (s : State) (q pair : Nat) : (s.entryCarried q pair).ep.tx = s.ep.tx := by
  unfold State.entryCarried
  split <;> rfl

/-! A write of a few bytes is one packet (R332). -/

theorem splitRange_one {fuel max addr len : Nat} (h0 : 0 < len) (hmax : len ≤ max) (hpage : addr % 4096 + len ≤ 4096) :
    splitRange (fuel + 2) max addr len = [(addr, len)] := by
  unfold splitRange
  rw [if_neg (by omega), Nat.min_eq_left (show len ≤ min max (4096 - addr % 4096) by omega)]
  dsimp only
  rw [Nat.sub_self, splitRange, if_pos rfl]

theorem mps_ge (s : State) : 128 ≤ s.mps := by
  unfold State.mps
  exact Nat.le_mul_of_pos_right _ (Nat.two_pow_pos _)

/-- An aligned write of 16 bytes leaves as one packet, which carries no mark. -/
theorem sendWrite_entry {s : State} (hl : s.ep.linkUp = true) (pair : Nat) {a : Addr} {data : List Byte}
    (hlen : data.length = 16) (ha : a.toNat % 16 = 0) :
    (s.sendWrite pair a data []).ep.tx = s.ep.tx ++ [.memWrite pair a data false] := by
  have hmps := mps_ge s
  have hmarks : ∀ n : Nat, restN n ([] : List Bool) = [] := fun n => by rw [restN_eq_drop, List.drop_nil]
  have hnone : ∀ n : Nat, firstN n ([] : List Bool) = [] := fun n => by rw [firstN_eq_take, List.take_nil]
  have hall : firstN 16 data = data := by rw [firstN_eq_take, List.take_of_length_le (by omega)]
  unfold State.sendWrite
  rw [hlen, splitRange_one (by omega) (by omega) (by omega), List.foldl_cons, List.foldl_nil]
  dsimp only
  rw [Nat.sub_self, hmarks, hnone, restN, hall, BitVec.ofNat_toNat, BitVec.setWidth_eq]
  exact send_tx hl _

theorem entryBytes_length (s : State) (q : Nat) (c : Completion) : (s.entryBytes q c).length = 16 := by
  unfold State.entryBytes
  simp only [List.length_append, length_leBytes]

/-- The address of an entry of an aligned completion queue. -/
theorem entryAddr_mod {base : Nat} (h : base % 16 = 0) (tail : Nat) :
    (BitVec.ofNat 64 (base + 16 * tail)).toNat % 16 = 0 := by
  rw [BitVec.toNat_ofNat]
  omega

/-! A tag that becomes FREE stays so while its frame goes to others (R64, R197). -/

theorem modFrame_tag (s : State) (f : Nat) (g : Frame → Frame) (j : Nat) : (s.modFrame f g).tag j = s.tag j := by
  unfold State.tag
  rw [(modFrame_same (m := 0x8000) (Same.refl _ s) rfl f g).tags rfl]

theorem giveRebuild_st (s : State) (k f j : Nat) : ((s.giveRebuild k f).tag j).st = (s.tag j).st := by
  unfold State.giveRebuild State.takeFrame
  rw [modTag_get, modFrame_tag]
  split <;> rfl

theorem grantFramesN_st (fuel n j : Nat) (s : State) : ((s.grantFramesN fuel n).tag j).st = (s.tag j).st := by
  induction fuel generalizing s with
  | zero => rfl
  | succ fuel ih =>
    unfold State.grantFramesN
    split
    · rfl
    · split
      · rfl
      · rw [ih, giveRebuild_st]
      · extract_lets first granted asked named
        have hasked : asked.tag j = s.tag j := by
          unfold State.tag
          rw [(modWork_same (m := 0x9000) (takeFrame_same (Same.refl _ s) rfl _ _) rfl _ _).tags rfl]
        split
        · rw [ih, giveRebuild_st]
        · rw [ih]
          unfold named
          split
          · rw [modTag_get, hasked]
            split <;> rfl
          · rw [hasked]

theorem raise_tag (s : State) (n j : Nat) : (s.raise n).tag j = s.tag j := by
  unfold State.tag
  rw [(raise_same (m := 0x38080000010) (Same.refl _ s) rfl n).tags rfl]

theorem freeNow_st (s : State) (f j : Nat) : ((s.freeNow f).tag j).st = (s.tag j).st := by
  unfold State.freeNow State.grantFrames
  extract_lets n init freed limited
  have hfreed : freed.tag j = s.tag j := modFrame_tag ..
  have hlimited : limited.tag j = s.tag j := by
    unfold limited
    split
    · rw [raise_tag, hfreed]
    · exact hfreed
  rw [grantFramesN_st, hlimited]

theorem freeF_st (s : State) (f j : Nat) : ((s.freeF f).tag j).st = (s.tag j).st := by
  unfold State.freeF State.freeFrame
  split
  · rw [modFrame_tag]
  · exact freeNow_st s f j

theorem obtSweep_tag (s : State) (j : Nat) : s.obtSweep.tag j = s.tag j := by
  unfold State.tag
  rw [(obtSweep_same (m := 0x280000) (Same.refl _ s) rfl).tags rfl]

theorem raiseCarry_tag (s : State) (j : Nat) : s.raiseCarry.tag j = s.tag j := by
  unfold State.tag
  rw [(raiseCarry_same (m := 0x38080000010) (Same.refl _ s) rfl).tags rfl]

theorem freeTag_st (s : State) (k : Nat) : ((s.freeTag k).tag k).st = .free := by
  have hset : ((((s.tagTo k .free).setTag k Tag.init).tag k)).st = .free := by rw [setTag_get, if_pos rfl]; rfl
  unfold State.freeTag
  dsimp only
  generalize (s.tagTo k .free).setTag k Tag.init = u at hset ⊢
  have hframe : ∀ v : State, (v.tag k).st = .free → ((if (s.tag k).runOn && v.obtSweep.runningOn == 0 then
      v.obtSweep.raiseCarry else v.obtSweep).tag k).st = .free := by
    intro v hv
    split
    · rw [raiseCarry_tag, obtSweep_tag, hv]
    · rw [obtSweep_tag, hv]
  apply hframe
  split
  · exact hset
  · split
    · exact hset
    · split
      · rw [freeF_st, hset]
      · split
        · rw [modFrame_tag, hset]
        · exact hset

/-- A tag whose operation has ended and whose completion is written becomes FREE (R64). -/
theorem settle_free {s : State} {k : Nat} (hcommitted : (s.tag k).committed = true) (hended : (s.tag k).ended = true)
    (hadding : (s.tag k).adding = false) (hdue : s.isDue (s.tag k).sqid k = false) : ((s.settle k).tag k).st = .free := by
  unfold State.settle
  dsimp only
  split
  · next h => simpa [hcommitted, hended, hadding] using h
  · rw [hdue, if_neg (by simp), freeTag_st]

end Sys2Proof.Machine
end

section
/-! The commands of the traffic of the queues, one by one (R22, R24, R47 to R50, R59 to R63). -/

namespace Sys2Proof.Machine
open Sys2Proof

/-! SQ_FETCH (R47). -/

/-- The reads of a fetch: they leave, each takes a tag and a slot of its pair, and the next fetch starts after them. -/
theorem sqFetch_wanted {s : State} {q : Nat} (hq : q < 32768) (hactive : (s.queue q).st = .active)
    (hpush : s.qPush q = false) (hmay : s.mayIssue = true) (hcount : s.fetchCount q ≠ 0) (hraw : s.rawGroups = [])
    (htags : (s.fetchReads q).length ≤ s.freeReqTags) (hslot : s.slotFor (.pair (q % s.build.pairs)) 2 = true) :
    ∃ t, exec (.sqFetch q) s = .next t ∧
      (t.queue q).fetchNext = ((s.queue q).fetchNext + s.fetchCount q) % s.sqDepth q ∧
      (∀ k, k ≠ q → t.queue k = s.queue k) ∧ t.ep.tx.length = s.ep.tx.length + (s.fetchReads q).length ∧
      (∀ id r, SMap.get s.ep.reqs id = some r → SMap.get t.ep.reqs id = some r) ∧
      (∀ a n r, s.fetchReads q = [(a, n)] → s.freeReqTag = some r →
        t.ep.tx = s.ep.tx ++ [.memRead (q % s.build.pairs) r (BitVec.ofNat 64 a) n] ∧
        SMap.get t.ep.reqs r = some { user := .sqFetch q ((a - s.sqBase q) / 64) (n / 64),
                                      pair := q % s.build.pairs, addr := BitVec.ofNat 64 a, len := n }) ∧
      t.wheels = (s.slotsGone (.pair (q % s.build.pairs)) (s.fetchReads q).length).wheels ∧
      t = { s with queues := t.queues, ep := t.ep, wheels := t.wheels } := by
  obtain ⟨_, _, hlink⟩ := mayIssue_iff.1 hmay
  have hwants : s.wantsSq q = true := wantsSq_iff.2 ⟨hactive, hpush, hmay, hcount, htags⟩
  have hmoved := fetchMoved_same s q
  have hep : (s.fetchMoved q).ep = s.ep := hmoved.ep rfl
  have hissued : Same 0xC0 s (s.fetchSq q) := by
    rw [fetchSq_eq hraw]
    exact issueReads_same (modQueue_same (Same.refl _ s) rfl q _) rfl _ _ _
  have hqueue (k : Nat) : (s.fetchSq q).queue k = (s.fetchMoved q).queue k := by
    unfold State.queue
    rw [fetchSq_eq hraw, (issueReads_same (m := 0x40) (Same.refl _ _) rfl _ _ _).queues rfl]
  obtain ⟨htx, hreqs, hkeep⟩ := issueReads_all (s.queuePair q)
    (fun a n => .sqFetch q ((a - s.sqBase q) / 64) (n / 64)) (s.fetchReads q) (s := s.fetchMoved q)
    (by rw [hep]; exact hlink) (by rw [hmoved.freeReqTags rfl rfl]; exact htags)
  rw [← fetchSq_eq hraw, hep] at htx hreqs hkeep
  have hslots : (s.fetchSq q).slotsRead (.pair (s.queuePair q)) s =
      (s.fetchSq q).slotsGone (.pair (s.queuePair q)) (s.fetchReads q).length := by
    unfold State.slotsRead
    rw [hreqs, Nat.add_sub_cancel_left]
  refine ⟨_, (exec_sqFetch hq hwants hslot).trans (congrArg _ hslots), ?_, fun k hk => ?_, htx, hkeep, ?_, ?_, ?_⟩
  · show ((s.fetchSq q).queue q).fetchNext = _
    rw [hqueue, State.fetchMoved, modQueue_get, if_pos rfl]
  · show (s.fetchSq q).queue k = _
    rw [hqueue, State.fetchMoved, modQueue_get, if_neg (Ne.symm hk)]
  · intro a n r hone hfree
    have hfree' : (s.fetchMoved q).freeReqTag = some r := by rw [hmoved.freeReqTag rfl rfl]; exact hfree
    have hread : s.fetchSq q = (s.fetchMoved q).issueRead (s.queuePair q)
        (.sqFetch q ((a - s.sqBase q) / 64) (n / 64)) (BitVec.ofNat 64 a) n := by
      rw [fetchSq_eq hraw, hone]
      rfl
    show (s.fetchSq q).ep.tx = _ ∧ SMap.get (s.fetchSq q).ep.reqs r = _
    rw [hread, issueRead_tx hfree' _ _ _ _ (by rw [hep]; exact hlink), issueRead_reqs hfree', SMap.get_insert, if_pos rfl,
      hep]
    exact ⟨rfl, rfl⟩
  · exact slotsGone_wheels (hissued.wheels rfl) _ _
  · refine (slotsGone_same ?_ rfl _ _).eq_of_fetch
    rw [fetchSq_eq hraw]
    exact issueReads_same (modQueue_same (Same.refl _ s) rfl q _) rfl _ _ _

theorem sqFetch_unwanted {s : State} {q : Nat} (h : (s.queue q).st ≠ .active ∨ s.fetchCount q = 0) :
    exec (.sqFetch q) s = .next s := by
  refine exec_sqFetch_idle (Bool.eq_false_iff.2 fun hwants => ?_)
  obtain ⟨hactive, _, _, hcount, _⟩ := wantsSq_iff.1 hwants
  exact h.elim (fun hne => hne hactive) hcount

/-! PUSH_WINDOW_WRITE (R48 to R50). -/

/-- A write into a slot that holds no packet joins the bytes of the slot (R48, R49). -/
theorem pushWrite_free {s : State} {w q off : Nat} {l : List Byte} (hw : s.windowQueue w = some q)
    (hlen : l.length ∈ [4, 8, 16, 32, 64]) (hmod : off % l.length = 0) (hend : off + l.length ≤ 4096)
    (hc : (s.pushSlot (64 * w + off / 64)).captured = false) :
    s.pushWrite w off l = some (s.setPushSlot (64 * w + off / 64)
      ((s.pushSlot (64 * w + off / 64)).write (off % 64) l)) := by
  unfold State.pushWrite
  rw [hw]
  dsimp only
  rw [List.contains_iff_mem.2 hlen, if_pos (by simp [hmod, hend]), if_neg (by simp [hc])]

/-- A broken push write is a violation (R48, R350). -/
theorem pushWindowWrite_broken {s : State} {w off : Nat} {l : List Byte} (hs : s.serving = true) (hw : w < 1024)
    (h : s.windowQueue w = none ∨ l.length ∉ [4, 8, 16, 32, 64] ∨ off % l.length ≠ 0 ∨ 4096 < off + l.length) :
    ∃ t, exec (.pushWindowWrite w off l) s = .next t ∧ isPending t 832 = true ∧ t.push = s.push ∧
      t.fld 0x180 31 16 = min (s.fld 0x180 31 16 + 1) 0xFFFF := by
  obtain ⟨hpend, hcount, -, hframe⟩ := violation_raised 3 2 (0x400000 + w * 0x1000 + off) l.length true false 0 hs
  refine ⟨_, exec_pushWindowWrite_violation hs hw (pushWrite_broken h), hpend, ?_, hcount⟩
  rw [hframe]

/-! COMPLETION_WRITE (R59 to R62). -/

/-- The state once the oldest entry of queue `q` has left and its message is counted, before its completion is done with. -/
def State.entryWritten (s : State) (q : Nat) (c : Completion) (rest : List Completion) : State :=
  (((s.sendWrite (s.entryPair q) (BitVec.ofNat 64 (s.cqBase q + 16 * (s.queue q).cqTail))
    (s.entryBytes q c) []).entryQueued q rest (s.queue q).cqTail).entryCarried q (s.entryPair q)).coalesce q

theorem entryWritten_same (s : State) (q : Nat) (c : Completion) (rest : List Completion) :
    Same 0xE0 s (s.entryWritten q c rest) :=
  coalesce_same (entryCarried_same (modQueue_same (sendWrite_same (Same.refl _ s) rfl _ _ _ _) rfl _ _) rfl _ _) rfl _

/-- The queue as its entry leaves: the next position, the phase and the registers then in force (R60, R61). -/
theorem entryWritten_queue (s : State) (q : Nat) (c : Completion) (rest : List Completion) :
    ((s.entryWritten q c rest).queue q).due = rest ∧
    ((s.entryWritten q c rest).queue q).cqTail = ((s.queue q).cqTail + 1) % s.cqDepth q ∧
    ((s.entryWritten q c rest).queue q).cfgSeen = s.reg (qcAt q + 0x14) ∧
    ((s.entryWritten q c rest).queue q).extSeen = s.reg (qcAt q + 0x18) ∧
    ((s.entryWritten q c rest).queue q).phase =
      (if ((s.queue q).cqTail + 1) % s.cqDepth q = 0 then !(s.queue q).phase else (s.queue q).phase) ∧
    (∀ k, k ≠ q → (s.entryWritten q c rest).queue k = s.queue k) := by
  have hsent := sendWrite_same (m := 0x60) (Same.refl _ s) rfl (s.entryPair q)
    (BitVec.ofNat 64 (s.cqBase q + 16 * (s.queue q).cqTail)) (s.entryBytes q c) []
  unfold State.entryWritten
  generalize s.sendWrite _ _ _ _ = u at hsent ⊢
  have hqueue (k : Nat) : ((u.entryQueued q rest (s.queue q).cqTail).entryCarried q (s.entryPair q)).queue k =
      if q = k then (s.queue k).afterEntry rest (((s.queue q).cqTail + 1) % s.cqDepth q) (s.reg (qcAt q + 0x14))
        (s.reg (qcAt q + 0x18)) else s.queue k := by
    have hu : u.queue k = s.queue k := by unfold State.queue; rw [hsent.queues rfl]
    have hreg (a : Nat) : u.reg a = s.reg a := by unfold State.reg; rw [hsent.regs rfl]
    have hdepth : u.cqDepth q = s.cqDepth q := by unfold State.cqDepth State.fld; rw [hreg]
    have hcarried : ∀ v : State, (v.entryCarried q (s.entryPair q)).queue k = v.queue k := fun v => by
      unfold State.queue
      rw [(entryCarried_same (m := 0x40) (Same.refl _ v) rfl _ _).queues rfl]
    rw [hcarried, State.entryQueued, modQueue_get, hu, hreg, hreg, hdepth]
  generalize (u.entryQueued q rest (s.queue q).cqTail).entryCarried q (s.entryPair q) = v at hqueue ⊢
  have hq := hqueue q
  rw [if_pos rfl] at hq
  obtain ⟨-, hdue, htail, hcfg, hext, hphase⟩ := coalesce_queue v q q
  rw [hdue, htail, hcfg, hext, hphase, hq]
  refine ⟨rfl, rfl, rfl, rfl, rfl, fun k hk => ?_⟩
  rw [(coalesce_queue v q k).1 hk, hqueue, if_neg (Ne.symm hk)]

theorem entryWritten_tx {s : State} {q : Nat} (hl : s.ep.linkUp = true) (hbase : s.cqBase q % 16 = 0) (c : Completion)
    (rest : List Completion) : (s.entryWritten q c rest).ep.tx = s.ep.tx ++ [.memWrite (s.entryPair q)
      (BitVec.ofNat 64 (s.cqBase q + 16 * (s.queue q).cqTail)) (s.entryBytes q c) false] := by
  unfold State.entryWritten
  rw [coalesce_tx, entryCarried_tx, State.entryQueued, (modQueue_fields ..).2.2.2.2.2.2.1,
    sendWrite_entry hl _ (entryBytes_length s q c) (entryAddr_mod hbase _)]

theorem entryGone_slot {s : State} {c : Completion} {j : Nat} (htag : c.tag = none) (hslot : c.slot = some j) (q : Nat) :
    SMap.get (s.entryGone q c).slots j = none := by
  unfold State.entryGone
  dsimp only
  rw [htag, hslot]
  show SMap.get (SMap.erase _ j) j = none
  rw [SMap.get_erase, if_pos rfl]

/-- A tag is free once its operation has ended and the entry that names it, the only one of its queue, is done with. -/
theorem entryGone_tag {s : State} {c : Completion} {k : Nat} (htag : c.tag = some k)
    (hcommitted : (s.tag k).committed = true) (hended : (s.tag k).ended = true) (hadding : (s.tag k).adding = false)
    (hdue : ∀ d, d ∈ (s.queue (s.tag k).sqid).due → d.tag ≠ some k) (q : Nat) :
    ((s.entryGone q c).tag k).st = .free := by
  have htraced := traceCompletion_same (m := 0x8000000010) (Same.refl _ s) rfl q c
  have htags : (s.traceCompletion q c).tag k = s.tag k := by unfold State.tag; rw [htraced.tags rfl]
  unfold State.entryGone
  dsimp only
  rw [htag]
  refine settle_free (by rw [htags]; exact hcommitted) (by rw [htags]; exact hended) (by rw [htags]; exact hadding) ?_
  unfold State.isDue
  rw [htags, List.any_eq_false]
  unfold State.queue at hdue ⊢
  rw [htraced.queues rfl]
  intro d hd
  simpa using hdue d hd

/-- The next entry of a queue is written (R59 to R61), and its completion is done with (R64). -/
theorem writeEntry_done {s : State} {q : Nat} {c : Completion} {rest : List Completion}
    (hdue : (s.queue q).due = c :: rest) (hwants : s.wantsCq q = true) (hraw : s.rawGroups = []) :
    ∃ t, s.writeEntry q = t ∧ (t.queue q).due = rest ∧
      (t.queue q).cqTail = ((s.queue q).cqTail + 1) % s.cqDepth q ∧
      (t.queue q).cfgSeen = s.reg (qcAt q + 0x14) ∧ (t.queue q).extSeen = s.reg (qcAt q + 0x18) ∧
      (t.queue q).phase = (if ((s.queue q).cqTail + 1) % s.cqDepth q = 0 then !(s.queue q).phase
        else (s.queue q).phase) ∧
      (∀ k, k ≠ q → t.queue k = s.queue k) ∧
      (s.cqBase q % 16 = 0 → t.ep.tx = s.ep.tx ++ [.memWrite (s.entryPair q)
        (BitVec.ofNat 64 (s.cqBase q + 16 * (s.queue q).cqTail)) (s.entryBytes q c) false]) ∧
      (∀ j, c.tag = none → c.slot = some j → SMap.get t.slots j = none) ∧
      (∀ k, c.tag = some k → (s.tag k).committed = true → (s.tag k).ended = true → (s.tag k).adding = false →
        (s.tag k).sqid = q → (∀ d, d ∈ rest → d.tag ≠ some k) → (t.tag k).st = .free) := by
  obtain ⟨_, _, _, hmay⟩ := wantsCq_iff.1 hwants
  obtain ⟨_, _, hlink⟩ := mayIssue_iff.1 hmay
  have hwritten := entryWritten_same s q c rest
  have hq := entryWritten_queue s q c rest
  have htx := fun hbase : s.cqBase q % 16 = 0 => entryWritten_tx hlink hbase c rest
  refine ⟨_, writeEntry_eq hdue hwants hraw, ?_⟩
  rw [← State.entryWritten]
  generalize s.entryWritten q c rest = u at hwritten hq htx ⊢
  have hgone := entryGone_same (m := 0x38080289c10) (Same.refl _ u) rfl q c
  have hqueue (k : Nat) : (u.entryGone q c).queue k = u.queue k := by unfold State.queue; rw [hgone.queues rfl]
  rw [hqueue, hgone.ep rfl]
  obtain ⟨hrest, htail, hcfg, hext, hphase, hothers⟩ := hq
  refine ⟨hrest, htail, hcfg, hext, hphase, fun k hk => (hqueue k).trans (hothers k hk), htx,
    fun j htag hslot => entryGone_slot htag hslot q, ?_⟩
  intro k htag hcommitted hended hadding hsqid hnone
  have htags : u.tag k = s.tag k := by unfold State.tag; rw [hwritten.tags rfl]
  refine entryGone_tag htag ?_ ?_ ?_ ?_ q <;> rw [htags]
  · exact hcommitted
  · exact hended
  · exact hadding
  · rw [hsqid, hrest]
    exact hnone

theorem exec_completionWrite {s : State} {q : Nat} (hq : q < 32768) (hwants : s.wantsCq q = true)
    (hslot : s.slotFor (.pair (s.entryPair q)) 3 = true) :
    exec (.completionWrite q) s = .next ((s.slotGone (.pair (s.entryPair q))).writeEntry q) := by
  obtain ⟨_, _, _, hmay⟩ := wantsCq_iff.1 hwants
  obtain ⟨hhost, _, _⟩ := mayIssue_iff.1 hmay
  show execCompletionWrite q s = _
  simp [execCompletionWrite, queueOk, hq, hwants, hslot, hhost]

/-! COALESCING_TIMEOUT (R63). -/

theorem coalescingTimeout_due {s : State} {q : Nat} (hq : q < 32768) (hhost : s.hostWorks = true)
    (hvector : bitOf (s.queue q).cfgSeen.toNat 20 = true) (htime : wfld (s.queue q).extSeen 31 24 ≠ 0)
    (hwaits : 0 < (s.queue q).unsignalled) : exec (.coalescingTimeout q) s =
      .next ((s.setQueue q { s.queue q with unsignalled := 0 }).askMsix (wfld (s.queue q).cfgSeen 31 21)) := by
  show execCoalescingTimeout q s = _
  unfold execCoalescingTimeout
  rw [if_pos (by simp [queueOk, hhost, hq, hvector, htime, hwaits])]
  rfl

end Sys2Proof.Machine

namespace Sys2Proof
open Machine

/-- Settles O27: fetches and completion entries are followed through the packets they send and the tags and queues they
move on, the others through the branches of their commands. -/
theorem queueTrafficComplete : Obligations.QueueTrafficComplete := by
  unfold Obligations.QueueTrafficComplete
  refine ⟨?_, ?_, ?_, ?_, ?_, ?_⟩
  · intro s q hq hactive hpush hmay hcount hraw htags hslot
    exact sqFetch_wanted hq hactive hpush hmay hcount hraw htags hslot
  · intro s q h
    exact sqFetch_unwanted h
  · intro s q w off data hs hw hwindow hlen hmod hend
    exact ⟨fun hfree => exec_pushWindowWrite hs hw (pushWrite_free hwindow hlen hmod hend hfree),
      fun hheld => exec_pushWindowWrite hs hw (pushWrite_overrun hwindow hlen hmod hend hheld)⟩
  · intro s w off data hs hw h
    exact pushWindowWrite_broken hs hw h
  · intro s q c rest hq hdue hst hfull hmay hraw hslot
    have hwants : s.wantsCq q = true := wantsCq_iff.2 ⟨by rw [hdue]; exact List.cons_ne_nil _ _, hst, hfull, hmay⟩
    obtain ⟨t, ht, hdone⟩ := writeEntry_done (s := s.slotGone (.pair (s.entryPair q))) hdue hwants hraw
    exact ⟨t, ht ▸ exec_completionWrite hq hwants hslot, hdone⟩
  · intro s q hq hhost hvector htime hwaits
    exact coalescingTimeout_due hq hhost hvector htime hwaits

end Sys2Proof
end

section
/-! What the bus jobs, the works and the resets of a channel leave of its page and of its settings (R16, R31, R135, R176,
R180). -/

namespace Sys2Proof.Machine
open Sys2Proof

/-- The settings of a channel: what its bus, its message and data FIFOs and its decoders leave. -/
def Chan.still (c : Chan) : Chan :=
  { c with msgs := [], msgDrop := false, msgOpen := false, ingress := [], ingressWork := none, egress := [], egressWork := none
           soft := none, bus := Bus.init, hard := [], hardCfg := DecodeCfg.init }

/-- The pages of the channels and the settings of every channel are as they were. -/
structure Quiet (s t : State) : Prop where
  reg : ∀ a, 0x1000000 ≤ a → t.reg a = s.reg a
  chan : ∀ j, (t.chan j).still = (s.chan j).still

theorem Quiet.refl (s : State) : Quiet s s := ⟨fun _ _ => rfl, fun _ => rfl⟩

theorem Quiet.trans {s t u : State} (h : Quiet s t) (h' : Quiet t u) : Quiet s u :=
  ⟨fun a ha => (h'.reg a ha).trans (h.reg a ha), fun j => (h'.chan j).trans (h.chan j)⟩

/-- Nothing but other fields than the registers and the channels has changed. -/
theorem Quiet.of_others {s t : State} (h : Same 0x7FFFFFFFBFEF s t) : Quiet s t where
  reg a _ := by unfold State.reg; rw [h.regs rfl]
  chan j := by unfold State.chan; rw [h.chans rfl]

/-- A part that leaves the channels and, of the registers, only those of the trace and of the controller. -/
theorem Quiet.of_regs {s t : State} (hreg : ∀ a, raiseReg a = false → t.reg a = s.reg a)
    (h : t.chans = s.chans) : Quiet s t where
  reg a ha := hreg a (by simp only [raiseReg, traceReg, Bool.or_eq_false_iff, beq_eq_false_iff_ne, Bool.and_eq_false_iff,
    decide_eq_false_iff_not]; omega)
  chan j := by unfold State.chan; rw [h]

theorem Quiet.ite {s t u : State} {p : Prop} [Decidable p] (ht : Quiet s t) (hu : Quiet s u) :
    Quiet s (if p then t else u) := by
  split
  · exact ht
  · exact hu

theorem Quiet.foldl {α : Type} {f : State → α → State} (hf : ∀ s x, Quiet s (f s x)) (l : List α) (s : State) :
    Quiet s (l.foldl f s) := by
  induction l generalizing s with
  | nil => exact Quiet.refl s
  | cons x l ih => exact (hf s x).trans (ih _)

theorem modChan_quiet (s : State) (n : Nat) {f : Chan → Chan} (hf : ∀ c, (f c).still = c.still) :
    Quiet s (s.modChan n f) where
  reg _ _ := by unfold State.reg; rw [(modChan_fields s n f).2.2.2.2.1]
  chan j := by
    rw [modChan_get]
    split
    · exact hf _
    · rfl

theorem traceRec_quiet (s : State) (ty cls unit : Nat) (c : Bool) (p : Nat) (q : Option Nat) :
    Quiet s (s.traceRec ty cls unit c p q) :=
  Quiet.of_regs (fun _ ha => traceRec_reg _ _ _ _ _ _ _ _ (raiseReg_trace ha))
    ((traceRec_same (m := 0x8000000010) (Same.refl _ s) rfl ty cls unit c p q).chans rfl)

theorem raise_quiet (s : State) (k : Nat) : Quiet s (s.raise k) :=
  Quiet.of_regs (fun _ ha => raise_reg _ _ _ ha) ((raise_same (m := 0x38080000010) (Same.refl _ s) rfl k).chans rfl)

/-! Bus jobs, START and ABANDON move the bus and the messages of their channel (R163, R176, R180). -/

/-- The channel `c` with the bus and the message FIFO of `d`. -/
def Chan.talked (c d : Chan) : Chan :=
  { c with bus := d.bus, msgs := d.msgs, msgOpen := d.msgOpen, msgDrop := d.msgDrop }

/-- A channel has only moved its bus and its messages; the other channels stand as they were. -/
structure Talks (n : Nat) (s t : State) : Prop where
  reg : ∀ a, raiseReg a = false → t.reg a = s.reg a
  own : t.chan n = (s.chan n).talked (t.chan n)
  others : ∀ j, j ≠ n → t.chan j = s.chan j

theorem Talks.of_chans {n : Nat} {s t : State} (hreg : ∀ a, raiseReg a = false → t.reg a = s.reg a)
    (h : t.chans = s.chans) : Talks n s t where
  reg := hreg
  own := by unfold State.chan; rw [h]; rfl
  others j _ := by unfold State.chan; rw [h]

theorem Talks.refl (n : Nat) (s : State) : Talks n s s := Talks.of_chans (fun _ _ => rfl) rfl

theorem Talks.trans {n : Nat} {s t u : State} (h : Talks n s t) (h' : Talks n t u) : Talks n s u where
  reg a ha := (h'.reg a ha).trans (h.reg a ha)
  own := by
    have htu := h'.own
    rw [h.own] at htu
    exact htu
  others j hj := (h'.others j hj).trans (h.others j hj)

theorem Talks.quiet {n : Nat} {s t : State} (h : Talks n s t) : Quiet s t where
  reg a ha := h.reg a (by simp only [raiseReg, traceReg, Bool.or_eq_false_iff, beq_eq_false_iff_ne, Bool.and_eq_false_iff,
    decide_eq_false_iff_not]; omega)
  chan j := by
    by_cases hj : j = n
    · rw [hj, h.own]; rfl
    · rw [h.others j hj]

theorem Talks.foldl {α : Type} {n : Nat} {f : State → α → State} (hf : ∀ s x, Talks n s (f s x)) (l : List α) (s : State) :
    Talks n s (l.foldl f s) := by
  induction l generalizing s with
  | nil => exact Talks.refl n s
  | cons x l ih => exact (hf s x).trans (ih _)

theorem modChan_talks (s : State) (n : Nat) {f : Chan → Chan} (hf : ∀ c, f c = c.talked (f c)) : Talks n s (s.modChan n f) where
  reg _ _ := by unfold State.reg; rw [(modChan_fields s n f).2.2.2.2.1]
  own := by rw [modChan_get, if_pos rfl]; exact hf _
  others j hj := by rw [modChan_get, if_neg (Ne.symm hj)]

theorem traceRec_talks (n : Nat) (s : State) (ty cls unit : Nat) (c : Bool) (p : Nat) (q : Option Nat) :
    Talks n s (s.traceRec ty cls unit c p q) :=
  Talks.of_chans (fun _ ha => traceRec_reg _ _ _ _ _ _ _ _ (raiseReg_trace ha))
    ((traceRec_same (m := 0x8000000010) (Same.refl _ s) rfl ty cls unit c p q).chans rfl)

theorem entryOn_talks (s : State) (n fuel : Nat) (input : List Byte) : Talks n s (s.entryOn n fuel input) := by
  unfold State.entryOn
  split
  · exact Talks.refl n s
  · extract_lets c q told
    have htold : Talks n s told := by
      unfold told
      exact Talks.foldl (fun s m => traceRec_talks ..) _ s
    clear_value told
    have hfresh : Talks n told { told with fresh := q.fresh } := Talks.of_chans (fun _ _ => rfl) rfl
    exact htold.trans (hfresh.trans (modChan_talks _ _ fun _ => rfl))

theorem runEntry_talks (s : State) (n e fuel : Nat) : Talks n s (s.runEntry n e fuel) := by
  unfold State.runEntry
  dsimp only
  split
  · exact modChan_talks _ _ fun _ => rfl
  · exact (modChan_talks _ _ fun _ => rfl).trans (entryOn_talks ..)

theorem busJob_talks (s : State) (n e : Nat) (args : List Word) (work : Option Nat) (lun : Nat) (run : Bool)
    (cycles : List BusCycle) : Talks n s (s.busJob n e args work lun run cycles) := by
  have hfresh : Talks n s { s with fresh := s.fresh + 1 } := Talks.of_chans (fun _ _ => rfl) rfl
  unfold State.busJob
  refine hfresh.trans ?_
  extract_lets pins
  exact modChan_talks _ _ fun _ => rfl

theorem startTrain_talks (s : State) (n : Nat) : Talks n s (s.startTrain n) := by
  unfold State.startTrain
  dsimp only
  split
  · exact Talks.refl n s
  · exact (traceRec_talks ..).trans (busJob_talks ..)

/-! The bus jobs of a discovery and of a training (R122, R135). -/

theorem traceJob_quiet (s : State) (n order entry lun : Nat) (tag : Option Nat) :
    Quiet s (s.traceJob n order entry lun tag) := traceRec_quiet ..

theorem busJob_quiet (s : State) (n e : Nat) (args : List Word) (work : Option Nat) (lun : Nat) (run : Bool)
    (cycles : List BusCycle) : Quiet s (s.busJob n e args work lun run cycles) := (busJob_talks ..).quiet

theorem busEnds_quiet (s : State) (n : Nat) : Quiet s (s.busEnds n) := modChan_quiet _ _ fun _ => rfl

theorem startTrain_quiet (s : State) (n : Nat) : Quiet s (s.startTrain n) := (startTrain_talks s n).quiet

theorem ownFeatures_quiet (s : State) (n : Nat) (l : List (BitVec 8)) : Quiet s (s.ownFeatures n l) := by
  unfold State.ownFeatures
  refine Quiet.foldl (fun s t => Quiet.foldl (fun s a => ?_) _ s) _ s
  exact (traceJob_quiet ..).trans (busJob_quiet ..)

theorem identify_quiet (s : State) (n : Nat) (found : List TargetReport) : Quiet s (s.identify n found) := by
  have hjob (s : State) (order e lun : Nat) (args : List Word) (l : List BusCycle) :
      Quiet s ((s.traceJob n order e lun none).busJob n e args none lun false l) :=
    (traceJob_quiet ..).trans (busJob_quiet ..)
  unfold State.identify
  refine Quiet.foldl (fun s t => ?_) _ s
  extract_lets job
  split
  · exact hjob ..
  · next r _ =>
    extract_lets first second
    have hfirst : Quiet s first := hjob ..
    have hsecond : Quiet s second := Quiet.ite hfirst (hfirst.trans (hjob ..))
    split
    · exact hsecond
    · exact hsecond.trans (hjob ..)

/-! The end of a piece of work (R64, R176). -/

theorem truncateMsg_still (c : Chan) : c.truncateMsg.still = c.still := by
  unfold Chan.truncateMsg
  split
  · dsimp only
    split
    · split <;> rfl
    · rfl
  · rfl

/-- What the end of a work does to the FIFOs and decoders of its channel. -/
theorem endWork_chan_still (c : Chan) (id : Nat) (cfg : DecodeCfg) (runs : Bool) :
    (let c := if c.ingressWork = some id then { c with ingress := [], ingressWork := none } else c
     let c := if c.egressWork = some id then { c with egress := [], egressWork := none } else c
     let c := c.hardDrop id cfg
     let c := if runs then c.truncateMsg else c
     (match c.soft with | some b => if b.work = id then { c with soft := none } else c | none => c)).still = c.still := by
  extract_lets c1 c2 c3 c4
  have h1 : c1.still = c.still := by unfold c1; split <;> rfl
  have h2 : c2.still = c1.still := by unfold c2; split <;> rfl
  have h3 : c3.still = c2.still := rfl
  have h4 : c4.still = c3.still := by
    unfold c4
    split
    · exact truncateMsg_still c3
    · rfl
  have hall : c4.still = c.still := h4.trans (h3.trans (h2.trans h1))
  split
  · split
    · exact hall
    · exact hall
  · exact hall

theorem endWork_quiet (s : State) (id : Nat) : Quiet s (s.endWork id) := by
  unfold State.endWork
  split
  · exact Quiet.refl s
  · next w _ =>
    extract_lets runs s1 s2 s3 s4 s5 sent s6 s7
    have h1 : Same 0x7FFFFFFFBFEF s s1 := withdraw_same (Same.refl _ s) rfl id
    have h2 : Same 0x7FFFFFFFBFEF s s2 := Same.ite h1 (releaseUnused_same h1 rfl id)
    have h3 : Quiet s s3 := Quiet.of_others (modLun_same h2 rfl _ _)
    have h4 : Quiet s3 s4 := modChan_quiet _ _ fun c => endWork_chan_still c id _ runs
    clear_value s4
    have h5 : Quiet s4 s5 := ⟨fun _ _ => rfl, fun _ => rfl⟩
    clear_value s5
    have h6 : Quiet s5 s6 := Quiet.ite (Quiet.of_others (modLun_same (Same.refl _ s5) rfl _ _)) (Quiet.refl s5)
    have h7 : Quiet s6 s7 := Quiet.ite (runEntry_talks ..).quiet (Quiet.refl s6)
    exact (h3.trans (h4.trans (h5.trans (h6.trans h7)))).trans
      (Quiet.of_others (dropWork_same (Same.refl _ s7) rfl id))

theorem dropResets_quiet (s : State) (n : Nat) : Quiet s (s.dropResets n) := by
  unfold State.dropResets
  refine Quiet.foldl (fun s e => ?_) _ s
  extract_lets atDie
  have hgrants : Quiet s (if atDie then s else s.releaseGrants (fun g => g.work == e.1)) :=
    Quiet.ite (Quiet.refl s) (Quiet.of_others (releaseGrants_same (Same.refl _ s) rfl _))
  exact hgrants.trans (endWork_quiet ..)

/-! Channel reset (R16, R354). -/

theorem stagingAbandon_quiet (s : State) {n : Nat} (hn : n < 256) : Quiet s (s.stagingAbandon n) := by
  refine Quiet.ite (Quiet.refl s) ⟨fun a ha => ?_, fun _ => rfl⟩
  unfold State.setArrBit
  rw [setBit_reg _ _ _ _ _ (by omega), setBit_reg _ _ _ _ _ (by omega), setBit_reg _ _ _ _ _ (by omega)]

theorem testReset_quiet (s : State) (n : Nat) : Quiet s (s.testReset n) :=
  Quiet.of_others (testReset_same (Same.refl _ s) rfl n)

/-- A register of a channel's page that a channel reset keeps. -/
def keptReg (n a : Nat) : Prop :=
  0x1000000 ≤ a ∧ chanPage n + 4 ≠ a ∧ chanPage n + 0x804 ≠ a ∧ chanPage n + 0xAC ≠ a

/-- A channel as its island enters channel reset. -/
def Chan.held (c : Chan) : Chan := { c with inReset := true, cal := { c.cal with runs := 0, prev := none } }

theorem resetChanPage_reg (s : State) {n a : Nat} (h : keptReg n a) : (s.resetChanPage n).reg a = s.reg a := by
  obtain ⟨_, hctrl, hstore, htrack⟩ := h
  unfold State.resetChanPage
  rw [setFld_reg, if_neg htrack, setBit_reg _ _ _ _ _ hstore, setBit_reg _ _ _ _ _ hctrl]

end Sys2Proof.Machine
end

section
/-! How a training of a channel starts (R16, R132, R135 to R137). -/

namespace Sys2Proof.Machine
open Sys2Proof

section
variable {n : Nat} (hn : n < 256)
include hn

theorem enterReset_reg (s : State) {a : Nat} (h : keptReg n a) : (s.enterReset n).reg a = s.reg a := by
  obtain ⟨ha, _⟩ := id h
  unfold State.enterReset
  extract_lets u
  have hu : u.reg a = s.reg a := by
    unfold State.reg u
    rw [(modChan_fields _ n _).2.2.2.2.1]
    exact (resetChanPage_reg _ h).trans (((testReset_quiet s n).trans (stagingAbandon_quiet _ hn)).reg a ha)
  rw [(Quiet.foldl (fun u l => Quiet.of_others (modLun_same (Same.refl _ u) rfl _ _)) _ u).reg a ha, hu]

theorem enterReset_chan (s : State) : ((s.enterReset n).chan n).still = (s.chan n).held.still := by
  have hquiet := (testReset_quiet s n).trans (stagingAbandon_quiet (s.testReset n) hn)
  unfold State.enterReset
  generalize (s.testReset n).stagingAbandon n = v at hquiet ⊢
  have hpage : (v.resetChanPage n).chan n = v.chan n := by
    unfold State.chan
    rw [(resetChanPage_same (m := 0x10) (Same.refl _ v) rfl n).chans rfl]
  generalize v.resetChanPage n = w at hpage ⊢
  extract_lets u
  have hu : (u.chan n).still = (s.chan n).held.still := by
    unfold u
    rw [modChan_get, if_pos rfl, hpage]
    exact congrArg Chan.held (hquiet.chan n)
  rw [(Quiet.foldl (fun u l => Quiet.of_others (modLun_same (Same.refl _ u) rfl _ _)) _ u).chan n, hu]

/-- A channel as a training of it starts. -/
def Chan.begun (c : Chan) (rate mode : Nat) (why : TrainWhy) (relock : Bool) : Chan :=
  if relock then (c.trimAll.toTrain rate mode why).held else c.trimAll.toTrain rate mode why

theorem beginTrain_reg (s : State) (rate mode : Nat) (why : TrainWhy) (relock : Bool) {a : Nat} (h : keptReg n a) :
    (s.beginTrain n rate mode why relock).reg a = s.reg a := by
  obtain ⟨ha, _⟩ := id h
  unfold State.beginTrain
  extract_lets u
  have hu : u.reg a = s.reg a := by unfold State.reg u; rw [(modChan_fields _ n _).2.2.2.2.1]
  clear_value u
  split
  · rw [State.stepTwo, enterReset_reg hn _ h, (ownFeatures_quiet u n _).reg a ha, hu]
  · rw [(startTrain_quiet u n).reg a ha, hu]

theorem beginTrain_chan (s : State) (rate mode : Nat) (why : TrainWhy) (relock : Bool) :
    ((s.beginTrain n rate mode why relock).chan n).still = ((s.chan n).begun rate mode why relock).still := by
  unfold State.beginTrain Chan.begun
  extract_lets u
  have hu : u.chan n = (s.chan n).trimAll.toTrain rate mode why := by unfold u; rw [modChan_get, if_pos rfl]
  clear_value u
  split
  · rw [State.stepTwo, enterReset_chan hn]
    exact congrArg Chan.held ((ownFeatures_quiet u n _).chan n |>.trans (congrArg Chan.still hu))
  · rw [(startTrain_quiet u n).chan n, hu]

/-- What the start of a training says of its channel: it trains for the rate and mode, in channel reset where the clock
relocks, with its trim steps applied (R16, R135, R430). -/
theorem beginTrain_settings (s : State) (rate mode : Nat) (why : TrainWhy) (relock : Bool) :
    let c := (s.beginTrain n rate mode why relock).chan n
    c.st = .training ∧ c.mode = (s.chan n).mode ∧ c.trainRate = rate ∧ c.trainMode = (if rate = 0 then 1 else mode) ∧
      c.trainWhy = some why ∧ c.inReset = (relock || (s.chan n).inReset) ∧ c.live = (s.chan n).target ∧ c.trimOrder = [] ∧
      c.present = (s.chan n).present := by
  have h := beginTrain_chan hn s rate mode why relock
  intro c
  refine ⟨?_, ?_, ?_, ?_, ?_, ?_, ?_, ?_, ?_⟩
  · exact (congrArg Chan.st h).trans (by cases relock <;> rfl)
  · exact (congrArg Chan.mode h).trans (by cases relock <;> rfl)
  · exact (congrArg Chan.trainRate h).trans (by cases relock <;> rfl)
  · exact (congrArg Chan.trainMode h).trans (by cases relock <;> rfl)
  · exact (congrArg Chan.trainWhy h).trans (by cases relock <;> rfl)
  · exact (congrArg Chan.inReset h).trans (by cases relock <;> rfl)
  · exact (congrArg Chan.live h).trans (by cases relock <;> rfl)
  · exact (congrArg Chan.trimOrder h).trans (by cases relock <;> rfl)
  · exact (congrArg Chan.present h).trans (by cases relock <;> rfl)

end

/-! The attention bits of a channel (R162). -/

theorem attn_chan (s : State) (n b j : Nat) : (s.attn n b).chan j = s.chan j := by
  unfold State.chan
  rw [(attn_same (m := 0x38080000010) (Same.refl _ s) rfl n b).chans rfl]

theorem raiseReg_page {a : Nat} (h : 0x1000000 ≤ a) : raiseReg a = false := by
  simp only [raiseReg, traceReg, Bool.or_eq_false_iff, beq_eq_false_iff_ne, Bool.and_eq_false_iff, decide_eq_false_iff_not]
  omega

theorem attn_bit (s : State) (n : Nat) {b : Nat} (hb : b < 32) : (s.attn n b).bit (chanPage n + 0xA8) b = true := by
  unfold State.attn
  split
  · assumption
  · rw [bit_of_reg ((raise_quiet _ n).reg _ (by unfold chanPage; omega)), setBit_bit _ _ _ _ hb]

theorem attn_bit_keeps {s : State} {n k : Nat} (h : s.bit (chanPage n + 0xA8) k = true) (b : Nat) :
    (s.attn n b).bit (chanPage n + 0xA8) k = true := by
  unfold State.attn
  split
  · exact h
  · next hb =>
    have hne : b ≠ k := fun e => hb (e ▸ h)
    rw [bit_of_reg ((raise_quiet _ n).reg _ (by unfold chanPage; omega)), setBit_bit_other _ _ _ _ _ _ (.inr hne), h]

theorem attn_page (s : State) (n b : Nat) {a : Nat} (h : 0x1000000 ≤ a) (hne : chanPage n + 0xA8 ≠ a) :
    (s.attn n b).reg a = s.reg a := attn_reg _ _ _ _ (raiseReg_page h) hne

/-! The targets of a channel and their permissions (R133, R134). -/

/-- The registers of a channel's targets, their geometry and their permissions, are as they were. -/
def SameTargets (n : Nat) (s t : State) : Prop :=
  ∀ a, chanPage n + 0x10 ≤ a → a < chanPage n + 0x70 → t.reg a = s.reg a

theorem SameTargets.presentTargets {n : Nat} {s t : State} (h : SameTargets n s t) :
    t.presentTargets n = s.presentTargets n := by
  unfold State.presentTargets State.tgtPresent
  refine List.filter_congr fun k hk => bit_of_reg (h _ ?_ ?_) 23
  · unfold geomAt; omega
  · have := (mem_countUp.1 hk).2
    unfold geomAt; omega

theorem SameTargets.galeOk {n : Nat} {s t : State} (h : SameTargets n s t) (code : Nat) : t.galeOk n code = s.galeOk n code := by
  unfold State.galeOk
  rw [h.presentTargets, Bool.eq_iff_iff, List.all_eq_true, List.all_eq_true]
  refine forall₂_congr fun k hk => ?_
  have hk8 := (mem_countUp.1 (List.mem_of_mem_filter hk)).2
  rw [bit_of_reg (h (geomAt n k) (by unfold geomAt; omega) (by unfold geomAt; omega)),
    bit_of_reg (h (chanPage n + 0x50 + 4 * k) (by omega) (by omega))]

end Sys2Proof.Machine
end

section
/-! SET_RATE and RETRAIN (R132, R137), and the requests that are ignored (R129). -/

namespace Sys2Proof.Machine
open Sys2Proof

theorem noStepFailed_chan (s : State) (n j : Nat) : (s.noStepFailed n).chan j = s.chan j := by
  unfold State.chan
  rw [(noStepFailed_same (m := 0x10) (Same.refl _ s) rfl n).chans rfl]

theorem noStepFailed_page (s : State) {n a : Nat} (h : chanPage n + 0xA0 ≠ a) : (s.noStepFailed n).reg a = s.reg a := by
  unfold State.noStepFailed
  rw [setFld_reg, if_neg h]

theorem stepFailed_chan (s : State) (n step target j : Nat) : (s.stepFailed n step target).chan j = s.chan j := by
  unfold State.chan
  rw [(stepFailed_same (m := 0x10) (Same.refl _ s) rfl n step target).chans rfl]

theorem stepFailed_page (s : State) {n a : Nat} (step target : Nat) (h : chanPage n + 0xA0 ≠ a) :
    (s.stepFailed n step target).reg a = s.reg a := by
  unfold State.stepFailed
  rw [setFld_reg, if_neg h, setFld_reg, if_neg h]

/-- A training for the requested mode starts at the highest rate that the targets have, and where it is a lower one an
attention bit says so (R132, R136). -/
theorem bringUp_cases (s : State) (n : Nat) (why : TrainWhy) : ∃ (u : State) (rate : Nat),
    s.bringUp n why = u.beginTrain n rate (s.fld (chanPage n + 4) 11 8) why true ∧ u.chan n = s.chan n ∧
    (∀ a, 0x1000000 ≤ a → chanPage n + 0xA0 ≠ a → chanPage n + 0xA8 ≠ a → u.reg a = s.reg a) ∧
    (s.fld (chanPage n + 4) 23 16 ≤ 72 → rate = min (s.fld (chanPage n + 4) 23 16) (s.chan n).stdRate ∧
      u.reg (chanPage n + 0xA8) = s.reg (chanPage n + 0xA8)) ∧
    (72 < s.fld (chanPage n + 4) 23 16 → s.galeOk n (s.fld (chanPage n + 4) 23 16) = true →
      rate = s.fld (chanPage n + 4) 23 16) ∧
    (72 < s.fld (chanPage n + 4) 23 16 → s.galeOk n (s.fld (chanPage n + 4) 23 16) = false →
      rate = (if s.fld (chanPage n + 4) 23 16 = 128 ∧ s.galeOk n 96 = true then 96 else (s.chan n).stdRate) ∧
      u.bit (chanPage n + 0xA8) 2 = true) := by
  have htargets : SameTargets n s (s.noStepFailed n) := fun a _ _ => noStepFailed_page s (by omega)
  unfold State.bringUp
  extract_lets req mode std u0 u1
  have hreg0 : ∀ a, chanPage n + 0xA0 ≠ a → u0.reg a = s.reg a := fun a ha => noStepFailed_page s ha
  have hchan0 : u0.chan n = s.chan n := noStepFailed_chan s n n
  have hgale0 : ∀ code, u0.galeOk n code = s.galeOk n code := htargets.galeOk
  have hreg1 : ∀ a, 0x1000000 ≤ a → chanPage n + 0xA0 ≠ a → chanPage n + 0xA8 ≠ a → u1.reg a = s.reg a := fun a h0 h1 h2 =>
    (attn_page _ n 2 h0 h2).trans ((stepFailed_page u0 1 _ h1).trans (hreg0 a h1))
  have hchan1 : u1.chan n = s.chan n := (attn_chan _ n 2 n).trans ((stepFailed_chan u0 n 1 _ n).trans hchan0)
  have hgale1 : u1.galeOk n 96 = s.galeOk n 96 := SameTargets.galeOk (fun a h0 h1 => hreg1 a (by unfold chanPage at h0; omega)
    (by omega) (by omega)) 96
  have hbit1 : u1.bit (chanPage n + 0xA8) 2 = true := attn_bit _ n (by omega)
  clear_value u1
  split
  · next hle => exact ⟨_, _, rfl, hchan0, fun a _ h1 _ => hreg0 a h1, fun _ => ⟨rfl, hreg0 _ (by omega)⟩,
      fun hlt => absurd hle (by omega), fun hlt => absurd hle (by omega)⟩
  · next hlt =>
    rw [hgale0, hgale1]
    split
    · next hok => exact ⟨_, _, rfl, hchan0, fun a _ h1 _ => hreg0 a h1, fun hle => absurd hle hlt, fun _ _ => rfl,
        fun _ hno => absurd hok (by rw [hno]; exact Bool.false_ne_true)⟩
    · next hno => exact ⟨_, _, rfl, hchan1, hreg1, fun hle => absurd hle hlt, fun _ hok => absurd hok hno,
        fun _ _ => ⟨rfl, hbit1⟩⟩

/-- A request that asks for a training, where the island takes it. -/
theorem exec_setRate {s : State} {n : Nat} (hn : n < s.nch) (hs : s.serving = true) (hreset : (s.chan n).inReset = false) :
    exec (.setRate n) s = .next (s.setRate n) := by
  show execSetRate n s = _
  simp [execSetRate, asleep_of_serving hs, hs, hn, hreset]

theorem exec_retrain {s : State} {n : Nat} (hn : n < s.nch) (hs : s.serving = true) (hreset : (s.chan n).inReset = false) :
    exec (.retrain n) s = .next (s.retrain n) := by
  show execRetrain n s = _
  simp [execRetrain, asleep_of_serving hs, hs, hn, hreset]

theorem setRate_taken {s : State} {n : Nat} (hreset : (s.chan n).inReset = false) (hstore : (s.chan n).store = .loaded)
    (hfenced : (s.chan n).fenced = true) (hbus : s.busPhase n = false)
    (hst : (s.chan n).st = .running ∨ (s.chan n).st = .unconfigured)
    (hrate : rateOk (s.fld (chanPage n + 4) 23 16) = true) (hmode : s.modeOk n = true) (hsome : s.presentTargets n ≠ [])
    (hbay : s.bayOn (n / 8) = true) : s.setRate n = s.bringUp n .setRate := by
  unfold State.setRate
  dsimp only
  rw [if_neg]
  rcases hst with hst | hst <;> simp [hreset, hstore, hfenced, hbus, hst, hrate, hmode, hsome, hbay]

/-- What a training for the requested mode and rate shows of its channel (R16, R132). -/
theorem bringUp_settings {s : State} {n : Nat} (hn : n < 256) (why : TrainWhy) :
    let t := s.bringUp n why
    (t.chan n).st = .training ∧ (t.chan n).mode = (s.chan n).mode ∧
    (t.chan n).trainMode = (if (t.chan n).trainRate = 0 then 1 else s.fld (chanPage n + 4) 11 8) ∧
    (t.chan n).trainWhy = some why ∧ (t.chan n).inReset = true ∧ (t.chan n).live = (s.chan n).target ∧
    (t.chan n).present = (s.chan n).present ∧
    (s.fld (chanPage n + 4) 23 16 ≤ 72 →
      (t.chan n).trainRate = min (s.fld (chanPage n + 4) 23 16) (s.chan n).stdRate ∧
      t.reg (chanPage n + 0xA8) = s.reg (chanPage n + 0xA8)) ∧
    (72 < s.fld (chanPage n + 4) 23 16 → s.galeOk n (s.fld (chanPage n + 4) 23 16) = true →
      (t.chan n).trainRate = s.fld (chanPage n + 4) 23 16) ∧
    (72 < s.fld (chanPage n + 4) 23 16 → s.galeOk n (s.fld (chanPage n + 4) 23 16) = false →
      (t.chan n).trainRate = (if s.fld (chanPage n + 4) 23 16 = 128 ∧ s.galeOk n 96 = true then 96
        else (s.chan n).stdRate) ∧ t.bit (chanPage n + 0xA8) 2 = true) ∧
    (∀ a, keptReg n a → chanPage n + 0xA0 ≠ a → chanPage n + 0xA8 ≠ a → t.reg a = s.reg a) := by
  obtain ⟨u, rate, hup, hchan, hreg, hstd, hgale, hbelow⟩ := bringUp_cases s n why
  obtain ⟨hst, hmode, hrate, htrain, hwhy, hreset, hlive, -, hpresent⟩ :=
    beginTrain_settings hn u rate (s.fld (chanPage n + 4) 11 8) why true
  have hattn := beginTrain_reg hn u rate (s.fld (chanPage n + 4) 11 8) why true
    (a := chanPage n + 0xA8) ⟨by unfold chanPage; omega, by omega, by omega, by omega⟩
  intro t
  rw [hchan] at hmode hlive hpresent
  refine ⟨?_, ?_, ?_, ?_, ?_, ?_, ?_, ?_, ?_, ?_, ?_⟩ <;> unfold t <;> rw [hup]
  · exact hst
  · exact hmode
  · rw [hrate]; exact htrain
  · exact hwhy
  · exact hreset
  · exact hlive
  · exact hpresent
  · exact fun h => ⟨hrate.trans (hstd h).1, hattn.trans (hstd h).2⟩
  · exact fun h hok => hrate.trans (hgale h hok)
  · exact fun h hno => ⟨hrate.trans (hbelow h hno).1, (bit_of_reg hattn 2).trans (hbelow h hno).2⟩
  · exact fun a hkept h0 h8 => (beginTrain_reg hn u rate _ why true hkept).trans (hreg a hkept.1 h0 h8)

/-- A retraining keeps the rate and mode of its channel; at a standard rate the clock relocks first (R137). -/
theorem retrainNow_settings {s : State} {n : Nat} (hn : n < 256) (why : TrainWhy) (step2 : Bool) :
    let c := (s.retrainNow n why step2).chan n
    c.st = .training ∧ c.trainRate = (s.chan n).rate ∧
      c.trainMode = (if (s.chan n).rate = 0 then 1 else (s.chan n).mode) ∧ c.trainWhy = some why ∧
      c.inReset = ((step2 || decide ((s.chan n).rate ≤ 72)) || (s.chan n).inReset) ∧ c.live = (s.chan n).target ∧
      c.trimOrder = [] := by
  obtain ⟨hst, -, hrate, htrain, hwhy, hreset, hlive, horder, -⟩ := beginTrain_settings hn (s.noStepFailed n)
    (s.chan n).rate (s.chan n).mode why (step2 || decide ((s.chan n).rate ≤ 72))
  rw [noStepFailed_chan] at hreset hlive
  exact ⟨hst, hrate, htrain, hwhy, hreset, hlive, horder⟩

theorem retrain_taken {s : State} {n : Nat} (hreset : (s.chan n).inReset = false) (hstore : (s.chan n).store = .loaded)
    (hfenced : (s.chan n).fenced = true) (hbus : s.busPhase n = false) (hst : (s.chan n).st = .running) :
    s.retrain n = s.retrainNow n .retrain false := by
  unfold State.retrain
  dsimp only
  rw [if_neg]
  simp [hreset, hstore, hfenced, hbus, hst]

/-! DISCOVER (R122, R129). -/

theorem exec_discover {s : State} {n : Nat} (hn : n < s.nch) (hs : s.serving = true) (hreset : (s.chan n).inReset = false) :
    exec (.discover n) s = .next (s.discover n) := by
  show execDiscover n s = _
  simp [execDiscover, asleep_of_serving hs, hs, hn, hreset]

theorem discover_ignored {s : State} {n : Nat} (h : (s.chan n).store ≠ .loaded ∨ (s.chan n).fenced = false ∨ s.reqOk n = false) :
    s.discover n = s.setBit (chanPage n + 4) 31 true := by
  unfold State.discover
  dsimp only
  rw [if_pos]
  · rfl
  · rcases h with h | h | h <;> simp [h]

theorem discover_taken {s : State} {n : Nat} (hreset : (s.chan n).inReset = false) (hstore : (s.chan n).store = .loaded)
    (hfenced : (s.chan n).fenced = true) (hbusy : s.chanBusy n = false) (hbay : s.bayOn (n / 8) = true)
    (hdisc : (s.chan n).st ≠ .discovering) (htrain : (s.chan n).st ≠ .training) (hreq : s.reqOk n = true) :
    s.discover n = (s.modChan n (fun c => { c with st := .discovering, mode := 1, rate := 0 })).askReset n 0 := by
  unfold State.discover
  dsimp only
  rw [if_neg]
  simp [hreset, hstore, hfenced, hbusy, hbay, hdisc, htrain, hreq]

/-- The work that resets target `x` of channel `n` for the channel itself. -/
def State.ownReset (s : State) (n x : Nat) : Work :=
  { Work.new .reset .own (lunAddr n (2 * x)) none s.stamp with adm := .requested }

/-- A work that asks for admission joins the requests that wait, and no grant changes (R149, R411). -/
theorem askAdmission_waits {s : State} {id : Nat} {w : Work} (hw : s.work id = some w) (planes : Nat) (release : Bool) :
    (∃ r, r ∈ (s.askAdmission id planes release).gov.waiting ∧ r.work = id ∧ r.cls = s.workClass w ∧ r.planes = planes) ∧
    (s.askAdmission id planes release).gov.grants = s.gov.grants := by
  unfold State.askAdmission
  split
  · next hnone => cases hw.symm.trans hnone
  next v hv =>
  cases hw.symm.trans hv
  extract_lets t r u blocked g asked
  have hlast : r ∈ asked.gov.waiting := List.mem_append_right _ (List.mem_singleton.2 rfl)
  have hgrants : asked.gov.grants = s.gov.grants := rfl
  clear_value asked
  have hcount : (asked.count 266 4 1).gov = asked.gov :=
    (count_same (m := 0x38000000010) (Same.refl _ asked) rfl 266 4 1).gov rfl
  split
  · rw [hcount]
    exact ⟨⟨r, hlast, rfl, rfl, rfl⟩, hgrants⟩
  · exact ⟨⟨r, hlast, rfl, rfl, rfl⟩, hgrants⟩

/-- A reset of the channel itself joins the works, and its request for admission those that wait (R149, R406). -/
theorem askReset_asks (s : State) (n x : Nat) :
    (s.askReset n x).chans = s.chans ∧ (s.askReset n x).work s.nextWork = some (s.ownReset n x) ∧
    (∃ r, r ∈ (s.askReset n x).gov.waiting ∧ r.work = s.nextWork ∧ r.cls = 10 ∧ r.planes = 0) ∧
    (∀ id, id ≠ s.nextWork → (s.askReset n x).work id = s.work id) ∧
    (s.askReset n x).gov.grants = s.gov.grants ∧ (s.askReset n x).nextWork = s.nextWork + 1 := by
  unfold State.askReset
  extract_lets k new r
  have hid : r.1 = s.nextWork := rfl
  have hnext : r.2.nextWork = s.nextWork + 1 := rfl
  have hchans : r.2.chans = s.chans := rfl
  have hgrants : r.2.gov.grants = s.gov.grants := rfl
  have hwork (id : Nat) : r.2.work id = if s.nextWork = id then some (s.ownReset n x) else s.work id :=
    SMap.get_insert ..
  clear_value r
  rw [hid]
  have hsame := askAdmission_same (m := 0x138200000010) (Same.refl _ r.2) rfl s.nextWork 0 false
  obtain ⟨hwaits, hgrants'⟩ := askAdmission_waits (s := r.2) ((hwork s.nextWork).trans (if_pos rfl)) 0 false
  have hwork' (id : Nat) : (r.2.askAdmission s.nextWork 0 false).work id = r.2.work id := by
    unfold State.work
    rw [hsame.works rfl]
  refine ⟨(hsame.chans rfl).trans hchans, ?_, hwaits, fun id hne => ?_, hgrants'.trans hgrants,
    (hsame.nextWork rfl).trans hnext⟩
  · rw [hwork', hwork, if_pos rfl]
  · rw [hwork', hwork, if_neg (Ne.symm hne)]

theorem Same.eq_of_discover {s t : State} (h : Same 0x338200005010 s t) :
    t = { s with chans := t.chans, works := t.works, nextWork := t.nextWork, stamp := t.stamp, gov := t.gov,
                 counters := t.counters, saturated := t.saturated, regs := t.regs, trace := t.trace } := h.eq

/-- A discovery starts with the reset of its first target (R122). -/
theorem discover_starts {s : State} {n : Nat} (hn : n < s.nch) (hs : s.serving = true)
    (hreset : (s.chan n).inReset = false) (hstore : (s.chan n).store = .loaded)
    (hfenced : (s.chan n).fenced = true) (hbusy : s.chanBusy n = false) (hbay : s.bayOn (n / 8) = true)
    (hdisc : (s.chan n).st ≠ .discovering) (htrain : (s.chan n).st ≠ .training) (hreq : s.reqOk n = true) :
    ∃ t, exec (.discover n) s = .next t ∧ t.chan n = { s.chan n with st := .discovering, mode := 1, rate := 0 } ∧
      (∀ j, j ≠ n → t.chan j = s.chan j) ∧
      t.work s.nextWork = some { Work.new .reset .own (lunAddr n 0) none s.stamp with adm := .requested } ∧
      (∃ r, r ∈ t.gov.waiting ∧ r.work = s.nextWork ∧ r.cls = 10 ∧ r.planes = 0) ∧
      (∀ id, id ≠ s.nextWork → t.work id = s.work id) ∧ t.gov.grants = s.gov.grants ∧
      t = { s with chans := t.chans, works := t.works, nextWork := s.nextWork + 1, stamp := t.stamp, gov := t.gov,
                   counters := t.counters, saturated := t.saturated, regs := t.regs, trace := t.trace } := by
  refine ⟨_, (exec_discover hn hs hreset).trans (congrArg _ (discover_taken hreset hstore hfenced hbusy hbay hdisc htrain
    hreq)), ?_⟩
  have hmod := modChan_same (m := 0x338200005010) (Same.refl _ s) rfl n
    (fun c => { c with st := .discovering, mode := 1, rate := 0 })
  have hsame := modChan_same (m := 0x4000) (Same.refl _ s) rfl n
    (fun c => { c with st := .discovering, mode := 1, rate := 0 })
  have hchan (j : Nat) := modChan_get s n j (fun c => { c with st := .discovering, mode := 1, rate := 0 })
  generalize s.modChan n _ = u at hmod hsame hchan ⊢
  have hframe := askReset_same hmod rfl n 0
  obtain ⟨hchans, hown, hwaits, hothers, hgrants, hnext⟩ := askReset_asks u n 0
  have hchans' (j : Nat) : (u.askReset n 0).chan j = u.chan j := by unfold State.chan; rw [hchans]
  have hwork (id : Nat) : u.work id = s.work id := by unfold State.work; rw [hsame.works rfl]
  rw [hsame.nextWork rfl] at hown hwaits hothers hnext
  refine ⟨(hchans' n).trans ((hchan n).trans (if_pos rfl)),
    fun j hj => (hchans' j).trans ((hchan j).trans (if_neg (Ne.symm hj))), ?_, hwaits,
    fun id hid => (hothers id hid).trans (hwork id), hgrants.trans (by rw [hsame.gov rfl]), ?_⟩
  · rw [hown, State.ownReset, hsame.stamp rfl]
  · rw [← hnext]
    exact hframe.eq_of_discover

end Sys2Proof.Machine
end

section
/-! PLL_RELOCK and STROBE_TRACKING_WINDOW (R16, R139, R427, R428). -/

namespace Sys2Proof.Machine
open Sys2Proof

theorem runEntry_frame {m : Nat} {z t : State} (hk : Same m z t) (h : 0x408000004010 ||| m = m) (n e fuel : Nat) :
    Same m z (t.runEntry n e fuel) := by
  unfold State.runEntry
  dsimp only
  split
  · exact modChan_same hk (up h rfl) n _
  · exact entryOn_same (modChan_same hk (up h rfl) n _) h n fuel []

/-- TRAIN runs where no other job does, from 2,400 MT/s (R135). -/
theorem startTrain_runs {s : State} {n : Nat} (hidle : (s.chan n).bus.running = false) (hrate : 48 ≤ (s.chan n).trainRate) :
    ((s.startTrain n).chan n).bus.running = true ∧ ((s.startTrain n).chan n).bus.entry = 19 ∧
    ((s.startTrain n).chan n).bus.args = [4] := by
  unfold State.startTrain
  dsimp only
  rw [if_neg (by simp [hidle]; omega)]
  generalize s.traceJob n 9 19 0 none = u
  unfold State.busJob
  extract_lets pins
  rw [modChan_get, if_pos rfl]
  exact ⟨rfl, rfl, rfl⟩

/-- A channel as its island leaves channel reset (R16, R427, R436). -/
def Chan.released (c : Chan) (cfg : Word) (now : Nat) : Chan :=
  { c.trimAll with inReset := false, cal := if c.cal.st = .running then { c.cal with cfg := cfg, since := now } else c.cal }

theorem leaveReset_eq (s : State) (n : Nat) :
    s.leaveReset n = (s.modChan n (fun c => c.released (s.reg 0x50000) s.now)).runEntry n 0 2048 := rfl

/-- Without an image the pins of a channel that leaves reset go to idle. -/
theorem leaveReset_idle {s : State} {n : Nat} (himage : (s.chan n).image = none) :
    ((s.leaveReset n).chan n).bus.running = false ∧ ((s.leaveReset n).chan n).trainRate = (s.chan n).trainRate := by
  rw [leaveReset_eq]
  have hchan : (s.modChan n (fun c => c.released (s.reg 0x50000) s.now)).chan n =
      (s.chan n).released (s.reg 0x50000) s.now := by rw [modChan_get, if_pos rfl]
  generalize s.modChan n _ = u at hchan ⊢
  have hnone : (u.chan n).image.isNone = true := by rw [hchan]; exact Option.isNone_iff_eq_none.2 himage
  unfold State.runEntry
  dsimp only
  rw [hnone, Bool.true_or, Bool.true_or, if_pos rfl, modChan_get, if_pos rfl, hchan]
  exact ⟨rfl, rfl⟩

theorem exec_pllRelock {s : State} {n : Nat} (hn : n < s.nch) (hhost : s.hostOn = true) (hst : (s.chan n).st = .training)
    (hreset : (s.chan n).inReset = true) (hstore : (s.chan n).store ≠ .loading) :
    exec (.pllRelock n) s = .next ((s.leaveReset n).startTrain n) := by
  show execPllRelock n s = _
  simp [execPllRelock, hn, hhost, hst, hreset, hstore]

theorem Same.eq_of_relock {s t : State} (h : Same 0x408000004010 s t) :
    t = { s with chans := t.chans, regs := t.regs, trace := t.trace, fresh := t.fresh } := h.eq

/-- A channel leaves reset for its training, with nothing but its clock, its trims and its bus moved (R16, R427). -/
theorem relock_settings (s : State) (n : Nat) :
    let t := (s.leaveReset n).startTrain n
    t.chan n = ((s.chan n).released (s.reg 0x50000) s.now).talked (t.chan n) ∧ (∀ j, j ≠ n → t.chan j = s.chan j) ∧
    t = { s with chans := t.chans, regs := t.regs, trace := t.trace, fresh := t.fresh } := by
  intro t
  have hframe : Same 0x408000004010 s t :=
    startTrain_same (runEntry_frame (modChan_same (Same.refl _ s) rfl n _) rfl n 0 2048) rfl n
  have htalks : Talks n (s.modChan n (fun c => c.released (s.reg 0x50000) s.now)) t :=
    (runEntry_talks _ n 0 2048).trans (startTrain_talks _ n)
  refine ⟨?_, fun j hj => ?_, hframe.eq_of_relock⟩
  · have hown := htalks.own
    rw [modChan_get, if_pos rfl] at hown
    exact hown
  · rw [htalks.others j hj, modChan_get, if_neg (Ne.symm hj)]

/-! The window of the strobe tracking (R138 to R140, R428). -/

theorem exec_strobeTrackingWindow {s : State} {n : Nat} (hn : n < s.nch) (hhost : s.hostOn = true) (late : Option Bool) :
    exec (.strobeTrackingWindow n late) s = .next (s.trackWindow n late) := by
  show execStrobeTrackingWindow n late s = _
  simp [execStrobeTrackingWindow, hn, hhost]

/-- While trim steps are pending, a window applies one of them (R428). -/
theorem trackWindow_trims {s : State} {n : Nat} (hreset : (s.chan n).inReset = false)
    (hsome : (s.chan n).trimOrder ≠ []) (heye : (s.chan n).survey.st ≠ .eye) (late : Option Bool) :
    s.trackWindow n late = s.modChan n (fun c => c.trimStep) := by
  unfold State.trackWindow
  dsimp only
  rw [if_neg (by simp [hreset]), if_pos (by simp [hsome]), if_neg heye]

theorem trimStep_eq {c : Chan} {i : Nat} {rest : List Nat} (h : c.trimOrder = i :: rest) :
    c.trimStep.live = setNth c.live i (if (nth c.live i 0).toNat < (nth c.target i 0).toNat then nth c.live i 0 + 1
      else nth c.live i 0 - 1) ∧ c.trimStep.target = c.target := by
  unfold Chan.trimStep
  rw [h]
  exact ⟨rfl, rfl⟩

/-- A window that says nothing of the strobe moves nothing. -/
theorem trackWindow_idle {s : State} {n : Nat} (hnone : (s.chan n).trimOrder = []) : s.trackWindow n none = s := by
  unfold State.trackWindow
  dsimp only
  split
  · rfl
  · rw [if_neg (by simp [hnone])]

/-- The offset of the strobe after a window (R139). -/
def State.tracked (s : State) (n : Nat) (up : Bool) : Int :=
  signedOf 8 (s.fld (chanPage n + 0xAC) 7 0) + (if up then 1 else -1)

/-- While the offset stays within the limit, a window moves the offset and the peak (R139). -/
theorem trackWindow_tracks {s : State} {n : Nat} (hreset : (s.chan n).inReset = false)
    (hst : (s.chan n).st = .running) (hnone : (s.chan n).trimOrder = []) (hrate : 48 ≤ (s.chan n).rate) (up : Bool)
    (hlimit : (s.tracked n up).natAbs ≤ max 1 (s.fld (chanPage n + 0xA4) 13 8)) :
    s.trackWindow n (some up) =
      (let u := s.setFld (chanPage n + 0xAC) 7 0 (BitVec.ofInt 8 (s.tracked n up)).toNat
       if s.fld (chanPage n + 0xAC) 15 8 < (s.tracked n up).natAbs then
         u.setFld (chanPage n + 0xAC) 15 8 (s.tracked n up).natAbs else u) := by
  have hpeak : (s.setFld (chanPage n + 0xAC) 7 0 (BitVec.ofInt 8 (s.tracked n up)).toNat).fld (chanPage n + 0xAC) 15 8 =
      s.fld (chanPage n + 0xAC) 15 8 :=
    setFld_fld_other _ _ _ _ _ _ _ _ (by omega) (by omega) (by omega) (by omega)
  have hother : ∀ (u : State) (hi lo v : Nat), (u.setFld (chanPage n + 0xAC) hi lo v).fld (chanPage n + 0xA4) 13 8 =
      u.fld (chanPage n + 0xA4) 13 8 := fun u hi lo v => fld_of_reg (by rw [setFld_reg, if_neg (by omega)]) 13 8
  unfold State.trackWindow
  dsimp only
  rw [if_neg (by simp [hreset]), if_neg (by simp [hnone]), if_neg (by simp [hst, hrate]), ← State.tracked, hpeak]
  split <;> rw [if_neg (by simp only [hother]; omega)]

theorem signedOf_ofInt {o : Int} (h : o.natAbs ≤ 64) : signedOf 8 (BitVec.ofInt 8 o).toNat = o := by
  have htoNat : (BitVec.ofInt 8 o).toNat = (o % 256).toNat := BitVec.toNat_ofInt o
  unfold signedOf
  split <;> omega

/-- The offset and the peak of the tracking, as a window leaves them (R139). -/
theorem trackWindow_fields {s : State} {n : Nat} (hreset : (s.chan n).inReset = false)
    (hst : (s.chan n).st = .running) (hnone : (s.chan n).trimOrder = []) (hrate : 48 ≤ (s.chan n).rate) (up : Bool)
    (hlimit : (s.tracked n up).natAbs ≤ max 1 (s.fld (chanPage n + 0xA4) 13 8)) :
    signedOf 8 ((s.trackWindow n (some up)).fld (chanPage n + 0xAC) 7 0) = s.tracked n up ∧
    (s.trackWindow n (some up)).fld (chanPage n + 0xAC) 15 8 =
      max (s.fld (chanPage n + 0xAC) 15 8) (s.tracked n up).natAbs ∧
    Same 0x10 s (s.trackWindow n (some up)) := by
  have hwidth := fld_lt s (chanPage n + 0xA4) 13 8
  have hsmall : (s.tracked n up).natAbs ≤ 64 := by omega
  have hoffset : (s.setFld (chanPage n + 0xAC) 7 0 (BitVec.ofInt 8 (s.tracked n up)).toNat).fld (chanPage n + 0xAC) 7 0 =
      (BitVec.ofInt 8 (s.tracked n up)).toNat := by
    rw [setFld_fld _ _ _ _ _ (by omega) (by omega)]
    exact Nat.mod_eq_of_lt (BitVec.isLt _)
  have hpeak : (s.setFld (chanPage n + 0xAC) 7 0 (BitVec.ofInt 8 (s.tracked n up)).toNat).fld (chanPage n + 0xAC) 15 8 =
      s.fld (chanPage n + 0xAC) 15 8 :=
    setFld_fld_other _ _ _ _ _ _ _ _ (by omega) (by omega) (by omega) (by omega)
  have hsame := setFld_same (m := 0x10) (Same.refl _ s) rfl (chanPage n + 0xAC) 7 0
    (BitVec.ofInt 8 (s.tracked n up)).toNat
  rw [trackWindow_tracks hreset hst hnone hrate up hlimit]
  extract_lets u
  split
  · next hlt =>
    refine ⟨?_, ?_, setFld_same hsame rfl _ _ _ _⟩
    · rw [setFld_fld_other _ _ _ _ _ _ _ _ (by omega) (by omega) (by omega) (by omega), hoffset, signedOf_ofInt hsmall]
    · rw [setFld_fld _ _ _ _ _ (by omega) (by omega), max_eq_right hlt.le]
      exact Nat.mod_eq_of_lt (by omega)
  · next hge => exact ⟨by rw [hoffset, signedOf_ofInt hsmall], by rw [hpeak]; omega, hsame⟩

theorem Same.eq_of_regs {s t : State} (h : Same 0x10 s t) : t = { s with regs := t.regs } := h.eq

theorem Same.eq_of_chans {s t : State} (h : Same 0x4000 s t) : t = { s with chans := t.chans } := h.eq

end Sys2Proof.Machine
end

section
/-! TRAINING_END: how a training ends, at its rate, at a lower one or not at all (R135 to R137). -/

namespace Sys2Proof.Machine
open Sys2Proof

/-! How a list stands once one of its elements has been replaced. -/

theorem nth_setNth {α : Type} (l : List α) (i j : Nat) (v d : α) :
    nth (setNth l i v) j d = if i = j ∧ i < l.length then v else nth l j d := by
  induction l generalizing i j with
  | nil => simp [setNth, nth]
  | cons x l ih =>
    cases i with
    | zero => cases j with
      | zero => simp [setNth, nth]
      | succ j => simp [setNth, nth]
    | succ i => cases j with
      | zero => simp [setNth, nth]
      | succ j => simp [setNth, nth, ih]

/-! A training succeeds (R135, R136, R430). -/

/-- What the codes that a training finds leave of its channel, from converter `k` on. -/
structure KeepsTraining (c d : Chan) : Prop where
  rate : d.trainRate = c.trainRate
  mode : d.trainMode = c.trainMode
  live : nth d.live 3 0 = nth c.live 3 0
  target : nth d.target 3 0 = nth c.target 3 0

theorem trainCodes_keep (off : Nat) (hoff : 3 < off) (l : List (BitVec 7 × Nat)) (c : Chan) :
    KeepsTraining c (l.foldl (fun (c : Chan) e => c.trainCode (off + e.2) e.1) c) := by
  induction l generalizing c with
  | nil => exact ⟨rfl, rfl, rfl, rfl⟩
  | cons e l ih =>
    obtain ⟨hrate, hmode, hlive, htarget⟩ := ih (c.trainCode (off + e.2) e.1)
    refine ⟨hrate, hmode, hlive.trans ?_, htarget.trans ?_⟩ <;> unfold Chan.trainCode <;>
      rw [nth_setNth, if_neg (by omega)]

/-- A channel with the codes that its training has found, at 2,400 MT/s and above. -/
def Chan.coded (c : Chan) (vref : BitVec 7) (rd wd : List (BitVec 7)) : Chan :=
  if 48 ≤ c.trainRate then
    let c := c.trainCode 3 vref
    let c := (firstN 8 rd).zipIdx.foldl (fun (c : Chan) e => c.trainCode (4 + e.2) e.1) c
    (firstN 8 wd).zipIdx.foldl (fun (c : Chan) e => c.trainCode (12 + e.2) e.1) c
  else c

theorem coded_keeps (c : Chan) (vref : BitVec 7) (rd wd : List (BitVec 7)) :
    (c.coded vref rd wd).trainRate = c.trainRate ∧ (c.coded vref rd wd).trainMode = c.trainMode ∧
    (c.trainRate < 48 → c.coded vref rd wd = c) ∧
    (48 ≤ c.trainRate → c.live.length = 20 → c.target.length = 20 →
      nth (c.coded vref rd wd).live 3 0 = vref ∧ nth (c.coded vref rd wd).target 3 0 = vref) := by
  unfold Chan.coded
  split
  · next hle =>
    obtain ⟨hrate, hmode, hlive, htarget⟩ := trainCodes_keep 4 (by omega) (firstN 8 rd).zipIdx (c.trainCode 3 vref)
    obtain ⟨hrate', hmode', hlive', htarget'⟩ := trainCodes_keep 12 (by omega) (firstN 8 wd).zipIdx
      ((firstN 8 rd).zipIdx.foldl (fun (c : Chan) e => c.trainCode (4 + e.2) e.1) (c.trainCode 3 vref))
    refine ⟨hrate'.trans hrate, hmode'.trans hmode, fun hlt => absurd hle (by omega), fun _ hl ht => ⟨?_, ?_⟩⟩
    · refine (hlive'.trans hlive).trans ?_
      unfold Chan.trainCode
      rw [nth_setNth, if_pos ⟨rfl, by omega⟩]
    · refine (htarget'.trans htarget).trans ?_
      unfold Chan.trainCode
      rw [nth_setNth, if_pos ⟨rfl, by omega⟩]
  · next hlt => exact ⟨rfl, rfl, fun _ => rfl, fun hle => absurd hle hlt⟩

/-- A channel as a training of it succeeds. -/
def Chan.trainedTo (c : Chan) (vref : BitVec 7) (rd wd : List (BitVec 7)) : Chan :=
  { c.coded vref rd wd with
    st := .running, mode := (c.coded vref rd wd).trainMode, rate := (c.coded vref rd wd).trainRate, trainWhy := none
    trainedOnce := true }

/-- `TRAIN_STATUS` as a training at a rate leaves it (R136). -/
def trainWord (rate re we eq failed : Nat) : Word :=
  BitVec.ofNat 32 (rate + re % 64 * 2 ^ 8 + we % 64 * 2 ^ 14 + (if 72 < rate then eq % 8 else 0) * 2 ^ 20 + failed * 2 ^ 24)

theorem trainWord_fields {rate re we eq failed : Nat} (hrate : rate < 256) :
    wfld (trainWord rate re we eq failed) 7 0 = rate ∧ wfld (trainWord rate re we eq failed) 13 8 = re % 64 ∧
    wfld (trainWord rate re we eq failed) 19 14 = we % 64 := by
  unfold trainWord wfld bits
  rw [BitVec.toNat_ofNat]
  split <;> omega

/-- A training has succeeded: what the channel page and the channel say before anything waits for it. -/
def State.rungEnds (s : State) (n re we eq : Nat) (vref : BitVec 7) (rd wd : List (BitVec 7)) : State :=
  (((((s.setReg (chanPage n + 0xA0) (trainWord (s.chan n).trainRate re we eq (s.fld (chanPage n + 0xA0) 29 24))).modChan n
    (fun c => c.trainedTo vref rd wd)).setFld (chanPage n + 0xAC) 15 0 0).attn n 1).busEnds n).ownFeatures n
      [0x01, 0x02, 0x10, 0x20, 0x21, 0x22, 0x23, 0xE8]

theorem rungTrained_eq {s : State} {n : Nat} (hwhy : (s.chan n).trainWhy = some .setRate ∨
    (s.chan n).trainWhy = some .retrain ∨ (s.chan n).trainWhy = some .load ∨ (s.chan n).trainWhy = some .discovery)
    (re we eq : Nat) (vref : BitVec 7) (rd wd : List (BitVec 7)) :
    s.rungTrained n re we eq vref rd wd = if (s.chan n).trainWhy = some .discovery then
      (s.rungEnds n re we eq vref rd wd).attn n 0 else s.rungEnds n re we eq vref rd wd := by
  unfold State.rungTrained
  extract_lets c p u0 u1 u2 u3
  have hends : u3 = s.rungEnds n re we eq vref rd wd := rfl
  rw [hends]
  clear_value u3
  unfold c
  rcases hwhy with h | h | h | h <;> rw [h] <;> dsimp only
  · rw [if_neg (by simp)]
  · rw [if_neg (by simp)]
  · rw [if_neg (by simp)]
  · rw [if_pos rfl]

end Sys2Proof.Machine
end

section
/-! What TRAINING_END shows of its channel (R135 to R137). -/

namespace Sys2Proof.Machine
open Sys2Proof

theorem setReg_chan (s : State) (a j : Nat) (v : Word) : (s.setReg a v).chan j = s.chan j := by
  unfold State.chan
  rw [(setReg_same (m := 0x10) (Same.refl _ s) rfl a v).chans rfl]

theorem setFld_chan (s : State) (a hi lo v j : Nat) : (s.setFld a hi lo v).chan j = s.chan j := by
  unfold State.chan
  rw [(setFld_same (m := 0x10) (Same.refl _ s) rfl a hi lo v).chans rfl]

theorem modChan_reg (s : State) (n : Nat) (f : Chan → Chan) (a : Nat) : (s.modChan n f).reg a = s.reg a := by
  unfold State.reg
  rw [(modChan_fields s n f).2.2.2.2.1]

/-- What a training that has succeeded shows of its channel, before anything waits for it (R135, R136). -/
theorem rungEnds_settings (s : State) (n re we eq : Nat) (vref : BitVec 7) (rd wd : List (BitVec 7)) :
    let t := s.rungEnds n re we eq vref rd wd
    (t.chan n).still = ((s.chan n).trainedTo vref rd wd).still ∧ t.bit (chanPage n + 0xA8) 1 = true ∧
    t.fld (chanPage n + 0xAC) 15 0 = 0 ∧
    t.reg (chanPage n + 0xA0) = trainWord (s.chan n).trainRate re we eq (s.fld (chanPage n + 0xA0) 29 24) := by
  unfold State.rungEnds
  have hpage : 0x1000000 ≤ chanPage n := by unfold chanPage; omega
  generalize trainWord _ _ _ _ _ = word
  have hreg0 : (s.setReg (chanPage n + 0xA0) word).reg (chanPage n + 0xA0) = word := by rw [setReg_reg, if_pos rfl]
  have hchan0 := setReg_chan s (chanPage n + 0xA0) n word
  generalize s.setReg _ _ = s0 at hreg0 hchan0 ⊢
  have hreg1 := (modChan_reg s0 n (fun c => c.trainedTo vref rd wd) (chanPage n + 0xA0)).trans hreg0
  have hchan1 : (s0.modChan n (fun c => c.trainedTo vref rd wd)).chan n = (s.chan n).trainedTo vref rd wd := by
    rw [modChan_get, if_pos rfl, hchan0]
  generalize s0.modChan n _ = s1 at hreg1 hchan1 ⊢
  have htrack : (s1.setFld (chanPage n + 0xAC) 15 0 0).fld (chanPage n + 0xAC) 15 0 = 0 := by
    rw [setFld_fld _ _ _ _ _ (by omega) (by omega), Nat.zero_mod]
  have hreg2 : (s1.setFld (chanPage n + 0xAC) 15 0 0).reg (chanPage n + 0xA0) = word := by
    rw [setFld_reg, if_neg (by omega), hreg1]
  have hchan2 := (setFld_chan s1 (chanPage n + 0xAC) 15 0 0 n).trans hchan1
  generalize s1.setFld _ _ _ _ = s2 at htrack hreg2 hchan2 ⊢
  have hbit : (s2.attn n 1).bit (chanPage n + 0xA8) 1 = true := attn_bit s2 n (by omega)
  have htrack3 := (fld_of_reg (attn_page s2 n 1 (a := chanPage n + 0xAC) (by omega) (by omega)) 15 0).trans htrack
  have hreg3 := (attn_page s2 n 1 (a := chanPage n + 0xA0) (by omega) (by omega)).trans hreg2
  have hchan3 := (attn_chan s2 n 1 n).trans hchan2
  generalize s2.attn n 1 = s3 at hbit htrack3 hreg3 hchan3 ⊢
  have hquiet := (busEnds_quiet s3 n).trans (ownFeatures_quiet (s3.busEnds n) n
    [0x01, 0x02, 0x10, 0x20, 0x21, 0x22, 0x23, 0xE8])
  refine ⟨(hquiet.chan n).trans (congrArg Chan.still hchan3), ?_, ?_, ?_⟩
  · rw [bit_of_reg (hquiet.reg _ (by omega)), hbit]
  · rw [fld_of_reg (hquiet.reg _ (by omega)), htrack3]
  · rw [hquiet.reg _ (by omega), hreg3]

/-- What a training that has succeeded shows of its channel; a discovery has ended with it (R122, R135, R136, R430). -/
theorem rungTrained_settings {s : State} {n : Nat} (hwhy : (s.chan n).trainWhy = some .setRate ∨
    (s.chan n).trainWhy = some .retrain ∨ (s.chan n).trainWhy = some .load ∨ (s.chan n).trainWhy = some .discovery)
    (re we eq : Nat) (vref : BitVec 7) (rd wd : List (BitVec 7)) :
    let t := s.rungTrained n re we eq vref rd wd
    (t.chan n).still = ((s.chan n).trainedTo vref rd wd).still ∧ t.bit (chanPage n + 0xA8) 1 = true ∧
    ((s.chan n).trainWhy = some .discovery → t.bit (chanPage n + 0xA8) 0 = true) ∧
    t.fld (chanPage n + 0xAC) 15 0 = 0 ∧
    t.reg (chanPage n + 0xA0) = trainWord (s.chan n).trainRate re we eq (s.fld (chanPage n + 0xA0) 29 24) := by
  obtain ⟨hchan, hbit, htrack, hreg⟩ := rungEnds_settings s n re we eq vref rd wd
  intro t
  have ht : t = _ := rungTrained_eq hwhy re we eq vref rd wd
  rw [ht]
  have hpage : 0x1000000 ≤ chanPage n := by unfold chanPage; omega
  split
  · refine ⟨(congrArg Chan.still (attn_chan _ n 0 n)).trans hchan, attn_bit_keeps hbit 0, fun _ => attn_bit _ n (by omega),
      (fld_of_reg (attn_page _ n 0 ?_ ?_) 15 0).trans htrack, (attn_page _ n 0 ?_ ?_).trans hreg⟩ <;> omega
  · next hno => exact ⟨hchan, hbit, fun h => absurd h hno, htrack, hreg⟩

theorem exec_trainingEnd {s : State} {n : Nat} (hn : n < s.nch) (hhost : s.hostOn = true) (report : TrainReport) :
    exec (.trainingEnd n report) s = .next (s.trained n report) := by
  show execTrainingEnd n report s = _
  simp [execTrainingEnd, hn, hhost]

theorem exec_trainingEnd_congr {s : State} {n : Nat} {r r' : TrainReport} (h : s.trained n r = s.trained n r') :
    exec (.trainingEnd n r) s = exec (.trainingEnd n r') s := by
  show execTrainingEnd n r s = execTrainingEnd n r' s
  unfold execTrainingEnd
  rw [h]

theorem trained_ok {s : State} {n re we : Nat} (hst : (s.chan n).st = .training) (hreset : (s.chan n).inReset = false)
    (hstore : (s.chan n).store ≠ .loading) (hown : s.ownResets n = [])
    (heye : (s.chan n).trainRate < 48 ∨
      (s.fld (chanPage n + 0xA4) 5 0 ≤ re ∧ s.fld (chanPage n + 0xA4) 5 0 ≤ we))
    (target eq : Nat) (vref : BitVec 7) (rd wd : List (BitVec 7)) :
    s.trained n (.ok re we target eq vref rd wd) = s.rungTrained n re we eq vref rd wd := by
  unfold State.trained
  dsimp only
  rw [if_neg (by simp [hst, hstore]), if_neg (by simp [hreset, hown]), if_neg (by omega)]

/-- Eyes that are too narrow fail step 7 (R136). -/
theorem trained_narrow {s : State} {n re we : Nat} (hreset : (s.chan n).inReset = false)
    (hrate : 48 ≤ (s.chan n).trainRate)
    (heye : re < s.fld (chanPage n + 0xA4) 5 0 ∨ we < s.fld (chanPage n + 0xA4) 5 0)
    (target eq : Nat) (vref : BitVec 7) (rd wd : List (BitVec 7)) :
    s.trained n (.ok re we target eq vref rd wd) = s.trained n (.fail 7 target) := by
  unfold State.trained
  dsimp only
  split
  · rfl
  · rw [hreset, Bool.false_or]
    cases (s.ownResets n).isEmpty
    · rfl
    · simp [hrate, heye]

/-- A target that stays busy fails step 2 (R135). -/
theorem trained_busy {s : State} {n : Nat} (hown : s.ownResets n = []) (target : Nat) :
    s.trained n (.busy target) = s.trained n (.fail 2 target) := by
  unfold State.trained
  dsimp only
  split
  · rfl
  · simp [hown]

/-- What a failure of the present rung leads to: the next lower rate, or none (R137). -/
def State.rungFailed (s : State) (n step target : Nat) : State :=
  match (s.stepFailed n step target).lowerRung n (s.chan n).trainRate with
  | some r => ((s.stepFailed n step target).attn n 2).beginTrain n r (s.chan n).trainMode
      ((s.chan n).trainWhy.getD .setRate) true
  | none => (s.stepFailed n step target).trainLost n

theorem trained_fail {s : State} {n step : Nat} (hst : (s.chan n).st = .training) (hown : s.ownResets n = [])
    (hstore : (s.chan n).store ≠ .loading)
    (hstep : ((s.chan n).inReset = true ∧ (step = 2 ∨ step = 3)) ∨
      ((s.chan n).inReset = false ∧ 4 ≤ step ∧ step ≤ 7 ∧ 48 ≤ (s.chan n).trainRate)) (target : Nat) :
    s.trained n (.fail step target) = s.rungFailed n step target := by
  unfold State.trained
  dsimp only
  rw [if_neg (by simp [hst, hstore])]
  have hfails : (!(!(s.ownResets n).isEmpty) && (if (s.chan n).inReset then step == 2 || step == 3
      else decide (4 ≤ step) && decide (step ≤ 7) && decide (48 ≤ (s.chan n).trainRate))) = true := by
    rcases hstep with ⟨hreset, hstep⟩ | ⟨hreset, h4, h7, h48⟩
    · rcases hstep with h | h <;> simp [hown, hreset, h]
    · simp [hown, hreset, h4, h7, h48]
  rw [if_pos hfails]
  rfl

end Sys2Proof.Machine
end

section
/-! What a training that fails at its rate shows of its channel (R135, R137, R460). -/

namespace Sys2Proof.Machine
open Sys2Proof

theorem stepFailed_fields (s : State) {n step target : Nat} (hstep : step < 8) (htarget : target < 8) :
    (s.stepFailed n step target).fld (chanPage n + 0xA0) 26 24 = step ∧
    (s.stepFailed n step target).fld (chanPage n + 0xA0) 29 27 = target := by
  unfold State.stepFailed
  refine ⟨?_, ?_⟩
  · rw [setFld_fld_other _ _ _ _ _ _ _ _ (by omega) (by omega) (by omega) (by omega),
      setFld_fld _ _ _ _ _ (by omega) (by omega)]
    omega
  · rw [setFld_fld _ _ _ _ _ (by omega) (by omega)]
    omega

theorem stepFailed_targets (s : State) (n step target : Nat) : SameTargets n s (s.stepFailed n step target) :=
  fun a _ _ => stepFailed_page s step target (by omega)

/-- The rate that follows the one at which the training of a channel has failed (R137). -/
def State.nextRung (s : State) (n : Nat) : Nat :=
  if 96 < (s.chan n).trainRate ∧ s.galeOk n 96 = true then 96
  else min (s.fld (chanPage n + 4) 23 16) (s.chan n).stdRate

/-- A Gale rate has a lower rung, and a standard rate none (R137). -/
theorem lowerRung_stepFailed {s : State} {n : Nat} (h : 72 < (s.chan n).trainRate) (step target : Nat) :
    (s.stepFailed n step target).lowerRung n (s.chan n).trainRate = some (s.nextRung n) := by
  unfold State.lowerRung State.nextRung
  rw [(stepFailed_targets s n step target).galeOk, stepFailed_chan,
    fld_of_reg (stepFailed_page s step target (a := chanPage n + 4) (by omega)), if_pos h]
  split <;> rfl

theorem lowerRung_low {s : State} {n rate : Nat} (h : rate ≤ 72) : s.lowerRung n rate = none := by
  unfold State.lowerRung
  rw [if_neg (by omega), if_neg (by omega)]

/-- A training at a Gale rate that fails goes on at the next lower rung (R137). -/
theorem rungFailed_high {s : State} {n step target : Nat} (hn : n < 256) (hstep : step < 8) (htarget : target < 8)
    (hrate : 72 < (s.chan n).trainRate) :
    let t := s.rungFailed n step target
    t.fld (chanPage n + 0xA0) 26 24 = step ∧ t.fld (chanPage n + 0xA0) 29 27 = target ∧
    (t.chan n).st = .training ∧ t.bit (chanPage n + 0xA8) 2 = true ∧
    (t.chan n).trainRate = (if 96 < (s.chan n).trainRate ∧ s.galeOk n 96 = true then 96
      else min (s.fld (chanPage n + 4) 23 16) (s.chan n).stdRate) := by
  intro t
  have hpage : 0x1000000 ≤ chanPage n := by unfold chanPage; omega
  obtain ⟨hstep', htarget'⟩ := stepFailed_fields s (n := n) hstep htarget
  have ht : t = ((s.stepFailed n step target).attn n 2).beginTrain n (s.nextRung n) (s.chan n).trainMode
      ((s.chan n).trainWhy.getD .setRate) true := by
    unfold t State.rungFailed
    rw [lowerRung_stepFailed hrate]
  generalize s.stepFailed n step target = u at hstep' htarget' ht
  have hbit := attn_bit u n (b := 2) (by omega)
  have hwords := attn_page u n 2 (a := chanPage n + 0xA0) (by omega) (by omega)
  generalize u.attn n 2 = v at hbit hwords ht
  have hkept : keptReg n (chanPage n + 0xA0) := ⟨by omega, by omega, by omega, by omega⟩
  have hreg := beginTrain_reg hn v (s.nextRung n) (s.chan n).trainMode ((s.chan n).trainWhy.getD .setRate) true hkept
  obtain ⟨hst, -, hset, -⟩ := beginTrain_settings hn v (s.nextRung n) (s.chan n).trainMode ((s.chan n).trainWhy.getD .setRate) true
  rw [ht]
  refine ⟨?_, ?_, hst, ?_, hset⟩
  · rw [fld_of_reg (hreg.trans hwords), hstep']
  · rw [fld_of_reg (hreg.trans hwords), htarget']
  · rw [bit_of_reg (beginTrain_reg hn v _ _ _ true ⟨by omega, by omega, by omega, by omega⟩), hbit]

theorem leaveReset_page (s : State) (n : Nat) {a : Nat} (h : 0x1000000 ≤ a) : (s.leaveReset n).reg a = s.reg a := by
  rw [leaveReset_eq, (runEntry_talks _ n 0 2048).reg a (raiseReg_page h), modChan_reg]

/-- The channel of a training that has failed at every rate, before anything that waited for it ends (R137). -/
def State.trainEnds (s : State) (n : Nat) : State :=
  ((((if ((s.dropResets n).chan n).inReset then (s.dropResets n).leaveReset n else (s.dropResets n).busEnds n).modChan n
    (fun c => { c with st := .unconfigured, mode := 1, rate := 0, trainWhy := none })).setFld (chanPage n + 0xA0) 7 0 0).attn
      n 3)

theorem trainLost_eq {s : State} {n : Nat} (hwhy : (s.chan n).trainWhy = some .setRate ∨
    (s.chan n).trainWhy = some .retrain ∨ (s.chan n).trainWhy = some .load) : s.trainLost n = s.trainEnds n := by
  unfold State.trainLost
  extract_lets why u0 u1 u2 u3
  have h3 : u3 = s.trainEnds n := rfl
  rw [h3]
  clear_value u3
  unfold why
  rcases hwhy with h | h | h <;> rw [h]

/-- A training that has failed at every rate leaves its channel unconfigured (R137, R460). -/
theorem trainEnds_settings (s : State) (n : Nat) :
    let t := s.trainEnds n
    t.fld (chanPage n + 0xA0) 26 24 = s.fld (chanPage n + 0xA0) 26 24 ∧
    t.fld (chanPage n + 0xA0) 29 27 = s.fld (chanPage n + 0xA0) 29 27 ∧
    (t.chan n).st = .unconfigured ∧ (t.chan n).mode = 1 ∧ (t.chan n).rate = 0 ∧
    t.bit (chanPage n + 0xA8) 3 = true ∧ t.fld (chanPage n + 0xA0) 7 0 = 0 := by
  have hpage : 0x1000000 ≤ chanPage n := by unfold chanPage; omega
  have hdropped := (dropResets_quiet s n).reg (chanPage n + 0xA0) (by omega)
  unfold State.trainEnds
  generalize s.dropResets n = u at hdropped ⊢
  have hended : (if (u.chan n).inReset then u.leaveReset n else u.busEnds n).reg (chanPage n + 0xA0) =
      s.reg (chanPage n + 0xA0) := by
    split
    · rw [leaveReset_page _ _ (by omega), hdropped]
    · rw [(busEnds_quiet u n).reg _ (by omega), hdropped]
  generalize (if (u.chan n).inReset then u.leaveReset n else u.busEnds n) = v at hended ⊢
  have hreg := (modChan_reg v n (fun c => { c with st := .unconfigured, mode := 1, rate := 0, trainWhy := none })
    (chanPage n + 0xA0)).trans hended
  have hchan := modChan_get v n n (fun c => { c with st := .unconfigured, mode := 1, rate := 0, trainWhy := none })
  rw [if_pos rfl] at hchan
  generalize v.modChan n _ = w at hreg hchan ⊢
  intro t
  have hfld (hi lo : Nat) : t.fld (chanPage n + 0xA0) hi lo = (w.setFld (chanPage n + 0xA0) 7 0 0).fld (chanPage n + 0xA0)
      hi lo := fld_of_reg (attn_page _ n 3 (by omega) (by omega)) hi lo
  have hchan' : t.chan n = w.chan n := (attn_chan _ n 3 n).trans (setFld_chan w _ _ _ _ n)
  refine ⟨?_, ?_, ?_, ?_, ?_, attn_bit _ n (by omega), ?_⟩
  · rw [hfld, setFld_fld_other _ _ _ _ _ _ _ _ (by omega) (by omega) (by omega) (by omega), fld_of_reg hreg]
  · rw [hfld, setFld_fld_other _ _ _ _ _ _ _ _ (by omega) (by omega) (by omega) (by omega), fld_of_reg hreg]
  · rw [hchan', hchan]
  · rw [hchan', hchan]
  · rw [hchan', hchan]
  · rw [hfld, setFld_fld _ _ _ _ _ (by omega) (by omega), Nat.zero_mod]

theorem rungFailed_low {s : State} {n step target : Nat} (hstep : step < 8) (htarget : target < 8)
    (hwhy : (s.chan n).trainWhy = some .setRate ∨ (s.chan n).trainWhy = some .retrain ∨ (s.chan n).trainWhy = some .load)
    (hrate : (s.chan n).trainRate ≤ 72) :
    let t := s.rungFailed n step target
    t.fld (chanPage n + 0xA0) 26 24 = step ∧ t.fld (chanPage n + 0xA0) 29 27 = target ∧
    (t.chan n).st = .unconfigured ∧ (t.chan n).mode = 1 ∧ (t.chan n).rate = 0 ∧
    t.bit (chanPage n + 0xA8) 3 = true ∧ t.fld (chanPage n + 0xA0) 7 0 = 0 := by
  obtain ⟨hstep', htarget'⟩ := stepFailed_fields s (n := n) hstep htarget
  unfold State.rungFailed
  rw [lowerRung_low hrate]
  dsimp only
  rw [trainLost_eq (by rw [stepFailed_chan]; exact hwhy)]
  obtain ⟨h26, h29, hrest⟩ := trainEnds_settings (s.stepFailed n step target) n
  exact ⟨h26.trans hstep', h29.trans htarget', hrest⟩

end Sys2Proof.Machine
end

section
/-! DISCOVERY_END: what a discovery shows of its channel (R122, R123, R132, R133). -/

namespace Sys2Proof.Machine
open Sys2Proof

theorem exec_discoveryEnd {s : State} {n : Nat} (hn : n < s.nch) (hhost : s.hostOn = true) (found : List TargetReport) :
    exec (.discoveryEnd n found) s = .next (s.discovered n found) := by
  show execDiscoveryEnd n found s = _
  simp [execDiscoveryEnd, hn, hhost]

/-- No discovery ends before its reset has gone out (R122). -/
theorem discovered_waits {s : State} {n : Nat} (h : ∀ e, e ∈ s.ownResets n → e.2.sent = false) (found : List TargetReport) :
    s.discovered n found = s := by
  have hnone : (s.ownResets n).any (fun e => e.2.sent) = false := by
    rw [List.any_eq_false]
    exact fun e he => by simp [h e he]
  unfold State.discovered
  rw [hnone, if_pos (by simp)]

/-! The geometry registers of a channel. -/

/-- Each chip enable of a channel gets its two geometry registers. -/
def State.geometries (s : State) (n : Nat) (w : Nat → Word × Word) (l : List Nat) : State :=
  l.foldl (fun (s : State) t => (s.setReg (geomAt n t) (w t).1).setReg (geomAt n t + 4) (w t).2) s

section
variable (n : Nat) (w : Nat → Word × Word) (l : List Nat) (s : State)

theorem geometries_cons (x : Nat) : s.geometries n w (x :: l) =
    ((s.setReg (geomAt n x) (w x).1).setReg (geomAt n x + 4) (w x).2).geometries n w l := rfl

theorem geometries_lo (i : Nat) : (s.geometries n w l).reg (geomAt n i) = if i ∈ l then (w i).1 else s.reg (geomAt n i) := by
  induction l generalizing s with
  | nil => rfl
  | cons x l ih =>
    rw [geometries_cons, ih, setReg_reg, setReg_reg]
    by_cases hx : x = i
    · simp [hx]
    · have hlo : geomAt n x ≠ geomAt n i := by unfold geomAt; omega
      have hhi : geomAt n x + 4 ≠ geomAt n i := by unfold geomAt; omega
      simp [hlo, hhi, Ne.symm hx]

theorem geometries_hi (i : Nat) :
    (s.geometries n w l).reg (geomAt n i + 4) = if i ∈ l then (w i).2 else s.reg (geomAt n i + 4) := by
  induction l generalizing s with
  | nil => rfl
  | cons x l ih =>
    rw [geometries_cons, ih, setReg_reg, setReg_reg]
    by_cases hx : x = i
    · simp [hx]
    · have hlo : geomAt n x ≠ geomAt n i + 4 := by unfold geomAt; omega
      have hhi : geomAt n x ≠ geomAt n i := by unfold geomAt; omega
      simp [hlo, hhi, Ne.symm hx]

theorem geometries_other {a : Nat} (h : ∀ i, i ∈ l → geomAt n i ≠ a ∧ geomAt n i + 4 ≠ a) :
    (s.geometries n w l).reg a = s.reg a := by
  induction l generalizing s with
  | nil => rfl
  | cons x l ih =>
    obtain ⟨hlo, hhi⟩ := h x List.mem_cons_self
    rw [geometries_cons, ih _ fun i hi => h i (List.mem_cons_of_mem x hi), setReg_reg, if_neg hhi, setReg_reg, if_neg hlo]

theorem geometries_chan (j : Nat) : (s.geometries n w l).chan j = s.chan j := by
  induction l generalizing s with
  | nil => rfl
  | cons x l ih => rw [geometries_cons, ih, setReg_chan, setReg_chan]

end

/-- The geometry words of a chip enable: those of the target that is kept there, or none (R122). -/
def keptWords (kept : List TargetReport) (t : Nat) : Word × Word :=
  match kept.find? (fun r => r.ce == t) with | some r => targetWords r | none => (0, 0)

/-- What a discovery keeps of the targets that it has found, before it goes on to their training (R122, R133). -/
def State.targetsKept (s : State) (n : Nat) (kept : List TargetReport) : State :=
  (s.geometries n (keptWords kept) (countUp 0 8)).modChan n (fun c => { c with
    present := BitVec.ofNat 8 (kept.foldl (fun v r => v ||| 2 ^ r.ce) 0)
    stdRate := if kept.isEmpty then 0 else kept.foldl (fun m r => min m r.maxRate) 72
    warm := kept.foldl (fun m r => SMap.setD m r.ce (match goodPage r with | some g => g.warm | none => 0) 0) [] })

theorem targetsKept_chan (s : State) (n : Nat) (kept : List TargetReport) :
    ((s.targetsKept n kept).chan n).present = BitVec.ofNat 8 (kept.foldl (fun v r => v ||| 2 ^ r.ce) 0) ∧
    ((s.targetsKept n kept).chan n).stdRate = (if kept.isEmpty then 0 else kept.foldl (fun m r => min m r.maxRate) 72) ∧
    ((s.targetsKept n kept).chan n).mode = (s.chan n).mode := by
  unfold State.targetsKept
  rw [modChan_get, if_pos rfl, geometries_chan]
  exact ⟨rfl, rfl, rfl⟩

section
variable (s : State) (n : Nat) (kept : List TargetReport)

theorem targetsKept_geometry {i : Nat} (h : i < 8) :
    (s.targetsKept n kept).reg (geomAt n i) = (keptWords kept i).1 ∧
    (s.targetsKept n kept).reg (geomAt n i + 4) = (keptWords kept i).2 := by
  have hi : i ∈ countUp 0 8 := mem_countUp.2 ⟨by omega, by omega⟩
  unfold State.targetsKept
  rw [modChan_reg, modChan_reg, geometries_lo, geometries_hi, if_pos hi, if_pos hi]
  exact ⟨rfl, rfl⟩

theorem targetsKept_other {a : Nat} (h : a < chanPage n + 0x10 ∨ chanPage n + 0x50 ≤ a) :
    (s.targetsKept n kept).reg a = s.reg a := by
  unfold State.targetsKept
  rw [modChan_reg, geometries_other]
  intro i hi
  have := (mem_countUp.1 hi).2
  unfold geomAt
  omega

end

/-- A discovery that has reset its targets, once what they say has been read. -/
def State.discoveryRead (s : State) (n : Nat) (found : List TargetReport) : State := (s.identify n found).dropResets n

theorem discoveryRead_quiet (s : State) (n : Nat) (found : List TargetReport) : Quiet s (s.discoveryRead n found) :=
  (identify_quiet s n found).trans (dropResets_quiet _ n)

/-- A discovery that finds no target ends (R122). -/
theorem discovered_nothing {s : State} {n : Nat} (hst : (s.chan n).st = .discovering)
    (hsent : ∃ e, e ∈ s.ownResets n ∧ e.2.sent = true) :
    s.discovered n [] = (((s.discoveryRead n []).targetsKept n []).attn n 0).modChan n
      (fun c => { c with st := .unconfigured }) := by
  have hany : (s.ownResets n).any (fun e => e.2.sent) = true := List.any_eq_true.2 hsent
  unfold State.discovered
  rw [hany, if_neg (by simp [hst])]
  rfl

/-- A discovery that finds one target that the block serves trains its channel, where the mode suits the target (R122,
R132). -/
theorem discovered_one {s : State} {n : Nat} {r : TargetReport} (hst : (s.chan n).st = .discovering)
    (hsent : ∃ e, e ∈ s.ownResets n ∧ e.2.sent = true) (hce : r.ce < 8) (husable : targetUsable r = true)
    (hfamily : (tgtFamily r).isSome = true) (hmode : ((s.discoveryRead n [r]).targetsKept n [r]).modeOk n = true) :
    s.discovered n [r] = ((s.discoveryRead n [r]).targetsKept n [r]).bringUp n .discovery := by
  have hany : (s.ownResets n).any (fun e => e.2.sent) = true := List.any_eq_true.2 hsent
  have hpage : (goodPage r).isNone = false := by
    unfold targetUsable at husable
    split at husable
    · next g hg => rw [hg]; rfl
    · cases husable
  unfold State.discovered
  rw [hany, if_neg (by simp [hst])]
  extract_lets read seen good fam kept written checked std settled
  have hseen : seen = [r] := by
    unfold seen
    rw [List.filter_cons_of_pos (by simp [hce, hfamily]), List.filter_nil]
    rfl
  have hgood : good = [r] := by unfold good; rw [hseen, List.filter_cons_of_pos husable, List.filter_nil]
  have hkept : kept = [r] := by
    unfold kept fam
    rw [hgood, List.filter_cons_of_pos (by simp), List.filter_nil]
  have hchecked : checked = written := by
    unfold checked
    rw [hseen, hgood, hkept, if_neg (by simp [hpage])]
  have hsettled : settled = (s.discoveryRead n [r]).targetsKept n [r] := by
    unfold settled
    rw [hchecked]
    unfold written std
    rw [hkept]
    rfl
  rw [hsettled, hkept, hmode, if_neg (by simp), if_neg (by simp)]

/-- The family of a present target is bit 29 of its first geometry register (R123). -/
theorem regs_toggle (g : Geometry) : bitOf g.regs.1.toNat 29 = g.toggle := by
  have hlun2 : ofBool g.lun2 ≤ 1 := by cases g.lun2 <;> decide
  have h48 : ofBool g.gale4800 ≤ 1 := by cases g.gale4800 <;> decide
  have h64 : ofBool g.gale6400 ≤ 1 := by cases g.gale6400 <;> decide
  have hrow : ofBool g.row4 ≤ 1 := by cases g.row4 <;> decide
  unfold Geometry.regs bitOf
  rw [BitVec.toNat_ofNat]
  cases htog : g.toggle
  · have hzero : ofBool false = 0 := rfl
    rw [beq_eq_false_iff_ne, hzero]
    omega
  · have hone : ofBool true = 1 := rfl
    rw [beq_iff_eq, hone]
    omega

/-- The page of an ONFI target gives an ONFI geometry (R122). -/
theorem goodPage_onfi {r : TargetReport} {g : Geometry} (hfamily : tgtFamily r = some false) (h : goodPage r = some g) :
    g.toggle = false := by
  unfold goodPage at h
  rw [hfamily] at h
  obtain ⟨page, -, rfl⟩ := Option.map_eq_some_iff.1 h
  rfl

/-- An ONFI target has no Toggle bit (R122, R123). -/
theorem targetWords_onfi {r : TargetReport} (hfamily : tgtFamily r = some false) :
    bitOf (targetWords r).1.toNat 29 = false := by
  unfold targetWords
  split
  · next g hg =>
    split
    · rw [regs_toggle, goodPage_onfi hfamily hg]
    · rfl
  · rfl

theorem keptWords_one (r : TargetReport) (i : Nat) : keptWords [r] i = if r.ce = i then targetWords r else (0, 0) := by
  unfold keptWords
  by_cases h : r.ce = i <;> simp [h]

/-- Mode 2 suits an ONFI target (R132). -/
theorem modeOk_onfi {s : State} {n : Nat} {r : TargetReport} (hfamily : tgtFamily r = some false)
    (hmode : s.fld (chanPage n + 4) 11 8 = 2) : (s.targetsKept n [r]).modeOk n = true := by
  have hmode' : (s.targetsKept n [r]).fld (chanPage n + 4) 11 8 = 2 :=
    (fld_of_reg (targetsKept_other s n [r] (by omega)) 11 8).trans hmode
  unfold State.modeOk
  rw [hmode', Bool.and_eq_true, List.all_eq_true]
  refine ⟨rfl, fun i hi => ?_⟩
  have hi8 := (mem_countUp.1 (List.mem_of_mem_filter hi)).2
  unfold State.bit
  rw [(targetsKept_geometry s n [r] (i := i) (by omega)).1, keptWords_one]
  split
  · rw [targetWords_onfi hfamily]; rfl
  · rfl

/-- What a discovery that has found nothing shows of its channel (R122). -/
theorem discovered_nothing_settings {s : State} {n : Nat} (hst : (s.chan n).st = .discovering)
    (hsent : ∃ e, e ∈ s.ownResets n ∧ e.2.sent = true) :
    let t := s.discovered n []
    (t.chan n).st = .unconfigured ∧ (t.chan n).present = 0 ∧
    (∀ i, i < 8 → t.reg (geomAt n i) = 0 ∧ t.reg (geomAt n i + 4) = 0) ∧ t.bit (chanPage n + 0xA8) 0 = true := by
  intro t
  have ht : t = _ := discovered_nothing hst hsent
  rw [ht]
  generalize s.discoveryRead n [] = u
  obtain ⟨hpresent, -, -⟩ := targetsKept_chan u n []
  have hgeometry := fun i (hi : i < 8) => targetsKept_geometry u n [] hi
  generalize u.targetsKept n [] = v at hpresent hgeometry ⊢
  refine ⟨?_, ?_, fun i hi => ?_, ?_⟩
  · rw [modChan_get, if_pos rfl]
  · rw [modChan_get, if_pos rfl, attn_chan]
    exact hpresent
  · rw [modChan_reg, modChan_reg, attn_page _ n 0 (by unfold geomAt chanPage; omega) (by unfold geomAt; omega),
      attn_page _ n 0 (by unfold geomAt chanPage; omega) (by unfold geomAt; omega)]
    exact hgeometry i hi
  · rw [bit_of_reg (modChan_reg _ n _ _)]
    exact attn_bit v n (by omega)

/-- What a discovery that has found one ONFI target shows of its channel, at a standard rate (R122, R132, R135). -/
theorem discovered_one_settings {s : State} {n : Nat} (hn : n < 256) {r : TargetReport}
    (hst : (s.chan n).st = .discovering) (hsent : ∃ e, e ∈ s.ownResets n ∧ e.2.sent = true) (hce : r.ce < 8)
    (husable : targetUsable r = true) (hfamily : tgtFamily r = some false) (hmode : s.fld (chanPage n + 4) 11 8 = 2)
    (hrate : s.fld (chanPage n + 4) 23 16 ≤ 72) :
    let t := s.discovered n [r]
    (t.chan n).st = .training ∧ (t.chan n).mode = (s.chan n).mode ∧
    (t.chan n).trainMode = (if (t.chan n).trainRate = 0 then 1 else 2) ∧ (t.chan n).trainWhy = some .discovery ∧
    (t.chan n).trainRate = min (s.fld (chanPage n + 4) 23 16) (min 72 r.maxRate) ∧ (t.chan n).inReset = true ∧
    (t.chan n).present = BitVec.ofNat 8 (2 ^ r.ce) ∧ t.reg (geomAt n r.ce) = (targetWords r).1 ∧
    t.reg (geomAt n r.ce + 4) = (targetWords r).2 ∧
    t.bit (chanPage n + 0xA8) 0 = s.bit (chanPage n + 0xA8) 0 := by
  have hquiet := discoveryRead_quiet s n [r]
  have hpage : 0x1000000 ≤ chanPage n := by unfold chanPage; omega
  have hctrl (hi lo : Nat) : (s.discoveryRead n [r]).fld (chanPage n + 4) hi lo = s.fld (chanPage n + 4) hi lo :=
    fld_of_reg (hquiet.reg _ (by omega)) hi lo
  have hmodeOk := modeOk_onfi hfamily ((hctrl 11 8).trans hmode)
  intro t
  have ht : t = _ := discovered_one hst hsent hce husable (by rw [hfamily]; rfl) hmodeOk
  rw [ht]
  generalize s.discoveryRead n [r] = u at hquiet hctrl hmodeOk
  obtain ⟨hpresent, hstd, hkeeps⟩ := targetsKept_chan u n [r]
  obtain ⟨hlo, hhi⟩ := targetsKept_geometry u n [r] hce
  rw [keptWords_one, if_pos rfl] at hlo hhi
  have hctrl' (hi lo : Nat) : (u.targetsKept n [r]).fld (chanPage n + 4) hi lo = s.fld (chanPage n + 4) hi lo :=
    (fld_of_reg (targetsKept_other u n [r] (by omega)) hi lo).trans (hctrl hi lo)
  have hattn : (u.targetsKept n [r]).reg (chanPage n + 0xA8) = s.reg (chanPage n + 0xA8) :=
    (targetsKept_other u n [r] (by omega)).trans (hquiet.reg _ (by omega))
  generalize u.targetsKept n [r] = v at *
  obtain ⟨hst', hmode', htrain, hwhy, hreset, -, hpresent', hrate', -, -, hreg⟩ := bringUp_settings (s := v) hn .discovery
  rw [hctrl'] at htrain hrate'
  obtain ⟨hrate', hattn'⟩ := hrate' hrate
  refine ⟨hst', ?_, ?_, hwhy, ?_, hreset, ?_, ?_, ?_, ?_⟩
  · have hstill := congrArg Chan.mode (hquiet.chan n)
    exact hmode'.trans (hkeeps.trans hstill)
  · rw [htrain, hmode]
  · rw [hrate', hstd]
    rfl
  · rw [hpresent', hpresent]
    simp
  · rw [hreg _ ⟨by unfold geomAt; omega, by unfold geomAt; omega, by unfold geomAt; omega, by unfold geomAt; omega⟩
      (by unfold geomAt; omega) (by unfold geomAt; omega), hlo]
  · rw [hreg _ ⟨by unfold geomAt; omega, by unfold geomAt; omega, by unfold geomAt; omega, by unfold geomAt; omega⟩
      (by unfold geomAt; omega) (by unfold geomAt; omega), hhi]
  · exact bit_of_reg (hattn'.trans hattn) 0

end Sys2Proof.Machine
end

section
/-! The commands that find, train and retrain a channel (R16, R122, R132, R136, R137, R139, R427, R428). -/

namespace Sys2Proof
open Machine

/-- Settles O50: a page of registers and the settings of a channel are followed through the bus jobs, the resets and the
works that a discovery or a training moves; each command is then read off the branch that it takes. -/
theorem trainingCommandsComplete : Obligations.TrainingCommandsComplete := by
  unfold Obligations.TrainingCommandsComplete
  intro s n hn
  have hn256 : n < 256 := lt_of_lt_of_le hn (channels_le s.build)
  have hpage : 0x1000000 ≤ chanPage n := by unfold chanPage; omega
  refine ⟨?_, ?_, ?_, ?_, ?_, ?_, ?_, ?_, ?_, ?_, ?_, ?_, ?_, ?_, ?_⟩
  · intro hs hreset hstore hfenced hbusy hbay hdisc htrain hreq
    exact discover_starts hn hs hreset hstore hfenced hbusy hbay hdisc htrain hreq
  · intro hs hreset h
    exact (exec_discover hn hs hreset).trans (congrArg _ (discover_ignored h))
  · intro hhost hst hsent
    exact ⟨_, exec_discoveryEnd hn hhost [], discovered_nothing_settings hst hsent⟩
  · intro hhost _ hnone found
    exact (exec_discoveryEnd hn hhost found).trans (congrArg _ (discovered_waits hnone found))
  · intro r hhost hst hsent hce husable hfamily hmode _ hrate
    exact ⟨_, exec_discoveryEnd hn hhost [r], discovered_one_settings hn256 hst hsent hce husable hfamily hmode hrate⟩
  · intro hs hreset hstore hfenced hbus hst hrate hmode hsome hbay
    refine ⟨_, (exec_setRate hn hs hreset).trans (congrArg _ (setRate_taken hreset hstore hfenced hbus hst hrate hmode
      hsome hbay)), ?_⟩
    obtain ⟨hst', hmode', htrain, hwhy, hreset', hlive, -, hstd, hgale, hbelow, -⟩ :=
      bringUp_settings (s := s) hn256 .setRate
    exact ⟨hst', hmode', htrain, hwhy, hreset', hlive, fun h => (hstd h).1, hgale, hbelow⟩
  · intro hs hreset hstore hfenced hbus hst
    refine ⟨_, (exec_retrain hn hs hreset).trans (congrArg _ (retrain_taken hreset hstore hfenced hbus hst)), ?_⟩
    obtain ⟨hst', hrate, htrain, hwhy, hreset', hlive, horder⟩ := retrainNow_settings (s := s) hn256 .retrain false
    rw [hreset, Bool.false_or, Bool.or_false] at hreset'
    exact ⟨hst', hrate, htrain, hwhy, hreset', hlive, horder⟩
  · intro hhost hst hreset hstore
    obtain ⟨hchan, hothers, hframe⟩ := relock_settings s n
    refine ⟨_, exec_pllRelock hn hhost hst hreset hstore, hchan, fun himage hrate => ?_, hothers, hframe⟩
    obtain ⟨hidle, hkeeps⟩ := leaveReset_idle himage
    exact startTrain_runs hidle (by rw [hkeeps]; exact hrate)
  · intro re we target eq vref rd wd hhost hst hreset hstore hown hwhy heye
    refine ⟨_, (exec_trainingEnd hn hhost _).trans (congrArg _ (trained_ok hst hreset hstore hown heye target eq vref rd
      wd)), ?_⟩
    obtain ⟨hchan, hbit, hdone, htrack, hword⟩ := rungTrained_settings hwhy re we eq vref rd wd
    obtain ⟨hrate, hmode, hlow, hhigh⟩ := coded_keeps (s.chan n) vref rd wd
    generalize s.rungTrained n re we eq vref rd wd = t at hchan hbit hdone htrack hword
    have hst' := congrArg Chan.st hchan
    have hrate' := congrArg Chan.rate hchan
    have hmode' := congrArg Chan.mode hchan
    have hwhy' := congrArg Chan.trainWhy hchan
    have hlive := congrArg Chan.live hchan
    have htarget := congrArg Chan.target hchan
    refine ⟨hst', hrate'.trans hrate, hmode'.trans hmode, hwhy', hbit, hdone, htrack, fun hlt => ?_, fun hlt => ?_,
      fun hle hl ht => ?_⟩
    · obtain ⟨hword7, hword13, hword19⟩ := trainWord_fields (rate := (s.chan n).trainRate) (re := re) (we := we) (eq := eq)
        (failed := s.fld (chanPage n + 0xA0) 29 24) hlt
      unfold State.fld
      rw [hword]
      exact ⟨hword7, hword13, hword19⟩
    · have hsame := hlow hlt
      have hlive' := congrArg Chan.live hsame
      have htarget' := congrArg Chan.target hsame
      exact ⟨hlive.trans hlive', htarget.trans htarget'⟩
    · obtain ⟨hcodeLive, hcodeTarget⟩ := hhigh hle hl ht
      exact ⟨(congrArg (fun l => nth l 3 0) hlive).trans hcodeLive, (congrArg (fun l => nth l 3 0) htarget).trans hcodeTarget⟩
  · intro re we target eq vref rd wd hreset hrate heye
    exact exec_trainingEnd_congr (trained_narrow hreset hrate heye target eq vref rd wd)
  · intro target _ hown
    exact exec_trainingEnd_congr (trained_busy hown target)
  · intro step target hhost hst hown hstore htarget hstep hwhy
    refine ⟨_, (exec_trainingEnd hn hhost _).trans (congrArg _ (trained_fail hst hown hstore hstep target)), ?_⟩
    have hstep8 : step < 8 := by omega
    by_cases hrate : (s.chan n).trainRate ≤ 72
    · obtain ⟨h26, h29, hst', hmode, hrate0, hbit, hfld⟩ := rungFailed_low hstep8 htarget hwhy hrate
      exact ⟨h26, h29, fun _ => ⟨hst', hmode, hrate0, hbit, hfld⟩, fun h => absurd hrate (by omega)⟩
    · obtain ⟨h26, h29, hst', hbit, hnext⟩ := rungFailed_high hn256 hstep8 htarget (s := s) (by omega)
      exact ⟨h26, h29, fun h => absurd h hrate, fun _ => ⟨hst', hbit, hnext⟩⟩
  · intro late i rest hhost hreset horder heye
    obtain ⟨hlive, htarget⟩ := trimStep_eq horder
    refine ⟨_, (exec_strobeTrackingWindow hn hhost late).trans (congrArg _ (trackWindow_trims hreset
      (by rw [horder]; exact List.cons_ne_nil i rest) heye late)), ?_, ?_, fun j hj => ?_,
      (modChan_same (Same.refl _ s) rfl n _).eq_of_chans⟩
    · rw [modChan_get, if_pos rfl, hlive]
    · rw [modChan_get, if_pos rfl, htarget]
    · rw [modChan_get, if_neg (Ne.symm hj)]
  · intro up hhost hreset hst hnone hrate hlimit
    obtain ⟨hoffset, hpeak, hsame⟩ := trackWindow_fields hreset hst hnone hrate up hlimit
    exact ⟨_, exec_strobeTrackingWindow hn hhost (some up), hoffset, hpeak, hsame.eq_of_regs⟩
  · intro hhost hnone
    exact (exec_strobeTrackingWindow hn hhost none).trans (congrArg _ (trackWindow_idle hnone))

end Sys2Proof
end

section
/-! SUPPORT. Doorbells, the life of a queue, and the completions of an SQ fetch, for the statements on queues. -/

namespace Sys2Proof.Machine
open Sys2Proof

/-! Doorbells (R45, R46, R61). -/

/-- A value out of range sets `db_error` and moves no tail (R46). -/
theorem sqDoorbell_error {s : State} {q : Nat} {v : Word} (hq : (s.queue q).st = .active)
    (h : wfld v 31 16 ≠ 0 ∨ (s.qPush q = false ∧ s.sqDepth q ≤ wfld v 15 0)) : s.sqDoorbell q v = s.dbError q := by
  unfold State.sqDoorbell
  rw [if_neg (by simp [hq])]
  by_cases hhi : wfld v 31 16 ≠ 0
  · rw [if_pos hhi]
  · obtain ⟨hp, hlo⟩ := h.resolve_left hhi
    rw [if_neg hhi, if_neg (by simp [hp]), if_pos hlo]

theorem sqDoorbell_push {s : State} {q : Nat} {v : Word} (hp : s.qPush q = true) (hhi : wfld v 31 16 = 0) :
    s.sqDoorbell q v = s := by
  unfold State.sqDoorbell
  rw [if_neg (by simp [hhi] : ¬ wfld v 31 16 ≠ 0), if_pos hp, ite_self]

theorem sqDoorbell_idle {s : State} {q : Nat} {v : Word} (hq : (s.queue q).st ≠ .active) : s.sqDoorbell q v = s :=
  if_pos hq

theorem dbError_bit (s : State) (q : Nat) : (s.dbError q).bit (qcAt q + 0x1C) 7 = true :=
  setBit_bit s _ 7 true (by omega)

theorem dbError_reg (s : State) (q : Nat) {a : Nat} (h : a ≠ qcAt q + 0x1C) : (s.dbError q).reg a = s.reg a :=
  setBit_reg s _ 7 true a (Ne.symm h)

theorem cqDoorbell_idle {s : State} {q : Nat} {v : Word} (ha : (s.queue q).st ≠ .active)
    (hd : (s.queue q).st ≠ .draining) : s.cqDoorbell q v = s := if_pos ⟨ha, hd⟩

/-- A queue that is ACTIVE or DRAINING takes a value of 16 bits: its head moves, or `db_error` sets (R61). -/
theorem cqDoorbell_takes {s : State} {q : Nat} {v : Word}
    (hq : (s.queue q).st = .active ∨ (s.queue q).st = .draining) (hhi : wfld v 31 16 = 0) :
    s.cqDoorbell q v = if wfld v 15 0 ≥ s.cqDepth q then s.dbError q
      else s.setQueue q { s.queue q with cqHead := wfld v 15 0 } := by
  unfold State.cqDoorbell
  dsimp only
  rw [if_neg (by rcases hq with h | h <;> simp [h]), if_neg (by simp [hhi])]
  rfl

/-- Bits [31:16] set are an error of an ACTIVE queue, and nothing to a DRAINING one (R45). -/
theorem cqDoorbell_high {s : State} {q : Nat} {v : Word}
    (hq : (s.queue q).st = .active ∨ (s.queue q).st = .draining) (hhi : wfld v 31 16 ≠ 0) :
    s.cqDoorbell q v = if (s.queue q).st = .active then s.dbError q else s := by
  unfold State.cqDoorbell
  dsimp only
  rw [if_neg (by rcases hq with h | h <;> simp [h]), if_pos hhi]

/-! The life of a queue (R40, R42). -/

theorem SMap.get_filter_key {α : Type} (p : Nat → Bool) (m : SMap α) (k : Nat) :
    SMap.get (m.filter (fun e => p e.1)) k = if p k then SMap.get m k else none := by
  induction m with
  | nil => simp [SMap.get]
  | cons e r ih =>
    obtain ⟨j, v⟩ := e
    by_cases hp : p j = true
    · rw [List.filter_cons_of_pos (by exact hp)]
      by_cases hk : j = k
      · subst hk; simp [SMap.get, hp]
      · simp [SMap.get, hk, ih]
    · rw [List.filter_cons_of_neg (by exact hp), ih]
      by_cases hk : j = k
      · subst hk; simp [hp]
      · simp [SMap.get, hk]

/-- The slots of window `w` empty, and no other slot. -/
theorem clearWindow_slot (s : State) (w k : Nat) :
    (s.clearWindow w).pushSlot k = if k / 64 = w then PushSlot.init else s.pushSlot k := by
  unfold State.clearWindow State.pushSlot SMap.getD
  rw [SMap.get_filter_key (fun j => j / 64 != w)]
  by_cases h : k / 64 = w <;> simp [h]

section
variable {s : State} (hs : s.serving = true) {q : Nat} (hq : q < 32768)
include hs hq

theorem exec_queueCreate : exec (.queueCreate q) s = .next (s.createQueue q) := by
  show execQueueCreate q s = _
  simp [execQueueCreate, asleep_of_serving hs, hs, queueOk, hq]

theorem exec_queueDelete : exec (.queueDelete q) s = .next (s.deleteQueue q) := by
  show execQueueDelete q s = _
  simp [execQueueDelete, asleep_of_serving hs, hs, queueOk, hq]

end

theorem createQueue_refused {s : State} {q : Nat} (hst : (s.queue q).st = .disabled) (hc : s.createCause q ≠ 0) :
    s.createQueue q = s.setQueue q { s.queue q with cause := s.createCause q } := by
  unfold State.createQueue
  rw [if_pos hst]
  dsimp only
  rw [if_neg hc]

theorem createQueue_idle {s : State} {q : Nat} (hst : (s.queue q).st ≠ .disabled) : s.createQueue q = s := if_neg hst

/-- The window of a queue in push mode empties (R40). -/
def State.windowCleared (s : State) (q : Nat) : State := if s.qPush q then s.clearWindow (s.qWindow q) else s

theorem createQueue_passes {s : State} {q : Nat} (hst : (s.queue q).st = .disabled) (hc : s.createCause q = 0) :
    s.createQueue q = (s.windowCleared q).setQueue q { Queue.init with st := .active } := by
  unfold State.createQueue
  rw [if_pos hst]
  dsimp only
  rw [if_pos hc]
  rfl

theorem windowCleared_same {m : Nat} {z t : State} (hk : Same m z t) (h : 0x100 ||| m = m) (q : Nat) :
    Same m z (t.windowCleared q) := by
  unfold State.windowCleared
  split
  · exact clearWindow_same hk h _
  · exact hk

theorem windowCleared_queue (s : State) (q k : Nat) : (s.windowCleared q).queue k = s.queue k := by
  unfold State.queue
  rw [(windowCleared_same (m := 0x100) (Same.refl _ s) rfl q).queues rfl]

theorem windowCleared_slot (s : State) (q k : Nat) : (s.windowCleared q).pushSlot k =
    if s.qPush q = true ∧ k / 64 = s.qWindow q then PushSlot.init else s.pushSlot k := by
  unfold State.windowCleared
  by_cases hp : s.qPush q = true
  · rw [if_pos hp, clearWindow_slot]
    simp [hp]
  · simp [hp]

/-- A queue that starts to drain (R42): its unread entries are dropped, and those due too where it was FAULTED. -/
def Queue.deleted (x : Queue) : Queue :=
  { x with st := .draining, fetched := [], fetchNext := x.sqHead, sqTail := x.sqHead, discard := x.st == .faulted
           due := if x.st == .faulted then [] else x.due }

/-- A deleted queue in fetch mode with no tag in use, and with no entry to drop. -/
theorem deleteQueue_plain {s : State} {q : Nat} (htags : s.tagsOf q = []) (hp : s.qPush q = false)
    (hst : (s.queue q).st = .active ∨ ((s.queue q).st = .faulted ∧ (s.queue q).due = [])) :
    s.deleteQueue q = (s.setQueue q (s.queue q).deleted).dropFetches q := by
  have hnone : ∀ x, ((s.setQueue q x).tagsOf q) = [] := fun _ => htags
  unfold State.deleteQueue Queue.deleted
  simp only [hp, Bool.false_eq_true, if_false]
  rcases hst with hst | ⟨hst, hdue⟩
  · simp [hst, hnone]
  · simp [hst, hdue, hnone]

theorem deleteQueue_idle {s : State} {q : Nat} (hst : (s.queue q).st = .disabled ∨ (s.queue q).st = .draining) :
    s.deleteQueue q = s := by
  unfold State.deleteQueue
  dsimp only
  rw [if_neg (by rcases hst with h | h <;> simp [h])]

theorem Same.eq_of_queues_push {s t : State} (h : Same 0x180 s t) : t = { s with queues := t.queues, push := t.push } :=
  h.eq

theorem Same.eq_of_queues_ep {s t : State} (h : Same 0xC0 s t) : t = { s with queues := t.queues, ep := t.ep } := h.eq

/-- The queues, and what else changed, when a queue was deleted. -/
theorem deleted_queue (s : State) (q : Nat) (x : Queue) :
    ((s.setQueue q x).dropFetches q).queue q = x ∧
    (∀ k, k ≠ q → ((s.setQueue q x).dropFetches q).queue k = s.queue k) ∧
    Same 0xC0 s ((s.setQueue q x).dropFetches q) := by
  have hkeeps : ∀ k, ((s.setQueue q x).dropFetches q).queue k = (s.setQueue q x).queue k := fun _ => rfl
  refine ⟨?_, fun k hk => ?_, dropFetches_same (setQueue_same (Same.refl _ s) rfl q x) rfl q⟩
  · rw [hkeeps, setQueue_get, if_pos rfl]
  · rw [hkeeps, setQueue_get, if_neg (Ne.symm hk)]

/-! The completions of an SQ fetch (R44, R347). -/

/-- The block after its power-on, with one active queue and one request: a fetch of no bytes. -/
def zeroFetch : State :=
  { State.reset with
    ph := { State.reset.ph with blkReset := false, hclk := true }
    ep := { State.reset.ep with reqs := [(0, { user := .sqFetch 0 0 0, pair := 0, addr := 0, len := 0 })] }
    queues := [(0, { Queue.init with st := .active })] }

/-- A completion without data for a fetch of no bytes leaves every queue as it is: it marks no byte, poisoned or not, and
no entry arrives. -/
theorem completionIn_zero_queue (s : State) {r : Req} {q i n : Nat} (hu : r.user = .sqFetch q i n) (hlen : r.len = 0)
    (hgot : r.got = []) (hmarks : r.marks = []) (k : Nat) (poison : Bool) (j : Nat) :
    (s.completionIn k r .success [] poison).queue j = s.queue j := by
  have hsame : Same 0x400000000060 s (if poison then (s.dropReq k).poisonSeen true else s.dropReq k) := by
    split
    · exact poisonSeen_same (dropReq_same (Same.refl _ s) rfl k) rfl true
    · exact dropReq_same (Same.refl _ s) rfl k
  have harrive : ∀ u : State, u.reqData r [] [] = u := fun u => by
    simp [State.reqData, hu, State.sqArrive, pieces]
  have hend : s.completionIn k r .success [] poison = if poison then (s.dropReq k).poisonSeen true else s.dropReq k := by
    simp [State.completionIn, hlen, hgot, hmarks, copies, harrive]
  rw [hend]
  unfold State.queue
  rw [hsame.queues rfl]

end Sys2Proof.Machine
end

section
/-! Queue creation, deletion and drain, the doorbells, and the completions of an SQ fetch (R40, R42 to R46, R61, R347). -/

namespace Sys2Proof
open Machine

/-- Settles O25: one branch of the doorbell for each clause. -/
theorem sqTailDoorbellComplete : Obligations.SqTailDoorbellComplete := by
  unfold Obligations.SqTailDoorbellComplete
  intro s q v hq hs
  rw [exec_sqTailDoorbell hs hq]
  refine ⟨fun ha hhi hp hlo => ?_, fun ha h => ?_, fun _ hhi hp => ?_, fun hn => ?_⟩
  · rw [sqDoorbell_moves ha hp hhi hlo]
  · have hsame := dbError_same (m := 0x10) (Same.refl _ s) rfl q
    rw [sqDoorbell_error ha h]
    refine ⟨_, rfl, dbError_bit s q, ?_, fun a => dbError_reg s q, hsame.eq_of_regs⟩
    unfold State.queue
    rw [hsame.queues rfl]
  · rw [sqDoorbell_push hp hhi]
  · rw [sqDoorbell_idle hn]

/-- Settles O26: one branch of the doorbell for each clause. -/
theorem cqHeadDoorbellComplete : Obligations.CqHeadDoorbellComplete := by
  unfold Obligations.CqHeadDoorbellComplete
  intro s q v hq hs
  rw [exec_cqHeadDoorbell hs hq]
  refine ⟨fun h hhi hlo => ?_, fun ha h => ?_, fun hd hhi => ?_, fun hd hhi hlo => ?_, fun h => ?_⟩
  · rw [cqDoorbell_takes h hhi, if_neg (by omega)]
  · by_cases hhi : wfld v 31 16 = 0
    · rw [cqDoorbell_takes (.inl ha) hhi, if_pos (h.resolve_left (by simp [hhi]))]
      rfl
    · rw [cqDoorbell_high (.inl ha) hhi, if_pos ha]
      rfl
  · rw [cqDoorbell_high (.inr hd) hhi, if_neg (by simp [hd])]
  · rw [cqDoorbell_takes (.inr hd) hhi, if_pos hlo]
    rfl
  · rw [cqDoorbell_idle (by rcases h with h | h <;> simp [h]) (by rcases h with h | h <;> simp [h])]

/-- Settles O24: one branch of creation, deletion and drain for each clause; the window of a queue in push mode is a range
of slots. -/
theorem queueLifeComplete : Obligations.QueueLifeComplete := by
  unfold Obligations.QueueLifeComplete
  intro s q hq
  refine ⟨fun hs hst => ⟨fun hc => ?_, fun hc => ?_⟩, fun hs hst => ?_, fun hs hst htags hp => ?_,
    fun hs hst htags hp hdue => ?_, fun hs hst => ?_, fun hs hd => ?_, fun _ hd => ?_⟩
  · have hslot : ∀ x k, ((s.windowCleared q).setQueue q x).pushSlot k = (s.windowCleared q).pushSlot k :=
      fun _ _ => rfl
    refine ⟨_, (exec_queueCreate hs hq).trans (congrArg _ (createQueue_passes hst hc)), ?_, fun k hk => ?_,
      fun hp i hi => ?_, fun k hk => ?_,
      (setQueue_same (windowCleared_same (Same.refl _ s) rfl q) rfl q _).eq_of_queues_push⟩
    · rw [setQueue_get, if_pos rfl]
    · rw [setQueue_get, if_neg (Ne.symm hk), windowCleared_queue]
    · rw [hslot, windowCleared_slot, if_pos ⟨hp, by omega⟩]
    · rw [hslot, windowCleared_slot, if_neg]
      rintro ⟨hp, hw⟩
      rcases hk with hk | hk
      · simp [hp] at hk
      · exact hk hw
  · rw [exec_queueCreate hs hq, createQueue_refused hst hc]
  · rw [exec_queueCreate hs hq, createQueue_idle hst]
  · obtain ⟨hself, hother, hsame⟩ := deleted_queue s q (s.queue q).deleted
    refine ⟨_, (exec_queueDelete hs hq).trans (congrArg _ (deleteQueue_plain htags hp (.inl hst))), ?_, ?_, ?_, hother,
      hsame.eq_of_queues_ep⟩ <;> rw [hself]
    · rfl
    · simp [Queue.deleted, hst]
    · rfl
  · obtain ⟨hself, hother, hsame⟩ := deleted_queue s q (s.queue q).deleted
    refine ⟨_, (exec_queueDelete hs hq).trans (congrArg _ (deleteQueue_plain htags hp (.inr ⟨hst, hdue⟩))), ?_, ?_, ?_,
      hother, hsame.eq_of_queues_ep⟩ <;> rw [hself]
    · rfl
    · simp [Queue.deleted, hst]
    · rfl
  · rw [exec_queueDelete hs hq, deleteQueue_idle hst]
  · show execQueueDrainEnd q s = _
    simp [execQueueDrainEnd, hs, queueOk, hq, hd, State.modQueue]
  · show execQueueDrainEnd q s = _
    simp [execQueueDrainEnd, hd]

/-- Refutes O40: the last clause says that a poisoned completion faults the queue, and the completion of a fetch of no
bytes carries no byte that could be marked. -/
theorem not_readCompletionsComplete : ¬ Obligations.ReadCompletionsComplete := by
  unfold Obligations.ReadCompletionsComplete
  intro h
  obtain ⟨-, -, hfetch⟩ := h
  obtain ⟨-, -, -, -, hpoison⟩ := hfetch zeroFetch 0 0 0 0 { user := .sqFetch 0 0 0, pair := 0, addr := 0, len := 0 }
    rfl rfl rfl rfl
  obtain ⟨t, ht, hfaulted, -⟩ := hpoison [] rfl
  obtain rfl := Host.Outcome.next.inj ht
  rw [completionIn_zero_queue zeroFetch rfl rfl rfl rfl] at hfaulted
  exact absurd hfaulted (by decide)

end Sys2Proof
end

section
/-! SUPPORT. One turn of the interpreter: the row that a packet belongs to, the packet that is parsed next, and what a packet
leaves when it completes at once (R52, R56, R57, R80, R157). -/

namespace Sys2Proof.Machine
open Sys2Proof

/-! The arbiter decides which packet is parsed and not what the parse finds. -/

/-- State `s` with another arbiter. -/
def State.withArb (s : State) (a : Arbiter) : State := { s with arb := a }

theorem withArb_same {m : Nat} {z t : State} (hk : Same m z t) (h : 0x200 ||| m = m) (a : Arbiter) :
    Same m z (t.withArb a) := by
  unfold State.withArb
  apply Same.lit hk (h_arb := mayDiffer h rfl) <;> exact fun _ => rfl

theorem withArb_opcodeFails (s : State) (a : Arbiter) (o : Opcode) (p : Packet) :
    (s.withArb a).opcodeFails o p = s.opcodeFails o p := by
  cases o <;> rfl

theorem withArb_fieldFails (s : State) (a : Arbiter) (o : Opcode) (p : Packet) :
    (s.withArb a).fieldFails o p = s.fieldFails o p := by
  unfold State.fieldFails
  rw [withArb_opcodeFails]
  rfl

theorem withArb_verdict (s : State) (a : Arbiter) (q : Nat) (p : Packet) :
    (s.withArb a).verdict q p = s.verdict q p := by
  have hchan : ∀ n, (s.withArb a).chan n = s.chan n := fun _ => rfl
  have hbay : ∀ b, (s.withArb a).bayOn b = s.bayOn b := fun _ => rfl
  have hbays : ∀ o, (s.withArb a).bayList o p = s.bayList o p := fun _ => rfl
  have hpages : (s.withArb a).progPages p = s.progPages p := rfl
  have horder : ∀ x, (s.withArb a).obtViolates x = s.obtViolates x := fun _ => rfl
  unfold State.verdict
  simp only [withArb_fieldFails, hchan, hbay, hbays, hpages, horder]

/-! The commands that parse a packet. -/

/-- The row of an opcode that has one row. -/
def plainRow (q : Nat) : Opcode → Option Instr
  | .readPage => some (.readPage q)
  | .readQuarter => some (.readQuarter q)
  | .readRaw => some (.readRaw q)
  | .readRebuild => some (.readRebuild q)
  | .programPage => some (.programPage q)
  | .programRaw => some (.programRaw q)
  | .reprogramHeld => some (.reprogramHeld q)
  | .releaseFrame => some (.releaseFrame q)
  | .copyPage => some (.copyPage q)
  | .eraseBlock => some (.eraseBlock q)
  | .getFeature => some (.getFeature q)
  | .setFeature => some (.setFeature q)
  | .readParameterPage => some (.readParameterPage q)
  | .resetTarget => some (.resetTarget q)
  | .abort => some (.abort q)
  | .fence => some (.fence q)
  | .getDeferred => some (.getDeferred q)
  | .survey => some (.survey q)
  | .calibrate => some (.calibrate q)
  | .runRoutine => some (.runRoutine q)
  | .selfTest | .stripeParity => none

/-- The row of one mode of an opcode that has a row for each. -/
def modalRow (q mode : Nat) : Opcode → Option Instr
  | .selfTest =>
    if mode = 0 then some (.selfTestStartShort q) else if mode = 1 then some (.selfTestStartExtended q)
    else if mode = 2 then some (.selfTestStop q) else none
  | .stripeParity =>
    if mode = 0 then some (.stripeParityOpen q) else if mode = 1 then some (.stripeParityClose q)
    else if mode = 2 then some (.stripeParityDiscard q) else none
  | _ => none

theorem packetRow_iff {q : Nat} {p : Packet} {c : Instr} : packetRow q p = some c ↔
    ∃ o, pkOpcode p = some o ∧ (plainRow q o = some c ∨ modalRow q (pkByte p 48) o = some c) := by
  cases ho : pkOpcode p with
  | none => simp [packetRow, ho]
  | some o => cases o <;> simp [packetRow, ho, plainRow, modalRow]

theorem exec_plainRow {q : Nat} {o : Opcode} {c : Instr} (h : plainRow q o = some c) (s : State) :
    exec c s = .next (s.opcodeRow q o) := by
  cases o <;> cases h <;> rfl

theorem exec_modalRow {q mode : Nat} {o : Opcode} {c : Instr} (h : modalRow q mode o = some c) (s : State) :
    exec c s = .next (s.modeRow q o mode) := by
  cases o <;> simp only [modalRow, reduceCtorEq] at h
  all_goals
    split at h
    · next h0 => cases h; rw [h0]; rfl
    · split at h
      · next h1 => cases h; rw [h1]; rfl
      · split at h
        · next h2 => cases h; rw [h2]; rfl
        · cases h

/-- The row of a packet is a turn of the interpreter that parses this row's packets and no others. -/
theorem packetRow_turn {q : Nat} {p : Packet} {c : Instr} (h : packetRow q p = some c) :
    ∃ want : Nat → Packet → Bool, (∀ s, exec c s = .next (s.packetTurn want)) ∧ want q p = true ∧
      ∀ k p', want k p' = true → packetRow k p' = some c := by
  obtain ⟨o, ho, hplain | hmodal⟩ := packetRow_iff.1 h
  · refine ⟨fun k p' => k == q && pkOpcode p' == some o, exec_plainRow hplain, by simp [ho], fun k p' hw => ?_⟩
    simp only [Bool.and_eq_true, beq_iff_eq] at hw
    obtain ⟨rfl, ho'⟩ := hw
    exact packetRow_iff.2 ⟨o, ho', .inl hplain⟩
  · refine ⟨fun k p' => k == q && pkOpcode p' == some o && pkByte p' 48 == pkByte p 48, exec_modalRow hmodal,
      by simp [ho], fun k p' hw => ?_⟩
    simp only [Bool.and_eq_true, beq_iff_eq] at hw
    obtain ⟨⟨rfl, ho'⟩, hmode⟩ := hw
    exact packetRow_iff.2 ⟨o, ho', .inr (hmode ▸ hmodal)⟩

theorem parses_turn {c : Instr} {q : Nat} {p : Packet} (h : parses c q p) :
    ∃ want : Nat → Packet → Bool, (∀ s, exec c s = .next (s.packetTurn want)) ∧ want q p = true := by
  rcases h with rfl | h
  · exact ⟨fun _ _ => true, fun _ => rfl, rfl⟩
  · obtain ⟨want, hexec, hwant, -⟩ := packetRow_turn h
    exact ⟨want, hexec, hwant⟩

/-! The packet that a turn parses. -/

theorem meetOpenBlocks_clean {s : State} (h : s.rawGroups = []) : s.meetOpenBlocks = s := by
  have hmeet : ∀ l, s.obtMeet l = s := fun l => by
    unfold State.obtMeet
    rw [h]
    rfl
  unfold State.meetOpenBlocks
  dsimp only
  generalize s.queues.filterMap _ = luns
  induction luns with
  | nil => rfl
  | cons l luns ih => rw [List.foldl_cons, hmeet, ih]

/-- The state in which the packet of a turn is parsed: the turn counts it. -/
def State.turnCounted (s : State) (a : Arbiter) : State := s.withArb { a with turnCount := a.turnCount + 1 }

/-- The turn of the packet that is parsed next, where it is not left for a later turn. -/
theorem packetTurn_next {s t : State} {q : Nat} {p : Packet} {a : Arbiter} {want : Nat → Packet → Bool}
    (hparsing : s.parsing = true) (hraw : s.rawGroups = []) (harb : s.arbitrate = some (q, a))
    (hnext : s.nextPacket q = some p) (hwant : want q p = true) (ht : (s.turnCounted a).parseNext q p = some t) :
    s.packetTurn want = t.endTurn := by
  unfold State.packetTurn
  rw [if_neg (by simp [hparsing])]
  dsimp only
  rw [meetOpenBlocks_clean hraw, harb]
  dsimp only
  rw [hnext]
  dsimp only
  rw [if_neg (by simp [hwant]), meetContext_clean (s := { s with arb := { a with turnCount := a.turnCount + 1 } }) hraw]
  dsimp only
  rw [if_neg (by simp)]
  unfold State.turnCounted State.withArb at ht
  rw [ht]

theorem packetTurn_unwanted {s : State} {q : Nat} {p : Packet} {want : Nat → Packet → Bool} (h : parsesNext s q p)
    (hwant : want q p = false) : s.packetTurn want = s := by
  obtain ⟨hparsing, hraw, ⟨a, harb⟩, hnext, -⟩ := h
  unfold State.packetTurn
  rw [if_neg (by simp [hparsing])]
  dsimp only
  rw [meetOpenBlocks_clean hraw, harb]
  dsimp only
  rw [hnext]
  dsimp only
  rw [if_pos (by simp [hwant])]

/-- A command that parses the next packet leaves what the parse leaves, and the end of the turn. -/
theorem exec_parses {s : State} {q : Nat} {p : Packet} {c : Instr} (hnext : parsesNext s q p) (hc : parses c q p) :
    ∃ a, ∀ t, (s.turnCounted a).parseNext q p = some t → exec c s = .next t.endTurn := by
  obtain ⟨hparsing, hraw, ⟨a, harb⟩, hpacket, -⟩ := hnext
  obtain ⟨want, hexec, hwant⟩ := parses_turn hc
  exact ⟨a, fun t ht => (hexec s).trans (congrArg _ (packetTurn_next hparsing hraw harb hpacket hwant ht))⟩

theorem turnCounted_same {m : Nat} {z t : State} (hk : Same m z t) (h : 0x200 ||| m = m) (a : Arbiter) :
    Same m z (t.turnCounted a) := withArb_same hk h _

theorem parseNext_fail {s : State} {q info : Nat} {p : Packet} {st : Status} (hv : s.verdict q p = .fail st info) :
    s.parseNext q p = some ((s.advanceHead q).completeNow q (pkCid p) st info) := by
  unfold State.parseNext
  rw [hv]

theorem parseNext_order {s : State} {q w : Nat} {p : Packet} {a : Addr} (hv : s.verdict q p = .order a w) :
    s.parseNext q p = some (((s.advanceHead q).logOrder a q (pkCid p) w).completeNow q (pkCid p)
      .pageOrderViolation w) := by
  unfold State.parseNext
  rw [hv]

theorem parseNext_pass {s : State} {q : Nat} {p : Packet} {absent : Bool} (hv : s.verdict q p = .pass absent) :
    s.parseNext q p = (s.advanceHead q).accept q p absent := by
  unfold State.parseNext
  rw [hv]

theorem endTurn_cases (s : State) : ∃ a, s.endTurn = s.withArb a := by
  unfold State.endTurn
  split
  · split
    · exact ⟨s.arb, rfl⟩
    · exact ⟨_, rfl⟩
  · exact ⟨s.arb, rfl⟩

/-! The head of the queue, and a completion that leaves no slot behind. -/

/-- The push slot of the packet at the head is free again (R50). -/
def State.headFreed (s : State) (q : Nat) : State :=
  if s.qPush q then s.setPushSlot (64 * s.qWindow q + (s.queue q).sqHead) PushSlot.init else s

theorem headFreed_same (s : State) (q : Nat) : Same 0x100 s (s.headFreed q) := by
  unfold State.headFreed
  split
  · exact setPushSlot_same (Same.refl _ s) rfl _ _
  · exact Same.refl _ s

theorem Same.sqDepth {m : Nat} {s t : State} (h : Same m s t) (hregs : m.testBit 4 = false) (q : Nat) :
    t.sqDepth q = s.sqDepth q := by
  have hreg : ∀ a, t.reg a = s.reg a := fun a => by
    unfold State.reg
    rw [h.regs hregs]
  unfold State.sqDepth State.qPush State.bit State.fld
  simp only [hreg]

theorem Same.queue {m : Nat} {s t : State} (h : Same m s t) (hqueues : m.testBit 7 = false) (q : Nat) :
    t.queue q = s.queue q := by
  unfold State.queue
  rw [h.queues hqueues]

/-- A queue whose head packet has been taken (R56). -/
def Queue.headTaken (x : Queue) (depth : Nat) : Queue :=
  { x with sqHead := (x.sqHead + 1) % depth, fetched := SMap.erase x.fetched x.sqHead }

theorem advanceHead_queue (s : State) (q k : Nat) :
    (s.advanceHead q).queue k = if q = k then (s.queue q).headTaken (s.sqDepth q) else s.queue k := by
  have hsame := headFreed_same s q
  have heq : s.advanceHead q = (s.headFreed q).modQueue q (fun x => { x with
      sqHead := ((s.queue q).sqHead + 1) % (s.headFreed q).sqDepth q
      fetched := SMap.erase x.fetched (s.queue q).sqHead }) := rfl
  rw [heq, modQueue_get, hsame.queue rfl, hsame.sqDepth rfl]
  split
  · next h => subst h; rfl
  · rfl

/-- The completion of a command that took no tag and no slot. -/
def nowDue (cid : BitVec 16) (st : Status) (info : Nat) : Completion :=
  { tag := none, slot := none, cid := cid, status := st, info := BitVec.ofNat 32 info, replayed := false
    stagedAck := false, forwarded := false, veer := 0, assists := 0, hasData := none }

/-- A queue that delivers its completions holds a new one last (R61). -/
theorem pushDone_queued {s : State} {q : Nat} (h : (s.queue q).discard = false) (c : Completion) :
    s.pushDone q c = s.modQueue q (fun x => { x with due := x.due ++ [c] }) := by
  unfold State.pushDone
  rw [if_neg (by simp [h])]

theorem completeNow_queued {s : State} {q : Nat} (h : (s.queue q).discard = false) (cid : BitVec 16) (st : Status)
    (info : Nat) :
    s.completeNow q cid st info = s.modQueue q (fun x => { x with due := x.due ++ [nowDue cid st info] }) :=
  pushDone_queued h _

/-- What a packet that completes at once does to its queue and to the others. -/
theorem completedNow_queue {s u : State} {q : Nat} (hq : ∀ k, u.queue k = (s.advanceHead q).queue k)
    (hd : (s.queue q).discard = false) (cid : BitVec 16) (st : Status) (info : Nat) :
    ((u.completeNow q cid st info).queue q).due = (s.queue q).due ++ [nowDue cid st info] ∧
    ((u.completeNow q cid st info).queue q).sqHead = ((s.queue q).sqHead + 1) % s.sqDepth q ∧
    (∀ k, k ≠ q → (u.completeNow q cid st info).queue k = s.queue k) ∧
    ∀ {m z}, Same m z u → 0x80 ||| m = m → Same m z (u.completeNow q cid st info) := by
  have hhead : u.queue q = (s.queue q).headTaken (s.sqDepth q) := by rw [hq, advanceHead_queue, if_pos rfl]
  have hdu : (u.queue q).discard = false := by rw [hhead]; exact hd
  rw [completeNow_queued hdu]
  refine ⟨?_, ?_, fun k hk => ?_, fun hk h => modQueue_same hk h q _⟩
  · rw [modQueue_get, if_pos rfl, hhead]; rfl
  · rw [modQueue_get, if_pos rfl, hhead]; rfl
  · rw [modQueue_get, if_neg (Ne.symm hk), hq, advanceHead_queue, if_neg (Ne.symm hk)]

/-! The log of page-order violations (R157). -/

theorem chanPage_low (n : Nat) : 0x1000000 ≤ chanPage n := by unfold chanPage; omega

/-- The first word of an entry of the log is the page's address, and the attention bit of violations sets. -/
theorem logOrder_reg (s : State) (a : Addr) (q : Nat) (cid : BitVec 16) (w : Nat) :
    (s.logOrder a q cid w).reg (chanPage (aCh a) + 0x100 + 16 * s.fld (chanPage (aCh a) + 0x180) 2 0) =
      BitVec.ofNat 32 a.toNat ∧
    (s.logOrder a q cid w).bit (chanPage (aCh a) + 0xA8) 5 = true := by
  have hlt := fld_lt s (chanPage (aCh a) + 0x180) 2 0
  have hpage := chanPage_low (aCh a)
  unfold State.logOrder
  dsimp only
  refine ⟨?_, attn_bit _ _ (by omega)⟩
  rw [attn_reg _ _ _ _ (raiseReg_page (by omega)) (by omega), setFld_reg, if_neg (by omega), addFld_reg_other _ _ _ _
    (by omega), setReg_reg, if_neg (by omega), setReg_reg, if_neg (by omega), setReg_reg, if_neg (by omega), setReg_reg,
    if_pos rfl]

end Sys2Proof.Machine
end

section
/-! The packets that fail a check (R56, R80, R157). -/

namespace Sys2Proof
open Machine

theorem Machine.Same.eq_of_parse {s t : State} (h : Same 0x380 s t) :
    t = { s with arb := t.arb, queues := t.queues, push := t.push } := h.eq

/-- Settles O1: the turn parses the next packet with the verdict of the state before it; a failing packet takes the head of its
queue and leaves a completion. -/
theorem packetChecksComplete : Obligations.PacketChecksComplete := by
  unfold Obligations.PacketChecksComplete
  intro s q p hnext hd
  refine ⟨fun c st info hc hv => ?_, fun c x w hc hv => ?_, fun ho => ?_, fun r p' c hrow hne => ?_⟩
  · obtain ⟨a, hexec⟩ := exec_parses hnext hc
    have hparse := parseNext_fail (s := s.turnCounted a) ((withArb_verdict s _ q p).trans hv)
    have hsame := advanceHead_same (turnCounted_same (m := 0x380) (Same.refl _ s) rfl a) rfl q
    obtain ⟨hdue, hhead, hothers, hkeeps⟩ := completedNow_queue (s := s.turnCounted a) (q := q)
      (u := (s.turnCounted a).advanceHead q) (fun _ => rfl) hd (pkCid p) st info
    obtain ⟨b, hend⟩ := endTurn_cases (((s.turnCounted a).advanceHead q).completeNow q (pkCid p) st info)
    refine ⟨_, hexec _ hparse, ?_⟩
    rw [hend]
    exact ⟨hdue, hhead, hothers, (withArb_same (hkeeps hsame rfl) rfl b).eq_of_parse⟩
  · obtain ⟨a, hexec⟩ := exec_parses hnext hc
    have hparse := parseNext_order (s := s.turnCounted a) ((withArb_verdict s _ q p).trans hv)
    have hhead := advanceHead_same (turnCounted_same (m := 0x38080000390) (Same.refl _ s) rfl a) rfl q
    have hlogged := logOrder_same (m := 0x38080000010) (Same.refl _ ((s.turnCounted a).advanceHead q)) rfl x q (pkCid p) w
    have hsame := logOrder_same hhead rfl x q (pkCid p) w
    obtain ⟨hentry, hbit⟩ := logOrder_reg ((s.turnCounted a).advanceHead q) x q (pkCid p) w
    have hindex : ((s.turnCounted a).advanceHead q).fld (chanPage (aCh x) + 0x180) 2 0 =
        s.fld (chanPage (aCh x) + 0x180) 2 0 := by
      have hregs := (advanceHead_same (turnCounted_same (m := 0x380) (Same.refl _ s) rfl a) rfl q).regs rfl
      unfold State.fld State.reg
      rw [hregs]
    rw [hindex] at hentry
    generalize ((s.turnCounted a).advanceHead q).logOrder x q (pkCid p) w = u at hparse hlogged hsame hentry hbit
    obtain ⟨hdue, -, -, hkeeps⟩ := completedNow_queue (s := s.turnCounted a) (q := q) (u := u)
      (fun k => hlogged.queue rfl k) hd (pkCid p) .pageOrderViolation w
    obtain ⟨b, hend⟩ := endTurn_cases (u.completeNow q (pkCid p) .pageOrderViolation w)
    have hregs := (withArb_same (hkeeps (Same.refl 0x280 u) rfl) rfl b).regs rfl
    have hall := withArb_same (hkeeps hsame rfl) rfl b
    refine ⟨_, hexec _ hparse, ?_⟩
    rw [hend]
    refine ⟨⟨nowDue (pkCid p) .pageOrderViolation w, ?_, rfl, rfl, rfl, rfl⟩, ?_, ?_, hall.tags rfl, hall.frames rfl,
      hall.obt rfl, hall.works rfl⟩
    · exact hdue.symm ▸ List.mem_append_right _ List.mem_cons_self
    · exact (bit_of_reg (by unfold State.reg; rw [hregs]) 5).trans hbit
    · unfold State.reg
      rw [hregs]
      exact hentry
  · unfold State.verdict
    rw [ho]
  · obtain ⟨want, hexec, -, honly⟩ := packetRow_turn hrow
    rw [hexec, packetTurn_unwanted hnext (Bool.eq_false_iff.2 fun hw => hne (honly q p hw))]

end Sys2Proof
end

section
/-! A state against the statement on the end of encoding (R64, R74, R196, R229). -/

namespace Sys2Proof.Machine
open Sys2Proof

/-- The first dword of a PROGRAM_PAGE packet, with every other field 0. -/
def barePagePacket : Packet := BitVec.ofNat 512 Opcode.programPage.code

/-- A program whose data has arrived, on a queue that acknowledges on staging. Its status is ABORTED before its commit, and
its frame is listed as FREE while a read of the channel waits for a frame: the statement's hypotheses bound neither. -/
def freeFrameProgram : State :=
  { State.reset with
    ph := { State.reset.ph with blkReset := false, hclk := true }
    regs := [(qcAt 0 + 0x14, 0x100)]
    tags := [(0, { Tag.init with
      st := .fetching, opcode := some .programPage, packet := barePagePacket, frame := some 0, delivered := 2,
      status := .aborted })]
    works := [(0, Work.new .read .own 0 none 0)] }

theorem freeFrameProgram_live : liveTag freeFrameProgram 0 := by
  unfold liveTag
  decide

/-- The payload of the program is sound. -/
theorem freeFrameProgram_payload :
    (freeFrameProgram.programPayload 0 (freeFrameProgram.tag 0).packet
      (pkQuarterOut (freeFrameProgram.tag 0).packet)).1.2 = false := by decide +kernel

/-- The commit on staging ends the binding of the frame and serves the waiting reads, so the read takes the frame that holds
the encoded page. -/
theorem freeFrameProgram_stage_unstaged : ((freeFrameProgram.stage 0).frame 0).staged = false := by decide +kernel

end Sys2Proof.Machine
end

section
/-! The end of encoding, the data-out job and the decoder runs (R64, R74, R83, R85, R163, R229, R232, R238). -/

namespace Sys2Proof
open Machine

/-- Refutes O14: its first clause says that the frame of a program that stages is staged, and where the commit on staging has
a status that unbinds, a read takes a frame that the table lists as FREE. -/
theorem not_encodeAndDecodeComplete : ¬ Obligations.EncodeAndDecodeComplete := by
  unfold Obligations.EncodeAndDecodeComplete
  intro h
  obtain ⟨hstages, -⟩ := h freeFrameProgram
  obtain ⟨t, ht, -, hstaged, -⟩ := hstages 0 0 rfl freeFrameProgram_live rfl rfl rfl rfl rfl freeFrameProgram_payload
    (by simp [freeFrameProgram, Work.new])
  obtain rfl := Host.Outcome.next.inj ht
  rw [freeFrameProgram_stage_unstaged] at hstaged
  exact Bool.false_ne_true hstaged

end Sys2Proof
end

section
/-! SUPPORT. Tagless slots: the slot that a packet takes, its commit, and the packets that pass with one (R57, R65, R70, R75,
R107 to R109, R112). -/

namespace Sys2Proof.Machine
open Sys2Proof

/-! A slot is taken. -/

theorem Same.reg_of_regs {m : Nat} {s t : State} (h : Same m s t) (hregs : m.testBit 4 = false) (a : Nat) :
    t.reg a = s.reg a := by
  unfold State.reg
  rw [h.regs hregs]

/-- The lowest slot that is not in use. -/
def State.freeSlotOf (s : State) : Option Nat := (countUp 0 256).find? (fun k => !SMap.has s.slots k)

/-- A slot as a packet takes it (R57). -/
def newSlot (q : Nat) (p : Packet) (o : Opcode) (stamp : Nat) : Slot :=
  { sqid := q, cid := pkCid p, opcode := o, packet := p, stamp := stamp, done := false }

theorem takeSlot_none {s : State} (h : s.freeSlotOf = none) (q : Nat) (p : Packet) (o : Opcode) :
    s.takeSlot q p o = none := by
  unfold State.takeSlot State.freeSlotOf at *
  rw [h]

/-- What a packet that takes slot `k` leaves. -/
structure SlotTaken (s t : State) (q : Nat) (p : Packet) (o : Opcode) (k : Nat) : Prop where
  free : SMap.get s.slots k = none
  slots : t.slots = SMap.insert s.slots k (newSlot q p o s.stamp)
  reg : ∀ a, traceReg a = false → t.reg a = s.reg a
  clean : s.rawGroups = [] → t.rawGroups = []
  rest : Same 0x109800000810 s t

theorem setSlot_slots (s : State) (k : Nat) {x : Slot} (h : x.done = false) :
    (s.setSlot k x).slots = SMap.insert s.slots k x := by
  unfold State.setSlot SMap.setD
  exact if_neg fun hx => by rw [hx] at h; exact absurd h (by decide)

/-- A group's check bits are fresh. -/
def State.freshGroup (s : State) (k : Nat) : State := { s with rawGroups := SMap.erase s.rawGroups k }

theorem freshEntry_clean {s : State} (h : s.rawGroups = []) (c addr n : Nat) : (s.freshEntry c addr n).rawGroups = [] := by
  have herase : ∀ (l : List Nat) (u : State), u.rawGroups = [] →
      (l.foldl (fun u i => u.freshGroup (groupKey c (addr + 4 * i))) u).rawGroups = [] := by
    intro l
    induction l with
    | nil => exact fun _ hu => hu
    | cons i l ih => exact fun u hu => ih _ (congrArg (SMap.erase · _) hu)
  exact herase (countUp 0 (divUp n 4)) (s.dropWriteBack c (addr / 4 * 4) n) h

/-- The state in which slot `k` is written: the packet is traced, and the slot's entry is fresh (R448, R499). -/
def State.slotTraced (s : State) (q : Nat) (p : Packet) (k : Nat) : State :=
  (s.traceAccept q p none).tick.2.freshEntry 1 (mlogAddr 0 (16384 + k) 0) 256

theorem slotTraced_same {m : Nat} {z t : State} (hk : Same m z t) (h : 0x109800000010 ||| m = m) (q : Nat) (p : Packet)
    (k : Nat) : Same m z (t.slotTraced q p k) := by
  unfold State.slotTraced
  exact freshEntry_same (tick_same (traceAccept_same hk (up h rfl) q p none) (up h rfl)) (up h rfl) 1 _ 256

theorem slotTraced_reg (s : State) (q : Nat) (p : Packet) (k : Nat) {a : Nat} (ha : traceReg a = false) :
    (s.slotTraced q p k).reg a = s.reg a := by
  have hfresh := freshEntry_same (m := 0x1800000000) (Same.refl _ (s.traceAccept q p none).tick.2) rfl 1
    (mlogAddr 0 (16384 + k) 0) 256
  unfold State.slotTraced
  rw [hfresh.reg_of_regs rfl]
  show (s.traceAccept q p none).reg a = s.reg a
  exact traceRec_reg s _ _ _ _ _ _ a ha

theorem slotTraced_clean {s : State} (h : s.rawGroups = []) (q : Nat) (p : Packet) (k : Nat) :
    (s.slotTraced q p k).rawGroups = [] := by
  have htrace := traceAccept_same (m := 0x8000000010) (Same.refl _ s) rfl q p none
  exact freshEntry_clean (s := (s.traceAccept q p none).tick.2) ((htrace.rawGroups rfl).trans h) _ _ _

theorem takeSlot_takes {s : State} {k : Nat} (h : s.freeSlotOf = some k) (q : Nat) (p : Packet) (o : Opcode) :
    ∃ t, s.takeSlot q p o = some (k, t) ∧ SlotTaken s t q p o k := by
  have hfree := List.find?_some h
  have htrace := traceAccept_same (m := 0x8000000010) (Same.refl _ s) rfl q p none
  have htake : s.takeSlot q p o = some (k, (s.slotTraced q p k).setSlot k (newSlot q p o s.stamp)) := by
    rw [← htrace.stamp rfl]
    unfold State.takeSlot
    unfold State.freeSlotOf at h
    rw [h]
    rfl
  have hset := setSlot_same (m := 0x800) (Same.refl _ (s.slotTraced q p k)) rfl k (newSlot q p o s.stamp)
  refine ⟨_, htake, ?_, ?_, fun a ha => ?_, fun hraw => ?_, ?_⟩
  · simpa [SMap.has] using hfree
  · rw [setSlot_slots _ _ rfl, (slotTraced_same (m := 0x109800000010) (Same.refl _ s) rfl q p k).slots rfl]
  · exact (hset.reg_of_regs rfl a).trans (slotTraced_reg s q p k ha)
  · exact (hset.rawGroups rfl).trans (slotTraced_clean hraw q p k)
  · exact setSlot_same (slotTraced_same (Same.refl _ s) rfl q p k) rfl k _

/-! A slot commits. -/

theorem commitSlot_due {s : State} {k : Nat} {x : Slot} (hk : SMap.get s.slots k = some x) (hdone : x.done = false)
    (hd : (s.queue x.sqid).discard = false) (st : Status) (info : Nat) :
    dueTagless (s.commitSlot k st info) x.sqid x.cid st (BitVec.ofNat 32 info) ∧
    Same 0x880 s (s.commitSlot k st info) ∧ ((s.commitSlot k st info).slot k).done = true := by
  have hx : s.slot k = x := by unfold State.slot SMap.getD; rw [hk]; rfl
  have hd' : ((s.setSlot k { x with done := true }).queue x.sqid).discard = false := hd
  have heq : s.commitSlot k st info = (s.setSlot k { x with done := true }).modQueue x.sqid (fun y => { y with
      due := y.due ++ [{ nowDue x.cid st info with slot := some k }] }) := by
    unfold State.commitSlot
    rw [if_neg (by simp [SMap.has, hk, hx, hdone])]
    dsimp only
    rw [hx]
    exact pushDone_queued hd' _
  rw [heq]
  refine ⟨⟨{ nowDue x.cid st info with slot := some k }, ?_, rfl, rfl, rfl, rfl⟩,
    modQueue_same (setSlot_same (Same.refl _ s) rfl k _) rfl _ _, ?_⟩
  · rw [modQueue_get, if_pos rfl]
    exact List.mem_append_right _ List.mem_cons_self
  · show ((s.setSlot k _).slot k).done = true
    rw [setSlot_get, if_pos rfl]

theorem SMap.mem_of_get {α : Type} {m : SMap α} {k : Nat} {x : α} (h : SMap.get m k = some x) : (k, x) ∈ m := by
  induction m with
  | nil => cases h
  | cons e r ih =>
    obtain ⟨j, v⟩ := e
    by_cases hj : j = k
    · simp only [SMap.get, if_pos hj, Option.some.injEq] at h
      rw [hj, h]
      exact List.mem_cons_self
    · simp only [SMap.get, if_neg hj] at h
      exact List.mem_cons_of_mem _ (ih h)

namespace SlotTaken
variable {s t u : State} {q k : Nat} {p : Packet} {o : Opcode}

theorem get (h : SlotTaken s t q p o k) : SMap.get t.slots k = some (newSlot q p o s.stamp) := by
  rw [h.slots, SMap.get_insert_self]

/-- The slot commits with a completion for its queue, whatever else has changed since it was taken. -/
theorem commits (h : SlotTaken s t q p o k) (hslots : u.slots = t.slots) (hqueues : u.queues = t.queues)
    (hd : (s.queue q).discard = false) (st : Status) (info : Nat) :
    dueTagless (u.commitSlot k st info) q (pkCid p) st (BitVec.ofNat 32 info) ∧ Same 0x880 u (u.commitSlot k st info) := by
  have hqueue : u.queue q = s.queue q := by
    unfold State.queue
    rw [hqueues, h.rest.queues rfl]
  obtain ⟨hdue, hsame, -⟩ := commitSlot_due (s := u) (k := k) (x := newSlot q p o s.stamp) (by rw [hslots, h.get]) rfl
    (hqueue ▸ hd) st info
  exact ⟨hdue, hsame⟩

end SlotTaken

/-! The packets that pass. -/

theorem freeSlotOf_of_slots {s t : State} (h : t.slots = s.slots) : t.freeSlotOf = s.freeSlotOf := by
  unfold State.freeSlotOf
  rw [h]

/-- The opcodes that take a slot. -/
def Opcode.takesSlot (o : Opcode) : Prop := o = .abort ∨ o = .fence ∨ o = .getDeferred ∨ o = .selfTest

theorem accept_noSlot {s : State} {q : Nat} {p : Packet} {o : Opcode} (ho : pkOpcode p = some o) (hslot : o.takesSlot)
    (h : s.freeSlotOf = none) (absent : Bool) : s.accept q p absent = none := by
  unfold State.accept
  rw [ho]
  rcases hslot with rfl | rfl | rfl | rfl
  · simp only [State.acceptAbort, takeSlot_none h]
  · simp only [takeSlot_none h, Option.map_none]
  · simp only [State.acceptDeferred, takeSlot_none h, ite_self]
  · simp only [State.acceptSelfTest, takeSlot_none h]

/-- The state in which a packet that passed its checks is accepted. -/
structure HeadTaken (s v : State) (q : Nat) : Prop where
  queue : ∀ k, v.queue k = if q = k then (s.queue q).headTaken (s.sqDepth q) else s.queue k
  rest : Same 0x380 s v

theorem HeadTaken.discard {s v : State} {q : Nat} (h : HeadTaken s v q) (k : Nat) :
    (v.queue k).discard = (s.queue k).discard := by
  rw [h.queue]
  split
  · next e => subst e; rfl
  · rfl

section
variable {s : State} {q : Nat} {p : Packet} (hnext : parsesNext s q p)
include hnext

/-- A packet that passes is accepted in the state before it, but for the arbiter, its queue's head and its push slot. -/
theorem exec_passes {c : Instr} {absent : Bool} (hc : parses c q p) (hv : s.verdict q p = .pass absent) :
    ∃ v, HeadTaken s v q ∧ ∀ t, v.accept q p absent = some t → ∃ b, exec c s = .next (t.withArb b) := by
  obtain ⟨a, hexec⟩ := exec_parses hnext hc
  refine ⟨(s.turnCounted a).advanceHead q, ⟨fun k => advanceHead_queue (s.turnCounted a) q k,
    advanceHead_same (turnCounted_same (Same.refl _ s) rfl a) rfl q⟩, fun t ht => ?_⟩
  obtain ⟨b, hb⟩ := endTurn_cases t
  refine ⟨b, hb ▸ hexec t ?_⟩
  rw [parseNext_pass (s := s.turnCounted a) ((withArb_verdict s _ q p).trans hv), ht]

theorem passes_accepted {absent : Bool} (hv : s.verdict q p = .pass absent) :
    ((s.advanceHead q).accept q p absent).isSome = true := by
  obtain ⟨-, -, -, hpacket, hparsable⟩ := hnext
  unfold State.parsable at hparsable
  rw [hpacket] at hparsable
  simp only [Bool.and_eq_true] at hparsable
  rw [← parseNext_pass hv]
  exact hparsable.2

/-- A packet that takes a slot is parsed only where one is free (R57). -/
theorem passes_freeSlot {o : Opcode} {absent : Bool} (hv : s.verdict q p = .pass absent) (ho : pkOpcode p = some o)
    (hslot : o.takesSlot) : ∃ k, s.freeSlotOf = some k := by
  have hsome := passes_accepted hnext hv
  have hslots : (s.advanceHead q).slots = s.slots := (advanceHead_same (m := 0x180) (Same.refl _ s) rfl q).slots rfl
  cases hfree : s.freeSlotOf with
  | some k => exact ⟨k, rfl⟩
  | none =>
    rw [accept_noSlot ho hslot ((freeSlotOf_of_slots hslots).trans hfree)] at hsome
    cases hsome

/-- The packet takes a slot in the state in which it is accepted. -/
theorem passes_takes {o : Opcode} {c : Instr} {absent : Bool} (hc : parses c q p) (hv : s.verdict q p = .pass absent)
    (ho : pkOpcode p = some o) (hslot : o.takesSlot) :
    ∃ v u k, HeadTaken s v q ∧ v.takeSlot q p o = some (k, u) ∧ SlotTaken v u q p o k ∧
      ∀ t, v.accept q p absent = some t → ∃ b, exec c s = .next (t.withArb b) := by
  obtain ⟨v, hhead, hexec⟩ := exec_passes hnext hc hv
  obtain ⟨k, hk⟩ := passes_freeSlot hnext hv ho hslot
  obtain ⟨u, htake, htaken⟩ := takeSlot_takes ((freeSlotOf_of_slots (hhead.rest.slots rfl)).trans hk) q p o
  exact ⟨v, u, k, hhead, htake, htaken, hexec⟩

end

end Sys2Proof.Machine
end

section
/-! SUPPORT. What ABORT, FENCE, GET_DEFERRED and SELF_TEST do in the slot that they take (R65, R70, R75, R107 to R109, R112,
R488). -/

namespace Sys2Proof.Machine
open Sys2Proof

theorem leastBy_mem {α : Type} {m : α → Nat} {l : List α} {x : α} (h : leastBy m l = some x) : x ∈ l := by
  induction l generalizing x with
  | nil => cases h
  | cons y r ih =>
    unfold leastBy at h
    split at h
    · obtain rfl := Option.some.inj h
      exact List.mem_cons_self
    · next z hz =>
      split at h
      · obtain rfl := Option.some.inj h
        exact List.mem_cons_of_mem _ (ih hz)
      · obtain rfl := Option.some.inj h
        exact List.mem_cons_self

theorem leastBy_some {α : Type} (m : α → Nat) {l : List α} (h : l ≠ []) : ∃ x, leastBy m l = some x := by
  cases l with
  | nil => exact absurd rfl h
  | cons y r =>
    unfold leastBy
    split
    · exact ⟨y, rfl⟩
    · split
      · exact ⟨_, rfl⟩
      · exact ⟨y, rfl⟩

/-! ABORT (R107). -/

/-- The queue and the identifier that an ABORT names. -/
def abortNames (p : Packet) (sqid : Nat) (cid : BitVec 16) : Prop :=
  sqid = ple p 48 2 ∧ cid = BitVec.ofNat 16 (ple p 50 2)

section
variable {v u : State} {q k : Nat} {p : Packet} (htake : v.takeSlot q p .abort = some (k, u))
  (hslots : ∀ e, e ∈ u.slots → e.1 ≠ k → ¬ abortNames p e.2.sqid e.2.cid)
include htake hslots

theorem acceptAbort_notFound (htags : ∀ e, e ∈ u.tags → ¬ abortNames p e.2.sqid e.2.cid) :
    v.acceptAbort q p = some (u.commitSlot k .notFound 0) := by
  unfold State.acceptAbort
  rw [htake]
  dsimp only
  rw [List.filter_eq_nil_iff.2 fun e he hw => ?_, List.filter_eq_nil_iff.2 fun e he hw => ?_]
  · rfl
  · simp only [Bool.and_eq_true, bne_iff_ne, beq_iff_eq] at hw
    obtain ⟨⟨hne, hsqid⟩, hcid⟩ := hw
    exact hslots e he hne ⟨hsqid, hcid⟩
  · simp only [Bool.and_eq_true, beq_iff_eq] at hw
    exact htags e he hw.1.1.1

theorem acceptAbort_tag {j : Nat} {x : Tag} (hmem : (j, x) ∈ u.tags) (hnames : abortNames p x.sqid x.cid)
    (hfree : x.st ≠ .free) (hruns : x.runOn = false) (hdropped : x.dropped = false)
    (hall : ∀ e, e ∈ u.tags → abortNames p e.2.sqid e.2.cid → e.1 = j) :
    v.acceptAbort q p = some (u.abortTag k j) := by
  obtain ⟨hsqid, hcid⟩ := hnames
  unfold State.acceptAbort
  rw [htake]
  dsimp only
  generalize htags : u.tags.filter _ = tags
  rw [List.filter_eq_nil_iff.2 fun e he hw => ?_, List.map_nil, List.append_nil]
  · have hin : (j, x) ∈ tags := by
      rw [← htags]
      exact List.mem_filter.2 ⟨hmem, by simp [hsqid, hcid, hfree, hruns, hdropped]⟩
    have honly : ∀ e, e ∈ tags → e.1 = j := fun e he => by
      rw [← htags] at he
      obtain ⟨he, hw⟩ := List.mem_filter.1 he
      simp only [Bool.and_eq_true, beq_iff_eq] at hw
      exact hall e he hw.1.1.1
    obtain ⟨y, hy⟩ := leastBy_some (fun e : Nat × Bool × Nat => e.1)
      (List.ne_nil_of_mem (List.mem_map_of_mem (f := fun e : Nat × Tag => (e.2.stamp, true, e.1)) hin))
    obtain ⟨e, he, rfl⟩ := List.mem_map.1 (leastBy_mem hy)
    rw [hy, honly e he]
  · simp only [Bool.and_eq_true, bne_iff_ne, beq_iff_eq] at hw
    obtain ⟨⟨hne, hsqid⟩, hcid⟩ := hw
    exact hslots e he hne ⟨hsqid, hcid⟩

end

theorem mem_of_tag {s : State} {k : Nat} (h : (s.tag k).st ≠ .free) : (k, s.tag k) ∈ s.tags := by
  unfold State.tag SMap.getD at *
  cases hk : SMap.get s.tags k with
  | some x => exact SMap.mem_of_get hk
  | none =>
    rw [hk] at h
    exact absurd rfl h

/-- A tag past its confirm, or one that is being tidied up, is not stopped (R64, R65). -/
theorem abortTag_never {s : State} {k j : Nat} (hc : (s.tag j).committed = false) (ha : (s.tag j).abortSlot = none)
    (hst : s.stopAt j = .never) : s.abortTag k j = s.commitSlot k .tooLate j := by
  unfold State.abortTag
  dsimp only
  rw [if_neg (by simp [hc, ha]), hst]

theorem abortTag_now {s : State} {k j : Nat} (hc : (s.tag j).committed = false) (ha : (s.tag j).abortSlot = none)
    (hst : s.stopAt j = .now) : s.abortTag k j =
      (s.modTag j (fun x => { x with abortPending := true, abortSlot := some k })).abortNow j := by
  unfold State.abortTag
  dsimp only
  rw [if_neg (by simp [hc, ha]), hst]

/-! FENCE (R70, R108). -/

theorem accept_fence {v u : State} {q k : Nat} {p : Packet} (ho : pkOpcode p = some .fence)
    (htake : v.takeSlot q p .fence = some (k, u)) (absent : Bool) : v.accept q p absent = some u := by
  unfold State.accept
  rw [ho]
  dsimp only
  rw [htake]
  rfl

section
variable {s : State} {k : Nat} {x : Slot} (hx : SMap.get s.slots k = some x) (ho : x.opcode = .fence)
  (hdone : x.done = false)
include hx ho hdone

theorem fence_slot : s.slot k = x ∧ (!SMap.has s.slots k || x.opcode != Opcode.fence || x.done) = false := by
  refine ⟨by unfold State.slot SMap.getD; rw [hx]; rfl, by simp [SMap.has, hx, ho, hdone]⟩

/-- A FENCE commits once nothing of its queue is older and still to commit (R70). -/
theorem fenceCommit_commits
    (htags : ∀ e, e ∈ s.tags → e.2.sqid = x.sqid → e.2.stamp < x.stamp → e.2.committed = true ∨ e.2.st = .free ∨
      e.2.runOn = true ∨ e.2.dropped = true)
    (hslots : ∀ e, e ∈ s.slots → e.1 ≠ k → e.2.sqid = x.sqid → e.2.stamp < x.stamp → e.2.done = true) :
    s.fenceCommit k = s.commitSlot k .success 0 := by
  obtain ⟨hslot, hfence⟩ := fence_slot hx ho hdone
  unfold State.fenceCommit
  dsimp only
  rw [hslot, if_neg (by rw [hfence]; exact Bool.false_ne_true), if_neg, if_neg]
  · simp only [List.any_eq_true, Bool.and_eq_true, bne_iff_ne, beq_iff_eq, Bool.not_eq_true', decide_eq_true_eq]
    rintro ⟨e, he, ⟨⟨hne, hsqid⟩, hopen⟩, hold⟩
    rw [hslots e he hne hsqid hold] at hopen
    cases hopen
  · simp only [List.any_eq_true, Bool.and_eq_true, bne_iff_ne, beq_iff_eq, Bool.not_eq_true', decide_eq_true_eq]
    rintro ⟨e, he, ⟨⟨⟨⟨hsqid, hfree⟩, hopen⟩, hruns⟩, hdropped⟩, hold⟩
    rcases htags e he hsqid hold with h | h | h | h
    · rw [h] at hopen; cases hopen
    · exact hfree h
    · rw [h] at hruns; cases hruns
    · rw [h] at hdropped; cases hdropped

theorem fenceCommit_waits {e : Nat × Tag} (he : e ∈ s.tags) (hsqid : e.2.sqid = x.sqid) (hold : e.2.stamp < x.stamp)
    (hopen : e.2.committed = false) (hfree : e.2.st ≠ .free) (hruns : e.2.runOn = false) (hdropped : e.2.dropped = false) :
    s.fenceCommit k = s := by
  obtain ⟨hslot, hfence⟩ := fence_slot hx ho hdone
  unfold State.fenceCommit
  dsimp only
  rw [hslot, if_neg (by rw [hfence]; exact Bool.false_ne_true), if_pos]
  exact List.any_eq_true.2 ⟨e, he, by simp [hsqid, hold, hopen, hfree, hruns, hdropped]⟩

end

theorem exec_fenceCommit {s : State} (hs : s.hostWorks = true) (k : Nat) :
    exec (.fenceCommit k) s = .next (s.fenceCommit k) := by
  show execFenceCommit k s = _
  simp [execFenceCommit, hs]

/-! SELF_TEST (R112, R488). -/

theorem accept_selfTest {v u : State} {q k : Nat} {p : Packet} (ho : pkOpcode p = some .selfTest)
    (htake : v.takeSlot q p .selfTest = some (k, u)) (absent : Bool) : v.accept q p absent =
      (let w := if pkByte p 48 = 2 then { u with test := { u.test with stopping := true } }
        else u.testStart (pkByte p 48 == 1)
       some (w.commitSlot k .success (w.fld 0x5200 31 16))) := by
  unfold State.accept
  rw [ho]
  dsimp only
  unfold State.acceptSelfTest
  rw [htake]

/-- Registers set to 0 in turn. -/
def State.zeroRegs (s : State) (l : List Nat) (f : State → Nat → State) : State := l.foldl f s

theorem zeroRegs_reg {f : State → Nat → State} {a : Nat} (hf : ∀ s i, (f s i).reg a = s.reg a) (l : List Nat)
    (s : State) : (s.zeroRegs l f).reg a = s.reg a := by
  unfold State.zeroRegs
  induction l generalizing s with
  | nil => rfl
  | cons i l ih => exact (ih _).trans (hf s i)

/-- The word that counts the self-tests, as one starts (R489). -/
def State.testCounted (s : State) (extended : Bool) : State :=
  s.setReg 0x5200 (BitVec.ofNat 32 ((s.fld 0x5200 31 16 + 1) % 2 ^ 16 * 2 ^ 16 + 0x100 + ofBool extended))

theorem testCounted_fld (s : State) (extended : Bool) :
    (s.testCounted extended).fld 0x5200 31 16 = (s.fld 0x5200 31 16 + 1) % 2 ^ 16 := by
  have hbool : ofBool extended ≤ 1 := by cases extended <;> decide
  have hreg : (s.testCounted extended).reg 0x5200 =
      BitVec.ofNat 32 ((s.fld 0x5200 31 16 + 1) % 2 ^ 16 * 2 ^ 16 + 0x100 + ofBool extended) := by
    unfold State.testCounted
    rw [setReg_reg, if_pos rfl]
  generalize s.fld 0x5200 31 16 = n at hreg ⊢
  unfold State.fld
  rw [hreg]
  unfold bits
  rw [BitVec.toNat_ofNat]
  omega

/-- The results of the channels are cleared as a self-test starts (R489). -/
def State.resultsZeroed (s : State) : State :=
  (s.zeroRegs (countUp 0 8) (fun s i => (s.setReg (0x5220 + 4 * i) 0).setReg (0x5240 + 4 * i) 0)).zeroRegs (countUp 0 256)
    (fun s n => s.setReg (0x5400 + 4 * n) 0)

theorem resultsZeroed_reg (s : State) : s.resultsZeroed.reg 0x5200 = s.reg 0x5200 := by
  unfold State.resultsZeroed
  rw [zeroRegs_reg fun u n => by rw [setReg_reg, if_neg (by omega)],
    zeroRegs_reg fun u i => by rw [setReg_reg, if_neg (by omega), setReg_reg, if_neg (by omega)]]

/-- A self-test that has just started (R489). -/
def startedTest (extended : Bool) : SelfTest :=
  { running := true, extended := extended, stopping := false, sawFrameFail := false, outcomes := [] }

/-- State `s` with another self-test. -/
def State.withTest (s : State) (x : SelfTest) : State := { s with test := x }

theorem withTest_fld (s : State) (x : SelfTest) (o hi lo : Nat) : (s.withTest x).fld o hi lo = s.fld o hi lo := rfl

theorem testStart_eq (s : State) (extended : Bool) :
    s.testStart extended = (s.testCounted extended).resultsZeroed.withTest (startedTest extended) := by
  unfold State.testStart State.withTest State.resultsZeroed State.zeroRegs State.testCounted startedTest
  with_reducible rfl

theorem testStart_count (s : State) (extended : Bool) :
    (s.testStart extended).fld 0x5200 31 16 = (s.fld 0x5200 31 16 + 1) % 2 ^ 16 := by
  rw [testStart_eq, withTest_fld, fld_of_reg (resultsZeroed_reg _), testCounted_fld]

theorem testStart_test (s : State) (extended : Bool) : (s.testStart extended).test = startedTest extended :=
  congrArg State.test (testStart_eq s extended)

end Sys2Proof.Machine
end

section
/-! SUPPORT. What GET_DEFERRED delivers (R75, R109, R332, R468, R469). -/

namespace Sys2Proof.Machine
open Sys2Proof

/-- A packet that passes its checks has no failing field (R56). -/
theorem fieldFails_of_pass {s : State} {q : Nat} {p : Packet} {o : Opcode} {absent : Bool} (ho : pkOpcode p = some o)
    (hv : s.verdict q p = .pass absent) : s.fieldFails o p = [] := by
  unfold State.verdict at hv
  rw [ho] at hv
  dsimp only at hv
  split at hv
  · cases hv
  · cases hl : s.fieldFails o p with
    | nil => rfl
    | cons x r =>
      have hleast : ∃ y, leastBy (fun n => n) (x :: r) = some y := by
        unfold leastBy
        split
        · exact ⟨x, rfl⟩
        · split <;> exact ⟨_, rfl⟩
      obtain ⟨y, hy⟩ := hleast
      rw [hl, hy] at hv
      cases hv

/-- A GET_DEFERRED that passes has room for one record at least. -/
theorem deferred_room {s : State} {q : Nat} {p : Packet} {absent : Bool} (ho : pkOpcode p = some .getDeferred)
    (hv : s.verdict q p = .pass absent) : 0 < pkLen p / 32 := by
  have hfails := fieldFails_of_pass ho hv
  unfold State.fieldFails at hfails
  have hlen : failIf (pkLen p == 0 || pkLen p % 32 != 0) 24 = [] := (List.append_eq_nil_iff.1 hfails).2
  unfold failIf at hlen
  by_contra hzero
  rw [if_pos (by simp; omega)] at hlen
  cases hlen

/-- A GET_DEFERRED waits while its frame's island is in reset, or while the block may not write to the host. -/
def State.deferredWaits (s : State) (p : Packet) : Bool :=
  if s.namesReserved p then (s.chan (ple p 16 8 / 0x8000 / 64)).inReset else !s.mayIssue

theorem HeadTaken.namesReserved {s v : State} {q : Nat} (h : HeadTaken s v q) (p : Packet) :
    v.namesReserved p = s.namesReserved p := by
  unfold State.namesReserved State.frame State.nch
  rw [h.rest.frames rfl, h.rest.build rfl]

theorem HeadTaken.mayIssue {s v : State} {q : Nat} (h : HeadTaken s v q) : v.mayIssue = s.mayIssue := by
  unfold State.mayIssue State.hostWorks State.hostOn State.bme State.d3hot State.cfgBit State.cfgRaw
  rw [h.rest.ph rfl, h.rest.ep rfl, h.rest.irq rfl, h.rest.cfg rfl]

theorem HeadTaken.deferredWaits {s v : State} {q : Nat} (h : HeadTaken s v q) (p : Packet) :
    v.deferredWaits p = s.deferredWaits p := by
  unfold State.deferredWaits State.chan
  rw [h.namesReserved, h.mayIssue, h.rest.chans rfl]

theorem acceptDeferred_waits {s : State} {p : Packet} (h : s.deferredWaits p = true) (q : Nat) :
    s.acceptDeferred q p = none := by
  unfold State.acceptDeferred
  exact if_pos h

theorem passes_notWaiting {s : State} {q : Nat} {p : Packet} {absent : Bool} (hnext : parsesNext s q p)
    (ho : pkOpcode p = some .getDeferred) (hv : s.verdict q p = .pass absent) : s.deferredWaits p = false := by
  have hsome := passes_accepted hnext hv
  have hwaits : (s.advanceHead q).deferredWaits p = s.deferredWaits p :=
    HeadTaken.deferredWaits ⟨fun k => advanceHead_queue s q k, advanceHead_same (Same.refl _ s) rfl q⟩ p
  unfold State.accept at hsome
  rw [ho] at hsome
  dsimp only at hsome
  by_contra hw
  rw [acceptDeferred_waits (hwaits.trans (Bool.eq_true_of_not_eq_false hw))] at hsome
  cases hsome

/-! The write to the host (R332). -/

theorem sendPosted_tx {s : State} (h : s.ep.linkUp = true) (pair : Nat) (a : Addr) (l : List Byte) (poison : Bool) :
    (s.sendPosted pair a l poison).ep.tx.length = s.ep.tx.length + 1 ∧ (s.sendPosted pair a l poison).ep.linkUp = true := by
  unfold State.sendPosted
  extract_lets u
  have hep : u.ep = s.ep := by
    unfold u
    split <;> rfl
  have hlink : u.ep.linkUp = true := hep ▸ h
  rw [send_tx hlink, hep]
  refine ⟨List.length_append, ?_⟩
  unfold State.send
  rw [if_pos hlink]
  exact hlink

/-- Data that is not empty leaves in one packet at least. -/
theorem sendWrite_grows {s : State} (h : s.ep.linkUp = true) (pair : Nat) (a : Addr) {l : List Byte} (hl : l ≠ [])
    (marks : List Bool) : s.ep.tx.length < (s.sendWrite pair a l marks).ep.tx.length := by
  have hmps := mps_ge s
  have hfold : ∀ (ps : List (Nat × Nat)) (u : State), u.ep.linkUp = true →
      (ps.foldl (fun (s : State) (p : Nat × Nat) =>
        let at0 := p.1 - a.toNat
        s.sendPosted pair (BitVec.ofNat 64 p.1) (firstN p.2 (restN at0 l)) ((firstN p.2 (restN at0 marks)).any id)) u).ep.tx.length
        = u.ep.tx.length + ps.length := by
    intro ps
    induction ps with
    | nil => exact fun _ _ => rfl
    | cons p ps ih =>
      intro u hu
      obtain ⟨hlen, hlink⟩ := sendPosted_tx hu pair (BitVec.ofNat 64 p.1) (firstN p.2 (restN (p.1 - a.toNat) l))
        ((firstN p.2 (restN (p.1 - a.toNat) marks)).any id)
      rw [List.foldl_cons, ih _ hlink, hlen, List.length_cons]
      omega
  unfold State.sendWrite
  rw [hfold _ s h]
  have hpos : 0 < l.length := List.length_pos_iff.2 hl
  unfold splitRange
  rw [if_neg (by omega)]
  simp

theorem useEntry_clean {s : State} (h : s.rawGroups = []) (c addr n : Nat) : s.useEntry c addr n = (false, s) := by
  unfold State.useEntry
  rw [h]
  rfl

theorem deferredBytes_clean {s : State} (h : s.rawGroups = []) (d : Deferred) : s.deferredBytes d ≠ [] := by
  have hzero : ∀ fields (l : List Byte), zeroFields fields 0 l = l := fun fields l => by
    unfold zeroFields
    induction fields generalizing l with
    | nil => rfl
    | cons f fields ih =>
      rw [List.foldl_cons, if_pos (by unfold bits; rw [Nat.zero_div, Nat.zero_mod])]
      exact ih l
  have hraw : s.storedBytes 1 (mlogAddr 2 d.frame 0) d.rawBytes = (d.rawBytes, 0) := by
    unfold State.storedBytes
    rw [h]
    rfl
  unfold State.deferredBytes
  rw [hraw]
  dsimp only
  rw [hzero, poisonStatus, if_pos rfl]
  exact List.ne_nil_of_length_pos (by simp only [Deferred.rawBytes, List.length_append, length_leBytes]; omega)

/-! The records that are delivered. -/

/-- The records that a GET_DEFERRED takes (R109). -/
def State.deferredNamed (s : State) (p : Packet) : List Deferred :=
  firstN (pkLen p / 32) (s.deferred.filter (fun (d : Deferred) =>
    decide (2 ^ 15 ≤ ple p 48 2) || d.sqid == ple p 48 2 % 2 ^ 15))

/-- The records are written to the packet's buffer, in a frame or in host memory. -/
def State.deferredWritten (s : State) (q : Nat) (p : Packet) (inFrame : Bool) (l : List Deferred) : State :=
  if l.isEmpty then s
  else if inFrame then
    (s.readDeferred l).2.frameWrite (ple p 16 8 / 0x8000) (ple p 16 8 % 0x8000) (s.readDeferred l).1 false
  else (s.readDeferred l).2.sendWrite (s.queuePair q) (BitVec.ofNat 64 (ple p 16 8)) (s.readDeferred l).1 []

/-- The records that were delivered are removed (R468). -/
def State.recordsGone (s : State) (l : List Deferred) : State :=
  { s with deferred := s.deferred.filter (fun (d : Deferred) => !l.contains d) }

/-- How a GET_DEFERRED with slot `k` ends. -/
def State.deferredEnds (s : State) (q k : Nat) (p : Packet) (inFrame : Bool) : State :=
  let l := s.deferredNamed p
  if inFrame && decide (20480 < ple p 16 8 % 0x8000 + 32 * l.length) then s.commitSlot k .hostAccessError 4
  else
    let t := (s.deferredWritten q p inFrame l).recordsGone l
    t.commitSlot k .success (l.length + min 0xFFFF t.deferred.length * 2 ^ 16)

theorem acceptDeferred_takes {v u : State} {q k : Nat} {p : Packet} (hwaits : v.deferredWaits p = false)
    (htake : v.takeSlot q p .getDeferred = some (k, u)) :
    v.acceptDeferred q p = some (u.deferredEnds q k p (v.namesReserved p)) := by
  have heq : v.acceptDeferred q p = if v.deferredWaits p then none
      else match v.takeSlot q p .getDeferred with
        | none => none
        | some (k, u) =>
          if v.namesReserved p && decide (20480 < ple p 16 8 % 0x8000 + 32 * (u.deferredNamed p).length) then
            some (u.commitSlot k .hostAccessError 4)
          else some (((u.deferredWritten q p (v.namesReserved p) (u.deferredNamed p)).recordsGone
            (u.deferredNamed p)).commitSlot k .success ((u.deferredNamed p).length + min 0xFFFF
              ((u.deferredWritten q p (v.namesReserved p) (u.deferredNamed p)).recordsGone
                (u.deferredNamed p)).deferred.length * 2 ^ 16)) := by
    rfl
  rw [heq, if_neg (ne_true_of_eq_false hwaits), htake]
  exact (apply_ite some _ _ _).symm

section
variable {s : State} {q k : Nat} {p : Packet}

theorem deferredNamed_none (h : s.deferred = []) (p : Packet) : s.deferredNamed p = [] := by
  unfold State.deferredNamed
  rw [h, firstN_eq_take, List.filter_nil, List.take_nil]

/-- The only record is named by any queue. -/
theorem deferredNamed_one {d : Deferred} (h : s.deferred = [d]) (hsel : ple p 48 2 = 2 ^ 15) (hroom : 0 < pkLen p / 32) :
    s.deferredNamed p = [d] := by
  unfold State.deferredNamed
  rw [h, hsel, firstN_eq_take]
  simp only [le_refl, decide_true, Bool.true_or, List.filter_true]
  exact List.take_of_length_le hroom

theorem recordsGone_one {s : State} {d : Deferred} (h : s.deferred = [d]) : (s.recordsGone [d]).deferred = [] := by
  unfold State.recordsGone
  rw [h]
  simp

/-- Without a record there is nothing to deliver. -/
theorem deferredEnds_none (h : s.deferred = []) {inFrame : Bool}
    (hfits : inFrame = true → ple p 16 8 % 0x8000 ≤ 20480) :
    s.deferredEnds q k p inFrame = (s.recordsGone []).commitSlot k .success 0 := by
  have hgone : (s.recordsGone []).deferred = [] := by
    unfold State.recordsGone
    rw [h]
    rfl
  unfold State.deferredEnds
  rw [deferredNamed_none h]
  dsimp only
  rw [if_neg, show s.deferredWritten q p inFrame [] = s from rfl, hgone]
  · rfl
  · simp only [Bool.and_eq_true, decide_eq_true_eq, List.length_nil]
    rintro ⟨hframe, hlong⟩
    have := hfits hframe
    omega

section
variable {d : Deferred} (h : s.deferred = [d]) (hsel : ple p 48 2 = 2 ^ 15) (hroom : 0 < pkLen p / 32)
include h hsel hroom

/-- The only record does not fit into the rest of its frame (R306). -/
theorem deferredEnds_long (hlong : 20480 < ple p 16 8 % 0x8000 + 32) :
    s.deferredEnds q k p true = s.commitSlot k .hostAccessError 4 := by
  unfold State.deferredEnds
  rw [deferredNamed_one h hsel hroom]
  exact if_pos (by simpa using hlong)

/-- The only record is delivered. -/
theorem deferredEnds_one (hraw : s.rawGroups = []) {inFrame : Bool}
    (hfits : inFrame = true → ple p 16 8 % 0x8000 + 32 ≤ 20480) :
    ∃ u, u = (if inFrame then s.frameWrite (ple p 16 8 / 0x8000) (ple p 16 8 % 0x8000) (s.deferredBytes d) false
        else s.sendWrite (s.queuePair q) (BitVec.ofNat 64 (ple p 16 8)) (s.deferredBytes d) []) ∧
      u.deferred = [d] ∧ s.deferredEnds q k p inFrame = (u.recordsGone [d]).commitSlot k .success 1 := by
  have hread : s.readDeferred [d] = (s.deferredBytes d, s) := by
    unfold State.readDeferred
    rw [List.foldl_cons, List.foldl_nil]
    dsimp only
    rw [useEntry_clean hraw, List.nil_append]
  have hwritten : s.deferredWritten q p inFrame [d] =
      (if inFrame then s.frameWrite (ple p 16 8 / 0x8000) (ple p 16 8 % 0x8000) (s.deferredBytes d) false
        else s.sendWrite (s.queuePair q) (BitVec.ofNat 64 (ple p 16 8)) (s.deferredBytes d) []) := by
    unfold State.deferredWritten
    rw [hread]
    rfl
  have hkeeps : (s.deferredWritten q p inFrame [d]).deferred = [d] := by
    rw [hwritten, ← h]
    split
    · exact (frameWrite_same (m := 0x39080030010) (Same.refl _ s) rfl _ _ _ _).deferred rfl
    · exact (sendWrite_same (m := 0x60) (Same.refl _ s) rfl _ _ _ _).deferred rfl
  refine ⟨_, hwritten, hkeeps, ?_⟩
  unfold State.deferredEnds
  rw [deferredNamed_one h hsel hroom]
  dsimp only
  rw [if_neg, recordsGone_one hkeeps]
  · rfl
  · simp only [Bool.and_eq_true, decide_eq_true_eq, List.length_singleton]
    rintro ⟨hframe, hlong⟩
    have := hfits hframe
    omega

end

end

end Sys2Proof.Machine
end

section
/-! SUPPORT. What the end of commands leaves (R61, R64, R455): the completions of a queue only join it, a channel in reset stays
in reset, the log of its microcode faults stands, and a command that is not told to end keeps what its completion says. -/

namespace Sys2Proof.Machine
open Sys2Proof

/-- The log of the microcode faults of a channel's page (R455). -/
def faultLog (a : Nat) : Prop := 0x1000000 ≤ a ∧ a % 0x10000 = 0x80C

/-- A command in flight that the release of a frame does not end (R101). -/
def Tag.inFlight (x : Tag) : Prop := x.st ≠ .free ∧ x.committed = false ∧ x.opcode ≠ some .releaseFrame

/-- A command in flight goes on as itself: what its commit looks at is unchanged. -/
def Tag.goesOn (x y : Tag) : Prop :=
  x.inFlight → y.st ≠ .free ∧ y.committed = false ∧ y.opcode = x.opcode ∧ y.sqid = x.sqid ∧ y.runOn = x.runOn ∧
    y.dropped = x.dropped ∧ y.ue = x.ue

theorem Tag.goesOn.refl (x : Tag) : x.goesOn x := fun ⟨hst, hc, _⟩ => ⟨hst, hc, rfl, rfl, rfl, rfl, rfl⟩

theorem Tag.goesOn.inFlight {x y : Tag} (h : x.goesOn y) (hx : x.inFlight) : y.inFlight := by
  obtain ⟨hst, hc, hop, -⟩ := h hx
  exact ⟨hst, hc, hop ▸ hx.2.2⟩

theorem Tag.goesOn.trans {x y z : Tag} (h : x.goesOn y) (h' : y.goesOn z) : x.goesOn z := fun hx => by
  obtain ⟨-, -, hop, hsqid, hruns, hdropped, hue⟩ := h hx
  obtain ⟨hst', hc', hop', hsqid', hruns', hdropped', hue'⟩ := h' (h.inFlight hx)
  exact ⟨hst', hc', hop'.trans hop, hsqid'.trans hsqid, hruns'.trans hruns, hdropped'.trans hdropped, hue'.trans hue⟩

/-- A queue with more completions to write. -/
def Queue.grows (x y : Queue) : Prop := ∃ l, y = { x with due := x.due ++ l }

theorem Queue.grows.refl (x : Queue) : x.grows x := ⟨[], by rw [List.append_nil]⟩

theorem Queue.grows.trans {x y z : Queue} (h : x.grows y) (h' : y.grows z) : x.grows z := by
  obtain ⟨l, rfl⟩ := h
  obtain ⟨l', rfl⟩ := h'
  exact ⟨l ++ l', by rw [← List.append_assoc]⟩

/-- Commands end from state `s` to state `t`; those that hold the tags of `X` may be among them. -/
structure Ends (X : Nat → Prop) (s t : State) : Prop where
  queue : ∀ q, (s.queue q).grows (t.queue q)
  reg : ∀ a, faultLog a → t.reg a = s.reg a
  reset : ∀ n, (s.chan n).inReset = true → (t.chan n).inReset = true
  tag : ∀ k, ¬ X k → (s.tag k).goesOn (t.tag k)

namespace Ends
variable {X : Nat → Prop} {s t u : State}

theorem refl (X : Nat → Prop) (s : State) : Ends X s s :=
  ⟨fun _ => .refl _, fun _ _ => rfl, fun _ h => h, fun _ _ => .refl _⟩

theorem trans (h : Ends X s t) (h' : Ends X t u) : Ends X s u :=
  ⟨fun q => (h.queue q).trans (h'.queue q), fun a ha => (h'.reg a ha).trans (h.reg a ha), fun n hn => h'.reset n (h.reset n hn),
    fun k hk => (h.tag k hk).trans (h'.tag k hk)⟩

theorem ite {p : Prop} [Decidable p] (ht : Ends X s t) (hu : Ends X s u) : Ends X s (if p then t else u) := by
  split
  · exact ht
  · exact hu

theorem foldl {α : Type} {f : State → α → State} (hf : ∀ t x, Ends X s t → Ends X s (f t x)) (hk : Ends X s t) (l : List α) :
    Ends X s (l.foldl f t) := by
  induction l generalizing t with
  | nil => exact hk
  | cons x l ih => exact ih (hf t x hk)

/-- A step that leaves the registers, the queues, the tags and the channels. -/
theorem apart (hk : Ends X s t) (hregs : u.regs = t.regs) (hqueues : u.queues = t.queues) (htags : u.tags = t.tags)
    (hchans : u.chans = t.chans) : Ends X s u := by
  refine hk.trans ⟨fun q => ?_, fun a _ => ?_, fun n hn => ?_, fun k _ => ?_⟩
  · unfold State.queue; rw [hqueues]; exact .refl _
  · unfold State.reg; rw [hregs]
  · unfold State.chan; rw [hchans]; exact hn
  · unfold State.tag; rw [htags]; exact .refl _

theorem others (hk : Ends X s t) (h : Same 0x7FFFFFFFBB6F t u) : Ends X s u :=
  hk.apart (h.regs rfl) (h.queues rfl) (h.tags rfl) (h.chans rfl)

/-- A step that moves tags alone, each of which goes on. -/
theorem tags (hk : Ends X s t) (h : Same 0x7FFFFFFFBF6F t u) (htag : ∀ k, ¬ X k → (t.tag k).goesOn (u.tag k)) :
    Ends X s u := by
  refine hk.trans ⟨fun q => ?_, fun a _ => ?_, fun n hn => ?_, htag⟩
  · rw [h.queue rfl]; exact .refl _
  · exact h.reg_of_regs rfl a
  · unfold State.chan; rw [h.chans rfl]; exact hn

/-- A step that leaves the tags and the queues, the pages and the settings of the channels. -/
theorem quiet (hk : Ends X s t) (h : Quiet t u) (hs : Same 0x7FFFFFFFFB7F t u) : Ends X s u := by
  refine hk.trans ⟨fun q => ?_, fun a ha => h.reg a ha.1, fun n hn => ?_, fun k _ => ?_⟩
  · rw [hs.queue rfl]; exact .refl _
  · have hreset := congrArg Chan.inReset (h.chan n)
    exact hreset.trans hn
  · unfold State.tag; rw [hs.tags rfl]; exact .refl _

/-- A step that leaves the tags, the queues and the channels, and writes registers below the channels' pages alone. -/
theorem regs (hk : Ends X s t) (hreg : ∀ a, faultLog a → u.reg a = t.reg a) (hs : Same 0x7FFFFFFFBB7F t u) : Ends X s u := by
  refine hk.trans ⟨fun q => ?_, hreg, fun n hn => ?_, fun k _ => ?_⟩
  · rw [hs.queue rfl]; exact .refl _
  · unfold State.chan; rw [hs.chans rfl]; exact hn
  · unfold State.tag; rw [hs.tags rfl]; exact .refl _

/-- A command that has committed is none in flight. -/
theorem over_of_committed (hk : Ends X s t) {k : Nat} (hc : (t.tag k).committed = true) (hin : (s.tag k).inFlight) : X k := by
  by_contra hx
  obtain ⟨-, hopen, -⟩ := hk.tag k hx hin
  rw [hc] at hopen
  exact absurd hopen (by decide)

/-- A command that releases a frame is none of those in flight here. -/
theorem over_of_release (hk : Ends X s t) {k : Nat} (hop : (t.tag k).opcode = some .releaseFrame) (hin : (s.tag k).inFlight) :
    X k := by
  by_contra hx
  obtain ⟨-, -, hsame, -⟩ := hk.tag k hx hin
  exact hin.2.2 (hsame.symm.trans hop)

theorem pairFold {α β : Type} {p : β × State} {f : β × State → α → β × State}
    (hf : ∀ p x, Ends X s p.2 → Ends X s (f p x).2) (hk : Ends X s p.2) (l : List α) : Ends X s (l.foldl f p).2 := by
  induction l generalizing p with
  | nil => exact hk
  | cons x l ih => exact ih (hf p x hk)

theorem pairIte {β : Type} {p : Prop} [Decidable p] {a b : β × State} (ha : Ends X s a.2) (hb : Ends X s b.2) :
    Ends X s (if p then a else b).2 := by
  split
  · exact ha
  · exact hb

end Ends

section
variable {X : Nat → Prop} {z t : State} (hk : Ends X z t)
include hk

/-! Registers. -/

theorem setReg_ends (o : Nat) (x : Word) (ho : ¬ faultLog o) : Ends X z (t.setReg o x) :=
  hk.regs (fun a ha => by
    rw [setReg_reg, if_neg]
    rintro rfl
    exact ho ha) (setReg_same (Same.refl _ t) rfl o x)

theorem setFld_ends (o hi lo v : Nat) (ho : ¬ faultLog o) : Ends X z (t.setFld o hi lo v) :=
  setReg_ends hk o _ ho

theorem addFld_ends (o hi lo v : Nat) (ho : ¬ faultLog o) : Ends X z (t.addFld o hi lo v) :=
  setFld_ends hk o hi lo _ ho

theorem setBit_ends (o b : Nat) (v : Bool) (ho : ¬ faultLog o) : Ends X z (t.setBit o b v) :=
  setFld_ends hk o b b _ ho

theorem traceRec_ends (ty cls unit : Nat) (isChan : Bool) (payload : Nat) (queue : Option Nat) :
    Ends X z (t.traceRec ty cls unit isChan payload queue) :=
  hk.regs (fun _ ha => traceRec_reg _ _ _ _ _ _ _ _ (raiseReg_trace (raiseReg_page ha.1)))
    (traceRec_same (Same.refl _ t) rfl ty cls unit isChan payload queue)

theorem raise_ends (n : Nat) : Ends X z (t.raise n) :=
  hk.regs (fun _ ha => raise_reg _ _ _ (raiseReg_page ha.1)) (raise_same (Same.refl _ t) rfl n)

theorem raiseCarry_ends : Ends X z t.raiseCarry := by
  unfold State.raiseCarry
  exact Ends.ite (hk.regs (fun _ ha => pendEdge_reg _ _ _ (by decide) (raiseReg_page ha.1))
    (pendEdge_same (Same.refl _ t) rfl 835)) hk

theorem count_ends (g i k : Nat) : Ends X z (t.count g i k) :=
  have hsame : Same 0x7FFFFFFFBB7F t (t.count g i k) := count_same (Same.refl _ t) rfl g i k
  have hreg : ∀ a, faultLog a → (t.count g i k).reg a = t.reg a := fun a ha =>
    count_reg t g i k a (raiseReg_trace (raiseReg_page ha.1))
  hk.regs hreg hsame

theorem logError_ends (c addr : Nat) (ue bist : Bool) (bit : Nat) (hc : c < 8) : Ends X z (t.logError c addr ue bist bit) := by
  have hlog : ∀ e o, o = 0 ∨ o = 4 ∨ o = 8 → ¬ faultLog (mlogAt c e + o) := fun e o ho => by
    unfold faultLog mlogAt
    omega
  have hfull : ¬ faultLog (0x60080 + 4 * c) := by
    unfold faultLog
    omega
  unfold State.logError
  split
  · next e _ =>
    exact setBit_ends (setBit_ends (addFld_ends hk _ _ _ _ (hlog e 4 (by decide))) _ _ _ (hlog e 4 (by decide))) _ _ _
      (hlog e 4 (by decide))
  · split
    · next e _ =>
      extract_lets info s1 s2 s3 s4
      have h1 : Ends X z s1 := setReg_ends hk _ _ (hlog e 0 (by decide))
      have h2 : Ends X z s2 := setReg_ends h1 _ _ (hlog e 4 (by decide))
      have h3 : Ends X z s3 := setReg_ends h2 _ _ (hlog e 8 (by decide))
      have h4 : Ends X z s4 := addFld_ends h3 _ 5 0 1 hfull
      exact Ends.ite h4 (raise_ends h4 808)
    · exact raise_ends (addFld_ends hk _ 31 16 1 hfull) 812

theorem noteCorrected_ends (c addr bit : Nat) (hc : c < 8) : Ends X z (t.noteCorrected c addr bit) := by
  have hlogged := logError_ends (addFld_ends hk (0x60040 + 8 * c) 31 0 1 (by unfold faultLog; omega)) c addr false false bit hc
  unfold State.noteCorrected
  dsimp only
  split
  · exact hlogged
  · exact hlogged.apart rfl rfl rfl rfl

theorem noteBad_ends (c addr : Nat) (hc : c < 8) : Ends X z (t.noteBad c addr) :=
  raise_ends (logError_ends (addFld_ends hk (0x60044 + 8 * c) 31 0 1 (by unfold faultLog; omega)) c addr true false 0x1FF hc) _

theorem useGroup_ends (c addr : Nat) (hc : c < 8) : Ends X z (t.useGroup c addr).2 := by
  unfold State.useGroup
  split
  · exact hk
  · refine Ends.pairFold (fun p k hp => ?_) hk _
    split
    · exact hp
    · exact noteCorrected_ends hp c _ _ hc
    · exact noteBad_ends hp c _ hc

theorem useEntry_ends (c addr n : Nat) (hc : c < 8) : Ends X z (t.useEntry c addr n).2 := by
  unfold State.useEntry
  refine Ends.pairFold (p := (false, t)) ?_ hk _
  exact fun _ k hp => useGroup_ends hp c (k % 2 ^ 28) hc

theorem addCarry_ends (k : Nat) (st : Status) (info : Word) : Ends X z (t.addCarry k st info) := by
  have hroom : Ends X z (if t.carry.length < 16384 then t
      else ({ t with carry := restN 1 t.carry }.shiftEntries 1 1).setBit 0x190 31 true) :=
    Ends.ite hk (setBit_ends ((hk.apart (u := { t with carry := restN 1 t.carry }) rfl rfl rfl rfl).others
      (shiftEntries_same (Same.refl _ _) rfl 1 1)) 0x190 31 true (by unfold faultLog; omega))
  unfold State.addCarry
  extract_lets x e u
  have hcarry : Ends X z { u with carry := u.carry ++ [e] } := hroom.apart rfl rfl rfl rfl
  exact hcarry.others (freshEntry_same (Same.refl _ _) rfl 1 _ 20)

/-! Reads of the level tables (R266, R448). -/

theorem rltSweep_ends (set : Nat) : Ends X z (t.rltSweep set) := by
  unfold State.rltSweep
  refine Ends.ite hk (Ends.foldl (fun u i hu => ?_) hk _)
  have hused := useEntry_ends hu 2 (mlogAddr 0 i 0) 256 (by decide)
  exact Ends.ite ((hused.others (setRltEntry_same (Same.refl _ _) rfl i _)).others
    (freshEntry_same (Same.refl _ _) rfl 2 _ 256)) hused

theorem lookupBase_ends (a : Addr) (pt : Nat) : Ends X z (t.lookupBase a pt).2 := by
  unfold State.lookupBase
  extract_lets g u
  have hu : Ends X z u := rltSweep_ends hk _
  split
  · exact Ends.pairIte (count_ends hu _ 16 1) (count_ends hu _ 17 1)
  · exact count_ends hu _ 17 1

theorem fixLevels_ends (id : Nat) : Ends X z (t.fixLevels id) := by
  unfold State.fixLevels
  split
  · exact hk
  · exact Ends.ite hk ((lookupBase_ends hk _ _).others (modWork_same (Same.refl _ _) rfl id _))

end

end Sys2Proof.Machine
end

section
/-! SUPPORT. Commands end: what the tables, the pages' fault logs and the resets of the channels keep (R61, R64, R71, R100,
R196, R455). -/

namespace Sys2Proof.Machine
open Sys2Proof

section
variable {X : Nat → Prop} {z t : State} (hk : Ends X z t)
include hk

/-! Tags. -/

theorem setTag_ends (k : Nat) (x : Tag) (hx : ¬ X k → (t.tag k).goesOn x) : Ends X z (t.setTag k x) := by
  refine hk.tags (setTag_same (Same.refl _ t) rfl k x) fun j hj => ?_
  rw [setTag_get]
  split
  · next h => subst h; exact hx hj
  · exact .refl _

/-- A tag that holds no command in flight may take any value. -/
theorem setTag_over (k : Nat) (x : Tag) (hover : (z.tag k).inFlight → X k) : Ends X z (t.setTag k x) := by
  refine ⟨fun q => ?_, fun a ha => hk.reg a ha, fun n hn => hk.reset n hn, fun j hj => ?_⟩
  · exact hk.queue q
  · by_cases h : k = j
    · subst h
      exact fun hin => absurd (hover hin) hj
    · rw [setTag_get, if_neg h]
      exact hk.tag j hj

theorem modTag_ends (k : Nat) (f : Tag → Tag) (hf : ∀ x : Tag, x.goesOn (f x)) : Ends X z (t.modTag k f) :=
  setTag_ends hk k _ fun _ => hf _

theorem tagTo_ends (k : Nat) (st : TagState) (hst : st ≠ .free) : Ends X z (t.tagTo k st) := by
  unfold State.tagTo
  refine Ends.ite hk (traceRec_ends (setTag_ends hk k _ fun _ hin => ?_) ..)
  exact ⟨hst, hin.2.1, rfl, rfl, rfl, rfl, rfl⟩

/-- A tag becomes FREE. -/
theorem tagTo_over (k : Nat) (st : TagState) (hover : (z.tag k).inFlight → X k) : Ends X z (t.tagTo k st) := by
  unfold State.tagTo
  exact Ends.ite hk (traceRec_ends (setTag_over hk k _ hover) ..)

/-! Frames (R196, R197). -/

theorem grantFramesN_ends (fuel n : Nat) : Ends X z (t.grantFramesN fuel n) := by
  induction fuel generalizing t n with
  | zero => exact hk
  | succ fuel ih =>
    have htake : ∀ f o, Ends X z (t.takeFrame f o) := fun f o => hk.others (takeFrame_same (Same.refl _ t) rfl f o)
    have hgive : ∀ k f, Ends X z (t.giveRebuild k f) := fun k f => modTag_ends (htake f _) k _ fun _ => .refl _
    unfold State.grantFramesN
    split
    · exact hk
    · split
      · exact hk
      · exact ih (hgive _ _) n
      · next f _ _ _ id w _ =>
        refine Ends.ite (ih (hgive _ _) n) (ih ?_ n)
        have hwork := (htake f w.tag).others (modWork_same (Same.refl _ _) rfl id fun w => { w with frame := some f })
        split
        · exact modTag_ends hwork _ _ fun _ => .refl _
        · exact hwork

theorem freeNow_ends (f : Nat) : Ends X z (t.freeNow f) := by
  unfold State.freeNow
  extract_lets n src u v
  have hu : Ends X z u := hk.others (modFrame_same (Same.refl _ t) rfl f _)
  exact grantFramesN_ends (Ends.ite (raise_ends hu 842) hu) 64 n

theorem forwardEnded_ends (f : Nat) : Ends X z (t.forwardEnded f) := by
  unfold State.forwardEnded
  exact Ends.ite (freeNow_ends hk f) hk

theorem freeF_ends (f : Nat) : Ends X z (t.freeF f) := by
  unfold State.freeF State.freeFrame
  exact Ends.ite (hk.others (modFrame_same (Same.refl _ t) rfl f _)) (freeNow_ends hk f)

theorem holdF_ends (f : Nat) : Ends X z (t.holdF f) := by
  have hheld : Ends X z (t.holdFrame f) := hk.others (holdFrame_same (Same.refl _ t) rfl f)
  unfold State.holdF
  exact Ends.ite (raise_ends hheld 841) hheld

/-! A tag is settled once its command has committed (R64). -/

theorem freeTag_ends (k : Nat) (hover : (z.tag k).inFlight → X k) : Ends X z (t.freeTag k) := by
  unfold State.freeTag
  extract_lets x s1 s2 s3
  have h1 : Ends X z s1 := setTag_over (tagTo_over hk k .free hover) k _ hover
  have h2 : Ends X z s2 := by
    unfold s2
    split
    · exact h1
    · exact Ends.ite h1 (Ends.ite (freeF_ends h1 _) (Ends.ite (h1.others (modFrame_same (Same.refl _ _) rfl _ _)) h1))
  have h3 : Ends X z s3 := h2.others (obtSweep_same (Same.refl _ _) rfl)
  exact Ends.ite (raiseCarry_ends h3) h3

theorem settle_ends (k : Nat) : Ends X z (t.settle k) := by
  unfold State.settle
  dsimp only
  split
  · exact hk
  · next hc =>
    simp only [Bool.or_eq_true, Bool.not_eq_true', not_or, Bool.not_eq_false] at hc
    obtain ⟨⟨⟨-, hcommitted⟩, -⟩, -⟩ := hc
    exact Ends.ite (tagTo_ends hk k .completing (by decide)) (freeTag_ends hk k (hk.over_of_committed hcommitted))

theorem entryGone_ends (q : Nat) (c : Completion) : Ends X z (t.entryGone q c) := by
  have htraced : Ends X z (t.traceCompletion q c) := traceRec_ends hk ..
  unfold State.entryGone
  dsimp only
  split
  · exact settle_ends htraced _
  · exact htraced.others (freeSlot_same (Same.refl _ _) rfl _)
  · exact htraced

/-! A command commits (R64, R65, R74). -/

theorem pushDone_ends (q : Nat) (c : Completion) : Ends X z (t.pushDone q c) := by
  unfold State.pushDone
  refine Ends.ite (entryGone_ends hk q c) (hk.trans ⟨fun j => ?_, fun a _ => rfl, fun n hn => hn, fun k _ => .refl _⟩)
  rw [modQueue_get]
  split
  · exact ⟨[c], rfl⟩
  · exact .refl _

theorem commitSlot_ends (k : Nat) (st : Status) (info : Nat) : Ends X z (t.commitSlot k st info) := by
  unfold State.commitSlot
  exact Ends.ite hk (pushDone_ends (hk.others (setSlot_same (Same.refl _ t) rfl k _)) ..)

theorem resolveAbort_ends (k : Nat) (st : Status) : Ends X z (t.resolveAbort k st) := by
  unfold State.resolveAbort
  dsimp only
  split
  · exact hk
  · have htag : Ends X z (t.modTag k fun x => { x with abortPending := false, abortSlot := none }) :=
      modTag_ends hk k _ fun _ => .refl _
    exact Ends.ite (commitSlot_ends htag ..) (commitSlot_ends htag ..)

theorem fallBackTag_ends (k : Nat) : Ends X z (t.fallBackTag k) := by
  refine modTag_ends hk k _ fun x => ?_
  split <;> exact .refl _

theorem fallBack_ends (f : Nat) : Ends X z (t.fallBack f) := by
  unfold State.fallBack
  refine grantFramesN_ends (Ends.foldl (fun u id hu => ?_) hk _) 64 _
  refine fixLevels_ends (Ends.others ?_ (modWork_same (Same.refl _ _) rfl id _)) id
  split
  · split
    · exact fallBackTag_ends hu _
    · exact hu
  · exact hu

theorem commitTag_ends (k : Nat) (st : Status) (info : Word) (hover : (z.tag k).inFlight → X k) :
    Ends X z (t.commitTag k st info) := by
  unfold State.commitTag
  extract_lets x st' s1 src s2 s3 unbinds s4
  have h1 : Ends X z s1 := hk.others (commitAcc_same (Same.refl _ t) rfl x st')
  have h2 : Ends X z s2 := setTag_over h1 k _ hover
  have h3 : Ends X z s3 := resolveAbort_ends h2 k st'
  have h4 : Ends X z s4 := Ends.foldl (fun u f hu => Ends.ite (fallBack_ends (hu.others (unbind_same (Same.refl _ u) rfl f)) f)
    (Ends.ite hu (fallBack_ends hu f))) h3 _
  exact Ends.ite hk (Ends.ite h4 (Ends.ite (addCarry_ends h4 ..) (pushDone_ends h4 ..)))

/-! What waits for the end of a command (R71, R100, R101). -/

theorem endTag0_ends (k : Nat) : Ends X z (t.endTag0 k) := by
  unfold State.endTag0
  extract_lets x s1 s2
  have h1 : Ends X z s1 := modTag_ends hk k _ fun _ => .refl _
  refine settle_ends ?_ k
  unfold s2
  split
  · exact Ends.ite (forwardEnded_ends h1 _) h1
  · exact h1

theorem serveForward_ends (id : Nat) : Ends X z (t.serveForward id) := by
  unfold State.serveForward
  split
  · exact hk
  · split
    · exact Ends.ite (tagTo_ends (hk.others (dropWork_same (Same.refl _ t) rfl id)) _ .delivering (by decide))
        (tagTo_ends (hk.others (modWork_same (Same.refl _ t) rfl id _)) _ .decoding (by decide))
    · exact hk.others (modWork_same (Same.refl _ t) rfl id _)

theorem takeForwards_ends (f : Nat) (a : Addr) (stamp : Nat) : Ends X z (t.takeForwards f a stamp) := by
  unfold State.takeForwards
  refine Ends.foldl (fun u id hu => ?_) hk _
  split
  · exact hu
  · next w _ =>
    extract_lets s1 s2 s3 s4
    have h1 : Ends X z s1 := by
      unfold s1
      split
      · exact modTag_ends hu _ _ fun _ => .refl _
      · exact hu
    have h2 : Ends X z s2 :=
      (h1.others (withdraw_same (Same.refl _ _) rfl id)).others (modWork_same (Same.refl _ _) rfl id _)
    have h3 : Ends X z s3 := count_ends (h2.others (releaseUnused_same (Same.refl _ _) rfl id)) ..
    refine serveForward_ends ?_ id
    unfold s4
    split
    · exact freeF_ends h3 _
    · exact h3

theorem readWord_ends (f w : Nat) : Ends X z (t.readWord f w).2 := by
  unfold State.readWord
  dsimp only
  split
  · exact hk
  · split
    · exact hk
    · exact noteCorrected_ends hk 5 _ _ (by decide)
    · exact (noteBad_ends hk 5 _ (by decide)).others (store_same (Same.refl _ _) rfl f w _)

theorem frameWriteFrom_ends (fuel f off : Nat) (l : List Byte) (marks : List Bool) :
    Ends X z (t.frameWriteFrom fuel f off l marks) := by
  induction fuel generalizing t off l marks with
  | zero => exact hk
  | succ fuel ih =>
    have hwrite : ∀ {u : State}, Ends X z u → ∀ w v b, Ends X z (u.writeWord f w v b) :=
      fun hu w v b => hu.others (writeWord_same (Same.refl _ _) rfl f w v b)
    unfold State.frameWriteFrom State.narrowWrite
    repeat' with_reducible first
      | exact hk | apply Ends.ite | apply ih | apply hwrite | apply readWord_ends | split

theorem frameWrite_ends (f off : Nat) (l : List Byte) (poison : Bool) : Ends X z (t.frameWrite f off l poison) :=
  frameWriteFrom_ends hk ..

theorem rewriteFrame_ends (f : Nat) (infos : List (List Byte)) (a : Addr) (size : Nat) (quarter : Bool) (level : Nat) :
    Ends X z (t.rewriteFrame f infos a size quarter level) := by
  unfold State.rewriteFrame
  split
  · exact hk.others (modFrame_same (Same.refl _ t) rfl f _)
  · have hput : Ends X z (t.putCodes f (t.newCodes f infos a size quarter level) false) :=
      Ends.foldl (fun u c hu => frameWrite_ends hu ..) hk _
    exact hput.others (setCode_same (Same.refl _ _) rfl f a size quarter level)

theorem releaseOne_ends (f : Nat) : Ends X z (t.releaseOne f) := by
  unfold State.releaseOne
  split
  · exact hk
  · next k _ =>
    extract_lets x freed s1 s2 s3
    refine Ends.ite hk ?_
    split
    · next hc =>
      simp only [Bool.and_eq_true, beq_iff_eq] at hc
      have hfreed := freeF_ends (hk.others (dropDeferred_same (Same.refl _ t) rfl f)) f
      have hgiven := modTag_ends hfreed k (fun y => { y with frame := none }) fun _ => .refl _
      exact endTag0_ends (commitTag_ends hgiven k .success 0 (hk.over_of_release hc.1)) k
    · refine Ends.ite ?_ hk
      have h1 : Ends X z s1 := hk.others (modFrame_same (Same.refl _ t) rfl f _)
      have h2 : Ends X z s2 := rewriteFrame_ends h1 ..
      have h3 : Ends X z s3 := takeForwards_ends (h2.others (bindFrame_same (Same.refl _ _) rfl f _ _)) ..
      exact endTag0_ends (modTag_ends h3 k (fun y => { y with rebind := false }) fun _ => .refl _) k

theorem releaseSweep_ends : Ends X z t.releaseSweep :=
  Ends.foldl (fun _ f hu => releaseOne_ends hu f) hk _

theorem endTag_ends (k : Nat) : Ends X z (t.endTag k) := releaseSweep_ends (endTag0_ends hk k)

theorem finish_ends (k : Nat) (st : Status) (info : Nat) (hover : (z.tag k).inFlight → X k) :
    Ends X z (t.finish k st info) := endTag_ends (commitTag_ends hk k st _ hover) k

/-! The works of a tag end with it (R64, R90). -/

theorem endWork_ends (id : Nat) : Ends X z (t.endWork id) :=
  hk.quiet (endWork_quiet t id) (endWork_same (Same.refl _ t) rfl id)

theorem freeWorkFrame_ends (w : Work) : Ends X z (t.freeWorkFrame w) := by
  unfold State.freeWorkFrame
  split
  · exact Ends.ite (releaseSweep_ends (forwardEnded_ends hk _)) (freeF_ends hk _)
  · exact hk

theorem detachReads_ends (k : Nat) : Ends X z (t.detachReads k) := by
  unfold State.detachReads
  refine Ends.foldl (fun u id hu => ?_) hk _
  split
  · exact hu
  · exact Ends.ite (freeWorkFrame_ends (endWork_ends hu id) _) (hu.others (modWork_same (Same.refl _ u) rfl id _))

theorem dropRebuild_ends (k : Nat) : Ends X z (t.dropRebuild k) :=
  Ends.foldl (fun _ f hu => freeF_ends hu f) (modTag_ends hk k (fun x => { x with rebuild := none }) fun _ => .refl _) _

theorem endTagWorks_ends (k : Nat) : Ends X z (t.endTagWorks k) :=
  Ends.foldl (fun _ id hu => endWork_ends hu id) (detachReads_ends (dropRebuild_ends hk k) k) _

end

end Sys2Proof.Machine
end

section
/-! SUPPORT. Commands stop, channels fault, and rebuilds end: what stands whatever ends with them (R64, R90, R258, R291, R436,
R455, R460 to R463). -/

namespace Sys2Proof.Machine
open Sys2Proof

/-- Every tag, where any command may end. -/
def anyTag : Nat → Prop := fun _ => True

theorem anyTag_over {z : State} (k : Nat) : (z.tag k).inFlight → anyTag k := fun _ => trivial

theorem Ends.any {X : Nat → Prop} {s t : State} (h : Ends X s t) : Ends anyTag s t :=
  ⟨h.queue, h.reg, h.reset, fun _ hk => absurd trivial hk⟩

/-- What a tag that stops does once it has committed. -/
def State.stopped (s : State) (k : Nat) : State :=
  let s := (s.endTagWorks k).dropPhase k
  let s := (s.dropService k).dropSd k
  let s := s.modTag k (fun x => { x with sdPending := false, sd := none, sdBytes := [], rebuild := none })
  s.endTag k

theorem stopTag_eq (s : State) (k : Nat) (st : Status) (info : Nat) : s.stopTag k st info =
    if (s.tag k).committed || (s.tag k).st == .free then s else (s.commitTag k st (BitVec.ofNat 32 info)).stopped k := rfl

section
variable {z t : State} (hk : Ends anyTag z t)
include hk

theorem modTag_any (k : Nat) (f : Tag → Tag) : Ends anyTag z (t.modTag k f) := setTag_over hk k _ (anyTag_over k)

theorem modChan_ends (n : Nat) (f : Chan → Chan) (hf : ∀ c : Chan, c.inReset = true → (f c).inReset = true) :
    Ends anyTag z (t.modChan n f) := by
  refine hk.trans ⟨fun q => .refl _, fun a _ => rfl, fun j hj => ?_, fun k h => absurd trivial h⟩
  rw [modChan_get]
  split
  · exact hf _ hj
  · exact hj

/-! Programs fail (R74, R75, R94, R100, R118). -/

theorem addDeferred_ends (k f : Nat) (st : Status) (info : Nat) : Ends anyTag z (t.addDeferred k f st info) := by
  unfold State.addDeferred
  extract_lets x r u
  have hkept : Ends anyTag z { t with deferred := t.deferred.filter (fun (d : Deferred) => d.frame != f) ++ [r] } :=
    hk.apart rfl rfl rfl rfl
  have hu : Ends anyTag z u := hkept.others (freshEntry_same (Same.refl _ _) rfl 1 _ 32)
  exact raise_ends (addFld_ends hu 0x3800 31 16 1 (by unfold faultLog; omega)) 840

theorem programFails_ends (k f : Nat) (st : Status) (info : Nat) (hold : Bool) :
    Ends anyTag z (t.programFails k f st info hold) := by
  have hcommit : ∀ {u : State}, Ends anyTag z u → Ends anyTag z (u.commitTag k st (BitVec.ofNat 32 info)) := fun hu =>
    commitTag_ends hu k st _ (anyTag_over k)
  unfold State.programFails
  refine Ends.ite (endTag_ends (Ends.ite (addCarry_ends hk ..) (hcommit hk)) k) (Ends.ite (Ends.ite ?_ ?_) (Ends.ite ?_ ?_))
  · exact endTag_ends (addDeferred_ends (holdF_ends hk f) ..) k
  · exact endTag_ends (holdF_ends hk f) k
  · exact endTag_ends (hcommit (holdF_ends hk f)) k
  · exact finish_ends hk k st info (anyTag_over k)

theorem freeUsed_ends (f : Nat) : Ends anyTag z (if (t.frame f).st == .inUse then t.freeF f else t) :=
  Ends.ite (freeF_ends hk f) hk

theorem freeAny_ends (o : Option Nat) : Ends anyTag z
    (match o with | some f => if (t.frame f).st == .inUse then t.freeF f else t | none => t) := by
  split
  · exact freeUsed_ends hk _
  · exact hk

theorem releaseAcc_ends (k : Nat) : Ends anyTag z (t.releaseAcc k) := by
  unfold State.releaseAcc
  extract_lets a s1 s2 s3
  have h1 : Ends anyTag z s1 := hk.others (setAcc_same (Same.refl _ t) rfl k _)
  have h2 : Ends anyTag z s2 :=
    h1.trans ⟨fun _ => .refl _, fun _ _ => rfl, fun _ hn => hn, fun _ h => absurd trivial h⟩
  have h3 : Ends anyTag z s3 := Ends.foldl (fun u j hu => settle_ends (modTag_any hu j _) j) h2 _
  exact Ends.foldl (fun u o hu => freeAny_ends hu o) h3 _

theorem programLost_ends (id : Nat) (st : Status) (info : Nat) (hold : Bool) :
    Ends anyTag z (t.programLost id st info hold) := by
  unfold State.programLost
  split
  · exact hk
  · split
    · next k f _ _ =>
      extract_lets x role st' hold' info' fs s1 s2 move s3 s4
      have h1 : Ends anyTag z s1 := endTagWorks_ends hk k
      have h2 : Ends anyTag z s2 := Ends.ite (Ends.foldl (fun u g hu => freeUsed_ends hu g) h1 _) h1
      have h3 : Ends anyTag z s3 := modTag_any h1 k _
      have h4 : Ends anyTag z s4 :=
        Ends.ite (commitTag_ends h3 k _ _ (anyTag_over k)) (Ends.ite (addDeferred_ends h3 ..) h3)
      exact Ends.ite (releaseAcc_ends (programFails_ends h2 ..) _) (Ends.ite (Ends.ite (programFails_ends h1 ..)
        (Ends.ite (releaseOne_ends h4 f) (endTag_ends h4 k))) (programFails_ends h1 ..))
    · exact finish_ends (endTagWorks_ends hk _) _ st info (anyTag_over _)
    · exact endWork_ends hk id

/-! Surveys and calibrations are abandoned (R291, R436). -/

theorem closeRead_ends (id : Nat) : Ends anyTag z (t.closeRead id) := by
  unfold State.closeRead
  split
  · exact hk
  · exact freeWorkFrame_ends (endWork_ends hk id) _

theorem closeReads_ends (l : List Nat) : Ends anyTag z (l.foldl (fun (s : State) id =>
    match s.work id with
    | some w => (s.endWork id).freeWorkFrame w
    | none => s) t) := by
  refine Ends.foldl (fun u id hu => ?_) hk l
  split
  · exact freeWorkFrame_ends (endWork_ends hu id) _
  · exact hu

theorem abandonSurvey_ends (n : Nat) : Ends anyTag z (t.abandonSurvey n) := by
  have ho : ¬ faultLog (0x330000 + n * 0x100) := by unfold faultLog; omega
  unfold State.abandonSurvey
  extract_lets v ids s1 src s2 s3
  have h1 : Ends anyTag z s1 := closeReads_ends hk ids
  have h2 : Ends anyTag z s2 := modChan_ends h1 n _ fun _ h => h
  have h3 : Ends anyTag z s3 := count_ends (setFld_ends h2 _ 13 12 2 ho) n 23 1
  refine Ends.ite hk ?_
  split
  · exact finish_ends h3 _ .aborted 0 (anyTag_over _)
  · exact h3

theorem calQueue_ends (n : Nat) (apply : Bool) (tag : Option Nat) : Ends anyTag z (t.calQueue n apply tag) := by
  unfold State.calQueue
  extract_lets src u
  have hu : Ends anyTag z u := modChan_ends hk n _ fun _ h => h
  exact hu.apart rfl rfl rfl rfl

theorem calNext_ends (n : Nat) : Ends anyTag z (t.calNext n) := by
  unfold State.calNext
  refine Ends.ite hk ?_
  split
  · exact calQueue_ends hk ..
  · exact hk

theorem dropCal_ends (n : Nat) : Ends anyTag z (t.dropCal n) := by
  have ho : ¬ faultLog (0x54004 + n * 0x40) := by unfold faultLog; omega
  unfold State.dropCal
  extract_lets runs s1 s2
  have h1 : Ends anyTag z s1 := modChan_ends hk n _ fun _ h => h
  have h2 : Ends anyTag z s2 := setFld_ends (setFld_ends h1 _ 10 8 4 ho) _ 23 20 runs ho
  clear_value s2
  refine calNext_ends ?_ n
  exact h2.apart rfl rfl rfl rfl

theorem dropService_ends (k : Nat) : Ends anyTag z (t.dropService k) := by
  unfold State.dropService
  extract_lets n s1 s2
  have h1 : Ends anyTag z s1 := modChan_ends hk n _ fun _ h => h
  have h2 : Ends anyTag z s2 := Ends.ite (abandonSurvey_ends h1 n) h1
  exact Ends.ite (dropCal_ends h2 n) h2

/-! Tags stop (R42, R64, R65, R67). -/

theorem stopped_ends (k : Nat) : Ends anyTag z (t.stopped k) := by
  have hphase : Ends anyTag z ((t.endTagWorks k).dropPhase k) :=
    (endTagWorks_ends hk k).others (dropPhase_same (Same.refl _ _) rfl k)
  have hsd : Ends anyTag z ((((t.endTagWorks k).dropPhase k).dropService k).dropSd k) :=
    (dropService_ends hphase k).others (dropSd_same (Same.refl _ _) rfl k)
  exact endTag_ends (modTag_any hsd k _) k

theorem stopTag_ends (k : Nat) (st : Status) (info : Nat) : Ends anyTag z (t.stopTag k st info) := by
  rw [stopTag_eq]
  exact Ends.ite hk (stopped_ends (commitTag_ends hk k st _ (anyTag_over k)) k)

theorem reopen_ends (k : Nat) : Ends anyTag z (t.reopen k) := by
  unfold State.reopen
  split
  · exact hk
  · refine Ends.foldl (fun u o hu => ?_) (hk.others (setAcc_same (Same.refl _ t) rfl _ _)) _
    split
    · exact fallBack_ends (hu.others (unbind_same (Same.refl _ u) rfl _)) _
    · exact hu

theorem abortNow_ends (k : Nat) : Ends anyTag z (t.abortNow k) := reopen_ends (stopTag_ends hk k .aborted 0) k

theorem dropTag_ends (k : Nat) : Ends anyTag z (t.dropTag k) := by
  have hcarry : Ends anyTag z (t.addCarry k .aborted 0) := addCarry_ends hk ..
  unfold State.dropTag
  extract_lets x u v
  have hv : Ends anyTag z v := Ends.ite (Ends.ite (raiseCarry_ends hcarry) hcarry) hk
  exact freeTag_ends ((endTagWorks_ends hv k).others (dropPhase_same (Same.refl _ _) rfl k)) k (anyTag_over k)

theorem abortIfPending_ends (k : Nat) : Ends anyTag z (t.abortIfPending k).2 := by
  unfold State.abortIfPending
  exact Ends.pairIte (dropTag_ends hk k) (Ends.pairIte (abortNow_ends hk k) hk)

theorem tooLate_ends (k : Nat) : Ends anyTag z (t.tooLate k) := by
  unfold State.tooLate
  extract_lets j u
  have hu : Ends anyTag z u := modTag_any hk k _
  cases j with
  | some j => exact commitSlot_ends hu ..
  | none => exact hu

/-! Rebuilds (R90, R254, R258, R259). -/

theorem rebuildFails_ends (k : Nat) : Ends anyTag z (t.rebuildFails k) := by
  unfold State.rebuildFails
  dsimp only
  split
  · exact hk
  · exact Ends.ite (stopTag_ends hk ..) (stopTag_ends hk ..)

theorem endMembers_ends (k : Nat) (keep : List Nat) : Ends anyTag z (t.endMembers k keep) := by
  refine Ends.foldl (fun u id hu => ?_) hk _
  split
  · exact hu
  · exact Ends.ite (endWork_ends hu id) (freeWorkFrame_ends (endWork_ends hu id) _)

theorem putPayload_ends (f size : Nat) (quarter : Bool) (level : Nat) (payload : List Byte) (poison : Bool) :
    Ends anyTag z (t.putPayload f size quarter level payload poison) :=
  Ends.foldl (fun _ _ hu => frameWrite_ends hu ..) hk _

theorem freeList_ends (l : List Nat) :
    Ends anyTag z (l.foldl (fun (s : State) f => if (s.frame f).st == .inUse then s.freeF f else s) t) :=
  Ends.foldl (fun _ f hu => freeUsed_ends hu f) hk l

theorem rebuildDone_ends (k : Nat) (payload : List Byte) : Ends anyTag z (t.rebuildDone k payload) := by
  have hwritten : ∀ r : Rebuild, Ends anyTag z
      (match r.frameB with | some g => t.frameWrite g 0 r.sumQ r.poisoned | none => t) := by
    intro r
    split
    · exact frameWrite_ends hk ..
    · exact hk
  unfold State.rebuildDone
  dsimp only
  split
  · split
    · split
      · exact freeList_ends (modTag_any (endMembers_ends (putPayload_ends (hwritten _) ..) k _) k _) _
      · exact hwritten _
    · split
      · exact hwritten _
      · next f _ =>
        refine tagTo_ends (freeList_ends (modTag_any (endMembers_ends (Ends.others ?_ (modFrame_same (Same.refl _ _) rfl f _))
          k _) k _) _) k .delivering (by decide)
        exact putPayload_ends (hwritten _) ..
  · exact hk

end

end Sys2Proof.Machine
end

section
/-! SUPPORT. A command that commits leaves a completion for its queue, which whatever ends after it keeps (R61, R64, R65). -/

namespace Sys2Proof.Machine
open Sys2Proof

theorem Queue.grows.discard {x y : Queue} (h : x.grows y) : y.discard = x.discard := by
  obtain ⟨l, rfl⟩ := h
  rfl

theorem Queue.grows.mem {x y : Queue} (h : x.grows y) {c : Completion} (hc : c ∈ x.due) : c ∈ y.due := by
  obtain ⟨l, rfl⟩ := h
  exact List.mem_append_left _ hc

namespace Ends
variable {X : Nat → Prop} {s t : State}

theorem dueFor (h : Ends X s t) {q k : Nat} {st : Status} {info : Word} (hd : dueFor s q k st info) : dueFor t q k st info := by
  obtain ⟨c, hc, hrest⟩ := hd
  exact ⟨c, (h.queue q).mem hc, hrest⟩

theorem dueTagless (h : Ends X s t) {q : Nat} {cid : BitVec 16} {st : Status} {info : Word}
    (hd : dueTagless s q cid st info) : dueTagless t q cid st info := by
  obtain ⟨c, hc, hrest⟩ := hd
  exact ⟨c, (h.queue q).mem hc, hrest⟩

/-- A command in flight is the same to its commit. -/
theorem liveTag (h : Ends X s t) {k : Nat} (hx : ¬ X k) (hop : (s.tag k).opcode ≠ some .releaseFrame) (hlive : liveTag s k) :
    liveTag t k ∧ (t.tag k).sqid = (s.tag k).sqid := by
  obtain ⟨hst, hc, hruns, hdropped, hue, hd⟩ := hlive
  obtain ⟨hst', hc', -, hsqid, hruns', hdropped', hue'⟩ := h.tag k hx ⟨hst, hc, hop⟩
  exact ⟨⟨hst', hc', hruns'.trans hruns, hdropped'.trans hdropped, hue'.trans hue,
    hsqid ▸ (h.queue _).discard.trans hd⟩, hsqid⟩

end Ends

/-- Tag `k` with its commit fixed. -/
def State.tagCommitted (s : State) (k : Nat) (st : Status) (info : Word) : State :=
  let s := s.commitAcc (s.tag k) st
  s.setTag k { s.tag k with committed := true, status := st, info := info }

theorem tagCommitted_same {m : Nat} {z t : State} (hk : Same m z t) (h : 0x40400 ||| m = m) (k : Nat) (st : Status)
    (info : Word) : Same m z (t.tagCommitted k st info) :=
  setTag_same (commitAcc_same hk (up h rfl) _ st) (up h rfl) k _

theorem tagCommitted_abortSlot (s : State) (k : Nat) (st : Status) (info : Word) :
    ((s.tagCommitted k st info).tag k).abortSlot = (s.tag k).abortSlot := by
  have htag : (s.commitAcc (s.tag k) st).tag k = s.tag k := by
    unfold State.tag
    rw [(commitAcc_same (m := 0x40000) (Same.refl _ s) rfl _ st).tags rfl]
  unfold State.tagCommitted
  dsimp only
  rw [setTag_get, if_pos rfl, htag]

section
variable {s : State} {k : Nat} (hlive : liveTag s k)
include hlive

/-- A command commits: its ABORT is resolved, and its completion joins its queue. -/
theorem commitTag_live (st : Status) (info : Word) :
    ∃ u c, Ends anyTag ((s.tagCommitted k st info).resolveAbort k st) u ∧
      s.commitTag k st info = u.modQueue (s.tag k).sqid (fun x => { x with due := x.due ++ [c] }) ∧
      c.tag = some k ∧ c.status = st ∧ c.info = info := by
  obtain ⟨hst, hc, hruns, hdropped, hue, hd⟩ := hlive
  have hstatus : (s.tag k).statusOf st = st := by
    unfold Tag.statusOf
    rw [hue]
    rfl
  have hsame : Same 0x40400 s (s.tagCommitted k st info) := tagCommitted_same (Same.refl _ s) rfl k st info
  unfold State.commitTag
  extract_lets x st' s1 src s2 s3 unbinds s4
  have h3 : s3 = (s.tagCommitted k st info).resolveAbort k st := by
    unfold s3 s2 src s1 st' x
    rw [hstatus]
    rfl
  have h4 : Ends anyTag s3 s4 := Ends.foldl (fun u f hu => Ends.ite
    (fallBack_ends (hu.others (unbind_same (Same.refl _ u) rfl f)) f) (Ends.ite hu (fallBack_ends hu f))) (Ends.refl _ s3) _
  have hqueue : (s.queue x.sqid).grows (s4.queue x.sqid) := by
    have hresolved := (resolveAbort_ends (Ends.refl anyTag (s.tagCommitted k st info)) k st).trans (h3 ▸ h4)
    rw [← hsame.queue rfl]
    exact hresolved.queue _
  rw [if_neg (by unfold x; simp [hc, hst]), if_neg (by unfold x; simp [hdropped]), if_neg (by unfold x; simp [hruns]),
    pushDone_queued (hqueue.discard.trans hd)]
  exact ⟨s4, _, h3 ▸ h4, rfl, rfl, hstatus, rfl⟩

theorem commitTag_due (st : Status) (info : Word) : dueFor (s.commitTag k st info) (s.tag k).sqid k st info := by
  obtain ⟨u, c, -, heq, htag, hstatus, hinfo⟩ := commitTag_live hlive st info
  rw [heq]
  refine ⟨c, ?_, htag, hstatus, hinfo⟩
  rw [modQueue_get, if_pos rfl]
  exact List.mem_append_right _ List.mem_cons_self

/-- The ABORT that stops a command succeeds (R65). -/
theorem commitTag_aborts {j : Nat} (hj : (s.tag k).abortSlot = some j) (info : Word) :
    ∃ u : State, u.slots = s.slots ∧ u.queues = s.queues ∧ Ends anyTag (u.commitSlot j .success k) (s.commitTag k .aborted info) := by
  obtain ⟨u, c, hends, heq, -⟩ := commitTag_live hlive .aborted info
  have hsame : Same 0x40400 s (s.tagCommitted k .aborted info) := tagCommitted_same (Same.refl _ s) rfl k _ info
  have hresolved : (s.tagCommitted k .aborted info).resolveAbort k .aborted =
      ((s.tagCommitted k .aborted info).modTag k fun x => { x with abortPending := false, abortSlot := none }).commitSlot j
        .success k := by
    unfold State.resolveAbort
    dsimp only
    rw [tagCommitted_abortSlot, hj]
    rfl
  have hqueued : Ends anyTag u (u.modQueue (s.tag k).sqid fun x => { x with due := x.due ++ [c] }) := by
    refine ⟨fun q => ?_, fun _ _ => rfl, fun _ h => h, fun _ h => absurd trivial h⟩
    rw [modQueue_get]
    split
    · exact ⟨[c], rfl⟩
    · exact .refl _
  refine ⟨_, ?_, ?_, heq ▸ hresolved ▸ hends.trans hqueued⟩
  · exact hsame.slots rfl
  · exact hsame.queues rfl

/-- A command that stops commits, and what it does ends (R64). -/
theorem stopTag_commits (st : Status) (info : Nat) :
    Ends anyTag (s.commitTag k st (BitVec.ofNat 32 info)) (s.stopTag k st info) := by
  obtain ⟨hst, hc, -⟩ := hlive
  rw [stopTag_eq, if_neg (by simp [hc, hst])]
  exact stopped_ends (Ends.refl _ _) k

theorem abortNow_commits : Ends anyTag (s.commitTag k .aborted 0) (s.abortNow k) :=
  reopen_ends (stopTag_commits hlive .aborted 0) k

end

end Sys2Proof.Machine
end

section
/-! SUPPORT. Tagless packets that pass: ABORT, FENCE, GET_DEFERRED and SELF_TEST as the interpreter runs them (R57, R70, R75,
R107 to R109, R112). -/

namespace Sys2Proof.Machine
open Sys2Proof

section
variable {s v u : State} {q k : Nat} {p : Packet} {o : Opcode} (hhead : HeadTaken s v q) (htaken : SlotTaken v u q p o k)
include hhead htaken

theorem taken_tags : u.tags = s.tags := (htaken.rest.tags rfl).trans (hhead.rest.tags rfl)

theorem taken_tag (j : Nat) : u.tag j = s.tag j := by
  unfold State.tag
  rw [taken_tags hhead htaken]

theorem taken_discard (j : Nat) : (u.queue j).discard = (s.queue j).discard := by
  rw [htaken.rest.queue rfl]
  exact hhead.discard j

/-- The other slots are as they were. -/
theorem taken_slot {e : Nat × Slot} (he : e ∈ u.slots) (hne : e.1 ≠ k) : e ∈ s.slots := by
  rw [htaken.slots, hhead.rest.slots rfl] at he
  rcases SMap.mem_insert _ _ _ _ he with rfl | hin
  · exact absurd rfl hne
  · exact hin

/-- The packet's slot commits with its completion. -/
theorem taken_commits {w : State} (hslots : w.slots = u.slots) (hqueues : w.queues = u.queues)
    (hd : (s.queue q).discard = false) (st : Status) (info : Nat) :
    dueTagless (w.commitSlot k st info) q (pkCid p) st (BitVec.ofNat 32 info) ∧ Same 0x880 w (w.commitSlot k st info) :=
  htaken.commits hslots hqueues ((hhead.discard q).trans hd) st info

end

theorem accept_abort {v : State} {p : Packet} (ho : pkOpcode p = some .abort) (q : Nat) (absent : Bool) :
    v.accept q p absent = v.acceptAbort q p := by
  unfold State.accept
  rw [ho]

theorem accept_getDeferred {v : State} {p : Packet} (ho : pkOpcode p = some .getDeferred) (q : Nat) (absent : Bool) :
    v.accept q p absent = v.acceptDeferred q p := by
  unfold State.accept
  rw [ho]

theorem stopAt_queued {s : State} {k : Nat} (h : (s.tag k).st = .queued) : s.stopAt k = .now := by
  unfold State.stopAt
  dsimp only
  rw [h]

theorem stopAt_confirmed {s : State} {k : Nat} (h : (s.tag k).st = .confirmed) : s.stopAt k = .never := by
  unfold State.stopAt
  dsimp only
  rw [h]

theorem withTest_same {m : Nat} {z t : State} (hk : Same m z t) (h : 0x2000000000 ||| m = m) (x : SelfTest) :
    Same m z (t.withTest x) := by
  unfold State.withTest
  apply Same.lit hk (h_test := mayDiffer h rfl) <;> exact fun _ => rfl

/-- A packet takes its slot, and what it does is known but for the arbiter. -/
theorem passes_runs {s : State} {q : Nat} {p : Packet} {o : Opcode} {c : Instr} (hnext : parsesNext s q p) (hc : parses c q p)
    (hv : s.verdict q p = .pass false) (ho : pkOpcode p = some o) (hslot : o.takesSlot) {C : State → Prop}
    (hC : ∀ t b, C t → C (t.withArb b))
    (hrun : ∀ v u k, HeadTaken s v q → v.takeSlot q p o = some (k, u) → SlotTaken v u q p o k →
      ∃ t, v.accept q p false = some t ∧ C t) : ∃ t, exec c s = .next t ∧ C t := by
  obtain ⟨v, u, k, hhead, htake, htaken, hexec⟩ := passes_takes hnext hc hv ho hslot
  obtain ⟨t, ht, hCt⟩ := hrun v u k hhead htake htaken
  obtain ⟨b, hb⟩ := hexec t ht
  exact ⟨t.withArb b, hb, hC t b hCt⟩

section
variable {s : State} {q : Nat} {p : Packet} {c : Instr} (hnext : parsesNext s q p) (hc : parses c q p)
  (hv : s.verdict q p = .pass false) (hd : (s.queue q).discard = false)
include hnext hc hv hd

/-! ABORT (R107). -/

section
variable (ho : pkOpcode p = some .abort) (hslots : ∀ e, e ∈ s.slots → ¬ abortNames p e.2.sqid e.2.cid)
include ho hslots

theorem abort_notFound (htags : ∀ e, e ∈ s.tags → ¬ abortNames p e.2.sqid e.2.cid) :
    ∃ t, exec c s = .next t ∧ dueTagless t q (pkCid p) .notFound 0 := by
  refine passes_runs hnext hc hv ho (.inl rfl) (fun _ _ h => h) fun v u k hhead htake htaken => ?_
  refine ⟨_, (accept_abort ho q false).trans (acceptAbort_notFound htake (fun e he hne => ?_) fun e he => ?_), ?_⟩
  · exact hslots e (taken_slot hhead htaken he hne)
  · exact htags e (taken_tags hhead htaken ▸ he)
  · exact (taken_commits hhead htaken rfl rfl hd .notFound 0).1

section
variable {j : Nat} (hlive : liveTag s j) (hnames : abortNames p (s.tag j).sqid (s.tag j).cid)
  (honly : ∀ e, e ∈ s.tags → abortNames p e.2.sqid e.2.cid → e.1 = j)
include hlive hnames honly

omit hd in
theorem abort_runs {C : State → Prop} (hC : ∀ t b, C t → C (t.withArb b))
    (hrun : ∀ v u k, HeadTaken s v q → SlotTaken v u q p .abort k → C (u.abortTag k j)) :
    ∃ t, exec c s = .next t ∧ C t := by
  obtain ⟨hst, -, hruns, hdropped, -⟩ := hlive
  refine passes_runs hnext hc hv ho (.inl rfl) hC fun v u k hhead htake htaken => ?_
  have htags := taken_tags hhead htaken
  refine ⟨_, (accept_abort ho q false).trans (acceptAbort_tag htake (fun e he hne => ?_) (x := s.tag j) ?_ hnames hst hruns
    hdropped fun e he => ?_), hrun v u k hhead htaken⟩
  · exact hslots e (taken_slot hhead htaken he hne)
  · rw [htags]
    exact mem_of_tag hst
  · exact honly e (htags ▸ he)

variable (ha : (s.tag j).abortSlot = none)
include ha

/-- An ABORT of a command past its confirm is too late (R64, R65). -/
theorem abort_tooLate (hst : (s.tag j).st = .confirmed) : ∃ t, exec c s = .next t ∧ t.tag j = s.tag j ∧
    dueTagless t q (pkCid p) .tooLate (BitVec.ofNat 32 j) := by
  refine abort_runs hnext hc hv ho hslots hlive hnames honly (fun _ _ h => h) fun v u k hhead htaken => ?_
  have htag := taken_tag hhead htaken j
  obtain ⟨-, hopen, -⟩ := hlive
  have hnever : u.stopAt j = .never := stopAt_confirmed (htag ▸ hst)
  rw [abortTag_never (htag ▸ hopen) (htag ▸ ha) hnever]
  obtain ⟨hdue, hsame⟩ := taken_commits hhead htaken rfl rfl hd .tooLate j
  refine ⟨?_, hdue⟩
  rw [← htag]
  unfold State.tag
  rw [hsame.tags rfl]

/-- An ABORT of a QUEUED command stops it (R64, R65). -/
theorem abort_stops (hst : (s.tag j).st = .queued) : ∃ t, exec c s = .next t ∧ dueFor t (s.tag j).sqid j .aborted 0 ∧
    dueTagless t q (pkCid p) .success (BitVec.ofNat 32 j) := by
  refine abort_runs hnext hc hv ho hslots hlive hnames honly (fun _ _ h => h) fun v u k hhead htaken => ?_
  have htag := taken_tag hhead htaken j
  obtain ⟨hfree, hopen, hruns, hdropped, hue, hdiscard⟩ := hlive
  have hnow : u.stopAt j = .now := stopAt_queued (htag ▸ hst)
  rw [abortTag_now (htag ▸ hopen) (htag ▸ ha) hnow]
  have hx : (u.modTag j fun x => { x with abortPending := true, abortSlot := some k }).tag j =
      { s.tag j with abortPending := true, abortSlot := some k } := by
    rw [modTag_get, if_pos rfl, htag]
  generalize hw : (u.modTag j fun x => { x with abortPending := true, abortSlot := some k }) = w at hx ⊢
  have hsame : Same 0x400 u w := hw ▸ modTag_same (Same.refl _ u) rfl j _
  have hlive' : liveTag w j := by
    unfold liveTag
    rw [hx, hsame.queue rfl]
    exact ⟨hfree, hopen, hruns, hdropped, hue, (taken_discard hhead htaken _).trans hdiscard⟩
  have hsqid : (w.tag j).sqid = (s.tag j).sqid := by rw [hx]
  have hends := abortNow_commits hlive'
  obtain ⟨y, hyslots, hyqueues, hcommit⟩ := commitTag_aborts hlive' (j := k) (by rw [hx]) 0
  have hslot := taken_commits hhead htaken (hyslots.trans (hsame.slots rfl)) (hyqueues.trans (hsame.queues rfl)) hd .success j
  exact ⟨hends.dueFor (hsqid ▸ commitTag_due hlive' .aborted 0), (hcommit.trans hends).dueTagless hslot.1⟩

end

end

/-! FENCE (R70, R108). -/

omit hd in
theorem fence_waits (ho : pkOpcode p = some .fence) : ∃ t j, exec c s = .next t ∧ t.fencePending q = true ∧
    SMap.get s.slots j = none ∧
    t.slot j = { sqid := q, cid := pkCid p, opcode := .fence, packet := p, stamp := s.stamp, done := false } ∧
    t.tags = s.tags := by
  obtain ⟨v, u, k, hhead, htake, htaken, hexec⟩ := passes_takes hnext hc hv ho (.inr (.inl rfl))
  obtain ⟨b, hb⟩ := hexec u (accept_fence ho htake false)
  refine ⟨u.withArb b, k, hb, ?_, ?_, ?_, (taken_tags hhead htaken :)⟩
  · exact List.any_eq_true.2 ⟨_, SMap.mem_of_get htaken.get, by simp [newSlot]⟩
  · rw [← hhead.rest.slots rfl]
    exact htaken.free
  · show u.slot k = _
    unfold State.slot SMap.getD
    rw [htaken.get, hhead.rest.stamp rfl]
    rfl

/-! GET_DEFERRED (R75, R109). -/

section
variable (ho : pkOpcode p = some .getDeferred)
include ho

omit hd in
/-- The packet is delivered what there is. -/
theorem deferred_runs {C : State → Prop} (hC : ∀ t b, C t → C (t.withArb b))
    (hrun : ∀ v u k, HeadTaken s v q → SlotTaken v u q p .getDeferred k → C (u.deferredEnds q k p (s.namesReserved p))) :
    ∃ t, exec c s = .next t ∧ C t := by
  refine passes_runs hnext hc hv ho (.inr (.inr (.inl rfl))) hC fun v u k hhead htake htaken => ?_
  have hwaits := (hhead.deferredWaits p).trans (passes_notWaiting hnext ho hv)
  refine ⟨_, (accept_getDeferred ho q false).trans (acceptDeferred_takes hwaits htake), ?_⟩
  rw [hhead.namesReserved]
  exact hrun v u k hhead htaken

theorem deferred_none (hnone : s.deferred = []) (hfits : s.namesReserved p = true → ple p 16 8 % 0x8000 ≤ 20480) :
    ∃ t, exec c s = .next t ∧ dueTagless t q (pkCid p) .success 0 ∧ t.deferred = [] ∧ t.ep = s.ep := by
  refine deferred_runs hnext hc hv ho (fun _ _ h => h) fun v u k hhead htaken => ?_
  have hnone' : u.deferred = [] := (htaken.rest.deferred rfl).trans ((hhead.rest.deferred rfl).trans hnone)
  rw [deferredEnds_none hnone' hfits]
  obtain ⟨hdue, hsame⟩ := taken_commits hhead htaken (w := u.recordsGone []) rfl rfl hd .success 0
  refine ⟨hdue, (hsame.deferred rfl).trans ?_, (hsame.ep rfl).trans ((htaken.rest.ep rfl).trans (hhead.rest.ep rfl))⟩
  unfold State.recordsGone
  rw [hnone']
  rfl

section
variable {d : Deferred} (hone : s.deferred = [d]) (hsel : ple p 48 2 = 2 ^ 15)
include hone hsel

theorem deferred_host (hframe : s.namesReserved p = false) : ∃ t, exec c s = .next t ∧
    dueTagless t q (pkCid p) .success 1 ∧ t.deferred = [] ∧ s.ep.tx.length < t.ep.tx.length := by
  have hmay : s.mayIssue = true := by
    have hwaits := passes_notWaiting hnext ho hv
    unfold State.deferredWaits at hwaits
    rw [hframe] at hwaits
    simpa using hwaits
  refine deferred_runs hnext hc hv ho (fun _ _ h => h) fun v u k hhead htaken => ?_
  have hone' : u.deferred = [d] := (htaken.rest.deferred rfl).trans ((hhead.rest.deferred rfl).trans hone)
  have hclean : u.rawGroups = [] := htaken.clean ((hhead.rest.rawGroups rfl).trans hnext.2.1)
  have hep : u.ep = s.ep := (htaken.rest.ep rfl).trans (hhead.rest.ep rfl)
  obtain ⟨w, hw, hkeeps, heq⟩ := deferredEnds_one (q := q) (k := k) hone' hsel (deferred_room ho hv) hclean
    (inFrame := s.namesReserved p) (fun h => by rw [hframe] at h; cases h)
  rw [hframe, if_neg Bool.false_ne_true] at hw
  have hwrite : Same 0x60 u w := hw ▸ sendWrite_same (Same.refl _ u) rfl _ _ _ _
  obtain ⟨hdue, hsame⟩ := taken_commits hhead htaken (w := w.recordsGone [d]) (hwrite.slots rfl) (hwrite.queues rfl) hd
    .success 1
  rw [heq]
  refine ⟨hdue, (hsame.deferred rfl).trans (recordsGone_one hkeeps), ?_⟩
  rw [hsame.ep rfl]
  show s.ep.tx.length < w.ep.tx.length
  rw [hw, ← hep]
  exact sendWrite_grows (hep ▸ (mayIssue_iff.1 hmay).2.2) _ _ (deferredBytes_clean hclean d) _

theorem deferred_frame (hframe : s.namesReserved p = true) (hfits : ple p 16 8 % 0x8000 + 32 ≤ 20480) :
    ∃ t, exec c s = .next t ∧ dueTagless t q (pkCid p) .success 1 ∧ t.deferred = [] ∧ t.ep = s.ep := by
  refine deferred_runs hnext hc hv ho (fun _ _ h => h) fun v u k hhead htaken => ?_
  have hone' : u.deferred = [d] := (htaken.rest.deferred rfl).trans ((hhead.rest.deferred rfl).trans hone)
  have hclean : u.rawGroups = [] := htaken.clean ((hhead.rest.rawGroups rfl).trans hnext.2.1)
  obtain ⟨w, hw, hkeeps, heq⟩ := deferredEnds_one (q := q) (k := k) hone' hsel (deferred_room ho hv) hclean
    (inFrame := s.namesReserved p) (fun _ => hfits)
  rw [hframe, if_pos rfl] at hw
  have hwrite : Same 0x39080030010 u w := hw ▸ frameWrite_same (Same.refl _ u) rfl _ _ _ _
  obtain ⟨hdue, hsame⟩ := taken_commits hhead htaken (w := w.recordsGone [d]) (hwrite.slots rfl) (hwrite.queues rfl) hd
    .success 1
  rw [heq]
  exact ⟨hdue, (hsame.deferred rfl).trans (recordsGone_one hkeeps),
    (hsame.ep rfl).trans ((hwrite.ep rfl).trans ((htaken.rest.ep rfl).trans (hhead.rest.ep rfl)))⟩

theorem deferred_long (hframe : s.namesReserved p = true) (hlong : 20480 < ple p 16 8 % 0x8000 + 32) :
    ∃ t, exec c s = .next t ∧ dueTagless t q (pkCid p) .hostAccessError 4 ∧ t.deferred = [d] ∧ t.ep = s.ep := by
  refine deferred_runs hnext hc hv ho (fun _ _ h => h) fun v u k hhead htaken => ?_
  have hone' : u.deferred = [d] := (htaken.rest.deferred rfl).trans ((hhead.rest.deferred rfl).trans hone)
  rw [hframe, deferredEnds_long hone' hsel (deferred_room ho hv) hlong]
  obtain ⟨hdue, hsame⟩ := taken_commits hhead htaken rfl rfl hd .hostAccessError 4
  exact ⟨hdue, (hsame.deferred rfl).trans hone', (hsame.ep rfl).trans ((htaken.rest.ep rfl).trans (hhead.rest.ep rfl))⟩

end

end

/-! SELF_TEST (R112, R488). -/

section
variable (ho : pkOpcode p = some .selfTest)
include ho

/-- The packet starts or stops a self-test, and its completion counts the tests. -/
theorem selfTest_runs {C : State → Prop} (hC : ∀ t b, C t → C (t.withArb b))
    (hrun : ∀ u w : State, u.test = s.test → u.fld 0x5200 31 16 = s.fld 0x5200 31 16 →
      w = (if pkByte p 48 = 2 then u.withTest { u.test with stopping := true } else u.testStart (pkByte p 48 == 1)) →
      ∀ t, Same 0x880 w t → dueTagless t q (pkCid p) .success (BitVec.ofNat 32 (w.fld 0x5200 31 16)) → C t) :
    ∃ t, exec c s = .next t ∧ C t := by
  refine passes_runs hnext hc hv ho (.inr (.inr (.inr rfl))) hC fun v u k hhead htake htaken => ?_
  have hfld : u.fld 0x5200 31 16 = s.fld 0x5200 31 16 :=
    fld_of_reg ((htaken.reg 0x5200 rfl).trans (hhead.rest.reg_of_regs rfl 0x5200)) 31 16
  have htest : u.test = s.test := (htaken.rest.test rfl).trans (hhead.rest.test rfl)
  generalize hw : (if pkByte p 48 = 2 then u.withTest { u.test with stopping := true }
    else u.testStart (pkByte p 48 == 1)) = w
  have hkeeps : Same 0x2000000010 u w := by
    rw [← hw]
    split
    · exact withTest_same (Same.refl _ u) rfl _
    · exact testStart_same (Same.refl _ u) rfl _
  obtain ⟨hdue, hsame⟩ := taken_commits hhead htaken (w := w) (hkeeps.slots rfl) (hkeeps.queues rfl) hd .success
    (w.fld 0x5200 31 16)
  refine ⟨_, accept_selfTest ho htake false, ?_⟩
  dsimp only
  have hw' : (if pkByte p 48 = 2 then { u with test := { u.test with stopping := true } }
    else u.testStart (pkByte p 48 == 1)) = w := hw
  rw [hw']
  exact hrun u w htest hfld hw.symm _ hsame hdue

theorem selfTest_starts (hstart : pkByte p 48 ≤ 1) : ∃ t, exec c s = .next t ∧ t.test.running = true ∧
    t.test.extended = decide (pkByte p 48 = 1) ∧ t.fld 0x5200 31 16 = (s.fld 0x5200 31 16 + 1) % 2 ^ 16 ∧
    dueTagless t q (pkCid p) .success (BitVec.ofNat 32 ((s.fld 0x5200 31 16 + 1) % 2 ^ 16)) := by
  refine selfTest_runs hnext hc hv hd ho (fun _ _ h => h) fun u w _ hfld hw t hsame hdue => ?_
  rw [if_neg (by omega)] at hw
  have hcount : w.fld 0x5200 31 16 = (s.fld 0x5200 31 16 + 1) % 2 ^ 16 := by rw [hw, testStart_count, hfld]
  have htest : t.test = startedTest (pkByte p 48 == 1) := (hsame.test rfl).trans (hw ▸ testStart_test u _)
  rw [hcount] at hdue
  refine ⟨congrArg SelfTest.running htest, (congrArg SelfTest.extended htest).trans (beq_eq_decide _ _), ?_, hdue⟩
  rw [fld_of_reg (hsame.reg_of_regs rfl 0x5200), hcount]

theorem selfTest_stops (hstop : pkByte p 48 = 2) : ∃ t, exec c s = .next t ∧ t.test = { s.test with stopping := true } ∧
    dueTagless t q (pkCid p) .success (BitVec.ofNat 32 (s.fld 0x5200 31 16)) := by
  refine selfTest_runs hnext hc hv hd ho (fun _ _ h => h) fun u w htest hfld hw t hsame hdue => ?_
  rw [if_pos hstop] at hw
  have hcount : w.fld 0x5200 31 16 = s.fld 0x5200 31 16 := by rw [hw, withTest_fld, hfld]
  rw [hcount] at hdue
  refine ⟨(hsame.test rfl).trans ?_, hdue⟩
  rw [hw, ← htest]
  rfl

end

end

end Sys2Proof.Machine
end

section
/-! What the packets that take a tagless slot do, and what commits a fence. -/

namespace Sys2Proof
open Machine

/-- Settles O5, opcode by opcode: a packet that passes finds a free slot, and what it does leaves the slot to commit. -/
theorem taglessPacketsComplete : Obligations.TaglessPacketsComplete := by
  refine ⟨fun s q p c hnext hc hv hd => ⟨fun ho hslots => ⟨?_, ?_⟩, ?_, ?_, fun d ho hone hsel => ⟨?_, ?_, ?_⟩, ?_, ?_⟩,
    fun s k x hs hx ho hdone hd => ⟨?_, ?_⟩⟩
  · exact abort_notFound hnext hc hv hd ho hslots
  · intro k hlive hsqid hcid honly ha
    have hthis := fun e he (hnames : abortNames p e.2.sqid e.2.cid) => honly e he hnames.1 hnames.2
    exact ⟨abort_stops hnext hc hv hd ho hslots hlive ⟨hsqid, hcid⟩ hthis ha,
      abort_tooLate hnext hc hv hd ho hslots hlive ⟨hsqid, hcid⟩ hthis ha⟩
  · exact fence_waits hnext hc hv
  · exact deferred_none hnext hc hv hd
  · exact deferred_host hnext hc hv hd ho hone hsel
  · exact deferred_frame hnext hc hv hd ho hone hsel
  · exact deferred_long hnext hc hv hd ho hone hsel
  · exact selfTest_starts hnext hc hv hd
  · exact selfTest_stops hnext hc hv hd
  · intro htags hslots
    obtain ⟨hdue, hsame, hslot⟩ := commitSlot_due hx hdone hd .success 0
    have hcommit := fenceCommit_commits hx ho hdone htags hslots
    exact ⟨_, exec_fenceCommit hs k, hcommit ▸ hslot, hcommit ▸ hdue, hcommit ▸ hsame.tags rfl⟩
  · intro e he hsqid hold hopen hfree hruns hdropped
    rw [exec_fenceCommit hs, fenceCommit_waits hx ho hdone he hsqid hold hopen hfree hruns hdropped]

end Sys2Proof
end

section
/-! SUPPORT. A fault of a channel: its microcode fault log, and the channel reset that it enters, stand (R455, R458). -/

namespace Sys2Proof.Machine
open Sys2Proof

section
variable {z t : State} (hk : Ends anyTag z t)
include hk

theorem solveEnd_ends (k : Nat) : Ends anyTag z (t.solveEnd k) := by
  unfold State.solveEnd
  dsimp only
  split
  · refine Ends.ite hk ?_
    split
    · exact rebuildDone_ends hk ..
    · exact rebuildFails_ends hk k
  · exact hk

theorem rebuildCheck_ends (k : Nat) : Ends anyTag z (t.rebuildCheck k) := by
  unfold State.rebuildCheck
  dsimp only
  split
  · have hassembled : ∀ r n, Ends anyTag z (t.assemble k r n) := fun r n => grantFramesN_ends (modTag_any hk k _) 64 _
    exact Ends.ite hk (Ends.ite (rebuildFails_ends hk k) (Ends.ite (hassembled _ _) (solveEnd_ends (hassembled _ _) k)))
  · exact hk

theorem memberLost_ends (id k i : Nat) (o : MemberOutcome) : Ends anyTag z (t.memberLost id k i o) := by
  unfold State.memberLost
  refine rebuildCheck_ends (modTag_any (Ends.others ?_ (modWork_same (Same.refl _ _) rfl id _)) k _) k
  split
  · exact modChan_ends hk _ _ fun _ h => h
  · exact hk

theorem exhaust_ends (k n info : Nat) : Ends anyTag z (t.exhaust k n info) := by
  have hraised : Ends anyTag z (t.raise 845) := raise_ends hk 845
  unfold State.exhaust
  dsimp only
  refine Ends.ite hk ?_
  split
  · exact programLost_ends hraised ..
  · refine Ends.ite ?_ (stopTag_ends hraised ..)
    split
    · exact programFails_ends (endTagWorks_ends hraised k) ..
    · exact endTag_ends hraised k

theorem recTo_ends (n : Nat) (r : RecStep) (marked : Nat) : Ends anyTag z (t.recTo n r marked) := by
  unfold State.recTo
  refine Ends.ite hk (traceRec_ends (modChan_ends hk n _ ?_) ..)
  exact fun _ h => h

theorem faultTag_ends (k n kind : Nat) : Ends anyTag z (t.faultTag k n kind) := by
  unfold State.faultTag
  split
  · exact hk
  · extract_lets x u v
    have hu : Ends anyTag z u := modTag_any hk k _
    have hv : Ends anyTag z v := tagTo_over (modTag_any hu k _) k .replaying (anyTag_over k)
    exact Ends.ite (exhaust_ends hu ..) (Ends.ite (Ends.ite (tooLate_ends hv k) hv) (abortIfPending_ends hv k))

theorem faultReads_ends (n kind : Nat) : Ends anyTag z (t.faultReads n kind) := by
  unfold State.faultReads
  refine Ends.foldl (fun u id hu => ?_) hk _
  split
  · exact hu
  · split
    · exact memberLost_ends hu ..
    · exact stopTag_ends (raise_ends (closeRead_ends hu id) 845) ..
    · exact closeRead_ends hu id
    · exact closeRead_ends hu id
    · exact hu

theorem mcInvalid_ends (cause index : Nat) : Ends anyTag z (t.mcInvalid cause index) := by
  have hmaster : Ends anyTag z { t with ph := { t.ph with master := 4 } } := hk.apart rfl rfl rfl rfl
  have hoff : ∀ o, o < 0x1000000 → ¬ faultLog o := fun o ho h => absurd h.1 (by omega)
  exact raise_ends (setReg_ends (setFld_ends (setFld_ends hmaster _ 7 4 cause (hoff _ (by decide))) _ 15 8 _
    (hoff _ (by decide))) _ _ (hoff _ (by decide))) 825

theorem refresh_ends (n : Nat) : Ends anyTag z (t.refresh n) := by
  have hcount : ¬ faultLog (chanPage n + 0x808) := by unfold faultLog chanPage; omega
  have hwho : ¬ faultLog 0x410004 := fun h => absurd h.1 (by decide)
  unfold State.refresh
  extract_lets c r s1 s2
  have hr : Ends anyTag z r.2 := useEntry_ends hk 6 0 40960 (by decide)
  have h1 : Ends anyTag z s1 := modChan_ends hr n _ fun _ h => h
  have h2 : Ends anyTag z s2 := recTo_ends h1 ..
  refine Ends.ite hk (Ends.ite (Ends.ite hk (raise_ends (recTo_ends hk ..) 828)) (Ends.ite ?_ ?_))
  · refine raise_ends (recTo_ends (mcInvalid_ends (modChan_ends hr n _ ?_) 10 0) ..) 828
    exact fun _ h => h
  · exact raise_ends (setFld_ends (addFld_ends h2 _ 31 16 1 hcount) _ 31 24 n hwho) 827

theorem dropResets_ends (n : Nat) : Ends anyTag z (t.dropResets n) :=
  hk.quiet (dropResets_quiet t n) (dropResets_same (Same.refl _ t) rfl n)

theorem enterReset_ends {n : Nat} (hn : n < 256) : Ends anyTag z (t.enterReset n) := by
  have htest : Ends anyTag z (t.testReset n) := hk.others (testReset_same (Same.refl _ t) rfl n)
  have hstaging : Ends anyTag z ((t.testReset n).stagingAbandon n) :=
    htest.quiet (stagingAbandon_quiet _ hn) (stagingAbandon_same (Same.refl _ _) rfl n)
  have hoff : ∀ o, o = 4 ∨ o = 0x804 ∨ o = 0xAC → ¬ faultLog (chanPage n + o) := fun o ho => by
    unfold faultLog chanPage
    omega
  have hpage : Ends anyTag z (((t.testReset n).stagingAbandon n).resetChanPage n) :=
    setFld_ends (setBit_ends (setBit_ends hstaging _ 31 false (hoff _ (by decide))) _ 31 false (hoff _ (by decide))) _ 15 0 0
      (hoff _ (by decide))
  unfold State.enterReset
  refine Ends.foldl (fun u l hu => hu.others (modLun_same (Same.refl _ u) rfl _ _)) (modChan_ends hpage n _ ?_) _
  exact fun _ _ => rfl

end

/-! The fault itself. -/

theorem enterReset_inReset (s : State) {n : Nat} (hn : n < 256) : ((s.enterReset n).chan n).inReset = true :=
  congrArg Chan.inReset (enterReset_chan hn s)

/-- The microcode fault log of a channel, as a microcode fault is recorded in it (R455). -/
def State.faultLogged (s : State) (n kind addr : Nat) : State :=
  let s := (s.addFld (replayAt n) 31 16 1).setFld (replayAt n) 14 12 kind
  ((s.addFld (chanPage n + 0x80C) 31 16 1).setFld (chanPage n + 0x80C) 15 14 kind).setFld (chanPage n + 0x80C) 10 0 addr

theorem fault_ends (s : State) {n kind : Nat} (hn : n < 256) (hkind : kind = 1 ∨ kind = 2) (addr : Nat) :
    Ends anyTag (s.faultLogged n kind addr) (s.fault n kind addr) ∧ ((s.fault n kind addr).chan n).inReset = true := by
  unfold State.fault
  extract_lets p s1 s2 s3 copy again s4 s5 marked s6 s7 s8 s9 s10
  have h2 : s2 = s.faultLogged n kind addr := if_pos hkind
  have hlog : Ends anyTag (s.faultLogged n kind addr) s2 := h2 ▸ Ends.refl _ _
  have h3 : Ends anyTag (s.faultLogged n kind addr) s3 := dropResets_ends (abandonSurvey_ends hlog n) n
  have h4 : Ends anyTag (s.faultLogged n kind addr) s4 := modChan_ends h3 n _ fun c h => (congrArg Chan.inReset (truncateMsg_still c)).trans h
  have h5 : Ends anyTag (s4.enterReset n) s5 := modChan_ends (Ends.refl _ _) n _ fun _ h => h
  have h6 : Ends anyTag (s4.enterReset n) s6 :=
    Ends.foldl (fun u k hu => faultTag_ends hu k n kind) (recTo_ends (recTo_ends h5 ..) ..) _
  have h7 : Ends anyTag (s4.enterReset n) s7 := by
    unfold s7
    generalize again = why
    cases why with
    | some k => exact Ends.ite (h6.others (addWork_same (Same.refl _ _) rfl _)) h6
    | none => exact h6
  have h9 : Ends anyTag (s4.enterReset n) s9 :=
    Ends.foldl (fun u l hu => hu.others (lunAtFault_same (Same.refl _ u) rfl _ _))
      (h7.others (worksAtFault_same (Same.refl _ _) rfl n)) _
  have h10 : Ends anyTag (s4.enterReset n) s10 := raise_ends (faultReads_ends h9 n kind) 843
  have hreset : Ends anyTag (s4.enterReset n) (if (kind == 1 || kind == 2) && !copy then s10.refresh n else s10) :=
    Ends.ite (refresh_ends h10 n) h10
  exact ⟨(enterReset_ends h4 hn).trans hreset, hreset.reset n (enterReset_inReset s4 hn)⟩

end Sys2Proof.Machine
end

section
/-! SUPPORT. The messages of the sequencer (R64, R65, R147, R170, R172, R173, R178, R216). -/

namespace Sys2Proof.Machine
open Sys2Proof

theorem lunOk_zero {s : State} {n : Nat} (hn : n < s.nch) (hs : s.hostOn = true) : s.lunOk n 0 = true := by
  simp [State.lunOk, hn, hs]

section
variable {s : State} {n : Nat} (hn : n < s.nch) (hs : s.hostOn = true)
include hn hs

theorem exec_confirm (id : Nat) : exec (.confirm n id) s =
    .next (if s.badMessage n id 3 then s.badMessageFault n else s.confirmWork n id) := by
  show execConfirm n id s = _
  rw [execConfirm, if_pos (lunOk_zero hn hs)]

theorem exec_result (id : Nat) (word : Word) : exec (.result n id word) s =
    .next (if s.badMessage n id 4 then s.badMessageFault n else s.resultMsg n id word) := by
  show execResult n id word s = _
  rw [execResult, if_pos (lunOk_zero hn hs)]

theorem exec_fail (id : Nat) (status : Byte) : exec (.fail n id status) s = .next (s.failMsg n id status) := by
  show execFail n id status s = _
  rw [execFail, if_pos (lunOk_zero hn hs)]

theorem exec_push {c : Instr} {entry : BitVec 6} {word : Word} {isEnd : Bool}
    (hc : (c = .push n entry word ∧ isEnd = false) ∨ (c = .pushEnd n entry word ∧ isEnd = true)) :
    exec c s = .next (s.pushMsg n entry word isEnd) := by
  rcases hc with ⟨rfl, rfl⟩ | ⟨rfl, rfl⟩
  · show execPush n entry word s = _
    rw [execPush, if_pos (lunOk_zero hn hs)]
  · show execPushEnd n entry word s = _
    rw [execPushEnd, if_pos (lunOk_zero hn hs)]

theorem exec_paused_bad {id col : Nat} (hbad : s.badMessage n id 6 = true) :
    exec (.paused n id col) s = .next (s.badMessageFault n) := by
  show execPaused n id col s = _
  rw [execPaused, if_pos (lunOk_zero hn hs), if_pos hbad]

theorem exec_paused_routine {id col k : Nat} {w : Work} (hw : s.work id = some w) (hemits : s.emits n id = true)
    (hgood : s.badMessage n id 6 = false) (hkind : w.kind = .routine) (htag : w.tag = some k) :
    exec (.paused n id col) s =
      .next (((s.traceMsg n 6 (s.chan n).bus.entry 0).routinePauses n id k w).abortIfPending k).2 := by
  show execPaused n id col s = _
  rw [execPaused, if_pos (lunOk_zero hn hs), if_neg (ne_true_of_eq_false hgood), hw]
  dsimp only
  rw [hkind, htag]
  dsimp only
  rw [if_pos hemits]

theorem exec_paused_program {id col : Nat} {w : Work} (hw : s.work id = some w) (hgood : s.badMessage n id 6 = false)
    (hkind : w.kind = .program) : exec (.paused n id col) s = .next (s.pausedMsg n id col) := by
  show execPaused n id col s = _
  rw [execPaused, if_pos (lunOk_zero hn hs), if_neg (ne_true_of_eq_false hgood), hw]
  dsimp only
  rw [hkind]

/-! A message that a job may not emit (R173, R178, R179). -/

omit hs in
theorem badMessage_faults : ((s.badMessageFault n).chan n).inReset = true ∧
    (s.badMessageFault n).fld (chanPage n + 0x80C) 15 14 = 1 ∧
    (s.badMessageFault n).fld (chanPage n + 0x80C) 10 0 = (s.chan n).bus.pc % 2 ^ 11 := by
  have hlt : n < 256 := Nat.lt_of_lt_of_le hn (channels_le s.build)
  obtain ⟨hends, hreset⟩ := fault_ends s hlt (.inl rfl) (s.chan n).bus.pc
  have hreg := hends.reg (chanPage n + 0x80C) (by unfold faultLog chanPage; omega)
  refine ⟨hreset, (fld_of_reg hreg 15 14).trans ?_, (fld_of_reg hreg 10 0).trans ?_⟩
  · unfold State.faultLogged
    rw [setFld_fld_other _ _ _ _ _ _ _ _ (by decide) (by decide) (by decide) (.inr (.inr (by decide))),
      setFld_fld _ _ _ _ _ (by decide) (by decide)]
    rfl
  · unfold State.faultLogged
    rw [setFld_fld _ _ _ _ _ (by decide) (by decide)]

end

/-! The message FIFO (R170, R216). -/

section
variable {c : Chan} {entry : BitVec 6} {word : Word} {isEnd : Bool} (hdrop : c.msgDrop = false)
include hdrop

theorem pushMsg_empty (h : c.msgs = []) : c.pushMsg entry word isEnd = { c with
    msgs := [{ data := word.setWidth 128, count := 1, entry := entry, first := !c.msgOpen, last := isEnd, truncated := false }]
    msgOpen := !isEnd } := by
  unfold Chan.pushMsg
  rw [if_neg (ne_true_of_eq_false hdrop), h]
  rfl

theorem pushMsg_joins {l : List MsgWord} {m : MsgWord} (h : c.msgs = l ++ [m]) (hlast : m.last = false)
    (hcount : m.count < 4) : c.pushMsg entry word isEnd = { c with
      msgs := l ++ [{ m with
        data := m.data ||| (word.setWidth 128 <<< (32 * m.count)), count := m.count + 1, last := isEnd }]
      msgOpen := !isEnd } := by
  unfold Chan.pushMsg
  rw [if_neg (ne_true_of_eq_false hdrop), h]
  dsimp only
  rw [List.getLast?_append_of_ne_nil _ (List.cons_ne_nil m []), List.dropLast_concat]
  dsimp only [List.getLast?_singleton]
  rw [if_neg]
  simp [hlast, hcount]

omit hdrop in
theorem msgFull_empty (h : c.msgs = []) : c.msgFull = false := by
  unfold Chan.msgFull
  rw [h]
  simp

omit hdrop in
theorem msgFull_joins {l : List MsgWord} {m : MsgWord} (h : c.msgs = l ++ [m]) (hlast : m.last = false)
    (hcount : m.count < 4) : c.msgFull = false := by
  unfold Chan.msgFull
  rw [h]
  simp [hlast, hcount]

end

section
variable {s : State} {n : Nat} {entry : BitVec 6} {word : Word} {isEnd : Bool}

theorem pushMsg_stalls (hfull : (s.chan n).msgFull = true) : s.pushMsg n entry word isEnd = s := by
  unfold State.pushMsg
  rw [if_pos (by simp [hfull])]

theorem pushMsg_enters (hreset : (s.chan n).inReset = false) (hstore : (s.chan n).store = .loaded)
    (hfull : (s.chan n).msgFull = false) :
    (s.pushMsg n entry word isEnd).chan n = (s.chan n).pushMsg entry word isEnd ∧
      ∀ j, j ≠ n → (s.pushMsg n entry word isEnd).chan j = s.chan j := by
  have hchan : ∀ j, (s.traceMsg n (if isEnd then 2 else 1) entry.toNat word).chan j = s.chan j := fun j => by
    unfold State.chan
    rw [(traceMsg_same (m := 0x8000000010) (Same.refl _ s) rfl n _ _ word).chans rfl]
  unfold State.pushMsg
  rw [if_neg (by simp [hreset, hstore, hfull])]
  exact ⟨by rw [modChan_get, if_pos rfl, hchan], fun j hj => by rw [modChan_get, if_neg (Ne.symm hj), hchan]⟩

end

/-! RESULT and FAIL (R64, R80, R172). -/

section
variable {s : State} {n id k : Nat} {w : Work} (hw : s.work id = some w) (htag : w.tag = some k)
include hw htag

theorem resultMsg_routine (hemits : s.emits n id = true) (hkind : w.kind = .routine) (word : Word) :
    s.resultMsg n id word = (s.traceMsg n 4 (s.chan n).bus.entry word).modTag k (fun x => { x with result := word }) := by
  unfold State.resultMsg
  rw [hw]
  dsimp only
  rw [if_neg (by simp [hemits, hkind]), htag]

/-- The entry that a FAIL names: that of the running job, or that of the operation that has been confirmed. -/
def State.failEntry (s : State) (n id : Nat) (w : Work) : Nat :=
  if s.emits n id then (s.chan n).bus.entry else match w.kind with | .erase => 14 | .program => 12 | _ => 32

variable (hch : w.ch = n) (hruns : s.emits n id = true ∨ w.st = .confirmed) (status : Byte)
include hch hruns

theorem failMsg_routine (hkind : w.kind = .routine) : s.failMsg n id status =
    (s.traceMsg n 5 (s.failEntry n id w) 0).modChan n (fun c => { c with
      bus := { c.bus with failed := some status.toNat, status := status.toNat } }) := by
  unfold State.failMsg
  rw [hw]
  dsimp only
  rw [if_neg (by rcases hruns with h | h <;> simp [hch, h])]
  unfold State.failEntry
  rw [hkind, htag]

theorem failMsg_program (hkind : w.kind = .program) :
    s.failMsg n id status = (s.traceMsg n 5 (s.failEntry n id w) 0).dieEnd id true status := by
  unfold State.failMsg
  rw [hw]
  dsimp only
  rw [if_neg (by rcases hruns with h | h <;> simp [hch, h])]
  unfold State.failEntry
  rw [hkind, htag]

end

/-- A PROGRAM_PAGE that has not committed fails at the die with its frame held (R80, R94). -/
theorem dieEnd_lost {s : State} {id k f : Nat} {w : Work} (hw : s.work id = some w) (hkind : w.kind = .program)
    (hrole : w.role = .own) (htag : w.tag = some k) (hframe : w.frame = some f) (hlive : liveTag s k)
    (hop : (s.tag k).opcode = some .programPage) (status : Byte) :
    dueFor (s.dieEnd id true status) (s.tag k).sqid k .lunStatusFail (BitVec.ofNat 32 (f + status.toNat * 2 ^ 16)) := by
  have hinflight : (s.tag k).opcode ≠ some .releaseFrame := by rw [hop]; decide
  have hends : Ends (fun _ => False) s ((s.endTagWorks k).holdF f) := holdF_ends (endTagWorks_ends (Ends.refl _ s) k) f
  obtain ⟨hlive', hsqid⟩ := hends.liveTag not_false hinflight hlive
  obtain ⟨⟨-, hopen, hruns, -⟩, -⟩ := (endTagWorks_ends (Ends.refl (fun _ => False) s) k).liveTag not_false hinflight hlive
  obtain ⟨-, -, hnotRun, -, hue, -⟩ := hlive
  have heq : s.dieEnd id true status = (((s.endTagWorks k).holdF f).commitTag k .lunStatusFail
      (BitVec.ofNat 32 (f + status.toNat * 2 ^ 16))).endTag k := by
    unfold State.dieEnd
    rw [hw]
    dsimp only
    rw [if_pos hkind, if_pos rfl]
    unfold State.programLost
    rw [hw]
    dsimp only
    rw [htag, hframe]
    dsimp only
    rw [hop, hrole]
    unfold Tag.statusOf
    rw [hue, hnotRun]
    unfold State.programFails
    dsimp only
    rw [hruns, hopen]
    rfl
  rw [heq, ← hsqid]
  exact (endTag_ends (Ends.refl anyTag _) k).dueFor (commitTag_due hlive' .lunStatusFail _)

/-! PAUSED (R147, R178). -/

/-- A tag that neither an ABORT nor a reset stops goes on. -/
theorem abortIfPending_not {s : State} {k : Nat} (hpending : (s.tag k).abortPending = false)
    (hdropped : (s.tag k).dropped = false) : (s.abortIfPending k).2 = s := by
  unfold State.abortIfPending
  dsimp only
  rw [if_neg (ne_true_of_eq_false hdropped), if_neg (by simp [hpending])]

theorem abortIfPending_stops {s : State} {k : Nat} (hpending : (s.tag k).abortPending = true)
    (hdropped : (s.tag k).dropped = false) (hopen : (s.tag k).committed = false)
    (hop : (s.tag k).opcode = some .programPage) : (s.abortIfPending k).2 = s.abortNow k := by
  unfold State.abortIfPending
  dsimp only
  rw [if_neg (ne_true_of_eq_false hdropped), if_pos (by simp [hpending, hopen, hop])]

/-- The data-in of a program as it pauses. -/
def State.dataInPaused (s : State) (n id : Nat) : State :=
  (((s.modChan n (fun c => { c with egress := [], egressWork := none })).modWork id (fun w => { w with st := .paused })).traceMsg
    n 6 (s.chan n).bus.entry 0).busEnds n

section
variable {s : State} {n id : Nat} {w : Work} (hdata : s.dataInRuns n = some (id, w))
include hdata

theorem dataInRuns_work : s.work id = some w ∧ w.kind = .program ∧ s.emits n id = true ∧
    ((s.chan n).bus.entry = 12 ∨ (s.chan n).bus.entry = 13) := by
  unfold State.dataInRuns at hdata
  dsimp only at hdata
  split at hdata
  · next j hruns hbus =>
    split at hdata
    · next v hv =>
      split at hdata
      · next hkind =>
        obtain ⟨rfl, rfl⟩ := Prod.mk.inj (Option.some.inj hdata)
        simp only [Bool.and_eq_true, Bool.or_eq_true, beq_iff_eq] at hruns
        refine ⟨hv, hkind.1, ?_, hruns.2⟩
        unfold State.emits
        simp [hruns.1, hbus]
      · cases hdata
    · cases hdata
  · cases hdata

theorem dataIn_mayPause : s.badMessage n id 6 = false := by
  obtain ⟨-, -, -, hentry⟩ := dataInRuns_work hdata
  unfold State.badMessage
  rcases hentry with h | h <;> simp [h]

theorem pausedMsg_dataIn {k : Nat} (hboundary : w.boundary w.resumeCol = true) (hpause : s.quarterPause n = true)
    (hrole : w.role = .own) (htag : w.tag = some k) :
    s.pausedMsg n id w.resumeCol = ((s.dataInPaused n id).abortIfPending k).2 := by
  obtain ⟨hw, hkind, hemits, -⟩ := dataInRuns_work hdata
  unfold State.pausedMsg
  rw [hw]
  dsimp only
  rw [if_neg (by simp [hemits]), hkind]
  dsimp only
  rw [if_neg (by simp [hdata, hboundary, hpause]), hrole, htag]
  rfl

end

theorem dataInPaused_same {m : Nat} {z t : State} (hk : Same m z t) (h : 0x8000005010 ||| m = m) (n id : Nat) :
    Same m z (t.dataInPaused n id) :=
  busEnds_same (traceMsg_same (modWork_same (modChan_same hk (up h rfl) n _) (up h rfl) id _) (up h rfl) n 6 _ 0) (up h rfl) n

theorem Same.tag {m : Nat} {s t : State} (h : Same m s t) (hb : m.testBit 10 = false) (k : Nat) : t.tag k = s.tag k := by
  unfold State.tag
  rw [h.tags hb]

theorem Same.work {m : Nat} {s t : State} (h : Same m s t) (hb : m.testBit 12 = false) (k : Nat) : t.work k = s.work k := by
  unfold State.work
  rw [h.works hb]

theorem Same.lun {m : Nat} {s t : State} (h : Same m s t) (hb : m.testBit 13 = false) (k : Nat) : t.lun k = s.lun k := by
  unfold State.lun
  rw [h.luns hb]

theorem Same.chan {m : Nat} {s t : State} (h : Same m s t) (hb : m.testBit 14 = false) (k : Nat) : t.chan k = s.chan k := by
  unfold State.chan
  rw [h.chans hb]

theorem dataInPaused_work (s : State) (n id j : Nat) :
    (s.dataInPaused n id).work j = if id = j then (s.work j).map (fun w => { w with st := .paused }) else s.work j := by
  unfold State.dataInPaused
  generalize hv : s.modChan n _ = v
  have hkept : Same 0x4000 s v := hv ▸ modChan_same (Same.refl _ s) rfl n _
  have hrest : ∀ u : State, Same 0x8000004010 u ((u.traceMsg n 6 (s.chan n).bus.entry 0).busEnds n) := fun u =>
    busEnds_same (traceMsg_same (Same.refl _ u) rfl n 6 _ 0) rfl n
  rw [(hrest _).work rfl, modWork_work, hkept.work rfl]

theorem busEnds_runs (s : State) (n : Nat) : ((s.busEnds n).chan n).bus.running = false := by
  unfold State.busEnds
  rw [modChan_get, if_pos rfl]

/-- What a routine captured is stored; its counters stand. -/
theorem storeCapture_counters (s : State) (n id k : Nat) (w : Work) :
    ((s.storeCapture n id k w).chan n).bus.a = (s.chan n).bus.a ∧ ((s.storeCapture n id k w).chan n).bus.b = (s.chan n).bus.b := by
  unfold State.storeCapture
  dsimp only
  split <;> rw [modChan_get, if_pos rfl] <;> exact ⟨rfl, rfl⟩

theorem storeCapture_work (s : State) (n k : Nat) {id : Nat} {w : Work} (hw : s.work id = some w) (x : Work) :
    ∃ v, (s.storeCapture n id k x).work id = some v := by
  unfold State.storeCapture
  dsimp only
  split
  · next f _ _ =>
    have hframe : ∀ l, (s.frameWrite f x.column l false).work id = s.work id := fun l =>
      (frameWrite_same (m := 0x39080030010) (Same.refl _ s) rfl f _ l false).work rfl id
    refine ⟨{ w with column := w.column + ((s.chan n).bus.closed.flatten ++ (s.chan n).bus.captured).length }, ?_⟩
    rw [(modChan_same (m := 0x4000) (Same.refl _ _) rfl n _).work rfl, modWork_work, if_pos rfl, hframe, hw]
    rfl
  · exact ⟨w, ((modChan_same (m := 0x4000) (Same.refl _ s) rfl n _).work rfl id).trans hw⟩

theorem routinePauses_keeps {s : State} {n id k : Nat} {w : Work} (hw : s.work id = some w) :
    (∃ v, (s.routinePauses n id k w).work id = some v ∧ v.st = .paused ∧
      v.resumeCol = (s.chan n).bus.a + (s.chan n).bus.b * 2 ^ 16) ∧
    ((s.routinePauses n id k w).chan n).bus.running = false := by
  obtain ⟨v, hv⟩ := storeCapture_work s n k hw w
  obtain ⟨ha, hb⟩ := storeCapture_counters s n id k w
  have hkeeps : ∀ u : State, Same 0x4000 u ((u.modChan n (fun c => { c with egress := [], egressWork := none })).busEnds n) :=
    fun u => busEnds_same (modChan_same (Same.refl _ u) rfl n _) rfl n
  have hpaused : (s.routinePauses n id k w).work id = some { v with
      st := .paused
      resumeCol := ((s.storeCapture n id k w).chan n).bus.a + ((s.storeCapture n id k w).chan n).bus.b * 2 ^ 16
      infos := [((s.storeCapture n id k w).chan n).bus.egress]
      failed := ((s.storeCapture n id k w).chan n).bus.failed.toList } := by
    unfold State.routinePauses
    dsimp only
    rw [(hkeeps _).work rfl, modWork_work, if_pos rfl, hv]
    rfl
  exact ⟨⟨_, hpaused, rfl, by rw [ha, hb]⟩, busEnds_runs _ n⟩

/-! CONFIRM (R65, R172). -/

/-- The slot of an ABORT commits; it holds no tag. -/
theorem commitSlot_keeps {m : Nat} {z t : State} (hk : Same m z t) (h : 0x8000000890 ||| m = m) (k : Nat) (st : Status)
    (info : Nat) : Same m z (t.commitSlot k st info) := by
  have hset : Same m z (t.setSlot k { t.slot k with done := true }) := setSlot_same hk (up h rfl) k _
  unfold State.commitSlot
  refine Same.ite hk ?_
  unfold State.pushDone
  refine Same.ite ?_ (modQueue_same hset (up h rfl) _ _)
  exact freeSlot_same (traceCompletion_same hset (up h rfl) _ _) (up h rfl) k

/-- Tag `k` is CONFIRMED, and an ABORT of it is no longer pending. -/
def State.confirmedTag (s : State) (k : Nat) : State :=
  ((s.modTag k (fun x => { x with phase := none })).tagTo k .confirmed).modTag k (fun x => { x with
    abortPending := false, abortSlot := none, runOn := x.runOn || x.dropped, dropped := false })

theorem confirmedTag_same {m : Nat} {z t : State} (hk : Same m z t) (h : 0x8000000410 ||| m = m) (k : Nat) :
    Same m z (t.confirmedTag k) :=
  modTag_same (tagTo_same (modTag_same hk (up h rfl) k _) (up h rfl) k .confirmed) (up h rfl) k _

section
variable {s : State} {k : Nat} (hst : (s.tag k).st = .issued)
include hst

theorem tagTo_confirmed : ∀ j, ((s.modTag k (fun x => { x with phase := none })).tagTo k .confirmed).tag j =
    if k = j then { s.tag k with phase := none, st := .confirmed } else s.tag j := by
  intro j
  unfold State.tagTo
  dsimp only
  rw [modTag_get, if_pos rfl, if_neg (by dsimp only; rw [hst]; decide), (traceRec_same (m := 0x8000000010) (Same.refl _ _) rfl
    _ _ _ _ _ _).tag rfl, setTag_get]
  split
  · rfl
  · next hne => rw [modTag_get, if_neg hne]

theorem confirmedTag_tag : ((s.confirmedTag k).tag k).st = .confirmed ∧ ((s.confirmedTag k).tag k).abortPending = false ∧
    ∀ j, j ≠ k → (s.confirmedTag k).tag j = s.tag j := by
  unfold State.confirmedTag
  refine ⟨?_, ?_, fun j hj => ?_⟩
  · rw [modTag_get, if_pos rfl, tagTo_confirmed hst, if_pos rfl]
  · rw [modTag_get, if_pos rfl]
  · rw [modTag_get, if_neg (Ne.symm hj), tagTo_confirmed hst, if_neg (Ne.symm hj)]

/-- The tag of a job is CONFIRMED, and an ABORT that waits on it is too late. -/
theorem confirmTag_issued : s.confirmTag k =
    match (s.tag k).abortSlot with
    | some m => (s.confirmedTag k).commitSlot m .tooLate k
    | none => s.confirmedTag k := by
  have hslot := congrArg Tag.abortSlot (tagTo_confirmed hst k)
  rw [if_pos rfl] at hslot
  unfold State.confirmTag
  dsimp only
  rw [if_pos (by simp [hst])]
  unfold State.tooLate
  dsimp only
  rw [hslot]
  rfl

theorem confirmTag_keeps {m : Nat} {z : State} (hk : Same m z s) (h : 0x8000000C90 ||| m = m) :
    Same m z (s.confirmTag k) := by
  have hconfirmed : Same m z (s.confirmedTag k) := confirmedTag_same hk (up h rfl) k
  rw [confirmTag_issued hst]
  split
  · exact commitSlot_keeps hconfirmed (up h rfl) _ _ _
  · exact hconfirmed

theorem confirmTag_tag : ((s.confirmTag k).tag k).st = .confirmed ∧ ((s.confirmTag k).tag k).abortPending = false ∧
    ∀ j, j ≠ k → (s.confirmTag k).tag j = s.tag j := by
  have htag : ∀ j, (s.confirmTag k).tag j = (s.confirmedTag k).tag j := fun j => by
    rw [confirmTag_issued hst]
    split
    · exact (commitSlot_keeps (m := 0x8000000890) (Same.refl _ _) rfl _ _ _).tag rfl j
    · rfl
  simp only [htag]
  exact confirmedTag_tag hst

/-- The ABORT that waits on the tag is told that it is too late (R65). -/
theorem confirmTag_tooLate {m : Nat} {x : Slot} (hslot : (s.tag k).abortSlot = some m) (hx : SMap.get s.slots m = some x)
    (hdone : x.done = false) (hd : (s.queue x.sqid).discard = false) :
    dueTagless (s.confirmTag k) x.sqid x.cid .tooLate (BitVec.ofNat 32 k) := by
  have hsame : Same 0x8000000410 s (s.confirmedTag k) := confirmedTag_same (Same.refl _ s) rfl k
  rw [confirmTag_issued hst, hslot]
  exact (commitSlot_due ((congrArg (SMap.get · m) (hsame.slots rfl)).trans hx) hdone
    ((congrArg Queue.discard (hsame.queue rfl _)).trans hd) .tooLate k).1

end

/-- The job of channel `n` reports its confirm. -/
def State.confirmTraced (s : State) (n : Nat) : State :=
  (s.traceMsg n 3 (s.chan n).bus.entry 0).modChan n (fun c => { c with bus := { c.bus with confirmed := true } })

theorem confirmTraced_same {m : Nat} {z t : State} (hk : Same m z t) (h : 0x8000004010 ||| m = m) (n : Nat) :
    Same m z (t.confirmTraced n) :=
  modChan_same (traceMsg_same hk (up h rfl) n 3 _ 0) (up h rfl) n _

theorem confirmTraced_bus (s : State) (n : Nat) :
    ((s.confirmTraced n).chan n).bus = { (s.chan n).bus with confirmed := true } := by
  unfold State.confirmTraced
  rw [modChan_get, if_pos rfl, (traceMsg_same (m := 0x8000000010) (Same.refl _ s) rfl n 3 _ 0).chan rfl]

/-- A channel whose bus job ends with the confirm of work `id`. -/
def Chan.jobEnded (c : Chan) (id : Nat) : Chan :=
  let c := { c with bus := { c.bus with running := false, pins := Pins.idle } }
  if c.egressWork = some id then { c with egress := [], egressWork := none } else c

theorem jobEnded_runs (c : Chan) (id : Nat) : (c.jobEnded id).bus.running = false := by
  unfold Chan.jobEnded
  dsimp only
  split <;> rfl

/-- The operation of a program or an erase runs at the die, and its bus job ends. -/
def State.jobConfirmed (s : State) (n id : Nat) (w : Work) : State :=
  let s := ((s.opFrom n w.lun).modWork id (fun w => { w with st := .confirmed })).modChan n (fun c => c.jobEnded id)
  if w.kind = .erase then (s.count n 26 1).ledgerErase w.addr
  else if w.kind = .program then s.count n 25 1 else s

section
variable {s : State} {n id k : Nat} {w : Work} (hw : s.work id = some w) (hemits : s.emits n id = true)
  (hgood : s.badMessage n id 3 = false) (htag : w.tag = some k)
include hw hemits hgood htag

theorem confirmWork_routine (hkind : w.kind = .routine) :
    s.confirmWork n id = ((s.confirmTraced n).routineOp n id w.lun).confirmTag k := by
  unfold State.confirmWork
  rw [hw]
  dsimp only
  rw [if_neg (by simp [hemits, hgood, hkind]), if_pos hkind, htag]
  rfl

theorem confirmWork_job (hkind : w.kind ≠ .routine) (hsent : w.sent = true) (hst : w.st = .running) :
    s.confirmWork n id = ((s.confirmTraced n).jobConfirmed n id w).confirmTag k := by
  unfold State.confirmWork
  rw [hw]
  dsimp only
  rw [if_neg (by simp [hemits, hgood, hsent, hst]), if_neg hkind, htag]
  rfl

end

theorem jobConfirmed_same {m : Nat} {z t : State} (hk : Same m z t) (h : 0x38000807010 ||| m = m) (n id : Nat) (w : Work) :
    Same m z (t.jobConfirmed n id w) := by
  unfold State.jobConfirmed
  extract_lets u
  have hu : Same m z u :=
    modChan_same (modWork_same (opFrom_same hk (up h rfl) n w.lun) (up h rfl) id _) (up h rfl) n _
  exact Same.ite (ledgerErase_same (count_same hu (up h rfl) n 26 1) (up h rfl) w.addr)
    (Same.ite (count_same hu (up h rfl) n 25 1) hu)

theorem jobConfirmed_keeps (s : State) (n id : Nat) (w : Work) :
    (∀ j, (s.jobConfirmed n id w).work j = if id = j then (s.work j).map (fun w => { w with st := .confirmed }) else s.work j) ∧
    (∀ j, (s.jobConfirmed n id w).lun j = if lunKey n w.lun = j then
      { s.lun j with op := (s.lun j).op.map (fun o => { o with ranFrom := s.now }) } else s.lun j) ∧
    ((s.jobConfirmed n id w).chan n).bus.running = false := by
  unfold State.jobConfirmed
  extract_lets u
  have hrest : Same 0x38000800010 u (if w.kind = .erase then (u.count n 26 1).ledgerErase w.addr
      else if w.kind = .program then u.count n 25 1 else u) :=
    Same.ite (ledgerErase_same (count_same (Same.refl _ u) rfl n 26 1) rfl w.addr)
      (Same.ite (count_same (Same.refl _ u) rfl n 25 1) (Same.refl _ u))
  have hchan : Same 0x4000 ((s.opFrom n w.lun).modWork id (fun w => { w with st := .confirmed })) u :=
    modChan_same (Same.refl _ _) rfl n _
  have hlun : Same 0x1000 (s.opFrom n w.lun) ((s.opFrom n w.lun).modWork id (fun w => { w with st := .confirmed })) :=
    modWork_same (Same.refl _ _) rfl id _
  refine ⟨fun j => ?_, fun j => ?_, ?_⟩
  · rw [hrest.work rfl, hchan.work rfl, modWork_work, (opFrom_same (m := 0x2000) (Same.refl _ s) rfl n w.lun).work rfl]
  · rw [hrest.lun rfl, hchan.lun rfl, hlun.lun rfl]
    exact modLun_get s _ j _
  · rw [hrest.chan rfl]
    unfold u
    rw [modChan_get, if_pos rfl, jobEnded_runs]

theorem routineOp_keeps (s : State) (n id l : Nat) :
    (∀ j, (s.routineOp n id l).work j = if id = j then (s.work j).map (fun w => { w with sent := true }) else s.work j) ∧
    (∀ j, (s.routineOp n id l).lun j = if lunKey n l = j then
      (if (s.lun j).op.isSome then s.lun j
       else { s.lun j with op := some { ArrayOp.start .routine [id] with ranFrom := s.now } }) else s.lun j) := by
  have hwork : Same 0x1000 s (s.modWork id (fun w => { w with sent := true })) := modWork_same (Same.refl _ s) rfl id _
  unfold State.routineOp
  refine ⟨fun j => ?_, fun j => ?_⟩
  · rw [(modLun_same (m := 0x2000) (Same.refl _ _) rfl _ _).work rfl, modWork_work]
  · rw [modLun_get, hwork.lun rfl]

section
variable {s : State} {n id k : Nat} {w : Work} (hn : n < s.nch) (hs : s.hostOn = true) (hw : s.work id = some w)
  (hemits : s.emits n id = true) (hgood : s.badMessage n id 3 = false) (htag : w.tag = some k)
  (hst : (s.tag k).st = .issued)
include hn hs hw hemits hgood htag hst

/-- The CONFIRM of a bus job that ends with it. -/
theorem confirm_job (hkind : w.kind ≠ .routine) (hsent : w.sent = true) (hruns : w.st = .running) :
    ∃ t, exec (.confirm n id) s = .next t ∧ t.work id = some { w with st := .confirmed } ∧
      (t.tag k).st = .confirmed ∧ (t.tag k).abortPending = false ∧ (∀ j, j ≠ id → t.work j = s.work j) ∧
      (∀ j, j ≠ k → t.tag j = s.tag j) ∧ (t.chan n).bus.running = false ∧
      t.lun (lunKey n w.lun) = { s.lun (lunKey n w.lun) with
        op := (s.lun (lunKey n w.lun)).op.map (fun o => { o with ranFrom := s.now }) } ∧
      (∀ j, j ≠ lunKey n w.lun → t.lun j = s.lun j) ∧
      (∀ m x, (s.tag k).abortSlot = some m → SMap.get s.slots m = some x → x.done = false →
        (s.queue x.sqid).discard = false → dueTagless t x.sqid x.cid .tooLate (BitVec.ofNat 32 k)) := by
  have htraced : Same 0x8000004010 s (s.confirmTraced n) := confirmTraced_same (Same.refl _ s) rfl n
  generalize hu : (s.confirmTraced n).jobConfirmed n id w = u
  have hsame : Same 0xB8000807010 s u := hu ▸ jobConfirmed_same (confirmTraced_same (Same.refl _ s) rfl n) rfl n id w
  obtain ⟨hworks, hluns, hbus⟩ := hu ▸ jobConfirmed_keeps (s.confirmTraced n) n id w
  have hstu : (u.tag k).st = .issued := (congrArg Tag.st (hsame.tag rfl k)).trans hst
  obtain ⟨hconfirmed, hpending, hothers⟩ := confirmTag_tag hstu
  have hend : Same 0x8000000C90 u (u.confirmTag k) := confirmTag_keeps hstu (Same.refl _ u) rfl
  have hnow : (s.confirmTraced n).now = s.now := congrArg BitVec.toNat (htraced.follower rfl)
  simp only [htraced.work rfl] at hworks
  simp only [htraced.lun rfl, hnow] at hluns
  refine ⟨u.confirmTag k, ?_, ?_, hconfirmed, hpending, fun j hj => ?_, fun j hj => (hothers j hj).trans (hsame.tag rfl j), ?_,
    ?_, fun j hj => ?_, fun m x hslot hx hdone hd => ?_⟩
  · rw [exec_confirm hn hs, if_neg (ne_true_of_eq_false hgood), confirmWork_job hw hemits hgood htag hkind hsent hruns, hu]
  · rw [hend.work rfl, hworks, if_pos rfl, hw]
    rfl
  · rw [hend.work rfl, hworks, if_neg (Ne.symm hj)]
  · rw [hend.chan rfl]
    exact hbus
  · rw [hend.lun rfl, hluns, if_pos rfl]
  · rw [hend.lun rfl, hluns, if_neg (Ne.symm hj)]
  · exact confirmTag_tooLate hstu ((congrArg Tag.abortSlot (hsame.tag rfl k)).trans hslot)
      ((congrArg (SMap.get · m) (hsame.slots rfl)).trans hx) hdone ((congrArg Queue.discard (hsame.queue rfl _)).trans hd)

/-- The CONFIRM of a routine, which runs on. -/
theorem confirm_routine (hkind : w.kind = .routine) :
    ∃ t, exec (.confirm n id) s = .next t ∧ t.work id = some { w with sent := true } ∧
      (∀ j, j ≠ id → t.work j = s.work j) ∧ (t.tag k).st = .confirmed ∧ (∀ j, j ≠ k → t.tag j = s.tag j) ∧
      ((s.lun (lunKey n w.lun)).op = none → (t.lun (lunKey n w.lun)).op =
        some { ArrayOp.start .routine [id] with ranFrom := s.now }) ∧
      ((s.lun (lunKey n w.lun)).op ≠ none → t.lun (lunKey n w.lun) = s.lun (lunKey n w.lun)) ∧
      (∀ j, j ≠ lunKey n w.lun → t.lun j = s.lun j) ∧ (t.chan n).bus.running = true ∧ (t.chan n).bus.confirmed = true := by
  have htraced : Same 0x8000004010 s (s.confirmTraced n) := confirmTraced_same (Same.refl _ s) rfl n
  generalize hu : (s.confirmTraced n).routineOp n id w.lun = u
  have hop : Same 0x3000 (s.confirmTraced n) u := hu ▸ routineOp_same (Same.refl _ _) rfl n id w.lun
  obtain ⟨hworks, hluns⟩ := hu ▸ routineOp_keeps (s.confirmTraced n) n id w.lun
  have htagu : ∀ j, u.tag j = s.tag j := fun j => (hop.tag rfl j).trans (htraced.tag rfl j)
  have hstu : (u.tag k).st = .issued := (congrArg Tag.st (htagu k)).trans hst
  obtain ⟨hconfirmed, -, hothers⟩ := confirmTag_tag hstu
  have hend : Same 0x8000000C90 u (u.confirmTag k) := confirmTag_keeps hstu (Same.refl _ u) rfl
  have hbus : ((u.confirmTag k).chan n).bus = { (s.chan n).bus with confirmed := true } := by
    rw [hend.chan rfl, hop.chan rfl, confirmTraced_bus]
  have hnow : (s.confirmTraced n).now = s.now := congrArg BitVec.toNat (htraced.follower rfl)
  simp only [htraced.work rfl] at hworks
  simp only [htraced.lun rfl, hnow] at hluns
  have hruns : (s.chan n).bus.running = true := by
    unfold State.emits at hemits
    exact (Bool.and_eq_true_iff.1 hemits).1
  refine ⟨u.confirmTag k, ?_, ?_, fun j hj => ?_, hconfirmed, fun j hj => (hothers j hj).trans (htagu j), fun hnone => ?_,
    fun hsome => ?_, fun j hj => ?_, ?_, ?_⟩
  · rw [exec_confirm hn hs, if_neg (ne_true_of_eq_false hgood), confirmWork_routine hw hemits hgood htag hkind, hu]
  · rw [hend.work rfl, hworks, if_pos rfl, hw]
    rfl
  · rw [hend.work rfl, hworks, if_neg (Ne.symm hj)]
  · rw [hend.lun rfl, hluns, if_pos rfl, hnone]
    rfl
  · rw [hend.lun rfl, hluns, if_pos rfl, if_pos (Option.isSome_iff_ne_none.2 hsome)]
  · rw [hend.lun rfl, hluns, if_neg (Ne.symm hj)]
  · rw [hbus]
    exact hruns
  · rw [hbus]

end

/-! The messages as they are run. -/

theorem Same.liveTag {m : Nat} {s t : State} (h : Same m s t) (hqueues : m.testBit 7 = false) (htags : m.testBit 10 = false)
    {k : Nat} (hlive : liveTag s k) : liveTag t k := by
  unfold Sys2Proof.liveTag
  rw [h.tag htags, h.queue hqueues]
  exact hlive

section
variable {s : State} {n id : Nat} {w : Work} (hn : n < s.nch) (hs : s.hostOn = true) (hw : s.work id = some w)
include hn hs

omit hw in
/-- A message that its job may not emit faults the channel. -/
theorem bad_faults {c : Instr} {op : Nat} (hc : (c = .confirm n id ∧ op = 3) ∨ (∃ word, c = .result n id word ∧ op = 4) ∨
    (∃ col, c = .paused n id col ∧ op = 6)) (hbad : s.badMessage n id op = true) : exec c s = .next (s.badMessageFault n) := by
  rcases hc with ⟨rfl, rfl⟩ | ⟨word, rfl, rfl⟩ | ⟨col, rfl, rfl⟩
  · rw [exec_confirm hn hs, if_pos hbad]
  · rw [exec_result hn hs, if_pos hbad]
  · exact exec_paused_bad hn hs hbad

section
variable {k : Nat} (htag : w.tag = some k)
include hw htag

theorem result_routine (hemits : s.emits n id = true) (hgood : s.badMessage n id 4 = false) (hkind : w.kind = .routine)
    (word : Word) : ∃ t, exec (.result n id word) s = .next t ∧ t.tag k = { s.tag k with result := word } ∧
      (∀ j, j ≠ k → t.tag j = s.tag j) ∧ t.works = s.works ∧ t.luns = s.luns := by
  have hsame : Same 0x8000000010 s (s.traceMsg n 4 (s.chan n).bus.entry word) := traceMsg_same (Same.refl _ s) rfl n 4 _ word
  refine ⟨s.resultMsg n id word, by rw [exec_result hn hs, if_neg (ne_true_of_eq_false hgood)], ?_⟩
  rw [resultMsg_routine hw htag hemits hkind]
  refine ⟨?_, fun j hj => ?_, hsame.works rfl, hsame.luns rfl⟩
  · rw [modTag_get, if_pos rfl, hsame.tag rfl]
  · rw [modTag_get, if_neg (Ne.symm hj), hsame.tag rfl]

section
variable (hch : w.ch = n) (hruns : s.emits n id = true ∨ w.st = .confirmed) (status : Byte)
include hch hruns

theorem fail_routine (hkind : w.kind = .routine) : ∃ t, exec (.fail n id status) s = .next t ∧ t.works = s.works ∧
    t.tags = s.tags ∧ t.luns = s.luns ∧ t.chan n = { s.chan n with
      bus := { (s.chan n).bus with failed := some status.toNat, status := status.toNat } } ∧
    (∀ j, j ≠ n → t.chan j = s.chan j) := by
  have hsame : Same 0x8000000010 s (s.traceMsg n 5 (s.failEntry n id w) 0) := traceMsg_same (Same.refl _ s) rfl n 5 _ 0
  refine ⟨s.failMsg n id status, exec_fail hn hs id status, ?_⟩
  rw [failMsg_routine hw htag hch hruns status hkind]
  refine ⟨hsame.works rfl, hsame.tags rfl, hsame.luns rfl, ?_, fun j hj => ?_⟩
  · rw [modChan_get, if_pos rfl, hsame.chan rfl]
  · rw [modChan_get, if_neg (Ne.symm hj), hsame.chan rfl]

theorem fail_program {f : Nat} (hkind : w.kind = .program) (hrole : w.role = .own) (hframe : w.frame = some f)
    (hlive : liveTag s k) (hop : (s.tag k).opcode = some .programPage) : ∃ t, exec (.fail n id status) s = .next t ∧
      dueFor t (s.tag k).sqid k .lunStatusFail (BitVec.ofNat 32 (f + status.toNat * 2 ^ 16)) := by
  have hsame : Same 0x8000000010 s (s.traceMsg n 5 (s.failEntry n id w) 0) := traceMsg_same (Same.refl _ s) rfl n 5 _ 0
  have htagk := hsame.tag rfl k
  refine ⟨s.failMsg n id status, exec_fail hn hs id status, ?_⟩
  rw [failMsg_program hw htag hch hruns status hkind, ← htagk]
  exact dieEnd_lost ((hsame.work rfl id).trans hw) hkind hrole htag hframe (hsame.liveTag rfl rfl hlive)
    ((congrArg Tag.opcode htagk).trans hop) status

end

theorem paused_routine (hemits : s.emits n id = true) (hgood : s.badMessage n id 6 = false) (hkind : w.kind = .routine)
    (hpending : (s.tag k).abortPending = false) (hdropped : (s.tag k).dropped = false) (col : Nat) :
    ∃ t v, exec (.paused n id col) s = .next t ∧ t.work id = some v ∧ v.st = .paused ∧
      v.resumeCol = (s.chan n).bus.a + (s.chan n).bus.b * 2 ^ 16 ∧ (t.chan n).bus.running = false ∧ t.tags = s.tags ∧
      t.luns = s.luns := by
  have htraced : Same 0x8000000010 s (s.traceMsg n 6 (s.chan n).bus.entry 0) := traceMsg_same (Same.refl _ s) rfl n 6 _ 0
  generalize hu : (s.traceMsg n 6 (s.chan n).bus.entry 0).routinePauses n id k w = u
  have hsame : Same 0xB9080035010 s u := hu ▸ routinePauses_same (traceMsg_same (Same.refl _ s) rfl n 6 _ 0) rfl n id k w
  have htagk := hsame.tag rfl k
  obtain ⟨⟨v, hv, hpaused, hcol⟩, hbus⟩ := hu ▸ routinePauses_keeps (n := n) (k := k) ((htraced.work rfl id).trans hw)
  rw [htraced.chan rfl] at hcol
  refine ⟨u, v, ?_, hv, hpaused, hcol, hbus, hsame.tags rfl, hsame.luns rfl⟩
  rw [exec_paused_routine hn hs hw hemits hgood hkind htag, hu, abortIfPending_not (htagk ▸ hpending) (htagk ▸ hdropped)]

section
variable (hdata : s.dataInRuns n = some (id, w)) (hboundary : w.boundary w.resumeCol = true) (hpause : s.quarterPause n = true)
  (hrole : w.role = .own)
include hdata hboundary hpause hrole

theorem exec_paused_dataIn : exec (.paused n id w.resumeCol) s = .next ((s.dataInPaused n id).abortIfPending k).2 := by
  obtain ⟨-, hkind, -⟩ := dataInRuns_work hdata
  rw [exec_paused_program hn hs hw (dataIn_mayPause hdata) hkind, pausedMsg_dataIn hdata hboundary hpause hrole htag]

variable (hdropped : (s.tag k).dropped = false)
include hdropped

theorem paused_dataIn (hpending : (s.tag k).abortPending = false) : ∃ t, exec (.paused n id w.resumeCol) s = .next t ∧
    t.work id = some { w with st := .paused } ∧ t.luns = s.luns ∧ (t.chan n).bus.running = false ∧
    (∀ j, j ≠ id → t.work j = s.work j) ∧ t.tags = s.tags := by
  have hsame : Same 0x8000005010 s (s.dataInPaused n id) := dataInPaused_same (Same.refl _ s) rfl n id
  have htagk := hsame.tag rfl k
  refine ⟨s.dataInPaused n id, ?_, ?_, hsame.luns rfl, busEnds_runs _ n, fun j hj => ?_, hsame.tags rfl⟩
  · rw [exec_paused_dataIn hn hs hw htag hdata hboundary hpause hrole,
      abortIfPending_not (htagk ▸ hpending) (htagk ▸ hdropped)]
  · rw [dataInPaused_work, if_pos rfl, hw]
    rfl
  · rw [dataInPaused_work, if_neg (Ne.symm hj)]

theorem paused_dataIn_stops (hlive : liveTag s k) (hop : (s.tag k).opcode = some .programPage)
    (hpending : (s.tag k).abortPending = true) :
    ∃ t, exec (.paused n id w.resumeCol) s = .next t ∧ dueFor t (s.tag k).sqid k .aborted 0 := by
  have hsame : Same 0x8000005010 s (s.dataInPaused n id) := dataInPaused_same (Same.refl _ s) rfl n id
  have htagk := hsame.tag rfl k
  have hlive' := hsame.liveTag rfl rfl hlive
  obtain ⟨-, hopen, -⟩ := hlive
  refine ⟨_, exec_paused_dataIn hn hs hw htag hdata hboundary hpause hrole, ?_⟩
  rw [abortIfPending_stops (htagk ▸ hpending) (htagk ▸ hdropped) (htagk ▸ hopen) (htagk ▸ hop), ← htagk]
  exact (abortNow_commits hlive').dueFor (commitTag_due hlive' .aborted 0)

end

end

omit hw in
/-- What a word for the message FIFO does. -/
theorem push_runs {c : Instr} {entry : BitVec 6} {word : Word} {isEnd : Bool}
    (hc : (c = .push n entry word ∧ isEnd = false) ∨ (c = .pushEnd n entry word ∧ isEnd = true))
    (hreset : (s.chan n).inReset = false) (hstore : (s.chan n).store = .loaded) (hfull : (s.chan n).msgFull = false) :
    ∃ t, exec c s = .next t ∧ t.chan n = (s.chan n).pushMsg entry word isEnd ∧ ∀ j, j ≠ n → t.chan j = s.chan j :=
  ⟨_, exec_push hn hs hc, pushMsg_enters hreset hstore hfull⟩

end

end Sys2Proof.Machine
end

section
/-! What the messages of the sequencer do. -/

namespace Sys2Proof
open Machine

/-- Settles O13, message by message: a message that its job may not emit faults the channel, and the others reach their job's
work, tag, LUN and bus. -/
theorem sequencerMessagesComplete : Obligations.SequencerMessagesComplete := by
  intro s n id w hn hs hw hch
  refine ⟨fun k hemits hgood htag hst => ⟨?_, ?_⟩, fun c op hc hbad => ?_, fun k word hemits hgood hkind htag => ?_,
    fun k status hruns hkind htag => ?_, fun k f status hruns hkind hrole htag hframe hlive hop => ?_,
    fun k hdata hboundary hpause hrole htag hdropped => ⟨?_, ?_⟩,
    fun col k hemits hgood hkind htag hpending hdropped => ?_, fun c entry word isEnd hc hreset hstore hdrop =>
      ⟨fun hfull => ?_, fun hempty => ?_, fun l m hmsgs hlast hcount => ?_⟩⟩
  · exact confirm_job hn hs hw hemits hgood htag hst
  · exact confirm_routine hn hs hw hemits hgood htag hst
  · exact ⟨_, bad_faults hn hs hc hbad, badMessage_faults hn⟩
  · exact result_routine hn hs hw htag hemits hgood hkind word
  · exact fail_routine hn hs hw htag hch hruns status hkind
  · exact fail_program hn hs hw htag hch hruns status hkind hrole hframe hlive hop
  · exact paused_dataIn hn hs hw htag hdata hboundary hpause hrole hdropped
  · exact paused_dataIn_stops hn hs hw htag hdata hboundary hpause hrole hdropped
  · exact paused_routine hn hs hw htag hemits hgood hkind hpending hdropped col
  · rw [exec_push hn hs hc, pushMsg_stalls hfull]
  · obtain ⟨t, hexec, hown, hothers⟩ := push_runs hn hs hc hreset hstore (msgFull_empty hempty)
    rw [pushMsg_empty hdrop hempty] at hown
    exact ⟨t, hexec, by rw [hown], by rw [hown], hothers⟩
  · obtain ⟨t, hexec, hown, -⟩ := push_runs hn hs hc hreset hstore (msgFull_joins hmsgs hlast hcount)
    rw [pushMsg_joins hdrop hmsgs hlast hcount] at hown
    exact ⟨t, hexec, by rw [hown], by rw [hown]⟩

end Sys2Proof
end

section
/-! A state against the statement on the data phases (R230, R298, R301). -/

namespace Sys2Proof.Machine
open Sys2Proof

/-- A READ_RAW packet that announces metadata and has a length of 2 ^ 24 + 1 bytes, with every other field 0. -/
def longRawPacket : Packet := BitVec.ofNat 512 (Opcode.readRaw.code + 2 ^ 10 + (2 ^ 24 + 1) * 2 ^ 192)

/-- A tag that delivers, whose opcode is not that of its packet, and whose data phase has moved its bytes, poisoned. The
descriptor of a READ_RAW takes its count from the packet's length, and the count's reserved byte is not 0: no hypothesis of
the statement ties the tag's opcode to its packet or bounds the length. -/
def poisonedDelivery : State :=
  { State.reset with
    ph := { State.reset.ph with blkReset := false, hclk := true }
    tags := [(0, { Tag.init with st := .delivering, opcode := some .readPage, packet := longRawPacket })]
    dma := [(0, { DmaChan.init with
      st := .running, loaded := true, user := some 0, moved := 1, poisoned := true })] }

theorem poisonedDelivery_live : liveTag poisonedDelivery 0 := by
  unfold liveTag
  decide

theorem poisonedDelivery_hasMeta : (poisonedDelivery.tag 0).hasMeta = true := by decide +kernel

theorem poisonedDelivery_moved : poisonedDelivery.dmaMore 0 = false := by decide +kernel

/-- The descriptor of the metadata breaks the format, so the channel halts and the command ends. -/
theorem poisonedDelivery_ends : ((poisonedDelivery.endPhase 0).tag 0).committed = true := by decide +kernel

end Sys2Proof.Machine
end

section
/-! The start and the end of a data phase (R113, R298, R299). -/

namespace Sys2Proof
open Machine

/-- Refutes O23: its clause on the metadata of a poisoned read takes a tag whose opcode is not its packet's, and the
descriptor that the packet gives may break the format (R301), which ends the command. -/
theorem not_dataPhasesComplete : ¬ Obligations.DataPhasesComplete := by
  unfold Obligations.DataPhasesComplete
  intro h
  obtain ⟨-, -, hpoisoned⟩ := h poisonedDelivery 0 0 (by decide) (by decide) rfl
  obtain ⟨hmeta, -⟩ := hpoisoned 0 rfl rfl rfl rfl poisonedDelivery_moved rfl poisonedDelivery_live
  obtain ⟨t, ht, htag, -⟩ := hmeta rfl poisonedDelivery_hasMeta rfl
  obtain rfl := Host.Outcome.next.inj ht
  have hends : ((poisonedDelivery.endPhase (64 * 0 + 0)).tag 0).committed = true := poisonedDelivery_ends
  rw [htag] at hends
  exact Bool.false_ne_true hends

end Sys2Proof
end

section
/-! SUPPORT. Packets that take a tag: the tag that a packet takes, and the packets that pass with one (R57, R64, R68). -/

namespace Sys2Proof.Machine
open Sys2Proof

theorem Same.frame {m : Nat} {s t : State} (h : Same m s t) (hb : m.testBit 15 = false) (k : Nat) : t.frame k = s.frame k := by
  unfold State.frame
  rw [h.frames hb]

theorem Same.acc {m : Nat} {s t : State} (h : Same m s t) (hb : m.testBit 18 = false) (k : Nat) : t.acc k = s.acc k := by
  unfold State.acc
  rw [h.accs hb]

theorem Same.obtEntry {m : Nat} {s t : State} (h : Same m s t) (hb : m.testBit 19 = false) (k : Nat) :
    t.obtEntry k = s.obtEntry k := by
  unfold State.obtEntry
  rw [h.obt hb]

theorem Same.freeFrameOf {m : Nat} {s t : State} (h : Same m s t) (hb : m.testBit 15 = false) (n : Nat) :
    t.freeFrameOf n = s.freeFrameOf n := by
  unfold State.freeFrameOf
  simp only [h.frame hb]

theorem Same.obtFind {m : Nat} {s t : State} (h : Same m s t) (hb : m.testBit 19 = false) (a : Addr) :
    t.obtFind a = s.obtFind a := by
  unfold State.obtFind
  simp only [h.obtEntry hb]

theorem tagTo_tag (s : State) (k : Nat) (st : TagState) (j : Nat) :
    (s.tagTo k st).tag j = if k = j then { s.tag k with st := st } else s.tag j := by
  unfold State.tagTo
  dsimp only
  split
  · next h =>
    split
    · next e => subst e; rw [← h]
    · rfl
  · rw [(traceRec_same (m := 0x8000000010) (Same.refl _ _) rfl _ _ _ _ _ _).tag rfl, setTag_get]

theorem tagTo_mem {s : State} {k : Nat} {st : TagState} {e : Nat × Tag} (h : e ∈ (s.tagTo k st).tags) :
    e = (k, { s.tag k with st := st }) ∨ e ∈ s.tags := by
  unfold State.tagTo at h
  dsimp only at h
  split at h
  · exact .inr h
  · rw [(traceRec_same (m := 0x8000000010) (Same.refl _ _) rfl _ _ _ _ _ _).tags rfl] at h
    exact SMap.mem_setD _ _ _ _ _ h

/-! A tag is taken. -/

/-- A tag as a packet takes it (R64). -/
def newTag (q : Nat) (p : Packet) (stamp : Nat) : Tag :=
  { Tag.init with st := .queued, sqid := q, cid := pkCid p, opcode := pkOpcode p, packet := p, stamp := stamp }

/-- What a packet that takes tag `k` leaves. -/
structure TagTaken (s t : State) (q : Nat) (p : Packet) (k : Nat) : Prop where
  free : s.freeTagOf (aCh (pkAddr p)) = some k
  tag : ∀ j, t.tag j = if k = j then newTag q p s.stamp else s.tag j
  entry : ∀ e, e ∈ t.tags → e = (k, newTag q p s.stamp) ∨ e = (k, { newTag q p s.stamp with st := .free }) ∨ e ∈ s.tags
  chan : ∀ n, t.chan n = { s.chan n with lastTag := (t.chan n).lastTag }
  keeps : ∀ {m : Nat} {z : State}, Same m z s → 0x109800004410 ||| m = m → Same m z t

/-- The state in which a tag is written: the packet is traced, and the tag's journal entry is fresh (R448, R499). -/
def State.tagTraced (s : State) (q : Nat) (p : Packet) (k : Nat) : State :=
  ((s.traceAccept q p (some k)).freshEntry 1 (mlogAddr 0 k 0) 256).tick.2

theorem tagTraced_same {m : Nat} {z t : State} (hk : Same m z t) (h : 0x109800000010 ||| m = m) (q : Nat) (p : Packet)
    (k : Nat) : Same m z (t.tagTraced q p k) :=
  tick_same (freshEntry_same (traceAccept_same hk (up h rfl) q p (some k)) (up h rfl) 1 _ 256) (up h rfl)

theorem takeTag_takes {s : State} {p : Packet} {k : Nat} (h : s.freeTagOf (aCh (pkAddr p)) = some k) (q : Nat) :
    ∃ t, s.takeTag q p = some (k, t) ∧ TagTaken s t q p k := by
  have htraced : Same 0x109800000010 s (s.tagTraced q p k) := tagTraced_same (Same.refl _ s) rfl q p k
  have hstamp : ((s.traceAccept q p (some k)).freshEntry 1 (mlogAddr 0 k 0) 256).stamp = s.stamp :=
    (freshEntry_same (traceAccept_same (m := 0x9800000010) (Same.refl _ s) rfl q p (some k)) rfl 1 _ 256).stamp rfl
  have htake : s.takeTag q p = some (k, (((s.tagTraced q p k).setTag k { newTag q p s.stamp with st := .free }).modChan (k / 64)
      fun c => { c with lastTag := some (k % 64) }).tagTo k .queued) := by
    unfold State.takeTag
    rw [h, ← hstamp]
    rfl
  generalize hset : (s.tagTraced q p k).setTag k { newTag q p s.stamp with st := .free } = v at htake
  have hv : Same 0x109800000410 s v := hset ▸ setTag_same (tagTraced_same (Same.refl _ s) rfl q p k) rfl k _
  have hvtag : ∀ j, v.tag j = if k = j then { newTag q p s.stamp with st := .free } else s.tag j := fun j => by
    rw [← hset, setTag_get, htraced.tag rfl]
  have hmod : Same 0x4000 v (v.modChan (k / 64) fun c => { c with lastTag := some (k % 64) }) :=
    modChan_same (Same.refl _ v) rfl _ _
  have hto : Same 0x8000000410 (v.modChan (k / 64) fun c => { c with lastTag := some (k % 64) })
      ((v.modChan (k / 64) fun c => { c with lastTag := some (k % 64) }).tagTo k .queued) :=
    tagTo_same (Same.refl _ _) rfl k .queued
  refine ⟨_, htake, h, fun j => ?_, fun e he => ?_, fun n => ?_, ?_⟩
  · rw [tagTo_tag, hmod.tag rfl, hmod.tag rfl, hvtag, hvtag, if_pos rfl]
    split
    · rfl
    · rfl
  · rcases tagTo_mem he with h | he
    · refine .inl (h.trans ?_)
      rw [hmod.tag rfl, hvtag, if_pos rfl]
      rfl
    · rw [hmod.tags rfl, ← hset] at he
      rcases SMap.mem_setD _ _ _ _ _ he with rfl | he
      · exact .inr (.inl rfl)
      · exact .inr (.inr (htraced.tags rfl ▸ he))
  · rw [hto.chan rfl, modChan_get, hv.chan rfl]
    split <;> rfl
  · intro m z hs hm
    exact tagTo_same (modChan_same (hset ▸ setTag_same (tagTraced_same hs (up hm rfl) q p k) (up hm rfl) k _) (up hm rfl) _ _)
      (up hm rfl) k _

end Sys2Proof.Machine
end

section
/-! SUPPORT. The packets that pass their checks and take a tag: what stands when their work begins (R52, R57, R68). -/

namespace Sys2Proof.Machine
open Sys2Proof

theorem Same.freeTagOf {m : Nat} {s t : State} (h : Same m s t) (htags : m.testBit 10 = false) (hchans : m.testBit 14 = false)
    (n : Nat) : t.freeTagOf n = s.freeTagOf n := by
  unfold State.freeTagOf
  simp only [h.tag htags, h.chan hchans]

theorem takeTag_none {s : State} {p : Packet} (h : s.freeTagOf (aCh (pkAddr p)) = none) (q : Nat) : s.takeTag q p = none := by
  unfold State.takeTag
  rw [h]

/-- An opcode that takes no slot takes a tag. -/
theorem accept_noTag {s : State} {p : Packet} {o : Opcode} (ho : pkOpcode p = some o) (hslot : ¬ o.takesSlot)
    (h : s.freeTagOf (aCh (pkAddr p)) = none) (q : Nat) (absent : Bool) : s.accept q p absent = none := by
  have htag := takeTag_none h q
  unfold State.accept
  rw [ho]
  cases o with
  | abort => exact absurd (.inl rfl) hslot
  | fence => exact absurd (.inr (.inl rfl)) hslot
  | getDeferred => exact absurd (.inr (.inr (.inl rfl))) hslot
  | selfTest => exact absurd (.inr (.inr (.inr rfl))) hslot
  | readPage | readQuarter | readRaw | readRebuild => simp only [State.acceptRead, htag]
  | programPage | programRaw => simp only [State.acceptProgram, htag, ite_self]
  | reprogramHeld => simp only [State.acceptReprogram, htag, ite_self]
  | releaseFrame => simp only [State.acceptRelease, htag]
  | copyPage => simp only [State.acceptCopy, htag, ite_self]
  | eraseBlock => simp only [State.acceptErase, htag]
  | getFeature | setFeature | readParameterPage | resetTarget | runRoutine => simp only [State.acceptAccess, htag]
  | survey => simp only [State.acceptSurvey, htag]
  | calibrate => simp only [State.acceptCalibrate, htag]
  | stripeParity => simp only [State.acceptOpen, State.acceptClose, State.acceptDiscard, htag, ite_self]

/-- What a packet that passed its checks and took tag `k` leaves of the state before it. -/
structure PacketTaken (s t : State) (q : Nat) (p : Packet) (k : Nat) : Prop where
  free : s.freeTagOf (aCh (pkAddr p)) = some k
  tag : ∀ j, t.tag j = if k = j then newTag q p s.stamp else s.tag j
  entry : ∀ e, e ∈ t.tags → e = (k, newTag q p s.stamp) ∨ e = (k, { newTag q p s.stamp with st := .free }) ∨ e ∈ s.tags
  chan : ∀ n, t.chan n = { s.chan n with lastTag := (t.chan n).lastTag }
  queue : ∀ j, t.queue j = if q = j then (s.queue q).headTaken (s.sqDepth q) else s.queue j
  rest : Same 0x109800004790 s t

theorem HeadTaken.keeps {s v : State} {q m : Nat} {z : State} (h : HeadTaken s v q) (hs : Same m z s) (hm : 0x380 ||| m = m) :
    Same m z v := by
  obtain ⟨-, hrest⟩ := h
  rw [hrest.eq_of_parse]
  apply Same.lit hs (h_arb := mayDiffer hm rfl) (h_queues := mayDiffer hm rfl) (h_push := mayDiffer hm rfl)
  all_goals exact fun _ => rfl

theorem HeadTaken.taken {s v u : State} {q k : Nat} {p : Packet} (hhead : HeadTaken s v q) (h : TagTaken v u q p k) :
    PacketTaken s u q p k := by
  have hstamp : v.stamp = s.stamp := hhead.rest.stamp rfl
  refine ⟨?_, fun j => ?_, fun e he => ?_, fun n => ?_, fun j => ?_, ?_⟩
  · rw [← hhead.rest.freeTagOf rfl rfl]
    exact h.free
  · rw [h.tag, hstamp, hhead.rest.tag rfl]
  · rw [← hstamp, ← hhead.rest.tags rfl]
    exact h.entry e he
  · rw [h.chan, hhead.rest.chan rfl]
  · rw [(h.keeps (Same.refl 0x109800004410 v) rfl).queue rfl, hhead.queue]
  · exact h.keeps (hhead.keeps (Same.refl _ s) rfl) rfl

/-- A tag names the command of packet `p` of queue `q`, which has not committed. -/
def Tag.names (x : Tag) (q : Nat) (p : Packet) : Prop :=
  x.sqid = q ∧ x.cid = pkCid p ∧ x.opcode = pkOpcode p ∧ x.packet = p ∧ x.committed = false

theorem newTag_names (q : Nat) (p : Packet) (stamp : Nat) : (newTag q p stamp).names q p := ⟨rfl, rfl, rfl, rfl, rfl⟩

namespace PacketTaken
variable {s u t : State} {q k : Nat} {p : Packet}

theorem tag_own (h : PacketTaken s u q p k) : u.tag k = newTag q p s.stamp := by rw [h.tag, if_pos rfl]

theorem discard (h : PacketTaken s u q p k) (j : Nat) : (u.queue j).discard = (s.queue j).discard := by
  rw [h.queue]
  split
  · next e => subst e; rfl
  · rfl

theorem liveTag (h : PacketTaken s u q p k) (hd : (s.queue q).discard = false) : liveTag u k := by
  unfold Sys2Proof.liveTag
  rw [h.tag_own, h.discard]
  exact ⟨fun h => (by cases h), rfl, rfl, rfl, rfl, hd⟩

/-- The command is in flight while its tag names it and its queue's head stands. -/
theorem accepted (h : PacketTaken s u q p k) (hqueues : t.queues = u.queues) (hnames : (t.tag k).names q p) :
    accepted s t q p k := by
  obtain ⟨hsqid, hcid, hopcode, hpacket, hopen⟩ := hnames
  refine ⟨h.free, hsqid, hcid, hopcode, hpacket, hopen, ?_⟩
  unfold State.queue at *
  rw [hqueues]
  show (u.queue q).sqHead = _
  rw [h.queue, if_pos rfl]
  rfl

end PacketTaken

section
variable {s : State} {q : Nat} {p : Packet} (hnext : parsesNext s q p)
include hnext

/-- A packet that passes is accepted at the head of its queue. -/
theorem passes_fits {absent : Bool} (hv : s.verdict q p = .pass absent) :
    ∃ v, HeadTaken s v q ∧ (v.accept q p absent).isSome = true :=
  ⟨_, ⟨fun k => advanceHead_queue s q k, advanceHead_same (Same.refl _ s) rfl q⟩, passes_accepted hnext hv⟩

/-- A packet takes its tag, and what it does is known but for the arbiter. -/
theorem passes_tagged {o : Opcode} {c : Instr} {absent : Bool} (hc : parses c q p) (hv : s.verdict q p = .pass absent)
    (ho : pkOpcode p = some o) (hslot : ¬ o.takesSlot) {C : State → Nat → Prop} (hC : ∀ t k b, C t k → C (t.withArb b) k)
    (hrun : ∀ v u k, HeadTaken s v q → v.takeTag q p = some (k, u) → PacketTaken s u q p k →
      ∃ t, v.accept q p absent = some t ∧ C t k) : ∃ t k, exec c s = .next t ∧ C t k := by
  obtain ⟨w, hw, hsome⟩ := passes_fits hnext hv
  obtain ⟨v, hhead, hexec⟩ := exec_passes hnext hc hv
  have hfree : v.freeTagOf (aCh (pkAddr p)) = w.freeTagOf (aCh (pkAddr p)) :=
    (hhead.rest.freeTagOf rfl rfl _).trans (hw.rest.freeTagOf rfl rfl _).symm
  cases hk : v.freeTagOf (aCh (pkAddr p)) with
  | none =>
    rw [accept_noTag ho hslot (hfree.symm.trans hk)] at hsome
    cases hsome
  | some k =>
    obtain ⟨u, htake, htaken⟩ := takeTag_takes hk q
    obtain ⟨t, ht, hCt⟩ := hrun v u k hhead htake (hhead.taken htaken)
    obtain ⟨b, hb⟩ := hexec t ht
    exact ⟨t.withArb b, k, hb, hC t k b hCt⟩

end

end Sys2Proof.Machine
end

section
/-! SUPPORT. What the packets that take a tag leave of it: its channel, its frame and its flash work (R57, R64, R196). -/

namespace Sys2Proof.Machine
open Sys2Proof

/-! Flash work joins the scheduler. -/

theorem addWork_work (s : State) (w : Work) (j : Nat) :
    (s.addWork w).2.work j = if s.nextWork = j then some w else s.work j := by
  unfold State.addWork State.work
  exact SMap.get_insert _ _ _ _

theorem addOwn_work (s : State) (w : Work) (j : Nat) :
    (s.addOwn w).work j = if s.nextWork = j then some w else s.work j := addWork_work s w j

theorem addOwn_work_new (s : State) (w : Work) : (s.addOwn w).work s.nextWork = some w := by
  rw [addOwn_work, if_pos rfl]

/-! The tag that a channel allocates, and the frame. -/

theorem freeTagOf_spec {s : State} {n k : Nat} (h : s.freeTagOf n = some k) : k / 64 = n ∧ (s.tag k).st = .free := by
  unfold State.freeTagOf at h
  dsimp only at h
  have hfree := List.find?_some h
  obtain ⟨i, -, rfl⟩ := List.mem_map.1 (List.mem_of_find?_eq_some h)
  exact ⟨by omega, by simpa using hfree⟩

theorem tagFrame_tag (s : State) (k f j : Nat) :
    (s.tagFrame k f).tag j = if k = j then { s.tag j with frame := some f } else s.tag j := by
  unfold State.tagFrame
  rw [modTag_get, (takeFrame_same (m := 0x8000) (Same.refl _ s) rfl f (some k)).tag rfl]

theorem tagFrame_frame (s : State) (k f g : Nat) : (s.tagFrame k f).frame g = if f = g then
    { s.frame g with st := .inUse, owner := some k, named := none, staged := false, rawLen := none } else s.frame g := by
  have hmod : (s.tagFrame k f).frame g = (s.takeFrame f (some k)).frame g :=
    (modTag_same (m := 0x400) (Same.refl _ _) rfl k _).frame rfl g
  rw [hmod]
  unfold State.takeFrame
  rw [modFrame_get]

theorem takeTag_taken {s u : State} {q k : Nat} {p : Packet} (h : s.takeTag q p = some (k, u)) : TagTaken s u q p k := by
  cases hk : s.freeTagOf (aCh (pkAddr p)) with
  | none =>
    rw [takeTag_none hk] at h
    cases h
  | some j =>
    obtain ⟨t, ht, htaken⟩ := takeTag_takes hk q
    rw [h] at ht
    obtain ⟨rfl, rfl⟩ := Prod.mk.inj (Option.some.inj ht)
    exact htaken

theorem takeTag_freeFrameOf {s u : State} {q k : Nat} {p : Packet} (h : s.takeTag q p = some (k, u)) (n : Nat) :
    u.freeFrameOf n = s.freeFrameOf n :=
  ((takeTag_taken h).keeps (m := 0x109800004410) (Same.refl _ s) rfl).freeFrameOf rfl n

/-- The opcodes that take a frame of their channel whatever it holds. -/
def Opcode.takesFrame (o : Opcode) : Prop :=
  o = .programPage ∨ o = .programRaw ∨ o = .copyPage ∨ o = .readParameterPage ∨ o = .runRoutine ∨ o = .survey

theorem accept_noFrame {s : State} {p : Packet} {o : Opcode} (ho : pkOpcode p = some o) (hframe : o.takesFrame)
    (h : s.freeFrameOf (aCh (pkAddr p)) = none) (q : Nat) (absent : Bool) : s.accept q p absent = none := by
  have hprogram : s.acceptProgram q p = none := by
    unfold State.acceptProgram
    rw [h]
    cases s.takeTag q p <;> exact ite_self _
  have hcopy : s.acceptCopy q p = none := by
    unfold State.acceptCopy
    rw [h]
    cases s.takeTag q p <;> exact ite_self _
  have hsurvey : s.acceptSurvey q p = none := by
    unfold State.acceptSurvey
    dsimp only
    rw [h]
    cases s.takeTag q p <;> rfl
  have haccess : ∀ kind, s.acceptAccess q p kind true = none := fun kind => by
    unfold State.acceptAccess
    cases htake : s.takeTag q p with
    | none => rfl
    | some r =>
      obtain ⟨k, u⟩ := r
      have hnone := (takeTag_freeFrameOf htake _).trans h
      dsimp only
      rw [hnone]
      rfl
  unfold State.accept
  rw [ho]
  rcases hframe with rfl | rfl | rfl | rfl | rfl | rfl
  · exact hprogram
  · exact hprogram
  · exact hcopy
  · exact haccess _
  · exact haccess _
  · exact hsurvey

/-- A packet that takes a frame is parsed only where one is free (R196). -/
theorem passes_freeFrame {s : State} {q : Nat} {p : Packet} (hnext : parsesNext s q p) {absent : Bool}
    (hv : s.verdict q p = .pass absent) {o : Opcode} (ho : pkOpcode p = some o) (hframe : o.takesFrame) :
    ∃ f, s.freeFrameOf (aCh (pkAddr p)) = some f := by
  obtain ⟨v, hhead, hsome⟩ := passes_fits hnext hv
  cases hf : s.freeFrameOf (aCh (pkAddr p)) with
  | some f => exact ⟨f, rfl⟩
  | none =>
    rw [accept_noFrame ho hframe ((hhead.rest.freeFrameOf rfl _).trans hf)] at hsome
    cases hsome

namespace PacketTaken
variable {s u : State} {q k : Nat} {p : Packet}

theorem freeFrameOf (h : PacketTaken s u q p k) (n : Nat) : u.freeFrameOf n = s.freeFrameOf n := h.rest.freeFrameOf rfl n

theorem nextWork (h : PacketTaken s u q p k) : u.nextWork = s.nextWork := h.rest.nextWork rfl

theorem survey (h : PacketTaken s u q p k) (n : Nat) : (u.chan n).survey = (s.chan n).survey := by rw [h.chan]

theorem cal (h : PacketTaken s u q p k) (n : Nat) : (u.chan n).cal = (s.chan n).cal := by rw [h.chan]

theorem surveyReady (h : PacketTaken s u q p k) (n : Nat) : u.surveyReady n = s.surveyReady n := by
  unfold State.surveyReady
  rw [h.chan]

end PacketTaken

end Sys2Proof.Machine
end

section
/-! SUPPORT. Feature accesses, parameter pages, resets, routines, surveys and calibrations as the interpreter accepts them (R104
to R106, R110, R111, R113). -/

namespace Sys2Proof.Machine
open Sys2Proof

/-! The parts of a survey (R110, R285). -/

theorem modSurvey_get (s : State) (n : Nat) (f : Survey → Survey) (j : Nat) :
    ((s.modSurvey n f).chan j).survey = if n = j then f (s.chan j).survey else (s.chan j).survey := by
  unfold State.modSurvey
  rw [modChan_get]
  split <;> rfl

theorem nextSlotN_tag (fuel n j : Nat) (s : State) :
    ((s.nextSlotN fuel n j).chan n).survey.tag = (s.chan n).survey.tag := by
  have hmod : ∀ (u : State) (f : Survey → Survey), (∀ v, (f v).tag = v.tag) →
      ((u.modSurvey n f).chan n).survey.tag = (u.chan n).survey.tag := fun u f hf => by
    rw [modSurvey_get, if_pos rfl, hf]
  induction fuel generalizing s j with
  | zero => rfl
  | succ fuel ih =>
    unfold State.nextSlotN
    split
    · exact hmod _ _ fun _ => rfl
    · split
      · exact (ih ..).trans (hmod _ _ fun _ => rfl)
      · split
        · exact (ih ..).trans (hmod _ _ fun _ => rfl)
        · have hwork : ∀ w id, Same 0x339880401010 s ((s.tick.2.addWork w).2.fixLevels id) := fun w id =>
            fixLevels_same (addWork_same (tick_same (Same.refl _ s) rfl) rfl w) rfl id
          have hset : ∀ u : State, ((u.modSurvey n fun v => { v with slot := j, shift := -2, bits := [], erased := 0 }).chan
              n).survey.tag = (u.chan n).survey.tag := fun u => hmod u _ fun _ => rfl
          exact (hset _).trans (congrArg (fun c : Chan => c.survey.tag) ((hwork _ _).chan rfl n))

theorem surveyPart_tag (s : State) (n k : Nat) : ((s.surveyPart n k).chan n).survey.tag = (s.chan n).survey.tag := by
  have hmod : ∀ f : Survey → Survey, (∀ v, (f v).tag = v.tag) →
      ((s.modSurvey n f).chan n).survey.tag = (s.chan n).survey.tag := fun f hf => by
    rw [modSurvey_get, if_pos rfl, hf]
  unfold State.surveyPart
  dsimp only
  split
  · exact hmod _ fun _ => rfl
  · split
    · exact (nextSlotN_tag ..).trans (hmod _ fun _ => rfl)
    · split
      · exact hmod _ fun _ => rfl
      · exact hmod _ fun _ => rfl

/-- A survey that a command starts is the command's, which is ISSUED. -/
theorem startSurvey_tag (s : State) (n parts k : Nat) :
    (s.startSurvey n parts (some k)).tag k = { s.tag k with st := .issued } ∧
    ((s.startSurvey n parts (some k)).chan n).survey.tag = some k := by
  unfold State.startSurvey
  extract_lets src s1 s2
  have h1 : Same 0x4000 s s1 := modSurvey_same (Same.refl _ s) rfl n _
  have h2 : Same 0x8000000410 s1 s2 := tagTo_same (Same.refl _ s1) rfl k .issued
  refine ⟨?_, ?_⟩
  · rw [(surveyPart_same (m := 0x339880405010) (Same.refl _ s2) rfl n 0).tag rfl]
    unfold s2
    dsimp only
    rw [tagTo_tag, if_pos rfl, h1.tag rfl]
  · rw [surveyPart_tag, h2.chan rfl]
    unfold s1
    rw [modSurvey_get, if_pos rfl]

/-! The calibration of a channel (R111, R432). -/

theorem calQueue_cal (s : State) (n : Nat) (apply : Bool) (o : Option Nat) :
    ((s.calQueue n apply o).chan n).cal = { Cal.init with st := .queued, apply := apply, tag := o } := by
  have h : (s.calQueue n apply o).chan n = (s.modChan n fun c => { c with
      cal := { Cal.init with st := .queued, apply := apply, tag := o } }).chan n := rfl
  rw [h, modChan_get, if_pos rfl]

theorem calNext_busy {s : State} {n : Nat} (h : (s.chan n).cal.st ≠ .idle) : s.calNext n = s := by
  unfold State.calNext
  exact if_pos (bne_iff_ne.2 h)

/-- The only CALIBRATE of a channel is the one that its calibration serves. -/
theorem calNext_only {s : State} {n k : Nat} {x : Tag} (hidle : (s.chan n).cal.st = .idle) (hmem : (k, x) ∈ s.tags)
    (hchan : k / 64 = n) (hop : x.opcode = some .calibrate) (hst : x.st = .queued) (hopen : x.committed = false)
    (honly : ∀ e, e ∈ s.tags → e.2.opcode = some .calibrate → e.2.st = .queued ∨ e.2.st = .issued → e = (k, x)) :
    s.calNext n = s.calQueue n (bitOf (pkByte x.packet 48) 0) (some k) := by
  unfold State.calNext
  rw [if_neg (by simp [hidle])]
  generalize hl : s.tags.filter _ = l
  have hin : (k, x) ∈ l := hl ▸ List.mem_filter.2 ⟨hmem, by simp [hchan, hop, hst, hopen]⟩
  obtain ⟨e, he⟩ := leastBy_some (fun e : Nat × Tag => e.2.stamp) (List.ne_nil_of_mem hin)
  have hthis : e = (k, x) := by
    have hmem := leastBy_mem he
    rw [← hl] at hmem
    obtain ⟨hmem, hw⟩ := List.mem_filter.1 hmem
    simp only [Bool.and_eq_true, Bool.or_eq_true, beq_iff_eq] at hw
    exact honly e hmem hw.1.1.2 hw.1.2
  rw [he, hthis]

section
variable {s : State} {q : Nat} {p : Packet} {c : Instr} (hnext : parsesNext s q p) (hc : parses c q p)
  (hv : s.verdict q p = .pass false)
include hnext hc hv

/-- An access without a frame joins the scheduler. -/
theorem access_plain {o : Opcode} (ho : pkOpcode p = some o) (hslot : ¬ o.takesSlot) {kind : WorkKind}
    (hkind : ∀ v : State, v.accept q p false = v.acceptAccess q p kind false) :
    ∃ t k, exec c s = .next t ∧ accepted s t q p k ∧ (t.tag k).st = .queued ∧ t.frames = s.frames ∧
      ∃ w, t.work s.nextWork = some w ∧ w.kind = kind ∧ w.role = .own ∧ w.tag = some k ∧ w.addr = pkAddr p ∧
        w.st = .waiting := by
  refine passes_tagged hnext hc hv ho hslot (fun _ _ _ h => h) fun v u k hhead htake htaken => ?_
  let w := Work.new kind .own (pkAddr p) (some k) (u.tag k).stamp
  have hsame : Same 0x200000001000 u (u.addOwn w) := addOwn_same (Same.refl _ u) rfl w
  have htag : (u.addOwn w).tag k = newTag q p s.stamp := (hsame.tag rfl k).trans htaken.tag_own
  refine ⟨u.addOwn w, ?_, htaken.accepted (hsame.queues rfl) (htag ▸ newTag_names ..), by rw [htag]; rfl,
    (hsame.frames rfl).trans (htaken.rest.frames rfl), w, ?_, rfl, rfl, rfl, rfl, rfl⟩
  · rw [hkind]
    unfold State.acceptAccess
    rw [htake]
    rfl
  · rw [← htaken.nextWork, addOwn_work_new]

/-- An access with a frame joins the scheduler; a routine that takes data fetches it first. -/
theorem access_framed {o : Opcode} (ho : pkOpcode p = some o) (hslot : ¬ o.takesSlot) {f : Nat}
    (hf : s.freeFrameOf (aCh (pkAddr p)) = some f) {kind : WorkKind}
    (hkind : ∀ v : State, v.accept q p false = v.acceptAccess q p kind true) :
    ∃ t k, exec c s = .next t ∧ accepted s t q p k ∧ (t.tag k).frame = some f ∧ (t.frame f).st = .inUse ∧
      (t.tag k).st = (if kind == .routine && bitOf (pkByte p 49) 0 && decide (0 < pkLen p) then .fetching else .queued) ∧
      ∃ w, t.work s.nextWork = some w ∧ w.kind = kind ∧ w.tag = some k ∧ w.frame = some f := by
  refine passes_tagged hnext hc hv ho hslot (fun _ _ _ h => h) fun v u k hhead htake htaken => ?_
  let w := { Work.new kind .own (pkAddr p) (some k) (u.tag k).stamp with frame := some f }
  generalize hx : (u.tagFrame k f).addOwn w = x
  have hadd : Same 0x200000001000 (u.tagFrame k f) x := hx ▸ addOwn_same (Same.refl _ _) rfl w
  have htag : x.tag k = { newTag q p s.stamp with frame := some f } := by
    rw [hadd.tag rfl, tagFrame_tag, if_pos rfl, htaken.tag_own]
  have haccept : v.accept q p false =
      some (if kind == .routine && bitOf (pkByte p 49) 0 && decide (0 < pkLen p) then x.tagTo k .fetching else x) := by
    rw [hkind, ← hx]
    unfold State.acceptAccess
    rw [htake]
    dsimp only
    rw [(htaken.freeFrameOf _).trans hf]
    rfl
  rw [haccept]
  generalize (kind == .routine && bitOf (pkByte p 49) 0 && decide (0 < pkLen p)) = toDie
  have hto : Same 0x8000000410 x (if toDie then x.tagTo k .fetching else x) :=
    Same.ite (tagTo_same (Same.refl _ x) rfl k .fetching) (Same.refl _ x)
  have htag' : (if toDie then x.tagTo k .fetching else x).tag k =
      { newTag q p s.stamp with frame := some f, st := if toDie then .fetching else .queued } := by
    split
    · rw [tagTo_tag, if_pos rfl, htag]
    · exact htag
  have hqueues := (hto.queues rfl).trans ((hadd.queues rfl).trans
    ((tagFrame_same (m := 0x8400) (Same.refl _ u) rfl k f).queues rfl))
  refine ⟨_, rfl, htaken.accepted hqueues (htag' ▸ newTag_names q p s.stamp), by rw [htag'], ?_, by rw [htag'], w, ?_, rfl, rfl,
    rfl⟩
  · rw [hto.frame rfl, hadd.frame rfl, tagFrame_frame, if_pos rfl]
  · rw [hto.work rfl, ← htaken.nextWork, ← hx]
    exact addOwn_work_new (u.tagFrame k f) w

/-- A SURVEY starts, or waits for the survey of its channel (R110, R285). -/
theorem survey_accepted (ho : pkOpcode p = some .survey) : ∃ t k, exec c s = .next t ∧ accepted s t q p k ∧
    (s.surveyReady (aCh (pkAddr p)) = true → (t.tag k).st = .issued ∧ (t.chan (aCh (pkAddr p))).survey.tag = some k) ∧
    (s.surveyReady (aCh (pkAddr p)) = false → (t.tag k).st = .queued ∧ (t.chan (aCh (pkAddr p))).survey =
      { (s.chan (aCh (pkAddr p))).survey with again := (s.chan (aCh (pkAddr p))).survey.again ++ [k] }) := by
  obtain ⟨f, hf⟩ := passes_freeFrame hnext hv ho (.inr (.inr (.inr (.inr (.inr rfl)))))
  refine passes_tagged hnext hc hv ho (by unfold Opcode.takesSlot; decide) (fun _ _ _ h => h) fun v u k hhead htake htaken => ?_
  have hframed : Same 0x8400 u (u.tagFrame k f) := tagFrame_same (Same.refl _ u) rfl k f
  have htag : (u.tagFrame k f).tag k = { newTag q p s.stamp with frame := some f } := by
    rw [tagFrame_tag, if_pos rfl, htaken.tag_own]
  have hready : (u.tagFrame k f).surveyReady (aCh (pkAddr p)) = s.surveyReady (aCh (pkAddr p)) := by
    unfold State.surveyReady
    rw [hframed.chan rfl]
    exact htaken.surveyReady _
  have haccept : v.accept q p false = some (if s.surveyReady (aCh (pkAddr p)) then
      (u.tagFrame k f).startSurvey (aCh (pkAddr p)) (pkByte p 48) (some k)
    else (u.tagFrame k f).modSurvey (aCh (pkAddr p)) fun v => { v with again := v.again ++ [k] }) := by
    unfold State.accept State.acceptSurvey
    rw [ho]
    dsimp only
    rw [htake, (hhead.rest.freeFrameOf rfl _).trans hf, ← hready]
    exact (apply_ite some _ _ _).symm
  rw [haccept]
  cases hs : s.surveyReady (aCh (pkAddr p)) with
  | true =>
    obtain ⟨hissued, hsurvey⟩ := startSurvey_tag (u.tagFrame k f) (aCh (pkAddr p)) (pkByte p 48) k
    have hsame := startSurvey_same (m := 0x339880405410) (Same.refl _ (u.tagFrame k f)) rfl (aCh (pkAddr p)) (pkByte p 48)
      (some k)
    rw [htag] at hissued
    exact ⟨_, rfl, htaken.accepted ((hsame.queues rfl).trans (hframed.queues rfl)) (hissued ▸ newTag_names q p s.stamp),
      fun _ => ⟨by rw [if_pos rfl, hissued], hsurvey⟩, fun h => by cases h⟩
  | false =>
    have hsame := modSurvey_same (m := 0x4000) (Same.refl _ (u.tagFrame k f)) rfl (aCh (pkAddr p))
      fun v => { v with again := v.again ++ [k] }
    have hqueued := (hsame.tag rfl k).trans htag
    refine ⟨_, rfl, htaken.accepted ((hsame.queues rfl).trans (hframed.queues rfl)) (hqueued ▸ newTag_names q p s.stamp),
      fun h => (by cases h), fun _ => ⟨by rw [if_neg Bool.false_ne_true, hqueued]; rfl, ?_⟩⟩
    rw [if_neg Bool.false_ne_true, modSurvey_get, if_pos rfl, hframed.chan rfl, htaken.survey]

/-- A CALIBRATE is the calibration of its channel where that has none (R111, R425, R432). -/
theorem calibrate_accepted (ho : pkOpcode p = some .calibrate) (honly : ∀ e, e ∈ s.tags → e.2.opcode ≠ some .calibrate) :
    ∃ t k, exec c s = .next t ∧ accepted s t q p k ∧ (t.tag k).st = .queued ∧
      ((s.chan (aCh (pkAddr p))).cal.st = .idle → t.calUnit.queue = s.calUnit.queue ++ [aCh (pkAddr p)] ∧
        (t.chan (aCh (pkAddr p))).cal.tag = some k ∧
        (t.chan (aCh (pkAddr p))).cal.apply = bitOf (pkByte p 48) 0) ∧
      ((s.chan (aCh (pkAddr p))).cal.st ≠ .idle →
        (t.chan (aCh (pkAddr p))).cal = (s.chan (aCh (pkAddr p))).cal ∧ t.calUnit = s.calUnit) := by
  refine passes_tagged hnext hc hv ho (by unfold Opcode.takesSlot; decide) (fun _ _ _ h => h) fun v u k hhead htake htaken => ?_
  have hsame := calNext_same (m := 0x400004000) (Same.refl _ u) rfl (aCh (pkAddr p))
  have htag : (u.calNext (aCh (pkAddr p))).tag k = newTag q p s.stamp := (hsame.tag rfl k).trans htaken.tag_own
  have hchan := (freeTagOf_spec htaken.free).1
  have hcal := htaken.cal (aCh (pkAddr p))
  refine ⟨u.calNext (aCh (pkAddr p)), ?_, htaken.accepted (hsame.queues rfl) (htag ▸ newTag_names ..), by rw [htag]; rfl,
    fun hidle => ?_, fun hbusy => ?_⟩
  · unfold State.accept State.acceptCalibrate
    rw [ho, htake]
  · have hmem : (k, newTag q p s.stamp) ∈ u.tags := by
      rw [← htaken.tag_own]
      exact mem_of_tag (by rw [htaken.tag_own]; exact fun h => by cases h)
    rw [calNext_only (hcal ▸ hidle) hmem hchan ho rfl rfl fun e he hop hst => ?_]
    · exact ⟨congrArg (fun x : CalUnit => x.queue ++ [aCh (pkAddr p)]) (htaken.rest.calUnit rfl),
        congrArg Cal.tag (calQueue_cal ..), congrArg Cal.apply (calQueue_cal ..)⟩
    · rcases htaken.entry e he with h | h | h
      · exact h
      · rw [h] at hst
        rcases hst with hst | hst <;> cases hst
      · exact absurd hop (honly e h)
  · rw [calNext_busy (hcal ▸ hbusy)]
    exact ⟨hcal, htaken.rest.calUnit rfl⟩

end

end Sys2Proof.Machine
end

section
/-! What the packets on features, parameter pages, targets, routines, surveys and calibration do. -/

namespace Sys2Proof
open Machine

/-- Settles O4, opcode by opcode: the packet takes its tag, and a frame where it needs one, and its work joins the scheduler,
the survey of its channel or the calibration unit. -/
theorem accessPacketsComplete : Obligations.AccessPacketsComplete := by
  unfold Obligations.AccessPacketsComplete
  intro s q p c hnext hc hv
  refine ⟨fun ho => ?_, fun ho => ?_, survey_accepted hnext hc hv, calibrate_accepted hnext hc hv⟩
  · have hplain : ∃ o, pkOpcode p = some o ∧ ¬ o.takesSlot ∧ ∀ v : State, v.accept q p false =
        v.acceptAccess q p (if pkOpcode p = some .resetTarget then .reset else .access) false := by
      rcases ho with ho | ho | ho <;>
        exact ⟨_, ho, by unfold Opcode.takesSlot; decide, fun v => by unfold State.accept; rw [ho]; rfl⟩
    obtain ⟨o, ho, hslot, hkind⟩ := hplain
    obtain ⟨t, k, hexec, haccepted, hst, hframes, w, hw, hkind, hrole, htag, haddr, hwst⟩ :=
      access_plain hnext hc hv ho hslot hkind
    exact ⟨t, k, w, hexec, haccepted, hst, hw, hkind, hrole, htag, haddr, hwst, hframes⟩
  · have hframed : ∃ o, pkOpcode p = some o ∧ ¬ o.takesSlot ∧ o.takesFrame ∧ ∀ v : State, v.accept q p false =
        v.acceptAccess q p (if pkOpcode p = some .runRoutine then .routine else .access) true := by
      rcases ho with ho | ho <;>
        exact ⟨_, ho, by unfold Opcode.takesSlot; decide, by unfold Opcode.takesFrame; decide,
          fun v => by unfold State.accept; rw [ho]; rfl⟩
    obtain ⟨o, ho', hslot, hframe, hkind⟩ := hframed
    obtain ⟨f, hf⟩ := passes_freeFrame hnext hv ho' hframe
    obtain ⟨t, k, hexec, haccepted, htf, hfst, hst, w, hw, hwkind, hwtag, hwframe⟩ :=
      access_framed hnext hc hv ho' hslot hf hkind
    refine ⟨t, k, w, f, hexec, haccepted, hf, htf, hfst, hw, hwkind, hwtag, hwframe, hst.trans ?_⟩
    rcases ho with ho | ho <;> simp [ho]

end Sys2Proof
end

section
/-! SUPPORT. What stays gone while commands end (R64, R100, R101, R117, R119, R197): flash work that has ended, a frame that is
not held, and an accumulator that has been released. -/

namespace Sys2Proof.Machine
open Sys2Proof

/-- From state `s` to state `t`, what is over stays over. -/
structure Winds (s t : State) : Prop where
  work : ∀ id, s.work id = none → t.work id = none
  frame : ∀ f, (s.frame f).st ≠ .held → (t.frame f).st ≠ .held
  acc : ∀ k, s.acc k = Accumulator.init → t.acc k = Accumulator.init

namespace Winds
variable {s t u : State}

theorem refl (s : State) : Winds s s := ⟨fun _ h => h, fun _ h => h, fun _ h => h⟩

theorem trans (h : Winds s t) (h' : Winds t u) : Winds s u :=
  ⟨fun id hid => h'.work id (h.work id hid), fun f hf => h'.frame f (h.frame f hf), fun k hk => h'.acc k (h.acc k hk)⟩

theorem ite {p : Prop} [Decidable p] (ht : Winds s t) (hu : Winds s u) : Winds s (if p then t else u) := by
  split
  · exact ht
  · exact hu

theorem foldl {α : Type} {f : State → α → State} (hf : ∀ t x, Winds s t → Winds s (f t x)) (hk : Winds s t) (l : List α) :
    Winds s (l.foldl f t) := by
  induction l generalizing t with
  | nil => exact hk
  | cons x l ih => exact ih (hf t x hk)

/-- A step that leaves the flash work, the frames and the accumulators. -/
theorem others (hk : Winds s t) (h : Same 0x7FFFFFFB6FFF t u) : Winds s u := by
  refine hk.trans ⟨fun id hid => ?_, fun f hf => ?_, fun k ha => ?_⟩
  · rw [h.work rfl, hid]
  · rw [h.frame rfl]; exact hf
  · rw [h.acc rfl, ha]

end Winds

section
variable {z t : State} (hk : Winds z t)
include hk

/-! The tables. -/

theorem modFrame_winds (f : Nat) (g : Frame → Frame) (hg : ∀ x : Frame, x.st ≠ .held → (g x).st ≠ .held) :
    Winds z (t.modFrame f g) := by
  have hsame : Same 0x8000 t (t.modFrame f g) := modFrame_same (Same.refl _ t) rfl f g
  refine hk.trans ⟨fun id hid => ?_, fun j hj => ?_, fun k ha => ?_⟩
  · rw [hsame.work rfl, hid]
  · rw [modFrame_get]
    split
    · exact hg _ hj
    · exact hj
  · rw [hsame.acc rfl, ha]

theorem modWork_winds (id : Nat) (f : Work → Work) : Winds z (t.modWork id f) := by
  have hsame : Same 0x1000 t (t.modWork id f) := modWork_same (Same.refl _ t) rfl id f
  refine hk.trans ⟨fun j hj => ?_, fun j hj => ?_, fun k ha => ?_⟩
  · rw [modWork_work, hj]
    exact ite_self _
  · rw [hsame.frame rfl]; exact hj
  · rw [hsame.acc rfl, ha]

theorem dropWork_winds (id : Nat) : Winds z (t.dropWork id) := by
  refine hk.trans ⟨fun j hj => ?_, fun _ hj => hj, fun _ ha => ha⟩
  rw [dropWork_work, hj]
  exact ite_self _

theorem modAcc_winds (k : Nat) (f : Accumulator → Accumulator)
    (hf : t.acc k = Accumulator.init → f Accumulator.init = Accumulator.init) : Winds z (t.modAcc k f) := by
  refine hk.trans ⟨fun _ hj => hj, fun _ hj => hj, fun j ha => ?_⟩
  rw [modAcc_get]
  split
  · next h => rw [ha, hf (h ▸ ha)]
  · exact ha

/-! Frames (R196, R197). -/

theorem takeFrame_winds (f : Nat) (o : Option Nat) : Winds z (t.takeFrame f o) :=
  modFrame_winds hk f _ fun _ _ h => by cases h

theorem grantFramesN_winds (fuel n : Nat) : Winds z (t.grantFramesN fuel n) := by
  induction fuel generalizing t n with
  | zero => exact hk
  | succ fuel ih =>
    have hgive : ∀ k f, Winds z (t.giveRebuild k f) := fun k f =>
      (takeFrame_winds hk f _).others (modTag_same (Same.refl _ _) rfl k _)
    unfold State.grantFramesN
    split
    · exact hk
    · split
      · exact hk
      · exact ih (hgive _ _) n
      · next f _ _ _ id w _ =>
        refine Winds.ite (ih (hgive _ _) n) (ih ?_ n)
        have hwork := modWork_winds (takeFrame_winds hk f w.tag) id fun w => { w with frame := some f }
        split
        · exact hwork.others (modTag_same (Same.refl _ _) rfl _ _)
        · exact hwork

theorem freeNow_winds (f : Nat) : Winds z (t.freeNow f) := by
  unfold State.freeNow
  extract_lets n src u v
  have hu : Winds z u := modFrame_winds hk f _ fun x hx => by
    dsimp only
    split
    · exact fun h => by cases h
    · split <;> exact fun h => by cases h
  exact grantFramesN_winds (Winds.ite (hu.others (raise_same (Same.refl _ _) rfl 842)) hu) 64 n

theorem forwardEnded_winds (f : Nat) : Winds z (t.forwardEnded f) := by
  unfold State.forwardEnded
  exact Winds.ite (freeNow_winds hk f) hk

theorem freeF_winds (f : Nat) : Winds z (t.freeF f) := by
  unfold State.freeF State.freeFrame
  exact Winds.ite (modFrame_winds hk f _ fun _ h => h) (freeNow_winds hk f)

/-! Tags settle, and commands commit (R64, R65, R74). -/

theorem freeTag_winds (k : Nat) : Winds z (t.freeTag k) := by
  unfold State.freeTag
  extract_lets x s1 s2 s3
  have h1 : Winds z s1 := (hk.others (tagTo_same (Same.refl _ t) rfl k .free)).others (setTag_same (Same.refl _ _) rfl k _)
  have h2 : Winds z s2 := by
    unfold s2
    split
    · exact h1
    · exact Winds.ite h1 (Winds.ite (freeF_winds h1 _) (Winds.ite (modFrame_winds h1 _ _ fun _ h => h) h1))
  have h3 : Winds z s3 := h2.others (obtSweep_same (Same.refl _ _) rfl)
  exact Winds.ite (h3.others (raiseCarry_same (Same.refl _ _) rfl)) h3

theorem settle_winds (k : Nat) : Winds z (t.settle k) := by
  unfold State.settle
  exact Winds.ite hk (Winds.ite (hk.others (tagTo_same (Same.refl _ t) rfl k .completing)) (freeTag_winds hk k))

theorem entryGone_winds (q : Nat) (c : Completion) : Winds z (t.entryGone q c) := by
  have htraced : Winds z (t.traceCompletion q c) := hk.others (traceCompletion_same (Same.refl _ t) rfl q c)
  unfold State.entryGone
  dsimp only
  split
  · exact settle_winds htraced _
  · exact htraced.others (freeSlot_same (Same.refl _ _) rfl _)
  · exact htraced

theorem pushDone_winds (q : Nat) (c : Completion) : Winds z (t.pushDone q c) := by
  unfold State.pushDone
  exact Winds.ite (entryGone_winds hk q c) (hk.others (modQueue_same (Same.refl _ t) rfl q _))

theorem commitSlot_winds (k : Nat) (st : Status) (info : Nat) : Winds z (t.commitSlot k st info) := by
  unfold State.commitSlot
  exact Winds.ite hk (pushDone_winds (hk.others (setSlot_same (Same.refl _ t) rfl k _)) ..)

theorem resolveAbort_winds (k : Nat) (st : Status) : Winds z (t.resolveAbort k st) := by
  unfold State.resolveAbort
  dsimp only
  split
  · exact hk
  · have htag : Winds z (t.modTag k fun x => { x with abortPending := false, abortSlot := none }) :=
      hk.others (modTag_same (Same.refl _ t) rfl k _)
    exact Winds.ite (commitSlot_winds htag ..) (commitSlot_winds htag ..)

theorem fixLevels_winds (id : Nat) : Winds z (t.fixLevels id) := by
  unfold State.fixLevels
  split
  · exact hk
  · exact Winds.ite hk (modWork_winds (hk.others (lookupBase_same (Same.refl _ t) rfl _ _)) id _)

theorem fallBack_winds (f : Nat) : Winds z (t.fallBack f) := by
  unfold State.fallBack
  refine grantFramesN_winds (Winds.foldl (fun u id hu => ?_) hk _) 64 _
  refine fixLevels_winds (modWork_winds ?_ id _) id
  split
  · split
    · exact hu.others (fallBackTag_same (Same.refl _ u) rfl _)
    · exact hu
  · exact hu

theorem unbind_winds (f : Nat) : Winds z (t.unbind f) := modFrame_winds hk f _ fun _ h => h

theorem bindFrame_winds (f : Nat) (a : Addr) (stamp : Nat) : Winds z (t.bindFrame f a stamp) := by
  unfold State.bindFrame
  exact modFrame_winds hk f _ fun _ h => h

/-- The commit of a contribution leaves an accumulator that holds nothing (R117). -/
theorem commitAcc_winds (x : Tag) (st : Status) : Winds z (t.commitAcc x st) := by
  unfold State.commitAcc
  split
  · exact hk
  · next k _ =>
    dsimp only
    split
    · next hm =>
      refine Winds.ite (modAcc_winds hk k _ fun ha => ?_) hk
      rw [ha] at hm
      simp [Accumulator.init, bitOf] at hm
    · exact modAcc_winds hk k _ fun _ => by simp [Accumulator.init]

theorem commitTag_winds (k : Nat) (st : Status) (info : Word) : Winds z (t.commitTag k st info) := by
  unfold State.commitTag
  extract_lets x st' s1 src s2 s3 unbinds s4
  have h1 : Winds z s1 := commitAcc_winds hk x st'
  have h2 : Winds z s2 := h1.others (setTag_same (Same.refl _ s1) rfl k _)
  have h3 : Winds z s3 := resolveAbort_winds h2 k st'
  have h4 : Winds z s4 := Winds.foldl (fun u f hu => Winds.ite (fallBack_winds (unbind_winds hu f) f)
    (Winds.ite hu (fallBack_winds hu f))) h3 _
  exact Winds.ite hk (Winds.ite h4 (Winds.ite (h4.others (addCarry_same (Same.refl _ s4) rfl ..)) (pushDone_winds h4 ..)))

/-! What waits for the end of a command (R71, R100, R101). -/

theorem endTag0_winds (k : Nat) : Winds z (t.endTag0 k) := by
  unfold State.endTag0
  extract_lets x s1 s2
  have h1 : Winds z s1 := hk.others (modTag_same (Same.refl _ t) rfl k _)
  refine settle_winds ?_ k
  unfold s2
  split
  · exact Winds.ite (forwardEnded_winds h1 _) h1
  · exact h1

theorem serveForward_winds (id : Nat) : Winds z (t.serveForward id) := by
  unfold State.serveForward
  split
  · exact hk
  · split
    · exact Winds.ite ((dropWork_winds hk id).others (tagTo_same (Same.refl _ _) rfl _ .delivering))
        ((modWork_winds hk id _).others (tagTo_same (Same.refl _ _) rfl _ .decoding))
    · exact modWork_winds hk id _

theorem takeForwards_winds (f : Nat) (a : Addr) (stamp : Nat) : Winds z (t.takeForwards f a stamp) := by
  unfold State.takeForwards
  refine Winds.foldl (fun u id hu => ?_) hk _
  split
  · exact hu
  · next w _ =>
    extract_lets s1 s2 s3 s4
    have h1 : Winds z s1 := by
      unfold s1
      split
      · exact hu.others (modTag_same (Same.refl _ u) rfl _ _)
      · exact hu
    have h2 : Winds z s2 := modWork_winds (h1.others (withdraw_same (Same.refl _ _) rfl id)) id _
    have h3 : Winds z s3 :=
      (h2.others (releaseUnused_same (Same.refl _ _) rfl id)).others (count_same (Same.refl _ _) rfl ..)
    refine serveForward_winds ?_ id
    unfold s4
    split
    · exact freeF_winds h3 _
    · exact h3

theorem rewriteFrame_winds (f : Nat) (infos : List (List Byte)) (a : Addr) (size : Nat) (quarter : Bool) (level : Nat) :
    Winds z (t.rewriteFrame f infos a size quarter level) := by
  unfold State.rewriteFrame
  split
  · exact modFrame_winds hk f _ fun _ h => h
  · exact modFrame_winds (hk.others (putCodes_same (Same.refl _ t) rfl ..)) f _ fun _ h => h

theorem releaseOne_winds (f : Nat) : Winds z (t.releaseOne f) := by
  unfold State.releaseOne
  split
  · exact hk
  · next k _ =>
    extract_lets x freed s1 s2 s3
    refine Winds.ite hk (Winds.ite ?_ (Winds.ite ?_ hk))
    · have hfreed := freeF_winds (hk.others (dropDeferred_same (Same.refl _ t) rfl f)) f
      exact endTag0_winds (commitTag_winds (hfreed.others (modTag_same (Same.refl _ _) rfl k _)) k .success 0) k
    · have h1 : Winds z s1 := modFrame_winds hk f _ fun _ h => h
      have h2 : Winds z s2 := rewriteFrame_winds h1 ..
      have h3 : Winds z s3 := takeForwards_winds (bindFrame_winds h2 ..) ..
      exact endTag0_winds (h3.others (modTag_same (Same.refl _ _) rfl k _)) k

theorem endTag_winds (k : Nat) : Winds z (t.endTag k) :=
  Winds.foldl (fun _ f hu => releaseOne_winds hu f) (endTag0_winds hk k) _

theorem finish_winds (k : Nat) (st : Status) (info : Nat) : Winds z (t.finish k st info) :=
  endTag_winds (commitTag_winds hk k st _) k

end

end Sys2Proof.Machine
end

section
/-! SUPPORT. STRIPE_PARITY as the interpreter accepts it (R116, R118, R119, R201, R251). -/

namespace Sys2Proof.Machine
open Sys2Proof

/-! An accumulator is released (R119). -/

/-- No tag: what ends ends no command. -/
def noTag : Nat → Prop := fun _ => False

theorem SMap.get_map {α : Type} (f : α → α) (m : SMap α) (k : Nat) :
    SMap.get (m.map fun e => (e.1, f e.2)) k = (SMap.get m k).map f := by
  induction m with
  | nil => rfl
  | cons e m ih =>
    rw [List.map_cons]
    unfold SMap.get
    split
    · rfl
    · exact ih

/-- A tag without its link to accumulator `k`. -/
def Tag.unlinked (k : Nat) (x : Tag) : Tag := if x.accLink = some k then { x with accLink := none } else x

theorem Tag.unlinked_goesOn (k : Nat) (x : Tag) : x.goesOn (x.unlinked k) := by
  unfold Tag.unlinked
  split <;> exact .refl _

/-- The links of the tags to accumulator `k` end. -/
def State.accUnlinked (s : State) (k : Nat) : State :=
  { s with tags := s.tags.map (fun e => if e.2.accLink = some k then (e.1, { e.2 with accLink := none }) else e) }

theorem accUnlinked_tag (s : State) (k j : Nat) : (s.accUnlinked k).tag j = (s.tag j).unlinked k := by
  have hmap : (s.accUnlinked k).tags = s.tags.map fun e => (e.1, e.2.unlinked k) := by
    refine List.map_congr_left fun e _ => ?_
    unfold Tag.unlinked
    split <;> rfl
  unfold State.tag SMap.getD
  rw [hmap, SMap.get_map]
  cases SMap.get s.tags j <;> rfl

theorem accUnlinked_same {m : Nat} {z t : State} (hk : Same m z t) (h : 0x400 ||| m = m) (k : Nat) :
    Same m z (t.accUnlinked k) := by
  unfold State.accUnlinked
  apply Same.lit hk (h_tags := mayDiffer h rfl) <;> exact fun _ => rfl

theorem releaseAcc_eq (s : State) (k : Nat) : s.releaseAcc k = [(s.acc k).pFrame, (s.acc k).qFrame].foldl
    (fun (s : State) f =>
      match f with
      | some f => if (s.frame f).st == .inUse then s.freeF f else s
      | none => s)
    ((s.acc k).adding.foldl (fun (s : State) t => (s.modTag t (fun x => { x with adding := false })).settle t)
      ((s.setAcc k Accumulator.init).accUnlinked k)) := rfl

/-- No command ends with the release of an accumulator. -/
theorem releaseAcc_endsNone (s : State) (k : Nat) : Ends noTag s (s.releaseAcc k) := by
  have h1 : Ends noTag s (s.setAcc k Accumulator.init) := (Ends.refl noTag s).others (setAcc_same (Same.refl _ s) rfl k _)
  have h2 : Ends noTag s ((s.setAcc k Accumulator.init).accUnlinked k) := by
    refine h1.tags (accUnlinked_same (Same.refl _ _) rfl k) fun j _ => ?_
    rw [accUnlinked_tag]
    exact Tag.unlinked_goesOn k _
  rw [releaseAcc_eq]
  refine Ends.foldl (fun u o hu => ?_) (Ends.foldl (fun u j hu => ?_) h2 _) _
  · split
    · exact Ends.ite (freeF_ends hu _) hu
    · exact hu
  · exact settle_ends (modTag_ends hu j (fun x => { x with adding := false }) fun _ => .refl _) j

theorem releaseAcc_acc (s : State) (k : Nat) : (s.releaseAcc k).acc k = Accumulator.init := by
  have hinit : ((s.setAcc k Accumulator.init).accUnlinked k).acc k = Accumulator.init := by
    rw [(accUnlinked_same (m := 0x400) (Same.refl _ _) rfl k).acc rfl, setAcc_get, if_pos rfl]
  have hwinds : Winds ((s.setAcc k Accumulator.init).accUnlinked k) (s.releaseAcc k) := by
    rw [releaseAcc_eq]
    refine Winds.foldl (fun u o hu => ?_) (Winds.foldl (fun u j hu => ?_) (Winds.refl _) _) _
    · split
      · exact Winds.ite (freeF_winds hu _) hu
      · exact hu
    · exact settle_winds (hu.others (modTag_same (Same.refl _ u) rfl j _)) j
  exact hwinds.acc k hinit

/-! A close finds its entries of the open-block table (R118, R155, R448). -/

/-- A close waits for the open-block table. -/
def State.closeWaits (s : State) (p : Packet) : Bool :=
  let a := s.acc (pkByte p 49)
  let two := a.count == 2
  let qEntry := if two then (s.obtFind a.qAddr).toList else []
  let fits := match s.obtTake a.pAddr qEntry with
    | none => false
    | some e => !two || (s.obtTake a.qAddr [e]).isSome
  (s.obtBlocked (aIdx a.pAddr) || (two && s.obtBlocked (aIdx a.qAddr))) || !fits

theorem HeadTaken.closeWaits {s v : State} {q : Nat} (h : HeadTaken s v q) (p : Packet) : v.closeWaits p = s.closeWaits p := by
  rw [h.rest.eq_of_parse]
  rfl

theorem acceptClose_waits {s : State} {p : Packet} (h : s.closeWaits p = true) (q : Nat) : s.acceptClose q p = none := by
  unfold State.acceptClose
  exact if_pos h

/-- The program of the only page of a closing accumulator. -/
def closeWork (a : Accumulator) (k stamp f : Nat) : Work :=
  { Work.new .program .pPage a.pAddr (some k) stamp with
    frame := some f, level := a.level, pageSize := a.pageSize, length := pageBytes a.pageSize false a.level }

/-- Accumulator `n`, which is `a`, closes with one page for tag `k`. -/
def State.closeOne (s : State) (n k f : Nat) (a : Accumulator) : State :=
  let stamp := (s.tag k).stamp
  let advance := s.tick.1
  let s := s.tick.2.setAcc n { a with st := .closing, closeTag := some k, pDone := false, qDone := false }
  (((s.obtAdvanceAt a.pAddr [] advance).clearFrame f).bindFrame f a.pAddr stamp).addOwn (closeWork a k stamp f)

theorem acceptClose_one {v u : State} {q k f : Nat} {p : Packet} (hfits : v.closeWaits p = false)
    (hcount : (v.acc (pkByte p 49)).count = 1) (hf : (v.acc (pkByte p 49)).pFrame = some f)
    (htake : v.takeTag q p = some (k, u)) :
    v.acceptClose q p = some (u.closeOne (pkByte p 49) k f (v.acc (pkByte p 49))) := by
  have htwo : ((v.acc (pkByte p 49)).count == 2) = false := by rw [hcount]; rfl
  unfold State.acceptClose
  refine (if_neg (ne_true_of_eq_false hfits)).trans ?_
  unfold State.closeOne
  dsimp only
  rw [htwo, htake, hf]
  rfl

theorem bindFrame_bind (s : State) (f : Nat) (a : Addr) (stamp : Nat) :
    ((s.bindFrame f a stamp).frame f).bind = some (pageOf a) := by
  unfold State.bindFrame
  dsimp only
  rw [modFrame_get, if_pos rfl]
  rfl

/-- What a close with one page leaves: the accumulator, the program and the binding of its frame (R118, R201). -/
theorem closeOne_spec (s : State) (n k f : Nat) (a : Accumulator) : Same 0x3390800f9010 s (s.closeOne n k f a) ∧
    (s.closeOne n k f a).acc n = { a with st := .closing, closeTag := some k, pDone := false, qDone := false } ∧
    (s.closeOne n k f a).work s.nextWork = some (closeWork a k (s.tag k).stamp f) ∧
    ((s.closeOne n k f a).frame f).bind = some (pageOf a.pAddr) := by
  unfold State.closeOne
  extract_lets stamp advance s1
  have h1 : Same 0x100000040000 s s1 := setAcc_same (tick_same (Same.refl _ s) rfl) rfl n _
  have hframed : ∀ {m z}, Same m z s1 → 0x1390800b8010 ||| m = m →
      Same m z (((s1.obtAdvanceAt a.pAddr [] advance).clearFrame f).bindFrame f a.pAddr stamp) := fun h hm =>
    bindFrame_same (clearFrame_same (obtAdvanceAt_same h (up hm rfl) _ _ _) (up hm rfl) f) (up hm rfl) f _ _
  have hbind : ((((s1.obtAdvanceAt a.pAddr [] advance).clearFrame f).bindFrame f a.pAddr stamp).frame f).bind =
      some (pageOf a.pAddr) := bindFrame_bind ..
  have hnext : (((s1.obtAdvanceAt a.pAddr [] advance).clearFrame f).bindFrame f a.pAddr stamp).nextWork = s.nextWork :=
    (hframed (m := 0x1390800b8010) (Same.refl _ s1) rfl).nextWork rfl
  have hacc := (hframed (m := 0x1390800b8010) (Same.refl _ s1) rfl).acc rfl n
  refine ⟨addOwn_same (hframed (setAcc_same (tick_same (Same.refl _ s) rfl) rfl n _) rfl) rfl _, ?_, ?_, ?_⟩
  · rw [(addOwn_same (m := 0x200000001000) (Same.refl _ _) rfl _).acc rfl, hacc]
    unfold s1
    rw [setAcc_get, if_pos rfl]
  · rw [← hnext]
    exact addOwn_work_new ..
  · rw [(addOwn_same (m := 0x200000001000) (Same.refl _ _) rfl _).frame rfl]
    exact hbind

section
variable {s : State} {q : Nat} {p : Packet} {c : Instr} (hnext : parsesNext s q p) (hc : parses c q p)
  (hv : s.verdict q p = .pass false) (ho : pkOpcode p = some .stripeParity)
include hnext hc hv ho

theorem open_accepted (hmode : pkByte p 48 = 0) : ∃ t k, exec c s = .next t ∧ accepted s t q p k ∧ (t.tag k).st = .queued ∧
    (t.tag k).sdPending = true ∧ (t.tag k).sdBytes = [] ∧ (t.tag k).sd = none ∧ t.accs = s.accs ∧ t.frames = s.frames := by
  refine passes_tagged hnext hc hv ho (by unfold Opcode.takesSlot; decide) (fun _ _ _ h => h) fun v u k hhead htake htaken => ?_
  have hsame : Same 0x400 u (u.modTag k fun x => { x with sdPending := true, sdBytes := [], sd := none }) :=
    modTag_same (Same.refl _ u) rfl k _
  have htag : (u.modTag k fun x => { x with sdPending := true, sdBytes := [], sd := none }).tag k =
      { newTag q p s.stamp with sdPending := true, sdBytes := [], sd := none } := by
    rw [modTag_get, if_pos rfl, htaken.tag_own]
  refine ⟨_, ?_, htaken.accepted (hsame.queues rfl) (htag ▸ newTag_names q p s.stamp), by rw [htag]; rfl, by rw [htag],
    by rw [htag], by rw [htag], (hsame.accs rfl).trans (htaken.rest.accs rfl), (hsame.frames rfl).trans (htaken.rest.frames rfl)⟩
  unfold State.accept State.acceptOpen
  rw [ho]
  dsimp only
  rw [if_pos hmode, htake]

theorem close_accepted (hmode : pkByte p 48 = 1) {f : Nat} (hf : (s.acc (pkByte p 49)).pFrame = some f)
    (hcount : (s.acc (pkByte p 49)).count = 1) : ∃ t k, exec c s = .next t ∧ accepted s t q p k ∧ (t.tag k).st = .queued ∧
      (t.acc (pkByte p 49)).st = .closing ∧ (t.acc (pkByte p 49)).closeTag = some k ∧
      (t.frame f).bind = some (pageOf (s.acc (pkByte p 49)).pAddr) ∧
      ∃ w, t.work s.nextWork = some w ∧ w.kind = .program ∧ w.role = .pPage ∧ w.tag = some k ∧ w.frame = some f ∧
        w.addr = (s.acc (pkByte p 49)).pAddr := by
  have haccept : ∀ v : State, v.accept q p false = v.acceptClose q p := fun v => by
    unfold State.accept
    rw [ho]
    dsimp only
    rw [if_neg (by omega), if_pos hmode]
  have hfits : s.closeWaits p = false := by
    obtain ⟨w, hhead, hsome⟩ := passes_fits hnext hv
    by_contra hw
    rw [haccept, acceptClose_waits ((hhead.closeWaits p).trans (Bool.eq_true_of_not_eq_false hw))] at hsome
    cases hsome
  refine passes_tagged hnext hc hv ho (by unfold Opcode.takesSlot; decide) (fun _ _ _ h => h) fun v u k hhead htake htaken => ?_
  have hacc := hhead.rest.acc rfl (pkByte p 49)
  obtain ⟨hsame, hclosing, hwork, hbind⟩ := closeOne_spec u (pkByte p 49) k f (v.acc (pkByte p 49))
  have htag := (hsame.tag rfl k).trans htaken.tag_own
  rw [htaken.nextWork] at hwork
  rw [hacc] at hclosing hwork hbind
  refine ⟨_, (haccept v).trans (acceptClose_one ((hhead.closeWaits p).trans hfits) (hacc ▸ hcount) (hacc ▸ hf) htake), ?_⟩
  rw [hacc]
  rw [hacc] at hsame htag
  exact ⟨htaken.accepted (hsame.queues rfl) (htag ▸ newTag_names q p s.stamp), by rw [htag]; rfl, by rw [hclosing],
    by rw [hclosing], hbind, _, hwork, rfl, rfl, rfl, rfl, rfl⟩

theorem discard_accepted (hmode : pkByte p 48 = 2) (hd : (s.queue q).discard = false) : ∃ t k, exec c s = .next t ∧
    s.freeTagOf (aCh (pkAddr p)) = some k ∧ dueFor t q k .success 0 ∧ t.acc (pkByte p 49) = Accumulator.init := by
  refine passes_tagged hnext hc hv ho (by unfold Opcode.takesSlot; decide) (fun _ _ _ h => h) fun v u k hhead htake htaken => ?_
  have hlive := htaken.liveTag hd
  have hop : (u.tag k).opcode ≠ some .releaseFrame := by
    rw [htaken.tag_own]
    show pkOpcode p ≠ _
    rw [ho]
    decide
  obtain ⟨hlive', hsqid⟩ := (releaseAcc_endsNone u (pkByte p 49)).liveTag id hop hlive
  have hdue := commitTag_due hlive' .success 0
  rw [hsqid, htaken.tag_own] at hdue
  refine ⟨_, ?_, htaken.free, (endTag_ends (Ends.refl anyTag _) k).dueFor hdue,
    (finish_winds (Winds.refl _) k .success 0).acc _ (releaseAcc_acc u (pkByte p 49))⟩
  unfold State.accept State.acceptDiscard
  rw [ho]
  dsimp only
  rw [if_neg (by omega), if_neg (by omega), htake]
  rfl

end

end Sys2Proof.Machine
end

section
/-! What STRIPE_PARITY does. -/

namespace Sys2Proof
open Machine

/-- Settles O6, mode by mode: an open waits for its descriptor, a close binds the page and programs it, and a discard releases
the accumulator and commits. -/
theorem stripePacketsComplete : Obligations.StripePacketsComplete := by
  unfold Obligations.StripePacketsComplete
  intro s q p c hnext hc hv ho
  refine ⟨open_accepted hnext hc hv ho, fun f hmode hf hcount => ?_, discard_accepted hnext hc hv ho⟩
  obtain ⟨t, k, hexec, haccepted, hst, hclosing, hclose, hbind, w, hw, hkind, hrole, htag, hframe, haddr⟩ :=
    close_accepted hnext hc hv ho hmode hf hcount
  exact ⟨t, k, w, hexec, haccepted, hst, hclosing, hclose, hw, hkind, hrole, htag, hframe, haddr, hbind⟩

end Sys2Proof
end

section
/-! SUPPORT. Reads as the interpreter accepts them: with a frame of their own, from the frame of a program, or to rebuild (R71,
R83, R85, R86, R88, R196, R203). -/

namespace Sys2Proof.Machine
open Sys2Proof

/-! The frame that serves a read (R71, R203). -/

theorem forwardFrame_unbound {s : State} {a : Addr} (h : unboundPage s a) (stamp : Nat) : s.forwardFrame a stamp = none := by
  unfold State.forwardFrame
  dsimp only
  rw [List.filter_eq_nil_iff.2 fun f _ hw => ?_]
  · rfl
  · simp only [Bool.and_eq_true, beq_iff_eq] at hw
    exact h f hw.1.1

theorem releasing_unnamed {s : State} {f : Nat} (h : (s.frame f).named = none) : s.releasing f = false := by
  unfold State.releasing
  rw [h]

/-- The only frame that is bound to a page serves its reads while it is held. -/
theorem forwardFrame_held {s : State} {a : Addr} {f : Nat} (hchan : f / 64 = aCh a)
    (hbind : (s.frame f).bind = some (pageOf a)) (hheld : (s.frame f).st = .held) (hnamed : (s.frame f).named = none)
    (honly : ∀ g, (s.frame g).bind = some (pageOf a) → g = f) (stamp : Nat) : s.forwardFrame a stamp = some f := by
  have hn : afld a 11 4 = f / 64 := hchan.symm
  have hpage : BitVec.ofNat 64 (putBits a.toNat 15 14 0) = pageOf a := rfl
  unfold State.forwardFrame
  dsimp only
  rw [hn, hpage]
  generalize hl : (countUp (64 * (f / 64)) 64).filter _ = l
  have hin : f ∈ l := hl ▸ List.mem_filter.2
    ⟨mem_countUp.2 (by omega), by simp [hbind, hheld, releasing_unnamed hnamed]⟩
  obtain ⟨g, hg⟩ := leastBy_some (fun f => 2 ^ 64 - (s.frame f).bindStamp) (List.ne_nil_of_mem hin)
  have hmem := leastBy_mem hg
  rw [← hl] at hmem
  have hw := (List.mem_filter.1 hmem).2
  simp only [Bool.and_eq_true, beq_iff_eq] at hw
  rw [hg, honly g hw.1.1]

/-! The flash work of a read. -/

/-- A read of tag `k` on its own page, as packet `p` asks for it. -/
def Work.readsFor (w : Work) (k : Nat) (p : Packet) : Prop :=
  w.kind = .read ∧ w.role = .own ∧ w.tag = some k ∧ w.st = .waiting ∧ w.addr = pkAddr p ∧
    w.raw = decide (pkOpcode p = some .readRaw)

theorem readWork_spec (s : State) (k : Nat) (p : Packet) : (s.readWork k p).1.readsFor k p := by
  unfold State.readWork Work.readsFor
  dsimp only
  split
  · next h => exact ⟨rfl, rfl, rfl, rfl, rfl, by rw [h]; rfl⟩
  · next h => exact ⟨rfl, rfl, rfl, rfl, rfl, by rw [h]; rfl⟩
  · next h _ => exact ⟨rfl, rfl, rfl, rfl, rfl, (decide_eq_false h).symm⟩

/-- The lookup of a read's levels moves nothing else of the flash work. -/
def Work.leveled (w v : Work) : Prop :=
  v = { w with base := v.base, cold := v.cold, coldStep := v.coldStep, steps := v.steps, lastAttempt := v.lastAttempt }

theorem fixLevels_work {s : State} {j : Nat} {w : Work} (h : s.work j = some w) (id : Nat) :
    ∃ v, (s.fixLevels id).work j = some v ∧ w.leveled v := by
  unfold State.fixLevels
  split
  · exact ⟨w, h, rfl⟩
  · split
    · exact ⟨w, h, rfl⟩
    · dsimp only
      rw [modWork_work, (lookupBase_same (m := 0x39880400010) (Same.refl _ s) rfl _ _).work rfl, h]
      split
      · exact ⟨_, rfl, rfl⟩
      · exact ⟨w, rfl, rfl⟩

/-! A read with a frame of its own (R83, R196). -/

/-- A read of tag `k` takes frame `f` and joins the scheduler. -/
def State.beginRead (s : State) (k f : Nat) (p : Packet) : State :=
  let r := (s.tagFrame k f).readWork k p
  let j := r.2.addWork { r.1 with frame := some f }
  j.2.fixLevels j.1

theorem beginRead_spec (s : State) (k f : Nat) (p : Packet) : Same 0x239880409410 s (s.beginRead k f p) ∧
    (s.beginRead k f p).tag k = { s.tag k with frame := some f } ∧ ((s.beginRead k f p).frame f).st = .inUse ∧
    ((s.beginRead k f p).frame f).owner = some k ∧
    ∃ w, (s.beginRead k f p).work s.nextWork = some w ∧ w.readsFor k p ∧ w.frame = some f := by
  unfold State.beginRead
  dsimp only
  have hsame : ∀ {m z}, Same m z (s.tagFrame k f) → 0x239880401010 ||| m = m → ∀ w id,
      Same m z ((((s.tagFrame k f).readWork k p).2.addWork w).2.fixLevels id) := fun h hm w id =>
    fixLevels_same (addWork_same (readWork_same h (up hm rfl) k p) (up hm rfl) w) (up hm rfl) id
  have hread : Same 0x39880408410 s ((s.tagFrame k f).readWork k p).2 :=
    readWork_same (tagFrame_same (Same.refl _ s) rfl k f) rfl k p
  obtain ⟨hkind, hrole, htag, hst, haddr, hraw⟩ := readWork_spec (s.tagFrame k f) k p
  generalize hr : (s.tagFrame k f).readWork k p = r at *
  have hwork : ((r.2.addWork { r.1 with frame := some f }).2).work s.nextWork = some { r.1 with frame := some f } := by
    rw [addWork_work, hread.nextWork rfl, if_pos rfl]
  obtain ⟨v, hv, hlevel⟩ := fixLevels_work hwork (r.2.addWork { r.1 with frame := some f }).1
  have hall := hsame (m := 0x239880401010) (Same.refl _ _) rfl { r.1 with frame := some f }
    (r.2.addWork { r.1 with frame := some f }).1
  refine ⟨hsame (tagFrame_same (Same.refl _ s) rfl k f) rfl _ _, ?_, ?_, ?_, v, hv, ?_, ?_⟩
  · rw [hall.tag rfl, tagFrame_tag, if_pos rfl]
  · rw [hall.frame rfl, tagFrame_frame, if_pos rfl]
  · rw [hall.frame rfl, tagFrame_frame, if_pos rfl]
  · rw [hlevel]
    exact ⟨hkind, hrole, htag, hst, haddr, hraw⟩
  · rw [hlevel]

section
variable {v u : State} {q k : Nat} {p : Packet} (htake : v.takeTag q p = some (k, u))
include htake

theorem acceptRead_rebuild {absent : Bool} (h : absent = true ∨ pkOpcode p = some .readRebuild) :
    v.acceptRead q p absent = some (u.toRebuild k) := by
  unfold State.acceptRead
  rw [htake]
  exact if_pos (by simpa using h)

variable (ho : pkOpcode p ≠ some .readRebuild)
include ho

theorem acceptRead_own {f : Nat} (hnone : u.forwardFrame (pkAddr p) (u.tag k).stamp = none)
    (hf : u.freeFrameOf (aCh (pkAddr p)) = some f) : v.acceptRead q p false = some (u.beginRead k f p) := by
  unfold State.acceptRead
  rw [htake]
  dsimp only
  rw [if_neg (by simp [ho]), hnone]
  dsimp only
  rw [hf]
  rfl

theorem acceptRead_noFrame (hnone : u.forwardFrame (pkAddr p) (u.tag k).stamp = none)
    (hf : u.freeFrameOf (aCh (pkAddr p)) = none) : v.acceptRead q p false = none := by
  unfold State.acceptRead
  rw [htake]
  dsimp only
  rw [if_neg (by simp [ho]), hnone]
  dsimp only
  rw [hf]

end

/-! A read from the frame of a program (R71, R86). -/

/-- A read of tag `k` is forwarded from frame `f`. -/
def State.forwardRead (s : State) (k f : Nat) (p : Packet) : State :=
  let r := s.readWork k p
  let s := (r.2.addOwn { r.1 with forward := true, frame := some f }).modTag k
    (fun x => { x with forwarded := true, frame := some f })
  (s.count (aCh (pkAddr p)) 30 1).wakeForwards f

theorem acceptRead_forwards {v u : State} {q k f : Nat} {p : Packet} (htake : v.takeTag q p = some (k, u))
    (ho : pkOpcode p ≠ some .readRebuild) (hf : u.forwardFrame (pkAddr p) (u.tag k).stamp = some f) :
    v.acceptRead q p false = some (u.forwardRead k f p) := by
  unfold State.acceptRead
  rw [htake]
  dsimp only
  rw [if_neg (by simp [ho]), hf]
  rfl

/-- A read that is served from a frame changes the state of its tag alone. -/
theorem serveForward_tag (s : State) (id j : Nat) :
    (s.serveForward id).tag j = { s.tag j with st := ((s.serveForward id).tag j).st } := by
  have hto : ∀ (u : State) k st, u.tag j = s.tag j → (u.tagTo k st).tag j = { s.tag j with st := ((u.tagTo k st).tag j).st } :=
    fun u k st hu => by
      rw [tagTo_tag]
      split
      · next h => subst h; rw [hu]
      · rw [hu]
  have hwork : ∀ f, (s.modWork id f).tag j = s.tag j := fun f => (modWork_same (m := 0x1000) (Same.refl _ s) rfl id f).tag rfl j
  unfold State.serveForward
  split
  · rfl
  · split
    · split
      · exact hto _ _ _ rfl
      · exact hto _ _ _ (hwork _)
    · rw [hwork]

theorem wakeForwards_tag (s : State) (f j : Nat) :
    (s.wakeForwards f).tag j = { s.tag j with st := ((s.wakeForwards f).tag j).st } := by
  have hfold : ∀ (l : List Nat) (u : State), u.tag j = { s.tag j with st := (u.tag j).st } →
      (l.foldl (fun s id => s.serveForward id) u).tag j =
        { s.tag j with st := ((l.foldl (fun s id => s.serveForward id) u).tag j).st } := by
    intro l
    induction l with
    | nil => exact fun _ hu => hu
    | cons id l ih => exact fun u hu => ih _ (by rw [serveForward_tag, hu])
  unfold State.wakeForwards
  split
  · rfl
  · exact hfold _ s rfl

theorem forwardRead_spec (s : State) (k f : Nat) (p : Packet) : Same 0x239880401410 s (s.forwardRead k f p) ∧
    ∃ st, (s.forwardRead k f p).tag k = { s.tag k with forwarded := true, frame := some f, st := st } := by
  unfold State.forwardRead
  extract_lets r src s1
  have h1 : Same 0x239880401410 s s1 :=
    modTag_same (addOwn_same (readWork_same (Same.refl _ s) rfl k p) rfl _) rfl k _
  have htag : (s1.count (aCh (pkAddr p)) 30 1).tag k = { s.tag k with forwarded := true, frame := some f } := by
    rw [(count_same (m := 0x38000000010) (Same.refl _ s1) rfl ..).tag rfl]
    unfold s1
    rw [modTag_get, if_pos rfl, (addOwn_same (m := 0x239880401010) (readWork_same (Same.refl _ s) rfl k p) rfl _).tag rfl]
  refine ⟨wakeForwards_same (count_same h1 rfl ..) rfl f,
    (((s1.count (aCh (pkAddr p)) 30 1).wakeForwards f).tag k).st, ?_⟩
  rw [wakeForwards_tag, htag]

/-! A read that goes to rebuild (R83, R88). -/

theorem toRebuild_tag (s : State) (k : Nat) : ((s.toRebuild k).tag k).st = .decoding ∧
    ((s.toRebuild k).tag k).sdPending = true ∧ ∀ q p, (s.tag k).names q p → ((s.toRebuild k).tag k).names q p := by
  unfold State.toRebuild
  dsimp only
  rw [tagTo_tag, if_pos rfl, modTag_get, if_pos rfl]
  exact ⟨rfl, rfl, fun _ _ h => h⟩

section
variable {s : State} {q : Nat} {p : Packet} {c : Instr} (hnext : parsesNext s q p) (hc : parses c q p)
include hnext hc

theorem rebuild_accepted {o : Opcode} {absent : Bool} (ho : pkOpcode p = some o) (hslot : ¬ o.takesSlot)
    (hv : s.verdict q p = .pass absent) (haccept : ∀ v : State, v.accept q p absent = v.acceptRead q p absent)
    (h : absent = true ∨ pkOpcode p = some .readRebuild) :
    ∃ t k, exec c s = .next t ∧ accepted s t q p k ∧ (t.tag k).st = .decoding ∧ (t.tag k).sdPending = true ∧
      t.works = s.works ∧ t.frames = s.frames := by
  refine passes_tagged hnext hc hv ho hslot (fun _ _ _ h => h) fun v u k hhead htake htaken => ?_
  have hsame := toRebuild_same (m := 0x8000000410) (Same.refl _ u) rfl k
  obtain ⟨hst, hsd, hnames⟩ := toRebuild_tag u k
  exact ⟨_, (haccept v).trans (acceptRead_rebuild htake h), htaken.accepted (hsame.queues rfl)
    (hnames q p (htaken.tag_own ▸ newTag_names ..)), hst, hsd, (hsame.works rfl).trans (htaken.rest.works rfl),
    (hsame.frames rfl).trans (htaken.rest.frames rfl)⟩

variable {o : Opcode} (ho : pkOpcode p = some o) (hslot : ¬ o.takesSlot) (hv : s.verdict q p = .pass false)
  (haccept : ∀ v : State, v.accept q p false = v.acceptRead q p false) (hread : pkOpcode p ≠ some .readRebuild)
include ho hslot hv haccept hread

theorem read_accepted (hfree : unboundPage s (pkAddr p)) : ∃ t k f, exec c s = .next t ∧ accepted s t q p k ∧
    (t.tag k).st = .queued ∧ s.freeFrameOf (aCh (pkAddr p)) = some f ∧ (t.tag k).frame = some f ∧
    (t.frame f).st = .inUse ∧ (t.frame f).owner = some k ∧
    ∃ w, t.work s.nextWork = some w ∧ w.readsFor k p ∧ w.frame = some f := by
  have hunbound : ∀ {u : State}, (∀ g, u.frame g = s.frame g) → unboundPage u (pkAddr p) := fun hu g => by
    rw [hu]
    exact hfree g
  have hframe : ∃ f, s.freeFrameOf (aCh (pkAddr p)) = some f := by
    obtain ⟨w, hhead, hsome⟩ := passes_fits hnext hv
    cases hk : w.freeTagOf (aCh (pkAddr p)) with
    | none =>
      rw [accept_noTag ho hslot hk] at hsome
      cases hsome
    | some k =>
      obtain ⟨u, htake, htaken⟩ := takeTag_takes hk q
      have hrest := (hhead.taken htaken).rest
      cases hf : s.freeFrameOf (aCh (pkAddr p)) with
      | some f => exact ⟨f, rfl⟩
      | none =>
        rw [haccept, acceptRead_noFrame htake hread (forwardFrame_unbound (hunbound fun g => hrest.frame rfl g) _)
          ((hrest.freeFrameOf rfl _).trans hf)] at hsome
        cases hsome
  obtain ⟨f, hf⟩ := hframe
  have hruns : ∃ t k, exec c s = .next t ∧ accepted s t q p k ∧ (t.tag k).st = .queued ∧ (t.tag k).frame = some f ∧
      (t.frame f).st = .inUse ∧ (t.frame f).owner = some k ∧
      ∃ w, t.work s.nextWork = some w ∧ w.readsFor k p ∧ w.frame = some f := by
    refine passes_tagged hnext hc hv ho hslot (fun _ _ _ h => h) fun v u k hhead htake htaken => ?_
    obtain ⟨hsame, htag, hst, howner, hwork⟩ := beginRead_spec u k f p
    rw [htaken.nextWork] at hwork
    rw [htaken.tag_own] at htag
    exact ⟨_, (haccept v).trans (acceptRead_own htake hread
      (forwardFrame_unbound (hunbound fun g => htaken.rest.frame rfl g) _) ((htaken.freeFrameOf _).trans hf)),
      htaken.accepted (hsame.queues rfl) (htag ▸ newTag_names q p s.stamp), by rw [htag]; rfl, by rw [htag], hst, howner, hwork⟩
  obtain ⟨t, k, hexec, haccepted, hst, h⟩ := hruns
  exact ⟨t, k, f, hexec, haccepted, hst, hf, h⟩

theorem read_forwarded {f : Nat} (hchan : f / 64 = aCh (pkAddr p))
    (hbind : (s.frame f).bind = some (pageOf (pkAddr p))) (hheld : (s.frame f).st = .held) (hnamed : (s.frame f).named = none)
    (honly : ∀ g, (s.frame g).bind = some (pageOf (pkAddr p)) → g = f) :
    ∃ t k, exec c s = .next t ∧ accepted s t q p k ∧ (t.tag k).forwarded = true ∧ (t.tag k).frame = some f ∧
      (t.frame f).st = .held := by
  refine passes_tagged hnext hc hv ho hslot (fun _ _ _ h => h) fun v u k hhead htake htaken => ?_
  have hframe : ∀ g, u.frame g = s.frame g := fun g => htaken.rest.frame rfl g
  have hforward := forwardFrame_held (s := u) hchan (by rw [hframe, hbind]) (by rw [hframe, hheld]) (by rw [hframe, hnamed])
    (fun g hg => honly g (hframe g ▸ hg)) (u.tag k).stamp
  obtain ⟨hsame, st, htag⟩ := forwardRead_spec u k f p
  rw [htaken.tag_own] at htag
  refine ⟨_, (haccept v).trans (acceptRead_forwards htake hread hforward),
    htaken.accepted (hsame.queues rfl) (htag ▸ newTag_names q p s.stamp), by rw [htag], by rw [htag], ?_⟩
  rw [hsame.frame rfl, hframe, hheld]

end

end Sys2Proof.Machine
end

section
/-! What the packets that read do. -/

namespace Sys2Proof
open Machine

/-- Settles O2: a read without a program of its page takes a frame and joins the scheduler, one of a held page is forwarded from
its frame, and one that goes to rebuild fetches its stripe descriptor. -/
theorem readPacketsComplete : Obligations.ReadPacketsComplete := by
  unfold Obligations.ReadPacketsComplete
  intro s q p c hnext hc
  have hread : ∀ absent, (pkOpcode p = some .readPage ∨ pkOpcode p = some .readQuarter ∨ pkOpcode p = some .readRaw ∨
      pkOpcode p = some .readRebuild) → ∃ o, pkOpcode p = some o ∧ ¬ o.takesSlot ∧
        ∀ v : State, v.accept q p absent = v.acceptRead q p absent := by
    rintro absent (ho | ho | ho | ho) <;>
      exact ⟨_, ho, by unfold Opcode.takesSlot; decide, fun v => by unfold State.accept; rw [ho]⟩
  refine ⟨fun ho hv => ?_, fun absent ho hv => ?_, fun ho hv => ?_⟩
  · have hrebuild : pkOpcode p ≠ some .readRebuild := by
      rcases ho with ho | ho | ho <;> rw [ho] <;> decide
    obtain ⟨o, ho', hslot, haccept⟩ := hread false (by tauto)
    refine ⟨fun hfree => ?_, fun f hchan hbind hheld hnamed honly =>
      read_forwarded hnext hc ho' hslot hv haccept hrebuild hchan hbind hheld hnamed honly⟩
    obtain ⟨t, k, f, hexec, haccepted, hst, hf, htf, hfst, howner, w, hw, ⟨hkind, hrole, htag, hwst, haddr, hraw⟩, hwf⟩ :=
      read_accepted hnext hc ho' hslot hv haccept hrebuild hfree
    exact ⟨t, k, f, hexec, haccepted, hst, hf, htf, hfst, howner, w, hw, hkind, hrole, htag, hwf, hwst, haddr, hraw⟩
  · obtain ⟨o, ho', hslot, haccept⟩ := hread absent (by tauto)
    exact rebuild_accepted hnext hc ho' hslot hv haccept (.inr ho)
  · obtain ⟨o, ho', hslot, haccept⟩ := hread true (by tauto)
    exact rebuild_accepted hnext hc ho' hslot hv haccept (.inl rfl)

end Sys2Proof
end

section
/-! SUPPORT. Programs, copies, erases, and packets on held frames as the interpreter accepts them (R91, R95, R97 to R99, R101,
R102, R155, R156, R201). -/

namespace Sys2Proof.Machine
open Sys2Proof

/-! What a freed frame's grant moves of a tag and of a piece of flash work (R196). -/

/-- A tag that may hold another frame, or another rebuild. -/
def Tag.reframed (x y : Tag) : Prop := y = { x with frame := y.frame, rebuild := y.rebuild }

theorem Tag.reframed.refl (x : Tag) : x.reframed x := rfl

theorem Tag.reframed.trans {x y z : Tag} (h : x.reframed y) (h' : y.reframed z) : x.reframed z := by
  unfold Tag.reframed at *
  rw [h', h]

/-- A piece of flash work that may hold another frame. -/
def Work.reframed (w v : Work) : Prop := v = { w with frame := v.frame }

theorem Work.reframed.trans {w v x : Work} (h : w.reframed v) (h' : v.reframed x) : w.reframed x := by
  unfold Work.reframed at *
  rw [h', h]

theorem giveRebuild_tag (s : State) (k f j : Nat) : (s.tag j).reframed ((s.giveRebuild k f).tag j) := by
  unfold State.giveRebuild
  rw [modTag_get, (takeFrame_same (m := 0x8000) (Same.refl _ s) rfl f (some k)).tag rfl]
  split
  · rfl
  · rfl

theorem grantFramesN_tag (fuel n j : Nat) (s : State) : (s.tag j).reframed ((s.grantFramesN fuel n).tag j) := by
  induction fuel generalizing s with
  | zero => rfl
  | succ fuel ih =>
    unfold State.grantFramesN
    split
    · rfl
    · split
      · rfl
      · exact (giveRebuild_tag ..).trans (ih _)
      · extract_lets first granted asked named
        have hasked : asked.tag j = s.tag j :=
          (modWork_same (m := 0x9000) (takeFrame_same (Same.refl _ s) rfl _ _) rfl _ _).tag rfl j
        have hnamed : (s.tag j).reframed (named.tag j) := by
          rw [← hasked]
          unfold named
          split
          · rw [modTag_get]
            split <;> rfl
          · rfl
        split
        · exact (giveRebuild_tag ..).trans (ih _)
        · exact hnamed.trans (ih _)

theorem grantFramesN_work (fuel n j : Nat) {s : State} {w : Work} (h : s.work j = some w) :
    ∃ v, (s.grantFramesN fuel n).work j = some v ∧ w.reframed v := by
  induction fuel generalizing s w with
  | zero => exact ⟨w, h, rfl⟩
  | succ fuel ih =>
    have hgive : ∀ k f, (s.giveRebuild k f).work j = some w := fun k f => by
      rw [← h]
      exact (modTag_same (m := 0x8400) (takeFrame_same (Same.refl _ s) rfl _ _) rfl _ _).work rfl j
    unfold State.grantFramesN
    split
    · exact ⟨w, h, rfl⟩
    · split
      · exact ⟨w, h, rfl⟩
      · exact ih (hgive _ _)
      · extract_lets first granted asked named
        have hasked : ∃ v, asked.work j = some v ∧ w.reframed v := by
          unfold asked
          rw [modWork_work, (takeFrame_same (m := 0x8000) (Same.refl _ s) rfl _ _).work rfl, h]
          split
          · exact ⟨_, rfl, rfl⟩
          · exact ⟨w, rfl, rfl⟩
        obtain ⟨v, hv, hwv⟩ := hasked
        have hnamed : named.work j = some v := by
          rw [← hv]
          unfold named
          split
          · exact (modTag_same (m := 0x400) (Same.refl _ asked) rfl _ _).work rfl j
          · rfl
        split
        · exact ih (hgive _ _)
        · obtain ⟨x, hx, hvx⟩ := ih hnamed
          exact ⟨x, hx, hwv.trans hvx⟩

/-! A program takes its frame and its entry of the open-block table (R155, R196, R201). -/

theorem HeadTaken.programFits {s v : State} {q : Nat} (h : HeadTaken s v q) (j : Nat) (a : Addr) (new : Bool) :
    v.programFits j a new = s.programFits j a new := by
  rw [h.rest.eq_of_parse]
  rfl

theorem obtAdvance_pointer {s : State} {a : Addr} {e : Nat} (h : s.obtFind a = some e) :
    ((s.obtAdvance a).obtEntry e).pointer = BitVec.ofNat 16 (aPage a) := by
  have htick : s.tick.2.obtFind a = some e :=
    ((tick_same (m := 0x100000000000) (Same.refl _ s) rfl).obtFind rfl a).trans h
  have htake : s.tick.2.obtTake a [] = some e := by
    unfold State.obtTake
    rw [htick]
  unfold State.obtAdvance State.obtAdvanceAt
  rw [htake]
  dsimp only
  generalize hu : s.tick.2.setObtEntry e _ = u
  have hentry : (u.obtEntry e).pointer = BitVec.ofNat 16 (aPage a) := by
    rw [← hu, setObtEntry_get, if_pos rfl]
  split
  · rw [(attn_same (m := 0x38080000010) (Same.refl _ u) rfl _ _).obtEntry rfl]
    exact hentry
  · exact hentry

theorem obtFree_invalid {s : State} {a : Addr} {e : Nat} (h : s.obtFind a = some e) :
    ((s.obtFree a).obtEntry e).valid = false := by
  unfold State.obtFree
  rw [h]
  dsimp only
  rw [setObtEntry_get, if_pos rfl]
  rfl

/-- A program of tag `k` from frame `f`, as packet `p` asks for it. -/
def Work.programsFor (w : Work) (k f : Nat) (p : Packet) : Prop :=
  w.kind = .program ∧ w.role = .own ∧ w.tag = some k ∧ w.frame = some f ∧ w.st = .waiting ∧ w.addr = pkAddr p

theorem programWork_spec (s : State) (k f : Nat) (p : Packet) : (s.programWork k f p).programsFor k f p :=
  ⟨rfl, rfl, rfl, rfl, rfl, rfl⟩

theorem bindFrame_frame (s : State) (f : Nat) (a : Addr) (stamp g : Nat) : (s.bindFrame f a stamp).frame g =
    if f = g then { s.frame g with bind := some (pageOf a), bindStamp := stamp, lastBind := some (pageOf a) } else s.frame g := by
  unfold State.bindFrame
  dsimp only
  rw [modFrame_get]
  rfl

/-- The state in which the flash work of a program joins the scheduler: its frame is taken and bound, its pointer has
advanced. -/
def State.programBound (s : State) (k f : Nat) (p : Packet) : State :=
  ((s.tagFrame k f).obtAdvance (pkAddr p)).bindFrame f (pkAddr p) (s.tag k).stamp

theorem beginProgram_eq (s : State) (k f : Nat) (p : Packet) :
    s.beginProgram k f p = (s.programBound k f p).addOwn ((s.programBound k f p).programWork k f p) := rfl

theorem programBound_same (s : State) (k f : Nat) (p : Packet) : Same 0x138080088410 s (s.programBound k f p) :=
  bindFrame_same (obtAdvance_same (tagFrame_same (Same.refl _ s) rfl k f) rfl _) rfl f _ _

theorem beginProgram_keeps (s : State) (k f : Nat) (p : Packet) :
    Same 0x200000001000 (s.programBound k f p) (s.beginProgram k f p) := addOwn_same (Same.refl _ _) rfl _

/-- The frame of a program that begins is in use, and bound to its page. -/
theorem beginProgram_frame (s : State) (k f : Nat) (p : Packet) (g : Nat) : (s.beginProgram k f p).frame g =
    if f = g then { s.frame g with
      st := .inUse, owner := some k, named := none, staged := false, rawLen := none, bind := some (pageOf (pkAddr p))
      bindStamp := (s.tag k).stamp, lastBind := some (pageOf (pkAddr p)) } else s.frame g := by
  have hadvance := (obtAdvance_same (m := 0x138080080010) (Same.refl _ (s.tagFrame k f)) rfl (pkAddr p)).frame rfl g
  rw [(beginProgram_keeps s k f p).frame rfl]
  unfold State.programBound
  rw [bindFrame_frame, hadvance, tagFrame_frame]
  split
  · rfl
  · rfl

theorem beginProgram_tag (s : State) (k f : Nat) (p : Packet) :
    (s.beginProgram k f p).tag k = { s.tag k with frame := some f } := by
  have hadvance : Same 0x138080088010 (s.tagFrame k f) (s.programBound k f p) :=
    bindFrame_same (obtAdvance_same (Same.refl _ _) rfl _) rfl f _ _
  rw [(beginProgram_keeps s k f p).tag rfl, hadvance.tag rfl, tagFrame_tag, if_pos rfl]

theorem beginProgram_pointer {s : State} {p : Packet} {e : Nat} (h : s.obtFind (pkAddr p) = some e) (k f : Nat) :
    ((s.beginProgram k f p).obtEntry e).pointer = BitVec.ofNat 16 (aPage (pkAddr p)) := by
  have hbind : Same 0x8000 ((s.tagFrame k f).obtAdvance (pkAddr p)) (s.programBound k f p) :=
    bindFrame_same (Same.refl _ _) rfl f _ _
  have hfind := ((tagFrame_same (m := 0x8400) (Same.refl _ s) rfl k f).obtFind rfl (pkAddr p)).trans h
  rw [(beginProgram_keeps s k f p).obtEntry rfl, hbind.obtEntry rfl]
  exact obtAdvance_pointer hfind

theorem beginProgram_work (s : State) (k f : Nat) (p : Packet) : (s.beginProgram k f p).nextWork = s.nextWork + 1 ∧
    ∃ w, (s.beginProgram k f p).work s.nextWork = some w ∧ w.programsFor k f p := by
  have hnext := (programBound_same s k f p).nextWork rfl
  rw [beginProgram_eq, ← hnext]
  exact ⟨rfl, _, addOwn_work_new .., programWork_spec ..⟩

/-- A contribution links its tag to its accumulator, and nothing else of the tag changes. -/
theorem linkAcc_tag (s : State) (k : Nat) (p : Packet) :
    (s.linkAcc k p).tag k = { s.tag k with accLink := ((s.linkAcc k p).tag k).accLink } := by
  unfold State.linkAcc
  split
  · dsimp only
    rw [modTag_get, if_pos rfl, (modAcc_same (m := 0x40000) (Same.refl _ s) rfl _ _).tag rfl]
  · rfl

/-! PROGRAM_PAGE and PROGRAM_RAW (R91, R95). -/

section
variable {s : State} {q : Nat} {p : Packet} {c : Instr} (hnext : parsesNext s q p) (hc : parses c q p)
  (hv : s.verdict q p = .pass false)
include hnext hv

/-- A program is parsed only where the open-block table and the held-frame limit let it go on (R155, R448, R470). -/
theorem passes_programFits {new : Bool}
    (h : ∀ v : State, v.programFits q (pkAddr p) new = false → v.accept q p false = none) :
    s.programFits q (pkAddr p) new = true := by
  obtain ⟨v, hhead, hsome⟩ := passes_fits hnext hv
  by_contra hw
  rw [h v ((hhead.programFits q _ _).trans (Bool.eq_false_iff.2 hw))] at hsome
  cases hsome

include hc

theorem program_accepted {o : Opcode} (ho : pkOpcode p = some o) (hslot : ¬ o.takesSlot) (hframe : o.takesFrame)
    (haccept : ∀ v : State, v.accept q p false = v.acceptProgram q p) :
    ∃ t k f, exec c s = .next t ∧ accepted s t q p k ∧ (t.tag k).st = .fetching ∧
      s.freeFrameOf (aCh (pkAddr p)) = some f ∧ (t.tag k).frame = some f ∧ (t.frame f).st = .inUse ∧
      (t.frame f).bind = some (pageOf (pkAddr p)) ∧
      (∀ e, s.obtFind (pkAddr p) = some e → (t.obtEntry e).pointer = BitVec.ofNat 16 (aPage (pkAddr p))) ∧
      ∃ w, t.work s.nextWork = some w ∧ w.programsFor k f p := by
  obtain ⟨f, hf⟩ := passes_freeFrame hnext hv ho hframe
  have hfits : s.programFits q (pkAddr p) true = true := passes_programFits hnext hv fun v hfits => by
    rw [haccept]
    unfold State.acceptProgram
    rw [hfits]
    rfl
  have hruns : ∃ t k, exec c s = .next t ∧ accepted s t q p k ∧ (t.tag k).st = .fetching ∧ (t.tag k).frame = some f ∧
      (t.frame f).st = .inUse ∧ (t.frame f).bind = some (pageOf (pkAddr p)) ∧
      (∀ e, s.obtFind (pkAddr p) = some e → (t.obtEntry e).pointer = BitVec.ofNat 16 (aPage (pkAddr p))) ∧
      ∃ w, t.work s.nextWork = some w ∧ w.programsFor k f p := by
    refine passes_tagged hnext hc hv ho hslot (fun _ _ _ h => h) fun v u k hhead htake htaken => ?_
    have htag := beginProgram_tag u k f p
    have hprogram := beginProgram_frame u k f p f
    have hpointer := fun e he => beginProgram_pointer (s := u) (p := p) (e := e)
      ((htaken.rest.obtFind rfl (pkAddr p)).trans he) k f
    obtain ⟨-, hwork⟩ := beginProgram_work u k f p
    have hbegun := beginProgram_same (m := 0x338080089410) (Same.refl _ u) rfl k f p
    have hruns : v.accept q p false = some (((u.beginProgram k f p).linkAcc k p).tagTo k .fetching) := by
      rw [haccept]
      unfold State.acceptProgram
      rw [(hhead.programFits q _ _).trans hfits, htake, (hhead.rest.freeFrameOf rfl _).trans hf]
      rfl
    have hlink := linkAcc_tag (u.beginProgram k f p) k p
    generalize u.beginProgram k f p = b at *
    have hlinked : Same 0x40400 b (b.linkAcc k p) := linkAcc_same (Same.refl _ b) rfl k p
    have hto : Same 0x8000040410 b ((b.linkAcc k p).tagTo k .fetching) :=
      tagTo_same (linkAcc_same (Same.refl _ b) rfl k p) rfl k .fetching
    have hfinal : ((b.linkAcc k p).tagTo k .fetching).tag k = { newTag q p s.stamp with
        frame := some f, accLink := ((b.linkAcc k p).tag k).accLink, st := .fetching } := by
      rw [tagTo_tag, if_pos rfl, hlink, htag, htaken.tag_own]
    rw [htaken.nextWork] at hwork
    rw [if_pos rfl] at hprogram
    refine ⟨_, hruns, htaken.accepted ((hto.queues rfl).trans (hbegun.queues rfl))
      (hfinal ▸ newTag_names q p s.stamp), by rw [hfinal], by rw [hfinal], ?_, ?_, fun e he => ?_, ?_⟩
    · rw [hto.frame rfl, hprogram]
    · rw [hto.frame rfl, hprogram]
    · rw [hto.obtEntry rfl]
      exact hpointer e he
    · rw [hto.work rfl]
      exact hwork
  obtain ⟨t, k, hexec, haccepted, hst, h⟩ := hruns
  exact ⟨t, k, f, hexec, haccepted, hst, hf, h⟩

end

/-! COPY_PAGE (R78, R96 to R98). -/

/-- The source of a copy reads from no frame, where none but the copy's own is bound to its page: the copy's own was bound at its
allocation. -/
theorem forwardFrame_own {s : State} {a : Addr} {f stamp : Nat}
    (hothers : ∀ g, g ≠ f → (s.frame g).bind ≠ some (pageOf a)) (hst : (s.frame f).st = .inUse)
    (hstamp : (s.frame f).bindStamp = stamp) : s.forwardFrame a stamp = none := by
  unfold State.forwardFrame
  dsimp only
  rw [List.filter_eq_nil_iff.2 fun g _ hw => ?_]
  · rfl
  · simp only [Bool.and_eq_true, Bool.or_eq_true, beq_iff_eq, decide_eq_true_eq] at hw
    obtain ⟨⟨hbind, -⟩, hw⟩ := hw
    by_cases hg : g = f
    · subst hg
      rcases hw with hw | hw
      · rw [hst] at hw
        cases hw
      · omega
    · exact hothers g hg hbind

/-- The read of the source of a copy of tag `k` that no frame serves. -/
def State.sourceWork (s : State) (k : Nat) (p : Packet) : Work :=
  { Work.new .read .source (pkAddr2 p) (some k) s.stamp with
    level := pkByte p 48 % 8, pageSize := pkSize p, pageType := pkType p, quarterLayout := bitOf (pkByte p 48) 3
    quarters := if bitOf (pkByte p 48) 3 then countUp 0 4 else [0]
    lastAttempt := s.lastAttempt (s.ladderOf (pkAddr2 p) (pkType p)) 0 }

/-- The source of a copy that no frame serves is read from the flash (R97). -/
theorem beginSource_reads {s : State} {k : Nat} {p : Packet} (hfence : (s.chan (aCh (pkAddr2 p))).fenced = false)
    (hbay : s.bayOn (aCh (pkAddr2 p) / 8) = true) (hnone : s.forwardFrame (pkAddr2 p) (s.tag k).stamp = none) :
    s.beginSource k p =
      ((s.tick.2.addWork (s.sourceWork k p)).2.fixLevels s.nextWork).grantFramesN 64 (aCh (pkAddr2 p)) := by
  unfold State.beginSource
  dsimp only
  rw [if_neg (ne_true_of_eq_false hfence), if_neg (by rw [hbay]; decide), hnone]
  rfl

/-- A piece of flash work that is the same but for its levels and its frame. -/
def Work.goesOn (w v : Work) : Prop := ∃ x, w.leveled x ∧ x.reframed v

/-- What a read from the flash of the source leaves of the copy's tag and of flash work. -/
theorem sourceRead_spec (s : State) (w : Work) (id n : Nat) {t : State}
    (ht : t = ((s.tick.2.addWork w).2.fixLevels id).grantFramesN 64 n) : Same 0x339880409410 s t ∧
    (∀ j, (s.tag j).reframed (t.tag j)) ∧
    (∀ j x, (if s.nextWork = j then some w else s.work j) = some x → ∃ v, t.work j = some v ∧ x.goesOn v) := by
  subst ht
  have hlevels : Same 0x339880401010 s ((s.tick.2.addWork w).2.fixLevels id) :=
    fixLevels_same (addWork_same (tick_same (Same.refl _ s) rfl) rfl w) rfl id
  refine ⟨grantFramesN_same (fixLevels_same (addWork_same (tick_same (Same.refl _ s) rfl) rfl w) rfl id) rfl 64 n, fun j => ?_,
    fun j x hx => ?_⟩
  · rw [← hlevels.tag rfl]
    exact grantFramesN_tag ..
  · obtain ⟨y, hy, hxy⟩ := fixLevels_work (s := (s.tick.2.addWork w).2) (j := j) (by rw [addWork_work]; exact hx) id
    obtain ⟨v, hv, hyv⟩ := grantFramesN_work 64 n j hy
    exact ⟨v, hv, y, hxy, hyv⟩

section
variable {s : State} {q : Nat} {p : Packet} {c : Instr} (hnext : parsesNext s q p) (hc : parses c q p)
  (hv : s.verdict q p = .pass false) (ho : pkOpcode p = some .copyPage)
include hnext hc hv ho

/-- A copy takes its frame, and what its source does is known. -/
theorem copy_runs {C : State → Nat → Prop} (hC : ∀ t k b, C t k → C (t.withArb b) k)
    (hrun : ∀ u b k f, PacketTaken s u q p k → b = u.beginProgram k f p → C (b.beginSource k p) k) :
    ∃ t k, exec c s = .next t ∧ C t k := by
  have haccept : ∀ v : State, v.accept q p false = v.acceptCopy q p := fun v => by
    unfold State.accept
    rw [ho]
  obtain ⟨f, hf⟩ := passes_freeFrame hnext hv ho (.inr (.inr (.inl rfl)))
  have hfits : s.programFits q (pkAddr p) true = true := passes_programFits hnext hv fun v hfits => by
    rw [haccept]
    unfold State.acceptCopy
    rw [hfits]
    rfl
  refine passes_tagged hnext hc hv ho (by unfold Opcode.takesSlot; decide) hC fun v u k hhead htake htaken => ?_
  refine ⟨_, ?_, hrun u _ k f htaken rfl⟩
  rw [haccept]
  unfold State.acceptCopy
  rw [(hhead.programFits q _ _).trans hfits, htake, (hhead.rest.freeFrameOf rfl _).trans hf]
  rfl

theorem copy_fenced (hd : (s.queue q).discard = false) (hfence : (s.chan (aCh (pkAddr2 p))).fenced = true) :
    ∃ t k, exec c s = .next t ∧ s.freeTagOf (aCh (pkAddr p)) = some k ∧
      dueFor t q k .channelFenced (BitVec.ofNat 32 (aCh (pkAddr2 p))) := by
  refine copy_runs hnext hc hv ho (fun _ _ _ h => h) fun u b k f htaken hb => ?_
  have hbegun : Same 0x338080089410 u b := hb ▸ beginProgram_same (Same.refl _ u) rfl k f p
  have htag : b.tag k = { newTag q p s.stamp with frame := some f } := by rw [hb, beginProgram_tag, htaken.tag_own]
  have hlive : liveTag b k := by
    unfold liveTag
    rw [htag, hbegun.queue rfl]
    exact ⟨fun h => (by cases h), rfl, rfl, rfl, rfl, (htaken.discard q).trans hd⟩
  have hchan : (b.chan (aCh (pkAddr2 p))).fenced = true := by
    rw [hbegun.chan rfl, htaken.chan]
    exact hfence
  have hstop : b.beginSource k p = b.stopTag k .channelFenced (aCh (pkAddr2 p)) := by
    unfold State.beginSource
    exact if_pos hchan
  have hdue := commitTag_due hlive .channelFenced (BitVec.ofNat 32 (aCh (pkAddr2 p)))
  rw [htag] at hdue
  exact ⟨htaken.free, hstop ▸ (stopTag_commits hlive .channelFenced (aCh (pkAddr2 p))).dueFor hdue⟩

theorem copy_accepted (hfence : (s.chan (aCh (pkAddr2 p))).fenced = false) (hbay : s.bayOn (aCh (pkAddr2 p) / 8) = true)
    (hfree : unboundPage s (pkAddr2 p)) : ∃ t k, exec c s = .next t ∧ accepted s t q p k ∧ (t.tag k).st = .queued ∧
      (∃ w, t.work s.nextWork = some w ∧ w.kind = .program ∧ w.role = .own ∧ w.tag = some k ∧ w.addr = pkAddr p) ∧
      (∃ w, t.work (s.nextWork + 1) = some w ∧ w.kind = .read ∧ w.role = .source ∧ w.tag = some k ∧ w.addr = pkAddr2 p) := by
  refine copy_runs hnext hc hv ho (fun _ _ _ h => h) fun u b k f htaken hb => ?_
  have hbegun : Same 0x338080089410 u b := hb ▸ beginProgram_same (Same.refl _ u) rfl k f p
  have htag : b.tag k = { newTag q p s.stamp with frame := some f } := by rw [hb, beginProgram_tag, htaken.tag_own]
  have hframe := fun g => hb ▸ beginProgram_frame u k f p g
  obtain ⟨hcount, w, hw, hprogram⟩ := hb ▸ beginProgram_work u k f p
  rw [htaken.nextWork] at hcount hw
  have hchan : (b.chan (aCh (pkAddr2 p))).fenced = false := by
    rw [hbegun.chan rfl, htaken.chan]
    exact hfence
  have hbays : b.bayOn (aCh (pkAddr2 p) / 8) = true := by
    unfold State.bayOn State.bay
    rw [hbegun.bays rfl, htaken.rest.bays rfl]
    exact hbay
  have hnone : b.forwardFrame (pkAddr2 p) (b.tag k).stamp = none := by
    refine forwardFrame_own (f := f) (fun g hg => ?_) ?_ ?_
    · rw [hframe, if_neg (Ne.symm hg), htaken.rest.frame rfl]
      exact hfree g
    · rw [hframe, if_pos rfl]
    · rw [hframe, if_pos rfl, htag, htaken.tag_own]
  obtain ⟨hsame, htags, hworks⟩ := sourceRead_spec b _ _ _ (beginSource_reads hchan hbays hnone)
  have hreframed := htags k
  rw [htag] at hreframed
  rw [hcount] at hworks
  obtain ⟨x, hx, y, hwy, hyx⟩ := hworks s.nextWork w (by rw [if_neg (by omega)]; exact hw)
  obtain ⟨x', hx', y', hwy', hyx'⟩ := hworks (s.nextWork + 1) (b.sourceWork k p) (if_pos rfl)
  refine ⟨htaken.accepted ((hsame.queues rfl).trans (hbegun.queues rfl)) ?_, ?_, ⟨x, hx, ?_⟩, x', hx', ?_⟩
  · rw [hreframed]
    exact newTag_names q p s.stamp
  · rw [hreframed]
    rfl
  · obtain ⟨hkind, hrole, htag, -, -, haddr⟩ := hprogram
    rw [hyx, hwy]
    exact ⟨hkind, hrole, htag, haddr⟩
  · rw [hyx', hwy']
    exact ⟨rfl, rfl, rfl, rfl⟩

end

/-! REPROGRAM_HELD (R99). -/

section
variable {s : State} {q : Nat} {p : Packet} {c : Instr} (hnext : parsesNext s q p) (hc : parses c q p)
  (hv : s.verdict q p = .pass false)
include hnext hc hv

theorem reprogram_accepted (ho : pkOpcode p = some .reprogramHeld) :
    ∃ t k, exec c s = .next t ∧ accepted s t q p k ∧ (t.tag k).st = .queued ∧
      (t.tag k).frame = some (pkFrame p) ∧ (t.frame (pkFrame p)).named = some k ∧
      (t.frame (pkFrame p)).bind = (s.frame (pkFrame p)).bind ∧
      ∃ w, t.work s.nextWork = some w ∧ w.programsFor k (pkFrame p) p := by
  have haccept : ∀ v : State, v.accept q p false = v.acceptReprogram q p := fun v => by
    unfold State.accept
    rw [ho]
  have hfits : s.programFits q (pkAddr p) false = true := passes_programFits hnext hv fun v hfits => by
    rw [haccept]
    unfold State.acceptReprogram
    rw [hfits]
    rfl
  refine passes_tagged hnext hc hv ho (by unfold Opcode.takesSlot; decide) (fun _ _ _ h => h) fun v u k hhead htake htaken => ?_
  generalize hx : (u.modTag k fun x => { x with frame := some (pkFrame p) }).modFrame (pkFrame p)
    (fun y => { y with named := some k }) = x
  have hxtag : x.tag k = { newTag q p s.stamp with frame := some (pkFrame p) } := by
    rw [← hx, modFrame_tag, modTag_get, if_pos rfl, htaken.tag_own]
  have hxframe : x.frame (pkFrame p) = { s.frame (pkFrame p) with named := some k } := by
    rw [← hx, modFrame_get, if_pos rfl, (modTag_same (m := 0x400) (Same.refl _ u) rfl k _).frame rfl,
      htaken.rest.frame rfl]
  have hxsame : Same 0x8400 u x := hx ▸ modFrame_same (modTag_same (Same.refl _ u) rfl k _) rfl _ _
  have hadvance : Same 0x138080080010 x (x.obtAdvance (pkAddr p)) := obtAdvance_same (Same.refl _ x) rfl _
  have hsame : Same 0x338080081010 x ((x.obtAdvance (pkAddr p)).addOwn (x.programWork k (pkFrame p) p)) :=
    addOwn_same (obtAdvance_same (Same.refl _ x) rfl _) rfl _
  have htag := (hsame.tag rfl k).trans hxtag
  have hframe := (hsame.frame rfl (pkFrame p)).trans hxframe
  refine ⟨(x.obtAdvance (pkAddr p)).addOwn (x.programWork k (pkFrame p) p), ?_,
    htaken.accepted ((hsame.queues rfl).trans (hxsame.queues rfl)) (htag ▸ newTag_names q p s.stamp), by rw [htag]; rfl,
    by rw [htag], by rw [hframe], by rw [hframe], x.programWork k (pkFrame p) p, ?_, programWork_spec ..⟩
  · rw [haccept]
    unfold State.acceptReprogram
    rw [(hhead.programFits q _ _).trans hfits, htake, ← hx]
    rfl
  · rw [← htaken.nextWork, ← hxsame.nextWork rfl, ← hadvance.nextWork rfl]
    exact addOwn_work_new ..

/-! ERASE_BLOCK (R102, R103, R156). -/

theorem erase_accepted (ho : pkOpcode p = some .eraseBlock) :
    ∃ t k, exec c s = .next t ∧ accepted s t q p k ∧ (t.tag k).st = .queued ∧
      (∀ e, s.obtFind (pkAddr p) = some e → (t.obtEntry e).valid = false) ∧
      (∃ w, t.work s.nextWork = some w ∧ w.kind = .erase ∧ w.role = .own ∧ w.tag = some k ∧ w.st = .waiting ∧
        w.addr = pkAddr p ∧ w.noSuspend = bitOf (pkByte p 48) 0) := by
  refine passes_tagged hnext hc hv ho (by unfold Opcode.takesSlot; decide) (fun _ _ _ h => h) fun v u k hhead htake htaken => ?_
  let w := { Work.new .erase .own (pkAddr p) (some k) (u.tag k).stamp with noSuspend := bitOf (pkByte p 48) 0 }
  have hfreed : Same 0x88000 u ((u.obtFree (pkAddr p)).unbindBlock (pkAddr p)) :=
    unbindBlock_same (obtFree_same (Same.refl _ u) rfl _) rfl _
  have hopen : Same 0x200000009000 (u.obtFree (pkAddr p)) (((u.obtFree (pkAddr p)).unbindBlock (pkAddr p)).addOwn w) :=
    addOwn_same (unbindBlock_same (Same.refl _ _) rfl _) rfl w
  have hsame : Same 0x200000089000 u (((u.obtFree (pkAddr p)).unbindBlock (pkAddr p)).addOwn w) :=
    addOwn_same (unbindBlock_same (obtFree_same (Same.refl _ u) rfl _) rfl _) rfl w
  have htag := (hsame.tag rfl k).trans htaken.tag_own
  refine ⟨((u.obtFree (pkAddr p)).unbindBlock (pkAddr p)).addOwn w, ?_,
    htaken.accepted (hsame.queues rfl) (htag ▸ newTag_names ..), by rw [htag]; rfl, fun e he => ?_, w, ?_, rfl, rfl, rfl, rfl,
    rfl, rfl⟩
  · unfold State.accept State.acceptErase
    rw [ho]
    dsimp only
    rw [htake]
  · rw [hopen.obtEntry rfl]
    exact obtFree_invalid ((htaken.rest.obtFind rfl _).trans he)
  · rw [← htaken.nextWork, ← hfreed.nextWork rfl]
    exact addOwn_work_new ..

end

/-! RELEASE_FRAME (R101). -/

theorem freeNow_tag (s : State) (f j : Nat) : (s.tag j).reframed ((s.freeNow f).tag j) := by
  unfold State.freeNow
  extract_lets n src u v
  have hu : u.tag j = s.tag j := modFrame_tag s f _ j
  have hv : v.tag j = s.tag j := by
    rw [← hu]
    exact (Same.ite (raise_same (m := 0x38080000010) (Same.refl _ u) rfl 842) (Same.refl _ u)).tag rfl j
  rw [← hv]
  exact grantFramesN_tag ..

/-- A freed frame is not held, whatever takes it next (R197). -/
theorem freeNow_frame (s : State) (f : Nat) : (((s.freeNow f).frame f).st ≠ .held) := by
  unfold State.freeNow
  extract_lets n src u v
  have hu : (u.frame f).st ≠ .held := by
    unfold u
    rw [modFrame_get, if_pos rfl]
    dsimp only
    split
    · exact fun h => by cases h
    · split <;> exact fun h => by cases h
  have hv : (v.frame f).st ≠ .held := by
    rw [(Same.ite (raise_same (m := 0x38080000010) (Same.refl _ u) rfl 842) (Same.refl _ u)).frame rfl f]
    exact hu
  exact (grantFramesN_winds (Winds.refl v) 64 n).frame f hv

/-- Frame `f` is released by the command of tag `k`, which commits. -/
def State.releaseEnds (s : State) (k f : Nat) : State :=
  ((((s.dropDeferred f).freeNow f).modTag k fun y => { y with frame := none }).commitTag k .success 0).endTag0 k

theorem releaseOne_ends_release {s : State} {k f : Nat} (hnamed : (s.frame f).named = some k)
    (hforwards : s.forwardsFrom f = false) (hadding : s.addingFrom f = false) (hheld : (s.frame f).st = .held)
    (hop : (s.tag k).opcode = some .releaseFrame) (hopen : (s.tag k).committed = false) :
    s.releaseOne f = s.releaseEnds k f := by
  have hfree : (s.dropDeferred f).freeF f = (s.dropDeferred f).freeNow f := by
    unfold State.freeF State.freeFrame
    refine if_neg ?_
    show ¬ (s.forwardsFrom f || s.addingFrom f) = true
    simp [hforwards, hadding]
  unfold State.releaseOne
  rw [hnamed]
  dsimp only
  rw [if_neg (by simp [hforwards, hadding, hheld]), if_pos (by simp [hop, hopen]), hfree]
  rfl

/-- A command that releases its frame commits; the frame is free and has no record (R101). -/
theorem releaseEnds_spec {s : State} {k : Nat} (hlive : liveTag s k) (f : Nat) :
    dueFor (s.releaseEnds k f) (s.tag k).sqid k .success 0 ∧ ((s.releaseEnds k f).frame f).st ≠ .held ∧
    ∀ d, d ∈ (s.releaseEnds k f).deferred → d.frame ≠ f := by
  unfold State.releaseEnds
  generalize hu : ((s.dropDeferred f).freeNow f).modTag k (fun y => { y with frame := none }) = u
  have hreframed := freeNow_tag (s.dropDeferred f) f k
  have htag : (s.tag k).reframed (u.tag k) := by
    refine hreframed.trans ?_
    rw [← hu, modTag_get, if_pos rfl]
    rfl
  have hsame : Same 0x38084009410 s u := by
    rw [← hu]
    exact modTag_same (freeNow_same (dropDeferred_same (Same.refl _ s) rfl f) rfl f) rfl k _
  have hlive' : liveTag u k := by
    obtain ⟨hst, hopen, hruns, hdropped, hue, hd⟩ := hlive
    unfold liveTag
    rw [htag, hsame.queue rfl]
    exact ⟨hst, hopen, hruns, hdropped, hue, hd⟩
  have hsqid : (u.tag k).sqid = (s.tag k).sqid := by rw [htag]
  have hframe : (u.frame f).st ≠ .held := by
    rw [← hu, (modTag_same (m := 0x400) (Same.refl _ _) rfl k _).frame rfl]
    exact freeNow_frame _ f
  have hkept : u.deferred = (s.dropDeferred f).deferred := by
    rw [← hu]
    exact (modTag_same (m := 0x38080009410) (freeNow_same (Same.refl _ (s.dropDeferred f)) rfl f) rfl k _).deferred rfl
  have hends : Same 0x398886c9c90 u ((u.commitTag k .success 0).endTag0 k) :=
    endTag0_same (commitTag_same (Same.refl _ u) rfl k .success 0) rfl k
  refine ⟨?_, (endTag0_winds (commitTag_winds (Winds.refl u) k .success 0) k).frame f hframe, fun d hd => ?_⟩
  · rw [← hsqid]
    exact (endTag0_ends (Ends.refl anyTag _) k).dueFor (commitTag_due hlive' .success 0)
  · rw [hends.deferred rfl, hkept] at hd
    have := (List.mem_filter.1 hd).2
    simpa using this

theorem heldFree_of_pass {s : State} {q : Nat} {p : Packet} {absent : Bool} (ho : pkOpcode p = some .releaseFrame)
    (hv : s.verdict q p = .pass absent) : (s.frame (pkFrame p)).st = .held := by
  have hfails := fieldFails_of_pass ho hv
  unfold State.fieldFails at hfails
  have hheld := (List.append_eq_nil_iff.1 hfails).2
  unfold State.opcodeFails at hheld
  dsimp only at hheld
  split at hheld
  · next h =>
    unfold State.heldFree at h
    simp only [Bool.and_eq_true, beq_iff_eq] at h
    exact h.1.2
  · cases hheld

theorem release_accepted {s : State} {q : Nat} {p : Packet} {c : Instr} (hnext : parsesNext s q p) (hc : parses c q p)
    (hv : s.verdict q p = .pass false) (ho : pkOpcode p = some .releaseFrame) (hd : (s.queue q).discard = false)
    (hforwards : s.forwardsFrom (pkFrame p) = false) (hadding : s.addingFrom (pkFrame p) = false) :
    ∃ t k, exec c s = .next t ∧ s.freeTagOf (aCh (pkAddr p)) = some k ∧ dueFor t q k .success 0 ∧
      (t.frame (pkFrame p)).st ≠ .held ∧ ∀ d, d ∈ t.deferred → d.frame ≠ pkFrame p := by
  have hheld := heldFree_of_pass ho hv
  refine passes_tagged hnext hc hv ho (by unfold Opcode.takesSlot; decide) (fun _ _ _ h => h) fun v u k hhead htake htaken => ?_
  generalize hx : (u.modTag k fun x => { x with frame := some (pkFrame p) }).modFrame (pkFrame p)
    (fun y => { y with named := some k }) = x
  have hxtag : x.tag k = { newTag q p s.stamp with frame := some (pkFrame p) } := by
    rw [← hx, modFrame_tag, modTag_get, if_pos rfl, htaken.tag_own]
  have hxframe : x.frame (pkFrame p) = { s.frame (pkFrame p) with named := some k } := by
    rw [← hx, modFrame_get, if_pos rfl, (modTag_same (m := 0x400) (Same.refl _ u) rfl k _).frame rfl,
      htaken.rest.frame rfl]
  have hxsame : Same 0x8400 u x := hx ▸ modFrame_same (modTag_same (Same.refl _ u) rfl k _) rfl _ _
  have hentry : ∀ e, e ∈ x.tags → (e.2.forwarded = false ∧ e.2.adding = false) ∨ e ∈ s.tags := fun e he => by
    rw [← hx, (modFrame_same (m := 0x8000) (Same.refl _ _) rfl _ _).tags rfl] at he
    rcases SMap.mem_setD _ _ _ _ _ he with rfl | he
    · rw [htaken.tag_own]
      exact .inl ⟨rfl, rfl⟩
    · rcases htaken.entry e he with rfl | rfl | he
      · exact .inl ⟨rfl, rfl⟩
      · exact .inl ⟨rfl, rfl⟩
      · exact .inr he
  have hworks : x.works = s.works := (hxsame.works rfl).trans (htaken.rest.works rfl)
  have hlive : liveTag x k := by
    unfold liveTag
    rw [hxtag, hxsame.queue rfl]
    exact ⟨fun h => (by cases h), rfl, rfl, rfl, rfl, (htaken.discard q).trans hd⟩
  have hrelease : x.releaseOne (pkFrame p) = x.releaseEnds k (pkFrame p) := by
    refine releaseOne_ends_release (by rw [hxframe]) ?_ ?_ (by rw [hxframe]; exact hheld) (by rw [hxtag]; exact ho)
      (by rw [hxtag]; rfl)
    · unfold State.forwardsFrom at hforwards ⊢
      rw [Bool.or_eq_false_iff, List.any_eq_false] at hforwards
      rw [hworks, hforwards.2, Bool.or_false, List.any_eq_false]
      intro e he
      rcases hentry e he with ⟨hnew, -⟩ | he
      · simp [hnew]
      · exact hforwards.1 e he
    · unfold State.addingFrom at hadding ⊢
      rw [List.any_eq_false] at hadding ⊢
      intro e he
      rcases hentry e he with ⟨-, hnew⟩ | he
      · simp [hnew]
      · exact hadding e he
  obtain ⟨hdue, hst, hrecords⟩ := releaseEnds_spec hlive (pkFrame p)
  rw [hxtag] at hdue
  refine ⟨x.releaseOne (pkFrame p), ?_, htaken.free, hrelease ▸ hdue, hrelease ▸ hst, hrelease ▸ hrecords⟩
  unfold State.accept State.acceptRelease
  rw [ho]
  dsimp only
  rw [htake, ← hx]

end Sys2Proof.Machine
end

section
/-! What the packets that program, copy and erase, and those on held frames, do. -/

namespace Sys2Proof
open Machine

/-- Settles O3, opcode by opcode: a program takes its frame and its entry of the open-block table, a copy reads its source, and
the packets on held frames and blocks name or free them. -/
theorem programAndErasePacketsComplete : Obligations.ProgramAndErasePacketsComplete := by
  unfold Obligations.ProgramAndErasePacketsComplete
  intro s q p c hnext hc hv
  refine ⟨fun ho => ?_, fun ho hd => ⟨copy_fenced hnext hc hv ho hd, copy_accepted hnext hc hv ho⟩, fun ho => ?_,
    release_accepted hnext hc hv, erase_accepted hnext hc hv⟩
  · have hprogram : ∃ o, pkOpcode p = some o ∧ ¬ o.takesSlot ∧ o.takesFrame ∧
        ∀ v : State, v.accept q p false = v.acceptProgram q p := by
      rcases ho with ho | ho <;>
        exact ⟨_, ho, by unfold Opcode.takesSlot; decide, by unfold Opcode.takesFrame; decide,
          fun v => by unfold State.accept; rw [ho]⟩
    obtain ⟨o, ho', hslot, hframe, haccept⟩ := hprogram
    obtain ⟨t, k, f, hexec, haccepted, hst, hf, htf, hfst, hbind, hpointer, w, hw, hkind, hrole, htag, hwf, hwst, haddr⟩ :=
      program_accepted hnext hc hv ho' hslot hframe haccept
    exact ⟨t, k, f, hexec, haccepted, hst, hf, htf, hfst, hbind, hpointer, w, hw, hkind, hrole, htag, hwf, hwst, haddr⟩
  · obtain ⟨t, k, hexec, haccepted, hst, htf, hnamed, hbind, w, hw, hkind, -, htag, hwf, -⟩ := reprogram_accepted hnext hc hv ho
    exact ⟨t, k, hexec, haccepted, hst, htf, hnamed, hbind, w, hw, hkind, htag, hwf⟩

end Sys2Proof
end

section
/-! SUPPORT. The mode of a channel, the hold of a LUN and its array operation outlast the end of what a failed command did
(R64, R160). -/

namespace Sys2Proof.Machine
open Sys2Proof

/-- The channels stand in their states and resets, held LUNs are held or not as before, and an array operation of a LUN loses
at most works. -/
structure Stays (s t : State) : Prop where
  st : ∀ n, (t.chan n).st = (s.chan n).st
  inReset : ∀ n, (t.chan n).inReset = (s.chan n).inReset
  held : ∀ key, (t.lun key).held = (s.lun key).held
  op : ∀ key o, (s.lun key).op = some o → ∃ l, (t.lun key).op = some { o with works := l }

namespace Stays
variable {s t u : State}

theorem refl (s : State) : Stays s s := ⟨fun _ => rfl, fun _ => rfl, fun _ => rfl, fun _ o h => ⟨o.works, h⟩⟩

theorem trans (h : Stays s t) (h' : Stays t u) : Stays s u where
  st n := (h'.st n).trans (h.st n)
  inReset n := (h'.inReset n).trans (h.inReset n)
  held key := (h'.held key).trans (h.held key)
  op key o ho := by
    obtain ⟨l, hl⟩ := h.op key o ho
    obtain ⟨l', hl'⟩ := h'.op key _ hl
    exact ⟨l', hl'⟩

theorem ite {p : Prop} [Decidable p] (ht : Stays s t) (hu : Stays s u) : Stays s (if p then t else u) := by
  split
  · exact ht
  · exact hu

theorem foldl {α : Type} {f : State → α → State} (hf : ∀ t x, Stays s t → Stays s (f t x)) (hk : Stays s t) (l : List α) :
    Stays s (l.foldl f t) := by
  induction l generalizing t with
  | nil => exact hk
  | cons x l ih => exact ih (hf t x hk)

/-- A part that moves neither the LUNs nor the channels. -/
theorem apart (hk : Stays s t) (hluns : u.luns = t.luns) (hchans : u.chans = t.chans) : Stays s u := by
  have hlun : ∀ key, u.lun key = t.lun key := fun key => by unfold State.lun; rw [hluns]
  have hchan : ∀ n, u.chan n = t.chan n := fun n => by unfold State.chan; rw [hchans]
  exact hk.trans ⟨fun n => congrArg Chan.st (hchan n), fun n => congrArg Chan.inReset (hchan n),
    fun key => congrArg Lun.held (hlun key), fun key o ho => ⟨o.works, by rw [hlun]; exact ho⟩⟩

theorem others (hk : Stays s t) (h : Same 0x7FFFFFFF9FFF t u) : Stays s u := hk.apart (h.luns rfl) (h.chans rfl)

/-- A part that moves no LUN and, of the channels, only what their jobs move. -/
theorem quiet (hk : Stays s t) (h : Quiet t u) (hluns : u.luns = t.luns) : Stays s u := by
  have hlun : ∀ key, u.lun key = t.lun key := fun key => by unfold State.lun; rw [hluns]
  have hst : ∀ n, (u.chan n).still.st = (t.chan n).still.st := fun n => congrArg Chan.st (h.chan n)
  have hreset : ∀ n, (u.chan n).still.inReset = (t.chan n).still.inReset := fun n => congrArg Chan.inReset (h.chan n)
  exact hk.trans ⟨hst, hreset, fun key => congrArg Lun.held (hlun key),
    fun key o ho => ⟨o.works, by rw [hlun]; exact ho⟩⟩

end Stays

section
variable {z t : State} (hk : Stays z t)
include hk

theorem modChan_stays (n : Nat) (f : Chan → Chan) (hst : ∀ c, (f c).st = c.st) (hreset : ∀ c, (f c).inReset = c.inReset) :
    Stays z (t.modChan n f) := by
  have hlun : ∀ key, (t.modChan n f).lun key = t.lun key :=
    (modChan_same (m := 0x4000) (Same.refl _ t) rfl n f).lun rfl
  refine hk.trans ⟨fun j => ?_, fun j => ?_, fun key => congrArg Lun.held (hlun key),
    fun key o ho => ⟨o.works, by rw [hlun]; exact ho⟩⟩
  · rw [modChan_get]
    split
    · exact hst _
    · rfl
  · rw [modChan_get]
    split
    · exact hreset _
    · rfl

theorem modLun_stays (k : Nat) (f : Lun → Lun) (hheld : ∀ x, (f x).held = x.held)
    (hop : ∀ x o, x.op = some o → ∃ l, (f x).op = some { o with works := l }) : Stays z (t.modLun k f) := by
  have hchan : ∀ j, (t.modLun k f).chan j = t.chan j :=
    (modLun_same (m := 0x2000) (Same.refl _ t) rfl k f).chan rfl
  refine hk.trans ⟨fun j => congrArg Chan.st (hchan j), fun j => congrArg Chan.inReset (hchan j), fun key => ?_,
    fun key o ho => ?_⟩
  · rw [modLun_get]
    split
    · next heq => exact heq ▸ hheld _
    · rfl
  · rw [modLun_get]
    split
    · next heq => exact hop _ o (heq ▸ ho)
    · exact ⟨o.works, ho⟩

/-! Works end (R64, R90, R149, R176). -/

theorem runEntry_stays (n e fuel : Nat) : Stays z (t.runEntry n e fuel) :=
  hk.quiet (runEntry_talks ..).quiet ((runEntry_same (m := 0x409000034010) (Same.refl _ t) rfl n e fuel).luns rfl)

theorem endWork_stays (id : Nat) : Stays z (t.endWork id) := by
  unfold State.endWork
  split
  · exact hk
  · next w _ =>
    extract_lets runs s1 s2 s3 s4 s5 sent s6 s7
    have h1 : Stays z s1 := hk.others (withdraw_same (Same.refl _ t) rfl id)
    have h2 : Stays z s2 := .ite h1 (h1.others (releaseUnused_same (Same.refl _ s1) rfl id))
    have h3 : Stays z s3 := modLun_stays h2 _ _ (fun _ => rfl) fun x o ho => ⟨_, by rw [ho]; rfl⟩
    have h4 : Stays z s4 := h3.quiet (modChan_quiet _ _ fun c => endWork_chan_still c id _ runs)
      ((modChan_same (m := 0x4000) (Same.refl _ s3) rfl _ _).luns rfl)
    clear_value s4
    have h5 : Stays z s5 := h4.apart rfl rfl
    clear_value s5
    have h6 : Stays z s6 := by
      refine .ite (modLun_stays h5 _ _ (fun x => ?_) fun x o ho => ⟨o.works, ?_⟩) h5
      · split <;> rfl
      · rw [if_pos (by rw [ho]; rfl)]
        exact ho
    have h7 : Stays z s7 := .ite (runEntry_stays h6 ..) h6
    exact h7.others (dropWork_same (Same.refl _ s7) rfl id)

theorem freeWorkFrame_stays (w : Work) : Stays z (t.freeWorkFrame w) :=
  hk.others (freeWorkFrame_same (Same.refl _ t) rfl w)

theorem detachReads_stays (k : Nat) : Stays z (t.detachReads k) := by
  refine Stays.foldl (fun u id hu => ?_) hk _
  split
  · exact hu
  · exact .ite (freeWorkFrame_stays (endWork_stays hu id) _) (hu.others (modWork_same (Same.refl _ u) rfl id _))

theorem endTagWorks_stays (k : Nat) : Stays z (t.endTagWorks k) :=
  Stays.foldl (fun _ id hu => endWork_stays hu id)
    (detachReads_stays (hk.others (dropRebuild_same (Same.refl _ t) rfl k)) k) _

theorem closeRead_stays (id : Nat) : Stays z (t.closeRead id) := by
  unfold State.closeRead
  split
  · exact hk
  · exact freeWorkFrame_stays (endWork_stays hk id) _

/-! Surveys and calibrations are abandoned (R291, R436). -/

theorem finish_stays (k : Nat) (st : Status) (info : Nat) : Stays z (t.finish k st info) :=
  hk.others (finish_same (Same.refl _ t) rfl k st info)

theorem abandonSurvey_stays (n : Nat) : Stays z (t.abandonSurvey n) := by
  unfold State.abandonSurvey
  extract_lets v ids s1 src s2 s3
  have h1 : Stays z s1 := by
    refine Stays.foldl (fun u id hu => ?_) hk _
    split
    · exact freeWorkFrame_stays (endWork_stays hu id) _
    · exact hu
  have h2 : Stays z s2 := modChan_stays h1 n _ (fun _ => rfl) fun _ => rfl
  have h3 : Stays z s3 := h2.others (count_same (setFld_same (Same.refl _ s2) rfl ..) rfl n 23 1)
  refine .ite hk ?_
  split
  · exact finish_stays h3 ..
  · exact h3

theorem calQueue_stays (n : Nat) (apply : Bool) (tag : Option Nat) : Stays z (t.calQueue n apply tag) := by
  unfold State.calQueue
  extract_lets src u
  have hu : Stays z u := modChan_stays hk n _ (fun _ => rfl) fun _ => rfl
  exact hu.apart rfl rfl

theorem calNext_stays (n : Nat) : Stays z (t.calNext n) := by
  unfold State.calNext
  refine .ite hk ?_
  split
  · exact calQueue_stays hk ..
  · exact hk

theorem dropCal_stays (n : Nat) : Stays z (t.dropCal n) := by
  unfold State.dropCal
  extract_lets runs s1 s2
  have h1 : Stays z s1 := modChan_stays hk n _ (fun _ => rfl) fun _ => rfl
  have h2 : Stays z s2 := h1.others (setFld_same (setFld_same (Same.refl _ s1) rfl ..) rfl ..)
  clear_value s2
  refine calNext_stays ?_ n
  exact h2.apart rfl rfl

theorem dropService_stays (k : Nat) : Stays z (t.dropService k) := by
  unfold State.dropService
  extract_lets n s1 s2
  have h1 : Stays z s1 := modChan_stays hk n _ (fun _ => rfl) fun _ => rfl
  have h2 : Stays z s2 := .ite (abandonSurvey_stays h1 n) h1
  exact .ite (dropCal_stays h2 n) h2

/-! Tags stop, and rebuilds and programs fail (R64, R74, R90, R94, R258, R259). -/

theorem stopTag_stays (k : Nat) (st : Status) (info : Nat) : Stays z (t.stopTag k st info) := by
  have hcommit : Stays z (t.commitTag k st (BitVec.ofNat 32 info)) := hk.others (commitTag_same (Same.refl _ t) rfl k st _)
  have hphase := (endTagWorks_stays hcommit k).others (dropPhase_same (Same.refl _ _) rfl k)
  have hsd := (dropService_stays hphase k).others (dropSd_same (Same.refl _ _) rfl k)
  rw [stopTag_eq]
  exact .ite hk (hsd.others (endTag_same (modTag_same (Same.refl _ _) rfl k _) rfl k))

theorem rebuildFails_stays (k : Nat) : Stays z (t.rebuildFails k) := by
  unfold State.rebuildFails
  dsimp only
  split
  · exact hk
  · exact .ite (stopTag_stays hk ..) (stopTag_stays hk ..)

theorem endMembers_stays (k : Nat) (keep : List Nat) : Stays z (t.endMembers k keep) := by
  refine Stays.foldl (fun u id hu => ?_) hk _
  split
  · exact hu
  · exact .ite (endWork_stays hu id) (freeWorkFrame_stays (endWork_stays hu id) _)

theorem freeList_stays (l : List Nat) :
    Stays z (l.foldl (fun (s : State) f => if (s.frame f).st == .inUse then s.freeF f else s) t) :=
  Stays.foldl (fun u f hu => .ite (hu.others (freeF_same (Same.refl _ u) rfl f)) hu) hk l

theorem putPayload_stays (f size : Nat) (quarter : Bool) (level : Nat) (payload : List Byte) (poison : Bool) :
    Stays z (t.putPayload f size quarter level payload poison) :=
  hk.others (putPayload_same (Same.refl _ t) rfl ..)

theorem rebuildDone_stays (k : Nat) (payload : List Byte) : Stays z (t.rebuildDone k payload) := by
  have hmod : ∀ {u : State} (f : Tag → Tag), Stays z u → Stays z (u.modTag k f) := fun {u} f hu =>
    hu.others (modTag_same (Same.refl _ u) rfl k f)
  have hwritten : ∀ r : Rebuild, Stays z
      (match r.frameB with | some g => t.frameWrite g 0 r.sumQ r.poisoned | none => t) := by
    intro r
    split
    · exact hk.others (frameWrite_same (Same.refl _ t) rfl ..)
    · exact hk
  unfold State.rebuildDone
  dsimp only
  split
  · split
    · split
      · exact freeList_stays (hmod _ (endMembers_stays (putPayload_stays (hwritten _) ..) k _)) _
      · exact hwritten _
    · split
      · exact hwritten _
      · next f _ =>
        refine (freeList_stays (hmod _ (endMembers_stays (Stays.others ?_ (modFrame_same (Same.refl _ _) rfl f _)) k _))
          _).others (tagTo_same (Same.refl _ _) rfl k .delivering)
        exact putPayload_stays (hwritten _) ..
  · exact hk

theorem solveEnd_stays (k : Nat) : Stays z (t.solveEnd k) := by
  unfold State.solveEnd
  dsimp only
  split
  · refine .ite hk ?_
    split
    · exact rebuildDone_stays hk k _
    · exact rebuildFails_stays hk k
  · exact hk

theorem rebuildCheck_stays (k : Nat) : Stays z (t.rebuildCheck k) := by
  unfold State.rebuildCheck
  dsimp only
  split
  · have hassembled : ∀ r need, Stays z (t.assemble k r need) := fun r need =>
      hk.others (assemble_same (Same.refl _ t) rfl k r need)
    exact .ite hk (.ite (rebuildFails_stays hk k) (.ite (hassembled ..) (solveEnd_stays (hassembled ..) k)))
  · exact hk

theorem memberLost_stays (id k i : Nat) (o : MemberOutcome) : Stays z (t.memberLost id k i o) := by
  unfold State.memberLost
  extract_lets u
  have hu : Stays z u := by
    unfold u
    split
    · exact modChan_stays hk _ _ (fun _ => rfl) fun _ => rfl
    · exact hk
  exact rebuildCheck_stays (hu.others (setMember_same (modWork_same (Same.refl _ u) rfl id _) rfl k i o)) k

theorem programFails_stays (k f : Nat) (st : Status) (info : Nat) (hold : Bool) :
    Stays z (t.programFails k f st info hold) :=
  hk.others (programFails_same (Same.refl _ t) rfl k f st info hold)

theorem programLost_stays (id : Nat) (st : Status) (info : Nat) (hold : Bool) :
    Stays z (t.programLost id st info hold) := by
  unfold State.programLost
  split
  · exact hk
  · split
    · next k f _ _ =>
      extract_lets x role st' hold' info' fs s1 s2 move s3 s4
      have h1 : Stays z s1 := endTagWorks_stays hk k
      have h2 : Stays z s2 := .ite (freeList_stays h1 _) h1
      have h3 : Stays z s3 := h1.others (modTag_same (Same.refl _ s1) rfl k _)
      have h4 : Stays z s4 := .ite (h3.others (commitTag_same (Same.refl _ s3) rfl k _ _))
        (.ite (h3.others (addDeferred_same (Same.refl _ s3) rfl ..)) h3)
      exact .ite ((programFails_stays h2 ..).others (releaseAcc_same (Same.refl _ _) rfl _))
        (.ite (.ite (programFails_stays h1 ..) (.ite (h4.others (releaseOne_same (Same.refl _ s4) rfl f))
          (h4.others (endTag_same (Same.refl _ s4) rfl k)))) (programFails_stays h1 ..))
    · exact finish_stays (endTagWorks_stays hk _) ..
    · exact endWork_stays hk id

/-! Ready timers, and recoveries that end (R160, R258, R459, R460). -/

theorem readTimeout_stays (id : Nat) (w : Work) : Stays z (t.readTimeout id w) := by
  unfold State.readTimeout
  split
  · exact stopTag_stays hk ..
  · exact stopTag_stays (closeRead_stays hk id) ..
  · exact memberLost_stays hk ..
  · exact programLost_stays hk ..
  · exact abandonSurvey_stays hk _
  · exact closeRead_stays hk id

theorem exhaust_stays (k n info : Nat) : Stays z (t.exhaust k n info) := by
  unfold State.exhaust
  extract_lets x u
  have hu : Stays z u := hk.others (raise_same (Same.refl _ t) rfl 845)
  refine .ite hk ?_
  split
  · exact programLost_stays hu ..
  · refine .ite ?_ (stopTag_stays hu ..)
    split
    · exact programFails_stays (endTagWorks_stays hu k) ..
    · exact hu.others (endTag_same (Same.refl _ u) rfl k)

theorem recTo_stays (n : Nat) (r : RecStep) (marked : Nat) : Stays z (t.recTo n r marked) := by
  have hstep : Stays z (t.modChan n fun c => { c with recStep := r }) := modChan_stays hk n _ (fun _ => rfl) fun _ => rfl
  unfold State.recTo
  exact .ite hk (hstep.others (traceRec_same (Same.refl _ _) rfl ..))

theorem notRestored_stays (n : Nat) (own : Option Nat) : Stays z (t.notRestored n own) := by
  unfold State.notRestored
  extract_lets replays ids s1 reads s2
  have h1 : Stays z s1 := Stays.foldl (fun u k hu => exhaust_stays hu k n _) hk ids
  have h2 : Stays z s2 := by
    refine Stays.foldl (fun u id hu => ?_) h1 reads
    split
    · exact hu
    · split
      · exact memberLost_stays hu ..
      · exact stopTag_stays ((closeRead_stays hu id).others (raise_same (Same.refl _ _) rfl 845)) ..
      · exact closeRead_stays hu id
  refine Stays.others ?_ (raise_same (Same.refl _ _) rfl 846)
  exact modChan_stays (recTo_stays h2 n .idle 0) n _ (fun _ => rfl) fun _ => rfl

theorem dropResets_stays (n : Nat) : Stays z (t.dropResets n) := by
  refine Stays.foldl (fun u e hu => ?_) hk _
  exact endWork_stays (.ite hu (hu.others (releaseGrants_same (Same.refl _ u) rfl _))) _

end

end Sys2Proof.Machine
end

section
/-! SUPPORT. A ready timer that passes its limit (R160, R171, R459). -/

namespace Sys2Proof.Machine
open Sys2Proof

theorem SMap.find?_of_get {α : Type} {m : SMap α} {k : Nat} {x : α} {p : Nat × α → Bool} (h : SMap.get m k = some x)
    (hp : p (k, x) = true) (hkey : ∀ e, p e = true → e.1 = k) : m.find? p = some (k, x) := by
  induction m with
  | nil => cases h
  | cons e r ih =>
    obtain ⟨j, v⟩ := e
    by_cases hj : j = k
    · simp only [SMap.get, if_pos hj, Option.some.injEq] at h
      rw [hj, h, List.find?_cons_of_pos hp]
    · simp only [SMap.get, if_neg hj] at h
      rw [List.find?_cons_of_neg fun hv => hj (hkey _ hv)]
      exact ih h

theorem Same.dueFor {m : Nat} {s t : State} (h : Same m s t) (hqueues : m.testBit 7 = false) {q k : Nat} {st : Status}
    {info : Word} (hd : dueFor s q k st info) : dueFor t q k st info := by
  unfold Sys2Proof.dueFor
  rw [h.queue hqueues]
  exact hd

theorem finish_due {s : State} {k : Nat} (hlive : liveTag s k) (st : Status) (info : Nat) :
    dueFor (s.finish k st info) (s.tag k).sqid k st (BitVec.ofNat 32 info) :=
  (endTag_ends (Ends.refl anyTag _) k).dueFor (commitTag_due hlive st _)

theorem stopTag_due {s : State} {k : Nat} (hlive : liveTag s k) (st : Status) (info : Nat) :
    dueFor (s.stopTag k st info) (s.tag k).sqid k st (BitVec.ofNat 32 info) :=
  (stopTag_commits hlive st info).dueFor (commitTag_due hlive st _)

theorem endWork_work (s : State) (id : Nat) : (s.endWork id).work id = none := by
  unfold State.endWork
  split
  · assumption
  · rw [dropWork_work, if_pos rfl]

theorem execReadyTimeout_eq {s : State} {n l : Nat} (hn : n < s.nch) (hl : l < 16) (hs : s.hostOn = true) :
    exec (.readyTimeout n l) s = .next (if (s.lun (lunKey n l)).op.isSome then
        (if (s.chan n).st == .training && !(s.ownResets n).isEmpty then (s.readyTimeout n l).trainLost n
         else s.readyTimeout n l)
      else s.accessTimeout n l) := by
  have hlun : s.lunOk n l = true := by
    unfold State.lunOk
    simp [hs, hn, hl]
  show execReadyTimeout n l s = _
  unfold execReadyTimeout
  rw [if_pos hlun]

/-! Of an array operation (R160). -/

/-- A piece of work of an array operation whose ready timer has passed its limit. -/
def State.workLate (s : State) (id : Nat) : State :=
  match s.work id with
  | none => s
  | some w =>
    match w.kind, w.tag with
    | .read, _ => s.readTimeout id w
    | .program, some t => s.programLost id .timeout 0 (s.tag t).committed
    | _, some t => s.stopTag t .timeout 0 |>.endWork id |>.finish t .timeout 0
    | _, none => s.endWork id

/-- The LUN is held with its array operation, whose ready timer has passed its limit. -/
def State.holdLate (s : State) (key : Nat) : State :=
  s.modLun key (fun x => { x with
    held := true, pollDue := false, op := x.op.map (fun o => { o with timedOut := true, works := [] }) })

theorem readyTimeout_eq {s : State} {n l : Nat} {o : ArrayOp} (hop : (s.lun (lunKey n l)).op = some o)
    (hlate : o.timedOut = false) : s.readyTimeout n l =
      (((o.works.foldl State.workLate s).holdLate (lunKey n l)).attn n 4).grantFrames n := by
  unfold State.readyTimeout
  dsimp only
  rw [hop]
  dsimp only
  rw [if_neg (by simp [hlate])]
  rfl

theorem workLate_stays {z t : State} (hk : Stays z t) (id : Nat) : Stays z (t.workLate id) := by
  unfold State.workLate
  split
  · exact hk
  · split
    · exact readTimeout_stays hk ..
    · exact programLost_stays hk ..
    · exact finish_stays (endWork_stays (stopTag_stays hk ..) id) ..
    · exact endWork_stays hk id

/-- What is left to do once the LUN is held leaves the LUNs, the channels and the queues. -/
theorem attnGrant_same (t : State) (n b : Nat) : Same 0x38080009410 t ((t.attn n b).grantFrames n) :=
  grantFrames_same (attn_same (Same.refl _ t) rfl n b) rfl n

theorem attnGrant_bit (t : State) (n : Nat) : ((t.attn n 4).grantFrames n).bit (chanPage n + 0xA8) 4 = true := by
  have hreg := (grantFrames_same (m := 0x9400) (Same.refl _ (t.attn n 4)) rfl n).reg_of_regs rfl (chanPage n + 0xA8)
  rw [bit_of_reg hreg]
  exact attn_bit t n (by omega)

theorem attnGrant_noWork {t : State} {id : Nat} (h : t.work id = none) (n b : Nat) :
    ((t.attn n b).grantFrames n).work id = none :=
  (grantFramesN_winds ((Winds.refl t).others (attn_same (Same.refl _ t) rfl n b)) 64 n).work id h

section
variable {s : State} {n l : Nat} {o : ArrayOp} (hop : (s.lun (lunKey n l)).op = some o) (hlate : o.timedOut = false)
include hop hlate

theorem readyTimeout_lun : ((s.readyTimeout n l).lun (lunKey n l)).held = true ∧
    ((s.readyTimeout n l).lun (lunKey n l)).op = some { o with timedOut := true, works := [] } := by
  have hstays : Stays s (o.works.foldl State.workLate s) :=
    Stays.foldl (fun _ id hu => workLate_stays hu id) (Stays.refl s) o.works
  obtain ⟨works, hworks⟩ := hstays.op _ o hop
  rw [readyTimeout_eq hop hlate, (attnGrant_same ..).lun rfl]
  unfold State.holdLate
  rw [modLun_get, if_pos rfl]
  refine ⟨rfl, ?_⟩
  rw [hworks]
  rfl

theorem readyTimeout_bit : (s.readyTimeout n l).bit (chanPage n + 0xA8) 4 = true := by
  rw [readyTimeout_eq hop hlate]
  exact attnGrant_bit ..

/-- The command of an erase that is late ends TIMEOUT. -/
theorem readyTimeout_erase {id k : Nat} {w : Work} (hworks : o.works = [id]) (hw : s.work id = some w)
    (hkind : w.kind = .erase) (htag : w.tag = some k) (hlive : liveTag s k) :
    dueFor (s.readyTimeout n l) (s.tag k).sqid k .timeout 0 ∧ (s.readyTimeout n l).work id = none := by
  have hended : o.works.foldl State.workLate s = ((s.stopTag k .timeout 0).endWork id).finish k .timeout 0 := by
    rw [hworks]
    show s.workLate id = _
    unfold State.workLate
    rw [hw]
    dsimp only
    rw [hkind, htag]
  have hends := finish_ends (endWork_ends (Ends.refl anyTag (s.stopTag k .timeout 0)) id) k .timeout 0 (anyTag_over k)
  have hheld : Same 0x2000 (((s.stopTag k .timeout 0).endWork id).finish k .timeout 0)
      ((((s.stopTag k .timeout 0).endWork id).finish k .timeout 0).holdLate (lunKey n l)) :=
    modLun_same (Same.refl _ _) rfl _ _
  rw [readyTimeout_eq hop hlate, hended]
  refine ⟨(attnGrant_same ..).dueFor rfl (hheld.dueFor rfl (hends.dueFor (stopTag_due hlive .timeout 0))),
    attnGrant_noWork ?_ n 4⟩
  rw [hheld.work rfl]
  exact (finish_winds (Winds.refl _) k .timeout 0).work id (endWork_work _ id)

end

/-! Of a recovery that has reset its targets (R459). -/

theorem trainEnds_inReset (s : State) (n : Nat) : ((s.trainEnds n).chan n).inReset = false := by
  unfold State.trainEnds
  generalize s.dropResets n = u
  rw [(attn_same (m := 0x38080000010) (setFld_same (Same.refl _ _) rfl ..) rfl n 3).chan rfl, modChan_get, if_pos rfl]
  show (State.chan (if (u.chan n).inReset then u.leaveReset n else u.busEnds n) n).inReset = false
  split
  · rw [leaveReset_eq, (runEntry_stays (Stays.refl _) n 0 2048).inReset, modChan_get, if_pos rfl]
    rfl
  · next hreset =>
    have hquiet : ((u.busEnds n).chan n).still.inReset = (u.chan n).still.inReset :=
      congrArg Chan.inReset ((busEnds_quiet u n).chan n)
    exact hquiet.trans (Bool.eq_false_iff.2 hreset)

theorem trainEnds_held (s : State) (n key : Nat) : ((s.trainEnds n).lun key).held = (s.lun key).held := by
  rw [← (dropResets_stays (Stays.refl s) n).held]
  unfold State.trainEnds
  generalize s.dropResets n = u
  have hended : Same 0x439080034010 u (if (u.chan n).inReset then u.leaveReset n else u.busEnds n) :=
    .ite (leaveReset_same (Same.refl _ u) rfl n) (busEnds_same (Same.refl _ u) rfl n)
  exact congrArg Lun.held ((attn_same (setFld_same (modChan_same hended rfl n _) rfl ..) rfl n 3).lun rfl key)

/-- What waited for a training that has failed ends with the channel as the training left it. -/
theorem trainLost_stays (s : State) (n : Nat) : Stays (s.trainEnds n) (s.trainLost n) := by
  unfold State.trainLost
  extract_lets why u0 u1 u2 u3
  have h3 : u3 = s.trainEnds n := rfl
  rw [h3]
  clear_value u3 why
  split
  · exact notRestored_stays (Stays.refl _) ..
  · exact notRestored_stays (Stays.refl _) ..
  · exact (Stays.refl _).others (attn_same (Same.refl _ _) rfl n 0)
  · exact Stays.refl _

theorem trainLost_settings (s : State) (n : Nat) : ((s.trainLost n).chan n).st = .unconfigured ∧
    ((s.trainLost n).chan n).inReset = false ∧ ∀ key, ((s.trainLost n).lun key).held = (s.lun key).held := by
  obtain ⟨-, -, hst, -⟩ := trainEnds_settings s n
  have hstays : Stays (s.trainEnds n) (s.trainLost n) := trainLost_stays s n
  exact ⟨(hstays.st n).trans hst, (hstays.inReset n).trans (trainEnds_inReset s n),
    fun key => (hstays.held key).trans (trainEnds_held s n key)⟩

end Sys2Proof.Machine
end

section
/-! SUPPORT. Feature accesses and routines: a ready timer that passes its limit, and the access job (R104, R105, R143, R160,
R171). -/

namespace Sys2Proof.Machine
open Sys2Proof

/-- A job is due to start only while none runs (R143, R177). -/
theorem bestJob_idle {s : State} {n : Nat} {j : Job} (h : s.bestJob n = some j) : (s.chan n).bus.running = false := by
  unfold State.bestJob at h
  by_contra hruns
  rw [if_pos (Bool.not_eq_false _ ▸ hruns)] at h
  cases h

theorem waitsReady_runs {s : State} {n : Nat} (h : s.waitsReady n = true) : (s.chan n).bus.running = true := by
  unfold State.waitsReady at h
  simp only [Bool.and_eq_true] at h
  exact h.1.1

/-- The access or routine `id` of channel `n` waits for its LUN, at the start of its job or in a ready wait. -/
def State.accessWaits (s : State) (n id : Nat) (kind : WorkKind) : Prop :=
  kind = .access ∧ s.bestJob n = some (.access id) ∨
    (kind = .access ∨ kind = .routine) ∧ s.waitsReady n = true ∧ (s.chan n).bus.work = some id

/-- The ready timer of the access or routine `id` of tag `k` has passed its limit. -/
def State.accessLate (s : State) (id k : Nat) : State :=
  (s.modWork id (fun w => { w with sent := true })).stopTag k .timeout 0

section
variable {s : State} {id k : Nat} {w : Work} (hw : s.work id = some w) (htag : w.tag = some k)
include hw htag

theorem accessTimeout_eq (hwaits : s.accessWaits w.ch id w.kind) : s.accessTimeout w.ch w.lun =
    ((((s.accessLate id k).modLun (lunKey w.ch w.lun) (fun x => { x with
      held := true, op := some { ArrayOp.start w.kind [] with timedOut := true } })).attn w.ch 4).grantFrames w.ch) := by
  unfold State.accessTimeout
  extract_lets late
  have hfind : s.works.find? late = some (id, w) := by
    refine SMap.find?_of_get hw ?_ fun e he => ?_
    · unfold late
      rcases hwaits with ⟨hkind, hbest⟩ | ⟨hkind, hready, hbus⟩
      · simp [hkind, hbest]
      · rcases hkind with hkind | hkind <;> simp [hkind, hready, hbus]
    · unfold late at he
      simp only [Bool.and_eq_true, Bool.or_eq_true, beq_iff_eq] at he
      obtain ⟨-, ⟨hready', hbus'⟩ | ⟨-, hbest'⟩⟩ := he
      · rcases hwaits with ⟨-, hbest⟩ | ⟨-, -, hbus⟩
        · exact absurd (waitsReady_runs hready') (Bool.eq_false_iff.1 (bestJob_idle hbest))
        · exact Option.some.inj (hbus'.symm.trans hbus)
      · rcases hwaits with ⟨-, hbest⟩ | ⟨-, hready, -⟩
        · exact Job.access.inj (Option.some.inj (hbest'.symm.trans hbest))
        · exact absurd (waitsReady_runs hready) (Bool.eq_false_iff.1 (bestJob_idle hbest'))
  rw [hfind]
  dsimp only
  rw [htag]
  rfl

/-- The command ends TIMEOUT, and its LUN is held with an array operation that no command has. -/
theorem accessTimeout_spec (hwaits : s.accessWaits w.ch id w.kind) (hlive : liveTag s k) :
    dueFor (s.accessTimeout w.ch w.lun) (s.tag k).sqid k .timeout 0 ∧
      ((s.accessTimeout w.ch w.lun).lun (lunKey w.ch w.lun)).held = true ∧
      ((s.accessTimeout w.ch w.lun).lun (lunKey w.ch w.lun)).op = some { ArrayOp.start w.kind [] with timedOut := true } := by
  have hsent : Same 0x1000 s (s.modWork id fun w => { w with sent := true }) := modWork_same (Same.refl _ s) rfl id _
  have hdue : dueFor (s.accessLate id k) (s.tag k).sqid k .timeout 0 := by
    rw [← hsent.tag rfl]
    exact stopTag_due (hsent.liveTag rfl rfl hlive) .timeout 0
  rw [accessTimeout_eq hw htag hwaits, (attnGrant_same ..).lun rfl, modLun_get, if_pos rfl]
  exact ⟨(attnGrant_same ..).dueFor rfl ((modLun_same (m := 0x2000) (Same.refl _ _) rfl _ _).dueFor rfl hdue), rfl, rfl⟩

end

/-! The access job (R104, R105, R143). -/

section
variable {s : State} {n id k : Nat} {w : Work} (hbest : s.bestJob n = some (.access id))
include hbest

theorem execFeatureAccessJob_eq (hn : n < s.nch) (hs : s.hostOn = true) (input : List Byte) :
    exec (.featureAccessJob n input) s = .next (s.featureJob n input) := by
  have hentry : s.entryRuns n = false := by
    unfold State.entryRuns
    dsimp only
    rw [bestJob_idle hbest]
    rfl
  show execFeatureAccessJob n input s = _
  unfold execFeatureAccessJob
  rw [if_pos (lunOk_zero hn hs), if_neg (by simp [hentry])]

/-- The job is the one that the packet of its tag asks for. -/
theorem featureJob_eq (hw : s.work id = some w) (htag : w.tag = some k) (input : List Byte) :
    (pkOpcode (s.tag k).packet = some .getFeature → s.featureJob n input = s.getFeatureJob n id k w input) ∧
      (pkOpcode (s.tag k).packet = some .setFeature → s.featureJob n input = s.setFeatureJob n id k w) ∧
      ∀ f, pkOpcode (s.tag k).packet = some .readParameterPage → w.frame = some f →
        s.featureJob n input = s.paramJob n id k w f input := by
  have hroutine : s.routineRuns n = none := by
    unfold State.routineRuns
    rw [bestJob_idle hbest]
  unfold State.featureJob
  rw [hroutine, hbest]
  dsimp only
  rw [hw]
  dsimp only
  rw [htag]
  dsimp only
  refine ⟨fun ho => ?_, fun ho => ?_, fun f ho hf => ?_⟩
  · rw [ho]
  · rw [ho]
  · rw [ho, hf]

end

/-- A command that shows ISSUED is in flight as before (R64). -/
theorem issueTag_live {s : State} {k : Nat} (hlive : liveTag s k) (w : Work) :
    liveTag (s.issueTag w) k ∧ ((s.issueTag w).tag k).sqid = (s.tag k).sqid := by
  have hissued : ∀ j, liveTag (s.tagTo j .issued) k ∧ ((s.tagTo j .issued).tag k).sqid = (s.tag k).sqid := by
    intro j
    unfold liveTag
    rw [tagTo_tag, (tagTo_same (m := 0x8000000410) (Same.refl _ s) rfl j .issued).queue rfl]
    have ⟨_, hrest⟩ := hlive
    split
    · next hj =>
      subst hj
      exact ⟨⟨fun h => (by cases h), hrest⟩, rfl⟩
    · exact ⟨hlive, rfl⟩
  have hite : ∀ (j : Nat) (c : Bool), liveTag (if c then s.tagTo j .issued else s) k ∧
      ((if c then s.tagTo j .issued else s).tag k).sqid = (s.tag k).sqid := by
    intro j c
    cases c
    · exact ⟨hlive, rfl⟩
    · exact hissued j
  unfold State.issueTag
  split
  · exact hite ..
  · exact hite ..
  · exact ⟨hlive, rfl⟩

section
variable {s : State} {k : Nat} (hlive : liveTag s k) (n id : Nat) (w : Work)
include hlive

/-- The bus job of an access ends its work; its command is in flight as before. -/
theorem accessJob_ended (e : Nat) (args : List Word) (cycles : List BusCycle) :
    let u := (((s.traceJob n 9 e w.lun (some k)).issueTag w).busJob n e args (some id) w.lun false cycles).endWork id
    liveTag u k ∧ (u.tag k).sqid = (s.tag k).sqid ∧ u.work id = none := by
  intro u
  have htraced : Same 0x8000000010 s (s.traceJob n 9 e w.lun (some k)) := traceJob_same (Same.refl _ s) rfl ..
  obtain ⟨hissued, hsqid⟩ := issueTag_live (htraced.liveTag rfl rfl hlive) w
  have hended : Same 0x409200037010 ((s.traceJob n 9 e w.lun (some k)).issueTag w) u :=
    endWork_same (busJob_same (Same.refl _ _) rfl ..) rfl id
  refine ⟨hended.liveTag rfl rfl hissued, ?_, endWork_work _ id⟩
  rw [hended.tag rfl, hsqid, htraced.tag rfl]

theorem accessJob_finishes (e : Nat) (args : List Word) (cycles : List BusCycle) (info : Nat) :
    let u := (((s.traceJob n 9 e w.lun (some k)).issueTag w).busJob n e args (some id) w.lun false cycles).endWork id
    dueFor (u.finish k .success info) (s.tag k).sqid k .success (BitVec.ofNat 32 info) ∧
      (u.finish k .success info).work id = none := by
  intro u
  obtain ⟨hended, hsqid, hgone⟩ := accessJob_ended hlive n id w e args cycles
  exact ⟨hsqid ▸ finish_due hended .success info, (finish_winds (Winds.refl u) k .success info).work id hgone⟩

theorem getFeatureJob_spec {input : List Byte} (hlen : input.length = 4) :
    dueFor (s.getFeatureJob n id k w input) (s.tag k).sqid k .success (BitVec.ofNat 32 (leNat input)) ∧
      (s.getFeatureJob n id k w input).work id = none := by
  unfold State.getFeatureJob
  rw [if_neg (by simp [hlen])]
  exact accessJob_finishes hlive n id w 4 ..

theorem setFeatureJob_spec :
    dueFor (s.setFeatureJob n id k w) (s.tag k).sqid k .success 0 ∧ (s.setFeatureJob n id k w).work id = none := by
  unfold State.setFeatureJob
  exact accessJob_finishes hlive n id w 5 _ _ 0

omit hlive in
/-- The parameter page that has arrived is delivered. -/
theorem paramJob_spec {input : List Byte} (f : Nat)
    (hlen : input.length = if s.bit (geomAt n (targetOf w.lun)) 29 then 512 else pkLen (s.tag k).packet) :
    ((s.paramJob n id k w f input).tag k).st = .delivering ∧ ((s.paramJob n id k w f input).tag k).status = .success ∧
      (s.paramJob n id k w f input).work id = none := by
  unfold State.paramJob
  extract_lets p tog l ok u v
  have hgone : v.work id = none := endWork_work _ id
  rw [if_neg (by simp [hlen, tog, p]), tagTo_tag, if_pos rfl, modTag_get, if_pos rfl,
    (tagTo_same (m := 0x8000000410) (modTag_same (Same.refl _ v) rfl k _) rfl k .delivering).work rfl]
  exact ⟨rfl, rfl, hgone⟩

end

end Sys2Proof.Machine
end

section
/-! What a ready timer that passes its limit and the feature access job do. -/

namespace Sys2Proof
open Machine

/-- Settles O16, clause by clause: what ends with a late command leaves the mode of the channels and the operations of the LUNs,
and an access job ends its work and commits or delivers. -/
theorem timeoutsAndAccessJobsComplete : Obligations.TimeoutsAndAccessJobsComplete := by
  unfold Obligations.TimeoutsAndAccessJobsComplete
  intro s n hn hs
  refine ⟨fun l o hl hst hop hlate _ => ?_, fun l o hl hst hown hop hlate => ?_,
    fun l id w k hl hw hch hwl hwaits hop htag hlive => ?_, fun id w k input hbest hw htag hlive => ?_⟩
  · refine ⟨s.readyTimeout n l, ?_, (readyTimeout_lun hop hlate).1, (readyTimeout_lun hop hlate).2,
      readyTimeout_bit hop hlate, fun id w k hworks hw hkind htag hlive =>
        readyTimeout_erase hop hlate hworks hw hkind htag hlive⟩
    rw [execReadyTimeout_eq hn hl hs, if_pos (by rw [hop]; rfl), if_neg (by simp [hst])]
  · obtain ⟨hst', hreset, hheld⟩ := trainLost_settings (s.readyTimeout n l) n
    refine ⟨(s.readyTimeout n l).trainLost n, ?_, hst', (hheld _).trans (readyTimeout_lun hop hlate).1, hreset⟩
    rw [execReadyTimeout_eq hn hl hs, if_pos (by rw [hop]; rfl), if_pos (by simp [hst, hown])]
  · subst hch hwl
    refine ⟨s.accessTimeout w.ch w.lun, ?_, accessTimeout_spec hw htag hwaits hlive⟩
    rw [execReadyTimeout_eq hn hl hs, if_neg (by rw [hop]; decide)]
  · obtain ⟨hget, hset, hparam⟩ := featureJob_eq hbest hw htag input
    have hjob := execFeatureAccessJob_eq hbest hn hs input
    refine ⟨fun ho hlen => ⟨_, hjob, ?_⟩, fun ho => ⟨_, hjob, ?_⟩, fun f ho hf hlen => ⟨_, hjob, ?_⟩⟩
    · rw [hget ho]
      exact getFeatureJob_spec hlive n id w hlen
    · rw [hset ho]
      exact setFeatureJob_spec hlive n id w
    · rw [hparam f ho hf]
      exact paramJob_spec n id w f hlen

end Sys2Proof
end

section
/-! SUPPORT. The writes of the disturb ledger and of the open-block table, and the advisory ring (R158, R282, R283). -/

namespace Sys2Proof.Machine
open Sys2Proof

theorem ofBool_le_one (b : Bool) : ofBool b ≤ 1 := by cases b <;> decide

theorem bitOf_of_ofBool {n b : Nat} {v : Bool} (h : n / 2 ^ b % 2 = ofBool v) : bitOf n b = v := by
  unfold bitOf
  rw [h]
  cases v <;> rfl

/-- `LEDGER_LO` of an entry holds the whole entry but its count (R283). -/
theorem LedgerEntry.ofRegs_lo (e : LedgerEntry) (v : Word) : LedgerEntry.ofRegs e.lo v = { e with count := v } := by
  have hv := ofBool_le_one e.valid
  have ha := ofBool_le_one e.advised
  have hi := ofBool_le_one e.inherited
  have hl := e.lun.isLt
  have hp := e.plane.isLt
  have hb := e.block.isLt
  unfold LedgerEntry.ofRegs LedgerEntry.lo
  congr 1
  · exact bitOf_of_ofBool (by rw [BitVec.toNat_ofNat]; omega)
  · exact bitOf_of_ofBool (by rw [BitVec.toNat_ofNat]; omega)
  · exact bitOf_of_ofBool (by rw [BitVec.toNat_ofNat]; omega)
  · exact BitVec.eq_of_toNat_eq (by simp only [wfld, bits, BitVec.toNat_ofNat]; omega)
  · exact BitVec.eq_of_toNat_eq (by simp only [wfld, bits, BitVec.toNat_ofNat]; omega)
  · exact BitVec.eq_of_toNat_eq (by simp only [wfld, bits, BitVec.toNat_ofNat]; omega)

/-- `OBT_LO` of an entry holds its valid flag, plane and block (R158). -/
theorem ObtEntry.lo_fields (e : ObtEntry) : bitOf e.lo.toNat 31 = e.valid ∧
    BitVec.ofNat 2 (wfld e.lo 21 20) = e.plane ∧ BitVec.ofNat 20 (wfld e.lo 19 0) = e.block := by
  have hv := ofBool_le_one e.valid
  have hp := e.plane.isLt
  have hb := e.block.isLt
  unfold ObtEntry.lo
  refine ⟨bitOf_of_ofBool (by rw [BitVec.toNat_ofNat]; omega), BitVec.eq_of_toNat_eq ?_, BitVec.eq_of_toNat_eq ?_⟩
  · simp only [wfld, bits, BitVec.toNat_ofNat]; omega
  · simp only [wfld, bits, BitVec.toNat_ofNat]; omega

theorem restN_one {α : Type} (l : List α) : restN 1 l = l.tail := by
  rw [restN_eq_drop, List.drop_one]

theorem Same.ledgerEntry {m : Nat} {s t : State} (h : Same m s t) (hb : m.testBit 23 = false) (k : Nat) :
    t.ledgerEntry k = s.ledgerEntry k := by
  unfold State.ledgerEntry
  rw [h.ledger hb]

section
variable {s : State} (hs : s.serving = true)
include hs

theorem exec_ledgerHiWrite {k : Nat} (hk : k < 128 * s.nch) (v : Word) :
    exec (.ledgerHiWrite k v) s = .next (s.ledgerHiWrite k v) := by
  show execLedgerHiWrite k v s = _
  simp [execLedgerHiWrite, asleep_of_serving hs, hs, hk]

theorem exec_obtHiWrite {k : Nat} (hk : k < 128 * s.nch) (v : Word) :
    exec (.obtHiWrite k v) s = .next (s.obtHiWrite k v) := by
  show execObtHiWrite k v s = _
  simp [execObtHiWrite, asleep_of_serving hs, hs, hk]

theorem exec_advPop : exec .advPop s = .next s.popAdvisory := by
  show execAdvPop s = _
  simp [execAdvPop, asleep_of_serving hs, hs]

end

section
variable (s : State) (k : Nat) (v : Word)

/-- The window write of a ledger entry replaces the entry, and takes the waiting low word (R283). -/
theorem ledgerHiWrite_spec :
    ((s.ledgerHiWrite k v).ledgerLo = SMap.erase s.ledgerLo k) ∧
      ∀ j, (s.ledgerHiWrite k v).ledgerEntry j =
        if k = j then LedgerEntry.ofRegs ((SMap.get s.ledgerLo k).getD (s.ledgerEntry k).lo) v else s.ledgerEntry j := by
  unfold State.ledgerHiWrite
  extract_lets lo t
  have hfresh := freshEntry_same (m := 0x1800000000) (Same.refl _ (t.setLedgerEntry k (LedgerEntry.ofRegs lo v))) rfl 3
    (mlogAddr 0 k 0) 8
  refine ⟨?_, fun j => ?_⟩
  · rw [hfresh.ledgerLo rfl]
    simp only [setLedgerEntry_fields, t]
  · rw [hfresh.ledgerEntry rfl, setLedgerEntry_get]
    rfl

/-- A window write of an open-block entry that is not taken leaves the table (R158). -/
theorem obtHiWrite_ignored (h : s.obtInflight k ≠ 0) (hbad : s.obtBad k = []) :
    s.obtHiWrite k v = { s with obtLo := SMap.erase s.obtLo k } := by
  unfold State.obtHiWrite
  extract_lets bad lo t
  exact if_pos (by simp [show t.obtInflight k ≠ 0 from h, bad, hbad])

/-- The entry that a window write leaves (R158). -/
def State.obtWritten (s : State) (k : Nat) (v : Word) : ObtEntry :=
  let lo := (SMap.get s.obtLo k).getD (s.obtEntry k).lo
  { valid := bitOf lo.toNat 31, plane := BitVec.ofNat 2 (wfld lo 21 20), block := BitVec.ofNat 20 (wfld lo 19 0)
    pointer := BitVec.ofNat 16 (wfld v 31 16), stamp := s.stamp }

theorem obtHiWrite_taken (h : s.obtInflight k = 0 ∨ s.obtBad k ≠ []) :
    (s.obtHiWrite k v).obtLo = SMap.erase s.obtLo k ∧
      ∀ j, (s.obtHiWrite k v).obtEntry j = if k = j then s.obtWritten k v else s.obtEntry j := by
  unfold State.obtHiWrite
  extract_lets bad lo t u
  rw [if_neg (by
    have ht : t.obtInflight k = s.obtInflight k := rfl
    rw [ht]
    rcases h with h | h <;> simp [h, bad])]
  generalize hx : ({ valid := _, plane := _, block := _, pointer := _, stamp := _ } : ObtEntry) = x
  have hfresh := freshEntry_same (m := 0x1800000000) (Same.refl _ (u.2.setObtEntry k x)) rfl 4 (mlogAddr 0 k 0) 8
  refine ⟨?_, fun j => ?_⟩
  · rw [hfresh.obtLo rfl]
    simp only [setObtEntry_fields]
    rfl
  · rw [hfresh.obtEntry rfl, setObtEntry_get]
    subst hx
    rfl

theorem popAdvisory_adv : s.popAdvisory.adv = s.adv.tail := by
  unfold State.popAdvisory
  split
  · next h => simp [List.isEmpty_iff.1 h]
  · rw [(shiftEntries_same (m := 0x1800000000) (Same.refl _ _) rfl 3 1).adv rfl, restN_one]

theorem popAdvisory_clean (h : s.rawGroups = []) : s.popAdvisory = { s with adv := s.adv.tail } := by
  unfold State.popAdvisory State.shiftEntries
  split
  · next hempty =>
    have hnone := List.isEmpty_iff.1 hempty
    rw [hnone]
    exact congrArg (fun a => { s with adv := a }) hnone
  · rw [if_pos (by simp [h]), restN_one]

end

theorem Same.eq_of_ledgerWrite {s t : State} (h : Same 0x1801800000 s t) :
    t = { s with ledger := t.ledger, ledgerLo := t.ledgerLo, rawGroups := t.rawGroups, writeBacks := t.writeBacks } := h.eq

theorem Same.eq_of_obtWrite {s t : State} (h : Same 0x101800180000 s t) :
    t = { s with obt := t.obt, obtLo := t.obtLo, rawGroups := t.rawGroups, writeBacks := t.writeBacks, stamp := t.stamp } :=
  h.eq

theorem Same.eq_of_pop {s t : State} (h : Same 0x1802000000 s t) :
    t = { s with adv := t.adv, rawGroups := t.rawGroups, writeBacks := t.writeBacks } := h.eq

end Sys2Proof.Machine
end

section
/-! What the writes of the disturb ledger, of the open-block table and of the advisory ring do. -/

namespace Sys2Proof
open Machine

/-- Settles O29: a taken window write replaces its entry by the two words, and any window write takes the low word that
waits. -/
theorem ledgerAndOpenBlockWritesComplete : Obligations.LedgerAndOpenBlockWritesComplete := by
  unfold Obligations.LedgerAndOpenBlockWritesComplete
  intro s k v hs hk
  have herase {m : SMap Word} : SMap.get (SMap.erase m k) k = none ∧
      ∀ j, j ≠ k → SMap.get (SMap.erase m k) j = SMap.get m j :=
    ⟨SMap.get_erase_self m k, fun j hj => by rw [SMap.get_erase, if_neg hj.symm]⟩
  refine ⟨⟨_, exec_ledgerHiWrite hs hk v, ?_⟩, fun h => ⟨_, exec_obtHiWrite hs hk v, ?_⟩,
    fun h hbad => ⟨_, exec_obtHiWrite hs hk v, ?_⟩, ⟨_, exec_advPop hs, ?_⟩, fun h => ?_⟩
  · obtain ⟨hlo, hentry⟩ := ledgerHiWrite_spec s k v
    have hself := (hentry k).trans (if_pos rfl)
    refine ⟨fun w hw => ?_, fun hw => ?_, hlo ▸ herase.1, hlo ▸ herase.2,
      fun j hj => (hentry j).trans (if_neg hj.symm),
      (ledgerHiWrite_same (Same.refl _ s) rfl k v).eq_of_ledgerWrite⟩
    · rw [hself, hw]; rfl
    · rw [hself, hw]; exact LedgerEntry.ofRegs_lo ..
  · obtain ⟨hlo, hentry⟩ := obtHiWrite_taken s k v h
    have hself := (hentry k).trans (if_pos rfl)
    refine ⟨by rw [hself]; rfl, fun w hw => ?_, fun hw => ?_, hlo ▸ herase.1, hlo ▸ herase.2,
      fun j hj => (hentry j).trans (if_neg hj.symm), (obtHiWrite_same (Same.refl _ s) rfl k v).eq_of_obtWrite⟩
    · rw [hself, State.obtWritten, hw]
      exact ⟨rfl, rfl, rfl⟩
    · rw [hself, State.obtWritten, hw]
      exact ObtEntry.lo_fields (s.obtEntry k)
  · rw [obtHiWrite_ignored s k v h hbad]
    exact ⟨rfl, herase.1, herase.2, rfl⟩
  · exact ⟨popAdvisory_adv s, (popAdvisory_same (Same.refl _ s) rfl).eq_of_pop⟩
  · rw [exec_advPop hs, popAdvisory_clean s h]

end Sys2Proof
end

section
/-! SUPPORT. Admission requests, due polls, holds and age of the works of a LUN (R145, R148, R149, R161, R236, R411, R526). -/

namespace Sys2Proof.Machine
open Sys2Proof

/-! A work asks for admission, and the reads that it combines with go with it (R146, R149, R411). -/

/-- The request of a work joins those that wait, behind them. -/
theorem askAdmission_waiting {s : State} {id : Nat} {w : Work} (hw : s.work id = some w) (planes : Nat) (release : Bool) :
    (s.askAdmission id planes release).gov.waiting = s.gov.waiting ++
      [{ work := id, cls := s.workClass w, planes := planes, release := release, stamp := s.stamp }] := by
  unfold State.askAdmission
  split
  · next hnone => cases hw.symm.trans hnone
  next v hv =>
  cases hw.symm.trans hv
  extract_lets t r u blocked g asked
  have hcount : (asked.count 266 4 1).gov = asked.gov :=
    (count_same (m := 0x38000000010) (Same.refl _ asked) rfl 266 4 1).gov rfl
  split
  · rw [hcount]; rfl
  · rfl

/-- The reads `ms` are to be combined with read `id`. -/
def State.matesOf (s : State) (id : Nat) (ms : List Nat) : State :=
  ms.foldl (fun s m => s.modWork m (fun v => { v with mateOf := some id })) s

theorem matesOf_same {m : Nat} {z t : State} (hk : Same m z t) (h : 0x1000 ||| m = m) (id : Nat) (ms : List Nat) :
    Same m z (t.matesOf id ms) :=
  Same.foldl (fun _ j hu => modWork_same hu h j _) hk

/-- Reads that combine keep their admission and their state. -/
theorem matesOf_work (id : Nat) (ms : List Nat) {s : State} {j : Nat} {w : Work} (hw : s.work j = some w) :
    ∃ v, (s.matesOf id ms).work j = some v ∧ v.adm = w.adm ∧ v.st = w.st := by
  induction ms generalizing s w with
  | nil => exact ⟨w, hw, rfl, rfl⟩
  | cons m ms ih =>
    have hcons : s.matesOf id (m :: ms) = (s.modWork m (fun v => { v with mateOf := some id })).matesOf id ms := rfl
    have hstep := modWork_work s m j (fun v => { v with mateOf := some id })
    rw [hw] at hstep
    rw [hcons]
    split at hstep
    · obtain ⟨v, hv, hadm, hst⟩ := ih hstep
      exact ⟨v, hv, hadm, hst⟩
    · exact ih hstep

theorem ask_some {u : State} {n l id : Nat} {w : Work} (hask : u.nextAsk n l = some id) (hw : u.work id = some w) :
    ∃ ms, u.ask n l =
      ((u.askAdmission id ms.length false).modWork id (fun w => { w with adm := .requested })).matesOf id ms := by
  unfold State.ask
  rw [hask]
  dsimp only
  rw [hw]
  exact ⟨_, rfl⟩

/-- The work that asks next has asked: its request waits, and no grant changes (R149, R411). -/
theorem ask_spec {u : State} {n l id : Nat} {w : Work} (hask : u.nextAsk n l = some id) (hw : u.work id = some w) :
    (∃ v, (u.ask n l).work id = some v ∧ v.adm = .requested ∧ v.st = w.st) ∧
      (∃ r, r ∈ (u.ask n l).gov.waiting ∧ r.work = id ∧ r.release = false ∧ r.cls = u.workClass w) ∧
      (u.ask n l).gov.grants = u.gov.grants := by
  obtain ⟨ms, hms⟩ := ask_some hask hw
  rw [hms]
  have hasked := askAdmission_same (m := 0x138200000010) (Same.refl _ u) rfl id ms.length false
  have hgov := (matesOf_same (modWork_same (m := 0x1000) (Same.refl _ (u.askAdmission id ms.length false)) rfl id
    (fun w => { w with adm := .requested })) rfl id ms).gov rfl
  have hrequested : ((u.askAdmission id ms.length false).modWork id (fun w => { w with adm := .requested })).work id =
      some { w with adm := .requested } := by
    rw [modWork_work, if_pos rfl, hasked.work rfl, hw]
    rfl
  refine ⟨matesOf_work id ms hrequested, ?_, ?_⟩
  · rw [hgov, askAdmission_waiting hw]
    exact ⟨_, List.mem_append_right _ List.mem_cons_self, rfl, rfl, rfl⟩
  · rw [hgov]
    exact (askAdmission_waits hw _ _).2

theorem ask_none {u : State} {n l : Nat} (hask : u.nextAsk n l = none) : u.ask n l = u := by
  unfold State.ask
  rw [hask]

/-- The free soft decoder takes the only codeword that waits for it (R236). -/
theorem softNext_takes {s : State} {n id q f : Nat} {w : Work} {rest : List Nat} (hfree : (s.chan n).soft = none)
    (hw : s.work id = some w) (hch : w.ch = n) (hst : w.st = .soft) (hassist : w.assist = 0) (hfailed : w.failed = q :: rest)
    (hframe : w.frame = some f)
    (honly : ∀ e, e ∈ s.works → e.2.ch = n → e.2.st = .soft → e.2.assist = 0 → e = (id, w))
    (hclean : (s.frameRead f (w.codeBase q) (w.cfg.bytes w.level)).1.2 = false) :
    ∃ b, ((s.softNext n).chan n).soft = some b ∧ b.work = id := by
  let waits (e : Nat × Work) : Bool := e.2.ch == n && e.2.st == .soft && e.2.assist == 0
  have hwaits : (id, w) ∈ s.works.filter waits :=
    List.mem_filter.2 ⟨SMap.mem_of_get hw, by simp [waits, hch, hst, hassist]⟩
  obtain ⟨e, he⟩ := leastBy_some (fun e : Nat × Work => s.workTagStamp e.2) (List.ne_nil_of_mem hwaits)
  obtain ⟨hmem, hof⟩ := List.mem_filter.1 (leastBy_mem he)
  simp only [waits, Bool.and_eq_true, beq_iff_eq] at hof
  obtain ⟨⟨hof, hsoft⟩, hno⟩ := hof
  obtain rfl := honly e hmem hof hsoft hno
  unfold State.softNext
  rw [if_neg (by simp [hfree]), he]
  dsimp only
  rw [hfailed, hframe]
  dsimp only
  rw [if_neg (by simp [hclean])]
  generalize hb : ({ work := id, centre := _, agree := _, read := _, assists := _, cfg := _ } : SoftBuf) = b
  refine ⟨b, ?_, by rw [← hb]⟩
  rw [(modWork_same (m := 0x1000) (Same.refl _ _) rfl id _).chan rfl, modChan_get, if_pos rfl]

/-! Polls that fall due, and holds that firmware clears (R148, R161, R526). -/

/-- A LUN whose poll falls due, if an operation runs in it; `rise` is that of its `RB_N`. -/
def Lun.polled (x : Lun) (rise : Bool) : Lun :=
  { x with pollDue := x.op.isSome || x.pollDue, op := x.op.map (fun o => { o with low := o.low && !rise }) }

theorem Lun.polled_idle {x : Lun} (h : x.op = none) (rise : Bool) : x.polled rise = x := by
  cases x
  cases h
  rfl

/-- The poll of LUN `key` falls due. -/
def State.pollLun (s : State) (key : Nat) (rise : Bool) : State :=
  match (s.lun key).op with
  | some o => s.setLun key { s.lun key with pollDue := true, op := some { o with low := o.low && !rise } }
  | none => s

theorem pollLun_lun (s : State) (key : Nat) (rise : Bool) (k : Nat) :
    (s.pollLun key rise).lun k = if key = k then (s.lun k).polled rise else s.lun k := by
  unfold State.pollLun
  split
  · next o ho =>
    rw [setLun_get]
    split
    · next hk =>
      subst hk
      rw [Lun.polled, ho]
      rfl
    · rfl
  · next ho =>
    split
    · next hk => rw [Lun.polled_idle (hk ▸ ho)]
    · rfl

theorem pollsDue_lun (s : State) (n x : Nat) (rise : Bool) (k : Nat) : (s.pollsDue n x rise).lun k =
    if k = lunKey n (2 * x) ∨ k = lunKey n (2 * x + 1) then (s.lun k).polled rise else s.lun k := by
  have hpolls : s.pollsDue n x rise = (s.pollLun (lunKey n (2 * x)) rise).pollLun (lunKey n (2 * x + 1)) rise := rfl
  have hne : lunKey n (2 * x) ≠ lunKey n (2 * x + 1) := by unfold lunKey; omega
  rw [hpolls, pollLun_lun, pollLun_lun]
  by_cases h0 : k = lunKey n (2 * x)
  · rw [if_neg (h0 ▸ hne.symm), if_pos h0.symm, if_pos (.inl h0)]
  · by_cases h1 : k = lunKey n (2 * x + 1)
    · rw [if_pos h1.symm, if_neg (Ne.symm h0), if_pos (.inr h1)]
    · rw [if_neg (Ne.symm h1), if_neg (Ne.symm h0), if_neg (not_or.2 ⟨h0, h1⟩)]

/-- A LUN without its hold (R161). -/
def Lun.unheld (x : Lun) : Lun := { x with held := false }

/-- The holds of the LUNs `ls` of channel `n` clear. -/
def State.unhold (s : State) (n : Nat) (ls : List Nat) : State :=
  ls.foldl (fun (s : State) l => s.modLun (lunKey n l) Lun.unheld) s

theorem unhold_lun (n : Nat) (ls : List Nat) (s : State) (k : Nat) : (s.unhold n ls).lun k =
    if ∃ l, l ∈ ls ∧ lunKey n l = k then (s.lun k).unheld else s.lun k := by
  induction ls generalizing s with
  | nil => rw [if_neg (by simp)]; rfl
  | cons a ls ih =>
    have hcons : s.unhold n (a :: ls) = (s.modLun (lunKey n a) Lun.unheld).unhold n ls := rfl
    rw [hcons, ih, modLun_get]
    by_cases ha : lunKey n a = k
    · rw [if_pos ha, if_pos (⟨a, List.mem_cons_self, ha⟩ : ∃ l, l ∈ a :: ls ∧ lunKey n l = k)]
      exact ite_self _
    · rw [if_neg ha]
      simp only [List.mem_cons, or_and_right, exists_or, exists_eq_left, ha, false_or]

theorem mem_setBits {n v l : Nat} : l ∈ setBits n v ↔ l < n ∧ bitOf v l = true := by
  simp [setBits, mem_countUp]

theorem holdClear_held (s : State) (n : Nat) (v : Word) {l : Nat} (hl : l < 16) :
    ((s.holdClear n v).lun (lunKey n l)).held = ((s.lun (lunKey n l)).held && !bitOf v.toNat l) := by
  have hclear : (∃ j, j ∈ setBits 16 v.toNat ∧ lunKey n j = lunKey n l) ↔ bitOf v.toNat l = true := by
    constructor
    · rintro ⟨j, hj, he⟩
      obtain rfl : j = l := by unfold lunKey at he; omega
      exact (mem_setBits.1 hj).2
    · exact fun hb => ⟨l, mem_setBits.2 ⟨hl, hb⟩, rfl⟩
  have hhold : s.holdClear n v = s.unhold n (setBits 16 v.toNat) := rfl
  rw [hhold, unhold_lun]
  split
  · next h => simp [hclear.1 h, Lun.unheld]
  · next h => simp [Bool.not_eq_true _ ▸ mt hclear.2 h]

theorem holdClear_other (s : State) {n : Nat} (v : Word) {k : Nat} (hk : k / 16 ≠ n) :
    (s.holdClear n v).lun k = s.lun k := by
  have hhold : s.holdClear n v = s.unhold n (setBits 16 v.toNat) := rfl
  rw [hhold, unhold_lun, if_neg]
  rintro ⟨j, hj, rfl⟩
  have hj := (mem_setBits.1 hj).1
  unfold lunKey at hk
  omega

theorem Same.eq_of_luns {s t : State} (h : Same 0x2000 s t) : t = { s with luns := t.luns } := h.eq

theorem Same.eq_of_works {s t : State} (h : Same 0x1000 s t) : t = { s with works := t.works } := h.eq

/-! The commands as they are run. -/

section
variable {s : State} {n : Nat} (hn : n < s.nch) (hs : s.hostOn = true)
include hs

theorem exec_programAgeClimb {id : Nat} {w : Work} (hw : s.work id = some w) (hkind : w.kind = .program ∨ w.kind = .erase)
    (hst : w.st = .waiting) (hlimit : s.fld (chanPage w.ch + 0x80) 23 8 ≠ 0) :
    exec (.programAgeClimb id) s = .next (s.modWork id (fun w => { w with climbed := true })) := by
  show execProgramAgeClimb id s = _
  unfold execProgramAgeClimb
  rw [hw]
  dsimp only
  rw [if_pos (by simp [hs, hst, hlimit, hkind])]

include hn

theorem exec_admissionRequest {l : Nat} (hl : l < 16) :
    exec (.admissionRequest n l) s = .next ((s.softNext n).ask n l) := by
  show execAdmissionRequest n l s = _
  rw [execAdmissionRequest, if_pos (by simp [State.lunOk, hn, hs, hl])]

theorem exec_rbNRise {i : Nat} (hi : i < 8) (hreset : (s.chan n).inReset = false) (hbay : s.bayOn (n / 8) = true) :
    exec (.rbNRise n i) s = .next (s.pollsDue n i true) := by
  show execRbNRise n i s = _
  rw [execRbNRise, if_pos (by simp [lunOk_zero hn hs, hi, hreset, hbay])]

theorem exec_pollIntervalExpiry {i : Nat} (hi : i < 8) : exec (.pollIntervalExpiry n i) s = .next
    (if (s.lun (lunKey n (2 * i))).op.isSome && (s.lun (lunKey n (2 * i + 1))).op.isSome then s.pollsDue n i false
      else s) := by
  show execPollIntervalExpiry n i s = _
  simp only [execPollIntervalExpiry, lunOk_zero hn hs, hi, decide_true, Bool.true_and]
  split <;> rfl

theorem exec_heldLunPoll {l : Nat} (hl : l < 16) (hheld : (s.lun (lunKey n l)).held = true) :
    exec (.heldLunPoll n l) s = .next (s.modLun (lunKey n l) (fun x => { x with pollDue := true })) := by
  show execHeldLunPoll n l s = _
  rw [execHeldLunPoll, if_pos (by simp [State.lunOk, hn, hs, hl, hheld])]

omit hs in
theorem exec_lunHoldClear (hserving : s.serving = true) (hreset : (s.chan n).inReset = false) (v : Word) :
    exec (.lunHoldClear n v) s = .next (s.holdClear n v) := by
  show execLunHoldClear n v s = _
  simp [execLunHoldClear, asleep_of_serving hserving, hserving, hn, hreset]

end

end Sys2Proof.Machine
end

section
/-! What admission requests, polls, holds and age do to the works and LUNs of a channel. -/

namespace Sys2Proof
open Machine

/-- Settles O8, command by command: the work that asks next has its request waiting, the free soft decoder takes its codeword,
and the poll, the hold or the age of the LUNs and works that a command names changes. -/
theorem schedulerEventsComplete : Obligations.SchedulerEventsComplete := by
  unfold Obligations.SchedulerEventsComplete
  intro s n hn hs
  refine ⟨?_, ?_, ?_, ?_, ?_, ?_, ?_, ?_, ?_⟩
  · rintro l id w _ hl rfl hask hw
    obtain ⟨hwork, hrequest, hgrants⟩ := ask_spec hask hw
    have hframe := ask_same (m := 0x138200001010) (Same.refl _ (s.softNext n)) rfl n l
    exact ⟨_, exec_admissionRequest hn hs hl, hwork, hrequest, hgrants, hframe.tags rfl, hframe.luns rfl⟩
  · intro l hl hask
    rw [exec_admissionRequest hn hs hl, ask_none hask]
  · intro l id w q rest f hl hfree hw hch hst hassist hfailed hframe honly hclean
    obtain ⟨b, hsoft, hwork⟩ := softNext_takes hfree hw hch hst hassist hfailed hframe honly hclean
    have hasked := ask_same (m := 0x138200001010) (Same.refl _ (s.softNext n)) rfl n l
    exact ⟨_, b, exec_admissionRequest hn hs hl, by rw [hasked.chan rfl, hsoft], hwork⟩
  · intro id w hw hch hkind hst hlimit
    refine ⟨_, exec_programAgeClimb hs hw hkind hst (hch ▸ hlimit), ?_, fun j hj => ?_,
      (modWork_same (Same.refl _ s) rfl id _).eq_of_works⟩
    · rw [modWork_work, if_pos rfl, hw]; rfl
    · rw [modWork_work, if_neg hj.symm]
  · intro i l hi hl hreset hbay
    refine ⟨_, exec_rbNRise hn hs hi hreset hbay, ?_, fun k h0 h1 => ?_,
      (pollsDue_same (Same.refl _ s) rfl n i true).eq_of_luns⟩
    · rw [pollsDue_lun, if_pos (hl.imp (congrArg (lunKey n)) (congrArg (lunKey n))), Lun.polled]
      simp only [Bool.not_true, Bool.and_false]
    · rw [pollsDue_lun, if_neg (not_or.2 ⟨h0, h1⟩)]
  · intro i hi h0 h1
    rw [exec_pollIntervalExpiry hn hs hi, if_pos (by simp [Option.isSome_iff_ne_none, h0, h1])]
    refine ⟨_, rfl, ?_, ?_, (pollsDue_same (Same.refl _ s) rfl n i false).eq_of_luns⟩
    · rw [pollsDue_lun, if_pos (.inl rfl), Lun.polled, Option.isSome_iff_ne_none.2 h0, Bool.true_or]
    · rw [pollsDue_lun, if_pos (.inr rfl), Lun.polled, Option.isSome_iff_ne_none.2 h1, Bool.true_or]
  · intro i hi hidle
    rw [exec_pollIntervalExpiry hn hs hi, if_neg]
    rcases hidle with h | h <;> simp [h]
  · intro l hl hheld
    refine ⟨_, exec_heldLunPoll hn hs hl hheld, ?_, fun k hk => ?_, (modLun_same (Same.refl _ s) rfl _ _).eq_of_luns⟩
    · rw [modLun_get, if_pos rfl]
    · rw [modLun_get, if_neg hk.symm]
  · intro v hserving hreset
    exact ⟨_, exec_lunHoldClear hn hserving hreset v, fun l hl => holdClear_held s n v hl,
      fun k hk => holdClear_other s v hk, (holdClear_same (Same.refl _ s) rfl n v).eq_of_luns⟩

end Sys2Proof
end

section
/-! A state against the statement on the bus jobs (R106, R118). -/

namespace Sys2Proof.Machine
open Sys2Proof

/-- A reset whose bus job is due, of tag 0. -/
def dueReset : Work := { Work.new .reset .own 0 (some 0) 0 with adm := .granted }

/-- The table of flash work lists work 0 twice, as a reset whose job is due and as a Q page of the LUN that it resets: every
entry of the channel has the reset's number, and no hypothesis of the statement has the table in its canonical form. -/
def twiceListed : State :=
  { State.reset with
    ph := { State.reset.ph with blkReset := false, hclk := true }
    works := [(0, dueReset), (0, Work.new .read .qPage 0 none 0)]
    chans := [(0, { Chan.init with st := .running, store := .loaded, inReset := false })] }

theorem twiceListed_job : twiceListed.bestJob 0 = some (.reset 0) := by decide +kernel

theorem twiceListed_sends : exec (.targetReset 0) twiceListed = .next (twiceListed.targetReset 0) := rfl

/-- The Q page is sent again without the grant that it held, and the job finds the reset under its number. -/
theorem twiceListed_ungranted :
    ((twiceListed.targetReset 0).work 0).map (fun w => w.adm) = some .none := by decide +kernel

end Sys2Proof.Machine
end

section
/-! The bus jobs that set levels and start, suspend and resume array operations (R143, R147, R150 to R153, R163, R172, R263,
R546). -/

namespace Sys2Proof
open Machine

/-- Refutes O9: its last clause says that a reset whose job starts keeps its grant, and where the table of flash work lists the
reset's number a second time, as a Q page that the reset hits, the work of that number loses it. -/
theorem not_busJobsComplete : ¬ Obligations.BusJobsComplete := by
  unfold Obligations.BusJobsComplete
  intro h
  obtain ⟨-, -, -, -, -, -, -, -, hreset⟩ := h twiceListed 0 (by decide) rfl
  obtain ⟨t, ht, hwork, -⟩ := hreset 0 dueReset 0 twiceListed_job rfl rfl (by simp [twiceListed, State.reset])
    (by simp [twiceListed]) rfl rfl
  obtain rfl := Host.Outcome.next.inj (twiceListed_sends.symm.trans ht)
  have hadm := twiceListed_ungranted
  rw [hwork] at hadm
  exact absurd hadm (by decide)

end Sys2Proof
end

section
/-! SUPPORT. A status poll: the LUN whose poll is next, and how the array operation that a poll finds ended leaves its works
(R148, R161, R164). -/

namespace Sys2Proof.Machine
open Sys2Proof

/-- A job is due only on a channel that runs (R129, R144). -/
theorem bestJob_chanRuns {s : State} {n : Nat} {j : Job} (h : s.bestJob n = some j) : s.chanRuns n = true := by
  by_contra hruns
  have hnone : s.jobs n = [] := by
    unfold State.jobs State.eligible
    rw [if_neg hruns]
    rfl
  unfold State.bestJob at h
  rw [hnone] at h
  split at h <;> cases h

theorem bestJob_running {s : State} {n : Nat} {j : Job} (h : s.bestJob n = some j) : (s.chan n).st = .running := by
  have hruns := bestJob_chanRuns h
  unfold State.chanRuns at hruns
  simp only [Bool.and_eq_true, beq_iff_eq] at hruns
  obtain ⟨⟨⟨⟨-, hst⟩, -⟩, -⟩, -⟩ := hruns
  exact hst

/-! The job of the poll, and what it finds. -/

/-- The poll's job has run on LUN `l`, whose poll is due no more. -/
def State.lunPolled (s : State) (n l : Nat) (status : Byte) : State :=
  (((s.traceJob n 2 15 l none).busJob n 15 [] none l false
    (.command 0x78 :: s.rowCycles n l (lunAddr n l) ++ [.status status])).modChan n
      (fun c => { c with bus := { c.bus with status := status.toNat } })).modLun (lunKey n l)
        (fun x => { x with pollDue := false })

/-- The poll has found LUN `l` ready, and clears its hold (R161). -/
def State.lunReady (s : State) (n l : Nat) (status : Byte) : State :=
  (s.lunPolled n l status).modLun (lunKey n l) (fun x => { x with held := false })

section
variable (s : State) (n l : Nat) (status : Byte)

/-- The job of the poll, before the LUN is written, moves the bus alone. -/
theorem polledJob_same {m : Nat} (h : 0x408000004010 ||| m = m) (cycles : List BusCycle) (f : Chan → Chan) :
    Same m s (((s.traceJob n 2 15 l none).busJob n 15 [] none l false cycles).modChan n f) :=
  modChan_same (busJob_same (traceJob_same (Same.refl _ s) (up h rfl) ..) (up h rfl) ..) (up h rfl) n f

theorem lunPolled_same : Same 0x408000006010 s (s.lunPolled n l status) :=
  modLun_same (polledJob_same s n l rfl ..) rfl ..

theorem lunReady_same : Same 0x408000006010 s (s.lunReady n l status) := modLun_same (lunPolled_same ..) rfl ..

theorem lunPolled_lun (k : Nat) : (s.lunPolled n l status).lun k =
    if lunKey n l = k then { s.lun k with pollDue := false } else s.lun k := by
  unfold State.lunPolled
  rw [modLun_get, (polledJob_same s n l (m := 0x408000004010) rfl ..).lun rfl]

theorem lunReady_lun (k : Nat) : (s.lunReady n l status).lun k =
    if lunKey n l = k then { s.lun k with pollDue := false, held := false } else s.lun k := by
  unfold State.lunReady
  rw [modLun_get, lunPolled_lun]
  split <;> rfl

theorem polledJob_st (cycles : List BusCycle) (f : Chan → Chan) (hf : ∀ c, (f c).st = c.st)
    (hreset : ∀ c, (f c).inReset = c.inReset) (j : Nat) :
    ((((s.traceJob n 2 15 l none).busJob n 15 [] none l false cycles).modChan n f).chan j).st = (s.chan j).st := by
  have hquiet := (traceJob_quiet s n 2 15 l none).trans (busJob_quiet _ n 15 [] none l false cycles)
  have hst : ((((s.traceJob n 2 15 l none).busJob n 15 [] none l false cycles).chan j).still).st = (s.chan j).still.st :=
    congrArg Chan.st (hquiet.chan j)
  exact ((modChan_stays (Stays.refl _) n f hf hreset).st j).trans hst

theorem lunPolled_st (j : Nat) : ((s.lunPolled n l status).chan j).st = (s.chan j).st := by
  unfold State.lunPolled
  rw [(modLun_same (m := 0x2000) (Same.refl _ _) rfl ..).chan rfl]
  refine polledJob_st s n l _ _ (fun c => ?_) (fun c => ?_) j <;> rfl

theorem lunReady_st (j : Nat) : ((s.lunReady n l status).chan j).st = (s.chan j).st := by
  unfold State.lunReady
  rw [(modLun_same (m := 0x2000) (Same.refl _ _) rfl ..).chan rfl, lunPolled_st]

end

section
variable {s : State} {n l : Nat} {status : Byte} (hbest : s.bestJob n = some (.poll l))
include hbest

theorem pollNext_best : s.pollNext n = some l := by
  unfold State.pollNext
  rw [if_neg (by simp [bestJob_running hbest]), hbest]

theorem statusPoll_busy (hbusy : status.getLsbD 6 = false) : s.statusPoll n status = s.lunPolled n l status := by
  unfold State.statusPoll
  rw [pollNext_best hbest]
  dsimp only
  exact if_pos (by rw [hbusy]; rfl)

theorem statusPoll_ready (hready : status.getLsbD 6 = true) : s.statusPoll n status =
    match (s.lun (lunKey n l)).op with
    | some o => if o.suspending && !status.getLsbD 5 then s.lunReady n l status
                else ((s.lunReady n l status).opEnds n l o status).grantFrames n
    | none => s.lunReady n l status := by
  have hop : ((s.lunReady n l status).lun (lunKey n l)).op = (s.lun (lunKey n l)).op := by
    rw [lunReady_lun, if_pos rfl]
  rw [← hop]
  unfold State.statusPoll
  rw [pollNext_best hbest]
  dsimp only
  exact if_neg (by rw [hready]; decide)

end

/-! An array operation ends at the die (R149, R164). -/

/-- The LUN is free of the array operation that ended, and its grant is released. -/
def State.opDone (s : State) (key : Nat) (o : ArrayOp) : State :=
  (s.releaseOp key o.works).modLun key (fun x => { x with op := none })

theorem opDone_same {m : Nat} {z t : State} (hk : Same m z t) (h : 0x200002000 ||| m = m) (key : Nat) (o : ArrayOp) :
    Same m z (t.opDone key o) :=
  modLun_same (releaseOp_same hk (up h rfl) ..) (up h rfl) ..

theorem opDone_grants (s : State) (key : Nat) (o : ArrayOp) (g : PeGrant) (hg : g ∈ (s.opDone key o).gov.grants) :
    ¬ (g.lun = key ∧ g.work ∈ o.works) := by
  have hgov : (s.opDone key o).gov = (s.releaseOp key o.works).gov :=
    (modLun_same (m := 0x2000) (Same.refl _ (s.releaseOp key o.works)) rfl ..).gov rfl
  rw [hgov] at hg
  obtain ⟨-, hkept⟩ := List.mem_filter.1 hg
  rintro ⟨rfl, hwork⟩
  simp [hwork] at hkept

section
variable {u : State} {n l id : Nat} {o : ArrayOp} {w : Work} (hworks : o.works = [id]) (hw : u.work id = some w)
  (hst : w.st ≠ .recover) (status : Byte)
include hworks hw hst

theorem opEnds_one {v : State} (hv : v = u.opDone (lunKey n l) o) :
    (o.kind = .read → u.opEnds n l o status = v.modWork id (fun w => { w with st := .arrayDone })) ∧
      (o.kind = .program ∨ o.kind = .erase → u.opEnds n l o status = v.dieEnd id (status.getLsbD 0) status) := by
  have hwork : v.work id = some w := by
    rw [hv, (opDone_same (m := 0x200002000) (Same.refl _ u) rfl _ o).work rfl, hw]
  unfold State.opDone at hv
  unfold State.opEnds
  dsimp only
  rw [← hv, hworks, List.foldl_cons, List.foldl_nil, hwork]
  dsimp only
  rw [if_neg hst]
  refine ⟨fun hkind => ?_, fun hkind => ?_⟩
  · rw [hkind]
  · rcases hkind with hkind | hkind <;> rw [hkind]

end

/-- An erase that has ended at the die commits with what its status byte says (R103, R164). -/
theorem dieEnd_erase {s : State} {id k : Nat} {w : Work} (hw : s.work id = some w) (hkind : w.kind = .erase)
    (htag : w.tag = some k) (hlive : liveTag s k) (bad : Bool) (status : Byte) :
    dueFor (s.dieEnd id bad status) (s.tag k).sqid k (if bad then .lunStatusFail else .success)
      (if bad then BitVec.ofNat 32 (status.toNat * 2 ^ 16) else 0) := by
  have hended : Same 0x409200037010 s (s.endWork id) := endWork_same (Same.refl _ s) rfl id
  have hlive' := hended.liveTag rfl rfl hlive
  rw [← hended.tag rfl k]
  unfold State.dieEnd
  rw [hw]
  dsimp only
  rw [if_neg (by rw [hkind]; decide), htag]
  cases bad
  · exact finish_due hlive' .success 0
  · exact finish_due hlive' .lunStatusFail (status.toNat * 2 ^ 16)

/-- A PROGRAM_PAGE that has ended well at the die commits with its status and info word (R74, R164). -/
theorem dieEnd_well {s : State} {id k : Nat} {w : Work} (hw : s.work id = some w) (hkind : w.kind = .program)
    (hrole : w.role = .own) (htag : w.tag = some k) (hlive : liveTag s k) (hop : (s.tag k).opcode = some .programPage)
    (status : Byte) :
    dueFor (s.dieEnd id false status) (s.tag k).sqid k (s.tag k).status (s.tag k).info := by
  have hended : Same 0x409200037010 s (s.endWork id) := endWork_same (Same.refl _ s) rfl id
  have hlive' := hended.liveTag rfl rfl hlive
  have htag' := hended.tag rfl k
  obtain ⟨-, -, hruns, -, hue, -⟩ := hlive
  have heq : s.dieEnd id false status = (s.endWork id).finish k (s.tag k).status (s.tag k).info.toNat := by
    unfold State.dieEnd
    rw [hw]
    dsimp only
    rw [if_pos hkind, if_neg (by decide)]
    unfold State.programWell
    rw [hw]
    dsimp only
    rw [htag, hrole]
    dsimp only
    rw [hue, hop]
    unfold State.programSucceeds
    dsimp only
    rw [htag', hruns]
    rfl
  rw [heq, ← htag']
  have hdue := finish_due hlive' ((s.endWork id).tag k).status ((s.endWork id).tag k).info.toNat
  rwa [BitVec.ofNat_toNat, BitVec.setWidth_eq] at hdue

/-! The command as it is run (R148, R459). -/

theorem resetsPolled_settled {t : State} {n : Nat} (hst : (t.chan n).st = .running) (out : Bool) :
    t.resetsPolled n out = t := by
  unfold State.resetsPolled
  exact if_neg (by simp [hst])

section
variable {s : State} {n l : Nat} {status : Byte} (hn : n < s.nch) (hs : s.hostOn = true)
  (hbest : s.bestJob n = some (.poll l))
include hn hs

theorem exec_statusPoll (status : Byte) : exec (.statusPoll n status) s =
    .next ((s.statusPoll n status).resetsPolled n (!(s.ownResets n).isEmpty)) := by
  show execStatusPoll n status s = _
  rw [execStatusPoll, if_pos (lunOk_zero hn hs)]

theorem exec_statusPoll_settled {t : State} (ht : s.statusPoll n status = t) (hst : (t.chan n).st = .running) :
    exec (.statusPoll n status) s = .next t := by
  rw [exec_statusPoll hn hs, ht, resetsPolled_settled hst]

theorem exec_statusPoll_due {t : State} (ht : s.statusPoll n status = t) {q k : Nat} {st : Status} {info : Word}
    (hdue : dueFor t q k st info) : ∃ u, exec (.statusPoll n status) s = .next u ∧ dueFor u q k st info :=
  ⟨_, exec_statusPoll hn hs status, ht ▸ (resetsPolled_same (m := 0x40a000006010) (Same.refl _ _) rfl n _).dueFor rfl
    (ht ▸ hdue)⟩

include hbest

/-- A poll that finds the LUN ready, and no operation ended, leaves the works and the tags. -/
theorem statusPoll_stands (hready : s.statusPoll n status = s.lunReady n l status) :
    ∃ t, exec (.statusPoll n status) s = .next t ∧
      t.lun (lunKey n l) = { s.lun (lunKey n l) with pollDue := false, held := false } ∧ t.works = s.works ∧
      t.tags = s.tags := by
  have hsame := lunReady_same s n l status
  refine ⟨_, exec_statusPoll_settled hn hs hready ((lunReady_st ..).trans (bestJob_running hbest)), ?_, hsame.works rfl,
    hsame.tags rfl⟩
  rw [lunReady_lun, if_pos rfl]

/-- An array read that has ended leaves its LUN, and its grant goes. -/
theorem readEnds_spec {o : ArrayOp} {id : Nat} {w : Work}
    (hends : s.statusPoll n status = (((s.lunReady n l status).opDone (lunKey n l) o).modWork id
      (fun w => { w with st := .arrayDone })).grantFrames n)
    (hworks : o.works = [id]) (hw : s.work id = some w) :
    ∃ t, exec (.statusPoll n status) s = .next t ∧ (t.lun (lunKey n l)).op = none ∧
      (∃ v, t.work id = some v ∧ v.st = .arrayDone) ∧
      (∀ g, g ∈ t.gov.grants → ¬ (g.lun = lunKey n l ∧ g.work = id)) := by
  have hdone := opDone_same (m := 0x200002000) (Same.refl _ (s.lunReady n l status)) rfl (lunKey n l) o
  have hgrants := opDone_grants (s.lunReady n l status) (lunKey n l) o
  have hop : (((s.lunReady n l status).opDone (lunKey n l) o).lun (lunKey n l)).op = none := by
    unfold State.opDone
    rw [modLun_get, if_pos rfl]
  generalize (s.lunReady n l status).opDone (lunKey n l) o = v at *
  have hwork : (v.modWork id (fun w => { w with st := .arrayDone })).work id = some { w with st := .arrayDone } := by
    rw [modWork_work, if_pos rfl, hdone.work rfl, (lunReady_same ..).work rfl, hw]
    rfl
  have hgranted : Same 0x9400 v ((v.modWork id (fun w => { w with st := .arrayDone })).grantFrames n) :=
    grantFrames_same (modWork_same (Same.refl _ v) rfl id _) rfl n
  obtain ⟨x, hx, hreframed⟩ := grantFramesN_work 64 n id hwork
  refine ⟨_, exec_statusPoll_settled hn hs hends ?_, ?_, ⟨x, hx, ?_⟩, fun g hg => ?_⟩
  · rw [hgranted.chan rfl, hdone.chan rfl, lunReady_st]
    exact bestJob_running hbest
  · rw [hgranted.lun rfl, hop]
  · rw [hreframed]
  · rw [hgranted.gov rfl] at hg
    have hne := hgrants g hg
    rw [hworks] at hne
    simpa using hne

omit hbest in
/-- A program or an erase that has ended commits as its end at the die commits. -/
theorem dieEnds_due {o : ArrayOp} {id : Nat} {bad : Bool} {q k : Nat} {st : Status} {info : Word}
    (hends : s.statusPoll n status = (((s.lunReady n l status).opDone (lunKey n l) o).dieEnd id bad status).grantFrames n)
    (hdue : dueFor (((s.lunReady n l status).opDone (lunKey n l) o).dieEnd id bad status) q k st info) :
    ∃ t, exec (.statusPoll n status) s = .next t ∧ dueFor t q k st info :=
  exec_statusPoll_due hn hs hends ((grantFrames_same (m := 0x9400) (Same.refl _ _) rfl n).dueFor rfl hdue)

end

end Sys2Proof.Machine
end

section
/-! What a status poll finds of an array operation. -/

namespace Sys2Proof
open Machine

/-- Settles O12, outcome by outcome: a busy LUN, a ready LUN without an operation that has ended, and the ends of a read, an
erase and a program. -/
theorem statusPollsComplete : Obligations.StatusPollsComplete := by
  unfold Obligations.StatusPollsComplete
  intro s n l status hn hs hbest
  refine ⟨fun hbusy => ?_, fun hready hidle => ?_, fun o hready hop hsuspending hbit => ?_,
    fun o id w hready hop hended hworks hw hst => ?_⟩
  · have hsame := lunPolled_same s n l status
    refine ⟨_, exec_statusPoll_settled hn hs (statusPoll_busy hbest hbusy)
      ((lunPolled_st ..).trans (bestJob_running hbest)), ?_, fun k hk => ?_, hsame.works rfl, hsame.tags rfl⟩
    · rw [lunPolled_lun, if_pos rfl]
    · rw [lunPolled_lun, if_neg hk.symm]
  · exact statusPoll_stands hn hs hbest ((statusPoll_ready hbest hready).trans (by rw [hidle]))
  · exact statusPoll_stands hn hs hbest
      ((statusPoll_ready hbest hready).trans (by rw [hop]; exact if_pos (by rw [hsuspending, hbit]; rfl)))
  · have hends : s.statusPoll n status = ((s.lunReady n l status).opEnds n l o status).grantFrames n := by
      rw [statusPoll_ready hbest hready, hop]
      exact if_neg (by rcases hended with h | h <;> simp [h])
    have hpolled := lunReady_same s n l status
    have hdone : Same 0x40820000e010 s ((s.lunReady n l status).opDone (lunKey n l) o) :=
      opDone_same (modLun_same (modLun_same (polledJob_same s n l rfl ..) rfl ..) rfl ..) rfl ..
    obtain ⟨hread, hdie⟩ := opEnds_one hworks ((hpolled.work rfl id).trans hw) hst status (n := n) (l := l) rfl
    have hdoneWork := (hdone.work rfl id).trans hw
    refine ⟨fun hkind => ?_, fun k hkind hw' htag hlive => ?_, fun k f hkind hw' hrole htag hframe hlive hopcode => ?_⟩
    · exact readEnds_spec hn hs hbest (hends.trans (by rw [hread hkind])) hworks hw
    · refine dieEnds_due hn hs (hends.trans (by rw [hdie (.inr hkind)])) ?_
      rw [← hdone.tag rfl k]
      exact dieEnd_erase hdoneWork hw' htag (hdone.liveTag rfl rfl hlive) (status.getLsbD 0) status
    · refine dieEnds_due hn hs (hends.trans (by rw [hdie (.inl hkind)])) ?_
      have hlive' := hdone.liveTag rfl rfl hlive
      rw [← hdone.tag rfl k] at hopcode ⊢
      cases status.getLsbD 0
      · exact dieEnd_well hdoneWork hw' hrole htag hlive' hopcode status
      · exact dieEnd_lost hdoneWork hw' hrole htag hframe hlive' hopcode status

end Sys2Proof
end

section
/-! SUPPORT. The fault of a channel that holds no tag and no flash work, and the end of its recovery (R159, R179, R191, R455,
R457 to R459). -/

namespace Sys2Proof.Machine
open Sys2Proof

/-! Channel reset (R21, R218, R354). -/

/-- A channel as its island enters channel reset, with its FIFOs, its decoders and its bus. -/
def Chan.emptied (c : Chan) : Chan :=
  { c with inReset := true, cal := { c.cal with runs := 0, prev := none }, msgs := [], msgDrop := false, msgOpen := false
           ingress := [], ingressWork := none, egress := [], egressWork := none, soft := none, hard := [], bus := Bus.init }

theorem offsetsLost_same (s : State) (n : Nat) : Same 0x2000 s
    ((countUp 0 16).foldl (fun (t : State) l => t.modLun (lunKey n l) (fun x => { x with offsets := none })) s) :=
  Same.foldl (fun _ _ ht => modLun_same ht rfl _ _) (Same.refl _ s)

theorem enterReset_get (s : State) (n j : Nat) :
    (s.enterReset n).chan j = if n = j then (s.chan j).emptied else s.chan j := by
  have hbefore : Same 0x2000000010 s (((s.testReset n).stagingAbandon n).resetChanPage n) :=
    resetChanPage_same (stagingAbandon_same (testReset_same (Same.refl _ s) rfl n) rfl n) rfl n
  unfold State.enterReset
  extract_lets u
  rw [(offsetsLost_same u n).chan rfl, modChan_get, hbefore.chan rfl]
  rfl

theorem enterReset_low (s : State) (n : Nat) {a : Nat} (hn : n < 256) (ha : a < 0x60000) :
    (s.enterReset n).reg a = s.reg a := by
  have htest := (testReset_same (m := 0x2000000000) (Same.refl _ s) rfl n).reg_of_regs rfl a
  have hstaging : ((s.testReset n).stagingAbandon n).reg a = (s.testReset n).reg a := by
    unfold State.stagingAbandon State.setArrBit
    split
    · rfl
    · rw [setBit_reg _ _ _ _ _ (by omega), setBit_reg _ _ _ _ _ (by omega), setBit_reg _ _ _ _ _ (by omega)]
  unfold State.enterReset
  extract_lets u
  rw [(offsetsLost_same u n).reg_of_regs rfl a, modChan_reg]
  unfold State.resetChanPage
  rw [setFld_reg, if_neg (by unfold chanPage; omega), setBit_reg _ _ _ _ _ (by unfold chanPage; omega),
    setBit_reg _ _ _ _ _ (by unfold chanPage; omega), hstaging, htest]

/-! The steps of a recovery (R458, R499). -/

theorem recTo_get (s : State) (n : Nat) (r : RecStep) (marked j : Nat) :
    (s.recTo n r marked).chan j = if n = j then { s.chan j with recStep := r } else s.chan j := by
  unfold State.recTo
  split
  · next h =>
    split
    · next hj => rw [← hj, ← h]
    · rfl
  · rw [(traceRec_same (m := 0x8000000010) (Same.refl _ _) rfl ..).chan rfl, modChan_get]

theorem recTo_reg (s : State) (n : Nat) (r : RecStep) (marked : Nat) {a : Nat} (h : traceReg a = false) :
    (s.recTo n r marked).reg a = s.reg a := by
  unfold State.recTo
  split
  · rfl
  · rw [traceRec_reg _ _ _ _ _ _ _ _ h, modChan_reg]

theorem raise_chan (s : State) (k j : Nat) : (s.raise k).chan j = s.chan j :=
  (raise_same (m := 0x38080000010) (Same.refl _ s) rfl k).chan rfl j

theorem raiseReg_replay {n : Nat} (hn : n < 256) : raiseReg (replayAt n) = false := by
  have hlow : replayAt n < 0x10000 := by unfold replayAt; omega
  simp only [raiseReg, traceReg, Bool.or_eq_false_iff, beq_eq_false_iff_ne, Bool.and_eq_false_iff, decide_eq_false_iff_not]
  omega

/-! The log of a fault (R455, R457). -/

/-- A fault is recorded in the status of the recovery, and a microcode fault in its log too. -/
def State.faultNoted (s : State) (n kind addr : Nat) : State :=
  let s := (s.addFld (replayAt n) 31 16 1).setFld (replayAt n) 14 12 kind
  if kind = 1 ∨ kind = 2 then
    ((s.addFld (chanPage n + 0x80C) 31 16 1).setFld (chanPage n + 0x80C) 15 14 kind).setFld (chanPage n + 0x80C) 10 0 addr
  else s

section
variable (s : State) {n : Nat} (kind addr : Nat) (hn : n < 256)

theorem faultNoted_same {m : Nat} (h : 0x10 ||| m = m) : Same m s (s.faultNoted n kind addr) := by
  have hstatus := setFld_same (addFld_same (Same.refl _ s) h (replayAt n) 31 16 1) h (replayAt n) 14 12 kind
  exact Same.ite (setFld_same (setFld_same (addFld_same hstatus h ..) h ..) h ..) hstatus

include hn in
theorem faultNoted_status : (s.faultNoted n kind addr).fld (replayAt n) 14 12 = kind % 8 ∧
    (s.faultNoted n kind addr).fld (replayAt n) 31 16 = min (s.fld (replayAt n) 31 16 + 1) 0xFFFF := by
  have hreg : (s.faultNoted n kind addr).reg (replayAt n) =
      ((s.addFld (replayAt n) 31 16 1).setFld (replayAt n) 14 12 kind).reg (replayAt n) := by
    have hne : chanPage n + 0x80C ≠ replayAt n := by unfold chanPage replayAt; omega
    unfold State.faultNoted
    dsimp only
    split
    · rw [setFld_reg, if_neg hne, setFld_reg, if_neg hne, addFld_reg_other _ _ _ _ hne]
    · rfl
  refine ⟨(fld_of_reg hreg 14 12).trans (setFld_fld _ _ _ _ _ (by decide) (by decide)), (fld_of_reg hreg 31 16).trans ?_⟩
  rw [setFld_fld_other _ _ _ _ _ _ _ _ (by decide) (by decide) (by decide) (.inr (.inr (by decide))),
    addFld_fld _ _ (by decide) (by decide), addStop_one]
  rfl

theorem faultNoted_log (hkind : kind = 1 ∨ kind = 2) : (s.faultNoted n kind addr).fld (chanPage n + 0x80C) 15 14 = kind % 4 ∧
    (s.faultNoted n kind addr).fld (chanPage n + 0x80C) 10 0 = addr % 2 ^ 11 := by
  unfold State.faultNoted
  dsimp only
  rw [if_pos hkind]
  refine ⟨?_, setFld_fld _ _ _ _ _ (by decide) (by decide)⟩
  rw [setFld_fld_other _ _ _ _ _ _ _ _ (by decide) (by decide) (by decide) (.inr (.inr (by decide))),
    setFld_fld _ _ _ _ _ (by decide) (by decide)]
  rfl

end

/-! Without a tag and without flash work a fault marks nothing (R461, R463, R466). -/

theorem lunAtFault_works (s : State) (key : Nat) (glitch : Bool) : (s.lunAtFault key glitch).works = s.works := by
  unfold State.lunAtFault
  dsimp only
  exact (modLun_same (grantsAtDie_same (m := 0x200002000) (Same.refl _ s) rfl ..) rfl ..).works rfl

theorem atFault_faults (w : Work) : w.atFault.ch = w.ch ∧ w.atFault.faults ≤ w.faults + 1 := by
  unfold Work.atFault
  dsimp only
  repeat' split
  all_goals exact ⟨rfl, by simp [Work.restart, Work.again]⟩

theorem faultReads_none {s : State} {n : Nat} (kind : Nat) (h : ∀ e, e ∈ s.works → e.2.ch = n → e.2.faults < 3) :
    s.faultReads n kind = s := by
  have hnone : s.works.filter (fun e => e.2.ch == n && decide (3 ≤ e.2.faults) && e.2.st != .ended) = [] := by
    refine List.filter_eq_nil_iff.2 fun e he hhit => ?_
    simp only [Bool.and_eq_true, beq_iff_eq, decide_eq_true_eq] at hhit
    obtain ⟨⟨hch, hfaults⟩, -⟩ := hhit
    exact absurd (h e he hch) (by omega)
  unfold State.faultReads
  rw [hnone]
  rfl

section
variable {s : State} {n : Nat} (hwork : ∀ e, e ∈ s.works → e.2.ch ≠ n)
include hwork

theorem ownResets_none : s.ownResets n = [] :=
  List.filter_eq_nil_iff.2 fun e he => by simp [hwork e he]

theorem pageOn_none (k : Nat) : s.pageOn k n = none :=
  List.find?_eq_none.2 fun e he => by simp [hwork e he]

theorem faultPhase_none {k : Nat} (hk : k / 64 ≠ n) : s.faultPhase k n = none := by
  unfold State.faultPhase
  dsimp only
  split
  · rfl
  · split
    · rw [pageOn_none hwork]
    · rw [if_pos (by simpa using hk)]

theorem faultPhases_none (htag : ∀ e, e ∈ s.tags → e.1 / 64 ≠ n) :
    (s.tags.filter (fun e => (s.faultPhase e.1 n).isSome)).map Prod.fst = [] := by
  rw [List.filter_eq_nil_iff.2 fun e he => by rw [faultPhase_none hwork (htag e he)]; decide]
  rfl

theorem replayTags_none (htag : ∀ e, e ∈ s.tags → e.1 / 64 ≠ n) : s.replayTags n = [] := by
  unfold State.replayTags
  rw [List.filter_eq_nil_iff.2 fun e he => by rw [pageOn_none hwork]; simp [htag e he]]
  rfl

end

/-- A reset that is issued again is the one work of the channel that a fault finds; its reads have not failed. -/
theorem worksAtFault_faults {s : State} {n : Nat} (h : ∀ e, e ∈ s.works → e.2.ch = n → e.2.faults = 0) :
    ∀ e, e ∈ (s.worksAtFault n).works → e.2.ch = n → e.2.faults < 3 := by
  intro e he hch
  obtain ⟨v, hv, rfl⟩ := List.mem_map.1 he
  dsimp only at hch ⊢
  by_cases hvn : v.2.ch = n
  · rw [if_pos hvn]
    have hzero := h v hv hvn
    have hle := (atFault_faults v.2).2
    show v.2.atFault.faults < 3
    omega
  · rw [if_neg hvn] at hch
    exact absurd hch hvn

/-! The fault of a channel (R191, R455, R458). -/

/-- A channel as a fault finds it; `copy` says that the master is there to refresh its store. -/
def Chan.faulted (c : Chan) (kind : Nat) (copy : Bool) : Chan :=
  { c.truncateMsg with
    replaying := true, recStep := .idle, cal := { c.cal with runs := 0, prev := none }
    before := if c.recStep = .idle then c.st else c.before, trainWhy := none
    loadWhy := if kind = 1 ∨ kind = 2 then some .fault else c.loadWhy
    store := if (kind = 1 ∨ kind = 2) ∧ copy then .loading else c.store, glitch := c.glitch || kind == 4 }

/-- Such a channel in the reset of its recovery. -/
def Chan.stopped (c : Chan) : Chan :=
  { c.emptied with st := if c.st = .absent then .absent else .reset, recStep := .reset }

/-- A fault has been recorded, and holds its channel in channel reset. -/
def State.faultHeld (s : State) (n kind addr : Nat) : State :=
  (((s.faultNoted n kind addr).modChan n (fun c => c.faulted kind (s.ph.master == 3))).enterReset n).modChan n
    (fun c => { c with st := if c.st = .absent then .absent else .reset })

/-- The reset that the channel trained for is issued again (R463). -/
def State.resetReissued (s : State) (why : Option TrainWhy) : State :=
  match why with
  | some (.targetReset t) =>
    if (s.tag t).st == TagState.replaying then
      (s.addWork (Work.new .reset .own (pkAddr (s.tag t).packet) (some t) (s.tag t).stamp)).2 else s
  | _ => s

/-- A fault before its interrupt, of a channel where it marks no tag and no work fails. -/
def State.faultTaken (s : State) (n kind addr : Nat) : State :=
  let s := (((s.faultHeld n kind addr).recTo n .stopping 0).recTo n .reset 0).resetReissued (s.chan n).trainWhy
  (countUp 0 16).foldl (fun s l => s.lunAtFault (lunKey n l) (kind == 4)) (s.worksAtFault n)

section
variable (s : State) (n kind addr : Nat)

theorem faultHeld_same {m : Nat} (h : 0x2000006010 ||| m = m) : Same m s (s.faultHeld n kind addr) :=
  modChan_same (enterReset_same (modChan_same (faultNoted_same s kind addr (up h rfl)) (up h rfl) n _) (up h rfl) n)
    (up h rfl) n _

theorem resetReissued_same {m : Nat} {z t : State} (hk : Same m z t) (h : 0x200000001000 ||| m = m) (why : Option TrainWhy) :
    Same m z (t.resetReissued why) := by
  unfold State.resetReissued
  split
  · exact Same.ite (addWork_same hk h _) hk
  · exact hk

theorem resetReissued_faults {t : State} (why : Option TrainWhy) (h : ∀ e, e ∈ t.works → e.2.ch ≠ n) :
    ∀ e, e ∈ (t.resetReissued why).works → e.2.ch = n → e.2.faults = 0 := by
  intro e he hch
  unfold State.resetReissued at he
  split at he
  · split at he
    · rcases SMap.mem_insert _ _ _ _ he with rfl | hold
      · rfl
      · exact absurd hch (h e hold)
    · exact absurd hch (h e he)
  · exact absurd hch (h e he)

theorem faultTaken_same : Same 0x20a200007010 s (s.faultTaken n kind addr) := by
  have hstopped := recTo_same (m := 0x20a200007010)
    (recTo_same (faultHeld_same s n kind addr rfl) rfl n .stopping 0) rfl n .reset 0
  exact Same.foldl (fun _ _ ht => lunAtFault_same ht rfl _ _)
    (worksAtFault_same (resetReissued_same hstopped rfl (s.chan n).trainWhy) rfl n)

/-- The works move no channel and no register. -/
theorem faultTaken_apart : Same 0x200200003000 (((s.faultHeld n kind addr).recTo n .stopping 0).recTo n .reset 0)
    (s.faultTaken n kind addr) :=
  Same.foldl (fun _ _ ht => lunAtFault_same ht rfl _ _)
    (worksAtFault_same (resetReissued_same (Same.refl _ _) rfl (s.chan n).trainWhy) rfl n)

theorem faultTaken_get (j : Nat) : (s.faultTaken n kind addr).chan j =
    if n = j then ((s.chan j).faulted kind (s.ph.master == 3)).stopped else s.chan j := by
  rw [(faultTaken_apart s n kind addr).chan rfl, recTo_get, recTo_get]
  unfold State.faultHeld
  rw [modChan_get, enterReset_get, modChan_get, (faultNoted_same (m := 0x10) s kind addr rfl).chan rfl]
  split <;> rfl

theorem faultTaken_reg (hn : n < 256) {a : Nat} (ha : keptReg n a ∨ a = replayAt n) :
    (s.faultTaken n kind addr).reg a = (s.faultNoted n kind addr).reg a := by
  have htrace : traceReg a = false := by
    rcases ha with ha | rfl
    · exact raiseReg_trace (raiseReg_page ha.1)
    · exact raiseReg_trace (raiseReg_replay hn)
  rw [(faultTaken_apart s n kind addr).reg_of_regs rfl a, recTo_reg _ _ _ _ htrace, recTo_reg _ _ _ _ htrace]
  unfold State.faultHeld
  rw [modChan_reg]
  rcases ha with ha | rfl
  · rw [enterReset_reg hn _ ha, modChan_reg]
  · rw [enterReset_low _ _ hn (by unfold replayAt; omega), modChan_reg]

end

/-- The fault of a channel that holds no tag and no work raises its interrupt, and refreshes the store where no master is VALID
to do it (R191, R458). -/
theorem fault_eq {s : State} {n : Nat} (hquiet : quietChan s n) (kind addr : Nat) : s.fault n kind addr =
    if (kind == 1 || kind == 2) && !(s.ph.master == 3) then ((s.faultTaken n kind addr).raise 843).refresh n
    else (s.faultTaken n kind addr).raise 843 := by
  obtain ⟨htag, hwork, hsurvey⟩ := hquiet
  unfold State.fault
  extract_lets p s1 s2 s3 copy again s4 s5 marked s6 s7 s8 s9 s10
  have hnoted : Same 0x10 s (s.faultNoted n kind addr) := faultNoted_same s kind addr rfl
  have hs3 : s3 = s.faultNoted n kind addr := by
    have hs2 : s2 = s.faultNoted n kind addr := rfl
    have habandon : s2.abandonSurvey n = s2 := by
      unfold State.abandonSurvey
      exact if_pos (.inl (by rw [hs2, hnoted.chan rfl]; exact hsurvey))
    unfold s3
    rw [habandon, hs2]
    unfold State.dropResets
    rw [ownResets_none (by rw [hnoted.works rfl]; exact hwork)]
    rfl
  clear_value s3
  subst hs3
  have hcopy : copy = (s.ph.master == 3) := by unfold copy; rw [hnoted.ph rfl]
  have hs5 : s5 = s.faultHeld n kind addr := by
    unfold State.faultHeld
    rw [← hcopy]
    rfl
  clear_value s5
  subst hs5
  have hheld : Same 0x2000006010 s (s.faultHeld n kind addr) := faultHeld_same s n kind addr rfl
  have hmarked : marked = [] :=
    faultPhases_none (by rw [hheld.works rfl]; exact hwork) (by rw [hheld.tags rfl]; exact htag)
  clear_value marked
  subst hmarked
  have hs6 : s6 = ((s.faultHeld n kind addr).recTo n .stopping 0).recTo n .reset 0 := by
    unfold s6
    rw [List.foldl_nil, List.length_nil]
  clear_value s6
  have h6 : Same 0xa000006010 s s6 := by
    rw [hs6]
    exact recTo_same (recTo_same (faultHeld_same s n kind addr rfl) rfl n _ _) rfl n _ _
  have hs7 : s7 = s6.resetReissued (s.chan n).trainWhy := by
    unfold s7 again State.resetReissued
    rw [hnoted.chan rfl]
    cases (s.chan n).trainWhy with
    | none => rfl
    | some why => cases why <;> rfl
  have hs9 : s9 = s.faultTaken n kind addr := by
    unfold s9 s8 State.faultTaken
    rw [hs7, hs6]
  have hworks9 : s9.works = s8.works := by
    unfold s9
    generalize s8 = v
    induction countUp 0 16 generalizing v with
    | nil => rfl
    | cons l ls ih => exact (ih _).trans (lunAtFault_works ..)
  have hfaults := resetReissued_faults n (t := s6) (s.chan n).trainWhy (by rw [h6.works rfl]; exact hwork)
  have hreads : s9.faultReads n kind = s9 := by
    refine faultReads_none kind ?_
    rw [hworks9]
    exact worksAtFault_faults (hs7 ▸ hfaults)
  unfold s10
  rw [hreads, hs9, hcopy]

/-- The refresh of a channel that a microcode fault has stopped waits for a VALID master (R191). -/
theorem refresh_waits {s : State} {n : Nat} (hwhy : (s.chan n).loadWhy = some .fault) (hmaster : s.ph.master ≠ 3)
    (hstep : (s.chan n).recStep = .reset) :
    s.refresh n = (s.recTo n .refreshWait (s.replayingTags n)).raise 828 := by
  unfold State.refresh
  extract_lets c r s1 s2
  rw [if_neg (by unfold c; simp [hwhy]), if_pos (by simpa using hmaster), if_neg (by unfold c; simp [hstep])]

theorem raised_pending {s : State} (hs : s.hostWorks = true) {k : Nat} (hk : 800 ≤ k) (he : s.srcExists k = true) (j : Nat) :
    isPending (s.raise k) j = (decide (k = j) || isPending s j) :=
  raise_isPending s k j hs he (.inr (.inr hk))

/-- An edge of a source outside the bays clears no pending bit. -/
theorem raise_keeps (s : State) {k : Nat} (hk : 800 ≤ k) {j : Nat} (hj : isPending s j = true) :
    isPending (s.raise k) j = true := by
  unfold State.raise
  split
  · exact hj
  · next he =>
    have hlt := srcExists_lt (s := s) (n := k) (by simpa using he)
    have hbay : (decide (768 ≤ k) && decide (k < 800)) = false := by simp; omega
    dsimp only
    simp only [hbay, Bool.false_and, Bool.false_eq_true, if_false]
    split
    · rw [pendEdge_isPending s k j hlt, hj, Bool.or_true]
    · exact hj

theorem srcExists_fault (s : State) : s.srcExists 843 = true ∧ s.srcExists 844 = true := by
  have hreal : sourceReal 843 = true ∧ sourceReal 844 = true := by decide
  obtain ⟨hstopped, hended⟩ := hreal
  simp [State.srcExists, hstopped, hended]

/-- The step that a fault leaves its recovery in: the wait for a VALID master after a microcode fault without one (R191). -/
def faultStep (kind : Nat) (copy : Bool) : RecStep :=
  if (kind == 1 || kind == 2) && !copy then .refreshWait else .reset

/-- What the fault of a channel without tags and works leaves (R191, R455, R458). -/
theorem fault_leaves {s : State} {n : Nat} (hn : n < 256) (hquiet : quietChan s n) (hs : s.hostWorks = true)
    (kind addr : Nat) :
    (s.fault n kind addr).chan n =
        { ((s.chan n).faulted kind (s.ph.master == 3)).stopped with recStep := faultStep kind (s.ph.master == 3) } ∧
      (∀ j, j ≠ n → (s.fault n kind addr).chan j = s.chan j) ∧
      (∀ a, keptReg n a ∨ a = replayAt n → (s.fault n kind addr).reg a = (s.faultNoted n kind addr).reg a) ∧
      isPending (s.fault n kind addr) 843 = true := by
  have htaken := faultTaken_same s n kind addr
  have hget := faultTaken_get s n kind addr
  have hreg {a : Nat} := faultTaken_reg s n kind addr hn (a := a)
  rw [fault_eq hquiet]
  generalize s.faultTaken n kind addr = v at htaken hget hreg ⊢
  have hworks : v.hostWorks = true := (htaken.hostWorks rfl rfl rfl).trans hs
  obtain ⟨hexists, -⟩ := srcExists_fault v
  have hpend : isPending (v.raise 843) 843 = true := by rw [raised_pending hworks (by decide) hexists]; rfl
  have hraised (a : Nat) (ha : keptReg n a ∨ a = replayAt n) : raiseReg a = false := by
    rcases ha with ha | rfl
    · exact raiseReg_page ha.1
    · exact raiseReg_replay hn
  have hown : (v.raise 843).chan n = ((s.chan n).faulted kind (s.ph.master == 3)).stopped := by
    rw [raise_chan, hget, if_pos rfl]
  have hmaster : (v.raise 843).ph = s.ph :=
    ((raise_same (m := 0x38080000010) (Same.refl _ v) rfl 843).ph rfl).trans (htaken.ph rfl)
  unfold faultStep
  split
  · next hwait =>
    simp only [Bool.and_eq_true, Bool.or_eq_true, beq_iff_eq, Bool.not_eq_true', beq_eq_false_iff_ne] at hwait
    obtain ⟨hkind, hnone⟩ := hwait
    rw [refresh_waits (by rw [hown]; exact if_pos hkind) (by rw [hmaster]; exact hnone) (by rw [hown]; rfl)]
    refine ⟨?_, fun j hj => ?_, fun a ha => ?_, ?_⟩
    · rw [raise_chan, recTo_get, if_pos rfl, hown]
    · rw [raise_chan, recTo_get, if_neg hj.symm, raise_chan, hget, if_neg hj.symm]
    · rw [raise_reg _ _ _ (hraised a ha), recTo_reg _ _ _ _ (raiseReg_trace (hraised a ha)),
        raise_reg _ _ _ (hraised a ha), hreg ha]
    · refine raise_keeps _ (by decide) ?_
      unfold isPending at hpend ⊢
      rw [(recTo_same (m := 0x8000004010) (Same.refl _ (v.raise 843)) rfl ..).irq rfl]
      exact hpend
  · refine ⟨hown, fun j hj => ?_, fun a ha => ?_, hpend⟩
    · rw [raise_chan, hget, if_neg hj.symm]
    · rw [raise_reg _ _ _ (hraised a ha), hreg ha]

/-! The commands of a fault (R159, R179, R457). -/

theorem hostOn_of_hostWorks {s : State} (hs : s.hostWorks = true) : s.hostOn = true := by
  simp only [State.hostWorks, Bool.and_eq_true] at hs
  exact hs.1

section
variable {s : State} {n : Nat} (hn : n < s.nch)
include hn

theorem exec_microwordFault {c : Instr} {addr : BitVec 11} {kind : Nat} (hs : s.hostWorks = true)
    (hreset : (s.chan n).inReset = false) (hstore : (s.chan n).store = .loaded)
    (hc : (c = .illegalMicroword n addr ∧ kind = 1) ∨
      (c = .doldrumsStallTimeout n addr ∧ kind = 2 ∧ s.stallCounts n = true)) :
    exec c s = .next (s.fault n kind addr.toNat) := by
  have hcan : s.canFault n = true := by simp [State.canFault, hostOn_of_hostWorks hs, hn, hreset]
  rcases hc with ⟨rfl, rfl⟩ | ⟨rfl, rfl, hstall⟩
  · show execIllegalMicroword n addr s = _
    simp [execIllegalMicroword, hcan, hstore]
  · show execDoldrumsStallTimeout n addr s = _
    simp [execDoldrumsStallTimeout, hcan, hstore, hstall]

omit hn in
theorem exec_doldrumsStallTimeout_idle (addr : BitVec 11) (hstall : s.stallCounts n = false) :
    exec (.doldrumsStallTimeout n addr) s = .next s := by
  show execDoldrumsStallTimeout n addr s = _
  simp [execDoldrumsStallTimeout, hstall]

theorem exec_replayFaultRequest (hs : s.serving = true) :
    exec (.replayFaultRequest n) s = .next (s.faultRequest n) := by
  show execReplayFaultRequest n s = _
  simp [execReplayFaultRequest, asleep_of_serving hs, hs, hn]

theorem exec_channelResetEnd (hs : s.hostOn = true) : exec (.channelResetEnd n) s = .next (s.resetEnd n) := by
  show execChannelResetEnd n s = _
  simp [execChannelResetEnd, hs, hn]

theorem exec_replayEnd (hs : s.hostOn = true) : exec (.replayEnd n) s = .next (s.replayEnd n) := by
  show execReplayEnd n s = _
  simp [execReplayEnd, hs, hn]

end

theorem flashPins_parked {s : State} {n : Nat} (h : (s.chan n).inReset = true) : s.flashPins n = FlashPins.parked := by
  unfold State.flashPins
  exact if_pos (by simp [h])

/-- The pins of a channel that runs single-ended (R474, R525). -/
theorem flashPins_singleEnded {s : State} {n : Nat} (hreset : (s.chan n).inReset = false) (hbay : (s.bay (n / 8)).st = .on)
    (hpower : s.ph.powered = true) (hblk : s.ph.blkReset = false) (hlull : s.irq.lull ≠ .lull)
    (hwaking : s.irq.lull ≠ .waking) (hrate : (s.chan n).rate ≤ 16) : s.flashPins n = (s.chan n).bus.pins.levels true := by
  unfold State.flashPins
  dsimp only
  rw [if_neg (by simp [hreset, hbay, hpower, hblk, hlull, hwaking])]
  exact congrArg _ (decide_eq_true hrate)

/-! Channel reset ends (R458, R459). -/

/-- A channel that leaves reset moves its clock, its trims and its bus alone (R16, R427). -/
theorem leaveReset_talks (s : State) (n : Nat) : (∀ a, raiseReg a = false → (s.leaveReset n).reg a = s.reg a) ∧
    (s.leaveReset n).chan n = ((s.chan n).released (s.reg 0x50000) s.now).talked ((s.leaveReset n).chan n) ∧
    (∀ j, j ≠ n → (s.leaveReset n).chan j = s.chan j) := by
  rw [leaveReset_eq]
  have htalks := runEntry_talks (s.modChan n (fun c => c.released (s.reg 0x50000) s.now)) n 0 2048
  refine ⟨fun a ha => (htalks.reg a ha).trans (modChan_reg ..), htalks.own.trans ?_,
    fun j hj => (htalks.others j hj).trans ?_⟩
  · rw [modChan_get, if_pos rfl]
  · rw [modChan_get, if_neg hj.symm]

theorem ownFeatures_talks (s : State) (n : Nat) (l : List (BitVec 8)) : Talks n s (s.ownFeatures n l) := by
  unfold State.ownFeatures
  exact Talks.foldl (fun s t => Talks.foldl (fun s a => (traceRec_talks ..).trans (busJob_talks ..)) _ s) _ s

/-- A retraining moves its own channel alone. -/
theorem retrainNow_others (s : State) {n : Nat} (why : TrainWhy) (step2 : Bool) {j : Nat} (hj : j ≠ n) :
    (s.retrainNow n why step2).chan j = s.chan j := by
  unfold State.retrainNow State.beginTrain
  dsimp only
  split
  · rw [State.stepTwo, enterReset_get, if_neg hj.symm, (ownFeatures_talks ..).others j hj, modChan_get, if_neg hj.symm,
      noStepFailed_chan]
  · rw [(startTrain_talks ..).others j hj, modChan_get, if_neg hj.symm, noStepFailed_chan]

/-- The channel resets a list of its targets. -/
def State.resetAll (s : State) (n : Nat) (l : List Nat) : State := l.foldl (fun s t => s.askReset n t) s

theorem resetAll_chan (s : State) (n : Nat) (l : List Nat) (j : Nat) : (s.resetAll n l).chan j = s.chan j :=
  (Same.foldl (m := 0x338200001010) (fun _ x ht => askReset_same ht rfl n x) (Same.refl _ s)).chan rfl j

/-- Every target of the list has a reset of its own, under a number of its own (R459). -/
theorem resetAll_asks (n : Nat) (l : List Nat) (s : State) :
    (∀ id, id < s.nextWork → (s.resetAll n l).work id = s.work id) ∧
    ∀ x, x ∈ l → ∃ id w, (s.resetAll n l).work id = some w ∧ w.kind = .reset ∧ w.tag = none ∧ w.addr = lunAddr n (2 * x) ∧
      w.adm = .requested := by
  induction l generalizing s with
  | nil => exact ⟨fun _ _ => rfl, fun x hx => absurd hx List.not_mem_nil⟩
  | cons t ts ih =>
    obtain ⟨-, hown, -, hothers, -, hnext⟩ := askReset_asks s n t
    obtain ⟨hkept, hrest⟩ := ih (s.askReset n t)
    refine ⟨fun id hid => (hkept id (by omega)).trans (hothers id (by omega)), fun x hx => ?_⟩
    rcases List.mem_cons.1 hx with rfl | hx
    · exact ⟨_, _, (hkept s.nextWork (by omega)).trans hown, rfl, rfl, rfl, rfl⟩
    · exact hrest x hx

/-- A channel that has left the reset of its recovery, with the step that comes next. -/
def State.recovered (s : State) (n : Nat) (r : RecStep) (marked : Nat) : State := (s.leaveReset n).recTo n r marked

theorem recovered_chan (s : State) (n : Nat) (r : RecStep) (marked : Nat) :
    (s.recovered n r marked).chan n = { ((s.chan n).released (s.reg 0x50000) s.now).talked ((s.leaveReset n).chan n) with
      recStep := r } := by
  obtain ⟨-, hown, -⟩ := leaveReset_talks s n
  unfold State.recovered
  rw [recTo_get, if_pos rfl]
  conv_lhs => rw [hown]

theorem recovered_others (s : State) {n : Nat} (r : RecStep) (marked : Nat) {j : Nat} (hj : j ≠ n) :
    (s.recovered n r marked).chan j = s.chan j := by
  obtain ⟨-, -, hothers⟩ := leaveReset_talks s n
  unfold State.recovered
  rw [recTo_get, if_neg hj.symm, hothers j hj]

theorem recovered_reg (s : State) (n : Nat) (r : RecStep) (marked : Nat) {a : Nat} (ha : raiseReg a = false) :
    (s.recovered n r marked).reg a = s.reg a := by
  obtain ⟨hreg, -, -⟩ := leaveReset_talks s n
  unfold State.recovered
  rw [recTo_reg _ _ _ _ (raiseReg_trace ha), hreg a ha]

theorem presentTargets_of_page {s t : State} {n : Nat}
    (h : ∀ a, 0x1000000 ≤ a → a < chanPage n + 0x70 → t.reg a = s.reg a) : t.presentTargets n = s.presentTargets n :=
  SameTargets.presentTargets fun a ha ha' => h a (by unfold chanPage at ha; omega) ha'

section
variable {s : State} {n : Nat} (hstep : (s.chan n).recStep = .reset) (hreset : (s.chan n).inReset = true)
  (hwhy : (s.chan n).loadWhy ≠ some .fault) (hglitch : (s.chan n).glitch = false) (hstore : (s.chan n).store ≠ .loading)

include hstep hreset hwhy hglitch hstore

/-- A faulted channel that does not train again is as it was before its first training (R458). -/
theorem resetEnd_rests (hrun : (s.chan n).before ≠ .running) (htrain : (s.chan n).before ≠ .training) :
    s.resetEnd n = (s.recovered n .idle 0).modChan n (fun c => { c with
      st := if c.before = .absent then .absent else .unconfigured, replaying := false }) := by
  unfold State.resetEnd
  dsimp only
  rw [if_neg (by simp [hstep, hreset, hwhy, hglitch, hstore]), if_neg (by simp [hrun, htrain])]
  rfl

section
variable (hn : n < 256) (hbefore : (s.chan n).before = .running ∨ (s.chan n).before = .training)
include hn hbefore

/-- A faulted channel trains again; after a power glitch its targets are reset first (R458, R459). -/
theorem resetEnd_trains : ∃ k, s.resetEnd n =
    if (s.fld (replayAt n) 14 12 == 4 && !(s.presentTargets n).isEmpty) = true then
      (((s.recovered n .retrain k).noStepFailed n).modChan n (fun c => c.toTrain c.rate c.mode .fault)).resetAll n
        (s.presentTargets n)
    else (s.recovered n .retrain k).retrainNow n .fault false := by
  obtain ⟨hreg, -, -⟩ := leaveReset_talks s n
  have hfld : (s.leaveReset n).fld (replayAt n) 14 12 = s.fld (replayAt n) 14 12 :=
    fld_of_reg (hreg _ (raiseReg_replay hn)) 14 12
  have htargets : (s.leaveReset n).presentTargets n = s.presentTargets n :=
    presentTargets_of_page fun a ha _ => hreg a (raiseReg_page ha)
  refine ⟨(s.leaveReset n).replayingTags n, ?_⟩
  have htargets' : ((((s.recovered n .retrain ((s.leaveReset n).replayingTags n)).noStepFailed n).modChan n
      (fun c => c.toTrain c.rate c.mode .fault))).presentTargets n = s.presentTargets n :=
    presentTargets_of_page fun a ha ha' => by
      rw [modChan_reg, noStepFailed_page _ (by omega), recovered_reg _ _ _ _ (raiseReg_page ha)]
  unfold State.resetEnd
  dsimp only
  rw [if_neg (by simp [hstep, hreset, hwhy, hglitch, hstore]), if_pos hbefore, hfld, htargets]
  unfold State.recovered at htargets' ⊢
  rw [htargets']
  rfl

theorem resetEnd_glitch (hpower : s.fld (replayAt n) 14 12 = 4) (hsome : s.presentTargets n ≠ []) : ∃ k, s.resetEnd n =
    (((s.recovered n .retrain k).noStepFailed n).modChan n (fun c => c.toTrain c.rate c.mode .fault)).resetAll n
      (s.presentTargets n) := by
  obtain ⟨k, htrains⟩ := resetEnd_trains hstep hreset hwhy hglitch hstore hn hbefore
  exact ⟨k, htrains.trans (if_pos (by simp [hpower, hsome]))⟩

theorem resetEnd_retrains (hplain : ¬ (s.fld (replayAt n) 14 12 = 4 ∧ s.presentTargets n ≠ [])) : ∃ k, s.resetEnd n =
    (s.recovered n .retrain k).retrainNow n .fault false := by
  obtain ⟨k, htrains⟩ := resetEnd_trains hstep hreset hwhy hglitch hstore hn hbefore
  exact ⟨k, htrains.trans (if_neg (by simpa using hplain))⟩

end

end

/-- A retraining keeps the step of the recovery. -/
theorem retrainNow_recStep (s : State) {n : Nat} (hn : n < 256) (why : TrainWhy) (step2 : Bool) :
    ((s.retrainNow n why step2).chan n).recStep = (s.chan n).recStep := by
  have hstill := beginTrain_chan hn (s.noStepFailed n) (s.chan n).rate (s.chan n).mode why
    (step2 || decide ((s.chan n).rate ≤ 72))
  rw [noStepFailed_chan] at hstill
  refine (congrArg Chan.recStep hstill).trans ?_
  unfold Chan.begun
  split <;> rfl

/-- Channel `c` trains for a recovery, at the rate and mode of `d` (R137, R458). -/
def Chan.retraining (c d : Chan) : Prop :=
  c.st = .training ∧ c.recStep = .retrain ∧ c.trainRate = d.rate ∧ c.trainMode = (if d.rate = 0 then 1 else d.mode) ∧
    c.trainWhy = some .fault

theorem recovered_retrains (s : State) {n : Nat} (hn : n < 256) (k : Nat) :
    let t := (s.recovered n .retrain k).retrainNow n .fault false
    (t.chan n).live = (s.chan n).target ∧ (∀ j, j ≠ n → t.chan j = s.chan j) ∧ (t.chan n).retraining (s.chan n) ∧
      (t.chan n).inReset = decide ((s.chan n).rate ≤ 72) := by
  have hown := recovered_chan s n .retrain k
  have hothers {j : Nat} := recovered_others s (n := n) .retrain k (j := j)
  generalize s.recovered n .retrain k = v at hown hothers ⊢
  obtain ⟨hst, hrate, hmode, htwhy, hinReset, hlive, -⟩ := retrainNow_settings (s := v) hn .fault false
  have hrec := retrainNow_recStep v hn .fault false
  rw [hown] at hrate hmode hinReset hlive hrec
  exact ⟨hlive, fun j hj => (retrainNow_others v .fault false hj).trans (hothers hj), ⟨hst, hrec, hrate, hmode, htwhy⟩,
    by rw [hinReset]; exact Bool.or_false _⟩

theorem recovered_resets (s : State) (n k : Nat) :
    let t := (((s.recovered n .retrain k).noStepFailed n).modChan n (fun c => c.toTrain c.rate c.mode .fault)).resetAll n
      (s.presentTargets n)
    (t.chan n).live = (s.chan n).target ∧ (∀ j, j ≠ n → t.chan j = s.chan j) ∧ (t.chan n).retraining (s.chan n) ∧
      (t.chan n).inReset = false := by
  intro t
  have hown : t.chan n = (((s.recovered n .retrain k).chan n).toTrain ((s.recovered n .retrain k).chan n).rate
      ((s.recovered n .retrain k).chan n).mode .fault) := by
    unfold t
    rw [resetAll_chan, modChan_get, if_pos rfl, noStepFailed_chan]
  rw [recovered_chan] at hown
  rw [hown]
  refine ⟨rfl, fun j hj => ?_, ⟨rfl, rfl, rfl, rfl, rfl⟩, rfl⟩
  unfold t
  rw [resetAll_chan, modChan_get, if_neg hj.symm, noStepFailed_chan, recovered_others s .retrain k hj]

/-! Replay ends (R458, R544). -/

/-- The replay of a channel without tags ends and raises its interrupt. -/
theorem replayEnd_ends {s : State} {n : Nat} (hquiet : quietChan s n) (hs : s.hostWorks = true)
    (hstep : (s.chan n).recStep = .replay) :
    (s.replayEnd n).chan n = { s.chan n with recStep := .idle, replaying := false } ∧
      isPending (s.replayEnd n) 844 = true ∧ (∀ j, j ≠ n → (s.replayEnd n).chan j = s.chan j) := by
  obtain ⟨htag, hwork, -⟩ := hquiet
  unfold State.replayEnd
  rw [if_neg (by simp [hstep, replayTags_none hwork htag])]
  extract_lets u
  have hends : Same 0x8000004010 u ((u.recTo n .idle 0).modChan n (fun c => { c with replaying := false })) :=
    modChan_same (recTo_same (Same.refl _ u) rfl n .idle 0) rfl n _
  have hworks : ((u.recTo n .idle 0).modChan n (fun c => { c with replaying := false })).hostWorks = true :=
    (hends.hostWorks rfl rfl rfl).trans hs
  refine ⟨?_, ?_, fun j hj => ?_⟩
  · rw [raise_chan, modChan_get, if_pos rfl, recTo_get, if_pos rfl]
    rfl
  · rw [raised_pending hworks (by decide) (srcExists_fault _).2]
    rfl
  · rw [raise_chan, modChan_get, if_neg hj.symm, recTo_get, if_neg hj.symm]
    rfl

end Sys2Proof.Machine
end

section
/-! What a fault does to a channel that holds no tag and no flash work, and how its recovery ends. -/

namespace Sys2Proof
open Machine

/-- Settles O10, clause by clause: the log, the reset and the interrupt of a fault, the pins, and the ends of the channel reset
and of the replay. -/
theorem channelFaultsComplete : Obligations.ChannelFaultsComplete := by
  unfold Obligations.ChannelFaultsComplete
  intro s n hn hquiet
  have hlt : n < 256 := Nat.lt_of_lt_of_le hn (channels_le s.build)
  refine ⟨fun c addr kind hs hreset hstore hc => ?_, fun hreset hbay hpower hblk hlull hwaking hrate => ?_,
    fun addr hstall => exec_doldrumsStallTimeout_idle addr hstall, fun hs hst hstep hreset => ?_, fun hs hbusy => ?_,
    fun hs hstep hreset hwhy hglitch hstore => ⟨_, exec_channelResetEnd hn hs, ?_⟩,
    fun hs hstep => ⟨_, exec_replayEnd hn (hostOn_of_hostWorks hs), ?_⟩⟩
  · have hkind : kind = 1 ∨ kind = 2 := hc.imp And.right fun h => h.2.1
    obtain ⟨hown, hothers, hreg, hpend⟩ := fault_leaves hlt hquiet hs kind addr.toNat
    have hstatus := hreg _ (.inr rfl)
    have hlog := hreg (chanPage n + 0x80C) (.inl (by unfold keptReg chanPage; omega))
    obtain ⟨hcause, hcount⟩ := faultNoted_status s kind addr.toNat hlt
    obtain ⟨hlogged, haddr⟩ := faultNoted_log s (n := n) kind addr.toNat hkind
    have hsmall : kind % 8 = kind ∧ kind % 4 = kind := by omega
    have hinReset : ((s.fault n kind addr.toNat).chan n).inReset = true := by rw [hown]; rfl
    refine ⟨_, exec_microwordFault hn hs hreset hstore hc, ((fld_of_reg hstatus 14 12).trans hcause).trans hsmall.1,
      (fld_of_reg hstatus 31 16).trans hcount, ((fld_of_reg hlog 15 14).trans hlogged).trans hsmall.2,
      ((fld_of_reg hlog 10 0).trans haddr).trans (Nat.mod_eq_of_lt addr.isLt), hinReset, flashPins_parked hinReset, ?_⟩
    rw [hown]
    refine ⟨?_, if_pos hkind, rfl, ?_, rfl, hpend, hothers⟩
    · show (if (kind = 1 ∨ kind = 2) ∧ (s.ph.master == 3) = true then StoreState.loading else (s.chan n).store) = _
      simp [hkind, hstore]
    · show faultStep kind (s.ph.master == 3) = _
      unfold faultStep
      rcases hkind with rfl | rfl <;> by_cases hmaster : s.ph.master = 3 <;> simp [hmaster]
  · rw [flashPins_singleEnded hreset hbay hpower hblk hlull hwaking hrate]
    exact ⟨rfl, rfl, rfl⟩
  · obtain ⟨hown, hothers, hreg, hpend⟩ := fault_leaves hlt hquiet (hostWorks_of_serving hs) 5 0
    obtain ⟨hcause, -⟩ := faultNoted_status s 5 0 hlt
    have htaken : s.faultRequest n = s.fault n 5 0 := if_pos ⟨hst, hstep, by rw [hreset]; rfl⟩
    have hstatus := hreg _ (.inr rfl)
    refine ⟨s.fault n 5 0, by rw [exec_replayFaultRequest hn hs, htaken], (fld_of_reg hstatus 14 12).trans hcause, ?_⟩
    rw [hown]
    refine ⟨?_, ?_, rfl, rfl, rfl, rfl, hpend, hothers⟩
    · have hkeeps : (s.chan n).truncateMsg.st = .running := (congrArg Chan.st (truncateMsg_still _)).trans hst
      show (if (s.chan n).truncateMsg.st = .absent then ChanState.absent else .reset) = _
      rw [hkeeps]
      rfl
    · show (if (s.chan n).recStep = .idle then (s.chan n).st else (s.chan n).before) = _
      rw [if_pos hstep, hst]
  · have hignored : s.faultRequest n = s.setBit (replayAt n + 4) 31 true := if_neg (by simpa using hbusy)
    have hrequest : replayAt n + 4 = 0x3004 + n * 8 := by unfold replayAt; omega
    rw [exec_replayFaultRequest hn hs, hignored, hrequest]
  · by_cases hbefore : (s.chan n).before = .running ∨ (s.chan n).before = .training
    · by_cases hpower : s.fld (replayAt n) 14 12 = 4 ∧ s.presentTargets n ≠ []
      · obtain ⟨k, heq⟩ := resetEnd_glitch hstep hreset hwhy hglitch hstore hlt hbefore hpower.1 hpower.2
        obtain ⟨hlive, hothers, ⟨hst, hrec, hrate, hmode, htwhy⟩, hinReset⟩ := recovered_resets s n k
        rw [heq]
        exact ⟨hlive, hothers, fun _ => ⟨hst, hrec, hrate, hmode, htwhy, fun h => absurd hpower.1 h,
          fun _ _ => ⟨hinReset, (resetAll_asks n _ _).2⟩⟩, fun hrun htrain => absurd hbefore (by simp [hrun, htrain])⟩
      · obtain ⟨k, heq⟩ := resetEnd_retrains hstep hreset hwhy hglitch hstore hlt hbefore hpower
        obtain ⟨hlive, hothers, ⟨hst, hrec, hrate, hmode, htwhy⟩, hinReset⟩ := recovered_retrains s hlt k
        rw [heq]
        exact ⟨hlive, hothers, fun _ => ⟨hst, hrec, hrate, hmode, htwhy, fun _ => hinReset,
          fun h hsome => absurd ⟨h, hsome⟩ hpower⟩, fun hrun htrain => absurd hbefore (by simp [hrun, htrain])⟩
    · have hrun : (s.chan n).before ≠ .running := fun h => hbefore (.inl h)
      have htrain : (s.chan n).before ≠ .training := fun h => hbefore (.inr h)
      rw [resetEnd_rests hstep hreset hwhy hglitch hstore hrun htrain]
      refine ⟨?_, fun j hj => ?_, fun h => absurd h hbefore, fun _ _ => ?_⟩
      · rw [modChan_get, if_pos rfl, recovered_chan]
        rfl
      · rw [modChan_get, if_neg hj.symm, recovered_others s .idle 0 hj]
      · rw [modChan_get, if_pos rfl, recovered_chan]
        exact ⟨rfl, rfl, rfl, rfl⟩
  · obtain ⟨hown, hpend, hothers⟩ := replayEnd_ends hquiet hs hstep
    rw [hown]
    exact ⟨rfl, rfl, hpend, hothers⟩

end Sys2Proof
end
